-- ==== Sys2Proof/Word.lean ====
section
/-!
DEFINITION. Word.lean: the word types of the block and sparse tables.
-/
namespace Sys2Proof

/-- A register word: registers are 32 bits wide (R4). -/
abbrev Word := BitVec 32

/-- A byte of a frame, of the NVM or of host memory. -/
abbrev Byte := BitVec 8

/-- A sparse table: key and value pairs in rising order of keys. Each table has one default value, which an unlisted key
has and which no listed entry holds. -/
abbrev Tab (α : Type) := List (Nat × α)

end Sys2Proof
end

