-- ==== Sys2Proof/Syntax.lean ====
section
/-!
DEFINITION. Syntax.lean: the commands the block takes from outside, one constructor for each row of the spec's opcode
table, with the operands the model gives the row (the table gives none). Operands are: the requester and the value of
a register write; the unit, port, lane or queue an event belongs to; and what the outside world supplies with the
event (octets of a frame, a measurement, bytes read from host memory or from a module, a verdict of a partner).
-/
namespace Sys2Proof

/-- The requesters of R285, in the order of their codes 0 to 9. -/
inductive Req where
  /-- Zolliwin. -/
  | z
  /-- Zolliwin in secure context. -/
  | zs
  /-- PF0. -/
  | pf0
  /-- PF0 with a secure SPDM session. -/
  | pf0s
  /-- PF1. -/
  | pf1
  /-- PF2. -/
  | pf2
  /-- PF3. -/
  | pf3
  /-- SMBus. -/
  | smb
  /-- Table DMA. -/
  | dma
  /-- Option loader. -/
  | opt
deriving DecidableEq, Repr

/-- The boundaries of R9 at which a staged field takes effect, other than `now` and `epoch`. -/
inductive Boundary where
  /-- The next packet boundary on the path of an aisle (`pkt`). -/
  | pktAisle
  /-- The next packet boundary on the path of a quarter (`pkt`). -/
  | pktQtr
  /-- The next packet boundary in the switch core (`pkt`). -/
  | pktSwc
  /-- The next packet boundary at a port of the switch core (`pkt`). -/
  | pktPort
  /-- The next frame on a port (`frm`). -/
  | frmPort
  /-- The start of the next hours-list cycle of a port (`gate`). -/
  | gatePort
deriving DecidableEq, Repr

/-- How a register read comes, and its address (R274, R278): a request through a window, with its access shape; or an SMBus transaction,
with its command code. -/
inductive ReadAt where
  | window (req : Req) (shapeOk : Bool) (addr : Nat)
  | smbus (code : BitVec 8) (addr : Nat)
deriving DecidableEq, Repr

/-- What begins an SMBus write (R278): its command code and its byte count. -/
structure SmbHead where
  code : BitVec 8
  count : Nat
deriving DecidableEq, Repr

/-- A negotiation that completes (R43): port, and what the partner sent: the technology abilities of its base page (MEDIA, width,
LANE_RATE), its RS-FEC ability, and its next pages, each a message page (true) or an unformatted one. -/
structure Negotiation where
  port : Fin 512
  abilities : List (Nat × Nat × Nat)
  rsFec : Bool
  pages : List (Bool × BitVec 48)
deriving DecidableEq, Repr

/-- A scan of the site chain (R49, R52): PRSL, INTL, RSV_IN0 and RSV_IN1 of each site; the CMIS flags that a module answers with where they
are read. -/
structure ChainScan where
  inf : List (Bool × Bool × Bool × Bool)
  flags : List (List Byte)
deriving DecidableEq, Repr

/-- What the device reads of a module (R45, R53): identity, and the host-side settings it advertises for each lane. -/
structure ModuleId where
  data : List Byte
  hostEq : List (List Byte)
deriving DecidableEq, Repr

/-- A measurement of REFCLK (R307, R316): edges of REFCLK ÷ 16 in 1,024 CLK_AON cycles; whether the NVM responds to the option loader. -/
structure RefMeas where
  count : Nat
  nvm : Bool
deriving DecidableEq, Repr

/-- A function of the host, and MSI-X Enable of it as the host leaves it (R300). -/
structure MsixFn where
  pf : Fin 4
  enable : Bool
deriving DecidableEq, Repr

/-- A microcoded engine: hewer `h` of aisle `a`, or the protocol engine. -/
inductive Eng where
  | hewer (a : Fin 16) (h : Fin 32)
  | pe
deriving DecidableEq, Repr

/-- The transports of SPDM (R402). -/
inductive Transport where
  | doe
  | mctp
deriving DecidableEq, Repr

/-- How an SPDM request came: the session whose keys protect it, if any; what the check it calls for finds (that the signature and the verify data of a FINISH are right); and SHA3-512 of the leaf public key
of a requester that has authenticated itself. -/
structure SpdmIn where
  sid : Option Nat
  good : Bool
  leaf : Option (BitVec 512)
deriving DecidableEq, Repr

/-- A sample the servo forms (R251): times in 2^-16 ns, correction fields likewise, whether one of its timestamps carries the
recalibrating mark, and the oldest epoch one of them carries. -/
inductive Sample where
  /-- A Sync: t1, t2, cs, and the delayAsymmetry of the port (R237). -/
  | sync (t1 t2 : Nat) (cs asym : Int) (mark : Bool) (epoch : BitVec 16)
  /-- A delay exchange: t3, t4 and cd. -/
  | delay (t3 t4 : Nat) (cd : Int) (mark : Bool) (epoch : BitVec 16)
deriving DecidableEq, Repr

/-- What a run of the BMCA of IEEE 1588-2019 and the profile decides (R249): the parent port, the foreign master
record that wins on it, and the port states. -/
structure Bmca where
  /-- The parent port; none where no foreign master is the best. -/
  parent : Option (Fin 512)
  /-- portIdentity of the foreign master record that wins there. -/
  parentId : Nat
  /-- Ports and the portState each takes. -/
  states : List (Nat × Nat)
deriving DecidableEq, Repr


/-- The commands of the block: one constructor for each row of the opcode table. A register write that has a row of its own
carries its requester and the value written. -/
inductive Instr where
  /-- REGISTER_WRITE (R275): requester, aligned whole-word access, full-window byte address, value. -/
  | registerWrite (req : Req) (shapeOk : Bool) (addr : Nat) (value : Word)
  /-- STAGED_FIELD_APPLY (R9): boundary and the aisle, quarter or port it belongs to. -/
  | stagedFieldApply (bnd : Boundary) (inst : Nat)
  /-- FRAME_SFD_CAPTURE (R26): port, lane of the port that carries the first bit, octets of the frame before its FCS, time since the stall's last time word in 2^-16 ns. -/
  | frameSfdCapture (port : Fin 512) (pos : Fin 8) (data : List Byte) (sub : Nat)
  /-- PFC_FRAME_RECEIVE (R39): port, priority enable vector, pause quanta of priorities 0 to 7. -/
  | pfcFrameReceive (port : Fin 512) (vec : BitVec 8) (quanta : List Nat)
  /-- PAUSE_FRAME_RECEIVE (R36): port. -/
  | pauseFrameReceive (port : Fin 512)
  /-- PFC_PAUSE_EXPIRE (R39): port, priority. -/
  | pfcPauseExpire (port : Fin 512) (prio : Fin 8)
  /-- PFC_REFRESH (R39): port, priority. -/
  | pfcRefresh (port : Fin 512) (prio : Fin 8)
  /-- AISLE_ADMIT (R30): aisle, port whose receive FIFO is served. -/
  | aisleAdmit (aisle : Fin 16) (port : Fin 512)
  /-- FRAME_LAST_BYTE (R86): ingress port, verdict on the FCS. -/
  | frameLastByte (port : Fin 512) (fcsOk : Bool)
  /-- BUFFER_ALLOCATE (R178): the free index each grant of the cycle takes. -/
  | bufferAllocate (picks : List Nat)
  /-- BUFFER_FREE (R183): requester's port and queue, buffer, GEN and final bit of the descriptor. -/
  | bufferFree (port : Fin 512) (q : Fin 10) (handle : Nat) (gen : BitVec 4) (final : Bool)
  /-- THRESHOLD_RECOMPUTE (R187): every 64 CLK_BUF cycles. -/
  | thresholdRecompute
  /-- QUEUE_DEPTH_PUBLISH (R184): every 64 core clocks. -/
  | queueDepthPublish
  /-- SCHEDULER_SELECT (R203): port whose line can begin a frame, lane of the port that carries the first bit, time since the last time word. -/
  | schedulerSelect (port : Fin 512) (pos : Fin 8) (sub : Nat)
  /-- FLUSH_DISCARD (R195): flushing port, queue to discard from (another one where it is empty). -/
  | flushDiscard (port : Fin 512) (q : Fin 9)
  /-- QUEUES_EMPTY_REPORT (R195): port. -/
  | queuesEmptyReport (port : Fin 512)
  /-- STALL_CFG_WRITE (R42): requester, stall, value. -/
  | stallCfgWrite (req : Req) (stall : Fin 64) (value : Word)
  /-- PORT_CFG_WRITE (R475): requester, port, value. -/
  | portCfgWrite (req : Req) (port : Fin 512) (value : Word)
  /-- PORT_RESTART (R57): requester, port, value written to PORT_CTL. -/
  | portRestart (req : Req) (port : Fin 512) (value : Word)
  /-- NEGOTIATION_COMPLETE (R43): port and abilities of the partner. -/
  | negotiationComplete (neg : Negotiation)
  /-- AN_FAIL (R43): port. -/
  | anFail (port : Fin 512)
  /-- AN_PAUSE_EXPIRE (R43): port. -/
  | anPauseExpire (port : Fin 512)
  /-- TRAINING_COMPLETE (R44): port, settings reached by each lane, precoding agreed. -/
  | trainingComplete (port : Fin 512) (eq : List (List Byte)) (precode : Bool)
  /-- TRAINING_TIMEBOX_EXPIRE (R44): port. -/
  | trainingTimeboxExpire (port : Fin 512)
  /-- ALIGNMENT_QUALIFIED (R57): port. -/
  | alignmentQualified (port : Fin 512)
  /-- ALIGN_TIMEOUT (R57): port. -/
  | alignTimeout (port : Fin 512)
  /-- LINK_LOSS (R58): port, DOWN_CAUSE code. -/
  | linkLoss (port : Fin 512) (cause : Fin 16)
  /-- HOLD_TIMER_EXPIRE (R59): port. -/
  | holdTimerExpire (port : Fin 512)
  /-- LANE_RETUNE (R46): requester, lane, value written to LANE_CTL. -/
  | laneRetune (req : Req) (lane : Fin 512) (value : Word)
  /-- RETUNE_COMPLETE (R46): lane, success, settings reached. -/
  | retuneComplete (lane : Fin 512) (ok : Bool) (eq : List Byte)
  /-- EYE_SWEEP (R61): lane, height and width of eyes 0 to 2. -/
  | eyeSweep (lane : Fin 512) (eyes : List (Nat × Nat))
  /-- HEALTH_GRADE_REFRESH (R62): port, FEC statistics of the last 1 ms by lane: codewords, codewords with corrected symbols, symbols corrected, uncorrectable codewords. -/
  | healthGradeRefresh (port : Fin 512) (stats : List (Nat × Nat × Nat × Nat))
  /-- BWM_WINDOW_END (R63): stall. -/
  | bwmWindowEnd (stall : Fin 64)
  /-- SITE_CHAIN_SCAN (R49): in-frame and flags. -/
  | siteChainScan (scan : ChainScan)
  /-- MODULE_RESET_RELEASE (R53): site. -/
  | moduleResetRelease (stall : Fin 64)
  /-- MODULE_LOW_PWR_REPORT (R53): site, flat memory, application codes, identity and host-side settings. -/
  | moduleLowPwrReport (stall : Fin 64) (flat : Bool) (apps : List Nat) (ident : ModuleId)
  /-- MODULE_READY (R53): site. -/
  | moduleReady (stall : Fin 64)
  /-- DATAPATH_ACTIVATED (R53): site. -/
  | datapathActivated (stall : Fin 64)
  /-- SITE_FAULT (R54): site. -/
  | siteFault (stall : Fin 64)
  /-- SITE_FAULT_RETRY (R54): site. -/
  | siteFaultRetry (stall : Fin 64)
  /-- CRIER_NOTE_SEND (R88): station that sends. -/
  | crierNoteSend (quarter : Fin 4)
  /-- CRIER_NOTE_RECEIVE (R89): receiving station (4 is the management station), sender of the note, ring parity check. -/
  | crierNoteReceive (station : Fin 5) (sender : Fin 4) (parityOk : Bool)
  /-- REHASH_START (R85): requester, quarter, value. -/
  | rehashStart (req : Req) (quarter : Fin 4) (value : Word)
  /-- REHASH_DONE (R85): quarter. -/
  | rehashDone (quarter : Fin 4)
  /-- AGEING_VISIT (R92): quarter. -/
  | ageingVisit (quarter : Fin 4)
  /-- QTR_FLUSH_GO (R91): requester, quarter, value. -/
  | qtrFlushGo (req : Req) (quarter : Fin 4) (value : Word)
  /-- FLUSH_WALK_START (R91): quarter. -/
  | flushWalkStart (quarter : Fin 4)
  /-- FLUSH_DONE (R91): quarter. -/
  | flushDone (quarter : Fin 4)
  /-- FLOWLET_SWEEP (R96): quarter. -/
  | flowletSweep (quarter : Fin 4)
  /-- REBUILD_GO (R120): requester, aisle, channel, value. -/
  | rebuildGo (req : Req) (aisle : Fin 16) (chan : Fin 4) (value : Word)
  /-- REBUILD_COPY_DONE (R121): aisle, channel. -/
  | rebuildCopyDone (aisle : Fin 16) (chan : Fin 4)
  /-- REBUILD_SWITCH (R121): aisle, channel. -/
  | rebuildSwitch (aisle : Fin 16) (chan : Fin 4)
  /-- REBUILD_CLEAR_DONE (R121): aisle, channel. -/
  | rebuildClearDone (aisle : Fin 16) (chan : Fin 4)
  /-- ASSAY_UNIT_READ (R124): aisle, bits of the tile's unit found upset since the last reading (value, care, valid, result from bit 0 up), code of the copy: clean, correctable, uncorrectable. -/
  | assayUnitRead (aisle : Fin 16) (flip : Nat) (code : Fin 3)
  /-- MICROWORD_EXECUTE (R135): engine, bits of the fetched word found upset (bit 200: the dispatch or trap entry used). Where the protocol
  engine is idle, bits 213 to 201 are the address of the upset word that a ROM routine will fetch. -/
  | microwordExecute (eng : Eng) (upset : Nat)
  /-- NH_READ (R141): engine. -/
  | nhRead (eng : Eng)
  /-- RW_READ (R141): engine. -/
  | rwRead (eng : Eng)
  /-- BD_READ (R141): engine. -/
  | bdRead (eng : Eng)
  /-- COUNT (R141): engine. -/
  | count (eng : Eng)
  /-- ST_READ (R141): the protocol engine. -/
  | stRead
  /-- ST_WRITE (R141): the protocol engine. -/
  | stWrite
  /-- MSG_POST (R141): the protocol engine. -/
  | msgPost
  /-- TIMER_SET (R141): the protocol engine. -/
  | timerSet
  /-- TX_FRAME (R141): the protocol engine. -/
  | txFrame
  /-- TS_READ (R141): the protocol engine. -/
  | tsRead
  /-- TABLE_CALL_RESULT (R141): engine. -/
  | tableCallResult (eng : Eng)
  /-- END (R148): engine. -/
  | endRoutine (eng : Eng)
  /-- ABORT (R149): engine. -/
  | abort (eng : Eng)
  /-- MC_RESUME (R156): requester, control store, value. -/
  | mcResume (req : Req) (store : Fin 17) (value : Word)
  /-- MC_POP (R169): requester, control store, value. -/
  | mcPop (req : Req) (store : Fin 17) (value : Word)
  /-- FENCE (R158): requester, aisle, value. -/
  | fence (req : Req) (aisle : Fin 16) (value : Word)
  /-- RESUME_TIMEOUT (R156): aisle. -/
  | resumeTimeout (aisle : Fin 16)
  /-- PE_RESUME_TIMEOUT (R159): the protocol engine. -/
  | peResumeTimeout
  /-- WHEEL_POSITION (R162): the wheel's next position. -/
  | wheelPosition
  /-- PE_TIMER_EXPIRE (R163): port, transmission work type 6 to 9, item index: the timer the engine armed for them. -/
  | peTimerExpire (port : Fin 512) (ty : Fin 16) (idx : Nat)
  /-- LLDP_TTL_EXPIRE (R166): port. -/
  | lldpTtlExpire (port : Fin 512)
  /-- BFD_DETECT_EXPIRE (R167): session. -/
  | bfdDetectExpire (sess : Fin 4096)
  /-- MBX_READ (R286): requester, mailbox, value written to CTL. -/
  | mbxRead (req : Req) (n : Fin 20) (ctl : Word)
  /-- MBX_WRITE (R286): requester, mailbox, value written to CTL. -/
  | mbxWrite (req : Req) (n : Fin 20) (ctl : Word)
  /-- MBX_READ_CLEAR (R282): requester, mailbox, value written to CTL. -/
  | mbxReadClear (req : Req) (n : Fin 20) (ctl : Word)
  /-- MBX_MODULE_IO_DONE (R291): mailbox, bytes read; none when the module did not respond. -/
  | mbxModuleIoDone (n : Fin 20) (resp : Option (List Byte))
  /-- REG_READ (R274, R278): how the read comes, with its address. -/
  | regRead (at_ : ReadAt)
  /-- REG_WRITE (R278): SMBus command code and byte count, address, value, PEC: absent, good or bad. -/
  | regWrite (head : SmbHead) (addr : Nat) (value : Word) (pec : Option Bool)
  /-- SMBUS_TIMEOUT (R278): the transaction in progress. -/
  | smbusTimeout
  /-- ALERT_RESPONSE (R279): Alert Response Address. -/
  | alertResponse
  /-- EVT_TEST (R294): requester, value. -/
  | evtTest (req : Req) (value : Word)
  /-- HOLDOFF_EXPIRE (R300): function, vector. -/
  | holdoffExpire (pf : Fin 4) (vec : Fin 2048)
  /-- TIME_WORD_SEND (R228): 64 CLK_TIME ticks. -/
  | timeWordSend
  /-- DIST_ECHO_MEASURE (R228): stall, round trip in 2^-16 ns. -/
  | distEchoMeasure (stall : Fin 64) (echo : Option Nat)
  /-- TIME_STEP (R229): the step the servo has asked for. -/
  | timeStep
  /-- CALIBRATION_START (R234): port, trigger. -/
  | calibrationStart (port : Fin 512) (trigger : Fin 10)
  /-- CALIBRATION_COMMIT (R234): port, measured D_ANA and D_FIFO of each lane, receive then transmit. -/
  | calibrationCommit (port : Fin 512) (meas : List (Nat × Nat × Nat × Nat))
  /-- CAL_PERIOD_EXPIRE (R234): port. -/
  | calPeriodExpire (port : Fin 512)
  /-- CAL_REQ (R243): requester, port, value. -/
  | calReq (req : Req) (port : Fin 512) (value : Word)
  /-- PROBE_REQ (R243): requester, port, value. -/
  | probeReq (req : Req) (port : Fin 512) (value : Word)
  /-- PROBE_SEND (R236): port. -/
  | probeSend (port : Fin 512)
  /-- PROBE_RESPONSE (R236): port; whether the half of an odd sum is rounded up, which R236 leaves open. -/
  | probeResponse (port : Fin 512) (up : Bool)
  /-- PROBE_NONE (R236): port. -/
  | probeNone (port : Fin 512)
  /-- LINKDLY_PERIOD_EXPIRE (R236): port. -/
  | linkdlyPeriodExpire (port : Fin 512)
  /-- BMCA_RUN (R249): outcome of the BMCA of IEEE 1588-2019 and the profile over the foreign master records. -/
  | bmcaRun (sel : Bmca)
  /-- ANNOUNCE_RECEIPT_TIMEOUT (R249): port. -/
  | announceReceiptTimeout (port : Fin 512)
  /-- SERVO_SAMPLE (R251): whether the half of an odd sum is rounded up, which R251 leaves open. -/
  | servoSample (up : Bool)
  /-- SOURCE_LOST (R254): no valid sample. -/
  | sourceLost
  /-- HOLDOVER_LIMIT_EXPIRE (R254): HO_LIMIT_S. -/
  | holdoverLimitExpire
  /-- FORCE_NONE (R254): requester, value. -/
  | forceNone (req : Req) (value : Word)
  /-- FORCE_HOLDOVER (R254): requester, value. -/
  | forceHoldover (req : Req) (value : Word)
  /-- FORCE_FREERUN (R254): requester, value. -/
  | forceFreerun (req : Req) (value : Word)
  /-- PPS_IN_EDGE (R253): time since the last time word. -/
  | ppsInEdge (sub : Nat)
  /-- TOD_SENTENCE_RECEIVE (R263): sentence. -/
  | todSentenceReceive (bytes : List Byte)
  /-- PPS_LOSS (R263): 1.1 s without an edge. -/
  | ppsLoss
  /-- DPLL_INPUT_LOSS (R257): input - 1. -/
  | dpllInputLoss (input : Fin 4)
  /-- DPLL_INPUT_QUALIFY (R257): input - 1. -/
  | dpllInputQualify (input : Fin 4)
  /-- REF_SWITCH (R258): the selection changes. -/
  | refSwitch
  /-- DPLL_LOCK (R259): frequency within bounds. -/
  | dpllLock
  /-- ESMC_TIMEOUT (R260): port. -/
  | esmcTimeout (port : Fin 512)
  /-- PPS_OUT_EDGE (R261): whole second. -/
  | ppsOutEdge
  /-- TOD_SENTENCE_SEND (R263): delay ends. -/
  | todSentenceSend
  /-- TALLY_ISSUE (R264): whole second. -/
  | tallyIssue
  /-- TALLY_SIGNED (R400): signature completes. -/
  | tallySigned
  /-- HL_ARM (R217): requester, port, value. -/
  | hlArm (req : Req) (port : Fin 512) (value : Word)
  /-- HL_CANCEL (R218): requester, port, value. -/
  | hlCancel (req : Req) (port : Fin 512) (value : Word)
  /-- HL_STOP (R218): requester, port, value. -/
  | hlStop (req : Req) (port : Fin 512) (value : Word)
  /-- HL_SWITCH (R218): port. -/
  | hlSwitch (port : Fin 512)
  /-- GATE_EDGE (R215): port. -/
  | gateEdge (port : Fin 512)
  /-- QT_CLEAR_CLOSE (R220): port. -/
  | qtClearClose (port : Fin 512)
  /-- QT_CLEAR_REOPEN (R220): port. -/
  | qtClearReopen (port : Fin 512)
  /-- LATENCY_SAMPLE (R221): port. -/
  | latencySample (port : Fin 512)
  /-- SAMPLER_CLEAR (R221): requester, port, value. -/
  | samplerClear (req : Req) (port : Fin 512) (value : Word)
  /-- POLICER_SWEEP (R211): quarter. -/
  | policerSweep (quarter : Fin 4)
  /-- CARVE (R174): requester, value. -/
  | carve (req : Req) (value : Word)
  /-- POR (R311): supply below threshold. -/
  | por (low : Bool)
  /-- RESET_N_ASSERT (R311): RESET_N low for 32 samples. -/
  | resetNAssert
  /-- RESET_N_RELEASE (R311): RESET_N high for 32 samples. -/
  | resetNRelease
  /-- SYS_SWRESET (R326): requester, value. -/
  | sysSwreset (req : Req) (value : Word)
  /-- NVM_PROGRAM_END (R320): the program pulse ends. -/
  | nvmProgramEnd
  /-- NVM_RESET_DELAY_LIMIT (R320): 5 ms. -/
  | nvmResetDelayLimit
  /-- EXIT_SEQUENCE_START (R315): bytes a board programmer has written to the NVM while the device was in reset: address and byte. -/
  | exitSequenceStart (written : List (Nat × BitVec 8))
  /-- REFCLK_MEASURE (R307, R316): what is measured. -/
  | refclkMeasure (meas : RefMeas)
  /-- RESET_DONE (R315): end of the exit sequence. -/
  | resetDone
  /-- ROOTPLL_LOSS (R309): ROOTPLL or REFCLK fails. -/
  | rootpllLoss
  /-- TIMEPLL_LOSS (R310): TIMEPLL. -/
  | timepllLoss
  /-- TIMEPLL_RELOCK (R310): TIMEPLL. -/
  | timepllRelock
  /-- TXPLL_LOSS (R308): stall. -/
  | txpllLoss (stall : Fin 64)
  /-- TXPLL_RELOCK (R308): stall. -/
  | txpllRelock (stall : Fin 64)
  /-- PCIE_PLL_LOSS (R308): PCIe PLL. -/
  | pciePllLoss
  /-- SOFT_RESET_STALL (R322): requester, register 0 or 1, value. -/
  | softResetStall (req : Req) (word : Fin 2) (value : Word)
  /-- SOFT_RESET_AISLE (R322): requester, value written to CLK_SOFT_RST2. -/
  | softResetAisle (req : Req) (value : Word)
  /-- SOFT_RESET_QUARTER (R322): requester, value. -/
  | softResetQuarter (req : Req) (value : Word)
  /-- SOFT_RESET_PE (R322): requester, value. -/
  | softResetPe (req : Req) (value : Word)
  /-- SOFT_RESET_TIME (R322): requester, value. -/
  | softResetTime (req : Req) (value : Word)
  /-- SOFT_RESET_SWC (R322): requester, value. -/
  | softResetSwc (req : Req) (value : Word)
  /-- SOFT_RESET_SCH (R322): requester, value. -/
  | softResetSch (req : Req) (value : Word)
  /-- SOFT_RESET_DMA (R322): requester, value. -/
  | softResetDma (req : Req) (value : Word)
  /-- SOFT_RESET_NVM (R322): requester, value. -/
  | softResetNvm (req : Req) (value : Word)
  /-- SOFT_RESET_SEC (R322): requester, value. -/
  | softResetSec (req : Req) (value : Word)
  /-- SOFT_RESET_DONE (R321): instance. -/
  | softResetDone (unit : Fin 91)
  /-- WDT_KICK (R324): requester, value. -/
  | wdtKick (req : Req) (value : Word)
  /-- WDT_EXPIRE (R324): count reaches 0. -/
  | wdtExpire
  /-- PERST_N_ASSERT (R325): PERST_N low. -/
  | perstNAssert
  /-- PERST_N_RELEASE (R316): PERST_N high. -/
  | perstNRelease
  /-- FLR (R325): function. -/
  | flr (pf : Fin 4)
  /-- BOOT_ROM_START (R360): NVM density that the SFDP table gives, in MiB above 64. -/
  | bootRomStart (dens : Fin 193)
  /-- PATCH_LOAD (R153): the patch of the slot in use. -/
  | patchLoad
  /-- CFG_RECORD_REG (R359): the next record of the section. -/
  | cfgRecordReg
  /-- CFG_RECORD_MBX (R359): the next record of the section. -/
  | cfgRecordMbx
  /-- CFG_RECORD_IDENT (R359): the next record of the section. -/
  | cfgRecordIdent
  /-- CFG_RECORD_WAIT (R359): the next record of the section. -/
  | cfgRecordWait
  /-- CFG_WAIT_EXPIRE (R359): the wait ends. -/
  | cfgWaitExpire
  /-- CFG_RECORD_END (R359): the next record of the section, or its end. -/
  | cfgRecordEnd
  /-- SETUP_COMPLETE (R334): the checks of R334. -/
  | setupComplete
  /-- MODE_REQ_OPEN (R338): requester, value. -/
  | modeReqOpen (req : Req) (value : Word)
  /-- MODE_REQ_LEAN (R344): requester, value. -/
  | modeReqLean (req : Req) (value : Word)
  /-- MODE_REQ_DRAIN (R349): requester, value. -/
  | modeReqDrain (req : Req) (value : Word)
  /-- MODE_REQ_SEALED (R347): requester, value. -/
  | modeReqSealed (req : Req) (value : Word)
  /-- MODE_REQ_PROVING (R351): requester, value. -/
  | modeReqProving (req : Req) (value : Word)
  /-- MODE_REQ_SETUP (R352): requester, value. -/
  | modeReqSetup (req : Req) (value : Word)
  /-- AUTO_MODE_CHANGE (R337): a change is due. -/
  | autoModeChange
  /-- EPOCH_REQ (R339): requester, value. -/
  | epochReq (req : Req) (value : Word)
  /-- EPOCH_UNIT_APPLIED (R340): unit. -/
  | epochUnitApplied (unit : Fin 88)
  /-- EPOCH_WINDOW_EXPIRE (R341): ingress unit. -/
  | epochWindowExpire (unit : Fin 88)
  /-- EPOCH_DONE (R342): last unit reports. -/
  | epochDone
  /-- PROVE_GO (R351): requester, value. -/
  | proveGo (req : Req) (value : Word)
  /-- PROVE_TEST_DONE (R351): test, verdict, detail. -/
  | proveTestDone (test : Fin 6) (fail : Bool) (detail : List Word)
  /-- NVM_HOLD_SET (R361): requester, value. -/
  | nvmHoldSet (req : Req) (value : Word)
  /-- NVM_HOLD_CLEAR (R361): requester, value, bytes a board programmer has written to the NVM while the bus was released: address and byte. -/
  | nvmHoldClear (req : Req) (value : Word) (written : List (Nat × BitVec 8))
  /-- NVM_PAGE_PROGRAM (R356): next queued record. -/
  | nvmPageProgram
  /-- CLAIM (R363): requester, value. -/
  | claim (req : Req) (value : Word)
  /-- RELEASE (R363): requester, value. -/
  | release (req : Req) (value : Word)
  /-- HEARTBEAT (R363): requester, value. -/
  | heartbeat (req : Req) (value : Word)
  /-- HEARTBEAT_LATE (R363): the timer expires. -/
  | heartbeatLate
  /-- DMA_RING_TAIL_WRITE (R365): requester, ring, value. -/
  | dmaRingTailWrite (req : Req) (ring : Fin 2) (value : Word)
  /-- DMA_DESCRIPTOR_EXECUTE (R365): ring, descriptor, command stream as read. -/
  | dmaDescriptorExecute (ring : Fin 2) (desc : List Byte) (stream : Option (List Byte))
  /-- WRITE (R367): ring, command. -/
  | write (ring : Fin 2) (body : List Byte)
  /-- FILL (R367): ring, command. -/
  | fill (ring : Fin 2) (body : List Byte)
  /-- READ (R367): ring, command. -/
  | read (ring : Fin 2) (body : List Byte)
  /-- LDG_INSERT (R367): ring, command. -/
  | ldgInsert (ring : Fin 2) (body : List Byte)
  /-- LDG_DELETE (R367): ring, command. -/
  | ldgDelete (ring : Fin 2) (body : List Byte)
  /-- LPM_INSERT (R117): ring, command. -/
  | lpmInsert (ring : Fin 2) (body : List Byte)
  /-- LPM_DELETE (R118): ring, command. -/
  | lpmDelete (ring : Fin 2) (body : List Byte)
  /-- PSEL_WRITE (R111): ring, command. -/
  | pselWrite (ring : Fin 2) (body : List Byte)
  /-- RULE_WRITE (R115): ring, command. -/
  | ruleWrite (ring : Fin 2) (body : List Byte)
  /-- RULE_CLEAR (R115): ring, command. -/
  | ruleClear (ring : Fin 2) (body : List Byte)
  /-- RULE_MOVE (R119): ring, command. -/
  | ruleMove (ring : Fin 2) (body : List Byte)
  /-- PADLOCK (R370): ring, command. -/
  | padlock (ring : Fin 2) (body : List Byte)
  /-- NOP (R367): ring, command. -/
  | nop (ring : Fin 2) (body : List Byte)
  /-- PADLOCK_EXPIRED (R370): ring, table. -/
  | padlockExpired (ring : Fin 2) (table : Fin 16)
  /-- ASSAY_RECORD_STEP (R375): host shadow: the directory entry of the present table, and the record that the step or its binary search reads; none where the reference cannot be read or fails its digest. -/
  | assayRecordStep (dir : List Byte) (ref : Option (List Byte))
  /-- FINDING_CONFIRM (R375): the record as read again from the host shadow; none where the reference cannot be read. -/
  | findingConfirm (ref : Option (List Byte))
  /-- WIN_COUNT_BUCKET_EXPIRE (R377): the oldest bucket. -/
  | winCountBucketExpire
  /-- BURN_OWNER (R390): requester, value. -/
  | burnOwner (req : Req) (value : Word)
  /-- OTP_BURN_DONE (R390): read-back verdict. -/
  | otpBurnDone (good : Bool)
  /-- REVOKE (R392): requester, value. -/
  | revoke (req : Req) (value : Word)
  /-- SVN_ADVANCE (R391): requester, value. -/
  | svnAdvance (req : Req) (value : Word)
  /-- SVN_BURN_DONE (R391): fuses burned. -/
  | svnBurnDone
  /-- CFG_LOCK (R406): requester, value. -/
  | cfgLock (req : Req) (value : Word)
  /-- ENTROPY_FAIL (R399): health test. -/
  | entropyFail
  /-- ENTROPY_RECOVER (R399): 1 s of passing tests. -/
  | entropyRecover
  /-- GET_VERSION (R402): transport, how the request came, request. -/
  | getVersion (t : Transport) (x : SpdmIn) (msg : List Byte)
  /-- GET_CAPABILITIES (R402): transport, how the request came, request. -/
  | getCapabilities (t : Transport) (x : SpdmIn) (msg : List Byte)
  /-- NEGOTIATE_ALGORITHMS (R403): transport, how the request came, request. -/
  | negotiateAlgorithms (t : Transport) (x : SpdmIn) (msg : List Byte)
  /-- GET_DIGESTS (R402): transport, how the request came, request. -/
  | getDigests (t : Transport) (x : SpdmIn) (msg : List Byte)
  /-- GET_CERTIFICATE (R401): transport, how the request came, request. -/
  | getCertificate (t : Transport) (x : SpdmIn) (msg : List Byte)
  /-- CHALLENGE (R402): transport, how the request came, request. -/
  | challenge (t : Transport) (x : SpdmIn) (msg : List Byte)
  /-- GET_MEASUREMENTS (R397): transport, how the request came, request. -/
  | getMeasurements (t : Transport) (x : SpdmIn) (msg : List Byte)
  /-- KEY_EXCHANGE (R402): transport, how the request came, request. -/
  | keyExchange (t : Transport) (x : SpdmIn) (msg : List Byte)
  /-- FINISH (R404): transport, how the request came, request. -/
  | finish (t : Transport) (x : SpdmIn) (msg : List Byte)
  /-- SPDM_HEARTBEAT (R405): transport, how the request came, request. -/
  | spdmHeartbeat (t : Transport) (x : SpdmIn) (msg : List Byte)
  /-- KEY_UPDATE (R402): transport, how the request came, request. -/
  | keyUpdate (t : Transport) (x : SpdmIn) (msg : List Byte)
  /-- END_SESSION (R405): transport, how the request came, request. -/
  | endSession (t : Transport) (x : SpdmIn) (msg : List Byte)
  /-- CHUNK_SEND (R402): transport, how the request came, request. -/
  | chunkSend (t : Transport) (x : SpdmIn) (msg : List Byte)
  /-- CHUNK_GET (R402): transport, how the request came, request. -/
  | chunkGet (t : Transport) (x : SpdmIn) (msg : List Byte)
  /-- SESSION_HEARTBEAT_TIMEOUT (R405): session. -/
  | sessionHeartbeatTimeout (sid : Nat)
  /-- THERMAL_CONVERSION (R414): readings. -/
  | thermalConversion (temps : List Int)
  /-- THERMAL_STEP_DOWN (R414): 1 s below. -/
  | thermalStepDown
  /-- SENSOR_STUCK_CHECK (R412): sensors. -/
  | sensorStuckCheck (temps : List Int)
  /-- POWER_READ (R417): readings. -/
  | powerRead (mv : List Nat) (da : List Nat)
  /-- PWR_LEAN (R417): 100 ms above. -/
  | pwrLean
  /-- PWR_STEP_RELAX (R417): 10 s below. -/
  | pwrStepRelax
  /-- PWR_REQUEST_RETRY (R417): 10 ms after. -/
  | pwrRequestRetry
  /-- CANARY_SAMPLE (R418): ring-oscillator shifts in 0.01 %, SRAM Vmin in mV, tile margins in %, aisle × 100 + tile. -/
  | canarySample (delta : List Nat) (vmin : List Nat) (tmargin : List Nat)
  /-- PLAN_NOW (R436): requester, value. -/
  | planNow (req : Req) (value : Word)
  /-- PLANNER_CYCLE_START (R423): on schedule. -/
  | plannerCycleStart
  /-- PLAN_DONE (R423): actions ended. -/
  | planDone
  /-- SHORING_DEFER_EXPIRE (R427): 10 minutes. -/
  | shoringDeferExpire
  /-- AVS_STEP (R419): rail, frame answered. -/
  | avsStep (rail : Fin 2) (ack : Bool)
  /-- AVS_FAULT_RETRY (R421): rail, frame answered. -/
  | avsFaultRetry (rail : Fin 2) (ack : Bool)
  /-- PERF_SNAPSHOT (R448): whether the write to host memory succeeds. -/
  | perfSnapshot (ok : Bool)
  /-- PERF_OVERFLOW (R442): block, counter (8: PERF_CYC), what the cycle adds. -/
  | perfOverflow (block : Fin 19) (ctr : Fin 9) (value : Nat)
  /-- LED_SCAN (R466): 20 ms. -/
  | ledScan
  /-- EXTEST (R469): EXTEST-class instruction. -/
  | extest
  /-- JTAG_INSTRUCTION_LOAD (R469): class. -/
  | jtagInstructionLoad (cls : Fin 5)
  /-- PCIE_PLL_RELOCK (R308): PCIe PLL. -/
  | pciePllRelock
  /-- REVOKE_BURN_DONE (R392): fuses burned. -/
  | revokeBurnDone
  /-- ZOLLIWIN_RUNS_AGAIN (R324): the boot ROM has read the slot in use again. -/
  | zolliwinRunsAgain
  /-- MSIX_VECTOR_UNMASK (R300): function with its MSI-X Enable, vector. -/
  | msixVectorUnmask (fn : MsixFn) (vec : Fin 2048)
  /-- UNSUPPORTED_REQUEST (R402): transport, how the request came, request. -/
  | unsupportedRequest (t : Transport) (x : SpdmIn) (msg : List Byte)
  /-- SECURED_MESSAGE_FAIL (R405): transport, session. -/
  | securedMessageFail (t : Transport) (sid : Nat)
  /-- HOST_PACKET_MOVER_DONE (R164): H2D queue 0 to 7 or D2H queue 8 to 15; for each frame moved, the descriptor as read and, for H2D, the octets of the frame as read. -/
  | hostPacketMoverDone (q : Fin 16) (io : List (List Byte × List Byte))
deriving DecidableEq, Repr

end Sys2Proof
end

