-- ==== Sys2Proof/Config.lean ====
section
/-!
DEFINITION. Config.lean: what the spec leaves to the part: values no rule states and functions a cited standard
defines. They are constants without a body, so no proof can see a value of them.
-/
namespace Sys2Proof.Config

/-- The free value drawn as number `n`: nothing constrains it. -/
opaque freeValue : Nat → Nat

/-- V_START, the VDD_CORE target at reset, in mV: from the OTP trim (R419). -/
opaque vStart : Nat

/-- V_FRESH and SENS of the part, in mV and in mV for each % of delay shift: from OTP (R424). -/
opaque vFresh : Nat
opaque vSens : Nat

/-- D_PKG of a lane, 2^-16 ns, receive and transmit: from the OTP trim (R231). -/
opaque pkgDelay : Nat → Bool → Nat

/-- Nominal D_ANA, D_FIFO and D_PIPE for a LANE_RATE, receive (true) or transmit, 2^-16 ns: from ROM (R234). -/
opaque nominalDelay : Nat → Bool → Nat → Nat

/-- The bounds of a lane's OTP trim for its total delay, receive (true) or transmit: lowest and highest (R234). -/
opaque delayLow : Nat → Bool → Nat
opaque delayHigh : Nat → Bool → Nat

/-- The 192 data bits of a ROM microword of the hewers (false) or the protocol engine (true), by address (R132). -/
opaque romData : Bool → Nat → BitVec 192

/-- VALID and the entry address of the ROM default of a dispatch entry of the hewers or the protocol engine (R134). -/
opaque romDispatchWord : Bool → Nat → BitVec 16

/-- The ROM default of a dispatch entry: bits 14 and 13 are 0 (R134). -/
def romDispatch (pe : Bool) (i : Nat) : BitVec 16 := romDispatchWord pe i &&& 0x9FFF#16

/-- Whether C of a subtraction is set when no borrow occurs; R138 states no convention. -/
opaque subCarry : Bool

/-- Whether an egress BD requires a tag: condition 23 of R144, for which no table has a field. -/
opaque bdTagged : Nat → Bool

/-- Octets of a frame that the routine of a patch builds in a state buffer: R141 does not lay the buffer out. -/
opaque freeBytes : Nat → List Byte

/-- The next pages a port sends in auto-negotiation, by MEDIA, width and LANE_RATE: message pages (true) and unformatted ones; R43 leaves
them to Clause 73. -/
opaque anNextPages : Nat → Nat → Nat → List (Bool × BitVec 48)

/-- The transmitter settings that the configuration records give a lane whose port runs as C2C or C2M without a module (R45): no record
type of R359 has a field for them. -/
opaque recordEq : Nat → List Byte

/-- SHA3-512. -/
opaque sha3 : List Byte → BitVec 512

/-- The device's own clockIdentity of IEEE 1588-2019. -/
opaque clockIdentity : Nat

/-- Whether one foreign master record is better than another under the dataset comparison of IEEE 1588-2019 and the profile
(R249): profile, then grandmasterIdentity with quality and priorities of each. -/
opaque betterMaster : Nat → Nat × Nat → Nat × Nat → Bool

/-- The ML-DSA-87 public key that a seed ξ generates (R393). -/
opaque mlKey : BitVec 256 → List Byte

/-- The identity seed UDS, which OTP holds (R389). -/
opaque uds : List Byte

/-- Henura's manufacturer code in the JTAG IDCODE, which the BSDL file gives (R469). -/
opaque jtagMaker : BitVec 11

/-- ROM_REV, the revision of the boot ROM (R397). -/
opaque romRev : BitVec 8

/-- The Henura public keys HK0 to HK3 of the boot ROM (R388). -/
opaque henuraKey : Nat → List Byte

/-- Verification of a HashML-DSA-87 signature under a public key: key, context string, message, signature (R387). -/
opaque sigOk : List Byte → List Byte → List Byte → List Byte → Bool

/-- A HashML-DSA-87 signature with SHA3-512 (R387): seed ξ of the key, context string, message, and the 32 random octets of the hedged
mode, which are 0 in the deterministic mode of FIPS 204. -/
opaque sign : BitVec 256 → List Byte → List Byte → BitVec 256 → List Byte

/-- A pure ML-DSA-87 signature with an empty context, as certificates carry it (R387): seed ξ, message, random octets. -/
opaque signPure : BitVec 256 → List Byte → BitVec 256 → List Byte

/-- Decryption under the device-family key by AES-256-GCM: IV, additional data, tag, ciphertext; none where the tag fails (R153). -/
opaque patchOpen : List Byte → List Byte → List Byte → List Byte → Option (List Byte)

/-- Lowest eye height of a lane of which no sweep was made in the cycle, for its lane record (R431, log 94). -/
opaque noEye : Nat → Nat

end Sys2Proof.Config
end

