-- ==== Sys2Proof/Machine/RegTable.lean ====
section
/-!
DEFINITION. Machine/RegTable.lean: the register map, from the register tables of the spec: the registers (R4), their
addresses and strides, their fields with type (R6), boundary (R9), class (R10) and stated range, and their reset words.
Fields named rsvd are left out: a bit in no field is reserved (R5).
-/
namespace Sys2Proof.Machine

/-- The type codes of R6; `SEC` stands beside them (`FieldInfo.sec`). -/
inductive FTy where
  | rw
  | ro
  | wo
  | w1c
  | w1s
  | cnt
  | lck
deriving DecidableEq, Repr

/-- The boundaries of R9; `none` for a field that software does not write. -/
inductive Applies where
  | none
  | now
  | pkt
  | frm
  | gate
  | epoch
deriving DecidableEq, Repr

/-- The collision classes of R10. -/
inductive FCls where
  | c
  | s
  | k
  | f
deriving DecidableEq, Repr

/-- One field of a register table: lowest bit, width, type, boundary, class, whether it is SEC, and the range outside of
which a written value is stored as the nearest end (a lower end below 0 makes the field signed). -/
structure FieldInfo where
  lo : Nat
  w : Nat
  ty : FTy
  ap : Applies
  cls : FCls
  sec : Bool := false
  range : Option (Int × Int) := Option.none
deriving DecidableEq, Repr

/-- The registers of the map. An array is one constructor; its places are numbered from 0, the outer index first. -/
inductive Reg where
  /-- R64. -/
  | STALL_CFG
  /-- R65. -/
  | STALL_STATUS
  /-- R66. -/
  | STALL_EVT_CAUSE
  /-- R67. -/
  | STALL_BWM_WIN
  /-- R67. -/
  | STALL_CHAIN_CFG
  /-- R68. -/
  | PORT_CFG
  /-- R68. -/
  | PORT_HOLD
  /-- R68. -/
  | PORT_STATE
  /-- R68. -/
  | PORT_CTL
  /-- R68. -/
  | BWM_RX_LAST
  /-- R68. -/
  | BWM_TX_LAST
  /-- R68. -/
  | BWM_RX_MAX
  /-- R68. -/
  | BWM_TX_MAX
  /-- R68. -/
  | FLAP_CNT
  /-- R69. -/
  | LANE_EYE
  /-- R69. -/
  | LANE_EYE_MIN
  /-- R69. -/
  | LANE_CTL
  /-- R69. -/
  | LANE_EQ_STATUS
  /-- R99. -/
  | AISLE_PARSE_CFG
  /-- R100. -/
  | QTR_LDG_CFG
  /-- R100. -/
  | QTR_LDG_SEED_A
  /-- R100. -/
  | QTR_LDG_SEED_B
  /-- R100. -/
  | QTR_LDG_SEED_NEXT_A
  /-- R100. -/
  | QTR_LDG_SEED_NEXT_B
  /-- R100. -/
  | QTR_REHASH_CTL
  /-- R100. -/
  | QTR_LDG_STATUS
  /-- R100. -/
  | QTR_STATUS
  /-- R100. -/
  | QTR_REHASH_PTR
  /-- R100. -/
  | QTR_AGE_CFG
  /-- R100. -/
  | QTR_LEARN_CFG
  /-- R100. -/
  | QTR_FLUSH
  /-- R100. -/
  | QTR_ECMP_CFG
  /-- R100. -/
  | QTR_ECMP_SEED
  /-- R100. -/
  | QTR_CRIER_STATUS
  /-- R101. -/
  | QTR_EVT_CAUSE
  /-- R128. -/
  | AISLE_SRCH_CFG
  /-- R128. -/
  | AISLE_SRCH_STATUS
  /-- R128. -/
  | AISLE_REBUILD_CTL
  /-- R128. -/
  | AISLE_REBUILD_STATUS
  /-- R129. -/
  | AISLE_LPM_MAP
  /-- R129. -/
  | AISLE_RULE_MAP
  /-- R130. -/
  | AISLE_TILE_CFG
  /-- R131. -/
  | AISLE_SRCH_EVT_CAUSE
  /-- R169. -/
  | AISLE_MC_STATUS
  /-- R169. -/
  | AISLE_MC_CAPTURE
  /-- R169. -/
  | AISLE_MC_CTL
  /-- R170. -/
  | AISLE_MC_EVT_CAUSE
  /-- R171. -/
  | PE_STATUS
  /-- R171. -/
  | PE_MC_CAPTURE
  /-- R171. -/
  | PE_MC_CTL
  /-- R171. -/
  | PE_LLDP_CFG
  /-- R196. -/
  | SWC_POOL_CFG
  /-- R196. -/
  | SWC_POOL_TOTAL
  /-- R196. -/
  | SWC_POOL_FREE
  /-- R196. -/
  | SWC_POOL_LOW
  /-- R196. -/
  | SWC_POOL_RSV
  /-- R197. -/
  | SWC_CFG
  /-- R197. -/
  | SWC_CFG2
  /-- R197. -/
  | SWC_CTL
  /-- R197. -/
  | SWC_STATUS
  /-- R197. -/
  | SWC_SHARED_FREE
  /-- R197. -/
  | SWC_DESC_FREE
  /-- R198. -/
  | SWC_ILLFREE_CAP0
  /-- R198. -/
  | SWC_ILLFREE_CAP1
  /-- R199. -/
  | SWC_PORT_CFG
  /-- R199. -/
  | SWC_PORT_CFG2
  /-- R199. -/
  | SWC_PORT_STATE
  /-- R199. -/
  | SWC_PORT_HDRM
  /-- R200. -/
  | SWC_EVT_CAUSE
  /-- R222. -/
  | SCH_STATUS
  /-- R222. -/
  | SCH_EVT_CAUSE
  /-- R223. -/
  | SCH_PORT_CFG
  /-- R223. -/
  | SCH_PORT_RATE
  /-- R223. -/
  | SCH_PORT_BURST
  /-- R223. -/
  | SCH_SAMP_CFG
  /-- R223. -/
  | SCH_SAMP_CTL
  /-- R223. -/
  | SCH_HL_CYCLE
  /-- R223. -/
  | SCH_HL_BASE_NS
  /-- R223. -/
  | SCH_HL_BASE_S
  /-- R223. -/
  | SCH_HL_BASE_SH
  /-- R223. -/
  | SCH_HL_CTL
  /-- R223. -/
  | SCH_HL_STATUS
  /-- R223. -/
  | SCH_HL_START_NS
  /-- R223. -/
  | SCH_HL_START_S
  /-- R223. -/
  | SCH_HL_START_SH
  /-- R224. -/
  | SCH_Q_CFG
  /-- R224. -/
  | SCH_Q_MIN
  /-- R224. -/
  | SCH_Q_MAX
  /-- R224. -/
  | SCH_Q_BURST
  /-- R242. -/
  | TIME_STATUS
  /-- R242. -/
  | TIME_CAL_CFG
  /-- R243. -/
  | TIME_PORT_CFG
  /-- R243. -/
  | TIME_PORT_ASYM
  /-- R243. -/
  | TIME_PORT_LINKDLY
  /-- R243. -/
  | TIME_PORT_CAL_STATUS
  /-- R243. -/
  | TIME_PORT_CTL
  /-- R244. -/
  | TIME_PORT_EVT_CAUSE
  /-- R268. -/
  | TIME_PTP_CFG
  /-- R268. -/
  | TIME_SERVO_CFG
  /-- R268. -/
  | TIME_SERVO_CFG2
  /-- R268. -/
  | TIME_SERVO_STATUS
  /-- R268. -/
  | TIME_SERVO_CTL
  /-- R268. -/
  | TIME_HO_CFG
  /-- R269. -/
  | TIME_DPLL_CFG
  /-- R269. -/
  | TIME_DPLL_SRC
  /-- R269. -/
  | TIME_DPLL_QL
  /-- R269. -/
  | TIME_DPLL_STATUS
  /-- R269. -/
  | TIME_OUT_CFG
  /-- R269. -/
  | TIME_TALLY_CFG
  /-- R269. -/
  | TIME_TALLY_STATUS
  /-- R270. -/
  | TIME_PORT_PTP
  /-- R270. -/
  | TIME_PORT_PTP_STATUS
  /-- R271. -/
  | TIME_SVC_EVT_CAUSE
  /-- R303. -/
  | SYS_IDENT
  /-- R303. -/
  | SYS_REV
  /-- R303. -/
  | SYS_UID_LO
  /-- R303. -/
  | SYS_UID_HI
  /-- R303. -/
  | SYS_IF_CFG
  /-- R303. -/
  | SYS_REJECT_ADDR
  /-- R303. -/
  | SYS_REJECT_INFO
  /-- R303. -/
  | SYS_LOCKED_WR
  /-- R303. -/
  | SYS_LOCKED_WR_INFO
  /-- R303. -/
  | SYS_BUS_ERR
  /-- R303. -/
  | SYS_BUS_ERR_INFO
  /-- R303. -/
  | SYS_EVT_CAUSE
  /-- R303. -/
  | SYS_STATUS
  /-- R304. -/
  | EVT_STATUS
  /-- R304. -/
  | EVT_ENABLE
  /-- R304. -/
  | EVT_ROUTE
  /-- R304. -/
  | EVT_Z_STATUS
  /-- R304. -/
  | EVT_Z_ENABLE
  /-- R304. -/
  | EVT_SUMMARY0
  /-- R304. -/
  | EVT_SUMMARY1
  /-- R304. -/
  | EVT_Z_SUMMARY0
  /-- R304. -/
  | EVT_Z_SUMMARY1
  /-- R304. -/
  | EVT_CFG
  /-- R304. -/
  | EVT_TEST
  /-- R304. -/
  | EVT_MSI_LOST
  /-- R305. -/
  | MBX_CTL
  /-- R305. -/
  | MBX_SEL
  /-- R305. -/
  | MBX_DATA
  /-- R326. -/
  | SYS_SWRESET
  /-- R327. -/
  | CLK_STATUS
  /-- R327. -/
  | CLK_RST_CAUSE
  /-- R327. -/
  | CLK_OPT_STATUS
  /-- R327. -/
  | CLK_WDT_CFG
  /-- R327. -/
  | CLK_WDT_KICK
  /-- R327. -/
  | CLK_WDT_STATUS
  /-- R327. -/
  | CLK_SOFT_RST0
  /-- R327. -/
  | CLK_SOFT_RST1
  /-- R327. -/
  | CLK_SOFT_RST2
  /-- R328. -/
  | CLK_EVT_CAUSE
  /-- R353. -/
  | SYS_MODE
  /-- R353. -/
  | SYS_MODE_REQ
  /-- R353. -/
  | SYS_MODE_CFG
  /-- R353. -/
  | SYS_EPOCH
  /-- R353. -/
  | SYS_EPOCH_REQ
  /-- R353. -/
  | SYS_EPOCH_APPLIED0
  /-- R353. -/
  | SYS_EPOCH_APPLIED1
  /-- R353. -/
  | SYS_EPOCH_APPLIED2
  /-- R353. -/
  | SYS_EPOCH_LATE
  /-- R353. -/
  | SYS_PROVE_CTL
  /-- R353. -/
  | SYS_PROVE_STATUS
  /-- R354. -/
  | SYS_MODE_EVT_CAUSE
  /-- R379. -/
  | SYS_OWNER
  /-- R379. -/
  | SYS_OWNER_CTL
  /-- R379. -/
  | SYS_OWNER_CFG
  /-- R380. -/
  | NVM_STATUS
  /-- R380. -/
  | NVM_BOOT
  /-- R380. -/
  | NVM_CTL
  /-- R380. -/
  | NVM_FAULT
  /-- R381. -/
  | DMA_RING_BASE_LO
  /-- R381. -/
  | DMA_RING_BASE_HI
  /-- R381. -/
  | DMA_CPL_BASE_LO
  /-- R381. -/
  | DMA_CPL_BASE_HI
  /-- R381. -/
  | DMA_RING_CFG
  /-- R381. -/
  | DMA_RING_TAIL
  /-- R381. -/
  | DMA_RING_HEAD
  /-- R381. -/
  | DMA_STATUS
  /-- R381. -/
  | DMA_PADLOCK
  /-- R381. -/
  | DMA_CFG
  /-- R382. -/
  | HQ_BASE_LO
  /-- R382. -/
  | HQ_BASE_HI
  /-- R382. -/
  | HQ_CFG
  /-- R382. -/
  | HQ_TAIL
  /-- R382. -/
  | HQ_HEAD
  /-- R382. -/
  | HQ_LOST
  /-- R383. -/
  | ASSAY_CFG
  /-- R383. -/
  | ASSAY_RATE
  /-- R383. -/
  | ASSAY_SHADOW_LO
  /-- R383. -/
  | ASSAY_SHADOW_HI
  /-- R383. -/
  | ASSAY_CTL
  /-- R383. -/
  | ASSAY_STATUS
  /-- R385. -/
  | QTR_ASSAY_EVT_CAUSE
  /-- R408. -/
  | SEC_STATUS
  /-- R408. -/
  | SEC_CFG
  /-- R408. -/
  | SEC_LOCK
  /-- R408. -/
  | SEC_SVN
  /-- R408. -/
  | SEC_SVN_CTL
  /-- R408. -/
  | SEC_OTP_CTL
  /-- R409. -/
  | SEC_EVT_CAUSE
  /-- R433. -/
  | THM_STATUS
  /-- R433. -/
  | THM_CFG
  /-- R433. -/
  | THM_FAIL0
  /-- R433. -/
  | THM_FAIL1
  /-- R433. -/
  | THM_SENSOR
  /-- R434. -/
  | THM_EVT_CAUSE
  /-- R435. -/
  | PWR_CFG
  /-- R435. -/
  | PWR_STATUS
  /-- R436. -/
  | SHR_CFG
  /-- R436. -/
  | SHR_CFG2
  /-- R436. -/
  | SHR_STATUS
  /-- R436. -/
  | SHR_CTL
  /-- R436. -/
  | SHR_AVS_TARGET
  /-- R436. -/
  | SHR_AVS_STATUS
  /-- R437. -/
  | SHR_EVT_CAUSE
  /-- R451. -/
  | PERF_CTL
  /-- R451. -/
  | PERF_STATUS
  /-- R451. -/
  | PC_CFG
  /-- R451. -/
  | PC_THR
  /-- R452. -/
  | PERF_GLOBAL_CTL
  /-- R452. -/
  | PERF_PERMIT
  /-- R452. -/
  | PERF_SNAP_BASE_LO
  /-- R452. -/
  | PERF_SNAP_BASE_HI
  /-- R452. -/
  | PERF_SNAP_CFG
  /-- R452. -/
  | PERF_SNAP_STATUS
  /-- R452. -/
  | PERF_SNAP_SEQ
  /-- R172. -/
  | PE_EVT_CAUSE
  /-- R384. -/
  | DMA_EVT_CAUSE
  /-- R225. -/
  | QTR_PCOL_MAP
deriving DecidableEq, Repr

namespace Reg

/-- Every register. -/
def all : List Reg :=
  (List.range 230).map Reg.ofNat

/-- Full-window address of place 0 (R4, R273). -/
def base : Reg → Nat
  | .STALL_CFG => 0x1000000
  | .STALL_STATUS => 0x1000004
  | .STALL_EVT_CAUSE => 0x1000008
  | .STALL_BWM_WIN => 0x1000010
  | .STALL_CHAIN_CFG => 0x1000020
  | .PORT_CFG => 0x1000100
  | .PORT_HOLD => 0x1000104
  | .PORT_STATE => 0x1000108
  | .PORT_CTL => 0x100010C
  | .BWM_RX_LAST => 0x1000110
  | .BWM_TX_LAST => 0x1000114
  | .BWM_RX_MAX => 0x1000118
  | .BWM_TX_MAX => 0x100011C
  | .FLAP_CNT => 0x1000120
  | .LANE_EYE => 0x1000400
  | .LANE_EYE_MIN => 0x100040C
  | .LANE_CTL => 0x1000410
  | .LANE_EQ_STATUS => 0x1000414
  | .AISLE_PARSE_CFG => 0x1800100
  | .QTR_LDG_CFG => 0x2000000
  | .QTR_LDG_SEED_A => 0x2000004
  | .QTR_LDG_SEED_B => 0x2000008
  | .QTR_LDG_SEED_NEXT_A => 0x200000C
  | .QTR_LDG_SEED_NEXT_B => 0x2000010
  | .QTR_REHASH_CTL => 0x2000014
  | .QTR_LDG_STATUS => 0x2000018
  | .QTR_STATUS => 0x200001C
  | .QTR_REHASH_PTR => 0x2000020
  | .QTR_AGE_CFG => 0x2000030
  | .QTR_LEARN_CFG => 0x2000034
  | .QTR_FLUSH => 0x2000038
  | .QTR_ECMP_CFG => 0x2000040
  | .QTR_ECMP_SEED => 0x2000044
  | .QTR_CRIER_STATUS => 0x2000050
  | .QTR_EVT_CAUSE => 0x2000060
  | .AISLE_SRCH_CFG => 0x1801000
  | .AISLE_SRCH_STATUS => 0x1801004
  | .AISLE_REBUILD_CTL => 0x1801010
  | .AISLE_REBUILD_STATUS => 0x1801014
  | .AISLE_LPM_MAP => 0x1801100
  | .AISLE_RULE_MAP => 0x1801200
  | .AISLE_TILE_CFG => 0x1801300
  | .AISLE_SRCH_EVT_CAUSE => 0x1801008
  | .AISLE_MC_STATUS => 0x1802000
  | .AISLE_MC_CAPTURE => 0x1802004
  | .AISLE_MC_CTL => 0x1802008
  | .AISLE_MC_EVT_CAUSE => 0x180200C
  | .PE_STATUS => 0xC00000
  | .PE_MC_CAPTURE => 0xC00004
  | .PE_MC_CTL => 0xC00008
  | .PE_LLDP_CFG => 0xC00010
  | .SWC_POOL_CFG => 0x2800000
  | .SWC_POOL_TOTAL => 0x2800010
  | .SWC_POOL_FREE => 0x2800020
  | .SWC_POOL_LOW => 0x2800030
  | .SWC_POOL_RSV => 0x2800040
  | .SWC_CFG => 0x2800050
  | .SWC_CFG2 => 0x2800054
  | .SWC_CTL => 0x2800058
  | .SWC_STATUS => 0x280005C
  | .SWC_SHARED_FREE => 0x2800060
  | .SWC_DESC_FREE => 0x2800064
  | .SWC_ILLFREE_CAP0 => 0x2800070
  | .SWC_ILLFREE_CAP1 => 0x2800074
  | .SWC_PORT_CFG => 0x2810000
  | .SWC_PORT_CFG2 => 0x2810004
  | .SWC_PORT_STATE => 0x2810008
  | .SWC_PORT_HDRM => 0x281000C
  | .SWC_EVT_CAUSE => 0x2800100
  | .SCH_STATUS => 0x2C00000
  | .SCH_EVT_CAUSE => 0x2C00100
  | .SCH_PORT_CFG => 0x2C10000
  | .SCH_PORT_RATE => 0x2C10004
  | .SCH_PORT_BURST => 0x2C10008
  | .SCH_SAMP_CFG => 0x2C1000C
  | .SCH_SAMP_CTL => 0x2C10010
  | .SCH_HL_CYCLE => 0x2C10020
  | .SCH_HL_BASE_NS => 0x2C10024
  | .SCH_HL_BASE_S => 0x2C10028
  | .SCH_HL_BASE_SH => 0x2C1002C
  | .SCH_HL_CTL => 0x2C10030
  | .SCH_HL_STATUS => 0x2C10034
  | .SCH_HL_START_NS => 0x2C10038
  | .SCH_HL_START_S => 0x2C1003C
  | .SCH_HL_START_SH => 0x2C10040
  | .SCH_Q_CFG => 0x2C10060
  | .SCH_Q_MIN => 0x2C10064
  | .SCH_Q_MAX => 0x2C10068
  | .SCH_Q_BURST => 0x2C1006C
  | .TIME_STATUS => 0x800000
  | .TIME_CAL_CFG => 0x800004
  | .TIME_PORT_CFG => 0x810000
  | .TIME_PORT_ASYM => 0x810004
  | .TIME_PORT_LINKDLY => 0x810008
  | .TIME_PORT_CAL_STATUS => 0x81000C
  | .TIME_PORT_CTL => 0x810010
  | .TIME_PORT_EVT_CAUSE => 0x810014
  | .TIME_PTP_CFG => 0x800100
  | .TIME_SERVO_CFG => 0x800104
  | .TIME_SERVO_CFG2 => 0x800108
  | .TIME_SERVO_STATUS => 0x80010C
  | .TIME_SERVO_CTL => 0x800110
  | .TIME_HO_CFG => 0x800114
  | .TIME_DPLL_CFG => 0x800120
  | .TIME_DPLL_SRC => 0x800124
  | .TIME_DPLL_QL => 0x800128
  | .TIME_DPLL_STATUS => 0x80012C
  | .TIME_OUT_CFG => 0x800130
  | .TIME_TALLY_CFG => 0x800140
  | .TIME_TALLY_STATUS => 0x800144
  | .TIME_PORT_PTP => 0x810018
  | .TIME_PORT_PTP_STATUS => 0x81001C
  | .TIME_SVC_EVT_CAUSE => 0x800150
  | .SYS_IDENT => 0x0
  | .SYS_REV => 0x4
  | .SYS_UID_LO => 0x8
  | .SYS_UID_HI => 0xC
  | .SYS_IF_CFG => 0x10
  | .SYS_REJECT_ADDR => 0x20
  | .SYS_REJECT_INFO => 0x24
  | .SYS_LOCKED_WR => 0x28
  | .SYS_LOCKED_WR_INFO => 0x2C
  | .SYS_BUS_ERR => 0x30
  | .SYS_BUS_ERR_INFO => 0x34
  | .SYS_EVT_CAUSE => 0x40
  | .SYS_STATUS => 0x44
  | .EVT_STATUS => 0x100000
  | .EVT_ENABLE => 0x100100
  | .EVT_ROUTE => 0x100200
  | .EVT_Z_STATUS => 0x100300
  | .EVT_Z_ENABLE => 0x100400
  | .EVT_SUMMARY0 => 0x100500
  | .EVT_SUMMARY1 => 0x100504
  | .EVT_Z_SUMMARY0 => 0x100508
  | .EVT_Z_SUMMARY1 => 0x10050C
  | .EVT_CFG => 0x100510
  | .EVT_TEST => 0x100514
  | .EVT_MSI_LOST => 0x100518
  | .MBX_CTL => 0x3810000
  | .MBX_SEL => 0x3810004
  | .MBX_DATA => 0x3810040
  | .SYS_SWRESET => 0x180
  | .CLK_STATUS => 0x200000
  | .CLK_RST_CAUSE => 0x200004
  | .CLK_OPT_STATUS => 0x200008
  | .CLK_WDT_CFG => 0x200010
  | .CLK_WDT_KICK => 0x200014
  | .CLK_WDT_STATUS => 0x200018
  | .CLK_SOFT_RST0 => 0x200020
  | .CLK_SOFT_RST1 => 0x200024
  | .CLK_SOFT_RST2 => 0x200028
  | .CLK_EVT_CAUSE => 0x200030
  | .SYS_MODE => 0x100
  | .SYS_MODE_REQ => 0x104
  | .SYS_MODE_CFG => 0x108
  | .SYS_EPOCH => 0x110
  | .SYS_EPOCH_REQ => 0x114
  | .SYS_EPOCH_APPLIED0 => 0x120
  | .SYS_EPOCH_APPLIED1 => 0x124
  | .SYS_EPOCH_APPLIED2 => 0x128
  | .SYS_EPOCH_LATE => 0x12C
  | .SYS_PROVE_CTL => 0x130
  | .SYS_PROVE_STATUS => 0x134
  | .SYS_MODE_EVT_CAUSE => 0x140
  | .SYS_OWNER => 0x200
  | .SYS_OWNER_CTL => 0x204
  | .SYS_OWNER_CFG => 0x208
  | .NVM_STATUS => 0x400000
  | .NVM_BOOT => 0x400004
  | .NVM_CTL => 0x400008
  | .NVM_FAULT => 0x40000C
  | .DMA_RING_BASE_LO => 0x3800000
  | .DMA_RING_BASE_HI => 0x3800004
  | .DMA_CPL_BASE_LO => 0x3800008
  | .DMA_CPL_BASE_HI => 0x380000C
  | .DMA_RING_CFG => 0x3800010
  | .DMA_RING_TAIL => 0x3800014
  | .DMA_RING_HEAD => 0x3800018
  | .DMA_STATUS => 0x3800304
  | .DMA_PADLOCK => 0x3800308
  | .DMA_CFG => 0x380030C
  | .HQ_BASE_LO => 0x3820000
  | .HQ_BASE_HI => 0x3820004
  | .HQ_CFG => 0x3820008
  | .HQ_TAIL => 0x382000C
  | .HQ_HEAD => 0x3820010
  | .HQ_LOST => 0x3820014
  | .ASSAY_CFG => 0x3800200
  | .ASSAY_RATE => 0x3800204
  | .ASSAY_SHADOW_LO => 0x3800208
  | .ASSAY_SHADOW_HI => 0x380020C
  | .ASSAY_CTL => 0x3800210
  | .ASSAY_STATUS => 0x3800214
  | .QTR_ASSAY_EVT_CAUSE => 0x2000064
  | .SEC_STATUS => 0x300000
  | .SEC_CFG => 0x300004
  | .SEC_LOCK => 0x300008
  | .SEC_SVN => 0x30000C
  | .SEC_SVN_CTL => 0x300010
  | .SEC_OTP_CTL => 0x300014
  | .SEC_EVT_CAUSE => 0x300020
  | .THM_STATUS => 0x220000
  | .THM_CFG => 0x220004
  | .THM_FAIL0 => 0x220008
  | .THM_FAIL1 => 0x22000C
  | .THM_SENSOR => 0x220100
  | .THM_EVT_CAUSE => 0x220010
  | .PWR_CFG => 0x210000
  | .PWR_STATUS => 0x210004
  | .SHR_CFG => 0x3400000
  | .SHR_CFG2 => 0x3400004
  | .SHR_STATUS => 0x3400008
  | .SHR_CTL => 0x340000C
  | .SHR_AVS_TARGET => 0x3400010
  | .SHR_AVS_STATUS => 0x3400014
  | .SHR_EVT_CAUSE => 0x3400020
  | .PERF_CTL => 0x3000000
  | .PERF_STATUS => 0x3000004
  | .PC_CFG => 0x3000010
  | .PC_THR => 0x3000014
  | .PERF_GLOBAL_CTL => 0x3002000
  | .PERF_PERMIT => 0x3002004
  | .PERF_SNAP_BASE_LO => 0x3002010
  | .PERF_SNAP_BASE_HI => 0x3002014
  | .PERF_SNAP_CFG => 0x3002018
  | .PERF_SNAP_STATUS => 0x300201C
  | .PERF_SNAP_SEQ => 0x3002020
  | .PE_EVT_CAUSE => 0xC0000C
  | .DMA_EVT_CAUSE => 0x3800300
  | .QTR_PCOL_MAP => 0x2000070

/-- Strides and counts of the dimensions of an array, outermost first; empty for a single register (R4). -/
def dims : Reg → List (Nat × Nat)
  | .STALL_CFG => [(0x10000, 64)]
  | .STALL_STATUS => [(0x10000, 64)]
  | .STALL_EVT_CAUSE => [(0x10000, 64)]
  | .STALL_BWM_WIN => [(0x10000, 64)]
  | .STALL_CHAIN_CFG => [(0x10000, 64)]
  | .PORT_CFG => [(0x10000, 64), (0x40, 8)]
  | .PORT_HOLD => [(0x10000, 64), (0x40, 8)]
  | .PORT_STATE => [(0x10000, 64), (0x40, 8)]
  | .PORT_CTL => [(0x10000, 64), (0x40, 8)]
  | .BWM_RX_LAST => [(0x10000, 64), (0x40, 8)]
  | .BWM_TX_LAST => [(0x10000, 64), (0x40, 8)]
  | .BWM_RX_MAX => [(0x10000, 64), (0x40, 8)]
  | .BWM_TX_MAX => [(0x10000, 64), (0x40, 8)]
  | .FLAP_CNT => [(0x10000, 64), (0x40, 8)]
  | .LANE_EYE => [(0x10000, 64), (0x40, 8), (0x4, 3)]
  | .LANE_EYE_MIN => [(0x10000, 64), (0x40, 8)]
  | .LANE_CTL => [(0x10000, 64), (0x40, 8)]
  | .LANE_EQ_STATUS => [(0x10000, 64), (0x40, 8)]
  | .AISLE_PARSE_CFG => [(0x40000, 16)]
  | .QTR_LDG_CFG => [(0x100000, 4)]
  | .QTR_LDG_SEED_A => [(0x100000, 4)]
  | .QTR_LDG_SEED_B => [(0x100000, 4)]
  | .QTR_LDG_SEED_NEXT_A => [(0x100000, 4)]
  | .QTR_LDG_SEED_NEXT_B => [(0x100000, 4)]
  | .QTR_REHASH_CTL => [(0x100000, 4)]
  | .QTR_LDG_STATUS => [(0x100000, 4)]
  | .QTR_STATUS => [(0x100000, 4)]
  | .QTR_REHASH_PTR => [(0x100000, 4)]
  | .QTR_AGE_CFG => [(0x100000, 4)]
  | .QTR_LEARN_CFG => [(0x100000, 4)]
  | .QTR_FLUSH => [(0x100000, 4)]
  | .QTR_ECMP_CFG => [(0x100000, 4)]
  | .QTR_ECMP_SEED => [(0x100000, 4)]
  | .QTR_CRIER_STATUS => [(0x100000, 4)]
  | .QTR_EVT_CAUSE => [(0x100000, 4)]
  | .AISLE_SRCH_CFG => [(0x40000, 16)]
  | .AISLE_SRCH_STATUS => [(0x40000, 16)]
  | .AISLE_REBUILD_CTL => [(0x40000, 16), (0x8, 4)]
  | .AISLE_REBUILD_STATUS => [(0x40000, 16), (0x8, 4)]
  | .AISLE_LPM_MAP => [(0x40000, 16), (0x4, 64)]
  | .AISLE_RULE_MAP => [(0x40000, 16), (0x4, 32)]
  | .AISLE_TILE_CFG => [(0x40000, 16), (0x4, 100)]
  | .AISLE_SRCH_EVT_CAUSE => [(0x40000, 16)]
  | .AISLE_MC_STATUS => [(0x40000, 16)]
  | .AISLE_MC_CAPTURE => [(0x40000, 16)]
  | .AISLE_MC_CTL => [(0x40000, 16)]
  | .AISLE_MC_EVT_CAUSE => [(0x40000, 16)]
  | .PE_STATUS => []
  | .PE_MC_CAPTURE => []
  | .PE_MC_CTL => []
  | .PE_LLDP_CFG => []
  | .SWC_POOL_CFG => [(0x4, 4)]
  | .SWC_POOL_TOTAL => [(0x4, 4)]
  | .SWC_POOL_FREE => [(0x4, 4)]
  | .SWC_POOL_LOW => [(0x4, 4)]
  | .SWC_POOL_RSV => [(0x4, 4)]
  | .SWC_CFG => []
  | .SWC_CFG2 => []
  | .SWC_CTL => []
  | .SWC_STATUS => []
  | .SWC_SHARED_FREE => []
  | .SWC_DESC_FREE => []
  | .SWC_ILLFREE_CAP0 => []
  | .SWC_ILLFREE_CAP1 => []
  | .SWC_PORT_CFG => [(0x20, 512)]
  | .SWC_PORT_CFG2 => [(0x20, 512)]
  | .SWC_PORT_STATE => [(0x20, 512)]
  | .SWC_PORT_HDRM => [(0x20, 512)]
  | .SWC_EVT_CAUSE => [(0x4, 16)]
  | .SCH_STATUS => []
  | .SCH_EVT_CAUSE => [(0x4, 16)]
  | .SCH_PORT_CFG => [(0x100, 512)]
  | .SCH_PORT_RATE => [(0x100, 512)]
  | .SCH_PORT_BURST => [(0x100, 512)]
  | .SCH_SAMP_CFG => [(0x100, 512)]
  | .SCH_SAMP_CTL => [(0x100, 512)]
  | .SCH_HL_CYCLE => [(0x100, 512)]
  | .SCH_HL_BASE_NS => [(0x100, 512)]
  | .SCH_HL_BASE_S => [(0x100, 512)]
  | .SCH_HL_BASE_SH => [(0x100, 512)]
  | .SCH_HL_CTL => [(0x100, 512)]
  | .SCH_HL_STATUS => [(0x100, 512)]
  | .SCH_HL_START_NS => [(0x100, 512)]
  | .SCH_HL_START_S => [(0x100, 512)]
  | .SCH_HL_START_SH => [(0x100, 512)]
  | .SCH_Q_CFG => [(0x100, 512), (0x10, 9)]
  | .SCH_Q_MIN => [(0x100, 512), (0x10, 9)]
  | .SCH_Q_MAX => [(0x100, 512), (0x10, 9)]
  | .SCH_Q_BURST => [(0x100, 512), (0x10, 9)]
  | .TIME_STATUS => []
  | .TIME_CAL_CFG => []
  | .TIME_PORT_CFG => [(0x20, 512)]
  | .TIME_PORT_ASYM => [(0x20, 512)]
  | .TIME_PORT_LINKDLY => [(0x20, 512)]
  | .TIME_PORT_CAL_STATUS => [(0x20, 512)]
  | .TIME_PORT_CTL => [(0x20, 512)]
  | .TIME_PORT_EVT_CAUSE => [(0x20, 512)]
  | .TIME_PTP_CFG => []
  | .TIME_SERVO_CFG => []
  | .TIME_SERVO_CFG2 => []
  | .TIME_SERVO_STATUS => []
  | .TIME_SERVO_CTL => []
  | .TIME_HO_CFG => []
  | .TIME_DPLL_CFG => []
  | .TIME_DPLL_SRC => []
  | .TIME_DPLL_QL => []
  | .TIME_DPLL_STATUS => []
  | .TIME_OUT_CFG => []
  | .TIME_TALLY_CFG => []
  | .TIME_TALLY_STATUS => []
  | .TIME_PORT_PTP => [(0x20, 512)]
  | .TIME_PORT_PTP_STATUS => [(0x20, 512)]
  | .TIME_SVC_EVT_CAUSE => []
  | .SYS_IDENT => []
  | .SYS_REV => []
  | .SYS_UID_LO => []
  | .SYS_UID_HI => []
  | .SYS_IF_CFG => []
  | .SYS_REJECT_ADDR => []
  | .SYS_REJECT_INFO => []
  | .SYS_LOCKED_WR => []
  | .SYS_LOCKED_WR_INFO => []
  | .SYS_BUS_ERR => []
  | .SYS_BUS_ERR_INFO => []
  | .SYS_EVT_CAUSE => []
  | .SYS_STATUS => []
  | .EVT_STATUS => [(0x4, 56)]
  | .EVT_ENABLE => [(0x4, 56)]
  | .EVT_ROUTE => [(0x4, 56)]
  | .EVT_Z_STATUS => [(0x4, 56)]
  | .EVT_Z_ENABLE => [(0x4, 56)]
  | .EVT_SUMMARY0 => []
  | .EVT_SUMMARY1 => []
  | .EVT_Z_SUMMARY0 => []
  | .EVT_Z_SUMMARY1 => []
  | .EVT_CFG => []
  | .EVT_TEST => []
  | .EVT_MSI_LOST => []
  | .MBX_CTL => [(0x100, 20)]
  | .MBX_SEL => [(0x100, 20)]
  | .MBX_DATA => [(0x100, 20), (0x4, 16)]
  | .SYS_SWRESET => []
  | .CLK_STATUS => []
  | .CLK_RST_CAUSE => []
  | .CLK_OPT_STATUS => []
  | .CLK_WDT_CFG => []
  | .CLK_WDT_KICK => []
  | .CLK_WDT_STATUS => []
  | .CLK_SOFT_RST0 => []
  | .CLK_SOFT_RST1 => []
  | .CLK_SOFT_RST2 => []
  | .CLK_EVT_CAUSE => []
  | .SYS_MODE => []
  | .SYS_MODE_REQ => []
  | .SYS_MODE_CFG => []
  | .SYS_EPOCH => []
  | .SYS_EPOCH_REQ => []
  | .SYS_EPOCH_APPLIED0 => []
  | .SYS_EPOCH_APPLIED1 => []
  | .SYS_EPOCH_APPLIED2 => []
  | .SYS_EPOCH_LATE => []
  | .SYS_PROVE_CTL => []
  | .SYS_PROVE_STATUS => []
  | .SYS_MODE_EVT_CAUSE => []
  | .SYS_OWNER => []
  | .SYS_OWNER_CTL => []
  | .SYS_OWNER_CFG => []
  | .NVM_STATUS => []
  | .NVM_BOOT => []
  | .NVM_CTL => []
  | .NVM_FAULT => []
  | .DMA_RING_BASE_LO => [(0x100, 2)]
  | .DMA_RING_BASE_HI => [(0x100, 2)]
  | .DMA_CPL_BASE_LO => [(0x100, 2)]
  | .DMA_CPL_BASE_HI => [(0x100, 2)]
  | .DMA_RING_CFG => [(0x100, 2)]
  | .DMA_RING_TAIL => [(0x100, 2)]
  | .DMA_RING_HEAD => [(0x100, 2)]
  | .DMA_STATUS => []
  | .DMA_PADLOCK => []
  | .DMA_CFG => []
  | .HQ_BASE_LO => [(0x20, 16)]
  | .HQ_BASE_HI => [(0x20, 16)]
  | .HQ_CFG => [(0x20, 16)]
  | .HQ_TAIL => [(0x20, 16)]
  | .HQ_HEAD => [(0x20, 16)]
  | .HQ_LOST => [(0x20, 16)]
  | .ASSAY_CFG => []
  | .ASSAY_RATE => []
  | .ASSAY_SHADOW_LO => []
  | .ASSAY_SHADOW_HI => []
  | .ASSAY_CTL => []
  | .ASSAY_STATUS => []
  | .QTR_ASSAY_EVT_CAUSE => [(0x100000, 4)]
  | .SEC_STATUS => []
  | .SEC_CFG => []
  | .SEC_LOCK => []
  | .SEC_SVN => []
  | .SEC_SVN_CTL => []
  | .SEC_OTP_CTL => []
  | .SEC_EVT_CAUSE => []
  | .THM_STATUS => []
  | .THM_CFG => []
  | .THM_FAIL0 => []
  | .THM_FAIL1 => []
  | .THM_SENSOR => [(0x4, 48)]
  | .THM_EVT_CAUSE => []
  | .PWR_CFG => []
  | .PWR_STATUS => []
  | .SHR_CFG => []
  | .SHR_CFG2 => []
  | .SHR_STATUS => []
  | .SHR_CTL => []
  | .SHR_AVS_TARGET => [(0x8, 2)]
  | .SHR_AVS_STATUS => [(0x8, 2)]
  | .SHR_EVT_CAUSE => []
  | .PERF_CTL => [(0x100, 19)]
  | .PERF_STATUS => [(0x100, 19)]
  | .PC_CFG => [(0x100, 19), (0x8, 8)]
  | .PC_THR => [(0x100, 19), (0x8, 8)]
  | .PERF_GLOBAL_CTL => []
  | .PERF_PERMIT => []
  | .PERF_SNAP_BASE_LO => []
  | .PERF_SNAP_BASE_HI => []
  | .PERF_SNAP_CFG => []
  | .PERF_SNAP_STATUS => []
  | .PERF_SNAP_SEQ => []
  | .PE_EVT_CAUSE => []
  | .DMA_EVT_CAUSE => []
  | .QTR_PCOL_MAP => [(0x100000, 4), (0x4, 4)]

/-- The fields of the register, rsvd fields left out. -/
def fields : Reg → List FieldInfo
  | .STALL_CFG => [⟨2, 7, .rw, .now, .c, false, .none⟩,
      ⟨0, 2, .rw, .now, .c, false, .none⟩]
  | .STALL_STATUS => [⟨15, 1, .rw, .now, .c, false, .none⟩,
      ⟨14, 1, .ro, .none, .s, false, .none⟩,
      ⟨13, 1, .ro, .none, .s, false, .none⟩,
      ⟨10, 3, .ro, .none, .s, false, .none⟩,
      ⟨9, 1, .ro, .none, .s, false, .none⟩,
      ⟨8, 1, .ro, .none, .s, false, .none⟩,
      ⟨4, 1, .ro, .none, .s, false, .none⟩,
      ⟨0, 4, .ro, .none, .s, false, .none⟩]
  | .STALL_EVT_CAUSE => [⟨5, 1, .w1c, .now, .f, false, .none⟩,
      ⟨4, 1, .w1c, .now, .f, false, .none⟩,
      ⟨3, 1, .w1c, .now, .f, false, .none⟩,
      ⟨2, 1, .w1c, .now, .f, false, .none⟩,
      ⟨1, 1, .w1c, .now, .f, false, .none⟩,
      ⟨0, 1, .w1c, .now, .f, false, .none⟩]
  | .STALL_BWM_WIN => [⟨0, 20, .rw, .now, .c, false, some (1, 1000000)⟩]
  | .STALL_CHAIN_CFG => [⟨18, 2, .rw, .now, .c, false, .none⟩,
      ⟨8, 10, .rw, .now, .c, false, some (20, 1000)⟩,
      ⟨0, 8, .rw, .now, .c, false, some (1, 25)⟩]
  | .PORT_CFG => [⟨24, 2, .rw, .now, .c, false, .none⟩,
      ⟨16, 8, .rw, .now, .c, false, some (0, 100)⟩,
      ⟨12, 4, .rw, .now, .c, false, some (1, 15)⟩,
      ⟨4, 8, .rw, .frm, .c, false, .none⟩,
      ⟨3, 1, .rw, .now, .c, false, .none⟩,
      ⟨2, 1, .rw, .now, .c, false, .none⟩,
      ⟨1, 1, .rw, .now, .c, false, .none⟩,
      ⟨0, 1, .rw, .now, .c, false, .none⟩]
  | .PORT_HOLD => [⟨0, 11, .rw, .now, .c, false, some (0, 1000)⟩]
  | .PORT_STATE => [⟨10, 4, .ro, .none, .s, false, .none⟩,
      ⟨6, 4, .ro, .none, .s, false, .none⟩,
      ⟨5, 1, .ro, .none, .s, false, .none⟩,
      ⟨3, 2, .ro, .none, .s, false, .none⟩,
      ⟨0, 3, .ro, .none, .s, false, .none⟩]
  | .PORT_CTL => [⟨0, 1, .wo, .now, .c, false, .none⟩]
  | .BWM_RX_LAST => [⟨0, 32, .ro, .none, .s, false, .none⟩]
  | .BWM_TX_LAST => [⟨0, 32, .ro, .none, .s, false, .none⟩]
  | .BWM_RX_MAX => [⟨0, 32, .cnt, .now, .k, false, .none⟩]
  | .BWM_TX_MAX => [⟨0, 32, .cnt, .now, .k, false, .none⟩]
  | .FLAP_CNT => [⟨0, 32, .cnt, .now, .k, false, .none⟩]
  | .LANE_EYE => [⟨16, 8, .ro, .none, .s, false, .none⟩,
      ⟨0, 16, .ro, .none, .s, false, .none⟩]
  | .LANE_EYE_MIN => [⟨0, 16, .rw, .now, .c, false, .none⟩]
  | .LANE_CTL => [⟨0, 1, .wo, .now, .c, false, .none⟩]
  | .LANE_EQ_STATUS => [⟨2, 1, .ro, .none, .s, false, .none⟩,
      ⟨1, 1, .ro, .none, .s, false, .none⟩,
      ⟨0, 1, .ro, .none, .s, false, .none⟩]
  | .AISLE_PARSE_CFG => [⟨18, 1, .rw, .epoch, .c, false, .none⟩,
      ⟨17, 1, .rw, .epoch, .c, false, .none⟩,
      ⟨16, 1, .rw, .epoch, .c, false, .none⟩,
      ⟨0, 16, .rw, .epoch, .c, false, .none⟩]
  | .QTR_LDG_CFG => [⟨8, 8, .rw, .now, .c, false, some (0, 64)⟩,
      ⟨0, 5, .rw, .now, .c, false, some (1, 16)⟩]
  | .QTR_LDG_SEED_A => [⟨0, 32, .ro, .none, .s, false, .none⟩]
  | .QTR_LDG_SEED_B => [⟨0, 32, .ro, .none, .s, false, .none⟩]
  | .QTR_LDG_SEED_NEXT_A => [⟨0, 32, .rw, .now, .c, false, .none⟩]
  | .QTR_LDG_SEED_NEXT_B => [⟨0, 32, .rw, .now, .c, false, .none⟩]
  | .QTR_REHASH_CTL => [⟨0, 1, .wo, .now, .c, false, .none⟩]
  | .QTR_LDG_STATUS => [⟨31, 1, .ro, .none, .s, false, .none⟩,
      ⟨30, 1, .ro, .none, .s, false, .none⟩,
      ⟨23, 7, .ro, .none, .s, false, .none⟩,
      ⟨0, 20, .ro, .none, .s, false, .none⟩]
  | .QTR_STATUS => [⟨4, 1, .ro, .none, .s, false, .none⟩,
      ⟨0, 4, .ro, .none, .s, false, .none⟩]
  | .QTR_REHASH_PTR => [⟨17, 1, .ro, .none, .s, false, .none⟩,
      ⟨0, 17, .ro, .none, .s, false, .none⟩]
  | .QTR_AGE_CFG => [⟨0, 16, .rw, .now, .c, false, .none⟩]
  | .QTR_LEARN_CFG => [⟨0, 1, .rw, .pkt, .c, false, .none⟩]
  | .QTR_FLUSH => [⟨9, 1, .wo, .now, .c, false, .none⟩,
      ⟨0, 9, .wo, .now, .c, false, .none⟩]
  | .QTR_ECMP_CFG => [⟨24, 5, .rw, .pkt, .c, false, .none⟩,
      ⟨20, 4, .rw, .pkt, .c, false, .none⟩,
      ⟨0, 10, .rw, .pkt, .c, false, some (10, 1000)⟩]
  | .QTR_ECMP_SEED => [⟨0, 32, .rw, .pkt, .c, false, .none⟩]
  | .QTR_CRIER_STATUS => [⟨16, 11, .ro, .none, .s, false, .none⟩,
      ⟨0, 9, .ro, .none, .s, false, .none⟩]
  | .QTR_EVT_CAUSE => [⟨9, 1, .w1c, .now, .f, false, .none⟩,
      ⟨8, 1, .w1c, .now, .f, false, .none⟩,
      ⟨7, 1, .w1c, .now, .f, false, .none⟩,
      ⟨6, 1, .w1c, .now, .f, false, .none⟩,
      ⟨5, 1, .w1c, .now, .f, false, .none⟩,
      ⟨4, 1, .w1c, .now, .f, false, .none⟩,
      ⟨3, 1, .w1c, .now, .f, false, .none⟩,
      ⟨2, 1, .w1c, .now, .f, false, .none⟩,
      ⟨1, 1, .w1c, .now, .f, false, .none⟩,
      ⟨0, 1, .w1c, .now, .f, false, .none⟩]
  | .AISLE_SRCH_CFG => [⟨1, 1, .rw, .now, .c, false, .none⟩,
      ⟨0, 1, .rw, .now, .c, false, .none⟩]
  | .AISLE_SRCH_STATUS => [⟨8, 16, .ro, .none, .s, false, .none⟩,
      ⟨4, 2, .ro, .none, .s, false, .none⟩,
      ⟨0, 4, .ro, .none, .s, false, .none⟩]
  | .AISLE_REBUILD_CTL => [⟨31, 1, .wo, .now, .c, false, .none⟩,
      ⟨30, 1, .rw, .now, .c, false, .none⟩,
      ⟨24, 6, .rw, .now, .c, false, .none⟩,
      ⟨17, 7, .rw, .now, .c, false, some (0, 99)⟩,
      ⟨8, 8, .rw, .now, .c, false, some (0, 128)⟩,
      ⟨0, 8, .rw, .now, .c, false, some (0, 128)⟩]
  | .AISLE_REBUILD_STATUS => [⟨31, 1, .ro, .none, .s, false, .none⟩,
      ⟨29, 2, .ro, .none, .s, false, .none⟩,
      ⟨26, 3, .ro, .none, .s, false, .none⟩,
      ⟨0, 11, .ro, .none, .s, false, .none⟩]
  | .AISLE_LPM_MAP => [⟨16, 8, .rw, .pkt, .c, false, some (0, 128)⟩,
      ⟨8, 8, .rw, .pkt, .c, false, some (0, 128)⟩,
      ⟨0, 7, .rw, .pkt, .c, false, .none⟩]
  | .AISLE_RULE_MAP => [⟨8, 3, .rw, .pkt, .c, false, .none⟩,
      ⟨0, 7, .rw, .pkt, .c, false, .none⟩]
  | .AISLE_TILE_CFG => [⟨16, 12, .ro, .none, .s, false, .none⟩,
      ⟨14, 2, .ro, .none, .s, false, .none⟩,
      ⟨8, 6, .ro, .none, .s, false, .none⟩,
      ⟨0, 2, .rw, .now, .c, false, .none⟩]
  | .AISLE_SRCH_EVT_CAUSE => [⟨7, 1, .w1c, .now, .f, false, .none⟩,
      ⟨6, 1, .w1c, .now, .f, false, .none⟩,
      ⟨5, 1, .w1c, .now, .f, false, .none⟩,
      ⟨4, 1, .w1c, .now, .f, false, .none⟩,
      ⟨3, 1, .w1c, .now, .f, false, .none⟩,
      ⟨2, 1, .w1c, .now, .f, false, .none⟩,
      ⟨1, 1, .w1c, .now, .f, false, .none⟩,
      ⟨0, 1, .w1c, .now, .f, false, .none⟩]
  | .AISLE_MC_STATUS => [⟨31, 1, .ro, .none, .s, false, .none⟩,
      ⟨29, 2, .ro, .none, .s, false, .none⟩,
      ⟨23, 6, .ro, .none, .s, false, .none⟩,
      ⟨21, 2, .ro, .none, .s, false, .none⟩,
      ⟨20, 1, .w1c, .now, .f, false, .none⟩,
      ⟨0, 4, .ro, .none, .s, false, .none⟩]
  | .AISLE_MC_CAPTURE => [⟨29, 3, .ro, .none, .s, false, .none⟩,
      ⟨24, 5, .ro, .none, .s, false, .none⟩,
      ⟨11, 13, .ro, .none, .s, false, .none⟩,
      ⟨3, 8, .ro, .none, .s, false, .none⟩]
  | .AISLE_MC_CTL => [⟨31, 1, .wo, .now, .c, true, .none⟩,
      ⟨30, 1, .wo, .now, .c, true, .none⟩,
      ⟨29, 1, .wo, .now, .c, true, .none⟩,
      ⟨0, 13, .wo, .now, .c, true, .none⟩]
  | .AISLE_MC_EVT_CAUSE => [⟨6, 1, .w1c, .now, .f, false, .none⟩,
      ⟨5, 1, .w1c, .now, .f, false, .none⟩,
      ⟨4, 1, .w1c, .now, .f, false, .none⟩,
      ⟨3, 1, .w1c, .now, .f, false, .none⟩,
      ⟨2, 1, .w1c, .now, .f, false, .none⟩,
      ⟨1, 1, .w1c, .now, .f, false, .none⟩,
      ⟨0, 1, .w1c, .now, .f, false, .none⟩]
  | .PE_STATUS => [⟨31, 1, .ro, .none, .s, false, .none⟩,
      ⟨30, 1, .ro, .none, .s, false, .none⟩,
      ⟨28, 2, .ro, .none, .s, false, .none⟩,
      ⟨18, 10, .ro, .none, .s, false, .none⟩,
      ⟨17, 1, .w1c, .now, .f, false, .none⟩,
      ⟨0, 4, .ro, .none, .s, false, .none⟩]
  | .PE_MC_CAPTURE => [⟨29, 3, .ro, .none, .s, false, .none⟩,
      ⟨11, 13, .ro, .none, .s, false, .none⟩,
      ⟨3, 8, .ro, .none, .s, false, .none⟩]
  | .PE_MC_CTL => [⟨31, 1, .wo, .now, .c, true, .none⟩,
      ⟨30, 1, .wo, .now, .c, true, .none⟩,
      ⟨29, 1, .wo, .now, .c, true, .none⟩,
      ⟨0, 13, .wo, .now, .c, true, .none⟩]
  | .PE_LLDP_CFG => [⟨8, 12, .rw, .now, .c, false, some (1, 3600)⟩,
      ⟨4, 4, .rw, .now, .c, false, some (1, 15)⟩,
      ⟨3, 1, .rw, .now, .c, false, .none⟩,
      ⟨2, 1, .rw, .now, .c, false, .none⟩]
  | .SWC_POOL_CFG => [⟨0, 9, .rw, .now, .c, false, some (0, 288)⟩]
  | .SWC_POOL_TOTAL => [⟨0, 21, .ro, .none, .s, false, .none⟩]
  | .SWC_POOL_FREE => [⟨0, 21, .ro, .none, .s, false, .none⟩]
  | .SWC_POOL_LOW => [⟨0, 21, .cnt, .now, .k, false, .none⟩]
  | .SWC_POOL_RSV => [⟨0, 16, .rw, .now, .c, false, .none⟩]
  | .SWC_CFG => [⟨31, 1, .rw, .pkt, .c, false, .none⟩,
      ⟨28, 3, .rw, .pkt, .c, false, .none⟩,
      ⟨19, 5, .rw, .now, .c, false, some (4, 16)⟩,
      ⟨10, 9, .rw, .now, .c, false, some (0, 288)⟩,
      ⟨0, 9, .rw, .pkt, .c, false, some (1, 288)⟩]
  | .SWC_CFG2 => [⟨0, 16, .rw, .now, .c, false, .none⟩]
  | .SWC_CTL => [⟨0, 1, .wo, .now, .c, false, .none⟩]
  | .SWC_STATUS => [⟨31, 1, .ro, .none, .s, false, .none⟩,
      ⟨30, 1, .ro, .none, .s, false, .none⟩,
      ⟨4, 9, .ro, .none, .s, false, .none⟩,
      ⟨0, 4, .ro, .none, .s, false, .none⟩]
  | .SWC_SHARED_FREE => [⟨0, 32, .ro, .none, .s, false, .none⟩]
  | .SWC_DESC_FREE => [⟨0, 21, .ro, .none, .s, false, .none⟩]
  | .SWC_ILLFREE_CAP0 => [⟨31, 1, .w1c, .now, .f, false, .none⟩,
      ⟨28, 3, .ro, .none, .s, false, .none⟩,
      ⟨0, 23, .ro, .none, .s, false, .none⟩]
  | .SWC_ILLFREE_CAP1 => [⟨17, 9, .ro, .none, .s, false, .none⟩,
      ⟨13, 4, .ro, .none, .s, false, .none⟩,
      ⟨4, 9, .ro, .none, .s, false, .none⟩,
      ⟨0, 4, .ro, .none, .s, false, .none⟩]
  | .SWC_PORT_CFG => [⟨31, 1, .rw, .pkt, .c, false, .none⟩,
      ⟨20, 8, .rw, .now, .c, false, .none⟩,
      ⟨0, 20, .rw, .pkt, .c, false, some (0, 1000000)⟩]
  | .SWC_PORT_CFG2 => [⟨0, 14, .rw, .now, .c, false, some (64, 10240)⟩]
  | .SWC_PORT_STATE => [⟨31, 1, .ro, .none, .s, false, .none⟩,
      ⟨30, 1, .ro, .none, .s, false, .none⟩,
      ⟨29, 1, .ro, .none, .s, false, .none⟩,
      ⟨20, 8, .ro, .none, .s, false, .none⟩,
      ⟨19, 1, .ro, .none, .s, false, .none⟩]
  | .SWC_PORT_HDRM => [⟨16, 16, .ro, .none, .s, false, .none⟩,
      ⟨0, 16, .ro, .none, .s, false, .none⟩]
  | .SWC_EVT_CAUSE => [⟨10, 1, .w1c, .now, .f, false, .none⟩,
      ⟨9, 1, .w1c, .now, .f, false, .none⟩,
      ⟨8, 1, .w1c, .now, .f, false, .none⟩,
      ⟨7, 1, .w1c, .now, .f, false, .none⟩,
      ⟨6, 1, .w1c, .now, .f, false, .none⟩,
      ⟨5, 1, .w1c, .now, .f, false, .none⟩,
      ⟨4, 1, .w1c, .now, .f, false, .none⟩,
      ⟨3, 1, .w1c, .now, .f, false, .none⟩,
      ⟨2, 1, .w1c, .now, .f, false, .none⟩,
      ⟨1, 1, .w1c, .now, .f, false, .none⟩,
      ⟨0, 1, .w1c, .now, .f, false, .none⟩]
  | .SCH_STATUS => [⟨0, 4, .ro, .none, .s, false, .none⟩]
  | .SCH_EVT_CAUSE => [⟨4, 1, .w1c, .now, .f, false, .none⟩,
      ⟨3, 1, .w1c, .now, .f, false, .none⟩,
      ⟨2, 1, .w1c, .now, .f, false, .none⟩,
      ⟨1, 1, .w1c, .now, .f, false, .none⟩,
      ⟨0, 1, .w1c, .now, .f, false, .none⟩]
  | .SCH_PORT_CFG => [⟨31, 1, .rw, .now, .c, false, .none⟩,
      ⟨30, 1, .rw, .gate, .c, false, .none⟩,
      ⟨29, 1, .rw, .gate, .c, false, .none⟩,
      ⟨16, 8, .rw, .gate, .c, false, some (-32, 63)⟩,
      ⟨0, 16, .rw, .now, .c, false, .none⟩]
  | .SCH_PORT_RATE => [⟨0, 24, .rw, .gate, .c, false, .none⟩]
  | .SCH_PORT_BURST => [⟨0, 24, .rw, .gate, .c, false, .none⟩]
  | .SCH_SAMP_CFG => [⟨16, 10, .rw, .now, .c, false, some (1, 1000)⟩,
      ⟨0, 16, .rw, .now, .c, false, some (1, 65535)⟩]
  | .SCH_SAMP_CTL => [⟨20, 12, .rw, .now, .c, false, .none⟩,
      ⟨0, 9, .wo, .now, .c, false, .none⟩]
  | .SCH_HL_CYCLE => [⟨0, 30, .rw, .now, .c, false, .none⟩]
  | .SCH_HL_BASE_NS => [⟨0, 30, .rw, .now, .c, false, some (0, 999999999)⟩]
  | .SCH_HL_BASE_S => [⟨0, 32, .rw, .now, .c, false, .none⟩]
  | .SCH_HL_BASE_SH => [⟨16, 9, .rw, .now, .c, false, .none⟩,
      ⟨0, 16, .rw, .now, .c, false, .none⟩]
  | .SCH_HL_CTL => [⟨2, 1, .wo, .now, .c, false, .none⟩,
      ⟨1, 1, .wo, .now, .c, false, .none⟩,
      ⟨0, 1, .wo, .now, .c, false, .none⟩]
  | .SCH_HL_STATUS => [⟨31, 1, .w1c, .now, .f, false, .none⟩,
      ⟨30, 1, .ro, .none, .s, false, .none⟩,
      ⟨29, 1, .ro, .none, .s, false, .none⟩,
      ⟨28, 1, .ro, .none, .s, false, .none⟩,
      ⟨8, 9, .ro, .none, .s, false, .none⟩,
      ⟨0, 8, .ro, .none, .s, false, .none⟩]
  | .SCH_HL_START_NS => [⟨0, 30, .ro, .none, .s, false, .none⟩]
  | .SCH_HL_START_S => [⟨0, 32, .ro, .none, .s, false, .none⟩]
  | .SCH_HL_START_SH => [⟨0, 16, .ro, .none, .s, false, .none⟩]
  | .SCH_Q_CFG => [⟨31, 1, .rw, .gate, .c, false, .none⟩,
      ⟨30, 1, .rw, .gate, .c, false, .none⟩,
      ⟨29, 1, .rw, .gate, .c, false, .none⟩,
      ⟨28, 1, .rw, .frm, .c, false, .none⟩,
      ⟨25, 3, .rw, .frm, .c, false, .none⟩,
      ⟨0, 17, .rw, .gate, .c, false, some (64, 65536)⟩]
  | .SCH_Q_MIN => [⟨0, 24, .rw, .gate, .c, false, .none⟩]
  | .SCH_Q_MAX => [⟨0, 24, .rw, .gate, .c, false, .none⟩]
  | .SCH_Q_BURST => [⟨16, 16, .rw, .gate, .c, false, .none⟩,
      ⟨0, 16, .rw, .gate, .c, false, .none⟩]
  | .TIME_STATUS => [⟨4, 1, .ro, .none, .s, false, .none⟩,
      ⟨0, 4, .ro, .none, .s, false, .none⟩]
  | .TIME_CAL_CFG => [⟨24, 8, .rw, .now, .c, false, some (2, 50)⟩,
      ⟨8, 16, .rw, .now, .c, false, .none⟩,
      ⟨0, 8, .rw, .now, .c, false, some (1, 255)⟩]
  | .TIME_PORT_CFG => [⟨3, 1, .rw, .now, .c, false, .none⟩,
      ⟨2, 1, .rw, .now, .c, false, .none⟩,
      ⟨1, 1, .rw, .frm, .c, false, .none⟩,
      ⟨0, 1, .rw, .frm, .c, false, .none⟩]
  | .TIME_PORT_ASYM => [⟨0, 32, .rw, .frm, .c, false, .none⟩]
  | .TIME_PORT_LINKDLY => [⟨0, 32, .ro, .none, .s, false, .none⟩]
  | .TIME_PORT_CAL_STATUS => [⟨31, 1, .ro, .none, .s, false, .none⟩,
      ⟨30, 1, .ro, .none, .s, false, .none⟩,
      ⟨27, 3, .ro, .none, .s, false, .none⟩,
      ⟨23, 4, .ro, .none, .s, false, .none⟩,
      ⟨0, 16, .ro, .none, .s, false, .none⟩]
  | .TIME_PORT_CTL => [⟨1, 1, .wo, .now, .c, false, .none⟩,
      ⟨0, 1, .wo, .now, .c, false, .none⟩]
  | .TIME_PORT_EVT_CAUSE => [⟨5, 1, .w1c, .now, .f, false, .none⟩,
      ⟨4, 1, .w1c, .now, .f, false, .none⟩,
      ⟨3, 1, .w1c, .now, .f, false, .none⟩,
      ⟨2, 1, .w1c, .now, .f, false, .none⟩,
      ⟨1, 1, .w1c, .now, .f, false, .none⟩,
      ⟨0, 1, .w1c, .now, .f, false, .none⟩]
  | .TIME_PTP_CFG => [⟨16, 8, .rw, .now, .c, false, .none⟩,
      ⟨8, 2, .rw, .now, .c, false, .none⟩,
      ⟨0, 8, .rw, .now, .c, false, some (2, 10)⟩]
  | .TIME_SERVO_CFG => [⟨24, 8, .rw, .now, .c, false, some (1, 100)⟩,
      ⟨23, 1, .rw, .now, .c, false, .none⟩,
      ⟨0, 20, .rw, .now, .c, false, some (100, 1000000)⟩]
  | .TIME_SERVO_CFG2 => [⟨16, 16, .rw, .now, .c, false, some (10, 65535)⟩,
      ⟨0, 16, .rw, .now, .c, false, some (1, 65535)⟩]
  | .TIME_SERVO_STATUS => [⟨29, 3, .ro, .none, .s, false, .none⟩,
      ⟨27, 2, .ro, .none, .s, false, .none⟩,
      ⟨18, 9, .ro, .none, .s, false, .none⟩,
      ⟨0, 16, .ro, .none, .s, false, .none⟩]
  | .TIME_SERVO_CTL => [⟨0, 2, .rw, .now, .c, false, .none⟩]
  | .TIME_HO_CFG => [⟨16, 16, .rw, .now, .c, false, .none⟩,
      ⟨0, 16, .rw, .now, .c, false, .none⟩]
  | .TIME_DPLL_CFG => [⟨24, 4, .rw, .now, .c, false, some (0, 12)⟩,
      ⟨23, 1, .rw, .now, .c, false, .none⟩,
      ⟨20, 2, .rw, .now, .c, false, .none⟩,
      ⟨16, 4, .rw, .now, .c, false, .none⟩,
      ⟨0, 16, .rw, .now, .c, false, .none⟩]
  | .TIME_DPLL_SRC => [⟨16, 9, .rw, .now, .c, false, .none⟩,
      ⟨0, 9, .rw, .now, .c, false, .none⟩]
  | .TIME_DPLL_QL => [⟨16, 1, .rw, .now, .c, false, .none⟩,
      ⟨12, 4, .rw, .now, .c, false, .none⟩,
      ⟨8, 4, .rw, .now, .c, false, .none⟩,
      ⟨4, 4, .rw, .now, .c, false, .none⟩]
  | .TIME_DPLL_STATUS => [⟨29, 3, .ro, .none, .s, false, .none⟩,
      ⟨26, 3, .ro, .none, .s, false, .none⟩,
      ⟨22, 4, .ro, .none, .s, false, .none⟩,
      ⟨18, 4, .ro, .none, .s, false, .none⟩]
  | .TIME_OUT_CFG => [⟨30, 2, .rw, .now, .c, false, .none⟩,
      ⟨20, 10, .rw, .now, .c, false, some (1, 999)⟩,
      ⟨17, 3, .rw, .now, .c, false, .none⟩,
      ⟨14, 3, .rw, .now, .c, false, .none⟩,
      ⟨13, 1, .rw, .now, .c, false, .none⟩,
      ⟨12, 1, .rw, .now, .c, false, .none⟩,
      ⟨11, 1, .rw, .now, .c, false, .none⟩,
      ⟨0, 11, .rw, .now, .c, false, some (10, 800)⟩]
  | .TIME_TALLY_CFG => [⟨31, 1, .rw, .now, .c, false, .none⟩,
      ⟨16, 14, .rw, .now, .c, false, some (512, 8192)⟩,
      ⟨0, 12, .rw, .now, .c, false, some (1, 3600)⟩]
  | .TIME_TALLY_STATUS => [⟨0, 32, .ro, .none, .s, false, .none⟩]
  | .TIME_PORT_PTP => [⟨30, 2, .rw, .now, .c, false, .none⟩,
      ⟨29, 1, .rw, .now, .c, false, .none⟩,
      ⟨16, 8, .rw, .now, .c, false, some (1, 255)⟩,
      ⟨12, 4, .rw, .now, .c, false, some (0, 7)⟩,
      ⟨8, 4, .rw, .now, .c, false, some (0, 7)⟩,
      ⟨4, 4, .rw, .now, .c, false, some (0, 3)⟩]
  | .TIME_PORT_PTP_STATUS => [⟨28, 4, .ro, .none, .s, false, .none⟩,
      ⟨24, 4, .ro, .none, .s, false, .none⟩,
      ⟨23, 1, .ro, .none, .s, false, .none⟩]
  | .TIME_SVC_EVT_CAUSE => [⟨7, 1, .w1c, .now, .f, false, .none⟩,
      ⟨6, 1, .w1c, .now, .f, false, .none⟩,
      ⟨5, 1, .w1c, .now, .f, false, .none⟩,
      ⟨4, 1, .w1c, .now, .f, false, .none⟩,
      ⟨3, 1, .w1c, .now, .f, false, .none⟩,
      ⟨2, 1, .w1c, .now, .f, false, .none⟩,
      ⟨1, 1, .w1c, .now, .f, false, .none⟩,
      ⟨0, 1, .w1c, .now, .f, false, .none⟩]
  | .SYS_IDENT => [⟨16, 16, .ro, .none, .s, false, .none⟩,
      ⟨0, 16, .ro, .none, .s, false, .none⟩]
  | .SYS_REV => [⟨8, 8, .ro, .none, .s, false, .none⟩,
      ⟨0, 8, .ro, .none, .s, false, .none⟩]
  | .SYS_UID_LO => [⟨0, 32, .ro, .none, .s, false, .none⟩]
  | .SYS_UID_HI => [⟨0, 32, .ro, .none, .s, false, .none⟩]
  | .SYS_IF_CFG => [⟨1, 1, .rw, .now, .c, false, .none⟩,
      ⟨0, 1, .rw, .now, .c, false, .none⟩]
  | .SYS_REJECT_ADDR => [⟨31, 1, .w1c, .now, .f, false, .none⟩,
      ⟨30, 1, .w1c, .now, .f, false, .none⟩,
      ⟨0, 26, .ro, .none, .s, false, .none⟩]
  | .SYS_REJECT_INFO => [⟨28, 4, .ro, .none, .s, false, .none⟩,
      ⟨24, 4, .ro, .none, .s, false, .none⟩,
      ⟨0, 8, .ro, .none, .s, false, .none⟩]
  | .SYS_LOCKED_WR => [⟨31, 1, .w1c, .now, .f, false, .none⟩,
      ⟨30, 1, .w1c, .now, .f, false, .none⟩,
      ⟨0, 26, .ro, .none, .s, false, .none⟩]
  | .SYS_LOCKED_WR_INFO => [⟨28, 4, .ro, .none, .s, false, .none⟩]
  | .SYS_BUS_ERR => [⟨31, 1, .w1c, .now, .f, false, .none⟩,
      ⟨30, 1, .w1c, .now, .f, false, .none⟩,
      ⟨0, 26, .ro, .none, .s, false, .none⟩]
  | .SYS_BUS_ERR_INFO => [⟨28, 4, .ro, .none, .s, false, .none⟩,
      ⟨26, 2, .ro, .none, .s, false, .none⟩,
      ⟨25, 1, .ro, .none, .s, false, .none⟩]
  | .SYS_EVT_CAUSE => [⟨2, 1, .w1c, .now, .f, false, .none⟩,
      ⟨1, 1, .w1c, .now, .f, false, .none⟩,
      ⟨0, 1, .w1c, .now, .f, false, .none⟩]
  | .SYS_STATUS => [⟨0, 4, .ro, .none, .s, false, .none⟩]
  | .EVT_STATUS => [⟨0, 32, .w1c, .now, .f, false, .none⟩]
  | .EVT_ENABLE => [⟨0, 32, .rw, .now, .c, false, .none⟩]
  | .EVT_ROUTE => [⟨16, 3, .rw, .now, .c, false, .none⟩,
      ⟨0, 11, .rw, .now, .c, false, .none⟩]
  | .EVT_Z_STATUS => [⟨0, 32, .w1c, .now, .f, true, .none⟩]
  | .EVT_Z_ENABLE => [⟨0, 32, .rw, .now, .c, true, .none⟩]
  | .EVT_SUMMARY0 => [⟨0, 32, .ro, .none, .s, false, .none⟩]
  | .EVT_SUMMARY1 => [⟨0, 24, .ro, .none, .s, false, .none⟩]
  | .EVT_Z_SUMMARY0 => [⟨0, 32, .ro, .none, .s, true, .none⟩]
  | .EVT_Z_SUMMARY1 => [⟨0, 24, .ro, .none, .s, true, .none⟩]
  | .EVT_CFG => [⟨0, 10, .rw, .now, .c, false, some (0, 1000)⟩]
  | .EVT_TEST => [⟨31, 1, .wo, .now, .c, false, .none⟩,
      ⟨0, 11, .wo, .now, .c, false, .none⟩]
  | .EVT_MSI_LOST => [⟨0, 32, .cnt, .now, .k, false, .none⟩]
  | .MBX_CTL => [⟨31, 1, .w1s, .now, .f, false, .none⟩,
      ⟨30, 1, .ro, .none, .s, false, .none⟩,
      ⟨29, 1, .ro, .none, .s, false, .none⟩,
      ⟨24, 4, .ro, .none, .s, false, .none⟩,
      ⟨16, 8, .rw, .now, .c, false, .none⟩,
      ⟨8, 8, .rw, .now, .c, false, .none⟩,
      ⟨0, 4, .rw, .now, .c, false, .none⟩]
  | .MBX_SEL => [⟨24, 8, .rw, .now, .c, false, .none⟩,
      ⟨0, 24, .rw, .now, .c, false, .none⟩]
  | .MBX_DATA => [⟨0, 32, .rw, .now, .c, false, .none⟩]
  | .SYS_SWRESET => [⟨16, 16, .wo, .now, .c, false, .none⟩]
  | .CLK_STATUS => [⟨31, 1, .ro, .none, .s, false, .none⟩,
      ⟨30, 1, .ro, .none, .s, false, .none⟩,
      ⟨29, 1, .ro, .none, .s, false, .none⟩,
      ⟨28, 1, .ro, .none, .s, false, .none⟩,
      ⟨26, 2, .ro, .none, .s, false, .none⟩,
      ⟨0, 4, .ro, .none, .s, false, .none⟩]
  | .CLK_RST_CAUSE => [⟨31, 1, .w1c, .now, .f, false, .none⟩,
      ⟨30, 1, .w1c, .now, .f, false, .none⟩,
      ⟨29, 1, .w1c, .now, .f, false, .none⟩,
      ⟨28, 1, .w1c, .now, .f, false, .none⟩,
      ⟨27, 1, .w1c, .now, .f, false, .none⟩,
      ⟨26, 1, .w1c, .now, .f, false, .none⟩,
      ⟨25, 1, .w1c, .now, .f, false, .none⟩,
      ⟨24, 1, .w1c, .now, .f, false, .none⟩,
      ⟨8, 8, .cnt, .now, .k, false, .none⟩]
  | .CLK_OPT_STATUS => [⟨30, 2, .ro, .none, .s, false, .none⟩,
      ⟨29, 1, .ro, .none, .s, false, .none⟩,
      ⟨28, 1, .ro, .none, .s, false, .none⟩,
      ⟨20, 8, .ro, .none, .s, false, .none⟩,
      ⟨0, 7, .ro, .none, .s, false, .none⟩]
  | .CLK_WDT_CFG => [⟨31, 1, .rw, .now, .c, true, .none⟩,
      ⟨0, 16, .rw, .now, .c, true, some (10, 10000)⟩]
  | .CLK_WDT_KICK => [⟨0, 16, .wo, .now, .c, true, .none⟩]
  | .CLK_WDT_STATUS => [⟨16, 16, .ro, .none, .s, false, .none⟩,
      ⟨0, 16, .cnt, .now, .k, false, .none⟩]
  | .CLK_SOFT_RST0 => [⟨0, 32, .w1s, .now, .f, false, .none⟩]
  | .CLK_SOFT_RST1 => [⟨0, 32, .w1s, .now, .f, false, .none⟩]
  | .CLK_SOFT_RST2 => [⟨26, 1, .w1s, .now, .f, true, .none⟩,
      ⟨25, 1, .w1s, .now, .f, false, .none⟩,
      ⟨24, 1, .w1s, .now, .f, false, .none⟩,
      ⟨23, 1, .w1s, .now, .f, false, .none⟩,
      ⟨22, 1, .w1s, .now, .f, false, .none⟩,
      ⟨21, 1, .w1s, .now, .f, false, .none⟩,
      ⟨20, 1, .w1s, .now, .f, false, .none⟩,
      ⟨16, 4, .w1s, .now, .f, false, .none⟩,
      ⟨0, 16, .w1s, .now, .f, false, .none⟩]
  | .CLK_EVT_CAUSE => [⟨9, 1, .w1c, .now, .f, false, .none⟩,
      ⟨8, 1, .w1c, .now, .f, false, .none⟩,
      ⟨7, 1, .w1c, .now, .f, false, .none⟩,
      ⟨6, 1, .w1c, .now, .f, false, .none⟩,
      ⟨5, 1, .w1c, .now, .f, false, .none⟩,
      ⟨4, 1, .w1c, .now, .f, false, .none⟩,
      ⟨3, 1, .w1c, .now, .f, false, .none⟩,
      ⟨2, 1, .w1c, .now, .f, false, .none⟩,
      ⟨1, 1, .w1c, .now, .f, false, .none⟩,
      ⟨0, 1, .w1c, .now, .f, false, .none⟩]
  | .SYS_MODE => [⟨21, 3, .ro, .none, .s, false, .none⟩,
      ⟨20, 1, .ro, .none, .s, false, .none⟩,
      ⟨18, 2, .ro, .none, .s, false, .none⟩,
      ⟨16, 2, .ro, .none, .s, false, .none⟩,
      ⟨15, 1, .ro, .none, .s, false, .none⟩,
      ⟨14, 1, .ro, .none, .s, false, .none⟩,
      ⟨13, 1, .ro, .none, .s, false, .none⟩,
      ⟨11, 2, .ro, .none, .s, false, .none⟩,
      ⟨8, 3, .ro, .none, .s, false, .none⟩,
      ⟨0, 3, .ro, .none, .s, false, .none⟩]
  | .SYS_MODE_REQ => [⟨31, 1, .wo, .now, .c, false, .none⟩,
      ⟨4, 2, .wo, .now, .c, false, .none⟩,
      ⟨0, 3, .wo, .now, .c, false, .none⟩]
  | .SYS_MODE_CFG => [⟨1, 1, .rw, .now, .c, false, .none⟩,
      ⟨0, 1, .rw, .now, .c, false, .none⟩]
  | .SYS_EPOCH => [⟨16, 16, .ro, .none, .s, false, .none⟩,
      ⟨0, 16, .ro, .none, .s, false, .none⟩]
  | .SYS_EPOCH_REQ => [⟨31, 1, .wo, .now, .c, false, .none⟩]
  | .SYS_EPOCH_APPLIED0 => [⟨0, 32, .ro, .none, .s, false, .none⟩]
  | .SYS_EPOCH_APPLIED1 => [⟨0, 32, .ro, .none, .s, false, .none⟩]
  | .SYS_EPOCH_APPLIED2 => [⟨0, 24, .ro, .none, .s, false, .none⟩]
  | .SYS_EPOCH_LATE => [⟨0, 32, .cnt, .now, .k, false, .none⟩]
  | .SYS_PROVE_CTL => [⟨31, 1, .wo, .now, .c, false, .none⟩,
      ⟨0, 6, .rw, .now, .c, false, .none⟩]
  | .SYS_PROVE_STATUS => [⟨31, 1, .ro, .none, .s, false, .none⟩,
      ⟨8, 6, .ro, .none, .s, false, .none⟩,
      ⟨0, 6, .ro, .none, .s, false, .none⟩]
  | .SYS_MODE_EVT_CAUSE => [⟨11, 1, .w1c, .now, .f, false, .none⟩,
      ⟨10, 1, .w1c, .now, .f, false, .none⟩,
      ⟨9, 1, .w1c, .now, .f, false, .none⟩,
      ⟨8, 1, .w1c, .now, .f, false, .none⟩,
      ⟨7, 1, .w1c, .now, .f, false, .none⟩,
      ⟨6, 1, .w1c, .now, .f, false, .none⟩,
      ⟨5, 1, .w1c, .now, .f, false, .none⟩,
      ⟨4, 1, .w1c, .now, .f, false, .none⟩,
      ⟨3, 1, .w1c, .now, .f, false, .none⟩,
      ⟨2, 1, .w1c, .now, .f, false, .none⟩,
      ⟨1, 1, .w1c, .now, .f, false, .none⟩,
      ⟨0, 1, .w1c, .now, .f, false, .none⟩]
  | .SYS_OWNER => [⟨2, 2, .ro, .none, .s, false, .none⟩,
      ⟨0, 2, .ro, .none, .s, false, .none⟩]
  | .SYS_OWNER_CTL => [⟨31, 1, .wo, .now, .c, false, .none⟩,
      ⟨30, 1, .wo, .now, .c, false, .none⟩,
      ⟨29, 1, .wo, .now, .c, false, .none⟩]
  | .SYS_OWNER_CFG => [⟨31, 1, .rw, .now, .c, true, .none⟩,
      ⟨0, 16, .rw, .now, .c, false, .none⟩]
  | .NVM_STATUS => [⟨23, 9, .ro, .none, .s, false, .none⟩,
      ⟨17, 1, .ro, .none, .s, false, .none⟩,
      ⟨16, 1, .ro, .none, .s, false, .none⟩,
      ⟨13, 1, .ro, .none, .s, false, .none⟩,
      ⟨12, 1, .ro, .none, .s, false, .none⟩,
      ⟨8, 2, .ro, .none, .s, false, .none⟩,
      ⟨0, 4, .ro, .none, .s, false, .none⟩]
  | .NVM_BOOT => [⟨3, 2, .rw, .now, .c, false, .none⟩,
      ⟨1, 1, .rw, .now, .c, true, .none⟩,
      ⟨0, 1, .rw, .now, .c, true, .none⟩]
  | .NVM_CTL => [⟨0, 1, .rw, .now, .c, false, .none⟩]
  | .NVM_FAULT => [⟨0, 13, .ro, .none, .s, false, .none⟩]
  | .DMA_RING_BASE_LO => [⟨6, 26, .rw, .now, .c, false, .none⟩]
  | .DMA_RING_BASE_HI => [⟨0, 32, .rw, .now, .c, false, .none⟩]
  | .DMA_CPL_BASE_LO => [⟨6, 26, .rw, .now, .c, false, .none⟩]
  | .DMA_CPL_BASE_HI => [⟨0, 32, .rw, .now, .c, false, .none⟩]
  | .DMA_RING_CFG => [⟨31, 1, .rw, .now, .c, false, .none⟩,
      ⟨0, 4, .rw, .now, .c, false, some (2, 12)⟩]
  | .DMA_RING_TAIL => [⟨0, 12, .rw, .now, .c, false, .none⟩]
  | .DMA_RING_HEAD => [⟨0, 12, .ro, .none, .s, false, .none⟩]
  | .DMA_STATUS => [⟨0, 4, .ro, .none, .s, false, .none⟩]
  | .DMA_PADLOCK => [⟨17, 15, .ro, .none, .s, false, .none⟩,
      ⟨1, 16, .ro, .none, .s, false, .none⟩]
  | .DMA_CFG => [⟨16, 3, .rw, .now, .c, false, .none⟩,
      ⟨0, 16, .rw, .now, .c, false, some (1, 60000)⟩]
  | .HQ_BASE_LO => [⟨0, 32, .rw, .now, .c, false, .none⟩]
  | .HQ_BASE_HI => [⟨0, 32, .rw, .now, .c, false, .none⟩]
  | .HQ_CFG => [⟨31, 1, .rw, .now, .c, false, .none⟩,
      ⟨0, 4, .rw, .now, .c, false, some (4, 12)⟩]
  | .HQ_TAIL => [⟨0, 12, .rw, .now, .c, false, .none⟩]
  | .HQ_HEAD => [⟨0, 12, .ro, .none, .s, false, .none⟩]
  | .HQ_LOST => [⟨0, 32, .cnt, .now, .k, false, .none⟩]
  | .ASSAY_CFG => [⟨31, 1, .rw, .now, .c, false, .none⟩,
      ⟨29, 2, .rw, .now, .c, false, .none⟩,
      ⟨16, 8, .rw, .now, .c, false, some (1, 255)⟩,
      ⟨0, 16, .rw, .now, .c, false, some (1, 65535)⟩]
  | .ASSAY_RATE => [⟨0, 20, .rw, .now, .c, false, some (1, 1000000)⟩]
  | .ASSAY_SHADOW_LO => [⟨0, 32, .rw, .now, .c, false, .none⟩]
  | .ASSAY_SHADOW_HI => [⟨0, 32, .rw, .now, .c, false, .none⟩]
  | .ASSAY_CTL => [⟨0, 1, .rw, .now, .c, false, .none⟩]
  | .ASSAY_STATUS => [⟨30, 2, .ro, .none, .s, false, .none⟩,
      ⟨29, 1, .ro, .none, .s, false, .none⟩,
      ⟨0, 16, .ro, .none, .s, false, .none⟩]
  | .QTR_ASSAY_EVT_CAUSE => [⟨8, 1, .w1c, .now, .f, false, .none⟩,
      ⟨7, 1, .w1c, .now, .f, false, .none⟩,
      ⟨6, 1, .w1c, .now, .f, false, .none⟩,
      ⟨5, 1, .w1c, .now, .f, false, .none⟩,
      ⟨4, 1, .w1c, .now, .f, false, .none⟩,
      ⟨3, 1, .w1c, .now, .f, false, .none⟩,
      ⟨2, 1, .w1c, .now, .f, false, .none⟩,
      ⟨1, 1, .w1c, .now, .f, false, .none⟩,
      ⟨0, 1, .w1c, .now, .f, false, .none⟩]
  | .SEC_STATUS => [⟨31, 1, .ro, .none, .s, false, .none⟩,
      ⟨30, 1, .ro, .none, .s, false, .none⟩,
      ⟨29, 1, .ro, .none, .s, false, .none⟩,
      ⟨28, 1, .ro, .none, .s, false, .none⟩,
      ⟨27, 1, .ro, .none, .s, false, .none⟩,
      ⟨26, 1, .ro, .none, .s, false, .none⟩,
      ⟨25, 1, .ro, .none, .s, false, .none⟩,
      ⟨24, 1, .ro, .none, .s, false, .none⟩,
      ⟨22, 2, .ro, .none, .s, false, .none⟩,
      ⟨18, 4, .ro, .none, .s, false, .none⟩,
      ⟨16, 2, .ro, .none, .s, false, .none⟩,
      ⟨12, 4, .ro, .none, .s, false, .none⟩,
      ⟨0, 4, .ro, .none, .s, false, .none⟩]
  | .SEC_CFG => [⟨3, 1, .lck, .now, .c, true, .none⟩,
      ⟨2, 1, .lck, .now, .c, true, .none⟩,
      ⟨1, 1, .lck, .now, .c, true, .none⟩,
      ⟨0, 1, .lck, .now, .c, true, .none⟩]
  | .SEC_LOCK => [⟨0, 1, .w1s, .now, .f, true, .none⟩]
  | .SEC_SVN => [⟨16, 7, .ro, .none, .s, false, .none⟩,
      ⟨8, 7, .ro, .none, .s, false, .none⟩,
      ⟨0, 7, .ro, .none, .s, false, .none⟩]
  | .SEC_SVN_CTL => [⟨31, 1, .wo, .now, .c, true, .none⟩,
      ⟨24, 2, .wo, .now, .c, true, .none⟩,
      ⟨0, 7, .wo, .now, .c, true, .none⟩]
  | .SEC_OTP_CTL => [⟨31, 1, .wo, .now, .c, true, .none⟩,
      ⟨0, 4, .wo, .now, .c, true, .none⟩]
  | .SEC_EVT_CAUSE => [⟨11, 1, .w1c, .now, .f, false, .none⟩,
      ⟨10, 1, .w1c, .now, .f, false, .none⟩,
      ⟨9, 1, .w1c, .now, .f, false, .none⟩,
      ⟨8, 1, .w1c, .now, .f, false, .none⟩,
      ⟨7, 1, .w1c, .now, .f, false, .none⟩,
      ⟨6, 1, .w1c, .now, .f, false, .none⟩,
      ⟨5, 1, .w1c, .now, .f, false, .none⟩,
      ⟨4, 1, .w1c, .now, .f, false, .none⟩,
      ⟨3, 1, .w1c, .now, .f, false, .none⟩,
      ⟨2, 1, .w1c, .now, .f, false, .none⟩,
      ⟨1, 1, .w1c, .now, .f, false, .none⟩,
      ⟨0, 1, .w1c, .now, .f, false, .none⟩]
  | .THM_STATUS => [⟨26, 1, .ro, .none, .s, false, .none⟩,
      ⟨24, 2, .ro, .none, .s, false, .none⟩,
      ⟨18, 6, .ro, .none, .s, false, .none⟩,
      ⟨0, 12, .ro, .none, .s, false, .none⟩]
  | .THM_CFG => [⟨24, 8, .ro, .none, .s, false, .none⟩,
      ⟨16, 8, .ro, .none, .s, false, .none⟩,
      ⟨0, 4, .rw, .now, .c, false, some (1, 8)⟩]
  | .THM_FAIL0 => [⟨0, 32, .ro, .none, .s, false, .none⟩]
  | .THM_FAIL1 => [⟨0, 16, .ro, .none, .s, false, .none⟩]
  | .THM_SENSOR => [⟨0, 12, .ro, .none, .s, false, .none⟩]
  | .THM_EVT_CAUSE => [⟨4, 1, .w1c, .now, .f, false, .none⟩,
      ⟨3, 1, .w1c, .now, .f, false, .none⟩,
      ⟨2, 1, .w1c, .now, .f, false, .none⟩,
      ⟨1, 1, .w1c, .now, .f, false, .none⟩,
      ⟨0, 1, .w1c, .now, .f, false, .none⟩]
  | .PWR_CFG => [⟨0, 10, .rw, .now, .c, false, some (0, 1000)⟩]
  | .PWR_STATUS => [⟨0, 10, .ro, .none, .s, false, .none⟩]
  | .SHR_CFG => [⟨31, 1, .rw, .now, .c, false, .none⟩,
      ⟨16, 8, .rw, .now, .c, false, some (1, 168)⟩,
      ⟨8, 8, .rw, .now, .c, false, .none⟩,
      ⟨0, 8, .rw, .now, .c, false, .none⟩]
  | .SHR_CFG2 => [⟨16, 16, .rw, .now, .c, false, .none⟩,
      ⟨8, 8, .rw, .now, .c, false, some (1, 100)⟩,
      ⟨0, 8, .rw, .now, .c, false, some (1, 100)⟩]
  | .SHR_STATUS => [⟨28, 4, .ro, .none, .s, false, .none⟩,
      ⟨27, 1, .ro, .none, .s, false, .none⟩,
      ⟨26, 1, .ro, .none, .s, false, .none⟩,
      ⟨22, 3, .ro, .none, .s, false, .none⟩,
      ⟨0, 22, .ro, .none, .s, false, .none⟩]
  | .SHR_CTL => [⟨7, 10, .rw, .now, .c, false, some (10, 1000)⟩,
      ⟨0, 1, .wo, .now, .c, false, .none⟩]
  | .SHR_AVS_TARGET => [⟨0, 10, .rw, .now, .c, true, .none⟩]
  | .SHR_AVS_STATUS => [⟨16, 16, .ro, .none, .s, false, .none⟩,
      ⟨0, 16, .ro, .none, .s, false, .none⟩]
  | .SHR_EVT_CAUSE => [⟨10, 1, .w1c, .now, .f, false, .none⟩,
      ⟨9, 1, .w1c, .now, .f, false, .none⟩,
      ⟨8, 1, .w1c, .now, .f, false, .none⟩,
      ⟨7, 1, .w1c, .now, .f, false, .none⟩,
      ⟨6, 1, .w1c, .now, .f, false, .none⟩,
      ⟨5, 1, .w1c, .now, .f, false, .none⟩,
      ⟨4, 1, .w1c, .now, .f, false, .none⟩,
      ⟨3, 1, .w1c, .now, .f, false, .none⟩,
      ⟨2, 1, .w1c, .now, .f, false, .none⟩,
      ⟨1, 1, .w1c, .now, .f, false, .none⟩,
      ⟨0, 1, .w1c, .now, .f, false, .none⟩]
  | .PERF_CTL => [⟨31, 1, .rw, .now, .c, false, .none⟩,
      ⟨30, 1, .rw, .now, .c, false, .none⟩]
  | .PERF_STATUS => [⟨16, 1, .w1c, .now, .f, false, .none⟩,
      ⟨8, 8, .w1c, .now, .f, false, .none⟩]
  | .PC_CFG => [⟨31, 1, .rw, .now, .c, false, .none⟩,
      ⟨30, 1, .rw, .now, .c, false, .none⟩,
      ⟨29, 1, .rw, .now, .c, false, .none⟩,
      ⟨20, 9, .rw, .now, .c, false, .none⟩,
      ⟨0, 8, .rw, .now, .c, false, .none⟩]
  | .PC_THR => [⟨0, 24, .rw, .now, .c, false, .none⟩]
  | .PERF_GLOBAL_CTL => [⟨31, 1, .rw, .now, .c, false, .none⟩]
  | .PERF_PERMIT => [⟨0, 1, .rw, .now, .c, false, .none⟩]
  | .PERF_SNAP_BASE_LO => [⟨11, 21, .rw, .now, .c, false, .none⟩]
  | .PERF_SNAP_BASE_HI => [⟨0, 32, .rw, .now, .c, false, .none⟩]
  | .PERF_SNAP_CFG => [⟨31, 1, .rw, .now, .c, false, .none⟩,
      ⟨20, 4, .rw, .now, .c, false, some (2, 12)⟩,
      ⟨0, 20, .rw, .now, .c, false, some (10, 1000000)⟩]
  | .PERF_SNAP_STATUS => [⟨4, 16, .cnt, .now, .k, false, .none⟩,
      ⟨0, 4, .ro, .none, .s, false, .none⟩]
  | .PERF_SNAP_SEQ => [⟨0, 32, .ro, .none, .s, false, .none⟩]
  | .PE_EVT_CAUSE => [⟨0, 16, .w1c, .now, .f, false, .none⟩]
  | .DMA_EVT_CAUSE => [⟨0, 28, .w1c, .now, .f, false, .none⟩]
  | .QTR_PCOL_MAP => [⟨0, 32, .rw, .pkt, .c, false, .none⟩]

/-- Reset word of a register whose reset value is the same at every place. A value the spec takes from OTP, the option
block or the ROM is 0 here and is read from its own place. -/
def resetWord : Reg → Word
  | .STALL_CFG => 0x0#32
  | .STALL_STATUS => 0x0#32
  | .STALL_EVT_CAUSE => 0x0#32
  | .STALL_BWM_WIN => 0x3E8#32
  | .STALL_CHAIN_CFG => 0x4640A#32
  | .PORT_CFG => 0x301100E#32
  | .PORT_HOLD => 0x32#32
  | .PORT_STATE => 0x0#32
  | .PORT_CTL => 0x0#32
  | .BWM_RX_LAST => 0x0#32
  | .BWM_TX_LAST => 0x0#32
  | .BWM_RX_MAX => 0x0#32
  | .BWM_TX_MAX => 0x0#32
  | .FLAP_CNT => 0x0#32
  | .LANE_EYE => 0x0#32
  | .LANE_EYE_MIN => 0x0#32
  | .LANE_CTL => 0x0#32
  | .LANE_EQ_STATUS => 0x0#32
  | .AISLE_PARSE_CFG => 0x712B5#32
  | .QTR_LDG_CFG => 0x3008#32
  | .QTR_LDG_SEED_A => 0xFFFFFFFF#32
  | .QTR_LDG_SEED_B => 0xFFFFFFFF#32
  | .QTR_LDG_SEED_NEXT_A => 0xFFFFFFFF#32
  | .QTR_LDG_SEED_NEXT_B => 0xFFFFFFFF#32
  | .QTR_REHASH_CTL => 0x0#32
  | .QTR_LDG_STATUS => 0x0#32
  | .QTR_STATUS => 0x0#32
  | .QTR_REHASH_PTR => 0x0#32
  | .QTR_AGE_CFG => 0xC8#32
  | .QTR_LEARN_CFG => 0x1#32
  | .QTR_FLUSH => 0x0#32
  | .QTR_ECMP_CFG => 0xC400032#32
  | .QTR_ECMP_SEED => 0xFFFFFFFF#32
  | .QTR_CRIER_STATUS => 0x0#32
  | .QTR_EVT_CAUSE => 0x0#32
  | .AISLE_SRCH_CFG => 0x3#32
  | .AISLE_SRCH_STATUS => 0x0#32
  | .AISLE_REBUILD_CTL => 0x0#32
  | .AISLE_REBUILD_STATUS => 0x0#32
  | .AISLE_LPM_MAP => 0x0#32
  | .AISLE_RULE_MAP => 0x0#32
  | .AISLE_TILE_CFG => 0x0#32
  | .AISLE_SRCH_EVT_CAUSE => 0x0#32
  | .AISLE_MC_STATUS => 0x0#32
  | .AISLE_MC_CAPTURE => 0x0#32
  | .AISLE_MC_CTL => 0x0#32
  | .AISLE_MC_EVT_CAUSE => 0x0#32
  | .PE_STATUS => 0x0#32
  | .PE_MC_CAPTURE => 0x0#32
  | .PE_MC_CTL => 0x0#32
  | .PE_LLDP_CFG => 0x1E4C#32
  | .SWC_POOL_CFG => 0x0#32
  | .SWC_POOL_TOTAL => 0x0#32
  | .SWC_POOL_FREE => 0x0#32
  | .SWC_POOL_LOW => 0x0#32
  | .SWC_POOL_RSV => 0x0#32
  | .SWC_CFG => 0xB0810010#32
  | .SWC_CFG2 => 0x3E8#32
  | .SWC_CTL => 0x0#32
  | .SWC_STATUS => 0x0#32
  | .SWC_SHARED_FREE => 0x0#32
  | .SWC_DESC_FREE => 0x100000#32
  | .SWC_ILLFREE_CAP0 => 0x0#32
  | .SWC_ILLFREE_CAP1 => 0x0#32
  | .SWC_PORT_CFG => 0x83202710#32
  | .SWC_PORT_CFG2 => 0x2800#32
  | .SWC_PORT_STATE => 0x0#32
  | .SWC_PORT_HDRM => 0x0#32
  | .SWC_EVT_CAUSE => 0x0#32
  | .SCH_STATUS => 0x0#32
  | .SCH_EVT_CAUSE => 0x0#32
  | .SCH_PORT_CFG => 0x401401B8#32
  | .SCH_PORT_RATE => 0x0#32
  | .SCH_PORT_BURST => 0x5000#32
  | .SCH_SAMP_CFG => 0x640064#32
  | .SCH_SAMP_CTL => 0x0#32
  | .SCH_HL_CYCLE => 0xF4240#32
  | .SCH_HL_BASE_NS => 0x0#32
  | .SCH_HL_BASE_S => 0x0#32
  | .SCH_HL_BASE_SH => 0x10000#32
  | .SCH_HL_CTL => 0x0#32
  | .SCH_HL_STATUS => 0x1FF00#32
  | .SCH_HL_START_NS => 0x0#32
  | .SCH_HL_START_S => 0x0#32
  | .SCH_HL_START_SH => 0x0#32
  | .SCH_Q_CFG => 0x0#32
  | .SCH_Q_MIN => 0x0#32
  | .SCH_Q_MAX => 0x0#32
  | .SCH_Q_BURST => 0x1400140#32
  | .TIME_STATUS => 0x0#32
  | .TIME_CAL_CFG => 0x8003C0A#32
  | .TIME_PORT_CFG => 0xD#32
  | .TIME_PORT_ASYM => 0x0#32
  | .TIME_PORT_LINKDLY => 0x0#32
  | .TIME_PORT_CAL_STATUS => 0x0#32
  | .TIME_PORT_CTL => 0x0#32
  | .TIME_PORT_EVT_CAUSE => 0x0#32
  | .TIME_PTP_CFG => 0x180103#32
  | .TIME_SERVO_CFG => 0xA8003E8#32
  | .TIME_SERVO_CFG2 => 0x640E10#32
  | .TIME_SERVO_STATUS => 0x0#32
  | .TIME_SERVO_CTL => 0x0#32
  | .TIME_HO_CFG => 0x1F4000A#32
  | .TIME_DPLL_CFG => 0x5902143#32
  | .TIME_DPLL_SRC => 0x0#32
  | .TIME_DPLL_QL => 0xBBB0#32
  | .TIME_DPLL_STATUS => 0x0#32
  | .TIME_OUT_CFG => 0x86403064#32
  | .TIME_TALLY_CFG => 0x5780001#32
  | .TIME_TALLY_STATUS => 0x0#32
  | .TIME_PORT_PTP => 0x804430#32
  | .TIME_PORT_PTP_STATUS => 0x3F000000#32
  | .TIME_SVC_EVT_CAUSE => 0x0#32
  | .SYS_IDENT => 0x10241EF4#32
  | .SYS_REV => 0xB100#32
  | .SYS_UID_LO => 0x0#32
  | .SYS_UID_HI => 0x0#32
  | .SYS_IF_CFG => 0x1#32
  | .SYS_REJECT_ADDR => 0x0#32
  | .SYS_REJECT_INFO => 0x0#32
  | .SYS_LOCKED_WR => 0x0#32
  | .SYS_LOCKED_WR_INFO => 0x0#32
  | .SYS_BUS_ERR => 0x0#32
  | .SYS_BUS_ERR_INFO => 0x0#32
  | .SYS_EVT_CAUSE => 0x0#32
  | .SYS_STATUS => 0x0#32
  | .EVT_STATUS => 0x0#32
  | .EVT_ENABLE => 0x0#32
  | .EVT_ROUTE => 0x0#32
  | .EVT_Z_STATUS => 0x0#32
  | .EVT_Z_ENABLE => 0x0#32
  | .EVT_SUMMARY0 => 0x0#32
  | .EVT_SUMMARY1 => 0x0#32
  | .EVT_Z_SUMMARY0 => 0x0#32
  | .EVT_Z_SUMMARY1 => 0x0#32
  | .EVT_CFG => 0x0#32
  | .EVT_TEST => 0x0#32
  | .EVT_MSI_LOST => 0x0#32
  | .MBX_CTL => 0x0#32
  | .MBX_SEL => 0x0#32
  | .MBX_DATA => 0x0#32
  | .SYS_SWRESET => 0x0#32
  | .CLK_STATUS => 0x0#32
  | .CLK_RST_CAUSE => 0x80000000#32
  | .CLK_OPT_STATUS => 0x5A#32
  | .CLK_WDT_CFG => 0x800003E8#32
  | .CLK_WDT_KICK => 0x0#32
  | .CLK_WDT_STATUS => 0x3E80000#32
  | .CLK_SOFT_RST0 => 0x0#32
  | .CLK_SOFT_RST1 => 0x0#32
  | .CLK_SOFT_RST2 => 0x0#32
  | .CLK_EVT_CAUSE => 0x0#32
  | .SYS_MODE => 0x0#32
  | .SYS_MODE_REQ => 0x0#32
  | .SYS_MODE_CFG => 0x1#32
  | .SYS_EPOCH => 0x0#32
  | .SYS_EPOCH_REQ => 0x0#32
  | .SYS_EPOCH_APPLIED0 => 0xFFFFFFFF#32
  | .SYS_EPOCH_APPLIED1 => 0xFFFFFFFF#32
  | .SYS_EPOCH_APPLIED2 => 0xFFFFFF#32
  | .SYS_EPOCH_LATE => 0x0#32
  | .SYS_PROVE_CTL => 0x0#32
  | .SYS_PROVE_STATUS => 0x0#32
  | .SYS_MODE_EVT_CAUSE => 0x0#32
  | .SYS_OWNER => 0x0#32
  | .SYS_OWNER_CTL => 0x0#32
  | .SYS_OWNER_CFG => 0x0#32
  | .NVM_STATUS => 0x200#32
  | .NVM_BOOT => 0x0#32
  | .NVM_CTL => 0x0#32
  | .NVM_FAULT => 0x0#32
  | .DMA_RING_BASE_LO => 0x0#32
  | .DMA_RING_BASE_HI => 0x0#32
  | .DMA_CPL_BASE_LO => 0x0#32
  | .DMA_CPL_BASE_HI => 0x0#32
  | .DMA_RING_CFG => 0x2#32
  | .DMA_RING_TAIL => 0x0#32
  | .DMA_RING_HEAD => 0x0#32
  | .DMA_STATUS => 0x0#32
  | .DMA_PADLOCK => 0x0#32
  | .DMA_CFG => 0x703E8#32
  | .HQ_BASE_LO => 0x0#32
  | .HQ_BASE_HI => 0x0#32
  | .HQ_CFG => 0x4#32
  | .HQ_TAIL => 0x0#32
  | .HQ_HEAD => 0x0#32
  | .HQ_LOST => 0x0#32
  | .ASSAY_CFG => 0x800A0040#32
  | .ASSAY_RATE => 0x3E8#32
  | .ASSAY_SHADOW_LO => 0x0#32
  | .ASSAY_SHADOW_HI => 0x0#32
  | .ASSAY_CTL => 0x0#32
  | .ASSAY_STATUS => 0x0#32
  | .QTR_ASSAY_EVT_CAUSE => 0x0#32
  | .SEC_STATUS => 0x0#32
  | .SEC_CFG => 0xF#32
  | .SEC_LOCK => 0x0#32
  | .SEC_SVN => 0x0#32
  | .SEC_SVN_CTL => 0x0#32
  | .SEC_OTP_CTL => 0x0#32
  | .SEC_EVT_CAUSE => 0x0#32
  | .THM_STATUS => 0x0#32
  | .THM_CFG => 0x3#32
  | .THM_FAIL0 => 0x0#32
  | .THM_FAIL1 => 0x0#32
  | .THM_SENSOR => 0x0#32
  | .THM_EVT_CAUSE => 0x0#32
  | .PWR_CFG => 0x0#32
  | .PWR_STATUS => 0x0#32
  | .SHR_CFG => 0x80180A1E#32
  | .SHR_CFG2 => 0x5DC3C0A#32
  | .SHR_STATUS => 0x3FFFFF#32
  | .SHR_CTL => 0x3200#32
  | .SHR_AVS_TARGET => 0x0#32
  | .SHR_AVS_STATUS => 0x0#32
  | .SHR_EVT_CAUSE => 0x0#32
  | .PERF_CTL => 0x0#32
  | .PERF_STATUS => 0x0#32
  | .PC_CFG => 0x0#32
  | .PC_THR => 0x0#32
  | .PERF_GLOBAL_CTL => 0x0#32
  | .PERF_PERMIT => 0x0#32
  | .PERF_SNAP_BASE_LO => 0x0#32
  | .PERF_SNAP_BASE_HI => 0x0#32
  | .PERF_SNAP_CFG => 0x4003E8#32
  | .PERF_SNAP_STATUS => 0x0#32
  | .PERF_SNAP_SEQ => 0x0#32
  | .PE_EVT_CAUSE => 0x0#32
  | .DMA_EVT_CAUSE => 0x0#32
  | .QTR_PCOL_MAP => 0x0#32

end Reg

/-- A named field: register, lowest bit, width. -/
structure Fld where
  reg : Reg
  lo : Nat
  w : Nat
deriving DecidableEq, Repr

/-! The named fields, `F.<register>_<field>`; a field the tables leave unnamed is `_WORD`. -/
namespace F

def STALL_CFG_SPLIT : Fld := ⟨.STALL_CFG, 2, 7⟩
def STALL_CFG_LANE_RATE : Fld := ⟨.STALL_CFG, 0, 2⟩
def STALL_STATUS_SPARE_OUT : Fld := ⟨.STALL_STATUS, 15, 1⟩
def STALL_STATUS_RSV_IN1 : Fld := ⟨.STALL_STATUS, 14, 1⟩
def STALL_STATUS_RSV_IN0 : Fld := ⟨.STALL_STATUS, 13, 1⟩
def STALL_STATUS_SITE_STATE : Fld := ⟨.STALL_STATUS, 10, 3⟩
def STALL_STATUS_SITE_INT : Fld := ⟨.STALL_STATUS, 9, 1⟩
def STALL_STATUS_SITE_PRESENT : Fld := ⟨.STALL_STATUS, 8, 1⟩
def STALL_STATUS_TXPLL_LOCK : Fld := ⟨.STALL_STATUS, 4, 1⟩
def STALL_STATUS_REJECT : Fld := ⟨.STALL_STATUS, 0, 4⟩
def STALL_EVT_CAUSE_EYE_LOW : Fld := ⟨.STALL_EVT_CAUSE, 5, 1⟩
def STALL_EVT_CAUSE_REJECTED : Fld := ⟨.STALL_EVT_CAUSE, 4, 1⟩
def STALL_EVT_CAUSE_TXPLL_LOSS : Fld := ⟨.STALL_EVT_CAUSE, 3, 1⟩
def STALL_EVT_CAUSE_SITE_FAULT : Fld := ⟨.STALL_EVT_CAUSE, 2, 1⟩
def STALL_EVT_CAUSE_SITE_OUT : Fld := ⟨.STALL_EVT_CAUSE, 1, 1⟩
def STALL_EVT_CAUSE_SITE_IN : Fld := ⟨.STALL_EVT_CAUSE, 0, 1⟩
def STALL_BWM_WIN_WIN_US : Fld := ⟨.STALL_BWM_WIN, 0, 20⟩
def STALL_CHAIN_CFG_I2C_SPEED : Fld := ⟨.STALL_CHAIN_CFG, 18, 2⟩
def STALL_CHAIN_CFG_SCAN_US : Fld := ⟨.STALL_CHAIN_CFG, 8, 10⟩
def STALL_CHAIN_CFG_SCLK_MHZ : Fld := ⟨.STALL_CHAIN_CFG, 0, 8⟩
def PORT_CFG_MEDIA : Fld := ⟨.PORT_CFG, 24, 2⟩
def PORT_CFG_LINKUP_QUAL : Fld := ⟨.PORT_CFG, 16, 8⟩
def PORT_CFG_APPSEL : Fld := ⟨.PORT_CFG, 12, 4⟩
def PORT_CFG_PFC_EN : Fld := ⟨.PORT_CFG, 4, 8⟩
def PORT_CFG_MODULE : Fld := ⟨.PORT_CFG, 3, 1⟩
def PORT_CFG_LT_EN : Fld := ⟨.PORT_CFG, 2, 1⟩
def PORT_CFG_AN_EN : Fld := ⟨.PORT_CFG, 1, 1⟩
def PORT_CFG_ADMIN_EN : Fld := ⟨.PORT_CFG, 0, 1⟩
def PORT_HOLD_HOLD_MS : Fld := ⟨.PORT_HOLD, 0, 11⟩
def PORT_STATE_DOWN_CAUSE : Fld := ⟨.PORT_STATE, 10, 4⟩
def PORT_STATE_HEALTH : Fld := ⟨.PORT_STATE, 6, 4⟩
def PORT_STATE_RECAL : Fld := ⟨.PORT_STATE, 5, 1⟩
def PORT_STATE_HOLD : Fld := ⟨.PORT_STATE, 3, 2⟩
def PORT_STATE_LINK : Fld := ⟨.PORT_STATE, 0, 3⟩
def PORT_CTL_RESTART : Fld := ⟨.PORT_CTL, 0, 1⟩
def BWM_RX_LAST_COUNT : Fld := ⟨.BWM_RX_LAST, 0, 32⟩
def BWM_TX_LAST_COUNT : Fld := ⟨.BWM_TX_LAST, 0, 32⟩
def BWM_RX_MAX_COUNT : Fld := ⟨.BWM_RX_MAX, 0, 32⟩
def BWM_TX_MAX_COUNT : Fld := ⟨.BWM_TX_MAX, 0, 32⟩
def FLAP_CNT_COUNT : Fld := ⟨.FLAP_CNT, 0, 32⟩
def LANE_EYE_WIDTH : Fld := ⟨.LANE_EYE, 16, 8⟩
def LANE_EYE_HEIGHT : Fld := ⟨.LANE_EYE, 0, 16⟩
def LANE_EYE_MIN_MIN_HEIGHT : Fld := ⟨.LANE_EYE_MIN, 0, 16⟩
def LANE_CTL_RETUNE : Fld := ⟨.LANE_CTL, 0, 1⟩
def LANE_EQ_STATUS_PRECODE : Fld := ⟨.LANE_EQ_STATUS, 2, 1⟩
def LANE_EQ_STATUS_RETUNING : Fld := ⟨.LANE_EQ_STATUS, 1, 1⟩
def LANE_EQ_STATUS_ADAPTED : Fld := ⟨.LANE_EQ_STATUS, 0, 1⟩
def AISLE_PARSE_CFG_PTP_L2_EN : Fld := ⟨.AISLE_PARSE_CFG, 18, 1⟩
def AISLE_PARSE_CFG_PTP_UDP_EN : Fld := ⟨.AISLE_PARSE_CFG, 17, 1⟩
def AISLE_PARSE_CFG_VXLAN_EN : Fld := ⟨.AISLE_PARSE_CFG, 16, 1⟩
def AISLE_PARSE_CFG_VXLAN_PORT : Fld := ⟨.AISLE_PARSE_CFG, 0, 16⟩
def QTR_LDG_CFG_STASH_HIGH : Fld := ⟨.QTR_LDG_CFG, 8, 8⟩
def QTR_LDG_CFG_MAX_MOVES : Fld := ⟨.QTR_LDG_CFG, 0, 5⟩
def QTR_LDG_SEED_A_SEED : Fld := ⟨.QTR_LDG_SEED_A, 0, 32⟩
def QTR_LDG_SEED_B_SEED : Fld := ⟨.QTR_LDG_SEED_B, 0, 32⟩
def QTR_LDG_SEED_NEXT_A_SEED : Fld := ⟨.QTR_LDG_SEED_NEXT_A, 0, 32⟩
def QTR_LDG_SEED_NEXT_B_SEED : Fld := ⟨.QTR_LDG_SEED_NEXT_B, 0, 32⟩
def QTR_REHASH_CTL_START : Fld := ⟨.QTR_REHASH_CTL, 0, 1⟩
def QTR_LDG_STATUS_MIGRATING : Fld := ⟨.QTR_LDG_STATUS, 31, 1⟩
def QTR_LDG_STATUS_GEN : Fld := ⟨.QTR_LDG_STATUS, 30, 1⟩
def QTR_LDG_STATUS_STASH_USED : Fld := ⟨.QTR_LDG_STATUS, 23, 7⟩
def QTR_LDG_STATUS_WAYS_USED : Fld := ⟨.QTR_LDG_STATUS, 0, 20⟩
def QTR_STATUS_FLUSH_BUSY : Fld := ⟨.QTR_STATUS, 4, 1⟩
def QTR_STATUS_REJECT : Fld := ⟨.QTR_STATUS, 0, 4⟩
def QTR_REHASH_PTR_PASS : Fld := ⟨.QTR_REHASH_PTR, 17, 1⟩
def QTR_REHASH_PTR_BUCKET : Fld := ⟨.QTR_REHASH_PTR, 0, 17⟩
def QTR_AGE_CFG_PERIOD : Fld := ⟨.QTR_AGE_CFG, 0, 16⟩
def QTR_LEARN_CFG_LEARN_EN : Fld := ⟨.QTR_LEARN_CFG, 0, 1⟩
def QTR_FLUSH_GO : Fld := ⟨.QTR_FLUSH, 9, 1⟩
def QTR_FLUSH_PORT : Fld := ⟨.QTR_FLUSH, 0, 9⟩
def QTR_ECMP_CFG_DEPTH_SHIFT : Fld := ⟨.QTR_ECMP_CFG, 24, 5⟩
def QTR_ECMP_CFG_HEALTH_COST : Fld := ⟨.QTR_ECMP_CFG, 20, 4⟩
def QTR_ECMP_CFG_GAP : Fld := ⟨.QTR_ECMP_CFG, 0, 10⟩
def QTR_ECMP_SEED_SEED : Fld := ⟨.QTR_ECMP_SEED, 0, 32⟩
def QTR_CRIER_STATUS_LAST_SEQ : Fld := ⟨.QTR_CRIER_STATUS, 16, 11⟩
def QTR_CRIER_STATUS_FIFO_LEVEL : Fld := ⟨.QTR_CRIER_STATUS, 0, 9⟩
def QTR_EVT_CAUSE_REJECTED : Fld := ⟨.QTR_EVT_CAUSE, 9, 1⟩
def QTR_EVT_CAUSE_FLUSH_DONE : Fld := ⟨.QTR_EVT_CAUSE, 8, 1⟩
def QTR_EVT_CAUSE_APPLY_FAIL : Fld := ⟨.QTR_EVT_CAUSE, 7, 1⟩
def QTR_EVT_CAUSE_SA_VIOLATION : Fld := ⟨.QTR_EVT_CAUSE, 6, 1⟩
def QTR_EVT_CAUSE_STATION_MOVE : Fld := ⟨.QTR_EVT_CAUSE, 5, 1⟩
def QTR_EVT_CAUSE_LEARN_DROP : Fld := ⟨.QTR_EVT_CAUSE, 4, 1⟩
def QTR_EVT_CAUSE_CRIER_GAP : Fld := ⟨.QTR_EVT_CAUSE, 3, 1⟩
def QTR_EVT_CAUSE_REHASH_DONE : Fld := ⟨.QTR_EVT_CAUSE, 2, 1⟩
def QTR_EVT_CAUSE_STASH_HIGH : Fld := ⟨.QTR_EVT_CAUSE, 1, 1⟩
def QTR_EVT_CAUSE_INSERT_FAIL : Fld := ⟨.QTR_EVT_CAUSE, 0, 1⟩
def AISLE_SRCH_CFG_REPAIR_EN : Fld := ⟨.AISLE_SRCH_CFG, 1, 1⟩
def AISLE_SRCH_CFG_ASSAY_EN : Fld := ⟨.AISLE_SRCH_CFG, 0, 1⟩
def AISLE_SRCH_STATUS_ASSAY_SWEEPS : Fld := ⟨.AISLE_SRCH_STATUS, 8, 16⟩
def AISLE_SRCH_STATUS_STEP : Fld := ⟨.AISLE_SRCH_STATUS, 4, 2⟩
def AISLE_SRCH_STATUS_REJECT : Fld := ⟨.AISLE_SRCH_STATUS, 0, 4⟩
def AISLE_REBUILD_CTL_GO : Fld := ⟨.AISLE_REBUILD_CTL, 31, 1⟩
def AISLE_REBUILD_CTL_RULE : Fld := ⟨.AISLE_REBUILD_CTL, 30, 1⟩
def AISLE_REBUILD_CTL_SLOT : Fld := ⟨.AISLE_REBUILD_CTL, 24, 6⟩
def AISLE_REBUILD_CTL_TARGET : Fld := ⟨.AISLE_REBUILD_CTL, 17, 7⟩
def AISLE_REBUILD_CTL_LEN_MAX : Fld := ⟨.AISLE_REBUILD_CTL, 8, 8⟩
def AISLE_REBUILD_CTL_LEN_MIN : Fld := ⟨.AISLE_REBUILD_CTL, 0, 8⟩
def AISLE_REBUILD_STATUS_BUSY : Fld := ⟨.AISLE_REBUILD_STATUS, 31, 1⟩
def AISLE_REBUILD_STATUS_STATE : Fld := ⟨.AISLE_REBUILD_STATUS, 29, 2⟩
def AISLE_REBUILD_STATUS_RESULT : Fld := ⟨.AISLE_REBUILD_STATUS, 26, 3⟩
def AISLE_REBUILD_STATUS_PROGRESS : Fld := ⟨.AISLE_REBUILD_STATUS, 0, 11⟩
def AISLE_LPM_MAP_LEN_MIN : Fld := ⟨.AISLE_LPM_MAP, 16, 8⟩
def AISLE_LPM_MAP_LEN_MAX : Fld := ⟨.AISLE_LPM_MAP, 8, 8⟩
def AISLE_LPM_MAP_TILE : Fld := ⟨.AISLE_LPM_MAP, 0, 7⟩
def AISLE_RULE_MAP_FMT_MASK : Fld := ⟨.AISLE_RULE_MAP, 8, 3⟩
def AISLE_RULE_MAP_TILE : Fld := ⟨.AISLE_RULE_MAP, 0, 7⟩
def AISLE_TILE_CFG_USED : Fld := ⟨.AISLE_TILE_CFG, 16, 12⟩
def AISLE_TILE_CFG_ROLE : Fld := ⟨.AISLE_TILE_CFG, 14, 2⟩
def AISLE_TILE_CFG_SLOT : Fld := ⟨.AISLE_TILE_CFG, 8, 6⟩
def AISLE_TILE_CFG_WIDTH : Fld := ⟨.AISLE_TILE_CFG, 0, 2⟩
def AISLE_SRCH_EVT_CAUSE_REJECTED : Fld := ⟨.AISLE_SRCH_EVT_CAUSE, 7, 1⟩
def AISLE_SRCH_EVT_CAUSE_STEP_CHANGE : Fld := ⟨.AISLE_SRCH_EVT_CAUSE, 6, 1⟩
def AISLE_SRCH_EVT_CAUSE_PSEL_BAD : Fld := ⟨.AISLE_SRCH_EVT_CAUSE, 5, 1⟩
def AISLE_SRCH_EVT_CAUSE_REBUILD_FAIL : Fld := ⟨.AISLE_SRCH_EVT_CAUSE, 4, 1⟩
def AISLE_SRCH_EVT_CAUSE_REBUILD_DONE : Fld := ⟨.AISLE_SRCH_EVT_CAUSE, 3, 1⟩
def AISLE_SRCH_EVT_CAUSE_LPM_FULL : Fld := ⟨.AISLE_SRCH_EVT_CAUSE, 2, 1⟩
def AISLE_SRCH_EVT_CAUSE_TCAM_LOST : Fld := ⟨.AISLE_SRCH_EVT_CAUSE, 1, 1⟩
def AISLE_SRCH_EVT_CAUSE_TCAM_REPAIR : Fld := ⟨.AISLE_SRCH_EVT_CAUSE, 0, 1⟩
def AISLE_MC_STATUS_FENCED : Fld := ⟨.AISLE_MC_STATUS, 31, 1⟩
def AISLE_MC_STATUS_MC_RECENT : Fld := ⟨.AISLE_MC_STATUS, 29, 2⟩
def AISLE_MC_STATUS_HELD : Fld := ⟨.AISLE_MC_STATUS, 23, 6⟩
def AISLE_MC_STATUS_CAP_LEVEL : Fld := ⟨.AISLE_MC_STATUS, 21, 2⟩
def AISLE_MC_STATUS_CAP_OVF : Fld := ⟨.AISLE_MC_STATUS, 20, 1⟩
def AISLE_MC_STATUS_REJECT : Fld := ⟨.AISLE_MC_STATUS, 0, 4⟩
def AISLE_MC_CAPTURE_KIND : Fld := ⟨.AISLE_MC_CAPTURE, 29, 3⟩
def AISLE_MC_CAPTURE_HEWER : Fld := ⟨.AISLE_MC_CAPTURE, 24, 5⟩
def AISLE_MC_CAPTURE_ADDR : Fld := ⟨.AISLE_MC_CAPTURE, 11, 13⟩
def AISLE_MC_CAPTURE_GROUPS : Fld := ⟨.AISLE_MC_CAPTURE, 3, 8⟩
def AISLE_MC_CTL_RESUME : Fld := ⟨.AISLE_MC_CTL, 31, 1⟩
def AISLE_MC_CTL_POP : Fld := ⟨.AISLE_MC_CTL, 30, 1⟩
def AISLE_MC_CTL_FENCE : Fld := ⟨.AISLE_MC_CTL, 29, 1⟩
def AISLE_MC_CTL_ADDR : Fld := ⟨.AISLE_MC_CTL, 0, 13⟩
def AISLE_MC_EVT_CAUSE_REJECTED : Fld := ⟨.AISLE_MC_EVT_CAUSE, 6, 1⟩
def AISLE_MC_EVT_CAUSE_REPAIR_FULL : Fld := ⟨.AISLE_MC_EVT_CAUSE, 5, 1⟩
def AISLE_MC_EVT_CAUSE_REPAIR_TRAP : Fld := ⟨.AISLE_MC_EVT_CAUSE, 4, 1⟩
def AISLE_MC_EVT_CAUSE_FENCED : Fld := ⟨.AISLE_MC_EVT_CAUSE, 3, 1⟩
def AISLE_MC_EVT_CAUSE_MC_RESUMED : Fld := ⟨.AISLE_MC_EVT_CAUSE, 2, 1⟩
def AISLE_MC_EVT_CAUSE_MC_FAULT : Fld := ⟨.AISLE_MC_EVT_CAUSE, 1, 1⟩
def AISLE_MC_EVT_CAUSE_MC_PARITY : Fld := ⟨.AISLE_MC_EVT_CAUSE, 0, 1⟩
def PE_STATUS_RUNNING : Fld := ⟨.PE_STATUS, 31, 1⟩
def PE_STATUS_HELD : Fld := ⟨.PE_STATUS, 30, 1⟩
def PE_STATUS_MC_RECENT : Fld := ⟨.PE_STATUS, 28, 2⟩
def PE_STATUS_WHEEL_POS : Fld := ⟨.PE_STATUS, 18, 10⟩
def PE_STATUS_CAP_OVF : Fld := ⟨.PE_STATUS, 17, 1⟩
def PE_STATUS_REJECT : Fld := ⟨.PE_STATUS, 0, 4⟩
def PE_MC_CAPTURE_KIND : Fld := ⟨.PE_MC_CAPTURE, 29, 3⟩
def PE_MC_CAPTURE_ADDR : Fld := ⟨.PE_MC_CAPTURE, 11, 13⟩
def PE_MC_CAPTURE_GROUPS : Fld := ⟨.PE_MC_CAPTURE, 3, 8⟩
def PE_MC_CTL_RESUME : Fld := ⟨.PE_MC_CTL, 31, 1⟩
def PE_MC_CTL_POP : Fld := ⟨.PE_MC_CTL, 30, 1⟩
def PE_MC_CTL_FENCE : Fld := ⟨.PE_MC_CTL, 29, 1⟩
def PE_MC_CTL_ADDR : Fld := ⟨.PE_MC_CTL, 0, 13⟩
def PE_LLDP_CFG_LLDP_TX_S : Fld := ⟨.PE_LLDP_CFG, 8, 12⟩
def PE_LLDP_CFG_LLDP_HOLD : Fld := ⟨.PE_LLDP_CFG, 4, 4⟩
def PE_LLDP_CFG_LLDP_RX_EN : Fld := ⟨.PE_LLDP_CFG, 3, 1⟩
def PE_LLDP_CFG_LLDP_TX_EN : Fld := ⟨.PE_LLDP_CFG, 2, 1⟩
def SWC_POOL_CFG_SIZE_MIB : Fld := ⟨.SWC_POOL_CFG, 0, 9⟩
def SWC_POOL_TOTAL_BUFFERS : Fld := ⟨.SWC_POOL_TOTAL, 0, 21⟩
def SWC_POOL_FREE_FREE : Fld := ⟨.SWC_POOL_FREE, 0, 21⟩
def SWC_POOL_LOW_LOW : Fld := ⟨.SWC_POOL_LOW, 0, 21⟩
def SWC_POOL_RSV_PE_RSV : Fld := ⟨.SWC_POOL_RSV, 0, 16⟩
def SWC_CFG_CT_EN : Fld := ⟨.SWC_CFG, 31, 1⟩
def SWC_CFG_ALPHA : Fld := ⟨.SWC_CFG, 28, 3⟩
def SWC_CFG_HDRM_FACTOR : Fld := ⟨.SWC_CFG, 19, 5⟩
def SWC_CFG_SHARED_MIN_MIB : Fld := ⟨.SWC_CFG, 10, 9⟩
def SWC_CFG_XOFF_MAX_MIB : Fld := ⟨.SWC_CFG, 0, 9⟩
def SWC_CFG2_HDRM_DMAX_NS : Fld := ⟨.SWC_CFG2, 0, 16⟩
def SWC_CTL_CARVE : Fld := ⟨.SWC_CTL, 0, 1⟩
def SWC_STATUS_CARVED : Fld := ⟨.SWC_STATUS, 31, 1⟩
def SWC_STATUS_CARVE_ERR : Fld := ⟨.SWC_STATUS, 30, 1⟩
def SWC_STATUS_HDRM_MIB : Fld := ⟨.SWC_STATUS, 4, 9⟩
def SWC_STATUS_REJECT : Fld := ⟨.SWC_STATUS, 0, 4⟩
def SWC_SHARED_FREE_BYTES : Fld := ⟨.SWC_SHARED_FREE, 0, 32⟩
def SWC_DESC_FREE_FREE : Fld := ⟨.SWC_DESC_FREE, 0, 21⟩
def SWC_ILLFREE_CAP0_VALID : Fld := ⟨.SWC_ILLFREE_CAP0, 31, 1⟩
def SWC_ILLFREE_CAP0_KIND : Fld := ⟨.SWC_ILLFREE_CAP0, 28, 3⟩
def SWC_ILLFREE_CAP0_HANDLE : Fld := ⟨.SWC_ILLFREE_CAP0, 0, 23⟩
def SWC_ILLFREE_CAP1_OWNER_PORT : Fld := ⟨.SWC_ILLFREE_CAP1, 17, 9⟩
def SWC_ILLFREE_CAP1_OWNER_Q : Fld := ⟨.SWC_ILLFREE_CAP1, 13, 4⟩
def SWC_ILLFREE_CAP1_REQ_PORT : Fld := ⟨.SWC_ILLFREE_CAP1, 4, 9⟩
def SWC_ILLFREE_CAP1_REQ_Q : Fld := ⟨.SWC_ILLFREE_CAP1, 0, 4⟩
def SWC_PORT_CFG_CT_EN : Fld := ⟨.SWC_PORT_CFG, 31, 1⟩
def SWC_PORT_CFG_PEER_RESP : Fld := ⟨.SWC_PORT_CFG, 20, 8⟩
def SWC_PORT_CFG_MAX_AGE_US : Fld := ⟨.SWC_PORT_CFG, 0, 20⟩
def SWC_PORT_CFG2_PEER_MTU : Fld := ⟨.SWC_PORT_CFG2, 0, 14⟩
def SWC_PORT_STATE_HDRM_OK : Fld := ⟨.SWC_PORT_STATE, 31, 1⟩
def SWC_PORT_STATE_FIFO_OK : Fld := ⟨.SWC_PORT_STATE, 30, 1⟩
def SWC_PORT_STATE_DELAY_EST : Fld := ⟨.SWC_PORT_STATE, 29, 1⟩
def SWC_PORT_STATE_XOFF : Fld := ⟨.SWC_PORT_STATE, 20, 8⟩
def SWC_PORT_STATE_FIFO_XOFF : Fld := ⟨.SWC_PORT_STATE, 19, 1⟩
def SWC_PORT_HDRM_D_NS : Fld := ⟨.SWC_PORT_HDRM, 16, 16⟩
def SWC_PORT_HDRM_HDRM_KIB : Fld := ⟨.SWC_PORT_HDRM, 0, 16⟩
def SWC_EVT_CAUSE_REJECTED : Fld := ⟨.SWC_EVT_CAUSE, 10, 1⟩
def SWC_EVT_CAUSE_OVERRUN : Fld := ⟨.SWC_EVT_CAUSE, 9, 1⟩
def SWC_EVT_CAUSE_FIFO_SHORT : Fld := ⟨.SWC_EVT_CAUSE, 8, 1⟩
def SWC_EVT_CAUSE_HDRM_SHORT : Fld := ⟨.SWC_EVT_CAUSE, 7, 1⟩
def SWC_EVT_CAUSE_FLUSHED : Fld := ⟨.SWC_EVT_CAUSE, 6, 1⟩
def SWC_EVT_CAUSE_AGED : Fld := ⟨.SWC_EVT_CAUSE, 5, 1⟩
def SWC_EVT_CAUSE_TRUNCATED : Fld := ⟨.SWC_EVT_CAUSE, 4, 1⟩
def SWC_EVT_CAUSE_DESC_WAIT : Fld := ⟨.SWC_EVT_CAUSE, 3, 1⟩
def SWC_EVT_CAUSE_POOL_WAIT : Fld := ⟨.SWC_EVT_CAUSE, 2, 1⟩
def SWC_EVT_CAUSE_POOL_ESCALATE : Fld := ⟨.SWC_EVT_CAUSE, 1, 1⟩
def SWC_EVT_CAUSE_ILLEGAL_FREE : Fld := ⟨.SWC_EVT_CAUSE, 0, 1⟩
def SCH_STATUS_REJECT : Fld := ⟨.SCH_STATUS, 0, 4⟩
def SCH_EVT_CAUSE_SOJOURN_HIGH : Fld := ⟨.SCH_EVT_CAUSE, 4, 1⟩
def SCH_EVT_CAUSE_RED_DISCARD : Fld := ⟨.SCH_EVT_CAUSE, 3, 1⟩
def SCH_EVT_CAUSE_HL_SWITCH : Fld := ⟨.SCH_EVT_CAUSE, 2, 1⟩
def SCH_EVT_CAUSE_LATE_START : Fld := ⟨.SCH_EVT_CAUSE, 1, 1⟩
def SCH_EVT_CAUSE_REJECTED : Fld := ⟨.SCH_EVT_CAUSE, 0, 1⟩
def SCH_PORT_CFG_QT_CLEAR_EN : Fld := ⟨.SCH_PORT_CFG, 31, 1⟩
def SCH_PORT_CFG_GUARD_EN : Fld := ⟨.SCH_PORT_CFG, 30, 1⟩
def SCH_PORT_CFG_PSHAPE_EN : Fld := ⟨.SCH_PORT_CFG, 29, 1⟩
def SCH_PORT_CFG_SHAPE_OVH : Fld := ⟨.SCH_PORT_CFG, 16, 8⟩
def SCH_PORT_CFG_QT_LEAD_NS : Fld := ⟨.SCH_PORT_CFG, 0, 16⟩
def SCH_PORT_RATE_RATE : Fld := ⟨.SCH_PORT_RATE, 0, 24⟩
def SCH_PORT_BURST_BURST : Fld := ⟨.SCH_PORT_BURST, 0, 24⟩
def SCH_SAMP_CFG_SAMP_US : Fld := ⟨.SCH_SAMP_CFG, 16, 10⟩
def SCH_SAMP_CFG_BIN_NS : Fld := ⟨.SCH_SAMP_CFG, 0, 16⟩
def SCH_SAMP_CTL_SOJ_HIGH_US : Fld := ⟨.SCH_SAMP_CTL, 20, 12⟩
def SCH_SAMP_CTL_CLEAR : Fld := ⟨.SCH_SAMP_CTL, 0, 9⟩
def SCH_HL_CYCLE_CYCLE_NS : Fld := ⟨.SCH_HL_CYCLE, 0, 30⟩
def SCH_HL_BASE_NS_NS : Fld := ⟨.SCH_HL_BASE_NS, 0, 30⟩
def SCH_HL_BASE_S_S_LO : Fld := ⟨.SCH_HL_BASE_S, 0, 32⟩
def SCH_HL_BASE_SH_COUNT : Fld := ⟨.SCH_HL_BASE_SH, 16, 9⟩
def SCH_HL_BASE_SH_S_HI : Fld := ⟨.SCH_HL_BASE_SH, 0, 16⟩
def SCH_HL_CTL_STOP : Fld := ⟨.SCH_HL_CTL, 2, 1⟩
def SCH_HL_CTL_CANCEL : Fld := ⟨.SCH_HL_CTL, 1, 1⟩
def SCH_HL_CTL_ARM : Fld := ⟨.SCH_HL_CTL, 0, 1⟩
def SCH_HL_STATUS_LATE_START : Fld := ⟨.SCH_HL_STATUS, 31, 1⟩
def SCH_HL_STATUS_ACTIVE_SLOT : Fld := ⟨.SCH_HL_STATUS, 30, 1⟩
def SCH_HL_STATUS_RUNNING : Fld := ⟨.SCH_HL_STATUS, 29, 1⟩
def SCH_HL_STATUS_ARMED : Fld := ⟨.SCH_HL_STATUS, 28, 1⟩
def SCH_HL_STATUS_GATES : Fld := ⟨.SCH_HL_STATUS, 8, 9⟩
def SCH_HL_STATUS_CUR_ENTRY : Fld := ⟨.SCH_HL_STATUS, 0, 8⟩
def SCH_HL_START_NS_NS : Fld := ⟨.SCH_HL_START_NS, 0, 30⟩
def SCH_HL_START_S_S_LO : Fld := ⟨.SCH_HL_START_S, 0, 32⟩
def SCH_HL_START_SH_S_HI : Fld := ⟨.SCH_HL_START_SH, 0, 16⟩
def SCH_Q_CFG_DWRR : Fld := ⟨.SCH_Q_CFG, 31, 1⟩
def SCH_Q_CFG_MIN_EN : Fld := ⟨.SCH_Q_CFG, 30, 1⟩
def SCH_Q_CFG_MAX_EN : Fld := ⟨.SCH_Q_CFG, 29, 1⟩
def SCH_Q_CFG_PAUSE_EN : Fld := ⟨.SCH_Q_CFG, 28, 1⟩
def SCH_Q_CFG_PFC_PRIO : Fld := ⟨.SCH_Q_CFG, 25, 3⟩
def SCH_Q_CFG_QUANTUM : Fld := ⟨.SCH_Q_CFG, 0, 17⟩
def SCH_Q_MIN_RATE : Fld := ⟨.SCH_Q_MIN, 0, 24⟩
def SCH_Q_MAX_RATE : Fld := ⟨.SCH_Q_MAX, 0, 24⟩
def SCH_Q_BURST_MAX_BURST : Fld := ⟨.SCH_Q_BURST, 16, 16⟩
def SCH_Q_BURST_MIN_BURST : Fld := ⟨.SCH_Q_BURST, 0, 16⟩
def TIME_STATUS_DIST_OK : Fld := ⟨.TIME_STATUS, 4, 1⟩
def TIME_STATUS_REJECT : Fld := ⟨.TIME_STATUS, 0, 4⟩
def TIME_CAL_CFG_CAL_DT : Fld := ⟨.TIME_CAL_CFG, 24, 8⟩
def TIME_CAL_CFG_CAL_PERIOD_S : Fld := ⟨.TIME_CAL_CFG, 8, 16⟩
def TIME_CAL_CFG_LINKDLY_S : Fld := ⟨.TIME_CAL_CFG, 0, 8⟩
def TIME_PORT_CFG_PROBE_RESP_EN : Fld := ⟨.TIME_PORT_CFG, 3, 1⟩
def TIME_PORT_CFG_PROBE_EN : Fld := ⟨.TIME_PORT_CFG, 2, 1⟩
def TIME_PORT_CFG_ASYM_TC_EN : Fld := ⟨.TIME_PORT_CFG, 1, 1⟩
def TIME_PORT_CFG_TC_EN : Fld := ⟨.TIME_PORT_CFG, 0, 1⟩
def TIME_PORT_ASYM_ASYM : Fld := ⟨.TIME_PORT_ASYM, 0, 32⟩
def TIME_PORT_LINKDLY_DLY : Fld := ⟨.TIME_PORT_LINKDLY, 0, 32⟩
def TIME_PORT_CAL_STATUS_DLY_VALID : Fld := ⟨.TIME_PORT_CAL_STATUS, 31, 1⟩
def TIME_PORT_CAL_STATUS_RECAL : Fld := ⟨.TIME_PORT_CAL_STATUS, 30, 1⟩
def TIME_PORT_CAL_STATUS_CAL_STATE : Fld := ⟨.TIME_PORT_CAL_STATUS, 27, 3⟩
def TIME_PORT_CAL_STATUS_LAST_TRIGGER : Fld := ⟨.TIME_PORT_CAL_STATUS, 23, 4⟩
def TIME_PORT_CAL_STATUS_CAL_COUNT : Fld := ⟨.TIME_PORT_CAL_STATUS, 0, 16⟩
def TIME_PORT_CTL_PROBE_REQ : Fld := ⟨.TIME_PORT_CTL, 1, 1⟩
def TIME_PORT_CTL_CAL_REQ : Fld := ⟨.TIME_PORT_CTL, 0, 1⟩
def TIME_PORT_EVT_CAUSE_REJECTED : Fld := ⟨.TIME_PORT_EVT_CAUSE, 5, 1⟩
def TIME_PORT_EVT_CAUSE_TC_STEP_LOST : Fld := ⟨.TIME_PORT_EVT_CAUSE, 4, 1⟩
def TIME_PORT_EVT_CAUSE_PROBE_NONE : Fld := ⟨.TIME_PORT_EVT_CAUSE, 3, 1⟩
def TIME_PORT_EVT_CAUSE_LINKDLY_NEW : Fld := ⟨.TIME_PORT_EVT_CAUSE, 2, 1⟩
def TIME_PORT_EVT_CAUSE_CAL_FAIL : Fld := ⟨.TIME_PORT_EVT_CAUSE, 1, 1⟩
def TIME_PORT_EVT_CAUSE_CAL_DONE : Fld := ⟨.TIME_PORT_EVT_CAUSE, 0, 1⟩
def TIME_PTP_CFG_DOMAIN : Fld := ⟨.TIME_PTP_CFG, 16, 8⟩
def TIME_PTP_CFG_PROFILE : Fld := ⟨.TIME_PTP_CFG, 8, 2⟩
def TIME_PTP_CFG_ANN_TO : Fld := ⟨.TIME_PTP_CFG, 0, 8⟩
def TIME_SERVO_CFG_BW : Fld := ⟨.TIME_SERVO_CFG, 24, 8⟩
def TIME_SERVO_CFG_STEP_EN : Fld := ⟨.TIME_SERVO_CFG, 23, 1⟩
def TIME_SERVO_CFG_STEP_NS : Fld := ⟨.TIME_SERVO_CFG, 0, 20⟩
def TIME_SERVO_CFG2_LOCK_NS : Fld := ⟨.TIME_SERVO_CFG2, 16, 16⟩
def TIME_SERVO_CFG2_HO_LIMIT_S : Fld := ⟨.TIME_SERVO_CFG2, 0, 16⟩
def TIME_SERVO_STATUS_STATE : Fld := ⟨.TIME_SERVO_STATUS, 29, 3⟩
def TIME_SERVO_STATUS_SOURCE : Fld := ⟨.TIME_SERVO_STATUS, 27, 2⟩
def TIME_SERVO_STATUS_PORT : Fld := ⟨.TIME_SERVO_STATUS, 18, 9⟩
def TIME_SERVO_STATUS_STEPS_REMOVED : Fld := ⟨.TIME_SERVO_STATUS, 0, 16⟩
def TIME_SERVO_CTL_FORCE : Fld := ⟨.TIME_SERVO_CTL, 0, 2⟩
def TIME_HO_CFG_HO_PPT_FREE : Fld := ⟨.TIME_HO_CFG, 16, 16⟩
def TIME_HO_CFG_HO_PPT_SYNC : Fld := ⟨.TIME_HO_CFG, 0, 16⟩
def TIME_DPLL_CFG_WTR_MIN : Fld := ⟨.TIME_DPLL_CFG, 24, 4⟩
def TIME_DPLL_CFG_QL_EN : Fld := ⟨.TIME_DPLL_CFG, 23, 1⟩
def TIME_DPLL_CFG_BW : Fld := ⟨.TIME_DPLL_CFG, 20, 2⟩
def TIME_DPLL_CFG_FORCE_REF : Fld := ⟨.TIME_DPLL_CFG, 16, 4⟩
def TIME_DPLL_CFG_PRIO : Fld := ⟨.TIME_DPLL_CFG, 0, 16⟩
def TIME_DPLL_SRC_REC1_LANE : Fld := ⟨.TIME_DPLL_SRC, 16, 9⟩
def TIME_DPLL_SRC_REC0_LANE : Fld := ⟨.TIME_DPLL_SRC, 0, 9⟩
def TIME_DPLL_QL_QL_OPT : Fld := ⟨.TIME_DPLL_QL, 16, 1⟩
def TIME_DPLL_QL_QL_OWN : Fld := ⟨.TIME_DPLL_QL, 12, 4⟩
def TIME_DPLL_QL_QL_PPS : Fld := ⟨.TIME_DPLL_QL, 8, 4⟩
def TIME_DPLL_QL_QL_TIMEREF : Fld := ⟨.TIME_DPLL_QL, 4, 4⟩
def TIME_DPLL_STATUS_STATE : Fld := ⟨.TIME_DPLL_STATUS, 29, 3⟩
def TIME_DPLL_STATUS_SELECTED : Fld := ⟨.TIME_DPLL_STATUS, 26, 3⟩
def TIME_DPLL_STATUS_QUAL : Fld := ⟨.TIME_DPLL_STATUS, 22, 4⟩
def TIME_DPLL_STATUS_QL_SEL : Fld := ⟨.TIME_DPLL_STATUS, 18, 4⟩
def TIME_OUT_CFG_PPS_MODE : Fld := ⟨.TIME_OUT_CFG, 30, 2⟩
def TIME_OUT_CFG_PPS_WIDTH_MS : Fld := ⟨.TIME_OUT_CFG, 20, 10⟩
def TIME_OUT_CFG_SYNCE_OUT1_SEL : Fld := ⟨.TIME_OUT_CFG, 17, 3⟩
def TIME_OUT_CFG_SYNCE_OUT0_SEL : Fld := ⟨.TIME_OUT_CFG, 14, 3⟩
def TIME_OUT_CFG_TIMECLK_EN : Fld := ⟨.TIME_OUT_CFG, 13, 1⟩
def TIME_OUT_CFG_TOD_TX_EN : Fld := ⟨.TIME_OUT_CFG, 12, 1⟩
def TIME_OUT_CFG_TOD_RX_EN : Fld := ⟨.TIME_OUT_CFG, 11, 1⟩
def TIME_OUT_CFG_TOD_DELAY_MS : Fld := ⟨.TIME_OUT_CFG, 0, 11⟩
def TIME_TALLY_CFG_TALLY_EN : Fld := ⟨.TIME_TALLY_CFG, 31, 1⟩
def TIME_TALLY_CFG_CHUNK : Fld := ⟨.TIME_TALLY_CFG, 16, 14⟩
def TIME_TALLY_CFG_PERIOD_S : Fld := ⟨.TIME_TALLY_CFG, 0, 12⟩
def TIME_TALLY_STATUS_SEQ : Fld := ⟨.TIME_TALLY_STATUS, 0, 32⟩
def TIME_PORT_PTP_ROLE : Fld := ⟨.TIME_PORT_PTP, 30, 2⟩
def TIME_PORT_PTP_ESMC_EN : Fld := ⟨.TIME_PORT_PTP, 29, 1⟩
def TIME_PORT_PTP_LOCAL_PRIO : Fld := ⟨.TIME_PORT_PTP, 16, 8⟩
def TIME_PORT_PTP_SYNC_RATE : Fld := ⟨.TIME_PORT_PTP, 12, 4⟩
def TIME_PORT_PTP_DREQ_RATE : Fld := ⟨.TIME_PORT_PTP, 8, 4⟩
def TIME_PORT_PTP_ANN_RATE : Fld := ⟨.TIME_PORT_PTP, 4, 4⟩
def TIME_PORT_PTP_STATUS_PORT_STATE : Fld := ⟨.TIME_PORT_PTP_STATUS, 28, 4⟩
def TIME_PORT_PTP_STATUS_QL_RX : Fld := ⟨.TIME_PORT_PTP_STATUS, 24, 4⟩
def TIME_PORT_PTP_STATUS_ESMC_TO : Fld := ⟨.TIME_PORT_PTP_STATUS, 23, 1⟩
def TIME_SVC_EVT_CAUSE_REJECTED : Fld := ⟨.TIME_SVC_EVT_CAUSE, 7, 1⟩
def TIME_SVC_EVT_CAUSE_PPS_LOSS : Fld := ⟨.TIME_SVC_EVT_CAUSE, 6, 1⟩
def TIME_SVC_EVT_CAUSE_TOD_BAD : Fld := ⟨.TIME_SVC_EVT_CAUSE, 5, 1⟩
def TIME_SVC_EVT_CAUSE_REF_SWITCH : Fld := ⟨.TIME_SVC_EVT_CAUSE, 4, 1⟩
def TIME_SVC_EVT_CAUSE_DPLL_STATE : Fld := ⟨.TIME_SVC_EVT_CAUSE, 3, 1⟩
def TIME_SVC_EVT_CAUSE_STEP : Fld := ⟨.TIME_SVC_EVT_CAUSE, 2, 1⟩
def TIME_SVC_EVT_CAUSE_GM_CHANGE : Fld := ⟨.TIME_SVC_EVT_CAUSE, 1, 1⟩
def TIME_SVC_EVT_CAUSE_SERVO_STATE : Fld := ⟨.TIME_SVC_EVT_CAUSE, 0, 1⟩
def SYS_IDENT_DEVICE : Fld := ⟨.SYS_IDENT, 16, 16⟩
def SYS_IDENT_VENDOR : Fld := ⟨.SYS_IDENT, 0, 16⟩
def SYS_REV_STEPPING : Fld := ⟨.SYS_REV, 8, 8⟩
def SYS_REV_ROM_REV : Fld := ⟨.SYS_REV, 0, 8⟩
def SYS_UID_LO_UID : Fld := ⟨.SYS_UID_LO, 0, 32⟩
def SYS_UID_HI_UID : Fld := ⟨.SYS_UID_HI, 0, 32⟩
def SYS_IF_CFG_SMB_PEC_REQ : Fld := ⟨.SYS_IF_CFG, 1, 1⟩
def SYS_IF_CFG_ALERT_EN : Fld := ⟨.SYS_IF_CFG, 0, 1⟩
def SYS_REJECT_ADDR_VALID : Fld := ⟨.SYS_REJECT_ADDR, 31, 1⟩
def SYS_REJECT_ADDR_OVF : Fld := ⟨.SYS_REJECT_ADDR, 30, 1⟩
def SYS_REJECT_ADDR_ADDR : Fld := ⟨.SYS_REJECT_ADDR, 0, 26⟩
def SYS_REJECT_INFO_REQ : Fld := ⟨.SYS_REJECT_INFO, 28, 4⟩
def SYS_REJECT_INFO_CODE : Fld := ⟨.SYS_REJECT_INFO, 24, 4⟩
def SYS_REJECT_INFO_VID : Fld := ⟨.SYS_REJECT_INFO, 0, 8⟩
def SYS_LOCKED_WR_VALID : Fld := ⟨.SYS_LOCKED_WR, 31, 1⟩
def SYS_LOCKED_WR_OVF : Fld := ⟨.SYS_LOCKED_WR, 30, 1⟩
def SYS_LOCKED_WR_ADDR : Fld := ⟨.SYS_LOCKED_WR, 0, 26⟩
def SYS_LOCKED_WR_INFO_REQ : Fld := ⟨.SYS_LOCKED_WR_INFO, 28, 4⟩
def SYS_BUS_ERR_VALID : Fld := ⟨.SYS_BUS_ERR, 31, 1⟩
def SYS_BUS_ERR_OVF : Fld := ⟨.SYS_BUS_ERR, 30, 1⟩
def SYS_BUS_ERR_ADDR : Fld := ⟨.SYS_BUS_ERR, 0, 26⟩
def SYS_BUS_ERR_INFO_REQ : Fld := ⟨.SYS_BUS_ERR_INFO, 28, 4⟩
def SYS_BUS_ERR_INFO_KIND : Fld := ⟨.SYS_BUS_ERR_INFO, 26, 2⟩
def SYS_BUS_ERR_INFO_WRITE : Fld := ⟨.SYS_BUS_ERR_INFO, 25, 1⟩
def SYS_EVT_CAUSE_LOCKED_WR : Fld := ⟨.SYS_EVT_CAUSE, 2, 1⟩
def SYS_EVT_CAUSE_REJECTED : Fld := ⟨.SYS_EVT_CAUSE, 1, 1⟩
def SYS_EVT_CAUSE_BUS_ERR : Fld := ⟨.SYS_EVT_CAUSE, 0, 1⟩
def SYS_STATUS_REJECT : Fld := ⟨.SYS_STATUS, 0, 4⟩
def EVT_STATUS_STATUS : Fld := ⟨.EVT_STATUS, 0, 32⟩
def EVT_ENABLE_ENABLE : Fld := ⟨.EVT_ENABLE, 0, 32⟩
def EVT_ROUTE_DEST : Fld := ⟨.EVT_ROUTE, 16, 3⟩
def EVT_ROUTE_VECTOR : Fld := ⟨.EVT_ROUTE, 0, 11⟩
def EVT_Z_STATUS_STATUS : Fld := ⟨.EVT_Z_STATUS, 0, 32⟩
def EVT_Z_ENABLE_ENABLE : Fld := ⟨.EVT_Z_ENABLE, 0, 32⟩
def EVT_SUMMARY0_WORDS : Fld := ⟨.EVT_SUMMARY0, 0, 32⟩
def EVT_SUMMARY1_WORDS : Fld := ⟨.EVT_SUMMARY1, 0, 24⟩
def EVT_Z_SUMMARY0_WORDS : Fld := ⟨.EVT_Z_SUMMARY0, 0, 32⟩
def EVT_Z_SUMMARY1_WORDS : Fld := ⟨.EVT_Z_SUMMARY1, 0, 24⟩
def EVT_CFG_HOLDOFF_US : Fld := ⟨.EVT_CFG, 0, 10⟩
def EVT_TEST_GO : Fld := ⟨.EVT_TEST, 31, 1⟩
def EVT_TEST_SOURCE : Fld := ⟨.EVT_TEST, 0, 11⟩
def EVT_MSI_LOST_COUNT : Fld := ⟨.EVT_MSI_LOST, 0, 32⟩
def MBX_CTL_GO : Fld := ⟨.MBX_CTL, 31, 1⟩
def MBX_CTL_VALID : Fld := ⟨.MBX_CTL, 30, 1⟩
def MBX_CTL_ERR : Fld := ⟨.MBX_CTL, 29, 1⟩
def MBX_CTL_ERRCODE : Fld := ⟨.MBX_CTL, 24, 4⟩
def MBX_CTL_LEN : Fld := ⟨.MBX_CTL, 16, 8⟩
def MBX_CTL_OFF : Fld := ⟨.MBX_CTL, 8, 8⟩
def MBX_CTL_OP : Fld := ⟨.MBX_CTL, 0, 4⟩
def MBX_SEL_BLOCK : Fld := ⟨.MBX_SEL, 24, 8⟩
def MBX_SEL_INDEX : Fld := ⟨.MBX_SEL, 0, 24⟩
def MBX_DATA_DATA : Fld := ⟨.MBX_DATA, 0, 32⟩
def SYS_SWRESET_KEY : Fld := ⟨.SYS_SWRESET, 16, 16⟩
def CLK_STATUS_ROOT_LOCK : Fld := ⟨.CLK_STATUS, 31, 1⟩
def CLK_STATUS_TIME_LOCK : Fld := ⟨.CLK_STATUS, 30, 1⟩
def CLK_STATUS_CLK_BACKUP : Fld := ⟨.CLK_STATUS, 29, 1⟩
def CLK_STATUS_PCIE_LOCK : Fld := ⟨.CLK_STATUS, 28, 1⟩
def CLK_STATUS_REFCLK_MEAS : Fld := ⟨.CLK_STATUS, 26, 2⟩
def CLK_STATUS_REJECT : Fld := ⟨.CLK_STATUS, 0, 4⟩
def CLK_RST_CAUSE_POR : Fld := ⟨.CLK_RST_CAUSE, 31, 1⟩
def CLK_RST_CAUSE_RESET_N : Fld := ⟨.CLK_RST_CAUSE, 30, 1⟩
def CLK_RST_CAUSE_SWRESET : Fld := ⟨.CLK_RST_CAUSE, 29, 1⟩
def CLK_RST_CAUSE_THERMTRIP : Fld := ⟨.CLK_RST_CAUSE, 28, 1⟩
def CLK_RST_CAUSE_CLK_FAIL : Fld := ⟨.CLK_RST_CAUSE, 27, 1⟩
def CLK_RST_CAUSE_NVM_DELAYED : Fld := ⟨.CLK_RST_CAUSE, 26, 1⟩
def CLK_RST_CAUSE_NVM_CUT : Fld := ⟨.CLK_RST_CAUSE, 25, 1⟩
def CLK_RST_CAUSE_OPT_RESTART : Fld := ⟨.CLK_RST_CAUSE, 24, 1⟩
def CLK_RST_CAUSE_WDT_COUNT : Fld := ⟨.CLK_RST_CAUSE, 8, 8⟩
def CLK_OPT_STATUS_COPY : Fld := ⟨.CLK_OPT_STATUS, 30, 2⟩
def CLK_OPT_STATUS_FIELD_DEFAULT : Fld := ⟨.CLK_OPT_STATUS, 29, 1⟩
def CLK_OPT_STATUS_REFCLK_MISMATCH : Fld := ⟨.CLK_OPT_STATUS, 28, 1⟩
def CLK_OPT_STATUS_LOADS : Fld := ⟨.CLK_OPT_STATUS, 20, 8⟩
def CLK_OPT_STATUS_SMB_ADDR : Fld := ⟨.CLK_OPT_STATUS, 0, 7⟩
def CLK_WDT_CFG_WDT_EN : Fld := ⟨.CLK_WDT_CFG, 31, 1⟩
def CLK_WDT_CFG_TIMEOUT_MS : Fld := ⟨.CLK_WDT_CFG, 0, 16⟩
def CLK_WDT_KICK_KEY : Fld := ⟨.CLK_WDT_KICK, 0, 16⟩
def CLK_WDT_STATUS_REMAIN_MS : Fld := ⟨.CLK_WDT_STATUS, 16, 16⟩
def CLK_WDT_STATUS_BAD_KICKS : Fld := ⟨.CLK_WDT_STATUS, 0, 16⟩
def CLK_SOFT_RST0_STALL : Fld := ⟨.CLK_SOFT_RST0, 0, 32⟩
def CLK_SOFT_RST1_STALL : Fld := ⟨.CLK_SOFT_RST1, 0, 32⟩
def CLK_SOFT_RST2_SEC : Fld := ⟨.CLK_SOFT_RST2, 26, 1⟩
def CLK_SOFT_RST2_NVM : Fld := ⟨.CLK_SOFT_RST2, 25, 1⟩
def CLK_SOFT_RST2_DMA : Fld := ⟨.CLK_SOFT_RST2, 24, 1⟩
def CLK_SOFT_RST2_SCH : Fld := ⟨.CLK_SOFT_RST2, 23, 1⟩
def CLK_SOFT_RST2_SWC : Fld := ⟨.CLK_SOFT_RST2, 22, 1⟩
def CLK_SOFT_RST2_TIME : Fld := ⟨.CLK_SOFT_RST2, 21, 1⟩
def CLK_SOFT_RST2_PE : Fld := ⟨.CLK_SOFT_RST2, 20, 1⟩
def CLK_SOFT_RST2_QTR : Fld := ⟨.CLK_SOFT_RST2, 16, 4⟩
def CLK_SOFT_RST2_AISLE : Fld := ⟨.CLK_SOFT_RST2, 0, 16⟩
def CLK_EVT_CAUSE_REJECTED : Fld := ⟨.CLK_EVT_CAUSE, 9, 1⟩
def CLK_EVT_CAUSE_FLR : Fld := ⟨.CLK_EVT_CAUSE, 8, 1⟩
def CLK_EVT_CAUSE_PCIE_RESET : Fld := ⟨.CLK_EVT_CAUSE, 7, 1⟩
def CLK_EVT_CAUSE_SOFT_RST_DONE : Fld := ⟨.CLK_EVT_CAUSE, 6, 1⟩
def CLK_EVT_CAUSE_WDT_RESET : Fld := ⟨.CLK_EVT_CAUSE, 5, 1⟩
def CLK_EVT_CAUSE_TIMEPLL_RELOCK : Fld := ⟨.CLK_EVT_CAUSE, 4, 1⟩
def CLK_EVT_CAUSE_TIMEPLL_LOSS : Fld := ⟨.CLK_EVT_CAUSE, 3, 1⟩
def CLK_EVT_CAUSE_REFCLK_MISMATCH : Fld := ⟨.CLK_EVT_CAUSE, 2, 1⟩
def CLK_EVT_CAUSE_OPT_FALLBACK : Fld := ⟨.CLK_EVT_CAUSE, 1, 1⟩
def CLK_EVT_CAUSE_RESET_DONE : Fld := ⟨.CLK_EVT_CAUSE, 0, 1⟩
def SYS_MODE_TARGET : Fld := ⟨.SYS_MODE, 21, 3⟩
def SYS_MODE_PENDING : Fld := ⟨.SYS_MODE, 20, 1⟩
def SYS_MODE_STEP : Fld := ⟨.SYS_MODE, 18, 2⟩
def SYS_MODE_REQ_STEP : Fld := ⟨.SYS_MODE, 16, 2⟩
def SYS_MODE_SEAL_DUE : Fld := ⟨.SYS_MODE, 15, 1⟩
def SYS_MODE_CLEAN : Fld := ⟨.SYS_MODE, 14, 1⟩
def SYS_MODE_DRAIN_EMPTY : Fld := ⟨.SYS_MODE, 13, 1⟩
def SYS_MODE_SHUT_WHY : Fld := ⟨.SYS_MODE, 11, 2⟩
def SYS_MODE_SETUP_ERR : Fld := ⟨.SYS_MODE, 8, 3⟩
def SYS_MODE_MODE : Fld := ⟨.SYS_MODE, 0, 3⟩
def SYS_MODE_REQ_GO : Fld := ⟨.SYS_MODE_REQ, 31, 1⟩
def SYS_MODE_REQ_LEAN_STEP : Fld := ⟨.SYS_MODE_REQ, 4, 2⟩
def SYS_MODE_REQ_TARGET : Fld := ⟨.SYS_MODE_REQ, 0, 3⟩
def SYS_MODE_CFG_SETUP_TARGET : Fld := ⟨.SYS_MODE_CFG, 1, 1⟩
def SYS_MODE_CFG_AUTO_SEAL : Fld := ⟨.SYS_MODE_CFG, 0, 1⟩
def SYS_EPOCH_REQUESTED : Fld := ⟨.SYS_EPOCH, 16, 16⟩
def SYS_EPOCH_CURRENT : Fld := ⟨.SYS_EPOCH, 0, 16⟩
def SYS_EPOCH_REQ_GO : Fld := ⟨.SYS_EPOCH_REQ, 31, 1⟩
def SYS_EPOCH_APPLIED0_UNITS : Fld := ⟨.SYS_EPOCH_APPLIED0, 0, 32⟩
def SYS_EPOCH_APPLIED1_UNITS : Fld := ⟨.SYS_EPOCH_APPLIED1, 0, 32⟩
def SYS_EPOCH_APPLIED2_UNITS : Fld := ⟨.SYS_EPOCH_APPLIED2, 0, 24⟩
def SYS_EPOCH_LATE_COUNT : Fld := ⟨.SYS_EPOCH_LATE, 0, 32⟩
def SYS_PROVE_CTL_GO : Fld := ⟨.SYS_PROVE_CTL, 31, 1⟩
def SYS_PROVE_CTL_TESTS : Fld := ⟨.SYS_PROVE_CTL, 0, 6⟩
def SYS_PROVE_STATUS_BUSY : Fld := ⟨.SYS_PROVE_STATUS, 31, 1⟩
def SYS_PROVE_STATUS_FAIL : Fld := ⟨.SYS_PROVE_STATUS, 8, 6⟩
def SYS_PROVE_STATUS_DONE : Fld := ⟨.SYS_PROVE_STATUS, 0, 6⟩
def SYS_MODE_EVT_CAUSE_CLEAN : Fld := ⟨.SYS_MODE_EVT_CAUSE, 11, 1⟩
def SYS_MODE_EVT_CAUSE_LEAN_CHANGE : Fld := ⟨.SYS_MODE_EVT_CAUSE, 10, 1⟩
def SYS_MODE_EVT_CAUSE_PROVE_FAIL : Fld := ⟨.SYS_MODE_EVT_CAUSE, 9, 1⟩
def SYS_MODE_EVT_CAUSE_PROVE_DONE : Fld := ⟨.SYS_MODE_EVT_CAUSE, 8, 1⟩
def SYS_MODE_EVT_CAUSE_DRAIN_EMPTY : Fld := ⟨.SYS_MODE_EVT_CAUSE, 7, 1⟩
def SYS_MODE_EVT_CAUSE_SEAL_DUE : Fld := ⟨.SYS_MODE_EVT_CAUSE, 6, 1⟩
def SYS_MODE_EVT_CAUSE_SEALED_AUTO : Fld := ⟨.SYS_MODE_EVT_CAUSE, 5, 1⟩
def SYS_MODE_EVT_CAUSE_SETUP_FAIL : Fld := ⟨.SYS_MODE_EVT_CAUSE, 4, 1⟩
def SYS_MODE_EVT_CAUSE_NO_IMAGE : Fld := ⟨.SYS_MODE_EVT_CAUSE, 3, 1⟩
def SYS_MODE_EVT_CAUSE_EPOCH_LATE : Fld := ⟨.SYS_MODE_EVT_CAUSE, 2, 1⟩
def SYS_MODE_EVT_CAUSE_EPOCH_DONE : Fld := ⟨.SYS_MODE_EVT_CAUSE, 1, 1⟩
def SYS_MODE_EVT_CAUSE_MODE_DONE : Fld := ⟨.SYS_MODE_EVT_CAUSE, 0, 1⟩
def SYS_OWNER_LOST_WHY : Fld := ⟨.SYS_OWNER, 2, 2⟩
def SYS_OWNER_STATE : Fld := ⟨.SYS_OWNER, 0, 2⟩
def SYS_OWNER_CTL_CLAIM : Fld := ⟨.SYS_OWNER_CTL, 31, 1⟩
def SYS_OWNER_CTL_RELEASE : Fld := ⟨.SYS_OWNER_CTL, 30, 1⟩
def SYS_OWNER_CTL_HEARTBEAT : Fld := ⟨.SYS_OWNER_CTL, 29, 1⟩
def SYS_OWNER_CFG_CLAIM_SECURE : Fld := ⟨.SYS_OWNER_CFG, 31, 1⟩
def SYS_OWNER_CFG_HB_MS : Fld := ⟨.SYS_OWNER_CFG, 0, 16⟩
def NVM_STATUS_DENSITY_MIB : Fld := ⟨.NVM_STATUS, 23, 9⟩
def NVM_STATUS_BUSY : Fld := ⟨.NVM_STATUS, 17, 1⟩
def NVM_STATUS_HOLD_ACTIVE : Fld := ⟨.NVM_STATUS, 16, 1⟩
def NVM_STATUS_B_VALID : Fld := ⟨.NVM_STATUS, 13, 1⟩
def NVM_STATUS_A_VALID : Fld := ⟨.NVM_STATUS, 12, 1⟩
def NVM_STATUS_SLOT : Fld := ⟨.NVM_STATUS, 8, 2⟩
def NVM_STATUS_REJECT : Fld := ⟨.NVM_STATUS, 0, 4⟩
def NVM_BOOT_NEXT_SLOT : Fld := ⟨.NVM_BOOT, 3, 2⟩
def NVM_BOOT_SKIP_B : Fld := ⟨.NVM_BOOT, 1, 1⟩
def NVM_BOOT_SKIP_A : Fld := ⟨.NVM_BOOT, 0, 1⟩
def NVM_CTL_HOLD : Fld := ⟨.NVM_CTL, 0, 1⟩
def NVM_FAULT_USED : Fld := ⟨.NVM_FAULT, 0, 13⟩
def DMA_RING_BASE_LO_ADDR : Fld := ⟨.DMA_RING_BASE_LO, 6, 26⟩
def DMA_RING_BASE_HI_ADDR : Fld := ⟨.DMA_RING_BASE_HI, 0, 32⟩
def DMA_CPL_BASE_LO_ADDR : Fld := ⟨.DMA_CPL_BASE_LO, 6, 26⟩
def DMA_CPL_BASE_HI_ADDR : Fld := ⟨.DMA_CPL_BASE_HI, 0, 32⟩
def DMA_RING_CFG_EN : Fld := ⟨.DMA_RING_CFG, 31, 1⟩
def DMA_RING_CFG_LOG2_SIZE : Fld := ⟨.DMA_RING_CFG, 0, 4⟩
def DMA_RING_TAIL_TAIL : Fld := ⟨.DMA_RING_TAIL, 0, 12⟩
def DMA_RING_HEAD_HEAD : Fld := ⟨.DMA_RING_HEAD, 0, 12⟩
def DMA_STATUS_REJECT : Fld := ⟨.DMA_STATUS, 0, 4⟩
def DMA_PADLOCK_HELD_Z : Fld := ⟨.DMA_PADLOCK, 17, 15⟩
def DMA_PADLOCK_HELD_H : Fld := ⟨.DMA_PADLOCK, 1, 16⟩
def DMA_CFG_EXC_Q : Fld := ⟨.DMA_CFG, 16, 3⟩
def DMA_CFG_PADLOCK_MAX_MS : Fld := ⟨.DMA_CFG, 0, 16⟩
def HQ_BASE_LO_ADDR : Fld := ⟨.HQ_BASE_LO, 0, 32⟩
def HQ_BASE_HI_ADDR : Fld := ⟨.HQ_BASE_HI, 0, 32⟩
def HQ_CFG_EN : Fld := ⟨.HQ_CFG, 31, 1⟩
def HQ_CFG_LOG2_SIZE : Fld := ⟨.HQ_CFG, 0, 4⟩
def HQ_TAIL_TAIL : Fld := ⟨.HQ_TAIL, 0, 12⟩
def HQ_HEAD_HEAD : Fld := ⟨.HQ_HEAD, 0, 12⟩
def HQ_LOST_COUNT : Fld := ⟨.HQ_LOST, 0, 32⟩
def ASSAY_CFG_CORRECT_EN : Fld := ⟨.ASSAY_CFG, 31, 1⟩
def ASSAY_CFG_REF_SEL : Fld := ⟨.ASSAY_CFG, 29, 2⟩
def ASSAY_CFG_WIN_S : Fld := ⟨.ASSAY_CFG, 16, 8⟩
def ASSAY_CFG_SEAL_MAX : Fld := ⟨.ASSAY_CFG, 0, 16⟩
def ASSAY_RATE_KREC_S : Fld := ⟨.ASSAY_RATE, 0, 20⟩
def ASSAY_SHADOW_LO_ADDR : Fld := ⟨.ASSAY_SHADOW_LO, 0, 32⟩
def ASSAY_SHADOW_HI_ADDR : Fld := ⟨.ASSAY_SHADOW_HI, 0, 32⟩
def ASSAY_CTL_SHADOW_EN : Fld := ⟨.ASSAY_CTL, 0, 1⟩
def ASSAY_STATUS_REF : Fld := ⟨.ASSAY_STATUS, 30, 2⟩
def ASSAY_STATUS_REBASE : Fld := ⟨.ASSAY_STATUS, 29, 1⟩
def ASSAY_STATUS_WIN_COUNT : Fld := ⟨.ASSAY_STATUS, 0, 16⟩
def QTR_ASSAY_EVT_CAUSE_REJECTED : Fld := ⟨.QTR_ASSAY_EVT_CAUSE, 8, 1⟩
def QTR_ASSAY_EVT_CAUSE_REF_FAIL : Fld := ⟨.QTR_ASSAY_EVT_CAUSE, 7, 1⟩
def QTR_ASSAY_EVT_CAUSE_REF_CHANGE : Fld := ⟨.QTR_ASSAY_EVT_CAUSE, 6, 1⟩
def QTR_ASSAY_EVT_CAUSE_SEAL_THRESH : Fld := ⟨.QTR_ASSAY_EVT_CAUSE, 5, 1⟩
def QTR_ASSAY_EVT_CAUSE_PASS_CLEAN : Fld := ⟨.QTR_ASSAY_EVT_CAUSE, 4, 1⟩
def QTR_ASSAY_EVT_CAUSE_PASS_DONE : Fld := ⟨.QTR_ASSAY_EVT_CAUSE, 3, 1⟩
def QTR_ASSAY_EVT_CAUSE_CORRECT_FAIL : Fld := ⟨.QTR_ASSAY_EVT_CAUSE, 2, 1⟩
def QTR_ASSAY_EVT_CAUSE_CORRECTED : Fld := ⟨.QTR_ASSAY_EVT_CAUSE, 1, 1⟩
def QTR_ASSAY_EVT_CAUSE_MISMATCH : Fld := ⟨.QTR_ASSAY_EVT_CAUSE, 0, 1⟩
def SEC_STATUS_OWNED : Fld := ⟨.SEC_STATUS, 31, 1⟩
def SEC_STATUS_OWNER_BAD : Fld := ⟨.SEC_STATUS, 30, 1⟩
def SEC_STATUS_DEBUG_OPEN : Fld := ⟨.SEC_STATUS, 29, 1⟩
def SEC_STATUS_ENTROPY_OK : Fld := ⟨.SEC_STATUS, 28, 1⟩
def SEC_STATUS_READY : Fld := ⟨.SEC_STATUS, 27, 1⟩
def SEC_STATUS_BUSY : Fld := ⟨.SEC_STATUS, 26, 1⟩
def SEC_STATUS_SECURE_SESSION : Fld := ⟨.SEC_STATUS, 25, 1⟩
def SEC_STATUS_MEAS_SEALED : Fld := ⟨.SEC_STATUS, 24, 1⟩
def SEC_STATUS_KEY_ID : Fld := ⟨.SEC_STATUS, 22, 2⟩
def SEC_STATUS_REVOKED : Fld := ⟨.SEC_STATUS, 18, 4⟩
def SEC_STATUS_FIELDS_USED : Fld := ⟨.SEC_STATUS, 16, 2⟩
def SEC_STATUS_SESSIONS : Fld := ⟨.SEC_STATUS, 12, 4⟩
def SEC_STATUS_REJECT : Fld := ⟨.SEC_STATUS, 0, 4⟩
def SEC_CFG_OWNER_AS_REQ : Fld := ⟨.SEC_CFG, 3, 1⟩
def SEC_CFG_SECURE_SESSION_EN : Fld := ⟨.SEC_CFG, 2, 1⟩
def SEC_CFG_MCTP_EN : Fld := ⟨.SEC_CFG, 1, 1⟩
def SEC_CFG_DOE_EN : Fld := ⟨.SEC_CFG, 0, 1⟩
def SEC_LOCK_CFG_LOCK : Fld := ⟨.SEC_LOCK, 0, 1⟩
def SEC_SVN_FW : Fld := ⟨.SEC_SVN, 16, 7⟩
def SEC_SVN_PATCH : Fld := ⟨.SEC_SVN, 8, 7⟩
def SEC_SVN_IMAGE : Fld := ⟨.SEC_SVN, 0, 7⟩
def SEC_SVN_CTL_GO : Fld := ⟨.SEC_SVN_CTL, 31, 1⟩
def SEC_SVN_CTL_KIND : Fld := ⟨.SEC_SVN_CTL, 24, 2⟩
def SEC_SVN_CTL_VALUE : Fld := ⟨.SEC_SVN_CTL, 0, 7⟩
def SEC_OTP_CTL_BURN_OWNER : Fld := ⟨.SEC_OTP_CTL, 31, 1⟩
def SEC_OTP_CTL_REVOKE : Fld := ⟨.SEC_OTP_CTL, 0, 4⟩
def SEC_EVT_CAUSE_REJECTED : Fld := ⟨.SEC_EVT_CAUSE, 11, 1⟩
def SEC_EVT_CAUSE_DEBUG_OPEN : Fld := ⟨.SEC_EVT_CAUSE, 10, 1⟩
def SEC_EVT_CAUSE_MEAS_EXTEND : Fld := ⟨.SEC_EVT_CAUSE, 9, 1⟩
def SEC_EVT_CAUSE_ENTROPY_FAIL : Fld := ⟨.SEC_EVT_CAUSE, 8, 1⟩
def SEC_EVT_CAUSE_AUTH_FAIL : Fld := ⟨.SEC_EVT_CAUSE, 7, 1⟩
def SEC_EVT_CAUSE_SECURE_SESSION : Fld := ⟨.SEC_EVT_CAUSE, 6, 1⟩
def SEC_EVT_CAUSE_SESSION_END : Fld := ⟨.SEC_EVT_CAUSE, 5, 1⟩
def SEC_EVT_CAUSE_SESSION_OPEN : Fld := ⟨.SEC_EVT_CAUSE, 4, 1⟩
def SEC_EVT_CAUSE_OTP_BURN_FAIL : Fld := ⟨.SEC_EVT_CAUSE, 3, 1⟩
def SEC_EVT_CAUSE_OTP_BURNED : Fld := ⟨.SEC_EVT_CAUSE, 2, 1⟩
def SEC_EVT_CAUSE_SVN_ADVANCED : Fld := ⟨.SEC_EVT_CAUSE, 1, 1⟩
def SEC_EVT_CAUSE_VERIFY_FAIL : Fld := ⟨.SEC_EVT_CAUSE, 0, 1⟩
def THM_STATUS_OVER_LIMIT : Fld := ⟨.THM_STATUS, 26, 1⟩
def THM_STATUS_STEP : Fld := ⟨.THM_STATUS, 24, 2⟩
def THM_STATUS_HOT_SENSOR : Fld := ⟨.THM_STATUS, 18, 6⟩
def THM_STATUS_TJ_MAX : Fld := ⟨.THM_STATUS, 0, 12⟩
def THM_CFG_TRIP_C : Fld := ⟨.THM_CFG, 24, 8⟩
def THM_CFG_LIMIT_C : Fld := ⟨.THM_CFG, 16, 8⟩
def THM_CFG_HYST_C : Fld := ⟨.THM_CFG, 0, 4⟩
def THM_FAIL0_FAILED : Fld := ⟨.THM_FAIL0, 0, 32⟩
def THM_FAIL1_FAILED : Fld := ⟨.THM_FAIL1, 0, 16⟩
def THM_SENSOR_TEMP : Fld := ⟨.THM_SENSOR, 0, 12⟩
def THM_EVT_CAUSE_SENSOR_SAFE : Fld := ⟨.THM_EVT_CAUSE, 4, 1⟩
def THM_EVT_CAUSE_SENSOR_FAIL : Fld := ⟨.THM_EVT_CAUSE, 3, 1⟩
def THM_EVT_CAUSE_OVER_LIMIT : Fld := ⟨.THM_EVT_CAUSE, 2, 1⟩
def THM_EVT_CAUSE_STEP_DOWN : Fld := ⟨.THM_EVT_CAUSE, 1, 1⟩
def THM_EVT_CAUSE_STEP_UP : Fld := ⟨.THM_EVT_CAUSE, 0, 1⟩
def PWR_CFG_PWR_LIMIT_W : Fld := ⟨.PWR_CFG, 0, 10⟩
def PWR_STATUS_PWR_W : Fld := ⟨.PWR_STATUS, 0, 10⟩
def SHR_CFG_PLAN_EN : Fld := ⟨.SHR_CFG, 31, 1⟩
def SHR_CFG_PLAN_H : Fld := ⟨.SHR_CFG, 16, 8⟩
def SHR_CFG_GUARD_MIN_PS : Fld := ⟨.SHR_CFG, 8, 8⟩
def SHR_CFG_SRAM_FLOOR_MV : Fld := ⟨.SHR_CFG, 0, 8⟩
def SHR_CFG2_EYE_TARGET : Fld := ⟨.SHR_CFG2, 16, 16⟩
def SHR_CFG2_TCAM_FLOOR : Fld := ⟨.SHR_CFG2, 8, 8⟩
def SHR_CFG2_RETUNE_DROP : Fld := ⟨.SHR_CFG2, 0, 8⟩
def SHR_STATUS_REJECT : Fld := ⟨.SHR_STATUS, 28, 4⟩
def SHR_STATUS_PLANNING : Fld := ⟨.SHR_STATUS, 27, 1⟩
def SHR_STATUS_LEDGER_FULL : Fld := ⟨.SHR_STATUS, 26, 1⟩
def SHR_STATUS_LIMITER : Fld := ⟨.SHR_STATUS, 22, 3⟩
def SHR_STATUS_REMAIN_H : Fld := ⟨.SHR_STATUS, 0, 22⟩
def SHR_CTL_AVS_STEP_MS : Fld := ⟨.SHR_CTL, 7, 10⟩
def SHR_CTL_PLAN_NOW : Fld := ⟨.SHR_CTL, 0, 1⟩
def SHR_AVS_TARGET_TARGET_MV : Fld := ⟨.SHR_AVS_TARGET, 0, 10⟩
def SHR_AVS_STATUS_VOLT_MV : Fld := ⟨.SHR_AVS_STATUS, 16, 16⟩
def SHR_AVS_STATUS_AMPS : Fld := ⟨.SHR_AVS_STATUS, 0, 16⟩
def SHR_EVT_CAUSE_REJECTED : Fld := ⟨.SHR_EVT_CAUSE, 10, 1⟩
def SHR_EVT_CAUSE_PWR_LEAN : Fld := ⟨.SHR_EVT_CAUSE, 9, 1⟩
def SHR_EVT_CAUSE_RETUNE_FAIL : Fld := ⟨.SHR_EVT_CAUSE, 8, 1⟩
def SHR_EVT_CAUSE_RELIEF_NONE : Fld := ⟨.SHR_EVT_CAUSE, 7, 1⟩
def SHR_EVT_CAUSE_TILE_RETIRE : Fld := ⟨.SHR_EVT_CAUSE, 6, 1⟩
def SHR_EVT_CAUSE_LEDGER_LOST : Fld := ⟨.SHR_EVT_CAUSE, 5, 1⟩
def SHR_EVT_CAUSE_LEDGER_FULL : Fld := ⟨.SHR_EVT_CAUSE, 4, 1⟩
def SHR_EVT_CAUSE_AVS_FAULT : Fld := ⟨.SHR_EVT_CAUSE, 3, 1⟩
def SHR_EVT_CAUSE_EOL_NEAR : Fld := ⟨.SHR_EVT_CAUSE, 2, 1⟩
def SHR_EVT_CAUSE_MARGIN_LOW : Fld := ⟨.SHR_EVT_CAUSE, 1, 1⟩
def SHR_EVT_CAUSE_PLAN_DONE : Fld := ⟨.SHR_EVT_CAUSE, 0, 1⟩
def PERF_CTL_EN : Fld := ⟨.PERF_CTL, 31, 1⟩
def PERF_CTL_USER : Fld := ⟨.PERF_CTL, 30, 1⟩
def PERF_STATUS_CYC_OVF : Fld := ⟨.PERF_STATUS, 16, 1⟩
def PERF_STATUS_OVF : Fld := ⟨.PERF_STATUS, 8, 8⟩
def PC_CFG_CHAIN : Fld := ⟨.PC_CFG, 31, 1⟩
def PC_CFG_THR_EN : Fld := ⟨.PC_CFG, 30, 1⟩
def PC_CFG_FLT_EN : Fld := ⟨.PC_CFG, 29, 1⟩
def PC_CFG_FILTER : Fld := ⟨.PC_CFG, 20, 9⟩
def PC_CFG_EVENT : Fld := ⟨.PC_CFG, 0, 8⟩
def PC_THR_N : Fld := ⟨.PC_THR, 0, 24⟩
def PERF_GLOBAL_CTL_FREEZE : Fld := ⟨.PERF_GLOBAL_CTL, 31, 1⟩
def PERF_PERMIT_USER_PERMIT : Fld := ⟨.PERF_PERMIT, 0, 1⟩
def PERF_SNAP_BASE_LO_ADDR : Fld := ⟨.PERF_SNAP_BASE_LO, 11, 21⟩
def PERF_SNAP_BASE_HI_ADDR : Fld := ⟨.PERF_SNAP_BASE_HI, 0, 32⟩
def PERF_SNAP_CFG_SNAP_EN : Fld := ⟨.PERF_SNAP_CFG, 31, 1⟩
def PERF_SNAP_CFG_LOG2_SIZE : Fld := ⟨.PERF_SNAP_CFG, 20, 4⟩
def PERF_SNAP_CFG_PERIOD_US : Fld := ⟨.PERF_SNAP_CFG, 0, 20⟩
def PERF_SNAP_STATUS_LOST : Fld := ⟨.PERF_SNAP_STATUS, 4, 16⟩
def PERF_SNAP_STATUS_REJECT : Fld := ⟨.PERF_SNAP_STATUS, 0, 4⟩
def PERF_SNAP_SEQ_SEQ : Fld := ⟨.PERF_SNAP_SEQ, 0, 32⟩
def PE_EVT_CAUSE_CAUSE : Fld := ⟨.PE_EVT_CAUSE, 0, 16⟩
def DMA_EVT_CAUSE_CAUSE : Fld := ⟨.DMA_EVT_CAUSE, 0, 28⟩
def QTR_PCOL_MAP_MAP : Fld := ⟨.QTR_PCOL_MAP, 0, 32⟩

end F

end Sys2Proof.Machine
end

