-- ==== Sys2Proof/Machine/State.lean ====
section
/-!
DEFINITION. Machine/State.lean: the state of the block, as plain data. Registers of the register map are words of
one sparse table (`State.regs`, key `regKey`); everything the spec gives the machine outside a register is a field
of one of the structures below. A table (`Tab`) lists only the entries that differ from their default; the
defaults of an entry are the defaults of its structure's fields, and they are the values at reset.
-/
namespace Sys2Proof.Machine

/-- Why the machine stops with a fault. No command of the spec stops the block: the type is empty. -/
inductive Fault
deriving DecidableEq, Repr

/-- Why a command is refused. -/
inductive Refusal where
  /-- Raised by an arm of `exec` whose command has no meaning yet; safe. -/
  | notModelled (mnemonic : String)
deriving DecidableEq, Repr

/-- What the device sends to the outside, in the model's own record `State.out`. -/
inductive Out where
  /-- A frame leaves on a port: octets before the FCS, and whether its FCS is made bad (R25, R29, R204). -/
  | frame (port : Nat) (data : List Byte) (badFcs : Bool)
  /-- A PFC frame leaves on a port: priority vector, the priorities paused, and the time that those carry, in quanta; the others carry
  0 (R39, R189). -/
  | pfc (port : Nat) (vec pause : BitVec 8) (quanta : Nat)
  /-- Auto-negotiation pages of a port: the base page with MEDIA, width and LANE_RATE of the one technology ability it advertises, the
  RS-FEC ability, and the next pages, message (true) and unformatted (R43). -/
  | anPages (port media width rate : Nat) (rsFec : Bool) (next : List (Bool × BitVec 48))
  /-- An MSI-X message (R300). -/
  | msi (pf vector : Nat)
  /-- The host view of a leaf word interrupts Zolliwin (R299). -/
  | zolIrq (word : Nat)
  /-- The firmware view of a leaf word interrupts Zolliwin (R296). -/
  | zolEvt (word : Nat)
  /-- Zolliwin takes a bus-error exception (R274). -/
  | zolBusError
  /-- The value a read through the full window returns to its requester (R275). -/
  | readData (req : Req) (value : Word)
  /-- What the SMBus target sends in answer to REG_READ: count, value bytes, PEC (R278). -/
  | smbRead (bytes : List Byte)
  /-- The SMBus target does not acknowledge a command code (R278). -/
  | smbNack
  /-- NVM_RST_N is driven low for 10 µs (R315). -/
  | nvmReset
  /-- A command of one octet to the NVM, in octal DTR form or in 1-bit form (R315). -/
  | xspi (octal : Bool) (cmd : BitVec 8)
  /-- A read through the full window ends with a completer abort (R274). -/
  | completerAbort
  /-- The device's address on the SMBus, in answer to the Alert Response Address (R279). -/
  | alertAddr (addr : Nat)
  /-- The SMBus is released after a timeout (R278). -/
  | smbusRelease
  /-- An SPDM response (R402). -/
  | spdm (doe : Bool) (bytes : List Byte)
  /-- A ToD sentence (R262). -/
  | tod (bytes : List Byte)
  /-- A pulse of PPS_OUT of this width in ms (R261). -/
  | pps (width : Nat)
  /-- A frame of the LED chain (R466). -/
  | led (bits : List Bool)
  /-- The out-frame of the site chain (R50). -/
  | chain (bits : List Bool)
  /-- An AVSBus frame: rail and value in mV (R419). -/
  | avs (rail mv : Nat)
  /-- An I²C transaction of module memory: site, write, bank, page, offset and bytes or count (R291). -/
  | i2c (site : Nat) (wr : Bool) (bank page off len : Nat) (bytes : List Byte)
  /-- A message of the protocol engine or of the hardware to Zolliwin (R164). -/
  | zolMsg (kind : Nat) (words : List Word)
  /-- Octets that Zolliwin's ring writes to Zolliwin's memory: completion records and READ data (R365, R367). -/
  | zolMemory (addr : Nat) (bytes : List Byte)
  /-- A clock output changes what it carries: 0 TIMECLK_OUT, 1 SYNCE_OUT0, 2 SYNCE_OUT1; 0 is differential low (R261). -/
  | clkOut (n sel : Nat)
  /-- The JTAG port's device identification register is selected: its 32 bits (R469). -/
  | jtagId (word : BitVec 32)
  /-- A legacy signal or pin changes: pin number of the model and level. -/
  | pin (n : Nat) (level : Bool)
deriving DecidableEq, Repr


/-- Where a PTP message of the protocol engine goes (R247). -/
structure PtpTo where
  /-- 0 Ethernet, 1 UDP/IPv4, 2 UDP/IPv6; R247. -/
  tr : Nat := 0
  /-- destination MAC; R247. -/
  mac : Nat := 0
  /-- destination IP address in network order; R247. -/
  ip : List Byte := []
  /-- unicast; R247. -/
  uni : Bool := false
  /-- correctionField that a Follow_Up of the message carries on; R236. -/
  cf : Nat := 0
deriving DecidableEq, Repr

/-- A received or built frame with the state it carries (R26). -/
structure Frame where
  /-- the model's own number of the frame, so that later commands can name it; R26. -/
  fid : Nat := 0
  /-- ingress port; R26. -/
  port : Nat := 0
  /-- octets from the destination address to the last octet before the FCS; R38. -/
  data : List Byte := []
  /-- carried ingress time in 2^-16 ns; R26, R232. -/
  tIn : Nat := 0
  /-- carried epoch; R26, R340. -/
  epoch : BitVec 16 := 0
  /-- recalibrating mark; R26, R235. -/
  mark : Bool := false
  /-- the last byte has crossed the stall boundary; R176, R185. -/
  lastIn : Bool := false
  /-- the FCS verdict; meaningful once lastIn; R29, R86. -/
  fcsOk : Bool := false
  /-- a protocol engine frame; R179. -/
  fromPe : Bool := false
  /-- where a PTP message of the engine goes; R247. -/
  dst : PtpTo := {}
  /-- counted in SYS_EPOCH_LATE; R341. -/
  late : Bool := false
deriving DecidableEq, Repr

/-- One edit of an edit plan (R139, R140). -/
structure EditOp where
  /-- EOP code 1 to 8; 0 is a patch (insert into the retained frame); R140. -/
  op : Nat := 0
  /-- EBASE or IBASE code; R140. -/
  base : Nat := 0
  /-- byte offset, of the frame as received for codes 2 to 6, else of the code's own base; R140. -/
  off : Nat := 0
  /-- bit offset of a patch; R139. -/
  bit : Nat := 0
  /-- ELEN of an edit, bit count of a patch; R140. -/
  len : Nat := 0
  /-- bits of a patch; R139. -/
  val : BitVec 32 := 0
deriving DecidableEq, Repr

/-- The edit plan a hewer attaches to a packet (R26, R140). -/
structure EditPlan where
  /-- edits in the order the routine made them; at most 16 patches; R139, R140. -/
  ops : List EditOp := []
  /-- the new-header window, 128 bytes; R139. -/
  hdr : List Byte := []
deriving DecidableEq, Repr

/-- A forwarding result (R77, R104, R105). -/
structure Fwd where
  /-- 0 port, 1 next hop, 2 ECMP group, 3 multicast group; R77. -/
  kind : Nat := 0
  /-- discard the frame; R77. -/
  discard : Bool := false
  /-- deliver to the protocol engine; R77. -/
  loc : Bool := false
  /-- port, next hop, group; R77. -/
  value : Nat := 0
deriving DecidableEq, Repr

/-- What the parser records of a frame (R70 to R74). -/
structure Parsed where
  /-- an IPv4 header was recognized (header being described); R70. -/
  isIp4 : Bool := false
  /-- an IPv6 header was recognized; R70. -/
  isIp6 : Bool := false
  /-- destination MAC; R76. -/
  dmac : Nat := 0
  /-- source MAC; R76. -/
  smac : Nat := 0
  /-- innermost EtherType; R76. -/
  etype : Nat := 0
  /-- an outer tag is present; R70. -/
  tagged : Bool := false
  /-- PCP of the outer tag, 0 untagged; R76, R97. -/
  pcp : Nat := 0
  /-- DEI of the outer tag; R210. -/
  dei : Bool := false
  /-- outer VID; R76. -/
  ovid : Nat := 0
  /-- inner VID; R76. -/
  ivid : Nat := 0
  /-- DSCP; R76. -/
  dscp : Nat := 0
  /-- ECN; R76. -/
  ecn : Nat := 0
  /-- IPv4 Protocol or IPv6 final Next Header; R76. -/
  proto : Nat := 0
  /-- source address; R76. -/
  src : Nat := 0
  /-- destination address; R75. -/
  dst : Nat := 0
  /-- L4 source port; R76. -/
  sport : Nat := 0
  /-- L4 destination port; R76. -/
  dport : Nat := 0
  /-- TCP flags; R76. -/
  tcpf : Nat := 0
  /-- flag BADCSUM; R72. -/
  badcsum : Bool := false
  /-- flag FRAG; R72. -/
  frag : Bool := false
  /-- flag FIRST; R72. -/
  first : Bool := false
  /-- flag TTL1; R72. -/
  ttl1 : Bool := false
  /-- flag OPTS (IPv4); R72. -/
  opts : Bool := false
  /-- flag EXT3 (IPv6); R72. -/
  ext3 : Bool := false
  /-- flag TRUNC; R71. -/
  trunc : Bool := false
  /-- byte offset of the L3 header; R139. -/
  l3off : Option Nat := none
  /-- byte offset of the L4 header; R139. -/
  l4off : Option Nat := none
  /-- L of R73 before max and class: offset + header + payload + 4; R73. -/
  l3len : Option Nat := none
  /-- LLDP; R70. -/
  lldp : Bool := false
  /-- slow protocols, subtype 0x0A; R70. -/
  esmc : Bool := false
  /-- BFD (UDP 3784 or 4784); R70. -/
  bfd : Bool := false
  /-- byte offset of the VXLAN header; R70. -/
  vxlan : Option Nat := none
  /-- byte offset of the PTP header; R74. -/
  ptp : Option Nat := none
  /-- messageType; R74. -/
  ptpType : Nat := 0
  /-- domainNumber; R248. -/
  ptpDomain : Nat := 0
deriving DecidableEq, Repr

/-- A copy's descriptor in an output queue (R181). -/
structure Desc where
  /-- 23-bit buffer handle; R181. -/
  handle : Nat := 0
  /-- GEN read at allocation; R181. -/
  gen : BitVec 4 := 0
  /-- the copy of the named final owner; R181. -/
  final : Bool := false
  /-- cut-through granted; R185. -/
  ct : Bool := false
deriving DecidableEq, Repr

/-- One buffer's state and the frame it holds (R181). -/
structure Buf where
  /-- STATE: 0 FREE, 1 ALLOCATED, 2 PARKED; R181. -/
  st : Nat := 0
  /-- GEN (no reset value in the spec: DESIGN CHOICE 0); R181. -/
  gen : BitVec 4 := 0
  /-- OWNER_PORT; R181. -/
  ownPort : Nat := 0
  /-- OWNER_Q; 9 for the protocol engine; R181. -/
  ownQ : Nat := 0
  /-- SHARERS, 0 to 510; R181. -/
  sharers : Nat := 0
  /-- LENGTH, bytes written; R181. -/
  len : Nat := 0
  /-- the frame written; R177. -/
  frame : Frame := {}
  /-- parse result used at dequeue and egress; R74, R186. -/
  pkt : Parsed := {}
  /-- the edit plan; R26. -/
  plan : EditPlan := {}
  /-- ingress port charged; R187. -/
  chgPort : Nat := 0
  /-- priority charged; R187. -/
  chgPrio : Nat := 0
  /-- allocated by the protocol engine; R179, R349. -/
  byPe : Bool := false
  /-- truncated, FCS marked bad; R177. -/
  truncd : Bool := false
deriving DecidableEq, Repr

/-- A request for a buffer (R176 to R180). -/
structure AllocReq where
  /-- frame waiting; R178. -/
  fid : Nat := 0
  /-- the CLK_BUF cycle in which it arrived (ties rank by rotation); R178. -/
  arrived : Nat := 0
  /-- requesting aisle; none for the protocol engine; R178. -/
  aisle : Option Nat := none
  /-- its wait for a buffer has been reported; R178. -/
  told : Bool := false
  /-- its wait for descriptors has been reported; R180. -/
  toldDesc : Bool := false
deriving DecidableEq, Repr

/-- A packet between admission and its buffer (R30, R95). -/
structure Packet where
  /-- the frame; R26. -/
  frame : Frame := {}
  /-- aisle that holds it; R146. -/
  aisle : Nat := 0
  /-- outer headers; R70. -/
  parsed : Parsed := {}
  /-- inner headers of a decapsulated frame; R70, R95. -/
  inner : Option Parsed := none
  /-- length class 0 basket to 3 cart; R73. -/
  cls : Nat := 3
  /-- PFC priority; R97. -/
  prio : Nat := 0
  /-- queue 0 to 8; R97. -/
  queue : Nat := 0
  /-- destination ports that remain; R98. -/
  dests : List Nat := []
  /-- delivered to the protocol engine as this work type; R95. -/
  toPe : Option Nat := none
  /-- waits in the hewer stage to be delivered to the protocol engine as this work type; R145, R146, R149. -/
  peWait : Option Nat := none
  /-- PTYPE; R145. -/
  ptype : Nat := 0
  /-- egress BD; R137. -/
  egBd : Nat := 0
  /-- REWRITE_INDEX; R137. -/
  rwIdx : Nat := 0
  /-- next hop's VNI is not 0; R144. -/
  encap : Bool := false
  /-- condition routed; R144. -/
  routed : Bool := false
  /-- replicated; R144. -/
  repl : Bool := false
  /-- hewer that holds it; R146. -/
  hewer : Option Nat := none
  /-- edit plan, once its routine has ended; R148. -/
  planned : Option EditPlan := none
deriving DecidableEq, Repr

/-- Registers of one microcoded engine (R137 to R149). -/
structure Engine where
  /-- a routine is running; R146. -/
  run : Bool := false
  /-- next microword address; R143. -/
  pc : BitVec 13 := 0
  /-- G0 to G19 (no reset value in the spec: DESIGN CHOICE 0); R137. -/
  g : Tab (BitVec 32) := []
  /-- T0 to T3; R141. -/
  t : Tab (BitVec 32) := []
  /-- MD0 as the routine sees it (staged writes included); R137. -/
  md0 : BitVec 32 := 0
  /-- MD1; R137. -/
  md1 : BitVec 32 := 0
  /-- LC (no reset value in the spec: DESIGN CHOICE 0); R137. -/
  lc : BitVec 32 := 0
  /-- dispatch index whose entry the next fetch reads; R143, R145. -/
  disp : Option Nat := none
  /-- trap table as it stood between routines; R150. -/
  trapS : Tab (BitVec 28) := []
  /-- dispatch table as it stood between routines; R150. -/
  dispS : Tab (BitVec 17) := []
  /-- FL: Z, N, C, V in bits 3 to 0; R137. -/
  fl : BitVec 4 := 0
  /-- nanoseconds field of the carried ingress time; R137. -/
  itime : BitVec 32 := 0
  /-- return stack, at most 4 addresses; R143. -/
  stack : List (BitVec 13) := []
  /-- cycles since the first word; R147. -/
  cycles : Nat := 0
  /-- table call issued and not yet made: TOP, TSEL, index; R141. -/
  call : Option (Nat × Nat × Nat) := none
  /-- THIT: the last call found a valid entry; R144. -/
  thit : Bool := false
  /-- word address the engine is held on; R155. -/
  held : Option (BitVec 13) := none
  /-- frame of the packet; R146. -/
  fid : Nat := 0
  /-- header window: first 256 bytes of the frame as received; R139. -/
  hdrIn : List Byte := []
  /-- condition inputs 0 to 31 latched for this routine (R150); R144. -/
  conds : BitVec 32 := 0
  /-- byte 0 of each extract base 1 to 7; R139. -/
  offs : List (Option Nat) := []
  /-- staged edit plan; R148. -/
  plan : EditPlan := {}
  /-- staged calls: TOP, TSEL, index, T0 to T3 and ITIME + IMM2; R148. -/
  staged : List (Nat × Nat × Nat × List (BitVec 32)) := []
  /-- IMM2 of the word that issued the call; R141. -/
  imm2 : BitVec 32 := 0
  /-- result of a call made, not yet in T0 to T3; empty for a call without a result; R141. -/
  res : Option (List (BitVec 32)) := none
  /-- that call found a valid entry; R144. -/
  resHit : Bool := false
  /-- the routine has met its end: 0 no, 1 END, 2 ABORT outcome 1, 3 ABORT outcome 2; R143. -/
  fin : Nat := 0
deriving DecidableEq, Repr

/-- A machine check capture (R155, R169). -/
structure MCap where
  /-- 0 word parity, 1 dispatch or trap parity, 2 illegal operation, 3 overrun, 4 stack fault; R169. -/
  kind : Nat := 0
  /-- hewer; R169. -/
  hewer : Nat := 0
  /-- word address; R169. -/
  addr : BitVec 13 := 0
  /-- failed parity groups; R169. -/
  groups : BitVec 8 := 0
deriving DecidableEq, Repr

/-- A control store with its tables and machine-check state (R132 to R136, R155); 16 for the aisles, one for the protocol engine. -/
structure McStore where
  /-- patch RAM words by address; unlisted is all zero; R132. -/
  ram : Tab (BitVec 200) := []
  /-- trap entries 0 to 31: parity bit, VALID, FROM, TO; R133, R136. -/
  trap : Tab (BitVec 28) := []
  /-- dispatch entries written over the ROM defaults, parity bit in bit 16; R134. -/
  disp : Tab (BitVec 17) := []
  /-- addresses flagged bad; R155. -/
  bad : List Nat := []
  /-- capture queue, oldest first, at most 3; R155. -/
  caps : List MCap := []
  /-- times of the last 3 machine checks, in time words since reset, newest first; R158, R169. -/
  recent : List Nat := []
  /-- engines of this store may run; R153. -/
  running : Bool := false
  /-- the 100 ms RESUME timer runs; R156. -/
  resumeTmr : Bool := false
  /-- time words at the parity failure of each flagged address; R156. -/
  badAt : Tab Nat := []
deriving DecidableEq, Repr

/-- State of one aisle that no register holds. -/
structure AisleS where
  /-- control store of the hewers; R132. -/
  mc : McStore := {}
  /-- hewers 0 to 31; R146. -/
  hewers : Tab Engine := []
  /-- the aisle is fenced; R158. -/
  fenced : Bool := false
  /-- AISLE_PARSE_CFG of the older epoch; R340. -/
  parseOld : BitVec 32 := 0x7_12B5
  /-- next unit of the copy assay, 0 to 204,799; R124. -/
  sweepPos : Nat := 0
  /-- a full sweep began and ended within the present pass; R375. -/
  swept : Bool := false
  /-- the present sweep began within the present pass; R375. -/
  sweepFrom : Bool := false
deriving DecidableEq, Repr

/-- One tile's entry (R102, R104), indexed by the entry number e. -/
structure Tile where
  /-- valid bit; R102. -/
  valid : Bool := false
  /-- value of the entry, right-aligned to WIDTH × 80 bits; R102. -/
  value : BitVec 320 := 0
  /-- care mask; R102. -/
  care : BitVec 320 := 0
  /-- result word; R104. -/
  result : BitVec 64 := 0
deriving DecidableEq, Repr

/-- A rebuild channel (R121) beside its registers. -/
structure RebuildS where
  /-- a rule slot is rebuilt; R120. -/
  rule : Bool := false
  /-- slot; R120. -/
  slot : Nat := 0
  /-- relief tile; R120. -/
  target : Nat := 0
  /-- new band; R120. -/
  lmin : Nat := 0
  /-- new band; R120. -/
  lmax : Nat := 0
  /-- tile being cleared; R121. -/
  old : Nat := 0
  /-- the switch was made; R121. -/
  okDone : Bool := false
deriving DecidableEq, Repr

/-- A ledger way or stash slot: entry and companion stamp (R77, R86). -/
structure LEntry where
  /-- the entry; R77. -/
  e : BitVec 128 := 0
  /-- stamp T40; R86. -/
  time : BitVec 40 := 0
  /-- stamp quarter; R86. -/
  quarter : Nat := 0
deriving DecidableEq, Repr

/-- A crier note (R87). -/
structure Note where
  /-- 1 LEARN, 2 REMOVE, 3 FLUSH; R87. -/
  typ : Nat := 0
  /-- sending quarter; R87. -/
  quarter : Nat := 0
  /-- KEYD BD; R87. -/
  bd : Nat := 0
  /-- KEYD MAC; R87. -/
  mac : Nat := 0
  /-- PORT; R87. -/
  port : Nat := 0
  /-- TIME; R87. -/
  time : BitVec 40 := 0
  /-- SEQ; R87. -/
  seq : Nat := 0
deriving DecidableEq, Repr

/-- A pending learn or station move (R86). -/
structure Learn where
  /-- frame whose verdict decides; R86. -/
  fid : Nat := 0
  /-- BD; R86. -/
  bd : Nat := 0
  /-- source MAC; R86. -/
  mac : Nat := 0
  /-- ingress port; R86. -/
  port : Nat := 0
  /-- stamp of the frame; R86. -/
  time : BitVec 40 := 0
deriving DecidableEq, Repr

/-- A flowlet entry (R94, R96). -/
structure Flowlet where
  /-- VALID; R94. -/
  valid : Bool := false
  /-- GROUP; R94. -/
  group : Nat := 0
  /-- MEMBER; R94. -/
  member : Nat := 0
  /-- LAST, ns; R94. -/
  last : BitVec 32 := 0
deriving DecidableEq, Repr

/-- A policer's bucket state in a quarter (R209, R211); tokens in 2^-32 byte. -/
structure PolB where
  /-- committed bucket; R211. -/
  c : Int := 0
  /-- peak or excess bucket; R211. -/
  p : Int := 0
  /-- last-update device time, ns; R211. -/
  last : Nat := 0
deriving DecidableEq, Repr

/-- State of one quarter that no register holds. -/
structure QtrS where
  /-- ledger copy, key bucket × 4 + way; R79. -/
  ways : Tab LEntry := []
  /-- stash slots 0 to 63; R79. -/
  stash : Tab LEntry := []
  /-- pending-learn filter, at most 64; R86. -/
  pendL : List Learn := []
  /-- learn FIFO, at most 256 notes, oldest first; R88. -/
  fifo : List Note := []
  /-- SEQ of the next note sent; R87. -/
  seqNext : Nat := 0
  /-- expected SEQ by sender + 1; a listed 2048 means accept the next note unchecked; unlisted is 0; R90. -/
  expSeq : Tab Nat := []
  /-- notes sent by others and not yet received here; R88. -/
  inNotes : List Note := []
  /-- ports waiting for a flush, ascending; R91. -/
  flushSet : List Nat := []
  /-- ports of the walk in progress; R91. -/
  walking : Option (List Nat) := none
  /-- ports whose FLUSH note waits for room in the learn FIFO; R88, R91. -/
  flushWait : List Nat := []
  /-- next place of the ageing sweep, 0 to 131,135; R92. -/
  agePos : Nat := 0
  /-- flowlet table; R94. -/
  flow : Tab Flowlet := []
  /-- policer buckets by policer index; R209. -/
  pol : Tab PolB := []
  /-- corrections due at the last byte: frame, policer, estimate, buckets debited (bit 0 committed, bit 1 peak or excess); R212. -/
  polPend : List (Nat × Nat × Nat × Nat) := []
  /-- queue depths last published, by port × 9 + queue; R96, R184. -/
  depthPub : Tab Nat := []
  /-- SEED_A read at START of the migration in progress; R85. -/
  migA : BitVec 32 := 0
  /-- SEED_B read at START; R85. -/
  migB : BitVec 32 := 0
  /-- way of the bucket at which the sweep waits for room in the learn FIFO; R88. -/
  ageWay : Nat := 0
  /-- the sweep waits there with a REMOVE note; R88. -/
  ageWait : Bool := false
  /-- time at which the sweep's next place is due, in ns × 131,136; R92. -/
  ageDue : Nat := 0
deriving DecidableEq, Repr

/-- An hours-list entry (R214). -/
structure HlEntry where
  /-- INTERVAL_NS (no reset value in the spec: DESIGN CHOICE 0); R214. -/
  ns : Nat := 0
  /-- GATES (no reset value in the spec: DESIGN CHOICE 0); R214. -/
  gates : BitVec 9 := 0
deriving DecidableEq, Repr

/-- A queue's latency sampler (R221). -/
structure Sampler where
  /-- last depth; R221. -/
  dLast : Nat := 0
  /-- minimum depth; R221. -/
  dMin : Nat := 0
  /-- maximum depth; R221. -/
  dMax : Nat := 0
  /-- last sojourn, ns; R221. -/
  sLast : Nat := 0
  /-- minimum sojourn; R221. -/
  sMin : Nat := 0
  /-- maximum sojourn; R221. -/
  sMax : Nat := 0
  /-- samples, saturating; R221. -/
  count : Nat := 0
  /-- histogram bins 0 to 15, saturating; R221. -/
  hist : Tab Nat := []
deriving DecidableEq, Repr

/-- The frame a port is transmitting. -/
structure Tx where
  /-- queue it came from; R203. -/
  q : Nat := 0
  /-- its descriptor; R181. -/
  desc : Desc := {}
  /-- L charged at the start; R205. -/
  charged : Nat := 0
  /-- counters charged: bit 0 minimum bucket, 1 maximum bucket, 2 port bucket, 3 deficit counter; R205. -/
  ctrs : Nat := 0
  /-- a cut-through copy whose last byte was not in when it started; R205. -/
  ct : Bool := false
  /-- octets as they leave, edit plan applied; R140, R239. -/
  bytes : List Byte := []
  /-- truncated at 10,240 bytes after its edits; R140. -/
  cut : Bool := false
deriving DecidableEq, Repr

/-- One output queue with its shaper state (R184, R206, R207). -/
structure QueueS where
  /-- descriptors in arrival order; R184. -/
  d : List Desc := []
  /-- minimum bucket, 2^-32 byte (no reset content in the spec: DESIGN CHOICE 0); R207. -/
  minb : Int := 0
  /-- maximum bucket (no reset content in the spec: DESIGN CHOICE 0); R207. -/
  maxb : Int := 0
  /-- deficit counter, bytes; R206. -/
  dc : Int := 0
  /-- latency sampler; R221. -/
  samp : Sampler := {}
deriving DecidableEq, Repr

/-- A foreign master record: what the last Announce of a clock says (R249, R272). -/
structure Foreign where
  /-- portIdentity. -/
  portId : Nat
  /-- grandmasterIdentity. -/
  gm : Nat
  /-- clockClass, clockAccuracy, offsetScaledLogVariance (16 bits), priority1 and priority2, from the top. -/
  quality : Nat
  /-- stepsRemoved. -/
  steps : Nat := 0
  /-- currentUtcOffset. -/
  utc : Int := 0
  /-- bit 0 leap61, 1 leap59, 2 currentUtcOffsetValid, 3 timeTraceable, 4 frequencyTraceable. -/
  flags : Nat := 0
  /-- timeSource. -/
  src : Nat := 0
  /-- Time words at its receipt. -/
  at_ : Nat := 0
deriving DecidableEq, Repr

/-- A unicast session that the device grants as a master (R248). -/
structure Grant where
  /-- port; R248. -/
  port : Nat := 0
  /-- address of the requester; R248. -/
  dest : PtpTo := {}
  /-- portIdentity of the requester; R248. -/
  id : Nat := 0
  /-- messageType granted; R248. -/
  typ : Nat := 0
  /-- logInterMessagePeriod, two's complement in 8 bits; R248. -/
  log : Nat := 0
  /-- time words at the grant; R248. -/
  at_ : Nat := 0
  /-- seconds granted; R248. -/
  secs : Nat := 0
  /-- time words at the last message sent; R248. -/
  sent : Nat := 0
deriving DecidableEq, Repr

/-- State of one port that no register holds. -/
structure PortS where
  /-- frame whose last byte has not crossed the stall boundary; R86. -/
  arriving : Option Frame := none
  /-- LT_EN as used since the last restart; R68. -/
  useLt : Bool := true
  /-- MEDIA as used since the last restart; R68. -/
  useMedia : Nat := 3
  /-- failed negotiations; R43. -/
  anFails : Nat := 0
  /-- octets the receive meter has counted in the window; R63. -/
  bwRx : Nat := 0
  /-- octets the transmit meter has counted in the window; R63. -/
  bwTx : Nat := 0
  /-- the pause after a failed negotiation runs; R43. -/
  anWait : Bool := false
  /-- time words at which that pause began; R43. -/
  anAt : Nat := 0
  /-- time words at the last entry to ALIGN; R57. -/
  alignAt : Nat := 0
  /-- time words at the start of the hold timer; R59. -/
  holdAt : Nat := 0
  /-- HOLD_MS taken at that exit from UP; R59. -/
  holdMs : Nat := 0
  /-- receive FIFO, oldest first; R190. -/
  fifo : List Frame := []
  /-- priorities a received PFC pause stops; R39. -/
  rxPause : BitVec 8 := 0
  /-- end of the received pause by priority, in ns since device time started; R39. -/
  pauseTill : Tab Nat := []
  /-- priorities for which a standing pause was advertised; R39, R189. -/
  txPfc : BitVec 8 := 0
  /-- time words at which the standing pause of a priority was last sent; R39. -/
  pfcSent : Tab Nat := []
  /-- USED_SH by priority; R187. -/
  usedSh : Tab Nat := []
  /-- USED_HR by priority; R187. -/
  usedHr : Tab Nat := []
  /-- headroom reserved by priority, bytes; R191. -/
  hdrm : Tab Nat := []
  /-- delay of the last sizing, 2^-16 ns; R191. -/
  sizeD : Nat := 0
  /-- queues 0 to 8; R184. -/
  queues : Tab QueueS := []
  /-- frame on the line; R204. -/
  tx : Option Tx := none
  /-- CLK_CORE cycle to which the port's buckets have been brought up; R207. -/
  bktAt : Nat := 0
  /-- port bucket, 2^-32 byte (no reset content in the spec: DESIGN CHOICE 0); R207. -/
  portb : Int := 0
  /-- DWRR pointer (no reset value in the spec: DESIGN CHOICE 7); R206. -/
  ptr : Nat := 7
  /-- DWRR fresh-visit mark (no reset value in the spec: DESIGN CHOICE 1); R206. -/
  fresh : Bool := true
  /-- hours-list slot 0; R214. -/
  hl0 : Tab HlEntry := []
  /-- hours-list slot 1; R214. -/
  hl1 : Tab HlEntry := []
  /-- CYCLE_NS of the running list; R215. -/
  hlCycle : Nat := 0
  /-- COUNT of the running list; R215. -/
  hlCount : Nat := 0
  /-- BASE of the running list, ns; R215. -/
  hlBase : Nat := 0
  /-- CYCLE_NS taken at ARM; R217. -/
  armCycle : Nat := 0
  /-- COUNT taken at ARM; R217. -/
  armCount : Nat := 0
  /-- start of the armed list, ns; R217. -/
  armStart : Nat := 0
  /-- Q0 to Q7 are closed by the QT clearance; R220. -/
  qtClosed : Bool := false
  /-- time words at the start of the visit the clearance is for; R220. -/
  qtAt : Option Nat := none
  /-- the QT frame posted in that visit; R220. -/
  qtPost : Option Nat := none
  /-- device time of the samplers' last sample, ns; R221. -/
  sampT : Option Nat := none
  /-- the calibration has failed its bounds once; R234. -/
  calRerun : Bool := false
  /-- a calibration is running; R234. -/
  calDue : Bool := false
  /-- a calibration has committed since the entry to UP; R234, R249. -/
  calOk : Bool := false
  /-- directions that have not taken their committed values yet: bit 0 receive, bit 1 transmit; R234. -/
  calWait : Nat := 0
  /-- time words at the end of the last calibration; R234. -/
  calW : Nat := 0
  /-- lanes of the port in retune; R46. -/
  retunes : List Nat := []
  /-- the calibration that a regained distribution asks for has not ended; R228. -/
  distPend : Bool := false
  /-- nearest sensor reading at the last calibration, 0.125 °C; R234. -/
  calTemp : Option Int := none
  /-- delay values of the measurement in progress, newest first; R236. -/
  dlyVals : List Nat := []
  /-- last three valid values while UP, newest first; R236. -/
  dlyLast3 : List Nat := []
  /-- a link delay measurement is running; R236. -/
  probing : Bool := false
  /-- an exchange is outstanding; R236. -/
  probeOut : Bool := false
  /-- the measurement of this stay in UP has been started; R236. -/
  probed : Bool := false
  /-- time words at the start of the measurement; R236. -/
  probeAt : Nat := 0
  /-- time words at the start of the last exchange; R236. -/
  pdAt : Nat := 0
  /-- egress time of the Pdelay_Req of the outstanding exchange, and its mark; R236. -/
  pdT1 : Option (Nat × Bool) := none
  /-- its two-step response: t2, t4, correctionField, mark of t4; R236. -/
  pdResp : Option (Nat × Nat × Int × Bool) := none
  /-- twice the delay of the exchange, and whether one of its timestamps is marked; R236. -/
  pdRes : Option (Int × Bool) := none
  /-- sequenceId used last, by messageType (no reset value in the spec: DESIGN CHOICE 0); R247. -/
  ptpSeq : Tab Nat := []
  /-- event messages sent whose Follow_Up is due, oldest first: PTP transport data and octets of the message, egress time; R165, R248. -/
  evTx : List (PtpTo × List Byte × Nat) := []
  /-- latest Sync of the parent that waits for its Follow_Up: sequenceId, t2, cs, delayAsymmetry, mark, epoch; R237, R251. -/
  syncIn : Option (Nat × Nat × Int × Int × Bool × BitVec 16) := none
  /-- Delay_Req that waits for its Delay_Resp: sequenceId, t3, mark, epoch; R251. -/
  dreq : Option (Nat × Nat × Bool × BitVec 16) := none
  /-- source of the latest Sync of the parent; R247, R248. -/
  syncFrom : PtpTo := {}
  /-- transport and destination MAC of the PTP message received last: 0 Ethernet, 1 UDP/IPv4, 2 UDP/IPv6; R247. -/
  ptpTr : Nat × Nat := (0, 0x011B19000000)
  /-- foreign master records, at most 4; R249, R272. -/
  foreign : List Foreign := []
  /-- pending work items: work type, item index, MD1 flags, in arrival order; R163. -/
  work : List (Nat × Nat × Nat) := []
  /-- time words at which a transmission of the engine's own timers last became due, key work type × 2^17 + item index; R163. -/
  txAt : Tab Nat := []
  /-- receive queue: work type and frame number, at most 16; R163. -/
  rxq : List (Nat × Nat) := []
  /-- LLDP neighbour: chassis and port ID, other kept TLVs, TTL; R166. -/
  nbr : Option (List Byte × List Byte × Nat) := none
  /-- time words at the neighbour's last LLDPDU; R166. -/
  nbrAt : Nat := 0
  /-- LLDPDUs of the entry to UP still to send 1 s apart; R166. -/
  lldpFast : Nat := 0
  /-- time words at the last ESMC PDU; R260. -/
  esmcAt : Nat := 0
  /-- enhanced SSM code received last; R260. -/
  esmcE : Nat := 0xFF
  /-- time words at which the activity bit last became 1; R466. -/
  actAt : Option Nat := none
  /-- epoch the transmit side and the scheduler have applied; R340. -/
  lastEp : BitVec 16 := 0
  /-- time words at the last entry to UP; R430. -/
  upAt : Nat := 0
deriving DecidableEq, Repr

/-- Delay components of a lane (R231), 2^-16 ns, and equalization (R44, R46). -/
structure LaneS where
  /-- committed D_PKG, D_ANA, D_FIFO, D_PIPE of receive; empty: nominal values; R231. -/
  rx : List Nat := []
  /-- the same of transmit; R231. -/
  tx : List Nat := []
  /-- settings reached by training, in the lane record's 16-byte form; R44, R431. -/
  eq : List (BitVec 8) := []
  /-- consecutive planner cycles in which its retune failed; R425. -/
  drops : Nat := 0
  /-- lowest eye height of the cycle, 0.1 mV; R425. -/
  lowEye : Option Nat := none
  /-- lowest eye height of the cycle before, which its lane record holds; R431. -/
  cycEye : Option Nat := none
  /-- eye height at the last retune; R425. -/
  refEye : Nat := 0
  /-- the next sweep is the first after a retune that succeeded; R425. -/
  tuned : Bool := false
  /-- the next sweep is the first after a retune, whether that succeeded or failed; R425. -/
  after : Bool := false
  /-- the retune in progress is the planner's; R425. -/
  plan : Bool := false
  /-- its retune was rejected, and is retried in the next cycle; R425. -/
  again : Bool := false
deriving DecidableEq, Repr

/-- State of one stall that no register holds. -/
structure StallS where
  /-- consecutive scans on which PRSL read low, up to 3; R52. -/
  lowScans : Nat := 0
  /-- scans since insertion while in RESET; R53. -/
  rstScans : Nat := 0
  /-- retries made since the last success; R54. -/
  retries : Nat := 0
  /-- a retry is pending; R54. -/
  retryOn : Bool := false
  /-- time words at the last entry to FAULT; R54. -/
  faultAt : Nat := 0
  /-- LPMODE driven; R47, R60. -/
  lpmode : Bool := true
  /-- RESETL driven high; R47, R60. -/
  resetl : Bool := false
  /-- Application Select codes the module advertises for the port map; R53, R54. -/
  apps : List Nat := []
  /-- CMIS vendor name, part and serial number; R431. -/
  module : List Byte := []
  /-- D_DIST, 2^-16 ns; R228. -/
  dDist : Nat := 0
  /-- consecutive missing echoes; R228. -/
  distMiss : Nat := 0
  /-- previous measurement; R228. -/
  distPrev : Option Nat := none
  /-- an echo measurement has succeeded since the last loss of calibration; R228. -/
  distOk : Bool := false
  /-- the distribution is out of calibration and the ports carry the mark; R228. -/
  distBad : Bool := false
  /-- the stall has been configured; R60. -/
  configured : Bool := false
  /-- host-side transmitter settings that the module advertises, by lane position; R45. -/
  hostEq : List (List (BitVec 8)) := []
  /-- CMIS flags last read from the module; R52. -/
  cmis : List (BitVec 8) := []
  /-- time words at which the meter window began; R63. -/
  bwAt : Nat := 0
  /-- WIN_US of that window; R63. -/
  bwWin : Nat := 1000
deriving DecidableEq, Repr

/-- A BFD session (R167, R168). -/
structure Bfd where
  /-- DATA0 to DATA13 as written; R168. -/
  data : List (BitVec 32) := []
  /-- 0 AdminDown, 1 Down, 2 Init, 3 Up; R168. -/
  state : Nat := 0
  /-- local diagnostic; R168. -/
  diag : Nat := 0
  /-- remote state; R168. -/
  rstate : Nat := 0
  /-- remote Detect Mult; R168. -/
  rmult : Nat := 0
  /-- remote discriminator; R168. -/
  yourDisc : BitVec 32 := 0
  /-- a poll sequence runs; R168. -/
  poll : Bool := false
  /-- the remote Desired Min TX and Required Min RX intervals, µs (no reset value in the spec: PRESUMED 0 and 1, as RFC 5880); R167. -/
  rtx : Nat := 0
  rrx : Nat := 1
  /-- time words at the last packet received; R167. -/
  heardAt : Nat := 0
  /-- time words at the last packet sent; R167. -/
  txAt : Nat := 0
  /-- DATA0 to DATA13 in Zolliwin's own copy; R168. -/
  zol : List (BitVec 32) := []
  /-- AdminDown packets still to send after EN went to 0; R168. -/
  down : Nat := 0
  /-- WRITE waiting for the service port's visit; R168. -/
  pendWr : Option (List (BitVec 32)) := none
deriving DecidableEq, Repr

/-- Protocol engine state that no register holds. -/
structure PeS where
  /-- its control store; R132. -/
  mc : McStore := {}
  /-- its registers; R137. -/
  eng : Engine := {}
  /-- next wheel position, 0 to 527; R161. -/
  pos : Nat := 0
  /-- wheel position visited last; R161, R171. -/
  cur : Nat := 0
  /-- time words at the start of that position; R162, R220. -/
  posAt : Nat := 0
  /-- ROM routine held on a word that failed its parity: port, work type, frame and item index; R159. -/
  romWork : Option (Nat × Nat × Nat × Nat) := none
  /-- word of a ROM routine that an upset has reached, and the parity groups that fail at its next fetch; R136, R159. -/
  romUp : Option (Nat × Nat) := none
  /-- port of the routine running; R163. -/
  curPort : Nat := 0
  /-- work type of the routine running; R163. -/
  curType : Nat := 0
  /-- armed timers: index to device time, ns; R141. -/
  timers : Tab Nat := []
  /-- messages to Zolliwin, at most 1,024, oldest first; R163. -/
  msgq : List (Nat × List (BitVec 32)) := []
  /-- egress timestamps of transmitted event messages and their marks; R141. -/
  txts : Tab (Nat × Bool) := []
  /-- chassis identity of the IDENT record; R359. -/
  ident : List Byte := []
  /-- TLVs of LLDPDUs counted and discarded (no register reads the count); R166. -/
  tlvDrops : Nat := 0
  /-- notes on the ring for the management station; R88. -/
  inNotes : List Note := []
  /-- Zolliwin's learn log, newest first; R88. -/
  learnLog : List Note := []
deriving DecidableEq, Repr

/-- Switch core state that no register holds. -/
structure SwcS where
  /-- waiting allocation requests in arrival order; R178. -/
  waits : List AllocReq := []
  /-- aisle rotation pointer; R178. -/
  rot : Nat := 0
  /-- CLK_BUF cycle in which requests last arrived; R178. -/
  cyc : Nat := 0
  /-- threshold of the last recompute; R187. -/
  thresh : Nat := 0
  /-- CARVE has been written in this SETUP; R175. -/
  carveWr : Bool := false
  /-- time words at which a buffer last became free; R351. -/
  freeAt : Nat := 0
  /-- in the CLK_BUF cycle under way: buffers allocated, bytes written with them, copies granted cut-through, requests escalated; R441,
  R444. -/
  cycAlloc : Nat := 0
  cycBytes : Nat := 0
  cycCt : Nat := 0
  cycEsc : Nat := 0
deriving DecidableEq, Repr

/-- Time unit state that no register holds. -/
structure TimeS where
  /-- accumulator, 2^-48 ns since the PTP epoch; R227. -/
  acc : Nat := 0
  /-- time words sent since reset; the model's count of 128 CLK_CORE cycles; R228. -/
  words : Nat := 0
  /-- INC, 2^-48 ns per tick; nominal 1.25 × 2^48; R227. -/
  inc : Nat := 351_843_720_888_320
  /-- device time has started; R315. -/
  running : Bool := false
  /-- last 64 epochs and sums of steps, newest first, 2^-16 ns; R229. -/
  stepLog : List (BitVec 16 × Int) := []
  /-- step waiting for an epoch; R229. -/
  stepWait : Option Int := none
  /-- the one step of this stay in ACQUIRING has been made; R252. -/
  stepDone : Bool := false
  /-- parent port; R250. -/
  parent : Option Nat := none
  /-- grandmasterIdentity; R265. -/
  gm : Nat := 0
  /-- grandmaster clockClass; R256. -/
  gmClass : Nat := 248
  /-- grandmasterPriority1 and grandmasterPriority2 (no reset value in the spec: PRESUMED 128, as IEEE 1588-2019); R256. -/
  gmP1 : Nat := 128
  gmP2 : Nat := 128
  /-- timeSource (no reset value in the spec: PRESUMED 0xA0 internal oscillator); R256. -/
  gmSrc : Nat := 0xA0
  /-- grandmaster clockAccuracy (no reset value in the spec: PRESUMED 0xFE unknown); R265. -/
  gmAcc : Nat := 0xFE
  /-- offsetScaledLogVariance (no reset value in the spec: PRESUMED 0xFFFF); R265. -/
  gmVar : Nat := 0xFFFF
  /-- parentPortIdentity; R265. -/
  parentId : Nat := 0
  /-- currentUtcOffset (no reset value in the spec: PRESUMED 37); R262. -/
  utc : Int := 37
  /-- leap61, leap59, offset valid, time and frequency traceable; R262, R265. -/
  tflags : Nat := 0
  /-- last 16 valid delay values, newest first, 2^-16 ns; R251. -/
  delays : List Int := []
  /-- t1, t2, cs and epoch of the latest Sync; R251. -/
  lastSync : Option (Nat × Nat × Int × BitVec 16) := none
  /-- samples formed that the servo has not taken, oldest first; R251. -/
  smpQ : List Sample := []
  /-- time words at the last valid sample; R254. -/
  smpAt : Nat := 0
  /-- time words at the last PPS_IN edge; R254, R257. -/
  ppsAt : Nat := 0
  /-- foreign masters ignored because the table was full; R249. -/
  annIgn : Nat := 0
  /-- unicast sessions granted; R248. -/
  grants : List Grant := []
  /-- time words at which the span without loss of DPLL input i began; R257. -/
  inAt : Tab Nat := []
  /-- DPLL input i has suffered a loss; R257. -/
  inHad : Tab Bool := []
  /-- what the outputs carry: TIMECLK_OUT enabled, SEL in effect of SYNCE_OUT0 and SYNCE_OUT1; R261, R269. -/
  clkOuts : Nat × Nat × Nat := (0, 0, 0)
  /-- consecutive samples within LOCK_NS; R254. -/
  lockRun : Nat := 0
  /-- consecutive samples beyond STEP_NS; R254. -/
  badRun : Nat := 0
  /-- the servo is suspended with Zolliwin; R255. -/
  srvSusp : Bool := false
  /-- timestamp of the last PPS_IN edge, 2^-16 ns; R253. -/
  ppsEdge : Option Nat := none
  /-- a sentence has been accepted for that edge; R263. -/
  ppsNamed : Bool := false
  /-- consecutive edges without an accepted sentence; R263. -/
  ppsMiss : Nat := 0
  /-- PPS_IN edges arrive; R257. -/
  ppsOk : Bool := false
  /-- DPLL holdover history exists; R259. -/
  dpllHist : Bool := false
  /-- unicast master entries 0 to 7; R248, R272. -/
  unicast : Tab (List (BitVec 32)) := []
  /-- tally routes, DATA0 to DATA14; R267, R272. -/
  routes : List (BitVec 32) := []
  /-- the whole second at which a tally is due besides those of the period; R264. -/
  tallyReq : Option Nat := none
  /-- SEQ of the last tally; R264. -/
  tallySeq : Nat := 0
  /-- ring of 16 issued tallies; R267. -/
  tallyRing : Tab (List Byte) := []
  /-- datagram parts waiting: part number, payload; R267. -/
  tallyParts : List (Nat × List Byte) := []
  /-- device time of the previous tally, ms; R264. -/
  tallyLast : Nat := 0
  /-- valid samples in the interval; R265. -/
  smpN : Nat := 0
  /-- samples discarded in the interval; R265. -/
  smpBad : Nat := 0
  /-- a marked sample was discarded; R265. -/
  smpMark : Bool := false
  /-- sum of offsets; R265. -/
  smpSum : Int := 0
  /-- largest magnitude of an offset; R265. -/
  smpMax : Nat := 0
  /-- a step occurred in the interval; R265. -/
  stepFlag : Bool := false
  /-- millisecond of device time to which calCnt belongs; R234. -/
  calMs : Nat := 0
  /-- calibrations started in the present millisecond by trigger 6; R234. -/
  calCnt : Nat := 0
  /-- PTP seconds of the PPS_OUT edge whose sentence is due; R263. -/
  lastEdgeS : Option Nat := none
  /-- second of the last PPS_OUT edge, and time words at it; R261, R263. -/
  edgeS : Option Nat := none
  edgeAt : Nat := 0
  /-- currentDS.stepsRemoved; R265. -/
  stepsRm : Nat := 0
  /-- servo state from which ACQUIRING was entered; R256. -/
  acqFrom : Nat := 0
  /-- the time source is lost, or has not been present yet; R254. -/
  lost : Bool := true
  /-- epoch of the last step; R251. -/
  stepEp : Option (BitVec 16) := none
  /-- spans of LOCKED with their INC, newest first: time words and INC, over the last 60 s; R254. -/
  segs : List (Nat × Nat) := []
  /-- time word at which the present span began; R254. -/
  segAt : Nat := 0
  /-- time word at which LOCKED was entered; R254. -/
  lockedAt : Nat := 0
  /-- 60 s of continuous LOCKED have been completed; R254. -/
  histOk : Bool := false
  /-- time word at which holdover was entered; R266. -/
  hoAt : Nat := 0
  /-- time word at which HOLDOVER was entered last; R254. -/
  hoLimAt : Nat := 0
  /-- device time in ms at which the servo left FREERUN; R264. -/
  freeAt : Nat := 0
  /-- time word at which the DPLL entered its state, or changed input while LOCKING; R259. -/
  dpllAt : Nat := 0
  /-- epoch of the timestamp of the last PPS_IN edge; R251, R253. -/
  ppsEp : BitVec 16 := 0
  /-- CHUNK and body of the tallies waiting for signing, oldest first; R265, R269, R400. -/
  tallyQ : List (Nat × List Byte) := []
  /-- second in which the last tally was issued; R264. -/
  tallyS : Option Nat := none
  /-- time words at each port's last committed calibration; R265. -/
  calAt : Tab (Option Nat) := []
deriving DecidableEq, Repr

/-- One mailbox beside its registers (R286, R287). -/
structure MbxS where
  /-- an operation is in progress (an I2C transaction waits); R287. -/
  busy : Bool := false
deriving DecidableEq, Repr

/-- A transaction of module memory, of a mailbox or of the device's own (R53, R56, R287, R291). -/
structure I2cTxn where
  /-- its mailbox; 20 is the device itself; R287. -/
  mbx : Nat := 0
  /-- module site; R291. -/
  site : Nat := 0
  /-- OP; R286. -/
  op : Nat := 0
  /-- bank; R291. -/
  bank : Nat := 0
  /-- page; R291. -/
  page : Nat := 0
  /-- OFF; R291. -/
  off : Nat := 0
  /-- LEN; R291. -/
  len : Nat := 0
  /-- octets to write; R291. -/
  bytes : List Byte := []
  /-- it holds the controller of its site; R56, R287. -/
  onBus : Bool := false
  /-- a reset of the mailbox has discarded its result; R292. -/
  dropped : Bool := false
deriving DecidableEq, Repr

/-- Per-vector MSI-X state, key pf × 2048 + vector. -/
structure Msi where
  /-- masked in the function's MSI-X table (no reset value in the spec: PRESUMED masked, as PCIe 5.0); R300. -/
  masked : Bool := true
  /-- pending bit; R300. -/
  pend : Bool := false
  /-- holdoff running; R300. -/
  holding : Bool := false
  /-- a message is owed at the end of the holdoff; R300. -/
  owed : Bool := false
  /-- time words at which the holdoff began; R300. -/
  holdAt : Nat := 0
deriving DecidableEq, Repr

/-- Event tree state that no register holds. -/
structure EvtS where
  /-- SMB_ALERT_N released by an Alert Response until the condition rises again; R279. -/
  alertRel : Bool := false
  /-- the model's own count of writes turned away: rejects, locked writes and bus errors, by which a configuration record knows that its write was refused; R359. -/
  turned : Nat := 0
  /-- transactions of module memory in progress or waiting, oldest first; R56, R287. -/
  i2cQ : List I2cTxn := []
  /-- mailbox that each module controller served last, by controller (the rotation begins at mailbox 0); R287. -/
  i2cLast : Tab Nat := []
  /-- module controllers whose last transaction was the device's own; R56. -/
  i2cOwn : List Nat := []
  /-- functions with MSI-X enabled (no reset value in the spec: PRESUMED none, as PCIe 5.0); R300. -/
  msixOn : List Nat := []
  /-- SMBus writes discarded and counted: a bad PEC, or none where one is required (no register reads the count); R278. -/
  smbDrops : Nat := 0
deriving DecidableEq, Repr

/-- Option values in use (R317). -/
structure Opts where
  /-- the 256 option bytes in use; empty before step 7; R317, R329. -/
  bytes : List Byte := []
  /-- SMB_ADDR; R317. -/
  smbAddr : Nat := 0x5A
  /-- TIME_REF; R317. -/
  timeRef : Nat := 1
  /-- PCIE_LANES; R317. -/
  pcieLanes : Nat := 4
  /-- SB_POLICY in force, OTP fuses included; R317. -/
  sbPolicy : Nat := 0
  /-- PERF_PERMIT; R317. -/
  perfPermit : Nat := 0
  /-- SLOT_PREF; R317. -/
  slotPref : Nat := 0
  /-- LANE_SAFE: 0 electrical idle, 1 steady differential low; R60, R317. -/
  laneSafe : Nat := 0
  /-- TIMEREF_FREQ: 0 10 MHz, 1 25 MHz; R257, R317. -/
  refFreq : Nat := 0
  /-- TRIP_C; R317. -/
  tripC : Nat := 110
  /-- LIMIT_C as taken; R317, R413. -/
  limitC : Nat := 105
deriving DecidableEq, Repr

/-- Reset and clock controller state that no register holds. -/
structure ClkS where
  /-- reset sources: 0 POR, 1 RESET_N, 2 SYS_SWRESET, 3 THERMTRIP, 4 EXTEST; 5 RESET_N, 6 THERMTRIP, 7 EXTEST once released; R311, R314. -/
  srcs : List Nat := [0]
  /-- sources seen in the present episode; R314. -/
  seen : List Nat := [0]
  /-- reach-2 sources held pending by a page program; R320. -/
  waitNvm : List Nat := []
  /-- time words at which the first of the resets held pending was asserted; R320. -/
  waitAt : Nat := 0
  /-- an NVM soft reset held pending; R320. -/
  nvmSoft : Bool := false
  /-- TRIP_C as the trip latch keeps it through a reset; R311. -/
  tripC : Nat := 110
  /-- PERST_N is low; R311. -/
  perst : Bool := true
  /-- exit sequence step reached; 0 in reset, 11 complete; R315. -/
  step : Nat := 0
  /-- steps 2 to 7 are running; R319. -/
  optPhase : Bool := false
  /-- an option phase was cut; OPT_RESTART is added at the next start of the sequence; R319. -/
  optCut : Bool := false
  /-- option phases started since POR; R327. -/
  loads : Nat := 0
  /-- Zolliwin: 0 held, 1 boot ROM, 2 firmware, 3 stopped in the boot ROM; R324, R396. -/
  zolRun : Nat := 0
  /-- the PCIe complex is out of reset; R316. -/
  pcieUp : Bool := false
  /-- a trip sensor reads at or above TRIP_C - 10; R311. -/
  tripSens : Bool := false
  /-- soft-reset instances in progress: 0 to 63 stall, 64 to 79 aisle, 80 to 83 quarter, 84 PE, 85 TIME, 86 SWC, 87 SCH, 88 DMA, 89 NVM, 90 SEC; R321. -/
  soft : List Nat := []
  /-- time words at the last restart of the watchdog's count; R324. -/
  wdtAt : Nat := 0
  /-- timeout taken at that restart, ms; R324. -/
  wdtMs : Nat := 1000
  /-- option values; R317. -/
  opts : Opts := {}
  /-- an EXTEST-class instruction is in the instruction register; R469. -/
  jtagEx : Bool := false
  /-- class of the instruction in the register: 0 IDCODE, 1 EXTEST class, 2 BYPASS or another that does nothing to the device, 3 Henura
  debug; R469. -/
  jtagIr : Nat := 0
  /-- time words at the last frame of the LED chain; R466. -/
  ledAt : Nat := 0
  /-- device time in ns up to which the instants of snapshot records are past: the last record's instant, or the time at which SNAP_CFG
  was written or device time stepped; R448. -/
  snapAt : Nat := 0
  /-- SEQ of the last snapshot record, a lost one too; R448, R449. -/
  snapSeq : Nat := 0
  /-- THERMTRIP_N is driven low; R416, R463. -/
  thermLow : Bool := false
deriving DecidableEq, Repr

/-- Mode and epoch state that no register holds. -/
structure ModeS where
  /-- mode the incomplete epoch carries; R339. -/
  epochMode : Option Nat := none
  /-- the DRAIN epoch; R349. -/
  drainEp : BitVec 16 := 0
  /-- cause of the change in progress; R355. -/
  epochCause : Nat := 0
  /-- mode before SEALED; R378. -/
  sealBefore : Nat := 0
  /-- mode log, newest first, at most 16: epoch, before, after, cause, device time ns; R343. -/
  log : List (Nat × Nat × Nat × Nat × Nat) := []
  /-- tests still to run; R351. -/
  proveSel : Nat := 0
  /-- time words when the test that runs began; R351. -/
  proveAt : Nat := 0
  /-- detail of test t, DATA0 to DATA6; R355. -/
  proveRes : Tab (List (BitVec 32)) := []
  /-- OPEN has been entered since the start; R422. -/
  everOpen : Bool := false
  /-- SETUP has been entered: its register blocks are started; R331. -/
  started : Bool := false
  /-- SHUTTERS has been entered: its register blocks are started; R331. -/
  shut : Bool := false
  /-- time words at the last request of an epoch; R341. -/
  epochAt : Nat := 0
  /-- ingress units whose 20 µs window is open; R341. -/
  pendLate : List Nat := []
  /-- progress of SETUP: 0 patch due, 1 configuration records, 2 table images, 3 a step has failed; R332, R334. -/
  setup : Nat := 0
deriving DecidableEq, Repr

/-- OTP (R389), which no reset changes. -/
structure OtpS where
  /-- UID (from OTP: DESIGN CHOICE 0); R389. -/
  uid : BitVec 64 := 0
  /-- owner field A: 0 erased, 1 good, 2 bad; R390. -/
  fieldA : Nat := 0
  /-- owner field B; R390. -/
  fieldB : Nat := 0
  /-- owner-key hash of field A; R390. -/
  hashA : BitVec 512 := 0
  /-- owner-key hash of field B; R390. -/
  hashB : BitVec 512 := 0
  /-- FW fuses; R391. -/
  svnFw : BitVec 64 := 0
  /-- PATCH fuses; R391. -/
  svnPatch : BitVec 64 := 0
  /-- IMAGE fuses; R391. -/
  svnImage : BitVec 64 := 0
  /-- revoke pairs, bits 2n and 2n + 1 of HKn; R392. -/
  revoke : BitVec 8 := 0
  /-- policy fuses: bit 0 DEBUG_LOCK, bit 1 OWNER_REQ; R389. -/
  policy : Nat := 0
deriving DecidableEq, Repr

/-- An SPDM session (R404, R405). -/
structure Session where
  /-- over DOE (else MCTP); R402. -/
  doe : Bool := true
  /-- session number; R402. -/
  sid : Nat := 0
  /-- established by FINISH; R404. -/
  open_ : Bool := false
  /-- marked secure; R404. -/
  secure : Bool := false
  /-- key updates made; R402. -/
  keyGen : Nat := 0
  /-- SHA3-512 of the requester's leaf public key; R404. -/
  leaf : BitVec 512 := 0
  /-- time words at the last message of the session; R405. -/
  last : Nat := 0
deriving DecidableEq, Repr

/-- A large SPDM message in pieces (R402). -/
structure Chunk where
  /-- its handle; R402. -/
  handle : Nat := 0
  /-- number of the next piece; R402. -/
  seq : Nat := 0
  /-- octets of the whole message; R402. -/
  size : Nat := 0
  /-- octets so far, or octets still to send; R402. -/
  data : List Byte := []
deriving DecidableEq, Repr

/-- Security block state that no register holds. -/
structure SecS where
  /-- measurement registers M0 to M7; R397. -/
  m : Tab (BitVec 512) := []
  /-- secure requester key hashes 0 to 3 (no reset value in the spec: DESIGN CHOICE 0); R410. -/
  reqKeys : Tab (BitVec 512) := []
  /-- the attestation key has been derived; R395. -/
  akOk : Bool := false
  /-- CDI of this start; R393. -/
  cdi : BitVec 512 := 0
  /-- sessions; R405. -/
  sess : List Session := []
  /-- per transport (0 DOE, 1 MCTP): 0 nothing, 1 version, 2 capabilities, 3 algorithms negotiated; R402. -/
  ver : Tab Nat := []
  /-- large message being assembled (key 0, 1) or response being sent (key 2, 3), by transport; R402. -/
  chunk : Tab Chunk := []
  /-- burn in progress: 1 owner field, 2 SVN (kind × 128 + target), 3 revoke bits; R390. -/
  otpOp : Option (Nat × Nat) := none
  /-- time words when the entropy source last failed; R399. -/
  entropyAt : Nat := 0
  /-- BOOT_ID; R265, R399. -/
  bootId : Option (BitVec 64) := none
  /-- random octets of the signatures in the certificates of slot 0: of the identity key, of the attestation key; R387, R401. -/
  certRnd : BitVec 256 × BitVec 256 := (0, 0)
  /-- SPDM transcripts, key transport (0 DOE, 1 MCTP): the negotiation; digests and certificates since; and, key 2 × (session + 1, or 0
  outside one) + transport, the measurements since the last signed ones; R387. -/
  trVca : Tab (List (BitVec 8)) := []
  trCert : Tab (List (BitVec 8)) := []
  trMeas : Tab (List (BitVec 8)) := []
  /-- the noise source fails its health tests; R399. -/
  entropyBad : Bool := false
  /-- DIGEST of the firmware measured at the start; R396. -/
  fwDigest : BitVec 512 := 0
  /-- SVN of the firmware in use; R391. -/
  fwSvn : Nat := 0
  /-- SVN of the patch in use; R391. -/
  patchSvn : Nat := 0
  /-- SVN of the manifest in use; R391. -/
  imageSvn : Nat := 0
  /-- SHA3-512 of the OWNER_KEY of the manifest in use; R390. -/
  ownerHash : BitVec 512 := 0
deriving DecidableEq, Repr

/-- NVM and its controller beside the registers. -/
structure NvmS where
  /-- D in MiB, as the boot ROM last read it (no value in the spec before it is read: DESIGN CHOICE 64); R356. -/
  density : Nat := 64
  /-- image slot in use: 0 A, 1 B, 2 none, whatever NVM_STATUS shows; R360. -/
  slot : Nat := 2
  /-- fault record slots used, whatever NVM_FAULT shows; R356, R378. -/
  faultUsed : Nat := 0
  /-- page program in progress: offset and record; R320. -/
  prog : Option (Nat × List Byte) := none
  /-- programs waiting, region (0 fault, 1 ledger) and record, at most 16; R361. -/
  queue : List (Nat × List Byte) := []
  /-- time words at the last WAIT record, and its microseconds; R359. -/
  waitAt : Nat := 0
  waitUs : Nat := 0
  /-- fault records written since the start; R378. -/
  faultSeq : Nat := 0
  /-- fault records that wait for Zolliwin; R347. -/
  faultPend : List (List Byte) := []
  /-- shoring ledger slots used; R356, R430. -/
  ledUsed : Nat := 0
  /-- the NVM reference is available; R361, R375. -/
  refOk : Bool := true
  /-- offset, length and digest of sections 1 to 4 of the slot in use; R357, R358. -/
  sections : List (Nat × Nat × BitVec 512) := []
  /-- 1 a WAIT record runs, 2 the mailbox write of an MBX record is in progress; R359. -/
  waiting : Nat := 0
  /-- offset in the section of the next configuration record; R359. -/
  cfgPos : Nat := 0
  /-- verified copy of the patch payload; empty for an empty patch; R153. -/
  patch : List Byte := []
  /-- mailboxes whose read of the record regions waits for the NVM, with the octets it reads from; R320, R361. -/
  reads : List (Nat × Nat) := []
deriving DecidableEq, Repr

/-- A finding of the assay (R375, R476). -/
structure Finding where
  /-- table; R378. -/
  table : Nat := 0
  /-- kind 0 to 4; R375. -/
  kind : Nat := 0
  /-- aisle, or 16 + quarter; R378. -/
  place : Nat := 0
  /-- index or record number; R476. -/
  index : Nat := 0
  /-- key CRC; R476. -/
  crc : BitVec 32 := 0
  /-- time words when it was first read; R375. -/
  seen : Nat := 0
  /-- seconds of the confirmation; R386. -/
  sec : Nat := 0
  /-- nanoseconds; R386. -/
  ns : Nat := 0
deriving DecidableEq, Repr

/-- A descriptor of a ring whose stream is in progress (R365). -/
structure Stream where
  /-- TAG. -/
  tag : List (BitVec 8) := []
  /-- IRQ. -/
  irq : Bool := false
  /-- the commands still to run, and the offset of the first of them. -/
  left : List (BitVec 8) := []
  off : Nat := 0
  /-- octets of the stream. -/
  len : Nat := 0
  /-- it is the next piece of the table image (R332). -/
  image : Bool := false
deriving DecidableEq, Repr

/-- Table DMA, ownership, shadow compare and host queues beside the registers. -/
structure DmaS where
  /-- padlocks held by the host ring, bit t; R370. -/
  lockH : BitVec 16 := 0
  /-- padlocks held by Zolliwin's ring; R370. -/
  lockZ : BitVec 16 := 0
  /-- octets of the table image that Zolliwin's ring has loaded; R332. -/
  imgPos : Nat := 0
  /-- NVM reference: flat entries, key table × 2^20 + index; R373. -/
  nrefFlat : Tab (BitVec 512) := []
  /-- NVM reference: table and record of each keyed record, ascending in each table; R373, R374. -/
  nrefKeyed : List (Nat × List Byte) := []
  /-- a host has held ownership since the start; R373. -/
  everHost : Bool := false
  /-- the reference has failed; R373. -/
  refDead : Bool := false
  /-- the present pass has confirmed a finding; R375. -/
  passDirty : Bool := false
  /-- the present pass began after entry to SEALED; R348. -/
  passSealed : Bool := false
  /-- the walk: table, whether it is in the reverse direction, and index, record or place; R375. -/
  walk : Nat × Bool × Nat := (1, false, 0)
  /-- findings waiting for confirmation; R375. -/
  finds : List Finding := []
  /-- mismatch log, newest first, at most 64; R386. -/
  log : List Finding := []
  /-- one-second buckets, newest first; R377. -/
  buckets : List Nat := []
  /-- time words when the newest bucket began; R377. -/
  bucketAt : Nat := 0
  /-- PHASE of the host ring (bit 0) and of Zolliwin's ring (bit 1), 1 on the first pass; R365. -/
  phase : BitVec 2 := 3
  /-- the table image load has ended with status 0; R334. -/
  zDone : Bool := false
  /-- host queue work with the packet mover: queue (0 to 7 H2D, 8 to 15 D2H) and frames; R164. -/
  mover : List (Nat × Nat) := []
  /-- time words at the last restart of the heartbeat timer; R363. -/
  hbAt : Nat := 0
  /-- time words at which ring r set the padlock of table t, key 16 × r + t; R370. -/
  padAt : Tab Nat := []
  /-- tables the present pass skipped for their padlock; R370. -/
  skip : List Nat := []
  /-- frames waiting for D2H queue q with their REASON; R372. -/
  d2h : Tab (List (Nat × Frame)) := []
  /-- the descriptor of ring r whose stream is in progress; R365. -/
  cur : Tab (Option Stream) := []
  /-- ring whose turn it is; R365. -/
  turn : Nat := 0
deriving DecidableEq, Repr

/-- A point of the shoring history (R424, R429): one plan record. -/
structure PlanPt where
  /-- OP_HOURS; R431. -/
  op : Nat := 0
  /-- WEAR_H, 1/16 h; R431. -/
  wear : Nat := 0
  /-- core v_req, 0.1 mV; R431. -/
  vreq : Nat := 0
  /-- VDDA_LANE target, mV; R431. -/
  vlane : Nat := 0
  /-- δ, 0.01 %; R431. -/
  delta : Nat := 0
  /-- lowest VDD_MEM margin, mV; R431. -/
  mem : Int := 0
deriving DecidableEq, Repr

/-- A lane record of the ledger (R431). -/
structure LaneRec where
  /-- STALL; R431. -/
  stall : Nat := 0
  /-- LANE_RATE; R431. -/
  rate : Nat := 0
  /-- PARTNER; R431. -/
  partner : List Byte := []
  /-- the settings of its 8 lanes; R431. -/
  body : List Byte := []
  /-- OP_HOURS; R430. -/
  op : Nat := 0
deriving DecidableEq, Repr

/-- Health, thermal and shoring state beside the registers. -/
structure ThmS where
  /-- sensors that read at or above TRIP_C on the last conversion; R416. -/
  prevTrip : List Nat := []
  /-- failed sensors; R412. -/
  fails : List Nat := []
  /-- time words at the last stuck check; R412. -/
  stuckAt : Nat := 0
  /-- time words from which TJ_MAX has stayed below the threshold of the step less HYST_C, without a break; R414. -/
  belowAt : Option Nat := none
  /-- time words from which PWR_W has exceeded the limit, and has stayed below 95 % of it; R417. -/
  overAt : Option Nat := none
  underAt : Option Nat := none
  /-- time words at the last rejected power request; R417. -/
  pwrReqAt : Nat := 0
  /-- time words at the last sample of the canaries; R418. -/
  canaryAt : Nat := 0
  /-- time words at the last AVSBus command of a rail; R419, R421. -/
  avsAt : Tab (Option Nat) := []
  /-- VDD_CORE commanded, mV; R419, R459. -/
  vcore : Nat := 750
  /-- VDDA_LANE commanded, mV; R419, R459. -/
  vlane : Nat := 800
  /-- consecutive AVSBus failures by rail; R421. -/
  avsFail : Tab Nat := []
  /-- faulted rails; R421. -/
  avsFault : List Nat := []
  /-- ring-oscillator δ by pair, 0.01 %; R418. -/
  delta : Tab Nat := []
  /-- SRAM Vmin by monitor, mV; R418. -/
  vmin : Tab Nat := []
  /-- tile margins, %, key aisle × 100 + tile; unlisted is 100 (production value: DESIGN CHOICE); R418. -/
  tmargin : Tab Nat := []
  /-- TJ histogram bins, seconds; R428. -/
  hist : Tab Nat := []
  /-- histogram since the last plan record; R431. -/
  histRec : Tab Nat := []
  /-- OP_HOURS taken from the ledger; R432. -/
  opBase : Nat := 0
  /-- seconds of operation since that value; R428, R430. -/
  opSec : Nat := 0
  /-- time words at which the next scheduled cycle is due; R422. -/
  planAt : Option Nat := none
  /-- time words at the start of the last cycle; R423. -/
  cycleAt : Option Nat := none
  /-- plan records, newest first; R424, R429. -/
  plans : List PlanPt := []
  /-- newest lane record of each stall, LANE_RATE and PARTNER, newest first; R430. -/
  laneRecs : List LaneRec := []
  /-- REMAIN_H of the cycle in progress; R429. -/
  planRemain : Nat := 0x3FFFFF
  /-- LIMITER of the cycle in progress; R429. -/
  planLimiter : Nat := 0
  /-- time words at the start of the last unscheduled cycle; R418. -/
  unsAt : Option Nat := none
  /-- an unscheduled cycle is asked for and has not started; R418. -/
  unsPend : Bool := false
  /-- largest δ at the snapshot of the cycle in progress; R423. -/
  cyDelta : Nat := 0
  /-- lowest VDD_CORE SRAM margin at that snapshot, mV; R423. -/
  cyCore : Int := 0
  /-- lowest VDD_MEM margin at that snapshot, mV; R423. -/
  cyMem : Int := 0
  /-- lowest tile margin at that snapshot, %; R423. -/
  cyTile : Nat := 0
  /-- rebuild channels that the planner has started, aisle × 4 + k; R423, R426. -/
  planRb : List Nat := []
  /-- lowest eye height of the cycle in progress, 0.1 mV; R431. -/
  planEye : Nat := 0
  /-- WEAR_H in 1/16 h; R432. -/
  wear : Nat := 0
  /-- core v_req, 0.1 mV (no reset value in the spec: DESIGN CHOICE 0); R424. -/
  vreq : Nat := 0
  /-- GUARD_PS (no reset value in the spec: DESIGN CHOICE 0); R424. -/
  guard : Nat := 0
  /-- SEQ of the newest ledger record; R430. -/
  seqLed : Nat := 0
  /-- OP_HOURS of the last plan record; R430. -/
  lastPlan : Option Nat := none
  /-- bits of byte 0x3D carried to the next plan record; R431. -/
  carry : Nat := 0
  /-- retunes since the last plan record; R431. -/
  retunesC : Nat := 0
  /-- shoring actions waiting: 0 retune of a lane, 1 retirement of a tile (aisle × 100 + tile), 2 new core target, 3 new lane target; R425, R426. -/
  actions : List (Nat × Nat) := []
  /-- time words at which the deferral began; R427. -/
  deferAt : Nat := 0
  /-- 0 not deferred, 1 actions are deferred, 2 the 10 minutes have expired; R427. -/
  deferred : Nat := 0
  /-- the VDDA_LANE target rises in the next cycle; R425. -/
  lanePend : Bool := false
  /-- rejected power request to repeat: step 0 to 3; R417. -/
  pwrReq : Option Nat := none
  /-- RELIEF_NONE or SEALED: raise VDD_CORE in the next cycle; R426. -/
  coreUp : Bool := false
deriving DecidableEq, Repr

/-- One PERF block's counters (R439). -/
structure PerfS where
  /-- PERF_CYC; R439. -/
  cyc : BitVec 64 := 0
  /-- PC0 to PC7; R439. -/
  pc : Tab (BitVec 48) := []
deriving DecidableEq, Repr

/-- The whole machine. -/
structure State where
  /-- commands waiting, first in, first out; the row's cut. -/
  pending : List Instr := []
  /-- register words as a read returns them; an unlisted register holds its reset value; R4. -/
  regs : Tab (BitVec 32) := []
  /-- words in effect of registers that hold a staged field not yet applied; R9, R280. -/
  live : Tab (Option (BitVec 32)) := []
  /-- 48-bit counters, key (value ID × 2^24 + index) × 8 + counter; R290. -/
  cnt : Tab (BitVec 48) := []
  /-- counter of free values drawn (DESIGN CHOICE 0); model's own. -/
  fresh : Nat := 0
  /-- clocks and reset; R311. -/
  clk : ClkS := {}
  /-- modes and epochs; R330. -/
  mode : ModeS := {}
  /-- fuses; R389. -/
  otp : OtpS := {}
  /-- event tree; R293. -/
  evt : EvtS := {}
  /-- stalls; R16. -/
  stalls : Tab StallS := []
  /-- ports; R18. -/
  ports : Tab PortS := []
  /-- lanes; R17. -/
  lanes : Tab LaneS := []
  /-- aisles; R16. -/
  aisles : Tab AisleS := []
  /-- quarters; R16. -/
  qtrs : Tab QtrS := []
  /-- packets between admission and their buffer, oldest first; R30. -/
  pkts : List Packet := []
  /-- protocol engine; R161. -/
  pe : PeS := {}
  /-- switch core; R173. -/
  swc : SwcS := {}
  /-- time unit and servo; R227. -/
  time : TimeS := {}
  /-- mailboxes 0 to 15 and MBX_Z0 to MBX_Z3 as 16 to 19; R286. -/
  mbx : Tab MbxS := []
  /-- table DMA, tables, assay, host queues; R365. -/
  dma : DmaS := {}
  /-- NVM; R356. -/
  nvm : NvmS := {}
  /-- security block; R389. -/
  sec : SecS := {}
  /-- thermal, power, shoring; R411. -/
  thm : ThmS := {}
  /-- PERF blocks 0 to 18; R439. -/
  perf : Tab PerfS := []
  /-- number of the next frame (DESIGN CHOICE 0); model's own. -/
  fidNext : Nat := 0
  /-- what the device has sent to the outside, newest first; model's own. -/
  out : List Out := []
  /-- buffers by handle; unlisted is FREE with GEN 0; R181. -/
  bufs : Tab Buf := []
  /-- flat tables 1 to 11 and 14 in every copy, key (table × 16 + copy) × 2^20 + index; R94, R368. -/
  flat : Tab (BitVec 512) := []
  /-- tile entries, key (aisle × 100 + tile) × 2048 + entry; R102. -/
  tiles : Tab Tile := []
  /-- SRAM copies, same key; R106. -/
  copies : Tab Tile := []
  /-- rebuild channels, key aisle × 4 + k; R121. -/
  rebuild : Tab RebuildS := []
  /-- bytes the device has written to host memory; an unlisted byte reads 0 (model's own record); R365. -/
  hostWr : List Host.Cell := []
  /-- NVM contents; unlisted reads 0xFF (erased); R356. -/
  nvmMem : List Host.Cell := []
  /-- occurrence counters by source; R295, R297. -/
  occ : Tab (BitVec 16) := []
  /-- MSI-X vectors; R300. -/
  msi : Tab Msi := []
  /-- BFD sessions; R167. -/
  bfd : Tab Bfd := []
  /-- state memory; R141. -/
  stm : Tab (BitVec 128) := []
deriving DecidableEq, Repr

/-- The machine right after reset: POR is asserted and every field holds its reset value (R311, R314). -/
def State.reset : State := {}

end Sys2Proof.Machine
end

