-- ==== Sys2Proof/Machine/Ops.lean ====
section
/-!
DEFINITION. Machine/Ops.lean: tables, the primitive writes of the machine, actions built from them, registers and
their fields, and the operations every block shares. An action (`Act`) is all a command may do: it looks at the state
and makes primitive writes (`Upd`), one after another. Nothing else touches a state, so what the primitive writes keep,
every step keeps.
-/
namespace Sys2Proof.Machine

/-! ### Sparse tables -/

/-- The entry at key `k`; `d` where the table lists none. -/
def tabGet {α : Type} (t : Tab α) (d : α) (k : Nat) : α :=
  match t with
  | [] => d
  | (i, v) :: r => if i = k then v else tabGet r d k

/-- The table with an entry put before the first larger key. -/
def tabIns {α : Type} (t : Tab α) (k : Nat) (v : α) : Tab α :=
  match t with
  | [] => [(k, v)]
  | e :: r => if k < e.1 then (k, v) :: e :: r else e :: tabIns r k v

/-- The table with `v` at key `k`, where `d` is the default at `k`: a default value is not listed. -/
def tabPut {α : Type} [DecidableEq α] (t : Tab α) (d : α) (k : Nat) (v : α) : Tab α :=
  if v = d then t.filter (·.1 != k) else tabIns (t.filter (·.1 != k)) k v

/-- The entries whose keys satisfy `p`. -/
def tabKeep {α : Type} (t : Tab α) (p : Nat → Bool) : Tab α := t.filter fun e => p e.1

/-- Keys strictly rising from above `lo`. -/
def tabRising {α : Type} (t : Tab α) : Bool :=
  match t with
  | [] => true
  | [_] => true
  | a :: b :: r => decide (a.1 < b.1) && tabRising (b :: r)

/-- Canonical form: keys strictly rising and no default value listed. -/
def tabWf {α : Type} [DecidableEq α] (t : Tab α) (d : Nat → α) : Bool :=
  tabRising t && t.all fun e => decide (e.2 ≠ d e.1)

/-! ### Registers -/

/-- Place of a register in its table. -/
def regKey (r : Reg) (n : Nat) : Nat := n * 256 + r.ctorIdx

/-- The register a key names. -/
def keyReg (k : Nat) : Reg := Reg.ofNat (k % 256)

/-- Reset word of place `n` of a register; the arrays whose reset value differs from place to place come first. -/
def regReset (r : Reg) (n : Nat) : Word :=
  match r with
  | .AISLE_LPM_MAP =>
    let i := n % 64
    if i = 62 ∨ i = 63 then BitVec.ofNat 32 (7 * 256 + i) else BitVec.ofNat 32 (8 * 65536 + 128 * 256 + i)
  | .AISLE_RULE_MAP => BitVec.ofNat 32 (7 * 256 + 64 + n % 32)
  | .AISLE_TILE_CFG =>
    let t := n % 100
    if t = 63 then 1#32 else if 64 ≤ t ∧ t ≤ 95 then 2#32 else 0#32
  | .SWC_POOL_CFG => BitVec.ofNat 32 (([96, 96, 64, 32] : List Nat).getD n 0)
  | .SWC_POOL_RSV => BitVec.ofNat 32 (([256, 64, 16, 16] : List Nat).getD n 0)
  | .SCH_Q_CFG =>
    let q := n % 9
    if q = 8 then BitVec.ofNat 32 (7 * 2 ^ 25 + 2048) else BitVec.ofNat 32 (2 ^ 28 + q * 2 ^ 25 + 2048)
  | .SHR_AVS_TARGET => if n = 0 then BitVec.ofNat 32 Config.vStart else 800#32
  | _ => r.resetWord

/-- Default at a key of the register table. -/
def regDefault (k : Nat) : Word := regReset (keyReg k) (k / 256)

/-- Mask of the bits `lo` to `lo + w - 1`. -/
def bitMask (lo w : Nat) : Word := BitVec.ofNat 32 ((2 ^ w - 1) * 2 ^ lo)

/-- The bits a register holds: its fields but for WO fields, which read 0 (R5, R6). -/
def regMask (r : Reg) : Word :=
  r.fields.foldl (fun m f => if f.ty = .wo then m else m ||| bitMask f.lo f.w) 0#32

/-- Bits `lo` to `lo + w - 1` of a word. -/
def bits (x : Word) (lo w : Nat) : Nat := x.toNat / 2 ^ lo % 2 ^ w

/-- A word with its bits `lo` to `lo + w - 1` replaced by the low bits of `v`. -/
def putBits (x : Word) (lo w v : Nat) : Word :=
  (x &&& ~~~ (bitMask lo w)) ||| BitVec.ofNat 32 (v % 2 ^ w * 2 ^ lo)

/-- Two's-complement value of the low `w` bits of `v`. -/
def toSigned (w v : Nat) : Int := if v % 2 ^ w < 2 ^ (w - 1) then (v % 2 ^ w : Nat) else ((v % 2 ^ w : Nat) : Int) - (2 ^ w : Nat)

/-- Half of a sum; that of an odd one is rounded up or down. -/
def halfOf (up : Bool) (x : Int) : Int := if up then (x + 1) / 2 else x / 2

/-- The low `w` bits that stand for an integer in two's complement. -/
def ofSigned (w : Nat) (v : Int) : Nat := (v % ((2 ^ w : Nat) : Int)).toNat

/-- The word a read returns: staged where a field is staged (R9). -/
def State.raw (s : State) (r : Reg) (n : Nat) : Word := tabGet s.regs (regReset r n) (regKey r n)

/-- The word in effect: fields that wait for their boundary still at their old value (R9). -/
def State.eff (s : State) (r : Reg) (n : Nat) : Word := (tabGet s.live none (regKey r n)).getD (s.raw r n)

/-- A field in effect. -/
def State.fld (s : State) (f : Fld) (n : Nat) : Nat := bits (s.eff f.reg n) f.lo f.w

/-- A one-bit field in effect. -/
def State.bit (s : State) (f : Fld) (n : Nat) : Bool := decide (s.fld f n ≠ 0)

/-- A field as a read returns it. -/
def State.rawFld (s : State) (f : Fld) (n : Nat) : Nat := bits (s.raw f.reg n) f.lo f.w

/-! ### Entries of the tables of a state -/

def State.stall (s : State) (n : Nat) : StallS := tabGet s.stalls {} n
def State.port (s : State) (n : Nat) : PortS := tabGet s.ports {} n
def State.lane (s : State) (n : Nat) : LaneS := tabGet s.lanes {} n
def State.aisle (s : State) (n : Nat) : AisleS := tabGet s.aisles {} n
def State.qtr (s : State) (n : Nat) : QtrS := tabGet s.qtrs {} n
def State.mbox (s : State) (n : Nat) : MbxS := tabGet s.mbx {} n
def State.perfB (s : State) (n : Nat) : PerfS := tabGet s.perf {} n
def State.buf (s : State) (h : Nat) : Buf := tabGet s.bufs {} h
def State.flatE (s : State) (k : Nat) : BitVec 512 := tabGet s.flat 0 k
def State.tile (s : State) (k : Nat) : Tile := tabGet s.tiles {} k
def State.copyT (s : State) (k : Nat) : Tile := tabGet s.copies {} k
def State.rebuildC (s : State) (k : Nat) : RebuildS := tabGet s.rebuild {} k
def State.hostByte (s : State) (a : Nat) : Byte := tabGet s.hostWr 0 a
def State.nvmByte (s : State) (a : Nat) : Byte := tabGet s.nvmMem 0xFF a
def State.occOf (s : State) (e : Nat) : BitVec 16 := tabGet s.occ 0 e
def State.msiV (s : State) (k : Nat) : Msi := tabGet s.msi {} k
def State.bfdS (s : State) (k : Nat) : Bfd := tabGet s.bfd {} k
def State.stmE (s : State) (k : Nat) : BitVec 128 := tabGet s.stm 0 k
def State.cntOf (s : State) (k : Nat) : BitVec 48 := tabGet s.cnt 0 k

/-- The tables of a state that a reset may clear in part. -/
inductive TabId where
  | regs
  | live
  | cnt
  | stalls
  | ports
  | lanes
  | aisles
  | qtrs
  | mbx
  | perf
  | bufs
  | flat
  | tiles
  | copies
  | rebuild
  | occ
  | msi
  | bfd
  | stm
deriving DecidableEq, Repr

/-- OTP only ever gains fuses: the counters, owner fields and revoke bits of both arguments (R389). -/
def otpJoin (a b : OtpS) : OtpS :=
  { uid := a.uid
    fieldA := if a.fieldA = 0 then b.fieldA else a.fieldA
    fieldB := if a.fieldB = 0 then b.fieldB else a.fieldB
    hashA := if a.fieldA = 0 then b.hashA else a.hashA
    hashB := if a.fieldB = 0 then b.hashB else a.hashB
    svnFw := a.svnFw ||| b.svnFw
    svnPatch := a.svnPatch ||| b.svnPatch
    svnImage := a.svnImage ||| b.svnImage
    revoke := a.revoke ||| b.revoke
    policy := a.policy }

/-- The primitive writes of the machine. -/
inductive Upd where
  | reg (r : Reg) (n : Nat) (w : Word)
  | live (r : Reg) (n : Nat) (w : Option Word)
  | cnt (k : Nat) (v : BitVec 48)
  | fresh
  | fid
  | out (o : Out)
  | keep (t : TabId) (p : Nat → Bool)
  | clk (v : ClkS)
  | mode (v : ModeS)
  | burn (v : OtpS)
  | evt (v : EvtS)
  | stall (n : Nat) (v : StallS)
  | port (n : Nat) (v : PortS)
  | lane (n : Nat) (v : LaneS)
  | aisle (n : Nat) (v : AisleS)
  | qtr (n : Nat) (v : QtrS)
  | mbx (n : Nat) (v : MbxS)
  | perf (n : Nat) (v : PerfS)
  | pkts (v : List Packet)
  | pe (v : PeS)
  | swc (v : SwcS)
  | time (v : TimeS)
  | dma (v : DmaS)
  | nvm (v : NvmS)
  | sec (v : SecS)
  | thm (v : ThmS)
  | buf (h : Nat) (v : Buf)
  | flat (k : Nat) (v : BitVec 512)
  | tile (k : Nat) (v : Tile)
  | copy (k : Nat) (v : Tile)
  | rebuild (k : Nat) (v : RebuildS)
  | host (a : Nat) (v : Byte)
  | nvmByte (a : Nat) (v : Byte)
  | occ (e : Nat) (v : BitVec 16)
  | msi (k : Nat) (v : Msi)
  | bfd (k : Nat) (v : Bfd)
  | stm (k : Nat) (v : BitVec 128)

/-- The state after one part of a table is cleared. -/
def keepTab (t : TabId) (p : Nat → Bool) (s : State) : State :=
  match t with
  | .regs => { s with regs := tabKeep s.regs p }
  | .live => { s with live := tabKeep s.live p }
  | .cnt => { s with cnt := tabKeep s.cnt p }
  | .stalls => { s with stalls := tabKeep s.stalls p }
  | .ports => { s with ports := tabKeep s.ports p }
  | .lanes => { s with lanes := tabKeep s.lanes p }
  | .aisles => { s with aisles := tabKeep s.aisles p }
  | .qtrs => { s with qtrs := tabKeep s.qtrs p }
  | .mbx => { s with mbx := tabKeep s.mbx p }
  | .perf => { s with perf := tabKeep s.perf p }
  | .bufs => { s with bufs := tabKeep s.bufs p }
  | .flat => { s with flat := tabKeep s.flat p }
  | .tiles => { s with tiles := tabKeep s.tiles p }
  | .copies => { s with copies := tabKeep s.copies p }
  | .rebuild => { s with rebuild := tabKeep s.rebuild p }
  | .occ => { s with occ := tabKeep s.occ p }
  | .msi => { s with msi := tabKeep s.msi p }
  | .bfd => { s with bfd := tabKeep s.bfd p }
  | .stm => { s with stm := tabKeep s.stm p }

/-- The state after a primitive write. A register keeps its reserved and WO bits at 0 (R5, R6). -/
def applyUpd (u : Upd) (s : State) : State :=
  match u with
  | .reg r n w => { s with regs := tabPut s.regs (regReset r n) (regKey r n) (w &&& regMask r) }
  | .live r n w => { s with live := tabPut s.live none (regKey r n) (w.map (· &&& regMask r)) }
  | .cnt k v => { s with cnt := tabPut s.cnt 0 k v }
  | .fresh => { s with fresh := s.fresh + 1 }
  | .fid => { s with fidNext := s.fidNext + 1 }
  | .out o => { s with out := o :: s.out }
  | .keep t p => keepTab t p s
  | .clk v => { s with clk := v }
  | .mode v => { s with mode := v }
  | .burn v => { s with otp := otpJoin s.otp v }
  | .evt v => { s with evt := v }
  | .stall n v => { s with stalls := tabPut s.stalls {} n v }
  | .port n v => { s with ports := tabPut s.ports {} n v }
  | .lane n v => { s with lanes := tabPut s.lanes {} n v }
  | .aisle n v => { s with aisles := tabPut s.aisles {} n v }
  | .qtr n v => { s with qtrs := tabPut s.qtrs {} n v }
  | .mbx n v => { s with mbx := tabPut s.mbx {} n v }
  | .perf n v => { s with perf := tabPut s.perf {} n v }
  | .pkts v => { s with pkts := v }
  | .pe v => { s with pe := v }
  | .swc v => { s with swc := v }
  | .time v => { s with time := v }
  | .dma v => { s with dma := v }
  | .nvm v => { s with nvm := v }
  | .sec v => { s with sec := v }
  | .thm v => { s with thm := v }
  | .buf h v => { s with bufs := tabPut s.bufs {} h v }
  | .flat k v => { s with flat := tabPut s.flat 0 k v }
  | .tile k v => { s with tiles := tabPut s.tiles {} k v }
  | .copy k v => { s with copies := tabPut s.copies {} k v }
  | .rebuild k v => { s with rebuild := tabPut s.rebuild {} k v }
  | .host a v => { s with hostWr := tabPut s.hostWr 0 a v }
  | .nvmByte a v => { s with nvmMem := tabPut s.nvmMem 0xFF a v }
  | .occ e v => { s with occ := tabPut s.occ 0 e v }
  | .msi k v => { s with msi := tabPut s.msi {} k v }
  | .bfd k v => { s with bfd := tabPut s.bfd {} k v }
  | .stm k v => { s with stm := tabPut s.stm 0 k v }

/-! ### Actions -/

/-- What a command may do: nothing, a primitive write, one action after another, or an action chosen by looking at the
state as it now is. -/
inductive Act where
  | skip
  | upd (u : Upd)
  | seq (a b : Act)
  | look (f : State → Act)

/-- The state after an action. -/
def run (a : Act) (s : State) : State :=
  match a with
  | .skip => s
  | .upd u => applyUpd u s
  | .seq a b => run b (run a s)
  | .look f => run (f s) s

/-- The outcome of a command whose meaning is an action. -/
def ok (a : Act) (s : State) : Host.Outcome State Fault Refusal := .next (run a s)

abbrev look (f : State → Act) : Act := .look f
abbrev skip : Act := .skip

/-- Actions one after another. -/
def acts (l : List Act) : Act :=
  match l with
  | [] => .skip
  | a :: r => .seq a (acts r)

/-- The action if the condition holds, else nothing. -/
def when (b : Bool) (a : Act) : Act := if b then a else .skip

/-- The action for each member of a list, in order. -/
def each {α : Type} (l : List α) (f : α → Act) : Act :=
  match l with
  | [] => .skip
  | x :: r => .seq (f x) (each r f)

def modStall (n : Nat) (f : StallS → StallS) : Act := .look fun s => .upd (.stall n (f (s.stall n)))
def modPort (n : Nat) (f : PortS → PortS) : Act := .look fun s => .upd (.port n (f (s.port n)))
def modLane (n : Nat) (f : LaneS → LaneS) : Act := .look fun s => .upd (.lane n (f (s.lane n)))
def modAisle (n : Nat) (f : AisleS → AisleS) : Act := .look fun s => .upd (.aisle n (f (s.aisle n)))
def modQtr (n : Nat) (f : QtrS → QtrS) : Act := .look fun s => .upd (.qtr n (f (s.qtr n)))
def modMbx (n : Nat) (f : MbxS → MbxS) : Act := .look fun s => .upd (.mbx n (f (s.mbox n)))
def modPerf (n : Nat) (f : PerfS → PerfS) : Act := .look fun s => .upd (.perf n (f (s.perfB n)))
def modBuf (h : Nat) (f : Buf → Buf) : Act := .look fun s => .upd (.buf h (f (s.buf h)))
def modClk (f : ClkS → ClkS) : Act := .look fun s => .upd (.clk (f s.clk))
def modMode (f : ModeS → ModeS) : Act := .look fun s => .upd (.mode (f s.mode))
def modEvt (f : EvtS → EvtS) : Act := .look fun s => .upd (.evt (f s.evt))
def modPkts (f : List Packet → List Packet) : Act := .look fun s => .upd (.pkts (f s.pkts))
def modPe (f : PeS → PeS) : Act := .look fun s => .upd (.pe (f s.pe))
def modSwc (f : SwcS → SwcS) : Act := .look fun s => .upd (.swc (f s.swc))
def modTime (f : TimeS → TimeS) : Act := .look fun s => .upd (.time (f s.time))
def modDma (f : DmaS → DmaS) : Act := .look fun s => .upd (.dma (f s.dma))
def modNvm (f : NvmS → NvmS) : Act := .look fun s => .upd (.nvm (f s.nvm))
def modSec (f : SecS → SecS) : Act := .look fun s => .upd (.sec (f s.sec))
def modThm (f : ThmS → ThmS) : Act := .look fun s => .upd (.thm (f s.thm))
def modBfd (k : Nat) (f : Bfd → Bfd) : Act := .look fun s => .upd (.bfd k (f (s.bfdS k)))
def modMsi (k : Nat) (f : Msi → Msi) : Act := .look fun s => .upd (.msi k (f (s.msiV k)))
def modRebuild (k : Nat) (f : RebuildS → RebuildS) : Act := .look fun s => .upd (.rebuild k (f (s.rebuildC k)))

/-- Record something sent to the outside. -/
def emit (o : Out) : Act := .upd (.out o)

/-- Draw a free value: nothing constrains it. -/
def draw (k : Nat → Act) : Act := .look fun s => .seq (.upd .fresh) (k (Config.freeValue s.fresh))

/-- Write the whole word of a register, in effect at once. -/
def setReg (r : Reg) (n : Nat) (w : Word) : Act := .seq (.upd (.reg r n w)) (.upd (.live r n none))

/-- Set a field, in effect at once; a staged value of another field of the register stays staged. -/
def setF (f : Fld) (n v : Nat) : Act :=
  .look fun s =>
    .seq (.upd (.reg f.reg n (putBits (s.raw f.reg n) f.lo f.w v)))
      (match tabGet s.live none (regKey f.reg n) with
       | none => .skip
       | some w => .upd (.live f.reg n (some (putBits w f.lo f.w v))))

/-- Set a one-bit field. -/
def setB (f : Fld) (n : Nat) (b : Bool) : Act := setF f n (if b then 1 else 0)

/-- A field the hardware itself writes keeps a staged software value, which takes effect at its boundary (R281). The registers with such
fields hold no fields of several boundaries, so a word in effect of its own means a staged write of this field. -/
def setFHw (f : Fld) (n v : Nat) : Act :=
  .look fun s =>
    match tabGet s.live none (regKey f.reg n) with
    | none => setF f n v
    | some w => .upd (.live f.reg n (some (putBits w f.lo f.w v)))

/-- Add to a field that saturates at its largest value. -/
def addSat (f : Fld) (n k : Nat) : Act := .look fun s => setF f n (min (s.rawFld f n + k) (2 ^ f.w - 1))

/-- Add to a field modulo its width. -/
def addMod (f : Fld) (n k : Nat) : Act := .look fun s => setF f n ((s.rawFld f n + k) % 2 ^ f.w)

/-! ### Counters -/

/-- Key of counter `c` of a value ID and index (R290). -/
def cntKey (vid idx c : Nat) : Nat := (vid * 2 ^ 24 + idx) * 8 + c

/-- Add `k` to a 48-bit counter, which wraps (R290). -/
def count (vid idx c k : Nat) : Act :=
  .look fun s => .upd (.cnt (cntKey vid idx c) (s.cntOf (cntKey vid idx c) + BitVec.ofNat 48 k))

/-! ### Activity of a port (R466) -/

/-- Time words at which the activity bit became 1, after a frame at word `w`: it stays 1 for 50 ms and then 0 for at least 50 ms. -/
def PortS.seen (P : PortS) (w : Nat) : Option Nat :=
  match P.actAt with
  | none => some w
  | some a => if a + 1250000 ≤ w then some w else some a

/-! ### Units -/

def stallOf (p : Nat) : Nat := p / 8
def aisleOf (p : Nat) : Nat := p / 32
def quarterOf (p : Nat) : Nat := p / 128

/-- Operating mode codes (R330). -/
def modeCold : Nat := 0
def modeShutters : Nat := 1
def modeSetup : Nat := 2
def modeOpen : Nat := 3
def modeLean : Nat := 4
def modeDrain : Nat := 5
def modeSealed : Nat := 6
def modeProving : Nat := 7

/-- SYS_MODE.MODE. -/
def State.opMode (s : State) : Nat := s.fld F.SYS_MODE_MODE 0

/-- Link state codes (R57). -/
def linkDisabled : Nat := 0
def linkWaitModule : Nat := 1
def linkAn : Nat := 2
def linkTrain : Nat := 3
def linkAlign : Nat := 4
def linkUp : Nat := 5

def State.link (s : State) (p : Nat) : Nat := s.fld F.PORT_STATE_LINK p
def State.isUp (s : State) (p : Nat) : Bool := s.link p == linkUp

/-- Requester codes (R285). -/
def Req.code (r : Req) : Nat := r.ctorIdx

end Sys2Proof.Machine
end

