-- ==== Sys2Proof/Machine/PerfBase.lean ====
section
/-!
DEFINITION. Machine/PerfBase.lean: the counters of the PERF blocks (R439 to R442) and the report of an occurrence to them. Each event
of a command is the value of one cycle.
-/
namespace Sys2Proof.Machine

/-- PERF blocks of the switch core, the scheduler and the time unit (R439). -/
def pbSwc : Nat := 16
def pbSch : Nat := 17
def pbTime : Nat := 18

/-- The counters of a block advance (R440). -/
def State.perfOn (s : State) (b : Nat) : Bool :=
  s.mode.started && s.bit F.PERF_CTL_EN b && !s.bit F.PERF_GLOBAL_CTL_FREEZE 0

/-- The soft-reset instance of a block's unit (R321, R439). -/
def perfUnit (b : Nat) : Nat := if b < 16 then 64 + b else if b = pbSwc then 86 else if b = pbSch then 87 else 85

/-- Events of a block occur: its counters advance, and its unit is not in soft reset (R440). -/
def State.perfLive (s : State) (b : Nat) : Bool := s.perfOn b && !s.clk.soft.contains (perfUnit b)

/-- PCn of a block. -/
def State.pcOf (s : State) (b n : Nat) : BitVec 48 := tabGet (s.perfB b).pc 0 n

/-- Add to PCn; a carry sets OVF and runs along the chain (R442). -/
def pcAdd (b fuel n k : Nat) : Act :=
  match fuel with
  | 0 => .skip
  | fuel + 1 =>
    .look fun s =>
      let v := (s.pcOf b n).toNat + k
      acts [modPerf b fun P => { P with pc := tabPut P.pc 0 n (BitVec.ofNat 48 v) },
        when (decide (2 ^ 48 ≤ v)) (acts [setF ⟨.PERF_STATUS, 8 + n, 1⟩ b 1,
          when (decide (n < 7) && s.bit F.PC_CFG_CHAIN (8 * b + n)) (pcAdd b fuel (n + 1) 1)])]

/-- PERF_CYC advances; its wrap sets CYC_OVF. -/
def cycAdd (b k : Nat) : Act :=
  .look fun s =>
    let v := (s.perfB b).cyc.toNat + k
    acts [modPerf b fun P => { P with cyc := BitVec.ofNat 64 v }, when (decide (2 ^ 64 ≤ v)) (setB F.PERF_STATUS_CYC_OVF b true)]

/-- PCn counts an event of its own, not the carries of the counter below it (R442). -/
def State.pcOwn (s : State) (b n : Nat) : Bool := n == 0 || !s.bit F.PC_CFG_CHAIN (8 * b + n - 1)

/-- The counters of a block that count an event, of one port where the event has one (R441). -/
def State.pcsFor (s : State) (b code : Nat) (port : Option Nat) : List Nat :=
  (List.range 8).filter fun n =>
    s.pcOwn b n && s.fld F.PC_CFG_EVENT (8 * b + n) == code &&
      (match port with
       | none => true
       | some p => !s.bit F.PC_CFG_FLT_EN (8 * b + n) || s.fld F.PC_CFG_FILTER (8 * b + n) == p)

/-- What PCn adds in a cycle in which its event has this value (R441). -/
def State.pcValue (s : State) (b n v : Nat) : Nat :=
  if s.bit F.PC_CFG_THR_EN (8 * b + n) then (if s.fld F.PC_THR_N (8 * b + n) < v then 1 else 0) else v

/-- An event of kind I has this value in a cycle of the unit of block `b`. -/
def perfEvent (b code : Nat) (port : Option Nat) (v : Nat) : Act :=
  .look fun s => when (s.perfLive b) (each (s.pcsFor b code port) fun n => pcAdd b 8 n (s.pcValue b n v))

/-- What PCn adds for bytes that cross at up to `m` in a cycle: whole cycles of `m`, and one with the rest (R441, log 186). -/
def State.pcSpread (s : State) (b n v m : Nat) : Nat :=
  if s.bit F.PC_CFG_THR_EN (8 * b + n) then
    let N := s.fld F.PC_THR_N (8 * b + n)
    (if N < m then v / m else 0) + (if N < v % m then 1 else 0)
  else v

/-- The bytes of a frame cross in the unit of block `b`, up to `m` in a cycle, the most that R443 and R444 give one (log 186). -/
def perfBytes (b code : Nat) (port : Option Nat) (v m : Nat) : Act :=
  .look fun s => when (s.perfLive b) (each (s.pcsFor b code port) fun n => pcAdd b 8 n (s.pcSpread b n v m))

/-- An event marked "port" occurs on several ports in one cycle: a counter takes those its filter lets pass as one value (R441). -/
def perfPorts (b code : Nat) (ports : List Nat) : Act :=
  .look fun s =>
    when (s.perfLive b && !ports.isEmpty) (each (s.pcsFor b code none) fun n =>
      let i := 8 * b + n
      let v := (ports.filter fun p => !s.bit F.PC_CFG_FLT_EN i || s.fld F.PC_CFG_FILTER i == p).length
      when (decide (0 < v)) (pcAdd b 8 n (s.pcValue b n v)))

end Sys2Proof.Machine
end

