-- ==== Sys2Proof/Machine/Flags.lean ====
section
/-!
DEFINITION. Machine/Flags.lean: the flags every block shares: the event tree (R293 to R301), the captures of rejects,
locked writes and bus errors (R274, R283, R284), and the SMBus alert (R279).
-/
namespace Sys2Proof.Machine

/-! ### Port maps (R40, R41) -/

/-- Whether lane position `i` of a stall starts a port under a split tree. -/
def splitStarts (split i : Nat) : Bool :=
  let b := fun k => decide (split / 2 ^ k % 2 = 1)
  match i with
  | 0 => true
  | 1 => b 0 && b 1 && b 3
  | 2 => b 0 && b 1
  | 3 => b 0 && b 1 && b 4
  | 4 => b 0
  | 5 => b 0 && b 2 && b 5
  | 6 => b 0 && b 2
  | 7 => b 0 && b 2 && b 6
  | _ => false

/-- Number of lanes of the port that starts at position `i`. -/
def splitWidth (split i : Nat) : Nat :=
  if splitStarts split i then
    ((List.range 8).filter fun k => i < k && splitStarts split k).headD 8 - i
  else 0

/-- Whether lane position `p` starts a port (R18, R40). -/
def State.starts (s : State) (p : Nat) : Bool := splitStarts (s.fld F.STALL_CFG_SPLIT (stallOf p)) (p % 8)

/-- Lanes of port `p` (R41). -/
def State.width (s : State) (p : Nat) : Nat := splitWidth (s.fld F.STALL_CFG_SPLIT (stallOf p)) (p % 8)

/-- The lanes a port occupies. -/
def State.lanesOf (s : State) (p : Nat) : List Nat := (List.range (s.width p)).map (p + ·)

/-- The port a lane belongs to. -/
def State.portOfLane (s : State) (l : Nat) : Nat :=
  ((List.range 8).filter fun i => decide (l / 8 * 8 + i ≤ l) && s.starts (l / 8 * 8 + i)).getLastD 0 + l / 8 * 8

/-- Data rate of a lane in Gb/s (R33). -/
def laneRate (rate : Nat) : Nat := if rate = 0 then 200 else if rate = 1 then 100 else 50

/-- Data rate of port `p` in Gb/s (R41). -/
def State.rateGb (s : State) (p : Nat) : Nat := s.width p * laneRate (s.fld F.STALL_CFG_LANE_RATE (stallOf p))

/-- The ports of a stall under its present map. -/
def State.portsOf (s : State) (st : Nat) : List Nat := ((List.range 8).map (st * 8 + ·)).filter s.starts

/-- The ports of the device. -/
def State.allPorts (s : State) : List Nat := (List.range 512).filter s.starts

/-! ### Sources of events (R293) -/

/-- The source a cause bit drives. -/
def causeSource (r : Reg) (n bit : Nat) : Option Nat :=
  match r with
  | .TIME_PORT_EVT_CAUSE => some (512 + n)
  | .SWC_EVT_CAUSE => some (1024 + 16 * n + bit)
  | .SCH_EVT_CAUSE => some (1024 + 16 * n + 11 + bit)
  | .QTR_EVT_CAUSE => some (1280 + 32 * n + bit)
  | .AISLE_SRCH_EVT_CAUSE => some (1280 + 32 * (n / 4) + 12 + bit)
  | .QTR_ASSAY_EVT_CAUSE => some (1280 + 32 * n + 20 + bit)
  | .AISLE_MC_EVT_CAUSE => some (1408 + 7 * n + bit)
  | .PE_EVT_CAUSE => some (1520 + bit)
  | .STALL_EVT_CAUSE => some (1536 + n)
  | .SHR_EVT_CAUSE => some (1600 + bit)
  | .THM_EVT_CAUSE => some (1632 + bit)
  | .SEC_EVT_CAUSE => some (1664 + bit)
  | .SYS_EVT_CAUSE => some (1693 + bit)
  | .CLK_EVT_CAUSE => some (1696 + bit)
  | .TIME_SVC_EVT_CAUSE => some (1720 + bit)
  | .SYS_MODE_EVT_CAUSE => some (1744 + bit)
  | .DMA_EVT_CAUSE => some (1760 + bit)
  | _ => none

def causeBit (s : State) (r : Reg) (n b : Nat) : Bool := (s.raw r n).getLsbD b

/-- A source is active while any of its cause bits is set; an edge source never is (R294). -/
def State.active (s : State) (e : Nat) : Bool :=
  if e < 512 then false
  else if e < 1024 then s.raw .TIME_PORT_EVT_CAUSE (e - 512) != 0
  else if e < 1280 then
    let a := (e - 1024) / 16
    let b := (e - 1024) % 16
    if b < 11 then causeBit s .SWC_EVT_CAUSE a b else causeBit s .SCH_EVT_CAUSE a (b - 11)
  else if e < 1408 then
    let q := (e - 1280) / 32
    let b := (e - 1280) % 32
    if b < 12 then causeBit s .QTR_EVT_CAUSE q b
    else if b < 20 then (List.range 4).any fun i => causeBit s .AISLE_SRCH_EVT_CAUSE (4 * q + i) (b - 12)
    else causeBit s .QTR_ASSAY_EVT_CAUSE q (b - 20)
  else if e < 1520 then causeBit s .AISLE_MC_EVT_CAUSE ((e - 1408) / 7) ((e - 1408) % 7)
  else if e < 1536 then causeBit s .PE_EVT_CAUSE 0 (e - 1520)
  else if e < 1600 then s.raw .STALL_EVT_CAUSE (e - 1536) != 0
  else if e < 1632 then causeBit s .SHR_EVT_CAUSE 0 (e - 1600)
  else if e < 1664 then causeBit s .THM_EVT_CAUSE 0 (e - 1632)
  else if e < 1693 then causeBit s .SEC_EVT_CAUSE 0 (e - 1664)
  else if e < 1696 then causeBit s .SYS_EVT_CAUSE 0 (e - 1693)
  else if e < 1720 then causeBit s .CLK_EVT_CAUSE 0 (e - 1696)
  else if e < 1728 then causeBit s .TIME_SVC_EVT_CAUSE 0 (e - 1720)
  else if e < 1744 then false
  else if e < 1760 then causeBit s .SYS_MODE_EVT_CAUSE 0 (e - 1744)
  else causeBit s .DMA_EVT_CAUSE 0 (e - 1760)

/-! ### Delivery (R299 to R301) -/

/-- Entries of a function's MSI-X table (R362). -/
def msixEntries (pf : Nat) : Nat := if pf = 0 then 2048 else 64

def msiKey (pf vec : Nat) : Nat := pf * 2048 + vec

/-- Whether a function can send messages: its complex is out of reset with its link up, and MSI-X is enabled (R300, R308). -/
def State.msixUp (s : State) (pf : Nat) : Bool :=
  s.clk.pcieUp && !s.clk.perst && s.bit F.CLK_STATUS_PCIE_LOCK 0 && s.evt.msixOn.contains pf

/-- One message to an MSI-X vector, or its loss, its pending bit or its wait for the end of a holdoff (R300). -/
def sendMsi (pf vec : Nat) : Act :=
  .look fun s =>
    let v := s.msiV (msiKey pf vec)
    if !s.msixUp pf || decide (msixEntries pf ≤ vec) then
      addSat F.EVT_MSI_LOST_COUNT 0 1
    else if v.masked then modMsi (msiKey pf vec) fun m => { m with pend := true }
    else if v.holding then modMsi (msiKey pf vec) fun m => { m with owed := true }
    else acts [emit (.msi pf vec),
      when (decide (0 < s.fld F.EVT_CFG_HOLDOFF_US 0)) (modMsi (msiKey pf vec) fun m => { m with holding := true, holdAt := s.time.words })]

/-- Deliver the host view of leaf word `w` for a bit that became pending (R299). -/
def deliver (w : Nat) : Act :=
  .look fun s =>
    let d := s.fld F.EVT_ROUTE_DEST w
    if 1 ≤ d ∧ d ≤ 4 then sendMsi (d - 1) (s.fld F.EVT_ROUTE_VECTOR w)
    else when (decide (d = 5)) (emit (.zolIrq w))

/-- Whether EVENT_N is asserted (R301). -/
def State.eventN (s : State) : Bool :=
  (List.range 56).any fun w =>
    decide (s.fld F.EVT_ROUTE_DEST w = 6) && (s.raw .EVT_STATUS w &&& s.raw .EVT_ENABLE w) != 0

/-- Whether SMB_ALERT_N is asserted (R279). -/
def State.alertN (s : State) : Bool := s.eventN && s.bit F.SYS_IF_CFG_ALERT_EN 0 && !s.evt.alertRel

/-- The release of SMB_ALERT_N ends when its condition is false (R279). -/
def syncAlert : Act :=
  .look fun s =>
    when (s.evt.alertRel && !(s.eventN && s.bit F.SYS_IF_CFG_ALERT_EN 0)) (modEvt fun e => { e with alertRel := false })

/-- An occurrence of source `e` (R294, R295): STATUS bits of both views, the occurrence counter, delivery, the interrupt of Zolliwin by its own view (R296). A source of a
lane position that starts no port is never raised (R293). -/
def occur (e : Nat) : Act :=
  .look fun s =>
    if e < 1024 ∧ s.starts (e % 512) = false then .skip
    else
      let w := e / 32
      let m : Word := BitVec.ofNat 32 (2 ^ (e % 32))
      let fresh := s.raw .EVT_STATUS w &&& m = 0
      let zFresh := s.raw .EVT_Z_STATUS w &&& m = 0
      acts [.upd (.reg .EVT_STATUS w (s.raw .EVT_STATUS w ||| m)),
        .upd (.reg .EVT_Z_STATUS w (s.raw .EVT_Z_STATUS w ||| m)),
        .upd (.occ e (if s.occOf e = 0xFFFF#16 then 0xFFFF#16 else s.occOf e + 1)),
        when (decide zFresh && (s.raw .EVT_Z_ENABLE w &&& m) != 0) (emit (.zolEvt w)),
        when (decide fresh && (s.raw .EVT_ENABLE w &&& m) != 0) (deliver w)]

/-- Set a cause bit and make the occurrence of its source (R294). -/
def raise (f : Fld) (n : Nat) : Act :=
  .seq (setF f n 1)
    (match causeSource f.reg n f.lo with
     | some e => occur e
     | none => .skip)

/-- Raise bit `b` of a cause register whose bits have no names of their own. -/
def raiseBit (r : Reg) (n b : Nat) : Act := raise ⟨r, b, 1⟩ n

/-- The causes of PE_EVT_CAUSE (R172). -/
def peParity : Nat := 0
def peFault : Nat := 1
def peResumed : Nat := 2
def peStorm : Nat := 3
def peRepairTrap : Nat := 4
def peRepairFull : Nat := 5
def peRxOverflow : Nat := 6
def peMsgqFull : Nat := 7
def peBfdState : Nat := 8
def peLldpChange : Nat := 9
def peEsmcChange : Nat := 10
def peTallySent : Nat := 11
def peTallyFail : Nat := 12
def peException : Nat := 13
def peStopped : Nat := 14
def peRejected : Nat := 15
def raisePe (b : Nat) : Act := raiseBit .PE_EVT_CAUSE 0 b

/-- The causes of DMA_EVT_CAUSE (R384). -/
def dmaRingDone : Nat := 0
def dmaRingErr : Nat := 1
def dmaZDone : Nat := 2
def dmaZErr : Nat := 3
def dmaPadExpired : Nat := 4
def dmaClaimed : Nat := 5
def dmaLost : Nat := 6
def dmaFetchErr : Nat := 7
def dmaHqRx : Nat := 8
def dmaHqTx : Nat := 16
def dmaHqFull : Nat := 24
def dmaHqBad : Nat := 25
def dmaFaultFull : Nat := 26
def dmaRejected : Nat := 27
def raiseDma (b : Nat) : Act := raiseBit .DMA_EVT_CAUSE 0 b

/-- A write of 1s to EVT_STATUS or EVT_Z_STATUS: a bit clears only where its source is not active (R295). -/
def clearStatus (r : Reg) (w : Nat) (v : Word) : Act :=
  .look fun s =>
    let stay := (List.range 32).foldl (fun m b => if s.active (32 * w + b) then m ||| BitVec.ofNat 32 (2 ^ b) else m) 0#32
    .upd (.reg r w (s.raw r w &&& (~~~v ||| stay)))

/-! ### Captures (R274, R283, R284, R303) -/

/-- Where the rejects of a block are reported. -/
inductive Blk where
  | sys
  | stall (n : Nat)
  | qtr (n : Nat)
  | srch (n : Nat)
  | mc (n : Nat)
  | pe
  | swc
  | sch
  | timePort (n : Nat)
  | timeSvc
  | clk
  | nvm
  | dma
  | sec
  | shr
  | perf
deriving DecidableEq, Repr

/-- The REJECT field of a block and its reject event. The NVM and PERF blocks name no reject event of their own. -/
def rejectReport (b : Blk) (code : Nat) : Act :=
  match b with
  | .sys => acts [setF F.SYS_STATUS_REJECT 0 code, raise F.SYS_EVT_CAUSE_REJECTED 0]
  | .stall n => acts [setF F.STALL_STATUS_REJECT n code, raise F.STALL_EVT_CAUSE_REJECTED n]
  | .qtr n => acts [setF F.QTR_STATUS_REJECT n code, raise F.QTR_EVT_CAUSE_REJECTED n]
  | .srch n => acts [setF F.AISLE_SRCH_STATUS_REJECT n code, raise F.AISLE_SRCH_EVT_CAUSE_REJECTED n]
  | .mc n => acts [setF F.AISLE_MC_STATUS_REJECT n code, raise F.AISLE_MC_EVT_CAUSE_REJECTED n]
  | .pe => acts [setF F.PE_STATUS_REJECT 0 code, raisePe peRejected]
  | .swc => acts [setF F.SWC_STATUS_REJECT 0 code, raise F.SWC_EVT_CAUSE_REJECTED 0]
  | .sch => acts [setF F.SCH_STATUS_REJECT 0 code, raise F.SCH_EVT_CAUSE_REJECTED 0]
  | .timePort n => acts [setF F.TIME_STATUS_REJECT 0 code, raise F.TIME_PORT_EVT_CAUSE_REJECTED n]
  | .timeSvc => acts [setF F.TIME_STATUS_REJECT 0 code, raise F.TIME_SVC_EVT_CAUSE_REJECTED 0]
  | .clk => acts [setF F.CLK_STATUS_REJECT 0 code, raise F.CLK_EVT_CAUSE_REJECTED 0]
  | .nvm => setF F.NVM_STATUS_REJECT 0 code
  | .dma => acts [setF F.DMA_STATUS_REJECT 0 code, raiseDma dmaRejected]
  | .sec => acts [setF F.SEC_STATUS_REJECT 0 code, raise F.SEC_EVT_CAUSE_REJECTED 0]
  | .shr => acts [setF F.SHR_STATUS_REJECT 0 code, raise F.SHR_EVT_CAUSE_REJECTED 0]
  | .perf => setF F.PERF_SNAP_STATUS_REJECT 0 code

/-- Capture into an address register and an information register, unless a capture is held (R303). -/
def capture (a i : Reg) (addr : Nat) (info : Word) : Act :=
  .look fun s =>
    if (s.raw a 0).getLsbD 31 then .upd (.reg a 0 (s.raw a 0 ||| 0x40000000#32))
    else acts [.upd (.reg a 0 ((s.raw a 0 &&& 0x40000000#32) ||| 0x80000000#32 ||| BitVec.ofNat 32 (addr % 2 ^ 26))),
      .upd (.reg i 0 info)]

/-- A write has been turned away. -/
def noteTurned : Act := modEvt fun e => { e with turned := e.turned + 1 }

/-- A reject (R11, R283): capture, REJECT field and reject event of the block, and no other effect. -/
def reject (b : Blk) (req : Req) (addr code vid : Nat) : Act :=
  acts [capture .SYS_REJECT_ADDR .SYS_REJECT_INFO addr (BitVec.ofNat 32 (req.ctorIdx * 2 ^ 28 + code * 2 ^ 24 + vid)),
    rejectReport b code, noteTurned]

/-- Full-window address of place `n` of a register (R4). -/
def regAddr (r : Reg) (n : Nat) : Nat :=
  r.base + (r.dims.foldr (fun d (x : Nat × Nat) => (x.1 + x.2 % d.2 * d.1, x.2 / d.2)) (0, n)).1

/-- A reject with code 0x3 of a write to a register. -/
def reject3 (b : Blk) (req : Req) (r : Reg) (n : Nat) : Act := reject b req (regAddr r n) 3 0

/-- A locked write (R284): capture and event. -/
def lockedWrite (req : Req) (addr : Nat) : Act :=
  acts [capture .SYS_LOCKED_WR .SYS_LOCKED_WR_INFO addr (BitVec.ofNat 32 (req.ctorIdx * 2 ^ 28)),
    raise F.SYS_EVT_CAUSE_LOCKED_WR 0, noteTurned]

/-- A bus error (R274): capture, event, and the exception Zolliwin takes. -/
def busError (req : Req) (addr kind : Nat) (wr : Bool) : Act :=
  acts [capture .SYS_BUS_ERR .SYS_BUS_ERR_INFO addr
      (BitVec.ofNat 32 (req.ctorIdx * 2 ^ 28 + kind * 2 ^ 26 + (if wr then 2 ^ 25 else 0))),
    raise F.SYS_EVT_CAUSE_BUS_ERR 0, noteTurned,
    when (req == .z || req == .zs) (emit .zolBusError),
    when (!wr && !(req == .z || req == .zs)) (emit .completerAbort)]

/-- The secure masters (R8). -/
def secureReq (r : Req) : Bool := r == .zs || r == .pf0s

/-- Zolliwin, in either context. -/
def isZol (r : Req) : Bool := r == .z || r == .zs

/-- PF0, with or without a secure session. -/
def isPf0 (r : Req) : Bool := r == .pf0 || r == .pf0s

/-- Message to Zolliwin from the hardware itself. -/
def tellZol (kind : Nat) (words : List Word) : Act := emit (.zolMsg kind words)

end Sys2Proof.Machine
end

