-- ==== Sys2Proof/Machine/Operands.lean ====
section
/-!
DEFINITION. Machine/Operands.lean: bytes and words of operands (byte orders, CRCs), and who may reach a register:
the windows of the requesters and the bus errors of R273 and R274.
-/
namespace Sys2Proof.Machine

/-! ### Bytes -/

/-- Value of bytes, most significant first. -/
def beNat (l : List Byte) : Nat := l.foldl (fun a b => a * 256 + b.toNat) 0

/-- Value of bytes, least significant first. -/
def leNat (l : List Byte) : Nat := l.foldr (fun b a => b.toNat + 256 * a) 0

/-- The low `n` bytes of a value, most significant first. -/
def beBytes (n v : Nat) : List Byte := (List.range n).map fun i => BitVec.ofNat 8 (v / 256 ^ (n - 1 - i))

/-- The low `n` bytes of a value, least significant first. -/
def leBytes (n v : Nat) : List Byte := (List.range n).map fun i => BitVec.ofNat 8 (v / 256 ^ i)

/-- `n` bytes from offset `o`; bytes beyond the end are 0. -/
def sliceB (l : List Byte) (o n : Nat) : List Byte := (List.range n).map fun i => l.getD (o + i) 0

/-- A digest as octets. -/
def digestBytes (d : BitVec 512) : List Byte := beBytes 64 d.toNat

/-- Bytes `o` to `o + v.length - 1` replaced. -/
def patchB (l : List Byte) (o : Nat) (v : List Byte) : List Byte := l.take o ++ v ++ l.drop (o + v.length)

/-- Little-endian field of a byte string. -/
def leAt (l : List Byte) (o n : Nat) : Nat := leNat (sliceB l o n)

/-- Big-endian field of a byte string. -/
def beAt (l : List Byte) (o n : Nat) : Nat := beNat (sliceB l o n)

/-- Bits `lo` to `lo + w - 1` of a number. -/
def nbits (x lo w : Nat) : Nat := x / 2 ^ lo % 2 ^ w

/-! ### CRCs (R80) -/

/-- One bit of the reflected, right-shifting CRC. -/
def crcBit (poly c : BitVec 32) : BitVec 32 := if c.getLsbD 0 then (c >>> 1) ^^^ poly else c >>> 1

/-- One byte of the reflected CRC. -/
def crcByte (poly c : BitVec 32) (b : Byte) : BitVec 32 :=
  (List.range 8).foldl (fun c _ => crcBit poly c) (c ^^^ b.setWidth 32)

/-- A reflected CRC with its register initialized to `init` and a final XOR with all ones. -/
def crc (poly init : BitVec 32) (l : List Byte) : BitVec 32 := (l.foldl (crcByte poly) init) ^^^ 0xFFFFFFFF#32

/-- CRC-32C: polynomial 0x1EDC_6F41, reflected. -/
def crc32c (init : BitVec 32) (l : List Byte) : BitVec 32 := crc 0x82F63B78#32 init l

/-- CRC-32 of IEEE 802.3: polynomial 0x04C1_1DB7, reflected. -/
def crc32 (init : BitVec 32) (l : List Byte) : BitVec 32 := crc 0xEDB88320#32 init l

/-- All ones, the usual initial value. -/
def crcInit : BitVec 32 := 0xFFFFFFFF#32

/-! ### Device time (R13, R227) -/

/-- Device time in 2^-16 ns since the PTP epoch. -/
def State.now16 (s : State) : Nat := s.time.acc / 2 ^ 32

/-- Device time in ns since the PTP epoch. -/
def State.nowNs (s : State) : Nat := s.time.acc / 2 ^ 48

/-- Nanoseconds that device time has run since it started: a time word is 128 cycles of CLK_CORE, 80 ns (R228). -/
def State.runNs (s : State) : Nat := s.time.words * 80

/-- Whether `ns` have passed by the count of time words since word `w`. -/
def State.elapsed (s : State) (w ns : Nat) : Bool := decide (w * 80 + ns ≤ s.runNs)

/-- Whether an expiry due `ns` after time word `w` may act: its time has come by the count of time words, or device time does not
run and nothing in State measures it (log 10). -/
def State.aged (s : State) (w ns : Nat) : Bool := !s.time.running || s.elapsed w ns

/-- Local time of the stalls, `sub` (2^-16 ns) after the last time word: words are sent early by D_DIST, so that it agrees with
the accumulator (R228). -/
def State.stallTime (s : State) (sub : Nat) : Nat := s.now16 + sub

/-- T40 of a time in 2^-16 ns (R86). -/
def t40 (t : Nat) : BitVec 40 := BitVec.ofNat 40 (t / 65536)

/-! ### Units a register belongs to, and who may reach it -/

/-- Soft-reset instance numbers of the units other than stalls (R321). -/
def unitAisle (a : Nat) : Nat := 64 + a
def unitQtr (q : Nat) : Nat := 80 + q
def unitPe : Nat := 84
def unitTime : Nat := 85
def unitSwc : Nat := 86
def unitSch : Nat := 87
def unitDma : Nat := 88
def unitNvm : Nat := 89
def unitSec : Nat := 90

/-- Index of the outermost dimension of an array place. -/
def outerIdx (r : Reg) (n : Nat) : Nat := n / (r.dims.drop 1).foldl (fun p d => p * d.2) 1

/-- The soft-reset instance that holds a register, and whether its block starts with SETUP (R331). -/
def regUnit (r : Reg) (n : Nat) : Option Nat × Bool :=
  let a := r.base
  if a < 0x300000 then (none, false)
  else if a < 0x400000 then (some unitSec, false)
  else if a < 0x800000 then (some unitNvm, false)
  else if a < 0xC00000 then (some unitTime, false)
  else if a < 0x1000000 then (some unitPe, true)
  else if a < 0x1800000 then (some (outerIdx r n), false)
  else if a < 0x2000000 then (some (unitAisle (outerIdx r n)), true)
  else if a < 0x2800000 then (some (unitQtr (outerIdx r n)), true)
  else if a < 0x2C00000 then (some unitSwc, true)
  else if a < 0x3000000 then (some unitSch, true)
  else if a < 0x3400000 then (none, true)
  else if a < 0x3800000 then (none, false)
  else if a < 0x3810000 then (some unitDma, true)
  else if a < 0x3820000 then (none, false)
  else (some unitDma, true)

/-- Registers of the mailboxes. -/
def isMbx (r : Reg) : Bool := r == .MBX_CTL || r == .MBX_SEL || r == .MBX_DATA

/-- Registers of a table DMA ring. -/
def isRing (r : Reg) : Bool :=
  [Reg.DMA_RING_BASE_LO, .DMA_RING_BASE_HI, .DMA_CPL_BASE_LO, .DMA_CPL_BASE_HI, .DMA_RING_CFG, .DMA_RING_TAIL,
    .DMA_RING_HEAD].contains r

/-- Registers of the host queues. -/
def isHq (r : Reg) : Bool :=
  [Reg.HQ_BASE_LO, .HQ_BASE_HI, .HQ_CFG, .HQ_TAIL, .HQ_HEAD, .HQ_LOST].contains r

/-- The global PERF registers. -/
def isPerfGlobal (r : Reg) : Bool :=
  [Reg.PERF_GLOBAL_CTL, .PERF_PERMIT, .PERF_SNAP_BASE_LO, .PERF_SNAP_BASE_HI, .PERF_SNAP_CFG, .PERF_SNAP_STATUS,
    .PERF_SNAP_SEQ].contains r

/-- Whether a requester's window maps place `n` of a register (R273, R305, R362, R450). -/
def mapped (req : Req) (r : Reg) (n : Nat) : Bool :=
  let m := outerIdx r n
  let place := decide (n < r.dims.foldl (fun p d => p * d.2) 1) && !(r == .STALL_CHAIN_CFG && n != 0)
  place &&
    (match req with
     | .pf0 | .pf0s | .smb => !isMbx r || decide (m < 4)
     | .pf1 => (isRing r && n == 0) || (isMbx r && decide (4 ≤ m ∧ m < 8))
     | .pf2 => isHq r || (isMbx r && decide (8 ≤ m ∧ m < 12))
     | .pf3 => isPerfGlobal r || (isMbx r && decide (12 ≤ m ∧ m < 16))
     | .z | .zs | .dma | .opt => true)

/-- The PCIe function a requester is, if it is one. -/
def pfOf (r : Req) : Option Nat :=
  match r with
  | .pf0 | .pf0s => some 0
  | .pf1 => some 1
  | .pf2 => some 2
  | .pf3 => some 3
  | _ => none

/-- The requester as captures name it: PF0 is a secure master while it holds a secure session (R8, R285), and the boot ROM runs in secure
context (R407). -/
def State.asReq (s : State) (r : Req) : Req :=
  if isPf0 r then (if s.bit F.SEC_STATUS_SECURE_SESSION 0 then .pf0s else .pf0) else if r = .z ∧ (s.clk.zolRun = 1 ∨ s.clk.zolRun = 3) then .zs else r

/-- No source of reach 1 or 2 holds the device, and the exit sequence is complete (R313, R315). -/
def State.released (s : State) : Bool := s.clk.step == 11

/-- ROOTPLL has lost lock and the reset it asks for waits for a page program: no domain derived from it runs (R309, R320). -/
def State.halted (s : State) : Bool := !s.clk.waitNvm.isEmpty && !s.bit F.CLK_STATUS_ROOT_LOCK 0

/-- What a domain derived from ROOTPLL does (CLK_CORE, CLK_BUF, CLK_TBL, CLK_MGT, CLK_LOW; R306): nothing while ROOTPLL is unlocked
(R309). -/
def coreDo (a : Act) : Act := .look fun s => when (!s.halted) a

/-- Zolliwin runs its firmware. -/
def State.zolOn (s : State) : Bool := s.clk.zolRun == 2 && !s.halted

/-- Whether a request can arrive at all: the device is out of reset, and the requester runs and has its link. The SMBus target answers from
step 7 of the exit sequence (R315). -/
def State.arrives (s : State) (r : Req) : Bool :=
  s.clk.srcs.isEmpty && (s.clk.step == 11 || (r == .smb && s.clk.step == 7)) && !s.halted &&
    (match pfOf r with
     | some _ => s.clk.pcieUp && !s.clk.perst && s.bit F.CLK_STATUS_PCIE_LOCK 0
     | none => if isZol r then decide (s.clk.zolRun ≠ 0) else true)

/-- Whether the block of a register is held in reset or not yet started (R274 KIND 2, R331). -/
def State.notStarted (s : State) (r : Reg) (n : Nat) : Bool :=
  let u := regUnit r n
  (match u.1 with
   | some k => s.clk.soft.contains k
   | none => false) || (if u.2 then !s.mode.started else !s.mode.shut)

/-- The bus error an aligned whole-word access to a register meets, if any (R274). The blocks behind the narrow window answer the SMBus
from step 7 (R315). -/
def State.accessErr (s : State) (req : Req) (r : Reg) (n : Nat) : Option Nat :=
  if !mapped req r n then some 0 else if req != .smb && s.notStarted r n then some 2 else none

/-- A write to a register that arrives: a bus error, or what `k` does for the requester as captures name it. -/
def onWrite (req : Req) (r : Reg) (n : Nat) (k : Req → Act) : Act :=
  .look fun s =>
    if !s.arrives req then .skip
    else
      match s.accessErr req r n with
      | some kind => busError (s.asReq req) (regAddr r n) kind true
      | none => k (s.asReq req)

/-- A write whose every field is SEC: a non-secure write is ignored (R275). -/
def onSecWrite (req : Req) (r : Reg) (n : Nat) (k : Req → Act) : Act :=
  onWrite req r n fun q => when (secureReq q) (k q)

end Sys2Proof.Machine
end

