-- ==== Sys2Proof/Machine/Ledger.lean ====
section
/-!
DEFINITION. Machine/Ledger.lean: the ledgers (R77 to R85), learning and the crier ring (R86 to R91), ageing (R92) and
the sweep of the flowlet table (R96). A place of a copy is numbered bucket × 4 + way, or 524,288 + stash slot.
-/
namespace Sys2Proof.Machine

/-! ### Entries (R77, R78) -/

def LEntry.valid (x : LEntry) : Bool := x.e.getLsbD 127
def LEntry.ty (x : LEntry) : Nat := nbits x.e.toNat 124 3
def LEntry.age (x : LEntry) : Nat := nbits x.e.toNat 120 4
def LEntry.gen (x : LEntry) : Nat := nbits x.e.toNat 119 1
def LEntry.key (x : LEntry) : Nat := nbits x.e.toNat 40 79
def LEntry.value (x : LEntry) : Nat := nbits x.e.toNat 0 24
def LEntry.fwd (x : LEntry) : Fwd :=
  { kind := nbits x.e.toNat 38 2, discard := x.e.getLsbD 37, loc := x.e.getLsbD 36, value := x.value }

/-- Types 3 and 5 are double entries. -/
def isDouble (ty : Nat) : Bool := ty == 3 || ty == 5

/-- Replace bits `lo` to `lo + w - 1` of an entry. -/
def LEntry.put (x : LEntry) (lo w v : Nat) : LEntry :=
  let n := x.e.toNat
  { x with e := BitVec.ofNat 128 (n - nbits n lo w * 2 ^ lo + v % 2 ^ w * 2 ^ lo) }

def LEntry.setAge (x : LEntry) (a : Nat) : LEntry := x.put 120 4 a
def LEntry.setGen (x : LEntry) (g : Nat) : LEntry := x.put 119 1 g

/-- A dynamic MAC entry (R92). -/
def LEntry.dynMac (x : LEntry) : Bool := x.valid && x.ty == 1 && decide (1 ≤ x.age ∧ x.age ≤ 14)

/-- KEY of a MAC entry (R78). -/
def macKey (bd mac : Nat) : Nat := bd % 2 ^ 14 * 2 ^ 48 + mac % 2 ^ 48

/-- A dynamic MAC entry as learning writes it: AGE 14, KIND 0, VALUE = port (R86). -/
def learnedEntry (gen bd mac port : Nat) (time : BitVec 40) (q : Nat) : LEntry :=
  { e := BitVec.ofNat 128 (2 ^ 127 + 1 * 2 ^ 124 + 14 * 2 ^ 120 + gen % 2 * 2 ^ 119 + macKey bd mac * 2 ^ 40 + port % 512)
    time := time
    quarter := q }

/-- A dynamic MAC entry whose port and stamp a winning claim overwrites (R86, R89): DISCARD and LOCAL stay (log 140). -/
def LEntry.moved (x : LEntry) (port : Nat) (time : BitVec 40) (q : Nat) : LEntry :=
  { (x.put 38 2 0).put 0 24 (port % 512) with time := time, quarter := q }

/-! ### Buckets (R80) -/

/-- The two candidate buckets of a key of type `ty` under two seeds. -/
def buckets (a b : BitVec 32) (ty key : Nat) : Nat × Nat :=
  let bytes := BitVec.ofNat 8 ty :: beBytes (if isDouble ty then 20 else 10) key
  let b0 := (crc32c a bytes).toNat % 2 ^ 17
  let b1 := (crc32 b bytes).toNat % 2 ^ 17
  (b0, if b1 = b0 then b0 ^^^ 1 else b1)

/-- What a copy needs to place entries: its ways and stash, the seeds in force, those of a migration, and the moves allowed. -/
structure Copy where
  ways : Tab LEntry
  stash : Tab LEntry
  seedA : BitVec 32
  seedB : BitVec 32
  migr : Option (BitVec 32 × BitVec 32)
  gen : Nat
  maxMoves : Nat

def stashBase : Nat := 524288

def Copy.at (c : Copy) (p : Nat) : LEntry :=
  if p < stashBase then tabGet c.ways {} p else tabGet c.stash {} (p - stashBase)

def Copy.set (c : Copy) (p : Nat) (x : LEntry) : Copy :=
  if p < stashBase then { c with ways := tabPut c.ways {} p x } else { c with stash := tabPut c.stash {} (p - stashBase) x }

/-- The whole key at a place: one half, or both halves of a double entry. -/
def Copy.keyAt (c : Copy) (p : Nat) : Nat :=
  let x := c.at p
  if isDouble x.ty then x.key * 2 ^ 79 + (c.at (p + 1)).key else x.key

/-- Whether the entry at a place matches (R81); a double entry stands at an even place. -/
def Copy.matchAt (c : Copy) (ty key p : Nat) : Bool :=
  let x := c.at p
  x.valid && x.ty == ty && c.keyAt p == key &&
    (!isDouble ty || (decide (p % 2 = 0) && (c.at (p + 1)).valid && (c.at (p + 1)).ty == ty))

/-- Places of a bucket for an entry of a type, in ascending order of ways. -/
def bucketPlaces (ty b : Nat) : List Nat := if isDouble ty then [4 * b, 4 * b + 2] else [4 * b, 4 * b + 1, 4 * b + 2, 4 * b + 3]

/-- Places of the stash for an entry of a type: slots, or aligned pairs (R83). -/
def stashPlaces (ty : Nat) : List Nat :=
  if isDouble ty then (List.range 32).map fun k => stashBase + 2 * k else (List.range 64).map (stashBase + ·)

/-- The places a lookup reads: the buckets of the current generation, of the next one during a migration, and the stash
(R81). -/
def Copy.lookPlaces (c : Copy) (ty key : Nat) : List Nat :=
  let b := buckets c.seedA c.seedB ty key
  bucketPlaces ty b.1 ++ (bucketPlaces ty b.2 ++
    ((match c.migr with
      | none => []
      | some (na, nb) =>
        let m := buckets na nb ty key
        bucketPlaces ty m.1 ++ bucketPlaces ty m.2) ++ stashPlaces ty))

/-- The place of the matching entry (R81). -/
def Copy.find (c : Copy) (ty key : Nat) : Option Nat := (c.lookPlaces ty key).find? (c.matchAt ty key)

/-- The seeds and generation under which an insertion places: the next ones during a migration (R85). -/
def Copy.placeSeeds (c : Copy) : BitVec 32 × BitVec 32 × Nat :=
  match c.migr with
  | none => (c.seedA, c.seedB, c.gen)
  | some (na, nb) => (na, nb, 1 - c.gen)

/-- The places an entry of a type covers. -/
def cover (ty p : Nat) : List Nat := if isDouble ty then [p, p + 1] else [p]

/-- Whether an entry of a type fits at a place, ways in `used` counting as taken. -/
def Copy.free (c : Copy) (ty : Nat) (used : List Nat) (p : Nat) : Bool :=
  (cover ty p).all fun x => !(c.at x).valid && !used.contains x

/-- The one entry that stands in the way of an entry of a type at a place, by its place; none if two do. During a migration
only an entry of the next generation may move (R85). -/
def Copy.blocker (c : Copy) (ty p : Nat) : Option Nat :=
  let heads := ((cover ty p).filter fun x => (c.at x).valid).map fun x => if isDouble (c.at x).ty then x / 2 * 2 else x
  match heads.dedup with
  | [h] => if c.migr.isSome && (c.at h).gen == c.gen then none else some h
  | _ => none

/-- A chain in the making: the places its entries take, last first, each with the type of the entry that takes it. -/
abbrev ChainPath := List (Nat × Nat)

/-- The ways that the entries of a chain take, both of a double entry. -/
def ChainPath.used (c : ChainPath) : List Nat := c.flatMap fun x => cover x.2 x.1

/-- Candidate places of an entry of a type, by ascending bucket and way (R83). -/
def Copy.candidates (c : Copy) (ty key : Nat) : List Nat :=
  let s := c.placeSeeds
  let b := buckets s.1 s.2.1 ty key
  bucketPlaces ty (min b.1 b.2) ++ bucketPlaces ty (max b.1 b.2)

/-- One level of the breadth-first search of R83: every path of the level, in order, looks at the candidate places of the
entry it displaces. Answers the first path that ends at a free place, or the next level and the buckets looked at. -/
def Copy.expand (c : Copy) (paths : List (ChainPath × Nat)) (seen : List Nat) (done : List Nat) :
    Option ChainPath × List (ChainPath × Nat) × List Nat × List Nat :=
  paths.foldl (fun acc pe =>
    match acc.1 with
    | some _ => acc
    | none =>
      let path := pe.1
      let h := pe.2
      let ty := (c.at h).ty
      (c.candidates ty (c.keyAt h)).foldl (fun acc p =>
        match acc.1 with
        | some _ => acc
        | none =>
          let b := p / 4
          let seen := acc.2.2.1
          if !seen.contains b && decide (256 ≤ seen.length) then acc
          else
            let seen := if seen.contains b then seen else b :: seen
            if (cover ty p).any (ChainPath.used path).contains then (none, acc.2.1, seen, acc.2.2.2)
            else if c.free ty (ChainPath.used path) p then (some ((p, ty) :: path), acc.2.1, seen, acc.2.2.2)
            else
              match c.blocker ty p with
              | none => (none, acc.2.1, seen, acc.2.2.2)
              | some h' =>
                if acc.2.2.2.contains h' then (none, acc.2.1, seen, acc.2.2.2)
                else (none, acc.2.1 ++ [((p, ty) :: path, h')], seen, h' :: acc.2.2.2)) acc)
    (none, [], seen, done)

/-- The search, level by level; a chain of `moves` levels makes that many moves. -/
def Copy.search (c : Copy) (moves : Nat) (paths : List (ChainPath × Nat)) (seen done : List Nat) : Option ChainPath :=
  match moves with
  | 0 => none
  | m + 1 =>
    match c.expand paths seen done with
    | (some p, _) => some p
    | (none, [], _) => none
    | (none, next, seen', done') => c.search m next seen' done'

/-- The chain for a new entry: the places taken, from the new entry's own to the free one (R83). -/
def Copy.chain (c : Copy) (ty key : Nat) : Option (List Nat) :=
  let cand := c.candidates ty key
  let start := cand.filterMap fun p => (c.blocker ty p).map fun h => ([(p, ty)], h)
  (c.search c.maxMoves start (cand.map (· / 4)).dedup (start.map (·.2))).map fun x => (x.map (·.1)).reverse

/-- Write an entry, one or both halves, at a place. -/
def Copy.write (c : Copy) (p : Nat) (x : LEntry × LEntry) : Copy :=
  if isDouble x.1.ty then (c.set p x.1).set (p + 1) x.2 else c.set p x.1

/-- Clear the entry at a place, both halves of a double one (R84). -/
def Copy.clear (c : Copy) (p : Nat) : Copy :=
  if isDouble (c.at p).ty then (c.set p {}).set (p + 1) {} else c.set p {}

/-- Execute the moves of a chain from its free end (R83): the entry in the way of each place goes to the next place. -/
def Copy.runChain (c : Copy) (ty : Nat) (chain : List Nat) : Copy :=
  match chain with
  | [] => c
  | [_] => c
  | p :: q :: rest =>
    match c.blocker ty p with
    | none => c
    | some h =>
      let x := (c.at h, c.at (h + 1))
      let c' := c.runChain (c.at h).ty (q :: rest)
      (c'.clear h).write q x

/-- How an insertion ended. -/
inductive InsertEnd where
  | overwritten
  | placed
  | stashed
  | failed
deriving DecidableEq, Repr

/-- Place an entry that is not yet in the copy; `stash` says whether the stash may take it (R83, R85). -/
def Copy.place (c : Copy) (x : LEntry × LEntry) (key : Nat) (stash : Bool) : Copy × InsertEnd :=
  let ty := x.1.ty
  let s := c.placeSeeds
  let x := (x.1.setGen s.2.2, if isDouble ty then x.2.setGen s.2.2 else x.2)
  let b := buckets s.1 s.2.1 ty key
  match (bucketPlaces ty b.1 ++ bucketPlaces ty b.2).find? (c.free ty []) with
  | some p => (c.write p x, .placed)
  | none =>
    match c.chain ty key with
    | some (p :: rest) => ((c.runChain ty (p :: rest)).write p x, .placed)
    | _ =>
      if stash then
        match (stashPlaces ty).find? (c.free ty []) with
        | some p => (c.write p x, .stashed)
        | none => (c, .failed)
      else (c, .failed)

/-- Key of an entry given as its halves. -/
def keyOf (x : LEntry × LEntry) : Nat := if isDouble x.1.ty then x.1.key * 2 ^ 79 + x.2.key else x.1.key

/-- Insert an entry; a key already present is overwritten in place and nothing moves (R83). -/
def Copy.insert (c : Copy) (x : LEntry × LEntry) : Copy × InsertEnd :=
  match c.find x.1.ty (keyOf x) with
  | some p =>
    let g := (c.at p).gen
    (c.write p (x.1.setGen g, x.2.setGen g), .overwritten)
  | none => c.place x (keyOf x) true

/-- Stash slots in use. -/
def stashUsed (t : Tab LEntry) : Nat := (t.filter fun e => e.2.valid).length

/-! ### Copies in the state -/

/-- The ledger copy of a quarter. -/
def State.copyOf (s : State) (q : Nat) : Copy :=
  let Q := s.qtr q
  { ways := Q.ways
    stash := Q.stash
    seedA := s.raw .QTR_LDG_SEED_A q
    seedB := s.raw .QTR_LDG_SEED_B q
    migr := if s.bit F.QTR_LDG_STATUS_MIGRATING q then some (Q.migA, Q.migB) else none
    gen := s.fld F.QTR_LDG_STATUS_GEN q
    maxMoves := s.fld F.QTR_LDG_CFG_MAX_MOVES q }

/-- Store a copy back, with the counts of ways and stash slots in use (R100). -/
def putCopy (q : Nat) (c : Copy) : Act :=
  acts [modQtr q fun Q => { Q with ways := c.ways, stash := c.stash },
    setF F.QTR_LDG_STATUS_STASH_USED q (stashUsed c.stash),
    setF F.QTR_LDG_STATUS_WAYS_USED q (stashUsed c.ways)]

/-- The entry a lookup in a quarter returns (R81). -/
def State.ledger (s : State) (q ty key : Nat) : Option LEntry :=
  ((s.copyOf q).find ty key).map (s.copyOf q).at

/-- Insert into the copy of a quarter: STASH_HIGH, INSERT_FAIL and its count (R83). `fail` is what else a failure does. -/
def insertLedger (q : Nat) (x : LEntry × LEntry) (fail : Act) : Act :=
  .look fun s =>
    let r := (s.copyOf q).insert x
    acts [putCopy q r.1,
      (match r.2 with
       | .stashed => when (decide (s.fld F.QTR_LDG_CFG_STASH_HIGH q ≤ stashUsed r.1.stash)) (raise F.QTR_EVT_CAUSE_STASH_HIGH q)
       | .failed => acts [raise F.QTR_EVT_CAUSE_INSERT_FAIL q, count 0x18 (2 * q) 4 1, fail]
       | _ => .skip)]

/-- Counters of value ID 0x18 (R290). -/
def qcount (q g c k : Nat) : Act := count 0x18 (2 * q + g) c k

/-! ### Learning (R86 to R89) -/

/-- Modes in which learning, crier notes and ageing run (R330, R347). -/
def State.learnMode (s : State) : Bool := [modeOpen, modeLean, modeDrain].contains s.opMode && !s.halted

/-- Whether table 12 is padlocked by a ring (R370). -/
def State.padlocked (s : State) (t : Nat) : Bool := s.dma.lockH.getLsbD t || s.dma.lockZ.getLsbD t

/-- The race rule of R89: whether a candidate's claim wins over a stored one. -/
def raceWins (now stored cand : BitVec 40) (sq cq : Nat) : Bool :=
  if 2 ^ 20 ≤ (now - stored).toNat then true
  else
    let d := cand - stored
    if d = 0 then decide (cq < sq) else decide (d.toNat < 2 ^ 39)

/-- No room in a learn FIFO for the sweep's REMOVE note: a FLUSH note that waits has the first claim to it (R88). -/
def QtrS.noRoom (Q : QtrS) : Bool := decide (256 ≤ Q.fifo.length) || !Q.flushWait.isEmpty

/-- A learn finds the FIFO full also while a REMOVE or FLUSH note waits (R88). -/
def QtrS.fifoFull (Q : QtrS) : Bool := Q.noRoom || Q.ageWait

/-- Put a note at the end of a quarter's learn FIFO. -/
def pushNote (q : Nat) (n : Note) : Act := modQtr q fun Q => { Q with fifo := Q.fifo ++ [n] }

/-- LEARN_DROP: a learn is skipped (R86, R88). -/
def learnDrop (q : Nat) : Act := acts [qcount q 0 2 1, raise F.QTR_EVT_CAUSE_LEARN_DROP q]

/-- What the source lookup of a frame decides (R86): hold a learn or a station move until the FCS verdict, set AGE to 14 where this is
the entry's owner quarter (R93), or count a violation, which waits for no verdict (log 142). An entry of AGE 0, which only the table DMA
can write, counts as a dynamic one here, by the model's choice (log 177). -/
def learnDecide (q bd mac port fid : Nat) (tIn : Nat) : Act :=
  .look fun s =>
    let Q := s.qtr q
    let hold :=
      if Q.pendL.any fun l => l.bd == bd && l.mac == mac then Act.skip
      else if s.padlocked 12 then qcount q 0 2 1
      else if 64 ≤ Q.pendL.length then learnDrop q
      else modQtr q fun Q => { Q with pendL := Q.pendL ++ [{ fid := fid, bd := bd, mac := mac, port := port, time := t40 tIn }] }
    match (s.copyOf q).find 1 (macKey bd mac) with
    | none => hold
    | some p =>
      let x := (s.copyOf q).at p
      let samePort := x.fwd.kind == 0 && x.value % 512 == port
      if x.age = 15 then
        when (!samePort) (acts [qcount q 1 0 1, raise F.QTR_EVT_CAUSE_SA_VIOLATION q])
      else acts [
        when (decide (quarterOf (x.value % 512) = q)) (putCopy q ((s.copyOf q).set p (x.setAge 14))),
        when (!samePort && raceWins (t40 s.now16) x.time (t40 tIn) x.quarter q) hold]

/-- Commit a held learn or station move on a good FCS (R86, R88): the copy as it now stands decides. A move leaves AGE as it is: the hit
itself has set it where it fell in the owner quarter (R93). -/
def learnCommit (q : Nat) (l : Learn) : Act :=
  .look fun s =>
    let note := pushNote q { typ := 1, quarter := q, bd := l.bd, mac := l.mac, port := l.port, time := l.time, seq := 0 }
    if !s.learnMode then .skip
    else if s.padlocked 12 then qcount q 0 2 1
    else if (s.qtr q).fifoFull then learnDrop q
    else
      let c := s.copyOf q
      let new := learnedEntry c.gen l.bd l.mac l.port l.time q
      match c.find 1 (macKey l.bd l.mac) with
      | none =>
        let r := c.insert (new, {})
        match r.2 with
        | .failed => insertLedger q (new, {}) .skip
        | _ => acts [insertLedger q (new, {}) .skip, qcount q 0 0 1, note]
      | some p =>
        let x := c.at p
        if x.age = 15 then .skip
        else if raceWins (t40 s.now16) x.time l.time x.quarter q then
          acts [putCopy q (c.set p (x.moved l.port l.time q)), note,
            if x.value % 512 = l.port then qcount q 0 0 1
            else acts [qcount q 0 1 1, raise F.QTR_EVT_CAUSE_STATION_MOVE q]]
        else .skip

/-- The FCS verdict of a frame reaches its quarter (R86). -/
def learnVerdict (q fid : Nat) (good : Bool) : Act :=
  .look fun s =>
    match (s.qtr q).pendL.find? fun l => l.fid == fid with
    | none => .skip
    | some l =>
      acts [modQtr q fun Q => { Q with pendL := Q.pendL.filter fun l => l.fid != fid },
        if good then learnCommit q l else qcount q 1 2 1]

/-! ### Flushes (R91) -/

/-- Add a member to an ascending set. -/
def addSet (l : List Nat) (x : Nat) : List Nat :=
  match l with
  | [] => [x]
  | y :: r => if x < y then x :: y :: r else if x = y then y :: r else y :: addSet r x

/-- Add a port to the flush set of a quarter. -/
def addFlush (q p : Nat) : Act := modQtr q fun Q => { Q with flushSet := addSet Q.flushSet p }

/-- The owner quarter of a port queues a FLUSH note and flushes its own copy; it waits for room in the learn FIFO (R88, R91).
No flush is made in SEALED (R347). -/
def flushPort (p : Nat) : Act :=
  .look fun s =>
    let q := quarterOf p
    if s.opMode = modeSealed then .skip
    else if 256 ≤ (s.qtr q).fifo.length then
      modQtr q fun Q => { Q with flushWait := if Q.flushWait.contains p then Q.flushWait else Q.flushWait ++ [p] }
    else acts [pushNote q { typ := 3, quarter := q, bd := 0, mac := 0, port := p, time := t40 s.now16, seq := 0 }, addFlush q p]

/-- FLUSH_BUSY (R91). -/
def State.flushBusy (s : State) (q : Nat) : Bool :=
  let Q := s.qtr q
  Q.walking.isSome || !Q.flushSet.isEmpty || !Q.flushWait.isEmpty

/-- A waiting FLUSH note takes the room a sent note has left. -/
def flushFromWait (q : Nat) : Act :=
  .look fun s =>
    match (s.qtr q).flushWait with
    | [] => .skip
    | p :: r =>
      when (decide ((s.qtr q).fifo.length < 256)) (acts [modQtr q fun Q => { Q with flushWait := r }, flushPort p])

/-- The copy without its dynamic MAC entries on the given ports. -/
def Copy.flush (c : Copy) (ports : List Nat) : Copy :=
  let keepE := fun e : Nat × LEntry => !(e.2.dynMac && ports.contains (e.2.value % 512))
  { c with ways := c.ways.filter keepE, stash := c.stash.filter keepE }

/-! ### Commands -/

/-- Whether a note may enter the ring: never in SEALED (R347) or while table 12 is padlocked, which lets no ledger change (R370); a note of
learning or ageing only in the modes that run them (R330). -/
def State.noteMay (s : State) (n : Note) : Bool :=
  s.opMode != modeSealed && !s.padlocked 12 && (n.typ == 3 || s.learnMode)

/-- CRIER_NOTE_SEND (R87, R88): the oldest note of the learn FIFO enters the ring with the quarter's next SEQ. -/
def crierNoteSend (q : Nat) : Act :=
  .look fun s =>
    match (s.qtr q).fifo with
    | [] => .skip
    | n :: r =>
      let n := { n with seq := (s.qtr q).seqNext }
      when (!s.clk.soft.contains (unitQtr q) && s.noteMay n) (acts [
        modQtr q fun Q => { Q with fifo := r, seqNext := (Q.seqNext + 1) % 2048 },
        setF F.QTR_CRIER_STATUS_LAST_SEQ q n.seq,
        each ((List.range 4).filter (· != q)) fun k => modQtr k fun Q => { Q with inNotes := Q.inNotes ++ [n] },
        modPe fun P => { P with inNotes := P.inNotes ++ [n] },
        flushFromWait q])

/-- The first note of a sender, and the list without it. -/
def takeNote (sender : Nat) (l : List Note) : Option (Note × List Note) :=
  match l with
  | [] => none
  | n :: r => if n.quarter = sender then some (n, r) else (takeNote sender r).map fun x => (x.1, n :: x.2)

/-- The SEQ check of R90; 2048 stands for a sender whose next note is accepted without the check. -/
def seqCheck (q sender seq : Nat) : Act :=
  .look fun s =>
    let e := tabGet (s.qtr q).expSeq 0 (sender + 1)
    acts [when (decide (e ≠ 2048 ∧ e ≠ seq)) (acts [raise F.QTR_EVT_CAUSE_CRIER_GAP q, qcount q 0 7 1]),
      modQtr q fun Q => { Q with expSeq := tabPut Q.expSeq 0 (sender + 1) ((seq + 1) % 2048) }]

/-- A receiving quarter applies a note (R89); in the modes without learning and ageing it takes neither a learn nor a removal (R330). -/
def applyNote (q : Nat) (n : Note) : Act :=
  .look fun s =>
    let c := s.copyOf q
    if s.opMode = modeSealed then .skip
    else if (n.typ = 1 ∨ n.typ = 2) && !s.learnMode then .skip
    else if n.typ = 1 then
      let new := learnedEntry c.gen n.bd n.mac n.port n.time n.quarter
      match c.find 1 (macKey n.bd n.mac) with
      | none => insertLedger q (new, {}) (acts [qcount q 0 5 1, raise F.QTR_EVT_CAUSE_APPLY_FAIL q])
      | some p =>
        let x := c.at p
        if x.age = 15 then acts [qcount q 1 0 1, raise F.QTR_EVT_CAUSE_SA_VIOLATION q]
        else when (raceWins (t40 s.now16) x.time n.time x.quarter n.quarter) (putCopy q (c.set p (x.moved n.port n.time n.quarter)))
    else if n.typ = 2 then
      match c.find 1 (macKey n.bd n.mac) with
      | none => .skip
      | some p => when ((c.at p).dynMac && (c.at p).value % 512 == n.port) (putCopy q (c.clear p))
    else if n.typ = 3 then addFlush q n.port
    else qcount q 0 6 1

/-- CRIER_NOTE_RECEIVE (R88 to R90): the next note of a sender arrives at a station. Station 4 is the management station. -/
def crierNoteReceive (station sender : Nat) (parityOk : Bool) : Act :=
  .look fun s =>
    if station = 4 then
      match takeNote sender s.pe.inNotes with
      | none => .skip
      | some (n, r) => modPe fun P => { P with inNotes := r, learnLog := if parityOk then n :: P.learnLog else P.learnLog }
    else
      match takeNote sender (s.qtr station).inNotes with
      | none => .skip
      | some (n, r) =>
        acts [modQtr station fun Q => { Q with inNotes := r },
          when parityOk (acts [seqCheck station sender n.seq, applyNote station n])]

/-- REHASH_START (R85): a write of QTR_REHASH_CTL. -/
def rehashStart (req : Req) (q : Nat) (value : Word) : Act :=
  onWrite req .QTR_REHASH_CTL q fun rq =>
    when (value.getLsbD 0) (.look fun s =>
      if s.bit F.QTR_LDG_STATUS_MIGRATING q then reject3 (.qtr q) rq .QTR_REHASH_CTL q
      else acts [modQtr q fun Q => { Q with migA := s.raw .QTR_LDG_SEED_NEXT_A q, migB := s.raw .QTR_LDG_SEED_NEXT_B q },
        setReg .QTR_REHASH_PTR q 0, setB F.QTR_LDG_STATUS_MIGRATING q true])

/-- One visit of a migration walk: an entry of the old generation moves to the next one; it stays where it is, with its generation, if
no place is found, except that pass 1 sends it to the stash (R85). Its own place counts as free (log 141). Answers the copy and how a
pass-1 entry without a bucket ended: in the stash, or nowhere. -/
def Copy.migrate (c : Copy) (pass1 : Bool) (p : Nat) : Copy × Option InsertEnd :=
  let x := c.at p
  if !x.valid || x.gen != c.gen || (isDouble x.ty && decide (p % 2 = 1)) then (c, none)
  else
    let k := c.keyAt p
    let pair := (x, c.at (p + 1))
    let r := (c.clear p).place pair k false
    match r.2 with
    | .failed =>
      if !pass1 then (c, none)
      else
        let r := (c.clear p).place pair k true
        match r.2 with
        | .failed => (c, some .failed)
        | _ => (r.1, some .stashed)
    | _ => (r.1, none)

/-- A migration pass over the places that hold entries, in ascending order, stash last: the copy, the entries for which the stash was
full, and the entries put in the stash that found or made `high` or more of its slots used (R83). -/
def Copy.migratePass (c : Copy) (pass1 : Bool) (high : Nat) : Copy × Nat × Nat :=
  let places := c.ways.map (·.1) ++ c.stash.map fun e => stashBase + e.1
  places.foldl (fun a p =>
    let r := a.1.migrate pass1 p
    (r.1, a.2.1 + (if r.2 = some .failed then 1 else 0),
      a.2.2 + (if r.2 = some .stashed ∧ high ≤ stashUsed r.1.stash then 1 else 0))) (c, 0, 0)

/-- REHASH_DONE (R85): both passes of the migration are made, the next seeds become current, REHASH_DONE is raised. -/
def rehashDone (q : Nat) : Act :=
  .look fun s =>
    when (s.bit F.QTR_LDG_STATUS_MIGRATING q) (
      let high := s.fld F.QTR_LDG_CFG_STASH_HIGH q
      let p0 := (s.copyOf q).migratePass false high
      let p1 := p0.1.migratePass true high
      acts [putCopy q p1.1,
        each (List.range p1.2.2) (fun _ => raise F.QTR_EVT_CAUSE_STASH_HIGH q),
        each (List.range p1.2.1) (fun _ => acts [raise F.QTR_EVT_CAUSE_INSERT_FAIL q, qcount q 0 4 1]),
        setReg .QTR_LDG_SEED_A q (s.qtr q).migA, setReg .QTR_LDG_SEED_B q (s.qtr q).migB,
        setF F.QTR_LDG_STATUS_GEN q (1 - s.fld F.QTR_LDG_STATUS_GEN q),
        setReg .QTR_REHASH_PTR q 0,
        setB F.QTR_LDG_STATUS_MIGRATING q false, raise F.QTR_EVT_CAUSE_REHASH_DONE q])

/-- Places of a copy the ageing sweep visits at a position: the ways of a bucket, or a stash slot. -/
def sweepPlaces (pos : Nat) : List Nat :=
  if pos < 131072 then [4 * pos, 4 * pos + 1, 4 * pos + 2, 4 * pos + 3] else [stashBase + (pos - 131072)]

/-- Positions of the ageing sweep: the buckets, then the stash slots. -/
def sweepEnd : Nat := 131072 + 64

/-- ns × 131,136 between two visits of the sweep: every place once in PERIOD × 100 ms (R92). -/
def State.ageStep (s : State) (q : Nat) : Nat := s.fld F.QTR_AGE_CFG_PERIOD q * 100000000

/-- The sweep's next place is due: the interval has passed since the place before, which a wait may have made late (R92). -/
def QtrS.nextDue (Q : QtrS) (now step : Nat) : Nat := (if Q.ageDue + step ≤ now then now else Q.ageDue) + step

/-- The sweep at the ways of its position from way `w` on (R88, R92): it stops at an entry whose REMOVE note finds no room. At the way at
which it has waited the compare fails where the entry was refreshed meanwhile, and leaves it (R93). -/
def ageWays (q pos w fuel : Nat) : Act :=
  match fuel with
  | 0 => .skip
  | k + 1 =>
    .look fun s =>
      match (sweepPlaces pos)[w]? with
      | none => modQtr q fun Q => { Q with
          agePos := (pos + 1) % sweepEnd, ageWay := 0, ageWait := false, ageDue := Q.nextDue (s.runNs * sweepEnd) (s.ageStep q) }
      | some p =>
        let c := s.copyOf q
        let x := c.at p
        let on := modQtr q fun Q => { Q with ageWait := false }
        if x.dynMac && quarterOf (x.value % 512) == q then
          if x.age = 1 then
            if (s.qtr q).noRoom then modQtr q fun Q => { Q with ageWay := w, ageWait := true }
            else acts [on, putCopy q (c.clear p),
              pushNote q { typ := 2, quarter := q, bd := x.key / 2 ^ 48 % 2 ^ 14, mac := x.key % 2 ^ 48, port := x.value % 512, time := t40 s.now16, seq := 0 },
              qcount q 0 3 1, ageWays q pos (w + 1) k]
          else acts [on, when (!(s.qtr q).ageWait) (putCopy q (c.set p (x.setAge (x.age - 1)))), ageWays q pos (w + 1) k]
        else acts [on, ageWays q pos (w + 1) k]

/-- AGEING_VISIT (R92): the sweep visits its next bucket or stash slot once it is due. PERIOD 0, a padlock of table 12 (R370), a reset of the
quarter and the modes without ageing stop it. -/
def ageingVisit (q : Nat) : Act :=
  .look fun s =>
    when (s.learnMode && decide (0 < s.fld F.QTR_AGE_CFG_PERIOD q) && !s.padlocked 12 && !s.clk.soft.contains (unitQtr q) &&
        (!s.time.running || (s.qtr q).ageWait || decide ((s.qtr q).ageDue ≤ s.runNs * sweepEnd)))
      (ageWays q (s.qtr q).agePos (s.qtr q).ageWay 5)

/-- QTR_FLUSH_GO (R91, R100): a write of QTR_FLUSH. -/
def qtrFlushGo (req : Req) (q : Nat) (value : Word) : Act :=
  onWrite req .QTR_FLUSH q fun rq =>
    when (value.getLsbD 9) (.look fun s =>
      let p := bits value 0 9
      if quarterOf p ≠ q ∨ s.flushBusy q then reject3 (.qtr q) rq .QTR_FLUSH q else flushPort p)

/-- FLUSH_WALK_START (R91): the walk takes the whole set and passes the entries of its ports, all of them at its start (log 143): a
station that sends again during the walk is learned afresh. A padlock of table 12 holds it back (R370). -/
def flushWalkStart (q : Nat) : Act :=
  .look fun s =>
    let Q := s.qtr q
    when (Q.walking.isNone && !Q.flushSet.isEmpty && !s.padlocked 12 && s.opMode != modeSealed)
      (acts [modQtr q fun Q => { Q with walking := some Q.flushSet, flushSet := [] }, putCopy q ((s.copyOf q).flush Q.flushSet)])

/-- FLUSH_DONE (R91): the walk has ended. -/
def flushDone (q : Nat) : Act :=
  .look fun s =>
    match (s.qtr q).walking with
    | none => .skip
    | some ports =>
      when (!s.padlocked 12) (acts [modQtr q fun Q => { Q with walking := none },
        raise F.QTR_EVT_CAUSE_FLUSH_DONE q, qcount q 1 1 ports.length])

/-- FLOWLET_SWEEP (R96): entries idle for more than 1 s become invalid. -/
def flowletSweep (q : Nat) : Act :=
  .look fun s =>
    modQtr q fun Q =>
      { Q with flow := Q.flow.filter fun e => decide ((BitVec.ofNat 32 s.nowNs - e.2.last).toNat ≤ 1000000000) }

def execCrierNoteSend (q : Fin 4) (s : State) := ok (coreDo (crierNoteSend q)) s
def execCrierNoteReceive (station : Fin 5) (sender : Fin 4) (parityOk : Bool) (s : State) :=
  ok (coreDo (crierNoteReceive station sender parityOk)) s
def execRehashStart (req : Req) (q : Fin 4) (value : Word) (s : State) := ok (rehashStart req q value) s
def execRehashDone (q : Fin 4) (s : State) := ok (coreDo (rehashDone q)) s
def execAgeingVisit (q : Fin 4) (s : State) := ok (coreDo (ageingVisit q)) s
def execQtrFlushGo (req : Req) (q : Fin 4) (value : Word) (s : State) := ok (qtrFlushGo req q value) s
def execFlushWalkStart (q : Fin 4) (s : State) := ok (coreDo (flushWalkStart q)) s
def execFlushDone (q : Fin 4) (s : State) := ok (coreDo (flushDone q)) s
def execFlowletSweep (q : Fin 4) (s : State) := ok (coreDo (flowletSweep q)) s

end Sys2Proof.Machine
end

