-- ==== Sys2Proof/Machine/RegWrite.lean ====
section
/-!
DEFINITION. Machine/RegWrite.lean: a register write field by field (R5, R6, R275), staging (R9, R280), and what a staged
field does at its boundary.
-/
namespace Sys2Proof.Machine

/-- A field as `Fld`, for place and width. -/
def FieldInfo.fld (f : FieldInfo) (r : Reg) : Fld := ⟨r, f.lo, f.w⟩

/-- The value a field stores: outside its stated range, the nearest end. Of LINKUP_QUAL, APPSEL and HOLD_MS, whose R68 names no
nearest end, and of some ranges of chapter 13 it is the model's choice (log 119). -/
def FieldInfo.stored (f : FieldInfo) (v : Nat) : Nat :=
  match f.range with
  | none => v
  | some (lo, hi) =>
    let x : Int := if lo < 0 then toSigned f.w v else (v : Int)
    ofSigned f.w (max lo (min hi x))

/-- Stage a field: a read returns the new value, the value in effect stays until the boundary (R9); a staged write of the value already in
effect is remembered as well (R281). -/
def stageF (f : Fld) (n v : Nat) : Act :=
  .look fun s =>
    let old := s.eff f.reg n
    let new := putBits (s.raw f.reg n) f.lo f.w v &&& regMask f.reg
    .seq (.upd (.reg f.reg n new)) (.upd (.live f.reg n (some old)))

/-- CFG_LOCK, the device's only lock bit (R406). -/
def State.cfgLock (s : State) : Bool := s.bit F.SEC_LOCK_CFG_LOCK 0

/-- One field of a write that arrived (R6): `sec` says whether the requester is a secure master. -/
def writeField (sec : Bool) (r : Reg) (n : Nat) (v : Word) (f : FieldInfo) : Act :=
  let x := bits v f.lo f.w
  let p := f.fld r
  if f.sec && !sec then .skip
  else
    match f.ty with
    | .ro => .skip
    | .wo => .skip
    | .w1c => .look fun s => setF p n (BitVec.toNat (BitVec.ofNat 32 (s.rawFld p n) &&& ~~~ (BitVec.ofNat 32 x)))
    | .w1s => .look fun s => setF p n (s.rawFld p n ||| x)
    | .cnt => setF p n x
    | .lck => .look fun s => when (!s.cfgLock) (setF p n (f.stored x))
    | .rw =>
      match f.ap with
      | .now => setF p n (f.stored x)
      | .none => setF p n (f.stored x)
      | _ => stageF p n (f.stored x)

/-- A write acts field by field; a secure write to a locked field is captured once (R275, R284). -/
def writeFields (req : Req) (r : Reg) (n : Nat) (v : Word) : Act :=
  .look fun s =>
    acts [each r.fields (writeField (secureReq req) r n v),
      when (s.cfgLock && r.fields.any fun f => f.ty == .lck && (!f.sec || secureReq req)) (lockedWrite req (regAddr r n))]

/-- Fields chosen by `p` of a register's place take effect (R9, R280). -/
def applyFields (r : Reg) (n : Nat) (p : FieldInfo → Bool) : Act :=
  .look fun s =>
    match tabGet s.live none (regKey r n) with
    | none => .skip
    | some w =>
      let new := (r.fields.filter p).foldl (fun w f => putBits w f.lo f.w (s.rawFld (f.fld r) n)) w
      .upd (.live r n (if new = s.raw r n then none else some new))

/-- The staged fields of every register chosen by `sel` take effect. -/
def applyStaged (sel : Reg → Nat → Bool) (ap : Applies) : Act :=
  .look fun s =>
    each (s.live.filter fun e => sel (keyReg e.1) (e.1 / 256)) fun e => applyFields (keyReg e.1) (e.1 / 256) fun f => f.ap == ap

end Sys2Proof.Machine
end

