-- ==== Sys2Proof/Machine/Edit.lean ====
section
/-!
DEFINITION. Machine/Edit.lean: what the egress stall makes of a frame under its edit plan (R139, R140), and the
residence correction it fills in (R239).
-/
namespace Sys2Proof.Machine

/-- Bytes written over a string at an offset; what falls beyond the end is lost. -/
def patchIn (l : List Byte) (o : Nat) (v : List Byte) : List Byte :=
  if o < l.length then patchB l o (v.take (l.length - o)) else l

/-- `len` bits of `v` (at most 32), most significant first, written from bit `bit` of byte `o`; bit 0 is the most significant. -/
def patchBits (l : List Byte) (o bit len v : Nat) : List Byte :=
  let n := (bit + len + 7) / 8
  let old := beAt l o n
  let sh := 8 * n - bit - len
  patchIn l o (beBytes n (old - nbits old sh len * 2 ^ sh + v % 2 ^ len * 2 ^ sh))

/-- `len` bits read from bit `bit` of byte `o`, most significant first; bits beyond the end are 0. -/
def readBits (l : List Byte) (o bit len : Nat) : Nat :=
  let n := (bit + len + 7) / 8
  nbits (beAt l o n) (8 * n - bit - len) len

/-- Ones'-complement sum of 16-bit words with end-around carry. -/
def onesSum (l : List Byte) : Nat :=
  let t := (List.range ((l.length + 1) / 2)).foldl (fun a i => a + beAt l (2 * i) 2) 0
  let f := fun x => x % 65536 + x / 65536
  f (f (f t))

/-- The IPv4 header checksum at `o`, recomputed (EOP 4 and 6). -/
def fixIp4 (l : List Byte) (o : Nat) : List Byte :=
  let n := 4 * (beAt l o 1 % 16)
  let z := patchIn l (o + 10) [0, 0]
  patchIn z (o + 10) (beBytes 2 (65535 - onesSum (sliceB z o n)))

/-- The last operation of a kind in a plan: of several STRIP, PREPEND or CF_RESERVE the last one counts, by the model's choice (log 182). -/
def EditPlan.last (p : EditPlan) (op : Nat) : Option EditOp := (p.ops.filter fun e => e.op == op).getLast?

/-- Bytes the plan removes in front, at most 128 (EOP 1). -/
def EditPlan.strip (p : EditPlan) : Nat := match p.last 1 with | some e => min e.off 128 | none => 0

/-- Bytes of the new-header window put in front (EOP 2): an ELEN outside 1 to 128 is taken as the nearest end, by the model's choice
(log 183). -/
def EditPlan.prepend (p : EditPlan) : Nat := match p.last 2 with | some e => min (max e.len 1) 128 | none => 0

/-- Place of an operation in the edited frame; none where it was stripped. -/
def EditPlan.place (p : EditPlan) (e : EditOp) : Option Nat :=
  if e.base = 1 then some e.off
  else if e.base = 7 then some (p.prepend + e.off)
  else if e.off < p.strip then none else some (p.prepend + (e.off - p.strip))

/-- Octets of the edited frame before the FCS. -/
def EditPlan.length (p : EditPlan) (n : Nat) : Nat := p.prepend + (n - p.strip)

/-- One operation on the edited frame. -/
def EditPlan.step (p : EditPlan) (l : List Byte) (e : EditOp) : List Byte :=
  match p.place e with
  | none => l
  | some o =>
    match e.op with
    | 0 => patchBits l o e.bit e.len e.val.toNat
    | 4 => fixIp4 l o
    | 5 => patchIn l (o + 6) [0, 0]
    | 6 => fixIp4 (patchIn l (o + 2) (beBytes 2 (l.length - o))) o
    | 7 => patchIn l (o + 4) (beBytes 2 (l.length - (o + 40)))
    | 8 => patchIn (patchIn l (o + 4) (beBytes 2 (l.length - o))) (o + 6) [0, 0]
    | _ => l

/-- The edited frame before the residence correction: header window and retained frame, then the patches, then the other
operations in the order of the plan (log 14). -/
def EditPlan.apply (p : EditPlan) (data : List Byte) : List Byte :=
  let l0 := sliceB p.hdr 0 p.prepend ++ data.drop p.strip
  let l1 := (p.ops.filter fun e => e.op == 0).foldl p.step l0
  (p.ops.filter fun e => e.op != 0).foldl p.step l1

/-- Place of the correctionField that the plan reserves (EOP 3). -/
def EditPlan.cf (p : EditPlan) : Option Nat := (p.last 3).bind p.place

end Sys2Proof.Machine
end

