-- ==== Sys2Proof/Machine/Epoch.lean ====
section
/-!
DEFINITION. Machine/Epoch.lean: device epochs (R339 to R342): the request of an epoch, what each of the 88 units needs
before it reports, and the report. An epoch reaches every unit at its acceptance (the spec allows 1 µs; log 8).
-/
namespace Sys2Proof.Machine

/-- PENDING: an epoch change is incomplete. -/
def State.epochPending (s : State) : Bool := s.bit F.SYS_MODE_PENDING 0

/-- REQUESTED: the epoch that stalls latch into frames and aisles take as their newest (R340, R341). -/
def State.newEpoch (s : State) : BitVec 16 := BitVec.ofNat 16 (s.fld F.SYS_EPOCH_REQUESTED 0)

/-- The register of SYS_EPOCH_APPLIED that holds the bit of a unit. -/
def appliedReg (u : Nat) : Reg :=
  if u < 32 then .SYS_EPOCH_APPLIED0 else if u < 64 then .SYS_EPOCH_APPLIED1 else .SYS_EPOCH_APPLIED2

/-- Whether unit `u` has reported REQUESTED. -/
def State.applied (s : State) (u : Nat) : Bool := (s.raw (appliedReg u) 0).getLsbD (u % 32)

/-- Whether every unit has reported. -/
def State.allApplied (s : State) : Bool := (List.range 88).all s.applied

/-- Soft-reset instance of an epoch unit (R27, R321). -/
def unitSoft (u : Nat) : Nat :=
  if u = 84 then unitSwc else if u = 85 then unitSch else if u = 86 then unitPe else if u = 87 then unitTime else u

/-- The 20 µs window of an ingress unit is open (R341). -/
def State.windowOpen (s : State) (u : Nat) : Bool := s.mode.pendLate.contains u

/-- Whether a port's transmit side and scheduler have passed a frame boundary since the request (R340). -/
def State.boundaryPassed (s : State) (p : Nat) : Bool :=
  (s.port p).tx.isNone || (s.port p).lastEp == s.newEpoch || !s.isUp p

/-- Whether a unit holds what R340 asks of it before it reports. -/
def State.unitReady (s : State) (u : Nat) : Bool :=
  let old := fun e : BitVec 16 => e != s.newEpoch
  if s.clk.soft.contains (unitSoft u) then true
  else if u < 64 then
    (!s.windowOpen u || !((s.portsOf u).any fun p => (s.port p).fifo.any fun f => old f.epoch)) &&
      (s.portsOf u).all s.boundaryPassed
  else if u < 80 then
    (s.aisle (u - 64)).fenced || !s.windowOpen u || !(s.pkts.any fun k => k.aisle == u - 64 && !k.frame.fromPe && old k.frame.epoch)
  else if u < 84 then
    !s.windowOpen u || !(s.pkts.any fun k => quarterOf k.frame.port == u - 80 && !k.frame.fromPe && old k.frame.epoch)
  else if u = 85 then s.ports.all fun e => s.boundaryPassed e.1
  else if u = 86 then !s.pe.eng.run && s.pe.eng.disp.isNone && s.pe.eng.fin == 0 && s.pe.romWork.isNone
  else true

/-- A unit reports the requested epoch, if it is incomplete and the unit is ready (R340). -/
def unitReport (u : Nat) : Act :=
  .look fun s =>
    when (s.epochPending && !s.applied u && s.unitReady u)
      (.upd (.reg (appliedReg u) 0 (s.raw (appliedReg u) 0 ||| BitVec.ofNat 32 (2 ^ (u % 32)))))

/-- Σ of the newest epoch (R229). -/
def State.stepSum (s : State) : Int := (s.time.stepLog.head?.map (·.2)).getD 0

/-- Request the next epoch (R339, R340): with the mode it carries and its cause, and the time step it carries. -/
def requestEpoch (tgt : Option Nat) (cause : Nat) (step : Int) : Act :=
  .look fun s =>
    let e := s.newEpoch + 1
    acts [setF F.SYS_EPOCH_REQUESTED 0 e.toNat,
      setB F.SYS_MODE_PENDING 0 true, setF F.SYS_MODE_TARGET 0 (tgt.getD s.opMode),
      setReg .SYS_EPOCH_APPLIED0 0 0, setReg .SYS_EPOCH_APPLIED1 0 0, setReg .SYS_EPOCH_APPLIED2 0 0,
      modMode fun m => { m with
        epochMode := tgt
        epochCause := cause
        pendLate := List.range 84
        epochAt := s.time.words
        drainEp := if tgt = some modeDrain then e else m.drainEp },
      modTime fun t => { t with stepLog := ((e, s.stepSum + step) :: t.stepLog).take 64 },
      each (List.range 16) fun a =>
        acts [modAisle a fun x => { x with parseOld := s.eff .AISLE_PARSE_CFG a }, .upd (.live .AISLE_PARSE_CFG a none)],
      each ((List.range 88).filter fun u =>
        s.clk.soft.contains (unitSoft u) || (decide (64 ≤ u ∧ u < 80) && (s.aisle (u - 64)).fenced)) unitReport]

/-- Effective throttle step (R344). -/
def State.effStep (s : State) : Nat := max (s.fld F.THM_STATUS_STEP 0) (s.fld F.SYS_MODE_REQ_STEP 0)

/-- EPOCH_UNIT_APPLIED (R340): a unit reaches its boundary and reports. -/
def epochUnitApplied (u : Nat) : Act := unitReport u

/-- Whether a unit handles a frame of an older epoch after the window for it (R341): the window of the newest epoch is open only for
frames of the epoch before. -/
def State.lateFor (s : State) (u : Nat) (f : Frame) : Bool :=
  f.epoch != s.newEpoch && (f.epoch != s.newEpoch - 1 || !s.windowOpen u)

/-- Count `n` late packets. -/
def countLate (n : Nat) : Act :=
  each (List.range n) fun _ => acts [addSat F.SYS_EPOCH_LATE_COUNT 0 1, raise F.SYS_MODE_EVT_CAUSE_EPOCH_LATE 0]

/-- A packet handled after the window of its unit is counted once (R341). -/
def lateCheck (u : Nat) (f : Frame) : Act := .look fun s => when (s.lateFor u f && !f.late) (countLate 1)

/-- EPOCH_WINDOW_EXPIRE (R341): the window of an ingress unit closes after 20 µs, and the unit reports whatever it still holds: what an
aisle still holds of an older epoch it handles afterwards, and it is counted. -/
def epochWindowExpire (u : Nat) : Act :=
  .look fun s =>
    when (s.windowOpen u && s.aged s.mode.epochAt 20000) (
      let held := fun k : Packet => k.aisle + 64 == u && !k.frame.fromPe && k.frame.epoch != s.newEpoch && !k.frame.late
      acts [modMode fun m => { m with pendLate := m.pendLate.filter (· != u) },
        countLate (s.pkts.filter held).length,
        modPkts fun l => l.map fun k => if held k then { k with frame := { k.frame with late := true } } else k,
        unitReport u])

def execEpochUnitApplied (u : Fin 88) (s : State) := ok (coreDo (epochUnitApplied u)) s
def execEpochWindowExpire (u : Fin 88) (s : State) := ok (coreDo (epochWindowExpire u)) s

end Sys2Proof.Machine
end

