-- ==== Sys2Proof/Machine/SchedBase.lean ====
section
/-!
DEFINITION. Machine/SchedBase.lean: the tests of the scheduler: token buckets (R207), hours-list gates and the guard (R215,
R216), eligibility and the choice of a queue (R203, R206), and the cut-through test of the switch core (R185).
-/
namespace Sys2Proof.Machine

/-- QT's queue number. -/
def qT : Nat := 8

/-- CLK_CORE cycles (1.6 GHz) since reset, `sub` (2^-16 ns) after the last time word; 128 cycles pass between words. -/
def State.coreNow (s : State) (sub : Nat) : Nat := s.time.words * 128 + sub * 8 / 327680

/-- What a bucket gains in a CLK_CORE cycle, 2^-32 byte (R207). -/
def bucketGain (rate : Nat) : Nat := rate * 2 ^ 32 / 128000

/-- A bucket after some cycles, capped at its burst in bytes (R207). -/
def refill1 (b : Int) (rate burst cycles : Nat) : Int := min (b + ((bucketGain rate * cycles : Nat) : Int)) ((burst * 2 ^ 32 : Nat) : Int)

def qreg (p q : Nat) : Nat := p * 9 + q

/-- A port with its buckets brought up to a cycle (R207). -/
def State.refilled (s : State) (p now : Nat) : PortS :=
  let P := s.port p
  let n := now - P.bktAt
  { P with
    bktAt := max now P.bktAt
    portb := refill1 P.portb (s.fld F.SCH_PORT_RATE_RATE p) (s.fld F.SCH_PORT_BURST_BURST p) n
    queues := (List.range 9).foldl (fun t q =>
      let Q := tabGet t {} q
      let i := qreg p q
      tabPut t {} q { Q with
        minb := refill1 Q.minb (s.fld F.SCH_Q_MIN_RATE i) (64 * s.fld F.SCH_Q_BURST_MIN_BURST i) n
        maxb := refill1 Q.maxb (s.fld F.SCH_Q_MAX_RATE i) (64 * s.fld F.SCH_Q_BURST_MAX_BURST i) n }) P.queues }

/-! ### Gates (R214 to R216, R220) -/

/-- Entries 0 to COUNT - 1 of the active slot. -/
def State.hlList (s : State) (p : Nat) : List HlEntry :=
  let P := s.port p
  let t := if s.bit F.SCH_HL_STATUS_ACTIVE_SLOT p then P.hl1 else P.hl0
  (List.range P.hlCount).map (tabGet t {} ·)

/-- The entry at a position of the cycle, and the ns left in it. -/
def findEntry (l : List HlEntry) (i pos : Nat) : Option (Nat × Nat) :=
  match l with
  | [] => none
  | e :: r => if pos < e.ns then some (i, e.ns - pos) else findEntry r (i + 1) (pos - e.ns)

/-- Position in the cycle of a running list (R215). -/
def hlPos (now base cycle : Nat) : Nat := (((now : Int) - base) % (cycle : Int)).toNat

/-- Current entry of a port's list and the ns left in it; none while no list runs. -/
def State.hlEntry (s : State) (p now : Nat) : Option (Nat × Nat) :=
  if s.bit F.SCH_HL_STATUS_RUNNING p then
    findEntry (s.hlList p) 0 (hlPos now (s.port p).hlBase (s.port p).hlCycle)
  else none

/-- Gates open at a device time in ns (R215), with the QT clearance (R220). -/
def State.gates (s : State) (p now : Nat) : BitVec 9 :=
  let g := match s.hlEntry p now with
    | none => 0x1FF#9
    | some e => ((s.hlList p).getD e.1 {}).gates
  if (s.port p).qtClosed then g &&& 0x100#9 else g

/-- How long the gate of `q` stays open from here over the entries of the list; none if it never closes. -/
def openRun (l : List HlEntry) (q acc : Nat) : Option Nat :=
  match l with
  | [] => none
  | e :: r => if e.gates.getLsbD q then openRun r q (acc + e.ns) else some acc

def State.openFor (s : State) (p q now : Nat) : Option Nat :=
  match s.hlEntry p now with
  | none => none
  | some (i, left) =>
    let l := s.hlList p
    if (l.getD i {}).gates.getLsbD q then openRun (l.drop (i + 1) ++ l.take i) q left else some 0

/-- Wheel positions from the next one to the next visit of a port (R161). -/
def State.visitIn (s : State) (p : Nat) : Nat :=
  ((List.range 528).find? fun d =>
    let i := (s.pe.pos + d) % 528
    i % 33 != 32 && s.portOfLane (32 * (i / 33) + i % 33) == p).getD 0

/-- Nanoseconds from the last time word to the start of the port's next wheel visit (R162). -/
def State.visitNs (s : State) (p : Nat) : Nat := 320 * (s.visitIn p + 1) - (s.time.words - s.pe.posAt) * 80

/-- A PTP transmission of the port is due (work type 6 of R163). -/
def State.ptpDue (s : State) (p : Nat) : Bool := (s.port p).work.any fun w => w.1 == 6

/-- Nanoseconds from the last time word to the closing of Q0 to Q7 for the QT clearance, where one is coming (R220). -/
def State.clearIn (s : State) (p : Nat) : Option Nat :=
  if s.bit F.SCH_PORT_CFG_QT_CLEAR_EN p && s.ptpDue p then some (s.visitNs p - s.fld F.SCH_PORT_CFG_QT_LEAD_NS p) else none

/-- The guard test for a frame of `len` bytes at device time `now16` (2^-16 ns): the gate stays open for the whole frame, and so does the
queue before the QT clearance (R216, R220). -/
def State.guardOk (s : State) (p q now16 len : Nat) : Bool :=
  !s.bit F.SCH_PORT_CFG_GUARD_EN p ||
    ((match s.openFor p q (now16 / 65536) with
      | none => true
      | some t => decide ((len + 20) * 8 * 65536 ≤ (t * 65536 - now16 % 65536) * s.rateGb p)) &&
     (q == 8 || (match s.clearIn p with
      | none => true
      | some t => decide ((len + 20) * 8 * 65536 ≤ (t * 65536 - (now16 - s.now16)) * s.rateGb p))))

/-! ### Buffers as the scheduler sees them -/

/-- Buffer size of a pool (R173). -/
def poolSize (k : Nat) : Nat := if k = 0 then 256 else if k = 1 then 1024 else if k = 2 then 4096 else 10240

/-- Pool of a handle (R175). -/
def poolOf (h : Nat) : Nat := h / 2 ^ 21 % 4

/-- L of R205 for a copy: exact once the last byte is in, else the size of its buffer. -/
def State.copyLen (s : State) (d : Desc) : Nat :=
  let b := s.buf d.handle
  if d.ct && !b.frame.lastIn then poolSize (poolOf d.handle) else min (b.plan.length b.frame.data.length + 4) 10240

/-- The queue is stopped by a received pause (R202). -/
def State.qPaused (s : State) (p q : Nat) : Bool :=
  s.bit F.SCH_Q_CFG_PAUSE_EN (qreg p q) && (s.port p).rxPause.getLsbD (s.fld F.SCH_Q_CFG_PFC_PRIO (qreg p q))

/-- The shapers of the queue and the port allow a frame (R203); `P` holds the buckets brought up to now. -/
def State.shapersOk (s : State) (P : PortS) (p q : Nat) : Bool :=
  (!s.bit F.SCH_Q_CFG_MAX_EN (qreg p q) || decide (0 ≤ (tabGet P.queues {} q).maxb)) &&
    (q == qT || !s.bit F.SCH_PORT_CFG_PSHAPE_EN p || decide (0 ≤ P.portb))

/-- A port that may transmit: UP with hold state NONE (R194). -/
def State.canSend (s : State) (p : Nat) : Bool := s.isUp p && s.fld F.PORT_STATE_HOLD p == 0

/-- eligible(q) of R203 at a device time in 2^-16 ns. -/
def State.eligible (s : State) (P : PortS) (p q now : Nat) : Bool :=
  match (tabGet P.queues {} q).d with
  | [] => false
  | d :: _ =>
    s.canSend p && (d.ct || (s.buf d.handle).frame.lastIn) && (s.gates p (now / 65536)).getLsbD q &&
      s.guardOk p q now (s.copyLen d) && !s.qPaused p q && s.shapersOk P p q

/-- Whether queue `q` (0 to 7) is DWRR (R201). -/
def State.isDwrr (s : State) (p q : Nat) : Bool := decide (q < 8) && s.bit F.SCH_Q_CFG_DWRR (qreg p q)

/-- The next DWRR queue below a queue, wrapping (R206). -/
def State.dwrrBelow (s : State) (p q : Nat) : Nat :=
  (((List.range 8).map fun i => (q + 15 - i) % 8).find? (s.isDwrr p)).getD q

/-- `dwrr_next` of R206. A pointer that names a queue that is not DWRR moves on (log 15). -/
def State.dwrrNext (s : State) (p now : Nat) (fuel : Nat) (P : PortS) : Option Nat × PortS :=
  match fuel with
  | 0 => (none, P)
  | k + 1 =>
    let q := P.ptr
    let adv := fun P : PortS => { P with ptr := s.dwrrBelow p q, fresh := true }
    let Q := tabGet P.queues {} q
    if !s.isDwrr p q then s.dwrrNext p now k (adv P)
    else if Q.d.isEmpty then s.dwrrNext p now k (adv { P with queues := tabPut P.queues {} q { Q with dc := 0 } })
    else
      let Q' := if P.fresh then { Q with dc := min Q.dc 0 + (s.fld F.SCH_Q_CFG_QUANTUM (qreg p q) : Int) } else Q
      let P' := { P with queues := tabPut P.queues {} q Q', fresh := false }
      if s.eligible P' p q now && decide (0 < Q'.dc) then (some q, P') else s.dwrrNext p now k (adv P')

/-- `select` of R203: the queue to send from, whether in the minimum-rate pass, and the port with its round's state. -/
def State.select (s : State) (p now : Nat) (P : PortS) : Option (Nat × Bool) × PortS :=
  let down := [7, 6, 5, 4, 3, 2, 1, 0]
  if s.eligible P p qT now then (some (qT, false), P)
  else
    match down.find? fun q => s.eligible P p q now && s.bit F.SCH_Q_CFG_MIN_EN (qreg p q) && decide (0 ≤ (tabGet P.queues {} q).minb) with
    | some q => (some (q, true), P)
    | none =>
      match down.find? fun q => s.eligible P p q now && !s.isDwrr p q with
      | some q => (some (q, false), P)
      | none =>
        let r := s.dwrrNext p now 8 P
        (r.1.map fun q => (q, false), r.2)

/-- The counters R205 charges for a frame of queue `q`: bit 0 the minimum bucket, 1 the maximum bucket, 2 the port bucket, 3 the
deficit counter. -/
def State.counters (s : State) (p q : Nat) : Nat :=
  let i := qreg p q
  (if q != qT && s.bit F.SCH_Q_CFG_MIN_EN i then 1 else 0) + (if s.bit F.SCH_Q_CFG_MAX_EN i then 2 else 0) +
    (if s.bit F.SCH_PORT_CFG_PSHAPE_EN p then 4 else 0) + (if s.isDwrr p q then 8 else 0)

/-- Add bytes (negative: charge) to counters of a port and its queue `q`. -/
def PortS.credit (P : PortS) (q ctrs : Nat) (bytes : Int) : PortS :=
  let v := bytes * 2 ^ 32
  let Q := tabGet P.queues {} q
  { P with
    portb := if ctrs.testBit 2 then P.portb + v else P.portb
    queues := tabPut P.queues {} q { Q with
      minb := if ctrs.testBit 0 then Q.minb + v else Q.minb
      maxb := if ctrs.testBit 1 then Q.maxb + v else Q.maxb
      dc := if ctrs.testBit 3 then Q.dc + bytes else Q.dc } }

/-- Shaped length less L: the signed overhead of R205. -/
def State.shapeOvh (s : State) (p : Nat) : Int := toSigned 8 (s.fld F.SCH_PORT_CFG_SHAPE_OVH p)

/-- The cut-through test of R185 for a copy to queue `q` of port `p`, in a buffer of `size` bytes. -/
def State.ctOk (s : State) (p q ingress size : Nat) (fromPe : Bool) : Bool :=
  let P := s.refilled p (s.coreNow 0)
  !fromPe && s.bit F.SWC_CFG_CT_EN 0 && s.bit F.SWC_PORT_CFG_CT_EN p &&
    (P.queues.all fun e => e.2.d.isEmpty) && P.tx.isNone &&
    !s.qPaused p q && (s.gates p s.nowNs).getLsbD q && s.guardOk p q s.now16 size && s.shapersOk P p q &&
    s.canSend p && decide (s.rateGb p ≤ s.rateGb ingress)

/-- Depth of a queue in bytes (R184). -/
def State.depth (s : State) (p q : Nat) : Nat :=
  ((tabGet (s.port p).queues {} q).d.map fun d => (s.buf d.handle).len).sum

end Sys2Proof.Machine
end

