-- ==== Sys2Proof/Machine/Buffer.lean ====
section
/-!
DEFINITION. Machine/Buffer.lean: the switch core (R173 to R200): pools and carving, allocation, ownership and frees, the
balances with XOFF and PFC, headroom, and the discard of copies.
-/
namespace Sys2Proof.Machine

/-! ### Sizes and balances (R173, R174, R187) -/

/-- Buffers in a pool of some MiB (R174). -/
def poolBuffers (k mib : Nat) : Nat :=
  if k = 0 then mib * 4096 else if k = 1 then mib * 1024 else if k = 2 then mib * 256 else mib * 1048576 / 10240

def State.poolTotal (s : State) (k : Nat) : Nat := s.fld F.SWC_POOL_TOTAL_BUFFERS k
def State.poolFree (s : State) (k : Nat) : Nat := s.fld F.SWC_POOL_FREE_FREE k
def State.poolRsv (s : State) (k : Nat) : Nat := s.fld F.SWC_POOL_RSV_PE_RSV k
def State.carved (s : State) : Bool := s.bit F.SWC_STATUS_CARVED 0

/-- Buffers of a pool the protocol engine holds. -/
def State.peHeld (s : State) (k : Nat) : Nat := (s.bufs.filter fun e => e.2.st != 0 && e.2.byPe && poolOf e.1 == k).length

/-- Protocol engine use of the shared region: what it holds beyond each reserve (R179). -/
def State.peShared (s : State) : Nat := ((List.range 4).map fun k => (s.peHeld k - s.poolRsv k) * poolSize k).sum

def PortS.sh (P : PortS) (i : Nat) : Nat := tabGet P.usedSh 0 i
def PortS.hr (P : PortS) (i : Nat) : Nat := tabGet P.usedHr 0 i
def PortS.hd (P : PortS) (i : Nat) : Nat := tabGet P.hdrm 0 i

/-- Headroom a port holds reserved: a lowered reservation falls as USED_HR falls (R191). -/
def PortS.reserved (P : PortS) : Nat := ((List.range 8).map fun i => max (P.hd i) (P.hr i)).sum

def State.hdrmReserved (s : State) : Nat := (s.ports.map fun e => e.2.reserved).sum

/-- pool_bytes less the reserves of R187. -/
def State.poolBytes (s : State) : Int :=
  ((List.range 4).map fun k => ((s.poolTotal k * poolSize k : Nat) : Int) - ((s.poolRsv k * poolSize k : Nat) : Int)).sum

def State.sharedSize (s : State) : Int := s.poolBytes - s.hdrmReserved

def State.sharedFree (s : State) : Int :=
  s.sharedSize - ((s.ports.map fun e => ((List.range 8).map e.2.sh).sum).sum : Nat) - s.peShared

/-- threshold of R187. -/
def State.newThreshold (s : State) : Nat :=
  min (s.fld F.SWC_CFG_XOFF_MAX_MIB 0 * 1048576) (s.sharedFree.toNat / 2 ^ s.fld F.SWC_CFG_ALPHA 0)

/-- SWC_SHARED_FREE and HDRM_MIB follow the balances (R197). -/
def syncSwc : Act :=
  .look fun s => acts [setF F.SWC_SHARED_FREE_BYTES 0 s.sharedFree.toNat,
    setF F.SWC_STATUS_HDRM_MIB 0 ((s.hdrmReserved + 1048575) / 1048576)]

/-! ### XOFF and PFC (R39, R188 to R190) -/

def State.xoff (s : State) (p i : Nat) : Bool := (s.fld F.SWC_PORT_STATE_XOFF p).testBit i

/-- Bytes a frame takes in a receive FIFO, FCS included. -/
def Frame.size (f : Frame) : Nat := f.data.length + 4

/-- Fill of a port's receive FIFO (R190). -/
def State.fifoFill (s : State) (p : Nat) : Nat := ((s.port p).fifo.map Frame.size).sum

/-- Priorities on which the stall is to hold a standing pause (R189, R190). -/
def State.pfcWant (s : State) (p : Nat) : BitVec 8 :=
  let x := if s.bit F.SWC_PORT_STATE_FIFO_XOFF p then 255 else s.fld F.SWC_PORT_STATE_XOFF p
  BitVec.ofNat 8 x &&& BitVec.ofNat 8 (s.fld F.PORT_CFG_PFC_EN p)

/-- The pause time that the stall advertises, in quanta (R189, R190). -/
def pfcTime : Nat := 0xFFFF

/-- One PFC frame carries every priority that changes (R189); a port that is not UP sends nothing and keeps no pause standing. -/
def pfcSync (p : Nat) : Act :=
  .look fun s =>
    if !s.isUp p then modPort p fun P => { P with txPfc := 0 }
    else
      let want := s.pfcWant p
      let vec := want ^^^ (s.port p).txPfc
      when (vec != 0) (acts [emit (.pfc p vec (want &&& vec) pfcTime), count 0x11 (2 * p + 1) 3 1,
        modPort p fun P => { P with
          txPfc := want, bwTx := P.bwTx + 84, actAt := P.seen s.time.words
          pfcSent := (List.range 8).foldl (fun t i => if (want &&& vec).getLsbD i then tabPut t 0 i s.time.words else t) P.pfcSent }])

/-- XOFF of a port and priority follows its balances (R188). A lane position that starts no port keeps its registers (R199). -/
def xoffEval (p i : Nat) : Act :=
  .look fun s =>
    let P := s.port p
    let set := fun b : Bool => setF ⟨.SWC_PORT_STATE, 20 + i, 1⟩ p (if b then 1 else 0)
    if s.starts p = false then .skip
    else if s.swc.thresh ≤ P.sh i then set true
    else when (P.hr i == 0 && decide (P.sh i + 2 * 10240 ≤ s.swc.thresh)) (set false)

/-- The FIFO level acts on PFC (R190), where a port starts (R199). -/
def fifoLevel (p : Nat) : Act :=
  .look fun s =>
    let f := s.fifoFill p
    let w := s.width p
    if s.starts p = false then .skip
    else if w * 8192 ≤ f then acts [setB F.SWC_PORT_STATE_FIFO_XOFF p true, pfcSync p]
    else when (decide (f < w * 4096)) (acts [setB F.SWC_PORT_STATE_FIFO_XOFF p false, pfcSync p])

/-- THRESHOLD_RECOMPUTE (R187, R188): every 64 CLK_BUF cycles; the switch core reports an epoch at this boundary (R340). -/
def thresholdRecompute : Act :=
  .look fun s =>
    acts [when (s.carved && !s.clk.soft.contains unitSwc) (acts [
        modSwc fun w => { w with thresh := s.newThreshold },
        each ((List.range 512).filter fun p =>
          s.starts p && (s.newThreshold == 0 || !(s.port p).usedSh.isEmpty || s.fld F.SWC_PORT_STATE_XOFF p != 0)) fun p =>
          acts [each (List.range 8) (xoffEval p), pfcSync p]]),
      unitReport 84]

/-! ### Headroom (R191, R192) -/

/-- Enabled PFC priorities of a port. -/
def State.pfcPrios (s : State) (p : Nat) : List Nat := (List.range 8).filter fun i => (s.fld F.PORT_CFG_PFC_EN p).testBit i

/-- h_line of R191 for a one-way delay `d` in 2^-16 ns. -/
def State.hLine (s : State) (p d : Nat) : Nat :=
  let fly := s.rateGb p * (2 * d + (400 + 10 * s.fld F.SWC_PORT_CFG_PEER_RESP p) * 65536)
  let h := (fly + 8 * 65536 - 1) / (8 * 65536) + (10240 + 20) + (s.fld F.SWC_PORT_CFG2_PEER_MTU p + 20) + 84
  (h + 255) / 256 * 256

/-- Size the headroom of a port with a delay (R191, R192); `est` says the delay is provisional. -/
def sizePort (p d : Nat) (est : Bool) : Act :=
  .look fun s =>
    let line := s.hLine p d
    let full := line * s.fld F.SWC_CFG_HDRM_FACTOR 0 / 4
    let prios := s.pfcPrios p
    let n := prios.length
    let room := s.poolBytes - ((s.hdrmReserved - (s.port p).reserved : Nat) : Int) - ((s.fld F.SWC_CFG_SHARED_MIN_MIB 0 * 1048576 : Nat) : Int)
    let fits := decide (((n * full : Nat) : Int) ≤ room)
    let each1 := if n = 0 then 0 else if fits then full else min full (room.toNat / (256 * n) * 256)
    let fifoOk := decide (line ≤ s.width p * (96 - 8) * 1024)
    acts [modPort p fun P => { P with hdrm := if each1 = 0 then [] else prios.map fun i => (i, each1), sizeD := d },
      setB F.SWC_PORT_STATE_DELAY_EST p est,
      setB F.SWC_PORT_STATE_HDRM_OK p fits, setB F.SWC_PORT_STATE_FIFO_OK p fifoOk,
      setF F.SWC_PORT_HDRM_D_NS p (min (d / 65536) 65535), setF F.SWC_PORT_HDRM_HDRM_KIB p (each1 / 1024),
      when (!fits) (raise F.SWC_EVT_CAUSE_HDRM_SHORT (aisleOf p)),
      when (!fifoOk) (raise F.SWC_EVT_CAUSE_FIFO_SHORT (aisleOf p)), syncSwc]

/-- Release the reservations of a port whose hold state returns to NONE while it is not UP (R191). -/
def releaseHdrm (p : Nat) : Act :=
  .look fun s => when (!s.isUp p) (acts [modPort p fun P => { P with hdrm := [] },
    when (s.starts p) (setF F.SWC_PORT_HDRM_HDRM_KIB p 0), syncSwc])

/-- The reservations of a port follow PFC_EN (R191), whose enabled priorities were `old`: a priority that is no longer enabled releases its
own; one newly enabled while the port is UP or HELD makes the switch core size the port again, with the delay of the last sizing
(log 131). A lane position that starts no port keeps its registers (R199). -/
def followPfcEn (p : Nat) (old : List Nat) : Act :=
  .look fun s =>
    let on := s.pfcPrios p
    let live := s.isUp p || s.fld F.PORT_STATE_HOLD p == 1
    when (s.starts p) (acts [modPort p fun P => { P with hdrm := P.hdrm.filter fun e => on.contains e.1 },
      if live && on.any fun i => !old.contains i then
        sizePort p (s.port p).sizeD (s.bit F.SWC_PORT_STATE_DELAY_EST p)
      else acts [when on.isEmpty (setF F.SWC_PORT_HDRM_HDRM_KIB p 0), syncSwc],
      pfcSync p])

/-! ### Frees (R183) -/

/-- Buffers that aisles have allocated and that are not yet FREE (R349). -/
def State.aisleBufs (s : State) : Nat := (s.bufs.filter fun e => e.2.st != 0 && !e.2.byPe).length

/-- DRAIN_EMPTY, once in each stay in DRAIN (R349). -/
def drainCheck : Act :=
  .look fun s =>
    when (s.opMode == modeDrain && !s.bit F.SYS_MODE_DRAIN_EMPTY 0 && s.aisleBufs == 0)
      (acts [setB F.SYS_MODE_DRAIN_EMPTY 0 true, raise F.SYS_MODE_EVT_CAUSE_DRAIN_EMPTY 0])

/-- A buffer becomes FREE: it returns to its pool and its charge is removed, headroom first (R183, R187, R188). -/
def becomeFree (h : Nat) : Act :=
  .look fun s =>
    let b := s.buf h
    let k := poolOf h
    let i := b.chgPrio
    let P := s.port b.chgPort
    let fromHr := min (P.hr i) (poolSize k)
    acts [.upd (.buf h { gen := b.gen, ownPort := b.ownPort, ownQ := b.ownQ }), perfEvent pbSwc 2 none 1,
      setF F.SWC_POOL_FREE_FREE k (s.poolFree k + 1), modSwc fun w => { w with freeAt := s.time.words },
      when (!b.byPe) (acts [
        modPort b.chgPort fun P => { P with
          usedHr := tabPut P.usedHr 0 i (P.hr i - fromHr)
          usedSh := tabPut P.usedSh 0 i (P.sh i - (poolSize k - fromHr)) },
        xoffEval b.chgPort i, pfcSync b.chgPort]),
      syncSwc, drainCheck]

/-- Capture of an illegal free (R183, R198). -/
def illegalFree (p q h kind : Nat) : Act :=
  .look fun s =>
    let b := s.buf h
    acts [raise F.SWC_EVT_CAUSE_ILLEGAL_FREE (aisleOf p), count 0x38 0x300000 0 1,
      when (!s.bit F.SWC_ILLFREE_CAP0_VALID 0) (acts [
        setReg .SWC_ILLFREE_CAP0 0 (BitVec.ofNat 32 (2 ^ 31 + kind * 2 ^ 28 + h)),
        setReg .SWC_ILLFREE_CAP1 0 (BitVec.ofNat 32 (b.ownPort * 2 ^ 17 + b.ownQ * 2 ^ 13 + p * 2 ^ 4 + q))])]

/-- A legal free of one copy returns its descriptor (R180). -/
def freeDesc : Act := .look fun s => setF F.SWC_DESC_FREE_FREE 0 (min (s.fld F.SWC_DESC_FREE_FREE 0 + 1) 1048576)

/-- A free request (R183). -/
def freeReq (p q h : Nat) (gen : BitVec 4) (final : Bool) : Act :=
  .look fun s =>
    let b := s.buf h
    if b.st = 0 then illegalFree p q h 0
    else if b.gen ≠ gen then illegalFree p q h 4
    else if final then
      if ¬ (b.ownPort = p ∧ b.ownQ = q) then illegalFree p q h 1
      else if b.st = 2 then illegalFree p q h 3
      else if b.sharers = 0 then acts [freeDesc, becomeFree h]
      else acts [freeDesc, modBuf h fun b => { b with st := 2 }]
    else if b.sharers = 0 then illegalFree p q h 2
    else
      acts [freeDesc, modBuf h fun b => { b with sharers := b.sharers - 1 },
        when (b.sharers == 1 && b.st == 2) (becomeFree h)]

/-- The copy a descriptor names is discarded: it frees at once. -/
def dropCopy (p q : Nat) (d : Desc) : Act := freeReq p q d.handle d.gen d.final

/-- Discard every copy of a buffer that still stands in a queue; copies in transmission go on (R29). -/
def dropQueued (h : Nat) : Act :=
  .look fun s =>
    each (s.ports.filter fun e => e.2.queues.any fun x => x.2.d.any (·.handle == h)) fun e =>
      each (e.2.queues.filter fun x => x.2.d.any (·.handle == h)) fun x =>
        acts [modPort e.1 fun P =>
            let Q := tabGet P.queues {} x.1
            { P with queues := tabPut P.queues {} x.1 { Q with d := Q.d.filter (·.handle != h) } },
          each (x.2.d.filter (·.handle == h)) (dropCopy e.1 x.1)]

/-- A buffer's frame is longer than the buffer: it is cut at the buffer size and marked bad in its FCS (R177). -/
def truncateAt (h : Nat) : Act :=
  .look fun s =>
    let b := s.buf h
    let size := poolSize (poolOf h)
    when (b.frame.lastIn && decide (size < b.frame.size) && !b.truncd)
      (acts [modBuf h fun b => { b with truncd := true, len := size, frame := { b.frame with data := b.frame.data.take (size - 4) } },
        count 0x38 b.frame.port 0 1, raise F.SWC_EVT_CAUSE_TRUNCATED (aisleOf b.frame.port)])

/-! ### Allocation (R176 to R182, R188) -/

/-- The pool a packet asks for (R176). -/
def Packet.pool (k : Packet) : Nat :=
  if k.frame.lastIn then ((List.range 4).find? fun i => decide (k.frame.size ≤ poolSize i)).getD 3 else k.cls

/-- Whether a requester sees a pool as empty (R178, R179). -/
def State.poolEmpty (s : State) (aisle : Bool) (k : Nat) : Bool :=
  if aisle then decide (s.poolFree k ≤ s.poolRsv k) else s.poolFree k == 0

/-- The first free index of a pool at or after `i`, wrapping. -/
def freeIndex (used : List Nat) (total i fuel : Nat) : Nat :=
  match fuel with
  | 0 => i
  | f + 1 => if used.contains i then freeIndex used total ((i + 1) % total) f else i

/-- The index granted in a pool: the free list's order is not stated, so the command names it (`pick`; log 12). -/
def State.pickIndex (s : State) (k pick : Nat) : Nat :=
  let used := (s.bufs.filter fun e => e.2.st != 0 && poolOf e.1 == k).map fun e => e.1 % 2 ^ 21
  let total := max (s.poolTotal k) 1
  freeIndex used total (pick % total) (used.length + 1)

/-- The packet of a waiting request. -/
def State.packet (s : State) (fid : Nat) : Option Packet := s.pkts.find? fun k => k.frame.fid == fid

/-- A request waits, for a buffer or for descriptors: each wait is counted and reported once (R178, R180). -/
def noteWait (r : AllocReq) (k : Nat) (pool desc : Bool) : Act :=
  acts [modSwc fun w => { w with waits := w.waits.map fun x =>
      if x.fid = r.fid then { x with told := x.told || pool, toldDesc := x.toldDesc || desc } else x },
    when (pool && !r.told) (acts [count 0x38 (0x200000 + k) 1 1,
      (match r.aisle with | some a => raise F.SWC_EVT_CAUSE_POOL_WAIT a | none => .skip)]),
    when (desc && !r.toldDesc) (match r.aisle with | some a => raise F.SWC_EVT_CAUSE_DESC_WAIT a | none => .skip)]

/-- Enqueue a packet's copies in the buffer granted (R181, R182, R185); a frame for the protocol engine waits there. -/
def enqueueCopies (k : Packet) (h : Nat) (gen : BitVec 4) : Act :=
  let last := k.dests.getLastD 0
  each k.dests fun d =>
    .look fun s =>
      let ct := s.ctOk d k.queue k.frame.port (poolSize (poolOf h)) k.frame.fromPe
      acts [when ct (modSwc fun w => { w with cycCt := w.cycCt + 1 }),
        modPort d fun P =>
          let Q := tabGet P.queues {} k.queue
          { P with queues := tabPut P.queues {} k.queue { Q with d := Q.d ++ [{ handle := h, gen := gen, final := d == last, ct := ct }] } }]

/-- Grant a buffer of pool `k` to a request (R178 to R182, R187, R188). -/
def grant (r : AllocReq) (pkt : Packet) (k pick : Nat) : Act :=
  .look fun s =>
    let h := k * 2 ^ 21 + s.pickIndex k pick
    let gen := (s.buf h).gen + 1
    let pe := pkt.toPe.isSome
    let n := if pe then 1 else pkt.dests.length
    let p := pkt.frame.port
    let i := pkt.prio
    let hr := r.aisle.isSome && s.xoff p i
    acts [.upd (.buf h {
        st := 1, gen := gen
        ownPort := if pe then p else pkt.dests.getLastD 0
        ownQ := if pe then 9 else pkt.queue
        sharers := n - 1
        len := max 64 (if pkt.frame.lastIn then min pkt.frame.size (poolSize k) else 64)
        frame := pkt.frame, pkt := pkt.inner.getD pkt.parsed, plan := pkt.planned.getD {}
        chgPort := p, chgPrio := i, byPe := r.aisle.isNone }),
      modSwc fun w => { w with
        cycAlloc := w.cycAlloc + 1
        cycBytes := w.cycBytes + (if pkt.frame.lastIn then min pkt.frame.size (poolSize k) else 0)
        cycEsc := w.cycEsc + (if pkt.pool < k then 1 else 0) },
      setF F.SWC_POOL_FREE_FREE k (s.poolFree k - 1),
      when (decide (s.poolFree k - 1 < s.fld F.SWC_POOL_LOW_LOW k)) (setF F.SWC_POOL_LOW_LOW k (s.poolFree k - 1)),
      setF F.SWC_DESC_FREE_FREE 0 (s.fld F.SWC_DESC_FREE_FREE 0 - n),
      when (decide (pkt.pool < k)) (acts [count 0x38 (0x200000 + pkt.pool) 0 1,
        (match r.aisle with | some a => raise F.SWC_EVT_CAUSE_POOL_ESCALATE a | none => .skip)]),
      when r.aisle.isSome (acts [
        modPort p fun P =>
          if hr then { P with usedHr := tabPut P.usedHr 0 i (P.hr i + poolSize k) }
          else { P with usedSh := tabPut P.usedSh 0 i (P.sh i + poolSize k) },
        xoffEval p i, pfcSync p]),
      modPkts fun l => l.filter fun x => x.frame.fid != r.fid,
      modSwc fun w => { w with waits := w.waits.filter fun x => x.fid != r.fid },
      truncateAt h, enqueueCopies pkt h gen, syncSwc]

/-- Serve one request, or let it wait (R178, R180, R188). An earlier request of an aisle that waits for the same pool goes first, and so
does an earlier frame of the same ingress port, since the aisle's input stalls behind it (R28, R178). -/
def serve (r : AllocReq) (pick : Nat) : Act :=
  .look fun s =>
    match s.packet r.fid with
    | none => modSwc fun w => { w with waits := w.waits.filter fun x => x.fid != r.fid }
    | some pkt =>
      let k0 := pkt.pool
      let aisle := r.aisle.isSome
      let ahead := aisle && ((s.swc.waits.takeWhile (·.fid != r.fid)).any fun x =>
        x.aisle.isSome && ((s.packet x.fid).any fun y => y.pool == k0 || y.frame.port == pkt.frame.port))
      let n := if pkt.toPe.isSome then 1 else pkt.dests.length
      let descs := s.fld F.SWC_DESC_FREE_FREE 0
      if pkt.frame.lastIn && !pkt.frame.fcsOk && aisle then
        acts [modPkts fun l => l.filter fun x => x.frame.fid != r.fid,
          modSwc fun w => { w with waits := w.waits.filter fun x => x.fid != r.fid }]
      else
        let short := decide (descs < n + (if aisle then 4096 else 0))
        match (List.range 4).find? fun k => decide (k0 ≤ k) && !s.poolEmpty aisle k with
        | none => noteWait r k0 true short
        | some k =>
          let p := pkt.frame.port
          let ok :=
            !aisle ||
              (if s.xoff p pkt.prio then decide ((s.port p).hr pkt.prio + poolSize k ≤ (s.port p).hd pkt.prio)
               else decide ((poolSize k : Int) ≤ s.sharedFree))
          if ahead || !ok || short then noteWait r k0 (ahead || !ok) short else grant r pkt k pick

/-- Rank of a request among those of its cycle (R178). -/
def AllocReq.rank (r : AllocReq) (rot : Nat) : Nat := match r.aisle with | some a => (a + 16 - rot) % 16 | none => 16

/-- Insert a request by rank, after those of equal rank. -/
def rankInsert (rot : Nat) (r : AllocReq) (l : List AllocReq) : List AllocReq :=
  match l with
  | [] => [r]
  | x :: t => if r.rank rot < x.rank rot then r :: x :: t else x :: rankInsert rot r t

/-- Post a packet's request for a buffer (R176, R178). -/
def askBuffer (fid : Nat) (aisle : Option Nat) : Act :=
  modSwc fun w => { w with waits := w.waits ++ [{ fid := fid, arrived := w.cyc, aisle := aisle }] }

/-- What the switch core's PERF block counts of a CLK_BUF cycle of grants, as the values of that one cycle (R441, R444). -/
def cycleCounts : Act :=
  .look fun s =>
    let w := s.swc
    acts [when (decide (0 < w.cycAlloc)) (perfEvent pbSwc 1 none w.cycAlloc), when (decide (0 < w.cycBytes)) (perfBytes pbSwc 3 none w.cycBytes 12288),
      when (decide (0 < w.cycCt)) (perfEvent pbSwc 5 none w.cycCt), when (decide (0 < w.cycEsc)) (perfEvent pbSwc 6 none w.cycEsc),
      modSwc fun w => { w with cycAlloc := 0, cycBytes := 0, cycCt := 0, cycEsc := 0 }]

/-- BUFFER_ALLOCATE (R178): one CLK_BUF cycle. The requests of the cycle are ranked after the older ones, and each is served in
turn; `picks` names the free index that each grant takes. -/
def bufferAllocate (picks : List Nat) : Act :=
  .look fun s =>
    when (s.carved && !s.clk.soft.contains unitSwc) (
      let old := s.swc.waits.filter fun r => r.arrived != s.swc.cyc
      let new := (s.swc.waits.filter fun r => r.arrived == s.swc.cyc).foldl (fun l r => rankInsert s.swc.rot r l) []
      let order := old ++ new
      acts [modSwc fun w => { w with waits := order },
        each order.zipIdx fun r => serve r.1 (picks.getD r.2 0), cycleCounts,
        modSwc fun w => { w with rot := (w.rot + 1) % 16, cyc := w.cyc + 1 }])

/-! ### Carving (R174, R175) -/

/-- Why the sizes of SWC_POOL_CFG break a rule of R174. -/
def State.carveBad (s : State) : Bool :=
  let z := fun k => s.fld F.SWC_POOL_CFG_SIZE_MIB k
  decide (288 < z 0 + z 1 + z 2 + z 3) || z 3 == 0

/-- Whether every buffer is free. -/
def State.allFree (s : State) : Bool := s.bufs.all fun e => e.2.st == 0

/-- Carve with the present SWC_POOL_CFG (R174). -/
def carveNow : Act :=
  .look fun s =>
    if s.carveBad then acts [setB F.SWC_STATUS_CARVE_ERR 0 true, raise F.SWC_EVT_CAUSE_REJECTED 0, noteTurned]
    else
      acts [setB F.SWC_STATUS_CARVE_ERR 0 false, setB F.SWC_STATUS_CARVED 0 true,
        each (List.range 4) (fun k =>
          let n := poolBuffers k (s.fld F.SWC_POOL_CFG_SIZE_MIB k)
          acts [setF F.SWC_POOL_TOTAL_BUFFERS k n, setF F.SWC_POOL_FREE_FREE k n, setF F.SWC_POOL_LOW_LOW k n]),
        .look fun s => modSwc fun w => { w with thresh := s.newThreshold }, syncSwc]

/-- CARVE (R175): a write of SWC_CTL. One that is rejected has no effect (R11) and does not count as written. -/
def carve (req : Req) (value : Word) : Act :=
  onWrite req .SWC_CTL 0 fun rq =>
    when (value.getLsbD 0) (.look fun s =>
      if (s.opMode = modeSetup ∨ s.opMode = modeProving) ∧ s.allFree then acts [modSwc fun w => { w with carveWr := true }, carveNow]
      else reject3 .swc rq .SWC_CTL 0)

/-- QUEUE_DEPTH_PUBLISH (R184): every queue's depth, for adaptive balancing. -/
def queueDepthPublish : Act :=
  .look fun s =>
    let t := (s.ports.map fun e => (e.2.queues.filterMap fun x =>
      let d := s.depth e.1 x.1
      if d = 0 then none else some (e.1 * 9 + x.1, d))).flatten
    each (List.range 4) fun q => modQtr q fun Q => { Q with depthPub := t }

def execThresholdRecompute (s : State) := ok (coreDo thresholdRecompute) s
def execQueueDepthPublish (s : State) := ok (coreDo queueDepthPublish) s
def execBufferAllocate (picks : List Nat) (s : State) := ok (coreDo (bufferAllocate picks)) s
def execCarve (req : Req) (value : Word) (s : State) := ok (carve req value) s

end Sys2Proof.Machine
end

