-- ==== Sys2Proof/Machine/PeBase.lean ====
section
/-!
DEFINITION. Machine/PeBase.lean: what other blocks ask of the protocol engine: pending work items (R163), frames it
originates (R179), and messages to Zolliwin (R163).
-/
namespace Sys2Proof.Machine

/-- Work types (R163). -/
def wtPtpEvent : Nat := 1
def wtPtpGeneral : Nat := 2
def wtBfdRx : Nat := 3
def wtLldpRx : Nat := 4
def wtEsmcRx : Nat := 5
def wtPtpTx : Nat := 6
def wtBfdTx : Nat := 7
def wtLldpTx : Nat := 8
def wtEsmcTx : Nat := 9
def wtTallyTx : Nat := 10
def wtBfdExpire : Nat := 11
def wtPortState : Nat := 14
def wtException : Nat := 15

/-- Work types in the order of their ranks (R163); 0, a frame for the host, stands last. -/
def workRanks : List Nat := [14, 1, 3, 11, 6, 7, 2, 5, 9, 15, 4, 8, 10, 0]

/-- Modes in which the protocol engine runs (R330). -/
def State.peRuns (s : State) : Bool :=
  [modeOpen, modeLean, modeDrain, modeSealed].contains s.opMode && !s.halted && !s.clk.soft.contains unitPe && s.pe.mc.running

/-- Key of the engine's own timer for a transmission: work type and item index (R163). -/
def txKey (ty idx : Nat) : Nat := ty * 2 ^ 17 + idx

/-- Make a work item pending on a port; an item that is already pending stays as it is. -/
def postWork (p ty idx flags : Nat) : Act :=
  modPort p fun P =>
    if P.work.any fun w => w.1 == ty && w.2.1 == idx then P else { P with work := P.work ++ [(ty, idx, flags)] }

/-- A frame the protocol engine originates: it asks for a buffer as every frame does, and is charged to the engine (R179). Its
octets are given before the FCS, padded to the least length. A port that takes no frames flushes its copy before allocation (R194). -/
def peSendTo (p q : Nat) (data : List Byte) (parsed : Parsed) (dst : PtpTo) : Act :=
  .look fun s =>
    let body := data ++ List.replicate (60 - data.length) 0
    let f : Frame := { fid := s.fidNext, port := p, data := body, tIn := s.now16, epoch := s.newEpoch, lastIn := true, fcsOk := true, fromPe := true, dst := dst }
    let hold := s.fld F.PORT_STATE_HOLD p
    if hold = 2 ∨ (!s.isUp p ∧ hold = 0) then acts [count 0x38 p 3 1, perfEvent pbSwc 12 (some p) 1, raise F.SWC_EVT_CAUSE_FLUSHED (aisleOf p)]
    else acts [.upd .fid, modPkts fun l => l ++ [{ frame := f, parsed := parsed, queue := q, dests := [p] }], askBuffer f.fid none]

/-- A frame that is no PTP message. -/
def peSend (p q : Nat) (data : List Byte) (parsed : Parsed) : Act := peSendTo p q data parsed {}

/-- A message to Zolliwin, which takes it at once while it runs its firmware (log 144); else it waits in the queue, and where the queue
is full it is lost and counted (R163). -/
def postMsg (kind : Nat) (words : List Word) : Act :=
  .look fun s =>
    if s.zolOn then emit (.zolMsg kind words)
    else if 1024 ≤ s.pe.msgq.length then acts [count 0x1B 33 1 1, raisePe peMsgqFull]
    else modPe fun P => { P with msgq := P.msgq ++ [(kind, words)] }

/-- Zolliwin runs its firmware and takes the messages that have waited, oldest first. -/
def takeMsgs : Act :=
  .look fun s => acts [each s.pe.msgq fun m => emit (.zolMsg m.1 m.2), modPe fun P => { P with msgq := [] }]

end Sys2Proof.Machine
end

