-- ==== Sys2Proof/Machine/TimeCal.lean ====
section
/-!
DEFINITION. Machine/TimeCal.lean: device time and its distribution (R227, R228), lane delays and their calibration (R231 to
R235), and the link delay measurement (R236).
-/
namespace Sys2Proof.Machine

/-! ### Lane delays (R231, R232) -/

/-- The components of a lane in use: D_PKG, D_ANA, D_FIFO, D_PIPE; nominal values until the first commit (R234). -/
def State.laneDelays (s : State) (l : Nat) (rx : Bool) : List Nat :=
  let c := if rx then (s.lane l).rx else (s.lane l).tx
  if c.isEmpty then
    Config.pkgDelay l rx :: (List.range 3).map (Config.nominalDelay (s.fld F.STALL_CFG_LANE_RATE (l / 8)) rx)
  else c

/-- Sum of the components of a lane (R232). -/
def State.laneDelay (s : State) (l : Nat) (rx : Bool) : Nat := (s.laneDelays l rx).sum

/-! ### The recalibrating mark (R235) -/

/-- Calibration states (R243). -/
def calIdle : Nat := 0
def calNominal : Nat := 1
def calMeasure : Nat := 2
def calCommit : Nat := 3
def calFailed : Nat := 4

/-- Whether the timestamps of a direction of a port carry the mark (R228, R235): bit 0 receive, 1 transmit. After a commit a direction
keeps it until it takes its new values. -/
def State.markedDir (s : State) (p bit : Nat) : Bool :=
  (s.port p).calDue || (s.port p).calWait.testBit bit || s.fld F.TIME_PORT_CAL_STATUS_CAL_STATE p == calFailed || !(s.port p).retunes.isEmpty ||
    (s.stall (stallOf p)).distBad

/-- Whether any of a port's timestamps carry the mark. -/
def State.marked (s : State) (p : Nat) : Bool := s.markedDir p 0 || s.markedDir p 1

/-- Both RECAL bits follow the mark. -/
def syncRecal (p : Nat) : Act :=
  .look fun s => acts [setB F.PORT_STATE_RECAL p (s.marked p), setB F.TIME_PORT_CAL_STATUS_RECAL p (s.marked p)]

/-- A calibration starts on a port that is UP (R234 step 1); until the first commit CAL_STATE reads NOMINAL. -/
def calStart (p trig : Nat) : Act :=
  .look fun s =>
    when (s.isUp p) (acts [
      setF F.TIME_PORT_CAL_STATUS_LAST_TRIGGER p trig,
      setF F.TIME_PORT_CAL_STATUS_CAL_STATE p (if (s.port p).calOk then calMeasure else calNominal),
      modPort p fun P => { P with calDue := true, calRerun := false, calWait := 0 }, syncRecal p])

/-- Start a calibration on every UP port of a list (R234). -/
def calStartAll (ports : List Nat) (trig : Nat) : Act := each ports fun p => calStart p trig

/-- Reading of the sensor nearest a stall, 0.125 °C (R411). -/
def State.nearTemp (s : State) (st : Nat) : Int := toSigned 12 (s.fld F.THM_SENSOR_TEMP (st / 2))

/-- A distribution is calibrated again once every UP port of the stall has calibrated (R228). -/
def distSettle (st : Nat) : Act :=
  .look fun s =>
    when ((s.stall st).distBad && (s.stall st).distOk && (s.portsOf st).all fun p => !(s.port p).distPend)
      (acts [modStall st fun x => { x with distBad := false }, each (s.portsOf st) syncRecal])

/-! ### Inputs of the DPLL (R257) -/

/-- Port of the lane whose clock REC0 (input 3) or REC1 (input 4) recovers. -/
def State.recPort (s : State) (i : Nat) : Nat :=
  s.portOfLane (s.fld (if i = 3 then F.TIME_DPLL_SRC_REC0_LANE else F.TIME_DPLL_SRC_REC1_LANE) 0)

/-- A span without loss of input i + 1 begins; until it is long enough the input is not qualified. -/
def inputSpan (i : Nat) : Act :=
  .look fun s => acts [modTime fun t => { t with inAt := tabPut t.inAt 0 i s.time.words },
    setF F.TIME_DPLL_STATUS_QUAL 0 (s.fld F.TIME_DPLL_STATUS_QUAL 0 &&& (15 - 2 ^ i))]

/-- A loss of input i + 1 is detected (R257). -/
def inputLost (i : Nat) : Act := acts [modTime fun t => { t with inHad := tabPut t.inHad false i true }, inputSpan i]

/-- The recovered clock of a port begins, or is lost (R257). -/
def recClock (p : Nat) (lost : Bool) : Act :=
  .look fun s => each ([2, 3].filter fun i => s.recPort (i + 1) == p) fun i => if lost then inputLost i else inputSpan i

/-- Entry to UP: nominal values until the first commit, and trigger 1 (R234). -/
def calEnterUp (p : Nat) : Act :=
  .look fun s =>
    acts [each (s.lanesOf p) fun l => modLane l fun x => { x with rx := [], tx := [] },
      setF F.TIME_PORT_CAL_STATUS_CAL_STATE p calNominal, setB F.TIME_PORT_CAL_STATUS_DLY_VALID p false,
      modPort p fun P => { P with
        probed := false, probing := false, probeOut := false, dlyVals := [], dlyLast3 := [], pdRes := none, calOk := false },
      recClock p false, calStart p 1]

/-- Exit from UP: a calibration is abandoned, the values in use are kept (R234). -/
def calLeaveUp (p : Nat) : Act :=
  .look fun s =>
    acts [modPort p fun P => { P with
        calDue := false, calRerun := false, calWait := 0, distPend := false, retunes := [], probing := false, probeOut := false },
      recClock p true,
      when (s.fld F.TIME_PORT_CAL_STATUS_CAL_STATE p != calFailed) (setF F.TIME_PORT_CAL_STATUS_CAL_STATE p calIdle),
      each (s.lanesOf p) fun l => setB F.LANE_EQ_STATUS_RETUNING l false,
      syncRecal p, distSettle (stallOf p)]

/-! ### Link delay (R236) -/

/-- Start a measurement of 3 exchanges. -/
def probeStart (p : Nat) : Act :=
  .look fun s => modPort p fun P => { P with
    probed := true, probing := true, probeOut := false, dlyVals := [], probeAt := s.time.words, pdAt := 0, pdRes := none }

/-- The measurement of this stay in UP starts once the first calibration has committed, while the engine runs (R236, R334). -/
def probeOnUp (p : Nat) : Act :=
  .look fun s =>
    when (s.isUp p && s.bit F.TIME_PORT_CFG_PROBE_EN p && !(s.port p).probed && s.peRuns && (s.port p).calOk) (probeStart p)

/-- Median of three values. -/
def median3 (l : List Nat) : Nat :=
  match l with
  | [a, b, c] => max (min a b) (min (max a b) c)
  | _ => 0

/-- The time unit reports a delay: DLY_VALID, LINKDLY_NEW, and the headroom sized with it (R236, R191). -/
def reportDelay (p d : Nat) : Act :=
  acts [setF F.TIME_PORT_LINKDLY_DLY p (min d 0xFFFFFFFF), setB F.TIME_PORT_CAL_STATUS_DLY_VALID p true,
    raise F.TIME_PORT_EVT_CAUSE_LINKDLY_NEW p, sizePort p d false]

/-! ### Commands -/

/-- The accumulator has 48 bits of seconds (R13): it counts modulo 2^48 s. -/
def accMod : Nat := 2 ^ 48 * 10 ^ 9 * 2 ^ 48

/-- What the clock outputs carry from now on: TIMECLK_OUT while it is enabled and device time runs, and the SEL in effect of SYNCE_OUT0
and SYNCE_OUT1 (R261). -/
def setClkOuts (a b c : Nat) : Act :=
  .look fun s =>
    let o := s.time.clkOuts
    acts [modTime fun t => { t with clkOuts := (a, b, c) }, when (o.1 != a) (emit (.clkOut 0 a)),
      when (o.2.1 != b) (emit (.clkOut 1 b)), when (o.2.2 != c) (emit (.clkOut 2 c))]

/-- SEL of SYNCE_OUT0 or SYNCE_OUT1 as written; 6 and 7 turn the output off as 0 does. -/
def State.synceSel (s : State) (i : Nat) : Nat :=
  let v := s.fld (if i = 0 then F.TIME_OUT_CFG_SYNCE_OUT0_SEL else F.TIME_OUT_CFG_SYNCE_OUT1_SEL) 0
  if v < 6 then v else 0

/-- TIMECLK_EN, while device time runs. -/
def State.timeclkOn (s : State) : Nat := if s.bit F.TIME_OUT_CFG_TIMECLK_EN 0 && s.time.running then 1 else 0

/-- Every clock output follows TIME_OUT_CFG: each rising edge of an old source falls within a time word (log 151). -/
def clkOutEdge : Act := .look fun s => setClkOuts s.timeclkOn (s.synceSel 0) (s.synceSel 1)

/-- A write of TIME_OUT_CFG: an output that was off takes its new source at once; another one at its old source's next rising edge
(R269). -/
def clkOutWrite : Act :=
  .look fun s =>
    let o := s.time.clkOuts
    setClkOuts s.timeclkOn (if o.2.1 = 0 then s.synceSel 0 else o.2.1) (if o.2.2 = 0 then s.synceSel 1 else o.2.2)

/-- TIME_WORD_SEND (R227, R228): 64 ticks of CLK_TIME; the time unit reports an epoch at this word (R340). -/
def timeWordSend : Act :=
  .look fun s =>
    when s.time.running (acts [
      modTime fun t => { t with acc := (t.acc + 64 * t.inc) % accMod, words := t.words + 1 }, clkOutEdge, unitReport 87])

/-- DIST_ECHO_MEASURE (R228): half the round trip, or a missing echo. -/
def distEchoMeasure (st : Nat) (echo : Option Nat) : Act :=
  .look fun s =>
    let S := s.stall st
    let lose := acts [modStall st fun x => { x with distOk := false, distBad := true }, setB F.TIME_STATUS_DIST_OK 0 false,
      each (s.portsOf st) fun p => syncRecal p]
    match echo with
    | none =>
      acts [modStall st fun x => { x with distMiss := min (x.distMiss + 1) 3 }, when (decide (S.distMiss = 2)) lose]
    | some rt =>
      let d := rt / 2
      let far := match S.distPrev with | none => false | some v => decide (13107 < (if v ≤ d then d - v else v - d))
      acts [perfEvent pbTime 8 none 1, modStall st fun x => { x with distMiss := 0, distPrev := some d, dDist := d },
        if far then lose
        else when (!S.distOk) (acts [
          modStall st fun x => { x with distOk := true },
          each ((s.portsOf st).filter s.isUp) (fun p => acts [modPort p fun P => { P with distPend := true }, calStart p 9]),
          distSettle st,
          .look fun s => when ((List.range 64).all fun i => (s.stall i).distOk) (setB F.TIME_STATUS_DIST_OK 0 true)])]

/-- Whether the nearest sensor has moved by CAL_DT or more since a port's last calibration (R234, trigger 5). -/
def State.tempMoved (s : State) (p : Nat) : Bool :=
  match (s.port p).calTemp with
  | none => false
  | some t => decide (8 * s.fld F.TIME_CAL_CFG_CAL_DT 0 ≤ (s.nearTemp (stallOf p) - t).natAbs)

/-- CAL_PERIOD_EXPIRE (R234 trigger 6): CAL_PERIOD_S seconds after the port's last calibration; at most 8 ports start in one
millisecond, and a port past that waits. -/
def calPeriodExpire (p : Nat) : Act :=
  .look fun s =>
    let ms := s.nowNs / 1000000
    let n := if s.time.calMs = ms then s.time.calCnt else 0
    let secs := s.fld F.TIME_CAL_CFG_CAL_PERIOD_S 0
    when (s.isUp p && decide (0 < secs) && s.aged (s.port p).calW (secs * 10 ^ 9) && decide (n < 8))
      (acts [modTime fun t => { t with calMs := ms, calCnt := n + 1 }, calStart p 6])

/-- CALIBRATION_START (R234): trigger 1 to 9 on a port; the temperature trigger only where the sensor has moved far enough, the
periodic one only at its time. -/
def calibrationStart (p trig : Nat) : Act :=
  .look fun s =>
    if trig = 6 then calPeriodExpire p
    else when (decide (1 ≤ trig ∧ trig ≤ 9) && (trig != 5 || s.tempMoved p)) (calStart p trig)

/-- Measured components of a lane: D_ANA and D_FIFO of receive, then of transmit. -/
abbrev LaneMeas := Nat × Nat × Nat × Nat

/-- The new components of a lane in a direction (R231, R234). -/
def State.newDelays (s : State) (l : Nat) (rx : Bool) (m : LaneMeas) : List Nat :=
  let pipe := Config.nominalDelay (s.fld F.STALL_CFG_LANE_RATE (l / 8)) rx 2
  if rx then [Config.pkgDelay l rx, m.1, m.2.1, pipe] else [Config.pkgDelay l rx, m.2.2.1, m.2.2.2, pipe]

/-- The bound check of step 5 (R234). -/
def delayOk (l : Nat) (rx : Bool) (c : List Nat) : Bool :=
  decide (Config.delayLow l rx ≤ c.sum ∧ c.sum ≤ Config.delayHigh l rx)

/-- Both directions have taken the committed values: the mark is removed and the calibration has ended (R234 step 6). -/
def calFinish (p : Nat) : Act :=
  .look fun s =>
    acts [modPort p fun P => { P with distPend := false, calTemp := some (s.nearTemp (stallOf p)), calOk := true, calW := s.time.words },
      modTime fun t => { t with calAt := tabPut t.calAt none p (some s.time.words) },
      setF F.TIME_PORT_CAL_STATUS_CAL_STATE p calIdle, addMod F.TIME_PORT_CAL_STATUS_CAL_COUNT p 1, perfEvent pbTime 7 none 1,
      raise F.TIME_PORT_EVT_CAUSE_CAL_DONE p, syncRecal p, distSettle (stallOf p), probeOnUp p]

/-- A frame boundary of a direction (bit 0 receive, 1 transmit) of a port, at which that direction takes committed values (R234). -/
def calBoundary (p bit : Nat) : Act :=
  .look fun s =>
    when ((s.port p).calWait.testBit bit) (acts [modPort p fun P => { P with calWait := P.calWait - 2 ^ bit },
      .look fun s => if (s.port p).calWait = 0 then calFinish p else syncRecal p])

/-- CALIBRATION_COMMIT (R234, R235): step 5, and step 6 if every value is within its bounds; a first failure runs the calibration
once more, a second one fails it. A timestamp is taken when its frame starts, so frames in flight keep the old values. -/
def calibrationCommit (p : Nat) (meas : List LaneMeas) : Act :=
  .look fun s =>
    let P := s.port p
    let lanes := (s.lanesOf p).zipIdx.map fun x => (x.1, meas.getD x.2 (0, 0, 0, 0))
    let good := lanes.all fun x => delayOk x.1 true (s.newDelays x.1 true x.2) && delayOk x.1 false (s.newDelays x.1 false x.2)
    let wait := (if P.arriving.isSome then 1 else 0) + (if P.tx.isSome then 2 else 0)
    when (P.calDue && s.isUp p) (
      if good then
        acts [each lanes (fun x => modLane x.1 fun v => { v with rx := s.newDelays x.1 true x.2, tx := s.newDelays x.1 false x.2 }),
          setF F.TIME_PORT_CAL_STATUS_CAL_STATE p calCommit,
          modPort p fun P => { P with calDue := false, calRerun := false, calWait := wait }, when (decide (wait = 0)) (calFinish p)]
      else if !P.calRerun then modPort p fun P => { P with calRerun := true }
      else
        acts [modPort p fun P => { P with calDue := false, calRerun := false, distPend := false, calW := s.time.words },
          setF F.TIME_PORT_CAL_STATUS_CAL_STATE p calFailed, raise F.TIME_PORT_EVT_CAUSE_CAL_FAIL p,
          syncRecal p, distSettle (stallOf p)])

/-- CAL_REQ (R234, R243): a write of 1 to TIME_PORT_CTL.CAL_REQ; at a lane position that starts no port it has no effect. -/
def calReq (req : Req) (p : Nat) (value : Word) : Act :=
  onWrite req .TIME_PORT_CTL p fun rq =>
    when (value.getLsbD 0) (.look fun s => when (s.starts p) <|
      if s.isUp p then calStart p 7 else reject3 (.timePort p) rq .TIME_PORT_CTL p)

/-- PROBE_REQ (R236, R243): a write of 1 to TIME_PORT_CTL.PROBE_REQ; at a lane position that starts no port it has no effect. -/
def probeReq (req : Req) (p : Nat) (value : Word) : Act :=
  onWrite req .TIME_PORT_CTL p fun rq =>
    when (value.getLsbD 1) (.look fun s => when (s.starts p) <|
      if s.isUp p && !(s.port p).probing then probeStart p else reject3 (.timePort p) rq .TIME_PORT_CTL p)

/-- An exchange of the probe starts: the Pdelay_Req is due at the port's next visit, as item 1 of work type 6 (log 16). An exchange
that is still open has had no response in time. -/
def exchange (p : Nat) : Act :=
  .look fun s =>
    acts [when ((s.port p).probeOut) (count 0x51 p 4 1),
      modPort p fun P => { P with probeOut := true, pdAt := s.time.words, pdT1 := none, pdResp := none, pdRes := none },
      count 0x51 p 3 1, postWork p wtPtpTx 1 0]

/-- PROBE_SEND (R236): an exchange of a measurement, every 10 ms. -/
def probeSend (p : Nat) : Act :=
  .look fun s =>
    when (s.isUp p && s.peRuns && (s.port p).probing && ((s.port p).pdAt == 0 || s.aged (s.port p).pdAt 10000000)) (exchange p)

/-- PROBE_RESPONSE (R236): the delay value of the exchange that the response completes; a value with a marked timestamp, a negative one
or one later than 10 ms is discarded. The half of an odd sum is rounded up or down (log 49). -/
def probeResponse (p : Nat) (up : Bool) : Act :=
  .look fun s =>
    match (s.port p).pdRes with
    | none => .skip
    | some (twice, mark) =>
      when ((s.port p).probeOut) (
        if twice < 0 ∨ mark = true ∨ (s.time.running && s.elapsed (s.port p).pdAt 10000001) = true then
          acts [modPort p fun P => { P with probeOut := false, pdRes := none }, count 0x51 p 4 1]
        else
          let d := (halfOf up twice).toNat
          let vals := d :: (s.port p).dlyVals
          let last3 := (d :: (s.port p).dlyLast3).take 3
          let prev := s.fld F.TIME_PORT_LINKDLY_DLY p
          let m := median3 last3
          acts [modPort p fun P => { P with probeOut := false, pdRes := none, dlyLast3 := last3 },
            if (s.port p).probing then
              if 3 ≤ vals.length then
                acts [modPort p fun P => { P with probing := false, dlyVals := [] }, reportDelay p (median3 vals)]
              else modPort p fun P => { P with dlyVals := vals }
            else when (s.bit F.TIME_PORT_CAL_STATUS_DLY_VALID p &&
                decide (last3.length = 3 ∧ 50 * 65536 < (if m ≤ prev then prev - m else m - prev))) (reportDelay p m)])

/-- PROBE_NONE (R236): 1 s has passed without 3 valid responses. -/
def probeNone (p : Nat) : Act :=
  .look fun s =>
    when ((s.port p).probing && s.aged (s.port p).probeAt 1000000000)
      (acts [modPort p fun P => { P with probing := false, probeOut := false, dlyVals := [] }, raise F.TIME_PORT_EVT_CAUSE_PROBE_NONE p])

/-- LINKDLY_PERIOD_EXPIRE (R236): one exchange runs every LINKDLY_S seconds while the port stays UP. -/
def linkdlyPeriodExpire (p : Nat) : Act :=
  .look fun s =>
    when (s.isUp p && s.peRuns && s.bit F.TIME_PORT_CFG_PROBE_EN p && !(s.port p).probing &&
      s.aged (s.port p).pdAt (s.fld F.TIME_CAL_CFG_LINKDLY_S 0 * 10 ^ 9)) (exchange p)

def execDistEchoMeasure (st : Fin 64) (echo : Option Nat) (s : State) := ok (distEchoMeasure st echo) s
def execCalibrationStart (p : Fin 512) (trig : Fin 10) (s : State) := ok (calibrationStart p trig) s
def execCalibrationCommit (p : Fin 512) (meas : List (Nat × Nat × Nat × Nat)) (s : State) := ok (calibrationCommit p meas) s
def execCalPeriodExpire (p : Fin 512) (s : State) := ok (calPeriodExpire p) s
def execCalReq (req : Req) (p : Fin 512) (value : Word) (s : State) := ok (calReq req p value) s
def execProbeReq (req : Req) (p : Fin 512) (value : Word) (s : State) := ok (probeReq req p value) s
def execProbeSend (p : Fin 512) (s : State) := ok (probeSend p) s
def execProbeResponse (p : Fin 512) (up : Bool) (s : State) := ok (probeResponse p up) s
def execProbeNone (p : Fin 512) (s : State) := ok (probeNone p) s
def execLinkdlyPeriodExpire (p : Fin 512) (s : State) := ok (linkdlyPeriodExpire p) s

end Sys2Proof.Machine
end

