-- ==== Sys2Proof/Machine/Link.lean ====
section
/-!
DEFINITION. Machine/Link.lean: stalls, lanes, ports and module sites (R33 to R69): PFC, port maps, link state and hold
window, retunes, eye monitors, health grades, bandwidth meters, the site chain and module bring-up.
-/
namespace Sys2Proof.Machine

/-! ### Link state (R45, R57, R58, R59, R475) -/

/-- Site states (R65). -/
def siteEmpty : Nat := 0
def siteReset : Nat := 1
def siteInit : Nat := 2
def siteReady : Nat := 3
def siteDatapath : Nat := 4
def siteActive : Nat := 5
def siteFaulted : Nat := 6
def sitePassive : Nat := 7

def State.site (s : State) (st : Nat) : Nat := s.fld F.STALL_STATUS_SITE_STATE st

/-- Hold states (R59). -/
def holdNone : Nat := 0
def holdHeld : Nat := 1
def holdFlushing : Nat := 2

def State.hold (s : State) (p : Nat) : Nat := s.fld F.PORT_STATE_HOLD p

/-- The interface type that a MEDIA value is run as on the module site or off it (R45). -/
def runMedia (module : Bool) (m : Nat) : Nat := if module then (if m = 0 then 1 else if m = 2 then 3 else m) else m

/-- The interface type a port is run as: by MEDIA as it was used at the last restart (R45, R68). -/
def State.media (s : State) (p : Nat) : Nat := runMedia (s.bit F.PORT_CFG_MODULE p) (s.port p).useMedia

/-- The restart point of a port (R57). -/
def State.restartPoint (s : State) (p : Nat) : Nat :=
  let site := s.site (stallOf p)
  if s.bit F.PORT_CFG_MODULE p && site != siteActive && site != sitePassive then linkWaitModule
  else if 2 ≤ runMedia (s.bit F.PORT_CFG_MODULE p) (s.fld F.PORT_CFG_MEDIA p) then linkAlign
  else if s.bit F.PORT_CFG_AN_EN p then linkAn
  else if s.bit F.PORT_CFG_LT_EN p then linkTrain
  else linkAlign

/-- State of a lane's transmitter (R60, R313): 0 electrical idle, 1 steady differential low, 2 in service. The lane safe state of the
option block holds from step 7 until the stall is configured (log 132). -/
def State.laneTx (s : State) (l : Nat) : Nat :=
  if s.clk.step < 7 then 0 else if (s.stall (l / 8)).configured then 2 else s.clk.opts.laneSafe

/-- Whether a port may advance: its lanes transmit, its transmit PLL is locked, neither its stall nor its aisle is in soft reset, and
its aisle is not fenced (R57, R58, R60, R331). -/
def State.canAdvance (s : State) (p : Nat) : Bool :=
  s.starts p && s.laneTx p == 2 && s.bit F.STALL_STATUS_TXPLL_LOCK (stallOf p) && !s.clk.soft.contains (stallOf p) &&
    !s.clk.soft.contains (unitAisle (aisleOf p)) && !(s.aisle (aisleOf p)).fenced

/-- The one technology ability a port advertises (R43): MEDIA, width and LANE_RATE, where 0b10 and 0b11 are the same rate. -/
def State.ability (s : State) (p : Nat) : Nat × Nat × Nat :=
  (s.media p, s.width p, min 2 (s.fld F.STALL_CFG_LANE_RATE (stallOf p)))

/-- PARTNER of a stall (R431): of its module, or 0 where its ports use none. A stall that has ports with MODULE = 1 and ports with
MODULE = 0 takes the module's for all its lanes, by the model's choice (log 174). -/
def State.partner (s : State) (st : Nat) : List Byte :=
  if (s.portsOf st).any (s.bit F.PORT_CFG_MODULE) then (digestBytes (Config.sha3 (s.stall st).module)).take 8 else List.replicate 8 0

/-- The settings from which a lane starts training (R44): those of the ledger's record of its stall for the present LANE_RATE and
partner; none: the clause's initial preset. -/
def State.warmStart (s : State) (l : Nat) : List Byte :=
  let st := l / 8
  match s.thm.laneRecs.find? fun x =>
      x.stall == st && x.rate == s.fld F.STALL_CFG_LANE_RATE st && x.partner == s.partner st with
  | some x => sliceB x.body (16 * (l % 8)) 16
  | none => []

/-- A port in NEGOTIATE sends its pages (R43), once its lanes transmit (R60, R331): base page, RS-FEC ability and next pages, whose
content R43 leaves to Clause 73 (log 175). -/
def sendPages (p : Nat) : Act :=
  .look fun s =>
    let a := s.ability p
    when (s.link p == linkAn && s.laneTx p == 2 && !(s.port p).anWait)
      (emit (.anPages p a.1 a.2.1 a.2.2 true (Config.anNextPages a.1 a.2.1 a.2.2)))

/-- The settings of a C2C or C2M lane (R45): those its module advertises, or without a module those of the configuration records, for
which no record has a field (log 176). -/
def State.hostSettings (s : State) (p l : Nat) : List Byte :=
  if s.bit F.PORT_CFG_MODULE p then (s.stall (stallOf p)).hostEq.getD (l % 8) [] else Config.recordEq l

/-- A port enters a link state below UP: NEGOTIATE sends its pages (R43), TRAIN starts each lane from its warm start (R44), and ALIGN
of a C2C or C2M port takes its settings without training (R45). -/
def enterLink (p l : Nat) : Act :=
  .look fun s =>
    acts [setF F.PORT_STATE_LINK p l,
      when (l == linkAn) (sendPages p),
      when (l == linkTrain) (each (s.lanesOf p) fun i => modLane i fun x => { x with eq := s.warmStart i }),
      when (l == linkAlign) (acts [modPort p fun P => { P with alignAt := s.time.words },
        when (decide (2 ≤ s.media p)) (each (s.lanesOf p) fun i => modLane i fun x => { x with eq := s.hostSettings p i })])]

/-- A port goes to its restart point with its present configuration (R57, R68). -/
def goRestart (p : Nat) : Act :=
  .look fun s =>
    acts [modPort p fun P => { P with useLt := s.bit F.PORT_CFG_LT_EN p, useMedia := s.fld F.PORT_CFG_MEDIA p, anWait := false },
      enterLink p (s.restartPoint p)]

/-- Whether a port's 9 queues are empty. -/
def State.queuesEmpty (s : State) (p : Nat) : Bool := (s.port p).queues.all fun e => e.2.d.isEmpty

/-- The switch core reports a flushing port's queues empty, and its hold state returns to NONE (R59, R195). -/
def holdDone (p : Nat) : Act :=
  .look fun s => when (s.hold p == holdFlushing && s.queuesEmpty p) (acts [setF F.PORT_STATE_HOLD p holdNone, releaseHdrm p])

/-- FLUSHING begins: the owner quarter flushes the port, and empty queues are reported at once (R59, R91, R195). -/
def flushBegin (p : Nat) : Act := acts [setF F.PORT_STATE_HOLD p holdFlushing, flushPort p, holdDone p]

/-- PTP port state of a port that takes part in PTP (R249, R270). -/
def ptpState (p code : Nat) : Act :=
  .look fun s =>
    let role := s.fld F.TIME_PORT_PTP_ROLE p
    when (decide (role = 1 ∨ role = 2)) (setF F.TIME_PORT_PTP_STATUS_PORT_STATE p code)

/-- Time of a port's hold window, ns (R59). -/
def PortS.holdNs (P : PortS) : Nat := P.holdMs * 1000000

/-- A retune of the planner's that fails: the third cycle in which one fails raises RETUNE_FAIL (R425). -/
def retuneFails (l : Nat) : Act :=
  .look fun s => acts [modLane l fun x => { x with drops := x.drops + 1 },
    when (decide (2 ≤ (s.lane l).drops)) (raise F.SHR_EVT_CAUSE_RETUNE_FAIL 0)]

/-- A retune ends because its port leaves UP: one of the planner's has failed in this cycle, and is retried in the next (R425; DESIGN
CHOICE, log 192). -/
def retuneCut (l : Nat) : Act :=
  .look fun s => when (s.lane l).plan (acts [retuneFails l, modLane l fun x => { x with plan := false, again := true }])

/-- Exit from UP with a cause (R58, R59); the link state is set by the caller. -/
def leaveUp (p cause : Nat) (admin0 : Bool) : Act :=
  .look fun s =>
    acts [setF F.PORT_STATE_LINK p linkDisabled, setF F.PORT_STATE_DOWN_CAUSE p cause, setF F.PORT_STATE_HEALTH p 0,
      addSat F.FLAP_CNT_COUNT p 1, occur p, each (s.port p).retunes retuneCut, calLeaveUp p, pfcSync p, ptpState p 2, postWork p wtPortState 0 0,
      when (s.hold p == holdNone) (
        if admin0 ∨ s.fld F.PORT_HOLD_HOLD_MS p = 0 then flushBegin p
        else acts [modPort p fun P => { P with holdAt := s.time.words, holdMs := s.fld F.PORT_HOLD_HOLD_MS p },
          setF F.PORT_STATE_HOLD p holdHeld])]

/-- Entry to UP (R58, R59, R166, R191, R234, R249): a hold window whose time has come expires first. -/
def enterUp (p : Nat) : Act :=
  .look fun s =>
    acts [setF F.PORT_STATE_LINK p linkUp, occur p, modPort p fun P => { P with upAt := s.time.words },
      when (s.hold p == holdHeld) (
        if s.time.running && s.elapsed (s.port p).holdAt (s.port p).holdNs then flushBegin p else setF F.PORT_STATE_HOLD p holdNone),
      sizePort p (s.fld F.SWC_CFG2_HDRM_DMAX_NS 0 * 65536) true, pfcSync p, calEnterUp p, ptpState p 4,
      postWork p wtPortState 1 0,
      modPort p fun P => { P with lldpFast := 3, txAt := tabPut P.txAt 0 (txKey wtLldpTx 0) s.time.words },
      when (s.bit F.PE_LLDP_CFG_LLDP_TX_EN 0) (postWork p wtLldpTx 0 0)]

/-- A port leaves UP if it is there, and goes to its restart point (R57). -/
def dropToRestart (p cause : Nat) : Act := .look fun s => acts [when (s.isUp p) (leaveUp p cause false), goRestart p]

/-- Ports of a stall that have left DISABLED. -/
def State.livePorts (s : State) (st : Nat) : List Nat := (s.portsOf st).filter fun p => s.link p != linkDisabled

/-! ### PFC and other MAC control (R36, R39) -/

/-- Nanoseconds of a number of pause quanta at a port's data rate: 512 bit times each, rounded up (R39). -/
def State.quantaNs (s : State) (p q : Nat) : Nat := (512 * q + s.rateGb p - 1) / max 1 (s.rateGb p)

/-- PFC_FRAME_RECEIVE (R39): enabled priorities stop for their quanta; a time of zero releases at once. -/
def pfcFrameReceive (p : Nat) (vec : BitVec 8) (quanta : List Nat) : Act :=
  .look fun s =>
    when (s.isUp p) (acts [count 0x11 (2 * p) 3 1,
      modPort p fun P => { P with
        bwRx := P.bwRx + 84, actAt := P.seen s.time.words
        pauseTill := (s.pfcPrios p).foldl (fun m i =>
          if vec.getLsbD i then
            tabPut m 0 i (if quanta.getD i 0 = 0 then 0 else s.runNs + s.quantaNs p (quanta.getD i 0))
          else m) P.pauseTill
        rxPause := (s.pfcPrios p).foldl (fun m i =>
          let b : BitVec 8 := BitVec.ofNat 8 (2 ^ i)
          if vec.getLsbD i then (if quanta.getD i 0 = 0 then m &&& ~~~b else m ||| b) else m) P.rxPause }])

/-- PAUSE_FRAME_RECEIVE (R36): counted, without other effect. -/
def pauseFrameReceive (p : Nat) : Act :=
  .look fun s => when (s.isUp p) (acts [count 0x11 (2 * p) 4 1, modPort p fun P => { P with bwRx := P.bwRx + 84, actAt := P.seen s.time.words }])

/-- PFC_PAUSE_EXPIRE (R39): a received pause ends after its quanta. -/
def pfcPauseExpire (p i : Nat) : Act :=
  .look fun s =>
    when (!s.time.running || decide (tabGet (s.port p).pauseTill 0 i ≤ s.runNs)) (modPort p fun P => { P with
      rxPause := P.rxPause &&& ~~~ (BitVec.ofNat 8 (2 ^ i)), pauseTill := tabPut P.pauseTill 0 i 0 })

/-- PFC_REFRESH (R39, R189): a standing pause is sent again at half of the time it advertised. -/
def pfcRefresh (p i : Nat) : Act :=
  .look fun s =>
    let b : BitVec 8 := BitVec.ofNat 8 (2 ^ i)
    when (s.isUp p && (s.port p).txPfc.getLsbD i && s.aged (tabGet (s.port p).pfcSent 0 i) (s.quantaNs p pfcTime / 2)) (acts [
      emit (.pfc p b b pfcTime), count 0x11 (2 * p + 1) 3 1,
      modPort p fun P => { P with bwTx := P.bwTx + 84, actAt := P.seen s.time.words, pfcSent := tabPut P.pfcSent 0 i s.time.words }])

/-! ### Port maps and configuration (R40 to R45, R475) -/

/-- A stall is configured by the first write of its STALL_CFG or PORT_CFG that is accepted once SETUP has begun (R60, log 132); ports
that were held in NEGOTIATE by the lane safe state send their pages. -/
def configure (st : Nat) : Act :=
  .look fun s =>
    when (s.mode.started && !(s.stall st).configured)
      (acts [modStall st fun x => { x with configured := true }, each (s.portsOf st) sendPages])

/-- STALL_CFG_WRITE (R42). -/
def stallCfgWrite (req : Req) (st : Nat) (value : Word) : Act :=
  onWrite req .STALL_CFG st fun rq => .look fun s =>
    if (s.portsOf st).any fun p => s.rawFld F.PORT_CFG_ADMIN_EN p != 0 || s.hold p != holdNone then reject3 (.stall st) rq .STALL_CFG st
    else acts [writeFields rq .STALL_CFG st value,
      each ((List.range 8).map (8 * st + ·)) (fun p => setF F.PORT_STATE_LINK p linkDisabled),
      configure st]

/-- PORT_CFG_WRITE (R57, R475, R191): ADMIN_EN acts on the link state; a cleared PFC_EN bit releases its reservation once it is in
effect. -/
def portCfgWrite (req : Req) (p : Nat) (value : Word) : Act :=
  onWrite req .PORT_CFG p fun rq =>
    acts [writeFields rq .PORT_CFG p value, configure (stallOf p),
      .look fun s =>
        when (s.starts p) (
          if value.getLsbD 0 then when (s.link p == linkDisabled) (goRestart p)
          else when (s.link p != linkDisabled) (
            if s.isUp p then acts [leaveUp p 1 true, when (s.hold p != holdNone) (flushPort p)]
            else acts [setF F.PORT_STATE_LINK p linkDisabled,
              if s.hold p = holdFlushing then flushPort p else if s.hold p = holdHeld then flushBegin p else flushPort p]))]

/-- PORT_RESTART (R54, R57): a write of PORT_CTL. -/
def portRestart (req : Req) (p : Nat) (value : Word) : Act :=
  onWrite req .PORT_CTL p fun rq =>
    when (value.getLsbD 0) (.look fun s =>
      if s.link p = linkDisabled then reject3 (.stall (stallOf p)) rq .PORT_CTL p
      else acts [
        when (s.site (stallOf p) == siteFaulted) (acts [setF F.STALL_STATUS_SITE_STATE (stallOf p) siteReset,
          modStall (stallOf p) fun x => { x with retries := 0, retryOn := false, resetl := false, lpmode := true, rstScans := 0 }]),
        dropToRestart p 1, setF F.PORT_STATE_DOWN_CAUSE p 1])

/-! ### Negotiation, training, alignment (R43, R44, R57) -/

/-- AN_FAIL (R43): no ability in common, or 500 ms without completion: counted; negotiation starts again after a pause. -/
def anFail (p : Nat) : Act :=
  .look fun s =>
    when (s.link p == linkAn && !(s.port p).anWait) (acts [setF F.PORT_STATE_DOWN_CAUSE p 9,
      modPort p fun P => { P with anWait := true, anAt := s.time.words, anFails := P.anFails + 1 }])

/-- NEGOTIATION_COMPLETE (R43): the port resolves to its own ability, or to nothing, which is a failure. The RS-FEC ability and the
next pages of the partner are accepted and decide nothing (log 175). -/
def negotiationComplete (p : Nat) (abilities : List (Nat × Nat × Nat)) : Act :=
  .look fun s =>
    when (s.link p == linkAn && !(s.port p).anWait && s.canAdvance p) (
      if abilities.contains (s.ability p) then enterLink p (if (s.port p).useLt then linkTrain else linkAlign) else anFail p)

/-- AN_PAUSE_EXPIRE (R43): the pause, 100 ms to 200 ms, ends, and the pages go out again. -/
def anPauseExpire (p : Nat) : Act :=
  .look fun s =>
    when ((s.port p).anWait && s.aged (s.port p).anAt 100000000)
      (acts [modPort p fun P => { P with anWait := false }, when (s.link p == linkAn) (enterLink p linkAn)])

/-- TRAINING_COMPLETE (R44, R57): every lane trained on both ends; the settings reached are kept. ADAPTED is set here and at the end
of ALIGN, and stays (log 133). -/
def trainingComplete (p : Nat) (eq : List (List Byte)) (precode : Bool) : Act :=
  .look fun s =>
    when (s.link p == linkTrain && s.canAdvance p) (acts [enterLink p linkAlign,
      each (s.lanesOf p).zipIdx fun l => acts [modLane l.1 fun x => { x with eq := eq.getD l.2 [] },
        setB F.LANE_EQ_STATUS_ADAPTED l.1 true, setB F.LANE_EQ_STATUS_PRECODE l.1 precode, count 0x10 l.1 5 1]])

/-- TRAINING_TIMEBOX_EXPIRE (R44): the whole port fails. -/
def trainingTimeboxExpire (p : Nat) : Act :=
  .look fun s =>
    when (s.link p == linkTrain) (acts [setF F.PORT_STATE_DOWN_CAUSE p 8,
      modPort p fun P => { P with useLt := s.bit F.PORT_CFG_LT_EN p, useMedia := s.fld F.PORT_CFG_MEDIA p },
      enterLink p (if s.bit F.PORT_CFG_AN_EN p then linkAn else linkTrain)])

/-- ALIGNMENT_QUALIFIED (R57, R58): alignment has held for LINKUP_QUAL, and the port enters UP. -/
def alignmentQualified (p : Nat) : Act :=
  .look fun s =>
    when (s.link p == linkAlign && s.canAdvance p && s.aged (s.port p).alignAt (s.fld F.PORT_CFG_LINKUP_QUAL p * 100000))
      (acts [each (s.lanesOf p) fun l => setB F.LANE_EQ_STATUS_ADAPTED l true, enterUp p])

/-- ALIGN_TIMEOUT (R57): 100 ms in ALIGN. -/
def alignTimeout (p : Nat) : Act :=
  .look fun s => when (s.link p == linkAlign && s.aged (s.port p).alignAt 100000000) (goRestart p)

/-- LINK_LOSS (R58): alignment lost, local fault, remote fault, FEC degraded, or the module's loss of signal. -/
def linkLoss (p cause : Nat) : Act :=
  .look fun s =>
    when (s.isUp p && [2, 3, 4, 5, 11].contains cause) (acts [
      when (cause == 2) (each (s.lanesOf p) fun l => count 0x10 l 4 1), dropToRestart p cause])

/-- HOLD_TIMER_EXPIRE (R59): the hold window has lasted HOLD_MS. -/
def holdTimerExpire (p : Nat) : Act :=
  .look fun s => when (s.hold p == holdHeld && s.aged (s.port p).holdAt (s.port p).holdNs) (flushBegin p)

/-- QUEUES_EMPTY_REPORT (R59, R195). -/
def queuesEmptyReport (p : Nat) : Act := holdDone p

/-- FLUSH_DISCARD (R194, R195): one descriptor of a flushing port is discarded and counted, and its copy frees. -/
def flushDiscard (p q : Nat) : Act :=
  .look fun s =>
    let Q := fun i => (tabGet (s.port p).queues {} i).d
    let pick := if (Q q).isEmpty then (List.range 9).find? fun i => !(Q i).isEmpty else some q
    when (s.hold p == holdFlushing) (
      match pick with
      | none => .skip
      | some i =>
        match Q i with
        | [] => .skip
        | d :: r =>
          acts [modPort p fun P => { P with queues := tabPut P.queues {} i { tabGet P.queues {} i with d := r } },
            count 0x38 p 3 1, perfEvent pbSwc 12 (some p) 1, raise F.SWC_EVT_CAUSE_FLUSHED (aisleOf p), dropCopy p i d])

/-! ### Retunes, eyes, health, meters (R46, R61 to R63) -/

/-- A lane retune starts: the port's timestamps take the mark (R46, R234). -/
def retuneStart (l : Nat) : Act :=
  .look fun s =>
    let p := s.portOfLane l
    acts [setB F.LANE_EQ_STATUS_RETUNING l true, modPort p fun P => { P with retunes := addSet P.retunes l }, syncRecal p]

/-- Whether a lane may be retuned (R46). -/
def State.canRetune (s : State) (l : Nat) : Bool := s.isUp (s.portOfLane l) && !s.bit F.LANE_EQ_STATUS_RETUNING l

/-- LANE_RETUNE (R46): a write of LANE_CTL. -/
def laneRetune (req : Req) (l : Nat) (value : Word) : Act :=
  onWrite req .LANE_CTL l fun rq =>
    when (value.getLsbD 0) (.look fun s => if s.canRetune l then retuneStart l else reject3 (.stall (l / 8)) rq .LANE_CTL l)

/-- RETUNE_COMPLETE (R46, R234): calibration trigger 2; a success keeps the settings reached. -/
def retuneComplete (l : Nat) (good : Bool) (eq : List Byte) : Act :=
  .look fun s =>
    let p := s.portOfLane l
    when (s.bit F.LANE_EQ_STATUS_RETUNING l) (acts [setB F.LANE_EQ_STATUS_RETUNING l false,
      modPort p fun P => { P with retunes := P.retunes.filter (· != l) },
      if good then
        acts [modLane l fun x => { x with eq := eq, drops := 0, tuned := true }, count 0x10 l 6 1]
      else when (s.lane l).plan (retuneFails l),
      modLane l fun x => { x with plan := false, after := true }, calStart p 2])

/-- The first sweep after a retune: a lane that is still below EYE_TARGET asks for more VDDA_LANE; after one that succeeded the eye is
the reference of later drops (R425). -/
def sweepAfter (l low : Nat) : Act :=
  .look fun s => acts [
    when (s.lane l).tuned (modLane l fun x => { x with tuned := false, refEye := low }),
    when (s.lane l).after (acts [modLane l fun x => { x with after := false },
      when (decide (low < s.fld F.SHR_CFG2_EYE_TARGET 0)) (modThm fun h => { h with lanePend := true })])]

/-- EYE_SWEEP (R61): heights and widths of the three eyes while the port is UP. -/
def eyeSweep (l : Nat) (eyes : List (Nat × Nat)) : Act :=
  .look fun s =>
    when (s.isUp (s.portOfLane l)) (
      let e := fun i => eyes.getD i (0, 0)
      let low := min ((e 0).1) (min ((e 1).1) ((e 2).1))
      acts [each (List.range 3) (fun i =>
          setReg .LANE_EYE (3 * l + i) (BitVec.ofNat 32 (min (e i).2 255 * 2 ^ 16 + min (e i).1 65535))),
        count 0x10 l 7 1,
        modLane l fun x => { x with lowEye := some (match x.lowEye with | none => low | some v => min v low) }, sweepAfter l low,
        when (decide (low < s.fld F.LANE_EYE_MIN_MIN_HEIGHT l)) (raise F.STALL_EVT_CAUSE_EYE_LOW (l / 8))])

/-- Health grade of a port from its FEC statistics (R62). -/
def healthGrade (stats : List (Nat × Nat × Nat × Nat)) : Nat :=
  let cw : Nat := (stats.map fun x => x.1).sum
  let corr : Nat := (stats.map fun x => x.2.1).sum
  if 0 < (stats.map fun x => x.2.2.2).sum then 0
  else if corr = 0 then 15
  else if cw ≤ corr * 100 then 4
  else if cw ≤ corr * 1000 then 8
  else if cw ≤ corr * 100000 then 12
  else 15

/-- HEALTH_GRADE_REFRESH (R62), with the FEC counters of the lanes (R290). -/
def healthGradeRefresh (p : Nat) (stats : List (Nat × Nat × Nat × Nat)) : Act :=
  .look fun s =>
    if s.isUp p then
      acts [setF F.PORT_STATE_HEALTH p (healthGrade (stats.take (s.width p))),
        each (s.lanesOf p).zipIdx fun l =>
          let x := stats.getD l.2 (0, 0, 0, 0)
          acts [count 0x10 l.1 0 x.1, count 0x10 l.1 1 x.2.1, count 0x10 l.1 2 x.2.2.1, count 0x10 l.1 3 x.2.2.2]]
    else setF F.PORT_STATE_HEALTH p 0

/-- BWM_WINDOW_END (R63): the window has lasted its WIN_US; the meters of the stall's ports, in units of 64 bytes. The next window
takes WIN_US as it now is. -/
def bwmWindowEnd (st : Nat) : Act :=
  .look fun s =>
    when (s.aged (s.stall st).bwAt ((s.stall st).bwWin * 1000)) (acts [
      each (s.portsOf st) (fun p =>
        let rx := (s.port p).bwRx / 64
        let tx := (s.port p).bwTx / 64
        acts [setF F.BWM_RX_LAST_COUNT p rx, setF F.BWM_TX_LAST_COUNT p tx,
          setF F.BWM_RX_MAX_COUNT p (max rx (s.fld F.BWM_RX_MAX_COUNT p)),
          setF F.BWM_TX_MAX_COUNT p (max tx (s.fld F.BWM_TX_MAX_COUNT p)),
          modPort p fun P => { P with bwRx := 0, bwTx := 0 }]),
      modStall st fun x => { x with bwAt := s.time.words, bwWin := s.fld F.STALL_BWM_WIN_WIN_US st }])

/-! ### Module sites (R47 to R55) -/

/-- Module ports of a stall that have left DISABLED. -/
def State.modulePorts (s : State) (st : Nat) : List Nat := (s.livePorts st).filter (s.bit F.PORT_CFG_MODULE)

/-- The site leaves service: its module ports go to WAIT_MODULE (R55, R57). DOWN_CAUSE takes the cause on every one of them, also
where it was not UP: R55 says so of a removal; for a site that goes to FAULT it is the model's choice (log 134). -/
def modulePortsDown (st cause : Nat) : Act :=
  .look fun s => each (s.modulePorts st) fun p => acts [dropToRestart p cause, setF F.PORT_STATE_DOWN_CAUSE p cause]

/-- The site becomes ACTIVE or PASSIVE: waiting ports go to their restart point (R57). -/
def modulePortsGo (st : Nat) : Act :=
  .look fun s => each ((s.portsOf st).filter fun p => s.link p == linkWaitModule) goRestart

/-- Bring-up starts at step 1 of R53: RESETL goes low. -/
def siteStart (st : Nat) : Act :=
  acts [setF F.STALL_STATUS_SITE_STATE st siteReset,
    modStall st fun x => { x with resetl := false, lpmode := true, rstScans := 0, retryOn := false }]

/-- A transaction of the device's own. -/
def I2cTxn.isOwn (x : I2cTxn) : Bool := x.mbx == 20

/-- One site in a scan: PRSL, INTL and the spare bits (R47, R52, R55). -/
def siteScan (st : Nat) (prsl intl r0 r1 : Bool) : Act :=
  .look fun s =>
    let S := s.stall st
    let low := if prsl then 0 else min (S.lowScans + 1) 3
    acts [modStall st fun x => { x with lowScans := low, rstScans := x.rstScans + 1 },
      setB F.STALL_STATUS_RSV_IN0 st r0, setB F.STALL_STATUS_RSV_IN1 st r1, setB F.STALL_STATUS_SITE_INT st (!intl),
      if prsl then
        when (s.bit F.STALL_STATUS_SITE_PRESENT st) (acts [setB F.STALL_STATUS_SITE_PRESENT st false,
          setF F.STALL_STATUS_SITE_STATE st siteEmpty,
          modStall st fun x => { x with resetl := false, lpmode := true, retries := 0, retryOn := false, apps := [], module := [], hostEq := [], cmis := [] },
          modEvt fun e => { e with i2cQ := e.i2cQ.filter fun x => x.onBus || !(x.isOwn && x.site == st) },
          raise F.STALL_EVT_CAUSE_SITE_OUT st, modulePortsDown st 6])
      else
        when (low == 3 && !s.bit F.STALL_STATUS_SITE_PRESENT st) (acts [setB F.STALL_STATUS_SITE_PRESENT st true,
          modStall st fun x => { x with retries := 0 }, siteStart st, raise F.STALL_EVT_CAUSE_SITE_IN st])]

/-- Operations of a transaction of module memory, as OP of a mailbox has them (R286). -/
def mbRead : Nat := 1
def mbWrite : Nat := 2

/-- The mailbox that module controller `k` serves next: in rotation after the one served last (R287). -/
def State.i2cNext (s : State) (k : Nat) : Option Nat :=
  ((List.range 20).map fun i => (tabGet s.evt.i2cLast 19 k + 1 + i) % 20).find? fun n =>
    s.evt.i2cQ.any fun x => x.mbx == n && x.site / 8 == k

/-- The list with its first element that satisfies `p` changed. -/
def mapFirst {α : Type} (p : α → Bool) (f : α → α) (l : List α) : List α :=
  match l with
  | [] => []
  | x :: r => if p x then f x :: r else x :: mapFirst p f r

/-- The first waiting transaction of the device's own, or of a mailbox, for controller `k` crosses the bus: SEL of its site goes high. -/
def i2cTake (k n : Nat) : Act :=
  .look fun s =>
    let p := fun (x : I2cTxn) => x.mbx == n && x.site / 8 == k
    acts [modEvt fun e => { e with
        i2cQ := mapFirst p (fun x => { x with onBus := true }) e.i2cQ
        i2cLast := if n = 20 then e.i2cLast else tabPut e.i2cLast 19 k n
        i2cOwn := if n = 20 then addSet e.i2cOwn k else e.i2cOwn.filter (· != k) },
      match s.evt.i2cQ.find? p with
      | none => .skip
      | some x => emit (.i2c x.site (x.op == mbWrite) x.bank x.page x.off x.len x.bytes)]

/-- A module controller that is free takes the next transaction, one at a time (R56, R287, R291). A request of a mailbox runs between two
of the device's own: after one of its own it goes first, and after a mailbox's an own one does. -/
def i2cStart (k : Nat) : Act :=
  .look fun s =>
    when (!(s.evt.i2cQ.any fun x => x.onBus && x.site / 8 == k)) (
      let own := s.evt.i2cQ.any fun x => x.isOwn && x.site / 8 == k
      match s.i2cNext k with
      | none => when own (i2cTake k 20)
      | some n => i2cTake k (if own && !s.evt.i2cOwn.contains k then 20 else n))

/-- The transactions of the device's own that have crossed the bus end, and their controllers take the next ones (log 135). -/
def i2cOwnEnd : Act :=
  acts [modEvt fun e => { e with i2cQ := e.i2cQ.filter fun x => !(x.isOwn && x.onBus) }, each (List.range 8) i2cStart]

/-- Whether a transaction holds the controller of a site: SEL of that site is high (R47, R56). -/
def State.siteSel (s : State) (st : Nat) : Bool :=
  s.evt.i2cQ.any fun x => x.onBus && x.site == st

/-- The 4 out-frame bits of a site: RESETL, LPMODE, SEL, spare (R47). -/
def State.outBits (s : State) (st : Nat) : List Bool :=
  [(s.stall st).resetl, (s.stall st).lpmode, s.siteSel st, s.bit F.STALL_STATUS_SPARE_OUT st]

/-- An access of the device's own waits for the controller of its site as a mailbox's does (R53, R56). -/
def ownAccess (x : I2cTxn) : Act := acts [modEvt fun e => { e with i2cQ := e.i2cQ ++ [x] }, i2cStart (x.site / 8)]

/-- The device's own accesses to a module's memory, lower page or page `page` (R53, log 135). -/
def ownRead (st page off len : Nat) : Act := ownAccess { mbx := 20, site := st, op := mbRead, page := page, off := off, len := len }
def ownWrite (st page off : Nat) (b : List Byte) : Act :=
  ownAccess { mbx := 20, site := st, op := mbWrite, page := page, off := off, len := b.length, bytes := b }

/-- INTL low while the site is ACTIVE: the module's CMIS flags are read and kept (R52), once the device's own accesses to it have ended. -/
def readFlags (st : Nat) (flags : List Byte) : Act :=
  .look fun s =>
    when (s.site st == siteActive && s.bit F.STALL_STATUS_SITE_INT st && !(s.evt.i2cQ.any fun x => x.isOwn && x.site == st))
      (acts [ownRead st 0 8 6, ownRead st 0x11 134 20, modStall st fun x => { x with cmis := flags }])

/-- SITE_CHAIN_SCAN (R47 to R52): one scan of the chain, from the end of SHUTTERS (R60). An own access of the device whose SEL the scan
has shown ends with it. -/
def siteChainScan (inf : List (Bool × Bool × Bool × Bool)) (flags : List (List Byte)) : Act :=
  .look fun s =>
    when s.mode.started (acts [emit (.chain ((List.range 64).map s.outBits).flatten), i2cOwnEnd,
      each ((List.range 64).filter fun st => !s.clk.soft.contains st) fun st =>
        let x := inf.getD st (true, true, false, false)
        acts [siteScan st x.1 x.2.1 x.2.2.1 x.2.2.2, readFlags st (flags.getD st [])]])

/-- MODULE_RESET_RELEASE (R53 step 2): RESETL goes high two scans later. -/
def moduleResetRelease (st : Nat) : Act :=
  .look fun s =>
    when (s.site st == siteReset && decide (2 ≤ (s.stall st).rstScans))
      (acts [modStall st fun x => { x with resetl := true }, setF F.STALL_STATUS_SITE_STATE st siteInit])

/-- MODULE_LOW_PWR_REPORT (R53 steps 3 and 4): identifier, revision, identity and applications are read; a flat module stops here; else
LPMODE and the low-power request are cleared. -/
def moduleLowPwrReport (st : Nat) (flat : Bool) (apps : List Nat) (ident : ModuleId) : Act :=
  .look fun s =>
    when (s.site st == siteInit) (acts [ownRead st 0 0 2, ownRead st 0 85 33, ownRead st 0 129 55,
      modStall st fun x => { x with apps := apps, module := ident.data, hostEq := ident.hostEq },
      if flat then acts [setF F.STALL_STATUS_SITE_STATE st sitePassive, modStall st fun x => { x with retries := 0 }, modulePortsGo st]
      else acts [setF F.STALL_STATUS_SITE_STATE st siteReady, modStall st fun x => { x with lpmode := false }, ownWrite st 0 26 [0]]])

/-- MODULE_READY (R53 steps 4 and 5): the device writes APPSEL to the lanes of each port and activates the data paths. -/
def moduleReady (st : Nat) : Act :=
  .look fun s =>
    when (s.site st == siteReady) (acts [setF F.STALL_STATUS_SITE_STATE st siteDatapath,
      each (s.portsOf st) (fun p => each (s.lanesOf p) fun l =>
        ownWrite st 0x10 (145 + l % 8) [BitVec.ofNat 8 (s.fld F.PORT_CFG_APPSEL p * 16 + p % 8 * 2)]),
      ownWrite st 0x10 143 [0xFF], ownWrite st 0x10 128 [0]])

/-- The site goes to FAULT; `retry` says whether R54 retries it. -/
def siteFail (st : Nat) (retry : Bool) : Act :=
  .look fun s =>
    acts [setF F.STALL_STATUS_SITE_STATE st siteFaulted, raise F.STALL_EVT_CAUSE_SITE_FAULT st,
      modStall st fun x => { x with retryOn := retry && decide ((s.stall st).retries < 3), faultAt := s.time.words }, modulePortsDown st 7]

/-- DATAPATH_ACTIVATED (R53 step 5, R54): APPSEL must be among the module's applications for every port of the stall (log 136). -/
def datapathActivated (st : Nat) : Act :=
  .look fun s =>
    when (s.site st == siteDatapath) (
      let want := (s.portsOf st).map (s.fld F.PORT_CFG_APPSEL)
      if want.all (s.stall st).apps.contains then
        acts [setF F.STALL_STATUS_SITE_STATE st siteActive, modStall st fun x => { x with retries := 0 }, modulePortsGo st]
      else siteFail st false)

/-- SITE_FAULT (R54): a step exceeds its limit, or the module reports a fault state. -/
def siteFault (st : Nat) : Act :=
  .look fun s => when (s.site st != siteEmpty && s.site st != siteFaulted) (siteFail st true)

/-- SITE_FAULT_RETRY (R54): bring-up starts again at step 1, 1 s after the fault. -/
def siteFaultRetry (st : Nat) : Act :=
  .look fun s =>
    when (s.site st == siteFaulted && (s.stall st).retryOn && s.aged (s.stall st).faultAt 1000000000)
      (acts [modStall st fun x => { x with retries := x.retries + 1 }, siteStart st])

/-! ### Transmit PLLs (R57, R308) -/

/-- TXPLL_LOSS (R58, R308). -/
def txpllLoss (st : Nat) : Act :=
  .look fun s =>
    when (s.bit F.STALL_STATUS_TXPLL_LOCK st) (acts [setB F.STALL_STATUS_TXPLL_LOCK st false,
      raise F.STALL_EVT_CAUSE_TXPLL_LOSS st,
      each ((s.livePorts st).filter fun p => s.link p != linkWaitModule) fun p => dropToRestart p 12])

/-- TXPLL_RELOCK (R308): the PLL locks; calibration trigger 8 on the stall's UP ports. -/
def txpllRelock (st : Nat) : Act :=
  .look fun s => when s.released (acts [setB F.STALL_STATUS_TXPLL_LOCK st true, calStartAll ((s.portsOf st).filter s.isUp) 8])

def execPfcFrameReceive (p : Fin 512) (vec : BitVec 8) (quanta : List Nat) (s : State) := ok (pfcFrameReceive p vec quanta) s
def execPauseFrameReceive (p : Fin 512) (s : State) := ok (pauseFrameReceive p) s
def execPfcPauseExpire (p : Fin 512) (i : Fin 8) (s : State) := ok (pfcPauseExpire p i) s
def execPfcRefresh (p : Fin 512) (i : Fin 8) (s : State) := ok (pfcRefresh p i) s
def execStallCfgWrite (req : Req) (st : Fin 64) (value : Word) (s : State) := ok (stallCfgWrite req st value) s
def execPortCfgWrite (req : Req) (p : Fin 512) (value : Word) (s : State) := ok (portCfgWrite req p value) s
def execPortRestart (req : Req) (p : Fin 512) (value : Word) (s : State) := ok (portRestart req p value) s
def execNegotiationComplete (n : Negotiation) (s : State) := ok (negotiationComplete n.port n.abilities) s
def execAnFail (p : Fin 512) (s : State) := ok (anFail p) s
def execAnPauseExpire (p : Fin 512) (s : State) := ok (anPauseExpire p) s
def execTrainingComplete (p : Fin 512) (eq : List (List Byte)) (precode : Bool) (s : State) := ok (trainingComplete p eq precode) s
def execTrainingTimeboxExpire (p : Fin 512) (s : State) := ok (trainingTimeboxExpire p) s
def execAlignmentQualified (p : Fin 512) (s : State) := ok (alignmentQualified p) s
def execAlignTimeout (p : Fin 512) (s : State) := ok (alignTimeout p) s
def execLinkLoss (p : Fin 512) (cause : Fin 16) (s : State) := ok (linkLoss p cause) s
def execHoldTimerExpire (p : Fin 512) (s : State) := ok (holdTimerExpire p) s
def execQueuesEmptyReport (p : Fin 512) (s : State) := ok (coreDo (queuesEmptyReport p)) s
def execFlushDiscard (p : Fin 512) (q : Fin 9) (s : State) := ok (coreDo (flushDiscard p q)) s
def execLaneRetune (req : Req) (l : Fin 512) (value : Word) (s : State) := ok (laneRetune req l value) s
def execEyeSweep (l : Fin 512) (eyes : List (Nat × Nat)) (s : State) := ok (eyeSweep l eyes) s
def execHealthGradeRefresh (p : Fin 512) (stats : List (Nat × Nat × Nat × Nat)) (s : State) := ok (healthGradeRefresh p stats) s
def execBwmWindowEnd (st : Fin 64) (s : State) := ok (coreDo (bwmWindowEnd st)) s
def execSiteChainScan (x : ChainScan) (s : State) := ok (coreDo (siteChainScan x.inf x.flags)) s
def execModuleResetRelease (st : Fin 64) (s : State) := ok (moduleResetRelease st) s
def execModuleLowPwrReport (st : Fin 64) (flat : Bool) (apps : List Nat) (ident : ModuleId) (s : State) :=
  ok (moduleLowPwrReport st flat apps ident) s
def execModuleReady (st : Fin 64) (s : State) := ok (moduleReady st) s
def execDatapathActivated (st : Fin 64) (s : State) := ok (datapathActivated st) s
def execSiteFault (st : Fin 64) (s : State) := ok (siteFault st) s
def execSiteFaultRetry (st : Fin 64) (s : State) := ok (siteFaultRetry st) s
def execTxpllLoss (st : Fin 64) (s : State) := ok (txpllLoss st) s
def execTxpllRelock (st : Fin 64) (s : State) := ok (txpllRelock st) s

end Sys2Proof.Machine
end

