-- ==== Sys2Proof/Machine/Parse.lean ====
section
/-!
DEFINITION. Machine/Parse.lean: the parser (R70 to R74, R474), the rule key (R76), and the bytes of the flow hash (R96). Pure functions
of a frame's octets and a value of AISLE_PARSE_CFG.
-/
namespace Sys2Proof.Machine

/-- Reach of the parser: 256 bytes or the octets before the FCS (R71). -/
def reach (d : List Byte) : Nat := min 256 d.length

/-- A field of `n` bytes at offset `o`, if it lies within the parser's reach. -/
def field? (d : List Byte) (o n : Nat) : Option Nat := if o + n ≤ reach d then some (beAt d o n) else none

/-- What the parser does next after a header. -/
inductive Nxt where
  | stop
  | l3 (v6 : Bool) (off : Nat)
  | l4 (proto off : Nat)
  | ptpL2 (off : Nat)

/-- The fields of the Ethernet header and its tags (R70): at most two tags on the outer frame, one on an inner frame. A frame cut after
a tag and before the EtherType that follows it has the tag's own EtherType as the innermost one, by the model's choice (log 178). -/
def parseEth (cfg : Word) (d : List Byte) (o : Nat) (inner : Bool) : Parsed × Nxt :=
  let P : Parsed := { dmac := (field? d o 6).getD 0, smac := (field? d (o + 6) 6).getD 0 }
  let cut := fun (P : Parsed) => ({ P with trunc := true }, Nxt.stop)
  let tag := fun v => v == 0x8100 || v == 0x88A8
  let next := fun (P : Parsed) (e at_ : Nat) =>
    let P := { P with etype := e }
    if e = 0x0800 then (P, Nxt.l3 false at_)
    else if e = 0x86DD then (P, Nxt.l3 true at_)
    else if inner then (P, Nxt.stop)
    else if e = 0x88CC then ({ P with lldp := true }, Nxt.stop)
    else if e = 0x8809 then
      (match field? d at_ 1 with
       | none => cut P
       | some x => ({ P with esmc := x == 0x0A }, Nxt.stop))
    else if e = 0x88F7 ∧ cfg.getLsbD 18 then (P, Nxt.ptpL2 at_)
    else (P, Nxt.stop)
  match field? d (o + 12) 2 with
  | none => cut P
  | some e =>
    if !tag e then next P e (o + 14)
    else
      match field? d (o + 14) 2 with
      | none => cut { P with tagged := true, etype := e }
      | some t =>
        let P := { P with tagged := true, pcp := t / 2 ^ 13, dei := t.testBit 12, ovid := t % 4096, etype := e }
        match field? d (o + 16) 2 with
        | none => cut P
        | some e2 =>
          if e2 ≠ 0x8100 ∨ inner then next P e2 (o + 18)
          else
            match field? d (o + 18) 2 with
            | none => cut { P with etype := e2 }
            | some t2 =>
              let P := { P with ivid := t2 % 4096, etype := e2 }
              match field? d (o + 20) 2 with
              | none => cut P
              | some e3 => next P e3 (o + 22)

/-- Ones'-complement sum of the 16-bit words of a header is all ones when its checksum is right. -/
def sumOk (l : List Byte) : Bool :=
  let t := (List.range (l.length / 2)).foldl (fun a i => a + beAt l (2 * i) 2) 0
  let f := fun x => x % 65536 + x / 65536
  f (f t) == 0xFFFF

/-- The IPv4 header at `o` (R70, R72, R73). A flag of this header is set from the fields that were extracted, also where the header is
cut short. Cut before its Total Length it gives no length, and the frame is a cart, by the model's choice (log 179). -/
def parseIp4 (d : List Byte) (o : Nat) (P : Parsed) : Parsed × Nxt :=
  let g := fun k n => (field? d (o + k) n).getD 0
  let whole := (field? d (o + 19) 1).isSome
  let ihl := g 0 1 % 16
  let fr := g 6 2
  let P := { P with
    isIp4 := true, l3off := some o, dscp := g 1 1 / 4, ecn := g 1 1 % 4, proto := g 9 1, src := g 12 4, dst := g 16 4
    l3len := if (field? d (o + 2) 2).isSome then some (o + g 2 2 + 4) else none
    ttl1 := (field? d (o + 8) 1).isSome && decide (g 8 1 ≤ 1)
    badcsum := (field? d o 1).isSome && decide (ihl < 5), opts := decide (5 < ihl)
    frag := decide (fr % 2 ^ 14 ≠ 0), first := decide (fr % 2 ^ 13 = 0 ∧ fr.testBit 13) }
  if !whole then ({ P with trunc := true }, .stop)
  else if ihl < 5 then (P, .stop)
  else
    if reach d < o + 4 * ihl then ({ P with trunc := true }, .stop)
    else
      let P := { P with badcsum := !sumOk (sliceB d o (4 * ihl)) }
      if fr % 2 ^ 13 ≠ 0 then (P, .stop) else (P, .l4 P.proto (o + 4 * ihl))

/-- IPv6 extension headers, at most two (R70, R72). With EXT3 the final Next Header is the number of the third header (log 138). -/
def parseExt (d : List Byte) (nh o left : Nat) (P : Parsed) : Parsed × Nxt :=
  if nh = 0 ∨ nh = 43 ∨ nh = 44 ∨ nh = 60 then
    match left with
    | 0 => ({ P with proto := nh, ext3 := true }, .stop)
    | k + 1 =>
      let g := fun i n => (field? d (o + i) n).getD 0
      if nh = 44 then
        let fr := g 2 2
        let P := { P with
          proto := g 0 1
          frag := P.frag || decide (fr / 8 ≠ 0) || fr.testBit 0
          first := P.first || (decide (fr / 8 = 0) && fr.testBit 0) }
        if (field? d (o + 7) 1).isNone then ({ P with trunc := true }, .stop)
        else if fr / 8 ≠ 0 then (P, .stop) else parseExt d (g 0 1) (o + 8) k P
      else
        let len := 8 * (g 1 1 + 1)
        let P := { P with proto := g 0 1 }
        if (field? d (o + 1) 1).isNone ∨ reach d < o + len then ({ P with trunc := true }, .stop)
        else parseExt d (g 0 1) (o + len) k P
  else ({ P with proto := nh }, .l4 nh o)

/-- The IPv6 header at `o`. Cut before its Payload Length it gives no length, as in IPv4 (log 179). -/
def parseIp6 (d : List Byte) (o : Nat) (P : Parsed) : Parsed × Nxt :=
  let g := fun k n => (field? d (o + k) n).getD 0
  let tc := g 0 2 / 16 % 256
  let P := { P with
    isIp6 := true, l3off := some o, dscp := tc / 4, ecn := tc % 4, proto := g 6 1, src := g 8 16, dst := g 24 16
    l3len := if (field? d (o + 4) 2).isSome then some (o + 40 + g 4 2 + 4) else none
    ttl1 := (field? d (o + 7) 1).isSome && decide (g 7 1 ≤ 1) }
  if (field? d (o + 39) 1).isNone then ({ P with trunc := true }, .stop) else parseExt d (g 6 1) (o + 40) 2 P

/-- A PTP header at `o` (R74): messageType, domainNumber, and the correctionField at offset 8. -/
def parsePtp (d : List Byte) (o : Nat) (P : Parsed) : Parsed :=
  match field? d o 1 with
  | none => { P with trunc := true }
  | some t => { P with ptp := some o, ptpType := t % 16, ptpDomain := (field? d (o + 4) 1).getD 0,
                       trunc := P.trunc || (field? d (o + 15) 1).isNone }

/-- The L4 header at `o`; the second part is the offset of a VXLAN header whose VNI is within reach (R70, R474). -/
def parseL4 (cfg : Word) (d : List Byte) (proto o : Nat) (inner : Bool) (P : Parsed) : Parsed :=
  let g := fun k n => (field? d (o + k) n).getD 0
  if proto = 17 then
    let P := { P with l4off := some o, sport := g 0 2, dport := g 2 2 }
    if (field? d (o + 7) 1).isNone then { P with trunc := true }
    else if inner then P
    else if (P.dport = 319 ∨ P.dport = 320) ∧ cfg.getLsbD 17 then parsePtp d (o + 8) P
    else if P.dport = 3784 ∨ P.dport = 4784 then { P with bfd := true }
    else if P.dport = bits cfg 0 16 ∧ cfg.getLsbD 16 then
      (if (field? d (o + 15) 1).isNone then { P with trunc := true } else { P with vxlan := some (o + 8) })
    else P
  else if proto = 6 then
    let P := { P with l4off := some o, sport := g 0 2, dport := g 2 2, tcpf := g 13 1 }
    { P with trunc := P.trunc || (field? d (o + 19) 1).isNone }
  else P

/-- A frame, or the inner frame of a VXLAN frame, parsed from its Ethernet header at `o`. -/
def parseFrom (cfg : Word) (d : List Byte) (o : Nat) (inner : Bool) : Parsed :=
  let r := parseEth cfg d o inner
  match r.2 with
  | .ptpL2 at_ => parsePtp d at_ r.1
  | .l3 v6 at_ =>
    let q := if v6 then parseIp6 d at_ r.1 else parseIp4 d at_ r.1
    (match q.2 with
     | .l4 proto at_ => parseL4 cfg d proto at_ inner q.1
     | _ => q.1)
  | _ => r.1

/-- A received frame (R70). -/
def parse (cfg : Word) (d : List Byte) : Parsed := parseFrom cfg d 0 false

/-- The inner frame of a VXLAN frame. -/
def Parsed.innerOf (P : Parsed) (cfg : Word) (d : List Byte) : Option Parsed :=
  P.vxlan.map fun v => parseFrom cfg d (v + 8) true

/-- The VNI of a VXLAN frame. -/
def vniOf (d : List Byte) (v : Nat) : Nat := beAt d (v + 4) 3

/-- L of R73, at least 64; none without an outer IP header. -/
def Parsed.L (P : Parsed) : Option Nat := P.l3len.map fun n => max n 64

/-- Length class (R73). -/
def Parsed.cls (P : Parsed) : Nat :=
  match P.L with
  | none => 3
  | some n => if n ≤ 256 then 0 else if n ≤ 1024 then 1 else if n ≤ 4096 then 2 else 3

/-- A PTP event message (R74). -/
def Parsed.isEvent (P : Parsed) : Bool := P.ptp.isSome && decide (P.ptpType ≤ 3)

/-- KEYFMT of a described header (R76). -/
def Parsed.fmt (P : Parsed) : Nat := if P.isIp4 then 2 else if P.isIp6 then 3 else 1

/-- The parser flags, BADCSUM in bit 5 to TRUNC in bit 0. -/
def Parsed.flags (P : Parsed) : Nat :=
  let b := fun (x : Bool) (k : Nat) => if x then 2 ^ k else 0
  b P.badcsum 5 + b P.frag 4 + b P.first 3 + b P.ttl1 2 + b (P.opts || P.ext3) 1 + b P.trunc 0

/-- The rule key of a described header (R76): `pcp` is that of the outer tag, `vni` that of a decapsulated frame. -/
def Parsed.ruleKey (P : Parsed) (port vrf bd pcp vni : Nat) : BitVec 320 :=
  let p := fun v w lo => v % 2 ^ w * 2 ^ lo
  let common := p P.fmt 4 316 + p port 9 307 + p vrf 12 295 + p bd 14 281 + p pcp 3 278 + p P.dscp 6 272 + p P.ecn 2 270 +
    p P.proto 8 262 + p P.flags 6 256
  let rest :=
    if P.fmt = 1 then p P.dmac 48 208 + p P.smac 48 160 + p P.etype 16 144 + p P.ovid 12 132 + p P.ivid 12 120
    else if P.fmt = 2 then p P.src 32 224 + p P.dst 32 192 + p P.sport 16 176 + p P.dport 16 160 + p P.tcpf 8 152 + p vni 24 128
    else p P.dst 128 128 + p (P.src / 2 ^ 64) 64 64 + p P.sport 16 48 + p P.dport 16 32 + p P.tcpf 8 24 + p vni 24 0
  BitVec.ofNat 320 (common + rest)

/-- The bytes of the flow hash (R96); the L4 ports are hashed as zero when FRAG or EXT3 is set. -/
def Parsed.hashBytes (P : Parsed) (bd : Nat) : List Byte :=
  let ports := if P.frag || P.ext3 then beBytes 4 0 else beBytes 2 P.sport ++ beBytes 2 P.dport
  if P.isIp4 then beBytes 1 P.proto ++ beBytes 4 P.src ++ beBytes 4 P.dst ++ ports
  else if P.isIp6 then beBytes 1 P.proto ++ beBytes 16 P.src ++ beBytes 16 P.dst ++ ports
  else beBytes 2 bd ++ beBytes 6 P.smac ++ beBytes 6 P.dmac ++ beBytes 2 P.etype

end Sys2Proof.Machine
end

