-- ==== Sys2Proof/Machine/Search.lean ====
section
/-!
DEFINITION. Machine/Search.lean: associative search (R102 to R131): tiles and their copies, lookups, the commands on LPM,
psel and rules, rebuilds, the copy assay, and the findings the assays share (R375, R377, R476).
-/
namespace Sys2Proof.Machine

/-! ### Tiles (R102 to R106) -/

/-- Place of a tile's registers. -/
def tileN (a t : Nat) : Nat := a * 100 + t

/-- Key of entry `e` of a tile. -/
def tkey (a t e : Nat) : Nat := tileN a t * 2048 + e

/-- Units in an entry of a tile: WIDTH as a number of units. -/
def State.tileW (s : State) (a t : Nat) : Nat :=
  let w := s.fld F.AISLE_TILE_CFG_WIDTH (tileN a t)
  if w = 0 then 1 else if w = 1 then 2 else 4

/-- Entries of a tile. -/
def State.tileSize (s : State) (a t : Nat) : Nat := 2048 / s.tileW a t

def State.used (s : State) (a t : Nat) : Nat := s.fld F.AISLE_TILE_CFG_USED (tileN a t)
def setUsed (a t n : Nat) : Act := setF F.AISLE_TILE_CFG_USED (tileN a t) n

/-- A write of an entry to its tile and to the SRAM copy, in one cycle (R106, R110). -/
def putTile (a t e : Nat) (x : Tile) : Act := acts [.upd (.tile (tkey a t e) x), .upd (.copy (tkey a t e) x)]

/-- The valid bit of an entry is cleared; its other bits stay (R118, R119). -/
def clearValid (a t e : Nat) : Act := .look fun s => putTile a t e { s.tile (tkey a t e) with valid := false }

/-- A move: the new place becomes valid first, then the valid bit at the old one is cleared (R119). -/
def moveTile (a t i j : Nat) : Act := .look fun s => acts [putTile a t j (s.tile (tkey a t i)), clearValid a t i]

/-- Whether an entry matches a key of its own width (R103). -/
def Tile.hit (x : Tile) (key : BitVec 320) : Bool := x.valid && ((key ^^^ x.value) &&& x.care) == 0

/-- The entries of a tile that are not all at their default, in ascending order of index. -/
def State.tileEntries (s : State) (a t : Nat) : List (Nat × Tile) :=
  (s.tiles.filter fun e => decide (tkey a t 0 ≤ e.1 ∧ e.1 < tkey a t 2048)).map fun e => (e.1 - tkey a t 0, e.2)

/-- Result of the lowest-index hit of a tile (R103). -/
def State.tileFind (s : State) (a t : Nat) (key : BitVec 320) : Option (BitVec 64) :=
  ((s.tileEntries a t).find? fun e => e.2.hit key).map (·.2.result)

/-- The tile behind a slot, 0 to 99 (R129). -/
def State.lpmTile (s : State) (a n : Nat) : Nat := min (s.fld F.AISLE_LPM_MAP_TILE (a * 64 + n)) 99
def State.ruleTile (s : State) (a n : Nat) : Nat := min (s.fld F.AISLE_RULE_MAP_TILE (a * 32 + n)) 99

/-- The slot that names a tile: rule or LPM, and its number. -/
def State.slotOf (s : State) (a t : Nat) : Option (Bool × Nat) :=
  match (List.range 64).find? fun n => s.lpmTile a n == t with
  | some n => some (false, n)
  | none => ((List.range 32).find? fun n => s.ruleTile a n == t).map (true, ·)

/-- Rebuild states (R121, R128). -/
def rbIdle : Nat := 0
def rbCopy : Nat := 1
def rbSwitch : Nat := 2
def rbClear : Nat := 3

def chanN (a k : Nat) : Nat := a * 4 + k
def State.rbState (s : State) (a k : Nat) : Nat := s.fld F.AISLE_REBUILD_STATUS_STATE (chanN a k)

/-- Whether a channel is copying into, or about to switch to, a tile. -/
def State.rbTarget (s : State) (a t : Nat) : Bool :=
  (List.range 4).any fun k => (s.rbState a k == rbCopy || s.rbState a k == rbSwitch) && (s.rebuildC (chanN a k)).target == t

/-- Whether a channel is clearing a tile. -/
def State.rbClearing (s : State) (a t : Nat) : Bool :=
  (List.range 4).any fun k => s.rbState a k == rbClear && (s.rebuildC (chanN a k)).old == t

/-- ROLE of a tile (R130). -/
def State.tileRole (s : State) (a t : Nat) : Nat :=
  if s.rbTarget a t then 3 else match s.slotOf a t with | some (true, _) => 2 | some (false, _) => 1 | none => 0

/-! ### Lookups (R107, R108, R111) -/

/-- Key of an entry of a flat table in one of its copies. -/
def flatKey (table copy i : Nat) : Nat := (table * 16 + copy) * 2 ^ 20 + i

/-- Partition of an LPM key (R111). -/
def partition (v6 : Bool) (vrf addr : Nat) : Nat :=
  let h := (nbits vrf 8 4) ^^^ (nbits vrf 4 4) ^^^ (nbits vrf 0 4)
  (if v6 then 4096 else 0) + h * 256 + (if v6 then nbits addr 120 8 else nbits addr 24 8)

/-- psel[p] of an aisle. -/
def State.psel (s : State) (a p : Nat) : BitVec 64 := (s.flatE (flatKey 14 a p)).setWidth 64

/-- Slots 0 to 61 that a psel entry enables. -/
def slotsOf (e : BitVec 64) : List Nat := (List.range 62).filter fun i => e.getLsbD i

/-- Units of a family's key (R75). -/
def famW (v6 : Bool) : Nat := if v6 then 2 else 1

/-- The LPM key (R75). -/
def lpmKey (v6 : Bool) (vrf addr : Nat) : BitVec 320 :=
  if v6 then BitVec.ofNat 320 (2 ^ 159 + vrf % 2 ^ 12 * 2 ^ 146 + addr % 2 ^ 128 * 2 ^ 18)
  else BitVec.ofNat 320 (2 ^ 78 + vrf % 2 ^ 12 * 2 ^ 66 + addr % 2 ^ 32 * 2 ^ 34)

/-- The seam's result: the lowest-index hit of the lowest slot that has one (R107). -/
def State.lpmSearch (s : State) (a : Nat) (v6 : Bool) (vrf addr : Nat) : Option (BitVec 64) :=
  let key := lpmKey v6 vrf addr
  (slotsOf (s.psel a (partition v6 vrf addr)) ++ [62, 63]).findSome? fun n =>
    let t := s.lpmTile a n
    if s.tileW a t == famW v6 then s.tileFind a t key else none

/-- The rule result: the hit of the lowest rule slot that has one (R108). A KEYFMT of 0 searches no bank. -/
def State.ruleSearch (s : State) (a fmt : Nat) (key : BitVec 320) : Option (BitVec 64) :=
  if fmt = 0 then none
  else
    (List.range 32).findSome? fun n =>
      if (s.fld F.AISLE_RULE_MAP_FMT_MASK (a * 32 + n)).testBit (fmt - 1) then
        let t := s.ruleTile a n
        s.tileFind a t (key >>> (320 - 80 * s.tileW a t))
      else none

/-- The forwarding fields of an LPM result (R104). -/
def lpmFwd (r : BitVec 64) : Fwd :=
  { kind := nbits r.toNat 30 2, discard := r.getLsbD 29, loc := r.getLsbD 28, value := nbits r.toNat 0 24 }

/-! ### Findings and the assay window (R346, R348, R375 to R378) -/

/-- WIN_COUNT (R377). -/
def State.winCount (s : State) : Nat := s.dma.buckets.sum

/-- SEALED is due: the condition of R346. -/
def State.sealDue (s : State) : Bool :=
  s.bit F.SYS_MODE_CFG_AUTO_SEAL 0 && decide (s.fld F.ASSAY_CFG_SEAL_MAX 0 < s.winCount)

/-- In SETUP, DRAIN or PROVING the condition of R346 sets SEAL_DUE. -/
def sealLatch : Act :=
  .look fun s =>
    when ([modeSetup, modeDrain, modeProving].contains s.opMode && s.sealDue && !s.bit F.SYS_MODE_SEAL_DUE 0)
      (acts [setB F.SYS_MODE_SEAL_DUE 0 true, raise F.SYS_MODE_EVT_CAUSE_SEAL_DUE 0])

/-- The one-second buckets of the window change: WIN_COUNT, SEAL_THRESH, SEAL_DUE. -/
def setWindow (l : List Nat) : Act :=
  .look fun s =>
    let m := s.fld F.ASSAY_CFG_SEAL_MAX 0
    acts [modDma fun d => { d with buckets := l }, setF F.ASSAY_STATUS_WIN_COUNT 0 (min l.sum 0xFFFF),
      when (decide (s.winCount ≤ m ∧ m < l.sum)) (raise F.QTR_ASSAY_EVT_CAUSE_SEAL_THRESH 0), sealLatch]

/-- One more mismatch in the window. -/
def winAdd : Act :=
  .look fun s => setWindow (match s.dma.buckets with | [] => [1] | b :: r => (b + 1) :: r)

/-- A finding enters the mismatch log; the pass is no longer clean, and in SEALED CLEAN falls (R348). -/
def logFinding (f : Finding) : Act :=
  .look fun s =>
    let t := s.nowNs
    acts [modDma fun d => { d with log := ({ f with sec := t / 10 ^ 9, ns := t % 10 ^ 9 } :: d.log).take 64, passDirty := true },
      when (s.opMode == modeSealed) (setB F.SYS_MODE_CLEAN 0 false)]

/-- CRC-32C of a key, register initialized to all ones (R476). -/
def keyCrc (l : List Byte) : BitVec 32 := crc32c crcInit l

/-! ### Prefixes (R113 to R118) -/

/-- A prefix as a command names it. -/
structure Prefix where
  v6 : Bool
  vrf : Nat
  addr : Nat
  len : Nat
deriving DecidableEq, Repr

/-- Address with the bits beyond the length stored as zero (R115). -/
def Prefix.masked (p : Prefix) : Nat :=
  let n := if p.v6 then 128 else 32
  p.addr / 2 ^ (n - p.len) * 2 ^ (n - p.len)

/-- The entry a prefix is stored as. -/
def Prefix.entry (p : Prefix) (res : BitVec 32) : Tile :=
  let k := 80 * famW p.v6
  { valid := true
    value := lpmKey p.v6 p.vrf p.masked
    care := BitVec.ofNat 320 ((2 ^ (14 + p.len) - 1) * 2 ^ (k - 14 - p.len))
    result := res.setWidth 64 }

/-- Number of ones of a word. -/
def ones (w : Nat) (x : BitVec w) : Nat := ((List.range w).filter fun i => x.getLsbD i).length

/-- Prefix length of an entry: its care bits but for 2 of family and 12 of VRF. -/
def Tile.plen (x : Tile) : Nat := ones 320 x.care - 14

/-- Same prefix, whatever its result. -/
def Tile.same (x y : Tile) : Bool := x.valid && y.valid && x.value == y.value && x.care == y.care

/-- Lengths of the entries 0 to USED - 1 of a tile (R114). -/
def State.lens (s : State) (a t : Nat) : List Nat := (List.range (s.used a t)).map fun i => (s.tile (tkey a t i)).plen

/-- First indices of the groups shorter than `len`, from the shortest upward. -/
def groupStarts (l : List Nat) (len : Nat) : List Nat :=
  ((List.range l.length).filter fun i => decide (l.getD i 0 < len) && (i == 0 || l.getD (i - 1) 0 != l.getD i 0)).reverse

/-- Last indices of the groups of the entries from `x` on, downward. -/
def groupEnds (l : List Nat) (x : Nat) : List Nat :=
  (List.range l.length).filter fun i => decide (x ≤ i) && (i + 1 == l.length || l.getD (i + 1) 0 != l.getD i 0)

/-- One more move made (R119, R131). -/
def countMove (a : Nat) : Act := count 0x1A (2 * a) 2 1

/-- Chain of moves that opens a place: each index moves to the hole, which is then where it was. -/
def chainMoves (a t hole : Nat) (l : List Nat) : Act × Nat :=
  match l with
  | [] => (.skip, hole)
  | i :: r =>
    let m := chainMoves a t i r
    if i = hole then (m.1, m.2) else (acts [moveTile a t i hole, countMove a, m.1], m.2)

/-- Place a new entry in a tile that has room (R117). -/
def placeNew (a t : Nat) (x : Tile) : Act :=
  .look fun s =>
    let m := chainMoves a t (s.used a t) (groupStarts (s.lens a t) x.plen)
    acts [m.1, putTile a t m.2 x, setUsed a t (s.used a t + 1)]

/-- Delete the entry at an index of an LPM tile, and close the gap by the reverse chain (R118). -/
def deleteAt (a t x : Nat) : Act := .look fun s => acts [clearValid a t x, (chainMoves a t x (groupEnds (s.lens a t) x)).1,
  setUsed a t (s.used a t - 1)]

/-- Index at which a tile holds a prefix. -/
def State.presentAt (s : State) (a t : Nat) (x : Tile) : Option Nat :=
  ((s.tileEntries a t).find? fun e => e.2.same x).map (·.1)

/-- Band of an LPM slot, in effect. -/
def State.bandHas (s : State) (a n len : Nat) : Bool :=
  decide (s.fld F.AISLE_LPM_MAP_LEN_MIN (a * 64 + n) ≤ len ∧ len ≤ s.fld F.AISLE_LPM_MAP_LEN_MAX (a * 64 + n))

/-- Candidate slots for a prefix (R117). -/
def State.candSlots (s : State) (a : Nat) (p : Prefix) : List Nat :=
  if p.len < 8 then [if p.v6 then 63 else 62]
  else
    (slotsOf (s.psel a (partition p.v6 p.vrf p.masked))).filter fun n =>
      s.tileW a (s.lpmTile a n) == famW p.v6 && s.bandHas a n p.len

/-- The short-prefix slot has a tile of another width than the family's key (R116, R117). -/
def State.shortBad (s : State) (a : Nat) (p : Prefix) : Bool :=
  decide (p.len < 8) && s.tileW a (s.lpmTile a (if p.v6 then 63 else 62)) != famW p.v6

/-- The rebuild channels whose target shadows a slot (R122). -/
def State.dualChans (s : State) (a : Nat) (rule : Bool) (n : Nat) : List Nat :=
  (List.range 4).filter fun k =>
    let c := s.rebuildC (chanN a k)
    (s.rbState a k == rbCopy || s.rbState a k == rbSwitch) && c.rule == rule && c.slot == n

/-- A rebuild ends without a switch, and its target is cleared (R121). No source entry is left to copy, and PROGRESS returns to 0, by the
model's choice (log 180). -/
def rebuildFail (a k result : Nat) : Act :=
  acts [setF F.AISLE_REBUILD_STATUS_RESULT (chanN a k) result, setF F.AISLE_REBUILD_STATUS_STATE (chanN a k) rbClear,
      setF F.AISLE_REBUILD_STATUS_PROGRESS (chanN a k) 0,
      modRebuild (chanN a k) fun c => { c with old := c.target, okDone := false },
      raise F.AISLE_SRCH_EVT_CAUSE_REBUILD_FAIL a, count 0x1A (2 * a + 1) 0 1]

/-- Put an entry in the target of a rebuild: overwrite it in place, or place it under the new band (R117, R122). A target that cannot take it
ends a copy. In SWITCH the target can take every entry that the source takes, since `lpmInsertC` switches before one outside the new
band (log 117). -/
def targetPut (a k : Nat) (x : Tile) : Act :=
  .look fun s =>
    let c := s.rebuildC (chanN a k)
    match s.presentAt a c.target x with
    | some i => putTile a c.target i x
    | none =>
      if decide (c.lmin ≤ x.plen ∧ x.plen ≤ c.lmax) && decide (s.used a c.target < s.tileSize a c.target) then placeNew a c.target x
      else when (s.rbState a k == rbCopy) (rebuildFail a k 5)

/-- LPM_INSERT on an aisle: status and effect (R116, R117, R122). -/
def lpmInsert (p : Prefix) (res : BitVec 32) (a : Nat) (s : State) : Nat × Act :=
  let x := p.entry res
  if s.shortBad a p then (3, .skip)
  else
    let cands := s.candSlots a p
    let dual := fun n => each (s.dualChans a false n) fun k => targetPut a k x
    match cands.findSome? fun n => (s.presentAt a (s.lpmTile a n) x).map (n, ·) with
    | some (n, i) => (0, acts [putTile a (s.lpmTile a n) i x, dual n])
    | none =>
      match cands.find? fun n => decide (s.used a (s.lpmTile a n) < s.tileSize a (s.lpmTile a n)) with
      | none => (1, raise F.AISLE_SRCH_EVT_CAUSE_LPM_FULL a)
      | some n => (0, acts [placeNew a (s.lpmTile a n) x, count 0x1A (2 * a) 0 1, dual n])

/-- REBUILD_SWITCH (R121, R123, R281): at a packet boundary of the aisle the slot's map names the target with the new band. -/
def rebuildSwitch (a k : Nat) : Act :=
  .look fun s =>
    let c := s.rebuildC (chanN a k)
    let n := a * 64 + c.slot
    when (s.rbState a k == rbSwitch) (acts [
      modRebuild (chanN a k) fun c => { c with old := if c.rule then s.ruleTile a c.slot else s.lpmTile a c.slot, okDone := true },
      (if c.rule then setFHw F.AISLE_RULE_MAP_TILE (a * 32 + c.slot) c.target
       else acts [setFHw F.AISLE_LPM_MAP_TILE n c.target, setFHw F.AISLE_LPM_MAP_LEN_MIN n c.lmin,
         setFHw F.AISLE_LPM_MAP_LEN_MAX n c.lmax]),
      setF F.AISLE_REBUILD_STATUS_STATE (chanN a k) rbClear])

/-- The channels in SWITCH of candidate slots whose target cannot take a prefix, for its band or its room: the insertion waits for their
packet boundary, so that both tiles hold the same entries there (R123, log 117). -/
def State.switchFirst (s : State) (a : Nat) (p : Prefix) : List Nat :=
  (List.range 4).filter fun k =>
    let c := s.rebuildC (chanN a k)
    s.rbState a k == rbSwitch && !c.rule && (s.candSlots a p).contains c.slot &&
      (!decide (c.lmin ≤ p.len ∧ p.len ≤ c.lmax) ||
        (s.presentAt a c.target (p.entry 0)).isNone && decide (s.tileSize a c.target ≤ s.used a c.target))

/-- An insertion, after the switches it waits for, and the counter of refused insertions. -/
def lpmInsertC (p : Prefix) (res : BitVec 32) (a : Nat) (s : State) : Nat × Act :=
  let first := each (s.switchFirst a p) (rebuildSwitch a)
  let r := lpmInsert p res a (run first s)
  (r.1, acts [first, r.2, when (r.1 != 0) (count 0x1A (2 * a) 3 1)])

/-- LPM_DELETE on an aisle: status and effect (R116, R118, R122). -/
def lpmDelete (p : Prefix) (a : Nat) (s : State) : Nat × Act :=
  let x := p.entry 0
  if s.shortBad a p then (3, .skip)
  else
    match (s.candSlots a p).findSome? fun n => (s.presentAt a (s.lpmTile a n) x).map (n, ·) with
    | none => (2, .skip)
    | some (n, i) =>
      (0, acts [deleteAt a (s.lpmTile a n) i, count 0x1A (2 * a) 1 1,
        each (s.dualChans a false n) fun k => .look fun s =>
          let t := (s.rebuildC (chanN a k)).target
          match s.presentAt a t x with | some j => deleteAt a t j | none => .skip])

/-- The bands of the slots a psel entry enables fall from slot to slot (R113). -/
def bandsFall (l : List (Nat × Nat)) : Bool :=
  match l with
  | [] => true
  | x :: r => (r.all fun y => decide (y.2 ≤ x.1)) && bandsFall r

/-- PSEL_WRITE on an aisle: bits 62 and 63 are ignored (R111, R113). -/
def pselWrite (p : Nat) (e : BitVec 64) (a : Nat) (s : State) : Nat × Act :=
  let l := slotsOf e
  let bands := l.map fun n => (s.fld F.AISLE_LPM_MAP_LEN_MIN (a * 64 + n), s.fld F.AISLE_LPM_MAP_LEN_MAX (a * 64 + n))
  if 12 < l.length ∨ bandsFall bands = false then (4, raise F.AISLE_SRCH_EVT_CAUSE_PSEL_BAD a)
  else (0, .upd (.flat (flatKey 14 a p) ((e &&& 0x3FFFFFFFFFFFFFFF#64).setWidth 512)))

/-! ### Rules (R115) -/

/-- An index of a rule slot that its tile has. -/
def State.ruleIdx (s : State) (a n i : Nat) : Bool := decide (n < 32) && decide (i < s.tileSize a (s.ruleTile a n))

/-- Write an entry of a rule slot, with its dual write (R122). -/
def rulePut (a n i : Nat) (x : Tile) : Act :=
  .look fun s =>
    let t := s.ruleTile a n
    let one := fun (t : Nat) => .look fun s =>
      acts [setUsed a t (s.used a t + (if x.valid then 1 else 0) - (if (s.tile (tkey a t i)).valid then 1 else 0)), putTile a t i x]
    acts [one t, each (s.dualChans a true n) fun k => .look fun s => one (s.rebuildC (chanN a k)).target]

/-- RULE_WRITE: units beyond the tile's width must be 0. Value and care come as 320 bits, most significant unit first. -/
def ruleWrite (n i : Nat) (value care : BitVec 320) (res : BitVec 64) (a : Nat) (s : State) : Nat × Act :=
  if s.ruleIdx a n i = false then (4, .skip)
  else
    let sh := 320 - 80 * s.tileW a (s.ruleTile a n)
    if value.toNat % 2 ^ sh ≠ 0 ∨ care.toNat % 2 ^ sh ≠ 0 then (4, .skip)
    else (0, rulePut a n i { valid := true, value := value >>> sh, care := care >>> sh, result := res })

/-- RULE_CLEAR. -/
def ruleClear (n i : Nat) (a : Nat) (s : State) : Nat × Act :=
  if s.ruleIdx a n i = false then (4, .skip)
  else if (s.tile (tkey a (s.ruleTile a n) i)).valid = false then (2, .skip)
  else (0, rulePut a n i { s.tile (tkey a (s.ruleTile a n) i) with valid := false })

/-- RULE_MOVE: the target is written and made valid, then the source is cleared (R119). A source that holds no valid entry ends
with status 0x2, which the spec does not state (log 20). -/
def ruleMove (n i m j : Nat) (a : Nat) (s : State) : Nat × Act :=
  if s.ruleIdx a n i = false ∨ s.ruleIdx a m j = false then (4, .skip)
  else
    let x := s.tile (tkey a (s.ruleTile a n) i)
    if s.tileW a (s.ruleTile a n) ≠ s.tileW a (s.ruleTile a m) ∨ (s.tile (tkey a (s.ruleTile a m) j)).valid then (4, .skip)
    else if x.valid = false then (2, .skip)
    else (0, acts [rulePut a m j x, rulePut a n i { x with valid := false }, countMove a])

/-- A command on all 16 aisles: the worst status, and the mask of the aisles that did not report 0x0 (R116). -/
def onAisles (f : Nat → State → Nat × Act) (k : Nat → Nat → Act) : Act :=
  .look fun s =>
    let st := (List.range 16).map fun a => (f a s).1
    acts [each (List.range 16) fun a => .look fun s => (f a s).2,
      k (st.foldl max 0) ((List.range 16).foldl (fun m a => if st.getD a 0 = 0 then m else m + 2 ^ a) 0)]

/-! ### Rebuilds (R120 to R123) -/

/-- The result code with which a GO fails its checks; none if they pass. Where several fail, R120 gives no order: this is log 155. -/
def State.rebuildCheck (s : State) (a : Nat) (rule : Bool) (slot target lmin lmax : Nat) : Option Nat :=
  let src := if rule then s.ruleTile a slot else s.lpmTile a slot
  let bands := fun (n : Nat) => if n = slot then (lmin, lmax)
    else (s.fld F.AISLE_LPM_MAP_LEN_MIN (a * 64 + n), s.fld F.AISLE_LPM_MAP_LEN_MAX (a * 64 + n))
  if rule ∧ 32 ≤ slot then some 3
  else if s.tileRole a target ≠ 0 ∨ s.rbClearing a target ∨ s.tileW a target ≠ s.tileW a src ∨ 100 ≤ target then some 2
  else if ¬ rule ∧ (lmax < lmin ∨ (62 ≤ slot ∧ (lmin, lmax) ≠ (0, 7))) then some 3
  else if ¬ rule ∧ slot < 62 ∧
      ((List.range 8192).any fun p => (s.psel a p).getLsbD slot && !bandsFall ((slotsOf (s.psel a p)).map bands)) then some 4
  else none

/-- REBUILD_GO (R120, R121). A slot whose rebuild in another channel stands in CLEAR is still being rebuilt (log 156). -/
def rebuildGo (req : Req) (a k : Nat) (value : Word) : Act :=
  onWrite req .AISLE_REBUILD_CTL (chanN a k) fun rq =>
    .look fun s =>
      let n := chanN a k
      let rule := value.getLsbD 30
      let slot := bits value 24 6
      let target := min (bits value 17 7) 99
      let lmax := min (bits value 8 8) 128
      let lmin := min (bits value 0 8) 128
      let other := (List.range 4).any fun j => j != k && s.rbState a j != rbIdle &&
        (s.rebuildC (chanN a j)).rule == rule && (s.rebuildC (chanN a j)).slot == slot
      if value.getLsbD 31 = false then writeFields rq .AISLE_REBUILD_CTL n value
      else if s.rbState a k ≠ rbIdle ∨ other ∨ s.opMode = modeSealed then reject3 (.srch a) rq .AISLE_REBUILD_CTL n
      else
        acts [writeFields rq .AISLE_REBUILD_CTL n value,
          (match s.rebuildCheck a rule slot target lmin lmax with
           | some code => acts [setF F.AISLE_REBUILD_STATUS_RESULT n code, raise F.AISLE_SRCH_EVT_CAUSE_REBUILD_FAIL a,
               count 0x1A (2 * a + 1) 0 1]
           | none => acts [
               modRebuild n fun _ => { rule := rule, slot := slot, target := target, lmin := lmin, lmax := lmax },
               .upd (.keep .tiles fun i => i / 2048 != tileN a target), .upd (.keep .copies fun i => i / 2048 != tileN a target),
               setUsed a target 0,
               setB F.AISLE_REBUILD_STATUS_BUSY n true, setF F.AISLE_REBUILD_STATUS_STATE n rbCopy,
               setF F.AISLE_REBUILD_STATUS_PROGRESS n 0])]

/-- Copy entries of the source into the target, in ascending order of index (R122). PROGRESS is the next source entry; past the last one it
keeps the last (log 117). -/
def rebuildEntries (a k : Nat) (l : List (Nat × Tile)) : Act :=
  match l with
  | [] => .skip
  | (i, x) :: r =>
    .look fun s =>
      let c := s.rebuildC (chanN a k)
      if s.rbState a k ≠ rbCopy then .skip
      else acts [
        when x.valid (acts [
          (if c.rule then acts [putTile a c.target i x,
            setUsed a c.target (s.used a c.target + (if (s.tile (tkey a c.target i)).valid then 0 else 1))]
           else targetPut a k x),
          .look fun s => when (s.rbState a k == rbCopy) (acts [countMove a,
            setF F.AISLE_REBUILD_STATUS_PROGRESS (chanN a k) (min (i + 1) (s.tileSize a c.target - 1))])]),
        rebuildEntries a k r]

/-- REBUILD_COPY_DONE (R121, R122): the source is copied whole; the channel waits for the packet boundary. -/
def rebuildCopyDone (a k : Nat) : Act :=
  .look fun s =>
    let c := s.rebuildC (chanN a k)
    let src := if c.rule then s.ruleTile a c.slot else s.lpmTile a c.slot
    when (s.rbState a k == rbCopy) (acts [rebuildEntries a k (s.tileEntries a src), .look fun s =>
      when (s.rbState a k == rbCopy) (acts [setF F.AISLE_REBUILD_STATUS_PROGRESS (chanN a k) (s.tileSize a src - 1),
        setF F.AISLE_REBUILD_STATUS_STATE (chanN a k) rbSwitch])])

/-- REBUILD_CLEAR_DONE (R121): the tile is cleared and is a relief tile. -/
def rebuildClearDone (a k : Nat) : Act :=
  .look fun s =>
    let c := s.rebuildC (chanN a k)
    when (s.rbState a k == rbClear) (acts [
      .upd (.keep .tiles fun i => i / 2048 != tileN a c.old), .upd (.keep .copies fun i => i / 2048 != tileN a c.old),
      setUsed a c.old 0, setF F.AISLE_REBUILD_STATUS_STATE (chanN a k) rbIdle, setB F.AISLE_REBUILD_STATUS_BUSY (chanN a k) false,
      when c.okDone (acts [setF F.AISLE_REBUILD_STATUS_RESULT (chanN a k) 1, raise F.AISLE_SRCH_EVT_CAUSE_REBUILD_DONE a,
        count 0x1A (2 * a) 7 1]),
      .upd (.rebuild (chanN a k) {})])

/-! ### Copy assay (R124, R125) -/

/-- A unit's 80-bit part of an entry's 320-bit field; unit 0 of the entry holds the most significant bits (R102). -/
def unitOf (x : BitVec 320) (w j : Nat) : Nat := nbits x.toNat (80 * (w - 1 - j)) 80

/-- An entry with upset bits flipped in one unit. -/
def Tile.flip (x : Tile) (w j flip : Nat) : Tile :=
  let sh := 80 * (w - 1 - j)
  { valid := x.valid ^^ flip.testBit 160
    value := x.value ^^^ BitVec.ofNat 320 (nbits flip 0 80 * 2 ^ sh)
    care := x.care ^^^ BitVec.ofNat 320 (nbits flip 80 80 * 2 ^ sh)
    result := x.result ^^^ BitVec.ofNat 64 (nbits flip 161 64) }

/-- One unit of an entry rewritten from another. -/
def Tile.repair (x c : Tile) (w j : Nat) : Tile :=
  let m : BitVec 320 := BitVec.ofNat 320 ((2 ^ 80 - 1) * 2 ^ (80 * (w - 1 - j)))
  { valid := c.valid, result := c.result
    value := (x.value &&& ~~~m) ||| (c.value &&& m), care := (x.care &&& ~~~m) ||| (c.care &&& m) }

/-- Whether a unit reads alike in the tile and its copy. -/
def Tile.agree (x c : Tile) (w j : Nat) : Bool :=
  x.valid == c.valid && x.result == c.result && unitOf x.value w j == unitOf c.value w j && unitOf x.care w j == unitOf c.care w j

/-- The finding of a TCAM repair or loss (R375, R476). -/
def tcamFinding (a t u kind : Nat) (c : Tile) (w j : Nat) : Act :=
  .look fun s =>
    let table := match s.tileRole a t with | 1 => 13 | 2 => 15 | _ => 0
    acts [logFinding { table := table, kind := kind, place := a, index := t * 65536 + u
                       crc := keyCrc (beBytes 10 (unitOf c.value w j) ++ beBytes 10 (unitOf c.care w j)) }, winAdd]

/-- Whether a tile keeps the order of R114: that of an LPM slot, or the target of such a slot's rebuild. -/
def State.sorted (s : State) (a t : Nat) : Bool :=
  s.tileRole a t == 1 || (List.range 4).any fun k => (s.rbState a k == rbCopy || s.rbState a k == rbSwitch) &&
    (s.rebuildC (chanN a k)).target == t && !(s.rebuildC (chanN a k)).rule

/-- ASSAY_UNIT_READ (R124, R125). Upsets of the unit since its last reading arrive with the reading (log 21). -/
def assayUnitRead (a flip code : Nat) : Act :=
  .look fun s =>
    when (s.bit F.AISLE_SRCH_CFG_ASSAY_EN a && s.mode.started && s.zolOn && !s.clk.soft.contains (unitAisle a)) (
      let pos := (s.aisle a).sweepPos
      let t := pos / 2048
      let u := pos % 2048
      let w := s.tileW a t
      let e := u / w
      let j := u % w
      let k := tkey a t e
      let x := (s.tile k).flip w j flip
      let c := s.copyT k
      acts [.upd (.tile k x),
        (if code = 2 then
          acts [(if s.sorted a t then (if e < s.used a t then deleteAt a t e else clearValid a t e)
                 else acts [clearValid a t e, when c.valid (setUsed a t (s.used a t - 1))]),
            count 0x1A (2 * a) 6 1, raise F.AISLE_SRCH_EVT_CAUSE_TCAM_LOST a, tcamFinding a t u 4 c w j]
         else acts [when (code == 1) (count 0x1A (2 * a) 5 1),
          when (!x.agree c w j) (acts [when (s.bit F.AISLE_SRCH_CFG_REPAIR_EN a) (.upd (.tile k (x.repair c w j))),
            count 0x1A (2 * a) 4 1, raise F.AISLE_SRCH_EVT_CAUSE_TCAM_REPAIR a, tcamFinding a t u 3 c w j])]),
        (if pos + 1 < 204800 then modAisle a fun A => { A with sweepPos := pos + 1 }
         else acts [modAisle a fun A => { A with sweepPos := 0, swept := A.swept || A.sweepFrom, sweepFrom := true },
           addMod F.AISLE_SRCH_STATUS_ASSAY_SWEEPS a 1])])

/-! ### Throttle step (R127, R344) -/

/-- Every aisle takes the effective step. -/
def stepSync : Act :=
  .look fun s =>
    each (List.range 16) fun a =>
      when (s.fld F.AISLE_SRCH_STATUS_STEP a != s.effStep)
        (acts [setF F.AISLE_SRCH_STATUS_STEP a s.effStep, raise F.AISLE_SRCH_EVT_CAUSE_STEP_CHANGE a])

def execRebuildGo (req : Req) (a : Fin 16) (k : Fin 4) (value : Word) (s : State) := ok (rebuildGo req a k value) s
def execRebuildCopyDone (a : Fin 16) (k : Fin 4) (s : State) := ok (coreDo (rebuildCopyDone a k)) s
def execRebuildSwitch (a : Fin 16) (k : Fin 4) (s : State) := ok (coreDo (rebuildSwitch a k)) s
def execRebuildClearDone (a : Fin 16) (k : Fin 4) (s : State) := ok (coreDo (rebuildClearDone a k)) s
def execAssayUnitRead (a : Fin 16) (flip : Nat) (code : Fin 3) (s : State) := ok (coreDo (assayUnitRead a flip code)) s

end Sys2Proof.Machine
end

