-- ==== Sys2Proof/Machine/Micro.lean ====
section
/-!
DEFINITION. Machine/Micro.lean: the microcoded engines (R132 to R160): control stores, the microword, table calls, the end of a
routine, and machine checks. A step of an engine is one microword; the table call it issues is made by the call's own step, and
the words that depend on it wait (R141, R147).
-/
namespace Sys2Proof.Machine

/-! ### Engines and their stores -/

/-- Control store of an engine: aisle 0 to 15, or 16 for the protocol engine. -/
def engStore (e : Eng) : Nat := match e with | .hewer a _ => a.val | .pe => 16
def engPe (e : Eng) : Bool := match e with | .hewer _ _ => false | .pe => true
def engNum (e : Eng) : Nat := match e with | .hewer _ h => h.val | .pe => 0

def State.store (s : State) (k : Nat) : McStore := if k < 16 then (s.aisle k).mc else s.pe.mc
def modStore (k : Nat) (f : McStore → McStore) : Act :=
  if k < 16 then modAisle k fun A => { A with mc := f A.mc } else modPe fun P => { P with mc := f P.mc }

def State.engine (s : State) (e : Eng) : Engine :=
  match e with
  | .hewer a h => tabGet (s.aisle a.val).hewers {} h.val
  | .pe => s.pe.eng
def modEng (e : Eng) (f : Engine → Engine) : Act :=
  match e with
  | .hewer a h => modAisle a.val fun A => { A with hewers := tabPut A.hewers {} h.val (f (tabGet A.hewers {} h.val)) }
  | .pe => modPe fun P => { P with eng := f P.eng }

/-- Parity bits that give each group of 24 bits an odd number of ones (R136). -/
def parityOf (x : Nat) : Nat :=
  ((List.range 8).map fun g => if ones 24 (BitVec.ofNat 24 (x / 2 ^ (24 * g))) % 2 = 0 then 2 ^ g else 0).sum

/-- A word with its parity: ROM words carry the right one. -/
def withParity (x : BitVec 192) : BitVec 200 := BitVec.ofNat 200 (x.toNat + parityOf x.toNat * 2 ^ 192)

/-- Parity groups of a word that fail. -/
def badGroups (w : BitVec 200) : Nat := (parityOf (w.toNat % 2 ^ 192)) ^^^ (w.toNat / 2 ^ 192)

/-- Parity groups that fail when these bits of a good word are turned over. -/
def flipGroups (upset : Nat) : Nat := badGroups (withParity 0 ^^^ BitVec.ofNat 200 upset)

/-- Addresses of the patch RAM. -/
def isRam (a : Nat) : Bool := decide (0x1E00 ≤ a)

/-- The word at an address of a store (R132). -/
def McStore.word (m : McStore) (pe : Bool) (a : Nat) : BitVec 200 :=
  if isRam a then tabGet m.ram 0 a else withParity (Config.romData pe a)

/-- Whether an entry of `n` bits, its parity bit included, has an odd number of ones (R134, R136). -/
def oddOnes (n x : Nat) : Bool := ones n (BitVec.ofNat n x) % 2 == 1

/-- A dispatch or trap entry with the parity bit that the device computes when it is written (R134). -/
def withBit (n x : Nat) : Nat := x % 2 ^ n + (if oddOnes n x then 0 else 2 ^ n)
def dispEntry (x : BitVec 16) : BitVec 17 := BitVec.ofNat 17 (withBit 16 x.toNat)
def trapEntry (x : BitVec 27) : BitVec 28 := BitVec.ofNat 28 (withBit 27 x.toNat)

/-- The dispatch entry of a table, written or the ROM default (R134). -/
def dispIn (t : Tab (BitVec 17)) (pe : Bool) (i : Nat) : BitVec 17 :=
  match t.find? fun e => e.1 == i with
  | some e => e.2
  | none => dispEntry (Config.romDispatch pe i)

/-- Trap entry fields: bit 26 VALID, 25 to 13 FROM, 12 to 0 TO. -/
def trapValid (t : BitVec 28) : Bool := t.getLsbD 26
def trapFrom (t : BitVec 28) : Nat := nbits t.toNat 13 13
def trapTo (t : BitVec 28) : Nat := nbits t.toNat 0 13

/-- The trap entry that redirects the fetch of an address: the lowest valid one that names it (R133). -/
def trapOf (t : Tab (BitVec 28)) (a : Nat) : Option (Nat × BitVec 28) := t.find? fun e => trapValid e.2 && trapFrom e.2 == a

/-- Where a fetch of an address goes (R133). -/
def redirect (t : Tab (BitVec 28)) (a : Nat) : Nat := match trapOf t a with | some e => trapTo e.2 | none => a

/-! ### Machine checks (R155 to R159) -/

/-- One second in time words of 80 ns. -/
def second : Nat := 12500000

/-- Machine checks of a store in the last 1 s, 0 to 3 (R169). -/
def State.mcRecent (s : State) (k : Nat) : Nat := ((s.store k).recent.filter fun t => decide (s.time.words < t + second)).length

/-- An aisle is fenced: its ports leave UP, and it reports a pending epoch at once (R158, R342). -/
def fenceAisle (a : Nat) : Act :=
  .look fun s =>
    when (!(s.aisle a).fenced) (acts [modAisle a fun A => { A with fenced := true },
      raise F.AISLE_MC_EVT_CAUSE_FENCED a,
      each ((List.range 32).map (32 * a + ·) |>.filter fun p => s.starts p && s.isUp p) fun p => dropToRestart p 10,
      unitReport (64 + a)])

/-- A machine check: its capture, the recent count, and what the third within 1 s does (R155, R158, R159). -/
def machineCheck (e : Eng) (kind addr groups : Nat) : Act :=
  let k := (engStore e)
  acts [
    .look fun s =>
      if (s.store k).caps.length < 3 then
        modStore k fun m => { m with caps := m.caps ++ [{ kind := kind, hewer := (engNum e), addr := BitVec.ofNat 13 addr, groups := BitVec.ofNat 8 groups }] }
      else if (engPe e) then setB F.PE_STATUS_CAP_OVF 0 true else setB F.AISLE_MC_STATUS_CAP_OVF k true,
    .look fun s => modStore k fun m => { m with recent := (s.time.words :: m.recent).take 3 },
    count 0x1B (2 * k) 6 1, when (decide (2 ≤ kind)) (count 0x1B (2 * k) 5 1),
    (if (engPe e) then raisePe (if kind < 2 then peParity else peFault)
     else raise (if kind < 2 then F.AISLE_MC_EVT_CAUSE_MC_PARITY else F.AISLE_MC_EVT_CAUSE_MC_FAULT) k),
    .look fun s => when (decide (3 ≤ s.mcRecent k)) (if (engPe e) then raisePe peStorm else fenceAisle k)]

/-- Whether a repair-pool word that no valid trap entry names and a trap entry from 24 to 31 are free (R157). -/
def McStore.repairRoom (m : McStore) : Bool :=
  ((List.range 8).any fun i => !(m.trap.any fun e => trapValid e.2 && trapTo e.2 == 0x1FF8 + i)) &&
    (List.range 8).any fun i => !trapValid (tabGet m.trap 0 (24 + i))

/-- A flagged ROM word that cannot be repaired: Zolliwin raises REPAIR_FULL and fences the aisle (R157). -/
def repairFull (k : Nat) : Act :=
  .look fun s =>
    when (s.zolOn && ((s.store k).bad.any fun a => !isRam a) && !(s.store k).repairRoom)
      (if k = 16 then raisePe peRepairFull else acts [raise F.AISLE_MC_EVT_CAUSE_REPAIR_FULL k, fenceAisle k])

/-- A parity failure at an address: the engine is held there, and the address is flagged (R155). -/
def parityCheck (e : Eng) (kind addr groups : Nat) : Act :=
  acts [.look fun s => modStore (engStore e) fun m => { m with
      bad := addr :: m.bad, resumeTmr := true, badAt := tabPut m.badAt 0 addr s.time.words },
    modEng e fun g => { g with held := some (BitVec.ofNat 13 addr) }, machineCheck e kind addr groups,
    when (!isRam addr) (repairFull (engStore e))]

/-- A fault: a machine check, and the routine ends as ABORT outcome 2 (R149). -/
def faultCheck (e : Eng) (kind addr : Nat) : Act := acts [machineCheck e kind addr 0, modEng e fun g => { g with fin := 3 }]

/-! ### Starting a routine (R145, R146, R150) -/

/-- The frame that the protocol engine's routine holds is freed with its buffer. -/
def peFreeFrame (fid : Nat) : Act :=
  .look fun s =>
    each (s.bufs.filter fun b => b.2.st != 0 && b.2.ownQ == 9 && b.2.frame.fid == fid) fun b =>
      freeReq b.2.ownPort 9 b.1 b.2.gen true

/-- A dispatch entry that is not valid runs no routine (R143): a hewer's packet goes on as ABORT outcome 2, and the protocol engine drops
the work item, which is no abort. -/
def dispatchMiss (e : Eng) : Act :=
  acts [count 0x1B (2 * (engStore e)) 4 1,
    (match e with
     | .hewer _ _ => modEng e fun g => { g with run := false, disp := none, fin := 3 }
     | .pe => .look fun s => acts [
         modEng .pe fun g => { g with run := false, disp := none, call := none, res := none, staged := [], plan := {} },
         peFreeFrame s.pe.eng.fid])]

/-- Start the routine of a dispatch index on an engine whose inputs have been latched: the first fetch reads the dispatch entry. The
trap and dispatch tables are those of this moment, between two routines (R150). -/
def startRoutine (e : Eng) (i : Nat) : Act :=
  .look fun s =>
    let m := s.store (engStore e)
    modEng e fun g => { g with
      run := false, disp := some i, pc := 0, cycles := 0, call := none, res := none, stack := [], staged := [], plan := {}
      held := none, thit := false, fin := 0, trapS := m.trap, dispS := m.disp }

/-- An engine has no routine, neither running nor about to start nor ended and not yet taken off. -/
def Engine.idle (g : Engine) : Bool := !g.run && g.disp.isNone && g.fin == 0

/-- Conditions 6 to 23 of a hewer (R144), latched at its start. -/
def hewerConds (s : State) (k : Packet) : BitVec 32 :=
  let d := k.inner.getD k.parsed
  let b := fun (x : Bool) (i : Nat) => if x then 2 ^ i else 0
  let tc := k.parsed.ptp.isSome && decide (k.parsed.ptpType ≤ 1) && s.bit F.TIME_PORT_CFG_TC_EN k.frame.port &&
    (match k.parsed.ptp with | some o => decide (o + 16 ≤ reach k.frame.data) | none => false)
  BitVec.ofNat 32 (b (k.frame.epoch == s.newEpoch) 6 + b d.badcsum 8 + b d.frag 9 + b d.first 10 + b d.ttl1 11 +
    b (d.opts || d.ext3) 12 + b d.trunc 13 + b k.parsed.isEvent 14 + b k.inner.isSome 15 + b k.encap 16 + b k.routed 17 +
    b k.repl 18 + b tc 19 + b (match k.inner with | some i => i.isIp6 | none => false) 20 + b k.parsed.isIp6 21 +
    b k.parsed.tagged 22 + b (Config.bdTagged k.egBd) 23)

/-- Byte 0 of extract bases 1 to 7 of a packet (R139). -/
def baseOffs (P : Parsed) (inner : Option Parsed) : List (Option Nat) :=
  [some 0, P.l3off, P.l4off, P.vxlan.map (· + 8), inner.bind (·.l3off), inner.bind (·.l4off), P.ptp]

/-- Nanoseconds field of a time in 2^-16 ns (R13). -/
def nsField (t : Nat) : Nat := t / 65536 % 10 ^ 9

/-- A hewer takes a packet and starts the routine for its PTYPE. -/
def hewerStart (e : Eng) (k : Packet) : Act :=
  .look fun s =>
    acts [modEng e fun g => { g with
        fid := k.frame.fid, hdrIn := k.frame.data.take 256, itime := BitVec.ofNat 32 (nsField k.frame.tIn)
        md0 := BitVec.ofNat 32 (k.queue % 16 * 2 ^ 28 + k.prio % 8 * 2 ^ 25 + k.ptype % 64 * 2 ^ 19 + k.frame.port % 512 * 2 ^ 10)
        md1 := BitVec.ofNat 32 (k.egBd % 2 ^ 14 * 2 ^ 18 + k.rwIdx % 2 ^ 16)
        conds := hewerConds s k, offs := baseOffs k.parsed k.inner },
      startRoutine e k.ptype]

/-! ### The packets of an aisle -/

def modPacket (fid : Nat) (f : Packet → Packet) : Act := modPkts fun l => l.map fun k => if k.frame.fid = fid then f k else k
def dropPacket (fid : Nat) : Act := modPkts fun l => l.filter fun k => k.frame.fid != fid

/-- Deliver a frame of a port to the protocol engine's receive queue; a full queue terminates it (R163). -/
def peDeliver (k : Packet) (wt : Nat) : Act :=
  .look fun s =>
    let p := k.frame.port
    if 16 ≤ (s.port p).rxq.length then
      acts [dropPacket k.frame.fid, count 0x1B 33 0 1, raisePe peRxOverflow]
    else
      acts [modPort p fun P => { P with rxq := P.rxq ++ [(wt, k.frame.fid)] },
        modPacket k.frame.fid fun k => { k with toPe := some wt, peWait := none, hewer := none, dests := [] },
        askBuffer k.frame.fid (some k.aisle)]

/-- Packets of an ingress port leave the hewer stage in the order of their admission (R146): each that none of the port's earlier
packets precedes there asks for its buffer once it has its plan, or goes to the protocol engine. -/
def leaveList (l : List Packet) (p : Nat) : Act :=
  match l with
  | [] => .skip
  | k :: r =>
    if k.frame.port ≠ p ∨ (k.hewer.isNone ∧ k.peWait.isNone) ∨ k.frame.fromPe then leaveList r p
    else
      match k.peWait with
      | some wt => acts [peDeliver k wt, leaveList r p]
      | none =>
        if k.planned.isNone then .skip
        else acts [modPacket k.frame.fid fun k => { k with hewer := none }, askBuffer k.frame.fid (some k.aisle), leaveList r p]

def leaveHewers (p : Nat) : Act := .look fun s => leaveList s.pkts p

/-! ### Operands and the ALU (R137, R138) -/

/-- Fields of a microword. -/
def mw (w : BitVec 200) (lo n : Nat) : Nat := nbits w.toNat lo n

/-- Read an operand as it stands at the start of the word. MD0 reads as an earlier word of the routine has staged it, by the model's
choice (log 184). -/
def Engine.read (g : Engine) (w : BitVec 200) (c : Nat) : BitVec 32 :=
  if c < 20 then tabGet g.g 0 c
  else if c = 20 then BitVec.ofNat 32 (mw w 120 24)
  else if c = 21 then BitVec.ofNat 32 (mw w 0 24)
  else if c < 26 then tabGet g.t 0 (c - 22)
  else if c = 26 then g.md0
  else if c = 27 then g.md1
  else if c = 28 then g.lc
  else if c = 29 then g.itime
  else if c = 30 then g.fl.setWidth 32
  else 0

/-- Write an operand at the end of the word; `pe` has no writable bit in MD0. What is staged in MD0 shows to the routine's later words,
and to nothing else before its end (R148, log 184). -/
def Engine.write (g : Engine) (pe : Bool) (c : Nat) (v : BitVec 32) : Engine :=
  if c < 20 then { g with g := tabPut g.g 0 c v }
  else if c = 26 ∧ ¬ pe then { g with md0 := (g.md0 &&& 0x01FFFFFF#32) ||| (v &&& 0xFE000000#32) }
  else if c = 28 then { g with lc := v }
  else if c = 30 then { g with fl := v.setWidth 4 }
  else g

/-- Ones'-complement sum of two 16-bit values. -/
def csum16 (a b : Nat) : Nat := let t := a % 65536 + b % 65536; (t % 65536 + t / 65536) % 65536

/-- Flags word: Z, N, C and V in bits [3:0], Z most significant (R12, R137). -/
def flagWord (r : BitVec 32) (c v : Bool) : BitVec 4 :=
  (if r = 0 then 8#4 else 0#4) ||| (if r.getLsbD 31 then 4#4 else 0#4) ||| (if c then 2#4 else 0#4) ||| (if v then 1#4 else 0#4)

/-- Result of an ALU operation, and C and V (R138). -/
def alu (op : Nat) (a b : BitVec 32) : BitVec 32 × Bool × Bool :=
  let sub := a - b
  let subC := if a.toNat < b.toNat then !Config.subCarry else Config.subCarry
  let subV := (a.getLsbD 31 != b.getLsbD 31) && (sub.getLsbD 31 != a.getLsbD 31)
  match op with
  | 1 => (a, false, false)
  | 2 => (a + b, decide (2 ^ 32 ≤ a.toNat + b.toNat), (a.getLsbD 31 == b.getLsbD 31) && ((a + b).getLsbD 31 != a.getLsbD 31))
  | 3 => (sub, subC, subV)
  | 4 => (a &&& b, false, false)
  | 5 => (a ||| b, false, false)
  | 6 => (a ^^^ b, false, false)
  | 7 => (a <<< (b.toNat % 32), false, false)
  | 8 => (a >>> (b.toNat % 32), false, false)
  | 9 => (a.sshiftRight (b.toNat % 32), false, false)
  | 10 => (sub, subC, subV)
  | 11 => (if a.toNat ≤ b.toNat then a else b, false, false)
  | 12 => (if a.toNat ≤ b.toNat then b else a, false, false)
  | 13 => (if a = 0 then 0 else a - 1, false, false)
  | 14 => (BitVec.ofNat 32 (csum16 a.toNat b.toNat), false, false)
  | 15 => (BitVec.ofNat 32 (csum16 a.toNat (65535 - b.toNat % 65536)), false, false)
  | _ => (0, false, false)

/-- The ALU part of a word. -/
def Engine.doAlu (g0 : Engine) (w : BitVec 200) (pe : Bool) (g : Engine) : Engine :=
  let op := mw w 162 6
  if op = 0 then g
  else
    let r := alu op (g0.read w (mw w 152 5)) (g0.read w (mw w 147 5))
    let g := if op = 10 then g else g.write pe (mw w 157 5) r.1
    if op = 10 ∨ mw w 146 1 = 1 then { g with fl := flagWord r.1 r.2.1 r.2.2 } else g

/-- The extract part of a word (R139). -/
def Engine.doExtract (g0 : Engine) (w : BitVec 200) (pe : Bool) (g : Engine) : Engine :=
  let b := mw w 117 3
  if b = 0 then g
  else
    let v := match g0.offs.getD (b - 1) none with
      | none => 0
      | some o => readBits g0.hdrIn (o + mw w 109 8) (mw w 106 3) (mw w 101 5 + 1)
    g.write pe (mw w 96 5) (BitVec.ofNat 32 v)

/-- Patches in a plan. -/
def EditPlan.patches (p : EditPlan) : Nat := (p.ops.filter fun e => e.op == 0).length

/-- Place that an insert or edit base and offset name: absolute in the received frame for bases 2 to 6; none if absent. -/
def Engine.editOff (g : Engine) (base off : Nat) : Option Nat :=
  if base = 1 ∨ base = 7 then some off else (g.offs.getD (base - 1) none).map (· + off)

/-- The insert part of a word; none where it would add a 17th patch (R139). -/
def Engine.doInsert (g0 : Engine) (w : BitVec 200) (g : Engine) : Option Engine :=
  let b := mw w 93 3
  let len := mw w 77 5 + 1
  let v := g0.read w (mw w 72 5)
  if b = 0 then some g
  else if b = 1 then
    some { g with plan := { g.plan with hdr := patchBits (sliceB g.plan.hdr 0 128) (mw w 85 8) (mw w 82 3) len v.toNat } }
  else if 16 ≤ g.plan.patches then none
  else
    match g0.editOff b (mw w 85 8) with
    | none => some g
    | some o => some { g with plan := { g.plan with ops := g.plan.ops ++ [{ op := 0, base := b, off := o, bit := mw w 82 3, len := len, val := v }] } }

/-- The edit part of a word (R140). -/
def Engine.doEdit (g0 : Engine) (w : BitVec 200) (g : Engine) : Engine :=
  let op := mw w 68 4
  let b := mw w 65 3
  let add := fun (e : EditOp) => { g with plan := { g.plan with ops := g.plan.ops ++ [e] } }
  if op = 0 then g
  else if op = 2 then add { op := 2, len := mw w 49 8 }
  else if 6 ≤ op then add { op := op, base := 1, off := mw w 57 8 }
  else if b = 0 then g
  else
    match g0.editOff b (mw w 57 8) with
    | none => g
    | some o => add { op := op, base := b, off := o }

/-! ### Conditions and the next address (R142 to R144) -/

/-- Condition of a word before INV; none for a reserved code. -/
def Engine.cond (g : Engine) (pe : Bool) (c : Nat) : Option Bool :=
  if c = 0 then some true
  else if c ≤ 4 then some (g.fl.getLsbD (4 - c))
  else if c = 5 then some g.thit
  else if c = 7 then some (g.lc == 0)
  else if 24 ≤ c ∧ c ≤ 31 then none
  else if 32 ≤ c then some ((tabGet g.g 0 0).getLsbD (c - 32))
  else if pe ∧ 8 ≤ c then some (g.md1.getLsbD (c - 8))
  else some (g.conds.getLsbD c)

/-- A word that holds an illegal operation (R138, R140, R141, R143, R144, R149). -/
def Engine.illegal (g : Engine) (pe : Bool) (w : BitVec 200) : Bool :=
  let bop := mw w 188 4
  let top := mw w 44 4
  let c := mw w 182 6
  let cond := bop == 2 || bop == 4 || bop == 6 || bop == 11
  decide (16 ≤ mw w 162 6) || decide (9 ≤ mw w 68 4) || decide (13 ≤ bop) || (cond && (g.cond pe c).isNone) ||
    ((5 ≤ top && decide (top ≤ 7)) || decide (14 ≤ top)) ||
    (if pe then decide (1 ≤ top ∧ top ≤ 3) else decide (8 ≤ top)) ||
    (bop == 12 && (mw w 120 2 == 0 || mw w 120 2 == 3)) ||
    (decide (2 ≤ mw w 93 3) && decide (16 ≤ g.plan.patches))

/-- Where a word goes on: an address, the end, a stack fault, or a dispatch. -/
inductive Next where
  | addr (a : Nat)
  | fin (n : Nat)
  | stack
  | dispatch (i : Nat)

/-- The branch part of a word fetched for address `this`, before its redirection (R142, R143), with the stack and LC it leaves. -/
def Engine.branch (g0 : Engine) (pe : Bool) (w : BitVec 200) (this idx : Nat) (g : Engine) : Next × Engine :=
  let t := mw w 168 13
  let c := ((g0.cond pe (mw w 182 6)).getD false) ^^ (mw w 181 1 == 1)
  let nx := (this + 1) % 2 ^ 13
  let call := if 4 ≤ g.stack.length then (Next.stack, g) else (Next.addr t, { g with stack := BitVec.ofNat 13 nx :: g.stack })
  let ret := match g.stack with
    | [] => (Next.stack, g)
    | a :: r => (Next.addr a.toNat, { g with stack := r })
  match mw w 188 4 with
  | 0 => (.addr nx, g)
  | 1 => (.addr t, g)
  | 2 => (.addr (if c then t else nx), g)
  | 3 => call
  | 4 => if c then call else (.addr nx, g)
  | 5 => ret
  | 6 => if c then ret else (.addr nx, g)
  | 7 => (.dispatch idx, g)
  | 8 => (.dispatch ((g0.read w (mw w 152 5)).toNat % 64), g)
  | 9 => let lc := g0.lc - 1; (.addr (if lc = 0 then nx else t), { g with lc := lc })
  | 10 => (.fin 1, g)
  | 11 => if c then (.fin 1, g) else (.addr nx, g)
  | _ => (.fin (1 + mw w 120 2), g)

/-- Whether a word reads an operand. -/
def wordReads (w : BitVec 200) (p : Nat → Bool) : Bool :=
  (mw w 162 6 != 0 && (p (mw w 152 5) || p (mw w 147 5))) || (mw w 188 4 == 8 && p (mw w 152 5)) ||
    (mw w 93 3 != 0 && p (mw w 72 5)) || (mw w 44 4 != 0 && p (mw w 35 5))

/-- Whether a word waits: while a call is outstanding, to read T0 to T3 or to issue a second call (R141). -/
def Engine.stalls (g : Engine) (w : BitVec 200) : Bool :=
  (g.call.isSome || g.res.isSome) && (mw w 44 4 != 0 || wordReads w fun c => decide (22 ≤ c ∧ c ≤ 25))

/-- Longest run of a routine, in cycles (R147). -/
def cycleLimit (pe : Bool) : Nat := if pe then 512 else 64

/-- Index of the dispatch by BOP 7: PTYPE of a hewer, the work type of the protocol engine. -/
def State.typeIdx (s : State) (e : Eng) : Nat :=
  match e with
  | .hewer _ _ => nbits (s.engine e).md0.toNat 19 6
  | .pe => s.pe.curType

/-- Carry out a word of address `pc` that was fetched from `at_` with good parity. -/
def doWord (e : Eng) (w : BitVec 200) (pc at_ : Nat) : Act :=
  .look fun s =>
    let g0 := s.engine e
    let pe := (engPe e)
    if g0.illegal pe w then faultCheck e 2 at_
    else
      let g := g0.doAlu w pe g0
      let g := g0.doExtract w pe g
      let g := (g0.doInsert w g).getD g
      let g := g0.doEdit w g
      let top := mw w 44 4
      let g := if top = 0 then g else { g with call := some (top, mw w 40 4, (g0.read w (mw w 35 5)).toNat), imm2 := BitVec.ofNat 32 (mw w 0 24) }
      let g := { g with cycles := g0.cycles + 1 }
      let r := g0.branch pe w pc (s.typeIdx e) g
      match r.1 with
      | .addr a => modEng e fun _ => { r.2 with pc := BitVec.ofNat 13 a }
      | .fin n => modEng e fun _ => { r.2 with fin := n }
      | .stack => acts [modEng e fun _ => g, faultCheck e 4 at_]
      | .dispatch i => modEng e fun _ => { r.2 with disp := some i }

/-- The mode lets the engines' routines run and commit (R330): in PROVING only self-test routines do (R351). -/
def State.engineMode (s : State) : Bool := [modeOpen, modeLean, modeDrain, modeSealed].contains s.opMode && !s.halted

/-- The time at which an engine may run: the mode lets engines run (R330), its store runs and its block is not in reset. -/
def State.engineOn (s : State) (e : Eng) : Bool :=
  let g := s.engine e
  s.engineMode && (g.run || g.disp.isSome) && g.held.isNone && g.fin == 0 && (s.store (engStore e)).running &&
    !(engPe e && s.clk.soft.contains unitPe)

/-- The fetch of a word: the dispatch entry it reads, if it does; its address; the trap entry that redirects it; and where the word
stands (R133, R134, R143). -/
structure Fetch where
  disp : Option (Nat × BitVec 17)
  pc : Nat
  trap : Option (Nat × BitVec 28)
  at_ : Nat

def Engine.fetch (g : Engine) (pe : Bool) : Fetch :=
  let d := g.disp.map fun i => (i, dispIn g.dispS pe i)
  let pc := match d with | some x => x.2.toNat % 2 ^ 13 | none => g.pc.toNat
  { disp := d, pc := pc, trap := trapOf g.trapS pc, at_ := redirect g.trapS pc }

/-- Whether an entry on the way of a fetch fails its parity (R136); `flip` turns over the parity bit of the dispatch entry, or else of
the trap entry. -/
def Fetch.entryBad (f : Fetch) (flip : Bool) : Bool :=
  match f.disp with
  | some x => !oddOnes 17 (x.2.toNat ^^^ (if flip then 2 ^ 16 else 0)) || (match f.trap with | some t => !oddOnes 28 t.2.toNat | none => false)
  | none => match f.trap with | some t => !oddOnes 28 (t.2.toNat ^^^ (if flip then 2 ^ 27 else 0)) | none => false

/-- The upset entry stays as it is in its table. -/
def Fetch.keepFlip (f : Fetch) (e : Eng) : Act :=
  match f.disp, f.trap with
  | some x, _ => modStore (engStore e) fun m => { m with disp := tabPut m.disp (dispEntry (Config.romDispatch (engPe e) x.1)) x.1 (x.2 ^^^ 0x10000#17) }
  | none, some t => modStore (engStore e) fun m => { m with trap := tabPut m.trap 0 t.1 (t.2 ^^^ 0x8000000#28) }
  | none, none => .skip

/-- MICROWORD_EXECUTE (R135 to R149, R155). `upset` holds the bits of the fetched word that an upset has turned over; bit 200
says that an upset has turned over the parity bit of the dispatch or trap entry on the way. Where the protocol engine is idle, an upset
that some parity group shows waits for the ROM routine that fetches the word. -/
def microwordExecute (e : Eng) (upset : Nat) : Act :=
  .look fun s =>
    if e = .pe ∧ s.pe.eng.idle ∧ s.peRuns then
      when (flipGroups upset != 0) (modPe fun P => { P with romUp := some (nbits upset 201 13, flipGroups upset) })
    else when (s.engineOn e) (
      let g := s.engine e
      let m := s.store (engStore e)
      let f := g.fetch (engPe e)
      let x := m.word (engPe e) f.at_ ^^^ BitVec.ofNat 200 upset
      if m.bad.contains f.at_ then modEng e fun g => { g with held := some (BitVec.ofNat 13 f.at_) }
      else if cycleLimit (engPe e) ≤ g.cycles then faultCheck e 3 f.at_
      else if f.entryBad (upset.testBit 200) then
        acts [when (upset.testBit 200) (f.keepFlip e), parityCheck e 1 f.pc 0]
      else if (match f.disp with | some d => !d.2.getLsbD 15 | none => false) then dispatchMiss e
      else acts [
        when (!g.run) (count 0x1B (2 * (engStore e)) 0 1),
        modEng e fun g => { g with run := true, disp := none, pc := BitVec.ofNat 13 f.pc },
        if badGroups x ≠ 0 then
          acts [when (isRam f.at_) (modStore (engStore e) fun m => { m with ram := tabPut m.ram 0 f.at_ x }),
            parityCheck e 0 f.at_ (badGroups x)]
        else if g.stalls x then acts [modEng e fun g => { g with cycles := g.cycles + 1 }, count 0x1B (2 * (engStore e)) 1 1]
        else doWord e x f.pc f.at_])

/-! ### Table calls (R141) -/

/-- Words T0 to T3 of a 128-bit entry, bits [127:96] first. -/
def words128 (x : Nat) : List (BitVec 32) := [3, 2, 1, 0].map fun i => BitVec.ofNat 32 (x / 2 ^ (32 * i))

/-- Make the call an engine has issued, if it is call `top` and the engine is of its kind: `k` gives selector and index. -/
def makeCall (e : Eng) (top : Nat) (k : Nat → Nat → Engine → Act) : Act :=
  .look fun s =>
    match (s.engine e).call with
    | some (t, sel, i) =>
      if t = top ∧ (s.engine e).held.isNone then
        acts [modEng e fun g => { g with call := none, res := some [], resHit := g.thit }, k sel i (s.engine e)]
      else .skip
    | none => .skip

/-- The result a read call will bring. -/
def setRes (e : Eng) (x : Nat) (hit : Bool) : Act := modEng e fun g => { g with res := some (words128 x), resHit := hit }

/-- Stage a call's write (R148). -/
def stage (e : Eng) (top sel i : Nat) (ws : List (BitVec 32)) : Act :=
  modEng e fun g => { g with staged := g.staged ++ [(top, sel, i, ws)] }

/-- T0 to T3 of an engine. -/
def Engine.ts (g : Engine) : List (BitVec 32) := (List.range 4).map fun i => tabGet g.t 0 i

def nhRead (e : Eng) : Act :=
  makeCall e 1 fun _ i _ => .look fun s =>
    let x := (s.flatE (flatKey 5 ((engStore e) / 4) (i % 2 ^ 18))).toNat
    setRes e x (x.testBit 0)
def rwRead (e : Eng) : Act :=
  makeCall e 2 fun _ i _ => .look fun s => setRes e (s.flatE (flatKey 11 (engStore e) (i % 2 ^ 16))).toNat true
def bdRead (e : Eng) : Act :=
  makeCall e 3 fun _ i _ => .look fun s => setRes e (s.flatE (flatKey 3 ((engStore e) / 4) (i % 2 ^ 14))).toNat true
def countCall (e : Eng) : Act := makeCall e 4 fun sel i _ => stage e 4 sel (i % 2 ^ 16) []
def stRead : Act := makeCall .pe 8 fun _ i _ => .look fun s => setRes .pe (s.stmE (i % 2 ^ 17)).toNat true
def stWrite : Act := makeCall .pe 9 fun sel i g => stage .pe 9 sel (i % 2 ^ 17) g.ts
def msgPost : Act := makeCall .pe 10 fun sel i g => stage .pe 10 sel (i % 2 ^ 17) g.ts
def timerSet : Act :=
  makeCall .pe 11 fun sel i g => stage .pe 11 sel (i % 2 ^ 17) [g.itime + g.imm2]
def txFrame : Act := makeCall .pe 12 fun sel i _ => stage .pe 12 sel (i % 2 ^ 17) []

/-- The words a timestamp is read as: seconds, nanoseconds and fraction of R13, and the mark in bit 0 (log 25). -/
def tsWords (t : Nat) (mark : Bool) : Nat :=
  t / 65536 / 10 ^ 9 % 2 ^ 48 * 2 ^ 80 + t / 65536 % 10 ^ 9 * 2 ^ 48 + t % 65536 * 2 ^ 32 + (if mark then 1 else 0)

def tsRead : Act :=
  makeCall .pe 13 fun _ i _ => .look fun s =>
    match s.pe.txts.find? fun e => e.1 == i % 2 ^ 17 with
    | some e => setRes .pe (tsWords e.2.1 e.2.2) true
    | none => setRes .pe 0 false

/-- TABLE_CALL_RESULT: the result arrives in T0 to T3 eight cycles after the word that issued the call. -/
def tableCallResult (e : Eng) : Act :=
  modEng e fun g =>
    match g.res with
    | none => g
    | some l => { g with res := none, thit := g.resHit,
                         t := if l.isEmpty then g.t else (List.range 4).foldl (fun t i => tabPut t 0 i (l.getD i 0)) g.t }

/-! ### The end of a routine (R148, R149) -/

/-- Counter TSEL, TKEY of an engine's store: the spec gives no value ID that reads it (log 26). -/
def cntUser (store sel : Nat) : Nat := 0x100 + 16 * store + sel

/-- One staged write commits. -/
def commitOne (e : Eng) (w : Nat × Nat × Nat × List (BitVec 32)) : Act :=
  .look fun s =>
    let (top, sel, i, ws) := w
    if top = 4 then count (cntUser (engStore e) sel) i 0 1
    else if top = 9 then .upd (.stm i (BitVec.ofNat 128 (ws.foldl (fun a x => a * 2 ^ 32 + x.toNat) 0)))
    else if top = 10 then postMsg sel (BitVec.ofNat 32 i :: ws)
    else if top = 11 then
      modPe fun P => { P with timers := (P.timers.filter fun t => t.1 != i) ++ [(i, s.nowNs / 10 ^ 9 * 10 ^ 9 + (ws.headD 0).toNat)] }
    else if top = 12 then draw fun k => peSend s.pe.curPort (if 8 < sel then 0 else sel) ((Config.freeBytes k).take 10236) {}
    else .skip

/-- END (R148): all staged writes commit in one cycle, in a mode in which the engines run (R330). -/
def endRoutine (e : Eng) : Act :=
  .look fun s =>
    let g := s.engine e
    when (s.engineMode && g.run && g.fin == 1 && g.call.isNone) (acts [
      modEng e fun g => { g with run := false, fin := 0, res := none },
      each g.staged (commitOne e),
      (match e with
       | .hewer _ _ =>
         (match s.packet g.fid with
          | none => .skip
          | some k =>
            let q := nbits g.md0.toNat 28 4
            acts [modPacket g.fid fun k => { k with planned := some g.plan, queue := if 8 < q then 0 else q, prio := nbits g.md0.toNat 25 3 },
              leaveHewers k.frame.port])
       | .pe => peFreeFrame g.fid)])

/-- ABORT (R143, R149): the staged writes are discarded. -/
def abort (e : Eng) : Act :=
  .look fun s =>
    let g := s.engine e
    when (decide (2 ≤ g.fin)) (acts [
      modEng e fun g => { g with run := false, disp := none, fin := 0, call := none, res := none, staged := [], plan := {} },
      count 0x1B (2 * (engStore e)) (g.fin) 1,
      (match e with
       | .hewer a _ =>
         (match s.packet g.fid with
          | none => .skip
          | some k =>
            acts [(if g.fin = 2 then dropPacket g.fid
              else acts [count 0x1B (2 * a.val) 7 1, count 0x1B 32 7 1, raisePe peException,
                modPacket g.fid fun k => { k with peWait := some wtException, dests := [] }]),
              leaveHewers k.frame.port])
       | .pe => peFreeFrame g.fid)])

/-! ### RESUME, POP, FENCE (R156, R158, R159, R169, R171) -/

def mcCtl (k : Nat) : Reg × Nat := if k < 16 then (.AISLE_MC_CTL, k) else (.PE_MC_CTL, 0)
def mcBlk (k : Nat) : Blk := if k < 16 then .mc k else .pe

/-- An engine held on an address goes on, with the trap table as it now is: the repair of R157 acts on it (log 145). -/
def Engine.release (g : Engine) (a : Nat) (trap : Tab (BitVec 28)) : Engine :=
  if g.held = some (BitVec.ofNat 13 a) then { g with held := none, trapS := trap } else g

/-- MC_RESUME: the address is no longer bad, and the engines held on it go on. -/
def mcResume (req : Req) (k : Nat) (value : Word) : Act :=
  onSecWrite req (mcCtl k).1 (mcCtl k).2 fun rq =>
    when (value.getLsbD 31) (.look fun s =>
      let a := bits value 0 13
      if (s.store k).bad.contains a then
        acts [modStore k fun m => { m with bad := m.bad.filter (· != a), resumeTmr := m.resumeTmr && (m.bad.any (· != a)), badAt := tabPut m.badAt 0 a 0 },
          (if k < 16 then
            acts [modAisle k fun A => { A with hewers := A.hewers.map fun x => (x.1, x.2.release a A.mc.trap) },
              raise F.AISLE_MC_EVT_CAUSE_MC_RESUMED k]
           else
            acts [modPe fun P => { P with eng := P.eng.release a P.mc.trap },
              raisePe peResumed])]
      else reject3 (mcBlk k) rq (mcCtl k).1 (mcCtl k).2)

/-- MC_POP: the oldest capture is removed. -/
def mcPop (req : Req) (k : Nat) (value : Word) : Act :=
  onSecWrite req (mcCtl k).1 (mcCtl k).2 fun _ => when (value.getLsbD 30) (modStore k fun m => { m with caps := m.caps.drop 1 })

/-- FENCE (R158). -/
def fence (req : Req) (a : Nat) (value : Word) : Act :=
  onSecWrite req .AISLE_MC_CTL a fun _ => when (value.getLsbD 29) (fenceAisle a)

/-- Whether 100 ms have passed since the parity failure of an address of a store that is still flagged (R156, R159). -/
def State.resumeLate (s : State) (k : Nat) : Bool :=
  (s.store k).resumeTmr && (s.store k).bad.any fun a => s.aged (tabGet (s.store k).badAt 0 a) 100000000

/-- RESUME_TIMEOUT (R156): no RESUME within 100 ms of the parity machine check. -/
def resumeTimeout (a : Nat) : Act :=
  .look fun s => when (s.resumeLate a) (acts [modStore a fun m => { m with resumeTmr := false }, fenceAisle a])

/-- PE_RESUME_TIMEOUT (R159). -/
def peResumeTimeout : Act :=
  .look fun s => when (s.resumeLate 16) (acts [modStore 16 fun m => { m with resumeTmr := false }, raisePe peStopped])

def execMicrowordExecute (e : Eng) (upset : Nat) (s : State) := ok (coreDo (microwordExecute e upset)) s
def execNhRead (e : Eng) (s : State) := ok (coreDo (nhRead e)) s
def execRwRead (e : Eng) (s : State) := ok (coreDo (rwRead e)) s
def execBdRead (e : Eng) (s : State) := ok (coreDo (bdRead e)) s
def execCount (e : Eng) (s : State) := ok (coreDo (countCall e)) s
def execStRead (s : State) := ok (coreDo stRead) s
def execStWrite (s : State) := ok (coreDo stWrite) s
def execMsgPost (s : State) := ok (coreDo msgPost) s
def execTimerSet (s : State) := ok (coreDo timerSet) s
def execTxFrame (s : State) := ok (coreDo txFrame) s
def execTsRead (s : State) := ok (coreDo tsRead) s
def execTableCallResult (e : Eng) (s : State) := ok (coreDo (tableCallResult e)) s
def execEndRoutine (e : Eng) (s : State) := ok (coreDo (endRoutine e)) s
def execAbort (e : Eng) (s : State) := ok (coreDo (abort e)) s
def execMcResume (req : Req) (k : Fin 17) (value : Word) (s : State) := ok (mcResume req k value) s
def execMcPop (req : Req) (k : Fin 17) (value : Word) (s : State) := ok (mcPop req k value) s
def execFence (req : Req) (a : Fin 16) (value : Word) (s : State) := ok (fence req a value) s
def execResumeTimeout (a : Fin 16) (s : State) := ok (coreDo (resumeTimeout a)) s
def execPeResumeTimeout (s : State) := ok (coreDo peResumeTimeout) s

end Sys2Proof.Machine
end

