-- ==== Sys2Proof/Machine/HostQ.lean ====
section
/-!
DEFINITION. Machine/HostQ.lean: the host packet queues (R164, R371, R372). Queues 0 to 7 are host-to-device, 8 to 15
device-to-host. The host packet mover works on what a host slot has handed to it; its end is a command of its own, which carries
what it read from host memory.
-/
namespace Sys2Proof.Machine

/-- The tables are owned by the host (R363). -/
def State.hostOwns (s : State) : Bool := s.fld F.SYS_OWNER_STATE 0 == 1

def State.hqSize (s : State) (k : Nat) : Nat := 2 ^ s.fld F.HQ_CFG_LOG2_SIZE k
def State.hqHead (s : State) (k : Nat) : Nat := s.fld F.HQ_HEAD_HEAD k
def State.hqOn (s : State) (k : Nat) : Bool := s.hostOwns && s.bit F.HQ_CFG_EN k

/-- Descriptors filled or posted and not yet used (R365, R371). -/
def State.hqPosted (s : State) (k : Nat) : Nat :=
  (s.fld F.HQ_TAIL_TAIL k + s.hqSize k - s.hqHead k % s.hqSize k) % s.hqSize k

/-- Ring address of a queue. -/
def State.hqBase (s : State) (k : Nat) : Nat :=
  s.fld F.HQ_BASE_HI_ADDR k * 2 ^ 32 + s.fld F.HQ_BASE_LO_ADDR k / 64 * 64

/-- HEAD moves on by `n` descriptors. -/
def hqAdvance (k n : Nat) : Act := .look fun s => setF F.HQ_HEAD_HEAD k ((s.hqHead k + n) % s.hqSize k)

/-- Write bytes to host memory. -/
def hostWrite (a : Nat) (l : List Byte) : Act := each l.zipIdx fun x => .upd (.host (a + x.2) x.1)

/-- Frames waiting in D2H queue `q`. -/
def State.d2hQ (s : State) (q : Nat) : List (Nat × Frame) := tabGet s.dma.d2h [] q

/-- A frame for the host goes to a D2H queue, or is terminated and counted (R372). -/
def d2hDeliver (q reason : Nat) (f : Frame) : Act :=
  .look fun s =>
    let k := 8 + q
    if !s.hqOn k then acts [addSat F.HQ_LOST_COUNT k 1, peFreeFrame f.fid]
    else if s.hqPosted k ≤ (s.d2hQ q).length then acts [addSat F.HQ_LOST_COUNT k 1, raiseDma dmaHqFull, peFreeFrame f.fid]
    else modDma fun d => { d with d2h := tabPut d.d2h [] q (tabGet d.d2h [] q ++ [(reason, f)]) }

/-- Frames waiting for a D2H queue are terminated and counted (R364). -/
def d2hTerminate (q : Nat) : Act :=
  .look fun s =>
    acts [addSat F.HQ_LOST_COUNT (8 + q) (s.d2hQ q).length, each (s.d2hQ q) fun x => peFreeFrame x.2.fid,
      modDma fun d => { d with d2h := tabPut d.d2h [] q [], mover := d.mover.filter (·.1 != 8 + q) }]

/-- H2D frames already handed to the packet mover are sent although their queue ends (R364): their work is kept under queue + 32. -/
def h2dKeep : Act := modDma fun d => { d with mover := d.mover.map fun m => (if m.1 < 8 then m.1 + 32 else m.1, m.2) }

/-- Frames of a queue with the packet mover. -/
def State.handed (s : State) (k : Nat) : Nat := ((s.dma.mover.filter (·.1 == k)).map (·.2)).sum

/-- A host slot's visit: up to 512 frames of its queue go to the packet mover (R164). -/
def hostSlot (k : Nat) : Act :=
  .look fun s =>
    let n := (if k < 8 then s.hqPosted k else (s.d2hQ (k - 8)).length) - s.handed k
    when (s.hqOn k && decide (0 < n)) (modDma fun d => { d with mover := d.mover ++ [(k, min n 512)] })

/-- One H2D descriptor and its frame (R371). -/
def h2dOne (k : Nat) (io : List Byte × List Byte) : Act :=
  let len := leAt io.1 8 2
  let port := leAt io.1 10 2
  let q := leAt io.1 12 1
  if len < 60 ∨ 10236 < len ∨ 512 ≤ port ∨ 8 < q then acts [addSat F.HQ_LOST_COUNT k 1, raiseDma dmaHqBad]
  else peSend port q (sliceB io.2 0 len) {}

/-- One D2H frame and its descriptor (R371). -/
def d2hOne (k i : Nat) (io : List Byte) (reason : Nat) (f : Frame) : Act :=
  .look fun s =>
    let size := leAt io 8 2
    let l := f.data.take size
    let trunc : Nat := if size < f.data.length then 1 else 0
    let t := f.tIn
    let desc := leBytes 2 l.length ++ leBytes 2 f.port ++ leBytes 1 reason ++ leBytes 1 (128 + trunc) ++ leBytes 2 f.epoch.toNat ++
      leBytes 6 (t / 65536 / 10 ^ 9) ++ leBytes 4 (t / 65536 % 10 ^ 9) ++ leBytes 2 (t % 65536)
    acts [hostWrite (leAt io 0 8) l, hostWrite (s.hqBase k + 32 * ((s.hqHead k + i) % s.hqSize k) + 12) desc, peFreeFrame f.fid]

/-- HOST_PACKET_MOVER_DONE (R164, R371): the oldest work of the queue ends. -/
def hostPacketMoverDone (k : Nat) (io : List (List Byte × List Byte)) : Act :=
  .look fun s =>
    match s.dma.mover.find? fun m => m.1 == k || m.1 == k + 32 with
    | none => .skip
    | some m =>
      acts [modDma fun d => { d with mover := d.mover.eraseP fun m => m.1 == k || m.1 == k + 32 },
        if m.1 = k + 32 then each (io.take m.2) (h2dOne k)
        else when (s.hqOn k) (
          let io := io.take m.2
          if k < 8 then
            acts [each io (h2dOne k), hqAdvance k io.length, when (!io.isEmpty) (raiseDma (dmaHqTx + k))]
          else
            let l := ((s.d2hQ (k - 8)).zip io).zipIdx
            acts [each l (fun x => d2hOne k x.2 x.1.2.1 x.1.1.1 x.1.1.2),
              modDma fun d => { d with d2h := tabPut d.d2h [] (k - 8) ((tabGet d.d2h [] (k - 8)).drop l.length) },
              hqAdvance k l.length, when (!l.isEmpty) (raiseDma (dmaHqRx + (k - 8)))])]

def execHostPacketMoverDone (q : Fin 16) (io : List (List Byte × List Byte)) (s : State) := ok (coreDo (hostPacketMoverDone q io)) s

end Sys2Proof.Machine
end

