-- ==== Sys2Proof/Machine/Nvm.lean ====
section
/-!
DEFINITION. Machine/Nvm.lean: the NVM and its controller (R356, R361, R378): the two record regions, the queue of page programs,
the manifests of the two slots (R357, R358, R360), and the fault record.
-/
namespace Sys2Proof.Machine

/-! ### Layout (R356) -/

/-- First octet of the fault records. -/
def State.faultBase (s : State) : Nat := (s.nvm.density - 5) * 2 ^ 20

/-- First octet of the shoring ledger. -/
def State.ledgerBase (s : State) : Nat := (s.nvm.density - 4) * 2 ^ 20

def faultSlots : Nat := 4096
def ledgerSlots : Nat := 16384

/-- First octet of image slot A (0) or B (1). -/
def slotBase (slot : Nat) : Nat := if slot = 0 then 0x100000 else 0x1900000

/-- `n` octets of the NVM from address `a`. -/
def State.nvmBytes (s : State) (a n : Nat) : List Byte := (List.range n).map fun i => s.nvmByte (a + i)

/-- Slots of a region up to the highest that is not erased. -/
def usedSlots (cells : List Host.Cell) (base slots : Nat) : Nat :=
  cells.foldl (fun m c => if base ≤ c.1 ∧ c.1 < base + 256 * slots then max m ((c.1 - base) / 256 + 1) else m) 0

/-- Octets written to the NVM from outside, by a board programmer. -/
def nvmWritten (l : List (Nat × BitVec 8)) : Act := each l fun x => .upd (.nvmByte x.1 x.2)

/-! ### Manifests (R357, R358, R360, R390, R391) -/

/-- The section table entry of TYPE `i + 1`: offset, length and digest. -/
def manifestSection (m : List Byte) (i : Nat) : Nat × Nat × BitVec 512 :=
  let o := 0x20 + 80 * i
  (leAt m (o + 4) 4, leAt m (o + 8) 4, BitVec.ofNat 512 (beAt m (o + 16) 64))

/-- Whether the section table meets R358. -/
def sectionsOk (m : List Byte) : Bool :=
  let secs := (List.range 4).map (manifestSection m)
  let imageLen := leAt m 0x0C 4
  decide (imageLen ≤ 0x1800000) &&
    ((List.range 4).all fun i => leAt m (0x20 + 80 * i) 1 == i + 1) &&
    (secs.all fun x => decide (x.1 % 4096 = 0 ∧ 0x2000 ≤ x.1 ∧ x.1 + x.2.1 ≤ imageLen)) &&
    decide (0 < (manifestSection m 0).2.1) &&
    ((List.range 4).all fun i => (List.range 4).all fun j =>
      let a := manifestSection m i
      let b := manifestSection m j
      i == j || a.2.1 == 0 || b.2.1 == 0 || decide (a.1 + a.2.1 ≤ b.1) || decide (b.1 + b.2.1 ≤ a.1))

/-- The good owner-key hash of OTP, A before B (R390). -/
def OtpS.ownerHash (o : OtpS) : Option (BitVec 512) :=
  if o.fieldA = 1 then some o.hashA else if o.fieldB = 1 then some o.hashB else none

/-- OWNER_BAD: both owner fields are used and bad. -/
def OtpS.ownerBad (o : OtpS) : Bool := o.fieldA == 2 && o.fieldB == 2

/-- Owner fields used. -/
def OtpS.fieldsUsed (o : OtpS) : Nat := (if o.fieldA = 0 then 0 else 1) + (if o.fieldB = 0 then 0 else 1)

/-- An SVN counter: fuses set from fuse 0 upward, up to the first that is clear (R391). -/
def svnCount (x : BitVec 64) : Nat := ((List.range 64).find? fun i => !x.getLsbD i).getD 64

/-- Whether HKn is revoked: either fuse of its pair is set (R392). -/
def OtpS.revoked (o : OtpS) (n : Nat) : Bool := o.revoke.getLsbD (2 * n) || o.revoke.getLsbD (2 * n + 1)

def ctxUlm : List Byte := [72, 83, 45, 85, 76, 77]
def ctxFwm : List Byte := [72, 83, 45, 70, 87, 77]
def ctxMcp : List Byte := [72, 83, 45, 77, 67, 80]

/-- Whether the manifest of a slot verifies (R360). -/
def State.manifestOk (s : State) (slot : Nat) : Bool :=
  let b := slotBase slot
  leNat (s.nvmBytes b 4) == 0x554C4D31 &&
    (let m := s.nvmBytes b 7571
     leAt m 4 2 == 1 && leAt m 6 2 == 0xB1 && sectionsOk m && !s.otp.ownerBad &&
       (match s.otp.ownerHash with
        | none => true
        | some h => h == Config.sha3 (sliceB m 0x160 2592)) &&
       decide (svnCount s.otp.svnImage ≤ leAt m 8 4) &&
       Config.sigOk (sliceB m 0x160 2592) ctxUlm (m.take 0xB80) (sliceB m 0xB80 4627))

/-- VALID bit of a slot, set at each reading of its manifest. -/
def noteValid (slot : Nat) : Act :=
  .look fun s => setB (if slot = 0 then F.NVM_STATUS_A_VALID else F.NVM_STATUS_B_VALID) 0 (s.manifestOk slot)

/-- The octets of section TYPE `i + 1` of the slot in use. -/
def State.imageSection (s : State) (i : Nat) : List Byte :=
  match s.nvm.sections.getD i (0, 0, 0) with
  | (o, n, _) => s.nvmBytes (slotBase s.nvm.slot + o) n

/-- Whether a section of the slot in use agrees with its digest (R358). -/
def State.sectionOk (s : State) (i : Nat) : Bool := Config.sha3 (s.imageSection i) == (s.nvm.sections.getD i (0, 0, 0)).2.2

/-! ### Page programs (R320, R356, R361) -/

/-- A record waits to be programmed: region 0 fault records, 1 shoring ledger. At most 16 wait. -/
def nvmQueue (region : Nat) (l : List Byte) : Act :=
  modNvm fun N => if 16 ≤ N.queue.length then N else { N with queue := N.queue ++ [(region, l)] }

/-- Records of a region that wait. -/
def State.nvmWaits (s : State) (region : Nat) : Nat := (s.nvm.queue.filter (·.1 == region)).length

/-- HOLD_ACTIVE follows HOLD once no command is in progress (R361). -/
def holdSync : Act :=
  .look fun s => setB F.NVM_STATUS_HOLD_ACTIVE 0 (s.bit F.NVM_CTL_HOLD 0 && s.nvm.prog.isNone)

/-- The page program in progress writes its bits: flash cells only change from 1 to 0 (R356: records go to erased sectors). -/
def programBytes (a : Nat) (l : List Byte) : Act := .look fun s => each l.zipIdx fun x => .upd (.nvmByte (a + x.2) (s.nvmByte (a + x.2) &&& x.1))

/-- Whether a new NVM command may start: the bus is not released, no reset waits for a page program, and the controller is not in soft
reset (R320, R361). -/
def State.nvmMay (s : State) : Bool :=
  !s.bit F.NVM_STATUS_HOLD_ACTIVE 0 && s.clk.waitNvm.isEmpty && !s.clk.nvmSoft && !s.clk.soft.contains unitNvm

/-- The ledger region is full (R430). -/
def ledgerFull : Act := acts [raise F.SHR_EVT_CAUSE_LEDGER_FULL 0, setB F.SHR_STATUS_LEDGER_FULL 0 true]

/-- NVM_PAGE_PROGRAM (R356): the oldest record that waits is programmed into the next slot of its region. While HOLD is set, a
program is in progress, the controller is in soft reset or a reset waits for it (R320, R361), none starts. -/
def nvmPageProgram : Act :=
  .look fun s =>
    match s.nvm.queue with
    | [] => .skip
    | (region, l) :: rest =>
      when (s.nvm.prog.isNone && !s.bit F.NVM_CTL_HOLD 0 && s.nvmMay) (
        let used := if region = 0 then s.nvm.faultUsed else s.nvm.ledUsed
        let full : Bool := decide ((if region = 0 then faultSlots else ledgerSlots) ≤ used)
        if full then acts [modNvm fun N => { N with queue := rest }, when (region == 0) (raiseDma dmaFaultFull)]
        else
          acts [modNvm fun N =>
              { N with queue := rest, prog := some ((if region = 0 then s.faultBase else s.ledgerBase) + 256 * used, l)
                       ledUsed := if region = 1 then used + 1 else N.ledUsed },
            when (region == 0) (acts [modNvm fun N => { N with faultUsed := used + 1 }, setF F.NVM_FAULT_USED 0 (used + 1)]),
            when (region == 1 && used + 1 == ledgerSlots) ledgerFull, setB F.NVM_STATUS_BUSY 0 true])

/-- The pulse ends: the whole record is written. -/
def programEnd : Act :=
  .look fun s =>
    match s.nvm.prog with
    | none => .skip
    | some (a, l) => acts [programBytes a l, modNvm fun N => { N with prog := none }, setB F.NVM_STATUS_BUSY 0 false, holdSync]

/-! ### The fault record (R347, R378) -/

/-- One finding as the fault record holds it. -/
def findingBytes (x : Finding) : List Byte :=
  leBytes 1 x.table ++ leBytes 1 x.kind ++ leBytes 1 x.place ++ [0] ++ leBytes 4 x.index ++ leBytes 4 x.crc.toNat

/-- The fault record of an entry to SEALED. -/
def State.faultRecord (s : State) (cause : Nat) : List Byte :=
  let finds := ((s.dma.log.take 16).map findingBytes).flatten
  let body := leBytes 4 0x464C5431 ++ leBytes 2 1 ++ leBytes 2 256 ++ leBytes 8 ((s.sec.bootId.getD 0).toNat) ++
    leBytes 4 (s.nvm.faultSeq + 1) ++ leBytes 6 (s.nowNs / 10 ^ 9) ++ leBytes 4 (s.nowNs % 10 ^ 9) ++
    leBytes 2 (s.fld F.SYS_EPOCH_CURRENT 0) ++ leBytes 1 s.mode.sealBefore ++ leBytes 1 (if cause = 4 then 1 else 0) ++
    leBytes 1 (s.fld F.ASSAY_STATUS_REF 0) ++ leBytes 1 s.nvm.slot ++ leBytes 4 s.winCount ++ leBytes 8 0 ++
    (finds ++ List.replicate (192 - finds.length) 0) ++ leBytes 12 0
  body ++ leBytes 4 (crc32 crcInit body).toNat

/-- Zolliwin hands fault records to the NVM controller. -/
def faultQueue (l : List (List Byte)) : Act := each l (nvmQueue 0)

/-- On entry to SEALED the fault record is written; a Zolliwin that its watchdog holds writes it when it runs again (R347). A full
region takes none (R378). -/
def faultWrite (cause : Nat) : Act :=
  .look fun s =>
    if faultSlots ≤ s.nvm.faultUsed + s.nvmWaits 0 + s.nvm.faultPend.length then raiseDma dmaFaultFull
    else
      let l := s.faultRecord cause
      acts [modNvm fun N => { N with faultSeq := N.faultSeq + 1 },
        if s.zolOn then faultQueue [l] else modNvm fun N => { N with faultPend := N.faultPend ++ [l] }]

/-- Fault records that waited for Zolliwin (R347). -/
def faultResume : Act := .look fun s => acts [faultQueue s.nvm.faultPend, modNvm fun N => { N with faultPend := [] }]

/-- An extension of a measurement register by a digest (R397). -/
def extendM (i : Nat) (d : BitVec 512) : Act :=
  modSec fun c => { c with m := tabPut c.m 0 i (Config.sha3 (digestBytes (tabGet c.m 0 i) ++ digestBytes d)) }

/-! ### The reference (R373, R377) -/

def refNone : Nat := 0
def refNvm : Nat := 1
def refHost : Nat := 2

/-- The reference in force. -/
def State.refNow (s : State) : Nat := s.fld F.ASSAY_STATUS_REF 0

/-- The reference that R373 gives. -/
def State.refWant (s : State) : Nat :=
  let sel := s.fld F.ASSAY_CFG_REF_SEL 0
  let r := if sel = 1 then refNvm
    else if sel = 2 then refNone
    else if s.hostOwns ∧ s.bit F.ASSAY_CTL_SHADOW_EN 0 then refHost
    else if !s.hostOwns ∧ !s.dma.everHost then refNvm
    else refNone
  if r = refNvm ∧ !s.nvm.refOk then refNone
  else if r = refHost ∧ s.dma.refDead then refNone
  else r

/-- A pass begins; with `rebase` it is a rebase pass (R375, R377). -/
def passBegin (rebase : Bool) : Act :=
  .look fun s =>
    acts [modDma fun d => { d with walk := (1, false, 0), skip := [], finds := [], passDirty := false, passSealed := s.opMode == modeSealed },
      each (List.range 16) (fun a => modAisle a fun A => { A with swept := false, sweepFrom := false }),
      setB F.ASSAY_STATUS_REBASE 0 rebase]

/-- The reference follows R373; `force` marks the occasions of R377 that always begin a rebase pass. -/
def refSync (force : Bool) : Act :=
  .look fun s =>
    let r := s.refWant
    acts [when (r != s.refNow) (acts [setF F.ASSAY_STATUS_REF 0 r, raise F.QTR_ASSAY_EVT_CAUSE_REF_CHANGE 0]),
      when (force || r != s.refNow) (passBegin true)]

/-- Ownership changes: the reference follows, but in SEALED the one in force at the entry stays, as long as its owner can still give it
(R364, R376). -/
def refOwner : Act := .look fun s => when (s.opMode != modeSealed || s.refNow == refHost) (refSync false)

/-- The reference cannot be read, fails its digest or holds a malformed record (R373). -/
def refFail : Act :=
  .look fun s =>
    acts [raise F.QTR_ASSAY_EVT_CAUSE_REF_FAIL 0,
      (if s.refNow = refHost then modDma fun d => { d with refDead := true } else modNvm fun N => { N with refOk := false }),
      refSync false]

/-! ### HOLD (R361, R363) -/

/-- A write of NVM_CTL that sets HOLD to the value of a row; from PF0 only the host as owner may write it (R363). -/
def onHold (req : Req) (value : Word) (b : Bool) (k : Act) : Act :=
  onWrite req .NVM_CTL 0 fun rq =>
    when (value.getLsbD 0 == b) (.look fun s => if isPf0 rq && !s.hostOwns then reject3 .nvm rq .NVM_CTL 0 else k)

/-- NVM_HOLD_SET: the bus is released once the command in progress has ended. -/
def nvmHoldSet (req : Req) (value : Word) : Act := onHold req value true (acts [setB F.NVM_CTL_HOLD 0 true, holdSync])

/-- The octets of a value as 16 words of a mailbox. -/
def bytesWords (l : List Byte) : List Word := (List.range 16).map fun i => BitVec.ofNat 32 (leAt l (4 * i) 4)

/-- The operation of a mailbox ends: GO clears, and MBX_DONE of a host mailbox occurs. -/
def mbxEnd (n : Nat) : Act :=
  acts [setB F.MBX_CTL_GO n false, modMbx n fun m => { m with busy := false }, when (decide (n < 16)) (occur (1728 + n))]

/-- It succeeds; a read leaves its words in DATA0 to DATA15. -/
def mbxOk (n : Nat) (out : Option (List Word)) : Act :=
  acts [(match out with
     | none => .skip
     | some l => each (List.range 16) fun i => setReg .MBX_DATA (16 * n + i) (l.getD i 0)),
    setB F.MBX_CTL_VALID n true, mbxEnd n]

/-- A mailbox reads 64 octets of a record region; where no NVM command may start the read waits, and GO stays 1 (R320, R361). -/
def nvmRead (n a : Nat) : Act :=
  .look fun s => if s.nvmMay then mbxOk n (some (bytesWords (s.nvmBytes a 64))) else modNvm fun N => { N with reads := N.reads ++ [(n, a)] }

/-- Reads of the record regions that waited are made. -/
def nvmServe : Act := .look fun s => when s.nvmMay (acts [modNvm fun N => { N with reads := [] }, each s.nvm.reads fun x => nvmRead x.1 x.2])

/-- NVM_HOLD_CLEAR: both manifests are read and verified again; a slot in use that no longer verifies makes the NVM reference
unavailable. While a reset waits for a page program no NVM command starts, and that reset brings a new start (R320). Octets written from outside count only where the bus had been released. -/
def nvmHoldClear (req : Req) (value : Word) (written : List (Nat × BitVec 8)) : Act :=
  onHold req value false (.look fun s =>
    acts [when (s.bit F.NVM_STATUS_HOLD_ACTIVE 0) (nvmWritten written), setB F.NVM_CTL_HOLD 0 false, holdSync,
      .look fun s => when s.nvmMay (acts [noteValid 0, noteValid 1,
        .look fun s =>
          let slot := s.nvm.slot
          when (decide (slot < 2) && !s.manifestOk slot)
            (if s.refNow = refNvm then refFail else modNvm fun N => { N with refOk := false }),
        nvmServe])])

def execNvmPageProgram (s : State) := ok nvmPageProgram s
def execNvmHoldSet (req : Req) (value : Word) (s : State) := ok (nvmHoldSet req value) s
def execNvmHoldClear (req : Req) (value : Word) (written : List (Nat × BitVec 8)) (s : State) := ok (nvmHoldClear req value written) s

end Sys2Proof.Machine
end

