-- ==== Sys2Proof/Machine/Patch.lean ====
section
/-!
DEFINITION. Machine/Patch.lean: the payload of the microcode patch (R152) and its loading into the control stores (R153).
-/
namespace Sys2Proof.Machine

/-- One section of the payload: its engine kind and its records. -/
structure PatchSec where
  pe : Bool
  words : List (Nat × BitVec 200)
  traps : List (Nat × BitVec 28)
  disp : List (BitVec 16)
deriving DecidableEq, Repr

/-- The section that begins the octets, and what follows it. -/
def patchSec (l : List Byte) : PatchSec × List Byte :=
  let w := leAt l 2 2
  let t := leAt l 4 2
  let d := leAt l 6 2
  let ot := 16 + 32 * w
  let od := ot + 8 * t
  ({ pe := leAt l 0 1 == 1
     words := (List.range w).map fun i => (leAt l (16 + 32 * i) 2, BitVec.ofNat 200 (leAt l (16 + 32 * i + 7) 25))
     traps := (List.range t).map fun i =>
       (leAt l (ot + 8 * i) 1, trapEntry <| BitVec.ofNat 27 (2 ^ 26 + leAt l (ot + 8 * i + 2) 2 % 2 ^ 13 * 2 ^ 13 + leAt l (ot + 8 * i + 4) 2 % 2 ^ 13))
     disp := (List.range d).map fun i => BitVec.ofNat 16 (leAt l (od + 2 * i) 2) },
   l.drop ((od + 2 * d + 15) / 16 * 16))

/-- Whether `n` octets from `o` are 0. -/
def zeroAt (l : List Byte) (o n : Nat) : Bool := leAt l o n == 0

/-- Whether an address is one a patch may load. -/
def patchAddr (a : Nat) : Bool := decide (0x1E00 ≤ a ∧ a ≤ 0x1FF7)

/-- Whether the section that begins the octets is whole, has every field in its range, its reserved fields and padding 0, and carries
good parity (R152, R153). -/
def patchSecOk (l : List Byte) : Bool :=
  let w := leAt l 2 2
  let t := leAt l 4 2
  let d := leAt l 6 2
  let ot := 16 + 32 * w
  let x := (patchSec l).1
  decide (16 ≤ l.length) && decide (leAt l 0 1 ≤ 1) && decide (w ≤ 504) && decide (t ≤ 24) && (d == 0 || d == 64) &&
    decide ((ot + 8 * t + 2 * d + 15) / 16 * 16 ≤ l.length) &&
    zeroAt l 1 1 && zeroAt l 8 8 && ((List.range w).all fun i => zeroAt l (16 + 32 * i + 2) 5) &&
    ((List.range t).all fun i => zeroAt l (ot + 8 * i + 1) 1 && zeroAt l (ot + 8 * i + 6) 2) &&
    (let e := ot + 8 * t + 2 * d
     zeroAt l e ((e + 15) / 16 * 16 - e)) &&
    (x.words.all fun e => patchAddr e.1 && badGroups e.2 == 0) &&
    ((List.range t).all fun i => decide (leAt l (ot + 8 * i) 1 ≤ 23) && !isRam (leAt l (ot + 8 * i + 2) 2) && patchAddr (leAt l (ot + 8 * i + 4) 2)) &&
    (x.disp.all fun v => v == 0x7FFF#16 || nbits v.toNat 13 2 == 0)

/-- Whether a payload holds one or two good sections, at most one for each engine kind. -/
def patchOk (l : List Byte) : Bool :=
  patchSecOk l &&
    (let r := (patchSec l).2
     r.isEmpty || (patchSecOk r && (patchSec r).2.isEmpty && (patchSec l).1.pe != (patchSec r).1.pe))

/-- The sections of a payload; none in an empty patch. -/
def patchSecs (l : List Byte) : List PatchSec :=
  if l.isEmpty then []
  else
    let r := (patchSec l).2
    (patchSec l).1 :: (if r.isEmpty then [] else [(patchSec r).1])

/-- A control store with the ROM defaults and the section of its engine kind (R132 to R134, R153 step 6). -/
def McStore.load (m : McStore) (pe : Bool) (l : List PatchSec) : McStore :=
  let m := { m with ram := [], trap := [], disp := [], bad := [], badAt := [] }
  (l.filter fun x => x.pe == pe).foldl (fun m x =>
    { m with
      ram := x.words.foldl (fun t e => tabPut t 0 e.1 e.2) m.ram
      trap := x.traps.foldl (fun t e => tabPut t 0 e.1 e.2) m.trap
      disp := x.disp.zipIdx.foldl (fun t e => if e.1 = 0x7FFF#16 then t else tabPut t (dispEntry (Config.romDispatch pe e.2)) e.2 (dispEntry (e.1 &&& 0x9FFF#16))) m.disp }) m

/-- The patch of a payload loaded into one store. -/
def loadStore (payload : List Byte) (k : Nat) : Act := modStore k fun m => m.load (k == 16) (patchSecs payload)

/-- A store with nothing but ROM (R132, R134); none left written where a load fails (R154). -/
def clearStore (k : Nat) : Act := loadStore [] k

end Sys2Proof.Machine
end

