-- ==== Sys2Proof/Machine/Path.lean ====
section
/-!
DEFINITION. Machine/Path.lean: the life of a frame up to its buffer: capture (R26, R190, R232), admission, resolution (R86, R94 to
R98), policing (R208 to R213) and the last byte (R29, R86, R177).
-/
namespace Sys2Proof.Machine

/-! ### Capture and the last byte -/

/-- Room of a port's receive FIFO (R190). -/
def State.fifoRoom (s : State) (p : Nat) : Nat := s.width p * 98304 - s.fifoFill p

/-- FRAME_SFD_CAPTURE (R26, R190, R232, R235, R340). A frame that finds its FIFO without room for it is ended where the FIFO
overflowed. -/
def frameSfdCapture (p pos : Nat) (data : List Byte) (sub : Nat) : Act :=
  .look fun s =>
    when (s.starts p && s.isUp p && (s.port p).arriving.isNone) (
      let t := s.stallTime sub - s.laneDelay (p + pos % (max 1 (s.width p))) true
      let ovf := decide (s.fifoRoom p < data.length + 4)
      let f : Frame := { fid := s.fidNext, port := p, data := if ovf then data.take (s.fifoRoom p - 4) else data.take 10236
                         tIn := t, epoch := s.newEpoch, mark := s.markedDir p 0 }
      acts [.upd .fid,
        modPort p fun P => { P with actAt := P.seen s.time.words, arriving := some { f with data := data, lastIn := ovf }, bwRx := P.bwRx + data.length + 24
                                    fifo := if ovf then P.fifo else P.fifo ++ [f] },
        perfEvent pbTime 2 (some p) 1, when (s.markedDir p 0) (perfEvent pbTime 5 (some p) 1),
        when ovf (acts [count 0x38 p 4 1, raise F.SWC_EVT_CAUSE_OVERRUN (aisleOf p)]), fifoLevel p])

/-- Mark the last byte of a frame, wherever the frame now is, with the verdict on its FCS. -/
def markLast (p fid : Nat) (good : Bool) : Act :=
  let up := fun (f : Frame) => if f.fid = fid then { f with lastIn := true, fcsOk := good } else f
  acts [modPort p fun P => { P with fifo := P.fifo.map up },
    modPkts fun l => l.map fun k => { k with frame := up k.frame },
    .look fun s => each (s.bufs.filter fun b => b.2.st != 0 && b.2.frame.fid == fid) fun b =>
      acts [modBuf b.1 fun b => { b with frame := up b.frame, len := max 64 (min b.frame.size (poolSize (poolOf b.1))) },
        perfBytes pbSwc 3 none (min b.2.frame.size (poolSize (poolOf b.1))) 12288, truncateAt b.1,
        when (!good) (acts [modPort p fun P => { P with rxq := P.rxq.filter fun x => x.2 != fid },
          .look fun s => if (s.buf b.1).ownQ = 9 then freeReq (s.buf b.1).ownPort 9 b.1 (s.buf b.1).gen true else dropQueued b.1])]]

/-- Policer buckets: rate gain of a device time span, 2^-32 byte (R211). -/
def polGain (rate e : Nat) : Nat := e * rate * 2 ^ 32 / 80000

/-- Fields of a policer entry (R209). -/
def State.polE (s : State) (q i : Nat) : Nat := (s.flatE (flatKey 10 q i)).toNat
def polMode (E : Nat) : Nat := nbits E 126 2
def polCbs (E : Nat) : Int := ((nbits E 24 24 * 2 ^ 32 : Nat) : Int)
def polPbs (E : Nat) : Int := ((nbits E 0 24 * 2 ^ 32 : Nat) : Int)

/-- A policer's buckets brought up to a device time in ns (R211). -/
def polUpdate (E : Nat) (b : PolB) (now : Nat) : PolB :=
  let e := min (now - b.last) (10 ^ 9)
  let c := b.c + (polGain (nbits E 72 24) e : Nat)
  if polMode E = 2 then { c := min c (polCbs E), p := min (b.p + (polGain (nbits E 48 24) e : Nat)) (polPbs E), last := now }
  else { c := min c (polCbs E), p := min (b.p + max 0 (c - polCbs E)) (polPbs E), last := now }

/-- A correction when the last byte is received: the estimate's difference to each bucket debited (R212). -/
def polCorrect (E debit : Nat) (d : Int) (b : PolB) : PolB :=
  let fix := fun (x cap : Int) => max (-(16 * 2 ^ 20 * 2 ^ 32)) (min (x + d * 2 ^ 32) cap)
  { b with c := if debit.testBit 0 then fix b.c (polCbs E) else b.c, p := if debit.testBit 1 then fix b.p (polPbs E) else b.p }

/-- FRAME_LAST_BYTE (R29, R38, R86, R177, R212). -/
def frameLastByte (p : Nat) (fcsOk : Bool) : Act :=
  .look fun s =>
    match (s.port p).arriving with
    | none => .skip
    | some f =>
      let q := quarterOf p
      let long := decide (10240 < f.size)
      let good := fcsOk && !f.lastIn && !long && decide (64 ≤ f.size)
      acts [modPort p fun P => { P with arriving := none }, calBoundary p 0,
        (if good then acts [count 0x11 (2 * p) 0 1, count 0x11 (2 * p) 1 f.size] else count 0x11 (2 * p) 2 1),
        when long (count 0x11 (2 * p) 5 1),
        when (!f.lastIn && !((s.port p).fifo.any (·.fid == f.fid))) (perfBytes (aisleOf p) 2 (some p) f.size 1024),
        markLast p f.fid good,
        when (!good) (modPort p fun P => { P with fifo := P.fifo.filter fun x => x.fid != f.fid }), fifoLevel p,
        each ((s.qtr q).polPend.filter fun x => x.1 == f.fid) fun x =>
          modQtr q fun Q => { Q with
            pol := tabPut Q.pol {} x.2.1 (polCorrect (s.polE q x.2.1) x.2.2.2 ((x.2.2.1 : Int) - (min f.size 10240 : Nat)) (tabGet Q.pol {} x.2.1)) },
        modQtr q fun Q => { Q with polPend := Q.polPend.filter fun x => x.1 != f.fid },
        .look fun s => learnVerdict q f.fid (good && !(s.bufs.any fun b => b.2.st != 0 && b.2.frame.fid == f.fid && b.2.truncd))]

/-! ### Resolution tables (R94) -/

/-- An entry of a flat table in a quarter's copy. -/
def State.qtab (s : State) (q t i : Nat) : Nat := (s.flatE (flatKey t q i)).toNat

/-- Bridge domain of a frame before decapsulation, and the VRF of a bridge domain (R86). -/
def State.bdOf (s : State) (q p : Nat) (P : Parsed) : Nat :=
  nbits (if P.tagged then s.qtab q 1 P.ovid else s.qtab q 2 p) 0 14
def State.vrfOf (s : State) (q bd : Nat) : Nat := nbits (s.qtab q 3 bd) 0 12

/-- The router MAC table holds a destination MAC for a bridge domain or for any (R94). -/
def State.routerMac (s : State) (q bd mac : Nat) : Bool :=
  (List.range 64).any fun i =>
    let e := s.qtab q 4 i
    e.testBit 63 && nbits e 0 48 == mac && (e.testBit 62 || nbits e 48 14 == bd)

/-- Host entry of an address: TYPE 2 or 3 (R78). -/
def State.hostEntry (s : State) (q vrf : Nat) (P : Parsed) : Option LEntry :=
  if P.isIp4 then s.ledger q 2 (vrf * 2 ^ 32 + P.dst)
  else if P.isIp6 then s.ledger q 3 (vrf * 2 ^ 146 + P.dst * 2 ^ 18)
  else none

/-- Flow entry: TYPE 5 (R78). -/
def State.flowEntry (s : State) (q vrf : Nat) (P : Parsed) : Option LEntry :=
  if P.isIp4 then
    s.ledger q 5 (vrf * 2 ^ 146 + P.src * 2 ^ 114 + P.dst * 2 ^ 82 + P.proto * 2 ^ 74 + P.sport * 2 ^ 58 + P.dport * 2 ^ 42)
  else none

/-- Priority and queue of the class map (R97): of the ingress port's profile, by PCP or DSCP. -/
def State.classMap (s : State) (q p pcp : Nat) (P : Parsed) : Nat × Nat :=
  let t := s.qtab q 2 p
  let c := if t.testBit 14 && (P.isIp4 || P.isIp6) then 8 + P.dscp else pcp
  let e := s.qtab q 9 (nbits t 15 4 * 72 + c)
  (nbits e 0 3, nbits e 4 4)

/-- Queue values 9 to 15 are 0 (R97). -/
def queueOk (q : Nat) : Nat := if 8 < q then 0 else q

/-! ### ECMP (R96) -/

/-- A next hop: VALID, PORT, egress BD, VNI, REWRITE_INDEX (R368). -/
structure NextHop where
  valid : Bool
  port : Nat
  bd : Nat
  vni : Nat
  rw : Nat

def State.nextHop (s : State) (q i : Nat) : NextHop :=
  let e := s.qtab q 5 i
  { valid := e.testBit 0, port := nbits e 1 9, bd := nbits e 10 14, vni := nbits e 24 24, rw := nbits e 48 16 }

/-- Next-hop index of member `m` of a group. -/
def State.memberNh (s : State) (q group m : Nat) : Nat := nbits (s.qtab q 7 ((nbits (s.qtab q 6 group) 13 20 + m) % 2 ^ 20)) 0 18

def State.memberPort (s : State) (q group m : Nat) : Nat := (s.nextHop q (s.memberNh q group m)).port

/-- SIZE of a group. -/
def State.groupSize (s : State) (q group : Nat) : Nat := nbits (s.qtab q 6 group) 1 12 + 1

/-- The static choice among the members present (R96). -/
def State.staticMember (s : State) (q group h : Nat) : Nat :=
  let n := s.groupSize q group
  let up := (List.range n).filter fun m => s.isUp (s.memberPort q group m)
  let h16 := h / 65536
  if up.isEmpty then h16 * n / 65536 else up.getD (h16 * up.length / 65536) 0

/-- Cost of a member of an adaptive group; none with a health grade of 0. -/
def State.memberCost (s : State) (q group queue m : Nat) : Option Nat :=
  let p := s.memberPort q group m
  let hg := s.fld F.PORT_STATE_HEALTH p
  if hg = 0 then none
  else some (tabGet (s.qtr q).depthPub 0 (p * 9 + queue) / 2 ^ s.fld F.QTR_ECMP_CFG_DEPTH_SHIFT q + (15 - hg) * s.fld F.QTR_ECMP_CFG_HEALTH_COST q)

/-- The member of least cost, ties to the first at or after the static choice; the static choice if all have grade 0. -/
def State.leastMember (s : State) (q group queue st : Nat) : Nat :=
  let n := s.groupSize q group
  (((List.range n).map fun i => (st + i) % n).foldl (fun (best : Option (Nat × Nat)) m =>
    match s.memberCost q group queue m, best with
    | none, b => b
    | some c, none => some (m, c)
    | some c, some (bm, bc) => if c < bc then some (m, c) else some (bm, bc)) none).elim st (·.1)

/-- The member of a group for a flow hash, and the flowlet entry it leaves (R96). -/
def State.ecmp (s : State) (q group queue h : Nat) : Nat × Option Flowlet :=
  let st := s.staticMember q group h
  if (s.qtab q 6 group).testBit 0 = false then (st, none)
  else
    let now : BitVec 32 := BitVec.ofNat 32 s.nowNs
    let e := tabGet (s.qtr q).flow {} (h % 65536)
    let keep := e.valid && e.group == group && decide ((now - e.last).toNat < s.fld F.QTR_ECMP_CFG_GAP q * 100) &&
      s.isUp (s.memberPort q group e.member)
    let m := if keep then e.member else s.leastMember q group queue st
    (m, some { valid := true, group := group, member := m, last := now })

/-! ### Policing (R208 to R213) -/

/-- Colours: 0 green, 1 yellow, 2 red. -/
def colour (E : Nat) (b : PolB) (pre len : Nat) : Nat × PolB × Nat :=
  let n : Int := ((len * 2 ^ 32 : Nat) : Int)
  if polMode E = 2 then
    if pre = 2 ∨ b.p < n then (2, b, 0)
    else if pre = 1 ∨ b.c < n then (1, { b with p := b.p - n }, 2)
    else (0, { b with p := b.p - n, c := b.c - n }, 3)
  else if polMode E = 1 then
    if pre = 0 ∧ n ≤ b.c then (0, { b with c := b.c - n }, 1)
    else if pre ≠ 2 ∧ n ≤ b.p then (1, { b with p := b.p - n }, 2)
    else (2, b, 0)
  else (0, b, 0)

/-- Pre-colour of a frame (R210): DEI of the outer tag, or its DSCP through QTR_PCOL_MAP. -/
def State.preColour (s : State) (q E : Nat) (outer d : Parsed) : Nat :=
  if E.testBit 125 = false then 0
  else if E.testBit 124 = false then (if outer.tagged && outer.dei then 1 else 0)
  else if d.isIp4 || d.isIp6 then
    let c := nbits (s.eff .QTR_PCOL_MAP (q * 4 + d.dscp / 16)).toNat (2 * (d.dscp % 16)) 2
    if c = 3 then 0 else c
  else 0

/-- Police a frame: `k` gets its colour's action: discard, or the queue it goes to. -/
def police (q i : Nat) (f : Frame) (outer d : Parsed) (queue : Nat) (k : Bool → Nat → Act) : Act :=
  .look fun s =>
    let E := s.polE q i
    let est := match outer.L with | some n => if n ≤ 10240 then n else 64 | none => 64
    let len := if f.lastIn then f.size else est
    let b := polUpdate E (tabGet (s.qtr q).pol {} i) s.nowNs
    let r := colour E b (s.preColour q E outer d) len
    let act := if r.1 = 1 then nbits E 122 2 else if r.1 = 2 then nbits E 120 2 else 0
    let drop := r.1 == 2 && decide (2 ≤ act)
    let nq := if act = 1 then queueOk (nbits E (if r.1 = 1 then 116 else 112) 4) else queue
    acts [modQtr q fun Q => { Q with
        pol := tabPut Q.pol {} i r.2.1
        polPend := if f.lastIn || r.2.2 == 0 then Q.polPend else Q.polPend ++ [(f.fid, i, len, r.2.2)] },
      count 0x19 (q * 65536 + i) (2 * r.1) 1, count 0x19 (q * 65536 + i) (2 * r.1 + 1) len,
      when drop (acts [qcount q 1 5 1, raise F.SCH_EVT_CAUSE_RED_DISCARD (aisleOf f.port)]), k drop nq]

/-! ### Resolution (R86, R95, R97, R98) -/

/-- Peer delay messages and their address. -/
def peerMac : Nat := 0x0180C200000E

/-- Work type with which resolution delivers a frame in its first step, if it does (R95, R248). -/
def State.control (s : State) (q p vrf : Nat) (P : Parsed) : Option Nat :=
  let ptpWt := if P.isEvent then wtPtpEvent else wtPtpGeneral
  let role := s.fld F.TIME_PORT_PTP_ROLE p
  if P.lldp then some wtLldpRx
  else if P.esmc then some wtEsmcRx
  else if P.ptp.isSome ∧ P.dmac = peerMac ∧ (P.ptpType = 2 ∨ P.ptpType = 3 ∨ P.ptpType = 0xA) then some ptpWt
  else if P.ptp.isSome ∧ (role = 1 ∨ role = 2) ∧ P.ptpDomain = s.fld F.TIME_PTP_CFG_DOMAIN 0 then some ptpWt
  else if P.bfd then
    match s.hostEntry q vrf P with
    | some e => if e.fwd.loc then some wtBfdRx else none
    | none => none
  else none

/-- Work type of a frame that a result delivers to the protocol engine: what its headers make it, or 0, local delivery (R372). -/
def localType (P : Parsed) : Nat :=
  if P.ptp.isSome then (if P.isEvent then wtPtpEvent else wtPtpGeneral) else if P.bfd then wtBfdRx else 0

/-- The bridge domain that a DIR 0 VNI map entry gives a VXLAN frame (R95). -/
def State.decap (s : State) (q : Nat) (P : Parsed) (data : List Byte) : Option Nat :=
  P.vxlan.bind fun v => (s.ledger q 4 (vniOf data v)).map fun e => e.value % 2 ^ 14

/-- The forwarding result; none for a routed miss (R95). The second part says whether the result is a flood. -/
def State.forward (s : State) (a q bd vrf : Nat) (d : Parsed) (routed : Bool) : Option (Fwd × Bool) :=
  let bdE := s.qtab q 3 bd
  if routed then
    (match (if bdE.testBit 27 then s.flowEntry q vrf d else none) with
     | some e => some (e.fwd, false)
     | none =>
       match s.hostEntry q vrf d with
       | some e => some (e.fwd, false)
       | none => (s.lpmSearch a d.isIp6 vrf d.dst).map fun r => (lpmFwd r, false))
  else
    match s.ledger q 1 (macKey bd d.dmac) with
    | some e => some (e.fwd, false)
    | none => some ({ kind := 3, value := nbits bdE 12 14 }, true)

/-- The forwarding fields of a rule result (R105). -/
def ruleFwd (r : Nat) : Fwd := { kind := nbits r 59 2, discard := r.testBit 62, loc := r.testBit 61, value := nbits r 35 24 }

/-- PTYPE of a packet (R145). -/
def ptypeOf (v6 routed decap encap repl : Bool) : Nat :=
  if repl then (if routed then (if v6 then 11 else 10) else 9)
  else if decap then (if routed then (if v6 then 8 else 7) else 6)
  else if routed then (if encap then (if v6 then 5 else 4) else if v6 then 3 else 2)
  else if encap then 1 else 0

/-- The ports set in a multicast group's mask, but for the ingress port (R98). -/
def State.groupPorts (s : State) (q g ingress : Nat) : List Nat :=
  let m := s.flatE (flatKey 8 q (g % 2 ^ 14))
  (List.range 512).filter fun p => m.getLsbD p && p != ingress

/-- The lowest free hewer of an aisle (R146). -/
def State.freeHewer (s : State) (a : Nat) : Option Nat :=
  (List.range 32).find? fun h => !(s.pkts.any fun k => k.aisle == a && k.hewer == some h)

/-- A packet with its destinations goes on: copies to ports that take no frames are flushed before allocation (R194), and the rest
goes to a hewer. -/
def launch (k : Packet) (h : Nat) : Act :=
  .look fun s =>
    let gone := fun p => s.hold p == holdFlushing || (!s.isUp p && s.hold p == holdNone)
    let keep := k.dests.filter fun p => !gone p
    let k' := { k with dests := keep, hewer := some h }
    acts [each (k.dests.filter gone) (fun p => acts [count 0x38 p 3 1, raise F.SWC_EVT_CAUSE_FLUSHED (aisleOf p)]),
      perfPorts pbSwc 12 (k.dests.filter gone),
      when (!keep.isEmpty) (acts [modPkts fun l => l ++ [k'],
        hewerStart (.hewer (Fin.ofNat 16 k.aisle) (Fin.ofNat 32 h)) k'])]

/-- Give a packet its destinations from its forwarding result, and police it (R95, R96, R98, R208). -/
def expand (k : Packet) (q h bd : Nat) (d : Parsed) (fwd : Fwd) (flood : Bool) (rule : Nat) : Act :=
  .look fun s =>
    let hash := (crc32c (BitVec.ofNat 32 (s.fld F.QTR_ECMP_SEED_SEED q)) (d.hashBytes bd)).toNat
    let e := s.ecmp q (fwd.value % 2 ^ 14) k.queue hash
    let nh := if fwd.kind = 2 then s.nextHop q (s.memberNh q (fwd.value % 2 ^ 14) e.1) else s.nextHop q (fwd.value % 2 ^ 18)
    let viaNh := fwd.kind == 1 || fwd.kind == 2
    let repl := fwd.kind == 3 || flood
    let dests := if fwd.kind = 0 then [fwd.value % 512] else if viaNh then [nh.port] else s.groupPorts q fwd.value k.frame.port
    let encap := viaNh && nh.vni != 0
    let k := { k with
      dests := dests, encap := encap, repl := repl, egBd := if viaNh then nh.bd else bd, rwIdx := if viaNh then nh.rw else 0
      ptype := ptypeOf d.isIp6 k.routed k.inner.isSome encap repl }
    acts [when (fwd.kind == 2) (match e.2 with
        | some x => modQtr q fun Q => { Q with flow := tabPut Q.flow {} (hash % 65536) x }
        | none => .skip),
      if viaNh ∧ nh.valid = false then qcount q 1 3 1
      else if rule.testBit 34 then
        police q (nbits rule 18 16) k.frame k.parsed d k.queue fun drop nq =>
          if drop then .skip else if dests.isEmpty then qcount q 1 4 1 else launch { k with queue := nq } h
      else if dests.isEmpty then qcount q 1 4 1
      else launch k h]

/-- The ledger keys that the resolution of a packet uses, and whether each hits: VNI, source MAC, and destination MAC or flow and host
(R78, R86, R95); for the PERF events only. -/
def State.keyHits (s : State) (q bd vrf : Nat) (P : Parsed) (data : List Byte) (d : Parsed) (routed : Bool) : List Bool :=
  (match P.vxlan with | some v => [(s.ledger q 4 (vniOf data v)).isSome] | none => []) ++
    (if s.learnMode && (s.qtab q 3 bd).testBit 26 && s.bit F.QTR_LEARN_CFG_LEARN_EN q then [(s.ledger q 1 (macKey bd d.smac)).isSome] else []) ++
    (if routed then
      (if (s.qtab q 3 bd).testBit 27 then [(s.flowEntry q vrf d).isSome] else []) ++ [(s.hostEntry q vrf d).isSome]
     else [(s.ledger q 1 (macKey bd d.dmac)).isSome])

/-- Resolve a parsed packet (R86, R95, R97). Of a decapsulated frame the rule key holds the flags of the inner headers, of any other
frame those of the outer ones (log 137), and the class map is indexed by the inner DSCP or the outer PCP (log 139). -/
def resolve (a h : Nat) (f : Frame) (cfg : Word) : Act :=
  .look fun s =>
    let p := f.port
    let q := quarterOf p
    let P := parse cfg f.data
    let bd0 := s.bdOf q p P
    let dec := s.decap q P f.data
    let inner := if dec.isSome then P.innerOf cfg f.data else none
    let d := inner.getD P
    let bd := if inner.isSome then dec.getD bd0 else bd0
    let vrf := s.vrfOf q bd
    let vni := match P.vxlan with | some v => if inner.isSome then vniOf f.data v else 0 | none => 0
    let rule := ((s.ruleSearch a d.fmt (d.ruleKey p vrf bd P.pcp vni)).getD 0).toNat
    let cm := s.classMap q p P.pcp d
    let ptpQt := P.isEvent && (s.qtab q 2 p).testBit 19
    let routed := (d.isIp4 || d.isIp6) && s.routerMac q bd d.dmac
    let prio := if rule.testBit 17 then nbits rule 14 3 else cm.1
    let queue := if rule.testBit 13 then queueOk (nbits rule 9 4) else if ptpQt then 8 else queueOk cm.2
    let k : Packet := { frame := f, aisle := a, parsed := P, inner := inner, cls := P.cls, prio := prio, queue := queue, routed := routed }
    let pe := fun wt => acts [modPkts fun l => l ++ [{ k with peWait := some wt }], leaveHewers p]
    let learn := when (s.learnMode && (s.qtab q 3 bd).testBit 26 && s.bit F.QTR_LEARN_CFG_LEARN_EN q)
      (acts [learnDecide q bd d.smac p f.fid f.tIn, when f.lastIn (learnVerdict q f.fid f.fcsOk)])
    let srch := s.ruleSearch a d.fmt (d.ruleKey p vrf bd P.pcp vni)
    let ip := d.isIp4 || d.isIp6
    let keys := s.keyHits q bd vrf P f.data d routed
    acts [learn,
      when ip (acts [perfEvent a 10 none 1, when (s.lpmSearch a d.isIp6 vrf d.dst).isSome (perfEvent a 11 none 1)]),
      perfEvent a 12 none 1, when srch.isSome (perfEvent a 13 none 1),
      perfEvent a 14 none keys.length, perfEvent a 15 none (keys.filter id).length,
      when P.isEvent (perfEvent a 17 (some p) 1),
      match s.control q p (s.vrfOf q bd0) P with
      | some wt => pe wt
      | none =>
        match (if rule.testBit 63 then some (ruleFwd rule, false) else s.forward a q bd vrf d routed) with
        | none => qcount q 1 3 1
        | some (fwd, flood) =>
          if fwd.discard then qcount q 1 3 1
          else if fwd.loc then pe (localType P)
          else expand k q h bd d fwd flood rule]

/-! ### Admission (R30, R146, R158, R330, R349) -/

/-- Whether the aisles admit a frame in the present mode (R330, R349). -/
def State.admits (s : State) (e : BitVec 16) : Bool :=
  if s.halted then false
  else if s.opMode = modeDrain ∨ (s.epochPending ∧ s.mode.epochMode = some modeDrain) then decide (0 < (s.mode.drainEp - e).toNat ∧ (s.mode.drainEp - e).toNat < 2 ^ 15)
  else [modeOpen, modeLean, modeSealed].contains s.opMode

/-- An aisle stalls its input while one of its requests waits in the switch core (R178, R180, R188). -/
def State.aisleWaits (s : State) (a : Nat) : Bool := s.swc.waits.any fun r => r.aisle == some a && (r.told || r.toldDesc)

/-- AISLE_ADMIT: the oldest frame of a port's receive FIFO goes through parser, searches and resolution to a hewer. -/
def aisleAdmit (a p : Nat) : Act :=
  .look fun s =>
    match (s.port p).fifo, s.freeHewer a with
    | f :: r, some h =>
      when (aisleOf p == a && s.admits f.epoch && !(s.aisle a).fenced && !s.clk.soft.contains (unitAisle a) && (s.aisle a).mc.running &&
          !s.aisleWaits a) (
        let cfg := if f.epoch = s.newEpoch ∨ !s.windowOpen (64 + a) then s.eff .AISLE_PARSE_CFG a else (s.aisle a).parseOld
        acts [lateCheck (64 + a) f, modPort p fun P => { P with fifo := r }, fifoLevel p,
          perfEvent a 1 (some p) 1, when f.lastIn (perfBytes a 2 (some p) f.size 1024),
          resolve a h { f with late := f.late || s.lateFor (64 + a) f } cfg])
    | _, _ => .skip

/-- POLICER_SWEEP (R211): every policer's buckets are brought up to date. -/
def policerSweep (q : Nat) : Act :=
  .look fun s => modQtr q fun Q => { Q with pol := (Q.pol.map fun e => (e.1, polUpdate (s.polE q e.1) e.2 s.nowNs)).filter fun e => e.2 != {} }

def execFrameSfdCapture (p : Fin 512) (pos : Fin 8) (data : List Byte) (sub : Nat) (s : State) := ok (frameSfdCapture p pos data sub) s
def execFrameLastByte (p : Fin 512) (fcsOk : Bool) (s : State) := ok (frameLastByte p fcsOk) s
def execAisleAdmit (a : Fin 16) (p : Fin 512) (s : State) := ok (coreDo (aisleAdmit a p)) s
def execPolicerSweep (q : Fin 4) (s : State) := ok (coreDo (policerSweep q)) s

end Sys2Proof.Machine
end

