-- ==== Sys2Proof/Machine/Sched.lean ====
section
/-!
DEFINITION. Machine/Sched.lean: the start and the end of a frame on a port (R183, R186, R203 to R207, R239), hours lists (R214 to R219),
the QT clearance (R220) and the latency samplers (R221).
-/
namespace Sys2Proof.Machine

/-! ### Residence correction (R239) -/

/-- Sum of the steps of an epoch in the step log (R229). The log is empty at the start of device time (R315): while it holds fewer than
64 epochs, an epoch it does not list is the one of the start, which carries no step. -/
def State.stepOf (s : State) (e : BitVec 16) : Option Int :=
  match s.time.stepLog.find? fun x => x.1 == e with
  | some x => some x.2
  | none => if s.time.stepLog.length < 64 then some 0 else none

/-- delayAsymmetry of a port, 2^-16 ns (R237). -/
def State.asym (s : State) (p : Nat) : Int := toSigned 32 (s.fld F.TIME_PORT_ASYM_ASYM p)

/-- What the correctionField of a copy gains, 2^-16 ns; `tEg` is its egress time. -/
def State.residence (s : State) (f : Frame) (P : Parsed) (p tEg : Nat) : Int :=
  let r := (tEg : Int) - f.tIn
  let r := match s.stepOf f.epoch with | some x => r - (s.stepSum - x) | none => r
  let r := if P.ptpType = 0 ∧ s.bit F.TIME_PORT_CFG_ASYM_TC_EN f.port then r + s.asym f.port else r
  if P.ptpType = 1 ∧ s.bit F.TIME_PORT_CFG_ASYM_TC_EN p then r - s.asym p else r

/-- Whether a plan keeps the UDP checksum that it writes itself: one of its patches covers a bit of the field at `u` of the frame as
received (log 152). -/
def EditPlan.keepsUdp (plan : EditPlan) (u : Nat) : Bool :=
  plan.ops.any fun e => e.op == 0 && 2 ≤ e.base && e.base ≤ 6 && decide (e.off * 8 + e.bit < u * 8 + 16 ∧ u * 8 < e.off * 8 + e.bit + e.len)

/-- The UDP checksum after a change of the correctionField at `o`: 0 over IPv4 unless the plan keeps it, updated incrementally over
IPv6. -/
def udpAfter (plan : EditPlan) (P : Parsed) (old new : List Byte) (o : Nat) : List Byte :=
  match P.l4off.bind fun l4 => plan.place { base := 3, off := l4 + 6 } with
  | none => new
  | some u =>
    if P.isIp4 then (if plan.keepsUdp (P.l4off.getD 0 + 6) then new else patchIn new u [0, 0])
    else
      let inv := (sliceB old o 8).map fun b => ~~~b
      let c := 65535 - onesSum (beBytes 2 (65535 - beAt old u 2) ++ (inv ++ sliceB new o 8))
      patchIn new u (beBytes 2 c)

/-- Octets of a copy as they leave, and whether a correction was made (R239). -/
def State.egressBytes (s : State) (b : Buf) (p tEg : Nat) : List Byte × Bool :=
  let l := b.plan.apply b.frame.data
  match b.plan.cf with
  | none => (l, false)
  | some o =>
    if !s.bit F.TIME_PORT_CFG_TC_EN p || decide (l.length < o + 8) then (l, false)
    else
      let n := patchIn l o (beBytes 8 (ofSigned 64 ((beAt l o 8 : Nat) + s.residence b.frame b.pkt p tEg)))
      (udpAfter b.plan b.pkt l n o, true)

/-! ### Start and end of a frame -/

/-- A PTP event message of the protocol engine leaves: its egress time is kept for TS_READ, and the engine's own routine reads it (R165).
A Sync or Pdelay_Resp is owed its Follow_Up; a Delay_Req or Pdelay_Req waits for its response. -/
def keepTs (p tEg : Nat) (f : Frame) (P : Parsed) (dst : PtpTo) : Act :=
  .look fun s =>
    let d := f.data.drop (P.ptp.getD 0)
    let m := s.markedDir p 1
    acts [modPe fun X => { X with txts := X.txts.filter (fun e => e.1 != p) ++ [(p, (tEg, m))] },
      if P.ptpType = 1 then modPort p fun X => { X with dreq := some (beAt d 30 2, tEg, m, s.newEpoch) }
      else if P.ptpType = 2 then modPort p fun X => { X with pdT1 := some (tEg, m) }
      else acts [modPort p fun X => { X with evTx := X.evTx ++ [(dst, d.take (if P.ptpType = 0 then 44 else 54), tEg)] }, postWork p wtPtpTx 4 0]]

/-- Take the head of a queue. -/
def takeHead (p q : Nat) : Act :=
  modPort p fun P => let Q := tabGet P.queues {} q; { P with queues := tabPut P.queues {} q { Q with d := Q.d.drop 1 } }

/-- Queues of a port whose first frame only the guard test holds back (R216, R445). -/
def State.guardHeld (s : State) (p now : Nat) : Nat :=
  ((List.range 9).filter fun q =>
    match (tabGet (s.port p).queues {} q).d with
    | [] => false
    | d :: _ => s.canSend p && (s.gates p (now / 65536)).getLsbD q && !s.guardOk p q now (s.copyLen d)).length

/-- GATES and CUR_ENTRY follow the list that runs (R215, R223). -/
def syncGates (p : Nat) : Act :=
  .look fun s => acts [setF F.SCH_HL_STATUS_GATES p (s.gates p s.nowNs).toNat,
    setF F.SCH_HL_STATUS_CUR_ENTRY p (match s.hlEntry p s.nowNs with | some e => e.1 | none => 0)]

/-- SCHEDULER_SELECT (R186, R203 to R207, R239): the port's line can begin a new frame. -/
def schedulerSelect (p pos sub : Nat) : Act :=
  .look fun s =>
    when ((s.port p).tx.isNone && s.starts p && !s.clk.soft.contains unitSch) (
      let now := s.stallTime sub
      let r := s.select p now (s.refilled p (s.coreNow sub))
      acts [.upd (.port p r.2), perfEvent pbSch 9 (some p) (s.guardHeld p now),
        match r.1 with
        | none => .skip
        | some (q, mp) =>
          match (tabGet r.2.queues {} q).d with
          | [] => .skip
          | d :: _ =>
            let b := s.buf d.handle
            let age := now - b.frame.tIn
            if b.pkt.isEvent ∧ 10 ^ 6 * 65536 < age then
              acts [takeHead p q, dropCopy p q d, count 0x38 p 2 1, perfEvent pbSwc 12 (some p) 1, raise F.SWC_EVT_CAUSE_AGED (aisleOf p)]
            else if 0 < s.fld F.SWC_PORT_CFG_MAX_AGE_US p ∧ s.fld F.SWC_PORT_CFG_MAX_AGE_US p * 1000 * 65536 < age then
              acts [takeHead p q, dropCopy p q d, count 0x38 p 1 1, perfEvent pbSwc 12 (some p) 1, raise F.SWC_EVT_CAUSE_AGED (aisleOf p)]
            else
              let tEg := now + s.laneDelay (p + pos % (max 1 (s.width p))) false
              let out := s.egressBytes b p tEg
              let len := s.copyLen d
              acts [takeHead p q,
                modPort p fun P => { P.credit q (s.counters p q) (-((len : Int) + s.shapeOvh p)) with
                  actAt := P.seen s.time.words, lastEp := s.newEpoch
                  bwTx := if d.ct && !b.frame.lastIn then P.bwTx else P.bwTx + len + 20
                  tx := some { q := q, desc := d, charged := len, ctrs := s.counters p q, ct := d.ct && !b.frame.lastIn
                               bytes := out.1.take 10236, cut := decide (10236 < out.1.length) } },
                perfEvent pbSch 1 (some p) 1, perfEvent pbSch 2 (some p) ((len : Int) + s.shapeOvh p).toNat,
                when (q == qT) (perfEvent pbSch 3 (some p) 1), when mp (perfEvent pbSch 4 (some p) 1),
                perfBytes pbSwc 4 none b.frame.size 8192, perfEvent pbTime 3 (some p) 1,
                when (s.markedDir p 1) (perfEvent pbTime 5 (some p) 1),
                when out.2 (acts [count 0x51 p 0 1, perfEvent pbTime 4 (some p) 1,
                  when (s.stepOf b.frame.epoch).isNone (acts [count 0x51 p 2 1, raise F.TIME_PORT_EVT_CAUSE_TC_STEP_LOST p]),
                  when (b.frame.mark || s.markedDir p 1) (count 0x51 p 1 1)]),
                when (q == qT && (s.port p).qtPost == some b.frame.fid) (acts [
                  modPort p fun P => { P with qtClosed := false, qtAt := none, qtPost := none }, syncGates p]),
                when (b.byPe && b.pkt.isEvent) (keepTs p tEg b.frame b.pkt b.frame.dst), unitReport 85, unitReport (stallOf p)]])

/-- The frame on a port's line has been sent: counters, the credit of a cut-through frame (R205), and its octets. -/
def txEnd (p : Nat) (t : Tx) : Act :=
  .look fun s =>
    let b := s.buf t.desc.handle
    let data := if b.truncd then t.bytes.take (b.plan.length b.frame.data.length) else t.bytes
    let bad := !b.frame.fcsOk || b.truncd || t.cut
    let n := data.length + 4
    acts [modPort p fun P => { (if t.ct then P.credit t.q t.ctrs ((t.charged : Int) - n) else P) with
        tx := none, lastEp := s.newEpoch, bwTx := if t.ct then P.bwTx + n + 20 else P.bwTx },
      calBoundary p 1,
      (if bad then count 0x11 (2 * p + 1) 2 1 else acts [count 0x11 (2 * p + 1) 0 1, count 0x11 (2 * p + 1) 1 n]),
      when t.cut (count 0x11 (2 * p + 1) 5 1),
      when (s.isUp p) (emit (.frame p data bad)), unitReport 85, unitReport (stallOf p)]

/-- BUFFER_FREE (R183): the free request of a copy. The request of the copy on the port's line ends its transmission. -/
def bufferFree (p q handle : Nat) (gen : BitVec 4) (final : Bool) : Act :=
  .look fun s =>
    match (s.port p).tx with
    | some t =>
      if t.desc.handle = handle ∧ t.desc.gen = gen ∧ t.desc.final = final ∧ t.q = q then
        when (s.buf handle).frame.lastIn (acts [txEnd p t, freeReq p q handle gen final])
      else freeReq p q handle gen final
    | none => freeReq p q handle gen final

/-! ### Hours lists (R214 to R219) -/

/-- Entries of the pending slot (R214). -/
def State.pendSlot (s : State) (p : Nat) : Tab HlEntry := if s.bit F.SCH_HL_STATUS_ACTIVE_SLOT p then (s.port p).hl0 else (s.port p).hl1

/-- BASE as written, ns. -/
def State.hlBaseW (s : State) (p : Nat) : Nat :=
  (s.fld F.SCH_HL_BASE_SH_S_HI p * 2 ^ 32 + s.fld F.SCH_HL_BASE_S_S_LO p) * 10 ^ 9 + s.fld F.SCH_HL_BASE_NS_NS p

/-- The late-start rule: the start taken, and whether the rule was used (R217). Times are in ns, and `now16` is device time in 2^-16 ns. -/
def lateStart (base cycle now16 : Nat) : Nat × Bool :=
  let least := now16 + 2000 * 65536
  if base * 65536 < least then (base + (least - base * 65536 + cycle * 65536 - 1) / (cycle * 65536) * cycle, true) else (base, false)

/-- A base lies more than 2^32 cycles before device time (R217, R219). -/
def baseFar (base cycle now16 : Nat) : Bool := decide (2 ^ 32 * cycle * 65536 < now16 - base * 65536)

/-- The reject code of ARM, if a check fails (R217). -/
def State.armCheck (s : State) (p : Nat) : Option Nat :=
  let cycle := s.fld F.SCH_HL_CYCLE_CYCLE_NS p
  let n := s.fld F.SCH_HL_BASE_SH_COUNT p
  let iv := (List.range n).map fun i => (tabGet (s.pendSlot p) {} i).ns
  if n = 0 ∨ 256 < n ∨ cycle < 1000 ∨ 10 ^ 9 < cycle then some 4
  else if (iv.any fun x => decide (x < 4 ∨ 10 ^ 9 < x)) ∨ iv.sum ≠ cycle then some 4
  else if baseFar (s.hlBaseW p) cycle s.now16 then some 5
  else none

/-- Show the start taken. -/
def showStart (p start : Nat) : Act :=
  acts [setF F.SCH_HL_START_NS_NS p (start % 10 ^ 9), setF F.SCH_HL_START_S_S_LO p (start / 10 ^ 9 % 2 ^ 32),
    setF F.SCH_HL_START_SH_S_HI p (start / 10 ^ 9 / 2 ^ 32)]

/-- LATE_START and its event. -/
def lateFlag (p : Nat) : Act := acts [setB F.SCH_HL_STATUS_LATE_START p true, raise F.SCH_EVT_CAUSE_LATE_START (aisleOf p)]

/-- HL_ARM (R217, R218). -/
def hlArm (req : Req) (p : Nat) (value : Word) : Act :=
  onWrite req .SCH_HL_CTL p fun rq =>
    when (value.getLsbD 0) (.look fun s => when (s.starts p) (
      if s.bit F.SCH_HL_STATUS_ARMED p then reject3 .sch rq .SCH_HL_CTL p
      else
        match s.armCheck p with
        | some c => reject .sch rq (regAddr .SCH_HL_CTL p) c 0
        | none =>
          let cycle := s.fld F.SCH_HL_CYCLE_CYCLE_NS p
          let st := lateStart (s.hlBaseW p) cycle s.now16
          acts [setB F.SCH_HL_STATUS_ARMED p true, setB F.SCH_HL_STATUS_LATE_START p st.2,
            when st.2 (lateFlag p), showStart p st.1,
            modPort p fun P => { P with armCycle := cycle, armCount := s.fld F.SCH_HL_BASE_SH_COUNT p, armStart := st.1 }]))

/-- HL_CANCEL (R218). -/
def hlCancel (req : Req) (p : Nat) (value : Word) : Act :=
  onWrite req .SCH_HL_CTL p fun rq =>
    when (value.getLsbD 1) (.look fun s => when (s.starts p) (
      if s.bit F.SCH_HL_STATUS_ARMED p then setB F.SCH_HL_STATUS_ARMED p false else reject3 .sch rq .SCH_HL_CTL p))

/-- HL_STOP (R218). -/
def hlStop (req : Req) (p : Nat) (value : Word) : Act :=
  onWrite req .SCH_HL_CTL p fun rq =>
    when (value.getLsbD 2) (.look fun s => when (s.starts p) (
      if s.bit F.SCH_HL_STATUS_RUNNING p then acts [setB F.SCH_HL_STATUS_RUNNING p false, syncGates p] else reject3 .sch rq .SCH_HL_CTL p))

/-- HL_SWITCH (R218): device time reaches the start of the armed list. -/
def hlSwitch (p : Nat) : Act :=
  .look fun s =>
    when (s.starts p && s.bit F.SCH_HL_STATUS_ARMED p && decide ((s.port p).armStart ≤ s.nowNs)) (acts [
      setB F.SCH_HL_STATUS_ACTIVE_SLOT p (!s.bit F.SCH_HL_STATUS_ACTIVE_SLOT p),
      setB F.SCH_HL_STATUS_RUNNING p true, setB F.SCH_HL_STATUS_ARMED p false,
      modPort p fun P => { P with hlCycle := P.armCycle, hlCount := P.armCount, hlBase := P.armStart },
      perfEvent pbSch 7 (some p) 1, raise F.SCH_EVT_CAUSE_HL_SWITCH (aisleOf p), syncGates p])

/-- GATE_EDGE (R215): an edge of the running list acts. -/
def gateEdge (p : Nat) : Act := .look fun s => when (s.starts p) (syncGates p)

/-- The hours lists after a step of device time (R219); `s` of the inner look is the state after the step. -/
def hlStep : Act :=
  .look fun s =>
    each ((s.ports.map (·.1)).filter s.starts) fun p =>
      .look fun s =>
        let P := s.port p
        acts [when (s.bit F.SCH_HL_STATUS_ARMED p) (
            if baseFar P.armStart P.armCycle s.now16 then
              acts [setB F.SCH_HL_STATUS_ARMED p false, setF F.SCH_STATUS_REJECT 0 5, raise F.SCH_EVT_CAUSE_REJECTED 0]
            else if (lateStart P.armStart P.armCycle s.now16).2 then
              let st := lateStart P.armStart P.armCycle s.now16
              acts [modPort p fun P => { P with armStart := st.1 }, showStart p st.1, lateFlag p]
            else .skip),
          when (s.bit F.SCH_HL_STATUS_RUNNING p) (syncGates p)]

/-! ### QT clearance and samplers (R220, R221) -/

/-- QT_CLEAR_CLOSE: a PTP transmission is due, and no more than the lead is left before the port's next visit. -/
def qtClearClose (p : Nat) : Act :=
  .look fun s =>
    when (s.starts p && s.bit F.SCH_PORT_CFG_QT_CLEAR_EN p && s.ptpDue p && !(s.port p).qtClosed &&
        (!s.time.running || decide (s.visitNs p ≤ s.fld F.SCH_PORT_CFG_QT_LEAD_NS p)))
      (acts [modPort p fun P => { P with qtClosed := true, qtAt := none, qtPost := none }, perfEvent pbSch 8 (some p) 1, syncGates p])

/-- The QT frame that the engine posted for a port in the visit has not begun. -/
def State.qtWaits (s : State) (p : Nat) : Bool :=
  match (s.port p).qtPost with
  | none => false
  | some fid => ((tabGet (s.port p).queues {} qT).d.any fun d => (s.buf d.handle).frame.fid == fid) || s.pkts.any fun k => k.frame.fid == fid

/-- QT_CLEAR_REOPEN: 640 ns after the visit started, where no QT frame was posted in it. -/
def qtClearReopen (p : Nat) : Act :=
  .look fun s =>
    when ((s.port p).qtClosed && !s.qtWaits p &&
        (match (s.port p).qtAt with | some w => s.aged w 640 | none => false))
      (acts [modPort p fun P => { P with qtClosed := false, qtAt := none, qtPost := none }, syncGates p])

def cnt32 (n : Nat) : Nat := min n 0xFFFFFFFF

/-- Histogram bin of a sojourn for the unit `u`. -/
def sojBin (u x : Nat) : Nat := ((List.range 15).find? fun b => decide (x < u * 2 ^ b)).getD 15

/-- A sampler after a sample. -/
def Sampler.add (a : Sampler) (depth soj u : Nat) : Sampler :=
  let b := sojBin u soj
  let first := a.count == 0
  { a with
    dLast := depth, dMin := if first then depth else min a.dMin depth, dMax := if first then depth else max a.dMax depth
    sLast := soj, sMin := if first then soj else min a.sMin soj, sMax := if first then soj else max a.sMax soj
    count := cnt32 (a.count + 1), hist := tabPut a.hist 0 b (cnt32 (tabGet a.hist 0 b + 1)) }

/-- The sample instant that fell within the last time word, in ns: a device time whose nanoseconds field is a multiple of SAMP_US µs (R221). -/
def State.sampInstant (s : State) (p : Nat) : Option Nat :=
  let r := s.nowNs % 10 ^ 9 % (s.fld F.SCH_SAMP_CFG_SAMP_US p * 1000)
  if s.time.running && decide (r * 2 ^ 48 + s.time.acc % 2 ^ 48 < 64 * s.time.inc) then some (s.nowNs - r) else none

/-- LATENCY_SAMPLE (R221): every queue of the port takes a sample, once at each instant. -/
def latencySample (p : Nat) : Act :=
  .look fun s =>
    match s.sampInstant p with
    | none => .skip
    | some t =>
      when (s.starts p && decide ((s.port p).sampT ≠ some t)) (acts [modPort p fun P => { P with sampT := some t },
        each (List.range 9) fun q =>
          let soj := match (tabGet (s.port p).queues {} q).d with
            | [] => 0
            | d :: _ => (t * 65536 - (s.buf d.handle).frame.tIn) / 65536
          acts [modPort p fun P =>
              let Q := tabGet P.queues {} q
              { P with queues := tabPut P.queues {} q { Q with samp := Q.samp.add (s.depth p q) soj (s.fld F.SCH_SAMP_CFG_BIN_NS p) } },
            when (decide (0 < s.fld F.SCH_SAMP_CTL_SOJ_HIGH_US p ∧ s.fld F.SCH_SAMP_CTL_SOJ_HIGH_US p * 1000 < soj))
              (raise F.SCH_EVT_CAUSE_SOJOURN_HIGH (aisleOf p))]])

/-- SAMPLER_CLEAR (R221): a write of SCH_SAMP_CTL, whose threshold is stored and whose CLEAR bits restart samplers. -/
def samplerClear (req : Req) (p : Nat) (value : Word) : Act :=
  onWrite req .SCH_SAMP_CTL p fun rq =>
    .look fun s => acts [writeFields rq .SCH_SAMP_CTL p value,
      when (s.starts p) (each ((List.range 9).filter fun q => value.getLsbD q) fun q =>
        modPort p fun P =>
          let Q := tabGet P.queues {} q
          { P with queues := tabPut P.queues {} q { Q with samp := { dLast := Q.samp.dLast, sLast := Q.samp.sLast } } })]

def execSchedulerSelect (p : Fin 512) (pos : Fin 8) (sub : Nat) (s : State) := ok (coreDo (schedulerSelect p pos sub)) s
def execBufferFree (p : Fin 512) (q : Fin 10) (handle : Nat) (gen : BitVec 4) (final : Bool) (s : State) := ok (coreDo (bufferFree p q handle gen final)) s
def execHlArm (req : Req) (p : Fin 512) (value : Word) (s : State) := ok (hlArm req p value) s
def execHlCancel (req : Req) (p : Fin 512) (value : Word) (s : State) := ok (hlCancel req p value) s
def execHlStop (req : Req) (p : Fin 512) (value : Word) (s : State) := ok (hlStop req p value) s
def execHlSwitch (p : Fin 512) (s : State) := ok (coreDo (hlSwitch p)) s
def execGateEdge (p : Fin 512) (s : State) := ok (coreDo (gateEdge p)) s
def execQtClearClose (p : Fin 512) (s : State) := ok (coreDo (qtClearClose p)) s
def execQtClearReopen (p : Fin 512) (s : State) := ok (coreDo (qtClearReopen p)) s
def execLatencySample (p : Fin 512) (s : State) := ok (coreDo (latencySample p)) s
def execSamplerClear (req : Req) (p : Fin 512) (value : Word) (s : State) := ok (samplerClear req p value) s

end Sys2Proof.Machine
end

