-- ==== Sys2Proof/Machine/TimeSvc.lean ====
section
/-!
DEFINITION. Machine/TimeSvc.lean: the time service (R246 to R272): BMCA outcome, servo, steps of device time, DPLL, PPS and
ToD, and tallies.
-/
namespace Sys2Proof.Machine

/-! ### Codes and views -/

/-- Servo states (R254). -/
def svFreerun : Nat := 0
def svAcquiring : Nat := 1
def svLocked : Nat := 2
def svHoldover : Nat := 3
def svHoldoverLong : Nat := 4

def State.servo (s : State) : Nat := s.fld F.TIME_SERVO_STATUS_STATE 0

/-- The servo runs: Zolliwin runs and the servo is not suspended with it (R255). -/
def State.servoOn (s : State) : Bool := s.zolOn && !s.time.srvSusp

/-- The time source the option block sets: 0 none, 1 PTP, 2 PPS_IN with ToD (R259, R317). -/
def State.timeRef (s : State) : Nat := s.clk.opts.timeRef

def State.ptpPort (s : State) (p : Nat) : Nat := s.fld F.TIME_PORT_PTP_STATUS_PORT_STATE p

/-- 2^-16 ns in a second, and 80 ns time words in 60 s and in 1 s. -/
def secUnits : Nat := 65536000000000
def words60 : Nat := 750000000
def words1 : Nat := 12500000

/-- The parent port is in SLAVE. -/
def State.parentSlave (s : State) : Bool :=
  match s.time.parent with
  | none => false
  | some p => s.ptpPort p == 9

/-- A source is present (R254). -/
def State.srcPresent (s : State) : Bool :=
  !s.time.lost && (if s.timeRef = 1 then s.parentSlave else decide (s.timeRef = 2))

/-- FORCE is 0, or 3 which is taken as 0 (R268). -/
def State.forceOff (s : State) : Bool := [0, 3].contains (s.fld F.TIME_SERVO_CTL_FORCE 0)

/-- SOURCE of TIME_SERVO_STATUS: the source present. -/
def syncSource : Act := .look fun s => setF F.TIME_SERVO_STATUS_SOURCE 0 (if s.srcPresent then s.timeRef else 0)

/-- The clockClass the device announces (R256); while Zolliwin is held, the class of HOLDOVER (R255). -/
def State.annClass (s : State) : Nat :=
  let c := fun st : Nat =>
    if st = svFreerun ∨ s.fld F.TIME_PTP_CFG_PROFILE 0 % 3 = 0 then 248 else if st = svHoldoverLong then 165 else 135
  if s.time.srvSusp then c svHoldover
  else if s.servo = svLocked then s.time.gmClass
  else if s.servo = svAcquiring then c s.time.acqFrom
  else c s.servo

/-- grandmasterIdentity: the parent's, or the device's own clockIdentity where it has none (R256). -/
def State.gmId (s : State) : Nat := if s.time.parent.isNone then Config.clockIdentity else s.time.gm

/-! ### INC and holdover history (R251, R254) -/

def incNominal : Nat := 351843720888320

/-- 100 ppm of the nominal INC. -/
def incSpan : Nat := 35184372088

/-- A tally is due at the next whole second (R264). -/
def tallyDue : Act := .look fun s => modTime fun t => { t with tallyReq := some (s.nowNs / 10 ^ 9 + 1) }

/-- A step that waits is given up; where it was not made, the entry to ACQUIRING may still make one (R252). -/
def stepDrop : Act := modTime fun t => { t with stepWait := none, stepDone := t.stepDone && t.stepWait.isNone }

/-- Spans of LOCKED cut to the last 60 s. -/
def trimSpans (left : Nat) (l : List (Nat × Nat)) : List (Nat × Nat) :=
  match l with
  | [] => []
  | x :: r => if left = 0 then [] else if left ≤ x.1 then [(left, x.2)] else x :: trimSpans (left - x.1) r

/-- The present span joins the history. -/
def closeSpan : Act :=
  .look fun s =>
    modTime fun t => { t with segs := trimSpans words60 ((s.time.words - t.segAt, t.inc) :: t.segs), segAt := s.time.words }

/-- Mean INC of the spans; the INC in force where there are none. -/
def TimeS.meanInc (t : TimeS) : Nat :=
  let d := t.segs.foldl (fun a x => a + x.1) 0
  if d = 0 then t.inc else t.segs.foldl (fun a x => a + x.1 * x.2) 0 / d

/-- Holdover history exists (R254). -/
def State.histExists (s : State) : Bool :=
  s.time.histOk || (s.servo == svLocked && decide (words60 ≤ s.time.words - s.time.lockedAt))

/-- INC takes a value. -/
def setInc (v : Nat) : Act :=
  .look fun s => acts [when (s.servo == svLocked) closeSpan, modTime fun t => { t with inc := v }]

/-- The PI loop drives INC; its gains are not stated, so the new INC is any value within 100 ppm of nominal (R251). -/
def driveInc : Act := draw fun k => setInc (incNominal - incSpan + k % (2 * incSpan + 1))

/-! ### Servo transitions (R254) -/

/-- The servo changes state; a change to its own state is none. -/
def servoTo (n : Nat) : Act :=
  .look fun s =>
    let c := s.servo
    when (c != n) (acts [
      when (c == svLocked) (acts [closeSpan, modTime fun t => { t with histOk := s.histExists }]),
      when (c == svFreerun) (modTime fun t =>
        { t with freeAt := s.nowNs / 1000000, smpN := 0, smpBad := 0, smpMark := false, smpSum := 0, smpMax := 0, stepFlag := false }),
      setF F.TIME_SERVO_STATUS_STATE 0 n,
      modTime fun t => { t with stepWait := none },
      when (n == svAcquiring) (modTime fun t => { t with acqFrom := c, stepDone := false, lockRun := 0 }),
      when (n == svLocked) (modTime fun t => { t with lockedAt := s.time.words, segAt := s.time.words, badRun := 0 }),
      when (n == svHoldover) (modTime fun t =>
        { t with inc := t.meanInc, hoAt := if c = svHoldoverLong then t.hoAt else s.time.words, hoLimAt := s.time.words }),
      raise F.TIME_SVC_EVT_CAUSE_SERVO_STATE 0, tallyDue])

/-- A source becomes present (R254). -/
def srcArrive : Act :=
  .look fun s =>
    acts [modTime fun t => { t with lost := false },
      when (s.servoOn && s.forceOff && [svFreerun, svHoldover, svHoldoverLong].contains s.servo) (servoTo svAcquiring),
      syncSource]

/-- The source is lost (R254). -/
def srcLose : Act :=
  .look fun s =>
    acts [modTime fun t => { t with lost := true },
      when s.servoOn (
        if s.servo = svLocked then servoTo svHoldover
        else when (s.servo == svAcquiring) (servoTo (if s.histExists then svHoldover else svFreerun))),
      syncSource]

/-- Zolliwin is held: the servo is suspended, and a step it waits to make is given up (R255). -/
def servoSuspend : Act := acts [stepDrop, modTime fun t => { t with srvSusp := true }]

/-- Zolliwin runs again: the servo resumes, and BMCA starts anew (R255). -/
def servoResume : Act :=
  .look fun s =>
    when s.time.srvSusp (acts [
      servoTo (if s.servo = svLocked ∨ s.servo = svHoldover ∨ (s.servo = svAcquiring ∧ s.histExists) then svHoldover else svFreerun),
      modTime fun t => { t with srvSusp := false, parent := none, lost := true, smpQ := [] },
      each (s.ports.map (·.1)) (fun p => modPort p fun P => { P with foreign := [] }), syncSource])

/-! ### Samples (R251 to R253) -/

/-- A sample that the servo discards. -/
def smpDiscard (mark : Bool) : Act := modTime fun t => { t with smpBad := t.smpBad + 1, smpMark := t.smpMark || mark }

/-- Whether an epoch is older than that of the last step. -/
def State.beforeStep (s : State) (e : BitVec 16) : Bool :=
  match s.time.stepEp with
  | none => false
  | some x => decide (0 < (x - e).toNat ∧ (x - e).toNat < 0x8000)

/-- mean_delay (R251). -/
def TimeS.meanDelay (t : TimeS) : Int := if t.delays.isEmpty then 0 else t.delays.foldl (· + ·) 0 / (t.delays.length : Int)

/-- A valid offset in ACQUIRING or LOCKED (R251, R252, R254). -/
def servoOffset (off : Int) : Act :=
  .look fun s =>
    let m := off.natAbs
    let far : Bool := decide (s.fld F.TIME_SERVO_CFG_STEP_NS 0 * 65536 < m)
    let near : Bool := decide (m ≤ s.fld F.TIME_SERVO_CFG2_LOCK_NS 0 * 65536)
    let stat := modTime fun t => { t with smpN := t.smpN + 1, smpSum := t.smpSum + off, smpMax := max t.smpMax m }
    if s.servo = svAcquiring then
      acts [stat,
        if far && s.bit F.TIME_SERVO_CFG_STEP_EN 0 && !s.time.stepDone then
          modTime fun t => { t with stepWait := some (-off), stepDone := true, lockRun := 0 }
        else acts [driveInc, modTime fun t => { t with lockRun := if near then t.lockRun + 1 else 0, stepDone := t.stepDone || far },
          .look fun s => when (decide (16 ≤ s.time.lockRun)) (servoTo svLocked)]]
    else when (s.servo == svLocked) (acts [stat, driveInc,
      modTime fun t => { t with badRun := if far then t.badRun + 1 else 0 },
      .look fun s => when (decide (16 ≤ s.time.badRun)) (servoTo svAcquiring)])

/-- A valid sample arrives (R254). -/
def sampleSeen : Act := .look fun s => acts [modTime fun t => { t with smpAt := s.time.words }, srcArrive]

/-- A sample of the parent port (R237, R251). -/
def sampleTake (up : Bool) (x : Sample) : Act :=
  .look fun s =>
    match x with
    | .sync t1 t2 cs asym mark ep =>
      if mark || s.beforeStep ep then smpDiscard mark
      else
        acts [modTime fun t => { t with lastSync := some (t1, t2, cs, ep) },
          if s.time.delays.isEmpty then smpDiscard false
          else acts [sampleSeen, servoOffset ((t2 : Int) - t1 - cs - s.time.meanDelay - asym)]]
    | .delay t3 t4 cd mark ep =>
      match s.time.lastSync with
      | none => smpDiscard mark
      | some (t1, t2, cs, e2) =>
        let twice := ((t2 : Int) - t1 - cs) + ((t4 : Int) - t3 - cd)
        if mark || s.beforeStep ep || s.beforeStep e2 || decide (twice < 0) then smpDiscard mark
        else acts [modTime fun t => { t with delays := (halfOf up twice :: t.delays).take 16 }, sampleSeen]

/-- SERVO_SAMPLE (R251): the servo takes the oldest sample that the messages of the parent port have formed. The half of an odd sum is
rounded up or down (log 49). -/
def servoSample (up : Bool) : Act :=
  .look fun s =>
    match s.time.smpQ with
    | [] => .skip
    | x :: r =>
      when s.servoOn (acts [modTime fun t => { t with smpQ := r },
        match s.time.parent with
        | none => .skip
        | some _ => when (decide (s.timeRef = 1) && s.parentSlave) (sampleTake up x)])

/-- TIME_STEP (R229, R252): the step asked for in ACQUIRING is made through an epoch of its own; it waits while an epoch is incomplete. The next
snapshot is due at a multiple of its period in the new time (R448). -/
def timeStep : Act :=
  .look fun s =>
    match s.time.stepWait with
    | none => .skip
    | some d =>
      when (!s.epochPending && s.time.running && s.servoOn && s.servo == svAcquiring) (acts [
        modTime fun t => { t with
          acc := (((t.acc : Int) + d * 2 ^ 32) % (accMod : Int)).toNat, stepWait := none, stepFlag := true
          stepEp := some (s.newEpoch + 1) },
        tallyDue, .look fun s => modClk fun c => { c with snapAt := s.nowNs },
        requestEpoch none 0 d, hlStep, raise F.TIME_SVC_EVT_CAUSE_STEP 0])

/-- Profile and domain of the instance (R247). -/
def State.ptpProfile (s : State) : Nat := s.fld F.TIME_PTP_CFG_PROFILE 0 % 3
def State.ptpDomain (s : State) : Nat := s.fld F.TIME_PTP_CFG_DOMAIN 0

/-- Binary logarithm of the messages a second of Sync, Delay_Req and Announce on a port, clipped to the profile's range. -/
def State.syncLog (s : State) (p : Nat) : Nat := if s.ptpProfile = 1 then 4 else min 7 (s.fld F.TIME_PORT_PTP_SYNC_RATE p)
def State.dreqLog (s : State) (p : Nat) : Nat := if s.ptpProfile = 1 then 4 else min 7 (s.fld F.TIME_PORT_PTP_DREQ_RATE p)
def State.annLog (s : State) (p : Nat) : Nat := if s.ptpProfile = 1 then 3 else min 3 (s.fld F.TIME_PORT_PTP_ANN_RATE p)

/-- Nanoseconds of 4 Sync intervals of a port at its rate, and at least 2 s (R254). -/
def State.lossNs (s : State) (p : Nat) : Nat := max (2 * 10 ^ 9) (4 * 10 ^ 9 / 2 ^ s.syncLog p)

/-- Whether the time without a sample, or without an edge, has passed (R254, R263). -/
def State.sourceLate (s : State) : Bool :=
  if s.timeRef = 1 then (match s.time.parent with | some p => s.aged s.time.smpAt (s.lossNs p) | none => true)
  else s.aged s.time.ppsAt (3 * 10 ^ 9)

/-- SOURCE_LOST (R254): the time without a sample has passed. -/
def sourceLost : Act := .look fun s => when s.sourceLate srcLose

/-- HOLDOVER_LIMIT_EXPIRE (R254): HO_LIMIT_S seconds in HOLDOVER. -/
def holdoverLimitExpire : Act :=
  .look fun s =>
    when (s.servoOn && s.servo == svHoldover && s.aged s.time.hoLimAt (s.fld F.TIME_SERVO_CFG2_HO_LIMIT_S 0 * 10 ^ 9)) (servoTo svHoldoverLong)

/-! ### FORCE (R254, R268) -/

/-- A write of TIME_SERVO_CTL with one of the codes of a row. -/
def onForce (req : Req) (value : Word) (codes : List Nat) (k : Req → State → Act) : Act :=
  onWrite req .TIME_SERVO_CTL 0 fun rq => when (codes.contains (bits value 0 2)) (.look (k rq))

/-- FORCE_NONE. -/
def forceNone (req : Req) (value : Word) : Act :=
  onForce req value [0, 3] fun rq s =>
    acts [writeFields rq .TIME_SERVO_CTL 0 value,
      when (s.servoOn && s.srcPresent && [svFreerun, svHoldover, svHoldoverLong].contains s.servo) (servoTo svAcquiring)]

/-- FORCE_HOLDOVER. -/
def forceHoldover (req : Req) (value : Word) : Act :=
  onForce req value [1] fun rq s =>
    if s.histExists then acts [writeFields rq .TIME_SERVO_CTL 0 value, when s.servoOn (servoTo svHoldover)]
    else reject3 .timeSvc rq .TIME_SERVO_CTL 0

/-- FORCE_FREERUN. -/
def forceFreerun (req : Req) (value : Word) : Act :=
  onForce req value [2] fun rq s =>
    acts [writeFields rq .TIME_SERVO_CTL 0 value, when s.servoOn (acts [servoTo svFreerun, setInc incNominal])]

/-! ### BMCA (R249, R250) -/

/-- The state a port takes of the one BMCA gives it (R248, R249). -/
def State.bmcaState (s : State) (p code : Nat) : Nat :=
  let master := s.fld F.TIME_PORT_PTP_ROLE p == 2
  if !s.isUp p then 2
  else if master && decide (7 ≤ code) then s.ptpPort p
  else if code = 9 ∧ (s.port p).calOk = false then 8
  else code

/-- The parent goes: the device is its own grandmaster (R250, R256). -/
def parentGone : Act :=
  .look fun s =>
    when s.time.parent.isSome (acts [
      modTime fun t => { t with
        parent := none, delays := [], lastSync := none, smpQ := [], stepWait := none
        stepDone := t.stepDone && t.stepWait.isNone, gm := Config.clockIdentity, gmClass := 248, gmP1 := 128, gmP2 := 128, gmSrc := 0xA0
        parentId := 0, stepsRm := 0 },
      tallyDue,
      setF F.TIME_SERVO_STATUS_PORT 0 0, setF F.TIME_SERVO_STATUS_STEPS_REMOVED 0 0, when (s.timeRef == 1) srcLose,
      raise F.TIME_SVC_EVT_CAUSE_GM_CHANGE 0])

/-- A port becomes the parent with the data sets of its foreign master record (R250). `was`: a parent port was in SLAVE before. -/
def parentTake (p : Nat) (r : Foreign) (was : Bool) : Act :=
  .look fun s =>
    let newPort : Bool := decide (s.time.parent ≠ some p)
    let newGm : Bool := s.time.parent.isNone || decide (s.time.gm ≠ r.gm)
    acts [modTime fun t => { t with
        parent := some p, gm := r.gm, gmClass := r.quality / 2 ^ 40, gmAcc := r.quality / 2 ^ 32 % 256, gmVar := r.quality / 2 ^ 16 % 65536
        gmP1 := r.quality / 2 ^ 8 % 256, gmP2 := r.quality % 256, gmSrc := r.src, parentId := r.portId, stepsRm := r.steps + 1
        utc := r.utc, tflags := r.flags },
      when newGm tallyDue, when (newPort || newGm) stepDrop,
      when newPort (acts [modTime fun t => { t with delays := [], lastSync := none, smpQ := [] },
        modPort p fun P => { P with syncIn := none, dreq := none }]),
      setF F.TIME_SERVO_STATUS_PORT 0 p, setF F.TIME_SERVO_STATUS_STEPS_REMOVED 0 (r.steps + 1),
      when newGm (acts [raise F.TIME_SVC_EVT_CAUSE_GM_CHANGE 0,
        .look fun s => when (s.servo == svLocked && s.timeRef == 1) (servoTo svAcquiring)]),
      .look fun s => when (s.timeRef == 1 && s.parentSlave && (newPort || !was || !s.time.lost)) sampleSeen]

/-- Whether no record of another grandmaster, on a BC port that is UP, is better than `r` (R249). -/
def State.bestMaster (s : State) (r : Foreign) : Bool :=
  s.ports.all fun e => !(s.isUp e.1 && s.fld F.TIME_PORT_PTP_ROLE e.1 == 1) || e.2.foreign.all fun x =>
    x.gm == r.gm || !Config.betterMaster s.ptpProfile (x.gm, x.quality) (r.gm, r.quality)

/-- The parent port and its record that a BMCA outcome stands for: a BC port that is UP and a best record of it (R249); none otherwise. -/
def State.bmcaPick (s : State) (b : Bmca) : Option (Nat × Foreign) :=
  match b.parent with
  | none => none
  | some p =>
    match (s.port p).foreign.find? fun r => r.portId == b.parentId with
    | none => none
    | some r => if (s.fld F.TIME_PORT_PTP_ROLE p == 1 && s.isUp p && s.bestMaster r) = true then some ((p : Nat), r) else none

/-- BMCA_RUN (R249, R250): Zolliwin applies what the BMCA decides over the foreign master records. The data sets are those of the record
that wins; no port but the parent becomes SLAVE (log 51). -/
def bmcaRun (b : Bmca) : Act :=
  .look fun s =>
    let w := s.bmcaPick b
    when s.servoOn (acts [
      each (b.states.filter fun x => decide (x.1 < 512 ∧ 4 ≤ x.2 ∧ x.2 ≤ 9) && (decide (x.2 < 8) || w.map (·.1) == some x.1)) (fun x =>
        .look fun s => when (s.link x.1 == linkUp) (ptpState x.1 (s.bmcaState x.1 x.2))),
      match w with
      | none => parentGone
      | some (p, r) => parentTake p r s.parentSlave,
      syncSource])

/-- Nanoseconds of announceReceiptTimeout of a port (R249, R268): ANN_TO Announce intervals at the port's rate, which is clipped
to the profile's. -/
def State.annToNs (s : State) (p : Nat) : Nat := s.fld F.TIME_PTP_CFG_ANN_TO 0 * 10 ^ 9 / 2 ^ s.annLog p

/-- ANNOUNCE_RECEIPT_TIMEOUT (R249): the records of the port whose time has passed go. The BMCA that the rule lets follow is the next
BMCA_RUN (log 153). -/
def announceReceiptTimeout (p : Nat) : Act :=
  .look fun s =>
    when s.servoOn (modPort p fun P => { P with
      foreign := P.foreign.filter fun r => !s.aged r.at_ (s.annToNs p) })

/-- Whether the first record is better than the second under the dataset comparison (R249). -/
def Foreign.better (prof : Nat) (x y : Foreign) : Bool := Config.betterMaster prof (x.gm, x.quality) (y.gm, y.quality)

/-- The worst of some records, each with its port, by the dataset comparison. -/
def worstOf (prof : Nat) (l : List (Nat × Foreign)) : Option (Nat × Foreign) :=
  match l with
  | [] => none
  | x :: r => some (r.foldl (fun w y => if w.2.better prof y.2 then y else w) x)

/-- An Announce received on a port updates the foreign master table (R249): 4 records per port, 256 in all. Where it is full, the worst
record of the port or of the device is replaced by a better newcomer; another one is ignored and counted. -/
def announceRecord (p : Nat) (r : Foreign) : Act :=
  .look fun s =>
    let l := (s.port p).foreign
    let add := modPort p fun P => { P with foreign := P.foreign ++ [r] }
    let replace := fun w : Option (Nat × Foreign) =>
      match w with
      | none => Act.skip
      | some w =>
        if r.better s.ptpProfile w.2 then acts [modPort w.1 fun P => { P with foreign := P.foreign.filter fun y => decide (y ≠ w.2) }, add]
        else modTime fun t => { t with annIgn := t.annIgn + 1 }
    if l.any fun x => x.portId == r.portId then modPort p fun P => { P with foreign := P.foreign.map fun x => if x.portId = r.portId then r else x }
    else if 4 ≤ l.length then replace (worstOf s.ptpProfile (l.map (p, ·)))
    else if 256 ≤ (s.ports.map fun e => e.2.foreign.length).sum then
      replace (worstOf s.ptpProfile (s.ports.map fun e => e.2.foreign.map (e.1, ·)).flatten)
    else add

/-! ### DPLL and SyncE (R257 to R260) -/

/-- DPLL states (R259). -/
def dpFreerun : Nat := 0
def dpLocking : Nat := 1
def dpLocked : Nat := 2
def dpHoldover : Nat := 3

def State.dpll (s : State) : Nat := s.fld F.TIME_DPLL_STATUS_STATE 0
def State.dpllSel (s : State) : Nat := s.fld F.TIME_DPLL_STATUS_SELECTED 0

/-- QL of an input (R258). -/
def State.qlOf (s : State) (i : Nat) : Nat :=
  if i = 1 then s.fld F.TIME_DPLL_QL_QL_TIMEREF 0
  else if i = 2 then s.fld F.TIME_DPLL_QL_QL_PPS 0
  else s.fld F.TIME_PORT_PTP_STATUS_QL_RX (s.recPort i)

def qlDnu : Nat := 0xF

/-- Rank of a QL, best first, in the order of G.781 (log 27). -/
def qlRank (opt ql : Nat) : Nat :=
  let l := if opt = 0 then [2, 4, 8, 0xB] else [1, 0, 7, 4, 0xD, 0xA, 0xC, 0xE]
  l.findIdx (· == ql)

/-- PRIO of an input. -/
def State.dpllPrio (s : State) (i : Nat) : Nat := nbits (s.fld F.TIME_DPLL_CFG_PRIO 0) (4 * (i - 1)) 4

/-- The input R258 selects; 0 none. -/
def State.dpllChoice (s : State) : Nat :=
  let f := s.fld F.TIME_DPLL_CFG_FORCE_REF 0
  let qlen := s.bit F.TIME_DPLL_CFG_QL_EN 0
  let opt := s.fld F.TIME_DPLL_QL_QL_OPT 0
  let key := fun i : Nat => (if qlen then qlRank opt (s.qlOf i) else 0) * 256 + s.dpllPrio i * 8 + i
  if s.bit F.CLK_STATUS_CLK_BACKUP 0 then 0
  else if f = 5 then 0
  else if 1 ≤ f ∧ f ≤ 4 then f
  else
    let c := [1, 2, 3, 4].filter fun i =>
      (s.fld F.TIME_DPLL_STATUS_QUAL 0).testBit (i - 1) && decide (s.dpllPrio i ≠ 0) && !(qlen && s.qlOf i == qlDnu)
    match c with
    | [] => 0
    | x :: r => r.foldl (fun a b => if key b < key a then b else a) x

/-- QL transmitted (R260). -/
def State.qlTx (s : State) : Nat :=
  if (s.dpll = dpLocking ∨ s.dpll = dpLocked) ∧ s.dpllSel ≠ 0 then s.qlOf s.dpllSel else s.fld F.TIME_DPLL_QL_QL_OWN 0

/-- An ESMC event PDU is due on a port (R260). -/
def esmcEvent (p : Nat) : Act :=
  .look fun s => when (s.bit F.TIME_PORT_PTP_ESMC_EN p && s.isUp p) (postWork p wtEsmcTx 1 0)

/-- QL_SEL shows the QL transmitted (R260); an event PDU is due on every ESMC port when it changes. -/
def syncQl : Act :=
  .look fun s =>
    when (decide (s.qlTx ≠ s.fld F.TIME_DPLL_STATUS_QL_SEL 0))
      (acts [setF F.TIME_DPLL_STATUS_QL_SEL 0 s.qlTx, each s.allPorts esmcEvent])

/-- Port whose lane is the selected REC input: it transmits DNU (R260). -/
def State.dnuPort (s : State) : Option Nat := if 3 ≤ s.dpllSel then some (s.recPort s.dpllSel) else none

/-- The selection changes: REF_SWITCH, and an event PDU on the ports whose own QL turns to or from DNU (R258, R260). -/
def setSel (n : Nat) : Act :=
  .look fun s =>
    when (n != s.dpllSel) (acts [each s.dnuPort.toList esmcEvent, setF F.TIME_DPLL_STATUS_SELECTED 0 n,
      raise F.TIME_SVC_EVT_CAUSE_REF_SWITCH 0, .look fun s => each s.dnuPort.toList esmcEvent])

/-- Holdover history of the DPLL (R259). -/
def State.dpllHist (s : State) : Bool :=
  s.time.dpllHist || (s.dpll == dpLocked && decide (words60 ≤ s.time.words - s.time.dpllAt))

/-- The DPLL changes state (R259). -/
def dpllTo (n : Nat) : Act :=
  .look fun s =>
    acts [when (s.dpll != n) (acts [
        modTime fun t => { t with dpllHist := s.dpllHist, dpllAt := s.time.words },
        setF F.TIME_DPLL_STATUS_STATE 0 n, raise F.TIME_SVC_EVT_CAUSE_DPLL_STATE 0]), syncQl]

/-- The DPLL leaves its input: HOLDOVER with history, FREERUN without (R259). -/
def dpllLeave : Act :=
  .look fun s => when (s.dpll == dpLocking || s.dpll == dpLocked) (dpllTo (if s.dpllHist then dpHoldover else dpFreerun))

/-- REF_SWITCH (R258, R259): a changed selection is applied. -/
def refSwitch : Act :=
  .look fun s =>
    let n := s.dpllChoice
    when (n != s.dpllSel) (acts [setSel n,
      if n = 0 then
        (if s.dpll = dpLocked then dpllTo dpHoldover else dpllLeave)
      else if s.dpll = dpFreerun ∨ s.dpll = dpHoldover then dpllTo dpLocking
      else when (s.dpll == dpLocking) (modTime fun t => { t with dpllAt := s.time.words }),
      syncQl])

/-- TIMEPLL loses lock (R259, R310). -/
def dpllClockLost : Act := acts [setSel 0, dpllLeave, syncQl]

/-- DPLL_INPUT_LOSS (R257): the input is no longer qualified. -/
def dpllInputLoss (i : Nat) : Act := inputLost i

/-- Nanoseconds without loss after which an input is qualified: 10 s, and after a loss WTR_MIN further minutes (R257). -/
def State.qualNs (s : State) (i : Nat) : Nat :=
  10 * 10 ^ 9 + (if tabGet s.time.inHad false i then s.fld F.TIME_DPLL_CFG_WTR_MIN 0 * 60 * 10 ^ 9 else 0)

/-- DPLL_INPUT_QUALIFY (R257): the time without loss has passed. A recovered clock is lost while its port is not UP, and PPS_IN
while no edge arrives. -/
def dpllInputQualify (i : Nat) : Act :=
  .look fun s =>
    let lost := if i = 1 then !s.time.ppsOk else decide (2 ≤ i) && !s.isUp (s.recPort (i + 1))
    when (!lost && s.released && s.aged (tabGet s.time.inAt 0 i) (s.qualNs i))
      (setF F.TIME_DPLL_STATUS_QUAL 0 (s.fld F.TIME_DPLL_STATUS_QUAL 0 ||| 2 ^ i))

/-- DPLL_LOCK (R259): 10 s in LOCKING within the limit. -/
def dpllLock : Act := .look fun s => when (s.dpll == dpLocking && s.aged s.time.dpllAt (10 * 10 ^ 9)) (dpllTo dpLocked)

/-- ESMC_TIMEOUT (R258, R260): 5 s without a PDU, and the QL of the port becomes DNU. -/
def esmcTimeout (p : Nat) : Act :=
  .look fun s =>
    when (s.bit F.TIME_PORT_PTP_ESMC_EN p && !s.bit F.TIME_PORT_PTP_STATUS_ESMC_TO p && s.aged (s.port p).esmcAt (5 * 10 ^ 9)) (acts [
      setF F.TIME_PORT_PTP_STATUS_QL_RX p qlDnu, setB F.TIME_PORT_PTP_STATUS_ESMC_TO p true, raisePe peEsmcChange, syncQl])

/-- An ESMC PDU with this QL and enhanced SSM code is received on a port (R260). -/
def esmcReceive (p ql enh : Nat) : Act :=
  .look fun s =>
    let change : Bool := decide (s.fld F.TIME_PORT_PTP_STATUS_QL_RX p ≠ ql)
    acts [setF F.TIME_PORT_PTP_STATUS_QL_RX p ql, setB F.TIME_PORT_PTP_STATUS_ESMC_TO p false,
      modPort p fun P => { P with esmcAt := s.time.words, esmcE := enh },
      when change (raisePe peEsmcChange), syncQl]

/-! ### PPS and ToD (R253, R261 to R263) -/

/-- PPS_IN_EDGE (R253, R263): the edge is timestamped; the third one in a row without a sentence loses the source. -/
def ppsInEdge (sub : Nat) : Act :=
  .look fun s =>
    let miss := if s.time.ppsEdge.isSome && !s.time.ppsNamed then s.time.ppsMiss + 1 else 0
    when s.released (acts [modTime fun t => { t with
        ppsEdge := some (s.now16 + sub), ppsEp := s.newEpoch, ppsNamed := false, ppsMiss := miss, ppsOk := true, ppsAt := s.time.words },
      when (!s.time.ppsOk) (inputSpan 1), when (decide (miss = 3 ∧ s.timeRef = 2)) srcLose])

/-- PPS_LOSS (R257, R263): 1.1 s without an edge. -/
def ppsLoss : Act :=
  .look fun s =>
    when (s.time.ppsOk && s.aged s.time.ppsAt 1100000000)
      (acts [modTime fun t => { t with ppsOk := false }, raise F.TIME_SVC_EVT_CAUSE_PPS_LOSS 0, dpllInputLoss 1])

/-- Decimal digits of a number, most significant first; `fuel` bounds their number. -/
def decDigits (fuel n : Nat) : List Byte :=
  match fuel with
  | 0 => []
  | f + 1 => if n < 10 then [BitVec.ofNat 8 (48 + n)] else decDigits f (n / 10) ++ [BitVec.ofNat 8 (48 + n % 10)]

def decBytes (n : Nat) : List Byte := decDigits 40 n

def hexDigit (n : Nat) : Byte := BitVec.ofNat 8 (if n < 10 then 48 + n else 55 + n)

/-- Two upper-case hex digits. -/
def hex2 (n : Nat) : List Byte := [hexDigit (n / 16 % 16), hexDigit (n % 16)]

def asc (l : List Nat) : List Byte := l.map (BitVec.ofNat 8)

/-- XOR of bytes. -/
def xorB (l : List Byte) : Byte := l.foldl (· ^^^ ·) 0

/-- Fields joined by commas. -/
def joinComma (l : List (List Byte)) : List Byte :=
  match l with
  | [] => []
  | [x] => x
  | x :: r => x ++ [0x2C] ++ joinComma r

/-- The sentence that names the edge of second `sec` (R262). -/
def State.todSentence (s : State) (sec : Nat) : List Byte :=
  let t := s.time
  let u := (if t.utc < 0 then [0x2D#8] else []) ++ decBytes t.utc.natAbs
  let body := joinComma [asc [0x48, 0x54, 0x4F, 0x44], decBytes sec, u, hex2 (t.tflags % 32), decBytes s.annClass, hex2 t.gmAcc, decBytes s.servo]
  [0x24#8] ++ body ++ [0x2A#8] ++ hex2 (xorB body).toNat ++ [0x0D#8, 0x0A#8]

/-- Fields of a body parted by commas. -/
def splitComma (l : List Byte) : List (List Byte) :=
  l.foldr (fun b acc => if b = 0x2C#8 then [] :: acc else match acc with | [] => [[b]] | x :: r => (b :: x) :: r) [[]]

/-- Value of decimal digits; none where a byte is no digit or there is none. -/
def decVal (l : List Byte) : Option Nat :=
  if l.isEmpty then none
  else l.foldl (fun a b => a.bind fun n => if 48 ≤ b.toNat ∧ b.toNat ≤ 57 then some (n * 10 + (b.toNat - 48)) else none) (some 0)

/-- Value of an upper-case hex digit. -/
def hexVal1 (b : Byte) : Option Nat :=
  if 48 ≤ b.toNat ∧ b.toNat ≤ 57 then some (b.toNat - 48)
  else if 65 ≤ b.toNat ∧ b.toNat ≤ 70 then some (b.toNat - 55) else none

/-- Value of two upper-case hex digits. -/
def hexVal (l : List Byte) : Option Nat :=
  match l with
  | [a, b] => (hexVal1 a).bind fun x => (hexVal1 b).map fun y => 16 * x + y
  | _ => none

/-- What a sentence says: S, U, F, C, A, V. -/
structure Tod where
  sec : Nat
  utc : Int
  flags : Nat
  cls : Nat
  acc : Nat
  valid : Nat
deriving DecidableEq, Repr

/-- A received sentence, if its checksum and syntax are good (R262). -/
def todParse (l : List Byte) : Option Tod :=
  let n := l.length
  let body := (l.drop 1).take (n - 6)
  if decide (n ≤ 64 ∧ 6 ≤ n) && l.headD 0 == 0x24#8 && l.getD (n - 5) 0 == 0x2A#8 && l.drop (n - 2) == [0x0D#8, 0x0A#8] &&
      hexVal ((l.drop (n - 4)).take 2) == some (xorB body).toNat then
    match splitComma body with
    | [h, sS, u, f, c, a, v] =>
      let neg := u.headD 0 == 0x2D#8
      match decVal sS, decVal (if neg then u.drop 1 else u), hexVal f, decVal c, hexVal a, decVal v with
      | some sec, some un, some fl, some cl, some ac, some va =>
        if h = asc [0x48, 0x54, 0x4F, 0x44] ∧ (sS.length = 1 ∨ sS.headD 0 ≠ 0x30#8) ∧ fl < 32 ∧ cl ≤ 255 ∧ v.length = 1 then
          some { sec := sec, utc := if neg then -(un : Int) else un, flags := fl, cls := cl, acc := ac, valid := va }
        else none
      | _, _, _, _, _, _ => none
    | _ => none
  else none

/-- TOD_SENTENCE_RECEIVE (R253, R256, R263): the last byte of a sentence arrives. -/
def todSentenceReceive (l : List Byte) : Act :=
  .look fun s =>
    when (s.bit F.TIME_OUT_CFG_TOD_RX_EN 0) (
      let bad := raise F.TIME_SVC_EVT_CAUSE_TOD_BAD 0
      match s.time.ppsEdge, todParse l with
      | some e, some t =>
        let d := s.now16 - e
        if decide (655360000000 ≤ d ∧ d ≤ 58982400000000 ∧ t.valid ≠ 0) && (t.flags.testBit 3 || t.flags.testBit 4) then
          acts [when (decide (s.timeRef = 2) && !s.time.ppsNamed) (acts [
              modTime fun x => { x with
                ppsNamed := true, ppsMiss := 0, utc := t.utc, tflags := t.flags, gmClass := t.cls, gmAcc := t.acc,
                gm := Config.clockIdentity, stepsRm := 0 },
              setF F.TIME_SERVO_STATUS_STEPS_REMOVED 0 0,
              when s.servoOn (
                if s.beforeStep s.time.ppsEp then smpDiscard false
                else acts [srcArrive, servoOffset ((e : Int) - (t.sec * secUnits : Nat))])]),
            modTime fun x => { x with ppsNamed := true, ppsMiss := 0 }]
        else bad
      | _, _ => bad)

/-- The second whose edge falls at or before the next time word. -/
def State.edgeSec (s : State) : Nat := (s.time.acc + 64 * s.time.inc) / (1000000000 * 2 ^ 48)

/-- A whole second falls within the last time word or the next one. -/
def State.edgeNear (s : State) : Bool := decide (s.time.acc < s.edgeSec * (1000000000 * 2 ^ 48) + 64 * s.time.inc)

/-- PPS_OUT_EDGE (R261, R263): device time passes a whole second. -/
def ppsOutEdge : Act :=
  .look fun s =>
    let m := s.fld F.TIME_OUT_CFG_PPS_MODE 0
    when (s.time.running && s.edgeNear && decide (s.time.edgeS ≠ some s.edgeSec)) (acts [
      modTime fun t => { t with edgeS := some s.edgeSec, edgeAt := s.time.words },
      if m = 1 ∨ (2 ≤ m ∧ (s.servo = svLocked ∨ s.servo = svHoldover)) then
        acts [emit (.pps (s.fld F.TIME_OUT_CFG_PPS_WIDTH_MS 0)), modTime fun t => { t with lastEdgeS := some s.edgeSec }]
      else modTime fun t => { t with lastEdgeS := none }])

/-- TOD_SENTENCE_SEND (R263): the sentence of the last edge starts, TOD_DELAY_MS after it. -/
def todSentenceSend : Act :=
  .look fun s =>
    match s.time.lastEdgeS with
    | none => .skip
    | some sec =>
      when (s.aged s.time.edgeAt (s.fld F.TIME_OUT_CFG_TOD_DELAY_MS 0 * 1000000))
        (acts [modTime fun t => { t with lastEdgeS := none }, when (s.bit F.TIME_OUT_CFG_TOD_TX_EN 0) (emit (.tod (s.todSentence sec)))])

/-! ### Tallies (R264 to R267) -/

/-- The security block can sign tallies (R264, R399). -/
def State.secUp (s : State) : Bool := s.sec.akOk && s.bit F.SEC_STATUS_ENTROPY_OK 0 && !s.clk.soft.contains unitSec

def sat (n v : Nat) : Nat := min v (2 ^ n - 1)

/-- OWN_BOUND (R266); none where no rule states it: LOCKED with no parent port. -/
def State.ownBound (s : State) : Option Nat :=
  let base := 98304
  if s.servo = svLocked then
    s.time.parent.map fun p =>
      let c := s.fld F.TIME_PORT_CAL_STATUS_CAL_STATE p
      if c = calNominal ∨ c = calFailed then base + 1310720 else if s.time.smpMark then base + 16384 else base
  else if s.servo = svHoldover ∨ s.servo = svHoldoverLong then
    let t := (s.time.words - s.time.hoAt) / words1
    let opt := s.fld F.TIME_DPLL_QL_QL_OPT 0
    let good : Bool := decide (s.dpll = dpLocked ∧ qlRank opt (s.qlOf s.dpllSel) < qlRank opt (s.fld F.TIME_DPLL_QL_QL_OWN 0))
    let f := if good then s.fld F.TIME_HO_CFG_HO_PPT_SYNC 0 else s.fld F.TIME_HO_CFG_HO_PPT_FREE 0
    some (min (base + t * f * 65536 / 1000) 0xFFFFFFFE)
  else some 0xFFFFFFFF

/-- UDS': 32 zero octets while debug is open (R392). -/
def State.udsP (s : State) : List Byte := if s.bit F.SEC_STATUS_DEBUG_OPEN 0 then List.replicate 32 0 else Config.uds

/-- Seeds of the device identity key and of the attestation key: the first 32 octets of a digest (R393). -/
def seedOf (l : List Byte) : BitVec 256 := BitVec.ofNat 256 ((Config.sha3 l).toNat / 2 ^ 256)
def State.didXi (s : State) : BitVec 256 := seedOf ([72, 83, 45, 68, 73, 68, 45, 49] ++ s.udsP)
def State.akXi (s : State) : BitVec 256 := seedOf ([72, 83, 45, 65, 75, 45, 49] ++ beBytes 64 s.sec.cdi.toNat)

/-- The public key of a seed: 2,592 octets. -/
def publicKey (xi : BitVec 256) : List Byte := sliceB (Config.mlKey xi) 0 2592

/-- The random octets of a signature: 32 from the entropy source, or 0 while it has failed (R387, R399). -/
def withRnd (k : BitVec 256 → Act) : Act :=
  .look fun s => if s.bit F.SEC_STATUS_ENTROPY_OK 0 then draw fun n => k (BitVec.ofNat 256 n) else k 0

/-- A signature by the attestation key, or by the identity key while none has been derived (R387, R402). -/
def signed (ctx msg : List Byte) (k : List Byte → Act) : Act :=
  withRnd fun r => .look fun s => k (sliceB (Config.sign (if s.sec.akOk then s.akXi else s.didXi) ctx msg r) 0 4627)

/-- FLAGS of a tally from currentUtcOffsetValid, traceability and leap flags (R265). -/
def State.tallyFlags (s : State) : Nat :=
  let f := s.time.tflags
  let b := fun k : Nat => if f.testBit k then 1 else 0
  b 3 + 2 * b 4 + 4 * b 2 + 8 * b 0 + 16 * b 1 + (if s.time.smpMark then 32 else 0) + (if s.time.stepFlag then 64 else 0)

/-- The 184 bytes of a tally's body (R265). -/
def State.tallyBody (s : State) (sec bound : Nat) : List Byte :=
  let t := s.time
  let src := s.fld F.TIME_SERVO_STATUS_SOURCE 0
  let ms := sec * 1000
  let par := t.parent.getD 0
  let mean : Int := if t.smpN = 0 then 0 else t.smpSum / (t.smpN : Int)
  let calAge := match tabGet t.calAt none par with
    | some c => if t.parent.isSome then sat 32 ((t.words - c) * 1000 / words1) else 0xFFFFFFFF
    | none => 0xFFFFFFFF
  beBytes 4 0x544C5931 ++ beBytes 1 1 ++ beBytes 1 s.tallyFlags ++ beBytes 2 184 ++
  beBytes 8 (s.sec.bootId.getD 0).toNat ++ beBytes 4 (t.tallySeq + 1) ++ beBytes 6 sec ++ beBytes 4 0 ++
  beBytes 2 (s.fld F.SYS_EPOCH_CURRENT 0) ++ beBytes 1 s.servo ++ beBytes 1 src ++
  beBytes 2 (if src = 1 then par else 0xFFFF) ++ beBytes 1 (s.fld F.TIME_PTP_CFG_DOMAIN 0) ++
  beBytes 1 (s.fld F.TIME_PTP_CFG_PROFILE 0 % 3) ++ beBytes 2 t.stepsRm ++ beBytes 8 s.gmId ++ beBytes 1 t.gmClass ++
  beBytes 1 t.gmAcc ++ beBytes 2 t.gmVar ++ beBytes 2 (ofSigned 16 t.utc) ++ beBytes 2 (sat 16 t.smpN) ++
  beBytes 2 (sat 16 t.smpBad) ++ beBytes 2 0 ++ beBytes 4 (sat 32 (ms - max t.tallyLast t.freeAt)) ++
  beBytes 8 (ofSigned 64 mean) ++ beBytes 8 t.smpMax ++ beBytes 8 (ofSigned 64 t.meanDelay) ++
  beBytes 8 (ofSigned 64 (if t.parent.isSome then s.asym par else 0)) ++ beBytes 4 bound ++ beBytes 4 calAge ++
  beBytes 10 t.parentId ++ beBytes 6 0 ++ beBytes 64 (Config.sha3 (publicKey s.akXi)).toNat

/-- TALLY_ISSUE (R264): at most one in a second, on the period or where one is due. -/
def tallyIssue : Act :=
  .look fun s =>
    let sec := s.edgeSec
    let due := s.time.tallyReq == some sec || decide (sec % s.fld F.TIME_TALLY_CFG_PERIOD_S 0 = 0)
    let make := fun bound : Nat => acts [
      modTime fun t => { t with
        tallyQ := t.tallyQ ++ [(s.fld F.TIME_TALLY_CFG_CHUNK 0, s.tallyBody sec bound)], tallySeq := t.tallySeq + 1, tallyReq := none,
        tallyS := some sec, tallyLast := sec * 1000, smpN := 0, smpBad := 0, smpMark := false, smpSum := 0, smpMax := 0, stepFlag := false },
      setF F.TIME_TALLY_STATUS_SEQ 0 (s.time.tallySeq + 1)]
    when (s.bit F.TIME_TALLY_CFG_TALLY_EN 0 && s.time.running && s.zolOn && s.secUp && due && s.edgeNear && decide (s.time.tallyS ≠ some sec))
      (match s.ownBound with
       | some b => make b
       | none => draw fun k => make (k % 2 ^ 32))

/-- The datagram payloads of a tally: part header and part (R267). -/
def tallyDatagrams (chunk seq boot : Nat) (t : List Byte) : List (Nat × List Byte) :=
  let n := (t.length + chunk - 1) / chunk
  (List.range n).map fun i =>
    (i, beBytes 2 0x5450 ++ beBytes 1 i ++ beBytes 1 n ++ beBytes 4 seq ++ beBytes 8 boot ++ (t.drop (i * chunk)).take chunk)

def ctxTly : List Byte := [72, 83, 45, 84, 76, 89]

/-- TALLY_SIGNED (R265, R267, R400): the oldest waiting tally gains its signature; it enters the ring and its parts wait. -/
def tallySigned : Act :=
  .look fun s =>
    match s.time.tallyQ with
    | [] => .skip
    | (chunk, body) :: rest =>
      when (!s.clk.soft.contains unitSec) (signed ctxTly body fun sig =>
        let full := body ++ sig
        let seq := beAt body 0x10 4
        modTime fun t => { t with
          tallyQ := rest, tallyRing := tabPut t.tallyRing [] ((seq - 1) % 16) full,
          tallyParts := t.tallyParts ++ tallyDatagrams chunk seq (beAt body 8 8) full })

/-! ### Register writes with a rule of their own -/

/-- The domains of a profile (R247); 3 is taken as 0. -/
def domainRange (prof : Nat) : Nat × Nat := if prof = 1 then (24, 43) else if prof = 2 then (44, 63) else (0, 127)

/-- TIME_PTP_CFG: PROFILE and DOMAIN are written only in SETUP and PROVING (R247). -/
def ptpCfgWrite (rq : Req) (v : Word) : Act :=
  .look fun s =>
    if s.opMode = modeSetup ∨ s.opMode = modeProving then
      acts [writeFields rq .TIME_PTP_CFG 0 v, .look fun s =>
        let r := domainRange (s.fld F.TIME_PTP_CFG_PROFILE 0)
        setF F.TIME_PTP_CFG_DOMAIN 0 (max r.1 (min r.2 (s.fld F.TIME_PTP_CFG_DOMAIN 0)))]
    else reject3 .timeSvc rq .TIME_PTP_CFG 0

/-- TIME_PORT_PTP: ROLE is written only in DISABLED, INITIALIZING or FAULTY (R270). A port that gains a role takes the state its
link asks for (R249). -/
def portPtpWrite (rq : Req) (p : Nat) (v : Word) : Act :=
  .look fun s =>
    if [1, 2, 3].contains (s.ptpPort p) then
      acts [writeFields rq .TIME_PORT_PTP p v,
        .look fun s =>
          let role := s.fld F.TIME_PORT_PTP_ROLE p
          setF F.TIME_PORT_PTP_STATUS_PORT_STATE p
            (if role = 1 ∨ role = 2 then (if s.isUp p then 4 else 2) else 3)]
    else reject3 (.timePort p) rq .TIME_PORT_PTP p

/-- TIME_DPLL_CFG and TIME_DPLL_QL: FORCE_REF 5 takes the DPLL to FREERUN (R259). -/
def dpllWrite (rq : Req) (r : Reg) (v : Word) : Act :=
  acts [writeFields rq r 0 v,
    .look fun s => when (r == .TIME_DPLL_CFG && decide (s.fld F.TIME_DPLL_CFG_FORCE_REF 0 = 5)) (acts [setSel 0, dpllTo dpFreerun]),
    syncQl]

/-- TIME_DPLL_SRC: a REC input that recovers another port's clock begins a new span without loss, or is lost (R257; log 154). -/
def dpllSrcWrite (rq : Req) (v : Word) : Act :=
  .look fun s =>
    acts [each s.dnuPort.toList esmcEvent, writeFields rq .TIME_DPLL_SRC 0 v,
      .look fun s' => each ([2, 3].filter fun i => s'.recPort (i + 1) != s.recPort (i + 1)) fun i =>
        if s'.isUp (s'.recPort (i + 1)) then inputSpan i else inputLost i,
      .look fun s => each s.dnuPort.toList esmcEvent, syncQl]

/-- TIME_OUT_CFG (R261, R269). -/
def outCfgWrite (rq : Req) (v : Word) : Act := acts [writeFields rq .TIME_OUT_CFG 0 v, clkOutWrite]

def execTimeStep (s : State) := ok timeStep s
def execBmcaRun (b : Bmca) (s : State) := ok (bmcaRun b) s
def execAnnounceReceiptTimeout (p : Fin 512) (s : State) := ok (announceReceiptTimeout p) s
def execServoSample (up : Bool) (s : State) := ok (servoSample up) s
def execSourceLost (s : State) := ok sourceLost s
def execHoldoverLimitExpire (s : State) := ok holdoverLimitExpire s
def execForceNone (req : Req) (value : Word) (s : State) := ok (forceNone req value) s
def execForceHoldover (req : Req) (value : Word) (s : State) := ok (forceHoldover req value) s
def execForceFreerun (req : Req) (value : Word) (s : State) := ok (forceFreerun req value) s
def execPpsInEdge (sub : Nat) (s : State) := ok (ppsInEdge sub) s
def execTodSentenceReceive (l : List Byte) (s : State) := ok (todSentenceReceive l) s
def execPpsLoss (s : State) := ok ppsLoss s
def execDpllInputLoss (i : Fin 4) (s : State) := ok (dpllInputLoss i) s
def execDpllInputQualify (i : Fin 4) (s : State) := ok (dpllInputQualify i) s
def execRefSwitch (s : State) := ok refSwitch s
def execDpllLock (s : State) := ok dpllLock s
def execEsmcTimeout (p : Fin 512) (s : State) := ok (esmcTimeout p) s
def execPpsOutEdge (s : State) := ok ppsOutEdge s
def execTodSentenceSend (s : State) := ok todSentenceSend s
def execTallyIssue (s : State) := ok tallyIssue s
def execTallySigned (s : State) := ok (coreDo tallySigned) s

end Sys2Proof.Machine
end

