-- ==== Sys2Proof/Machine/Modes.lean ====
section
/-!
DEFINITION. Machine/Modes.lean: the operating modes (R330 to R338, R343 to R352): requests, automatic changes, the completion of an
epoch with the mode it carries, SETUP, and the built-in tests of PROVING.
-/
namespace Sys2Proof.Machine

/-! ### The effective step (R344, R345) -/

/-- SYS_MODE.STEP and, in the modes in which aisles admit, the search rate follow the effective step. -/
def stepChanged : Act :=
  .look fun s =>
    acts [setF F.SYS_MODE_STEP 0 s.effStep,
      when (([modeOpen, modeLean, modeDrain, modeSealed] : List Nat).contains s.opMode) stepSync]

/-- The requested step takes a value. -/
def setReqStep (n : Nat) : Act := acts [setF F.SYS_MODE_REQ_STEP 0 n, stepChanged]

/-! ### Transitions (R335 to R338) -/

/-- Whether a request of `tgt` is permitted now: its cell of R335 and the condition there. -/
def State.mayGo (s : State) (tgt : Nat) : Bool :=
  let m := s.opMode
  if m = modeSetup then tgt == modeProving
  else if m = modeOpen then ([modeLean, modeDrain, modeSealed] : List Nat).contains tgt
  else if m = modeLean then ([modeOpen, modeLean, modeDrain, modeSealed] : List Nat).contains tgt
  else if m = modeDrain then tgt == modeOpen || (tgt == modeProving && s.bit F.SYS_MODE_DRAIN_EMPTY 0)
  else if m = modeSealed then tgt == modeOpen && s.bit F.SYS_MODE_CLEAN 0
  else if m = modeProving then tgt == modeSetup && !s.bit F.SYS_PROVE_STATUS_BUSY 0
  else false

/-- SEALED is due: the condition of R346, or SEAL_DUE. -/
def State.sealedDue (s : State) : Bool := s.sealDue || s.bit F.SYS_MODE_SEAL_DUE 0

/-- The automatic change that is due, with its cause (R337, R343). -/
def State.autoDue (s : State) : Option (Nat × Nat) :=
  if s.opMode = modeOpen ∨ s.opMode = modeLean then
    if s.sealedDue then some (modeSealed, 4)
    else if s.opMode = modeOpen ∧ 0 < s.effStep then some (modeLean, if 0 < s.fld F.THM_STATUS_STEP 0 then 2 else 3)
    else if s.opMode = modeLean ∧ s.effStep = 0 then some (modeOpen, 2)
    else none
  else none

/-- Code of the first fault of a request, if it has one (R336); 0 for none. -/
def State.requestFault (s : State) (tgt step : Nat) : Nat :=
  if tgt = modeCold ∨ tgt = modeShutters then 4
  else if !s.mayGo tgt then 3
  else if s.epochPending || s.autoDue.isSome then 3
  else if tgt = modeLean ∧ step = 0 then 4
  else 0

/-- A mode change is requested: it takes the next epoch, but for the changes of R344 that only change REQ_STEP. -/
def modeRequest (tgt step : Nat) : Act :=
  .look fun s =>
    if tgt = modeLean then
      acts [setReqStep step,
        if s.opMode = modeLean then raise F.SYS_MODE_EVT_CAUSE_MODE_DONE 0 else requestEpoch (some modeLean) 1 0]
    else if tgt = modeOpen ∧ s.opMode = modeLean then
      acts [setReqStep 0,
        if 0 < s.fld F.THM_STATUS_STEP 0 then raise F.SYS_MODE_EVT_CAUSE_MODE_DONE 0 else requestEpoch (some modeOpen) 1 0]
    else requestEpoch (some tgt) 1 0

/-- A write of SYS_MODE_REQ with GO = 1 that names a target of the list. -/
def onModeReq (req : Req) (value : Word) (tgts : List Nat) : Act :=
  onWrite req .SYS_MODE_REQ 0 fun rq =>
    let tgt := bits value 0 3
    let step := bits value 4 2
    when (value.getLsbD 31 && tgts.contains tgt) (.look fun s =>
      let code := s.requestFault tgt step
      if code = 0 then modeRequest tgt step else reject .sys rq (regAddr .SYS_MODE_REQ 0) code 0)

/-- AUTO_MODE_CHANGE (R337). -/
def autoModeChange : Act :=
  .look fun s =>
    when (!s.epochPending)
      (match s.autoDue with
       | some (tgt, cause) => requestEpoch (some tgt) cause 0
       | none => .skip)

/-- EPOCH_REQ (R339). -/
def epochReq (req : Req) (value : Word) : Act :=
  onWrite req .SYS_EPOCH_REQ 0 fun rq =>
    when (value.getLsbD 31) (.look fun s => if s.epochPending then reject3 .sys rq .SYS_EPOCH_REQ 0 else requestEpoch none 1 0)

/-! ### SETUP (R332, R334, R352) -/

/-- A step of SETUP fails: the device stays in SETUP, and Zolliwin skips the slot at the next start (R334, R360). -/
def setupFail (code : Nat) : Act :=
  .look fun s =>
    when (s.opMode == modeSetup && s.mode.setup != 3) (acts [
      setF F.SYS_MODE_SETUP_ERR 0 code, raise F.SYS_MODE_EVT_CAUSE_SETUP_FAIL 0, modMode fun m => { m with setup := 3 },
      when (s.nvm.slot == 0) (setB F.NVM_BOOT_SKIP_A 0 true),
      when (s.nvm.slot == 1) (setB F.NVM_BOOT_SKIP_B 0 true)])

/-- SETUP begins at the patch load (R332 step 5, R352): no engine runs, nothing of the image is loaded yet, and SETUP_ERR names no
failure of it (log 161). -/
def setupBegin : Act :=
  acts [modMode fun m => { m with setup := 0 }, setF F.SYS_MODE_SETUP_ERR 0 0,
    modNvm fun N => { N with cfgPos := 0, waiting := 0 },
    modSwc fun w => { w with carveWr := false },
    modDma fun d => { d with zDone := false, imgPos := 0, nrefFlat := [], nrefKeyed := [] },
    each (List.range 17) fun k => modStore k fun m => { m with running := false }]

/-- Zolliwin's ring holds no command. -/
def State.zRingIdle (s : State) : Bool := s.fld F.DMA_RING_HEAD_HEAD 1 == s.fld F.DMA_RING_TAIL_TAIL 1

/-! ### Completion of an epoch (R342 step 5, R343) -/

/-- What leaving a mode does. -/
def modeLeave (m : Nat) : Act :=
  acts [when (m == modeDrain) (setB F.SYS_MODE_DRAIN_EMPTY 0 false), when (m == modeLean) (raise F.SYS_MODE_EVT_CAUSE_LEAN_CHANGE 0)]

/-- What entering a mode does, from `before` and for `cause`. -/
def modeEnter (m before cause : Nat) : Act :=
  .look fun s =>
    acts [
      when (m == modeOpen || m == modeProving) (acts [each (List.range 17) fun k => modStore k fun c => { c with running := true },
        setB F.SEC_STATUS_MEAS_SEALED 0 true]),
      when (m == modeOpen && !s.mode.everOpen)
        (acts [modMode fun x => { x with everOpen := true }, modThm fun h => { h with planAt := some (s.time.words + 45000000000) }, each (s.allPorts.filter s.isUp) probeOnUp]),
      when (m == modeLean) (raise F.SYS_MODE_EVT_CAUSE_LEAN_CHANGE 0),
      when (m == modeSealed) (acts [setB F.SYS_MODE_CLEAN 0 false, setB F.SYS_MODE_SEAL_DUE 0 false,
        modDma fun d => { d with passSealed := false }, modMode fun x => { x with sealBefore := before },
        when (cause == 4) (raise F.SYS_MODE_EVT_CAUSE_SEALED_AUTO 0), faultWrite cause]),
      when (before == modeSealed) (refSync false),
      when (m == modeProving) (setFHw F.SYS_MODE_CFG_SETUP_TARGET 0 0),
      when (m == modeSetup) (acts [modMode fun x => { x with proveSel := 0 }, setupBegin]),
      drainCheck, stepChanged, sealLatch]

/-- EPOCH_DONE (R342 step 5): the last unit has reported. -/
def epochDone : Act :=
  .look fun s =>
    when (s.epochPending && s.allApplied) (acts [
      setF F.SYS_EPOCH_CURRENT 0 s.newEpoch.toNat, setB F.SYS_MODE_PENDING 0 false, raise F.SYS_MODE_EVT_CAUSE_EPOCH_DONE 0,
      (match s.mode.epochMode with
       | none => .skip
       | some m =>
         acts [modeLeave s.opMode, setF F.SYS_MODE_MODE 0 m,
           modMode fun x => { x with
             epochMode := none
             log := ((s.newEpoch.toNat, s.opMode, m, x.epochCause, s.nowNs) :: x.log).take 16 },
           raise F.SYS_MODE_EVT_CAUSE_MODE_DONE 0, modeEnter m s.opMode s.mode.epochCause]),
      .look fun s => setF F.SYS_MODE_TARGET 0 s.opMode])

/-! ### PROVING (R351) -/

def proveBuffer : Nat := 0
def proveTiles : Nat := 1
def proveLedgers : Nat := 2
def proveCstore : Nat := 3
def proveCrier : Nat := 4
def proveLanes : Nat := 5

/-- Nanoseconds that a test takes at least: the march of BUFFER and the second of LANES; the other durations are upper ends (R351). -/
def proveNs (t : Nat) : Nat := if t = proveBuffer then 57600 else if t = proveLanes then 1000000000 else 0

/-- Stalls whose ports all have ADMIN_EN = 0: the ones LANES tests (R351). -/
def State.idleStalls (s : State) : List Nat :=
  (List.range 64).filter fun st => (s.portsOf st).all fun p => !s.bit F.PORT_CFG_ADMIN_EN p

/-- Whether the patch RAM, trap and dispatch entries of a store read back as the verified copy loads them (R351). -/
def State.storeAgrees (s : State) (k : Nat) : Bool :=
  let m := s.store k
  let v := m.load (k == 16) (patchSecs s.nvm.patch)
  m.ram == v.ram && m.trap == v.trap && m.disp == v.disp

/-- PROVE_GO: a write of SYS_PROVE_CTL with GO = 1. -/
def proveGo (req : Req) (value : Word) : Act :=
  onWrite req .SYS_PROVE_CTL 0 fun rq =>
    when (value.getLsbD 31) (.look fun s =>
      let sel := bits value 0 6
      if s.opMode ≠ modeProving ∨ s.bit F.SYS_PROVE_STATUS_BUSY 0 then reject3 .sys rq .SYS_PROVE_CTL 0
      else if sel = 0 then reject .sys rq (regAddr .SYS_PROVE_CTL 0) 4 0
      else
        acts [setF F.SYS_PROVE_CTL_TESTS 0 sel, setB F.SYS_PROVE_STATUS_BUSY 0 true, setF F.SYS_PROVE_STATUS_DONE 0 0,
          setF F.SYS_PROVE_STATUS_FAIL 0 0, modMode fun m => { m with proveSel := sel, proveRes := [], proveAt := s.time.words }])

/-- What a test leaves behind (R351). -/
def proveLeaves (t : Nat) : Act :=
  if t = proveTiles then
    acts [.upd (.keep .tiles fun _ => false), .upd (.keep .copies fun _ => false),
      .look fun s => each ((s.regs.map (·.1)).filter fun k => keyReg k == .AISLE_TILE_CFG) fun k => setF F.AISLE_TILE_CFG_USED (k / 256) 0]
  else if t = proveLedgers then
    each (List.range 4) fun q =>
      acts [modQtr q fun Q => { Q with ways := [], stash := [], pendL := [] }, setF F.QTR_LDG_STATUS_STASH_USED q 0,
        setF F.QTR_LDG_STATUS_WAYS_USED q 0]
  else if t = proveCrier then
    acts [each (List.range 4) fun q => modQtr q fun Q => { Q with fifo := [], inNotes := [], seqNext := 0, expSeq := [] },
      modPe fun P => { P with inNotes := [] }]
  else if t = proveLanes then .look fun s => each s.idleStalls fun st => modStall st fun x => { x with configured := false }
  else .skip

/-- The lowest test still to run. -/
def State.proveNext (s : State) : Option Nat := (List.range 6).find? fun t => s.mode.proveSel.testBit t

/-- Time words from which a test's duration counts: BUFFER marches once every buffer is free. -/
def State.proveFrom (s : State) (t : Nat) : Nat := if t = proveBuffer then max s.mode.proveAt s.swc.freeAt else s.mode.proveAt

/-- PROVE_TEST_DONE: the test that runs ends, not before its time; BUFFER first waits until every buffer is free, and CSTORE fails
where a store does not read back as the verified copy. The digest of the ROM and the other marches come with the command. -/
def proveTestDone (t : Nat) (fail : Bool) (detail : List Word) : Act :=
  .look fun s =>
    when (s.bit F.SYS_PROVE_STATUS_BUSY 0 && s.proveNext == some t && (t != proveBuffer || s.allFree) && s.aged (s.proveFrom t) (proveNs t)) (
      let left := s.mode.proveSel - 2 ^ t
      let fail := fail || (t == proveCstore && !((List.range 17).all s.storeAgrees))
      acts [proveLeaves t,
        modMode fun m => { m with
          proveSel := left
          proveAt := s.time.words
          proveRes := tabPut m.proveRes [] t ((if fail then 3#32 else 1#32) :: (detail.take 6)) },
        setF F.SYS_PROVE_STATUS_DONE 0 (s.fld F.SYS_PROVE_STATUS_DONE 0 ||| 2 ^ t),
        when fail (setF F.SYS_PROVE_STATUS_FAIL 0 (s.fld F.SYS_PROVE_STATUS_FAIL 0 ||| 2 ^ t)),
        when (left == 0) (acts [setB F.SYS_PROVE_STATUS_BUSY 0 false, raise F.SYS_MODE_EVT_CAUSE_PROVE_DONE 0,
          .look fun s => when (decide (0 < s.fld F.SYS_PROVE_STATUS_FAIL 0)) (raise F.SYS_MODE_EVT_CAUSE_PROVE_FAIL 0)])])

def execModeReqOpen (req : Req) (value : Word) (s : State) := ok (onModeReq req value [modeOpen]) s
def execModeReqLean (req : Req) (value : Word) (s : State) := ok (onModeReq req value [modeLean]) s
def execModeReqDrain (req : Req) (value : Word) (s : State) := ok (onModeReq req value [modeDrain]) s
def execModeReqSealed (req : Req) (value : Word) (s : State) := ok (onModeReq req value [modeSealed]) s
def execModeReqProving (req : Req) (value : Word) (s : State) := ok (onModeReq req value [modeProving]) s
def execModeReqSetup (req : Req) (value : Word) (s : State) := ok (onModeReq req value [modeSetup]) s
def execAutoModeChange (s : State) := ok (coreDo autoModeChange) s
def execEpochReq (req : Req) (value : Word) (s : State) := ok (epochReq req value) s
def execEpochDone (s : State) := ok (coreDo epochDone) s
def execProveGo (req : Req) (value : Word) (s : State) := ok (proveGo req value) s
def execProveTestDone (t : Fin 6) (fail : Bool) (detail : List Word) (s : State) := ok (coreDo (proveTestDone t fail detail)) s

end Sys2Proof.Machine
end

