-- ==== Sys2Proof/Machine/Owner.lean ====
section
/-!
DEFINITION. Machine/Owner.lean: who owns the tables (R363), what a loss of ownership does (R364), and the reference of the shadow
compare (R373, R377).
-/
namespace Sys2Proof.Machine

/-- One millisecond in time words of 80 ns. -/
def wordsMs : Nat := 12500

/-! ### Padlocks and rings, as resets and losses see them (R364, R370) -/

/-- DMA_PADLOCK follows the padlocks held. -/
def padSync : Act :=
  .look fun s => acts [setF F.DMA_PADLOCK_HELD_H 0 (s.dma.lockH.toNat / 2), setF F.DMA_PADLOCK_HELD_Z 0 (s.dma.lockZ.toNat / 2)]

/-- Every padlock of a ring is released. -/
def padRelease (ring : Nat) : Act :=
  acts [modDma fun d => if ring = 0 then { d with lockH := 0 } else { d with lockZ := 0 }, padSync]

/-- The end of a command: STATUS, record, AISLE_MASK (R365). -/
structure CmdEnd where
  st : Nat := 0
  record : Nat := 0
  mask : Nat := 0
deriving DecidableEq, Repr

/-- Ring entries and addresses. -/
def State.ringSize (s : State) (ring : Nat) : Nat := 2 ^ s.fld F.DMA_RING_CFG_LOG2_SIZE ring
def State.ringHead (s : State) (ring : Nat) : Nat := s.fld F.DMA_RING_HEAD_HEAD ring
def State.cplAddr (s : State) (ring : Nat) : Nat :=
  s.fld F.DMA_CPL_BASE_HI_ADDR ring * 2 ^ 32 + s.fld F.DMA_CPL_BASE_LO_ADDR ring * 64 + 16 * s.ringHead ring

/-- A write of host memory fails: the PCIe link is down because its PLL has lost lock (R310; log 188). -/
def State.hostFails (s : State) : Bool := s.clk.pcieUp && !s.bit F.CLK_STATUS_PCIE_LOCK 0

/-- The table DMA writes host memory; a write that fails raises FETCH_ERR (R369). -/
def dmaHostWrite (a : Nat) (l : List Byte) : Act := .look fun s => if s.hostFails then raiseDma dmaFetchErr else hostWrite a l

/-- The end of a descriptor: completion record, HEAD, PHASE and events. -/
def descEnd (ring : Nat) (tag : List Byte) (irq : Bool) (r : CmdEnd) (off : Nat) : Act :=
  .look fun s =>
    let ph := if s.dma.phase.getLsbD ring then 1 else 0
    let cpl := tag ++ leBytes 1 r.st ++ [0] ++ leBytes 2 r.mask ++ leBytes 4 off ++ leBytes 3 r.record ++ leBytes 1 ph
    let next := (s.ringHead ring + 1) % s.ringSize ring
    acts [if ring = 0 then dmaHostWrite (s.cplAddr ring) cpl else emit (.zolMemory (s.cplAddr ring) cpl),
      setF F.DMA_RING_HEAD_HEAD ring next,
      when (next == 0) (modDma fun d => { d with phase := d.phase ^^^ BitVec.ofNat 2 (2 ^ ring) }),
      when irq (raiseDma (if ring = 0 then dmaRingDone else dmaZDone)),
      when (r.st != 0) (raiseDma (if ring = 0 then dmaRingErr else dmaZErr))]

/-- Descriptors not yet executed are abandoned: HEAD := TAIL. A stream in progress ends where it stands, with status 0x7 (R364, R369;
log 188). -/
def ringAbandon (ring : Nat) : Act :=
  acts [.look fun s =>
      match tabGet s.dma.cur none ring with
      | none => .skip
      | some x => acts [modDma fun d => { d with cur := tabPut d.cur none ring none }, descEnd ring x.tag x.irq { st := 7 } x.off],
    .look fun s => setF F.DMA_RING_HEAD_HEAD ring (s.fld F.DMA_RING_TAIL_TAIL ring)]

/-- The registers of a ring return to reset values. -/
def ringReset (ring : Nat) : Act :=
  acts [each ([Reg.DMA_RING_BASE_LO, .DMA_RING_BASE_HI, .DMA_CPL_BASE_LO, .DMA_CPL_BASE_HI, .DMA_RING_CFG, .DMA_RING_TAIL, .DMA_RING_HEAD])
      (fun r => setReg r ring (regReset r ring)),
    modDma fun d => { d with cur := tabPut d.cur none ring none, phase := d.phase ||| BitVec.ofNat 2 (2 ^ ring) }]

/-- The registers of the 16 host packet queues return to reset values. -/
def hqReset : Act :=
  each (List.range 16) fun k =>
    each ([Reg.HQ_BASE_LO, .HQ_BASE_HI, .HQ_CFG, .HQ_TAIL, .HQ_HEAD, .HQ_LOST]) fun r => setReg r k (regReset r k)

/-- Frames waiting for a D2H queue are terminated; H2D frames already handed over are sent. -/
def hqStop : Act := acts [h2dKeep, each (List.range 8) d2hTerminate]

/-! ### Ownership (R363) -/

def ownDevice : Nat := 0
def ownHost : Nat := 1
def lostRelease : Nat := 1
def lostPerst : Nat := 2
def lostLate : Nat := 3

/-- The host loses ownership (R363, R364). -/
def loseOwner (why : Nat) : Act :=
  .look fun s =>
    when s.hostOwns (acts [setF F.SYS_OWNER_STATE 0 ownDevice, setF F.SYS_OWNER_LOST_WHY 0 why,
      ringAbandon 0, padRelease 0,
      each (List.range 16) (fun k => setB F.HQ_CFG_EN k false), hqStop,
      setB F.ASSAY_CTL_SHADOW_EN 0 false, raiseDma dmaLost, refOwner])

/-- The heartbeat timer starts again. -/
def heartbeatRestart : Act := .look fun s => modDma fun d => { d with hbAt := s.time.words }

/-- CLAIM (R363). -/
def claim (req : Req) (value : Word) : Act :=
  onWrite req .SYS_OWNER_CTL 0 fun rq =>
    when (value.getLsbD 31) (.look fun s =>
      if rq = .smb ∨ s.hostOwns ∨ s.opMode = modeShutters ∨ s.opMode = modeSetup ∨
          (s.bit F.SYS_OWNER_CFG_CLAIM_SECURE 0 ∧ secureReq rq = false) then reject3 .sys rq .SYS_OWNER_CTL 0
      else acts [setF F.SYS_OWNER_STATE 0 ownHost, modDma fun d => { d with everHost := true }, heartbeatRestart,
        raiseDma dmaClaimed, refOwner])

/-- RELEASE (R363, R379). -/
def release (req : Req) (value : Word) : Act :=
  onWrite req .SYS_OWNER_CTL 0 fun rq =>
    when (value.getLsbD 30) (.look fun s =>
      if rq = .smb ∨ !s.hostOwns then reject3 .sys rq .SYS_OWNER_CTL 0 else loseOwner lostRelease)

/-- HEARTBEAT (R363, R379). -/
def heartbeat (req : Req) (value : Word) : Act :=
  onWrite req .SYS_OWNER_CTL 0 fun rq =>
    when (value.getLsbD 29) (.look fun s =>
      if rq = .smb ∨ !s.hostOwns then reject3 .sys rq .SYS_OWNER_CTL 0 else heartbeatRestart)

/-- HEARTBEAT_LATE (R363): more than HB_MS have passed since the last heartbeat. -/
def heartbeatLate : Act :=
  .look fun s =>
    let ms := s.fld F.SYS_OWNER_CFG_HB_MS 0
    when (s.hostOwns && ms != 0 && s.aged s.dma.hbAt (ms * 1000000)) (loseOwner lostLate)

def execClaim (req : Req) (value : Word) (s : State) := ok (claim req value) s
def execRelease (req : Req) (value : Word) (s : State) := ok (release req value) s
def execHeartbeat (req : Req) (value : Word) (s : State) := ok (heartbeat req value) s
def execHeartbeatLate (s : State) := ok (coreDo heartbeatLate) s

end Sys2Proof.Machine
end

