-- ==== Sys2Proof/Machine/Dma.lean ====
section
/-!
DEFINITION. Machine/Dma.lean: the table DMA (R365 to R370): rings, command streams, the commands of R367 and their statuses, and
padlocks.
-/
namespace Sys2Proof.Machine

/-! ### Commands (R366, R367) -/

def opWrite : Nat := 0x01
def opFill : Nat := 0x02
def opRead : Nat := 0x03
def opLdgInsert : Nat := 0x10
def opLdgDelete : Nat := 0x11
def opLpmInsert : Nat := 0x20
def opLpmDelete : Nat := 0x21
def opPselWrite : Nat := 0x22
def opRuleWrite : Nat := 0x23
def opRuleClear : Nat := 0x24
def opRuleMove : Nat := 0x25
def opPadlock : Nat := 0x30
def opNop : Nat := 0x31

/-- A command: header fields and payload. -/
structure DmaCmd where
  op : Nat
  flags : Nat
  table : Nat
  index : Nat
  cnt : Nat
  payload : List Byte
  /-- PLEN. -/
  plen : Nat := 0
deriving DecidableEq, Repr

/-- Octets of a command whose header is the first 16 octets. -/
def cmdLen (l : List Byte) : Nat := 16 + 16 * leAt l 2 2

/-- The command of a header and its payload. -/
def cmdOf (l : List Byte) : DmaCmd :=
  { op := leAt l 0 1, flags := leAt l 1 1, table := leAt l 4 1, index := leAt l 8 4, cnt := leAt l 12 4
    payload := (l.take (cmdLen l)).drop 16, plen := leAt l 2 2 }

/-- CORRECT (R366). -/
def DmaCmd.correct (c : DmaCmd) : Bool := c.flags.testBit 1

/-- Entries and octets of an entry of a flat table (R368). -/
def flatDims (t : Nat) : Nat × Nat :=
  match t with
  | 1 => (4096, 16)
  | 2 => (512, 16)
  | 3 => (16384, 16)
  | 4 => (64, 16)
  | 5 => (262144, 16)
  | 6 => (16384, 16)
  | 7 => (1048576, 4)
  | 8 => (16384, 64)
  | 9 => (1152, 4)
  | 10 => (65536, 16)
  | 11 => (65536, 16)
  | 14 => (8192, 8)
  | _ => (0, 16)

def isFlat (t : Nat) : Bool := decide (1 ≤ t ∧ t ≤ 11) || t == 14

/-- Copies of a table: one in each quarter, or one in each aisle (R368). -/
def copiesOf (t : Nat) : Nat := if t ≤ 10 ∨ t = 12 then 4 else 16

/-- Whether an opcode accepts a table (R367). -/
def opAccepts (op t : Nat) : Bool :=
  if op = opWrite ∨ op = opFill ∨ op = opRead then isFlat t
  else if op = opLdgInsert ∨ op = opLdgDelete then t == 12
  else if op = opLpmInsert ∨ op = opLpmDelete then t == 13
  else if op = opPselWrite then t == 14
  else if op = opRuleWrite ∨ op = opRuleClear ∨ op = opRuleMove then t == 15
  else if op = opPadlock then decide (t ≤ 15)
  else if op = opNop then t == 0
  else false

/-- Octets of a record of a command other than the ledger's. -/
def recBytes (op t : Nat) : Nat :=
  if op = opWrite ∨ op = opFill then (flatDims t).2
  else if op = opRead then 16
  else if op = opLpmInsert ∨ op = opLpmDelete then 32
  else if op = opPselWrite then 8
  else if op = opRuleWrite ∨ op = opRuleClear ∨ op = opRuleMove then 112
  else 0

/-- TYPE and VALID of a ledger image. -/
def imageTy (l : List Byte) : Nat := nbits (leAt l 0 16) 124 3
def imageValid (l : List Byte) : Bool := (leAt l 0 16).testBit 127
def imageSize (l : List Byte) : Nat := if isDouble (imageTy l) then 32 else 16

/-- The ledger images of a payload, one after another. -/
def images (n : Nat) (l : List Byte) : List (List Byte) :=
  match n with
  | 0 => []
  | n + 1 => l.take (imageSize l) :: images n (l.drop (imageSize l))

/-- The records of a command. -/
def DmaCmd.recs (c : DmaCmd) : List (List Byte) :=
  if c.op = opLdgInsert ∨ c.op = opLdgDelete then images (min c.cnt (c.payload.length / 16 + 1)) c.payload
  else
    let n := recBytes c.op c.table
    if c.op = opFill ∨ c.op = opRead then [c.payload.take n]
    else if n = 0 then []
    else (List.range (min c.cnt (c.payload.length / n + 1))).map fun i => sliceB c.payload (n * i) n

/-- Whether the payload is shorter than its records. -/
def DmaCmd.short (c : DmaCmd) : Bool :=
  if c.op = opLdgInsert ∨ c.op = opLdgDelete then
    decide (c.payload.length < ((images (min c.cnt (c.payload.length / 16 + 1)) c.payload).map imageSize).sum) ||
      decide (c.payload.length < 16 * c.cnt)
  else if c.op = opFill ∨ c.op = opRead then decide (c.payload.length < recBytes c.op c.table)
  else decide (c.payload.length < c.cnt * recBytes c.op c.table)

/-- Records applied in order; the first whose status is not 0x0 ends the command (R369). -/
def applyRecs {α : Type} (l : List α) (i : Nat) (f : Nat → α → (Nat → Nat → Act) → Act) (k : CmdEnd → Act) : Act :=
  match l with
  | [] => k {}
  | x :: r => f i x fun st mask => if st = 0 then applyRecs r (i + 1) f k else k ⟨st, i, mask⟩

/-! ### Flat tables -/

/-- One entry written to every copy (R367); a policer's buckets take its sizes (R209). -/
def flatWrite (t i v : Nat) : Act :=
  acts [each (List.range (copiesOf t)) (fun c => .upd (.flat (flatKey t c i) (BitVec.ofNat 512 v))),
    when (t == 10) (.look fun s => each (List.range 4) fun q => modQtr q fun Q =>
      { Q with pol := tabPut Q.pol {} i { c := polCbs v, p := polPbs v, last := s.nowNs } })]

/-- One entry of table 14 or of another flat table. -/
def flatRec (t i : Nat) (x : List Byte) (k : Nat → Nat → Act) : Act :=
  if t = 14 then onAisles (pselWrite i (BitVec.ofNat 64 (leNat x))) k
  else acts [flatWrite t i (leNat x), k 0 0]

/-- READ: the entries of one copy, packed. -/
def readBytes (s : State) (c : DmaCmd) : List Byte :=
  let copy := leAt c.payload 8 1
  let n := (flatDims c.table).2
  ((List.range c.cnt).map fun i => leBytes n (s.flatE (flatKey c.table copy (c.index + i))).toNat).flatten

/-! ### Keyed tables -/

/-- Whether an image can be inserted or matched (R367). -/
def imageOk (l : List Byte) : Bool :=
  let ty := imageTy l
  decide (1 ≤ ty ∧ ty ≤ 5) && imageValid l &&
    (!isDouble ty || ((leAt l 16 16).testBit 127 && nbits (leAt l 16 16) 124 3 == ty))

/-- The entry pair of an image, with the stamp a copy gives a dynamic MAC entry (R86). The bits of both halves are stored as the image has
them, also where the second half carries an AGE or a result that R78 gives as 0 (log 189). -/
def imageEntry (s : State) (q : Nat) (l : List Byte) : LEntry × LEntry :=
  let x : LEntry := { e := BitVec.ofNat 128 (leAt l 0 16) }
  let y : LEntry := if isDouble x.ty then { e := BitVec.ofNat 128 (leAt l 16 16) } else {}
  (if x.dynMac then { x with time := t40 s.now16, quarter := q } else x, y)

/-- LDG_INSERT of one image (R83). -/
def ldgInsertRec (x : List Byte) (k : Nat → Nat → Act) : Act :=
  if !imageOk x then k 4 0
  else .look fun s =>
    let fails : Bool := (List.range 4).any fun q => ((s.copyOf q).insert (imageEntry s q x)).2 == .failed
    acts [each (List.range 4) fun q => insertLedger q (imageEntry s q x) .skip, k (if fails then 1 else 0) 0]

/-- LDG_DELETE of one image (R84). -/
def ldgDeleteRec (x : List Byte) (k : Nat → Nat → Act) : Act :=
  if !imageOk x then k 4 0
  else .look fun s =>
    let e := imageEntry s 0 x
    let hit := fun q => (s.copyOf q).find e.1.ty (keyOf e)
    acts [each (List.range 4) fun q =>
        (match hit q with
         | some p => putCopy q ((s.copyOf q).clear p)
         | none => .skip),
      k (if (List.range 4).any fun q => (hit q).isSome then 0 else 2) 0]

/-- The prefix of an LPM record; none where an operand is invalid (R116, R368). -/
def prefixOf (x : List Byte) : Option Prefix :=
  let fam := leAt x 0 1
  let len := leAt x 1 1
  let vrf := leAt x 2 2
  if 1 < fam ∨ 4096 ≤ vrf ∨ (if fam = 0 then 32 else 128) < len ∨ (fam = 0 ∧ beAt x 20 12 ≠ 0) then none
  else some { v6 := fam == 1, vrf := vrf, addr := if fam = 0 then beAt x 16 4 else beAt x 16 16, len := len }

def lpmRec (op : Nat) (x : List Byte) (k : Nat → Nat → Act) : Act :=
  match prefixOf x with
  | none => k 4 0xFFFF
  | some p => if op = opLpmInsert then onAisles (lpmInsertC p (BitVec.ofNat 32 (leAt x 4 4))) k else onAisles (lpmDelete p) k

/-- A 320-bit value of a rule record: units of 10 little-endian octets, most significant unit first (R368). -/
def ruleVal (x : List Byte) (o : Nat) : BitVec 320 :=
  BitVec.ofNat 320 ((List.range 4).foldl (fun a u => a * 2 ^ 80 + leAt x (o + 10 * u) 10) 0)

def ruleRec (op : Nat) (x : List Byte) (k : Nat → Nat → Act) : Act :=
  let n := leAt x 0 1
  let i := leAt x 2 2
  if op = opRuleWrite then onAisles (ruleWrite n i (ruleVal x 16) (ruleVal x 56) (BitVec.ofNat 64 (leAt x 8 8))) k
  else if op = opRuleClear then onAisles (ruleClear n i) k
  else onAisles (ruleMove n i (leAt x 4 1) (leAt x 6 2)) k

/-! ### Padlocks (R370) -/

/-- The padlocks a ring holds. -/
def DmaS.locks (d : DmaS) (ring : Nat) : BitVec 16 := if ring = 0 then d.lockH else d.lockZ

/-- Padlocks named by a command: one table, or all. -/
def padBits (t : Nat) : BitVec 16 := if t = 0 then 0xFFFE#16 else BitVec.ofNat 16 (2 ^ t)

/-- Every crier note on the ring is applied: a set of padlock 12 completes only then. -/
def notesLand : Act :=
  .look fun s =>
    acts [each (List.range 4) fun q => each (s.qtr q).inNotes fun n => crierNoteReceive q n.quarter true,
      each s.pe.inNotes fun n => crierNoteReceive 4 n.quarter true]

/-- PADLOCK: status and effect. -/
def padlockDo (ring t : Nat) (set : Bool) (k : Nat → Nat → Act) : Act :=
  .look fun s =>
    let b := padBits t
    let mine := s.dma.locks ring
    if set then
      if s.dma.locks (1 - ring) &&& b ≠ 0 then k 5 0
      else acts [
        when ((b &&& ~~~mine).getLsbD 12) notesLand,
        modDma (fun d =>
          let at_ := (List.range 16).foldl (fun m j => if (b &&& ~~~mine).getLsbD j then tabPut m 0 (16 * ring + j) s.time.words else m) d.padAt
          if ring = 0 then { d with lockH := d.lockH ||| b, padAt := at_ } else { d with lockZ := d.lockZ ||| b, padAt := at_ }),
        padSync, k 0 0]
    else acts [modDma (fun d => if ring = 0 then { d with lockH := d.lockH &&& ~~~b } else { d with lockZ := d.lockZ &&& ~~~b }), padSync, k 0 0]

/-- PADLOCK_EXPIRED: a padlock held for PADLOCK_MAX_MS is released. -/
def padlockExpired (ring t : Nat) : Act :=
  .look fun s =>
    when (decide (1 ≤ t) && (s.dma.locks ring).getLsbD t &&
        s.aged (tabGet s.dma.padAt 0 (16 * ring + t)) (s.fld F.DMA_CFG_PADLOCK_MAX_MS 0 * 1000000))
      (acts [padlockDo ring t false fun _ _ => .skip, raiseDma dmaPadExpired])

/-! ### One command -/

/-- Whether a command writes the table it names. -/
def DmaCmd.writes (c : DmaCmd) : Bool := !(c.op == opRead || c.op == opPadlock || c.op == opNop)

/-- Status of a command that cannot run: an operand that no record carries, a state in which the ring may not run it, a padlock of
the other ring (R366, R367, R369, R370); 0 where it can. -/
def State.cmdFault (s : State) (ring : Nat) (c : DmaCmd) : Nat :=
  if !opAccepts c.op c.table ∨ 4 ≤ c.flags ∨ 4095 < c.plen ∨ (ring = 0 ∧ c.correct) then 4
  else if (s.opMode = modeSealed ∧ !c.correct) ∨ s.opMode = modeProving ∨ (ring = 0 ∧ !s.hostOwns) then 3
  else if c.writes && (s.dma.locks (1 - ring)).getLsbD c.table then 5
  else if c.short then 4
  else if isFlat c.table ∧ (c.op = opWrite ∨ c.op = opFill ∨ c.op = opRead) ∧ (flatDims c.table).1 < c.index + c.cnt then 4
  else if c.op = opPselWrite ∧ 8192 < c.index + c.cnt then 4
  else if c.op = opRead ∧ copiesOf c.table ≤ leAt c.payload 8 1 then 4
  else 0

/-- The effect of a command that can run. -/
def cmdEffect (ring : Nat) (c : DmaCmd) (k : CmdEnd → Act) : Act :=
  if c.op = opWrite then applyRecs c.recs 0 (fun i x k => flatRec c.table (c.index + i) x k) k
  else if c.op = opFill then
    let x := c.recs.headD []
    applyRecs (List.range c.cnt) 0 (fun i _ k => flatRec c.table (c.index + i) x k) k
  else if c.op = opRead then .look fun s =>
    let d := readBytes s c
    if ring = 0 then acts [dmaHostWrite (leAt c.payload 0 8) d, k (if s.hostFails then { st := 6 } else {})]
    else acts [emit (.zolMemory (leAt c.payload 0 8) d), k {}]
  else if c.op = opLdgInsert then applyRecs c.recs 0 (fun _ => ldgInsertRec) k
  else if c.op = opLdgDelete then applyRecs c.recs 0 (fun _ => ldgDeleteRec) k
  else if c.op = opLpmInsert ∨ c.op = opLpmDelete then applyRecs c.recs 0 (fun _ => lpmRec c.op) k
  else if c.op = opPselWrite then applyRecs c.recs 0 (fun i x k => flatRec 14 (c.index + i) x k) k
  else if c.op = opRuleWrite ∨ c.op = opRuleClear ∨ c.op = opRuleMove then applyRecs c.recs 0 (fun _ => ruleRec c.op) k
  else if c.op = opPadlock then padlockDo ring c.table (c.index % 2 == 1) fun st m => k ⟨st, 0, m⟩
  else k {}

/-- The mask of a command that no aisle takes: every aisle for a write of a search table, which each of the 16 reports on (R116). -/
def DmaCmd.noAisle (c : DmaCmd) : Nat := if c.writes && decide (13 ≤ c.table ∧ c.table ≤ 15) then 0xFFFF else 0

/-- A command of a ring, and how it ends; a status 0x3 is a reject that captures the ring's TAIL register (R369). -/
def dmaCmd (ring : Nat) (c : DmaCmd) (k : CmdEnd → Act) : Act :=
  let done := fun r : CmdEnd => acts [when (r.st == 3) (reject3 .dma .dma .DMA_RING_TAIL ring), k r]
  .look fun s =>
    let st := s.cmdFault ring c
    if st = 0 then cmdEffect ring c done else done { st := st, mask := c.noAisle }

/-! ### The NVM reference (R373, R374) -/

/-- Order of a keyed record in its table. -/
def recOrder (t : Nat) (x : List Byte) : Nat :=
  if t = 12 then imageTy x * 2 ^ 160 + (if isDouble (imageTy x) then nbits (leAt x 0 16) 40 79 * 2 ^ 79 + nbits (leAt x 16 16) 40 79 else nbits (leAt x 0 16) 40 79)
  else if t = 13 then leAt x 0 1 * 2 ^ 160 + leAt x 2 2 * 2 ^ 140 + beAt x 16 16 * 2 ^ 8 + leAt x 1 1
  else leAt x 0 1 * 65536 + leAt x 2 2

/-- Place a keyed record, over one of the same key. -/
def refPut (l : List (Nat × List Byte)) (t : Nat) (x : List Byte) : List (Nat × List Byte) :=
  match l with
  | [] => [(t, x)]
  | (u, y) :: r =>
    if t < u ∨ (t = u ∧ recOrder t x < recOrder t y) then (t, x) :: (u, y) :: r
    else if t = u ∧ recOrder t x = recOrder t y then (t, x) :: r
    else (u, y) :: refPut r t x

def refDel (l : List (Nat × List Byte)) (t : Nat) (x : List Byte) : List (Nat × List Byte) :=
  l.filter fun e => !(e.1 == t && recOrder t e.2 == recOrder t x)

/-- An LPM record with the address bits beyond its length zero, as it is stored (R115). -/
def lpmCanon (x : List Byte) : List Byte :=
  match prefixOf x with
  | none => x
  | some p => patchB x 16 (if p.v6 then beBytes 16 p.masked else beBytes 4 p.masked)

/-- One record of a command as the reference takes it: whether it is in order, and the references after it. -/
def refRec (c : DmaCmd) (i : Nat) (x : List Byte) (d : DmaS) : Bool × DmaS :=
  let add := fun (t : Nat) (x : List Byte) =>
    ((d.nrefKeyed.filter (·.1 == t)).all fun e => decide (recOrder t e.2 ≤ recOrder t x), { d with nrefKeyed := refPut d.nrefKeyed t x })
  let flat := fun (t : Nat) (v : Nat) =>
    (true, { d with nrefFlat := tabPut d.nrefFlat 0 (t * 2 ^ 20 + c.index + i) (BitVec.ofNat 512 (if t = 14 then v % 2 ^ 62 else v)) })
  if c.op = opWrite ∨ c.op = opFill then flat c.table (leNat x)
  else if c.op = opPselWrite then flat 14 (leNat x)
  else if c.op = opLdgInsert then (if nbits (leAt x 0 16) 120 4 = 15 then add 12 x else (true, d))
  else if c.op = opLdgDelete then (true, { d with nrefKeyed := refDel d.nrefKeyed 12 x })
  else if c.op = opLpmInsert then add 13 (lpmCanon x)
  else if c.op = opLpmDelete then (true, { d with nrefKeyed := refDel d.nrefKeyed 13 (lpmCanon x) })
  else if c.op = opRuleWrite then add 15 x
  else if c.op = opRuleClear then (true, { d with nrefKeyed := refDel d.nrefKeyed 15 x })
  else if c.op = opRuleMove then
    (match d.nrefKeyed.find? fun e => e.1 == 15 && recOrder 15 e.2 == recOrder 15 x with
     | none => (true, d)
     | some e => (true, { d with nrefKeyed := refPut (refDel d.nrefKeyed 15 x) 15 (sliceB x 4 4 ++ e.2.drop 4) }))
  else (true, d)

/-- The records of a command with their indices; FILL repeats its one record. -/
def DmaCmd.steps (c : DmaCmd) : List (Nat × List Byte) :=
  if c.op = opFill then (List.range c.cnt).map fun i => (i, c.recs.headD []) else c.recs.zipIdx.map fun e => (e.2, e.1)

/-- A command of the table image taken into the NVM reference; a keyed record out of order ends SETUP (R374). -/
def refCmd (c : DmaCmd) : Act :=
  .look fun s =>
    let r := c.steps.foldl (fun (a : Bool × DmaS) e => let b := refRec c e.1 e.2 a.2; (a.1 && b.1, b.2)) (true, s.dma)
    acts [.upd (.dma r.2), when (!r.1) (setupFail 3)]

/-! ### Streams and rings (R365, R369) -/

/-- At most `fuel` commands of a stream in turn; the first that fails ends it. `step` is what a command of status 0x0 does besides. `k` takes
how the last one ended, the offset, and what is left. -/
def runStream (ring fuel off : Nat) (l : List Byte) (step : DmaCmd → Act) (k : CmdEnd → Nat → List Byte → Act) : Act :=
  if l.isEmpty then k {} 0xFFFFFFFF []
  else
    match fuel with
    | 0 => k {} off l
    | fuel + 1 =>
      if l.length < 16 ∨ (leAt l 2 2 ≤ 4095 ∧ l.length < cmdLen l) then k { st := 4 } off []
      else
        dmaCmd ring (cmdOf l) fun r =>
          if r.st = 0 then acts [step (cmdOf l), runStream ring fuel (off + cmdLen l) (l.drop (cmdLen l)) step k] else k r off []

/-- The load of the table image has ended with status 0x0: M5 is extended, and the reference changes (R332, R377, R395). -/
def imageLoaded : Act :=
  .look fun s =>
    acts [modDma fun d => { d with zDone := true },
      when (!s.bit F.SEC_STATUS_MEAS_SEALED 0) (extendM 5 (s.nvm.sections.getD 3 (0, 0, 0)).2.2), refSync true]

/-- Whether a stream on Zolliwin's ring is the next piece of the table image. -/
def State.isImagePiece (s : State) (ring : Nat) (l : List Byte) : Bool :=
  ring == 1 && s.opMode == modeSetup && s.mode.setup == 2 && !s.dma.zDone &&
    decide (s.dma.imgPos + l.length ≤ (s.nvm.sections.getD 3 (0, 0, 0)).2.1) &&
    l == s.nvmBytes (slotBase s.nvm.slot + (s.nvm.sections.getD 3 (0, 0, 0)).1 + s.dma.imgPos) l.length

/-- The end of a stream: a piece of the table image advances the load, or ends SETUP. -/
def streamEnd (ring : Nat) (x : Stream) (r : CmdEnd) (off : Nat) : Act :=
  acts [descEnd ring x.tag x.irq r off,
    when x.image (
      if r.st ≠ 0 then setupFail 3
      else acts [modDma fun d => { d with imgPos := d.imgPos + x.len },
        .look fun s => when (s.dma.imgPos == (s.nvm.sections.getD 3 (0, 0, 0)).2.1 && s.mode.setup == 2) imageLoaded])]

/-- Whether a ring has a descriptor to execute. -/
def State.ringBusy (s : State) (ring : Nat) : Bool :=
  s.bit F.DMA_RING_CFG_EN ring && s.ringHead ring != s.fld F.DMA_RING_TAIL_TAIL ring

/-- A stream runs on: whole while the other ring has nothing to execute, else one command, and the turn passes (R365). -/
def streamRun (ring : Nat) (x : Stream) : Act :=
  .look fun s =>
    let shared := s.ringBusy (1 - ring)
    runStream ring (if shared then 1 else x.left.length / 16 + 1) x.off x.left (if x.image then refCmd else fun _ => .skip) fun r off left =>
      acts [when shared (modDma fun d => { d with turn := 1 - ring }),
        if left.isEmpty then acts [modDma fun d => { d with cur := tabPut d.cur none ring none }, streamEnd ring x r off]
        else modDma fun d => { d with cur := tabPut d.cur none ring (some { x with left := left, off := off }) }]

/-- DMA_DESCRIPTOR_EXECUTE (R365, R369): the descriptor at HEAD with its stream as fetched, or the stream in progress. While both rings have
streams in progress they take turns, one command each. -/
def dmaDescriptorExecute (ring : Nat) (desc : List Byte) (stream : Option (List Byte)) : Act :=
  .look fun s =>
    when (s.ringBusy ring && s.mode.started && !s.clk.soft.contains unitDma &&
        ((tabGet s.dma.cur none (1 - ring)).isNone || s.dma.turn == ring)) (
      match tabGet s.dma.cur none ring with
      | some x => streamRun ring x
      | none =>
        let x : Stream := { tag := sliceB desc 12 4, irq := leAt desc 16 1 % 2 == 1, len := leAt desc 8 4 }
        let fin := descEnd ring x.tag x.irq
        if leAt desc 0 8 % 16 ≠ 0 ∨ x.len < 16 ∨ 1048576 < x.len ∨ x.len % 16 ≠ 0 then fin { st := 4 } 0xFFFFFFFF
        else
          match stream with
          | none => acts [raiseDma dmaFetchErr, fin { st := 6 } 0xFFFFFFFF]
          | some l =>
            let l := sliceB l 0 x.len
            if s.isImagePiece ring l then
              if !s.sectionOk 3 then acts [setupFail 3, fin { st := 4 } 0]
              else streamRun ring { x with left := l, image := true }
            else streamRun ring { x with left := l })

/-- DMA_RING_TAIL_WRITE (R365, R363): a write of TAIL; only the host as owner submits to the host ring. -/
def dmaRingTailWrite (req : Req) (ring : Nat) (value : Word) : Act :=
  let body := fun rq => .look fun s =>
    if ring = 0 ∧ (isZol rq ∨ !s.hostOwns) then reject3 .dma rq .DMA_RING_TAIL ring
    else if s.ringSize ring ≤ bits value 0 12 then reject .dma rq (regAddr .DMA_RING_TAIL ring) 4 0
    else setF F.DMA_RING_TAIL_TAIL ring (bits value 0 12)
  if ring = 0 then onWrite req .DMA_RING_TAIL 0 body else onSecWrite req .DMA_RING_TAIL 1 body

/-- A row that is one command of a ring: it runs where its opcode is the row's. -/
def dmaRow (op ring : Nat) (body : List Byte) : Act :=
  .look fun s => when ((cmdOf body).op == op && s.mode.started && !s.clk.soft.contains unitDma) (dmaCmd ring (cmdOf body) fun _ => .skip)

def execDmaRingTailWrite (req : Req) (ring : Fin 2) (value : Word) (s : State) := ok (dmaRingTailWrite req ring value) s
def execDmaDescriptorExecute (ring : Fin 2) (desc : List Byte) (stream : Option (List Byte)) (s : State) := ok (coreDo (dmaDescriptorExecute ring desc stream)) s
def execWrite (ring : Fin 2) (body : List Byte) (s : State) := ok (coreDo (dmaRow opWrite ring body)) s
def execFill (ring : Fin 2) (body : List Byte) (s : State) := ok (coreDo (dmaRow opFill ring body)) s
def execRead (ring : Fin 2) (body : List Byte) (s : State) := ok (coreDo (dmaRow opRead ring body)) s
def execLdgInsert (ring : Fin 2) (body : List Byte) (s : State) := ok (coreDo (dmaRow opLdgInsert ring body)) s
def execLdgDelete (ring : Fin 2) (body : List Byte) (s : State) := ok (coreDo (dmaRow opLdgDelete ring body)) s
def execLpmInsert (ring : Fin 2) (body : List Byte) (s : State) := ok (coreDo (dmaRow opLpmInsert ring body)) s
def execLpmDelete (ring : Fin 2) (body : List Byte) (s : State) := ok (coreDo (dmaRow opLpmDelete ring body)) s
def execPselWrite (ring : Fin 2) (body : List Byte) (s : State) := ok (coreDo (dmaRow opPselWrite ring body)) s
def execRuleWrite (ring : Fin 2) (body : List Byte) (s : State) := ok (coreDo (dmaRow opRuleWrite ring body)) s
def execRuleClear (ring : Fin 2) (body : List Byte) (s : State) := ok (coreDo (dmaRow opRuleClear ring body)) s
def execRuleMove (ring : Fin 2) (body : List Byte) (s : State) := ok (coreDo (dmaRow opRuleMove ring body)) s
def execPadlock (ring : Fin 2) (body : List Byte) (s : State) := ok (coreDo (dmaRow opPadlock ring body)) s
def execNop (ring : Fin 2) (body : List Byte) (s : State) := ok (coreDo (dmaRow opNop ring body)) s
def execPadlockExpired (ring : Fin 2) (t : Fin 16) (s : State) := ok (coreDo (padlockExpired ring t)) s

end Sys2Proof.Machine
end

