-- ==== Sys2Proof/Machine/Assay.lean ====
section
/-!
DEFINITION. Machine/Assay.lean: the shadow compare (R373 to R378, R476): the walk over the tables, the findings of one step, their
confirmation and correction, and the window of mismatches.
-/
namespace Sys2Proof.Machine

/-! ### Records and entries (R368, R374, R476) -/

/-- Octets of a record of a table; of a ledger record, by its type. -/
def refSize (t : Nat) (x : List Byte) : Nat :=
  if t = 12 then imageSize x else if t = 13 then 32 else if t = 15 then 112 else (flatDims t).2

/-- A record of the host shadow is malformed (R373). -/
def refMalformed (t : Nat) (x : List Byte) : Bool :=
  x.length != refSize t x ||
    (if t = 12 then !imageOk x || nbits (leAt x 0 16) 120 4 != 15
     else if t = 13 then (prefixOf x).isNone
     else if t = 15 then decide (32 ≤ leAt x 0 1 ∨ 2048 ≤ leAt x 2 2)
     else false)

/-- TYPE and whole key of a ledger image. -/
def imageKey (x : List Byte) : Nat × Nat :=
  (imageTy x, if isDouble (imageTy x) then nbits (leAt x 0 16) 40 79 * 2 ^ 79 + nbits (leAt x 16 16) 40 79 else nbits (leAt x 0 16) 40 79)

/-- Octets of the key CRC of a ledger key. -/
def ledgerKeyBytes (k : Nat × Nat) : List Byte := BitVec.ofNat 8 k.1 :: beBytes (if isDouble k.1 then 20 else 10) k.2

/-- The LPM record that names the prefix of an entry; `w` is the width of its tile in units. -/
def lpmRecordOf (w : Nat) (x : Tile) : List Byte :=
  let v := x.value.toNat
  let v6 : Bool := w == 2
  let vrf := if v6 then nbits v 146 12 else nbits v 66 12
  let addr := if v6 then beBytes 16 (nbits v 18 128) else beBytes 4 (nbits v 34 32) ++ List.replicate 12 0
  leBytes 1 (if v6 then 1 else 0) ++ leBytes 1 x.plen ++ leBytes 2 vrf ++ leBytes 4 x.result.toNat ++ List.replicate 8 0 ++ addr

/-- Octets of the key CRC of an LPM record. -/
def lpmKeyBytes (x : List Byte) : List Byte := x.take 4 ++ (x.drop 16).take 16

/-- The RULE record that names an index of a slot. -/
def ruleRecordOf (n i : Nat) : List Byte := leBytes 1 n ++ [0] ++ leBytes 2 i ++ List.replicate 108 0

/-- Records of a keyed table in the NVM reference, in their order. -/
def State.nvmRecs (s : State) (t : Nat) : List (List Byte) := (s.dma.nrefKeyed.filter (·.1 == t)).map (·.2)

/-- The record of a keyed table that names the same entry as `x`, as a binary search of the NVM reference finds it. -/
def State.nvmFind (s : State) (t : Nat) (x : List Byte) : Option (List Byte) := (s.nvmRecs t).find? fun y => recOrder t y == recOrder t x

/-! ### Device entries of the kinds compared -/

/-- A ledger entry without the generation the copy gave it. -/
def LEntry.plain (x : LEntry) : BitVec 128 := (x.setGen 0).e

/-- The image of the ledger entry at a place of a quarter's copy. -/
def State.ledgerImage (s : State) (q p : Nat) : List Byte :=
  let c := s.copyOf q
  let x := c.at p
  leBytes 16 x.plain.toNat ++ (if isDouble x.ty then leBytes 16 (c.at (p + 1)).plain.toNat else [])

/-- A static ledger entry begins at this place. -/
def State.staticAt (s : State) (q p : Nat) : Bool :=
  let x := (s.copyOf q).at p
  x.valid && x.age == 15 && (!isDouble x.ty || p % 2 == 0)

/-- Whether the place numbered `pos` of the reverse walk of a keyed table holds an entry of the kinds compared: ledger, quarter ×
2^21 + place; search tables, aisle × 2^24 + slot × 65,536 + index. -/
def State.holdsAt (s : State) (t pos : Nat) : Bool :=
  if t = 12 then s.staticAt (pos / 2 ^ 21) (pos % 2 ^ 21)
  else
    let a := pos / 2 ^ 24
    let n := pos / 65536 % 256
    (s.tile (tkey a (if t = 13 then s.lpmTile a n else s.ruleTile a n) (pos % 65536))).valid

/-- The record that names the entry at a place of the reverse walk. -/
def State.recordAt (s : State) (t pos : Nat) : List Byte :=
  if t = 12 then s.ledgerImage (pos / 2 ^ 21) (pos % 2 ^ 21)
  else
    let a := pos / 2 ^ 24
    let n := pos / 65536 % 256
    let tile := if t = 13 then s.lpmTile a n else s.ruleTile a n
    if t = 13 then lpmRecordOf (s.tileW a tile) (s.tile (tkey a tile (pos % 65536))) else ruleRecordOf n (pos % 65536)

/-- The first place from `pos` on that the reverse walk of a keyed table reads. -/
def State.nextPlace (s : State) (t pos : Nat) : Option Nat :=
  let l :=
    if t = 12 then (List.range 4).flatMap fun q =>
      ((s.qtr q).ways.map (·.1) ++ (s.qtr q).stash.map (stashBase + ·.1)).map (q * 2 ^ 21 + ·)
    else (List.range 16).flatMap fun a => (List.range (if t = 13 then 64 else 32)).flatMap fun n =>
      (s.tileEntries a (if t = 13 then s.lpmTile a n else s.ruleTile a n)).map fun e => a * 2 ^ 24 + n * 65536 + e.1
  l.find? fun p => decide (pos ≤ p) && s.holdsAt t p

/-! ### Comparisons (R375) -/

/-- Copies in which a flat entry differs from the reference. -/
def State.flatDiffs (s : State) (t i : Nat) (v : BitVec 512) : List Nat :=
  (List.range (copiesOf t)).filter fun c => s.flatE (flatKey t c i) != v

/-- The kind of finding that a reference record makes in one copy of its table, if it makes one. -/
def State.fwdKind (s : State) (t : Nat) (x : List Byte) (c : Nat) : Option Nat :=
  if t = 12 then
    let C := s.copyOf c
    match C.find (imageKey x).1 (imageKey x).2 with
    | none => some 1
    | some p => if (C.at p).age ≠ 15 then some 1 else if s.ledgerImage c p = leBytes 16 (leAt x 0 16 - nbits (leAt x 0 16) 119 1 * 2 ^ 119) ++
        (if isDouble (imageTy x) then leBytes 16 (leAt x 16 16 - nbits (leAt x 16 16) 119 1 * 2 ^ 119) else []) then none else some 0
  else if t = 13 then
    match prefixOf x with
    | none => none
    | some p =>
      let e := p.entry (BitVec.ofNat 32 (leAt x 4 4))
      match (if s.shortBad c p then [] else s.candSlots c p).findSome? fun n => (s.presentAt c (s.lpmTile c n) e).map (s.lpmTile c n, ·) with
      | none => some 1
      | some (u, i) => if (s.tile (tkey c u i)).result = e.result then none else some 0
  else
    let n := leAt x 0 1
    let u := s.ruleTile c n
    let e := s.tile (tkey c u (leAt x 2 2))
    let sh := 320 - 80 * s.tileW c u
    if !e.valid then some 1
    else if e.value = ruleVal x 16 >>> sh ∧ e.care = ruleVal x 56 >>> sh ∧ e.result = BitVec.ofNat 64 (leAt x 8 8) then none else some 0

/-- The place byte of a copy of a table (R378). -/
def placeOf (t c : Nat) : Nat := if copiesOf t = 4 then 16 + c else c
def copyAt (place : Nat) : Nat := if 16 ≤ place then place - 16 else place

/-- The quarter of a place. -/
def placeQuarter (place : Nat) : Nat := if 16 ≤ place then place - 16 else place / 4

/-- Octets of the key CRC of a keyed record. -/
def recordKey (t : Nat) (x : List Byte) : List Byte :=
  if t = 12 then ledgerKeyBytes (imageKey x) else if t = 13 then lpmKeyBytes x else x.take 4

/-- Findings of one reference record of a keyed table. -/
def State.fwdFinds (s : State) (t j : Nat) (x : List Byte) : List Finding :=
  (List.range (copiesOf t)).filterMap fun c => (s.fwdKind t x c).map fun k =>
    { table := t, kind := k, place := placeOf t c, index := if t = 15 then leAt x 0 1 * 65536 + leAt x 2 2 else j, crc := keyCrc (recordKey t x) }

/-- The finding of a device entry that the reference does not hold. -/
def State.extraFind (s : State) (t pos : Nat) : Finding :=
  { table := t, kind := 2, place := if t = 12 then 16 + pos / 2 ^ 21 else pos / 2 ^ 24
    index := if t = 12 then pos % 2 ^ 21 else pos % 2 ^ 24
    crc := keyCrc (recordKey t (s.recordAt t pos)) }

/-- Place of the reverse walk that a finding of kind 2 names. -/
def Finding.pos (f : Finding) : Nat := copyAt f.place * (if f.table = 12 then 2 ^ 21 else 2 ^ 24) + f.index

/-! ### The walk (R375) -/

/-- The pass ends, and the next begins. -/
def passEnd : Act :=
  .look fun s =>
    let swept := (List.range 16).all fun a => (s.aisle a).swept
    let clean := swept && !s.dma.passDirty
    acts [raise F.QTR_ASSAY_EVT_CAUSE_PASS_DONE 0, count 0x81 0 0 1, when (s.bit F.ASSAY_STATUS_REBASE 0) (count 0x81 0 6 1),
      when clean (raise F.QTR_ASSAY_EVT_CAUSE_PASS_CLEAN 0),
      when (clean && s.opMode == modeSealed && s.dma.passSealed)
        (acts [setB F.SYS_MODE_CLEAN 0 true, raise F.SYS_MODE_EVT_CAUSE_CLEAN 0]),
      passBegin false]

def walkTo (t : Nat) (rev : Bool) (pos : Nat) : Act := modDma fun d => { d with walk := (t, rev, pos) }

/-- The table after `t`: 16 to 31 stand for the return to a table skipped for its padlock, and 16 for the choice of it. -/
def walkNext (t : Nat) : Act := walkTo (if t < 15 then t + 1 else 16) false 0

/-- Findings wait for their confirmation; the step counts as a record compared. -/
def stepFound (l : List Finding) : Act :=
  .look fun s =>
    acts [count 0x81 0 1 1, modDma fun d => { d with finds := d.finds ++ l.map fun f => { f with seen := s.time.words } }]

/-- One step in a table: its walk number `w`, its table, the host's directory entry and record where the reference is HOST. -/
def tableStep (w t : Nat) (rev : Bool) (pos : Nat) (dir : List Byte) (ref : Option (List Byte)) : Act :=
  .look fun s =>
    let host := s.refNow == refHost
    let cnt := leAt dir 8 4
    let limit := if host then cnt else if isFlat t then (flatDims t).1 else (s.nvmRecs t).length
    if host && !(leAt dir 12 1).testBit 0 then walkNext w
    else if isFlat t then
      if min limit (flatDims t).1 ≤ pos then walkNext w
      else
        let go := fun v => acts [stepFound ((s.flatDiffs t pos v).map fun c =>
            { table := t, kind := 0, place := placeOf t c, index := pos, crc := keyCrc (beBytes 4 pos) }), walkTo w false (pos + 1)]
        if host then
          match ref with
          | none => refFail
          | some x => if refMalformed t x then refFail else go (BitVec.ofNat 512 (if t = 14 then leNat x % 2 ^ 62 else leNat x))
        else go (tabGet s.dma.nrefFlat 0 (t * 2 ^ 20 + pos))
    else if !rev then
      if limit ≤ pos then walkTo w true 0
      else
        let go := fun x => acts [stepFound (s.fwdFinds t pos x), walkTo w false (pos + 1)]
        if host then
          match ref with
          | none => refFail
          | some x => if refMalformed t x then refFail else go x
        else go ((s.nvmRecs t).getD pos [])
    else
      match s.nextPlace t pos with
      | none => walkNext w
      | some p =>
        let go := fun (found : Bool) => acts [stepFound (if found then [] else [s.extraFind t p]), walkTo w true (p + 1)]
        if host then
          if cnt = 0 then go false
          else
            match ref with
            | none => refFail
            | some x => if refMalformed t x then refFail else go (recOrder t (if t = 13 then lpmCanon x else x) == recOrder t (s.recordAt t p))
        else go (s.nvmFind t (s.recordAt t p)).isSome

/-- Modes in which the assay runs (R330, R375). -/
def State.assayMode (s : State) : Bool := ([modeOpen, modeLean, modeDrain, modeSealed] : List Nat).contains s.opMode

/-- The table images of the slot in use still agree with their digest, which is checked at each reading (R358); an empty section has
none (log 110). -/
def State.refReads (s : State) : Bool := (s.nvm.sections.getD 3 (0, 0, 0)).2.1 == 0 || s.sectionOk 3

/-- ASSAY_RECORD_STEP (R375). It pauses while Zolliwin does not run (R23). With the reference NONE a pass is one copy sweep in every aisle; while the NVM bus is released the NVM
reference waits (R361). -/
def assayRecordStep (dir : List Byte) (ref : Option (List Byte)) : Act :=
  .look fun s =>
    when (s.assayMode && s.zolOn && !s.clk.soft.contains unitDma) (
      if s.refNow = refNone then
        when ((List.range 16).all fun a => (s.aisle a).swept) passEnd
      else if s.refNow = refNvm ∧ !s.nvmMay then .skip
      else if s.refNow = refNvm ∧ !s.refReads then refFail
      else
        match s.dma.walk with
        | (w, rev, pos) =>
          let t := w % 16
          if t = 0 then
            match s.dma.skip with
            | [] => when s.dma.finds.isEmpty passEnd
            | u :: r => when (!s.padlocked u) (acts [modDma fun d => { d with skip := r }, walkTo (16 + u) false 0])
          else if s.padlocked t then acts [modDma fun d => { d with skip := d.skip ++ [t] }, walkNext w]
          else tableStep w t rev pos dir ref)

/-! ### Confirmation and correction (R375, R376) -/

/-- The reference record of a finding, as it reads now. -/
def State.refAgain (s : State) (f : Finding) (ref : Option (List Byte)) : Option (List Byte) :=
  if s.refNow = refHost then ref
  else if isFlat f.table then some (leBytes (flatDims f.table).2 (tabGet s.dma.nrefFlat 0 (f.table * 2 ^ 20 + f.index)).toNat)
  else if f.kind = 2 then some ((s.nvmFind f.table (s.recordAt f.table f.pos)).getD [])
  else if f.table = 15 then some ((s.nvmFind 15 (ruleRecordOf (f.index / 65536) (f.index % 65536))).getD [])
  else some ((s.nvmRecs f.table).getD f.index [])

/-- Whether a finding is still present. -/
def State.stillThere (s : State) (f : Finding) (x : List Byte) : Bool :=
  let c := copyAt f.place
  if isFlat f.table then
    s.flatE (flatKey f.table c f.index) != BitVec.ofNat 512 (if f.table = 14 then leNat x % 2 ^ 62 else leNat x)
  else if f.kind = 2 then
    s.holdsAt f.table f.pos && keyCrc (recordKey f.table (s.recordAt f.table f.pos)) == f.crc &&
      (x.isEmpty || recOrder f.table (if f.table = 13 then lpmCanon x else x) != recOrder f.table (s.recordAt f.table f.pos))
  else !x.isEmpty && s.fwdKind f.table x c == some f.kind

/-- The correction of a finding: a command with the CORRECT flag (R376). -/
def State.correction (s : State) (f : Finding) (x : List Byte) : DmaCmd :=
  let cmd := fun op t i p => { op := op, flags := 2, table := t, index := i, cnt := 1, payload := p : DmaCmd }
  let del : Bool := f.kind == 2
  let p := if del then s.recordAt f.table f.pos else x
  if isFlat f.table then cmd opWrite f.table f.index x
  else if f.table = 12 then cmd (if del then opLdgDelete else opLdgInsert) 12 0 p
  else if f.table = 13 then cmd (if del then opLpmDelete else opLpmInsert) 13 0 p
  else cmd (if del then opRuleClear else opRuleWrite) 15 0 p

/-- FINDING_CONFIRM (R375 to R377): the oldest finding that waits is read again, 100 µs after its first reading, and once the host
ring has no command outstanding (log 77); while no NVM command may start, readings of the NVM reference wait (R320, R361). -/
def findingConfirm (ref : Option (List Byte)) : Act :=
  .look fun s =>
    match s.dma.finds with
    | [] => .skip
    | f :: rest =>
      when (s.assayMode && s.zolOn && !s.clk.soft.contains unitDma && s.aged f.seen 100000 &&
          !(s.refNow == refNvm && !s.nvmMay) && !s.ringBusy 0) (acts [modDma fun d => { d with finds := rest },
        (match if s.refNow = refNvm ∧ !s.refReads then none else s.refAgain f ref with
         | none => refFail
         | some x =>
           if !x.isEmpty && s.refNow == refHost && refMalformed f.table x then refFail
           else if !s.stillThere f x then count 0x81 0 3 1
           else
             acts [count 0x81 0 2 1, logFinding f, raise F.QTR_ASSAY_EVT_CAUSE_MISMATCH (placeQuarter f.place),
               when (!s.bit F.ASSAY_STATUS_REBASE 0) winAdd,
               when (s.bit F.ASSAY_CFG_CORRECT_EN 0) (dmaCmd 1 (s.correction f x) fun r =>
                 if r.st = 0 then acts [count 0x81 0 4 1, raise F.QTR_ASSAY_EVT_CAUSE_CORRECTED (placeQuarter f.place)]
                 else acts [count 0x81 0 5 1, raise F.QTR_ASSAY_EVT_CAUSE_CORRECT_FAIL (placeQuarter f.place)])])])

/-- WIN_COUNT_BUCKET_EXPIRE (R377): a one-second bucket begins, and the oldest leaves the window. -/
def winCountBucketExpire : Act :=
  .look fun s =>
    when (s.aged s.dma.bucketAt 1000000000) (acts [modDma fun d => { d with bucketAt := s.time.words },
      setWindow ((0 :: s.dma.buckets).take (s.fld F.ASSAY_CFG_WIN_S 0))])

def execAssayRecordStep (dir : List Byte) (ref : Option (List Byte)) (s : State) := ok (coreDo (assayRecordStep dir ref)) s
def execFindingConfirm (ref : Option (List Byte)) (s : State) := ok (coreDo (findingConfirm ref)) s
def execWinCountBucketExpire (s : State) := ok (coreDo winCountBucketExpire) s

end Sys2Proof.Machine
end

