-- ==== Sys2Proof/Machine/PtpMsg.lean ====
section
/-!
DEFINITION. Machine/PtpMsg.lean: the PTP messages of the protocol engine (R165, R236, R247 to R249, R251): their octets after
IEEE 1588-2019 and its profiles (log 54), where they go, and what a received one does.
-/
namespace Sys2Proof.Machine

/-! ### Frames the engine builds -/

/-- Device base MAC, system name and management address of the IDENT record (R359). -/
def PeS.baseMac (P : PeS) : Nat := beAt P.ident 0 6
def PeS.sysName (P : PeS) : List Byte := sliceB P.ident 12 (beAt P.ident 8 1)
def PeS.mgmtAddr (P : PeS) : List Byte :=
  let fam := beAt P.ident 76 1
  sliceB P.ident 80 (if fam = 4 then 4 else if fam = 6 then 16 else 0)

/-- Ethernet header, with a tag where `vid` is not 0. -/
def ethHdr (dst src vid etype : Nat) : List Byte :=
  beBytes 6 dst ++ beBytes 6 src ++ (if vid = 0 then [] else beBytes 2 0x8100 ++ beBytes 2 vid) ++ beBytes 2 etype

/-- A UDP datagram over IPv4 or IPv6; the addresses are in network order. -/
def udpFrame (dst src vid : Nat) (v6 : Bool) (sa da : List Byte) (ttl sport dport : Nat) (pay : List Byte) : List Byte :=
  let n := 8 + pay.length
  let udp := fun c : Nat => beBytes 2 sport ++ beBytes 2 dport ++ beBytes 2 n ++ beBytes 2 c ++ pay
  if v6 then
    let c := 65535 - onesSum (sa ++ da ++ beBytes 4 n ++ beBytes 4 17 ++ udp 0)
    ethHdr dst src vid 0x86DD ++ beBytes 4 0x60000000 ++ beBytes 2 n ++ [17#8] ++ beBytes 1 ttl ++ sa ++ da ++
      udp (if c = 0 then 65535 else c)
  else
    let ip := fun c : Nat => beBytes 2 0x4500 ++ beBytes 2 (20 + n) ++ beBytes 4 0 ++ beBytes 1 ttl ++ [17#8] ++ beBytes 2 c ++ sa ++ da
    ethHdr dst src vid 0x0800 ++ ip (65535 - onesSum (ip 0)) ++ udp 0

/-- Queue of the engine's frames other than PTP event messages (R267; log 29). -/
def qCtl : Nat := 7

/-! ### Octets of a message -/

/-- sourcePortIdentity of a port: portNumber is the port's number plus 1. -/
def ownId (p : Nat) : Nat := Config.clockIdentity % 2 ^ 64 * 2 ^ 16 + (p + 1)

/-- Header of a message: type, length, domain, flagField, correctionField, port, sequenceId, controlField, logMessageInterval. -/
def ptpHdr (ty len dom flags cf p seq ctl log : Nat) : List Byte :=
  beBytes 1 ty ++ [0x12#8] ++ beBytes 2 len ++ beBytes 1 dom ++ [0#8] ++ beBytes 2 flags ++ beBytes 8 cf ++ beBytes 4 0 ++
    beBytes 10 (ownId p) ++ beBytes 2 seq ++ beBytes 1 ctl ++ beBytes 1 log

/-- A Timestamp: seconds and whole nanoseconds of a time in 2^-16 ns; the fraction goes into a correctionField. -/
def tsBytes (t : Nat) : List Byte := beBytes 6 (t / secUnits) ++ beBytes 4 (t % secUnits / 65536)

/-- The time a Timestamp stands for. -/
def tsVal (d : List Byte) (o : Nat) : Nat := beAt d o 6 * secUnits + beAt d (o + 6) 4 * 65536

/-- correctionField of a message whose header starts at `o`, 2^-16 ns. -/
def cfVal (d : List Byte) (o : Nat) : Int := toSigned 64 (beAt d (o + 8) 8)

/-- correctionField that takes a fraction away. -/
def cfLess (cf t : Nat) : Nat := (cf + 2 ^ 64 - t % 65536) % 2 ^ 64

def flTwoStep : Nat := 0x0200
def flUnicast : Nat := 0x0400

/-- logMessageInterval of 2^n messages in a second. -/
def logIval (n : Nat) : Nat := (256 - n) % 256

/-! ### Where messages go (R247) -/

def ptpMac : Nat := 0x011B19000000

/-- The multicast destination of a port: the transport, or of profile 1 the address, of the PTP message received last (log 54). -/
def State.ptpMulti (s : State) (p : Nat) : PtpTo :=
  let t := (s.port p).ptpTr
  if s.ptpProfile = 1 then { mac := if t.2 = peerMac then peerMac else ptpMac }
  else if t.1 = 1 then { tr := 1, mac := 0x01005E000181, ip := beBytes 4 0xE0000181 }
  else if t.1 = 2 then { tr := 2, mac := 0x333300000181, ip := beBytes 16 0xFF0E0000000000000000000000000181 }
  else { mac := ptpMac }

/-- The device's own address in a family: the management address, or 0 where it has none (log 54). -/
def State.ownIp (s : State) (n : Nat) : List Byte :=
  if s.pe.mgmtAddr.length = n then s.pe.mgmtAddr else List.replicate n 0

/-- The octets of a frame that carries a message, and the place of the message in it. -/
def State.ptpFrame (s : State) (dst : PtpTo) (event : Bool) (msg : List Byte) : List Byte × Nat :=
  let port := if event then 319 else 320
  let ttl := if dst.uni then 64 else 1
  if dst.tr = 1 then (udpFrame dst.mac s.pe.baseMac 0 false (s.ownIp 4) dst.ip ttl port port msg, 42)
  else if dst.tr = 2 then (udpFrame dst.mac s.pe.baseMac 0 true (s.ownIp 16) dst.ip ttl port port (msg ++ beBytes 2 0), 62)
  else (ethHdr dst.mac s.pe.baseMac 0 0x88F7 ++ msg, 14)

/-- A message leaves: an event message on QT (R165), which the clearance of R220 waits for, another one on the engine's queue. -/
def ptpPost (p : Nat) (dst : PtpTo) (ty : Nat) (msg : List Byte) : Act :=
  .look fun s =>
    let event : Bool := decide (ty ≤ 3)
    let f := s.ptpFrame dst event msg
    acts [when event (.look fun s => modPort p fun P => { P with qtPost := if P.qtAt.isSome && P.qtPost.isNone then some s.fidNext else P.qtPost }),
      peSendTo p (if event then 8 else qCtl) f.1
        { ptp := some f.2, ptpType := ty, isIp4 := dst.tr == 1, isIp6 := dst.tr == 2, l4off := if dst.tr = 0 then none else some (f.2 - 8) } dst]

/-- The next sequenceId of a message type on a port. -/
def withSeq (p ty : Nat) (k : Nat → Act) : Act :=
  .look fun s =>
    let n := (tabGet (s.port p).ptpSeq 0 ty + 1) % 65536
    acts [modPort p fun P => { P with ptpSeq := tabPut P.ptpSeq 0 ty n }, k n]

/-- flagField bits of where a message goes. -/
def PtpTo.flags (dst : PtpTo) : Nat := if dst.uni then flUnicast else 0

/-! ### Messages sent -/

/-- A two-step Sync (R248). -/
def sendSync (p : Nat) (dst : PtpTo) (log : Nat) : Act :=
  withSeq p 0 fun n => .look fun s => ptpPost p dst 0 (ptpHdr 0 44 s.ptpDomain (flTwoStep + dst.flags) 0 p n 0 log ++ tsBytes 0)

/-- An Announce with the device's data sets (R256). -/
def sendAnnounce (p : Nat) (dst : PtpTo) (log : Nat) : Act :=
  withSeq p 11 fun n => .look fun s =>
    let t := s.time
    let fl := t.tflags % 8 + 8 + t.tflags / 8 % 4 * 16
    ptpPost p dst 11 (ptpHdr 11 64 s.ptpDomain (fl + dst.flags) 0 p n 5 log ++ tsBytes s.now16 ++ beBytes 2 (ofSigned 16 t.utc) ++ [0#8] ++
      beBytes 1 t.gmP1 ++ beBytes 1 s.annClass ++ beBytes 1 t.gmAcc ++ beBytes 2 t.gmVar ++ beBytes 1 t.gmP2 ++ beBytes 8 s.gmId ++
      beBytes 2 t.stepsRm ++ beBytes 1 t.gmSrc)

/-- A Delay_Req towards the parent (R251): in profile 2 to its address. -/
def sendDelayReq (p : Nat) : Act :=
  withSeq p 1 fun n => .look fun s =>
    let dst := if s.ptpProfile = 2 then (s.port p).syncFrom else s.ptpMulti p
    ptpPost p dst 1 (ptpHdr 1 44 s.ptpDomain dst.flags 0 p n 1 0x7F ++ tsBytes 0)

/-- A Pdelay_Req of the probe (R236). -/
def sendPdelayReq (p : Nat) : Act :=
  withSeq p 2 fun n => ptpPost p { mac := peerMac } 2 (ptpHdr 2 54 0 0 0 p n 5 0x7F ++ tsBytes 0 ++ beBytes 10 0)

/-- The Follow_Up or Pdelay_Resp_Follow_Up of the oldest event message that is owed one: its egress time (R165, R236, R248). -/
def sendFollowUp (p : Nat) : Act :=
  .look fun s =>
    match (s.port p).evTx with
    | [] => .skip
    | (dst, m, t) :: r =>
      let dom := beAt m 4 1
      let seq := beAt m 30 2
      acts [modPort p fun P => { P with evTx := r },
        if beAt m 0 1 % 16 = 0 then ptpPost p dst 8 (ptpHdr 8 44 dom dst.flags (t % 65536) p seq 2 (beAt m 33 1) ++ tsBytes t)
        else ptpPost p dst 10 (ptpHdr 10 54 dom dst.flags ((dst.cf + t % 65536) % 2 ^ 64) p seq 5 0x7F ++ tsBytes t ++ sliceB m 44 10),
        when (!r.isEmpty) (postWork p wtPtpTx 4 0)]

/-! ### Unicast (R247, R248) -/

/-- Message types that are granted, and the highest rate of each, as a binary logarithm. -/
def grantMax (ty : Nat) : Option Nat := if ty = 0 ∨ ty = 9 then some 7 else if ty = 11 then some 3 else none

/-- Whether a grant still runs. -/
def State.grantLive (s : State) (g : Grant) : Bool := !(s.time.running && s.elapsed g.at_ (g.secs * 10 ^ 9))

/-- A Signaling message with these TLVs. -/
def sendSignaling (p : Nat) (dst : PtpTo) (target : Nat) (tlvs : List Byte) : Act :=
  withSeq p 12 fun n => .look fun s =>
    ptpPost p dst 12 (ptpHdr 12 (44 + tlvs.length) s.ptpDomain dst.flags 0 p n 5 0x7F ++ beBytes 10 target ++ tlvs)

/-- The TLVs of a Signaling message: type and value. -/
def sigTlvs (fuel : Nat) (l : List Byte) : List (Nat × List Byte) :=
  match fuel with
  | 0 => []
  | k + 1 =>
    let n := beAt l 2 2
    if l.length < 4 + n ∨ l.length < 4 then [] else (beAt l 0 2, (l.drop 4).take n) :: sigTlvs k (l.drop (4 + n))

/-- A request for unicast transmission is granted, for at most 300 s, or refused with a duration of 0 (R248). -/
def grantOne (p : Nat) (frm : PtpTo) (id : Nat) (v : List Byte) : Act :=
  .look fun s =>
    let ty := beAt v 0 1 / 16
    let log := beAt v 1 1
    let live := s.time.grants.filter s.grantLive
    let rest := live.filter fun g => !(g.port == p && g.id == id && g.typ == ty && g.dest == frm)
    let fast : Bool := match grantMax ty with | some n => decide (toSigned 8 log < -(n : Int)) | none => true
    let secs := if fast ∨ 256 ≤ rest.length then 0 else min (beAt v 2 4) 300
    acts [modTime fun t => { t with grants := rest ++ (if secs = 0 then [] else
        [{ port := p, dest := frm, id := id, typ := ty, log := log, at_ := s.time.words, secs := secs }]) },
      sendSignaling p frm id (beBytes 2 5 ++ beBytes 2 8 ++ beBytes 1 (ty * 16) ++ beBytes 1 log ++ beBytes 4 secs ++ beBytes 2 0)]

/-- Unicast negotiation of profile 2, which stops while Zolliwin is held (R247, R248, R255). -/
def unicastRx (p : Nat) (frm : PtpTo) (id : Nat) (l : List (Nat × List Byte)) : Act :=
  .look fun s => when (s.zolOn && s.ptpProfile == 2) (each l fun x =>
    if x.1 = 4 then grantOne p frm id x.2
    else if x.1 = 6 then
      acts [modTime fun t => { t with grants := t.grants.filter fun g => !(g.port == p && g.id == id && g.typ == beAt x.2 0 1 / 16) },
        sendSignaling p frm id (beBytes 2 7 ++ beBytes 2 2 ++ beBytes 1 (beAt x.2 0 1 / 16 * 16) ++ [0#8])]
    else .skip)

/-- The messages of a grant are due: a Sync or an Announce to its requester (R248). -/
def grantTx (p i : Nat) : Act :=
  .look fun s =>
    match s.time.grants[i]? with
    | none => .skip
    | some g => when (s.grantLive g && g.port == p && s.ptpPort p == 6) (
        if g.typ = 0 then sendSync p g.dest g.log else when (g.typ == 11) (sendAnnounce p g.dest g.log))

/-- Address of a unicast master entry (R272). -/
def State.masterIp (s : State) (e : Nat) : List Byte :=
  let w := fun i => ((tabGet s.time.unicast [] e).getD i 0).toNat
  if (w 0).testBit 30 then ((List.range 4).map fun k => beBytes 4 (w (1 + k))).flatten else beBytes 4 (w 1)

/-- A unicast master entry asks its master for Announce, Sync and Delay_Resp messages for 300 s (R248, R272). The MAC of an entry that
nothing has been heard of is a free value (log 54). -/
def unicastRequest (p e : Nat) : Act :=
  .look fun s =>
    let w := fun i => ((tabGet s.time.unicast [] e).getD i 0).toNat
    let v6 : Bool := (w 0).testBit 30
    let ip := s.masterIp e
    let from_ := (s.port p).syncFrom
    let req := fun ty log : Nat => beBytes 2 4 ++ beBytes 2 6 ++ beBytes 1 (ty * 16) ++ beBytes 1 log ++ beBytes 4 300
    when ((w 0).testBit 31 && nbits (w 0) 0 9 == p && s.ptpProfile == 2 && s.zolOn && s.fld F.TIME_PORT_PTP_ROLE p == 1) (draw fun k =>
      sendSignaling p { tr := if v6 then 2 else 1, mac := if from_.ip = ip then from_.mac else k % 2 ^ 48, ip := ip, uni := true } (2 ^ 80 - 1)
        (req 11 (logIval (s.annLog p)) ++ req 0 (logIval (s.syncLog p)) ++ req 9 (logIval (s.dreqLog p))))

/-! ### Transmissions due -/

/-- PTP transmission due: item 0 Sync, 1 Pdelay_Req of the probe, 2 Delay_Req, 3 Announce, 4 a Follow_Up, 512 + e a request of unicast
master entry e, 1024 + i a message of grant i (log 16). -/
def ptpTx (p idx : Nat) : Act :=
  .look fun s =>
    let st := s.ptpPort p
    let multi : Bool := s.ptpProfile != 2
    if idx = 1 then sendPdelayReq p
    else if idx = 0 then when (st == 6 && multi) (sendSync p (s.ptpMulti p) (logIval (s.syncLog p)))
    else if idx = 2 then when (st == 8 || st == 9) (sendDelayReq p)
    else if idx = 3 then when (st == 6 && multi) (sendAnnounce p (s.ptpMulti p) (logIval (s.annLog p)))
    else if idx = 4 then sendFollowUp p
    else if 512 ≤ idx ∧ idx < 520 then unicastRequest p (idx - 512)
    else if 1024 ≤ idx then grantTx p (idx - 1024)
    else .skip

/-- Interval of the engine's own timer for a PTP transmission, ns; none where the engine has no such timer. -/
def State.ptpNs (s : State) (p idx : Nat) : Option Nat :=
  if idx = 0 then some (10 ^ 9 / 2 ^ s.syncLog p)
  else if idx = 2 then some (10 ^ 9 / 2 ^ s.dreqLog p)
  else if idx = 3 then some (10 ^ 9 / 2 ^ s.annLog p)
  else if 512 ≤ idx ∧ idx < 520 then some 0
  else if 1024 ≤ idx then
    s.time.grants[idx - 1024]?.map fun g =>
      let l := toSigned 8 g.log
      if l < 0 then 10 ^ 9 / 2 ^ l.natAbs else 10 ^ 9 * 2 ^ l.natAbs
  else none

/-! ### Messages received -/

/-- A sample has been formed, for Zolliwin to take while it runs (R251). -/
def smpPut (x : Sample) : Act := .look fun s => when s.zolOn (modTime fun t => { t with smpQ := t.smpQ ++ [x] })

/-- Whether a message comes from the parent through a port (R251). -/
def State.fromParent (s : State) (p : Nat) (d : List Byte) (o : Nat) : Bool :=
  s.time.parent == some p && beAt d (o + 20) 10 == s.time.parentId

/-- A Sync of the parent: a one-step one is a sample, a two-step one waits for its Follow_Up (R248, R251). -/
def syncRx (p : Nat) (d : List Byte) (o : Nat) (f : Frame) (frm : PtpTo) : Act :=
  .look fun s => when (s.fromParent p d o) (acts [modPort p fun P => { P with syncFrom := frm },
    if (beAt d (o + 6) 1).testBit 1 then
      modPort p fun P => { P with syncIn := some (beAt d (o + 30) 2, f.tIn, cfVal d o, s.asym p, f.mark, f.epoch) }
    else smpPut (.sync (tsVal d (o + 34)) f.tIn (cfVal d o) (s.asym p) f.mark f.epoch)])

/-- The Follow_Up of that Sync (R251). -/
def followUpRx (p : Nat) (d : List Byte) (o : Nat) : Act :=
  .look fun s => when (s.fromParent p d o) (
    match (s.port p).syncIn with
    | some (seq, t2, cs, asym, m, e) =>
      when (seq == beAt d (o + 30) 2) (acts [modPort p fun P => { P with syncIn := none },
        smpPut (.sync (tsVal d (o + 34)) t2 (cs + cfVal d o) asym m e)])
    | none => .skip)

/-- The Delay_Resp of the engine's Delay_Req (R251). -/
def delayRespRx (p : Nat) (d : List Byte) (o : Nat) : Act :=
  .look fun s => when (s.fromParent p d o && beAt d (o + 44) 10 == ownId p) (
    match (s.port p).dreq with
    | some (seq, t3, m, e) =>
      when (seq == beAt d (o + 30) 2) (acts [modPort p fun P => { P with dreq := none },
        smpPut (.delay t3 (tsVal d (o + 34)) (cfVal d o) m e)])
    | none => .skip)

/-- A Delay_Req is answered by a master with its ingress time (R248); in profile 2 only under a grant, to the
requester. -/
def delayReqRx (p : Nat) (d : List Byte) (o : Nat) (f : Frame) (frm : PtpTo) : Act :=
  .look fun s =>
    let id := beAt d (o + 20) 10
    let dst := if s.ptpProfile = 2 then { frm with uni := true } else s.ptpMulti p
    let granted := s.time.grants.any fun g => s.grantLive g && g.port == p && g.typ == 9 && g.id == id
    when (s.ptpPort p == 6 && (s.ptpProfile != 2 || granted))
      (ptpPost p dst 9 (ptpHdr 9 54 s.ptpDomain dst.flags (cfLess (beAt d (o + 8) 8) f.tIn) p (beAt d (o + 30) 2) 3 (logIval (s.dreqLog p)) ++
        tsBytes f.tIn ++ beBytes 10 id))

/-- A partner's Pdelay_Req is answered where enabled, in two steps (R236). -/
def pdelayReqRx (p : Nat) (d : List Byte) (o : Nat) (f : Frame) : Act :=
  .look fun s => when (s.bit F.TIME_PORT_CFG_PROBE_RESP_EN p)
    (ptpPost p { mac := peerMac, cf := beAt d (o + 8) 8 } 3
      (ptpHdr 3 54 (beAt d (o + 4) 1) flTwoStep (cfLess 0 f.tIn) p (beAt d (o + 30) 2) 5 0x7F ++ tsBytes f.tIn ++ beBytes 10 (beAt d (o + 20) 10)))

/-- Whether a response belongs to the port's outstanding exchange. -/
def State.pdMine (s : State) (p : Nat) (d : List Byte) (o : Nat) : Bool :=
  (s.port p).probeOut && beAt d (o + 30) 2 == tabGet (s.port p).ptpSeq 0 2 && beAt d (o + 44) 10 == ownId p

/-- A Pdelay_Resp: a one-step one completes the exchange with its correctionField, 2 d = (t4 - t1) - (t3 - t2); a two-step one waits for
its Follow_Up (R236). -/
def pdelayRespRx (p : Nat) (d : List Byte) (o : Nat) (f : Frame) : Act :=
  .look fun s => when (s.pdMine p d o) (
    match (s.port p).pdT1 with
    | none => .skip
    | some (t1, m1) =>
      if (beAt d (o + 6) 1).testBit 1 then modPort p fun P => { P with pdResp := some (tsVal d (o + 34), f.tIn, cfVal d o, f.mark) }
      else modPort p fun P => { P with pdRes := some ((f.tIn : Int) - t1 - cfVal d o, m1 || f.mark) })

/-- The Pdelay_Resp_Follow_Up completes the exchange (R236). -/
def pdelayFollowRx (p : Nat) (d : List Byte) (o : Nat) : Act :=
  .look fun s => when (s.pdMine p d o) (
    match (s.port p).pdT1, (s.port p).pdResp with
    | some (t1, m1), some (t2, t4, cf, m4) =>
      modPort p fun P => { P with pdResp := none
                                  pdRes := some ((t4 : Int) - t1 - ((tsVal d (o + 34) : Int) - t2 + cf + cfVal d o), m1 || m4) }
    | _, _ => .skip)

/-- Whether a message comes over a transport, and in the addressing, of the profile in force (R247): multicast in profile 0, the two
Ethernet addresses in profile 1, unicast over UDP in profile 2. -/
def State.ptpWay (s : State) (tr dmac : Nat) : Bool :=
  if s.ptpProfile = 0 then dmac.testBit 40
  else if s.ptpProfile = 1 then tr == 0 && (dmac == ptpMac || dmac == peerMac)
  else tr != 0 && !dmac.testBit 40

/-- Whether a clock is a master the device accepts on a port: any one, but in profile 2 one of the entries of value ID 0x57 (R248). -/
def State.masterOk (s : State) (p : Nat) (frm : PtpTo) : Bool :=
  s.ptpProfile != 2 || (List.range 8).any fun e =>
    let w := (tabGet s.time.unicast [] e).getD 0 0
    w.toNat.testBit 31 && bits w 0 9 == p && decide (frm.tr = if w.toNat.testBit 30 then 2 else 1) && frm.ip == s.masterIp e

/-- The foreign master record an Announce stands for (R249). -/
def State.announceOf (s : State) (d : List Byte) (o : Nat) : Foreign :=
  let fl := beAt d (o + 7) 1
  { portId := beAt d (o + 20) 10, gm := beAt d (o + 53) 8
    quality := beAt d (o + 48) 4 * 65536 + beAt d (o + 47) 1 * 256 + beAt d (o + 52) 1
    steps := beAt d (o + 61) 2, utc := toSigned 16 (beAt d (o + 44) 2), flags := fl % 8 + fl / 16 % 4 * 8, src := beAt d (o + 63) 1
    at_ := s.time.words }

/-- A PTP message received (R236, R248, R249, R251): a Pdelay_Req is answered where enabled, a Delay_Req by a master; an Announce of another
clock enters the foreign master table; Sync, Follow_Up and Delay_Resp of the parent form samples; what the servo and BMCA need is told to
Zolliwin. A message that comes another way than the profile's is not supported (R247). -/
def ptpRx (p : Nat) (P : Parsed) (f : Frame) : Act :=
  .look fun s =>
    let d := f.data
    let o := P.ptp.getD 0
    let role : Bool := decide (s.fld F.TIME_PORT_PTP_ROLE p = 1 ∨ s.fld F.TIME_PORT_PTP_ROLE p = 2)
    let tr := if P.isIp6 then 2 else if P.isIp4 then 1 else 0
    let frm : PtpTo := { tr := tr, mac := P.smac, ip := if tr = 0 then [] else beBytes (if tr = 2 then 16 else 4) P.src
                         uni := (beAt d (o + 6) 1).testBit 2 }
    let tell := postMsg wtPtpEvent ([BitVec.ofNat 32 (P.ptpType * 2 ^ 16 + p), BitVec.ofNat 32 (f.tIn / 65536 / 10 ^ 9), BitVec.ofNat 32 (nsField f.tIn),
      BitVec.ofNat 32 (f.epoch.toNat * 2 ^ 16 + (if f.mark then 1 else 0))])
    if P.ptpType = 2 then pdelayReqRx p d o f
    else if P.ptpType = 3 then acts [pdelayRespRx p d o f, tell]
    else if P.ptpType = 10 then acts [pdelayFollowRx p d o, tell]
    else if !role || !s.ptpWay tr P.dmac then .skip
    else acts [modPort p fun X => { X with ptpTr := (tr, P.dmac) },
      if P.ptpType = 1 then delayReqRx p d o f frm
      else if P.ptpType = 11 then
        acts [when (beAt d (o + 20) 8 != Config.clockIdentity % 2 ^ 64 && decide (beAt d (o + 61) 2 < 255) && s.masterOk p frm)
          (announceRecord p (s.announceOf d o)), tell]
      else if P.ptpType = 12 then unicastRx p { frm with uni := true } (beAt d (o + 20) 10) (sigTlvs 64 ((d.take (o + beAt d (o + 2) 2)).drop (o + 44)))
      else if P.ptpType = 0 then acts [syncRx p d o f frm, tell]
      else if P.ptpType = 8 then acts [followUpRx p d o, tell]
      else if P.ptpType = 9 then acts [delayRespRx p d o, tell]
      else tell]

end Sys2Proof.Machine
end

