-- ==== Sys2Proof/Machine/PeWheel.lean ====
section
/-!
DEFINITION. Machine/PeWheel.lean: the protocol engine's wheel (R161 to R168): positions, the work of a visit, and the engine's own
routines. A routine of the ROM has the effect the chapters state, in one visit; where the patch has replaced its dispatch entry, or a
trap leads a ROM address to another word, it runs word by word on the engine (Machine/Micro.lean; log 42).
-/
namespace Sys2Proof.Machine

/-! ### LLDP (R166) -/

def lldpMac : Nat := 0x0180C200000E

/-- One TLV. -/
def tlv (t : Nat) (v : List Byte) : List Byte := beBytes 2 (t * 512 + v.length % 512) ++ v

/-- The LLDPDU of a port. -/
def State.lldpdu (s : State) (p : Nat) : List Byte :=
  let P := s.pe
  let ttl := min (s.fld F.PE_LLDP_CFG_LLDP_TX_S 0 * s.fld F.PE_LLDP_CFG_LLDP_HOLD 0 + 1) 65535
  let ma := P.mgmtAddr
  ethHdr lldpMac P.baseMac 0 0x88CC ++ tlv 1 ([4#8] ++ beBytes 6 P.baseMac) ++ tlv 2 ([7#8] ++ decBytes p) ++ tlv 3 (beBytes 2 ttl) ++
    (if P.sysName.isEmpty then [] else tlv 5 P.sysName) ++ tlv 7 (beBytes 2 0x14 ++ beBytes 2 0x14) ++
    (if ma.isEmpty then []
     else tlv 8 (beBytes 1 (ma.length + 1) ++ [if ma.length = 4 then 1#8 else 2#8] ++ ma ++ [1#8] ++ beBytes 4 0 ++ [0#8])) ++ tlv 0 []

/-- TLVs of an LLDPDU up to its End. -/
def tlvs (fuel : Nat) (l : List Byte) : List (Nat × List Byte) :=
  match fuel with
  | 0 => []
  | k + 1 =>
    let h := beAt l 0 2
    let n := h % 512
    if l.length < 2 ∨ h / 512 = 0 ∨ l.length < 2 + n then [] else (h / 512, (l.drop 2).take n) :: tlvs k (l.drop (2 + n))

/-- Byte after the EtherType of a frame. -/
def payloadOff (d : List Byte) : Nat :=
  let tag := fun o => beAt d o 2 == 0x8100 || beAt d o 2 == 0x88A8
  if tag 12 then (if tag 16 then 22 else 18) else 14

/-- The neighbour of a port is removed (R166). -/
def nbrRemove (p : Nat) : Act :=
  .look fun s =>
    when (s.port p).nbr.isSome (acts [modPort p fun P => { P with nbr := none },
      postMsg wtLldpRx [BitVec.ofNat 32 p, 0], raisePe peLldpChange])

/-- The first TLV of a type. -/
def tlvGet (l : List (Nat × List Byte)) (t : Nat) : List Byte := match l.find? (·.1 == t) with | some x => tlv t x.2 | none => []

/-- TLVs after the first three of which nothing is kept, which are counted and discarded: all but the first Port Description, System Name
and Management Address. R290 gives no register the count, which stands in `PeS.tlvDrops` (log 181). -/
def tlvExtra (l : List (Nat × List Byte)) : Nat :=
  l.length - (([4, 5, 8] : List Nat).filter fun t => l.any (·.1 == t)).length

/-- An LLDPDU received on a port (R166): its first three TLVs are Chassis ID, Port ID and Time To Live. -/
def lldpRx (p : Nat) (d : List Byte) : Act :=
  .look fun s =>
    if !s.bit F.PE_LLDP_CFG_LLDP_RX_EN 0 || beAt d 0 6 != lldpMac then count 0x1B 33 3 1
    else
      match tlvs 256 (d.drop (payloadOff d)) with
      | (1, c) :: (2, q) :: (3, t) :: l =>
        if (l.any fun x => decide (1 ≤ x.1 ∧ x.1 ≤ 3)) || decide (t.length < 2) then count 0x1B 33 3 1
        else
          let ttl := beAt t 0 2
          let n := (tlv 1 c ++ tlv 2 q, tlvGet l 4 ++ tlvGet l 5 ++ tlvGet l 8, ttl)
          acts [modPe fun P => { P with tlvDrops := P.tlvDrops + tlvExtra l },
            if ttl = 0 then nbrRemove p
            else acts [modPort p fun P => { P with nbrAt := s.time.words },
              when (decide ((s.port p).nbr ≠ some n)) (acts [modPort p fun P => { P with nbr := some n },
                postMsg wtLldpRx [BitVec.ofNat 32 p, BitVec.ofNat 32 ttl], raisePe peLldpChange])]]
      | _ => count 0x1B 33 3 1

/-- LLDP_TTL_EXPIRE: the neighbour's TTL has passed since its last LLDPDU. -/
def lldpTtlExpire (p : Nat) : Act :=
  .look fun s =>
    match (s.port p).nbr with
    | none => .skip
    | some n => when (s.aged (s.port p).nbrAt (n.2.2 * 10 ^ 9)) (nbrRemove p)

/-- Interval to the next LLDPDU, ns: 1 s after each of the first three of a stay in UP. -/
def State.lldpNs (s : State) (p : Nat) : Nat :=
  if 0 < (s.port p).lldpFast then 10 ^ 9 else s.fld F.PE_LLDP_CFG_LLDP_TX_S 0 * 10 ^ 9

/-! ### BFD (R167, R168) -/

def Bfd.w (b : Bfd) (i : Nat) : Nat := (b.data.getD i 0).toNat
def Bfd.en (b : Bfd) : Bool := (b.w 0).testBit 31
def Bfd.multi (b : Bfd) : Bool := (b.w 0).testBit 30
def Bfd.v6 (b : Bfd) : Bool := (b.w 0).testBit 29
def Bfd.passive (b : Bfd) : Bool := (b.w 0).testBit 28
def Bfd.port (b : Bfd) : Nat := nbits (b.w 0) 16 9
def Bfd.mult (b : Bfd) : Nat := b.w 0 % 256
/-- An address of a session in network order. -/
def Bfd.addr (b : Bfd) (i : Nat) : List Byte :=
  if b.v6 then ((List.range 4).map fun k => beBytes 4 (b.w (i + k))).flatten else beBytes 4 (b.w i)

def bfdPort (multi : Bool) : Nat := if multi then 4784 else 3784

/-- A session changes its state: a message to Zolliwin and BFD_STATE (R167). -/
def bfdTo (k st diag : Nat) : Act :=
  .look fun s =>
    when (decide ((s.bfdS k).state ≠ st)) (acts [modBfd k fun b => { b with state := st, diag := diag },
      postMsg wtBfdRx [BitVec.ofNat 32 k, BitVec.ofNat 32 st, BitVec.ofNat 32 diag], raisePe peBfdState])

/-- The control packet of a session (RFC 5880): version 1, state, P and F, intervals; while the session is not Up the transmit
interval is at least 1 s. -/
def bfdPacket (k : Nat) (b : Bfd) (fin : Bool) : List Byte :=
  let flags := b.state * 64 + (if b.poll && !fin then 32 else 0) + (if fin then 16 else 0)
  let tx := if b.state = 3 then b.w 1 else max 1000000 (b.w 1)
  beBytes 1 (32 + b.diag % 32) ++ beBytes 1 flags ++ beBytes 1 b.mult ++ beBytes 1 24 ++ beBytes 4 (0x50000000 + k) ++
    beBytes 4 b.yourDisc.toNat ++ beBytes 4 tx ++ beBytes 4 (b.w 2) ++ beBytes 4 0

/-- The interval at which a session sends, µs: the greater of its own, at least 1 s unless Up, and the remote Required Min RX Interval. -/
def Bfd.txUs (b : Bfd) : Nat := max (if b.state = 3 then b.w 1 else max 1000000 (b.w 1)) b.rrx

/-- The detection time, µs. -/
def Bfd.detectUs (b : Bfd) : Nat := b.rmult * max (b.w 2) b.rtx

/-- A session sends a packet on its service port. -/
def bfdSend (k : Nat) (fin : Bool) : Act :=
  .look fun s =>
    let b := s.bfdS k
    let mac := b.w 13 % 65536 * 2 ^ 32 + b.w 12
    peSend b.port qCtl (udpFrame mac s.pe.baseMac (b.w 3 % 4096) b.v6 (b.addr 4) (b.addr 8) 255 (b.w 3 / 65536) (bfdPort b.multi)
      (bfdPacket k b fin)) {}

/-- BFD transmission due (R167, R168): an enabled session sends, unless it is passive and has heard nothing, or the remote system wants no
packets; a session taken to AdminDown sends its last packets. -/
def bfdTx (k : Nat) : Act :=
  .look fun s =>
    let b := s.bfdS k
    if b.en then when (!(b.passive && b.yourDisc == 0) && b.rrx != 0) (bfdSend k false)
    else when (decide (0 < b.down)) (acts [bfdSend k false, modBfd k fun b => { b with down := b.down - 1 }])

/-- A WRITE of a session takes effect at its service port's visit (R168): Down, or AdminDown; a session in Up of which only the intervals
change stays Up and runs a poll sequence (log 28). -/
def bfdApply (k : Nat) : Act :=
  .look fun s =>
    let b := s.bfdS k
    match b.pendWr with
    | none => .skip
    | some ws =>
      let n : Bfd := { b with data := ws, pendWr := none }
      let same : Bool := b.en && n.en && b.state == 3 && decide ((b.data.set 1 0).set 2 0 = (ws.set 1 0).set 2 0)
      if same then modBfd k fun _ => { n with poll := b.poll || decide (b.w 1 ≠ n.w 1 ∨ b.w 2 ≠ n.w 2) }
      else
        acts [modBfd k fun _ => { n with poll := false, rstate := if n.en then 1 else 0, rmult := 0, yourDisc := 0,
                                         rtx := 0, rrx := 1,
                                         down := if b.en && !n.en then n.mult else if n.en then 0 else b.down },
          bfdTo k (if n.en then 1 else 0) (if n.en then 0 else 7)]

/-- The session a received packet belongs to (R167). -/
def State.bfdMatch (s : State) (p : Nat) (multi : Bool) (yd src : Nat) (v6 : Bool) : Option Nat :=
  if yd = 0 then
    (s.bfd.find? fun e => e.2.en && e.2.port == p && e.2.multi == multi && e.2.v6 == v6 && beNat (e.2.addr 8) == src).map (·.1)
  else if 0x50000000 ≤ yd ∧ yd < 0x50001000 ∧ (s.bfdS (yd - 0x50000000)).en ∧ (s.bfdS (yd - 0x50000000)).multi = multi then
    some (yd - 0x50000000)
  else none

/-- A BFD control packet received on a port (R167; RFC 5880, 6.8.6). -/
def bfdRx (p : Nat) (P : Parsed) (d : List Byte) : Act :=
  .look fun s =>
    let o := P.l4off.getD 0 + 8
    let multi := P.dport == 4784
    let ttl := match P.l3off with | some l => beAt d (l + (if P.isIp6 then 7 else 8)) 1 | none => 0
    let b1 := beAt d (o + 1) 1
    let yd := beAt d (o + 8) 4
    let myd := beAt d (o + 4) 4
    let st := b1 / 64
    let good : Bool := decide (o + 24 ≤ d.length ∧ beAt d o 1 / 32 = 1 ∧ b1 / 2 % 2 = 0 ∧ b1 / 4 % 2 = 0 ∧ b1 % 2 = 0 ∧
      beAt d (o + 2) 1 ≠ 0 ∧ 24 ≤ beAt d (o + 3) 1 ∧ beAt d (o + 3) 1 + 8 ≤ beAt d (o - 4) 2 ∧ myd ≠ 0 ∧ (multi = true ∨ ttl = 255) ∧ (yd ≠ 0 ∨ st ≤ 1))
    match (if good then s.bfdMatch p multi yd P.src P.isIp6 else none) with
    | none => count 0x1B 33 2 1
    | some k =>
      let b := s.bfdS k
      acts [modBfd k fun b => { b with
          rstate := st, rmult := beAt d (o + 2) 1, yourDisc := BitVec.ofNat 32 myd, poll := b.poll && !b1.testBit 4
          rtx := beAt d (o + 12) 4, rrx := beAt d (o + 16) 4, heardAt := s.time.words },
        (if b.state = 0 then .skip
         else if st = 0 then bfdTo k 1 3
         else if b.state = 1 then (if st = 1 then bfdTo k 2 0 else when (st == 2) (bfdTo k 3 0))
         else if b.state = 2 then when (decide (2 ≤ st)) (bfdTo k 3 0)
         else when (st == 1) (bfdTo k 1 3)),
        when (b1.testBit 5) (bfdSend k true)]

/-- BFD_DETECT_EXPIRE: the detection time has passed without a packet; a work item of the service port (R163, R167). -/
def bfdDetectExpire (k : Nat) : Act :=
  .look fun s =>
    let b := s.bfdS k
    when (decide (2 ≤ b.state) && s.aged b.heardAt (b.detectUs * 1000)) (postWork b.port wtBfdExpire k 0)

/-- Detection has expired (R167; RFC 5880, 6.8.4). -/
def bfdExpired (k : Nat) : Act :=
  .look fun s =>
    when (decide (2 ≤ (s.bfdS k).state)) (acts [modBfd k fun b => { b with yourDisc := 0, rstate := 1, rrx := 1 }, bfdTo k 1 1])

/-- Zolliwin writes again the sessions that a soft reset of the engine has cleared (R168). -/
def bfdRewrite : Act :=
  .look fun s => each (s.bfd.filter fun e => e.2.data.isEmpty && !e.2.zol.isEmpty && e.2.pendWr.isNone) fun e =>
    modBfd e.1 fun b => { b with pendWr := some b.zol }

/-! ### ESMC (R260) -/

/-- The enhanced SSM code of a received PDU; 0xFF where it has none. -/
def esmcEnh (d : List Byte) : Nat :=
  let o := payloadOff d + 10
  if o + 8 ≤ d.length ∧ beAt d (o + 4) 1 = 2 then beAt d (o + 7) 1 else 0xFF

/-- The QL of a received PDU: an enhanced TLV goes before the QL TLV (log 30). -/
def esmcQl (opt : Nat) (d : List Byte) : Nat :=
  let ql := beAt d (payloadOff d + 13) 1 % 16
  let e := esmcEnh d
  if e = 0x20 ∨ e = 0x21 ∨ e = 0x23 then (if opt = 0 then 2 else 1) else if e = 0x22 then (if opt = 0 then 0xB else 0xA) else ql

/-- The enhanced code transmitted: the selected port's; of an own QL of EEC quality the code of an eEEC (log 30). -/
def State.enhTx (s : State) : Nat :=
  if (s.dpll = dpLocking ∨ s.dpll = dpLocked) ∧ s.dpllSel ≠ 0 then
    (if 3 ≤ s.dpllSel then (s.port (s.recPort s.dpllSel)).esmcE else 0xFF)
  else if s.qlTx = (if s.fld F.TIME_DPLL_QL_QL_OPT 0 = 0 then 0xB else 0xA) then 0x22 else 0xFF

/-- The PDU a port sends: DNU towards the selected input, else the QL transmitted. -/
def State.esmcPdu (s : State) (p : Nat) (event : Bool) : List Byte :=
  let dnu : Bool := s.dnuPort == some p
  let ql := if dnu then qlDnu else s.qlTx
  ethHdr 0x0180C2000002 s.pe.baseMac 0 0x8809 ++ [0x0A#8] ++ beBytes 3 0x0019A7 ++ beBytes 2 1 ++ [if event then 0x18#8 else 0x10#8] ++
    beBytes 3 0 ++ [1#8] ++ beBytes 2 4 ++ beBytes 1 ql ++ [2#8] ++ beBytes 2 0x14 ++ beBytes 1 (if dnu then 0xFF else s.enhTx) ++
    beBytes 8 Config.clockIdentity ++ beBytes 8 0

/-! ### Tallies (R267) -/

def State.tallyPorts (s : State) : Nat × Nat :=
  let w := (s.time.routes.getD 0 0).toNat
  (nbits w 16 9, nbits w 0 9)

/-- The port by which parts go now. -/
def State.tallyRoute (s : State) : Option Nat :=
  let r := s.tallyPorts
  if s.isUp r.1 then some r.1 else if s.isUp r.2 then some r.2 else none

/-- A part in its datagram. -/
def State.tallyFrame (s : State) (primary : Bool) (pay : List Byte) : List Byte :=
  let w := fun i => (s.time.routes.getD i 0).toNat
  let mac := fun i : Nat => w (i + 1) % 65536 * 2 ^ 32 + w i
  let v6 := (w 0).testBit 0
  let addr := fun i : Nat => if v6 then ((List.range 4).map fun k => beBytes 4 (w (i + k))).flatten else beBytes 4 (w i)
  udpFrame (if primary then mac 1 else mac 3) s.pe.baseMac (w 5 % 4096) v6 (addr 6) (addr 10) 64 (w 14 / 65536) (w 14 % 65536) pay

/-- The part that is due leaves; the last one raises TALLY_SENT. -/
def tallyTx (p : Nat) : Act :=
  .look fun s =>
    match s.time.tallyParts with
    | [] => .skip
    | (i, pay) :: rest =>
      acts [peSend p qCtl (s.tallyFrame (p == s.tallyPorts.1) pay) {}, modTime fun t => { t with tallyParts := rest },
        when (decide (beAt pay 3 1 = i + 1)) (raisePe peTallySent)]

/-- With neither port UP the remaining parts of a tally are not sent. -/
def tallyFail : Act :=
  .look fun s =>
    when (!s.time.tallyParts.isEmpty && s.tallyRoute.isNone) (acts [
      modTime fun t =>
        let h := t.tallyParts.headD (0, [])
        { t with tallyParts := t.tallyParts.drop (beAt h.2 3 1 - h.1) },
      raisePe peTallyFail])

/-! ### A visit (R161 to R163) -/

/-- The protocol engine's buffer of a frame. -/
def State.peBuf (s : State) (fid : Nat) : Option Buf :=
  (s.bufs.find? fun b => b.2.st != 0 && b.2.ownQ == 9 && b.2.frame.fid == fid).map (·.2)

/-- Frames of the receive queue that were terminated before or after their buffer leave it: a bad FCS terminates a frame. -/
def rxPrune (p : Nat) : Act :=
  .look fun s =>
    let bad := fun fid => match s.peBuf fid with
      | some b => b.frame.lastIn && !b.frame.fcsOk
      | none => (s.packet fid).isNone
    acts [each ((s.port p).rxq.filter fun x => bad x.2) fun x => peFreeFrame x.2,
      modPort p fun P => { P with rxq := P.rxq.filter fun x => !bad x.2 }]

/-- The oldest frame of a work type whose last byte is in. -/
def State.rxReady (s : State) (p ty : Nat) : Option (Nat × Buf) :=
  (s.port p).rxq.findSome? fun x =>
    if x.1 == ty then (s.peBuf x.2).bind fun b => if b.frame.lastIn then some (x.2, b) else none else none

/-- Whether a port has pending work of a type. -/
def State.hasWork (s : State) (p ty : Nat) : Bool :=
  ((s.port p).work.any fun w => w.1 == ty) || (s.rxReady p ty).isSome ||
    (ty == wtTallyTx && !s.time.tallyParts.isEmpty && s.tallyRoute == some p)

/-- Work types whose items are frames. -/
def isRxType (ty : Nat) : Bool := [0, wtPtpEvent, wtPtpGeneral, wtBfdRx, wtLldpRx, wtEsmcRx, wtException].contains ty

/-- The effect of the engine's own routine for a received frame; none where no routine of its own terminates it. -/
def rxRoutine (p ty : Nat) (b : Buf) : Act :=
  let f := b.frame
  if ty = wtPtpEvent ∨ ty = wtPtpGeneral then acts [ptpRx p b.pkt f, peFreeFrame f.fid]
  else if ty = wtBfdRx then acts [bfdRx p b.pkt f.data, peFreeFrame f.fid]
  else if ty = wtLldpRx then acts [lldpRx p f.data, peFreeFrame f.fid]
  else if ty = wtEsmcRx then
    .look fun s => acts [when (s.bit F.TIME_PORT_PTP_ESMC_EN p) (esmcReceive p (esmcQl (s.fld F.TIME_DPLL_QL_QL_OPT 0) f.data) (esmcEnh f.data)), peFreeFrame f.fid]
  else if ty = wtException then .look fun s => d2hDeliver (s.fld F.DMA_CFG_EXC_Q 0) 1 f
  else d2hDeliver (b.chgPrio % 8) 0 f

/-- The effect of the engine's own routine for a work item that is no frame. -/
def itemRoutine (p ty idx : Nat) : Act :=
  if ty = wtPortState then postMsg wtPortState [BitVec.ofNat 32 p, BitVec.ofNat 32 idx]
  else if ty = wtBfdExpire then bfdExpired idx
  else if ty = wtPtpTx then ptpTx p idx
  else if ty = wtBfdTx then bfdTx idx
  else if ty = wtLldpTx then .look fun s => when (s.bit F.PE_LLDP_CFG_LLDP_TX_EN 0) (peSend p qCtl (s.lldpdu p) {})
  else if ty = wtEsmcTx then .look fun s => when (s.bit F.TIME_PORT_PTP_ESMC_EN p) (peSend p qCtl (s.esmcPdu p (idx == 1)) {})
  else if ty = wtTallyTx then tallyTx p
  else .skip

/-- Start a patched routine on the engine for an item (R137, R150). MD1 holds the flags that the item was posted with, for which R137
gives no bits; a received frame has flags 0 and item index 0, by the model's choice (log 185). -/
def peStart (p ty fid idx flags : Nat) (f : Frame) (P : Parsed) : Act :=
  acts [modPe fun e => { e with curPort := p, curType := ty },
    modEng .pe fun g => { g with
      fid := fid, hdrIn := f.data.take 256, itime := BitVec.ofNat 32 (nsField f.tIn)
      md0 := BitVec.ofNat 32 (ty % 64 * 2 ^ 26 + p % 512 * 2 ^ 17 + idx % 2 ^ 17), md1 := BitVec.ofNat 32 flags
      conds := 0, offs := baseOffs P none },
    startRoutine .pe ty]

/-- Whether the routine of a work type is the ROM's own: its dispatch entry holds the ROM default, and every trap of a ROM address leads
to the same word, as the repair of R157 makes it (log 42). -/
def State.romRoutine (s : State) (ty : Nat) : Bool :=
  let m := s.pe.mc
  dispIn m.disp true ty == dispEntry (Config.romDispatch true ty) &&
    m.trap.all fun e => !trapValid e.2 || m.word true (trapTo e.2) == m.word true (trapFrom e.2)

/-- The effect of a ROM routine on the frame or the item it was started for. -/
def romEffect (p ty fid idx : Nat) : Act :=
  .look fun s =>
    if isRxType ty then (match s.peBuf fid with | some b => rxRoutine p ty b | none => .skip) else itemRoutine p ty idx

/-- A ROM routine starts. Where an upset has reached a word of it, that word fails its parity, or is flagged already; the engine is held on
it, and the routine goes on after RESUME (R155, R159). -/
def romStart (p ty fid idx : Nat) : Act :=
  .look fun s =>
    let hold := modPe fun P => { P with romWork := some (p, ty, fid, idx) }
    acts [when (ty != 0) (count 0x1B 32 0 1),
      match s.pe.romUp with
      | none => romEffect p ty fid idx
      | some (a, g) =>
        if isRam a || ty == 0 then romEffect p ty fid idx
        else acts [modPe fun P => { P with romUp := none },
          if s.pe.mc.bad.contains a then acts [modEng .pe fun e => { e with held := some (BitVec.ofNat 13 a) }, hold]
          else acts [parityCheck .pe 0 a g, hold]]]

/-- Run the routine of a work type for a port: the ROM's own, or the one that a patch has put in its place (R134, R163). A received frame
has item index 0 and flags 0, which the spec does not number (log 185). -/
def runWork (p ty : Nat) : Act :=
  .look fun s =>
    let rom := s.romRoutine ty
    if isRxType ty then
      match s.rxReady p ty with
      | none => .skip
      | some (fid, b) =>
        acts [modPort p fun P => { P with rxq := P.rxq.filter fun x => x.2 != fid },
          if rom || ty == 0 then romStart p ty fid 0 else peStart p ty fid 0 0 b.frame b.pkt]
    else
      let w := ((s.port p).work.find? fun w => w.1 == ty).getD (ty, 0, 0)
      acts [modPort p fun P => { P with work := P.work.eraseP fun w => w.1 == ty },
        if rom then romStart p ty 0 w.2.1
        else acts [.upd .fid, peStart p ty s.fidNext w.2.1 w.2.2 { tIn := s.now16 } {}]]

/-- A port slot's visit: pending BFD writes take effect, then the highest-ranked work runs (R163, R168). The visit that a QT clearance has
waited for is marked (R220). -/
def portVisit (p : Nat) : Act :=
  .look fun s =>
    acts [each (s.bfd.filter fun e => e.2.pendWr.isSome && nbits ((e.2.pendWr.getD []).headD 0).toNat 16 9 == p) fun e => bfdApply e.1,
      when ((s.port p).qtClosed && (s.port p).qtAt.isNone) (modPort p fun P => { P with qtAt := some s.time.words, qtPost := none }),
      rxPrune p,
      .look fun s =>
        match workRanks.find? (s.hasWork p) with
        | none => .skip
        | some ty => runWork p ty]

/-- WHEEL_POSITION (R161 to R164): 320 ns after the last one the wheel enters its next position. It stands while the engine is held or
still runs; a ROM routine that was held goes on first. -/
def wheelPosition : Act :=
  .look fun s =>
    when (s.peRuns && s.pe.eng.held.isNone && s.pe.eng.idle && s.aged s.pe.posAt 320) (
      let i := s.pe.pos
      let g := i / 33
      let j := i % 33
      acts [modPe fun P => { P with pos := (i + 1) % 528, cur := i, posAt := s.time.words, romWork := none },
        (match s.pe.romWork with | some (p, ty, fid, idx) => romEffect p ty fid idx | none => .skip), tallyFail,
        if j = 32 then hostSlot g else portVisit (s.portOfLane (32 * g + j)), unitReport 86])

/-- Interval of the engine's own timer for a transmission, ns; none where it has none. A BFD session takes up to 25 % off its interval. -/
def State.txNs (s : State) (p ty idx : Nat) : Option Nat :=
  if ty = wtPtpTx then s.ptpNs p idx
  else if ty = wtBfdTx then (if (s.bfdS idx).port = p then some ((s.bfdS idx).txUs * 750) else none)
  else if ty = wtLldpTx then some (s.lldpNs p)
  else if ty = wtEsmcTx ∧ idx = 0 then some (10 ^ 9)
  else none

/-- Whether the time of a transmission has come: that of a timer which microcode has armed, or of the engine's own (R141, R163). -/
def State.txTime (s : State) (p ty idx : Nat) : Bool :=
  match s.pe.timers.find? (·.1 == idx) with
  | some t => !s.time.running || decide (t.2 ≤ s.nowNs)
  | none => match s.txNs p ty idx with
    | some n => s.aged (if ty = wtBfdTx then (s.bfdS idx).txAt else tabGet (s.port p).txAt 0 (txKey ty idx)) n
    | none => false

/-- PE_TIMER_EXPIRE (R141, R163): a timer of the engine expires, and the transmission it stands for is due. -/
def peTimerExpire (p ty idx : Nat) : Act :=
  .look fun s =>
    when (s.isUp p && decide (6 ≤ ty ∧ ty ≤ 9) && s.txTime p ty idx) (acts [
      modPe fun P => { P with timers := P.timers.filter fun t => t.1 != idx },
      if ty = wtBfdTx then modBfd idx fun b => { b with txAt := s.time.words }
      else modPort p fun P => { P with
        txAt := tabPut P.txAt 0 (txKey ty idx) s.time.words, lldpFast := if ty = wtLldpTx then P.lldpFast - 1 else P.lldpFast },
      postWork p ty idx 0])

def execWheelPosition (s : State) := ok wheelPosition s
def execPeTimerExpire (p : Fin 512) (ty : Fin 16) (idx : Nat) (s : State) := ok (coreDo (peTimerExpire p ty idx)) s
def execLldpTtlExpire (p : Fin 512) (s : State) := ok (coreDo (lldpTtlExpire p)) s
def execBfdDetectExpire (k : Fin 4096) (s : State) := ok (coreDo (bfdDetectExpire k)) s

end Sys2Proof.Machine
end

