-- ==== Sys2Proof/Machine/Sec.lean ====
section
/-!
DEFINITION. Machine/Sec.lean: the security block (R387 to R410): burns of OTP, the entropy source, the lock, and the SPDM responder.
The message formats and error codes are those of SPDM 1.3 (DSP0274), which the spec cites; octets that only a key can make are free.
-/
namespace Sys2Proof.Machine

/-! ### OTP (R389 to R392) -/

def burnOwnerOp : Nat := 1
def burnSvnOp : Nat := 2
def burnRevokeOp : Nat := 3

def State.secBusy (s : State) : Bool := s.bit F.SEC_STATUS_BUSY 0

/-- A burn starts. -/
def burnStart (op x : Nat) : Act := acts [modSec fun c => { c with otpOp := some (op, x) }, setB F.SEC_STATUS_BUSY 0 true]

/-- The burn in progress ends. -/
def burnEnd : Act := acts [modSec fun c => { c with otpOp := none }, setB F.SEC_STATUS_BUSY 0 false]

/-- BURN_OWNER (R390). -/
def burnOwner (req : Req) (value : Word) : Act :=
  onSecWrite req .SEC_OTP_CTL 0 fun rq =>
    when (value.getLsbD 31) (.look fun s =>
      if s.otp.ownerHash.isSome || s.otp.fieldsUsed == 2 then lockedWrite rq (regAddr .SEC_OTP_CTL 0)
      else if s.secBusy || s.nvm.slot == 2 || s.opMode == modeShutters then reject3 .sec rq .SEC_OTP_CTL 0
      else burnStart burnOwnerOp 0)

/-- OTP_BURN_DONE (R390): the field reads back good or bad; a bad one sends the burn to the other field, if that is erased. -/
def otpBurnDone (good : Bool) : Act :=
  .look fun s =>
    when (s.sec.otpOp == some (burnOwnerOp, 0)) (
      let a := s.otp.fieldA = 0
      let h := s.sec.ownerHash
      if good then
        acts [.upd (.burn (if a then { s.otp with fieldA := 1, hashA := h } else { s.otp with fieldB := 1, hashB := h })),
          burnEnd, raise F.SEC_EVT_CAUSE_OTP_BURNED 0]
      else
        acts [.upd (.burn (if a then { s.otp with fieldA := 2 } else { s.otp with fieldB := 2 })),
          .look fun s => when (s.otp.fieldsUsed == 2) (acts [burnEnd, raise F.SEC_EVT_CAUSE_OTP_BURN_FAIL 0])])

/-- REVOKE (R392): bits of revoked keys are write-once registers that have been written. -/
def revoke (req : Req) (value : Word) : Act :=
  onSecWrite req .SEC_OTP_CTL 0 fun rq =>
    .look fun s =>
      let ns := (List.range 4).filter fun n => value.getLsbD n
      let old := ns.filter s.otp.revoked
      let new := ns.filter fun n => !s.otp.revoked n
      acts [when (!old.isEmpty) (lockedWrite rq (regAddr .SEC_OTP_CTL 0)),
        when (!new.isEmpty)
          (if s.nvm.slot != 2 && new.contains (s.fld F.SEC_STATUS_KEY_ID 0) then reject .sec rq (regAddr .SEC_OTP_CTL 0) 4 0
           else if s.secBusy then reject3 .sec rq .SEC_OTP_CTL 0
           else burnStart burnRevokeOp (new.map (2 ^ ·)).sum)]

/-- REVOKE_BURN_DONE (R392): both fuses of each pair are burned. -/
def revokeBurnDone : Act :=
  .look fun s =>
    match s.sec.otpOp with
    | some (3, m) =>
      acts [.upd (.burn { s.otp with revoke := s.otp.revoke ||| BitVec.ofNat 8 (((List.range 4).filter fun n => m.testBit n).map fun n => 3 * 4 ^ n).sum }),
        burnEnd]
    | _ => .skip

/-- The SVN counter of a kind, and the SVN of the item of that kind in use (R391). -/
def State.svnOf (s : State) (kind : Nat) : Nat :=
  svnCount (if kind = 1 then s.otp.svnFw else if kind = 2 then s.otp.svnPatch else s.otp.svnImage)
def State.svnInUse (s : State) (kind : Nat) : Nat :=
  if kind = 1 then s.sec.fwSvn else if kind = 2 then s.sec.patchSvn else s.sec.imageSvn

/-- SVN_ADVANCE (R391). -/
def svnAdvance (req : Req) (value : Word) : Act :=
  onSecWrite req .SEC_SVN_CTL 0 fun rq =>
    when (value.getLsbD 31) (.look fun s =>
      let kind := bits value 24 2
      let v := bits value 0 7
      if s.secBusy || !s.mode.started then reject3 .sec rq .SEC_SVN_CTL 0
      else if kind = 0 ∨ 64 < v ∨ s.svnInUse kind < v then reject .sec rq (regAddr .SEC_SVN_CTL 0) 4 0
      else when (decide (s.svnOf kind < v)) (burnStart burnSvnOp (kind * 128 + v)))

/-- The fuses of a counter with its fuses below `v` set. -/
def svnFuses (o : OtpS) (kind v : Nat) : OtpS :=
  let x : BitVec 64 := BitVec.ofNat 64 (2 ^ v - 1)
  if kind = 1 then { o with svnFw := o.svnFw ||| x } else if kind = 2 then { o with svnPatch := o.svnPatch ||| x } else { o with svnImage := o.svnImage ||| x }

/-- SVN_BURN_DONE (R391). -/
def svnBurnDone : Act :=
  .look fun s =>
    match s.sec.otpOp with
    | some (2, m) => acts [.upd (.burn (svnFuses s.otp (m / 128) (m % 128))), burnEnd, raise F.SEC_EVT_CAUSE_SVN_ADVANCED 0]
    | _ => .skip

/-- CFG_LOCK (R406): a secure write of 1 sets the lock bit. -/
def cfgLockSet (req : Req) (value : Word) : Act :=
  onSecWrite req .SEC_LOCK 0 fun _ => when (value.getLsbD 0) (setB F.SEC_LOCK_CFG_LOCK 0 true)

/-! ### Entropy (R399) -/

/-- The entropy source is in service. -/
def State.entropyOk (s : State) : Bool := s.bit F.SEC_STATUS_ENTROPY_OK 0

/-- BOOT_ID is drawn, once a start. -/
def drawBootId : Act :=
  .look fun s => when s.sec.bootId.isNone (draw fun k => modSec fun c => { c with bootId := some (BitVec.ofNat 64 k) })

/-- The security block runs: the start is complete, and no soft reset holds it. -/
def State.secRuns (s : State) : Bool := s.clk.step == 11 && !s.clk.soft.contains unitSec

/-- The block shows what its source is, as it comes into service: BOOT_ID is drawn from a good one; a failed one is reported. -/
def entropyShow : Act :=
  .look fun s => if s.sec.entropyBad then raise F.SEC_EVT_CAUSE_ENTROPY_FAIL 0 else acts [setB F.SEC_STATUS_ENTROPY_OK 0 true, drawBootId]

/-- ENTROPY_FAIL: a health test fails, also before step 2 of R395, which then draws no BOOT_ID. -/
def entropyFail : Act :=
  .look fun s => acts [modSec fun c => { c with entropyBad := true, entropyAt := s.time.words },
    when (s.secRuns && s.entropyOk) (acts [setB F.SEC_STATUS_ENTROPY_OK 0 false, raise F.SEC_EVT_CAUSE_ENTROPY_FAIL 0])]

/-- ENTROPY_RECOVER: 1 s of passing tests. -/
def entropyRecover : Act :=
  .look fun s => when (s.sec.entropyBad && s.aged s.sec.entropyAt 1000000000) (acts [modSec fun c => { c with entropyBad := false },
    when s.secRuns entropyShow])

/-! ### Sessions (R404, R405) -/

/-- SESSIONS and SECURE_SESSION follow the sessions. -/
def sessSync : Act :=
  .look fun s =>
    acts [setF F.SEC_STATUS_SESSIONS 0 (s.sec.sess.filter (·.open_)).length, setB F.SEC_STATUS_SECURE_SESSION 0 (s.sec.sess.any (·.secure))]

/-- Sessions chosen by `p` end. -/
def sessEnd (p : Session → Bool) : Act :=
  .look fun s =>
    acts [modSec fun c => { c with sess := c.sess.filter fun x => !p x }, sessSync,
      when (s.sec.sess.any fun x => p x && x.open_) (raise F.SEC_EVT_CAUSE_SESSION_END 0)]

/-- SECURE_SESSION_EN has been written 0: every secure session goes on as a non-secure one (R405). -/
def secCfgWrite (rq : Req) (value : Word) : Act :=
  acts [writeFields rq .SEC_CFG 0 value,
    .look fun s => when (!s.bit F.SEC_CFG_SECURE_SESSION_EN 0)
      (acts [modSec fun c => { c with sess := c.sess.map fun x => { x with secure := false } }, sessSync])]

/-- SESSION_HEARTBEAT_TIMEOUT (R405): 20 s without a message of the session. -/
def sessionHeartbeatTimeout (sid : Nat) : Act :=
  .look fun s => sessEnd fun x => x.sid == sid && s.aged x.last 20000000000

/-! ### Keys and certificates (R393, R401, R402) -/

/-- A DER value: tag, length, contents. -/
def der (tag : Nat) (l : List Byte) : List Byte :=
  let n := l.length
  beBytes 1 tag ++ (if n < 128 then beBytes 1 n else if n < 256 then 0x81 :: beBytes 1 n else 0x82 :: beBytes 2 n) ++ l

def derSeq (l : List (List Byte)) : List Byte := der 0x30 l.flatten
def derOid (l : List Nat) : List Byte := der 0x06 (asc l)

/-- A non-negative INTEGER, in the fewest octets. -/
def derNat (n : Nat) : List Byte :=
  let l := beBytes (Nat.log2 n / 8 + 1) n
  der 0x02 (if 0x80 ≤ (l.headD 0).toNat then 0 :: l else l)

/-- A BIT STRING of whole octets. -/
def derBits (l : List Byte) : List Byte := der 0x03 (0 :: l)

/-- Algorithm identifier id-ml-dsa-87 (R387). -/
def derMlDsa : List Byte := derSeq [derOid [0x60, 0x86, 0x48, 0x01, 0x65, 0x03, 0x04, 0x03, 0x13]]

/-- UID as 16 upper-case hex digits. -/
def State.uidHex (s : State) : List Byte := ((beBytes 8 s.otp.uid.toNat).map fun b => hex2 b.toNat).flatten

/-- A Name of R401: CN and serialNumber. -/
def State.certName (s : State) (cn : List Nat) : List Byte :=
  derSeq [der 0x31 (derSeq [derOid [0x55, 0x04, 0x03], der 0x0C (asc cn)]), der 0x31 (derSeq [derOid [0x55, 0x04, 0x05], der 0x13 s.uidHex])]

/-- `Henura SB1024 DID` and `Henura SB1024 AK`. -/
def cnDid : List Nat := [72, 101, 110, 117, 114, 97, 32, 83, 66, 49, 48, 50, 52, 32, 68, 73, 68]
def cnAk : List Nat := [72, 101, 110, 117, 114, 97, 32, 83, 66, 49, 48, 50, 52, 32, 65, 75]

/-- 19700101000000Z to 99991231235959Z. -/
def derValidity : List Byte :=
  derSeq [der 0x18 (asc [49, 57, 55, 48, 48, 49, 48, 49, 48, 48, 48, 48, 48, 48, 90]),
    der 0x18 (asc [57, 57, 57, 57, 49, 50, 51, 49, 50, 51, 53, 57, 53, 57, 90])]

/-- A critical extension. -/
def derExt (oid : List Nat) (l : List Byte) : List Byte := derSeq [derOid oid, asc [0x01, 0x01, 0xFF], der 0x04 l]

/-- basicConstraints and keyUsage of the two certificates. -/
def certExts (ca : Bool) : List Byte :=
  der 0xA3 (derSeq [derExt [0x55, 0x1D, 0x13] (if ca then derSeq [asc [0x01, 0x01, 0xFF], derNat 0] else derSeq []),
    derExt [0x55, 0x1D, 0x0F] (asc (if ca then [0x03, 0x02, 0x02, 0x04] else [0x03, 0x02, 0x07, 0x80]))])

/-- A certificate of R401 in DER, X.509 v3, signed with the DID: serial number, CN of the subject, its public key, CA or not, random
octets of the signature. -/
def State.cert (s : State) (serial : Nat) (cn : List Nat) (key : List Byte) (ca : Bool) (rnd : BitVec 256) : List Byte :=
  let tbs := derSeq [der 0xA0 (derNat 2), derNat serial, derMlDsa, s.certName cnDid, derValidity, s.certName cn,
    derSeq [derMlDsa, derBits key], certExts ca]
  derSeq [tbs, derMlDsa, derBits (sliceB (Config.signPure s.didXi tbs rnd) 0 4627)]

def State.didCert (s : State) : List Byte := s.cert s.otp.uid.toNat cnDid (publicKey s.didXi) true s.sec.certRnd.1
def State.akCert (s : State) : List Byte :=
  s.cert (s.otp.uid.toNat * 2 ^ 32 + s.sec.fwSvn) cnAk (publicKey s.akXi) false s.sec.certRnd.2

/-- The certificates of slot 0: the DID certificate alone until the attestation key exists. -/
def State.certs (s : State) : List Byte := s.didCert ++ (if s.sec.akOk then s.akCert else [])

/-- The chain of slot 0 as SPDM carries it: length, reserved, digest of the root, certificates. -/
def State.certChain (s : State) : List Byte := leBytes 2 (68 + s.certs.length) ++ [0, 0] ++ digestBytes (Config.sha3 s.didCert) ++ s.certs

def State.chainHash (s : State) : List Byte := digestBytes (Config.sha3 s.certChain)

/-- DMTF measurement type of SPDM index `i + 1` (R397). -/
def measType (i : Nat) : Nat := if i = 0 then 0 else if i ≤ 2 then 1 else if i = 6 then 2 else 3

/-- A measurement block in digest form. -/
def State.measBlock (s : State) (i : Nat) : List Byte :=
  leBytes 1 (i + 1) ++ [1] ++ leBytes 2 67 ++ leBytes 1 (measType i) ++ leBytes 2 64 ++ digestBytes (tabGet s.sec.m 0 i)

def State.measBlocks (s : State) (l : List Nat) : List Byte := (l.map s.measBlock).flatten

/-- The measurement summary hash: none, TCB (M0 to M2) or all. -/
def State.measSummary (s : State) (ty : Nat) : List Byte :=
  if ty = 0 then [] else digestBytes (Config.sha3 (s.measBlocks (List.range (if ty = 1 then 3 else 8))))

/-! ### SPDM messages (R402, R403) -/

def ctxSpdm : List Byte := [72, 83, 45, 83, 80, 68, 77]

def spdmKey (t : Transport) : Nat := if t = .doe then 0 else 1

/-- DataTransferSize and MaxSPDMmsgSize. -/
def dataTransferSize : Nat := 4096
def maxSpdmMsg : Nat := 16384

def spInvalid : Nat := 0x01
def spUnexpected : Nat := 0x04
def spUnspecified : Nat := 0x05
def spDecrypt : Nat := 0x06
def spUnsupported : Nat := 0x07
def spSessLimit : Nat := 0x0A
def spSessReq : Nat := 0x0B
def spTooLarge : Nat := 0x0E
def spLarge : Nat := 0x0F
def spVersion : Nat := 0x41

/-- Header of a message of version 1.3. -/
def spdmHdr (code p1 p2 : Nat) : List Byte := [0x13, BitVec.ofNat 8 code, BitVec.ofNat 8 p1, BitVec.ofNat 8 p2]
def spdmError (code data : Nat) : List Byte := spdmHdr 0x7F code data

/-- Request codes of the supported messages. -/
def rqVersion : Nat := 0x84
def rqCapabilities : Nat := 0xE1
def rqAlgorithms : Nat := 0xE3
def rqDigests : Nat := 0x81
def rqCertificate : Nat := 0x82
def rqChallenge : Nat := 0x83
def rqMeasurements : Nat := 0xE0
def rqKeyExchange : Nat := 0xE4
def rqFinish : Nat := 0xE5
def rqHeartbeat : Nat := 0xE8
def rqKeyUpdate : Nat := 0xE9
def rqEndSession : Nat := 0xEC
def rqChunkSend : Nat := 0x85
def rqChunkGet : Nat := 0x86
def spdmSupported : List Nat := [rqVersion, rqCapabilities, rqAlgorithms, rqDigests, rqCertificate, rqChallenge, rqMeasurements, rqKeyExchange,
  rqFinish, rqHeartbeat, rqKeyUpdate, rqEndSession, rqChunkSend, rqChunkGet]

/-- Capability flags: CERT, CHAL, MEAS with signature, ENCRYPT, MAC, MUT_AUTH, KEY_EX, HBEAT, KEY_UPD, CHUNK. -/
def spdmCaps : Nat := 0x2 + 0x4 + 0x10 + 0x40 + 0x80 + 0x100 + 0x200 + 0x2000 + 0x4000 + 0x20000

/-- How far the negotiation on a transport has come. -/
def State.spdmVer (s : State) (t : Transport) : Nat := tabGet s.sec.ver 0 (spdmKey t)
def setVer (t : Transport) (n : Nat) : Act := modSec fun c => { c with ver := tabPut c.ver 0 (spdmKey t) n }

/-- The session a request came in. -/
def State.sessOf (s : State) (t : Transport) (x : SpdmIn) : Option Session :=
  match x.sid with
  | none => none
  | some n => s.sec.sess.find? fun y => y.sid == n && y.doe == (t == .doe)

def modSess (sid : Nat) (f : Session → Session) : Act :=
  modSec fun c => { c with sess := c.sess.map fun x => if x.sid = sid then f x else x }

/-- Octets that only the device's entropy or a key of the session makes. -/
def freeOctets (n : Nat) (k : List Byte → Act) : Act := draw fun d => k (sliceB (Config.freeBytes d) 0 n)

/-- A response that needs a fresh nonce (R399). -/
def withNonce (k : List Byte → Act) (rsp : List Byte → Act) : Act :=
  .look fun s => if s.entropyOk then freeOctets 32 k else rsp (spdmError spUnspecified 0)

/-- GET_VERSION: version 1.3 only. -/
def spVersionRsp (t : Transport) (rsp : List Byte → Act) : Act :=
  acts [setVer t 1, rsp [0x10, 0x04, 0, 0, 0, 1, 0x00, 0x13]]

/-- GET_CAPABILITIES. The time-out exponent is stated nowhere. -/
def spCapsRsp (t : Transport) (rsp : List Byte → Act) : Act :=
  acts [setVer t 2, freeOctets 1 fun e =>
    rsp (spdmHdr 0x61 0 0 ++ ([0] ++ e ++ [0, 0]) ++ leBytes 4 spdmCaps ++ leBytes 4 dataTransferSize ++ leBytes 4 maxSpdmMsg)]

/-- The extended algorithm of R403: PCI-SIG registry, vendor 0x1EF4, algorithm 0x0001 (log 191). -/
def extAlg : List Byte := [3, 0] ++ leBytes 2 0x1EF4 ++ leBytes 2 1

/-- The selection of R403 as ALGORITHMS carries it: measurement hash and base hash SHA3-512, no base asymmetric algorithm, the extended
one, and the tables of DHE, AEAD, the requester's asymmetric algorithm and the key schedule. -/
def algSelected : List Byte :=
  let body := [1, 2] ++ leBytes 4 0x40 ++ leBytes 4 0 ++ leBytes 4 0x20 ++ List.replicate 12 0 ++ [1, 0, 0, 0] ++ extAlg ++
    [2, 0x20] ++ leBytes 2 0x10 ++ [3, 0x20] ++ leBytes 2 2 ++ [4, 0x21] ++ leBytes 2 0 ++ extAlg ++ [5, 0x20] ++ leBytes 2 1
  leBytes 2 (6 + body.length) ++ body

/-- The algorithm tables of a request: type, fixed octets, extended algorithms. -/
def algTables (fuel : Nat) (l : List Byte) : List (Nat × Nat × List Byte) :=
  match fuel with
  | 0 => []
  | k + 1 =>
    let fixed := leAt l 1 1 / 16
    let n := 2 + fixed + 6 * (leAt l 1 1 % 16)
    (leAt l 0 1, leAt l 2 fixed, (l.take n).drop (2 + fixed)) :: algTables k (l.drop n)

/-- Whether a list of extended algorithms holds that of R403. -/
def hasExt (l : List Byte) : Bool := (List.range (l.length / 6)).any fun i => sliceB l (6 * i) 6 == extAlg

/-- Whether a NEGOTIATE_ALGORITHMS offers each algorithm of R403: base hash, extended asymmetric algorithm, DHE, AEAD, key schedule. -/
def algOffered (msg : List Byte) : Bool :=
  let a := leAt msg 28 1
  let tabs := algTables (leAt msg 2 1) (msg.drop (32 + 6 * a + 4 * leAt msg 29 1))
  let bit := fun ty b : Nat => tabs.any fun x => x.1 == ty && x.2.1.testBit b
  (leAt msg 12 4).testBit 5 && hasExt (sliceB msg 32 (6 * a)) && bit 2 4 && bit 3 1 && bit 5 0

/-- NEGOTIATE_ALGORITHMS (R403). -/
def spAlgRsp (t : Transport) (msg : List Byte) (rsp : List Byte → Act) : Act :=
  if algOffered msg then acts [setVer t 3, rsp (spdmHdr 0x63 4 0 ++ algSelected)] else rsp (spdmError spInvalid 0)

/-- What an SPDM 1.3 signature covers: the combined prefix of the standard with a context of its own, and the digest of the transcript
(R387). -/
def spdmSigned (role tr : List Byte) : List Byte :=
  (List.replicate 4 (asc [100, 109, 116, 102, 45, 115, 112, 100, 109, 45, 118, 49, 46, 51, 46, 42])).flatten ++
    List.replicate (36 - role.length) 0 ++ role ++ digestBytes (Config.sha3 tr)

/-- `responder-challenge_auth signing`, `responder-measurements signing` and `responder-key_exchange_rsp signing`. -/
def roleChallenge : List Byte := asc [114, 101, 115, 112, 111, 110, 100, 101, 114, 45, 99, 104, 97, 108, 108, 101, 110, 103, 101, 95, 97, 117, 116, 104, 32, 115, 105, 103, 110, 105, 110, 103]
def roleMeas : List Byte := asc [114, 101, 115, 112, 111, 110, 100, 101, 114, 45, 109, 101, 97, 115, 117, 114, 101, 109, 101, 110, 116, 115, 32, 115, 105, 103, 110, 105, 110, 103]
def roleKeyEx : List Byte := asc [114, 101, 115, 112, 111, 110, 100, 101, 114, 45, 107, 101, 121, 95, 101, 120, 99, 104, 97, 110, 103, 101, 95, 114, 115, 112, 32, 115, 105, 103, 110, 105, 110, 103]

/-- Key of the transcript of measurements, in a session or outside one. -/
def measKey (t : Transport) (x : SpdmIn) : Nat := 2 * (match x.sid with | none => 0 | some n => n + 1) + spdmKey t

/-- A request and its response enter the transcripts that SPDM 1.3 has them in. -/
def trNote (t : Transport) (x : SpdmIn) (msg l : List Byte) : Act :=
  let code := leAt msg 1 1
  let key := spdmKey t
  when (leAt l 1 1 != 0x7F) (modSec fun c =>
    if code = rqVersion then { c with trVca := tabPut c.trVca [] key (msg ++ l), trCert := tabPut c.trCert [] key [], trMeas := [] }
    else if code = rqCapabilities ∨ code = rqAlgorithms then { c with trVca := tabPut c.trVca [] key (tabGet c.trVca [] key ++ msg ++ l) }
    else if code = rqDigests ∨ code = rqCertificate then { c with trCert := tabPut c.trCert [] key (tabGet c.trCert [] key ++ msg ++ l) }
    else if code = rqChallenge then { c with trCert := tabPut c.trCert [] key [] }
    else if code = rqMeasurements ∧ leAt msg 2 1 % 2 = 0 then
      { c with trMeas := tabPut c.trMeas [] (measKey t x) (tabGet c.trMeas [] (measKey t x) ++ msg ++ l) }
    else { c with trMeas := tabPut c.trMeas [] (measKey t x) [] })

/-- GET_DIGESTS. -/
def spDigestsRsp (rsp : List Byte → Act) : Act := .look fun s => rsp (spdmHdr 0x01 1 1 ++ s.chainHash)

/-- GET_CERTIFICATE: a portion of the chain of slot 0. -/
def spCertRsp (msg : List Byte) (rsp : List Byte → Act) : Act :=
  .look fun s =>
    let off := leAt msg 4 2
    let n := min (leAt msg 6 2) (s.certChain.length - off)
    if leAt msg 2 1 % 16 ≠ 0 ∨ s.certChain.length ≤ off then rsp (spdmError spInvalid 0)
    else rsp (spdmHdr 0x02 0 0 ++ leBytes 2 n ++ leBytes 2 (s.certChain.length - off - n) ++ sliceB s.certChain off n)

/-- CHALLENGE. -/
def spChallengeRsp (t : Transport) (msg : List Byte) (rsp : List Byte → Act) : Act :=
  let ty := leAt msg 3 1
  if leAt msg 2 1 ≠ 0 ∨ !([0, 1, 255] : List Nat).contains ty then rsp (spdmError spInvalid 0)
  else withNonce (fun nonce => .look fun s =>
    let body := spdmHdr 0x03 0 1 ++ s.chainHash ++ nonce ++ s.measSummary ty ++ [0, 0] ++ sliceB msg 36 8
    let m1 := tabGet s.sec.trVca [] (spdmKey t) ++ tabGet s.sec.trCert [] (spdmKey t) ++ msg ++ body
    signed ctxSpdm (spdmSigned roleChallenge m1) fun sig => rsp (body ++ sig)) rsp

/-- GET_MEASUREMENTS: the number of blocks, one block or all, signed on request. -/
def spMeasRsp (t : Transport) (x : SpdmIn) (msg : List Byte) (rsp : List Byte → Act) : Act :=
  let i := leAt msg 3 1
  let wantSig : Bool := leAt msg 2 1 % 2 == 1
  if 8 < i ∧ i ≠ 255 then rsp (spdmError spInvalid 0)
  else withNonce (fun nonce => .look fun s =>
    let l := if i = 0 then [] else if i = 255 then List.range 8 else [i - 1]
    let recs := s.measBlocks l
    let body := spdmHdr 0x60 (if i = 0 then 8 else 0) 0 ++ leBytes 1 l.length ++ leBytes 3 recs.length ++ recs ++ nonce ++ [0, 0] ++
      sliceB msg (if wantSig then 37 else 4) 8
    let l1 := tabGet s.sec.trVca [] (spdmKey t) ++ tabGet s.sec.trMeas [] (measKey t x) ++ msg ++ body
    if wantSig then signed ctxSpdm (spdmSigned roleMeas l1) fun sig => rsp (body ++ sig) else rsp body) rsp

/-- KEY_EXCHANGE: at most 2 sessions on a transport; HeartbeatPeriod 10 s. -/
def spKeyExRsp (t : Transport) (msg : List Byte) (rsp : List Byte → Act) : Act :=
  .look fun s =>
    let ty := leAt msg 2 1
    if leAt msg 3 1 ≠ 0 ∨ !([0, 1, 255] : List Nat).contains ty then rsp (spdmError spInvalid 0)
    else if 2 ≤ (s.sec.sess.filter fun x => x.doe == (t == .doe)).length then rsp (spdmError spSessLimit 0)
    else withNonce (fun rnd => draw fun k => .look fun s =>
      let ids := (List.range 5).map fun i => leAt msg 4 2 + (k + i) % 65536 * 65536
      let sid := (ids.find? fun n => s.sec.sess.all fun x => x.sid != n).getD 0
      acts [modSec fun c => { c with sess := c.sess ++ [{ doe := t == .doe, sid := sid, last := s.time.words }] },
        freeOctets 160 fun b =>
          let body := spdmHdr 0x64 10 0 ++ leBytes 2 (sid / 65536) ++ [1, 0] ++ rnd ++ b.take 96 ++ s.measSummary ty ++ [0, 0]
          signed ctxSpdm (spdmSigned roleKeyEx (tabGet s.sec.trVca [] (spdmKey t) ++ s.chainHash ++ msg ++ body)) fun sig =>
            rsp (body ++ sig ++ b.drop 96)]) rsp

/-- Whether the requester of a session over DOE opens a secure session (R404). -/
def State.secureLeaf (s : State) (h : BitVec 512) : Bool :=
  ((List.range 4).any fun i => tabGet s.sec.reqKeys 0 i != 0 && tabGet s.sec.reqKeys 0 i == h) ||
    (s.bit F.SEC_CFG_OWNER_AS_REQ 0 && s.otp.ownerHash == some h)

/-- FINISH: the session is established, or its authentication fails. -/
def spFinishRsp (t : Transport) (x : SpdmIn) (rsp : List Byte → Act) : Act :=
  .look fun s =>
    match s.sessOf t x with
    | none => rsp (spdmError spSessReq 0)
    | some y =>
      if y.open_ then rsp (spdmError spUnexpected 0)
      else if !x.good then acts [sessEnd fun z => z.sid == y.sid, raise F.SEC_EVT_CAUSE_AUTH_FAIL 0, rsp (spdmError spDecrypt 0)]
      else
        let sec := t == .doe && s.bit F.SEC_CFG_SECURE_SESSION_EN 0 && (match x.leaf with | some h => s.secureLeaf h | none => false)
        acts [modSess y.sid fun z => { z with open_ := true, leaf := x.leaf.getD 0, secure := sec },
          raise F.SEC_EVT_CAUSE_SESSION_OPEN 0,
          when (sec && !s.sec.sess.any (·.secure)) (raise F.SEC_EVT_CAUSE_SECURE_SESSION 0), sessSync, rsp (spdmHdr 0x65 0 0)]

/-- A request that only an established session carries. -/
def inSession (t : Transport) (x : SpdmIn) (rsp : List Byte → Act) (k : Session → Act) : Act :=
  .look fun s =>
    match s.sessOf t x with
    | none => rsp (spdmError spSessReq 0)
    | some y => if y.open_ then k y else rsp (spdmError spUnexpected 0)

/-- KEY_UPDATE: new keys for one direction or both, or their verification. -/
def spKeyUpdateRsp (t : Transport) (x : SpdmIn) (msg : List Byte) (rsp : List Byte → Act) : Act :=
  inSession t x rsp fun y =>
    let op := leAt msg 2 1
    if op = 0 ∨ 3 < op then rsp (spdmError spInvalid 0)
    else acts [when (decide (op ≤ 2)) (modSess y.sid fun z => { z with keyGen := z.keyGen + 1 }), rsp (spdmHdr 0x69 op (leAt msg 3 1))]

/-- The next piece of a response in the making. -/
def spChunkGetRsp (t : Transport) (msg : List Byte) (rsp : List Byte → Act) : Act :=
  .look fun s =>
    let key := 2 + spdmKey t
    let c := tabGet s.sec.chunk {} key
    if c.size = 0 ∨ leAt msg 3 1 ≠ c.handle ∨ leAt msg 4 2 ≠ c.seq then rsp (spdmError spInvalid 0)
    else
      let hdr := if c.seq = 0 then leBytes 4 c.size else []
      let piece := c.data.take (dataTransferSize - 12 - hdr.length)
      let rest := c.data.drop piece.length
      acts [modSec fun d => { d with chunk := tabPut d.chunk {} key (if rest.isEmpty then { handle := c.handle } else { c with seq := c.seq + 1, data := rest }) },
        rsp (spdmHdr 0x06 (if rest.isEmpty then 1 else 0) c.handle ++ leBytes 2 c.seq ++ [0, 0] ++ leBytes 4 piece.length ++ hdr ++ piece)]

/-- The answer to a request that is not itself a piece of a large one. -/
def spdmAnswer (t : Transport) (x : SpdmIn) (msg : List Byte) (send : List Byte → Act) : Act :=
  let rsp := fun l => acts [trNote t x msg l, send l]
  .look fun s =>
    let code := leAt msg 1 1
    let need := if code = rqVersion then 0 else if code = rqCapabilities then 1 else if code = rqAlgorithms then 2 else 3
    if !spdmSupported.contains code then rsp (spdmError spUnsupported code)
    else if code ≠ rqVersion ∧ leAt msg 0 1 ≠ 0x13 then rsp (spdmError spVersion 0)
    else if s.spdmVer t < need ∨ (s.spdmVer t ≠ need ∧ 0 < need ∧ need < 3) then rsp (spdmError spUnexpected 0)
    else if code = rqVersion then spVersionRsp t rsp
    else if code = rqCapabilities then spCapsRsp t rsp
    else if code = rqAlgorithms then spAlgRsp t msg rsp
    else if code = rqDigests then spDigestsRsp rsp
    else if code = rqCertificate then spCertRsp msg rsp
    else if code = rqChallenge then spChallengeRsp t msg rsp
    else if code = rqMeasurements then spMeasRsp t x msg rsp
    else if code = rqKeyExchange then spKeyExRsp t msg rsp
    else if code = rqFinish then spFinishRsp t x rsp
    else if code = rqHeartbeat then inSession t x rsp fun _ => rsp (spdmHdr 0x68 0 0)
    else if code = rqKeyUpdate then spKeyUpdateRsp t x msg rsp
    else if code = rqEndSession then inSession t x rsp fun y => acts [rsp (spdmHdr 0x6C 0 0), sessEnd fun z => z.sid == y.sid]
    else if code = rqChunkGet then spChunkGetRsp t msg rsp
    else rsp (spdmError spUnexpected 0)

/-- CHUNK_SEND: a piece of a large request; the last piece brings the answer in its acknowledgement. -/
def spChunkSendRsp (t : Transport) (x : SpdmIn) (msg : List Byte) (rsp : List Byte → Act) : Act :=
  .look fun s =>
    let key := spdmKey t
    let handle := leAt msg 3 1
    let seq := leAt msg 4 2
    let n := leAt msg 8 4
    let c := if seq = 0 then { handle := handle, size := leAt msg 12 4 : Chunk } else tabGet s.sec.chunk {} key
    let data := c.data ++ sliceB msg (if seq = 0 then 16 else 12) n
    let put := fun v : Chunk => modSec fun d => { d with chunk := tabPut d.chunk {} key v }
    let ack := fun (e : Nat) (l : List Byte) => rsp (spdmHdr 0x05 e handle ++ leBytes 2 seq ++ l)
    if leAt msg 0 1 ≠ 0x13 then rsp (spdmError spVersion 0)
    else if s.spdmVer t < 3 then rsp (spdmError spUnexpected 0)
    else if maxSpdmMsg < c.size then acts [put {}, ack 1 (spdmError spTooLarge 0)]
    else if handle ≠ c.handle ∨ seq ≠ c.seq ∨ c.size < data.length then acts [put {}, ack 1 (spdmError spInvalid 0)]
    else if (leAt msg 2 1) % 2 = 0 then acts [put { c with seq := seq + 1, data := data }, ack 0 []]
    else if data.length ≠ c.size then acts [put {}, ack 1 (spdmError spInvalid 0)]
    else acts [put {}, spdmAnswer t x data (ack 0)]

/-- A response goes out: one above DataTransferSize waits to be fetched in pieces. -/
def spdmSend (t : Transport) (l : List Byte) : Act :=
  if l.length ≤ dataTransferSize then emit (.spdm (t == .doe) l)
  else
    .look fun s =>
      let key := 2 + spdmKey t
      let h := ((tabGet s.sec.chunk {} key).handle + 1) % 256
      acts [modSec fun d => { d with chunk := tabPut d.chunk {} key { handle := h, size := l.length, data := l } },
        emit (.spdm (t == .doe) (spdmError spLarge 0 ++ leBytes 1 h))]

/-- Whether SPDM is served on a transport (R402): the block is in service, the transport is enabled, and its carrier reaches the device. -/
def State.spdmUp (s : State) (t : Transport) : Bool :=
  s.bit F.SEC_STATUS_READY 0 && !s.clk.soft.contains unitSec &&
    (match t with
     | .doe => s.bit F.SEC_CFG_DOE_EN 0 && s.arrives .pf0
     | .mctp => s.bit F.SEC_CFG_MCTP_EN 0 && s.arrives .smb)

/-- A request of the row of `code` arrives: any message restarts the time of its session (R405). -/
def spdmRow (code : Nat) (t : Transport) (x : SpdmIn) (msg : List Byte) : Act :=
  .look fun s =>
    when (s.spdmUp t && leAt msg 1 1 == code) (acts [
      (match s.sessOf t x with
       | some y => modSess y.sid fun z => { z with last := s.time.words }
       | none => .skip),
      if code = rqChunkSend then spChunkSendRsp t x msg (spdmSend t) else spdmAnswer t x msg (spdmSend t)])

/-- UNSUPPORTED_REQUEST (R402). -/
def unsupportedRequest (t : Transport) (x : SpdmIn) (msg : List Byte) : Act :=
  .look fun s =>
    when (s.spdmUp t && !spdmSupported.contains (leAt msg 1 1)) (spdmRow (leAt msg 1 1) t x msg)

/-- SECURED_MESSAGE_FAIL (R405): a message of a session fails its decryption or MAC check. -/
def securedMessageFail (t : Transport) (sid : Nat) : Act :=
  .look fun s =>
    when (s.spdmUp t && s.sec.sess.any fun x => x.sid == sid && x.doe == (t == .doe))
      (acts [sessEnd fun x => x.sid == sid, raise F.SEC_EVT_CAUSE_AUTH_FAIL 0])

def execBurnOwner (req : Req) (value : Word) (s : State) := ok (burnOwner req value) s
def execOtpBurnDone (good : Bool) (s : State) := ok (coreDo (otpBurnDone good)) s
def execRevoke (req : Req) (value : Word) (s : State) := ok (revoke req value) s
def execRevokeBurnDone (s : State) := ok (coreDo revokeBurnDone) s
def execSvnAdvance (req : Req) (value : Word) (s : State) := ok (svnAdvance req value) s
def execSvnBurnDone (s : State) := ok (coreDo svnBurnDone) s
def execCfgLock (req : Req) (value : Word) (s : State) := ok (cfgLockSet req value) s
def execEntropyFail (s : State) := ok entropyFail s
def execEntropyRecover (s : State) := ok entropyRecover s
def execGetVersion (t : Transport) (x : SpdmIn) (msg : List Byte) (s : State) := ok (coreDo (spdmRow rqVersion t x msg)) s
def execGetCapabilities (t : Transport) (x : SpdmIn) (msg : List Byte) (s : State) := ok (coreDo (spdmRow rqCapabilities t x msg)) s
def execNegotiateAlgorithms (t : Transport) (x : SpdmIn) (msg : List Byte) (s : State) := ok (coreDo (spdmRow rqAlgorithms t x msg)) s
def execGetDigests (t : Transport) (x : SpdmIn) (msg : List Byte) (s : State) := ok (coreDo (spdmRow rqDigests t x msg)) s
def execGetCertificate (t : Transport) (x : SpdmIn) (msg : List Byte) (s : State) := ok (coreDo (spdmRow rqCertificate t x msg)) s
def execChallenge (t : Transport) (x : SpdmIn) (msg : List Byte) (s : State) := ok (coreDo (spdmRow rqChallenge t x msg)) s
def execGetMeasurements (t : Transport) (x : SpdmIn) (msg : List Byte) (s : State) := ok (coreDo (spdmRow rqMeasurements t x msg)) s
def execKeyExchange (t : Transport) (x : SpdmIn) (msg : List Byte) (s : State) := ok (coreDo (spdmRow rqKeyExchange t x msg)) s
def execFinish (t : Transport) (x : SpdmIn) (msg : List Byte) (s : State) := ok (coreDo (spdmRow rqFinish t x msg)) s
def execSpdmHeartbeat (t : Transport) (x : SpdmIn) (msg : List Byte) (s : State) := ok (coreDo (spdmRow rqHeartbeat t x msg)) s
def execKeyUpdate (t : Transport) (x : SpdmIn) (msg : List Byte) (s : State) := ok (coreDo (spdmRow rqKeyUpdate t x msg)) s
def execEndSession (t : Transport) (x : SpdmIn) (msg : List Byte) (s : State) := ok (coreDo (spdmRow rqEndSession t x msg)) s
def execChunkSend (t : Transport) (x : SpdmIn) (msg : List Byte) (s : State) := ok (coreDo (spdmRow rqChunkSend t x msg)) s
def execChunkGet (t : Transport) (x : SpdmIn) (msg : List Byte) (s : State) := ok (coreDo (spdmRow rqChunkGet t x msg)) s
def execUnsupportedRequest (t : Transport) (x : SpdmIn) (msg : List Byte) (s : State) := ok (coreDo (unsupportedRequest t x msg)) s
def execSecuredMessageFail (t : Transport) (sid : Nat) (s : State) := ok (coreDo (securedMessageFail t sid)) s
def execSessionHeartbeatTimeout (sid : Nat) (s : State) := ok (coreDo (sessionHeartbeatTimeout sid)) s

end Sys2Proof.Machine
end

