-- ==== Sys2Proof/Machine/Reset.lean ====
section
/-!
DEFINITION. Machine/Reset.lean: clocks and reset (R306 to R329): the reset sources and their reach, the exit sequence with the option
loader, page programs that hold a reset back, soft resets, the watchdog, PERST_N and function-level resets.
-/
namespace Sys2Proof.Machine

/-! ### Reset sources (R311) -/

def srcPor : Nat := 0
def srcResetN : Nat := 1
def srcSw : Nat := 2
def srcTrip : Nat := 3
def srcExtest : Nat := 4
/-- RESET_N has been released, and the exit sequence has not begun. -/
def srcReleased : Nat := 5
/-- THERMTRIP has been released, and the exit sequence has not begun. -/
def srcTripOff : Nat := 6
/-- EXTEST has been released, and the exit sequence has not begun. -/
def srcExtestOff : Nat := 7

/-- A source of a list gives way to the mark of its release. -/
def releaseIn (src mark : Nat) (l : List Nat) : List Nat := if l.contains src then addSet (l.filter (· != src)) mark else l

/-- A source is released, in effect or still waiting for a page program. -/
def releaseSrc (src mark : Nat) : Act := modClk fun c => { c with srcs := releaseIn src mark c.srcs, waitNvm := releaseIn src mark c.waitNvm }

/-! ### Pins of the model's own numbers (R463) -/

def pinThermtrip : Nat := 17
def pinHot : Nat := 18
def pinPpsOut : Nat := 19

/-- A latched trip is released (R311). -/
def tripRelease : Act := acts [releaseSrc srcTrip srcTripOff, modClk fun c => { c with thermLow := false }, emit (.pin pinThermtrip true)]

/-- Every table that a reset clears whole. -/
def allTabs : List TabId :=
  [.live, .cnt, .stalls, .ports, .lanes, .aisles, .qtrs, .mbx, .perf, .bufs, .flat, .tiles, .copies, .rebuild, .occ, .msi, .bfd, .stm]

/-! ### OTP burns and page programs that are cut (R320, R390) -/

/-- A burn is cut: an owner field reads back bad, a counter stands at any value on its way, of the revoke fuses any may be burned. -/
def burnCut : Act :=
  .look fun s =>
    match s.sec.otpOp with
    | none => .skip
    | some (op, x) =>
      draw fun k =>
        if op = burnOwnerOp then .upd (.burn (if s.otp.fieldA = 0 then { s.otp with fieldA := 2 } else { s.otp with fieldB := 2 }))
        else if op = burnSvnOp then
          let cur := s.svnOf (x / 128)
          .upd (.burn (svnFuses s.otp (x / 128) (cur + k % (x % 128 - cur + 1))))
        else
          let fuses := BitVec.ofNat 8 (((List.range 4).filter fun n => x.testBit n).map fun n => 3 * 4 ^ n).sum
          .upd (.burn { s.otp with revoke := s.otp.revoke ||| (fuses &&& BitVec.ofNat 8 k) })

/-- A page program is cut: which of its bits are programmed is not stated. -/
def programCut : Act :=
  .look fun s =>
    match s.nvm.prog with
    | none => .skip
    | some (a, l) =>
      draw fun k => programBytes a (l.zipIdx.map fun x => x.1 ||| (Config.freeBytes k).getD x.2 0)

/-! ### Assertion of reach 1 and 2 (R312 to R314, R319, R320) -/

/-- HOT_N is released, and PPS_OUT and the clock outputs are driven low (R313). -/
def outputsLow : Act :=
  .look fun s =>
    acts [when (s.bit F.THM_STATUS_OVER_LIMIT 0) (emit (.pin pinHot true)), emit (.pin pinPpsOut false),
      each (List.range 3) fun n => emit (.clkOut n 0)]

/-- Everything a source of reach 1 or 2 covers takes its reset value. The always-on registers, OTP, the NVM's contents, what the
device has sent and the voltages its regulators hold stay. -/
def deviceReset : Act :=
  acts [burnCut, outputsLow,
    .upd (.keep .regs fun k => keyReg k == .CLK_RST_CAUSE || keyReg k == .NVM_BOOT),
    each allTabs fun t => .upd (.keep t fun _ => false),
    .upd (.mode {}), .upd (.evt {}), .upd (.pkts []), .upd (.pe {}), .upd (.swc {}), .upd (.time {}), .upd (.dma {}), .upd (.nvm {}),
    .upd (.sec {}), modThm fun h => { vcore := h.vcore, vlane := h.vlane },
    modClk fun c => { srcs := c.srcs, seen := c.seen, waitNvm := c.waitNvm, perst := c.perst, optCut := c.optCut, loads := c.loads,
                      jtagEx := c.jtagEx, jtagIr := c.jtagIr, thermLow := c.thermLow, tripSens := c.tripSens, tripC := c.tripC }]

/-- Sources are applied: an option phase that runs is cut (R319), and the covered parts are reset. -/
def applySrcs (l : List Nat) : Act :=
  acts [modClk fun c => { c with
      srcs := l.foldl addSet c.srcs, seen := l.foldl addSet c.seen, waitNvm := []
      optCut := c.optCut || c.optPhase, optPhase := false, step := 0 },
    when (l.any fun n => n == srcResetN || n == srcReleased) (setReg .NVM_BOOT 0 0),
    deviceReset]

/-- A reset is held pending by a page program; the 5 ms run from the first one (R320). -/
def holdPending : Act :=
  .look fun s => acts [when (s.clk.waitNvm.isEmpty && !s.clk.nvmSoft) (modClk fun c => { c with waitAt := s.time.words }),
    setB F.CLK_RST_CAUSE_NVM_DELAYED 0 true]

/-- A source of reach 2 is asserted; while a page program pulse runs it waits (R320). -/
def assertSrc (n : Nat) : Act :=
  .look fun s =>
    if s.nvm.prog.isSome then acts [holdPending, modClk fun c => { c with waitNvm := addSet c.waitNvm n }]
    else applySrcs [n]

/-- The sources asserted while POR is: a RESET_N that is low and an EXTEST that stays loaded go on, in effect or waiting (R314). -/
def State.heldLow (s : State) (low : Bool) : List Nat :=
  let l := s.clk.srcs ++ s.clk.waitNvm
  srcPor :: ((if l.contains srcResetN then [srcResetN] else []) ++ (if s.clk.jtagEx && !low then [srcExtest] else []))

/-- POR (R311, R319, R320): never delayed. `low` says that VDD_AON fell below its threshold, which loses every always-on state. -/
def por (low : Bool) : Act :=
  .look fun s =>
    acts [programCut, setReg .NVM_BOOT 0 0,
      when s.clk.thermLow (emit (.pin pinThermtrip true)),
      modClk fun c => { c with
        srcs := s.heldLow low, seen := s.heldLow low, waitNvm := [], nvmSoft := false, tripC := 110
        optCut := !low && (c.optCut || c.optPhase), optPhase := false, step := 0, loads := 0
        jtagEx := c.jtagEx && !low, jtagIr := if low then 0 else c.jtagIr, thermLow := false, tripSens := false },
      deviceReset, .upd (.thm {})]

/-- RESET_N_ASSERT (R311): it releases a latched thermal trip once every trip sensor reads cool. -/
def resetNAssert : Act :=
  .look fun s =>
    acts [when (s.clk.thermLow && !s.clk.tripSens) tripRelease, assertSrc srcResetN]

/-- RESET_N_RELEASE. -/
def resetNRelease : Act := releaseSrc srcResetN srcReleased

/-- SYS_SWRESET (R326). -/
def sysSwreset (req : Req) (value : Word) : Act :=
  onWrite req .SYS_SWRESET 0 fun rq =>
    if bits value 16 16 = 0xC1EA then assertSrc srcSw else reject .sys rq (regAddr .SYS_SWRESET 0) 4 0

/-- SETUP_COMPLETE (R332 step 8, R334): every step has succeeded, the pools are carved and no command of the load is outstanding: the next
epoch carries the first mode. A SETUP that failed ends here too: Zolliwin issues the SYS_SWRESET of R360, and the next start passes over the
slot (log 62). -/
def setupComplete : Act :=
  .look fun s =>
    when (s.opMode == modeSetup)
      (if s.mode.setup = 3 then when s.zolOn (assertSrc srcSw)
       else when (!s.epochPending && s.mode.setup == 2 && s.dma.zDone && s.carved && s.zRingIdle)
         (requestEpoch (some (if s.bit F.SYS_MODE_CFG_SETUP_TARGET 0 then modeProving else modeOpen)) 0 0))

/-- ROOTPLL_LOSS (R309): the reset controller issues a SYS_SWRESET of its own. -/
def rootpllLoss : Act :=
  .look fun s =>
    when (s.bit F.CLK_STATUS_ROOT_LOCK 0)
      (acts [setB F.CLK_RST_CAUSE_CLK_FAIL 0 true, setB F.CLK_STATUS_ROOT_LOCK 0 false, assertSrc srcSw])

/-! ### The exit sequence (R315, R319) -/

/-- Bits of CLK_RST_CAUSE for the sources of an episode. -/
def causeBits (seen : List Nat) (optCut : Bool) : Word :=
  let b := fun (x : Bool) (i : Nat) => if x then 2 ^ i else 0
  BitVec.ofNat 32 (b (seen.contains srcResetN || seen.contains srcExtest || seen.contains srcExtestOff || seen.contains srcReleased) 30 + b (seen.contains srcSw) 29 +
    b (seen.contains srcTrip || seen.contains srcTripOff) 28 + b optCut 24)

/-- EXIT_SEQUENCE_START: the last source of reach 1 or 2 has been released; steps 1 and 2. -/
def exitSequenceStart (written : List (Nat × BitVec 8)) : Act :=
  .look fun s =>
    let c := s.clk
    when (!c.srcs.isEmpty && c.srcs.all fun n => [srcPor, srcSw, srcReleased, srcTripOff, srcExtestOff].contains n) (acts [
      nvmWritten written,
      (if c.seen.contains srcPor then setReg .CLK_RST_CAUSE 0 (0x80000000#32 ||| causeBits [] c.optCut)
       else setReg .CLK_RST_CAUSE 0 (s.raw .CLK_RST_CAUSE 0 ||| causeBits c.seen c.optCut)),
      modClk fun c => { c with srcs := [], seen := [], step := 2, optPhase := true, optCut := false, loads := min 255 (c.loads + 1) }])

/-! ### The option loader (R317, R318) -/

/-- Offset, range and default of each option field of one byte; `meas` is the measured REFCLK. -/
def optFields (meas : Nat) : List (Nat × Nat × Nat × Nat) :=
  [(0x08, 0x08, 0x77, 0x5A), (0x09, 0, 1, meas), (0x0A, 0, 2, 1), (0x0B, 0, 1, 0), (0x0C, 0, 4, 4), (0x0D, 0, 1, 0), (0x0E, 0, 3, 0),
   (0x0F, 0, 1, 0), (0x10, 0, 1, 0), (0x11, 100, 110, 110), (0x12, 95, 105, 105)]

/-- A copy of the option block is good: MAGIC, FORMAT, LENGTH and CRC. -/
def optGood (l : List Byte) : Bool :=
  leAt l 0 4 == 0x4F505431 && leAt l 4 2 == 1 && leAt l 6 2 == 256 && leAt l 0xFC 4 == (crc32 crcInit (l.take 0xFC)).toNat

/-- The option bytes with every field at its default (R329). -/
def optDefaults (meas : Nat) : List Byte :=
  let body := leBytes 4 0x4F505431 ++ leBytes 2 1 ++ leBytes 2 256 ++ ((optFields meas).map fun f => BitVec.ofNat 8 f.2.2.2) ++
    List.replicate 233 0
  body ++ leBytes 4 (crc32 crcInit body).toNat

def optInRange (l : List Byte) (f : Nat × Nat × Nat × Nat) : Bool := decide (f.2.1 ≤ leAt l f.1 1 ∧ leAt l f.1 1 ≤ f.2.2.1)

/-- The copy in use (0 A, 1 B, 2 none) with its bytes as stored. -/
def State.optCopy (s : State) (meas : Nat) : Nat × List Byte :=
  let a := s.nvmBytes 0 256
  let b := s.nvmBytes 0x10000 256
  if optGood a then (0, a) else if optGood b then (1, b) else (2, optDefaults meas)

/-- The option bytes with each field out of its range at its default. -/
def optUsed (meas : Nat) (l : List Byte) : List Byte :=
  (optFields meas).foldl (fun l f => if optInRange l f then l else patchB l f.1 [BitVec.ofNat 8 f.2.2.2]) l

/-- The option values that act (R317, R413); OTP policy fuses stay in force. -/
def optsOf (l : List Byte) (policy : Nat) : Opts :=
  let v := fun o => leAt l o 1
  { bytes := l, smbAddr := v 0x08, timeRef := v 0x0A, refFreq := v 0x0B, pcieLanes := v 0x0C, laneSafe := v 0x0D
    sbPolicy := v 0x0E ||| policy, perfPermit := v 0x0F, slotPref := v 0x10, tripC := v 0x11
    limitC := if v 0x11 ≤ v 0x12 then v 0x11 - 5 else v 0x12 }

/-- Steps 6 and 7: the options are read and take effect; with an NVM that does not respond both copies fail (R316). -/
def loadOptions (nvm : Bool) : Act :=
  .look fun s =>
    let meas := s.fld F.CLK_STATUS_REFCLK_MEAS 0
    let c := if nvm then s.optCopy meas else (2, optDefaults meas)
    let l := optUsed meas c.2
    let o := optsOf l s.otp.policy
    acts [modClk fun k => { k with opts := o, tripC := o.tripC },
      setF F.CLK_OPT_STATUS_COPY 0 c.1, setB F.CLK_OPT_STATUS_FIELD_DEFAULT 0 ((optFields meas).any fun f => !optInRange c.2 f),
      setF F.CLK_OPT_STATUS_LOADS 0 s.clk.loads, setF F.CLK_OPT_STATUS_SMB_ADDR 0 o.smbAddr,
      setF F.THM_CFG_TRIP_C 0 o.tripC, setF F.THM_CFG_LIMIT_C 0 o.limitC, setF F.PERF_PERMIT_USER_PERMIT 0 o.perfPermit,
      when (decide (0 < c.1)) (raise F.CLK_EVT_CAUSE_OPT_FALLBACK 0),
      when (leAt l 0x09 1 != meas) (acts [setB F.CLK_OPT_STATUS_REFCLK_MISMATCH 0 true, raise F.CLK_EVT_CAUSE_REFCLK_MISMATCH 0])]

/-- What a count of REFCLK ÷ 16 over 1,024 CLK_AON cycles is taken as: 0 156.25 MHz, 1 312.5 MHz, 2 out of range (R307). -/
def refclkClass (n : Nat) : Nat := if 250 ≤ n ∧ n ≤ 375 then 0 else if 500 ≤ n ∧ n ≤ 750 then 1 else 2

/-- REFCLK_MEASURE (R307, R315 steps 3 to 7): with a count in range ROOTPLL locks, the NVM is reset and returned to 1-bit mode, and the option
block is read and takes effect; else the sequence waits at step 3. -/
def refclkMeasure (count : Nat) (nvm : Bool) : Act :=
  .look fun s =>
    let m := refclkClass count
    when (s.clk.srcs.isEmpty && (s.clk.step == 2 || s.clk.step == 3)) (acts [
      setF F.CLK_STATUS_REFCLK_MEAS 0 m,
      if 2 ≤ m then modClk fun c => { c with step := 3 }
      else acts [setB F.CLK_STATUS_ROOT_LOCK 0 true, emit .nvmReset,
        each [(true, 0x66), (true, 0x99), (false, 0x66), (false, 0x99)] (fun x => emit (.xspi x.1 x.2)),
        loadOptions nvm, modClk fun c => { c with step := 7, optPhase := false }]])

/-! ### Zolliwin's watchdog (R324) -/

/-- The count starts again at TIMEOUT_MS. -/
def wdtRestart : Act := .look fun s => modClk fun c => { c with wdtAt := s.time.words, wdtMs := s.fld F.CLK_WDT_CFG_TIMEOUT_MS 0 }

/-- WDT_KICK. -/
def wdtKick (req : Req) (value : Word) : Act :=
  onSecWrite req .CLK_WDT_KICK 0 fun _ => if bits value 0 16 = 0x6B1D then wdtRestart else addSat F.CLK_WDT_STATUS_BAD_KICKS 0 1

/-- Registers of a mailbox return to reset values; a result that is still to come is discarded (R292). -/
def mbxReset (n : Nat) : Act :=
  acts [setReg .MBX_CTL n (regReset .MBX_CTL n), setReg .MBX_SEL n (regReset .MBX_SEL n),
    each (List.range 16) (fun i => setReg .MBX_DATA (16 * n + i) 0),
    modMbx n fun m => { m with busy := false },
    modNvm fun N => { N with reads := N.reads.filter (·.1 != n) },
    modEvt fun e => { e with i2cQ := e.i2cQ.map fun x => if x.mbx = n then { x with dropped := true } else x }]

/-- What Zolliwin's memory holds is lost: its copies of the patch and of the BFD sessions, its learn log, a power request it meant to
repeat (R312). -/
def zolMemoryReset : Act :=
  .look fun s =>
    acts [modNvm fun N => { N with patch := [] }, modPe fun P => { P with learnLog := [] }, modThm fun h => { h with pwrReq := none }, stepDrop,
      each s.bfd fun b => modBfd b.1 fun B => { B with zol := [] }]

/-- WDT_EXPIRE: Zolliwin's core and memory and its mailboxes are reset, and the boot ROM runs again; one that stopped in its boot ROM is
reset again too (R324), and stops there again (R396). -/
def wdtExpire : Act :=
  .look fun s =>
    when (s.bit F.CLK_WDT_CFG_WDT_EN 0 && s.clk.zolRun != 0 && s.aged s.clk.wdtAt (s.clk.wdtMs * 1000000)) (acts [
      modClk fun c => { c with zolRun := if c.zolRun = 3 then 3 else 1 }, each [16, 17, 18, 19] mbxReset, zolMemoryReset, addSat F.CLK_RST_CAUSE_WDT_COUNT 0 1, servoSuspend, wdtRestart,
      raise F.CLK_EVT_CAUSE_WDT_RESET 0])

/-- The PCIe complex leaves reset (R316): its PLL locks. -/
def pcieStart : Act :=
  .look fun s =>
    when (s.clk.opts.pcieLanes != 0 && !s.clk.perst)
      (acts [modClk fun c => { c with pcieUp := true }, setB F.CLK_STATUS_PCIE_LOCK 0 true])

/-- The 16 bytes that M0 is extended by (R397). -/
def State.m0Bytes (s : State) : List Byte :=
  [Config.romRev, 0xB1#8, if s.bit F.SEC_STATUS_DEBUG_OPEN 0 then 1 else 0, BitVec.ofNat 8 s.clk.opts.sbPolicy,
    if s.otp.ownerHash.isSome then 1 else 0] ++ List.replicate 11 0

/-- RESET_DONE (R315 steps 8 to 11, R395 step 2): the clocks and device time run, the PCIe complex leaves reset, Zolliwin enters its boot
ROM, and the device is in SHUTTERS. -/
def resetDone : Act :=
  .look fun s =>
    when (s.clk.srcs.isEmpty && s.clk.step == 7) (acts [
      modClk fun c => { c with step := 11, zolRun := 1 },
      setB F.CLK_STATUS_TIME_LOCK 0 true, modTime fun t => { t with running := true }, pcieStart, wdtRestart,
      setF F.SYS_MODE_MODE 0 modeShutters, setF F.SYS_MODE_TARGET 0 modeShutters, modMode fun m => { m with shut := true },
      setB F.SEC_STATUS_READY 0 true, entropyShow, withRnd fun x => modSec fun c => { c with certRnd := (x, c.certRnd.2) },
      .look fun s => when (!s.clk.opts.sbPolicy.testBit 0)
        (acts [setB F.SEC_STATUS_DEBUG_OPEN 0 true, raise F.SEC_EVT_CAUSE_DEBUG_OPEN 0]),
      .look fun s => acts [extendM 0 (Config.sha3 s.m0Bytes), extendM 6 (Config.sha3 s.clk.opts.bytes)],
      raise F.CLK_EVT_CAUSE_RESET_DONE 0])

/-! ### TIMEPLL and the PCIe PLL (R308, R310) -/

/-- TIMEPLL_LOSS. -/
def timepllLoss : Act :=
  .look fun s =>
    when (s.bit F.CLK_STATUS_TIME_LOCK 0) (acts [setB F.CLK_STATUS_TIME_LOCK 0 false, setB F.CLK_STATUS_CLK_BACKUP 0 true,
      raise F.CLK_EVT_CAUSE_TIMEPLL_LOSS 0, dpllClockLost])

/-- TIMEPLL_RELOCK. -/
def timepllRelock : Act :=
  .look fun s =>
    when (s.bit F.CLK_STATUS_CLK_BACKUP 0) (acts [setB F.CLK_STATUS_TIME_LOCK 0 true, setB F.CLK_STATUS_CLK_BACKUP 0 false,
      raise F.CLK_EVT_CAUSE_TIMEPLL_RELOCK 0, calStartAll (s.allPorts.filter s.isUp) 8, refSwitch])

/-- PCIE_PLL_LOSS: the PCIe link goes down. -/
def pciePllLoss : Act := setB F.CLK_STATUS_PCIE_LOCK 0 false

/-- PCIE_PLL_RELOCK. -/
def pciePllRelock : Act := .look fun s => when s.clk.pcieUp (setB F.CLK_STATUS_PCIE_LOCK 0 true)

/-! ### Soft resets (R321 to R323) -/

/-- Whether a soft reset of an instance is permitted in the present mode (R322). -/
def State.softOk (s : State) (u : Nat) : Bool :=
  let m := s.opMode
  if u < 64 ∨ u = unitTime ∨ u = unitNvm ∨ u = unitSec then decide (modeShutters ≤ m)
  else if u < 80 ∨ u = unitPe ∨ u = unitDma then decide (modeSetup ≤ m)
  else if u = unitSwc then m == modeSetup || m == modeProving || (m == modeDrain && s.allFree)
  else m == modeSetup || m == modeDrain || m == modeProving

/-- The unit number of an instance in SYS_EPOCH_APPLIED, for the instances that have one (R27). -/
def epochUnit (u : Nat) : Option Nat :=
  if u < 84 then some u
  else if u = unitPe then some 86
  else if u = unitTime then some 87
  else if u = unitSwc then some 84
  else if u = unitSch then some 85
  else none

/-- Registers whose fields a soft reset keeps although they are not of class C: link states that the reset itself sets, table
contents and what they hold, host queues, keys (R322, R364). -/
def softKeeps (r : Reg) : Bool :=
  [Reg.PORT_STATE, .AISLE_TILE_CFG, .QTR_LDG_SEED_A, .QTR_LDG_SEED_B,
    .HQ_CFG, .HQ_TAIL, .HQ_HEAD, .HQ_LOST, .DMA_RING_HEAD, .NVM_BOOT, .SEC_STATUS, .SEC_LOCK].contains r

/-- Single fields kept in registers that are otherwise cleared. -/
def softKeepsF (r : Reg) (lo : Nat) : Bool :=
  (r == .TIME_STATUS && lo == F.TIME_STATUS_DIST_OK.lo) || (r == .AISLE_SRCH_STATUS && lo == F.AISLE_SRCH_STATUS_STEP.lo) ||
    (r == .QTR_LDG_STATUS && lo != F.QTR_LDG_STATUS_MIGRATING.lo) || (r == .ASSAY_STATUS && lo != F.ASSAY_STATUS_WIN_COUNT.lo)

/-- Registers of an instance: S-, K- and F-class fields return to reset values, C-class fields stay (R321). -/
def clearRegs (u : Nat) : Act :=
  .look fun s =>
    each (s.regs.filter fun e => (regUnit (keyReg e.1) (e.1 / 256)).1 == some u && !softKeeps (keyReg e.1)) fun e =>
      let r := keyReg e.1
      let n := e.1 / 256
      each (r.fields.filter fun f => f.cls != .c && !softKeepsF r f.lo) fun f => setF (f.fld r) n (bits (regReset r n) f.lo f.w)

/-- The instance whose counters a counter key belongs to (R160, R290). -/
def cntUnit (k : Nat) : Option Nat :=
  let idx := k / 8 % 2 ^ 24
  match k / 2 ^ 27 with
  | 0x10 => some (idx / 8)
  | 0x11 => some (idx / 16)
  | 0x18 => some (unitQtr (idx / 2))
  | 0x19 => some (unitQtr (idx / 65536))
  | 0x1A => some (unitAisle (idx / 2))
  | 0x1B => if idx / 2 = 16 then some unitPe else some (unitAisle (idx / 2))
  | 0x38 => some unitSwc
  | 0x51 => some unitTime
  | 0x81 => some unitDma
  | v => if 0x200 ≤ v then some unitPe else if 0x100 ≤ v then some (unitAisle ((v - 0x100) / 16)) else none

/-- Counters of an instance return to 0. -/
def clearCnt (u : Nat) : Act := .upd (.keep .cnt fun k => !(cntUnit k == some u))

/-- A frame that is arriving on a port is cut: it ends there with a bad FCS (R29). -/
def cutArriving (p : Nat) : Act := frameLastByte p false

/-- A port of a block that is reset leaves UP, and stands at its restart point, from which it goes on after the reset. -/
def parkPort (p : Nat) : Act :=
  .look fun s => acts [when (s.isUp p) (leaveUp p 1 false), .look fun s => setF F.PORT_STATE_LINK p (s.restartPoint p)]

/-- Stall: its ports leave UP, its site goes to EMPTY, and every port that is not DISABLED takes its restart point, from which it
advances only once the reset has ended (R57, R475). -/
def softStall (st : Nat) : Act :=
  .look fun s =>
    acts [each ((List.range 8).map (8 * st + ·)) cutArriving,
      each ((s.portsOf st).filter s.isUp) (fun p => leaveUp p 1 false),
      each ((List.range 8).map (8 * st + ·)) (fun p => acts [
        modPort p fun P => { P with
          useLt := true, anFails := 0, bwRx := 0, bwTx := 0, anWait := false, fifo := [], rxPause := 0
          txPfc := 0, actAt := none },
        modLane p fun x => { x with eq := [], lowEye := none, cycEye := none }]),
      modStall st fun x => { dDist := x.dDist, distMiss := x.distMiss, distPrev := x.distPrev, distOk := x.distOk, distBad := x.distBad,
                             configured := x.configured },
      clearRegs st, each (s.livePorts st) parkPort]

/-- Hewers of an aisle that have not finished their packets. -/
def AisleS.busyHewers (A : AisleS) : Tab Engine := A.hewers.filter fun e => !e.2.idle

/-- Ports of an aisle that are not DISABLED. -/
def State.aislePorts (s : State) (a : Nat) : List Nat := s.allPorts.filter fun p => aisleOf p == a && s.link p != linkDisabled

/-- Aisle: admission stops, its ports leave UP, a packet held in a hewer ends as ABORT outcome 2, and the others complete; its patch is
cleared once no hewer needs it, which ends a fence. -/
def softAisle (a : Nat) (h : a < 16) : Act :=
  .look fun s =>
    acts [each (s.aislePorts a) parkPort,
      each (List.range 32).attach (fun x =>
        let e : Eng := .hewer ⟨a, h⟩ ⟨x.1, List.mem_range.mp x.2⟩
        when (s.engine e).held.isSome (acts [modEng e fun g => { g with fin := 3 }, abort e])),
      modAisle a (fun A =>
        { mc := if A.busyHewers.isEmpty then { running := A.mc.running } else { A.mc with caps := [] }
          hewers := A.busyHewers, parseOld := A.parseOld }),
      each (List.range 4) (fun k => .upd (.rebuild (chanN a k) {})),
      clearRegs (unitAisle a)]

/-- Policer buckets filled to their sizes (R209). -/
def fillPolicers (q : Nat) : Act :=
  .look fun s =>
    modQtr q fun Q => { Q with
      polPend := []
      pol := ((s.flat.filter fun e => e.1 / 2 ^ 20 == 10 * 16 + q).map (·.1 % 2 ^ 20)).foldl (fun t i =>
        let E := s.polE q i
        tabPut t {} i { c := polCbs E * 2 ^ 32, p := polPbs E * 2 ^ 32, last := s.nowNs }) [] }

/-- Quarter: dynamic MAC entries, flowlets and the learn FIFO are emptied; the other stations expect SEQ 0 from it, and it accepts the
next note of each without the check (R90). -/
def softQtr (q : Nat) : Act :=
  .look fun s =>
    let c := s.copyOf q
    let keepE := fun e : Nat × LEntry => !e.2.dynMac
    let others := fun l : List Note => l.filter fun n => n.quarter != q
    acts [putCopy q { c with ways := c.ways.filter keepE, stash := c.stash.filter keepE },
      fillPolicers q,
      modQtr q fun Q => { Q with
        pendL := [], fifo := [], seqNext := 0, flushSet := [], walking := none, flushWait := [], agePos := 0, ageWay := 0, ageWait := false, ageDue := 0, flow := []
        expSeq := ((List.range 4).filter (· != q)).map fun k => (k + 1, 2048) },
      each ((List.range 4).filter (· != q)) (fun k => modQtr k fun Q => { Q with
        inNotes := others Q.inNotes, expSeq := tabPut Q.expSeq 0 (q + 1) 0 }),
      modPe fun P => { P with inNotes := others P.inNotes },
      clearRegs (unitQtr q)]

/-- Protocol engine: the wheel stops; receive queues, timers and state memory are cleared; frames in its queues are terminated. -/
def softPe : Act :=
  .look fun s =>
    acts [each s.ports (fun e => acts [each e.2.rxq fun x => peFreeFrame x.2,
        modPort e.1 fun P => { P with
          rxq := [], work := [], nbr := none, nbrAt := 0, lldpFast := 0, txAt := [], ptpSeq := [], evTx := [], syncIn := none, dreq := none
          syncFrom := {}, esmcAt := 0, esmcE := 0xFF, qtAt := none, qtPost := none }]),
      when (!s.pe.eng.idle) (peFreeFrame s.pe.eng.fid),
      modPkts fun l => l.filter fun k => k.toPe.isNone && !k.frame.fromPe,
      modPe fun P => { mc := { running := P.mc.running }, ident := P.ident, inNotes := P.inNotes, learnLog := P.learnLog },
      .upd (.keep .stm fun _ => false),
      each s.bfd (fun b => modBfd b.1 fun B => { zol := B.zol }),
      clearRegs unitPe]

/-- Time unit: the servo and the DPLL go to FREERUN, probes are abandoned; device time runs on. -/
def softTime : Act :=
  .look fun s =>
    acts [servoTo svFreerun, dpllTo dpFreerun,
      each s.ports (fun e => acts [modPort e.1 fun P => { P with
          calDue := false, calRerun := false, calWait := 0, probing := false, probeOut := false, probed := false, probeAt := 0, pdAt := 0
          pdT1 := none, pdResp := none, pdRes := none, dlyVals := [], dlyLast3 := [], foreign := [] }]),
      modTime fun t => {
        acc := t.acc, words := t.words, inc := t.inc, running := t.running, stepLog := t.stepLog, unicast := t.unicast
        routes := t.routes, tallySeq := t.tallySeq, tallyRing := t.tallyRing, tallyLast := t.tallyLast, calAt := t.calAt, stepEp := t.stepEp
        srvSusp := t.srvSusp, tallyReq := t.tallyReq, grants := t.grants, clkOuts := t.clkOuts, edgeS := t.edgeS, edgeAt := t.edgeAt },
      clearRegs unitTime, each s.ports fun e => syncRecal e.1]

/-- SWC: the pools are carved again. -/
def softSwc : Act :=
  .look fun s =>
    acts [.upd (.keep .bufs fun _ => false), modPkts fun l => l.filter fun k => !(s.swc.waits.any (·.fid == k.frame.fid)),
      .upd (.swc { freeAt := s.time.words }),
      each s.ports (fun e => modPort e.1 fun P => { P with
        usedSh := [], usedHr := [], hdrm := [], tx := none, rxq := [], queues := P.queues.map fun x => (x.1, { x.2 with d := [] }) }),
      clearRegs unitSwc, carveNow, each s.ports fun e => pfcSync e.1]

/-- SCH: lists stop, buckets are filled to their sizes, DWRR counters are cleared. -/
def softSch : Act :=
  .look fun s =>
    acts [each s.ports (fun e => modPort e.1 fun P => { P with
        portb := ((s.fld F.SCH_PORT_BURST_BURST e.1 * 2 ^ 32 : Nat) : Int), ptr := 7, fresh := true, qtClosed := false, qtAt := none, qtPost := none, sampT := none
        queues := (List.range 9).foldl (fun t q =>
          let Q := tabGet t {} q
          tabPut t {} q { Q with
            minb := ((64 * s.fld F.SCH_Q_BURST_MIN_BURST (qreg e.1 q) * 2 ^ 32 : Nat) : Int)
            maxb := ((64 * s.fld F.SCH_Q_BURST_MAX_BURST (qreg e.1 q) * 2 ^ 32 : Nat) : Int), dc := 0, samp := {} }) P.queues }),
      clearRegs unitSch]

/-- DMA: queued descriptors are abandoned, padlocks are released, and the assay starts its pass again. -/
def softDma : Act :=
  .look fun s =>
    acts [ringAbandon 0, ringAbandon 1, padRelease 0, padRelease 1, modDma fun d => { d with buckets := [] }, clearRegs unitDma, padSync,
      passBegin (s.bit F.ASSAY_STATUS_REBASE 0)]

/-- NVM controller: programs that wait are abandoned. -/
def softNvm : Act := acts [modNvm fun N => { N with queue := [] }, clearRegs unitNvm]

/-- Security block: engines stop, SPDM sessions end; keys and measurements are kept. -/
def softSec : Act :=
  acts [burnCut, sessEnd fun _ => true,
    modSec fun c => { c with otpOp := none, ver := [], chunk := [], trVca := [], trCert := [], trMeas := [] },
    modTime fun t => { t with tallyQ := [] },
    setB F.SEC_STATUS_BUSY 0 false, setB F.SEC_STATUS_READY 0 false, setB F.SEC_STATUS_ENTROPY_OK 0 false, setF F.SEC_STATUS_REJECT 0 0, clearRegs unitSec]

/-- What the start of a soft reset does in the instance. -/
def softBody (u : Nat) : Act :=
  if u < 64 then softStall u
  else if h : u - 64 < 16 then softAisle (u - 64) h
  else if u < 84 then softQtr (u - 80)
  else if u = unitPe then softPe
  else if u = unitTime then softTime
  else if u = unitSwc then softSwc
  else if u = unitSch then softSch
  else if u = unitDma then softDma
  else if u = unitNvm then softNvm
  else softSec

/-- A soft reset starts; the instance reports a requested epoch (R323). -/
def softStart (u : Nat) : Act :=
  acts [modClk fun c => { c with soft := addSet c.soft u }, softBody u, clearCnt u,
    (match epochUnit u with | some e => unitReport e | none => .skip)]

/-- CLK_SOFT_RST register and bit of an instance. -/
def softReg (u : Nat) : Reg × Nat := if u < 32 then (.CLK_SOFT_RST0, u) else if u < 64 then (.CLK_SOFT_RST1, u - 32) else (.CLK_SOFT_RST2, u - 64)

/-- One bit written 1: a soft reset of the NVM controller waits for a page program (R320). -/
def softBit (u : Nat) : Act :=
  .look fun s =>
    let r := (softReg u).1
    acts [.upd (.reg r 0 (s.raw r 0 ||| BitVec.ofNat 32 (2 ^ (softReg u).2))),
      if u = unitNvm ∧ s.nvm.prog.isSome then
        acts [holdPending, modClk fun c => { c with nvmSoft := true }]
      else softStart u]

/-- Instances whose bits a write of CLK_SOFT_RST0 to 2 sets, of those in `mask`. -/
def softUnits (word : Nat) (value mask : Word) : List Nat := ((List.range 32).filter fun i => (value &&& mask).getLsbD i).map (32 * word + ·)

/-- A write of a soft-reset register: bits in a mode that R322 does not permit are rejected, the others act. -/
def softWrite (req : Req) (word : Nat) (value mask : Word) : Act :=
  let r := if word = 0 then Reg.CLK_SOFT_RST0 else if word = 1 then .CLK_SOFT_RST1 else .CLK_SOFT_RST2
  onWrite req r 0 fun rq => .look fun s =>
    let us := (softUnits word value mask).filter fun u =>
      decide (u < 91) && !(s.raw (softReg u).1 0).getLsbD (softReg u).2 && (u != unitSec || secureReq rq)
    acts [when (us.any fun u => !s.softOk u) (reject3 .clk rq r 0), each (us.filter s.softOk) softBit]

/-- The exit of an instance (R322): a port leaves DISABLED by no reset (R475). -/
def softExit (u : Nat) : Act :=
  .look fun s =>
    if u < 64 then acts [setB F.STALL_STATUS_TXPLL_LOCK u true, each (s.livePorts u) goRestart]
    else if u < 80 then acts [loadStore s.nvm.patch (u - 64), each (s.aislePorts (u - 64)) goRestart]
    else if u = unitPe then acts [loadStore s.nvm.patch 16, bfdRewrite]
    else if u = unitNvm then acts [holdSync, nvmServe]
    else if u = unitSec then acts [setB F.SEC_STATUS_READY 0 true, entropyShow]
    else .skip

/-- Whether every action of an instance's row can have ended: for an aisle and the protocol engine Zolliwin reloads the patch, which needs
Zolliwin, and an aisle's packets in flight have completed (R321, R322). -/
def State.exitReady (s : State) (u : Nat) : Bool :=
  if 64 ≤ u ∧ u < 80 then s.zolOn && (s.aisle (u - 64)).busyHewers.isEmpty else u != unitPe || s.zolOn

/-- SOFT_RESET_DONE (R321): the exit is complete. -/
def softResetDone (u : Nat) : Act :=
  .look fun s =>
    when (s.clk.soft.contains u && s.exitReady u) (acts [
      modClk fun c => { c with soft := c.soft.filter (· != u) },
      .upd (.reg (softReg u).1 0 (s.raw (softReg u).1 0 &&& ~~~ (BitVec.ofNat 32 (2 ^ (softReg u).2)))),
      softExit u, raise F.CLK_EVT_CAUSE_SOFT_RST_DONE 0])

/-! ### The end of a page program (R320, R356) -/

/-- A reset held back by a page program is applied. -/
def applyHeld : Act :=
  .look fun s =>
    if !s.clk.waitNvm.isEmpty then applySrcs s.clk.waitNvm
    else when s.clk.nvmSoft (acts [modClk fun c => { c with nvmSoft := false }, softStart unitNvm])

/-- NVM_PROGRAM_END. -/
def nvmProgramEnd : Act := acts [programEnd, applyHeld]

/-- NVM_RESET_DELAY_LIMIT: 5 ms after the assertion the page program is cut. -/
def nvmResetDelayLimit : Act :=
  .look fun s =>
    when (s.nvm.prog.isSome && (!s.clk.waitNvm.isEmpty || s.clk.nvmSoft) && s.aged s.clk.waitAt 5000000) (acts [programCut,
      modNvm fun N => { N with prog := none }, setB F.NVM_STATUS_BUSY 0 false, holdSync,
      setB F.CLK_RST_CAUSE_NVM_CUT 0 true, applyHeld])

/-! ### PERST_N and function-level resets (R312, R325, R364) -/

/-- MSI-X state of a function. -/
def msiReset (pf : Nat) : Act :=
  acts [.upd (.keep .msi fun k => !(k / 2048 == pf)), modEvt fun e => { e with msixOn := e.msixOn.filter (· != pf) }]

/-- The PERF snapshot registers. -/
def snapReset : Act :=
  each ([Reg.PERF_SNAP_BASE_LO, .PERF_SNAP_BASE_HI, .PERF_SNAP_CFG]) fun r => setReg r 0 (regReset r 0)

/-- SPDM over DOE: its sessions and its connection end. -/
def doeReset : Act := acts [sessEnd (·.doe), modSec fun c => { c with ver := tabPut c.ver 0 0 0, chunk := tabPut (tabPut c.chunk {} 0 {}) {} 2 {} }]

/-- PERST_N_ASSERT (R312, R325): every assertion is recorded, but while the event tree itself is held in reset. -/
def perstNAssert : Act :=
  .look fun s =>
    acts [modClk fun c => { c with perst := true, pcieUp := false },
      when s.clk.srcs.isEmpty (raise F.CLK_EVT_CAUSE_PCIE_RESET 0),
      when (decide (s.clk.step = 11)) (acts [
        setB F.CLK_STATUS_PCIE_LOCK 0 false,
        each (List.range 4) msiReset, each (List.range 16) mbxReset, doeReset, loseOwner lostPerst,
        padRelease 0, ringReset 0, hqStop, hqReset, snapReset])]

/-- PERST_N_RELEASE (R316). -/
def perstNRelease : Act :=
  acts [modClk fun c => { c with perst := false }, .look fun s => when (decide (s.clk.step = 11)) pcieStart]

/-- FLR (R308, R325, R364): the reset of one function; it comes over the PCIe link. -/
def flr (pf : Nat) : Act :=
  .look fun s =>
    when (s.clk.pcieUp && !s.clk.perst && s.bit F.CLK_STATUS_PCIE_LOCK 0) (acts [raise F.CLK_EVT_CAUSE_FLR 0, msiReset pf,
      each ((List.range 4).map (4 * pf + ·)) mbxReset,
      (match pf with
       | 0 => doeReset
       | 1 => acts [ringAbandon 0, padRelease 0, ringReset 0]
       | 2 => acts [hqStop, hqReset]
       | _ => snapReset)])

def maskStall : Word := 0xFFFFFFFF#32

def execPor (low : Bool) (s : State) := ok (por low) s
def execResetNAssert (s : State) := ok resetNAssert s
def execResetNRelease (s : State) := ok resetNRelease s
def execSetupComplete (s : State) := ok (coreDo setupComplete) s
def execSysSwreset (req : Req) (value : Word) (s : State) := ok (sysSwreset req value) s
def execNvmProgramEnd (s : State) := ok nvmProgramEnd s
def execNvmResetDelayLimit (s : State) := ok nvmResetDelayLimit s
def execExitSequenceStart (written : List (Nat × BitVec 8)) (s : State) := ok (exitSequenceStart written) s
def execRefclkMeasure (m : RefMeas) (s : State) := ok (refclkMeasure m.count m.nvm) s
def execResetDone (s : State) := ok resetDone s
def execRootpllLoss (s : State) := ok rootpllLoss s
def execTimepllLoss (s : State) := ok timepllLoss s
def execTimepllRelock (s : State) := ok timepllRelock s
def execPciePllLoss (s : State) := ok pciePllLoss s
def execPciePllRelock (s : State) := ok pciePllRelock s
def execSoftResetStall (req : Req) (word : Fin 2) (value : Word) (s : State) := ok (softWrite req word value maskStall) s
def execSoftResetAisle (req : Req) (value : Word) (s : State) := ok (softWrite req 2 value 0xFFFF#32) s
def execSoftResetQuarter (req : Req) (value : Word) (s : State) := ok (softWrite req 2 value 0xF0000#32) s
def execSoftResetPe (req : Req) (value : Word) (s : State) := ok (softWrite req 2 value 0x100000#32) s
def execSoftResetTime (req : Req) (value : Word) (s : State) := ok (softWrite req 2 value 0x200000#32) s
def execSoftResetSwc (req : Req) (value : Word) (s : State) := ok (softWrite req 2 value 0x400000#32) s
def execSoftResetSch (req : Req) (value : Word) (s : State) := ok (softWrite req 2 value 0x800000#32) s
def execSoftResetDma (req : Req) (value : Word) (s : State) := ok (softWrite req 2 value 0x1000000#32) s
def execSoftResetNvm (req : Req) (value : Word) (s : State) := ok (softWrite req 2 value 0x2000000#32) s
def execSoftResetSec (req : Req) (value : Word) (s : State) := ok (softWrite req 2 value 0x4000000#32) s
def execSoftResetDone (u : Fin 91) (s : State) := ok (coreDo (softResetDone u)) s
def execWdtKick (req : Req) (value : Word) (s : State) := ok (wdtKick req value) s
def execWdtExpire (s : State) := ok wdtExpire s
def execPerstNAssert (s : State) := ok perstNAssert s
def execPerstNRelease (s : State) := ok perstNRelease s
def execFlr (pf : Fin 4) (s : State) := ok (coreDo (flr pf)) s

end Sys2Proof.Machine
end

