-- ==== Sys2Proof/Machine/Thermal.lean ====
section
/-!
DEFINITION. Machine/Thermal.lean: the thermal sensors, the search throttle, the operating limit and the trip (R411 to R416), and the
power limit (R417).
-/
namespace Sys2Proof.Machine

/-! ### Sensors (R411, R412) -/

/-- A reading as THM_SENSOR holds it: signed, 0.125 °C, 12 bits. -/
def clampTemp (t : Int) : Int := max (-2048) (min 2047 t)

/-- A reading outside −40 °C to 150 °C fails its sensor. -/
def tempFails (t : Int) : Bool := decide (t < -320 ∨ 1200 < t)

/-- FAILED bits. -/
def failWord (l : List Nat) (base : Nat) : Nat := ((List.range 32).filter fun i => l.contains (base + i)).foldl (fun m i => m + 2 ^ i) 0

/-- Threshold of a thermal step, 0.125 °C. -/
def State.stepThr (s : State) (n : Nat) : Int :=
  8 * ((s.fld F.THM_CFG_LIMIT_C 0 : Int) - (if n = 1 then 10 else if n = 2 then 5 else 2))

/-- TJ_MAX is below the threshold of the present step less HYST_C (R414). -/
def State.tjBelow (s : State) : Bool :=
  decide (0 < s.fld F.THM_STATUS_STEP 0) &&
    decide (toSigned 12 (s.fld F.THM_STATUS_TJ_MAX 0) < s.stepThr (s.fld F.THM_STATUS_STEP 0) - 8 * (s.fld F.THM_CFG_HYST_C 0 : Int))

/-- A stretch of time that a condition has lasted: it goes on, begins at word `w`, or breaks off. -/
def stretch (old : Option Nat) (holds : Bool) (w : Nat) : Option Nat := if holds then some (old.getD w) else none

/-- The second of R414 goes on, begins or breaks off; `again` where the step has moved, which takes a second of its own. -/
def belowSync (again : Bool) : Act :=
  .look fun s => modThm fun h => { h with belowAt := stretch (if again then none else h.belowAt) s.tjBelow s.time.words }

/-- The thermal step takes a value (R414). -/
def thermStep (n : Nat) : Act :=
  .look fun s =>
    let c := s.fld F.THM_STATUS_STEP 0
    when (n != c) (acts [setF F.THM_STATUS_STEP 0 n, raise (if c < n then F.THM_EVT_CAUSE_STEP_UP else F.THM_EVT_CAUSE_STEP_DOWN) 0, stepChanged,
      belowSync true])

/-- Sensors fail; from the fourth on, step 3 is held. -/
def sensorsFail (l : List Nat) : Act :=
  .look fun s =>
    let new := l.filter fun i => decide (i < 48) && !s.thm.fails.contains i
    let all := s.thm.fails ++ new
    when (!new.isEmpty) (acts [modThm fun h => { h with fails := all },
      setF F.THM_FAIL0_FAILED 0 (failWord all 0), setF F.THM_FAIL1_FAILED 0 (failWord all 32), raise F.THM_EVT_CAUSE_SENSOR_FAIL 0,
      when (decide (4 ≤ all.length)) (acts [thermStep 3,
        when (decide (s.thm.fails.length < 4)) (raise F.THM_EVT_CAUSE_SENSOR_SAFE 0)])])

/-- The highest reading among sensors that have not failed, with the lowest sensor that gives it. -/
def State.hottest (s : State) (temps : List Int) : Option (Int × Nat) :=
  (((List.range 48).filter fun i => !s.thm.fails.contains i).map fun i => (temps.getD i 0, i)).foldl
    (fun a x => match a with | none => some x | some y => if y.1 < x.1 then some x else some y) none

/-! ### Throttle and limit (R413 to R415) -/

/-- The highest step whose threshold a temperature has reached. -/
def State.stepFor (s : State) (t : Int) : Nat :=
  if s.stepThr 3 ≤ t then 3 else if s.stepThr 2 ≤ t then 2 else if s.stepThr 1 ≤ t then 1 else 0

/-- TJ_MAX takes a reading: the step rises, and OVER_LIMIT with HOT_N follow it. -/
def newTj (t : Int) (i : Nat) : Act :=
  .look fun s =>
    let isOver : Bool := decide (8 * (s.fld F.THM_CFG_LIMIT_C 0 : Int) ≤ t)
    acts [setF F.THM_STATUS_TJ_MAX 0 (ofSigned 12 (clampTemp t)), setF F.THM_STATUS_HOT_SENSOR 0 i,
      when (decide (s.fld F.THM_STATUS_STEP 0 < s.stepFor t)) (thermStep (s.stepFor t)),
      setB F.THM_STATUS_OVER_LIMIT 0 isOver,
      when (isOver && !s.bit F.THM_STATUS_OVER_LIMIT 0) (raise F.THM_EVT_CAUSE_OVER_LIMIT 0),
      when (isOver != s.bit F.THM_STATUS_OVER_LIMIT 0) (emit (.pin pinHot (!isOver))),
      belowSync false]

/-! ### The trip (R311, R416) -/

/-- The trip fires: THERMTRIP_N is driven low at once, and the reset is asserted. -/
def tripFire : Act := acts [modClk fun c => { c with thermLow := true }, emit (.pin pinThermtrip false), assertSrc srcTrip]

/-- Whether every trip sensor reads below TRIP_C − 10 °C, as the reset controller follows it in every mode; a RESET_N that is low then
releases a latched trip. -/
def tripSense (temps : List Int) : Act :=
  .look fun s =>
    let hot := (List.range 48).any fun i => !s.thm.fails.contains i && decide (8 * ((s.clk.tripC : Int) - 10) ≤ temps.getD i 0)
    acts [modClk fun c => { c with tripSens := hot },
      when (!hot && s.clk.thermLow && (s.clk.srcs ++ s.clk.waitNvm).contains srcResetN) tripRelease]

/-- THERMAL_CONVERSION (R411, R414 to R416): one conversion of the 48 sensors, readings in 0.125 °C. -/
def thermalConversion (temps : List Int) : Act :=
  acts [tripSense temps,
    .look fun s =>
      when (s.opMode != modeCold) (acts [
        each (List.range 48) (fun i => setF F.THM_SENSOR_TEMP i (ofSigned 12 (clampTemp (temps.getD i 0)))),
        sensorsFail ((List.range 48).filter fun i => tempFails (temps.getD i 0)),
        .look fun s =>
          let hot := (List.range 48).filter fun i => !s.thm.fails.contains i && decide (8 * (s.fld F.THM_CFG_TRIP_C 0 : Int) ≤ temps.getD i 0)
          acts [(match s.hottest temps with | some x => newTj x.1 x.2 | none => .skip),
            modThm fun h => { h with prevTrip := hot },
            when (!s.clk.thermLow && hot.any s.thm.prevTrip.contains) tripFire]])]

/-- THERMAL_STEP_DOWN (R414): TJ_MAX has stayed below the step's threshold minus HYST_C for 1 s without a break. While four sensors have
failed step 3 is held (R412). -/
def thermalStepDown : Act :=
  .look fun s =>
    when (decide (s.thm.fails.length < 4) && s.tjBelow && (match s.thm.belowAt with | none => false | some w => s.aged w 1000000000))
      (thermStep (s.fld F.THM_STATUS_STEP 0 - 1))

/-- The last reading of a sensor, 0.125 °C. -/
def State.lastTemp (s : State) (i : Nat) : Int := toSigned 12 (s.fld F.THM_SENSOR_TEMP i)

/-- Sensors whose offset conversion differs from their last reading by less than 4 °C (R412). -/
def State.stuckSensors (s : State) (temps : List Int) : List Nat :=
  (List.range 48).filter fun i => decide ((temps.getD i 0 - s.lastTemp i).natAbs < 32)

/-- SENSOR_STUCK_CHECK (R412): every 60 s, the 48 offset conversions, in 0.125 °C. A sensor that fails leaves TJ_MAX. -/
def sensorStuckCheck (temps : List Int) : Act :=
  .look fun s =>
    when (s.opMode != modeCold && s.aged s.thm.stuckAt 60000000000) (acts [
      modThm fun h => { h with stuckAt := s.time.words },
      sensorsFail (s.stuckSensors temps),
      .look fun s => match s.hottest ((List.range 48).map s.lastTemp) with | some x => newTj x.1 x.2 | none => .skip])

/-! ### Power (R417) -/

/-- A quotient rounded in a way the spec does not state: exact, or one of the two neighbours. -/
def divFree (num den : Nat) (k : Nat → Act) : Act :=
  if num % den = 0 then k (num / den) else draw fun d => k (num / den + d % 2)

/-- A target in its rail's range, the nearest end outside it (R419, R436). -/
def railRange (r v : Nat) : Nat := if r = 0 then max 620 (min 800 v) else max 770 (min 830 v)

/-- PWR_W exceeds PWR_LIMIT_W; PWR_W is below 95 % of it. -/
def State.pwrOver (s : State) : Bool :=
  let lim := s.fld F.PWR_CFG_PWR_LIMIT_W 0
  decide (0 < lim) && decide (lim < s.fld F.PWR_STATUS_PWR_W 0)
def State.pwrUnder (s : State) : Bool :=
  let lim := s.fld F.PWR_CFG_PWR_LIMIT_W 0
  decide (0 < lim) && decide (s.fld F.PWR_STATUS_PWR_W 0 * 100 < 95 * lim)

/-- POWER_READ: voltage in mV and current in 0.1 A of the two rails, as AVSBus gives them. -/
def powerRead (mv da : List Nat) : Act :=
  .look fun s =>
    let v := fun i => min (mv.getD i 0) 65535
    let a := fun i => min (da.getD i 0) 65535
    when (s.clk.step == 11) (acts [
      each [0, 1] (fun i => acts [setF F.SHR_AVS_STATUS_VOLT_MV i (v i), setF F.SHR_AVS_STATUS_AMPS i (a i)]),
      divFree (v 0 * a 0 + v 1 * a 1) 10000 fun w => setF F.PWR_STATUS_PWR_W 0 (min w 1023),
      .look fun s => modThm fun h => { h with
        overAt := stretch h.overAt s.pwrOver s.time.words
        underAt := stretch h.underAt s.pwrUnder s.time.words }])

/-- Zolliwin requests a power step; a rejected request is kept for its repetition. -/
def pwrRequest (step : Nat) : Act :=
  .look fun s =>
    let tgt := if step = 0 then modeOpen else modeLean
    let code := s.requestFault tgt step
    if code = 0 then acts [modThm fun h => { h with pwrReq := none }, modeRequest tgt step]
    else acts [modThm fun h => { h with pwrReq := some step, pwrReqAt := s.time.words }, reject .sys .zs (regAddr .SYS_MODE_REQ 0) code 0]

/-- PWR_LEAN: PWR_W has exceeded the limit for 100 ms; the next request takes 100 ms of its own (log 163). -/
def pwrLean : Act :=
  .look fun s =>
    when (s.zolOn && s.pwrOver && (match s.thm.overAt with | none => false | some w => s.aged w 100000000))
      (acts [modThm fun h => { h with overAt := some s.time.words }, raise F.SHR_EVT_CAUSE_PWR_LEAN 0,
        pwrRequest (min 3 (s.fld F.SYS_MODE_REQ_STEP 0 + 1))])

/-- PWR_STEP_RELAX: PWR_W has stayed below 95 % of the limit for 10 s; the next step takes 10 s of its own (log 163). -/
def pwrStepRelax : Act :=
  .look fun s =>
    when (s.zolOn && s.pwrUnder && decide (0 < s.fld F.SYS_MODE_REQ_STEP 0) &&
        (match s.thm.underAt with | none => false | some w => s.aged w 10000000000))
      (acts [modThm fun h => { h with underAt := some s.time.words }, pwrRequest (s.fld F.SYS_MODE_REQ_STEP 0 - 1)])

/-- PWR_REQUEST_RETRY: a rejected request is repeated 10 ms later. -/
def pwrRequestRetry : Act :=
  .look fun s =>
    when (s.zolOn && decide (0 < s.fld F.PWR_CFG_PWR_LIMIT_W 0) && s.aged s.thm.pwrReqAt 10000000) (match s.thm.pwrReq with | none => .skip | some n => pwrRequest n)

def execThermalConversion (temps : List Int) (s : State) := ok (thermalConversion temps) s
def execThermalStepDown (s : State) := ok thermalStepDown s
def execSensorStuckCheck (temps : List Int) (s : State) := ok (sensorStuckCheck temps) s
def execPowerRead (mv da : List Nat) (s : State) := ok (powerRead mv da) s
def execPwrLean (s : State) := ok pwrLean s
def execPwrStepRelax (s : State) := ok pwrStepRelax s
def execPwrRequestRetry (s : State) := ok pwrRequestRetry s

end Sys2Proof.Machine
end

