-- ==== Sys2Proof/Machine/Shoring.lean ====
section
/-!
DEFINITION. Machine/Shoring.lean: the canaries, the two AVS rails, the planner and its actions, the projection, and the shoring
ledger (R418 to R432).
-/
namespace Sys2Proof.Machine

/-! ### Margins (R418, R424, R429) -/

/-- Time words in an hour of device time, and nanoseconds in an hour and in ten minutes. -/
def wordsHour : Nat := 45000000000
def nsHour : Nat := 3600000000000
def nsTenMin : Nat := 600000000000

/-- OP_HOURS: the seconds of operation are those the canaries have been sampled. -/
def State.opHours (s : State) : Nat := s.thm.opBase + s.thm.opSec / 3600

/-- Highest SRAM Vmin of the monitors from `i` on, 16 of them: 0 on VDD_CORE, 16 on VDD_MEM. -/
def State.vminMax (s : State) (i : Nat) : Nat := (List.range 16).foldl (fun m j => max m (tabGet s.thm.vmin 0 (i + j))) 0

/-- VDD_MEM, which is fixed, in mV (R458). -/
def vddMem : Nat := 780

/-- Lowest SRAM margins in mV. -/
def State.coreMargin (s : State) : Int := (s.thm.vcore : Int) - (s.vminMax 0 : Nat)
def State.memMargin (s : State) : Int := (vddMem : Int) - (s.vminMax 16 : Nat)

/-- Margin of a tile in % of its production value. -/
def State.tileMargin (s : State) (a t : Nat) : Nat := tabGet s.thm.tmargin 100 (tileN a t)

/-- Tiles whose margin is below TCAM_FLOOR. -/
def State.weakTiles (s : State) : List Nat :=
  (s.thm.tmargin.filter fun e => decide (e.2 < s.fld F.SHR_CFG2_TCAM_FLOOR 0)).map (·.1)

/-- A canary is below its floor. -/
def State.marginLow (s : State) : Bool :=
  decide (s.coreMargin < (s.fld F.SHR_CFG_SRAM_FLOOR_MV 0 : Nat)) || !s.weakTiles.isEmpty

/-- The MARGIN_LOW bit. -/
def State.marginBit (s : State) : Bool := (s.raw .SHR_EVT_CAUSE 0).getLsbD 1

/-- Rail targets. -/
def State.coreTarget (s : State) : Nat := s.fld F.SHR_AVS_TARGET_TARGET_MV 0
def State.laneTarget (s : State) : Nat := s.fld F.SHR_AVS_TARGET_TARGET_MV 1

/-- Lowest tile margin, %. -/
def State.tileLow (s : State) : Nat :=
  (List.range 1600).foldl (fun m i => min m (tabGet s.thm.tmargin 100 i)) (tabGet s.thm.tmargin 100 0)

/-- Largest ring-oscillator shift, 0.01 %. -/
def State.deltaMax (s : State) : Nat := s.thm.delta.foldl (fun m e => max m e.2) 0

/-- The history point: the newest plan record at least 720 operating hours old, else the oldest (R424, R429). -/
def State.oldPoint (s : State) : Option PlanPt :=
  let l := s.thm.plans.filter fun x => decide (x.op < s.opHours)
  match l.find? fun x => decide (x.op + 720 ≤ s.opHours) with
  | some x => some x
  | none => l.getLast?

/-- GUARD_PS (R424): rate and guard band in 0.01 % and ps, 1 % of a clock period being 6.25 ps. -/
def guardPs (gmin d dOld h planH : Nat) : Nat := max gmin (((d - dOld) * planH + 8 * h - 1) / (8 * h))

/-- The VDD_CORE target for a v_req in 0.1 mV (R424): a multiple of 5 mV in the rail's range; it falls by at most 5 mV, and not at all
where `hold`. -/
def coreGoal (cur vreq : Nat) (hold : Bool) : Nat :=
  let t := max 620 (min 800 ((vreq + 49) / 50 * 5))
  if t < cur then (if hold then cur else max t (cur - 5)) else t

/-- A time to a limit in hours as numerator and denominator; none is unbounded (R429). -/
def term (left : Int) (rate : Int) (h : Nat) : Option (Nat × Nat) :=
  if rate ≤ 0 then none else some ((max 0 left).toNat * h, rate.toNat)

/-- The least of the terms with its number from 1, ties to the lowest. -/
def leastTerm (l : List (Option (Nat × Nat))) : Option ((Nat × Nat) × Nat) :=
  l.zipIdx.foldl (fun b x =>
    match x.1, b with
    | none, b => b
    | some t, none => some (t, x.2 + 1)
    | some t, some ((n, d), i) => if t.1 * d < n * t.2 then some (t, x.2 + 1) else some ((n, d), i)) none

/-! ### Wear (R428) -/

/-- Bin of the TJ histogram for a TJ_MAX in 0.125 °C. -/
def tjBin (t : Int) : Nat := if t < 320 then 0 else min 15 ((t - 320).toNat / 40 + 1)

/-- Wear of a histogram in 1/16 h, as a fraction over 14,400 × 2^64: bin b counts 2^((b ÷ 2) − 5.75). -/
def wearNum (hist : Tab Nat) : Nat :=
  (hist.map fun e => e.2 * 2 ^ (e.1 / 2) * (if e.1 % 2 = 0 then 21936999301089678046 else 31023601929370129896)).sum

def wearDen : Nat := 14400 * 2 ^ 64

/-! ### The shoring ledger (R430 to R432) -/

/-- A record with its check. -/
def ledgerSeal (l : List Byte) : List Byte :=
  let b := (l ++ List.replicate 256 0).take 252
  b ++ leBytes 4 (crc32 crcInit b).toNat

/-- Bytes 0x00 to 0x13 of a record. -/
def State.ledgerHead (s : State) (kind : Nat) : List Byte :=
  leBytes 4 0x53485231 ++ leBytes 1 1 ++ leBytes 1 kind ++ leBytes 2 256 ++ leBytes 4 (s.thm.seqLed + 1) ++
    leBytes 8 ((s.sec.bootId.getD 0).toNat)

/-- The plan record of the cycle in progress, with a value for the lowest eye height. -/
def State.planRecord (s : State) : List Byte :=
  let h := s.thm
  ledgerSeal (s.ledgerHead 1 ++ leBytes 4 s.opHours ++ leBytes 4 h.wear ++ leBytes 6 (s.nowNs / 10 ^ 9) ++ leBytes 4 (s.nowNs % 10 ^ 9) ++
    leBytes 2 h.vreq ++ leBytes 2 s.coreTarget ++ leBytes 2 s.laneTarget ++ leBytes 2 h.guard ++ leBytes 2 h.cyDelta ++
    leBytes 2 (ofSigned 16 h.cyCore) ++ leBytes 2 (ofSigned 16 h.cyMem) ++ leBytes 2 h.cyTile ++ leBytes 2 h.planEye ++
    leBytes 4 h.planRemain ++ leBytes 1 h.planLimiter ++ leBytes 1 h.carry ++ leBytes 2 h.retunesC ++
    ((List.range 16).map fun b => leBytes 4 (tabGet h.histRec 0 b)).flatten)

/-- The point a plan record adds to the history. -/
def State.planPt (s : State) : PlanPt :=
  { op := s.opHours, wear := s.thm.wear, vreq := s.thm.vreq, vlane := s.laneTarget, delta := s.thm.cyDelta, mem := s.thm.cyMem }

/-- The 16 bytes of a lane in a lane record. -/
def State.laneBytes (s : State) (l : Nat) : List Byte :=
  sliceB (s.lane l).eq 0 12 ++ leBytes 1 (s.fld F.LANE_EQ_STATUS_PRECODE l) ++ leBytes 1 (min 255 (s.cntOf (cntKey 0x10 l 6)).toNat) ++
    leBytes 2 ((s.lane l).cycEye.getD (Config.noEye l))

/-- The settings in the body of a lane record: all but the retune count and the eye height of each lane. -/
def laneSettings (body : List Byte) : List Byte := ((List.range 8).map fun i => sliceB body (16 * i) 13).flatten

/-- The lane record of a stall, or none where one may not be written now (R430). -/
def State.laneRecord (s : State) (st : Nat) : Option LaneRec :=
  let r : LaneRec := {
    stall := st, rate := s.fld F.STALL_CFG_LANE_RATE st, partner := s.partner st
    body := ((List.range 8).map fun i => s.laneBytes (8 * st + i)).flatten, op := s.opHours }
  let up := (s.portsOf st).all fun p => s.isUp p && s.aged (s.port p).upAt nsHour
  let same := match s.thm.laneRecs.find? fun x => x.stall == st && x.rate == r.rate && x.partner == r.partner with
    | some x => laneSettings x.body == laneSettings r.body
    | none => false
  let recent := s.thm.laneRecs.any fun x => x.stall == st && decide (s.opHours < x.op + 168)
  if up && !same && !recent then some r else none

/-- Ledger slots used or promised. -/
def State.ledTaken (s : State) : Nat := s.nvm.ledUsed + s.nvmWaits 1

/-- Room is kept for the plan records still to come. -/
def State.laneRoom (s : State) : Bool := decide (s.ledTaken + (175200 - s.opHours + 23) / 24 < ledgerSlots)

/-- Append a record; `k` says what its writing changes. A full region and a full queue take none; LEDGER_FULL is raised where the last
slot is taken and at a start that finds the region full. -/
def ledgerAppend (l : State → List Byte) (k : Act) : Act :=
  .look fun s =>
    if ledgerSlots ≤ s.ledTaken then .skip
    else if 16 ≤ s.nvm.queue.length then raise F.SHR_EVT_CAUSE_LEDGER_LOST 0
    else acts [nvmQueue 1 (l s), k, modThm fun h => { h with seqLed := h.seqLed + 1 }]

/-- A lane record and what the planner remembers of it. -/
def laneAppend (r : LaneRec) : Act :=
  ledgerAppend
    (fun s => ledgerSeal (s.ledgerHead 2 ++ leBytes 1 r.stall ++ leBytes 1 r.rate ++ leBytes 2 0 ++ r.partner ++ r.body))
    (modThm fun h => { h with laneRecs :=
      r :: (h.laneRecs.filter fun x => !(x.stall == r.stall && x.rate == r.rate && x.partner == r.partner)) })

/-- Lane records of a cycle: at most `n`, the lowest stalls first. -/
def laneAppends (n : Nat) (l : List Nat) : Act :=
  match l with
  | [] => .skip
  | st :: r =>
    .look fun s =>
      match s.laneRecord st with
      | some x => if 0 < n ∧ s.laneRoom then acts [laneAppend x, laneAppends (n - 1) r] else .skip
      | none => laneAppends n r

/-- The plan record of a cycle, if none has been written in the last 24 operating hours. -/
def planAppend : Act :=
  .look fun s =>
    let due := match s.thm.lastPlan with | none => true | some o => decide (o + 24 ≤ s.opHours)
    when due (ledgerAppend State.planRecord
      (modThm fun h => { h with lastPlan := some s.opHours, plans := s.planPt :: h.plans, carry := 0, retunesC := 0, histRec := [] }))

/-- Record `i` of the ledger, and whether it passes its check. -/
def State.ledgerRec (s : State) (i : Nat) : List Byte := s.nvmBytes (s.ledgerBase + 256 * i) 256
def ledgerOk (r : List Byte) : Bool :=
  leAt r 0 4 == 0x53485231 && leAt r 4 1 == 1 && leAt r 0xFC 4 == (crc32 crcInit (r.take 0xFC)).toNat

/-- What a valid record gives at the start; a lane record holds no OP_HOURS, and takes those of the plan record before it. -/
def ledgerTake (r : List Byte) : Act :=
  acts [modThm fun h => { h with seqLed := max h.seqLed (leAt r 8 4) },
    if leAt r 5 1 = 1 then
      acts [modThm fun h => { h with
          opBase := leAt r 0x14 4, opSec := 0, wear := leAt r 0x18 4, vreq := leAt r 0x26 2, guard := leAt r 0x2C 2
          lastPlan := some (leAt r 0x14 4)
          plans := { op := leAt r 0x14 4, wear := leAt r 0x18 4, vreq := leAt r 0x26 2, vlane := leAt r 0x2A 2
                     delta := leAt r 0x2E 2, mem := toSigned 16 (leAt r 0x32 2) } :: h.plans },
        setF F.SHR_AVS_TARGET_TARGET_MV 0 (railRange 0 (leAt r 0x28 2)),
        setF F.SHR_AVS_TARGET_TARGET_MV 1 (railRange 1 (leAt r 0x2A 2))]
    else when (leAt r 5 1 == 2) (modThm fun h =>
      let x : LaneRec := { stall := leAt r 0x14 1, rate := leAt r 0x15 1, partner := sliceB r 0x18 8, body := sliceB r 0x20 128, op := h.opBase }
      { h with laneRecs := x ::
        (h.laneRecs.filter fun y => !(y.stall == x.stall && y.rate == x.rate && y.partner == x.partner)) })]

/-- In SETUP Zolliwin reads the whole ledger (R432). -/
def ledgerLoad : Act :=
  .look fun s =>
    let n := usedSlots s.nvmMem s.ledgerBase ledgerSlots
    acts [modNvm fun N => { N with ledUsed := n }, when (decide (ledgerSlots ≤ n)) ledgerFull,
      each ((List.range n).filter fun i => ledgerOk (s.ledgerRec i)) fun i => ledgerTake (s.ledgerRec i)]

/-! ### Tiles (R426) -/

/-- A free relief tile for a tile: of its WIDTH if there is one, else empty. Tiles below the floor are left out. -/
def State.reliefFor (s : State) (a t : Nat) : Option Nat :=
  let free := (List.range 100).filter fun u => s.tileRole a u == 0 && !s.rbClearing a u &&
    decide (s.fld F.SHR_CFG2_TCAM_FLOOR 0 ≤ s.tileMargin a u)
  match free.find? fun u => s.tileW a u == s.tileW a t with
  | some u => some u
  | none => free.find? fun u => s.used a u == 0

/-- The relief tile takes a tile's WIDTH. -/
def takeWidth (a t u : Nat) : Act :=
  .look fun s => when (s.tileW a u != s.tileW a t) (setF F.AISLE_TILE_CFG_WIDTH (tileN a u) (s.fld F.AISLE_TILE_CFG_WIDTH (tileN a t)))

/-- Value of AISLE_REBUILD_CTL that rebuilds a slot into a tile with the slot's present band (R120). -/
def State.rebuildValue (s : State) (a : Nat) (rule : Bool) (slot u : Nat) : Word :=
  BitVec.ofNat 32 (2 ^ 31 + (if rule then 2 ^ 30 else 0) + slot * 2 ^ 24 + u * 2 ^ 17 +
    (if rule then 0 else s.fld F.AISLE_LPM_MAP_LEN_MAX (a * 64 + slot) * 2 ^ 8 + s.fld F.AISLE_LPM_MAP_LEN_MIN (a * 64 + slot)))

/-- An action has begun, or is given up. -/
def actionOff (x : Nat × Nat) : Act := modThm fun h => { h with actions := h.actions.filter (· != x) }

/-- Note bits of byte 0x3D of the next plan record. -/
def carryBit (i : Nat) : Act := modThm fun h => { h with carry := h.carry ||| 2 ^ i }

/-- The next cycle raises the VDD_CORE target. -/
def askCore : Act := modThm fun h => { h with coreUp := true }

/-- In SETUP no slot is mapped to a tile below the floor, while a relief tile is free (R426). -/
def remapWeak : Act :=
  .look fun s => each s.weakTiles fun x => .look fun s =>
    match s.slotOf (x / 100) (x % 100), s.reliefFor (x / 100) (x % 100) with
    | some (rule, n), some u =>
      acts [takeWidth (x / 100) (x % 100) u,
        if rule then setF F.AISLE_RULE_MAP_TILE (x / 100 * 32 + n) u else setF F.AISLE_LPM_MAP_TILE (x / 100 * 64 + n) u]
    | some _, none => acts [raise F.SHR_EVT_CAUSE_RELIEF_NONE 0, askCore]
    | none, _ => .skip

/-- Whether a slot of an aisle is in the rebuild of some channel. -/
def State.slotBusy (s : State) (a : Nat) (rule : Bool) (slot : Nat) : Bool :=
  (List.range 4).any fun k => s.rbState a k != rbIdle && (s.rebuildC (chanN a k)).rule == rule && (s.rebuildC (chanN a k)).slot == slot

/-- Retire a tile (R426), once a channel is free and no other channel rebuilds its slot. A rebuild that its checks turn away is given up
for this cycle: the tile is not retired. -/
def tileRetire (a t : Nat) : Act :=
  .look fun s =>
    if s.opMode = modeSealed then acts [actionOff (1, tileN a t), askCore]
    else
      match s.slotOf a t, (List.range 4).find? fun k => s.rbState a k == rbIdle with
      | none, _ => actionOff (1, tileN a t)
      | some _, none => .skip
      | some (rule, n), some k =>
        if s.slotBusy a rule n then .skip
        else
          match s.reliefFor a t with
          | none => acts [actionOff (1, tileN a t), raise F.SHR_EVT_CAUSE_RELIEF_NONE 0, askCore]
          | some u =>
            acts [actionOff (1, tileN a t), takeWidth a t u, rebuildGo .zs a k (s.rebuildValue a rule n u),
              .look fun s => when (s.rbState a k != rbIdle)
                (acts [modThm fun h => { h with planRb := chanN a k :: h.planRb }, raise F.SHR_EVT_CAUSE_TILE_RETIRE 0, carryBit 4])]

/-! ### Retunes (R425) -/

/-- Lanes in retune across the device. -/
def State.retuneCount (s : State) : Nat := (s.ports.map fun e => e.2.retunes.length).sum

/-- The servo's parent port, or one with a PTP role. -/
def State.ptpTune (s : State) (p : Nat) : Bool := s.fld F.TIME_PORT_PTP_ROLE p != 0 || s.time.parent == some p

/-- Whether a retune may begin on a lane now. -/
def State.retuneNow (s : State) (l : Nat) : Bool :=
  let p := s.portOfLane l
  decide (s.retuneCount < 16) && (s.port p).retunes.isEmpty &&
    (!s.ptpTune p || (!(s.port p).calDue &&
      match tabGet s.time.calAt none p with | none => true | some w => decide (w + words1 ≤ s.time.words))) &&
    (s.time.parent != some p || !(s.thm.actions.any fun x => x.1 == 0 && s.portOfLane x.2 != p))

/-- Begin a lane's retune; where its port has left UP it is rejected, which counts as a failure, and retried in the next cycle (log 192). -/
def laneAction (l : Nat) : Act :=
  .look fun s =>
    if !s.isUp (s.portOfLane l) then
      acts [actionOff (0, l), retuneFails l, modLane l fun x => { x with again := true }, reject3 (.stall (l / 8)) .zs .LANE_CTL l]
    else when (s.retuneNow l)
      (acts [actionOff (0, l), modLane l fun x => { x with plan := true, again := false }, retuneStart l, carryBit 3,
        modThm fun h => { h with retunesC := h.retunesC + 1 }])

/-! ### Beginning the actions (R423, R427) -/

/-- A rail's new target is written; a rail that has faulted since the targets were computed takes none (R421), and a rise of VDDA_LANE is
asked for again. -/
def targetAction (x : Nat × Nat) : Act :=
  .look fun s =>
    acts [actionOff x,
      if s.thm.avsFault.contains (x.1 - 2) then when (x.1 == 3) (modThm fun h => { h with lanePend := true })
      else setF F.SHR_AVS_TARGET_TARGET_MV (x.1 - 2) x.2]

/-- One action that waits begins, if it can. -/
def actionTry (x : Nat × Nat) : Act :=
  if x.1 = 0 then laneAction x.2
  else if x.1 = 1 then tileRetire (x.2 / 100) (x.2 % 100)
  else targetAction x

/-- The actions that wait begin, unless the servo is in ACQUIRING without MARGIN_LOW; then they are deferred for at most 10 minutes. -/
def actionPump : Act :=
  .look fun s =>
    when (s.zolOn && !s.thm.actions.isEmpty) (
      if s.servo = svAcquiring ∧ s.marginBit = false ∧ s.thm.deferred ≠ 2 then
        when (s.thm.deferred == 0) (acts [modThm fun h => { h with deferred := 1, deferAt := s.time.words }, carryBit 5])
      else acts [modThm fun h => { h with deferred := if s.servo = svAcquiring then h.deferred else 0 }, each s.thm.actions actionTry])

/-- SHORING_DEFER_EXPIRE (R427): the 10 minutes have passed, or the servo has left ACQUIRING. -/
def shoringDeferExpire : Act :=
  .look fun s =>
    when (s.thm.deferred == 1 && (s.servo != svAcquiring || s.aged s.thm.deferAt nsTenMin))
      (acts [modThm fun h => { h with deferred := 2 }, actionPump])

/-- RETUNE_COMPLETE, after which the next retunes may begin. -/
def retuneEnds (l : Nat) (good : Bool) (eq : List Byte) : Act := acts [retuneComplete l good eq, actionPump]

/-! ### The planner's cycle (R422 to R429) -/

/-- Whether a cycle may run now: Zolliwin runs, OPEN has been entered, and the mode is one from OPEN onward. -/
def State.canPlan (s : State) : Bool :=
  s.zolOn && s.mode.everOpen && !s.bit F.SHR_STATUS_PLANNING 0 &&
    ([modeOpen, modeLean, modeDrain, modeSealed, modeProving] : List Nat).contains s.opMode

/-- Lanes to retune: of UP ports, below EYE_TARGET, fallen by RETUNE_DROP %, or to be retried; the parent port's last. -/
def State.lanesToTune (s : State) : List Nat :=
  let want := (s.lanes.filter fun e =>
    s.isUp (s.portOfLane e.1) && (e.2.again ||
      match e.2.lowEye with
      | none => false
      | some v => decide (v < s.fld F.SHR_CFG2_EYE_TARGET 0) ||
          (decide (0 < e.2.refEye) && decide (v * 100 ≤ e.2.refEye * (100 - s.fld F.SHR_CFG2_RETUNE_DROP 0))))).map (·.1)
  let last := fun l => s.time.parent == some (s.portOfLane l)
  want.filter (fun l => !last l) ++ want.filter last

/-- The projection with v_req and the lane target of this cycle (R429). -/
def projection (vreq vlane : Nat) : Act :=
  .look fun s =>
    let set := fun r l => modThm fun h => { h with planRemain := r, planLimiter := l }
    match s.oldPoint with
    | none => set 0x3FFFFF 0
    | some x =>
      let h := s.opHours - x.op
      let floor := s.fld F.SHR_CFG_SRAM_FLOOR_MV 0
      match leastTerm [
          term (2803200 - (s.thm.wear : Int)) ((s.thm.wear : Int) - x.wear) h,
          term (8000 - (vreq : Int)) ((vreq : Int) - x.vreq) h,
          term (s.memMargin - (floor : Nat)) (x.mem - s.memMargin) h,
          term (830 - (vlane : Int)) ((vlane : Int) - x.vlane) h] with
      | none => set 0x3FFFFF 0
      | some ((n, d), i) => divFree n d fun r => set (min r 0x3FFFFF) i

/-- Step 2: targets, guard band, retunes, retirements and the projection, with v_time in 0.1 mV. -/
def planCompute (gp vtime : Nat) : Act :=
  .look fun s =>
    let vsram := 10 * (s.vminMax 0 + s.fld F.SHR_CFG_SRAM_FLOOR_MV 0)
    let vreq := max vtime vsram
    let hold := decide (0 < s.effStep) || s.marginBit
    let t0 := coreGoal s.coreTarget vreq hold
    let core := if s.thm.coreUp then max t0 (min 800 (s.coreTarget + 5)) else t0
    let lane := if s.thm.lanePend then min 830 (s.laneTarget + 5) else s.laneTarget
    let faulted := fun r => s.thm.avsFault.contains r
    let doCore := core != s.coreTarget && !faulted 0
    let doLane := lane != s.laneTarget && !faulted 1
    let tune := s.lanesToTune
    let weak := s.weakTiles.filter fun x => (s.slotOf (x / 100) (x % 100)).isSome
    let eye := (s.lanes.filterMap (·.2.lowEye)).foldl (fun (m : Option Nat) v => some (match m with | none => v | some x => min x v)) none
    acts [when (decide (8000 < vreq)) (raise F.SHR_EVT_CAUSE_MARGIN_LOW 0),
      when doCore (carryBit 0), when doLane (carryBit 1), when (gp != s.thm.guard) (carryBit 2),
      modThm fun h => { h with
        vreq := vreq, guard := gp, coreUp := false, lanePend := h.lanePend && faulted 1, planRb := [], deferred := 0
        actions := (if doCore then [(2, core)] else []) ++ (if doLane then [(3, lane)] else []) ++ tune.map (fun l => (0, l)) ++
          weak.map fun x => (1, x) },
      (match eye with
       | some v => modThm fun h => { h with planEye := v }
       | none => draw fun k => modThm fun h => { h with planEye := k % 65536 }),
      each (s.lanes.map (·.1)) fun l => modLane l fun x => { x with cycEye := x.lowEye, lowEye := none },
      projection vreq (if doLane then lane else s.laneTarget)]

/-- A cycle starts: the histogram is read and cleared, and steps 1 to 3 are made. -/
def cycleStart : Act :=
  .look fun s =>
    acts [setB F.SHR_STATUS_PLANNING 0 true,
      divFree (wearNum s.thm.hist) wearDen fun w => modThm fun h => { h with
        wear := h.wear + w, hist := [], histRec := (List.range 16).foldl (fun t b => tabPut t 0 b (tabGet t 0 b + tabGet s.thm.hist 0 b)) h.histRec
        cyDelta := s.deltaMax, cyCore := s.coreMargin, cyMem := s.memMargin, cyTile := s.tileLow
        cycleAt := some s.time.words, planAt := some (s.time.words + s.fld F.SHR_CFG_PLAN_H 0 * wordsHour) },
      .look fun s =>
        let d := s.deltaMax
        let gmin := s.fld F.SHR_CFG_GUARD_MIN_PS 0
        let gp := match s.oldPoint with
          | none => gmin
          | some x => guardPs gmin d x.delta (s.opHours - x.op) (s.fld F.SHR_CFG_PLAN_H 0)
        divFree (100 * Config.vFresh + Config.vSens * (d + 16 * gp)) 10 (planCompute gp),
      actionPump]

/-- PLANNER_CYCLE_START (R422): the cycle is due. -/
def plannerCycleStart : Act :=
  .look fun s =>
    when (s.canPlan && s.bit F.SHR_CFG_PLAN_EN 0 && (match s.thm.planAt with | none => false | some w => s.aged w 0))
      (acts [when s.thm.unsPend (modThm fun h => { h with unsAt := some s.time.words, unsPend := false }), cycleStart])

/-- A cycle is asked for now; where it cannot run it is due at once. -/
def cycleNow : Act :=
  .look fun s =>
    when (s.bit F.SHR_CFG_PLAN_EN 0)
      (if s.canPlan then cycleStart else modThm fun h => { h with planAt := some s.time.words })

/-- PLAN_NOW (R422, R436). -/
def planNow (req : Req) (value : Word) : Act :=
  onWrite req .SHR_CTL 0 fun rq =>
    when (value.getLsbD 0) (.look fun s =>
      if s.bit F.SHR_STATUS_PLANNING 0 || !s.mode.everOpen then reject3 .shr rq .SHR_CTL 0 else cycleNow)

/-- PLAN_DONE (R423 step 4): every action has ended, or 10 minutes have passed. -/
def planDone : Act :=
  .look fun s =>
    let late := match s.thm.cycleAt with | none => false | some w => s.aged w nsTenMin
    let ended := s.thm.actions.isEmpty && !(s.lanes.any (·.2.plan)) &&
      s.thm.planRb.all fun n => s.fld F.AISLE_REBUILD_STATUS_STATE n == rbIdle
    when (s.zolOn && s.bit F.SHR_STATUS_PLANNING 0 && (ended || late)) (acts [
      planAppend, laneAppends 8 (List.range 64),
      setF F.SHR_STATUS_REMAIN_H 0 s.thm.planRemain, setF F.SHR_STATUS_LIMITER 0 s.thm.planLimiter,
      setB F.SHR_STATUS_PLANNING 0 false, raise F.SHR_EVT_CAUSE_PLAN_DONE 0,
      when (decide (s.thm.planRemain < 17520)) (raise F.SHR_EVT_CAUSE_EOL_NEAR 0)])

/-! ### Canaries (R418, R428) -/

/-- A list of readings as a table whose unlisted places read `d`. -/
def readings (l : List Nat) (n d : Nat) : Tab Nat := (l.take n).zipIdx.foldl (fun t x => tabPut t d x.2 x.1) []

/-- CANARY_SAMPLE (R418, R422, R428): once a second. -/
def canarySample (delta vmin tmargin : List Nat) : Act :=
  .look fun s =>
    when (s.clk.step == 11 && s.aged s.thm.canaryAt 1000000000) (acts [
      modThm fun h =>
        let b := tjBin (toSigned 12 (s.fld F.THM_STATUS_TJ_MAX 0))
        { h with
          delta := readings delta 64 0, vmin := readings vmin 32 0, tmargin := readings tmargin 1600 100
          hist := tabPut h.hist 0 b (tabGet h.hist 0 b + 1), opSec := h.opSec + 1, canaryAt := s.time.words },
      .look fun s =>
        when s.marginLow (acts [
          when (!s.marginBit) (raise F.SHR_EVT_CAUSE_MARGIN_LOW 0),
          when (s.mode.everOpen && !s.bit F.SHR_STATUS_PLANNING 0 && s.bit F.SHR_CFG_PLAN_EN 0 &&
              (match s.thm.unsAt with | none => true | some w => s.aged w nsHour))
            (if s.canPlan then acts [modThm fun h => { h with unsAt := some s.time.words, unsPend := false }, cycleStart]
             else modThm fun h => { h with planAt := some s.time.words, unsPend := true })]),
      actionPump])

/-! ### The rails (R419 to R421) -/

/-- Value a rail was last commanded to, and its target. -/
def State.railNow (s : State) (r : Nat) : Nat := if r = 0 then s.thm.vcore else s.thm.vlane

/-- The value of the next command: toward the target by at most 5 mV. -/
def avsNext (cur tgt : Nat) : Nat := if cur < tgt then min tgt (cur + 5) else max tgt (cur - 5)

/-- Whether the last command of a rail is `ns` old. -/
def State.avsAged (s : State) (r ns : Nat) : Bool := match tabGet s.thm.avsAt none r with | none => true | some w => s.aged w ns

/-- A frame of a rail goes out. -/
def avsFrame (r v : Nat) : Act := .look fun s => acts [modThm fun h => { h with avsAt := tabPut h.avsAt none r (some s.time.words) }, emit (.avs r v)]

/-- AVS_STEP (R419 to R421): a controller's next command, AVS_STEP_MS after the last; a frame that failed is repeated without that wait. -/
def avsStep (r : Nat) (ack : Bool) : Act :=
  .look fun s =>
    let v := avsNext (s.railNow r) (s.fld F.SHR_AVS_TARGET_TARGET_MV r)
    when (decide (7 ≤ s.clk.step) && v != s.railNow r && !s.thm.avsFault.contains r &&
        (tabGet s.thm.avsFail 0 r != 0 || s.avsAged r (s.fld F.SHR_CTL_AVS_STEP_MS 0 * 1000000))) (acts [avsFrame r v,
      if ack then
        acts [modThm fun h => if r = 0 then { h with vcore := v } else { h with vlane := v },
          modThm fun h => { h with avsFail := tabPut h.avsFail 0 r 0 }, calStartAll (s.allPorts.filter s.isUp) 4]
      else
        let n := tabGet s.thm.avsFail 0 r + 1
        if n < 3 then modThm fun h => { h with avsFail := tabPut h.avsFail 0 r n }
        else acts [modThm fun h => { h with avsFail := tabPut h.avsFail 0 r 0, avsFault := addSet h.avsFault r },
          raise F.SHR_EVT_CAUSE_AVS_FAULT 0]])

/-- AVS_FAULT_RETRY (R421): every 10 ms the last value acknowledged is repeated; a frame that succeeds ends the fault. -/
def avsFaultRetry (r : Nat) (ack : Bool) : Act :=
  .look fun s =>
    when (s.thm.avsFault.contains r && s.avsAged r 10000000) (acts [avsFrame r (s.railNow r),
      when ack (modThm fun h => { h with avsFault := h.avsFault.filter (· != r) })])

def execRetuneComplete (l : Fin 512) (good : Bool) (eq : List Byte) (s : State) := ok (retuneEnds l good eq) s
def execCanarySample (delta vmin tmargin : List Nat) (s : State) := ok (coreDo (canarySample delta vmin tmargin)) s
def execPlanNow (req : Req) (value : Word) (s : State) := ok (planNow req value) s
def execPlannerCycleStart (s : State) := ok (coreDo plannerCycleStart) s
def execPlanDone (s : State) := ok (coreDo planDone) s
def execShoringDeferExpire (s : State) := ok (coreDo shoringDeferExpire) s
def execAvsStep (r : Fin 2) (ack : Bool) (s : State) := ok (coreDo (avsStep r ack)) s
def execAvsFaultRetry (r : Fin 2) (ack : Bool) (s : State) := ok (coreDo (avsFaultRetry r ack)) s

end Sys2Proof.Machine
end

