-- ==== Sys2Proof/Machine/Balls.lean ====
section
/-!
DEFINITION. Machine/Balls.lean: the balls of the package: regions (R453), lane sides (R454), service positions (R455), frame sides and
core (R456), and the low-speed signals (R457). Rows and columns run from 1 to 84 (R14).
-/
namespace Sys2Proof.Machine

/-- The clock pairs of the service positions (R455). -/
inductive ClkPair where
  | refclk | pcieRefclk | timeref | timeclkOut
deriving DecidableEq, Repr

/-- The clock pair of a lane side (R455). -/
def clkPair (side : Nat) : ClkPair :=
  match side with
  | 0 => .refclk
  | 1 => .pcieRefclk
  | 2 => .timeref
  | _ => .timeclkOut

/-- What a ball carries. Lane balls name their lane, service balls their side, and a low-speed ball its signal number i. -/
inductive Ball where
  | vss | vddCore | vddMem | vddaLane | vddhLane | vddIo | vddTime | vddAon | reserved
  | txp (lane : Nat) | txn (lane : Nat) | rxp (lane : Nat) | rxn (lane : Nat)
  | clkP (pair : ClkPair) | clkN (pair : ClkPair)
  | rcal (side : Nat) | rcalRtn (side : Nat) | atestP (side : Nat) | atestN (side : Nat) | thdA (side : Nat) | thdK (side : Nat)
  | low (i : Nat)
deriving DecidableEq, Repr

/-- A region of the array with the local coordinates of a ball in it: depth, then position (R453). -/
inductive Place where
  | lane (side d k : Nat)
  | frame (side e k : Nat)
  | core
deriving DecidableEq, Repr

/-- Whether row and column lie in a rectangle. -/
def inBox (r c r0 r1 c0 c1 : Nat) : Bool := decide (r0 ≤ r ∧ r ≤ r1 ∧ c0 ≤ c ∧ c ≤ c1)

/-- The region of a ball (R453). -/
def placeAt (r c : Nat) : Option Place :=
  if inBox r c 1 14 1 70 then some (.lane 0 r c)
  else if inBox r c 1 70 71 84 then some (.lane 1 (85 - c) r)
  else if inBox r c 71 84 15 84 then some (.lane 2 (85 - r) (85 - c))
  else if inBox r c 15 84 1 14 then some (.lane 3 c (85 - r))
  else if inBox r c 15 18 15 66 then some (.frame 0 (r - 14) (c - 14))
  else if inBox r c 15 66 67 70 then some (.frame 1 (71 - c) (r - 14))
  else if inBox r c 67 70 19 70 then some (.frame 2 (71 - r) (71 - c))
  else if inBox r c 19 70 15 18 then some (.frame 3 (c - 14) (71 - r))
  else if inBox r c 19 66 19 66 then some .core
  else none

/-- The ball at depth `d` of position `c` of a stall (R454). -/
def stallBall (s c d : Nat) : Ball :=
  let l := 8 * s + 2 * c
  match d with
  | 2 => .txp l
  | 3 => .txn l
  | 5 => .txp (l + 1)
  | 6 => .txn (l + 1)
  | 8 => .rxp l
  | 9 => .rxn l
  | 11 => .rxp (l + 1)
  | 12 => .rxn (l + 1)
  | 7 => .vddaLane
  | 14 => .vddaLane
  | _ => .vss

/-- The ball at depth `d` of a service position `k` (R455). -/
def serviceBall (side d k : Nat) : Ball :=
  if d ≤ 2 then .reserved
  else if d = 3 ∧ k = 34 then .clkP (clkPair side)
  else if d = 3 ∧ k = 35 then .clkN (clkPair side)
  else if d = 3 ∧ k = 36 then .rcal side
  else if d = 3 ∧ k = 37 then .rcalRtn side
  else if d = 4 ∧ k = 34 then .atestP side
  else if d = 4 ∧ k = 35 then .atestN side
  else if d = 4 ∧ k = 36 then .thdA side
  else if d = 4 ∧ k = 37 then .thdK side
  else .vddhLane

/-- A ball of a lane side (R454). -/
def laneSideBall (side d k : Nat) : Ball :=
  if k ≤ 32 then stallBall (16 * side + (k - 1) / 4) ((k - 1) % 4) d
  else if k ≤ 38 then serviceBall side d k
  else stallBall (16 * side + 8 + (k - 39) / 4) ((k - 39) % 4) d

/-- A ball of a frame side (R456, R457). -/
def frameBall (side e k : Nat) : Ball :=
  if k ≤ 32 then (if (e + k) % 2 = 1 then .vddMem else .vss)
  else if 49 ≤ k then .vss
  else if e ≤ 2 then .low (32 * side + 2 * (k - 33) + (e - 1))
  else if e = 3 then (if k ≤ 42 then .vddIo else if k ≤ 46 then .vddTime else .vddAon)
  else .vss

/-- The ball at row:column (R14, R453 to R457); none outside the array. -/
def ballAt (r c : Nat) : Option Ball :=
  match placeAt r c with
  | none => none
  | some (.lane side d k) => some (laneSideBall side d k)
  | some (.frame side e k) => some (frameBall side e k)
  | some .core => some (if (r + c) % 2 = 0 then .vddCore else .vss)

/-- Row and column of depth `d` and position `k` of a lane side: the inverse of R453's local coordinates. -/
def laneSideXY (side d k : Nat) : Nat × Nat :=
  match side with
  | 0 => (d, k)
  | 1 => (k, 85 - d)
  | 2 => (85 - d, 85 - k)
  | _ => (85 - k, d)

/-- Row and column of depth `e` and position `k` of a frame side. -/
def frameXY (side e k : Nat) : Nat × Nat :=
  match side with
  | 0 => (e + 14, k + 14)
  | 1 => (k + 14, 71 - e)
  | 2 => (71 - e, 71 - k)
  | _ => (71 - k, e + 14)

/-- Position along its lane side of a lane: four positions a stall, the service positions between slots 7 and 8 (R454). -/
def lanePos (l : Nat) : Nat :=
  let u := l / 8 % 16
  (if u < 8 then 4 * u + 1 else 4 * (u - 8) + 39) + l % 8 / 2

/-- Row and column of a lane's TXP ball; TXN, RXP and RXN lie 1, 6 and 7 deeper (R454). -/
def laneXY (l off : Nat) : Nat × Nat := laneSideXY (l / 128) ((if l % 2 = 0 then 2 else 5) + off) (lanePos l)

/-- Row and column of low-speed signal `i` (R457). -/
def lowXY (i : Nat) : Nat × Nat := frameXY (i / 32) (1 + i % 2) (33 + i % 32 / 2)

/-- A signal name with its number. -/
def numbered (name : String) (n : Nat) : String := name ++ toString n

/-- The names of the low-speed signals in order of i (R457). -/
def lowNames : List String :=
  ["NVM_CLK", "NVM_CS_N"] ++ (List.range 8).map (numbered "NVM_DQ") ++ ["NVM_DQS", "NVM_RST_N", "NVM_WP_N", "NVM_REL_N"] ++
  ["RESET_N", "PWRGD", "EVENT_N", "THERMTRIP_N", "HOT_N", "PERST_N"] ++
  ["SMB_SCL", "SMB_SDA", "SMB_ALERT_N"] ++
  ["AVS0_CLK", "AVS0_MDATA", "AVS0_SDATA", "AVS1_CLK", "AVS1_MDATA", "AVS1_SDATA"] ++
  ["LED_CLK", "LED_DATA", "LED_LD"] ++
  ["TCK", "TMS", "TDI", "TDO", "TRST_N", "TEST_EN"] ++
  ["DBG_TXD", "DBG_RXD"] ++
  ["PPS_IN", "PPS_OUT", "TOD_TX", "TOD_RX", "SYNCE_OUT0_P", "SYNCE_OUT0_N", "SYNCE_OUT1_P", "SYNCE_OUT1_N"] ++
  ["MOD_SCLK", "MOD_SDO", "MOD_SDI", "MOD_LD"] ++
  (List.range 4).flatMap (fun q => [numbered "VSNS_CORE_P" q, numbered "VSNS_CORE_N" q]) ++
  (List.range 2).flatMap (fun q => [numbered "VSNS_MEM_P" q, numbered "VSNS_MEM_N" q]) ++
  (List.range 8).flatMap (fun k => [numbered "I2C" k ++ "_SCL", numbered "I2C" k ++ "_SDA"]) ++
  (List.range 4).flatMap (fun s => [numbered "VSNS_LANE_P" s, numbered "VSNS_LANE_N" s]) ++
  (List.range 4).flatMap (fun s => [numbered "VSNS_LANEH_P" s, numbered "VSNS_LANEH_N" s]) ++
  (List.range 8).flatMap (fun n => [numbered "PCIE_TXP" n, numbered "PCIE_TXN" n, numbered "PCIE_RXP" n, numbered "PCIE_RXN" n])

end Sys2Proof.Machine
end

