-- ==== Sys2Proof/Machine/Perf.lean ====
section
/-!
DEFINITION. Machine/Perf.lean: what the PERF blocks count with each time word (R439 to R446), an overflow (R442), and the snapshot
records (R448, R449).
-/
namespace Sys2Proof.Machine

/-! ### Levels and stalls (R443 to R446), sampled with each time word -/

/-- The aisle's ports that hold a frame to admit. -/
def State.aisleHas (s : State) (a : Nat) : Bool :=
  (List.range 32).any fun i => match (s.port (32 * a + i)).fifo with | f :: _ => s.admits f.epoch | [] => false

/-- Whether a waiting request lacks descriptors alone: a buffer of its pool or a larger one is free. -/
def State.waitsDesc (s : State) (r : AllocReq) : Bool :=
  match s.packet r.fid with
  | none => false
  | some k => decide (s.fld F.SWC_DESC_FREE_FREE 0 < k.dests.length + 4096) &&
      (List.range 4).any fun j => decide (k.pool ≤ j) && !s.poolEmpty true j

/-- The first of codes 4 to 7 that stalls an aisle's input (R443): no hewer free, a wait for a buffer, a wait for descriptors, admission
withheld by the throttle step; 0 for none. -/
def State.aisleStall (s : State) (a : Nat) : Nat :=
  let w := s.swc.waits.filter fun r => r.aisle == some a && (r.told || r.toldDesc)
  if !s.aisleHas a then 0
  else if (s.freeHewer a).isNone then 4
  else if w.any fun r => !s.waitsDesc r then 5
  else if !w.isEmpty then 6
  else if s.fld F.AISLE_SRCH_STATUS_STEP a ≠ 0 then 7
  else 0

/-- Of 128 cycles, those in which the throttle step withholds admission: the cycles to which R127 gives fewer than 2 packets (log 187). -/
def withheldCycles (step : Nat) : Nat := if step = 0 then 0 else if step = 1 then 64 else 128

/-- Ports that count for an event: all of them, or the port of the filter. -/
def portsFor (flt : Option Nat) (ports : List Nat) : List Nat :=
  match flt with
  | none => ports
  | some p => ports.filter (· == p)

/-- A port that holds a frame of which no queue is eligible. -/
def State.portBlocked (s : State) (p : Nat) : Bool :=
  !s.queuesEmpty p && !((List.range 9).any fun q => s.eligible (s.refilled p (s.coreNow 0)) p q s.now16)

/-- The value in each cycle of an event that the model samples; `flt` is FILTER where FLT_EN is 1. -/
def State.level (s : State) (b code : Nat) (flt : Option Nat) : Nat :=
  if b < 16 then
    if code = 3 then (if s.aisleStall b = 0 then 0 else 1)
    else if code = 4 ∨ code = 5 ∨ code = 6 ∨ code = 7 then (if s.aisleStall b = code then 1 else 0)
    else if code = 8 then ((s.aisle b).hewers.filter fun e => e.2.run).length
    else if code = 9 then ((s.aisle b).hewers.filter fun e => e.2.run && e.2.call.isSome).length
    else if code = 16 then ((portsFor flt ((List.range 32).map (32 * b + ·))).map fun p => s.fifoFill p / 64).sum
    else 0
  else if b = pbSwc then
    if code = 7 then ((s.sharedSize - s.sharedFree) / 256).toNat
    else if code = 8 then (s.ports.map fun e => (e.2.usedHr.map (·.2)).sum).sum / 256
    else if code = 9 then
      (match flt with
       | some k => s.poolFree (k % 4)
       | none => ((List.range 4).map s.poolFree).sum)
    else if code = 10 then 1048576 - s.fld F.SWC_DESC_FREE_FREE 0
    else if code = 11 then ((List.range 512).filter fun p => s.fld F.SWC_PORT_STATE_XOFF p != 0).length
    else if code = 13 then s.swc.waits.length
    else 0
  else if b = pbSch then
    if code = 5 then ((portsFor flt s.allPorts).filter s.portBlocked).length
    else if code = 6 then ((portsFor flt s.allPorts).map fun p => ((List.range 9).filter (s.qPaused p)).length).sum
    else 0
  else
    if code = 6 then (s.ports.filter fun e => e.2.calDue || e.2.calWait != 0).length
    else if code = 9 then (if s.bit F.CLK_STATUS_CLK_BACKUP 0 then 1 else 0)
    else 0

/-- Cycles of a block's clock in a time word. -/
def wordCycles (b : Nat) : Nat := if b = pbTime then 64 else 128

/-- Cycles of a time word in which an event has its level: of an input stall by the throttle step, those that withhold. -/
def State.levelCycles (s : State) (b code : Nat) : Nat :=
  if b < 16 ∧ (code = 3 ∨ code = 7) ∧ s.aisleStall b = 7 then withheldCycles (s.fld F.AISLE_SRCH_STATUS_STEP b) else wordCycles b

/-- The counters of a block take the levels of a time word's cycles. -/
def levelsAdd (b : Nat) : Act :=
  each (List.range 8) fun n => .look fun s =>
    let i := 8 * b + n
    let v := s.pcValue b n (s.level b (s.fld F.PC_CFG_EVENT i) (if s.bit F.PC_CFG_FLT_EN i then some (s.fld F.PC_CFG_FILTER i) else none))
    when (s.pcOwn b n && decide (0 < v)) (pcAdd b 8 n (v * s.levelCycles b (s.fld F.PC_CFG_EVENT i)))

/-- The blocks' part of a time word. -/
def perfTick : Act :=
  acts [perfEvent pbTime 1 none 64,
    each (List.range 19) fun b => .look fun s =>
      when (s.perfOn b) (acts [cycAdd b (wordCycles b), when (s.perfLive b) (levelsAdd b)])]

/-- TIME_WORD_SEND with the counts of its cycles. -/
def timeWord : Act := .look fun s => acts [timeWordSend, when s.time.running perfTick]

/-- PERF_OVERFLOW (R442): an increment that carries a counter past its end; counter 8 is PERF_CYC. A counter into which the one below
chains counts those carries only. -/
def perfOverflow (b ctr value : Nat) : Act :=
  .look fun s =>
    when (s.perfOn b) (
      if ctr < 8 then when (s.perfLive b && s.pcOwn b ctr && decide (2 ^ 48 ≤ (s.pcOf b ctr).toNat + value)) (pcAdd b 8 ctr value)
      else when (decide (2 ^ 64 ≤ (s.perfB b).cyc.toNat + value)) (cycAdd b value))

/-! ### Snapshots (R448, R449) -/

/-- The 80 octets of a block. -/
def State.snapBlock (s : State) (b : Nat) : List Byte :=
  leBytes 8 (s.perfB b).cyc.toNat ++ ((List.range 8).map fun n => leBytes 8 (s.pcOf b n).toNat).flatten ++
    leBytes 1 (s.fld F.PERF_STATUS_OVF b) ++
    leBytes 1 (s.fld F.PERF_STATUS_CYC_OVF b + 2 * s.fld F.PERF_CTL_EN b + 4 * s.fld F.PERF_GLOBAL_CTL_FREEZE 0) ++ leBytes 6 0

/-- The instant of a snapshot: the last device time, in ns, whose nanoseconds field is a multiple of the period. -/
def State.snapTime (s : State) : Nat := s.nowNs - s.nowNs % 10 ^ 9 % (max 1 (s.fld F.PERF_SNAP_CFG_PERIOD_US 0 * 1000))

/-- Octets 0x08 onward of a record. -/
def State.snapBody (s : State) : List Byte :=
  leBytes 6 (s.snapTime / 10 ^ 9) ++ leBytes 4 (s.snapTime % 10 ^ 9) ++ leBytes 2 0 ++ leBytes 2 (s.fld F.SYS_EPOCH_CURRENT 0) ++
    leBytes 1 19 ++ leBytes 9 0 ++ ((List.range 19).map s.snapBlock).flatten

/-- Address of the slot of record `seq` in the ring at PERF_SNAP_BASE (R448). -/
def State.snapSlot (s : State) (seq : Nat) : Nat :=
  s.fld F.PERF_SNAP_BASE_HI_ADDR 0 * 2 ^ 32 + s.fld F.PERF_SNAP_BASE_LO_ADDR 0 * 2048 +
    seq % 2 ^ (s.fld F.PERF_SNAP_CFG_LOG2_SIZE 0) * 2048

/-- A record is due: its instant is later than those that are past. -/
def State.snapDue (s : State) : Bool :=
  s.mode.started && s.time.running && s.bit F.PERF_SNAP_CFG_SNAP_EN 0 && decide (s.clk.snapAt < s.snapTime)

/-- PERF_SNAPSHOT: one record at each instant. Octets from 8 on are written first and SEQ last; SEQ advances for a lost record too, and
PERF_SNAP_SEQ takes that of a record written (R452). -/
def perfSnapshot (good : Bool) : Act :=
  .look fun s =>
    when s.snapDue (
      let seq := (s.clk.snapSeq + 1) % 2 ^ 32
      let a := s.snapSlot seq
      acts [modClk fun c => { c with snapAt := s.snapTime, snapSeq := seq },
        if good && !s.clk.perst then
          acts [hostWrite (a + 8) s.snapBody, hostWrite a (leBytes 4 0x50465331), hostWrite (a + 4) (leBytes 4 seq),
            setF F.PERF_SNAP_SEQ_SEQ 0 seq]
        else addSat F.PERF_SNAP_STATUS_LOST 0 1])

def execTimeWordSend (s : State) := ok timeWord s
def execPerfOverflow (b : Fin 19) (ctr : Fin 9) (value : Nat) (s : State) := ok (coreDo (perfOverflow b ctr value)) s
def execPerfSnapshot (good : Bool) (s : State) := ok (coreDo (perfSnapshot good)) s

end Sys2Proof.Machine
end

