-- ==== Sys2Proof/Machine/Pins.lean ====
section
/-!
DEFINITION. Machine/Pins.lean: the levels of the output pins (R463), the LED chain (R466) and the instruction register of the JTAG port
(R392, R469).
-/
namespace Sys2Proof.Machine

/-! ### Output pins (R463) -/

/-- The output signals of R463. `nvmBus` stands for NVM_CLK, NVM_DQ and NVM_DQS. -/
inductive OutPin where
  | eventN | smbAlertN | thermtripN | hotN | smb | avsClk | avsMdata | tdo | ledClk | ledData | ledLd | dbgTxd | ppsOut | todTx | synceOut0 | synceOut1
  | nvmBus | nvmCsN | nvmRstN | nvmWpN | nvmRelN | modSclk | modSdo | modLd | i2c | pcieTx
deriving DecidableEq, Repr

/-- What an output does: driven low or high, differential low, an open drain released, high impedance, electrical idle, or carrying the
signal of its function. -/
inductive Level where
  | low | high | diffLow | released | highZ | idle | active
deriving DecidableEq, Repr

/-- The In reset column of R463; THERMTRIP_N apart, which follows the latched trip. -/
def OutPin.inReset (p : OutPin) : Level :=
  match p with
  | .eventN => .released
  | .smbAlertN => .released
  | .thermtripN => .released
  | .hotN => .released
  | .smb => .released
  | .avsClk => .low
  | .avsMdata => .high
  | .tdo => .highZ
  | .ledClk => .low
  | .ledData => .low
  | .ledLd => .low
  | .dbgTxd => .high
  | .ppsOut => .low
  | .todTx => .high
  | .synceOut0 => .diffLow
  | .synceOut1 => .diffLow
  | .nvmBus => .highZ
  | .nvmCsN => .highZ
  | .nvmRstN => .highZ
  | .nvmWpN => .highZ
  | .nvmRelN => .low
  | .modSclk => .low
  | .modSdo => .low
  | .modLd => .high
  | .i2c => .released
  | .pcieTx => .idle

/-- The device owns the NVM bus: out of reset, and the bus not released (R361, R463). -/
def State.ownsNvm (s : State) : Bool := decide (7 ≤ s.clk.step) && !s.bit F.NVM_STATUS_HOLD_ACTIVE 0

/-- An open drain that a condition pulls low. -/
def openDrain (low : Bool) : Level := if low then .low else .released

/-- What a SYNCE_OUT carries: with SEL 0, 6 or 7 it is off (R261). -/
def State.synceLevel (s : State) (sel : Nat) : Level := if s.clk.step < 7 ∨ [0, 6, 7].contains sel then .diffLow else .active

/-- The level of an output between the transfers of its function, which are outputs of commands (R463). THERMTRIP_N and HOT_N follow
their conditions at once; a ball that the device has not driven yet stands as in reset, here up to step 7 of R315 (log 159). -/
def State.pinLevel (s : State) (p : OutPin) : Level :=
  match p with
  | .thermtripN => openDrain s.clk.thermLow
  | .hotN => openDrain (s.bit F.THM_STATUS_OVER_LIMIT 0)
  | .eventN => openDrain s.eventN
  | .smbAlertN => openDrain s.alertN
  | .nvmBus => if s.ownsNvm then .active else .highZ
  | .nvmCsN => if s.ownsNvm then .high else .highZ
  | .nvmRstN => if s.ownsNvm then .high else .highZ
  | .nvmWpN => if s.ownsNvm then (if s.nvm.prog.isSome then .high else .low) else .highZ
  | .nvmRelN => if s.ownsNvm then .high else .low
  | .pcieTx => if s.clk.pcieUp then .active else .idle
  | .synceOut0 => s.synceLevel s.time.clkOuts.2.1
  | .synceOut1 => s.synceLevel s.time.clkOuts.2.2
  | q => q.inReset

/-! ### The LED chain (R466) -/

/-- Bits 2L and 2L + 1 of the LED frame. -/
def State.ledBits (s : State) (l : Nat) : List Bool :=
  if s.mode.started && s.starts l then
    [s.isUp l, match (s.port l).actAt with | none => false | some a => decide (s.time.words < a + 625000)]
  else [false, false]

/-- LED_SCAN (R466): every 20 ms, one frame of 1,024 bits, bit 0 of the list being bit 0; all 0 in SHUTTERS. Nothing is shifted in
COLD. -/
def ledScan : Act :=
  .look fun s => when (s.opMode != modeCold && s.aged s.clk.ledAt 20000000) (acts [modClk fun c => { c with ledAt := s.time.words }, emit (.led ((List.range 512).map s.ledBits).flatten)])

/-! ### JTAG (R392, R469) -/

/-- EXTEST: the parts of reach 2 are held in reset while the instruction is loaded. -/
def extest : Act :=
  .look fun s =>
    acts [modClk fun c => { c with jtagEx := true, jtagIr := 1 }, when (!s.clk.jtagEx) (assertSrc srcExtest)]

/-- The EXTEST class leaves the instruction register: its source is released. -/
def extestEnd : Act := acts [releaseSrc srcExtest srcExtestOff, modClk fun c => { c with jtagEx := false }]

/-- IDCODE: version 0x1 for stepping B1, part 0x1024, Henura's code, and the 1 of IEEE 1149.1 (R469). -/
def jtagIdcode : BitVec 32 := 0x1#4 ++ 0x1024#16 ++ Config.jtagMaker ++ 1#1

/-- Debug is open (R392): from step 7 of R315 on the options say so; DEBUG_OPEN shows it at SHUTTERS. -/
def State.debugOpen (s : State) : Bool := decide (7 ≤ s.clk.step) && !s.clk.opts.sbPolicy.testBit 0

/-- JTAG_INSTRUCTION_LOAD: class 0 IDCODE, 1 EXTEST, 2 BYPASS and the others that do nothing to the device, 3 Henura debug, which acts as
BYPASS while debug is locked, 4 the reset of the TAP that TRST_N low brings: IDCODE is the instruction in force, and nothing is shifted
out until TRST_N is high again and an instruction is loaded (log 190). -/
def jtagInstructionLoad (cls : Nat) : Act :=
  if cls = 1 then extest
  else
    .look fun s =>
      let ir := if cls = 3 ∧ s.debugOpen = false then 2 else if cls = 4 then 0 else cls
      acts [when s.clk.jtagEx extestEnd, modClk fun c => { c with jtagIr := ir },
        when (cls == 0) (emit (.jtagId jtagIdcode))]

def execLedScan (s : State) := ok (coreDo ledScan) s
def execExtest (s : State) := ok extest s
def execJtagInstructionLoad (cls : Fin 5) (s : State) := ok (jtagInstructionLoad cls) s

end Sys2Proof.Machine
end

