-- ==== Sys2Proof/Machine/RegRead.lean ====
section
/-!
DEFINITION. Machine/RegRead.lean: the register an address names (R4, R273), and the word a read of it returns (R5, R275): most words are
stored; those that show other state are formed here. No read changes state.
-/
namespace Sys2Proof.Machine

/-! ### Addresses -/

/-- Indices of an offset from a register's base, outermost first; none if it is not the start of a place. -/
def regIndex (dims : List (Nat × Nat)) (off acc : Nat) : Option Nat :=
  match dims with
  | [] => if off = 0 then some acc else none
  | d :: r => if off / d.1 < d.2 then regIndex r (off % d.1) (acc * d.2 + off / d.1) else none

/-- The place of a register that a full-window address names. -/
def regPlace (addr : Nat) (r : Reg) : Option (Reg × Nat) :=
  if addr < r.base then none else (regIndex r.dims (addr - r.base) 0).map (r, ·)

/-- The register and place of a full-window address; none is a reserved location (R273). -/
def findReg (addr : Nat) : Option (Reg × Nat) := Reg.all.findSome? (regPlace addr)

/-! ### Words that show other state -/

/-- A word with a field replaced. -/
def withF (f : Fld) (v : Nat) (w : Word) : Word := putBits w f.lo f.w v

/-- Summary of leaf words `lo` to `lo + n - 1` (R298). -/
def State.summary (s : State) (st en : Reg) (lo n : Nat) : Word :=
  BitVec.ofNat 32 (((List.range n).filter fun i => s.raw st (lo + i) &&& s.raw en (lo + i) != 0).map (2 ^ ·)).sum

/-- A capture as AISLE_MC_CAPTURE and PE_MC_CAPTURE show it (R169). -/
def mcapWord (c : List MCap) (pe : Bool) : Word :=
  match c with
  | [] => 0
  | x :: _ => BitVec.ofNat 32 (x.kind * 2 ^ 29 + (if pe then 0 else x.hewer * 2 ^ 24) + x.addr.toNat * 2 ^ 11 + x.groups.toNat * 2 ^ 3)

/-- Hewers of an aisle that are held. -/
def State.heldCount (s : State) (a : Nat) : Nat := ((s.aisle a).hewers.filter fun e => e.2.held.isSome).length

/-- Milliseconds to the watchdog's expiry; the count stands while the watchdog is disabled (R324). -/
def State.wdtRemain (s : State) : Nat :=
  if s.bit F.CLK_WDT_CFG_WDT_EN 0 then s.clk.wdtMs - (s.time.words - s.clk.wdtAt) / wordsMs else s.clk.wdtMs

/-- The word of a register's place with the fields that other state shows. -/
def State.shown (s : State) (r : Reg) (n : Nat) : Word :=
  let w := s.raw r n
  match r with
  | .SYS_REV => withF F.SYS_REV_ROM_REV Config.romRev.toNat w
  | .SYS_UID_LO => s.otp.uid.setWidth 32
  | .SYS_UID_HI => (s.otp.uid >>> 32).setWidth 32
  | .EVT_SUMMARY0 => s.summary .EVT_STATUS .EVT_ENABLE 0 32
  | .EVT_SUMMARY1 => s.summary .EVT_STATUS .EVT_ENABLE 32 24
  | .EVT_Z_SUMMARY0 => s.summary .EVT_Z_STATUS .EVT_Z_ENABLE 0 32
  | .EVT_Z_SUMMARY1 => s.summary .EVT_Z_STATUS .EVT_Z_ENABLE 32 24
  | .CLK_WDT_STATUS => withF F.CLK_WDT_STATUS_REMAIN_MS s.wdtRemain w
  | .QTR_STATUS => withF F.QTR_STATUS_FLUSH_BUSY (if s.flushBusy n then 1 else 0) w
  | .QTR_CRIER_STATUS => withF F.QTR_CRIER_STATUS_FIFO_LEVEL (s.qtr n).fifo.length w
  | .AISLE_TILE_CFG =>
    let a := n / 100
    let t := n % 100
    withF F.AISLE_TILE_CFG_ROLE (s.tileRole a t) (withF F.AISLE_TILE_CFG_SLOT (match s.slotOf a t with | some x => x.2 | none => 0) w)
  | .AISLE_MC_STATUS =>
    withF F.AISLE_MC_STATUS_FENCED (if (s.aisle n).fenced then 1 else 0) (withF F.AISLE_MC_STATUS_MC_RECENT (s.mcRecent n)
      (withF F.AISLE_MC_STATUS_HELD (s.heldCount n) (withF F.AISLE_MC_STATUS_CAP_LEVEL (s.store n).caps.length w)))
  | .AISLE_MC_CAPTURE => mcapWord (s.store n).caps false
  | .PE_STATUS =>
    withF F.PE_STATUS_RUNNING (if s.peRuns && s.pe.eng.held.isNone then 1 else 0) (withF F.PE_STATUS_HELD (if s.pe.eng.held.isSome then 1 else 0)
      (withF F.PE_STATUS_MC_RECENT (s.mcRecent 16) (withF F.PE_STATUS_WHEEL_POS s.pe.cur w)))
  | .PE_MC_CAPTURE => mcapWord s.pe.mc.caps true
  | .SEC_STATUS =>
    withF F.SEC_STATUS_OWNED (if s.otp.ownerHash.isSome then 1 else 0)
      (withF F.SEC_STATUS_OWNER_BAD (if s.otp.ownerBad then 1 else 0)
        (withF F.SEC_STATUS_REVOKED (((List.range 4).filter s.otp.revoked).map (2 ^ ·)).sum
          (withF F.SEC_STATUS_FIELDS_USED s.otp.fieldsUsed w)))
  | .SEC_SVN =>
    withF F.SEC_SVN_FW (svnCount s.otp.svnFw) (withF F.SEC_SVN_PATCH (svnCount s.otp.svnPatch)
      (withF F.SEC_SVN_IMAGE (svnCount s.otp.svnImage) w))
  | _ => w

/-- SEC fields read 0 for a requester that is no secure master (R275), and so does every field of Zolliwin's ring (R381); WO fields and
reserved bits read 0. -/
def secMask (req : Req) (r : Reg) (n : Nat) : Word :=
  if isRing r && n == 1 && !secureReq req then 0
  else r.fields.foldl (fun m f => if f.sec && !secureReq req then m &&& ~~~ (bitMask f.lo f.w) else m) (regMask r)

/-- The word a requester reads from a register's place. -/
def State.readWord (s : State) (req : Req) (r : Reg) (n : Nat) : Word := s.shown r n &&& secMask req r n

end Sys2Proof.Machine
end

