-- ==== Sys2Proof/Machine/Mailbox.lean ====
section
/-!
DEFINITION. Machine/Mailbox.lean: the mailboxes (R286 to R292): the value IDs, who may use them, and what an operation on each does, by
the home rule of the value (R160, R168, R226, R245, R272, R290, R291, R297, R329, R355, R386, R410, R438, R447).
-/
namespace Sys2Proof.Machine

/-- The octets of words in the byte order of R291. -/
def wordsBytes (l : List Word) : List Byte := (l.map fun w => leBytes 4 w.toNat).flatten

/-! ### Value IDs and their indices (R288, R289) -/

/-- Whether an index of a control store is implemented (R160). -/
def storeIdx (idx : Nat) : Bool :=
  decide (idx < 0x2000) || decide (0x10000 ≤ idx ∧ idx < 0x10020) || decide (0x20000 ≤ idx ∧ idx < 0x20040) ||
    decide (0x30000 ≤ idx ∧ idx < 0x30010)

/-- Control stores: value IDs 0x20 to 0x2F and 0x30. -/
def isStoreVid (vid : Nat) : Bool := decide (0x20 ≤ vid ∧ vid ≤ 0x30)

/-- Whether a value ID and index are implemented. -/
def vidOk (vid idx : Nat) : Bool :=
  if isStoreVid vid then storeIdx idx
  else
    match vid with
    | 0x00 => idx == 0
    | 0x01 => decide (idx ≤ 55)
    | 0x10 => decide (idx < 512)
    | 0x11 => decide (idx < 1024)
    | 0x12 => idx % 4 == 0
    | 0x18 => decide (idx < 8)
    | 0x19 => decide (idx < 4 * 65536)
    | 0x1A => decide (idx < 32)
    | 0x1B => decide (idx < 34)
    | 0x38 =>
      let i := idx % 2 ^ 20
      (match idx / 2 ^ 20 with
       | 0 => decide (i < 512)
       | 1 => decide (i < 4096)
       | 2 => decide (i < 4)
       | 3 => i == 0
       | _ => false)
    | 0x40 => decide (idx < 2 ^ 18)
    | 0x41 => decide (idx < 8192 ∧ idx % 16 ≤ 8)
    | 0x42 => decide (idx < 8192 ∧ idx % 16 ≤ 8)
    | 0x44 => decide (idx < 4096)
    | 0x50 => decide (idx < 512)
    | 0x51 => decide (idx < 512)
    | 0x52 => decide (idx < 64)
    | 0x53 => idx == 0
    | 0x54 => decide (idx < 2048)
    | 0x55 => idx == 0
    | 0x56 => decide (idx < 2048 ∧ idx % 128 ≤ 75)
    | 0x57 => decide (idx < 8)
    | 0x60 => decide (idx < 38)
    | 0x62 => decide (idx < 512)
    | 0x63 => decide (idx < 64)
    | 0x64 => decide (idx < 152)
    | 0x70 => decide (idx ≤ 40)
    | 0x71 => decide (idx ≤ 40)
    | 0x72 => decide (idx < 8)
    | 0x73 => decide (idx < 4)
    | 0x80 => decide (idx < 64)
    | 0x81 => idx == 0
    | 0x82 => decide (idx < 16384)
    | 0x90 => idx == 0
    | 0x91 => decide (idx < 64) || decide (0x10000 ≤ idx ∧ idx < 0x10020) || decide (0x20000 ≤ idx ∧ idx < 0x20000 + 1600)
    | 0x92 => decide (idx < 65536)
    | 0x93 => idx == 0
    | 0xA0 => decide (idx < 4)
    | 0xA1 => decide (idx < 6)
    | 0xA2 => decide (idx < 16)
    | _ => false

def mbClear : Nat := 3

/-- Whether a value takes an operation at all: a WRITE of a read-only value and a READ_CLEAR of one that is no counter are not permitted
(R288, R290). -/
def opOk (vid idx op : Nat) : Bool :=
  if op = mbRead then true
  else if vid = 0x38 then idx / 2 ^ 20 != 1
  else if op = mbWrite then
    if isStoreVid vid then decide (idx < 0x30000)
    else ([0x01, 0x10, 0x11, 0x12, 0x18, 0x19, 0x1A, 0x1B, 0x40, 0x44, 0x55, 0x57, 0x60, 0x64, 0x72, 0x73] : List Nat).contains vid
  else ([0x01, 0x10, 0x11, 0x18, 0x19, 0x1A, 0x1B, 0x60, 0x62, 0x81, 0x90] : List Nat).contains vid

/-- What PF3 may do while USER_PERMIT = 1 (R450). -/
def State.pf3May (s : State) (vid idx op : Nat) : Bool :=
  let user := fun b => s.bit F.PERF_CTL_USER b
  s.bit F.PERF_PERMIT_USER_PERMIT 0 &&
    ((op == mbRead && ([0x60, 0x62, 0x63, 0x41, 0x42] : List Nat).contains vid) ||
      (op != mbRead && vid == 0x60 && user (idx / 2)) || (vid == 0x64 && user (idx / 8)))

/-- Whether a requester may use a value ID in this way (R8, R289, R362, R398, R410, R450). -/
def State.mayUse (s : State) (req : Req) (vid idx op : Nat) : Bool :=
  if vid = 0 then true
  else
    match req with
    | .pf1 => vid == 0x80 || vid == 0x81
    | .pf2 => false
    | .pf3 => s.pf3May vid idx op
    | .smb => false
    | _ => if isStoreVid vid || vid == 0x73 || (vid == 0x72 && op == mbWrite && idx == 7) then secureReq req else true

/-! ### What a read returns -/

def words32 (l : List Nat) : List Word := l.map (BitVec.ofNat 32)

/-- A 48-bit counter in two words, the low one first (R290). -/
def words48 (v : Nat) : List Word := words32 [v, v / 2 ^ 32 % 2 ^ 16]

/-- A 64-bit value, the low word first. -/
def words64 (v : Nat) : List Word := words32 [v, v / 2 ^ 32]

/-- The 48-bit counters of a value (R290). -/
def cntWidth (vid idx : Nat) : Nat :=
  match vid with
  | 0x10 => 8
  | 0x11 => 6
  | 0x18 => if idx % 2 = 0 then 8 else 6
  | 0x19 => 6
  | 0x1A => if idx % 2 = 0 then 8 else 1
  | 0x1B => if idx % 2 = 0 then 8 else if idx = 33 then 4 else 0
  | 0x38 => (match idx / 2 ^ 20 with | 0 => 5 | 2 => 2 | 3 => 1 | _ => 0)
  | 0x51 => 5
  | 0x81 => 7
  | _ => 0

/-- A word of a control store as DATA0 to DATA6 hold it (R160). -/
def State.storeRead (s : State) (k idx : Nat) : List Word :=
  let m := s.store k
  let i := idx % 2 ^ 16
  if idx < 0x10000 then (List.range 7).map fun j => BitVec.ofNat 32 ((m.word (k == 16) i).toNat / 2 ^ (32 * j))
  else if idx < 0x20000 then [((tabGet m.trap 0 i).setWidth 27).setWidth 32]
  else if idx < 0x30000 then [((dispIn m.disp (k == 16) i).setWidth 16).setWidth 32]
  else (List.range 16).map fun j => BitVec.ofNat 32 (((List.range 32).filter fun b => m.bad.contains (512 * i + 32 * j + b)).map (2 ^ ·)).sum

/-- The switch core's counters and balances (R290). -/
def State.swcRead (s : State) (idx : Nat) : List Word :=
  if idx / 2 ^ 20 = 1 then
    let P := s.port (idx % 2 ^ 20 / 8)
    words48 (P.sh (idx % 8)) ++ words48 (P.hr (idx % 8))
  else []

/-- A sampler summary (R226). -/
def State.sampRead (s : State) (idx : Nat) : List Word :=
  let a := (tabGet (s.port (idx / 16)).queues {} (idx % 16)).samp
  words32 [a.dLast, a.dMin, a.dMax, a.sLast, a.sMin, a.sMax, a.count]

/-- A hours-list entry (R226). -/
def State.hlRead (s : State) (idx : Nat) : List Word :=
  let P := s.port (idx / 512)
  let e := tabGet (if idx / 256 % 2 = 0 then P.hl0 else P.hl1) {} (idx % 256)
  [BitVec.ofNat 32 e.ns, e.gates.setWidth 32]

/-- A BFD session (R168). -/
def State.bfdRead (s : State) (idx : Nat) : List Word :=
  let b := s.bfdS idx
  let d := b.pendWr.getD b.data
  (List.range 14).map (fun i => d.getD i 0) ++
    [BitVec.ofNat 32 (b.state * 2 ^ 24 + b.diag * 2 ^ 16 + b.rstate * 2 ^ 8 + b.rmult), b.yourDisc]

/-- A foreign master record (R272); none reads 0. DATA5 holds clockClass, clockAccuracy, priority1 and priority2, from the top; the variance
has no room there (log 101). -/
def State.foreignRead (s : State) (idx : Nat) : List Word :=
  match (s.port (idx / 4)).foreign[idx % 4]? with
  | none => []
  | some r =>
    let quality := r.quality / 2 ^ 32 * 2 ^ 16 + r.quality % 2 ^ 16
    words32 [r.portId, r.portId / 2 ^ 32, r.portId / 2 ^ 64, r.gm, r.gm / 2 ^ 32, quality, (s.time.words - r.at_) * 1000 / words1]

/-- A PERF block (R447). -/
def State.perfRead (s : State) (idx : Nat) : List Word :=
  let b := idx / 2
  if idx % 2 = 0 then ((List.range 8).map fun n => words48 (s.pcOf b n).toNat).flatten
  else words64 (s.perfB b).cyc.toNat ++ words32 [s.fld F.PERF_STATUS_OVF b + 256 * s.fld F.PERF_STATUS_CYC_OVF b]

/-- A canary (R438). -/
def State.canaryRead (s : State) (idx : Nat) : List Word :=
  let i := idx % 2 ^ 16
  if idx < 0x10000 then words32 [tabGet s.thm.delta 0 i]
  else if idx < 0x20000 then
    let v := tabGet s.thm.vmin 0 i
    words32 [v, ofSigned 32 ((if i < 16 then s.thm.vcore else vddMem : Nat) - (v : Int))]
  else words32 [tabGet s.thm.tmargin 100 i]

/-- A mode log entry (R355). -/
def State.logRead (s : State) (idx : Nat) : List Word :=
  match s.mode.log[idx]? with
  | none => []
  | some (ep, before, after, cause, ns) =>
    words32 [ep * 2 ^ 16 + before * 2 ^ 8 + after, cause, ns / 10 ^ 9, ns / 10 ^ 9 / 2 ^ 32 % 2 ^ 16, ns % 10 ^ 9]

/-- A finding of the mismatch log (R386). -/
def State.findRead (s : State) (idx : Nat) : List Word :=
  match s.dma.log[idx]? with
  | none => []
  | some x => words32 [x.place * 2 ^ 16 + x.kind * 2 ^ 8 + x.table, x.index, x.crc.toNat, x.sec, x.ns]

/-- The words of a value; words past the last read 0 (R286). -/
def State.vidRead (s : State) (vid idx : Nat) : List Word :=
  let part := fun (l : List Byte) (c : Nat) => bytesWords (sliceB l (64 * c) 64)
  if 0 < cntWidth vid idx then ((List.range (cntWidth vid idx)).map fun c => words48 (s.cntOf (cntKey vid idx c)).toNat).flatten
  else if isStoreVid vid then s.storeRead (vid - 0x20) idx
  else
    match vid with
    | 0x00 => [s.shown .SYS_IDENT 0, s.shown .SYS_REV 0, s.shown .SYS_UID_LO 0, s.shown .SYS_UID_HI 0]
    | 0x01 => (List.range 16).map fun k =>
        BitVec.ofNat 32 ((s.occOf (32 * idx + 2 * k + 1)).toNat * 2 ^ 16 + (s.occOf (32 * idx + 2 * k)).toNat)
    | 0x38 => s.swcRead idx
    | 0x40 => s.hlRead idx
    | 0x41 => s.sampRead idx
    | 0x42 =>
      let a := (tabGet (s.port (idx / 16)).queues {} (idx % 16)).samp
      (List.range 16).map fun b => BitVec.ofNat 32 (tabGet a.hist 0 b)
    | 0x44 => s.bfdRead idx
    | 0x50 => words32 (s.laneDelays idx true ++ s.laneDelays idx false ++ [(s.stall (idx / 8)).dDist])
    | 0x52 =>
      (match s.time.stepLog[idx]? with
       | none => []
       | some (e, x) => e.setWidth 32 :: words64 (ofSigned 64 x))
    | 0x53 =>
      let t := s.time
      words64 s.gmId ++ words32 [t.gmClass * 2 ^ 24 + t.gmAcc * 2 ^ 16 + t.gmVar, t.parentId, t.parentId / 2 ^ 32, t.parentId / 2 ^ 64,
        t.stepsRm] ++ words64 t.inc
    | 0x54 => s.foreignRead idx
    | 0x55 => s.time.routes
    | 0x56 => part (tabGet s.time.tallyRing [] (idx / 128)) (idx % 128)
    | 0x57 => tabGet s.time.unicast [] idx
    | 0x60 => s.perfRead idx
    | 0x62 => [s.shown .BWM_RX_LAST idx, s.shown .BWM_TX_LAST idx, s.shown .BWM_RX_MAX idx, s.shown .BWM_TX_MAX idx,
        BitVec.ofNat 32 (s.fld F.STALL_BWM_WIN_WIN_US (stallOf idx))]
    | 0x63 => ((List.range 8).map fun j =>
        if s.starts (8 * idx + j) then [s.shown .BWM_RX_LAST (8 * idx + j), s.shown .BWM_TX_LAST (8 * idx + j)] else [0, 0]).flatten
    | 0x64 => [s.shown .PC_CFG idx, s.shown .PC_THR idx]
    | 0x70 => part (publicKey s.didXi) idx
    | 0x71 => if s.sec.akOk then part (publicKey s.akXi) idx else []
    | 0x72 => bytesWords (digestBytes (tabGet s.sec.m 0 idx))
    | 0x73 => bytesWords (digestBytes (tabGet s.sec.reqKeys 0 idx))
    | 0x80 => s.findRead idx
    | 0x82 => bytesWords (s.nvmBytes (s.faultBase + 64 * idx) 64)
    | 0x90 => (List.range 16).map fun b => BitVec.ofNat 32 (tabGet s.thm.hist 0 b)
    | 0x91 => s.canaryRead idx
    | 0x92 => bytesWords (s.nvmBytes (s.ledgerBase + 64 * idx) 64)
    | 0x93 => words32 [s.fld F.SHR_STATUS_REMAIN_H 0, s.fld F.SHR_STATUS_LIMITER 0, s.thm.wear, s.opHours, s.thm.vreq, s.laneTarget,
        s.thm.guard, s.deltaMax]
    | 0xA0 => part s.clk.opts.bytes idx
    | 0xA1 => tabGet s.mode.proveRes [] idx
    | 0xA2 => s.logRead idx
    | _ => []

/-! ### Faults of an operation (R288) -/

/-- The site of an index of value ID 0x12. -/
def siteOf (idx : Nat) : Nat := idx / 2 ^ 18

/-- Whether a control store may be written at an index now (R160). -/
def State.storeOpen (s : State) (k idx : Nat) : Bool :=
  let m := s.store k
  let free := s.opMode == modeSetup || (s.opMode == modeProving && !s.bit F.SYS_PROVE_STATUS_BUSY 0)
  free ||
    (if idx < 0x10000 then
      isRam idx && (m.bad.contains idx || (decide (0x1FF8 ≤ idx) && !(m.trap.any fun e => trapValid e.2 && trapTo e.2 == idx)))
     else decide (0x10018 ≤ idx ∧ idx < 0x10020))

/-- The word that DATA0 to DATA6 give. -/
def dataWord (d : List Word) : BitVec 200 :=
  BitVec.ofNat 200 (((List.range 7).map fun j => (d.getD j 0).toNat * 2 ^ (32 * j)).sum % 2 ^ 200)

/-- Not in this state. -/
def State.vidState (s : State) (vid idx op : Nat) : Bool :=
  if vid = 0x12 then ([siteEmpty, siteReset, siteFaulted] : List Nat).contains (s.site (siteOf idx))
  else if op ≠ mbWrite then false
  else if isStoreVid vid then !s.storeOpen (vid - 0x20) idx
  else if vid = 0x40 then
    let p := idx / 512
    let active := s.fld F.SCH_HL_STATUS_ACTIVE_SLOT p
    if idx / 256 % 2 = active then s.bit F.SCH_HL_STATUS_RUNNING p else s.bit F.SCH_HL_STATUS_ARMED p
  else vid == 0x72 && idx != 7

/-- An operand check of the home rule fails. -/
def State.vidOperand (_s : State) (vid idx op len off : Nat) (d : List Word) : Bool :=
  let w := fun i => (d.getD i 0).toNat
  if vid = 0x12 then decide (len = 0 ∨ 64 < len ∨ 256 < off + len)
  else if op ≠ mbWrite then false
  else if isStoreVid vid then decide (idx < 0x10000) && (!isRam idx || badGroups (dataWord d) != 0)
  else if vid = 0x40 then decide (w 0 < 4 ∨ 10 ^ 9 < w 0 ∨ 512 ≤ w 1)
  else if vid = 0x44 then decide (w 0 % 256 < 2 ∨ w 1 < 3300 ∨ 10000000 < w 1 ∨ w 2 < 3300 ∨ 10000000 < w 2)
  else false

/-- ERRCODE of an operation before it is begun: the first fault in the order of R288, or 0. A WRITE of M0 to M6
is rejected from every requester (R398). -/
def State.mbxFault (s : State) (req : Req) (vid idx op len off : Nat) (d : List Word) : Nat :=
  if op = 0 ∨ 3 < op then 4
  else if !vidOk vid idx then 1
  else if vid = 0x72 ∧ op = mbWrite ∧ idx < 7 then 3
  else if !s.mayUse req vid idx op || !opOk vid idx op then 2
  else if vid = 0x73 ∧ op = mbWrite ∧ s.cfgLock then 2
  else if s.vidState vid idx op then 3
  else if s.vidOperand vid idx op len off d then 4
  else 0

/-- The block that holds a value (R283). -/
def vidBlk (vid idx : Nat) : Blk :=
  if vid = 0x12 then .stall (siteOf idx)
  else if 0x20 ≤ vid ∧ vid < 0x30 then .mc (vid - 0x20)
  else if vid = 0x30 ∨ vid = 0x44 then .pe
  else if 0x40 ≤ vid ∧ vid ≤ 0x42 then .sch
  else if 0x50 ≤ vid ∧ vid ≤ 0x57 then .timeSvc
  else if 0x70 ≤ vid ∧ vid < 0x80 then .sec
  else if 0x80 ≤ vid ∧ vid < 0x90 then .dma
  else if 0x90 ≤ vid ∧ vid < 0xA0 then .shr
  else .sys

/-! ### WRITE and READ_CLEAR -/

/-- The counters of a value take the DATA words; a counter that always reads 0 stays 0. -/
def cntLoad (vid idx : Nat) (d : List Word) : Act :=
  each (List.range (cntWidth vid idx)) fun c =>
    when (!(vid == 0x11 && idx % 2 == 1 && c == 4))
      (.upd (.cnt (cntKey vid idx c) (BitVec.ofNat 48 ((d.getD (2 * c) 0).toNat + (d.getD (2 * c + 1) 0).toNat % 2 ^ 16 * 2 ^ 32))))

/-- A write to a control store; a valid trap entry of the ROM repair raises REPAIR_TRAP (R157, R160). -/
def storeWrite (k idx : Nat) (d : List Word) : Act :=
  let i := idx % 2 ^ 16
  if idx < 0x10000 then modStore k fun m => { m with ram := tabPut m.ram 0 i (dataWord d) }
  else if idx < 0x20000 then
    let t := trapEntry ((d.getD 0 0).setWidth 27)
    acts [modStore k fun m => { m with trap := tabPut m.trap 0 i t },
      when (decide (24 ≤ i) && trapValid t) (if k = 16 then raisePe peRepairTrap else raise F.AISLE_MC_EVT_CAUSE_REPAIR_TRAP k)]
  else modStore k fun m =>
    { m with disp := tabPut m.disp (dispEntry (Config.romDispatch (k == 16) i)) i (dispEntry ((d.getD 0 0).setWidth 16 &&& 0x9FFF#16)) }

/-- A hours-list entry is written. -/
def hlWrite (idx : Nat) (d : List Word) : Act :=
  let e : HlEntry := { ns := (d.getD 0 0).toNat, gates := (d.getD 1 0).setWidth 9 }
  modPort (idx / 512) fun P =>
    if idx / 256 % 2 = 0 then { P with hl0 := tabPut P.hl0 {} (idx % 256) e } else { P with hl1 := tabPut P.hl1 {} (idx % 256) e }

/-- What a WRITE that meets no fault does, but for module memory. -/
def vidWrite (rq : Req) (vid idx : Nat) (d : List Word) : Act :=
  if 0 < cntWidth vid idx then cntLoad vid idx d
  else if isStoreVid vid then storeWrite (vid - 0x20) idx d
  else
    match vid with
    | 0x01 => each (List.range 16) fun k => acts [
        .upd (.occ (32 * idx + 2 * k) ((d.getD k 0).setWidth 16)), .upd (.occ (32 * idx + 2 * k + 1) ((d.getD k 0 >>> 16).setWidth 16))]
    | 0x40 => hlWrite idx d
    | 0x44 => modBfd idx fun b => { b with pendWr := some (d.take 14), zol := d.take 14 }
    | 0x55 => modTime fun t => { t with routes := d.take 15 }
    | 0x57 => modTime fun t => { t with unicast := tabPut t.unicast [] idx (d.take 5) }
    | 0x60 =>
      if idx % 2 = 0 then
        modPerf (idx / 2) fun P => { P with pc := (List.range 8).foldl (fun t n =>
          tabPut t 0 n (BitVec.ofNat 48 ((d.getD (2 * n) 0).toNat + (d.getD (2 * n + 1) 0).toNat % 2 ^ 16 * 2 ^ 32))) P.pc }
      else modPerf (idx / 2) fun P => { P with cyc := BitVec.ofNat 64 ((d.getD 0 0).toNat + (d.getD 1 0).toNat * 2 ^ 32) }
    | 0x64 => acts [writeFields rq .PC_CFG idx (d.getD 0 0), writeFields rq .PC_THR idx (d.getD 1 0)]
    | 0x72 => acts [extendM 7 (BitVec.ofNat 512 (beNat (wordsBytes d))), raise F.SEC_EVT_CAUSE_MEAS_EXTEND 0]
    | 0x73 => modSec fun c => { c with reqKeys := tabPut c.reqKeys 0 idx (BitVec.ofNat 512 (beNat (wordsBytes d))) }
    | _ => .skip

/-- What a READ_CLEAR clears (R282). -/
def vidClear (vid idx : Nat) : Act :=
  if 0 < cntWidth vid idx then cntLoad vid idx []
  else
    match vid with
    | 0x01 => each (List.range 32) fun i => .upd (.occ (32 * idx + i) 0)
    | 0x60 => if idx % 2 = 0 then modPerf (idx / 2) fun P => { P with pc := [] } else modPerf (idx / 2) fun P => { P with cyc := 0 }
    | 0x62 => acts [setF F.BWM_RX_MAX_COUNT idx 0, setF F.BWM_TX_MAX_COUNT idx 0]
    | 0x90 => modThm fun h => { h with hist := [] }
    | _ => .skip

/-! ### An operation (R286, R287) -/

/-- It fails. -/
def mbxErr (n code : Nat) : Act := acts [setB F.MBX_CTL_ERR n true, setF F.MBX_CTL_ERRCODE n code, mbxEnd n]

/-- A transaction of module memory waits for the controller of its site (R56, R291). -/
def moduleIo (n idx op len off : Nat) (d : List Word) : Act :=
  acts [modMbx n fun m => { m with busy := true },
    modEvt fun e => { e with i2cQ := e.i2cQ ++
      [{ mbx := n, site := siteOf idx, op := op, bank := idx / 2 ^ 10 % 256, page := idx / 4 % 256, off := off, len := len
         bytes := if op = mbWrite then (wordsBytes d).take len else [] }] },
    i2cStart (siteOf idx / 8)]

/-- The operation of a mailbox whose fields and DATA words stand. -/
def mbxRun (rq : Req) (n : Nat) : Act :=
  .look fun s =>
    let vid := s.fld F.MBX_SEL_BLOCK n
    let idx := s.fld F.MBX_SEL_INDEX n
    let op := s.fld F.MBX_CTL_OP n
    let len := s.fld F.MBX_CTL_LEN n
    let off := s.fld F.MBX_CTL_OFF n
    let d := (List.range 16).map fun i => s.raw .MBX_DATA (16 * n + i)
    let code := s.mbxFault rq vid idx op len off d
    if code ≠ 0 then
      acts [mbxErr n code, when (code == 3) (reject (vidBlk vid idx) rq (regAddr .MBX_CTL n) 3 vid),
        when (code == 2 && vid == 0x73 && op == mbWrite && secureReq rq && s.cfgLock) (lockedWrite rq (regAddr .MBX_CTL n))]
    else if vid = 0x12 then moduleIo n idx op len off d
    else if op = mbRead ∧ vid = 0x82 then nvmRead n (s.faultBase + 64 * idx)
    else if op = mbRead ∧ vid = 0x92 then nvmRead n (s.ledgerBase + 64 * idx)
    else if op = mbRead then mbxOk n (some (s.vidRead vid idx))
    else if op = mbWrite then acts [vidWrite rq vid idx d, mbxOk n none]
    else acts [vidClear vid idx, mbxOk n (some (s.vidRead vid idx))]

/-- A write of MBX_n_CTL: with GO = 0 it stores OP, LEN and OFF; with GO = 1 it starts an operation, unless one is in progress. -/
def mbxCtl (req : Req) (n : Nat) (ctl : Word) : Act :=
  onWrite req .MBX_CTL n fun rq => .look fun s =>
    let fields := acts [setF F.MBX_CTL_OP n (bits ctl 0 4), setF F.MBX_CTL_LEN n (bits ctl 16 8), setF F.MBX_CTL_OFF n (bits ctl 8 8)]
    if ctl.getLsbD 31 = false then fields
    else if s.bit F.MBX_CTL_GO n then reject3 .dma rq .MBX_CTL n
    else acts [fields, setB F.MBX_CTL_VALID n false, setB F.MBX_CTL_ERR n false, setF F.MBX_CTL_ERRCODE n 0, setB F.MBX_CTL_GO n true,
      mbxRun rq n]

/-- A write of MBX_n_CTL of one operation's row. -/
def mbxRow (op : Nat) (req : Req) (n : Nat) (ctl : Word) : Act := when (ctl.getLsbD 31 && bits ctl 0 4 == op) (mbxCtl req n ctl)

/-- MBX_MODULE_IO_DONE (R287, R291): the I²C transaction of a mailbox that is on a bus ends, and its controller takes the next; a module
that did not respond gives ERR 0x5. A result whose mailbox has been reset is discarded (R292). -/
def mbxModuleIoDone (n : Nat) (resp : Option (List Byte)) : Act :=
  .look fun s =>
    let cur := fun x : I2cTxn => x.mbx == n && x.onBus
    match s.evt.i2cQ.find? cur with
    | none => .skip
    | some x => acts [modEvt fun e => { e with i2cQ := e.i2cQ.eraseP cur },
        when (!x.dropped) (
          match resp with
          | none => mbxErr n 5
          | some l => mbxOk n (if x.op = mbRead then some (bytesWords ((sliceB l 0 x.len) ++ List.replicate 64 0)) else none)),
        i2cStart (x.site / 8)]

def execMbxRead (req : Req) (n : Fin 20) (ctl : Word) (s : State) := ok (mbxRow mbRead req n ctl) s
def execMbxWrite (req : Req) (n : Fin 20) (ctl : Word) (s : State) := ok (mbxRow mbWrite req n ctl) s
def execMbxReadClear (req : Req) (n : Fin 20) (ctl : Word) (s : State) := ok (mbxRow mbClear req n ctl) s
def execMbxModuleIoDone (n : Fin 20) (resp : Option (List Byte)) (s : State) := ok (coreDo (mbxModuleIoDone n resp)) s

end Sys2Proof.Machine
end

