-- ==== Sys2Proof/Machine/Window.lean ====
section
/-!
DEFINITION. Machine/Window.lean: writes of registers through the windows (R273 to R287), the boundaries at which staged fields take
effect (R9, R280), the narrow window and the SMBus target (R277 to R279), and the delivery of events over time (R300).
-/
namespace Sys2Proof.Machine

/-! ### Registers whose write has a rule of its own -/

/-- A write of EVT_ENABLE: a bit that goes from 0 to 1 while its STATUS bit is set sends one message (R300). -/
def enableWrite (rq : Req) (w : Nat) (v : Word) : Act :=
  .look fun s =>
    let rise := v &&& ~~~ (s.raw .EVT_ENABLE w) &&& s.raw .EVT_STATUS w
    acts [writeFields rq .EVT_ENABLE w v, when (rise != 0) (deliver w)]

/-- A write of EVT_Z_ENABLE: a bit that goes from 0 to 1 while its STATUS bit of the firmware view is set interrupts Zolliwin (R296). -/
def zEnableWrite (rq : Req) (w : Nat) (v : Word) : Act :=
  .look fun s =>
    let rise := v &&& ~~~ (s.raw .EVT_Z_ENABLE w) &&& s.raw .EVT_Z_STATUS w
    acts [writeFields rq .EVT_Z_ENABLE w v, when (secureReq rq && rise != 0) (emit (.zolEvt w))]

/-- EVT_TEST (R294, R304): one occurrence of SOURCE; a SOURCE above 1,791 is ignored. -/
def evtTestWrite (v : Word) : Act := when (v.getLsbD 31 && decide (bits v 0 11 ≤ 1791)) (occur (bits v 0 11))

/-- A write of a mailbox register while its GO reads 1 (R287). -/
def mbxFieldWrite (rq : Req) (r : Reg) (n mb : Nat) (v : Word) : Act :=
  .look fun s => if s.bit F.MBX_CTL_GO mb then reject3 .dma rq r n else writeFields rq r n v

/-- CLK_WDT_CFG (R324): a watchdog that is enabled counts down from TIMEOUT_MS; one that is disabled keeps its count (log 160). -/
def wdtCfgWrite (rq : Req) (v : Word) : Act :=
  .look fun s =>
    let was := s.bit F.CLK_WDT_CFG_WDT_EN 0
    let left := s.wdtRemain
    acts [writeFields rq .CLK_WDT_CFG 0 v, .look fun s =>
      if s.bit F.CLK_WDT_CFG_WDT_EN 0 then when (!was) wdtRestart else when was (modClk fun c => { c with wdtMs := left })]

/-- NVM_BOOT: from PF0 only the host as owner writes NEXT_SLOT (R363). -/
def nvmBootWrite (rq : Req) (v : Word) : Act :=
  .look fun s => if isPf0 rq && !s.hostOwns then reject3 .nvm rq .NVM_BOOT 0 else writeFields rq .NVM_BOOT 0 v

/-- Whether a requester may write the registers of a table DMA ring: Zolliwin's ring is SEC throughout (R381). -/
def ringMay (rq : Req) (ring : Nat) : Bool := ring == 0 || secureReq rq

/-- The addresses of a ring, held while EN = 1 (R381). -/
def ringBaseWrite (rq : Req) (r : Reg) (ring : Nat) (v : Word) : Act :=
  when (ringMay rq ring) (.look fun s => if s.bit F.DMA_RING_CFG_EN ring then reject3 .dma rq r ring else writeFields rq r ring v)

/-- DMA_RING_CFG: LOG2_SIZE is held while EN = 1 (R381). -/
def ringCfgWrite (rq : Req) (ring : Nat) (v : Word) : Act :=
  when (ringMay rq ring) (.look fun s =>
    if s.bit F.DMA_RING_CFG_EN ring && bits v 0 4 != s.fld F.DMA_RING_CFG_LOG2_SIZE ring then reject3 .dma rq .DMA_RING_CFG ring
    else writeFields rq .DMA_RING_CFG ring v)

/-- The address of a host packet queue, held while EN = 1 (R382). -/
def hqBaseWrite (rq : Req) (r : Reg) (k : Nat) (v : Word) : Act :=
  .look fun s => if s.bit F.HQ_CFG_EN k then reject3 .dma rq r k else writeFields rq r k v

/-- HQ_CFG (R363, R364, R382): only the host as owner enables a queue; a D2H queue that is disabled terminates what waits. -/
def hqCfgWrite (rq : Req) (k : Nat) (v : Word) : Act :=
  .look fun s =>
    let was := s.bit F.HQ_CFG_EN k
    if v.getLsbD 31 && (isZol rq || !s.hostOwns) then reject3 .dma rq .HQ_CFG k
    else if was && bits v 0 4 != s.fld F.HQ_CFG_LOG2_SIZE k then reject3 .dma rq .HQ_CFG k
    else acts [writeFields rq .HQ_CFG k v, when (was && !v.getLsbD 31 && decide (8 ≤ k)) (d2hTerminate (k - 8))]

/-- HQ_TAIL (R371): an index beyond the ring is rejected. -/
def hqTailWrite (rq : Req) (k : Nat) (v : Word) : Act :=
  .look fun s => if s.hqSize k ≤ bits v 0 12 then reject .dma rq (regAddr .HQ_TAIL k) 4 0 else writeFields rq .HQ_TAIL k v

/-- A write of an ASSAY register: in SEALED it is rejected, with an event of its own (R376). -/
def assayWrite (rq : Req) (r : Reg) (k : Act) : Act :=
  .look fun s =>
    if s.opMode = modeSealed then acts [reject3 .dma rq r 0, raise F.QTR_ASSAY_EVT_CAUSE_REJECTED 0] else k

/-- ASSAY_CFG (R373, R377): a REF_SEL of another value starts a rebase pass; the window and its threshold are judged anew. -/
def assayCfgWrite (rq : Req) (v : Word) : Act :=
  .look fun s =>
    let sel := s.fld F.ASSAY_CFG_REF_SEL 0
    acts [writeFields rq .ASSAY_CFG 0 v,
      .look fun s => setWindow (s.dma.buckets.take (s.fld F.ASSAY_CFG_WIN_S 0)),
      .look fun s => when (s.fld F.ASSAY_CFG_REF_SEL 0 != sel) (refSync true)]

/-- ASSAY_CTL (R363, R373): only the host as owner sets SHADOW_EN; a write of it lets a failed host reference be tried again. -/
def assayCtlWrite (rq : Req) (v : Word) : Act :=
  .look fun s =>
    let on := v.getLsbD 0
    if on && (isZol rq || !s.hostOwns) then reject3 .dma rq .ASSAY_CTL 0
    else acts [writeFields rq .ASSAY_CTL 0 v, modDma fun d => { d with refDead := false }, refSync on]

/-- The directory address, held while SHADOW_EN = 1 (R383). -/
def shadowWrite (rq : Req) (r : Reg) (v : Word) : Act :=
  .look fun s => if s.bit F.ASSAY_CTL_SHADOW_EN 0 then reject3 .dma rq r 0 else writeFields rq r 0 v

/-- Slots of an aisle that name a tile, as a read of the maps shows them: LPM slots as n, rule slots as 64 + n. -/
def State.namers (s : State) (a t : Nat) : List Nat :=
  ((List.range 64).filter fun n => s.rawFld F.AISLE_LPM_MAP_TILE (a * 64 + n) == t) ++
    ((List.range 32).filter fun n => s.rawFld F.AISLE_RULE_MAP_TILE (a * 32 + n) == t).map (64 + ·)

/-- A slot map (R127 to R129): written in SETUP and PROVING; a tile that another slot names, or beyond 99, is rejected. The bands of
slots 62 and 63 are read-only. -/
def mapWrite (rq : Req) (rule : Bool) (n : Nat) (v : Word) : Act :=
  .look fun s =>
    let r := if rule then Reg.AISLE_RULE_MAP else .AISLE_LPM_MAP
    let a := if rule then n / 32 else n / 64
    let slot := if rule then 64 + n % 32 else n % 64
    let t := bits v 0 7
    if !([modeSetup, modeProving].contains s.opMode) then reject3 (.srch a) rq r n
    else if 100 ≤ t then reject (.srch a) rq (regAddr r n) 4 0
    else if (s.namers a t).any (· != slot) then reject3 (.srch a) rq r n
    else writeFields rq r n (if slot = 62 ∨ slot = 63 then putBits (s.raw r n) 0 7 t else v)

/-- AISLE_TILE_CFG (R130). -/
def tileCfgWrite (rq : Req) (n : Nat) (v : Word) : Act :=
  .look fun s =>
    let a := n / 100
    let t := n % 100
    let role := s.tileRole a t
    if s.fld F.AISLE_TILE_CFG_USED n = 0 ∧
        ((role = 0 ∧ s.rbClearing a t = false) ∨ ((role = 1 ∨ role = 2) ∧ [modeSetup, modeProving].contains s.opMode)) then
      writeFields rq .AISLE_TILE_CFG n v
    else reject3 (.srch a) rq .AISLE_TILE_CFG n

/-- SCH_Q_CFG: DWRR is ignored for QT (R224). -/
def qCfgWrite (rq : Req) (n : Nat) (v : Word) : Act :=
  writeFields rq .SCH_Q_CFG n (if n % 9 = 8 then v &&& 0x7FFFFFFF#32 else v)

/-- PERF_GLOBAL_CTL and PERF_PERMIT: ignored through PF3; a permit withdrawn clears SNAP_EN (R450). -/
def permitWrite (rq : Req) (r : Reg) (v : Word) : Act :=
  when (rq != .pf3) (acts [writeFields rq r 0 v,
    when (r == .PERF_PERMIT && !v.getLsbD 0) (setB F.PERF_SNAP_CFG_SNAP_EN 0 false)])

/-- The snapshot registers (R448, R450, R452): PF3 needs the permit; the ring is held while SNAP_EN = 1; SEQ starts anew as SNAP_EN is
set, and instants before a write of PERF_SNAP_CFG are past. -/
def snapWrite (rq : Req) (r : Reg) (v : Word) : Act :=
  .look fun s =>
    let on := s.bit F.PERF_SNAP_CFG_SNAP_EN 0
    let cfg := r == .PERF_SNAP_CFG
    let moves := !cfg || bits v 20 4 != s.fld F.PERF_SNAP_CFG_LOG2_SIZE 0
    if (rq == .pf3 && !s.bit F.PERF_PERMIT_USER_PERMIT 0) || (on && moves) then reject3 .perf rq r 0
    else acts [writeFields rq r 0 v, when cfg (modClk fun c => { c with
        snapAt := s.nowNs, snapSeq := if !on && v.getLsbD 31 then 0 else c.snapSeq })]

/-! ### Any register (R275) -/

/-- A write of a register whose rows are commands of their own: each of its bits acts. -/
def rowWrite (req : Req) (r : Reg) (n : Nat) (v : Word) : Option Act :=
  match r with
  | .STALL_CFG => some (stallCfgWrite req n v)
  | .PORT_CFG => some (portCfgWrite req n v)
  | .PORT_CTL => some (portRestart req n v)
  | .LANE_CTL => some (laneRetune req n v)
  | .QTR_REHASH_CTL => some (rehashStart req n v)
  | .QTR_FLUSH => some (qtrFlushGo req n v)
  | .AISLE_REBUILD_CTL => some (rebuildGo req (n / 4) (n % 4) v)
  | .AISLE_MC_CTL => some (acts [mcResume req n v, mcPop req n v, fence req n v])
  | .PE_MC_CTL => some (acts [mcResume req 16 v, mcPop req 16 v])
  | .MBX_CTL => some (mbxCtl req n v)
  | .TIME_PORT_CTL => some (acts [calReq req n v, probeReq req n v])
  | .TIME_SERVO_CTL => some (acts [forceNone req v, forceHoldover req v, forceFreerun req v])
  | .SCH_HL_CTL => some (acts [hlArm req n v, hlCancel req n v, hlStop req n v])
  | .SCH_SAMP_CTL => some (samplerClear req n v)
  | .SWC_CTL => some (carve req v)
  | .SYS_SWRESET => some (sysSwreset req v)
  | .CLK_SOFT_RST0 => some (softWrite req 0 v 0xFFFFFFFF#32)
  | .CLK_SOFT_RST1 => some (softWrite req 1 v 0xFFFFFFFF#32)
  | .CLK_SOFT_RST2 => some (softWrite req 2 v 0xFFFFFFFF#32)
  | .CLK_WDT_KICK => some (wdtKick req v)
  | .SYS_MODE_REQ => some (onModeReq req v (List.range 8))
  | .SYS_EPOCH_REQ => some (epochReq req v)
  | .SYS_PROVE_CTL => if v.getLsbD 31 then some (proveGo req v) else none
  | .NVM_CTL => some (if v.getLsbD 0 then nvmHoldSet req v else nvmHoldClear req v [])
  | .SYS_OWNER_CTL => if req = .smb then none else some (acts [claim req v, release req v, heartbeat req v])
  | .DMA_RING_TAIL => some (dmaRingTailWrite req n v)
  | .SEC_SVN_CTL => some (svnAdvance req v)
  | .SEC_OTP_CTL => some (acts [burnOwner req v, revoke req v])
  | .SEC_LOCK => some (cfgLockSet req v)
  | _ => none

/-- The effect of a write that has arrived, of a register that has no row of its own. -/
def plainWrite (rq : Req) (r : Reg) (n : Nat) (v : Word) : Act :=
  match r with
  | .EVT_STATUS => acts [clearStatus .EVT_STATUS n v, syncAlert]
  | .EVT_Z_STATUS => when (secureReq rq) (clearStatus .EVT_Z_STATUS n v)
  | .EVT_Z_ENABLE => zEnableWrite rq n v
  | .EVT_ENABLE => acts [enableWrite rq n v, syncAlert]
  | .EVT_ROUTE => acts [writeFields rq .EVT_ROUTE n v, syncAlert]
  | .EVT_TEST => evtTestWrite v
  | .SYS_IF_CFG => acts [writeFields rq .SYS_IF_CFG 0 v, syncAlert]
  | .SYS_OWNER_CTL => reject3 .sys rq .SYS_OWNER_CTL 0
  | .SYS_MODE_CFG => acts [writeFields rq .SYS_MODE_CFG 0 v, sealLatch]
  | .MBX_SEL => mbxFieldWrite rq .MBX_SEL n n v
  | .MBX_DATA => mbxFieldWrite rq .MBX_DATA n (n / 16) v
  | .CLK_WDT_CFG => wdtCfgWrite rq v
  | .NVM_BOOT => nvmBootWrite rq v
  | .DMA_RING_BASE_LO => ringBaseWrite rq .DMA_RING_BASE_LO n v
  | .DMA_RING_BASE_HI => ringBaseWrite rq .DMA_RING_BASE_HI n v
  | .DMA_CPL_BASE_LO => ringBaseWrite rq .DMA_CPL_BASE_LO n v
  | .DMA_CPL_BASE_HI => ringBaseWrite rq .DMA_CPL_BASE_HI n v
  | .DMA_RING_CFG => ringCfgWrite rq n v
  | .HQ_BASE_LO => hqBaseWrite rq .HQ_BASE_LO n v
  | .HQ_BASE_HI => hqBaseWrite rq .HQ_BASE_HI n v
  | .HQ_CFG => hqCfgWrite rq n v
  | .HQ_TAIL => hqTailWrite rq n v
  | .ASSAY_CFG => assayWrite rq .ASSAY_CFG (assayCfgWrite rq v)
  | .ASSAY_RATE => assayWrite rq .ASSAY_RATE (writeFields rq .ASSAY_RATE 0 v)
  | .ASSAY_SHADOW_LO => assayWrite rq .ASSAY_SHADOW_LO (shadowWrite rq .ASSAY_SHADOW_LO v)
  | .ASSAY_SHADOW_HI => assayWrite rq .ASSAY_SHADOW_HI (shadowWrite rq .ASSAY_SHADOW_HI v)
  | .ASSAY_CTL => assayWrite rq .ASSAY_CTL (assayCtlWrite rq v)
  | .ASSAY_STATUS => assayWrite rq .ASSAY_STATUS .skip
  | .SEC_CFG => secCfgWrite rq v
  | .TIME_PTP_CFG => ptpCfgWrite rq v
  | .TIME_PORT_PTP => portPtpWrite rq n v
  | .TIME_DPLL_CFG => dpllWrite rq .TIME_DPLL_CFG v
  | .TIME_DPLL_QL => dpllWrite rq .TIME_DPLL_QL v
  | .TIME_DPLL_SRC => dpllSrcWrite rq v
  | .TIME_OUT_CFG => outCfgWrite rq v
  | .AISLE_LPM_MAP => mapWrite rq false n v
  | .AISLE_RULE_MAP => mapWrite rq true n v
  | .AISLE_TILE_CFG => tileCfgWrite rq n v
  | .SCH_Q_CFG => qCfgWrite rq n v
  | .SWC_POOL_RSV => acts [writeFields rq .SWC_POOL_RSV n v, syncSwc]
  | .SHR_AVS_TARGET => writeFields rq .SHR_AVS_TARGET n (BitVec.ofNat 32 (railRange n (bits v 0 10)))
  | .PERF_GLOBAL_CTL => permitWrite rq .PERF_GLOBAL_CTL v
  | .PERF_PERMIT => permitWrite rq .PERF_PERMIT v
  | .PERF_SNAP_BASE_LO => snapWrite rq .PERF_SNAP_BASE_LO v
  | .PERF_SNAP_BASE_HI => snapWrite rq .PERF_SNAP_BASE_HI v
  | .PERF_SNAP_CFG => snapWrite rq .PERF_SNAP_CFG v
  | r => writeFields rq r n v

/-- A write of place `n` of a register: one bus error, or its effect. A register with a row of its own and other RW fields stores those
too: SHR_CTL. -/
def wordWrite (req : Req) (r : Reg) (n : Nat) (v : Word) : Act :=
  onWrite req r n fun rq =>
    if r = .SHR_CTL then acts [writeFields rq r n v, planNow req v]
    else
      match rowWrite req r n v with
      | some a => a
      | none => plainWrite rq r n v

/-- The full-window address of an address that a requester uses: PF1, PF2 and PF3 address their own BAR0, in which the ring registers, the
queue registers or the global PERF registers come first and the function's mailboxes stand at +0x1000 (R362, R450); none for an offset
that the BAR0 does not map. -/
def windowAddr (req : Req) (a : Nat) : Option Nat :=
  let bar := fun (n base : Nat) (m : Nat) =>
    if a < n then some (base + a) else if 0x1000 ≤ a ∧ a < 0x1400 then some (0x3810000 + m * 0x100 + (a - 0x1000)) else none
  match req with
  | .pf1 => bar 0x30 0x3800000 4
  | .pf2 => bar 0x200 0x3820000 8
  | .pf3 => bar 0x40 0x3002000 12
  | _ => some a

/-- REGISTER_WRITE (R274, R275): KIND follows the order shape, reserved location, block not started. -/
def registerWrite (req : Req) (shapeOk : Bool) (addr : Nat) (v : Word) : Act :=
  .look fun s =>
    when (s.arrives req) (
      if !shapeOk || addr % 4 != 0 then busError (s.asReq req) addr 1 true
      else
        match (windowAddr req addr).bind findReg with
        | none => busError (s.asReq req) addr 0 true
        | some (r, n) => wordWrite req r n v)

/-- EVT_TEST (R294): a write of EVT_TEST. -/
def evtTest (req : Req) (value : Word) : Act := onWrite req .EVT_TEST 0 fun _ => evtTestWrite value

/-! ### Boundaries (R9, R280) -/

/-- Registers with a field of type `pkt` on the path of an aisle, of a quarter, in the switch core and at a port of it. -/
def pktAisleRegs : List Reg := [Reg.AISLE_LPM_MAP, .AISLE_RULE_MAP]
def pktQtrRegs : List Reg := [Reg.QTR_LEARN_CFG, .QTR_ECMP_CFG, .QTR_ECMP_SEED, .QTR_PCOL_MAP]
def frmRegs : List Reg := [Reg.PORT_CFG, .SCH_Q_CFG, .TIME_PORT_CFG, .TIME_PORT_ASYM]
def gateRegs : List Reg := [Reg.SCH_PORT_CFG, .SCH_PORT_RATE, .SCH_PORT_BURST, .SCH_Q_CFG, .SCH_Q_MIN, .SCH_Q_MAX, .SCH_Q_BURST]

/-- Whether place `n` of a register belongs to unit `i` (an aisle, a quarter or a port). -/
def placeIn (r : Reg) (n i : Nat) : Bool := outerIdx r n == i

/-- The boundary at which the fields marked gate of a port apply (R206): the start of a cycle of its running hours list, within the last
time word; with no list running, a frame boundary of the port. -/
def State.gateDue (s : State) (p : Nat) : Bool :=
  if s.bit F.SCH_HL_STATUS_RUNNING p then
    decide (hlPos s.nowNs (s.port p).hlBase (s.port p).hlCycle * 2 ^ 48 + s.time.acc % 2 ^ 48 < 64 * s.time.inc)
  else (s.port p).tx.isNone

/-- STAGED_FIELD_APPLY: the staged fields of a boundary take effect. At a gate boundary the buckets keep their contents, up to the new
sizes (R207). -/
def stagedFieldApply (bnd : Boundary) (i : Nat) : Act :=
  match bnd with
  | .pktAisle => applyStaged (fun r n => pktAisleRegs.contains r && placeIn r n i) .pkt
  | .pktQtr => applyStaged (fun r n => pktQtrRegs.contains r && placeIn r n i) .pkt
  | .pktSwc => applyStaged (fun r _ => r == .SWC_CFG) .pkt
  | .pktPort => applyStaged (fun r n => r == .SWC_PORT_CFG && n == i) .pkt
  | .frmPort => .look fun s => acts [applyStaged (fun r n => frmRegs.contains r && (if r == .SCH_Q_CFG then n / 9 == i else n == i)) .frm, followPfcEn i (s.pfcPrios i)]
  | .gatePort =>
    .look fun s => when (s.gateDue i) <|
      acts [modPort i fun _ => s.refilled i (s.coreNow 0),
        applyStaged (fun r n => gateRegs.contains r && (if [Reg.SCH_Q_CFG, .SCH_Q_MIN, .SCH_Q_MAX, .SCH_Q_BURST].contains r then n / 9 == i else n == i)) .gate,
        .look fun s => modPort i fun _ => s.refilled i (s.coreNow 0)]

/-! ### Narrow window and SMBus (R277 to R279) -/

/-- The full-window address behind a narrow-window address. -/
def narrow (a : Nat) : Option Nat :=
  if a % 4 ≠ 0 ∨ 65536 ≤ a then none
  else if a < 0x1000 then some a
  else if a < 0x1010 then some (0x100500 + (a - 0x1000))
  else if 0x2000 ≤ a ∧ a < 0x3000 then some (0x220000 + (a - 0x2000))
  else none

/-- What a read through the narrow window returns. -/
def State.narrowRead (s : State) (a : Nat) : Word :=
  match (narrow a).bind findReg with
  | none => 0
  | some (r, n) => s.readWord .smb r n

/-- The packet error code of SMBus 3.1: CRC-8 of x^8 + x^2 + x + 1 over the octets of the transaction. -/
def smbPec (l : List Byte) : Byte :=
  l.foldl (fun (c : Byte) x => (List.range 8).foldl (fun (c : Byte) _ => (c <<< 1) ^^^ (if c.getLsbD 7 then 7#8 else 0#8)) (c ^^^ x)) 0#8

/-- What the SMBus target answers to REG_READ: count, value least significant octet first, PEC over the whole transaction (R278). -/
def State.smbAnswer (s : State) (a : Nat) : List Byte :=
  let adr := 2 * s.clk.opts.smbAddr
  let d := 4#8 :: leBytes 4 (s.narrowRead a).toNat
  d ++ [smbPec ([BitVec.ofNat 8 adr, 0x20#8, 2#8] ++ beBytes 2 a ++ [BitVec.ofNat 8 (adr + 1)] ++ d)]

/-- A command code of the SMBus that reaches the target: the row's own code acts; the codes of the other commands belong to other rows;
any other code is not acknowledged (R278). -/
def onSmb (code own : BitVec 8) (k : Act) : Act :=
  .look fun s => when (s.arrives .smb) (
    if code = own then k else when (code != 0x20 && code != 0x21 && code != 0x0F) (emit .smbNack))

/-- A read through the full window: its value, or a bus error (R274, R275). -/
def windowRead (req : Req) (shapeOk : Bool) (addr : Nat) : Act :=
  .look fun s =>
    when (s.arrives req) (
      let err := fun kind => busError (s.asReq req) addr kind false
      if !shapeOk || addr % 4 != 0 then err 1
      else
        match (windowAddr req addr).bind findReg with
        | none => err 0
        | some (r, n) =>
          match s.accessErr req r n with
          | some kind => err kind
          | none => emit (.readData (s.asReq req) (s.readWord (s.asReq req) r n)))

/-- REG_READ (R274, R275, R278). -/
def regRead (x : ReadAt) : Act :=
  match x with
  | .window req shapeOk a => windowRead req shapeOk a
  | .smbus code a => onSmb code 0x20 (.look fun s => emit (.smbRead (s.smbAnswer a)))

/-- REG_WRITE (R277, R278): a bad or a missing required PEC discards and counts it; only SYS registers take it. -/
def regWrite (code : BitVec 8) (count a : Nat) (v : Word) (pec : Option Bool) : Act :=
  onSmb code 0x21 (.look fun s =>
    if pec = some false ∨ (pec = none ∧ s.bit F.SYS_IF_CFG_SMB_PEC_REQ 0) then modEvt fun e => { e with smbDrops := e.smbDrops + 1 }
    else if count ≠ 6 then .skip
    else
      match (narrow a).bind findReg with
      | none => .skip
      | some (r, n) => when (decide (a < 0x1000)) (wordWrite .smb r n v))

/-- SMBUS_TIMEOUT (R278): the transaction is abandoned, and the bus is released. -/
def smbusTimeout : Act := emit .smbusRelease

/-- ALERT_RESPONSE (R279): the device that holds SMB_ALERT_N answers with its address, then releases it. -/
def alertResponse : Act :=
  .look fun s => when s.alertN (acts [emit (.alertAddr s.clk.opts.smbAddr), modEvt fun e => { e with alertRel := true }])

/-! ### Delivery over time (R300) -/

/-- HOLDOFF_EXPIRE: HOLDOFF_US have passed, and conditions that arose meanwhile send one message. -/
def holdoffExpire (pf vec : Nat) : Act :=
  .look fun s =>
    let v := s.msiV (msiKey pf vec)
    when (v.holding && s.aged v.holdAt (s.fld F.EVT_CFG_HOLDOFF_US 0 * 1000)) (acts [modMsi (msiKey pf vec) fun m => { m with holding := false, owed := false }, when v.owed (sendMsi pf vec)])

/-- MSIX_VECTOR_UNMASK: the host unmasks a vector, and leaves MSI-X of the function enabled or not; a pending message is sent. It comes over
the PCIe link. -/
def msixVectorUnmask (pf vec : Nat) (enable : Bool) : Act :=
  .look fun s =>
    let v := s.msiV (msiKey pf vec)
    when (decide (vec < msixEntries pf) && s.clk.pcieUp && !s.clk.perst && s.bit F.CLK_STATUS_PCIE_LOCK 0) (acts [
      modEvt fun e => { e with msixOn := if enable then addSet e.msixOn pf else e.msixOn.filter (· != pf) },
      modMsi (msiKey pf vec) fun m => { m with masked := false, pend := false }, when v.pend (sendMsi pf vec)])

def execRegisterWrite (req : Req) (shapeOk : Bool) (addr : Nat) (value : Word) (s : State) := ok (registerWrite req shapeOk addr value) s
def execStagedFieldApply (bnd : Boundary) (inst : Nat) (s : State) := ok (stagedFieldApply bnd inst) s
def execRegRead (x : ReadAt) (s : State) := ok (regRead x) s
def execRegWrite (h : SmbHead) (addr : Nat) (value : Word) (pec : Option Bool) (s : State) := ok (regWrite h.code h.count addr value pec) s
def execSmbusTimeout (s : State) := ok smbusTimeout s
def execAlertResponse (s : State) := ok alertResponse s
def execEvtTest (req : Req) (value : Word) (s : State) := ok (evtTest req value) s
def execHoldoffExpire (pf : Fin 4) (vec : Fin 2048) (s : State) := ok (coreDo (holdoffExpire pf vec)) s
def execMsixVectorUnmask (f : MsixFn) (vec : Fin 2048) (s : State) := ok (msixVectorUnmask f.pf vec f.enable) s

end Sys2Proof.Machine
end

