-- ==== Sys2Proof/Machine/Image.lean ====
section
/-!
DEFINITION. Machine/Image.lean: the start from the Utlum image (R332, R333, R360, R395, R396): the boot ROM and its choice of a slot, the
firmware container (R394), the patch (R151, R153), the configuration records (R359), and Zolliwin's return after its watchdog (R324).
-/
namespace Sys2Proof.Machine

/-! ### The firmware container (R394) -/

/-- Octets `o` to `o + n - 1` of a section of a slot. -/
def State.slotBytes (s : State) (slot : Nat) (sec : Nat × Nat × BitVec 512) : List Byte := s.nvmBytes (slotBase slot + sec.1) sec.2.1

def fwSvnOf (c : List Byte) : Nat := leAt c 8 4
def fwKeyOf (c : List Byte) : Nat := leAt c 0x14 1
def fwDigestOf (c : List Byte) : BitVec 512 := BitVec.ofNat 512 (beAt c 0x20 64)

/-- Whether a firmware container verifies, its fields checked with the reserved ones among them (R388, R391, R394, R395 step 5). -/
def State.fwOk (s : State) (c : List Byte) (digest : BitVec 512) : Bool :=
  let n := leAt c 0x0C 4
  Config.sha3 c == digest &&
    leAt c 0 4 == 0x46574D31 && leAt c 4 2 == 1 && leAt c 6 2 == 0xB1 &&
    decide (n % 16 = 0 ∧ n ≤ 0x400000 ∧ c.length = 0x80 + n + 4627 ∧ leAt c 0x10 4 < n) &&
    leAt c 0x15 11 == 0 && leAt c 0x60 32 == 0 &&
    decide (fwKeyOf c < 4) && !s.otp.revoked (fwKeyOf c) &&
    decide (svnCount s.otp.svnFw ≤ fwSvnOf c) &&
    Config.sha3 (sliceB c 0x80 n) == fwDigestOf c &&
    Config.sigOk (Config.henuraKey (fwKeyOf c)) ctxFwm (c.take (0x80 + n)) (c.drop (0x80 + n))

/-! ### The boot ROM (R360, R395, R396) -/

/-- The device stays in SHUTTERS (R333). -/
def stayShut (why : Nat) : Act := acts [setF F.SYS_MODE_SHUT_WHY 0 why, raise F.SYS_MODE_EVT_CAUSE_NO_IMAGE 0]

def skipFld (slot : Nat) : Fld := if slot = 0 then F.NVM_BOOT_SKIP_A else F.NVM_BOOT_SKIP_B

/-- The secret of the attestation key (R393). -/
def State.cdiOf (s : State) (digest : BitVec 512) (svn : Nat) : BitVec 512 :=
  Config.sha3 (s.udsP ++ digestBytes digest ++ digestBytes (s.otp.ownerHash.getD 0) ++ beBytes 4 svn ++
    beBytes 1 (if s.bit F.SEC_STATUS_DEBUG_OPEN 0 then 1 else 0))

/-- Zolliwin enters the firmware of a slot (R332 step 4, R395 steps 5 to 7): the slot is in use, the keys are derived, the remaining
blocks start, and SETUP begins. -/
def bootFrom (slot : Nat) : Act :=
  .look fun s =>
    let m := s.nvmBytes (slotBase slot) 7571
    let secs := (List.range 4).map (manifestSection m)
    let c := s.slotBytes slot (secs.getD 0 (0, 0, 0))
    acts [extendM 1 (Config.sha3 (c.take 0x80)),
      modNvm fun N => { N with slot := slot }, setF F.NVM_STATUS_SLOT 0 slot, setF F.SEC_STATUS_KEY_ID 0 (fwKeyOf c),
      modNvm fun N => { N with sections := secs },
      modSec fun x => { x with
        fwDigest := fwDigestOf c, fwSvn := fwSvnOf c, imageSvn := leAt m 8 4, ownerHash := Config.sha3 (sliceB m 0x160 2592)
        cdi := s.cdiOf (fwDigestOf c) (fwSvnOf c), akOk := true },
      withRnd fun r => modSec fun x => { x with certRnd := (x.certRnd.1, r) },
      modClk fun x => { x with zolRun := 2 }, wdtRestart,
      modMode fun x => { x with started := true },
      setF F.SYS_MODE_MODE 0 modeSetup, setF F.SYS_MODE_TARGET 0 modeSetup, setupBegin, ledgerLoad]

/-- A slot fails at the boot ROM (R396). -/
def bootFail (slot : Nat) : Act := acts [setB (skipFld slot) 0 true, raise F.SEC_EVT_CAUSE_VERIFY_FAIL 0]

/-- The slots still to try. -/
def bootTry (l : List Nat) : Act :=
  match l with
  | [] => stayShut 1
  | slot :: r =>
    .look fun s =>
      if s.bit (skipFld slot) 0 then bootTry r
      else
        acts [noteValid slot,
          if s.manifestOk slot then
            acts [extendM 3 (Config.sha3 (s.nvmBytes (slotBase slot) 0xB80)),
              let sec := manifestSection (s.nvmBytes (slotBase slot) 7571) 0
              if s.fwOk (s.slotBytes slot sec) sec.2.2 then bootFrom slot else acts [bootFail slot, bootTry r]]
          else acts [bootFail slot, bootTry r]]

/-- BOOT_ROM_START (R332 step 2, R356, R360): the density of the NVM is read, the records in it are found, and a slot is chosen. -/
def bootRomStart (dens : Nat) : Act :=
  .look fun s =>
    when (s.clk.zolRun == 1 && s.opMode == modeShutters && s.nvm.slot == 2 && s.fld F.SYS_MODE_SHUT_WHY 0 == 0 &&
        s.nvmMay) (acts [
      modNvm fun N => { N with density := 64 + dens }, setF F.NVM_STATUS_DENSITY_MIB 0 (64 + dens),
      .look fun s =>
        let used := usedSlots s.nvmMem s.faultBase faultSlots
        acts [modNvm fun N => { N with faultUsed := used }, setF F.NVM_FAULT_USED 0 used],
      if s.clk.opts.sbPolicy.testBit 1 && s.otp.ownerHash.isNone then stayShut 2
      else
        let next := s.fld F.NVM_BOOT_NEXT_SLOT 0
        let first := if next = 1 then 0 else if next = 2 then 1 else s.clk.opts.slotPref % 2
        acts [setF F.NVM_BOOT_NEXT_SLOT 0 0, bootTry [first, 1 - first]]])

/-! ### The patch (R151, R153, R154) -/

def patchSvnOf (c : List Byte) : Nat := leAt c 8 4

/-- The verified plaintext of a patch container; none where a step of R153 fails. -/
def State.patchPlain (s : State) (c : List Byte) : Option (List Byte) :=
  let n := leAt c 0x0C 4
  if leAt c 0 4 = 0x4D435031 ∧ leAt c 4 2 = 1 ∧ leAt c 6 2 = 0xB1 ∧ n % 16 = 0 ∧ n ≤ 32928 ∧ 0x80 + n + 4627 ≤ c.length ∧
      svnCount s.otp.svnPatch ≤ patchSvnOf c ∧ s.bit F.SEC_STATUS_DEBUG_OPEN 0 = false ∧
      Config.sigOk (Config.henuraKey (s.fld F.SEC_STATUS_KEY_ID 0)) ctxMcp (c.take (0x80 + n)) (sliceB c (0x80 + n) 4627) then
    match Config.patchOpen (sliceB c 0x10 12) (c.take 16) (sliceB c 0x20 16) (sliceB c 0x80 n) with
    | none => none
    | some p => if Config.sha3 p = BitVec.ofNat 512 (beAt c 0x30 64) ∧ patchOk p then some p else none
  else none

/-- The patch stands in every control store, and the configuration records are next. -/
def patchStand (payload : List Byte) : Act :=
  acts [each (List.range 17) (loadStore payload), modMode fun m => { m with setup := 1 }]

/-- PATCH_LOAD (R153): once a start, the patch of the slot in use is verified and measured; on a return from PROVING the verified copy is
loaded again (R352). -/
def patchLoad : Act :=
  .look fun s =>
    when (s.opMode == modeSetup && s.mode.setup == 0 && s.zolOn && s.nvmMay) (
      if s.bit F.SEC_STATUS_MEAS_SEALED 0 then patchStand s.nvm.patch
      else
        let c := s.imageSection 1
        let fail := acts [each (List.range 17) clearStore, setupFail 1]
        if c.isEmpty then
          if svnCount s.otp.svnPatch = 0 then
            acts [modNvm fun N => { N with patch := [] }, modSec fun x => { x with patchSvn := 0 }, patchStand [], extendM 2 (Config.sha3 [])]
          else fail
        else if !s.sectionOk 1 then fail
        else
          match s.patchPlain c with
          | none => fail
          | some p =>
            acts [modNvm fun N => { N with patch := p }, modSec fun x => { x with patchSvn := patchSvnOf c }, patchStand p,
              extendM 2 (BitVec.ofNat 512 (beAt c 0x30 64))])

/-! ### Configuration records (R359) -/

def recReg : Nat := 1
def recMbx : Nat := 2
def recIdent : Nat := 3
def recWait : Nat := 4
def recEnd : Nat := 0xFFFF

/-- The octets of the next record, whole; none at the end of the section. A record whose LEN is not a length of a record answers with its
first octets alone. -/
def State.cfgRecord (s : State) : Option (List Byte) :=
  let l := (s.imageSection 2).drop s.nvm.cfgPos
  if l.isEmpty then none else some (l.take (leAt l 2 2))

/-- TYPE of a record, or 0 for one that cannot be read: LEN below 4, no multiple of 4 or beyond the section, another TYPE, or a LEN
that the TYPE does not allow. -/
def recType (l : List Byte) : Nat :=
  let n := leAt l 2 2
  let t := leAt l 0 2
  if n < 4 ∨ n % 4 ≠ 0 ∨ n ≠ l.length then 0
  else if t = recReg then (if n % 8 = 4 then t else 0)
  else if t = recMbx then (if 16 ≤ n ∧ n ≤ 76 ∧ leAt l 8 1 = 2 then t else 0)
  else if t = recIdent then (if n = 100 ∧ leAt l 12 1 ≤ 64 ∧ ([0, 4, 6] : List Nat).contains (leAt l 80 1) then t else 0)
  else if t = recWait then (if n = 8 ∧ leAt l 4 4 ≤ 1000000 then t else 0)
  else if t = recEnd then (if n = 4 then t else 0)
  else 0

/-- Zolliwin goes on after a record. -/
def recNext (l : List Byte) : Act := modNvm fun N => { N with cfgPos := N.cfgPos + l.length }

/-- A register write of a REG record; one that is turned away ends SETUP, and a refused CARVE ends it with its own code. -/
def recWrite (addr : Nat) (v : Word) : Act :=
  .look fun s => when (s.mode.setup == 1) (acts [
    registerWrite .zs true addr v,
    .look fun t => when (t.evt.turned != s.evt.turned)
      (setupFail (if addr = Reg.SWC_CTL.base ∧ s.allFree ∧ s.carveBad then 4 else 2))])

/-- The mailbox write of an MBX record, on MBX_Z0. -/
def recMailbox (l : List Byte) : Act :=
  let n := (l.length - 12) / 4
  acts [wordWrite .zs .MBX_SEL 16 (BitVec.ofNat 32 (leAt l 4 4)),
    each (List.range n) (fun i => wordWrite .zs .MBX_DATA (256 + i) (BitVec.ofNat 32 (leAt l (12 + 4 * i) 4))),
    wordWrite .zs .MBX_CTL 16 (BitVec.ofNat 32 (2 ^ 31 + leAt l 9 1 * 2 ^ 16 + leAt l 10 1 * 2 ^ 8 + 2))]

/-- The configuration records have been applied (R175, R332 step 6, R395 step 9): an implicit CARVE, the measurement, the tiles that
wear has weakened; an empty table image needs no load. -/
def recsEnd : Act :=
  acts [.look fun s => when (!s.swc.carveWr) (acts [carveNow, .look fun s => when (s.bit F.SWC_STATUS_CARVE_ERR 0) (setupFail 4)]),
    .look fun s => when (s.mode.setup == 1) (acts [
      when (!s.bit F.SEC_STATUS_MEAS_SEALED 0) (extendM 4 (s.nvm.sections.getD 2 (0, 0, 0)).2.2),
      remapWeak, modMode fun m => { m with setup := 2 },
      when ((s.nvm.sections.getD 3 (0, 0, 0)).2.1 == 0) imageLoaded])]

/-- The effect of the next record. -/
def recDo (l : List Byte) : Act :=
  let t := recType l
  if t = recReg then
    acts [recNext l, each (List.range (l.length / 8)) fun i => recWrite (leAt l (4 + 8 * i) 4) (BitVec.ofNat 32 (leAt l (8 + 8 * i) 4))]
  else if t = recMbx then
    .look fun s => acts [recNext l, recMailbox l, modNvm fun N => { N with waiting := 2 },
      .look fun t => when (t.evt.turned != s.evt.turned) (setupFail 2)]
  else if t = recIdent then acts [recNext l, modPe fun P => { P with ident := l.drop 4 }]
  else if t = recWait then
    .look fun s => acts [recNext l, modNvm fun N => { N with waiting := 1, waitAt := s.time.words, waitUs := leAt l 4 4 }]
  else if t = recEnd then recsEnd
  else setupFail 2

/-- Whether a mailbox write of an MBX record is still in progress. -/
def State.recMbxBusy (s : State) : Bool := s.nvm.waiting == 2 && s.bit F.MBX_CTL_GO 16

/-- One visit of Zolliwin to the records, for the rows of one TYPE: nothing happens while a WAIT or a mailbox write runs, or where the
next record is of another TYPE. A mailbox write that ended with ERR, a section that fails its digest and a record that cannot be read
end SETUP. -/
def cfgVisit (row : Nat) : Act :=
  .look fun s =>
    when (s.opMode == modeSetup && s.mode.setup == 1 && s.zolOn && s.nvm.waiting != 1 && !s.recMbxBusy && s.nvmMay) (
      if s.nvm.waiting = 2 ∧ s.bit F.MBX_CTL_ERR 16 then acts [modNvm fun N => { N with waiting := 0 }, setupFail 2]
      else
        match s.cfgRecord with
        | none => when (row == recEnd) (acts [modNvm fun N => { N with waiting := 0 }, recsEnd])
        | some l =>
          if !s.sectionOk 2 then setupFail 2
          else when (recType l == row || recType l == 0) (acts [modNvm fun N => { N with waiting := 0 }, recDo l]))

/-- CFG_WAIT_EXPIRE: the microseconds of the WAIT record have passed. -/
def cfgWaitExpire : Act :=
  .look fun s => when (s.nvm.waiting == 1 && s.aged s.nvm.waitAt (s.nvm.waitUs * 1000)) (modNvm fun N => { N with waiting := 0 })

/-! ### Zolliwin after its watchdog (R324, R347, R396) -/

/-- The patch payload that Zolliwin verifies anew, since its memory has lost the copy (R153, R312): none where the section no longer
verifies. -/
def State.patchAgain (s : State) : List Byte :=
  let c := s.imageSection 1
  if c.isEmpty || !s.sectionOk 1 then [] else (s.patchPlain c).getD []

/-- ZOLLIWIN_RUNS_AGAIN: the boot ROM verifies the firmware of the slot in use again; it extends no register and derives no key. -/
def zolliwinRunsAgain : Act :=
  .look fun s =>
    let slot := s.nvm.slot
    when (s.clk.zolRun == 1 && s.mode.shut && slot != 2 && decide (modeSetup ≤ s.opMode) && s.nvmMay) (
      let sec := s.nvm.sections.getD 0 (0, 0, 0)
      let c := s.slotBytes slot sec
      if s.fwOk c sec.2.2 && fwDigestOf c == s.sec.fwDigest then
        acts [modClk fun x => { x with zolRun := 2 }, wdtRestart, modNvm fun N => { N with patch := s.patchAgain }, takeMsgs, servoResume,
          faultResume, each (List.range 17) repairFull]
      else acts [modClk fun x => { x with zolRun := 3 }, raise F.SEC_EVT_CAUSE_VERIFY_FAIL 0])

def execBootRomStart (dens : Fin 193) (s : State) := ok (bootRomStart dens) s
def execPatchLoad (s : State) := ok patchLoad s
def execCfgRecordReg (s : State) := ok (cfgVisit recReg) s
def execCfgRecordMbx (s : State) := ok (cfgVisit recMbx) s
def execCfgRecordIdent (s : State) := ok (cfgVisit recIdent) s
def execCfgRecordWait (s : State) := ok (cfgVisit recWait) s
def execCfgWaitExpire (s : State) := ok (coreDo cfgWaitExpire) s
def execCfgRecordEnd (s : State) := ok (cfgVisit recEnd) s
def execZolliwinRunsAgain (s : State) := ok zolliwinRunsAgain s

end Sys2Proof.Machine
end

