-- ==== Sys2Proof/Machine/Dispatch.lean ====
section
/-!
DEFINITION. Machine/Dispatch.lean: one arm for each command; each arm calls the meaning of its command.
-/
namespace Sys2Proof.Machine

/-- The effect of a command on everything but the queue. -/
def exec (i : Instr) (s : State) : Host.Outcome State Fault Refusal :=
  match i with
  | .registerWrite req shapeOk addr value => Sys2Proof.Machine.execRegisterWrite req shapeOk addr value s
  | .stagedFieldApply bnd inst => Sys2Proof.Machine.execStagedFieldApply bnd inst s
  | .frameSfdCapture port pos data sub => Sys2Proof.Machine.execFrameSfdCapture port pos data sub s
  | .pfcFrameReceive port vec quanta => Sys2Proof.Machine.execPfcFrameReceive port vec quanta s
  | .pauseFrameReceive port => Sys2Proof.Machine.execPauseFrameReceive port s
  | .pfcPauseExpire port prio => Sys2Proof.Machine.execPfcPauseExpire port prio s
  | .pfcRefresh port prio => Sys2Proof.Machine.execPfcRefresh port prio s
  | .aisleAdmit aisle port => Sys2Proof.Machine.execAisleAdmit aisle port s
  | .frameLastByte port fcsOk => Sys2Proof.Machine.execFrameLastByte port fcsOk s
  | .bufferAllocate picks => Sys2Proof.Machine.execBufferAllocate picks s
  | .bufferFree port q handle gen final => Sys2Proof.Machine.execBufferFree port q handle gen final s
  | .thresholdRecompute => Sys2Proof.Machine.execThresholdRecompute s
  | .queueDepthPublish => Sys2Proof.Machine.execQueueDepthPublish s
  | .schedulerSelect port pos sub => Sys2Proof.Machine.execSchedulerSelect port pos sub s
  | .flushDiscard port q => Sys2Proof.Machine.execFlushDiscard port q s
  | .queuesEmptyReport port => Sys2Proof.Machine.execQueuesEmptyReport port s
  | .stallCfgWrite req stall value => Sys2Proof.Machine.execStallCfgWrite req stall value s
  | .portCfgWrite req port value => Sys2Proof.Machine.execPortCfgWrite req port value s
  | .portRestart req port value => Sys2Proof.Machine.execPortRestart req port value s
  | .negotiationComplete neg => Sys2Proof.Machine.execNegotiationComplete neg s
  | .anFail port => Sys2Proof.Machine.execAnFail port s
  | .anPauseExpire port => Sys2Proof.Machine.execAnPauseExpire port s
  | .trainingComplete port eq precode => Sys2Proof.Machine.execTrainingComplete port eq precode s
  | .trainingTimeboxExpire port => Sys2Proof.Machine.execTrainingTimeboxExpire port s
  | .alignmentQualified port => Sys2Proof.Machine.execAlignmentQualified port s
  | .alignTimeout port => Sys2Proof.Machine.execAlignTimeout port s
  | .linkLoss port cause => Sys2Proof.Machine.execLinkLoss port cause s
  | .holdTimerExpire port => Sys2Proof.Machine.execHoldTimerExpire port s
  | .laneRetune req lane value => Sys2Proof.Machine.execLaneRetune req lane value s
  | .retuneComplete lane ok eq => Sys2Proof.Machine.execRetuneComplete lane ok eq s
  | .eyeSweep lane eyes => Sys2Proof.Machine.execEyeSweep lane eyes s
  | .healthGradeRefresh port stats => Sys2Proof.Machine.execHealthGradeRefresh port stats s
  | .bwmWindowEnd stall => Sys2Proof.Machine.execBwmWindowEnd stall s
  | .siteChainScan scan => Sys2Proof.Machine.execSiteChainScan scan s
  | .moduleResetRelease stall => Sys2Proof.Machine.execModuleResetRelease stall s
  | .moduleLowPwrReport stall flat apps ident => Sys2Proof.Machine.execModuleLowPwrReport stall flat apps ident s
  | .moduleReady stall => Sys2Proof.Machine.execModuleReady stall s
  | .datapathActivated stall => Sys2Proof.Machine.execDatapathActivated stall s
  | .siteFault stall => Sys2Proof.Machine.execSiteFault stall s
  | .siteFaultRetry stall => Sys2Proof.Machine.execSiteFaultRetry stall s
  | .crierNoteSend quarter => Sys2Proof.Machine.execCrierNoteSend quarter s
  | .crierNoteReceive station sender parityOk => Sys2Proof.Machine.execCrierNoteReceive station sender parityOk s
  | .rehashStart req quarter value => Sys2Proof.Machine.execRehashStart req quarter value s
  | .rehashDone quarter => Sys2Proof.Machine.execRehashDone quarter s
  | .ageingVisit quarter => Sys2Proof.Machine.execAgeingVisit quarter s
  | .qtrFlushGo req quarter value => Sys2Proof.Machine.execQtrFlushGo req quarter value s
  | .flushWalkStart quarter => Sys2Proof.Machine.execFlushWalkStart quarter s
  | .flushDone quarter => Sys2Proof.Machine.execFlushDone quarter s
  | .flowletSweep quarter => Sys2Proof.Machine.execFlowletSweep quarter s
  | .rebuildGo req aisle chan value => Sys2Proof.Machine.execRebuildGo req aisle chan value s
  | .rebuildCopyDone aisle chan => Sys2Proof.Machine.execRebuildCopyDone aisle chan s
  | .rebuildSwitch aisle chan => Sys2Proof.Machine.execRebuildSwitch aisle chan s
  | .rebuildClearDone aisle chan => Sys2Proof.Machine.execRebuildClearDone aisle chan s
  | .assayUnitRead aisle flip code => Sys2Proof.Machine.execAssayUnitRead aisle flip code s
  | .microwordExecute eng upset => Sys2Proof.Machine.execMicrowordExecute eng upset s
  | .nhRead eng => Sys2Proof.Machine.execNhRead eng s
  | .rwRead eng => Sys2Proof.Machine.execRwRead eng s
  | .bdRead eng => Sys2Proof.Machine.execBdRead eng s
  | .count eng => Sys2Proof.Machine.execCount eng s
  | .stRead => Sys2Proof.Machine.execStRead s
  | .stWrite => Sys2Proof.Machine.execStWrite s
  | .msgPost => Sys2Proof.Machine.execMsgPost s
  | .timerSet => Sys2Proof.Machine.execTimerSet s
  | .txFrame => Sys2Proof.Machine.execTxFrame s
  | .tsRead => Sys2Proof.Machine.execTsRead s
  | .tableCallResult eng => Sys2Proof.Machine.execTableCallResult eng s
  | .endRoutine eng => Sys2Proof.Machine.execEndRoutine eng s
  | .abort eng => Sys2Proof.Machine.execAbort eng s
  | .mcResume req store value => Sys2Proof.Machine.execMcResume req store value s
  | .mcPop req store value => Sys2Proof.Machine.execMcPop req store value s
  | .fence req aisle value => Sys2Proof.Machine.execFence req aisle value s
  | .resumeTimeout aisle => Sys2Proof.Machine.execResumeTimeout aisle s
  | .peResumeTimeout => Sys2Proof.Machine.execPeResumeTimeout s
  | .wheelPosition => Sys2Proof.Machine.execWheelPosition s
  | .peTimerExpire port ty idx => Sys2Proof.Machine.execPeTimerExpire port ty idx s
  | .lldpTtlExpire port => Sys2Proof.Machine.execLldpTtlExpire port s
  | .bfdDetectExpire sess => Sys2Proof.Machine.execBfdDetectExpire sess s
  | .mbxRead req n ctl => Sys2Proof.Machine.execMbxRead req n ctl s
  | .mbxWrite req n ctl => Sys2Proof.Machine.execMbxWrite req n ctl s
  | .mbxReadClear req n ctl => Sys2Proof.Machine.execMbxReadClear req n ctl s
  | .mbxModuleIoDone n resp => Sys2Proof.Machine.execMbxModuleIoDone n resp s
  | .regRead at_ => Sys2Proof.Machine.execRegRead at_ s
  | .regWrite head addr value pec => Sys2Proof.Machine.execRegWrite head addr value pec s
  | .smbusTimeout => Sys2Proof.Machine.execSmbusTimeout s
  | .alertResponse => Sys2Proof.Machine.execAlertResponse s
  | .evtTest req value => Sys2Proof.Machine.execEvtTest req value s
  | .holdoffExpire pf vec => Sys2Proof.Machine.execHoldoffExpire pf vec s
  | .timeWordSend => Sys2Proof.Machine.execTimeWordSend s
  | .distEchoMeasure stall echo => Sys2Proof.Machine.execDistEchoMeasure stall echo s
  | .timeStep => Sys2Proof.Machine.execTimeStep s
  | .calibrationStart port trigger => Sys2Proof.Machine.execCalibrationStart port trigger s
  | .calibrationCommit port meas => Sys2Proof.Machine.execCalibrationCommit port meas s
  | .calPeriodExpire port => Sys2Proof.Machine.execCalPeriodExpire port s
  | .calReq req port value => Sys2Proof.Machine.execCalReq req port value s
  | .probeReq req port value => Sys2Proof.Machine.execProbeReq req port value s
  | .probeSend port => Sys2Proof.Machine.execProbeSend port s
  | .probeResponse port up => Sys2Proof.Machine.execProbeResponse port up s
  | .probeNone port => Sys2Proof.Machine.execProbeNone port s
  | .linkdlyPeriodExpire port => Sys2Proof.Machine.execLinkdlyPeriodExpire port s
  | .bmcaRun sel => Sys2Proof.Machine.execBmcaRun sel s
  | .announceReceiptTimeout port => Sys2Proof.Machine.execAnnounceReceiptTimeout port s
  | .servoSample up => Sys2Proof.Machine.execServoSample up s
  | .sourceLost => Sys2Proof.Machine.execSourceLost s
  | .holdoverLimitExpire => Sys2Proof.Machine.execHoldoverLimitExpire s
  | .forceNone req value => Sys2Proof.Machine.execForceNone req value s
  | .forceHoldover req value => Sys2Proof.Machine.execForceHoldover req value s
  | .forceFreerun req value => Sys2Proof.Machine.execForceFreerun req value s
  | .ppsInEdge sub => Sys2Proof.Machine.execPpsInEdge sub s
  | .todSentenceReceive bytes => Sys2Proof.Machine.execTodSentenceReceive bytes s
  | .ppsLoss => Sys2Proof.Machine.execPpsLoss s
  | .dpllInputLoss input => Sys2Proof.Machine.execDpllInputLoss input s
  | .dpllInputQualify input => Sys2Proof.Machine.execDpllInputQualify input s
  | .refSwitch => Sys2Proof.Machine.execRefSwitch s
  | .dpllLock => Sys2Proof.Machine.execDpllLock s
  | .esmcTimeout port => Sys2Proof.Machine.execEsmcTimeout port s
  | .ppsOutEdge => Sys2Proof.Machine.execPpsOutEdge s
  | .todSentenceSend => Sys2Proof.Machine.execTodSentenceSend s
  | .tallyIssue => Sys2Proof.Machine.execTallyIssue s
  | .tallySigned => Sys2Proof.Machine.execTallySigned s
  | .hlArm req port value => Sys2Proof.Machine.execHlArm req port value s
  | .hlCancel req port value => Sys2Proof.Machine.execHlCancel req port value s
  | .hlStop req port value => Sys2Proof.Machine.execHlStop req port value s
  | .hlSwitch port => Sys2Proof.Machine.execHlSwitch port s
  | .gateEdge port => Sys2Proof.Machine.execGateEdge port s
  | .qtClearClose port => Sys2Proof.Machine.execQtClearClose port s
  | .qtClearReopen port => Sys2Proof.Machine.execQtClearReopen port s
  | .latencySample port => Sys2Proof.Machine.execLatencySample port s
  | .samplerClear req port value => Sys2Proof.Machine.execSamplerClear req port value s
  | .policerSweep quarter => Sys2Proof.Machine.execPolicerSweep quarter s
  | .carve req value => Sys2Proof.Machine.execCarve req value s
  | .por low => Sys2Proof.Machine.execPor low s
  | .resetNAssert => Sys2Proof.Machine.execResetNAssert s
  | .resetNRelease => Sys2Proof.Machine.execResetNRelease s
  | .sysSwreset req value => Sys2Proof.Machine.execSysSwreset req value s
  | .nvmProgramEnd => Sys2Proof.Machine.execNvmProgramEnd s
  | .nvmResetDelayLimit => Sys2Proof.Machine.execNvmResetDelayLimit s
  | .exitSequenceStart written => Sys2Proof.Machine.execExitSequenceStart written s
  | .refclkMeasure meas => Sys2Proof.Machine.execRefclkMeasure meas s
  | .resetDone => Sys2Proof.Machine.execResetDone s
  | .rootpllLoss => Sys2Proof.Machine.execRootpllLoss s
  | .timepllLoss => Sys2Proof.Machine.execTimepllLoss s
  | .timepllRelock => Sys2Proof.Machine.execTimepllRelock s
  | .txpllLoss stall => Sys2Proof.Machine.execTxpllLoss stall s
  | .txpllRelock stall => Sys2Proof.Machine.execTxpllRelock stall s
  | .pciePllLoss => Sys2Proof.Machine.execPciePllLoss s
  | .softResetStall req word value => Sys2Proof.Machine.execSoftResetStall req word value s
  | .softResetAisle req value => Sys2Proof.Machine.execSoftResetAisle req value s
  | .softResetQuarter req value => Sys2Proof.Machine.execSoftResetQuarter req value s
  | .softResetPe req value => Sys2Proof.Machine.execSoftResetPe req value s
  | .softResetTime req value => Sys2Proof.Machine.execSoftResetTime req value s
  | .softResetSwc req value => Sys2Proof.Machine.execSoftResetSwc req value s
  | .softResetSch req value => Sys2Proof.Machine.execSoftResetSch req value s
  | .softResetDma req value => Sys2Proof.Machine.execSoftResetDma req value s
  | .softResetNvm req value => Sys2Proof.Machine.execSoftResetNvm req value s
  | .softResetSec req value => Sys2Proof.Machine.execSoftResetSec req value s
  | .softResetDone unit => Sys2Proof.Machine.execSoftResetDone unit s
  | .wdtKick req value => Sys2Proof.Machine.execWdtKick req value s
  | .wdtExpire => Sys2Proof.Machine.execWdtExpire s
  | .perstNAssert => Sys2Proof.Machine.execPerstNAssert s
  | .perstNRelease => Sys2Proof.Machine.execPerstNRelease s
  | .flr pf => Sys2Proof.Machine.execFlr pf s
  | .bootRomStart dens => Sys2Proof.Machine.execBootRomStart dens s
  | .patchLoad => Sys2Proof.Machine.execPatchLoad s
  | .cfgRecordReg => Sys2Proof.Machine.execCfgRecordReg s
  | .cfgRecordMbx => Sys2Proof.Machine.execCfgRecordMbx s
  | .cfgRecordIdent => Sys2Proof.Machine.execCfgRecordIdent s
  | .cfgRecordWait => Sys2Proof.Machine.execCfgRecordWait s
  | .cfgWaitExpire => Sys2Proof.Machine.execCfgWaitExpire s
  | .cfgRecordEnd => Sys2Proof.Machine.execCfgRecordEnd s
  | .setupComplete => Sys2Proof.Machine.execSetupComplete s
  | .modeReqOpen req value => Sys2Proof.Machine.execModeReqOpen req value s
  | .modeReqLean req value => Sys2Proof.Machine.execModeReqLean req value s
  | .modeReqDrain req value => Sys2Proof.Machine.execModeReqDrain req value s
  | .modeReqSealed req value => Sys2Proof.Machine.execModeReqSealed req value s
  | .modeReqProving req value => Sys2Proof.Machine.execModeReqProving req value s
  | .modeReqSetup req value => Sys2Proof.Machine.execModeReqSetup req value s
  | .autoModeChange => Sys2Proof.Machine.execAutoModeChange s
  | .epochReq req value => Sys2Proof.Machine.execEpochReq req value s
  | .epochUnitApplied unit => Sys2Proof.Machine.execEpochUnitApplied unit s
  | .epochWindowExpire unit => Sys2Proof.Machine.execEpochWindowExpire unit s
  | .epochDone => Sys2Proof.Machine.execEpochDone s
  | .proveGo req value => Sys2Proof.Machine.execProveGo req value s
  | .proveTestDone test fail detail => Sys2Proof.Machine.execProveTestDone test fail detail s
  | .nvmHoldSet req value => Sys2Proof.Machine.execNvmHoldSet req value s
  | .nvmHoldClear req value written => Sys2Proof.Machine.execNvmHoldClear req value written s
  | .nvmPageProgram => Sys2Proof.Machine.execNvmPageProgram s
  | .claim req value => Sys2Proof.Machine.execClaim req value s
  | .release req value => Sys2Proof.Machine.execRelease req value s
  | .heartbeat req value => Sys2Proof.Machine.execHeartbeat req value s
  | .heartbeatLate => Sys2Proof.Machine.execHeartbeatLate s
  | .dmaRingTailWrite req ring value => Sys2Proof.Machine.execDmaRingTailWrite req ring value s
  | .dmaDescriptorExecute ring desc stream => Sys2Proof.Machine.execDmaDescriptorExecute ring desc stream s
  | .write ring body => Sys2Proof.Machine.execWrite ring body s
  | .fill ring body => Sys2Proof.Machine.execFill ring body s
  | .read ring body => Sys2Proof.Machine.execRead ring body s
  | .ldgInsert ring body => Sys2Proof.Machine.execLdgInsert ring body s
  | .ldgDelete ring body => Sys2Proof.Machine.execLdgDelete ring body s
  | .lpmInsert ring body => Sys2Proof.Machine.execLpmInsert ring body s
  | .lpmDelete ring body => Sys2Proof.Machine.execLpmDelete ring body s
  | .pselWrite ring body => Sys2Proof.Machine.execPselWrite ring body s
  | .ruleWrite ring body => Sys2Proof.Machine.execRuleWrite ring body s
  | .ruleClear ring body => Sys2Proof.Machine.execRuleClear ring body s
  | .ruleMove ring body => Sys2Proof.Machine.execRuleMove ring body s
  | .padlock ring body => Sys2Proof.Machine.execPadlock ring body s
  | .nop ring body => Sys2Proof.Machine.execNop ring body s
  | .padlockExpired ring table => Sys2Proof.Machine.execPadlockExpired ring table s
  | .assayRecordStep dir ref => Sys2Proof.Machine.execAssayRecordStep dir ref s
  | .findingConfirm ref => Sys2Proof.Machine.execFindingConfirm ref s
  | .winCountBucketExpire => Sys2Proof.Machine.execWinCountBucketExpire s
  | .burnOwner req value => Sys2Proof.Machine.execBurnOwner req value s
  | .otpBurnDone good => Sys2Proof.Machine.execOtpBurnDone good s
  | .revoke req value => Sys2Proof.Machine.execRevoke req value s
  | .svnAdvance req value => Sys2Proof.Machine.execSvnAdvance req value s
  | .svnBurnDone => Sys2Proof.Machine.execSvnBurnDone s
  | .cfgLock req value => Sys2Proof.Machine.execCfgLock req value s
  | .entropyFail => Sys2Proof.Machine.execEntropyFail s
  | .entropyRecover => Sys2Proof.Machine.execEntropyRecover s
  | .getVersion t x msg => Sys2Proof.Machine.execGetVersion t x msg s
  | .getCapabilities t x msg => Sys2Proof.Machine.execGetCapabilities t x msg s
  | .negotiateAlgorithms t x msg => Sys2Proof.Machine.execNegotiateAlgorithms t x msg s
  | .getDigests t x msg => Sys2Proof.Machine.execGetDigests t x msg s
  | .getCertificate t x msg => Sys2Proof.Machine.execGetCertificate t x msg s
  | .challenge t x msg => Sys2Proof.Machine.execChallenge t x msg s
  | .getMeasurements t x msg => Sys2Proof.Machine.execGetMeasurements t x msg s
  | .keyExchange t x msg => Sys2Proof.Machine.execKeyExchange t x msg s
  | .finish t x msg => Sys2Proof.Machine.execFinish t x msg s
  | .spdmHeartbeat t x msg => Sys2Proof.Machine.execSpdmHeartbeat t x msg s
  | .keyUpdate t x msg => Sys2Proof.Machine.execKeyUpdate t x msg s
  | .endSession t x msg => Sys2Proof.Machine.execEndSession t x msg s
  | .chunkSend t x msg => Sys2Proof.Machine.execChunkSend t x msg s
  | .chunkGet t x msg => Sys2Proof.Machine.execChunkGet t x msg s
  | .sessionHeartbeatTimeout sid => Sys2Proof.Machine.execSessionHeartbeatTimeout sid s
  | .thermalConversion temps => Sys2Proof.Machine.execThermalConversion temps s
  | .thermalStepDown => Sys2Proof.Machine.execThermalStepDown s
  | .sensorStuckCheck temps => Sys2Proof.Machine.execSensorStuckCheck temps s
  | .powerRead mv da => Sys2Proof.Machine.execPowerRead mv da s
  | .pwrLean => Sys2Proof.Machine.execPwrLean s
  | .pwrStepRelax => Sys2Proof.Machine.execPwrStepRelax s
  | .pwrRequestRetry => Sys2Proof.Machine.execPwrRequestRetry s
  | .canarySample delta vmin tmargin => Sys2Proof.Machine.execCanarySample delta vmin tmargin s
  | .planNow req value => Sys2Proof.Machine.execPlanNow req value s
  | .plannerCycleStart => Sys2Proof.Machine.execPlannerCycleStart s
  | .planDone => Sys2Proof.Machine.execPlanDone s
  | .shoringDeferExpire => Sys2Proof.Machine.execShoringDeferExpire s
  | .avsStep rail ack => Sys2Proof.Machine.execAvsStep rail ack s
  | .avsFaultRetry rail ack => Sys2Proof.Machine.execAvsFaultRetry rail ack s
  | .perfSnapshot ok => Sys2Proof.Machine.execPerfSnapshot ok s
  | .perfOverflow block ctr value => Sys2Proof.Machine.execPerfOverflow block ctr value s
  | .ledScan => Sys2Proof.Machine.execLedScan s
  | .extest => Sys2Proof.Machine.execExtest s
  | .jtagInstructionLoad cls => Sys2Proof.Machine.execJtagInstructionLoad cls s
  | .pciePllRelock => Sys2Proof.Machine.execPciePllRelock s
  | .revokeBurnDone => Sys2Proof.Machine.execRevokeBurnDone s
  | .zolliwinRunsAgain => Sys2Proof.Machine.execZolliwinRunsAgain s
  | .msixVectorUnmask fn vec => Sys2Proof.Machine.execMsixVectorUnmask fn vec s
  | .unsupportedRequest t x msg => Sys2Proof.Machine.execUnsupportedRequest t x msg s
  | .securedMessageFail t sid => Sys2Proof.Machine.execSecuredMessageFail t sid s
  | .hostPacketMoverDone q io => Sys2Proof.Machine.execHostPacketMoverDone q io s

end Sys2Proof.Machine
end

