-- ==== Sys2Proof/Machine/Step.lean ====
section
/-!
DEFINITION. Machine/Step.lean: one step of the block: the command at the front of the queue. On an empty queue the block idles.
-/
namespace Sys2Proof.Machine

/-- The state with the first waiting command taken off. -/
def State.rest (s : State) : State := { s with pending := s.pending.tail }

/-- Take the command that has waited longest and make its effect. -/
def step (s : State) : Host.Outcome State Fault Refusal :=
  match s.pending with
  | [] => .next s
  | c :: _ => exec c s.rest

/-- The command a word spells, put at the front of the queue. The opcode table gives its rows no bits, so no word spells one. -/
def State.withFetchWord (s : State) (nbits w : Nat) : State :=
  match decodeTableWord nbits w with
  | none => s
  | some c => { s with pending := c :: s.pending }

end Sys2Proof.Machine
end

