-- ==== Sys2Proof/Safety.lean ====
section
/-!
DEFINITION. Safety.lean: the parts of a state and what it means that a command leaves some alone, and the states that are well formed:
every table in its canonical form, and every register word with its reserved and write-only bits at 0.
-/
namespace Sys2Proof.Machine

/-- The parts of a state, one for each field of `State`. -/
inductive Part where
  | pending
  | regs
  | live
  | cnt
  | fresh
  | clk
  | mode
  | otp
  | evt
  | stalls
  | ports
  | lanes
  | aisles
  | qtrs
  | pkts
  | pe
  | swc
  | time
  | mbx
  | dma
  | nvm
  | sec
  | thm
  | perf
  | fidNext
  | out
  | bufs
  | flat
  | tiles
  | copies
  | rebuild
  | hostWr
  | nvmMem
  | occ
  | msi
  | bfd
  | stm
deriving DecidableEq, Repr

/-- Whether two states agree in a part. -/
def State.agree (x : Part) (s t : State) : Prop :=
  match x with
  | .pending => t.pending = s.pending
  | .regs => t.regs = s.regs
  | .live => t.live = s.live
  | .cnt => t.cnt = s.cnt
  | .fresh => t.fresh = s.fresh
  | .clk => t.clk = s.clk
  | .mode => t.mode = s.mode
  | .otp => t.otp = s.otp
  | .evt => t.evt = s.evt
  | .stalls => t.stalls = s.stalls
  | .ports => t.ports = s.ports
  | .lanes => t.lanes = s.lanes
  | .aisles => t.aisles = s.aisles
  | .qtrs => t.qtrs = s.qtrs
  | .pkts => t.pkts = s.pkts
  | .pe => t.pe = s.pe
  | .swc => t.swc = s.swc
  | .time => t.time = s.time
  | .mbx => t.mbx = s.mbx
  | .dma => t.dma = s.dma
  | .nvm => t.nvm = s.nvm
  | .sec => t.sec = s.sec
  | .thm => t.thm = s.thm
  | .perf => t.perf = s.perf
  | .fidNext => t.fidNext = s.fidNext
  | .out => t.out = s.out
  | .bufs => t.bufs = s.bufs
  | .flat => t.flat = s.flat
  | .tiles => t.tiles = s.tiles
  | .copies => t.copies = s.copies
  | .rebuild => t.rebuild = s.rebuild
  | .hostWr => t.hostWr = s.hostWr
  | .nvmMem => t.nvmMem = s.nvmMem
  | .occ => t.occ = s.occ
  | .msi => t.msi = s.msi
  | .bfd => t.bfd = s.bfd
  | .stm => t.stm = s.stm

/-- From `s` to `t` nothing changes outside the parts `l`. -/
def Only (l : List Part) (s t : State) : Prop := ∀ x, l.contains x = false → s.agree x t

/-- From `s` to `t` no register outside the list changes, neither as read nor in effect. -/
def OnlyRegs (l : List Reg) (s t : State) : Prop :=
  ∀ r n, l.contains r = false → t.raw r n = s.raw r n ∧ t.eff r n = s.eff r n

/-- From `s` to `t` no port outside the list changes. -/
def OnlyPorts (l : List Nat) (s t : State) : Prop := ∀ p, p ∉ l → t.port p = s.port p

/-- Words of registers with their reserved and write-only bits at 0 (R5, R6). -/
def wordsOk (t : Tab Word) : Bool := t.all fun e => e.2 &&& regMask (keyReg e.1) == e.2

/-- Every table is in canonical form, and every register word is one its fields can hold. -/
def State.wf (s : State) : Bool :=
  tabWf s.regs regDefault && wordsOk s.regs && (s.live.all fun e => (e.2.getD 0) &&& regMask (keyReg e.1) == e.2.getD 0)
    && tabWf s.live (fun _ => none)
    && tabWf s.cnt (fun _ => 0)
    && tabWf s.stalls (fun _ => {})
    && tabWf s.ports (fun _ => {})
    && tabWf s.lanes (fun _ => {})
    && tabWf s.aisles (fun _ => {})
    && tabWf s.qtrs (fun _ => {})
    && tabWf s.mbx (fun _ => {})
    && tabWf s.perf (fun _ => {})
    && tabWf s.bufs (fun _ => {})
    && tabWf s.flat (fun _ => 0)
    && tabWf s.tiles (fun _ => {})
    && tabWf s.copies (fun _ => {})
    && tabWf s.rebuild (fun _ => {})
    && tabWf s.hostWr (fun _ => 0)
    && tabWf s.nvmMem (fun _ => 0xFF)
    && tabWf s.occ (fun _ => 0)
    && tabWf s.msi (fun _ => {})
    && tabWf s.bfd (fun _ => {})
    && tabWf s.stm (fun _ => 0)

/-- The command answers a next state, and that state satisfies `P`. -/
def Completes (c : Instr) (s : State) (P : State → Prop) : Prop := ∃ t, exec c s = .next t ∧ P t

/-- A write to a register by a requester arrives and meets no bus error (R273, R274). -/
def State.takes (s : State) (req : Req) (r : Reg) (n : Nat) : Bool := s.arrives req && (s.accessErr req r n).isNone

/-- A write to a register is taken, and comes from a secure master (R8). -/
def State.takesSec (s : State) (req : Req) (r : Reg) (n : Nat) : Bool := s.takes req r n && secureReq (s.asReq req)

/-- The same write turned away with reject code 0x3: the REJECT field of the block, one more write turned away. -/
def State.turnedBy (s t : State) (f : Fld) (n : Nat) : Prop := t.rawFld f n = 3 ∧ t.evt.turned = s.evt.turned + 1

end Sys2Proof.Machine
end

