-- ==== Sys2Proof/Certificates/Slice0/Obligations.lean ====
section
/-!
DEFINITION. Certificates/Slice0/Obligations.lean: the statements for the provers. A statement about a command says, for states and
operands that meet its hypotheses, that the command answers a next state (`Completes`) and what that state holds; the frames say what
the commands of a family leave alone.
-/
open Sys2Proof Sys2Proof.Machine

/-- A step runs the command at the front of the queue; on an empty queue the block idles. The step of a state with a command at the front of
its queue is that command's effect on the state with the rest of the queue. On an empty queue the step answers the state itself: this
idling is the model's choice (log entry 1). (notes/assumptions/1.md, notes/assumptions/120.md) -/
def Obligations.StepRunsTheFrontCommand : Prop :=
  (∀ (c : Instr) (q : List Instr) (s : State), step { s with pending := c :: q } = exec c { s with pending := q }) ∧
  (∀ (s : State), s.pending = [] → step s = .next s)

/-- The state at reset is well formed and as the spec gives it. At reset every table is in canonical form, and every register reads, and has
in effect, its reset word, which sets no bit outside its fields; POR is asserted, the mode is COLD, no port is up and none holds a link,
no command waits, and Zolliwin is held. The clauses rest on the choices of log entries 2, 5 and 19. (R5, R6, R311, R327, R330) -/
def Obligations.ResetIsWellFormed : Prop :=
  (State.reset.wf = true) ∧ State.reset.clk.srcs = [srcPor] ∧ State.reset.opMode = modeCold ∧ State.reset.pending = [] ∧
    State.reset.clk.zolRun = 0 ∧ (∀ p, p < 512 → State.reset.isUp p = false ∧ State.reset.hold p = holdNone) ∧
    ∀ r n, State.reset.raw r n = regReset r n ∧ State.reset.eff r n = regReset r n ∧ regReset r n &&& regMask r = regReset r n

/-- Every step keeps every table canonical and every register within its fields. In every state that is well formed, whatever command is at
the front of the queue, a step that answers a next state answers one that is well formed: every table of registers, ledgers, tiles,
buffers, memory and counters stays in its canonical form, and no register gains a bit outside its fields or in a write-only field. (R5,
R6, R356) -/
def Obligations.EveryStepKeepsTheStateWellFormed : Prop :=
  (∀ (s t : State), s.wf = true → step s = .next t → t.wf = true)

/-- No command undoes what has been sent or burned, or touches the queue. Whatever a command does, the queue stays as it is, what the device
has sent stays sent, no SVN counter falls, no key stops being revoked, no used owner field becomes unused, and the unique ID and policy
fuses stay. (R389, R390, R391, R392) -/
def Obligations.HistoryIsNeverUndone : Prop :=
  (∀ (c : Instr) (s t : State), exec c s = .next t → t.pending = s.pending ∧ (∃ l, t.out = l ++ s.out) ∧ s.fresh ≤ t.fresh ∧
    t.otp.uid = s.otp.uid ∧ t.otp.policy = s.otp.policy ∧ (∀ k, s.svnOf k ≤ t.svnOf k) ∧
    (∀ n, n < 4 → s.otp.revoked n = true → t.otp.revoked n = true) ∧ (s.otp.fieldA ≠ 0 → t.otp.fieldA = s.otp.fieldA ∧ t.otp.hashA = s.otp.hashA) ∧
    (s.otp.fieldB ≠ 0 → t.otp.fieldB = s.otp.fieldB ∧ t.otp.hashB = s.otp.hashB))

/-- Once CFG_LOCK is set, only a reset of reach 2 or wider clears it. Whatever step is taken with CFG_LOCK set, CFG_LOCK stays set, or the
device has gone into a reset of reach 1 or 2: a reset source is asserted and the exit sequence has not begun. It holds in every state.
(R7) -/
def Obligations.TheLockHoldsUntilReset : Prop :=
  (∀ (s t : State), s.cfgLock = true → step s = .next t → t.cfgLock = true ∨ (t.clk.step = 0 ∧ t.clk.srcs ≠ []))

/-- What raising an event may change: the cause and status bits, occurrence counts, vectors, and what is sent. -/
def evP : List Part := [.regs, .live, .occ, .msi, .out]
def evR : List Reg := [.EVT_STATUS, .EVT_Z_STATUS, .EVT_MSI_LOST]
/-- What a write of a register may change beside its own effect: the captures of bus errors and rejects. -/
def wrP : List Part := evP ++ [.evt]
def wrR : List Reg := evR ++ [.SYS_BUS_ERR, .SYS_BUS_ERR_INFO, .SYS_EVT_CAUSE]
def rjR : List Reg := wrR ++ [.SYS_REJECT_ADDR, .SYS_REJECT_INFO]

/-- The parts and the registers that each command of the links, the switch core and the scheduler may change. -/
def framePath (c : Instr) : Option (List Part × List Reg) :=
  match c with
  | .frameSfdCapture .. => some (evP ++ [.cnt, .fidNext, .perf, .ports], evR ++ [.PERF_STATUS, .SWC_EVT_CAUSE, .SWC_PORT_STATE])
  | .pfcFrameReceive .. | .pauseFrameReceive .. => some ([.cnt, .ports], [])
  | .pfcPauseExpire .. => some ([.ports], [])
  | .pfcRefresh .. => some ([.cnt, .out, .ports], [])
  | .aisleAdmit .. => some (evP ++ [.aisles, .cnt, .pe, .perf, .pkts, .ports, .qtrs, .swc], evR ++ [.PERF_STATUS, .PE_EVT_CAUSE,
      .QTR_EVT_CAUSE, .QTR_LDG_STATUS, .SCH_EVT_CAUSE, .SWC_EVT_CAUSE, .SWC_PORT_STATE, .SYS_EPOCH_LATE, .SYS_MODE_EVT_CAUSE])
  | .frameLastByte .. => some (evP ++ [.bufs, .cnt, .perf, .pkts, .ports, .qtrs, .stalls, .swc, .time], evR ++ [.PERF_STATUS, .PORT_STATE,
      .QTR_EVT_CAUSE, .QTR_LDG_STATUS, .SWC_DESC_FREE, .SWC_EVT_CAUSE, .SWC_ILLFREE_CAP0, .SWC_ILLFREE_CAP1, .SWC_POOL_FREE,
      .SWC_PORT_STATE, .SWC_SHARED_FREE, .SWC_STATUS, .SYS_MODE, .SYS_MODE_EVT_CAUSE, .TIME_PORT_CAL_STATUS, .TIME_PORT_EVT_CAUSE])
  | .bufferAllocate .. => some (evP ++ [.bufs, .cnt, .perf, .pkts, .ports, .swc], evR ++ [.PERF_STATUS, .SWC_DESC_FREE, .SWC_EVT_CAUSE,
      .SWC_POOL_FREE, .SWC_POOL_LOW, .SWC_PORT_STATE, .SWC_SHARED_FREE, .SWC_STATUS])
  | .bufferFree .. => some (evP ++ [.bufs, .cnt, .perf, .ports, .stalls, .swc, .time], evR ++ [.PERF_STATUS, .PORT_STATE, .SWC_DESC_FREE,
      .SWC_EVT_CAUSE, .SWC_ILLFREE_CAP0, .SWC_ILLFREE_CAP1, .SWC_POOL_FREE, .SWC_PORT_STATE, .SWC_SHARED_FREE, .SWC_STATUS,
      .SYS_EPOCH_APPLIED0, .SYS_EPOCH_APPLIED1, .SYS_EPOCH_APPLIED2, .SYS_MODE, .SYS_MODE_EVT_CAUSE, .TIME_PORT_CAL_STATUS,
      .TIME_PORT_EVT_CAUSE])
  | .thresholdRecompute => some ([.cnt, .live, .out, .ports, .regs, .swc], [.SWC_PORT_STATE, .SYS_EPOCH_APPLIED0, .SYS_EPOCH_APPLIED1,
      .SYS_EPOCH_APPLIED2])
  | .queueDepthPublish | .policerSweep .. => some ([.qtrs], [])
  | .schedulerSelect .. => some (evP ++ [.bufs, .cnt, .pe, .perf, .ports, .swc], evR ++ [.PERF_STATUS, .SCH_HL_STATUS, .SWC_DESC_FREE,
      .SWC_EVT_CAUSE, .SWC_ILLFREE_CAP0, .SWC_ILLFREE_CAP1, .SWC_POOL_FREE, .SWC_PORT_STATE, .SWC_SHARED_FREE, .SWC_STATUS,
      .SYS_EPOCH_APPLIED0, .SYS_EPOCH_APPLIED1, .SYS_EPOCH_APPLIED2, .SYS_MODE, .SYS_MODE_EVT_CAUSE, .TIME_PORT_EVT_CAUSE])
  | .flushDiscard .. => some (evP ++ [.bufs, .cnt, .perf, .ports, .swc], evR ++ [.PERF_STATUS, .SWC_DESC_FREE, .SWC_EVT_CAUSE,
      .SWC_ILLFREE_CAP0, .SWC_ILLFREE_CAP1, .SWC_POOL_FREE, .SWC_PORT_STATE, .SWC_SHARED_FREE, .SWC_STATUS, .SYS_MODE,
      .SYS_MODE_EVT_CAUSE])
  | .queuesEmptyReport .. => some ([.live, .ports, .regs], [.PORT_STATE, .SWC_PORT_HDRM, .SWC_SHARED_FREE, .SWC_STATUS])
  | .stallCfgWrite .. => some (wrP ++ [.stalls], rjR ++ [.PORT_STATE, .STALL_CFG, .STALL_EVT_CAUSE, .STALL_STATUS, .SYS_LOCKED_WR,
      .SYS_LOCKED_WR_INFO])
  | .portCfgWrite .. => some (wrP ++ [.cnt, .lanes, .ports, .qtrs, .stalls, .time], wrR ++ [.FLAP_CNT, .LANE_EQ_STATUS, .PORT_CFG,
      .PORT_STATE, .SHR_EVT_CAUSE, .SWC_PORT_HDRM, .SWC_SHARED_FREE, .SWC_STATUS, .SYS_LOCKED_WR, .SYS_LOCKED_WR_INFO, .TIME_DPLL_STATUS,
      .TIME_PORT_CAL_STATUS, .TIME_PORT_PTP_STATUS])
  | .portRestart .. => some (wrP ++ [.cnt, .lanes, .ports, .qtrs, .stalls, .time], rjR ++ [.FLAP_CNT, .LANE_EQ_STATUS, .PORT_STATE,
      .SHR_EVT_CAUSE, .STALL_EVT_CAUSE, .STALL_STATUS, .SWC_PORT_HDRM, .SWC_SHARED_FREE, .SWC_STATUS, .TIME_DPLL_STATUS,
      .TIME_PORT_CAL_STATUS, .TIME_PORT_PTP_STATUS])
  | .negotiationComplete .. | .anPauseExpire .. | .trainingTimeboxExpire .. | .alignTimeout .. => some ([.lanes, .live, .out, .ports,
      .regs], [.PORT_STATE])
  | .anFail .. => some ([.live, .ports, .regs], [.PORT_STATE])
  | .trainingComplete .. => some ([.cnt, .lanes, .live, .out, .ports, .regs], [.LANE_EQ_STATUS, .PORT_STATE])
  | .alignmentQualified .. => some (evP ++ [.cnt, .lanes, .ports, .qtrs, .time], evR ++ [.LANE_EQ_STATUS, .PORT_STATE, .SWC_EVT_CAUSE,
      .SWC_PORT_HDRM, .SWC_PORT_STATE, .SWC_SHARED_FREE, .SWC_STATUS, .TIME_DPLL_STATUS, .TIME_PORT_CAL_STATUS, .TIME_PORT_PTP_STATUS])
  | .linkLoss .. => some (evP ++ [.cnt, .lanes, .ports, .qtrs, .stalls, .time], evR ++ [.FLAP_CNT, .LANE_EQ_STATUS, .PORT_STATE,
      .SHR_EVT_CAUSE, .SWC_PORT_HDRM, .SWC_SHARED_FREE, .SWC_STATUS, .TIME_DPLL_STATUS, .TIME_PORT_CAL_STATUS, .TIME_PORT_PTP_STATUS])
  | .holdTimerExpire .. => some ([.live, .ports, .qtrs, .regs], [.PORT_STATE, .SWC_PORT_HDRM, .SWC_SHARED_FREE, .SWC_STATUS])
  | .laneRetune .. => some (wrP ++ [.ports], rjR ++ [.LANE_EQ_STATUS, .PORT_STATE, .STALL_EVT_CAUSE, .STALL_STATUS,
      .TIME_PORT_CAL_STATUS])
  | .retuneComplete .. => some (wrP ++ [.cnt, .copies, .lanes, .ports, .rebuild, .thm, .tiles], rjR ++ [.AISLE_REBUILD_CTL,
      .AISLE_REBUILD_STATUS, .AISLE_SRCH_EVT_CAUSE, .AISLE_SRCH_STATUS, .AISLE_TILE_CFG, .LANE_EQ_STATUS, .PORT_STATE, .SHR_AVS_TARGET,
      .SHR_EVT_CAUSE, .STALL_EVT_CAUSE, .STALL_STATUS, .SYS_LOCKED_WR, .SYS_LOCKED_WR_INFO, .TIME_PORT_CAL_STATUS])
  | .eyeSweep .. => some (evP ++ [.cnt, .lanes, .thm], evR ++ [.LANE_EYE, .STALL_EVT_CAUSE])
  | .healthGradeRefresh .. => some ([.cnt, .live, .regs], [.PORT_STATE])
  | .bwmWindowEnd .. => some ([.live, .ports, .regs, .stalls], [.BWM_RX_LAST, .BWM_RX_MAX, .BWM_TX_LAST, .BWM_TX_MAX])
  | .siteChainScan .. => some (wrP ++ [.cnt, .lanes, .ports, .qtrs, .stalls, .time], evR ++ [.FLAP_CNT, .LANE_EQ_STATUS, .PORT_STATE,
      .SHR_EVT_CAUSE, .STALL_EVT_CAUSE, .STALL_STATUS, .SWC_PORT_HDRM, .SWC_SHARED_FREE, .SWC_STATUS, .TIME_DPLL_STATUS,
      .TIME_PORT_CAL_STATUS, .TIME_PORT_PTP_STATUS])
  | .datapathActivated .. | .siteFault .. | .txpllLoss .. => some (evP ++ [.cnt, .lanes, .ports, .qtrs, .stalls, .time], evR ++
      [.FLAP_CNT, .LANE_EQ_STATUS, .PORT_STATE, .SHR_EVT_CAUSE, .STALL_EVT_CAUSE, .STALL_STATUS, .SWC_PORT_HDRM, .SWC_SHARED_FREE,
      .SWC_STATUS, .TIME_DPLL_STATUS, .TIME_PORT_CAL_STATUS, .TIME_PORT_PTP_STATUS])
  | .moduleResetRelease .. | .siteFaultRetry .. => some ([.live, .regs, .stalls], [.STALL_STATUS])
  | .moduleLowPwrReport .. => some ([.evt, .lanes, .live, .out, .ports, .regs, .stalls], [.PORT_STATE, .STALL_STATUS])
  | .moduleReady .. => some ([.evt, .live, .out, .regs], [.STALL_STATUS])
  | .hlArm .. => some (wrP ++ [.ports], rjR ++ [.SCH_EVT_CAUSE, .SCH_HL_START_NS, .SCH_HL_START_S, .SCH_HL_START_SH, .SCH_HL_STATUS,
      .SCH_STATUS])
  | .hlCancel .. | .hlStop .. => some (wrP, rjR ++ [.SCH_EVT_CAUSE, .SCH_HL_STATUS, .SCH_STATUS])
  | .hlSwitch .. => some (evP ++ [.perf, .ports], evR ++ [.PERF_STATUS, .SCH_EVT_CAUSE, .SCH_HL_STATUS])
  | .gateEdge .. => some ([.live, .regs], [.SCH_HL_STATUS])
  | .qtClearClose .. => some ([.live, .perf, .ports, .regs], [.PERF_STATUS, .SCH_HL_STATUS])
  | .qtClearReopen .. => some ([.live, .ports, .regs], [.SCH_HL_STATUS])
  | .latencySample .. => some (evP ++ [.ports], evR ++ [.SCH_EVT_CAUSE])
  | .samplerClear .. => some (wrP ++ [.ports], wrR ++ [.SCH_SAMP_CTL, .SYS_LOCKED_WR, .SYS_LOCKED_WR_INFO])
  | .carve .. => some (wrP ++ [.swc], rjR ++ [.SWC_EVT_CAUSE, .SWC_POOL_FREE, .SWC_POOL_LOW, .SWC_POOL_TOTAL, .SWC_SHARED_FREE,
      .SWC_STATUS])
  | .txpllRelock .. => some ([.live, .ports, .regs], [.PORT_STATE, .STALL_STATUS, .TIME_PORT_CAL_STATUS])
  | _ => none

/-- The parts and the registers that each command of the ledgers, the search tables, the engines, the rings and the assay may change. -/
def frameTable (c : Instr) : Option (List Part × List Reg) :=
  match c with
  | .crierNoteSend .. => some ([.live, .pe, .qtrs, .regs], [.QTR_CRIER_STATUS])
  | .crierNoteReceive .. => some (evP ++ [.cnt, .pe, .qtrs], evR ++ [.QTR_EVT_CAUSE, .QTR_LDG_STATUS])
  | .rehashStart .. => some (wrP ++ [.qtrs], rjR ++ [.QTR_EVT_CAUSE, .QTR_LDG_STATUS, .QTR_REHASH_PTR, .QTR_STATUS])
  | .rehashDone .. => some (evP ++ [.cnt, .qtrs], evR ++ [.QTR_EVT_CAUSE, .QTR_LDG_SEED_A, .QTR_LDG_SEED_B, .QTR_LDG_STATUS,
      .QTR_REHASH_PTR])
  | .ageingVisit .. => some ([.cnt, .live, .qtrs, .regs], [.QTR_LDG_STATUS])
  | .qtrFlushGo .. => some (wrP ++ [.qtrs], rjR ++ [.QTR_EVT_CAUSE, .QTR_STATUS])
  | .flushWalkStart .. => some ([.live, .qtrs, .regs], [.QTR_LDG_STATUS])
  | .flushDone .. => some (evP ++ [.cnt, .qtrs], evR ++ [.QTR_EVT_CAUSE])
  | .flowletSweep .. => some ([.qtrs], [])
  | .rebuildGo .. => some (wrP ++ [.cnt, .copies, .rebuild, .tiles], rjR ++ [.AISLE_REBUILD_CTL, .AISLE_REBUILD_STATUS,
      .AISLE_SRCH_EVT_CAUSE, .AISLE_SRCH_STATUS, .AISLE_TILE_CFG, .SYS_LOCKED_WR, .SYS_LOCKED_WR_INFO])
  | .rebuildCopyDone .. | .rebuildClearDone .. => some (evP ++ [.cnt, .copies, .rebuild, .tiles], evR ++ [.AISLE_REBUILD_STATUS,
      .AISLE_SRCH_EVT_CAUSE, .AISLE_TILE_CFG])
  | .rebuildSwitch .. => some ([.live, .rebuild, .regs], [.AISLE_LPM_MAP, .AISLE_REBUILD_STATUS, .AISLE_RULE_MAP])
  | .assayUnitRead .. => some (evP ++ [.aisles, .cnt, .copies, .dma, .tiles], evR ++ [.AISLE_SRCH_EVT_CAUSE, .AISLE_SRCH_STATUS,
      .AISLE_TILE_CFG, .ASSAY_STATUS, .QTR_ASSAY_EVT_CAUSE, .SYS_MODE, .SYS_MODE_EVT_CAUSE])
  | .microwordExecute .. => some (evP ++ [.aisles, .bufs, .cnt, .lanes, .pe, .perf, .ports, .qtrs, .stalls, .swc, .time], evR ++
      [.AISLE_MC_EVT_CAUSE, .AISLE_MC_STATUS, .FLAP_CNT, .LANE_EQ_STATUS, .PERF_STATUS, .PE_EVT_CAUSE, .PE_STATUS, .PORT_STATE,
      .SHR_EVT_CAUSE, .SWC_DESC_FREE, .SWC_EVT_CAUSE, .SWC_ILLFREE_CAP0, .SWC_ILLFREE_CAP1, .SWC_POOL_FREE, .SWC_PORT_HDRM,
      .SWC_PORT_STATE, .SWC_SHARED_FREE, .SWC_STATUS, .SYS_EPOCH_APPLIED0, .SYS_EPOCH_APPLIED1, .SYS_EPOCH_APPLIED2, .SYS_MODE,
      .SYS_MODE_EVT_CAUSE, .TIME_DPLL_STATUS, .TIME_PORT_CAL_STATUS, .TIME_PORT_PTP_STATUS])
  | .nhRead .. | .rwRead .. | .bdRead .. | .count .. | .stRead | .stWrite | .msgPost | .timerSet | .txFrame | .tsRead | .tableCallResult
      .. => some ([.aisles, .pe], [])
  | .endRoutine .. => some (evP ++ [.aisles, .bufs, .cnt, .fidNext, .fresh, .pe, .perf, .pkts, .ports, .stm, .swc], evR ++ [.PERF_STATUS,
      .PE_EVT_CAUSE, .SWC_DESC_FREE, .SWC_EVT_CAUSE, .SWC_ILLFREE_CAP0, .SWC_ILLFREE_CAP1, .SWC_POOL_FREE, .SWC_PORT_STATE,
      .SWC_SHARED_FREE, .SWC_STATUS, .SYS_MODE, .SYS_MODE_EVT_CAUSE])
  | .abort .. => some (evP ++ [.aisles, .bufs, .cnt, .pe, .perf, .pkts, .ports, .swc], evR ++ [.PERF_STATUS, .PE_EVT_CAUSE,
      .SWC_DESC_FREE, .SWC_EVT_CAUSE, .SWC_ILLFREE_CAP0, .SWC_ILLFREE_CAP1, .SWC_POOL_FREE, .SWC_PORT_STATE, .SWC_SHARED_FREE,
      .SWC_STATUS, .SYS_MODE, .SYS_MODE_EVT_CAUSE])
  | .mcResume .. => some (wrP ++ [.aisles, .pe], rjR ++ [.AISLE_MC_EVT_CAUSE, .AISLE_MC_STATUS, .PE_EVT_CAUSE, .PE_STATUS])
  | .mcPop .. => some (wrP ++ [.aisles, .pe], wrR)
  | .fence .. => some (wrP ++ [.aisles, .cnt, .lanes, .ports, .qtrs, .stalls, .time], wrR ++ [.AISLE_MC_EVT_CAUSE, .FLAP_CNT,
      .LANE_EQ_STATUS, .PORT_STATE, .SHR_EVT_CAUSE, .SWC_PORT_HDRM, .SWC_SHARED_FREE, .SWC_STATUS, .SYS_EPOCH_APPLIED0,
      .SYS_EPOCH_APPLIED1, .SYS_EPOCH_APPLIED2, .TIME_DPLL_STATUS, .TIME_PORT_CAL_STATUS, .TIME_PORT_PTP_STATUS])
  | .resumeTimeout .. => some (evP ++ [.aisles, .cnt, .lanes, .pe, .ports, .qtrs, .stalls, .time], evR ++ [.AISLE_MC_EVT_CAUSE, .FLAP_CNT,
      .LANE_EQ_STATUS, .PORT_STATE, .SHR_EVT_CAUSE, .SWC_PORT_HDRM, .SWC_SHARED_FREE, .SWC_STATUS, .SYS_EPOCH_APPLIED0,
      .SYS_EPOCH_APPLIED1, .SYS_EPOCH_APPLIED2, .TIME_DPLL_STATUS, .TIME_PORT_CAL_STATUS, .TIME_PORT_PTP_STATUS])
  | .peResumeTimeout => some (evP ++ [.aisles, .pe], evR ++ [.PE_EVT_CAUSE])
  | .wheelPosition .. => some (evP ++ [.aisles, .bfd, .bufs, .cnt, .dma, .fidNext, .fresh, .lanes, .pe, .perf, .pkts, .ports, .qtrs,
      .stalls, .swc, .time], evR ++ [.AISLE_MC_EVT_CAUSE, .AISLE_MC_STATUS, .DMA_EVT_CAUSE, .FLAP_CNT, .HQ_LOST, .LANE_EQ_STATUS,
      .PERF_STATUS, .PE_EVT_CAUSE, .PE_STATUS, .PORT_STATE, .SHR_EVT_CAUSE, .SWC_DESC_FREE, .SWC_EVT_CAUSE, .SWC_ILLFREE_CAP0,
      .SWC_ILLFREE_CAP1, .SWC_POOL_FREE, .SWC_PORT_HDRM, .SWC_PORT_STATE, .SWC_SHARED_FREE, .SWC_STATUS, .SYS_EPOCH_APPLIED0,
      .SYS_EPOCH_APPLIED1, .SYS_EPOCH_APPLIED2, .SYS_MODE, .SYS_MODE_EVT_CAUSE, .TIME_DPLL_STATUS, .TIME_PORT_CAL_STATUS,
      .TIME_PORT_PTP_STATUS])
  | .peTimerExpire .. => some ([.bfd, .pe, .ports], [])
  | .lldpTtlExpire .. => some (evP ++ [.cnt, .pe, .ports], evR ++ [.PE_EVT_CAUSE])
  | .bfdDetectExpire .. => some ([.ports], [])
  | .claim .. => some (wrP ++ [.aisles, .dma], rjR ++ [.ASSAY_STATUS, .DMA_EVT_CAUSE, .QTR_ASSAY_EVT_CAUSE, .SYS_OWNER, .SYS_STATUS])
  | .release .. => some (wrP ++ [.aisles, .bufs, .cnt, .dma, .hostWr, .perf, .ports, .swc], rjR ++ [.ASSAY_CTL, .ASSAY_STATUS,
      .DMA_EVT_CAUSE, .DMA_PADLOCK, .DMA_RING_HEAD, .HQ_CFG, .HQ_LOST, .PERF_STATUS, .QTR_ASSAY_EVT_CAUSE, .SWC_DESC_FREE, .SWC_EVT_CAUSE,
      .SWC_ILLFREE_CAP0, .SWC_ILLFREE_CAP1, .SWC_POOL_FREE, .SWC_PORT_STATE, .SWC_SHARED_FREE, .SWC_STATUS, .SYS_MODE,
      .SYS_MODE_EVT_CAUSE, .SYS_OWNER, .SYS_STATUS])
  | .heartbeat .. => some (wrP ++ [.dma], rjR ++ [.SYS_STATUS])
  | .heartbeatLate => some (evP ++ [.aisles, .bufs, .cnt, .dma, .hostWr, .perf, .ports, .swc], evR ++ [.ASSAY_CTL, .ASSAY_STATUS,
      .DMA_EVT_CAUSE, .DMA_PADLOCK, .DMA_RING_HEAD, .HQ_CFG, .HQ_LOST, .PERF_STATUS, .QTR_ASSAY_EVT_CAUSE, .SWC_DESC_FREE, .SWC_EVT_CAUSE,
      .SWC_ILLFREE_CAP0, .SWC_ILLFREE_CAP1, .SWC_POOL_FREE, .SWC_PORT_STATE, .SWC_SHARED_FREE, .SWC_STATUS, .SYS_MODE,
      .SYS_MODE_EVT_CAUSE, .SYS_OWNER])
  | .dmaRingTailWrite .. => some (wrP, rjR ++ [.DMA_EVT_CAUSE, .DMA_RING_TAIL, .DMA_STATUS])
  | .dmaDescriptorExecute .. => some (wrP ++ [.aisles, .cnt, .copies, .dma, .flat, .hostWr, .mode, .pe, .qtrs, .rebuild, .sec, .tiles],
      evR ++ [.AISLE_LPM_MAP, .AISLE_REBUILD_STATUS, .AISLE_RULE_MAP, .AISLE_SRCH_EVT_CAUSE, .AISLE_TILE_CFG, .ASSAY_STATUS,
      .DMA_EVT_CAUSE, .DMA_PADLOCK, .DMA_RING_HEAD, .DMA_STATUS, .NVM_BOOT, .QTR_ASSAY_EVT_CAUSE, .QTR_EVT_CAUSE, .QTR_LDG_STATUS,
      .SYS_MODE, .SYS_MODE_EVT_CAUSE, .SYS_REJECT_ADDR, .SYS_REJECT_INFO])
  | .write .. | .fill .. | .pselWrite .. => some (wrP ++ [.flat, .qtrs], evR ++ [.AISLE_SRCH_EVT_CAUSE, .DMA_EVT_CAUSE, .DMA_STATUS,
      .SYS_REJECT_ADDR, .SYS_REJECT_INFO])
  | .read .. => some (wrP ++ [.hostWr], evR ++ [.DMA_EVT_CAUSE, .DMA_STATUS, .SYS_REJECT_ADDR, .SYS_REJECT_INFO])
  | .ldgInsert .. => some (wrP ++ [.cnt, .qtrs], evR ++ [.DMA_EVT_CAUSE, .DMA_STATUS, .QTR_EVT_CAUSE, .QTR_LDG_STATUS, .SYS_REJECT_ADDR,
      .SYS_REJECT_INFO])
  | .ldgDelete .. => some (wrP ++ [.qtrs], evR ++ [.DMA_EVT_CAUSE, .DMA_STATUS, .QTR_LDG_STATUS, .SYS_REJECT_ADDR, .SYS_REJECT_INFO])
  | .lpmInsert .. => some (wrP ++ [.cnt, .copies, .rebuild, .tiles], evR ++ [.AISLE_LPM_MAP, .AISLE_REBUILD_STATUS, .AISLE_RULE_MAP,
      .AISLE_SRCH_EVT_CAUSE, .AISLE_TILE_CFG, .DMA_EVT_CAUSE, .DMA_STATUS, .SYS_REJECT_ADDR, .SYS_REJECT_INFO])
  | .lpmDelete .. | .ruleMove .. => some (wrP ++ [.cnt, .copies, .tiles], evR ++ [.AISLE_TILE_CFG, .DMA_EVT_CAUSE, .DMA_STATUS,
      .SYS_REJECT_ADDR, .SYS_REJECT_INFO])
  | .ruleWrite .. | .ruleClear .. => some (wrP ++ [.copies, .tiles], evR ++ [.AISLE_TILE_CFG, .DMA_EVT_CAUSE, .DMA_STATUS,
      .SYS_REJECT_ADDR, .SYS_REJECT_INFO])
  | .padlock .. => some (wrP ++ [.cnt, .dma, .pe, .qtrs], evR ++ [.DMA_EVT_CAUSE, .DMA_PADLOCK, .DMA_STATUS, .QTR_EVT_CAUSE,
      .QTR_LDG_STATUS, .SYS_REJECT_ADDR, .SYS_REJECT_INFO])
  | .nop .. => some (wrP, evR ++ [.DMA_EVT_CAUSE, .DMA_STATUS, .SYS_REJECT_ADDR, .SYS_REJECT_INFO])
  | .padlockExpired .. => some (evP ++ [.cnt, .dma, .pe, .qtrs], evR ++ [.DMA_EVT_CAUSE, .DMA_PADLOCK, .QTR_EVT_CAUSE, .QTR_LDG_STATUS])
  | .assayRecordStep .. => some (evP ++ [.aisles, .cnt, .dma, .nvm], evR ++ [.ASSAY_STATUS, .QTR_ASSAY_EVT_CAUSE, .SYS_MODE,
      .SYS_MODE_EVT_CAUSE])
  | .findingConfirm .. => some (wrP ++ [.aisles, .cnt, .copies, .dma, .flat, .hostWr, .nvm, .pe, .qtrs, .rebuild, .tiles], evR ++
      [.AISLE_LPM_MAP, .AISLE_REBUILD_STATUS, .AISLE_RULE_MAP, .AISLE_SRCH_EVT_CAUSE, .AISLE_TILE_CFG, .ASSAY_STATUS, .DMA_EVT_CAUSE,
      .DMA_PADLOCK, .DMA_STATUS, .QTR_ASSAY_EVT_CAUSE, .QTR_EVT_CAUSE, .QTR_LDG_STATUS, .SYS_MODE, .SYS_MODE_EVT_CAUSE, .SYS_REJECT_ADDR,
      .SYS_REJECT_INFO])
  | .winCountBucketExpire => some (evP ++ [.dma], evR ++ [.ASSAY_STATUS, .QTR_ASSAY_EVT_CAUSE, .SYS_MODE, .SYS_MODE_EVT_CAUSE])
  | .hostPacketMoverDone .. => some (evP ++ [.bufs, .cnt, .dma, .fidNext, .hostWr, .perf, .pkts, .ports, .swc], evR ++ [.DMA_EVT_CAUSE,
      .HQ_HEAD, .HQ_LOST, .PERF_STATUS, .SWC_DESC_FREE, .SWC_EVT_CAUSE, .SWC_ILLFREE_CAP0, .SWC_ILLFREE_CAP1, .SWC_POOL_FREE,
      .SWC_PORT_STATE, .SWC_SHARED_FREE, .SWC_STATUS, .SYS_MODE, .SYS_MODE_EVT_CAUSE])
  | _ => none

/-- The parts and the registers that each command of the time unit and its services may change. -/
def frameTime (c : Instr) : Option (List Part × List Reg) :=
  match c with
  | .timeWordSend => some ([.live, .out, .perf, .regs, .time], [.PERF_STATUS, .SYS_EPOCH_APPLIED0, .SYS_EPOCH_APPLIED1,
      .SYS_EPOCH_APPLIED2])
  | .distEchoMeasure .. => some ([.live, .perf, .ports, .regs, .stalls], [.PERF_STATUS, .PORT_STATE, .TIME_PORT_CAL_STATUS, .TIME_STATUS])
  | .timeStep => some (evP ++ [.aisles, .clk, .mode, .ports, .time], evR ++ [.AISLE_PARSE_CFG, .SCH_EVT_CAUSE, .SCH_HL_START_NS,
      .SCH_HL_START_S, .SCH_HL_START_SH, .SCH_HL_STATUS, .SCH_STATUS, .SYS_EPOCH, .SYS_EPOCH_APPLIED0, .SYS_EPOCH_APPLIED1,
      .SYS_EPOCH_APPLIED2, .SYS_MODE, .TIME_SVC_EVT_CAUSE])
  | .calibrationStart .. | .calPeriodExpire .. => some ([.live, .ports, .regs, .time], [.PORT_STATE, .TIME_PORT_CAL_STATUS])
  | .calibrationCommit .. => some (evP ++ [.lanes, .perf, .ports, .stalls, .time], evR ++ [.PERF_STATUS, .PORT_STATE,
      .TIME_PORT_CAL_STATUS, .TIME_PORT_EVT_CAUSE])
  | .calReq .. => some (wrP ++ [.ports], rjR ++ [.PORT_STATE, .TIME_PORT_CAL_STATUS, .TIME_PORT_EVT_CAUSE, .TIME_STATUS])
  | .probeReq .. => some (wrP ++ [.ports], rjR ++ [.TIME_PORT_EVT_CAUSE, .TIME_STATUS])
  | .probeSend .. | .linkdlyPeriodExpire .. => some ([.cnt, .ports], [])
  | .probeResponse .. => some (evP ++ [.cnt, .ports], evR ++ [.SWC_EVT_CAUSE, .SWC_PORT_HDRM, .SWC_PORT_STATE, .SWC_SHARED_FREE,
      .SWC_STATUS, .TIME_PORT_CAL_STATUS, .TIME_PORT_EVT_CAUSE, .TIME_PORT_LINKDLY])
  | .probeNone .. => some (evP ++ [.ports], evR ++ [.TIME_PORT_EVT_CAUSE])
  | .bmcaRun .. => some (evP ++ [.ports, .time], evR ++ [.TIME_PORT_PTP_STATUS, .TIME_SERVO_STATUS, .TIME_SVC_EVT_CAUSE])
  | .announceReceiptTimeout .. => some ([.ports], [])
  | .servoSample .. | .todSentenceReceive .. => some (evP ++ [.fresh, .time], evR ++ [.TIME_SERVO_STATUS, .TIME_SVC_EVT_CAUSE])
  | .sourceLost | .holdoverLimitExpire => some (evP ++ [.time], evR ++ [.TIME_SERVO_STATUS, .TIME_SVC_EVT_CAUSE])
  | .forceNone .. | .forceFreerun .. => some (wrP ++ [.time], wrR ++ [.SYS_LOCKED_WR, .SYS_LOCKED_WR_INFO, .TIME_SERVO_CTL,
      .TIME_SERVO_STATUS, .TIME_SVC_EVT_CAUSE])
  | .forceHoldover .. => some (wrP ++ [.time], rjR ++ [.SYS_LOCKED_WR, .SYS_LOCKED_WR_INFO, .TIME_SERVO_CTL, .TIME_SERVO_STATUS,
      .TIME_STATUS, .TIME_SVC_EVT_CAUSE])
  | .ppsInEdge .. => some (evP ++ [.time], evR ++ [.TIME_DPLL_STATUS, .TIME_SERVO_STATUS, .TIME_SVC_EVT_CAUSE])
  | .ppsLoss => some (evP ++ [.time], evR ++ [.TIME_DPLL_STATUS, .TIME_SVC_EVT_CAUSE])
  | .dpllInputLoss .. => some ([.live, .regs, .time], [.TIME_DPLL_STATUS])
  | .dpllInputQualify .. => some ([.live, .regs], [.TIME_DPLL_STATUS])
  | .refSwitch | .dpllLock => some (evP ++ [.ports, .time], evR ++ [.TIME_DPLL_STATUS, .TIME_SVC_EVT_CAUSE])
  | .esmcTimeout .. => some (evP ++ [.ports], evR ++ [.PE_EVT_CAUSE, .TIME_DPLL_STATUS, .TIME_PORT_PTP_STATUS])
  | .ppsOutEdge | .todSentenceSend => some ([.out, .time], [])
  | .tallyIssue => some ([.fresh, .live, .regs, .time], [.TIME_TALLY_STATUS])
  | .tallySigned => some ([.fresh, .time], [])
  | _ => none

/-- The parts and the registers that each command of management may change: modes, clocks, NVM, security, thermal control, planner, windows. -/
def frameManage (c : Instr) : Option (List Part × List Reg) :=
  match c with
  | .mbxRead .. => some (wrP ++ [.mbx, .nvm], rjR ++ [.DMA_EVT_CAUSE, .DMA_STATUS, .MBX_CTL, .MBX_DATA, .STALL_EVT_CAUSE, .STALL_STATUS])
  | .mbxWrite .. => some (wrP ++ [.aisles, .bfd, .cnt, .mbx, .nvm, .pe, .perf, .ports, .sec, .time], rjR ++ [.AISLE_MC_EVT_CAUSE,
      .AISLE_MC_STATUS, .DMA_EVT_CAUSE, .DMA_STATUS, .MBX_CTL, .MBX_DATA, .PC_CFG, .PC_THR, .PE_EVT_CAUSE, .PE_STATUS, .SCH_EVT_CAUSE,
      .SCH_STATUS, .SEC_EVT_CAUSE, .SEC_STATUS, .SHR_EVT_CAUSE, .SHR_STATUS, .STALL_EVT_CAUSE, .STALL_STATUS, .SYS_LOCKED_WR,
      .SYS_LOCKED_WR_INFO, .SYS_STATUS, .TIME_STATUS, .TIME_SVC_EVT_CAUSE])
  | .mbxReadClear .. => some (wrP ++ [.cnt, .mbx, .nvm, .perf, .thm], rjR ++ [.BWM_RX_MAX, .BWM_TX_MAX, .DMA_EVT_CAUSE, .DMA_STATUS,
      .MBX_CTL, .MBX_DATA, .STALL_EVT_CAUSE, .STALL_STATUS])
  | .mbxModuleIoDone .. => some (wrP ++ [.mbx], evR ++ [.MBX_CTL, .MBX_DATA])
  | .regRead .. | .evtTest .. => some (wrP, wrR)
  | .smbusTimeout => some ([.out], [])
  | .alertResponse => some ([.evt, .out], [])
  | .holdoffExpire .. => some ([.live, .msi, .out, .regs], [.EVT_MSI_LOST])
  | .resetNRelease => some ([.clk], [])
  | .exitSequenceStart .. => some ([.clk, .live, .nvmMem, .regs], [.CLK_RST_CAUSE])
  | .refclkMeasure .. => some (evP ++ [.clk], evR ++ [.CLK_EVT_CAUSE, .CLK_OPT_STATUS, .CLK_STATUS, .PERF_PERMIT, .THM_CFG])
  | .resetDone => some (evP ++ [.clk, .fresh, .mode, .sec, .time], evR ++ [.CLK_EVT_CAUSE, .CLK_STATUS, .SEC_EVT_CAUSE, .SEC_STATUS,
      .SYS_MODE])
  | .timepllLoss => some (evP ++ [.ports, .time], evR ++ [.CLK_EVT_CAUSE, .CLK_STATUS, .TIME_DPLL_STATUS, .TIME_SVC_EVT_CAUSE])
  | .timepllRelock => some (evP ++ [.ports, .time], evR ++ [.CLK_EVT_CAUSE, .CLK_STATUS, .PORT_STATE, .TIME_DPLL_STATUS,
      .TIME_PORT_CAL_STATUS, .TIME_SVC_EVT_CAUSE])
  | .pciePllLoss | .pciePllRelock => some ([.live, .regs], [.CLK_STATUS])
  | .softResetDone .. => some (evP ++ [.aisles, .bfd, .clk, .fresh, .lanes, .mbx, .nvm, .pe, .ports, .sec], evR ++ [.CLK_EVT_CAUSE,
      .CLK_SOFT_RST0, .CLK_SOFT_RST1, .CLK_SOFT_RST2, .MBX_CTL, .MBX_DATA, .NVM_STATUS, .PORT_STATE, .SEC_EVT_CAUSE, .SEC_STATUS,
      .STALL_STATUS])
  | .wdtKick .. => some (wrP ++ [.clk], wrR ++ [.CLK_WDT_STATUS])
  | .wdtExpire => some (wrP ++ [.bfd, .clk, .mbx, .nvm, .pe, .thm, .time], evR ++ [.CLK_EVT_CAUSE, .CLK_RST_CAUSE, .MBX_CTL, .MBX_DATA,
      .MBX_SEL])
  | .perstNAssert => some (wrP ++ [.aisles, .bufs, .clk, .cnt, .dma, .hostWr, .mbx, .nvm, .perf, .ports, .sec, .swc], evR ++ [.ASSAY_CTL,
      .ASSAY_STATUS, .CLK_EVT_CAUSE, .CLK_STATUS, .DMA_CPL_BASE_HI, .DMA_CPL_BASE_LO, .DMA_EVT_CAUSE, .DMA_PADLOCK, .DMA_RING_BASE_HI,
      .DMA_RING_BASE_LO, .DMA_RING_CFG, .DMA_RING_HEAD, .DMA_RING_TAIL, .HQ_BASE_HI, .HQ_BASE_LO, .HQ_CFG, .HQ_HEAD, .HQ_LOST, .HQ_TAIL,
      .MBX_CTL, .MBX_DATA, .MBX_SEL, .PERF_SNAP_BASE_HI, .PERF_SNAP_BASE_LO, .PERF_SNAP_CFG, .PERF_STATUS, .QTR_ASSAY_EVT_CAUSE,
      .SEC_EVT_CAUSE, .SEC_STATUS, .SWC_DESC_FREE, .SWC_EVT_CAUSE, .SWC_ILLFREE_CAP0, .SWC_ILLFREE_CAP1, .SWC_POOL_FREE, .SWC_PORT_STATE,
      .SWC_SHARED_FREE, .SWC_STATUS, .SYS_MODE, .SYS_MODE_EVT_CAUSE, .SYS_OWNER])
  | .perstNRelease => some ([.clk, .live, .regs], [.CLK_STATUS])
  | .flr .. => some (wrP ++ [.bufs, .cnt, .dma, .hostWr, .mbx, .nvm, .perf, .ports, .sec, .swc], evR ++ [.CLK_EVT_CAUSE, .DMA_CPL_BASE_HI,
      .DMA_CPL_BASE_LO, .DMA_EVT_CAUSE, .DMA_PADLOCK, .DMA_RING_BASE_HI, .DMA_RING_BASE_LO, .DMA_RING_CFG, .DMA_RING_HEAD, .DMA_RING_TAIL,
      .HQ_BASE_HI, .HQ_BASE_LO, .HQ_CFG, .HQ_HEAD, .HQ_LOST, .HQ_TAIL, .MBX_CTL, .MBX_DATA, .MBX_SEL, .PERF_SNAP_BASE_HI,
      .PERF_SNAP_BASE_LO, .PERF_SNAP_CFG, .PERF_STATUS, .SEC_EVT_CAUSE, .SEC_STATUS, .SWC_DESC_FREE, .SWC_EVT_CAUSE, .SWC_ILLFREE_CAP0,
      .SWC_ILLFREE_CAP1, .SWC_POOL_FREE, .SWC_PORT_STATE, .SWC_SHARED_FREE, .SWC_STATUS, .SYS_MODE, .SYS_MODE_EVT_CAUSE])
  | .bootRomStart .. => some (evP ++ [.aisles, .clk, .dma, .fresh, .mode, .nvm, .pe, .sec, .swc, .thm], evR ++ [.NVM_BOOT, .NVM_FAULT,
      .NVM_STATUS, .SEC_EVT_CAUSE, .SEC_STATUS, .SHR_AVS_TARGET, .SHR_EVT_CAUSE, .SHR_STATUS, .SYS_MODE, .SYS_MODE_EVT_CAUSE])
  | .patchLoad => some (evP ++ [.aisles, .mode, .nvm, .pe, .sec], evR ++ [.NVM_BOOT, .SYS_MODE, .SYS_MODE_EVT_CAUSE])
  | .cfgRecordIdent => some (evP ++ [.mode, .nvm, .pe], evR ++ [.NVM_BOOT, .SYS_MODE, .SYS_MODE_EVT_CAUSE])
  | .cfgRecordWait => some (evP ++ [.mode, .nvm], evR ++ [.NVM_BOOT, .SYS_MODE, .SYS_MODE_EVT_CAUSE])
  | .cfgWaitExpire => some ([.nvm], [])
  | .cfgRecordEnd => some (wrP ++ [.aisles, .dma, .mode, .nvm, .sec, .swc, .thm], evR ++ [.AISLE_LPM_MAP, .AISLE_RULE_MAP,
      .AISLE_TILE_CFG, .ASSAY_STATUS, .NVM_BOOT, .QTR_ASSAY_EVT_CAUSE, .SHR_EVT_CAUSE, .SWC_EVT_CAUSE, .SWC_POOL_FREE, .SWC_POOL_LOW,
      .SWC_POOL_TOTAL, .SWC_SHARED_FREE, .SWC_STATUS, .SYS_MODE, .SYS_MODE_EVT_CAUSE])
  | .autoModeChange => some ([.aisles, .live, .mode, .regs, .time], [.AISLE_PARSE_CFG, .SYS_EPOCH, .SYS_EPOCH_APPLIED0,
      .SYS_EPOCH_APPLIED1, .SYS_EPOCH_APPLIED2, .SYS_MODE])
  | .modeReqOpen .. | .modeReqLean .. | .modeReqDrain .. | .modeReqSealed .. | .modeReqProving .. | .modeReqSetup .. => some (wrP ++
      [.aisles, .mode, .time], rjR ++ [.AISLE_PARSE_CFG, .AISLE_SRCH_EVT_CAUSE, .AISLE_SRCH_STATUS, .SYS_EPOCH, .SYS_EPOCH_APPLIED0,
      .SYS_EPOCH_APPLIED1, .SYS_EPOCH_APPLIED2, .SYS_MODE, .SYS_MODE_EVT_CAUSE, .SYS_STATUS])
  | .epochReq .. => some (wrP ++ [.aisles, .mode, .time], rjR ++ [.AISLE_PARSE_CFG, .SYS_EPOCH, .SYS_EPOCH_APPLIED0, .SYS_EPOCH_APPLIED1,
      .SYS_EPOCH_APPLIED2, .SYS_MODE, .SYS_STATUS])
  | .epochUnitApplied .. => some ([.regs], [.SYS_EPOCH_APPLIED0, .SYS_EPOCH_APPLIED1, .SYS_EPOCH_APPLIED2])
  | .epochWindowExpire .. => some (evP ++ [.mode, .pkts], evR ++ [.SYS_EPOCH_APPLIED0, .SYS_EPOCH_APPLIED1, .SYS_EPOCH_APPLIED2,
      .SYS_EPOCH_LATE, .SYS_MODE_EVT_CAUSE])
  | .epochDone => some (evP ++ [.aisles, .dma, .mode, .nvm, .pe, .ports, .swc, .thm], evR ++ [.AISLE_SRCH_EVT_CAUSE, .AISLE_SRCH_STATUS,
      .ASSAY_STATUS, .DMA_EVT_CAUSE, .QTR_ASSAY_EVT_CAUSE, .SEC_STATUS, .SYS_EPOCH, .SYS_MODE, .SYS_MODE_CFG, .SYS_MODE_EVT_CAUSE])
  | .proveGo .. => some (wrP ++ [.mode], rjR ++ [.SYS_PROVE_CTL, .SYS_PROVE_STATUS, .SYS_STATUS])
  | .proveTestDone .. => some (evP ++ [.copies, .mode, .pe, .qtrs, .stalls, .tiles], evR ++ [.AISLE_TILE_CFG, .QTR_LDG_STATUS,
      .SYS_MODE_EVT_CAUSE, .SYS_PROVE_STATUS])
  | .nvmHoldSet .. => some (wrP, rjR ++ [.NVM_CTL, .NVM_STATUS])
  | .nvmHoldClear .. => some (wrP ++ [.aisles, .dma, .mbx, .nvm, .nvmMem], rjR ++ [.ASSAY_STATUS, .MBX_CTL, .MBX_DATA, .NVM_CTL,
      .NVM_STATUS, .QTR_ASSAY_EVT_CAUSE])
  | .nvmPageProgram => some (evP ++ [.nvm], evR ++ [.DMA_EVT_CAUSE, .NVM_FAULT, .NVM_STATUS, .SHR_EVT_CAUSE, .SHR_STATUS])
  | .burnOwner .. | .revoke .. => some (wrP ++ [.sec], rjR ++ [.SEC_EVT_CAUSE, .SEC_STATUS, .SYS_LOCKED_WR, .SYS_LOCKED_WR_INFO])
  | .otpBurnDone .. | .svnBurnDone => some (evP ++ [.otp, .sec], evR ++ [.SEC_EVT_CAUSE, .SEC_STATUS])
  | .svnAdvance .. => some (wrP ++ [.sec], rjR ++ [.SEC_EVT_CAUSE, .SEC_STATUS])
  | .cfgLock .. => some (wrP, wrR ++ [.SEC_LOCK])
  | .entropyFail | .finish .. | .endSession .. | .sessionHeartbeatTimeout .. | .securedMessageFail .. => some (evP ++ [.sec], evR ++
      [.SEC_EVT_CAUSE, .SEC_STATUS])
  | .entropyRecover => some (evP ++ [.fresh, .sec], evR ++ [.SEC_EVT_CAUSE, .SEC_STATUS])
  | .getVersion .. | .getDigests .. | .getCertificate .. | .spdmHeartbeat .. | .keyUpdate .. | .chunkGet .. | .unsupportedRequest .. =>
      some ([.out, .sec], [])
  | .getCapabilities .. => some ([.fresh, .out, .sec], [])
  | .negotiateAlgorithms .. => some ([.out, .sec], [])
  | .challenge .. | .getMeasurements .. | .keyExchange .. => some ([.fresh, .out, .sec], [])
  | .chunkSend .. => some (evP ++ [.fresh, .sec], evR ++ [.SEC_EVT_CAUSE, .SEC_STATUS])
  | .thermalStepDown => some (evP ++ [.thm], evR ++ [.AISLE_SRCH_EVT_CAUSE, .AISLE_SRCH_STATUS, .SYS_MODE, .THM_EVT_CAUSE, .THM_STATUS])
  | .sensorStuckCheck .. => some (evP ++ [.thm], evR ++ [.AISLE_SRCH_EVT_CAUSE, .AISLE_SRCH_STATUS, .SYS_MODE, .THM_EVT_CAUSE, .THM_FAIL0,
      .THM_FAIL1, .THM_STATUS])
  | .powerRead .. => some ([.fresh, .live, .regs, .thm], [.PWR_STATUS, .SHR_AVS_STATUS])
  | .pwrLean => some (wrP ++ [.aisles, .mode, .thm, .time], evR ++ [.AISLE_PARSE_CFG, .AISLE_SRCH_EVT_CAUSE, .AISLE_SRCH_STATUS,
      .SHR_EVT_CAUSE, .SYS_EPOCH, .SYS_EPOCH_APPLIED0, .SYS_EPOCH_APPLIED1, .SYS_EPOCH_APPLIED2, .SYS_EVT_CAUSE, .SYS_MODE,
      .SYS_MODE_EVT_CAUSE, .SYS_REJECT_ADDR, .SYS_REJECT_INFO, .SYS_STATUS])
  | .pwrStepRelax | .pwrRequestRetry => some (wrP ++ [.aisles, .mode, .thm, .time], evR ++ [.AISLE_PARSE_CFG, .AISLE_SRCH_EVT_CAUSE,
      .AISLE_SRCH_STATUS, .SYS_EPOCH, .SYS_EPOCH_APPLIED0, .SYS_EPOCH_APPLIED1, .SYS_EPOCH_APPLIED2, .SYS_EVT_CAUSE, .SYS_MODE,
      .SYS_MODE_EVT_CAUSE, .SYS_REJECT_ADDR, .SYS_REJECT_INFO, .SYS_STATUS])
  | .canarySample .. | .planNow .. | .plannerCycleStart => some (wrP ++ [.cnt, .copies, .fresh, .lanes, .ports, .rebuild, .thm, .tiles],
      rjR ++ [.AISLE_REBUILD_CTL, .AISLE_REBUILD_STATUS, .AISLE_SRCH_EVT_CAUSE, .AISLE_SRCH_STATUS, .AISLE_TILE_CFG, .LANE_EQ_STATUS,
      .PORT_STATE, .SHR_AVS_TARGET, .SHR_EVT_CAUSE, .SHR_STATUS, .STALL_EVT_CAUSE, .STALL_STATUS, .SYS_LOCKED_WR, .SYS_LOCKED_WR_INFO,
      .TIME_PORT_CAL_STATUS])
  | .planDone => some (evP ++ [.nvm, .thm], evR ++ [.SHR_EVT_CAUSE, .SHR_STATUS])
  | .shoringDeferExpire => some (wrP ++ [.cnt, .copies, .lanes, .ports, .rebuild, .thm, .tiles], rjR ++ [.AISLE_REBUILD_CTL,
      .AISLE_REBUILD_STATUS, .AISLE_SRCH_EVT_CAUSE, .AISLE_SRCH_STATUS, .AISLE_TILE_CFG, .LANE_EQ_STATUS, .PORT_STATE, .SHR_AVS_TARGET,
      .SHR_EVT_CAUSE, .STALL_EVT_CAUSE, .STALL_STATUS, .SYS_LOCKED_WR, .SYS_LOCKED_WR_INFO, .TIME_PORT_CAL_STATUS])
  | .avsStep .. => some (evP ++ [.ports, .thm], evR ++ [.PORT_STATE, .SHR_EVT_CAUSE, .TIME_PORT_CAL_STATUS])
  | .avsFaultRetry .. => some ([.out, .thm], [])
  | .perfSnapshot .. => some ([.clk, .hostWr, .live, .regs], [.PERF_SNAP_SEQ, .PERF_SNAP_STATUS])
  | .perfOverflow .. => some ([.live, .perf, .regs], [.PERF_STATUS])
  | .ledScan => some ([.clk, .out], [])
  | .revokeBurnDone => some ([.live, .otp, .regs, .sec], [.SEC_STATUS])
  | .zolliwinRunsAgain => some (evP ++ [.aisles, .clk, .cnt, .lanes, .nvm, .pe, .ports, .qtrs, .stalls, .time], evR ++
      [.AISLE_MC_EVT_CAUSE, .FLAP_CNT, .LANE_EQ_STATUS, .PE_EVT_CAUSE, .PORT_STATE, .SEC_EVT_CAUSE, .SHR_EVT_CAUSE, .SWC_PORT_HDRM,
      .SWC_SHARED_FREE, .SWC_STATUS, .SYS_EPOCH_APPLIED0, .SYS_EPOCH_APPLIED1, .SYS_EPOCH_APPLIED2, .TIME_DPLL_STATUS,
      .TIME_PORT_CAL_STATUS, .TIME_PORT_PTP_STATUS, .TIME_SERVO_STATUS, .TIME_SVC_EVT_CAUSE])
  | .msixVectorUnmask .. => some ([.evt, .live, .msi, .out, .regs], [.EVT_MSI_LOST])
  | _ => none

/-- What the commands of the data path leave alone. Each command of the links, the receive side, the switch core and the scheduler changes no
part of the state and no register, neither as read nor in effect, but those that framePath lists for it. (R10, R29, R58, R86, R183, R204,
R215, R294) -/
def Obligations.DataPathFrames : Prop :=
  (∀ (c : Instr) (P : List Part) (R : List Reg) (s t : State), framePath c = some (P, R) → exec c s = .next t → Only P s t ∧ OnlyRegs R s t)

/-- The commands of a stream, at most `n` (R366). -/
def streamCmds (l : List Byte) (n : Nat) : List DmaCmd :=
  match n with
  | 0 => []
  | n + 1 => if l.length < 16 then [] else cmdOf l :: streamCmds (l.drop (cmdLen l)) n

/-- The stream that a descriptor runs: the one in progress on its ring, else the one fetched. -/
def streamOf (s : State) (ring : Nat) (d : List Byte) (x : Option (List Byte)) : List Byte :=
  match tabGet s.dma.cur none ring, x with
  | some y, _ => y.left
  | none, some l => sliceB l 0 (leAt d 8 4)
  | none, none => []

/-- A key of the flat tables that a command does not write. -/
def flatAway (c : DmaCmd) (k : Nat) : Prop :=
  [opWrite, opFill, opPselWrite].contains c.op = true → ∀ copy i, copy < 16 → i < c.cnt →
    k ≠ flatKey (if c.op = opPselWrite then 14 else c.table) copy (c.index + i)

/-- A host address that a READ does not write. -/
def readAway (c : DmaCmd) (k : Nat) : Prop :=
  c.op = opRead → k < leAt c.payload 0 8 ∨ leAt c.payload 0 8 + c.cnt * (flatDims c.table).2 ≤ k

/-- What the commands of the tables and engines leave alone. Each command of the ledgers, the search tables, the engines, the table DMA and
the assay changes no part of the state and no register but those that frameTable lists for it. WRITE, FILL and PSEL_WRITE leave every
entry of the flat tables but those of their table at INDEX to INDEX + COUNT - 1; READ every host octet but those at its address; a
descriptor every flat entry but those its commands write, and every host octet but those its READs write and the 16 of its completion
record; a confirmed finding every flat entry but its own and all of host memory; the packet mover every host octet but those of the
buffers and descriptors it is given. (R81, R88, R132, R141, R363, R365, R367, R369, R371, R375, R376) -/
def Obligations.TableFrames : Prop :=
  (∀ (c : Instr) (P : List Part) (R : List Reg) (s t : State), frameTable c = some (P, R) → exec c s = .next t → Only P s t ∧ OnlyRegs R s t) ∧
  (∀ (ring : Fin 2) (b : List Byte) (s t : State) (k : Nat), flatAway (cmdOf b) k →
    (exec (.write ring b) s = .next t ∨ exec (.fill ring b) s = .next t ∨ exec (.pselWrite ring b) s = .next t) →
    t.flatE k = s.flatE k) ∧
  (∀ (ring : Fin 2) (b : List Byte) (s t : State) (k : Nat),
    (k < leAt (cmdOf b).payload 0 8 ∨ leAt (cmdOf b).payload 0 8 + (readBytes s (cmdOf b)).length ≤ k) →
    exec (.read ring b) s = .next t → t.hostByte k = s.hostByte k) ∧
  (∀ (ring : Fin 2) (d : List Byte) (x : Option (List Byte)) (s t : State), exec (.dmaDescriptorExecute ring d x) s = .next t →
    let cs := streamCmds (streamOf s ring d x) ((streamOf s ring d x).length / 16 + 1)
    (∀ k, (∀ c ∈ cs, flatAway c k) → t.flatE k = s.flatE k) ∧
    (∀ k, (∀ c ∈ cs, readAway c k) → (k < s.cplAddr ring ∨ s.cplAddr ring + 16 ≤ k) → t.hostByte k = s.hostByte k)) ∧
  (∀ (ref : Option (List Byte)) (s t : State), exec (.findingConfirm ref) s = .next t → t.hostWr = s.hostWr ∧
    ∀ k, (∀ f ∈ s.dma.finds.head?, ∀ copy, copy < 16 → k ≠ flatKey f.table copy f.index) → t.flatE k = s.flatE k) ∧
  (∀ (q : Fin 16) (io : List (List Byte × List Byte)) (s t : State) (k : Nat), exec (.hostPacketMoverDone q io) s = .next t →
    (∀ x ∈ io, k < leAt x.1 0 8 ∨ leAt x.1 0 8 + leAt x.1 8 2 ≤ k) →
    (∀ i, i < io.length → k < s.hqBase q + 32 * ((s.hqHead q + i) % s.hqSize q) + 12 ∨
      s.hqBase q + 32 * ((s.hqHead q + i) % s.hqSize q) + 32 ≤ k) →
    t.hostByte k = s.hostByte k)

/-- What the commands of the time unit leave alone. Each command of the time unit and its services changes no part of the state and no
register but those that frameTime lists for it. (R227, R233, R246, R251, R257, R261, R265) -/
def Obligations.TimeFrames : Prop :=
  (∀ (c : Instr) (P : List Part) (R : List Reg) (s t : State), frameTime c = some (P, R) → exec c s = .next t → Only P s t ∧ OnlyRegs R s t)

/-- What the commands of management leave alone. Each command of the modes, clocks, NVM, image, security block, thermal control, planner, PERF
blocks, pins, mailboxes and windows that frameManage lists changes no part of the state and no register but those listed, and so does the
end of a SETUP that has not failed. It lists none for the wide resets, which such a failure ends in, the soft resets, a page program that
may release one, and writes of any register. (R275, R286, R306, R330, R356, R387, R402, R411, R422, R439) -/
def Obligations.ManagementFrames : Prop :=
  (∀ (c : Instr) (P : List Part) (R : List Reg) (s t : State), frameManage c = some (P, R) → exec c s = .next t → Only P s t ∧ OnlyRegs R s t) ∧
  (∀ (s t : State), s.mode.setup ≠ 3 → exec .setupComplete s = .next t → Only [.aisles, .live, .mode, .regs, .time] s t ∧
    OnlyRegs [.AISLE_PARSE_CFG, .SYS_EPOCH, .SYS_EPOCH_APPLIED0, .SYS_EPOCH_APPLIED1, .SYS_EPOCH_APPLIED2, .SYS_MODE] s t)

/-- The port of a command that acts on one port alone. -/
def onePort (c : Instr) : Option Nat :=
  match c with
  | .frameSfdCapture p _ _ _ | .anFail p | .anPauseExpire p | .trainingTimeboxExpire p | .pfcRefresh p _ | .gateEdge p | .hlArm _ p _
  | .hlCancel _ p _ | .hlStop _ p _ | .hlSwitch p | .qtClearClose p | .qtClearReopen p | .latencySample p | .samplerClear _ p _
  | .probeNone p => some p
  | _ => none

/-- Registers that have one place for each port. -/
def portRegs : List Reg :=
  [.PORT_CFG, .PORT_HOLD, .PORT_STATE, .SWC_PORT_CFG, .SWC_PORT_STATE, .SWC_PORT_HDRM, .SCH_PORT_CFG, .SCH_PORT_RATE, .SCH_PORT_BURST,
    .SCH_SAMP_CFG, .SCH_SAMP_CTL, .SCH_HL_CYCLE, .SCH_HL_STATUS, .SCH_HL_START_NS, .SCH_HL_START_S, .SCH_HL_START_SH, .TIME_PORT_CFG,
    .TIME_PORT_LINKDLY, .TIME_PORT_CAL_STATUS, .TIME_PORT_EVT_CAUSE, .TIME_PORT_PTP, .TIME_PORT_PTP_STATUS]

/-- A command of one port leaves every other port alone. The capture of a frame, a failed negotiation, the end of a pause or time box, a PFC
refresh, the hours-list, gate, QT clearance and sampler commands and PROBE_NONE change no other port's state, and no place of another port
in the registers that have one place for each port. (R41, R57, R215, R217, R218, R220, R221, R236) -/
def Obligations.PortCommandsTouchTheirPort : Prop :=
  (∀ (c : Instr) (p : Nat) (s t : State), onePort c = some p → exec c s = .next t → OnlyPorts [p] s t ∧
    ∀ r n, portRegs.contains r = true → n ≠ p → t.raw r n = s.raw r n ∧ t.eff r n = s.eff r n)

/-- Device epochs: the request, the reports of the units, the windows and the end. SYS_EPOCH_REQ with GO takes the next number and asks every
unit for it, with the present mode as target; while an epoch is incomplete it is rejected with 0x3. AISLE_PARSE_CFG takes effect for the
new epoch, and the old value is kept for frames of the epoch before. A unit that is ready sets its own APPLIED bit and no other; one that
is not ready changes nothing. When the 20 µs window of an aisle or quarter closes, it reports, a stall once every transmit side has passed
a frame boundary too, and the frames of an older epoch that an aisle still holds are counted as late; before that nothing happens. When
all 88 units have reported, CURRENT takes the number, PENDING clears, and the mode the epoch carries is entered and logged. (R339, R340,
R341, R342, R343) -/
def Obligations.EpochsAreRequestedAndApplied : Prop :=
  (∀ (s : State) (r : Req) (v : Word), s.takes r .SYS_EPOCH_REQ 0 = true → v.getLsbD 31 = true →
    Completes (.epochReq r v) s fun t =>
      if s.epochPending then s.turnedBy t F.SYS_STATUS_REJECT 0 ∧ t.newEpoch = s.newEpoch
      else t.newEpoch = s.newEpoch + 1 ∧ t.epochPending = true ∧ t.fld F.SYS_MODE_TARGET 0 = s.opMode ∧ t.opMode = s.opMode ∧
        t.mode.epochMode = none ∧ (∀ u, u < 84 → t.windowOpen u = true) ∧
        (∀ a, a < 16 → t.eff .AISLE_PARSE_CFG a = s.raw .AISLE_PARSE_CFG a ∧ (t.aisle a).parseOld = s.eff .AISLE_PARSE_CFG a) ∧ ∀ u, u < 88 → t.applied u = true →
          s.clk.soft.contains (unitSoft u) = true ∨ (64 ≤ u ∧ u < 80 ∧ (s.aisle (u - 64)).fenced = true)) ∧
  (∀ (s : State) (u : Fin 88), s.halted = false → Completes (.epochUnitApplied u) s fun t =>
    if s.epochPending = true ∧ s.applied u = false ∧ s.unitReady u = true then
      t.applied u = true ∧ ∀ v, v < 88 → v ≠ u → t.applied v = s.applied v
    else t = s) ∧
  (∀ (s : State) (u : Fin 88), s.halted = false → s.windowOpen u = true → s.aged s.mode.epochAt 20000 = true →
    Completes (.epochWindowExpire u) s fun t => t.windowOpen u = false ∧
      (s.epochPending = true → 64 ≤ (u : Nat) → (u : Nat) < 84 → t.applied u = true) ∧
      (s.epochPending = true → (u : Nat) < 64 → s.applied u = false →
        t.applied u = (s.clk.soft.contains (unitSoft u) || (s.portsOf u).all s.boundaryPassed)) ∧
      t.rawFld F.SYS_EPOCH_LATE_COUNT 0 = min (2 ^ 32 - 1) (s.rawFld F.SYS_EPOCH_LATE_COUNT 0 + (s.pkts.filter fun k =>
        k.aisle + 64 == (u : Nat) && !k.frame.fromPe && k.frame.epoch != s.newEpoch && !k.frame.late).length)) ∧
  (∀ (s : State) (u : Fin 88), s.aged s.mode.epochAt 20000 = false → Completes (.epochWindowExpire u) s fun t => t = s) ∧
  (∀ (s : State), s.halted = false → s.epochPending = true → s.allApplied = true → s.mode.epochMode.getD 0 < 8 →
    Completes .epochDone s fun t => t.fld F.SYS_EPOCH_CURRENT 0 = s.newEpoch.toNat ∧ t.epochPending = false ∧
      t.opMode = s.mode.epochMode.getD s.opMode ∧
      ∀ m, s.mode.epochMode = some m →
        t.mode.log = ((s.newEpoch.toNat, s.opMode, m, s.mode.epochCause, s.nowNs) :: s.mode.log).take 16) ∧
  (∀ (s : State), (s.epochPending = false ∨ s.allApplied = false) → Completes .epochDone s fun t => t = s)

/-- A mode change to `tgt` is under way: the next epoch carries it, and the mode itself is still the old one. -/
def modeUnderWay (s t : State) (tgt : Nat) : Prop :=
  t.newEpoch = s.newEpoch + 1 ∧ t.epochPending = true ∧ t.fld F.SYS_MODE_TARGET 0 = tgt ∧ t.mode.epochMode = some tgt ∧ t.opMode = s.opMode

/-- Requests of an operating mode, permitted and turned away. SYS_MODE_REQ with GO: a target that R335 permits from the present mode, with no
epoch incomplete and no automatic change due, takes the next epoch with that mode; LEAN also sets REQ_STEP, and takes no epoch when the
device is in LEAN already; OPEN from LEAN sets REQ_STEP 0. A request with a fault is rejected with the code of the fault and changes
neither mode nor epoch. An automatic change that is due takes the next epoch with its cause. (R11, R335, R336, R337, R338, R344) -/
def Obligations.ModesAreRequested : Prop :=
  (∀ (s : State) (r : Req) (v : Word), s.takes r .SYS_MODE_REQ 0 = true → v.getLsbD 31 = true →
    (bits v 0 3 = modeDrain → s.requestFault modeDrain (bits v 4 2) = 0 →
      Completes (.modeReqDrain r v) s fun t => modeUnderWay s t modeDrain ∧ t.mode.drainEp = s.newEpoch + 1) ∧
    (bits v 0 3 = modeSealed → s.requestFault modeSealed (bits v 4 2) = 0 →
      Completes (.modeReqSealed r v) s fun t => modeUnderWay s t modeSealed) ∧
    (bits v 0 3 = modeProving → s.requestFault modeProving (bits v 4 2) = 0 →
      Completes (.modeReqProving r v) s fun t => modeUnderWay s t modeProving) ∧
    (bits v 0 3 = modeSetup → s.requestFault modeSetup (bits v 4 2) = 0 →
      Completes (.modeReqSetup r v) s fun t => modeUnderWay s t modeSetup) ∧
    (bits v 0 3 = modeLean → s.requestFault modeLean (bits v 4 2) = 0 →
      Completes (.modeReqLean r v) s fun t => t.fld F.SYS_MODE_REQ_STEP 0 = bits v 4 2 ∧
        if s.opMode = modeLean then t.newEpoch = s.newEpoch else modeUnderWay s t modeLean) ∧
    (bits v 0 3 = modeOpen → s.requestFault modeOpen (bits v 4 2) = 0 →
      Completes (.modeReqOpen r v) s fun t =>
        if s.opMode = modeLean then t.fld F.SYS_MODE_REQ_STEP 0 = 0 ∧
          (if 0 < s.fld F.THM_STATUS_STEP 0 then t.newEpoch = s.newEpoch else modeUnderWay s t modeOpen)
        else modeUnderWay s t modeOpen)) ∧
  (∀ (s : State) (r : Req) (v : Word), s.takes r .SYS_MODE_REQ 0 = true → v.getLsbD 31 = true →
    s.requestFault (bits v 0 3) (bits v 4 2) ≠ 0 →
    ∀ c, (c = .modeReqOpen r v ∧ bits v 0 3 = modeOpen) ∨ (c = .modeReqLean r v ∧ bits v 0 3 = modeLean) ∨
        (c = .modeReqDrain r v ∧ bits v 0 3 = modeDrain) ∨ (c = .modeReqSealed r v ∧ bits v 0 3 = modeSealed) ∨
        (c = .modeReqProving r v ∧ bits v 0 3 = modeProving) ∨ (c = .modeReqSetup r v ∧ bits v 0 3 = modeSetup) →
      Completes c s fun t => t.rawFld F.SYS_STATUS_REJECT 0 = s.requestFault (bits v 0 3) (bits v 4 2) ∧
        t.evt.turned = s.evt.turned + 1 ∧ t.newEpoch = s.newEpoch ∧ t.opMode = s.opMode ∧ t.mode = s.mode) ∧
  (∀ (s : State) (tgt cause : Nat), s.halted = false → s.epochPending = false → s.autoDue = some (tgt, cause) →
    Completes .autoModeChange s fun t => modeUnderWay s t tgt ∧ t.mode.epochCause = cause)

/-- SETUP ends with an epoch; the built-in tests of PROVING run one after another. SETUP ends when every step has succeeded, the load has
ended, the pools are carved and Zolliwin's ring is empty: the next epoch carries OPEN, or PROVING where SETUP_TARGET asks for it.
SYS_PROVE_CTL with GO starts the tests named, in PROVING and while none runs; else it is rejected with 0x3, and with 0x4 where it names
none. The lowest test still to run ends, not before its time and BUFFER only with every buffer free, with its DONE bit and, if it failed,
its FAIL bit; CSTORE also fails where a control store differs from the verified copy; the last one clears BUSY; TILES leaves every tile
empty, LEDGERS every ledger, CRIER every learn FIFO. The clauses rest on the choices of log entries 31, 149 and 150. (R11, R334, R351) -/
def Obligations.SetupEndsAndTestsRun : Prop :=
  (∀ (s : State), s.halted = false → s.opMode = modeSetup → s.epochPending = false → s.mode.setup = 2 → s.dma.zDone = true → s.carved = true →
    s.zRingIdle = true →
    Completes .setupComplete s fun t => modeUnderWay s t (if s.bit F.SYS_MODE_CFG_SETUP_TARGET 0 then modeProving else modeOpen)) ∧
  (∀ (s : State) (r : Req) (v : Word), s.takes r .SYS_PROVE_CTL 0 = true → v.getLsbD 31 = true →
    Completes (.proveGo r v) s fun t =>
      if s.opMode ≠ modeProving ∨ s.bit F.SYS_PROVE_STATUS_BUSY 0 = true then s.turnedBy t F.SYS_STATUS_REJECT 0 ∧ t.mode = s.mode
      else if bits v 0 6 = 0 then t.rawFld F.SYS_STATUS_REJECT 0 = 4 ∧ t.mode = s.mode
      else t.bit F.SYS_PROVE_STATUS_BUSY 0 = true ∧ t.fld F.SYS_PROVE_STATUS_DONE 0 = 0 ∧ t.fld F.SYS_PROVE_STATUS_FAIL 0 = 0 ∧
        t.mode.proveSel = bits v 0 6) ∧
  (∀ (s : State) (k : Fin 6) (fail : Bool) (d : List Word), s.halted = false → s.bit F.SYS_PROVE_STATUS_BUSY 0 = true → s.proveNext = some (k : Nat) →
    ((k : Nat) = proveBuffer → s.allFree = true) → s.aged (s.proveFrom k) (proveNs k) = true →
    Completes (.proveTestDone k fail d) s fun t => t.mode.proveSel = s.mode.proveSel - 2 ^ (k : Nat) ∧
      t.fld F.SYS_PROVE_STATUS_DONE 0 = s.fld F.SYS_PROVE_STATUS_DONE 0 ||| 2 ^ (k : Nat) ∧
      t.fld F.SYS_PROVE_STATUS_FAIL 0 = (if fail = true ∨ ((k : Nat) = proveCstore ∧ ∃ c, c < 17 ∧ s.storeAgrees c = false) then
        s.fld F.SYS_PROVE_STATUS_FAIL 0 ||| 2 ^ (k : Nat) else s.fld F.SYS_PROVE_STATUS_FAIL 0) ∧
      (s.mode.proveSel = 2 ^ (k : Nat) → t.bit F.SYS_PROVE_STATUS_BUSY 0 = false ∧ t.rawFld F.SYS_MODE_EVT_CAUSE_PROVE_DONE 0 = 1) ∧
      ((k : Nat) = proveTiles → t.tiles = [] ∧ t.copies = []) ∧
      ((k : Nat) = proveLedgers → ∀ q, q < 4 → (t.qtr q).ways = [] ∧ (t.qtr q).stash = []) ∧
      ((k : Nat) = proveCrier → ∀ q, q < 4 → (t.qtr q).fifo = [] ∧ (t.qtr q).inNotes = [] ∧ (t.qtr q).seqNext = 0)) ∧
  (∀ (s : State) (k : Fin 6) (fail : Bool) (d : List Word), s.aged (s.proveFrom k) (proveNs k) = false →
    Completes (.proveTestDone k fail d) s fun t => t = s)

/-- Every register but the two always-on ones reads its reset value, and what the reset covers is as after power-on. -/
def resetWide (t : State) : Prop :=
  t.clk.step = 0 ∧ t.opMode = modeCold ∧ t.pkts = [] ∧ t.ports = [] ∧ t.bufs = [] ∧ t.tiles = [] ∧ t.flat = [] ∧ t.mode = {} ∧
  t.dma = {} ∧ t.sec = {} ∧ t.time = {} ∧
  ∀ r n, r ≠ .CLK_RST_CAUSE → r ≠ .NVM_BOOT → t.raw r n = regReset r n ∧ t.eff r n = regReset r n

/-- A reset source waits for the page program pulse that runs: the pulse, the modes and the ports go on. -/
def resetWaits (n : Nat) (s t : State) : Prop :=
  t.clk.waitNvm.contains n = true ∧ t.rawFld F.CLK_RST_CAUSE_NVM_DELAYED 0 = 1 ∧ t.nvm = s.nvm ∧ t.mode = s.mode ∧ t.ports = s.ports

/-- The wide reset sources. POR, RESET_N, a SYS_SWRESET with the key 0xC1EA and a loss of ROOTPLL reset everything but the always-on
registers, OTP and the NVM, and hold the device until they are released. POR is applied at once, and a RESET_N that is low stays a source
through it; the others wait while a page program pulse runs, which CLK_RST_CAUSE shows. A SYS_SWRESET with another key is rejected with
0x4. Zolliwin resets the device the same way after a SETUP that failed. The NVM and, with no burn in progress, OTP keep their contents. A
clause rests on the choice of log entry 62. (R309, R311, R312, R313, R314, R320, R326, R360) -/
def Obligations.ResetsClearTheDevice : Prop :=
  (∀ (s : State) (low : Bool), Completes (.por low) s fun t => resetWide t ∧ t.clk.srcs.contains srcPor = true ∧ t.raw .NVM_BOOT 0 = 0 ∧
    (s.clk.srcs.contains srcResetN = true ∨ s.clk.waitNvm.contains srcResetN = true → t.clk.srcs.contains srcResetN = true) ∧
    (s.nvm.prog = none → t.nvmMem = s.nvmMem) ∧ (s.sec.otpOp = none → t.otp = s.otp)) ∧
  (∀ (s : State), s.nvm.prog = none → Completes .resetNAssert s fun t => resetWide t ∧ t.clk.srcs.contains srcResetN = true ∧
    t.nvmMem = s.nvmMem ∧ t.raw .NVM_BOOT 0 = 0) ∧
  (∀ (s : State), s.nvm.prog ≠ none → Completes .resetNAssert s (resetWaits srcResetN s)) ∧
  (∀ (s : State) (r : Req) (v : Word), s.takes r .SYS_SWRESET 0 = true → bits v 16 16 = 0xC1EA → s.nvm.prog = none →
    Completes (.sysSwreset r v) s fun t => resetWide t ∧ t.clk.srcs.contains srcSw = true ∧ t.raw .NVM_BOOT 0 = s.raw .NVM_BOOT 0) ∧
  (∀ (s : State) (r : Req) (v : Word), s.takes r .SYS_SWRESET 0 = true → bits v 16 16 = 0xC1EA → s.nvm.prog ≠ none →
    Completes (.sysSwreset r v) s (resetWaits srcSw s)) ∧
  (∀ (s : State), s.bit F.CLK_STATUS_ROOT_LOCK 0 = true → s.nvm.prog ≠ none → Completes .rootpllLoss s fun t => resetWaits srcSw s t ∧
    t.rawFld F.CLK_RST_CAUSE_CLK_FAIL 0 = 1 ∧ t.bit F.CLK_STATUS_ROOT_LOCK 0 = false) ∧
  (∀ (s : State) (r : Req) (v : Word), s.takes r .SYS_SWRESET 0 = true → bits v 16 16 ≠ 0xC1EA →
    Completes (.sysSwreset r v) s fun t => t.rawFld F.SYS_STATUS_REJECT 0 = 4 ∧ t.evt.turned = s.evt.turned + 1 ∧ t.clk = s.clk) ∧
  (∀ (s : State), s.bit F.CLK_STATUS_ROOT_LOCK 0 = true → s.nvm.prog = none →
    Completes .rootpllLoss s fun t => resetWide t ∧ t.clk.srcs.contains srcSw = true ∧ t.rawFld F.CLK_RST_CAUSE_CLK_FAIL 0 = 1) ∧
  (∀ (s : State), s.zolOn = true → s.opMode = modeSetup → s.mode.setup = 3 →
    Completes .setupComplete s fun t =>
      if s.nvm.prog = none then resetWide t ∧ t.clk.srcs.contains srcSw = true ∧ t.raw .NVM_BOOT 0 = s.raw .NVM_BOOT 0
      else resetWaits srcSw s t)

/-- The exit sequence, from the release of the last source to SHUTTERS. The release of RESET_N takes it off the sources. With every source
released the sequence starts and CLK_RST_CAUSE names POR, or each source seen. A count of REFCLK in one of the two ranges locks ROOTPLL
and the option copy in use, or the defaults, takes effect; one out of range waits at step 3. Then Zolliwin enters its boot ROM, device
time runs, and the mode is SHUTTERS, with debug access open where the options leave it open. The clauses rest on the choices of log
entries 73, 99 and 159. (R307, R311, R314, R315, R316, R317, R318, R332, R397) -/
def Obligations.TheDeviceLeavesReset : Prop :=
  (∀ (s : State), s.clk.srcs.contains srcResetN = true → Completes .resetNRelease s fun t =>
    t.clk.srcs.contains srcResetN = false ∧ t.clk.srcs.contains srcReleased = true ∧ t.regs = s.regs) ∧
  (∀ (s : State) (w : List (Nat × BitVec 8)), s.clk.srcs ≠ [] →
    (∀ n ∈ s.clk.srcs, n = srcPor ∨ n = srcSw ∨ n = srcReleased ∨ n = srcTripOff) →
    Completes (.exitSequenceStart w) s fun t => t.clk.srcs = [] ∧ t.clk.step = 2 ∧ t.clk.optPhase = true ∧
      (s.clk.seen.contains srcPor = true → t.rawFld F.CLK_RST_CAUSE_POR 0 = 1 ∧ t.rawFld F.CLK_RST_CAUSE_RESET_N 0 = 0 ∧
        t.rawFld F.CLK_RST_CAUSE_SWRESET 0 = 0 ∧ t.rawFld F.CLK_RST_CAUSE_THERMTRIP 0 = 0) ∧
      (s.clk.seen.contains srcPor = false →
        (s.clk.seen.contains srcReleased = true → t.rawFld F.CLK_RST_CAUSE_RESET_N 0 = 1) ∧
        (s.clk.seen.contains srcSw = true → t.rawFld F.CLK_RST_CAUSE_SWRESET 0 = 1) ∧
        (s.clk.seen.contains srcTripOff = true → t.rawFld F.CLK_RST_CAUSE_THERMTRIP 0 = 1))) ∧
  (∀ (s : State) (n : Nat) (nvm : Bool), s.clk.srcs = [] → s.clk.step = 2 ∨ s.clk.step = 3 →
    Completes (.refclkMeasure ⟨n, nvm⟩) s fun t =>
      let m := if 250 ≤ n ∧ n ≤ 375 then 0 else if 500 ≤ n ∧ n ≤ 750 then 1 else 2
      let c := if nvm then s.optCopy m else (2, optDefaults m)
      t.fld F.CLK_STATUS_REFCLK_MEAS 0 = m ∧
      if m < 2 then t.clk.step = 7 ∧ t.bit F.CLK_STATUS_ROOT_LOCK 0 = true ∧ t.fld F.CLK_OPT_STATUS_COPY 0 = c.1 ∧
        t.clk.opts = optsOf (optUsed m c.2) s.otp.policy
      else t.clk.step = 3) ∧
  (∀ (s : State), s.clk.srcs = [] → s.clk.step = 7 →
    Completes .resetDone s fun t => t.clk.step = 11 ∧ t.opMode = modeShutters ∧ t.clk.zolRun = 1 ∧ t.time.running = true ∧
      t.bit F.CLK_STATUS_TIME_LOCK 0 = true ∧ t.mode.shut = true ∧
      (s.clk.opts.sbPolicy.testBit 0 = false → t.bit F.SEC_STATUS_DEBUG_OPEN 0 = true))

/-- Page programs and the resets they hold back; the NVM bus released and taken back. The oldest record that waits is programmed into the next
slot of its region, unless HOLD is set or active, a program runs or a reset waits; a full region takes none, and the record of the last
slot of the ledger raises LEDGER_FULL. At its end each octet of the page is the old one with the record's 0 bits cleared, and a reset that
waited is applied. Five milliseconds after the assertion the program is cut, which NVM_CUT shows. The host as owner, or a requester that
is not PF0, sets HOLD, and the bus is released once no page program runs; PF0 without ownership is rejected with 0x3. When HOLD is
cleared, the octets that the programmer wrote while the bus was released stand, the last one written at an address there, every other
octet is as it was, and both manifests are verified again; a slot in use that no longer verifies makes the NVM reference unavailable.
(R320, R356, R361, R363, R378) -/
def Obligations.PageProgramsAndTheNvmBus : Prop :=
  (∀ (s : State) (g : Nat) (l : List Byte) (q : List (Nat × List Byte)), s.nvm.queue = (g, l) :: q → s.nvm.prog = none →
    s.bit F.NVM_CTL_HOLD 0 = false → s.nvmMay = true →
    Completes .nvmPageProgram s fun t => t.nvm.queue = q ∧
      (g = 0 → s.nvm.faultUsed < faultSlots → t.nvm.faultUsed = s.nvm.faultUsed + 1 ∧ t.fld F.NVM_FAULT_USED 0 = s.nvm.faultUsed + 1 ∧
        t.nvm.prog = some (s.faultBase + 256 * s.nvm.faultUsed, l) ∧ t.bit F.NVM_STATUS_BUSY 0 = true) ∧
      (g = 0 → faultSlots ≤ s.nvm.faultUsed → t.nvm.prog = none ∧ (t.raw .DMA_EVT_CAUSE 0).getLsbD dmaFaultFull = true) ∧
      (g = 1 → s.nvm.ledUsed < ledgerSlots → t.nvm.ledUsed = s.nvm.ledUsed + 1 ∧
        t.nvm.prog = some (s.ledgerBase + 256 * s.nvm.ledUsed, l) ∧ t.bit F.NVM_STATUS_BUSY 0 = true ∧
        (s.nvm.ledUsed + 1 = ledgerSlots → t.bit F.SHR_STATUS_LEDGER_FULL 0 = true ∧ t.rawFld F.SHR_EVT_CAUSE_LEDGER_FULL 0 = 1)) ∧
      (g = 1 → ledgerSlots ≤ s.nvm.ledUsed → t.nvm.prog = none)) ∧
  (∀ (s : State) (a : Nat) (l : List Byte), s.nvm.prog = some (a, l) → s.clk.waitNvm = [] → s.clk.nvmSoft = false →
    Completes .nvmProgramEnd s fun t => t.nvm.prog = none ∧ t.bit F.NVM_STATUS_BUSY 0 = false ∧
      (∀ i, i < l.length → t.nvmByte (a + i) = s.nvmByte (a + i) &&& l.getD i 0) ∧
      ∀ b, (b < a ∨ a + l.length ≤ b) → t.nvmByte b = s.nvmByte b) ∧
  (∀ (s : State) (a : Nat) (l : List Byte), s.nvm.prog = some (a, l) → s.clk.waitNvm ≠ [] →
    Completes .nvmProgramEnd s fun t => resetWide t ∧ (∀ n ∈ s.clk.waitNvm, t.clk.srcs.contains n = true) ∧
      ∀ i, i < l.length → t.nvmByte (a + i) = s.nvmByte (a + i) &&& l.getD i 0) ∧
  (∀ (s : State), (s.nvm.prog ≠ none ∨ s.bit F.NVM_CTL_HOLD 0 = true ∨ s.nvmMay = false) →
    Completes .nvmPageProgram s fun t => t = s) ∧
  (∀ (s : State), s.nvm.prog ≠ none → (s.clk.waitNvm ≠ [] ∨ s.clk.nvmSoft = true) → s.aged s.clk.waitAt 5000000 = true →
    Completes .nvmResetDelayLimit s fun t => t.nvm.prog = none ∧ t.rawFld F.CLK_RST_CAUSE_NVM_CUT 0 = 1 ∧
      (s.clk.waitNvm ≠ [] → resetWide t)) ∧
  (∀ (s : State) (r : Req) (v : Word), s.takes r .NVM_CTL 0 = true → v.getLsbD 0 = true → Completes (.nvmHoldSet r v) s fun t =>
    if isPf0 (s.asReq r) = true ∧ s.hostOwns = false then s.turnedBy t F.NVM_STATUS_REJECT 0 ∧ t.fld F.NVM_CTL_HOLD 0 = s.fld F.NVM_CTL_HOLD 0
    else t.bit F.NVM_CTL_HOLD 0 = true ∧ t.bit F.NVM_STATUS_HOLD_ACTIVE 0 = s.nvm.prog.isNone ∧ t.nvmMem = s.nvmMem) ∧
  (∀ (s : State) (r : Req) (v : Word) (w : List (Nat × BitVec 8)), s.takes r .NVM_CTL 0 = true → v.getLsbD 0 = false →
    (isPf0 (s.asReq r) = true → s.hostOwns = true) → Completes (.nvmHoldClear r v w) s fun t =>
      t.bit F.NVM_CTL_HOLD 0 = false ∧ t.bit F.NVM_STATUS_HOLD_ACTIVE 0 = false ∧ t.bit F.NVM_STATUS_A_VALID 0 = t.manifestOk 0 ∧
      t.bit F.NVM_STATUS_B_VALID 0 = t.manifestOk 1 ∧ (s.bit F.NVM_STATUS_HOLD_ACTIVE 0 = false → t.nvmMem = s.nvmMem) ∧
      (s.bit F.NVM_STATUS_HOLD_ACTIVE 0 = true → 
        (∀ pre a b post, w = pre ++ (a, b) :: post → (∀ x ∈ post, x.1 ≠ a) → t.nvmByte a = b) ∧
        ∀ a, (∀ x ∈ w, x.1 ≠ a) → t.nvmByte a = s.nvmByte a) ∧
      (s.nvm.slot < 2 → t.manifestOk s.nvm.slot = false → t.nvm.refOk = false))

/-- PLL losses, PERST_N, function-level resets, and the watchdog of Zolliwin. A loss of TIMEPLL moves the clock to the backup, and its relock
moves it back. While the PCIe PLL is lost or PERST_N is low no request of a PCIe function arrives; a relock brings the link back. PERST_N
takes ownership from the host and returns the MSI-X tables and the PF mailboxes to reset; its release starts the PCIe complex where it is
not strapped off. An FLR returns the mailboxes of its function to reset, with the host ring (PF1), the host queues (PF2) or the snapshot
registers (PF3). A secure write of the key 0x6B1D starts the count again at TIMEOUT_MS; any other secure value counts as a bad kick. While
it is enabled and Zolliwin is out of reset, the end of the count puts Zolliwin in its boot ROM, or leaves one that stopped there, returns
its mailboxes to reset, empties its copy of the patch, counts the occasion and starts the count again; before the end nothing happens. The
clauses rest on the choices of log entries 68, 84, 160 and 169. (R292, R308, R310, R316, R324, R325) -/
def Obligations.PllsLinksAndTheWatchdog : Prop :=
  (∀ (s : State), s.bit F.CLK_STATUS_TIME_LOCK 0 = true → Completes .timepllLoss s fun t =>
    t.bit F.CLK_STATUS_TIME_LOCK 0 = false ∧ t.bit F.CLK_STATUS_CLK_BACKUP 0 = true ∧ t.time.acc = s.time.acc) ∧
  (∀ (s : State), s.bit F.CLK_STATUS_CLK_BACKUP 0 = true → Completes .timepllRelock s fun t =>
    t.bit F.CLK_STATUS_TIME_LOCK 0 = true ∧ t.bit F.CLK_STATUS_CLK_BACKUP 0 = false) ∧
  (∀ (s : State), Completes .pciePllLoss s fun t => t.bit F.CLK_STATUS_PCIE_LOCK 0 = false ∧
    ∀ r, (pfOf r).isSome → t.arrives r = false) ∧
  (∀ (s : State), s.clk.pcieUp = true → Completes .pciePllRelock s fun t => t.bit F.CLK_STATUS_PCIE_LOCK 0 = true) ∧
  (∀ (s : State), s.clk.step = 11 → Completes .perstNAssert s fun t => t.clk.perst = true ∧ t.clk.pcieUp = false ∧
    (∀ r, (pfOf r).isSome → t.arrives r = false) ∧ t.hostOwns = false ∧
    (∀ pf vec, pf < 4 → vec < 2048 → t.msiV (msiKey pf vec) = {} ∧ t.evt.msixOn.contains pf = false) ∧
    (∀ m, m < 16 → t.raw .MBX_CTL m = regReset .MBX_CTL m) ∧ t.dma.lockH = 0) ∧
  (∀ (s : State), s.clk.step = 11 → s.clk.opts.pcieLanes ≠ 0 → Completes .perstNRelease s fun t =>
    t.clk.perst = false ∧ t.clk.pcieUp = true ∧ t.bit F.CLK_STATUS_PCIE_LOCK 0 = true) ∧
  (∀ (s : State) (pf : Fin 4), s.halted = false → s.clk.pcieUp = true → s.clk.perst = false → s.bit F.CLK_STATUS_PCIE_LOCK 0 = true →
    Completes (.flr pf) s fun t =>
    (∀ m, m < 16 → m / 4 = pf → t.raw .MBX_CTL m = regReset .MBX_CTL m ∧ ∀ i, i < 16 → t.raw .MBX_DATA (16 * m + i) = 0) ∧
    ((pf : Nat) = 1 → t.dma.lockH = 0 ∧ t.raw .DMA_RING_CFG 0 = regReset .DMA_RING_CFG 0) ∧
    ((pf : Nat) = 2 → ∀ k, k < 16 → t.hqOn k = false) ∧
    ((pf : Nat) = 3 → t.raw .PERF_SNAP_CFG 0 = regReset .PERF_SNAP_CFG 0)) ∧
  (∀ (s : State) (r : Req) (v : Word), s.takesSec r .CLK_WDT_KICK 0 = true → Completes (.wdtKick r v) s fun t =>
    if bits v 0 16 = 0x6B1D then t.clk.wdtAt = s.time.words ∧ t.clk.wdtMs = s.fld F.CLK_WDT_CFG_TIMEOUT_MS 0 ∧ t.regs = s.regs
    else t.fld F.CLK_WDT_STATUS_BAD_KICKS 0 = min (s.rawFld F.CLK_WDT_STATUS_BAD_KICKS 0 + 1) (2 ^ F.CLK_WDT_STATUS_BAD_KICKS.w - 1) ∧
      t.clk = s.clk) ∧
  (∀ (s : State), s.bit F.CLK_WDT_CFG_WDT_EN 0 = true → s.clk.zolRun ≠ 0 →
    Completes .wdtExpire s fun t =>
      if s.aged s.clk.wdtAt (s.clk.wdtMs * 1000000) then
        t.clk.zolRun = (if s.clk.zolRun = 3 then 3 else 1) ∧ t.clk.wdtAt = s.time.words ∧ t.nvm.patch = [] ∧
          (∀ n, 16 ≤ n → n < 20 → t.raw .MBX_CTL n = regReset .MBX_CTL n) ∧
          t.fld F.CLK_RST_CAUSE_WDT_COUNT 0 = min (s.rawFld F.CLK_RST_CAUSE_WDT_COUNT 0 + 1) (2 ^ F.CLK_RST_CAUSE_WDT_COUNT.w - 1)
      else t = s)

/-- A write of a soft-reset register starts every instance it names that is not in soft reset, in a mode that permits it; a bit whose
mode does not permit it turns the write away, and the others act. -/
def SoftResets (c : Instr) (s : State) (r : Req) (word : Nat) (v mask : Word) (P : State → Prop) : Prop :=
  Completes c s fun t => P t ∧
    ∀ u ∈ softUnits word v mask, (s.raw (softReg u).1 0).getLsbD (softReg u).2 = false → (u = unitSec → secureReq (s.asReq r) = true) →
      if s.softOk u then
        (t.raw (softReg u).1 0).getLsbD (softReg u).2 = true ∧
          if u = unitNvm ∧ s.nvm.prog ≠ none then t.clk.nvmSoft = true else t.clk.soft.contains u = true
      else t.rawFld F.CLK_STATUS_REJECT 0 = 3 ∧ (s.clk.soft.contains u = false → t.clk.soft.contains u = false)

/-- Soft resets of the instances, their start and their end. A 1 written to the bit of an instance starts its soft reset where the mode
permits it; where not, CLK_STATUS.REJECT is 0x3 and that instance is untouched. A soft reset of the NVM controller waits for a page
program. The state memory of the protocol engine, the flowlets and learn FIFO of a quarter are emptied. The end takes the instance out of
reset and clears its bit; for an aisle and the protocol engine only while Zolliwin's firmware runs, for an aisle once its packets in
flight have completed. (R321, R322, R323) -/
def Obligations.SoftResetsRun : Prop :=
  (∀ (s : State) (r : Req) (w : Fin 2) (v : Word), s.takes r (if (w : Nat) = 0 then .CLK_SOFT_RST0 else .CLK_SOFT_RST1) 0 = true →
    SoftResets (.softResetStall r w v) s r w v maskStall fun _ => True) ∧
  (∀ (s : State) (r : Req) (v : Word), s.takes r .CLK_SOFT_RST2 0 = true →
    SoftResets (.softResetAisle r v) s r 2 v 0xFFFF#32 (fun _ => True) ∧
    SoftResets (.softResetQuarter r v) s r 2 v 0xF0000#32 (fun t => ∀ q, q < 4 → v.getLsbD (16 + q) = true →
      (s.raw .CLK_SOFT_RST2 0).getLsbD (16 + q) = false → s.softOk (unitQtr q) = true → (t.qtr q).flow = [] ∧ (t.qtr q).fifo = []) ∧
    SoftResets (.softResetPe r v) s r 2 v 0x100000#32 (fun t => v.getLsbD 20 = true → (s.raw .CLK_SOFT_RST2 0).getLsbD 20 = false →
      s.softOk unitPe = true → t.stm = [] ∧ t.pe.msgq = []) ∧
    SoftResets (.softResetTime r v) s r 2 v 0x200000#32 (fun t => t.time.acc = s.time.acc) ∧
    SoftResets (.softResetSwc r v) s r 2 v 0x400000#32 (fun _ => True) ∧
    SoftResets (.softResetSch r v) s r 2 v 0x800000#32 (fun _ => True) ∧
    SoftResets (.softResetDma r v) s r 2 v 0x1000000#32 (fun t => v.getLsbD 24 = true → (s.raw .CLK_SOFT_RST2 0).getLsbD 24 = false →
      s.softOk unitDma = true → t.dma.lockH = 0 ∧ t.dma.lockZ = 0) ∧
    SoftResets (.softResetNvm r v) s r 2 v 0x2000000#32 (fun t => t.nvmMem = s.nvmMem) ∧
    SoftResets (.softResetSec r v) s r 2 v 0x4000000#32 (fun t => v.getLsbD 26 = true → secureReq (s.asReq r) = true →
      (s.raw .CLK_SOFT_RST2 0).getLsbD 26 = false → s.softOk unitSec = true → t.sec.otpOp = none ∧ t.sec.m = s.sec.m)) ∧
  (∀ (s : State) (u : Fin 91), s.halted = false → s.clk.soft.contains (u : Nat) = true → s.exitReady u = true →
    Completes (.softResetDone u) s fun t => t.clk.soft.contains (u : Nat) = false ∧
      (t.raw (softReg u).1 0).getLsbD (softReg u).2 = false ∧ t.rawFld F.CLK_EVT_CAUSE_SOFT_RST_DONE 0 = 1) ∧
  (∀ (s : State) (u : Fin 91), s.exitReady u = false → Completes (.softResetDone u) s fun t => t = s)

/-- The capture of a frame at its SFD, and its last byte. On an UP port with no frame arriving, a captured frame that finds room carries the
ingress time (local time less the delay of the lane of its first bit), the newest epoch and the mark of its port, and waits in the receive
FIFO; one that finds no room is counted as an overrun and does not enter it. A last byte with a good FCS of a frame of 64 to 10,240 octets
counts it and its octets and gives a copy in the FIFO its verdict; any other counts a bad frame and leaves none in the FIFO. (R26, R29,
R38, R86, R177, R190, R232, R340) -/
def Obligations.FramesAreCapturedAndEnd : Prop :=
  (∀ (s : State) (p : Fin 512) (pos : Fin 8) (data : List Byte) (sub : Nat), s.starts p = true → s.isUp p = true →
    (s.port p).arriving = none → data.length ≤ 10236 → data.length + 4 ≤ s.fifoRoom p →
    Completes (.frameSfdCapture p pos data sub) s fun t => ∃ f, (t.port p).fifo = (s.port p).fifo ++ [f] ∧ f.data = data ∧
      f.tIn = s.stallTime sub - s.laneDelay (p + pos % (max 1 (s.width p))) true ∧ f.epoch = s.newEpoch ∧ f.mark = s.marked p ∧
      (∃ g, (t.port p).arriving = some g ∧ g.fid = f.fid)) ∧
  (∀ (s : State) (p : Fin 512) (pos : Fin 8) (data : List Byte) (sub : Nat), s.starts p = true → s.isUp p = true →
    (s.port p).arriving = none → s.fifoRoom p < data.length + 4 →
    Completes (.frameSfdCapture p pos data sub) s fun t => (t.port p).fifo = (s.port p).fifo ∧
      t.cntOf (cntKey 0x38 p 4) = s.cntOf (cntKey 0x38 p 4) + 1) ∧
  (∀ (s : State) (p : Fin 512) (f : Frame), (s.port p).arriving = some f → f.lastIn = false → 64 ≤ f.size → f.size ≤ 10240 →
    Completes (.frameLastByte p true) s fun t => (t.port p).arriving = none ∧
      t.cntOf (cntKey 0x11 (2 * (p : Nat)) 0) = s.cntOf (cntKey 0x11 (2 * (p : Nat)) 0) + 1 ∧
      t.cntOf (cntKey 0x11 (2 * (p : Nat)) 1) = s.cntOf (cntKey 0x11 (2 * (p : Nat)) 1) + BitVec.ofNat 48 f.size ∧
      ∀ g ∈ (t.port p).fifo, g.fid = f.fid → g.lastIn = true ∧ g.fcsOk = true) ∧
  (∀ (s : State) (p : Fin 512) (f : Frame) (ok : Bool), (s.port p).arriving = some f →
    (ok = false ∨ f.lastIn = true ∨ f.size < 64 ∨ 10240 < f.size) →
    Completes (.frameLastByte p ok) s fun t => (t.port p).arriving = none ∧
      t.cntOf (cntKey 0x11 (2 * (p : Nat)) 2) = s.cntOf (cntKey 0x11 (2 * (p : Nat)) 2) + 1 ∧
      ∀ g ∈ (t.port p).fifo, g.fid ≠ f.fid)

/-- An aisle can admit the oldest frame `f` of a port into its lowest free hewer `h`. -/
abbrev aisleCan (s : State) (a : Fin 16) (p : Fin 512) (f : Frame) (r : List Frame) (h : Nat) : Prop :=
  (s.port p).fifo = f :: r ∧ s.freeHewer a = some h ∧ aisleOf p = a ∧ s.admits f.epoch = true ∧ (s.aisle a).fenced = false ∧
    s.clk.soft.contains (unitAisle a) = false ∧ (s.aisle a).mc.running = true ∧ s.aisleWaits a = false

/-- The ledger entry of its destination MAC alone decides about a frame of the newest epoch: it is not decapsulated or routed, and no
control step or rule takes it. -/
abbrev macDecides (s : State) (a : Fin 16) (p : Fin 512) (f : Frame) (e : LEntry) : Prop :=
  let P := parse (s.eff .AISLE_PARSE_CFG a) f.data
  let q := quarterOf p
  let bd := s.bdOf q p P
  f.epoch = s.newEpoch ∧ f.port = p ∧ s.decap q P f.data = none ∧ s.control q p (s.vrfOf q bd) P = none ∧
    s.ruleSearch a P.fmt (P.ruleKey p (s.vrfOf q bd) bd P.pcp 0) = none ∧ s.routerMac q bd P.dmac = false ∧
    s.ledger q 1 (macKey bd P.dmac) = some e

/-- An aisle admits the oldest frame of a port, by the ledger entry of its MAC where that decides; the policers refill. An aisle that admits
takes the oldest frame of the port's receive FIFO. Where the ledger entry of the frame's destination MAC decides about it, an entry that
discards counts the frame and leaves no packet; one that names an UP port takes it to the lowest free hewer with that port as destination,
which is about to run the routine of its packet type. A frame that cannot be admitted changes nothing. A sweep brings the buckets of every
policer listed up to the present device time. (R30, R86, R95, R96, R146, R209, R211, R349) -/
def Obligations.AislesAdmitAndPolicersRefill : Prop :=
  (∀ (s : State) (a : Fin 16) (p : Fin 512) (f : Frame) (r : List Frame) (h : Nat), s.halted = false → aisleCan s a p f r h →
    Completes (.aisleAdmit a p) s fun t => (t.port p).fifo = r) ∧
  (∀ (s : State) (a : Fin 16) (p : Fin 512) (f : Frame) (r : List Frame) (h : Nat) (e : LEntry), s.halted = false → aisleCan s a p f r h →
    macDecides s a p f e → e.fwd.discard = true →
    Completes (.aisleAdmit a p) s fun t => t.pkts = s.pkts ∧ (t.port p).fifo = r ∧
      t.cntOf (cntKey 0x18 (2 * quarterOf p + 1) 3) = s.cntOf (cntKey 0x18 (2 * quarterOf p + 1) 3) + 1) ∧
  (∀ (s : State) (a : Fin 16) (p : Fin 512) (f : Frame) (r : List Frame) (h : Nat) (e : LEntry), s.halted = false → aisleCan s a p f r h →
    macDecides s a p f e → e.fwd.discard = false → e.fwd.loc = false → e.fwd.kind = 0 → s.isUp (e.fwd.value % 512) = true →
    s.hold (e.fwd.value % 512) ≠ holdFlushing →
    Completes (.aisleAdmit a p) s fun t => (t.port p).fifo = r ∧ ∃ k, t.pkts = s.pkts ++ [k] ∧ k.frame.fid = f.fid ∧
      k.frame.data = f.data ∧ k.aisle = (a : Nat) ∧ k.hewer = some h ∧ k.dests = [e.fwd.value % 512] ∧
      (t.engine (.hewer a (Fin.ofNat 32 h))).disp = some k.ptype ∧ (t.engine (.hewer a (Fin.ofNat 32 h))).fid = f.fid) ∧
  (∀ (s : State) (a : Fin 16) (p : Fin 512), ((s.port p).fifo = [] ∨ aisleOf p ≠ a ∨ (s.aisle a).fenced = true ∨
    s.clk.soft.contains (unitAisle a) = true ∨ s.aisleWaits a = true ∨ s.freeHewer a = none) →
    Completes (.aisleAdmit a p) s fun t => t = s) ∧
  (∀ (s : State) (q : Fin 4) (i : Nat), s.halted = false → ((s.qtr q).pol.map (·.1)).Nodup → i ∈ (s.qtr q).pol.map (·.1) →
    Completes (.policerSweep q) s fun t =>
      tabGet (t.qtr q).pol {} i = polUpdate (s.polE q i) (tabGet (s.qtr q).pol {} i) s.nowNs)

/-- A slot is rebuilt into a relief tile, and the copy assay repairs and reports. A GO on an idle channel that passes its checks begins to
copy into the target, one that fails them shows the code of the check, and one on a busy channel or in SEALED is rejected. A rule slot
copied whole waits for the packet boundary with every valid entry in the target; an LPM slot does so where every entry lies in the new
band and the empty target has room, and ends with RESULT 5 and the slot as it was where one lies outside; the switch maps the slot to the
target; the end of the clear frees the channel with RESULT 1. A unit that differs from its copy is rewritten from it where repair is
enabled; one whose copy is lost is made invalid and reported, and in a tile of an LPM slot, or the target of its rebuild, the gap is
closed, which leaves one entry less; one that agrees is passed. (R11, R106, R120, R121, R123, R124, R125) -/
def Obligations.TilesAreRebuiltAndAssayed : Prop :=
  (∀ (s : State) (r : Req) (a : Fin 16) (k : Fin 4) (v : Word), s.takes r .AISLE_REBUILD_CTL (chanN a k) = true →
    v.getLsbD 31 = true → s.rbState a k ≠ rbIdle →
    Completes (.rebuildGo r a k v) s fun t => s.turnedBy t F.AISLE_SRCH_STATUS_REJECT a ∧ t.rbState a k = s.rbState a k) ∧
  (∀ (s : State) (r : Req) (a : Fin 16) (k : Fin 4) (v : Word), s.takes r .AISLE_REBUILD_CTL (chanN a k) = true →
    v.getLsbD 31 = true → (∀ j, j < 4 → s.rbState a j = rbIdle) → s.opMode ≠ modeSealed →
    Completes (.rebuildGo r a k v) s fun t =>
      match s.rebuildCheck a (v.getLsbD 30) (bits v 24 6) (min (bits v 17 7) 99) (min (bits v 0 8) 128) (min (bits v 8 8) 128) with
      | some c => t.fld F.AISLE_REBUILD_STATUS_RESULT (chanN a k) = c ∧ t.rbState a k = rbIdle
      | none => t.rbState a k = rbCopy ∧ t.bit F.AISLE_REBUILD_STATUS_BUSY (chanN a k) = true ∧
          (t.rebuildC (chanN a k)).target = min (bits v 17 7) 99 ∧ (t.rebuildC (chanN a k)).slot = bits v 24 6) ∧
  (∀ (s : State) (a : Fin 16) (k : Fin 4), s.halted = false → s.wf = true → s.rbState a k = rbCopy → (s.rebuildC (chanN a k)).rule = true →
    Completes (.rebuildCopyDone a k) s fun t => t.rbState a k = rbSwitch ∧
      ∀ e ∈ s.tileEntries a (s.ruleTile a (s.rebuildC (chanN a k)).slot), e.2.valid = true →
        t.tile (tkey a (s.rebuildC (chanN a k)).target e.1) = e.2) ∧
  (∀ (s : State) (r : Req) (a : Fin 16) (k : Fin 4) (v : Word), s.takes r .AISLE_REBUILD_CTL (chanN a k) = true →
    v.getLsbD 31 = true → s.opMode = modeSealed →
    Completes (.rebuildGo r a k v) s fun t => s.turnedBy t F.AISLE_SRCH_STATUS_REJECT a ∧ t.tiles = s.tiles ∧ t.rebuild = s.rebuild ∧
      ∀ j, j < 4 → t.rbState a j = s.rbState a j) ∧
  (∀ (s : State) (a : Fin 16) (k : Fin 4), s.halted = false → s.wf = true → s.rbState a k = rbCopy → (s.rebuildC (chanN a k)).rule = false →
    s.used a (s.rebuildC (chanN a k)).target = 0 → (s.rebuildC (chanN a k)).target < 100 →
    (∀ e ∈ s.tileEntries a (s.rebuildC (chanN a k)).target, e.2.valid = false) →
    let c := s.rebuildC (chanN a k)
    let src := (s.tileEntries a (s.lpmTile a c.slot)).filter (·.2.valid)
    Completes (.rebuildCopyDone a k) s fun t =>
      ((∀ e ∈ src, c.lmin ≤ e.2.plen ∧ e.2.plen ≤ c.lmax) → src.length ≤ s.tileSize a c.target → t.rbState a k = rbSwitch) ∧
      ((∃ e ∈ src, ¬ (c.lmin ≤ e.2.plen ∧ e.2.plen ≤ c.lmax)) → t.rbState a k = rbClear ∧
        t.fld F.AISLE_REBUILD_STATUS_RESULT (chanN a k) = 5 ∧ t.rawFld F.AISLE_SRCH_EVT_CAUSE_REBUILD_FAIL a = 1 ∧
        t.lpmTile a c.slot = s.lpmTile a c.slot)) ∧
  (∀ (s : State) (a : Fin 16) (k : Fin 4), s.halted = false → s.rbState a k = rbSwitch →
    Completes (.rebuildSwitch a k) s fun t => t.rbState a k = rbClear ∧
      (if (s.rebuildC (chanN a k)).rule then
        t.ruleTile a (s.rebuildC (chanN a k)).slot = min ((s.rebuildC (chanN a k)).target % 128) 99 ∧
        (t.rebuildC (chanN a k)).old = s.ruleTile a (s.rebuildC (chanN a k)).slot
       else t.lpmTile a (s.rebuildC (chanN a k)).slot = min ((s.rebuildC (chanN a k)).target % 128) 99 ∧
        (t.rebuildC (chanN a k)).old = s.lpmTile a (s.rebuildC (chanN a k)).slot)) ∧
  (∀ (s : State) (a : Fin 16) (k : Fin 4), s.halted = false → s.rbState a k = rbClear → (s.rebuildC (chanN a k)).okDone = true →
    Completes (.rebuildClearDone a k) s fun t => t.rbState a k = rbIdle ∧ t.bit F.AISLE_REBUILD_STATUS_BUSY (chanN a k) = false ∧
      t.fld F.AISLE_REBUILD_STATUS_RESULT (chanN a k) = 1 ∧ t.rawFld F.AISLE_SRCH_EVT_CAUSE_REBUILD_DONE a = 1 ∧
      t.used a (s.rebuildC (chanN a k)).old = 0) ∧
  (∀ (s : State) (a : Fin 16) (flip : Nat) (code : Fin 3), s.bit F.AISLE_SRCH_CFG_ASSAY_EN a = true → s.mode.started = true → s.zolOn = true →
    s.clk.soft.contains (unitAisle a) = false →
    let pos := (s.aisle a).sweepPos
    let w := s.tileW a (pos / 2048)
    let e := pos % 2048 / w
    let j := pos % 2048 % w
    let x := (s.tile (tkey a (pos / 2048) e)).flip w j flip
    let c := s.copyT (tkey a (pos / 2048) e)
    Completes (.assayUnitRead a flip code) s fun t =>
      (t.aisle a).sweepPos = (if pos + 1 < 204800 then pos + 1 else 0) ∧
      ((code : Nat) = 2 → t.rawFld F.AISLE_SRCH_EVT_CAUSE_TCAM_LOST a = 1 ∧
        (s.sorted a (pos / 2048) = false → t.tile (tkey a (pos / 2048) e) = { x with valid := false }) ∧
        (s.sorted a (pos / 2048) = true → e < s.used a (pos / 2048) → t.used a (pos / 2048) = s.used a (pos / 2048) - 1)) ∧
      ((code : Nat) ≠ 2 → x.agree c w j = true → t.tile (tkey a (pos / 2048) e) = x) ∧
      ((code : Nat) ≠ 2 → x.agree c w j = false → s.bit F.AISLE_SRCH_CFG_REPAIR_EN a = true →
        t.tile (tkey a (pos / 2048) e) = x.repair c w j ∧ t.rawFld F.AISLE_SRCH_EVT_CAUSE_TCAM_REPAIR a = 1))

/-- A port advances through negotiation, training and alignment, or starts them again. Negotiation: abilities that hold the port's own take a
port that may advance from AN to TRAIN, every lane at its warm start, or to ALIGN where training is off; others are a failure. A failure
counts, records DOWN_CAUSE 9 and pauses; a pause of 100 ms ends and the pages go out again where the lane transmits, the RS-FEC ability
set, their next pages being the model's free value (log entry 175); of a port that does not pause nothing changes. Training: its
completion takes the port to ALIGN with the settings reached in every lane; its time box records DOWN_CAUSE 8 and goes to AN or TRAIN.
Alignment that has qualified for LINKUP_QUAL takes the port to UP, asks calibration trigger 1, and ends a hold window, with a flush where
the window has run out; 100 ms of alignment go to the restart point. The clauses rest on the choices of log entries 108 and 133. (R43,
R44, R46, R57, R58, R59) -/
def Obligations.PortNegotiatesTrainsAndAligns : Prop :=
  (∀ (s : State) (p : Fin 512) (ab : List (Nat × Nat × Nat)) (fec : Bool) (np : List (Bool × BitVec 48)), s.link p = linkAn → (s.port p).anWait = false → s.canAdvance p = true →
    ab.contains (s.ability p) = true →
    Completes (.negotiationComplete ⟨p, ab, fec, np⟩) s fun t => t.link p = (if (s.port p).useLt then linkTrain else linkAlign) ∧
      ((s.port p).useLt = true → ∀ l ∈ s.lanesOf p, (t.lane l).eq = s.warmStart l)) ∧
  (∀ (s : State) (p : Fin 512) (ab : List (Nat × Nat × Nat)) (fec : Bool) (np : List (Bool × BitVec 48)), s.link p = linkAn → (s.port p).anWait = false → s.canAdvance p = true →
    ab.contains (s.ability p) = false →
    Completes (.negotiationComplete ⟨p, ab, fec, np⟩) s fun t => t.link p = linkAn ∧ t.rawFld F.PORT_STATE_DOWN_CAUSE p = 9 ∧
      (t.port p).anFails = (s.port p).anFails + 1) ∧
  (∀ (s : State) (p : Fin 512), s.link p = linkAn → (s.port p).anWait = false →
    Completes (.anFail p) s fun t => t.rawFld F.PORT_STATE_DOWN_CAUSE p = 9 ∧ t.link p = linkAn ∧
      t.port p = { s.port p with anWait := true, anAt := s.time.words, anFails := (s.port p).anFails + 1 }) ∧
  (∀ (s : State) (p : Fin 512), s.link p = linkAn → (s.port p).anWait = true → s.aged (s.port p).anAt 100000000 = true →
    Completes (.anPauseExpire p) s fun t => t.port p = { s.port p with anWait := false } ∧ t.link p = linkAn ∧
      t.out = (if s.laneTx p = 2 then [.anPages p (s.ability p).1 (s.ability p).2.1 (s.ability p).2.2 true
        (Config.anNextPages (s.ability p).1 (s.ability p).2.1 (s.ability p).2.2)] else []) ++ s.out) ∧
  (∀ (s : State) (p : Fin 512), (s.port p).anWait = false → Completes (.anPauseExpire p) s fun t => t = s) ∧
  (∀ (s : State) (p : Fin 512) (eq : List (List Byte)) (pc : Bool), s.link p = linkTrain → s.canAdvance p = true →
    Completes (.trainingComplete p eq pc) s fun t => t.link p = linkAlign ∧
      ∀ i, i < s.width p → (t.lane (p + i)).eq = eq.getD i [] ∧ t.bit F.LANE_EQ_STATUS_ADAPTED (p + i) = true ∧
        t.bit F.LANE_EQ_STATUS_PRECODE (p + i) = pc) ∧
  (∀ (s : State) (p : Fin 512), s.link p = linkTrain →
    Completes (.trainingTimeboxExpire p) s fun t => t.rawFld F.PORT_STATE_DOWN_CAUSE p = 8 ∧
      t.link p = if s.bit F.PORT_CFG_AN_EN p then linkAn else linkTrain) ∧
  (∀ (s : State) (p : Fin 512), s.link p = linkAlign → s.aged (s.port p).alignAt 100000000 = true →
    Completes (.alignTimeout p) s fun t => t.link p = s.restartPoint p) ∧
  (∀ (s : State) (p : Fin 512), s.link p = linkAlign → s.canAdvance p = true →
    s.aged (s.port p).alignAt (s.fld F.PORT_CFG_LINKUP_QUAL p * 100000) = true →
    Completes (.alignmentQualified p) s fun t => t.link p = linkUp ∧ (t.port p).calDue = true ∧
      t.fld F.TIME_PORT_CAL_STATUS_LAST_TRIGGER p = 1 ∧
      t.hold p = (if s.hold p = holdHeld then
        (if s.time.running && s.elapsed (s.port p).holdAt (s.port p).holdNs && !s.queuesEmpty p then holdFlushing else holdNone)
        else s.hold p))

/-- What the loss of a link, the hold window and the flush of a port do. A loss of an UP link records its cause, clears the health grade,
counts a flap and sends the port to its restart point; its hold state leaves NONE for HELD where HOLD_MS is not 0, else for FLUSHING where
descriptors wait. The end of the hold window starts the flush, which is over at once where the queues are empty; the report of empty
queues ends it, and changes nothing while descriptors remain; a discard takes the oldest descriptor of the queue named and counts it, and
changes nothing at a port that does not flush. (R58, R59, R194, R195) -/
def Obligations.PortLeavesUpAndItsHoldEnds : Prop :=
  (∀ (s : State) (p : Fin 512) (c : Fin 16), s.isUp p = true → [2, 3, 4, 5, 11].contains (c : Nat) = true →
    Completes (.linkLoss p c) s fun t => t.link p = s.restartPoint p ∧ t.rawFld F.PORT_STATE_DOWN_CAUSE p = c ∧
      t.rawFld F.PORT_STATE_HEALTH p = 0 ∧ t.rawFld F.FLAP_CNT_COUNT p = min (s.rawFld F.FLAP_CNT_COUNT p + 1) (2 ^ 32 - 1) ∧
      t.hold p = (if s.hold p = holdNone then
        (if s.fld F.PORT_HOLD_HOLD_MS p = 0 then (if s.queuesEmpty p then holdNone else holdFlushing) else holdHeld)
        else s.hold p)) ∧
  (∀ (s : State) (p : Fin 512), s.hold p = holdHeld → s.aged (s.port p).holdAt (s.port p).holdNs = true →
    Completes (.holdTimerExpire p) s fun t => t.hold p = if s.queuesEmpty p then holdNone else holdFlushing) ∧
  (∀ (s : State) (p : Fin 512), s.halted = false → s.hold p = holdFlushing → s.queuesEmpty p = true →
    Completes (.queuesEmptyReport p) s fun t => t.hold p = holdNone) ∧
  (∀ (s : State) (p : Fin 512), s.queuesEmpty p = false → Completes (.queuesEmptyReport p) s fun t => t = s) ∧
  (∀ (s : State) (p : Fin 512) (q : Fin 9) (d : Desc) (r : List Desc), s.halted = false → s.hold p = holdFlushing →
    (tabGet (s.port p).queues {} q).d = d :: r →
    Completes (.flushDiscard p q) s fun t => (tabGet (t.port p).queues {} q).d = r ∧
      t.cntOf (cntKey 0x38 p 3) = s.cntOf (cntKey 0x38 p 3) + 1) ∧
  (∀ (s : State) (p : Fin 512) (q : Fin 9), s.hold p ≠ holdFlushing → Completes (.flushDiscard p q) s fun t => t = s)

/-- Writes of STALL_CFG, PORT_CFG and PORT_CTL act on the ports. A write of STALL_CFG while every port of the stall is disabled and holds
nothing takes the new rate and split, disables every lane position and, from SETUP on, configures the stall; else it is rejected with code
0x3 and changes neither. Enabling a disabled port sends it to its restart point; a write of ADMIN_EN = 0 disables the port. A restart of a
port that is not disabled records DOWN_CAUSE 1 and goes to the restart point; of a disabled port it is rejected. The clauses rest on the
choices of log entries 35 and 132. (R11, R42, R54, R57, R60, R275, R475) -/
def Obligations.PortConfigurationWritesAct : Prop :=
  (∀ (s : State) (r : Req) (st : Fin 64) (v : Word), s.takes r .STALL_CFG st = true →
    ((s.portsOf st).any fun p => s.rawFld F.PORT_CFG_ADMIN_EN p != 0 || s.hold p != holdNone) = false →
    Completes (.stallCfgWrite r st v) s fun t => t.raw .STALL_CFG st = v &&& 0x1FF#32 ∧
      (s.mode.started = true → (t.stall st).configured = true) ∧ ∀ i, i < 8 → t.link (8 * st + i) = linkDisabled) ∧
  (∀ (s : State) (r : Req) (st : Fin 64) (v : Word), s.takes r .STALL_CFG st = true →
    ((s.portsOf st).any fun p => s.rawFld F.PORT_CFG_ADMIN_EN p != 0 || s.hold p != holdNone) = true →
    Completes (.stallCfgWrite r st v) s fun t => t.raw .STALL_CFG st = s.raw .STALL_CFG st ∧ s.turnedBy t F.STALL_STATUS_REJECT st) ∧
  (∀ (s : State) (r : Req) (p : Fin 512) (v : Word), s.takes r .PORT_CFG p = true → s.starts p = true → v.getLsbD 0 = true →
    s.link p = linkDisabled →
    Completes (.portCfgWrite r p v) s fun t => t.rawFld F.PORT_CFG_ADMIN_EN p = 1 ∧ t.link p = t.restartPoint p) ∧
  (∀ (s : State) (r : Req) (p : Fin 512) (v : Word), s.takes r .PORT_CFG p = true → s.starts p = true → v.getLsbD 0 = false →
    Completes (.portCfgWrite r p v) s fun t => t.rawFld F.PORT_CFG_ADMIN_EN p = 0 ∧ t.link p = linkDisabled) ∧
  (∀ (s : State) (r : Req) (p : Fin 512) (v : Word), s.takes r .PORT_CTL p = true → v.getLsbD 0 = true → s.link p ≠ linkDisabled →
    Completes (.portRestart r p v) s fun t => t.rawFld F.PORT_STATE_DOWN_CAUSE p = 1 ∧ t.link p = t.restartPoint p) ∧
  (∀ (s : State) (r : Req) (p : Fin 512) (v : Word), s.takes r .PORT_CTL p = true → v.getLsbD 0 = true → s.link p = linkDisabled →
    Completes (.portRestart r p v) s fun t => t.link p = linkDisabled ∧ s.turnedBy t F.STALL_STATUS_REJECT (stallOf p))

/-- Received PFC and pause frames, the end of a pause and the refresh of a standing one. On an UP port a PFC frame stops each enabled priority
its vector names for its quanta from now, releases those it names with a time of zero, and leaves the others; a pause frame has no effect
but the count of counter 4; both count 84 octets on the meter. A pause whose quanta have passed, or any where device time does not run,
ends for its priority alone; before that nothing changes. A standing pause, half of its advertised time after it was last sent, is sent
again for its priority alone. A clause rests on the choice of log entry 38. (R36, R39, R63, R290) -/
def Obligations.ReceivedPausesAndRefreshes : Prop :=
  (∀ (s : State) (p : Fin 512) (vec : BitVec 8) (q : List Nat), s.isUp p = true →
    Completes (.pfcFrameReceive p vec q) s fun t =>
      (∀ i, i < 8 → (t.port p).rxPause.getLsbD i =
        (if (s.pfcPrios p).contains i && vec.getLsbD i then decide (q.getD i 0 ≠ 0) else (s.port p).rxPause.getLsbD i) ∧
        ((s.pfcPrios p).contains i = true → vec.getLsbD i = true → q.getD i 0 ≠ 0 →
          tabGet (t.port p).pauseTill 0 i = s.runNs + s.quantaNs p (q.getD i 0))) ∧
      (t.port p).bwRx = (s.port p).bwRx + 84 ∧ t.cntOf (cntKey 0x11 (2 * (p : Nat)) 3) = s.cntOf (cntKey 0x11 (2 * (p : Nat)) 3) + 1) ∧
  (∀ (s : State) (p : Fin 512), s.isUp p = true →
    Completes (.pauseFrameReceive p) s fun t => t.port p = { s.port p with bwRx := (s.port p).bwRx + 84, actAt := (s.port p).seen s.time.words } ∧
      t.cntOf (cntKey 0x11 (2 * (p : Nat)) 4) = s.cntOf (cntKey 0x11 (2 * (p : Nat)) 4) + 1) ∧
  (∀ (s : State) (p : Fin 512) (i : Fin 8), (s.time.running = false ∨ tabGet (s.port p).pauseTill 0 i ≤ s.runNs) →
    Completes (.pfcPauseExpire p i) s fun t => ∀ k, k < 8 → (t.port p).rxPause.getLsbD k =
      (decide (k ≠ (i : Nat)) && (s.port p).rxPause.getLsbD k)) ∧
  (∀ (s : State) (p : Fin 512) (i : Fin 8), s.time.running = true → s.runNs < tabGet (s.port p).pauseTill 0 i →
    Completes (.pfcPauseExpire p i) s fun t => t = s) ∧
  (∀ (s : State) (p : Fin 512) (i : Fin 8), s.isUp p = true → (s.port p).txPfc.getLsbD i = true →
    s.aged (tabGet (s.port p).pfcSent 0 i) (s.quantaNs p pfcTime / 2) = true →
    Completes (.pfcRefresh p i) s fun t =>
      t.out = .pfc p (BitVec.ofNat 8 (2 ^ (i : Nat))) (BitVec.ofNat 8 (2 ^ (i : Nat))) pfcTime :: s.out ∧
      t.cntOf (cntKey 0x11 (2 * (p : Nat) + 1) 3) = s.cntOf (cntKey 0x11 (2 * (p : Nat) + 1) 3) + 1 ∧
      (t.port p).bwTx = (s.port p).bwTx + 84 ∧ tabGet (t.port p).pfcSent 0 i = s.time.words)

/-- Lane retunes, eye sweeps, health and meters; a transmit PLL loses lock and locks again. A retune of a lane of an UP port that is not in
retune marks the lane and the port; of another lane it is rejected with code 0x3. Its end clears the mark on the lane and, where it
succeeds, keeps the settings reached. On an UP port a sweep fills the three eyes with the heights and widths measured, at most 65,535 and
255. A refresh sets the health grade of the statistics, or 0 where the port is not UP. The end of a window that has lasted its WIN_US
publishes each meter of the stall in units of 64 bytes, keeps the largest so far, and starts again from 0 with the WIN_US of that time; a
window that has not lasted changes nothing. The loss of a locked transmit PLL clears TXPLL_LOCK and sends every live port of the stall
that does not wait for its module to its restart point; the lock sets TXPLL_LOCK and starts calibration trigger 8 on every UP port of the
stall. (R11, R46, R57, R58, R61, R62, R63, R234, R308) -/
def Obligations.LanesAndTransmitPlls : Prop :=
  (∀ (s : State) (r : Req) (l : Fin 512) (v : Word), s.takes r .LANE_CTL l = true → v.getLsbD 0 = true → s.canRetune l = true →
    Completes (.laneRetune r l v) s fun t => t.bit F.LANE_EQ_STATUS_RETUNING l = true ∧ t.marked (s.portOfLane l) = true ∧
      t.bit F.PORT_STATE_RECAL (s.portOfLane l) = true) ∧
  (∀ (s : State) (r : Req) (l : Fin 512) (v : Word), s.takes r .LANE_CTL l = true → v.getLsbD 0 = true → s.canRetune l = false →
    Completes (.laneRetune r l v) s fun t => s.turnedBy t F.STALL_STATUS_REJECT ((l : Nat) / 8)) ∧
  (∀ (s : State) (l : Fin 512) (good : Bool) (eq : List Byte), s.bit F.LANE_EQ_STATUS_RETUNING l = true →
    Completes (.retuneComplete l good eq) s fun t => t.bit F.LANE_EQ_STATUS_RETUNING l = false ∧
      (t.lane l).eq = (if good then eq else (s.lane l).eq)) ∧
  (∀ (s : State) (l : Fin 512) (eyes : List (Nat × Nat)), s.isUp (s.portOfLane l) = true →
    Completes (.eyeSweep l eyes) s fun t => ∀ i, i < 3 →
      t.rawFld F.LANE_EYE_HEIGHT (3 * l + i) = min (eyes.getD i (0, 0)).1 65535 ∧
      t.rawFld F.LANE_EYE_WIDTH (3 * l + i) = min (eyes.getD i (0, 0)).2 255) ∧
  (∀ (s : State) (p : Fin 512) (x : List (Nat × Nat × Nat × Nat)),
    Completes (.healthGradeRefresh p x) s fun t =>
      t.rawFld F.PORT_STATE_HEALTH p = if s.isUp p then healthGrade (x.take (s.width p)) else 0) ∧
  (∀ (s : State) (st : Fin 64), s.halted = false → s.aged (s.stall st).bwAt ((s.stall st).bwWin * 1000) = true →
    Completes (.bwmWindowEnd st) s fun t => (t.stall st).bwAt = s.time.words ∧ (t.stall st).bwWin = s.fld F.STALL_BWM_WIN_WIN_US st ∧
      ∀ p ∈ s.portsOf st, (t.port p).bwRx = 0 ∧ (t.port p).bwTx = 0 ∧
        t.rawFld F.BWM_RX_LAST_COUNT p = (s.port p).bwRx / 64 % 2 ^ F.BWM_RX_LAST_COUNT.w ∧
        t.rawFld F.BWM_TX_LAST_COUNT p = (s.port p).bwTx / 64 % 2 ^ F.BWM_TX_LAST_COUNT.w ∧
        t.rawFld F.BWM_RX_MAX_COUNT p = max ((s.port p).bwRx / 64) (s.fld F.BWM_RX_MAX_COUNT p) % 2 ^ F.BWM_RX_MAX_COUNT.w ∧
        t.rawFld F.BWM_TX_MAX_COUNT p = max ((s.port p).bwTx / 64) (s.fld F.BWM_TX_MAX_COUNT p) % 2 ^ F.BWM_TX_MAX_COUNT.w) ∧
  (∀ (s : State) (st : Fin 64), s.aged (s.stall st).bwAt ((s.stall st).bwWin * 1000) = false →
    Completes (.bwmWindowEnd st) s fun t => t = s) ∧
  (∀ (s : State) (st : Fin 64), s.bit F.STALL_STATUS_TXPLL_LOCK st = true →
    Completes (.txpllLoss st) s fun t => t.bit F.STALL_STATUS_TXPLL_LOCK st = false ∧
      ∀ p ∈ s.livePorts st, s.link p ≠ linkWaitModule → t.link p = s.restartPoint p) ∧
  (∀ (s : State) (st : Fin 64),
    s.released = true → Completes (.txpllRelock st) s fun t => t.bit F.STALL_STATUS_TXPLL_LOCK st = true ∧
      ∀ p ∈ s.portsOf st, s.isUp p = true → (t.port p).calDue = true ∧ t.fld F.TIME_PORT_CAL_STATUS_LAST_TRIGGER p = 8) ∧
  (∀ (s : State) (st : Fin 64), s.released = false → Completes (.txpllRelock st) s fun t => t = s)

/-- A write of the device's own to a module's memory waits for the controller of its site, or holds it. -/
def Sys2Proof.Machine.State.asksOwn (s : State) (st page off : Nat) (b : List Byte) : Prop :=
  ∃ x ∈ s.evt.i2cQ, x.isOwn = true ∧ x.site = st ∧ x.op = mbWrite ∧ x.page = page ∧ x.off = off ∧ x.bytes = b

/-- The bring-up of a module site, its failures and its retry. After two scans RESETL goes high and the site enters INIT. The low-power report
keeps what the module advertises and ends in PASSIVE for a flat module, else in READY with LPMODE released and a write that clears the
low-power request in the module waiting or on the bus. A ready module goes to DATAPATH, with a write of APPSEL to each lane of its ports,
each waiting for the site's controller or on its bus; its datapath is ACTIVE where the module advertises APPSEL of each of them, else the
site fails and is not retried. A fault of a present site is reported in its state and is retried up to 3 times; a retry, 1 s after the
fault, starts at RESET again. A scan drives the chain and, of every site not in soft reset, records the spare bits and the interrupt; a
third low scan in a row makes a site present and starts its bring-up, and a high scan removes it. The clauses rest on the choices of log
entries 35, 134, 135 and 136. (R50, R52, R53, R54, R55, R57) -/
def Obligations.ModuleSitesComeUpAndFail : Prop :=
  (∀ (s : State) (st : Fin 64), s.site st = siteReset → 2 ≤ (s.stall st).rstScans →
    Completes (.moduleResetRelease st) s fun t => t.site st = siteInit ∧ (t.stall st).resetl = true) ∧
  (∀ (s : State) (st : Fin 64) (flat : Bool) (apps : List Nat) (id : List Byte) (eq : List (List Byte)), s.site st = siteInit →
    Completes (.moduleLowPwrReport st flat apps ⟨id, eq⟩) s fun t => t.site st = (if flat then sitePassive else siteReady) ∧
      (t.stall st).apps = apps ∧ (t.stall st).module = id ∧ (t.stall st).hostEq = eq ∧
      (flat = false → (t.stall st).lpmode = false ∧ t.asksOwn st 0 26 [0#8])) ∧
  (∀ (s : State) (st : Fin 64), s.site st = siteReady →
    Completes (.moduleReady st) s fun t => t.site st = siteDatapath ∧ ∀ p ∈ s.portsOf st, ∀ l ∈ s.lanesOf p,
      t.asksOwn st 0x10 (145 + l % 8) [BitVec.ofNat 8 (s.fld F.PORT_CFG_APPSEL p * 16 + p % 8 * 2)]) ∧
  (∀ (s : State) (st : Fin 64), s.site st = siteDatapath →
    Completes (.datapathActivated st) s fun t =>
      if ((s.portsOf st).map (s.fld F.PORT_CFG_APPSEL)).all (s.stall st).apps.contains then
        t.site st = siteActive ∧ (t.stall st).retries = 0
      else t.site st = siteFaulted ∧ (t.stall st).retryOn = false) ∧
  (∀ (s : State) (st : Fin 64), s.site st ≠ siteEmpty → s.site st ≠ siteFaulted →
    Completes (.siteFault st) s fun t => t.site st = siteFaulted ∧ (t.stall st).retryOn = decide ((s.stall st).retries < 3)) ∧
  (∀ (s : State) (st : Fin 64), s.site st = siteFaulted → (s.stall st).retryOn = true →
    s.aged (s.stall st).faultAt 1000000000 = true →
    Completes (.siteFaultRetry st) s fun t => t.site st = siteReset ∧ (t.stall st).resetl = false ∧ (t.stall st).lpmode = true ∧
      (t.stall st).retries = (s.stall st).retries + 1) ∧
  (∀ (s : State) (inf : List (Bool × Bool × Bool × Bool)) (fl : List (List Byte)), s.halted = false → s.mode.started = true →
    Completes (.siteChainScan ⟨inf, fl⟩) s fun t => .chain ((List.range 64).map s.outBits).flatten ∈ t.out ∧
      ∀ st, st < 64 → s.clk.soft.contains st = false →
        t.bit F.STALL_STATUS_SITE_INT st = !(inf.getD st (true, true, false, false)).2.1 ∧
        t.bit F.STALL_STATUS_RSV_IN0 st = (inf.getD st (true, true, false, false)).2.2.1 ∧
        t.bit F.STALL_STATUS_RSV_IN1 st = (inf.getD st (true, true, false, false)).2.2.2 ∧
        ((inf.getD st (true, true, false, false)).1 = true → t.bit F.STALL_STATUS_SITE_PRESENT st = false) ∧
        ((inf.getD st (true, true, false, false)).1 = false → 2 ≤ (s.stall st).lowScans →
          s.bit F.STALL_STATUS_SITE_PRESENT st = false → t.bit F.STALL_STATUS_SITE_PRESENT st = true ∧ t.site st = siteReset))

/-- Every lane of a port has its measured components within the bounds of its trim, in both directions (R234). -/
def calWithin (s : State) (p : Nat) (meas : List (Nat × Nat × Nat × Nat)) : Bool :=
  (List.range (s.width p)).all fun i =>
    delayOk (p + i) true (s.newDelays (p + i) true (meas.getD i (0, 0, 0, 0))) &&
      delayOk (p + i) false (s.newDelays (p + i) false (meas.getD i (0, 0, 0, 0)))

/-- Device time advances with each time word, is distributed, and steps through an epoch. A time word of running device time adds 64 ticks of
INC to the accumulator, whose seconds count modulo 2^48, and the clock outputs follow their registers. An echo gives its stall half the
round trip as D_DIST and ends a run of missing ones; the third missing echo in a row takes the distribution out of calibration. A step
asked for in ACQUIRING, while the servo runs and with no epoch incomplete, moves the accumulator by its amount, modulo the same, requests
the next epoch, and logs that epoch with the sum of the steps; while an epoch is incomplete it waits. (R13, R227, R228, R229, R252, R261,
R339) -/
def Obligations.DeviceTimeAdvancesAndSteps : Prop :=
  (∀ (s : State), s.time.running = true →
    Completes .timeWordSend s fun t => t.time.acc = (s.time.acc + 64 * s.time.inc) % (2 ^ 48 * 10 ^ 9 * 2 ^ 48) ∧
      t.time.words = s.time.words + 1 ∧ t.time.clkOuts = (s.timeclkOn, s.synceSel 0, s.synceSel 1)) ∧
  (∀ (s : State) (st : Fin 64) (rt : Nat),
    Completes (.distEchoMeasure st (some rt)) s fun t => (t.stall st).dDist = rt / 2 ∧ (t.stall st).distMiss = 0) ∧
  (∀ (s : State) (st : Fin 64), (s.stall st).distMiss = 2 →
    Completes (.distEchoMeasure st none) s fun t => (t.stall st).distBad = true ∧ t.bit F.TIME_STATUS_DIST_OK 0 = false) ∧
  (∀ (s : State) (d : Int), s.time.stepWait = some d → s.epochPending = false → s.time.running = true → s.servoOn = true → s.servo = svAcquiring →
    Completes .timeStep s fun t =>
      t.time.acc = (((s.time.acc : Int) + d * 2 ^ 32) % ((2 ^ 48 * 10 ^ 9 * 2 ^ 48 : Nat) : Int)).toNat ∧ t.time.stepWait = none ∧
      t.epochPending = true ∧ t.newEpoch = s.newEpoch + 1 ∧ t.time.stepLog.head? = some (s.newEpoch + 1, s.stepSum + d)) ∧
  (∀ (s : State), s.epochPending = true → Completes .timeStep s fun t => t = s)

/-- Lane delay calibrations, and link delay measurements. A calibration starts on an UP port with the trigger named (the temperature trigger
only where the sensor has moved far enough), by the period once CAL_PERIOD_S has passed and for at most 8 ports in a millisecond, or by a
request of software, which is rejected for a port that is not UP. A commit with every lane within its bounds takes the new components, and
ends and counts the calibration where no frame is in flight on the port, else waits in COMMIT; one outside runs the calibration once more,
and a second one fails it. A request of software starts a measurement on an UP port on which none runs, else it is rejected. While the
protocol engine runs, an exchange that is due, by a measurement or by the period, is outstanding, counted, and posted as work of the port.
The end of an exchange discards and counts a value that is marked, negative or later than 10 ms, else half of its sum, rounded as the
command says, joins the last three. A measurement without three valid responses in 1 s ends with PROBE_NONE. (R11, R231, R234, R235, R236,
R243) -/
def Obligations.CalibrationsAndLinkDelays : Prop :=
  (∀ (s : State) (p : Fin 512) (k : Fin 10), s.isUp p = true → (k : Nat) ≠ 0 → (k : Nat) ≠ 6 →
    ((k : Nat) ≠ 5 ∨ s.tempMoved p = true) →
    Completes (.calibrationStart p k) s fun t => (t.port p).calDue = true ∧ t.fld F.TIME_PORT_CAL_STATUS_LAST_TRIGGER p = k ∧
      t.bit F.PORT_STATE_RECAL p = true ∧ t.bit F.TIME_PORT_CAL_STATUS_RECAL p = true) ∧
  (∀ (s : State) (p : Fin 512), s.isUp p = true → 0 < s.fld F.TIME_CAL_CFG_CAL_PERIOD_S 0 →
    s.aged (s.port p).calW (s.fld F.TIME_CAL_CFG_CAL_PERIOD_S 0 * 10 ^ 9) = true →
    (s.time.calMs ≠ s.nowNs / 1000000 ∨ s.time.calCnt < 8) →
    Completes (.calPeriodExpire p) s (fun t => (t.port p).calDue = true ∧ t.fld F.TIME_PORT_CAL_STATUS_LAST_TRIGGER p = 6) ∧
    Completes (.calibrationStart p 6) s (fun t => (t.port p).calDue = true ∧ t.fld F.TIME_PORT_CAL_STATUS_LAST_TRIGGER p = 6)) ∧
  (∀ (s : State) (r : Req) (p : Fin 512) (v : Word), s.takes r .TIME_PORT_CTL p = true → v.getLsbD 0 = true →
    Completes (.calReq r p v) s fun t =>
      if s.isUp p then (t.port p).calDue = true ∧ t.fld F.TIME_PORT_CAL_STATUS_LAST_TRIGGER p = 7
      else s.turnedBy t F.TIME_STATUS_REJECT 0) ∧
  (∀ (s : State) (p : Fin 512) (m : List (Nat × Nat × Nat × Nat)), (s.port p).calDue = true → s.isUp p = true →
    Completes (.calibrationCommit p m) s fun t =>
      if calWithin s p m then
        (t.port p).calDue = false ∧
        (∀ i, i < s.width p → (t.lane (p + i)).rx = s.newDelays (p + i) true (m.getD i (0, 0, 0, 0)) ∧
          (t.lane (p + i)).tx = s.newDelays (p + i) false (m.getD i (0, 0, 0, 0))) ∧
        (if (s.port p).arriving = none ∧ (s.port p).tx = none then
          t.fld F.TIME_PORT_CAL_STATUS_CAL_STATE p = calIdle ∧ t.rawFld F.TIME_PORT_CAL_STATUS_CAL_COUNT p =
            (s.rawFld F.TIME_PORT_CAL_STATUS_CAL_COUNT p + 1) % 2 ^ F.TIME_PORT_CAL_STATUS_CAL_COUNT.w
        else t.fld F.TIME_PORT_CAL_STATUS_CAL_STATE p = calCommit)
      else if (s.port p).calRerun then
        (t.port p).calDue = false ∧ t.fld F.TIME_PORT_CAL_STATUS_CAL_STATE p = calFailed ∧ t.marked p = true
      else t.port p = { s.port p with calRerun := true }) ∧
  (∀ (s : State) (r : Req) (p : Fin 512) (v : Word), s.takes r .TIME_PORT_CTL p = true → v.getLsbD 1 = true →
    Completes (.probeReq r p v) s fun t =>
      if s.isUp p && !(s.port p).probing then
        (t.port p).probing = true ∧ (t.port p).probeOut = false ∧ (t.port p).dlyVals = [] ∧ (t.port p).probeAt = s.time.words
      else s.turnedBy t F.TIME_STATUS_REJECT 0) ∧
  (∀ (s : State) (p : Fin 512), s.isUp p = true → s.peRuns = true → (s.port p).probing = true →
    ((s.port p).pdAt = 0 ∨ s.aged (s.port p).pdAt 10000000 = true) →
    Completes (.probeSend p) s fun t => (t.port p).probeOut = true ∧ (∃ w ∈ (t.port p).work, w.1 = wtPtpTx ∧ w.2.1 = 1) ∧
      t.cntOf (cntKey 0x51 p 3) = s.cntOf (cntKey 0x51 p 3) + 1) ∧
  (∀ (s : State) (p : Fin 512), s.isUp p = true → s.peRuns = true → s.bit F.TIME_PORT_CFG_PROBE_EN p = true → (s.port p).probing = false →
    s.aged (s.port p).pdAt (s.fld F.TIME_CAL_CFG_LINKDLY_S 0 * 10 ^ 9) = true →
    Completes (.linkdlyPeriodExpire p) s fun t => (t.port p).probeOut = true ∧ (∃ w ∈ (t.port p).work, w.1 = wtPtpTx ∧ w.2.1 = 1) ∧
      t.cntOf (cntKey 0x51 p 3) = s.cntOf (cntKey 0x51 p 3) + 1) ∧
  (∀ (s : State) (p : Fin 512) (up : Bool) (d : Int) (mk : Bool), (s.port p).probeOut = true → (s.port p).pdRes = some (d, mk) →
    Completes (.probeResponse p up) s fun t => (t.port p).probeOut = false ∧
      (if d < 0 ∨ mk = true ∨ (s.time.running = true ∧ s.elapsed (s.port p).pdAt 10000001 = true) then
          t.cntOf (cntKey 0x51 p 4) = s.cntOf (cntKey 0x51 p 4) + 1 ∧ (t.port p).dlyLast3 = (s.port p).dlyLast3
        else (t.port p).dlyLast3 = ((halfOf up d).toNat :: (s.port p).dlyLast3).take 3)) ∧
  (∀ (s : State) (p : Fin 512), (s.port p).probing = true → s.aged (s.port p).probeAt 1000000000 = true →
    Completes (.probeNone p) s fun t => t.port p = { s.port p with probing := false, probeOut := false, dlyVals := [] } ∧
      t.rawFld F.TIME_PORT_EVT_CAUSE_PROBE_NONE p = 1)

/-- The servo takes its parent and samples, leaves for holdover, and goes where FORCE says. With the servo running, a parent that the BMCA
names on an UP BC port, with a record of it than which no other is better, becomes the parent with the data sets of that record; any other
outcome leaves none. The time-out of a port's Announces keeps exactly the records whose time has not passed. Of the oldest sample that
waits, on a parent port in SLAVE: a marked one is discarded and counted; a Sync that is not is kept, and a delay exchange adds half of its
sum, rounded as the command says, to the last 16. The loss of the source, once its time without a sample has passed, takes LOCKED to
HOLDOVER, before that nothing changes; HO_LIMIT_S in HOLDOVER takes it to HOLDOVER_LONG. With the servo running, FORCE 2 takes it to
FREERUN with INC at its nominal value; FORCE 1 takes it to HOLDOVER where holdover history exists and is rejected where none does; FORCE 0
or 3 with a source present takes FREERUN and both holdover states to ACQUIRING. The clauses rest on the choices of log entries 50, 51, 52
and 153. (R11, R249, R250, R251, R254, R256, R268) -/
def Obligations.ServoFollowsItsSourceAndForce : Prop :=
  (∀ (s : State) (b : Bmca) (p : Fin 512) (r : Foreign), s.servoOn = true → b.parent = some p →
    s.fld F.TIME_PORT_PTP_ROLE p = 1 → s.isUp p = true →
    (s.port p).foreign.find? (fun x => x.portId == b.parentId) = some r → s.bestMaster r = true →
    Completes (.bmcaRun b) s fun t => t.time.parent = some (p : Nat) ∧ t.time.gm = r.gm ∧ t.time.gmClass = r.quality / 2 ^ 40 ∧
      t.time.gmAcc = r.quality / 2 ^ 32 % 256 ∧ t.time.gmVar = r.quality / 2 ^ 16 % 65536 ∧ t.time.utc = r.utc ∧
      t.time.tflags = r.flags ∧ t.time.stepsRm = r.steps + 1 ∧ t.fld F.TIME_SERVO_STATUS_PORT 0 = p) ∧
  (∀ (s : State) (b : Bmca), s.servoOn = true → s.bmcaPick b = none →
    Completes (.bmcaRun b) s fun t => t.time.parent = none) ∧
  (∀ (s : State) (p : Fin 512), s.servoOn = true →
    Completes (.announceReceiptTimeout p) s fun t => t.time = s.time ∧ (t.port p).foreign =
      (s.port p).foreign.filter fun r => !s.aged r.at_ (s.annToNs p)) ∧
  (∀ (s : State) (up : Bool) (t1 t2 : Nat) (cs asym : Int) (ep : BitVec 16) (q : List Sample), s.servoOn = true → s.timeRef = 1 →
    s.parentSlave = true → s.time.smpQ = .sync t1 t2 cs asym true ep :: q →
    Completes (.servoSample up) s fun t => t.time = { s.time with smpQ := q, smpBad := s.time.smpBad + 1, smpMark := true }) ∧
  (∀ (s : State) (up : Bool) (t1 t2 : Nat) (cs asym : Int) (ep : BitVec 16) (q : List Sample), s.servoOn = true → s.timeRef = 1 →
    s.parentSlave = true → s.time.smpQ = .sync t1 t2 cs asym false ep :: q → s.beforeStep ep = false →
    Completes (.servoSample up) s fun t => t.time.lastSync = some (t1, t2, cs, ep)) ∧
  (∀ (s : State) (up : Bool) (t1 t2 t3 t4 : Nat) (cs cd : Int) (ep e2 : BitVec 16) (q : List Sample), s.servoOn = true → s.timeRef = 1 →
    s.parentSlave = true → s.time.smpQ = .delay t3 t4 cd false ep :: q → s.beforeStep ep = false →
    s.time.lastSync = some (t1, t2, cs, e2) → s.beforeStep e2 = false → 0 ≤ ((t2 : Int) - t1 - cs) + ((t4 : Int) - t3 - cd) →
    Completes (.servoSample up) s fun t =>
      t.time.delays = (halfOf up (((t2 : Int) - t1 - cs) + ((t4 : Int) - t3 - cd)) :: s.time.delays).take 16) ∧
  (∀ (s : State), s.sourceLate = true → Completes .sourceLost s fun t => t.time.lost = true ∧ t.fld F.TIME_SERVO_STATUS_SOURCE 0 = 0 ∧
      (s.servoOn = true → s.servo = svLocked → t.servo = svHoldover)) ∧
  (∀ (s : State), s.sourceLate = false → Completes .sourceLost s fun t => t = s) ∧
  (∀ (s : State), s.servoOn = true → s.servo = svHoldover →
    s.aged s.time.hoLimAt (s.fld F.TIME_SERVO_CFG2_HO_LIMIT_S 0 * 10 ^ 9) = true →
    Completes .holdoverLimitExpire s fun t => t.servo = svHoldoverLong) ∧
  (∀ (s : State) (r : Req) (v : Word), s.takes r .TIME_SERVO_CTL 0 = true → bits v 0 2 = 2 → s.servoOn = true →
    Completes (.forceFreerun r v) s fun t => t.servo = svFreerun ∧ t.time.inc = incNominal) ∧
  (∀ (s : State) (r : Req) (v : Word), s.takes r .TIME_SERVO_CTL 0 = true → bits v 0 2 = 1 → s.servoOn = true →
    s.histExists = true →
    Completes (.forceHoldover r v) s fun t => t.servo = svHoldover) ∧
  (∀ (s : State) (r : Req) (v : Word), s.takes r .TIME_SERVO_CTL 0 = true → bits v 0 2 = 1 → s.histExists = false →
    Completes (.forceHoldover r v) s fun t => s.turnedBy t F.TIME_STATUS_REJECT 0 ∧ t.servo = s.servo) ∧
  (∀ (s : State) (r : Req) (v : Word), s.takes r .TIME_SERVO_CTL 0 = true → (bits v 0 2 = 0 ∨ bits v 0 2 = 3) →
    s.servoOn = true → s.srcPresent = true → [svFreerun, svHoldover, svHoldoverLong].contains s.servo = true →
    Completes (.forceNone r v) s fun t => t.servo = svAcquiring)

/-- The DPLL's inputs qualify and are lost, its selection changes and it locks. The loss of an input clears its QUAL bit and no other; its
qualification, after its time without loss, sets it, a recovered clock only while its port is UP and PPS_IN only while edges arrive;
before that time nothing changes. A changed selection is shown and raises REF_SWITCH, and takes a DPLL in FREERUN or HOLDOVER to LOCKING
where it names an input. A DPLL locks after 10 s in LOCKING. After 5 s without a PDU an ESMC time-out gives the port QL DNU. (R257, R258,
R259, R260) -/
def Obligations.FrequencyInputsAndSelection : Prop :=
  (∀ (s : State) (i : Fin 4),
    Completes (.dpllInputLoss i) s fun t => ∀ k, k < 4 →
      (t.fld F.TIME_DPLL_STATUS_QUAL 0).testBit k = (decide (k ≠ (i : Nat)) && (s.fld F.TIME_DPLL_STATUS_QUAL 0).testBit k)) ∧
  (∀ (s : State) (i : Fin 4), ((i : Nat) = 0 ∨ ((i : Nat) = 1 ∧ s.time.ppsOk = true) ∨
      (2 ≤ (i : Nat) ∧ s.isUp (s.recPort ((i : Nat) + 1)) = true)) → s.aged (tabGet s.time.inAt 0 i) (s.qualNs i) = true →
    Completes (.dpllInputQualify i) s fun t => ∀ k, k < 4 →
      (t.fld F.TIME_DPLL_STATUS_QUAL 0).testBit k = (decide (k = (i : Nat)) || (s.fld F.TIME_DPLL_STATUS_QUAL 0).testBit k)) ∧
  (∀ (s : State) (i : Fin 4), s.aged (tabGet s.time.inAt 0 i) (s.qualNs i) = false →
    Completes (.dpllInputQualify i) s fun t => t = s) ∧
  (∀ (s : State), s.dpllChoice ≠ s.dpllSel →
    Completes .refSwitch s fun t => t.dpllSel = s.dpllChoice ∧ t.rawFld F.TIME_SVC_EVT_CAUSE_REF_SWITCH 0 = 1 ∧
      (s.dpllChoice ≠ 0 → (s.dpll = dpFreerun ∨ s.dpll = dpHoldover) → t.dpll = dpLocking)) ∧
  (∀ (s : State), s.dpll = dpLocking → s.aged s.time.dpllAt (10 * 10 ^ 9) = true → Completes .dpllLock s fun t => t.dpll = dpLocked) ∧
  (∀ (s : State) (p : Fin 512), s.bit F.TIME_PORT_PTP_ESMC_EN p = true → s.bit F.TIME_PORT_PTP_STATUS_ESMC_TO p = false →
    s.aged (s.port p).esmcAt (5 * 10 ^ 9) = true →
    Completes (.esmcTimeout p) s fun t => t.fld F.TIME_PORT_PTP_STATUS_QL_RX p = qlDnu ∧
      t.bit F.TIME_PORT_PTP_STATUS_ESMC_TO p = true)

/-- PPS edges and time-of-day sentences, received and sent. An edge of PPS_IN is timestamped, and 1.1 s without one clears the qualification
of the input and raises PPS_LOSS. A sentence with bad checksum or syntax raises TOD_BAD and leaves the time service alone; a good one in
its window names the edge and, with PPS_IN as time source, brings its offset and flags. At the edge of a whole second of device time,
once, a pulse of PPS_OUT is sent where the mode asks for it, and its sentence follows TOD_DELAY_MS later. (R253, R257, R261, R262, R263) -/
def Obligations.PulsesAndTimeOfDay : Prop :=
  (∀ (s : State) (sub : Nat), Completes (.ppsInEdge sub) s fun t => t.time.ppsEdge = some (s.now16 + sub) ∧ t.time.ppsOk = true ∧
      t.time.ppsNamed = false ∧ t.time.ppsEp = s.newEpoch) ∧
  (∀ (s : State), s.time.ppsOk = true → s.aged s.time.ppsAt 1100000000 = true → Completes .ppsLoss s fun t => t.time.ppsOk = false ∧
      (t.fld F.TIME_DPLL_STATUS_QUAL 0).testBit 1 = false ∧ t.rawFld F.TIME_SVC_EVT_CAUSE_PPS_LOSS 0 = 1) ∧
  (∀ (s : State) (l : List Byte), s.bit F.TIME_OUT_CFG_TOD_RX_EN 0 = true → todParse l = none →
    Completes (.todSentenceReceive l) s fun t => t.rawFld F.TIME_SVC_EVT_CAUSE_TOD_BAD 0 = 1 ∧ t.time = s.time) ∧
  (∀ (s : State) (l : List Byte) (e : Nat) (x : Tod), s.bit F.TIME_OUT_CFG_TOD_RX_EN 0 = true → s.time.ppsEdge = some e →
    todParse l = some x → 655360000000 ≤ s.now16 - e → s.now16 - e ≤ 58982400000000 → x.valid ≠ 0 →
    (x.flags.testBit 3 || x.flags.testBit 4) = true →
    Completes (.todSentenceReceive l) s fun t => t.time.ppsNamed = true ∧ t.time.ppsMiss = 0 ∧
      (s.timeRef = 2 → s.time.ppsNamed = false → t.time.utc = x.utc ∧ t.time.tflags = x.flags ∧ t.time.gmClass = x.cls)) ∧
  (∀ (s : State), s.time.running = true → s.edgeNear = true → s.time.edgeS ≠ some s.edgeSec → (s.fld F.TIME_OUT_CFG_PPS_MODE 0 = 1 ∨
      (2 ≤ s.fld F.TIME_OUT_CFG_PPS_MODE 0 ∧ (s.servo = svLocked ∨ s.servo = svHoldover))) →
    Completes .ppsOutEdge s fun t => t.out = .pps (s.fld F.TIME_OUT_CFG_PPS_WIDTH_MS 0) :: s.out ∧ t.time.lastEdgeS = some s.edgeSec ∧
      t.time.edgeS = some s.edgeSec) ∧
  (∀ (s : State) (sec : Nat), s.time.lastEdgeS = some sec → s.bit F.TIME_OUT_CFG_TOD_TX_EN 0 = true →
    s.aged s.time.edgeAt (s.fld F.TIME_OUT_CFG_TOD_DELAY_MS 0 * 1000000) = true →
    Completes .todSentenceSend s fun t => t.out = .tod (s.todSentence sec) :: s.out ∧ t.time.lastEdgeS = none)

/-- A tally is issued once in its second, and its signature puts it into the ring and its parts on their way. Where tallies are enabled and
can be signed, one that is due, asked for or by the period, takes at the edge of a second in which none was issued the next SEQ and waits
for its signature. The signature of the oldest puts the body followed by 4,627 octets at its place of the ring of 16, and queues the
datagram payloads. A clause rests on the choice of log entry 56. (R264, R265, R267, R400) -/
def Obligations.TalliesAreIssuedAndSigned : Prop :=
  (∀ (s : State), s.bit F.TIME_TALLY_CFG_TALLY_EN 0 = true → s.time.running = true → s.zolOn = true → s.secUp = true →
    s.edgeNear = true → (s.time.tallyReq = some s.edgeSec ∨ s.edgeSec % s.fld F.TIME_TALLY_CFG_PERIOD_S 0 = 0) → s.time.tallyS ≠ some s.edgeSec →
    Completes .tallyIssue s fun t => t.time.tallySeq = s.time.tallySeq + 1 ∧ t.time.tallyReq = none ∧
      t.time.tallyS = some s.edgeSec ∧
      (∃ bound, t.time.tallyQ = s.time.tallyQ ++ [(s.fld F.TIME_TALLY_CFG_CHUNK 0, s.tallyBody s.edgeSec bound)]) ∧
      t.rawFld F.TIME_TALLY_STATUS_SEQ 0 = (s.time.tallySeq + 1) % 2 ^ F.TIME_TALLY_STATUS_SEQ.w) ∧
  (∀ (s : State) (c : Nat) (body : List Byte) (rest : List (Nat × List Byte)), s.halted = false → s.time.tallyQ = (c, body) :: rest →
    s.clk.soft.contains unitSec = false →
    Completes .tallySigned s fun t => t.time.tallyQ = rest ∧ ∃ sig : List Byte, sig.length = 4627 ∧
      tabGet t.time.tallyRing [] ((beAt body 0x10 4 - 1) % 16) = body ++ sig ∧
      t.time.tallyParts = s.time.tallyParts ++ tallyDatagrams c (beAt body 0x10 4) (beAt body 8 8) (body ++ sig))

/-- Carving, the grant of a buffer to the one waiting request, and legal and illegal frees. A carve in SETUP or PROVING with every buffer free
takes the sizes; sizes that break a rule raise CARVE_ERR and leave the pools; in another mode, or with a buffer in use, it is rejected. A
sole waiting request that finds a buffer and descriptors, and from an aisle neither XOFF nor a full shared region, takes the buffer of the
smallest pool that serves it: ALLOCATED, the next GEN, its final owner the last destination, SHARERS one less than its copies, and one
buffer less in its pool. A free by a copy that is not the final one takes a sharer away; the final owner's free of a buffer without
sharers makes it FREE, with its GEN and its last owner kept, and returns it; of a buffer with sharers it parks it, and the last sharer's
free of a parked one makes it FREE. A free of a FREE buffer, with another GEN, by a port and queue that is not the final owner, of a
parked buffer by the owner, or by a copy where no sharer is left is illegal, counted, and leaves the buffer alone. The free of the copy on
a port's line, once its frame has wholly arrived, ends the transmission, and the frame leaves an UP port. The clauses rest on the choices
of log entries 12 and 36. (R11, R174, R176, R178, R181, R183, R186) -/
def Obligations.BuffersAreCarvedGrantedAndFreed : Prop :=
  (∀ (s : State) (r : Req) (v : Word), s.takes r .SWC_CTL 0 = true → v.getLsbD 0 = true →
    (s.opMode = modeSetup ∨ s.opMode = modeProving) → s.allFree = true → s.carveBad = false →
    Completes (.carve r v) s fun t => t.carved = true ∧ t.bit F.SWC_STATUS_CARVE_ERR 0 = false ∧
      ∀ k, k < 4 → t.poolTotal k = poolBuffers k (s.fld F.SWC_POOL_CFG_SIZE_MIB k) ∧ t.poolFree k = t.poolTotal k) ∧
  (∀ (s : State) (r : Req) (v : Word), s.takes r .SWC_CTL 0 = true → v.getLsbD 0 = true →
    ¬ ((s.opMode = modeSetup ∨ s.opMode = modeProving) ∧ s.allFree = true) →
    Completes (.carve r v) s fun t => s.turnedBy t F.SWC_STATUS_REJECT 0 ∧ t.carved = s.carved) ∧
  (∀ (s : State) (r : Req) (v : Word), s.takes r .SWC_CTL 0 = true → v.getLsbD 0 = true →
    (s.opMode = modeSetup ∨ s.opMode = modeProving) → s.allFree = true → s.carveBad = true →
    Completes (.carve r v) s fun t => t.bit F.SWC_STATUS_CARVE_ERR 0 = true ∧ t.carved = s.carved ∧ t.evt.turned = s.evt.turned + 1 ∧
      ∀ k, k < 4 → t.poolTotal k = s.poolTotal k ∧ t.poolFree k = s.poolFree k) ∧
  (∀ (s : State) (r : AllocReq) (k : Packet) (j pick : Nat), s.halted = false → s.carved = true → s.clk.soft.contains unitSwc = false →
    s.swc.waits = [r] → s.packet r.fid = some k → (k.frame.lastIn = false ∨ k.frame.fcsOk = true) → k.toPe = none →
    (List.range 4).find? (fun j => decide (k.pool ≤ j) && !s.poolEmpty r.aisle.isSome j) = some j →
    k.dests.length + (if r.aisle.isSome then 4096 else 0) ≤ s.fld F.SWC_DESC_FREE_FREE 0 →
    (r.aisle.isSome = true → s.xoff k.frame.port k.prio = false ∧ (poolSize j : Int) ≤ s.sharedFree) →
    Completes (.bufferAllocate [pick]) s fun t =>
      let h := j * 2 ^ 21 + s.pickIndex j pick
      (t.buf h).st = 1 ∧ (t.buf h).gen = (s.buf h).gen + 1 ∧ (t.buf h).ownPort = k.dests.getLastD 0 ∧ (t.buf h).ownQ = k.queue ∧
      (t.buf h).sharers = k.dests.length - 1 ∧ t.poolFree j = s.poolFree j - 1 ∧ t.packet r.fid = none ∧ t.swc.waits = []) ∧
  (∀ (s : State) (p : Fin 512) (q : Fin 10) (h : Nat), s.halted = false → (s.port p).tx = none → (s.buf h).st ≠ 0 → (1 < (s.buf h).sharers ∨ (s.buf h).st = 1 ∧ (s.buf h).sharers = 1) →
    Completes (.bufferFree p q h (s.buf h).gen false) s fun t => t.buf h = { s.buf h with sharers := (s.buf h).sharers - 1 } ∧
      t.poolFree (poolOf h) = s.poolFree (poolOf h)) ∧
  (∀ (s : State) (p : Fin 512) (q : Fin 10) (h : Nat), s.halted = false → (s.port p).tx = none → (s.buf h).st = 1 → (s.buf h).sharers = 0 →
    (s.buf h).ownPort = p → (s.buf h).ownQ = q →
    Completes (.bufferFree p q h (s.buf h).gen true) s fun t => t.buf h = { gen := (s.buf h).gen, ownPort := (s.buf h).ownPort, ownQ := (s.buf h).ownQ } ∧
      t.poolFree (poolOf h) = (s.poolFree (poolOf h) + 1) % 2 ^ 21) ∧
  (∀ (s : State) (p : Fin 512) (q : Fin 10) (h : Nat), s.halted = false → (s.port p).tx = none → (s.buf h).st = 1 → 0 < (s.buf h).sharers →
    (s.buf h).ownPort = p → (s.buf h).ownQ = q →
    Completes (.bufferFree p q h (s.buf h).gen true) s fun t => t.buf h = { s.buf h with st := 2 } ∧
      t.poolFree (poolOf h) = s.poolFree (poolOf h)) ∧
  (∀ (s : State) (p : Fin 512) (q : Fin 10) (h : Nat), s.halted = false → (s.port p).tx = none → (s.buf h).st = 2 → (s.buf h).sharers = 1 →
    Completes (.bufferFree p q h (s.buf h).gen false) s fun t => t.buf h = { gen := (s.buf h).gen, ownPort := (s.buf h).ownPort, ownQ := (s.buf h).ownQ } ∧
      t.poolFree (poolOf h) = (s.poolFree (poolOf h) + 1) % 2 ^ 21) ∧
  (∀ (s : State) (p : Fin 512) (q : Fin 10) (h : Nat) (g : BitVec 4) (f : Bool), s.halted = false → (s.port p).tx = none →
    ((s.buf h).st = 0 ∨ (s.buf h).gen ≠ g ∨ (f = false ∧ (s.buf h).sharers = 0) ∨
      (f = true ∧ ((s.buf h).ownPort ≠ p ∨ (s.buf h).ownQ ≠ q ∨ (s.buf h).st = 2))) →
    Completes (.bufferFree p q h g f) s fun t => t.buf h = s.buf h ∧ t.poolFree (poolOf h) = s.poolFree (poolOf h) ∧
      t.cntOf (cntKey 0x38 0x300000 0) = s.cntOf (cntKey 0x38 0x300000 0) + 1 ∧ t.bit F.SWC_ILLFREE_CAP0_VALID 0 = true) ∧
  (∀ (s : State) (p : Fin 512) (q : Fin 10) (x : Tx), s.halted = false → (s.port p).tx = some x → x.q = q → (s.buf x.desc.handle).frame.lastIn = true →
    Completes (.bufferFree p q x.desc.handle x.desc.gen x.desc.final) s fun t => (t.port p).tx = none ∧
      (s.isUp p = true → ∃ data bad, .frame p data bad ∈ t.out))

/-- The threshold is recomputed with XOFF, and the queue depths are published to every quarter. A recompute takes the threshold of the
balances as they stand and sets XOFF of every port and priority whose shared use has reached it, and clears XOFF of those that use no
headroom and lie two maximum frames below it. A publication gives every quarter the present depth in bytes of every queue. (R184, R187,
R188) -/
def Obligations.ThresholdsAndDepthsArePublished : Prop :=
  (∀ (s : State), s.halted = false → s.carved = true → s.clk.soft.contains unitSwc = false →
    Completes .thresholdRecompute s fun t => t.swc.thresh = s.newThreshold ∧
      ∀ p i, p < 512 → i < 8 → s.starts p = true →
        (s.newThreshold ≤ (s.port p).sh i → t.xoff p i = true) ∧
        (s.newThreshold ≠ 0 → (s.port p).hr i = 0 → (s.port p).sh i + 20480 ≤ s.newThreshold → t.xoff p i = false)) ∧
  (∀ (s : State), s.halted = false → (∀ e ∈ s.ports, ∀ x ∈ e.2.queues, x.1 < 9) →
    Completes .queueDepthPublish s fun t => ∀ q, q < 4 → ∀ p k, k < 9 → tabGet (t.qtr q).depthPub 0 (p * 9 + k) = s.depth p k)

/-- The scheduler starts the frame it selects, the clearance of QT closes and opens, and the samplers sample and clear. A port whose line is
free starts the oldest frame of the queue that the selection names, charges its length and takes it off the queue; a frame older than the
age limit, or an event frame older than 1 ms, is dropped instead; with nothing selected it sends nothing. The clearance closes the queues
below QT where a PTP transmission is due and no more than the lead is left before the port's visit; it opens 640 ns after the visit
started where no QT frame posted in it waits, and not before the visit. At each sample instant every queue of a port takes a sample of its
depth and of the age of its first frame, and at no other time; a write with CLEAR bits restarts those samplers. The clauses rest on the
choices of log entries 90 and 122. (R203, R205, R216, R220, R221) -/
def Obligations.SchedulerStartsAFrame : Prop :=
  (∀ (s : State) (p : Fin 512) (pos : Fin 8) (sub q : Nat) (mp : Bool) (d : Desc) (r : List Desc), (s.port p).tx = none →
    s.starts p = true → s.halted = false → s.clk.soft.contains unitSch = false →
    (s.select p (s.stallTime sub) (s.refilled p (s.coreNow sub))).1 = some (q, mp) →
    (tabGet (s.select p (s.stallTime sub) (s.refilled p (s.coreNow sub))).2.queues {} q).d = d :: r →
    Completes (.schedulerSelect p pos sub) s fun t => (tabGet (t.port p).queues {} q).d = r ∧
      let age := s.stallTime sub - (s.buf d.handle).frame.tIn
      let most := s.fld F.SWC_PORT_CFG_MAX_AGE_US p
      if ((s.buf d.handle).pkt.isEvent = true ∧ 65536000000 < age) ∨ (0 < most ∧ most * 65536000 < age) then
        (t.port p).tx = none ∧ t.rawFld F.SWC_EVT_CAUSE_AGED (aisleOf p) = 1
      else (t.port p).tx.map (fun x => (x.q, x.desc, x.charged)) = some (q, d, s.copyLen d)) ∧
  (∀ (s : State) (p : Fin 512) (pos : Fin 8) (sub : Nat), (s.port p).tx = none → s.starts p = true → s.halted = false →
    s.clk.soft.contains unitSch = false → (s.select p (s.stallTime sub) (s.refilled p (s.coreNow sub))).1 = none →
    Completes (.schedulerSelect p pos sub) s fun t => (t.port p).tx = none ∧ t.out = s.out) ∧
  (∀ (s : State) (p : Fin 512), s.halted = false → s.starts p = true → s.bit F.SCH_PORT_CFG_QT_CLEAR_EN p = true → s.ptpDue p = true →
    (s.port p).qtClosed = false → (s.time.running = false ∨ s.visitNs p ≤ s.fld F.SCH_PORT_CFG_QT_LEAD_NS p) →
    Completes (.qtClearClose p) s fun t => (t.port p).qtClosed = true ∧ (t.gates p t.nowNs).toNat % 256 = 0) ∧
  (∀ (s : State) (p : Fin 512) (w : Nat), s.halted = false → (s.port p).qtClosed = true → s.qtWaits p = false →
    (s.port p).qtAt = some w → s.aged w 640 = true →
    Completes (.qtClearReopen p) s fun t => t.port p = { s.port p with qtClosed := false, qtAt := none, qtPost := none }) ∧
  (∀ (s : State) (p : Fin 512), (s.port p).qtAt = none → Completes (.qtClearReopen p) s fun t => t = s) ∧
  (∀ (s : State) (p : Fin 512) (w : Nat), s.halted = false → s.starts p = true → s.sampInstant p = some w → (s.port p).sampT ≠ some w →
    Completes (.latencySample p) s fun t => (t.port p).sampT = some w ∧ ∀ q, q < 9 →
      (tabGet (t.port p).queues {} q).samp = (tabGet (s.port p).queues {} q).samp.add (s.depth p q)
        (match (tabGet (s.port p).queues {} q).d with
          | [] => 0
          | d :: _ => (w * 65536 - (s.buf d.handle).frame.tIn) / 65536)
        (s.fld F.SCH_SAMP_CFG_BIN_NS p)) ∧
  (∀ (s : State) (p : Fin 512), (s.sampInstant p = none ∨ s.sampInstant p = (s.port p).sampT) →
    Completes (.latencySample p) s fun t => t = s) ∧
  (∀ (s : State) (r : Req) (p : Fin 512) (v : Word), s.takes r .SCH_SAMP_CTL p = true → s.starts p = true →
    Completes (.samplerClear r p v) s fun t => ∀ q, q < 9 →
      (tabGet (t.port p).queues {} q).samp =
        if v.getLsbD q then { dLast := (tabGet (s.port p).queues {} q).samp.dLast, sLast := (tabGet (s.port p).queues {} q).samp.sLast }
        else (tabGet (s.port p).queues {} q).samp)

/-- Hours lists arm, are cancelled, switch, stop and show their gates. At a position that starts a port: ARM of a port with nothing armed
takes the list if its checks pass, with the start that the late-start rule gives, and is rejected with the code of the check that fails;
an armed list is cancelled by CANCEL; a running one is stopped by STOP; each is rejected where it does not apply. At its start the armed
list runs in the other slot. An edge of the list shows the gates now open. At a position that starts no port none of them changes the
status or the lists. The clauses rest on the choices of log entries 47 and 130. (R11, R214, R215, R217, R218, R223) -/
def Obligations.HoursListsArmSwitchAndStop : Prop :=
  (∀ (s : State) (r : Req) (p : Fin 512) (v : Word), s.takes r .SCH_HL_CTL p = true → s.starts p = true →
    v.getLsbD 0 = true →
    Completes (.hlArm r p v) s fun t =>
      if s.bit F.SCH_HL_STATUS_ARMED p then s.turnedBy t F.SCH_STATUS_REJECT 0
      else match s.armCheck p with
        | some c => t.rawFld F.SCH_STATUS_REJECT 0 = c ∧ t.bit F.SCH_HL_STATUS_ARMED p = false
        | none => t.bit F.SCH_HL_STATUS_ARMED p = true ∧
          (t.port p).armStart = (lateStart (s.hlBaseW p) (s.fld F.SCH_HL_CYCLE_CYCLE_NS p) s.now16).1 ∧
          t.bit F.SCH_HL_STATUS_LATE_START p = (lateStart (s.hlBaseW p) (s.fld F.SCH_HL_CYCLE_CYCLE_NS p) s.now16).2) ∧
  (∀ (s : State) (r : Req) (p : Fin 512) (v : Word), s.takes r .SCH_HL_CTL p = true → s.starts p = true →
    v.getLsbD 1 = true →
    Completes (.hlCancel r p v) s fun t => t.bit F.SCH_HL_STATUS_ARMED p = false ∧
      (s.bit F.SCH_HL_STATUS_ARMED p = false → s.turnedBy t F.SCH_STATUS_REJECT 0)) ∧
  (∀ (s : State) (r : Req) (p : Fin 512) (v : Word), s.takes r .SCH_HL_CTL p = true → s.starts p = true →
    v.getLsbD 2 = true →
    Completes (.hlStop r p v) s fun t => t.bit F.SCH_HL_STATUS_RUNNING p = false ∧
      (s.bit F.SCH_HL_STATUS_RUNNING p = false → s.turnedBy t F.SCH_STATUS_REJECT 0)) ∧
  (∀ (s : State) (p : Fin 512), s.halted = false → s.starts p = true → s.bit F.SCH_HL_STATUS_ARMED p = true → (s.port p).armStart ≤ s.nowNs →
    Completes (.hlSwitch p) s fun t => t.bit F.SCH_HL_STATUS_ACTIVE_SLOT p = !s.bit F.SCH_HL_STATUS_ACTIVE_SLOT p ∧
      t.bit F.SCH_HL_STATUS_RUNNING p = true ∧ t.bit F.SCH_HL_STATUS_ARMED p = false ∧ (t.port p).hlBase = (s.port p).armStart ∧
      (t.port p).hlCycle = (s.port p).armCycle ∧ (t.port p).hlCount = (s.port p).armCount) ∧
  (∀ (s : State) (p : Fin 512), s.halted = false → s.starts p = true →
    Completes (.gateEdge p) s fun t => t.fld F.SCH_HL_STATUS_GATES p = (s.gates p s.nowNs).toNat) ∧
  (∀ (s : State) (r : Req) (p : Fin 512) (v : Word), s.takes r .SCH_HL_CTL p = true → s.starts p = false →
    Completes (.hlArm r p v) s (fun t => t.port p = s.port p ∧ t.raw .SCH_HL_STATUS p = s.raw .SCH_HL_STATUS p) ∧
    Completes (.hlCancel r p v) s (fun t => t.port p = s.port p ∧ t.raw .SCH_HL_STATUS p = s.raw .SCH_HL_STATUS p) ∧
    Completes (.hlStop r p v) s (fun t => t.port p = s.port p ∧ t.raw .SCH_HL_STATUS p = s.raw .SCH_HL_STATUS p)) ∧
  (∀ (s : State) (p : Fin 512), s.halted = false → s.starts p = false →
    Completes (.hlSwitch p) s (fun t => t = s) ∧ Completes (.gateEdge p) s (fun t => t = s))

/-- The next position of the ageing sweep of a quarter is due, or one waits for room in the learn FIFO; a sweep comes once in PERIOD. -/
def ageDueNow (s : State) (q : Nat) : Bool :=
  !s.time.running || (s.qtr q).ageWait || decide ((s.qtr q).ageDue ≤ s.runNs * sweepEnd)

/-- Crier notes travel and are applied; migration, ageing, flushes and the flowlet sweep. Outside SEALED a quarter sends the oldest note of
its learn FIFO with its next SEQ to the three other quarters and the management station, and the next SEQ counts modulo 2,048. A station
takes the notes of a sender in order; one with a ring parity error is discarded with no other effect on the quarter; a FLUSH note adds its
port to the flush set and moves the expected SEQ on; the management station logs the note. START takes the next seeds and sets MIGRATING,
and is rejected during a migration, whose end makes those seeds current and flips GEN. A visit of the ageing sweep to a stash slot deletes
a dynamic entry of the quarter's own ports whose AGE is 1, with a REMOVE note, and lowers the AGE of an older one; an entry that was
refreshed while its note waited for room keeps its AGE; a position with nothing of the quarter to age is passed; before the position is
due nothing changes. GO flushes a port of the quarter and is rejected for another port or while a flush is busy; the walk takes the whole
flush set and deletes every dynamic MAC entry of its ports that it passes, at its start (log 143); its end raises FLUSH_DONE and counts
its ports. The flowlet sweep drops the entries idle for more than 1 s. The clauses rest on the choices of log entries 23 and 143. (R11,
R85, R87, R88, R89, R90, R91, R92, R96, R100) -/
def Obligations.CrierAndLedgerMaintenance : Prop :=
  (∀ (s : State) (q : Fin 4) (n : Note) (r : List Note), s.halted = false → (s.qtr q).fifo = n :: r → (s.qtr q).flushWait = [] →
    s.clk.soft.contains (unitQtr q) = false → s.opMode ≠ modeSealed →
    Completes (.crierNoteSend q) s fun t => (t.qtr q).fifo = r ∧ (t.qtr q).seqNext = ((s.qtr q).seqNext + 1) % 2048 ∧
      t.pe.inNotes = s.pe.inNotes ++ [{ n with seq := (s.qtr q).seqNext }] ∧
      ∀ k, k < 4 → k ≠ (q : Nat) → (t.qtr k).inNotes = (s.qtr k).inNotes ++ [{ n with seq := (s.qtr q).seqNext }]) ∧
  (∀ (s : State) (k : Fin 4) (n : Note) (r : List Note) (ok : Bool), s.halted = false → takeNote k s.pe.inNotes = some (n, r) →
    Completes (.crierNoteReceive 4 k ok) s fun t => t.pe.inNotes = r ∧ t.pe.learnLog = if ok then n :: s.pe.learnLog else s.pe.learnLog) ∧
  (∀ (s : State) (m : Fin 5) (k : Fin 4) (n : Note) (r : List Note), s.halted = false → (m : Nat) < 4 → takeNote k (s.qtr m).inNotes = some (n, r) →
    Completes (.crierNoteReceive m k false) s fun t => t.qtr m = { s.qtr m with inNotes := r }) ∧
  (∀ (s : State) (m : Fin 5) (k : Fin 4) (n : Note) (r : List Note), s.halted = false → (m : Nat) < 4 → takeNote k (s.qtr m).inNotes = some (n, r) →
    n.typ = 3 → s.opMode ≠ modeSealed →
    Completes (.crierNoteReceive m k true) s fun t => (t.qtr m).inNotes = r ∧ n.port ∈ (t.qtr m).flushSet ∧
      tabGet (t.qtr m).expSeq 0 ((k : Nat) + 1) = (n.seq + 1) % 2048) ∧
  (∀ (s : State) (r : Req) (q : Fin 4) (v : Word), s.takes r .QTR_REHASH_CTL q = true → v.getLsbD 0 = true →
    Completes (.rehashStart r q v) s fun t => t.bit F.QTR_LDG_STATUS_MIGRATING q = true ∧
      (if s.bit F.QTR_LDG_STATUS_MIGRATING q then s.turnedBy t F.QTR_STATUS_REJECT q
       else (t.qtr q).migA = s.raw .QTR_LDG_SEED_NEXT_A q ∧ (t.qtr q).migB = s.raw .QTR_LDG_SEED_NEXT_B q)) ∧
  (∀ (s : State) (q : Fin 4), s.halted = false → s.bit F.QTR_LDG_STATUS_MIGRATING q = true →
    Completes (.rehashDone q) s fun t => t.raw .QTR_LDG_SEED_A q = (s.qtr q).migA ∧ t.raw .QTR_LDG_SEED_B q = (s.qtr q).migB ∧
      t.fld F.QTR_LDG_STATUS_GEN q = 1 - s.fld F.QTR_LDG_STATUS_GEN q ∧ t.bit F.QTR_LDG_STATUS_MIGRATING q = false ∧
      t.rawFld F.QTR_EVT_CAUSE_REHASH_DONE q = 1) ∧
  (∀ (s : State) (q : Fin 4) (k : Nat), s.halted = false → s.learnMode = true → 0 < s.fld F.QTR_AGE_CFG_PERIOD q → s.padlocked 12 = false →
    s.clk.soft.contains (unitQtr q) = false → (s.qtr q).agePos = 131072 + k → k < 64 → (s.qtr q).ageWay = 0 →
    ((s.copyOf q).at (stashBase + k)).dynMac = true → quarterOf (((s.copyOf q).at (stashBase + k)).value % 512) = q →
    (s.qtr q).noRoom = false → ageDueNow s q = true →
    Completes (.ageingVisit q) s fun t => (t.qtr q).agePos = (131072 + k + 1) % sweepEnd ∧
      if ((s.copyOf q).at (stashBase + k)).age = 1 then
        (t.copyOf q).at (stashBase + k) = {} ∧ (∃ n, (t.qtr q).fifo = (s.qtr q).fifo ++ [n] ∧ n.typ = 2 ∧ n.quarter = (q : Nat))
      else (t.copyOf q).at (stashBase + k) = (if (s.qtr q).ageWait then (s.copyOf q).at (stashBase + k)
        else ((s.copyOf q).at (stashBase + k)).setAge (((s.copyOf q).at (stashBase + k)).age - 1))) ∧
  (∀ (s : State) (q : Fin 4), s.halted = false → s.learnMode = true → 0 < s.fld F.QTR_AGE_CFG_PERIOD q → s.padlocked 12 = false →
    s.clk.soft.contains (unitQtr q) = false → (s.qtr q).ageWay = 0 →
    (∀ p ∈ sweepPlaces (s.qtr q).agePos, ((s.copyOf q).at p).dynMac = false ∨ quarterOf (((s.copyOf q).at p).value % 512) ≠ q) → ageDueNow s q = true →
    Completes (.ageingVisit q) s fun t =>
      t.qtr q = { s.qtr q with
        agePos := ((s.qtr q).agePos + 1) % sweepEnd, ageWay := 0, ageWait := false
        ageDue := (s.qtr q).nextDue (s.runNs * sweepEnd) (s.ageStep q) }) ∧
  (∀ (s : State) (q : Fin 4), ageDueNow s q = false → Completes (.ageingVisit q) s fun t => t = s) ∧
  (∀ (s : State) (r : Req) (q : Fin 4) (v : Word), s.takes r .QTR_FLUSH q = true → v.getLsbD 9 = true →
    (quarterOf (bits v 0 9) ≠ q ∨ s.flushBusy q = true) →
    Completes (.qtrFlushGo r q v) s fun t => s.turnedBy t F.QTR_STATUS_REJECT q ∧ t.qtr q = s.qtr q) ∧
  (∀ (s : State) (r : Req) (q : Fin 4) (v : Word), s.takes r .QTR_FLUSH q = true → v.getLsbD 9 = true →
    quarterOf (bits v 0 9) = q → s.flushBusy q = false → s.opMode ≠ modeSealed → (s.qtr q).fifo.length < 256 →
    Completes (.qtrFlushGo r q v) s fun t => (t.qtr q).flushSet = [bits v 0 9] ∧
      (∃ n, (t.qtr q).fifo = (s.qtr q).fifo ++ [n] ∧ n.typ = 3 ∧ n.port = bits v 0 9)) ∧
  (∀ (s : State) (q : Fin 4), s.halted = false → (s.qtr q).walking = none → (s.qtr q).flushSet ≠ [] → s.padlocked 12 = false → s.opMode ≠ modeSealed →
    Completes (.flushWalkStart q) s fun t => (t.qtr q).walking = some (s.qtr q).flushSet ∧ (t.qtr q).flushSet = [] ∧
      (∀ e ∈ (t.qtr q).ways, e.2.dynMac = true → (s.qtr q).flushSet.contains (e.2.value % 512) = false) ∧
      (∀ e ∈ (t.qtr q).stash, e.2.dynMac = true → (s.qtr q).flushSet.contains (e.2.value % 512) = false)) ∧
  (∀ (s : State) (q : Fin 4) (ports : List Nat), s.halted = false → (s.qtr q).walking = some ports → s.padlocked 12 = false →
    Completes (.flushDone q) s fun t => (t.qtr q).walking = none ∧ t.rawFld F.QTR_EVT_CAUSE_FLUSH_DONE q = 1 ∧
      t.cntOf (cntKey 0x18 (2 * (q : Nat) + 1) 1) = s.cntOf (cntKey 0x18 (2 * (q : Nat) + 1) 1) + BitVec.ofNat 48 ports.length) ∧
  (∀ (s : State) (q : Fin 4), s.halted = false →
    Completes (.flowletSweep q) s fun t => ∀ e, e ∈ (t.qtr q).flow ↔
      e ∈ (s.qtr q).flow ∧ (BitVec.ofNat 32 s.nowNs - e.2.last).toNat ≤ 1000000000)

/-- The dispatch entry that a fetch reads, where it reads one, is valid (R143). -/
abbrev dispOk (f : Fetch) : Bool := match f.disp with | some d => d.2.getLsbD 15 | none => true

/-- One microword of an engine, its parity check, its overrun and its illegal operations. An engine that may run fetches by way of the
dispatch entry, at the start of a routine, and of the trap entry that redirects the address. A word of good parity, reached by entries of
good parity, that is legal and does not wait takes one cycle; with BOP 0 the next address follows; with an ALU operation that writes a G
register and no extract, that register takes the result. A word that waits for a call takes a cycle and stays. A word whose parity fails
holds the engine there and flags the address; a flagged address holds the engine; a dispatch entry that is not valid runs no routine and
counts; a routine at its limit, or an illegal operation, ends as ABORT outcome 2. The clauses rest on the choices of log entries 42, 43
and 147. (R133, R134, R135, R136, R137, R138, R142, R143, R147, R149, R155) -/
def Obligations.EnginesRunMicrowords : Prop :=
  (∀ (s : State) (e : Eng), s.halted = false → s.engineOn e = true →
    let g := s.engine e
    let m := s.store (engStore e)
    let f := g.fetch (engPe e)
    let x := m.word (engPe e) f.at_
    m.bad.contains f.at_ = false → g.cycles < cycleLimit (engPe e) → f.entryBad false = false → dispOk f = true → badGroups x = 0 →
    g.stalls x = false → g.illegal (engPe e) x = false → mw x 188 4 = 0 →
    Completes (.microwordExecute e 0) s fun t => (t.engine e).pc = BitVec.ofNat 13 ((f.pc + 1) % 2 ^ 13) ∧
      (t.engine e).cycles = g.cycles + 1 ∧ (t.engine e).fin = 0 ∧ (t.engine e).run = true ∧ (t.engine e).disp = none ∧
      (mw x 162 6 ≠ 0 → mw x 162 6 ≠ 10 → mw x 157 5 < 20 → mw x 117 3 = 0 →
        tabGet (t.engine e).g 0 (mw x 157 5) = (alu (mw x 162 6) (g.read x (mw x 152 5)) (g.read x (mw x 147 5))).1)) ∧
  (∀ (s : State) (e : Eng), s.halted = false → s.engineOn e = true →
    let g := s.engine e
    let m := s.store (engStore e)
    let f := g.fetch (engPe e)
    m.bad.contains f.at_ = false → g.cycles < cycleLimit (engPe e) → f.entryBad false = false → dispOk f = true →
    badGroups (m.word (engPe e) f.at_) = 0 → g.stalls (m.word (engPe e) f.at_) = true →
    Completes (.microwordExecute e 0) s fun t => (t.engine e).pc = BitVec.ofNat 13 f.pc ∧ (t.engine e).cycles = g.cycles + 1 ∧
      t.cntOf (cntKey 0x1B (2 * engStore e) 1) = s.cntOf (cntKey 0x1B (2 * engStore e) 1) + 1) ∧
  (∀ (s : State) (e : Eng) (up : Nat), s.halted = false → s.engineOn e = true →
    let g := s.engine e
    let m := s.store (engStore e)
    let f := g.fetch (engPe e)
    m.bad.contains f.at_ = false → g.cycles < cycleLimit (engPe e) → up.testBit 200 = false → f.entryBad false = false →
    dispOk f = true → badGroups (m.word (engPe e) f.at_ ^^^ BitVec.ofNat 200 up) ≠ 0 →
    Completes (.microwordExecute e up) s fun t => (t.engine e).held = some (BitVec.ofNat 13 f.at_) ∧
      (t.store (engStore e)).bad.contains f.at_ = true ∧ (t.store (engStore e)).resumeTmr = true) ∧
  (∀ (s : State) (e : Eng) (up : Nat), s.halted = false → s.engineOn e = true →
    (s.store (engStore e)).bad.contains ((s.engine e).fetch (engPe e)).at_ = true →
    Completes (.microwordExecute e up) s fun t =>
      t.engine e = { s.engine e with held := some (BitVec.ofNat 13 ((s.engine e).fetch (engPe e)).at_) }) ∧
  (∀ (s : State) (e : Eng), s.halted = false → s.engineOn e = true →
    let g := s.engine e
    let f := g.fetch (engPe e)
    (s.store (engStore e)).bad.contains f.at_ = false → g.cycles < cycleLimit (engPe e) → f.entryBad false = false → dispOk f = false →
    Completes (.microwordExecute e 0) s fun t => (t.engine e).run = false ∧ (t.engine e).fin = 3 ∧
      t.cntOf (cntKey 0x1B (2 * engStore e) 4) = s.cntOf (cntKey 0x1B (2 * engStore e) 4) + 1) ∧
  (∀ (s : State) (e : Eng), s.halted = false → s.engineOn e = true →
    let g := s.engine e
    let m := s.store (engStore e)
    let f := g.fetch (engPe e)
    m.bad.contains f.at_ = false →
    (cycleLimit (engPe e) ≤ g.cycles ∨
      (f.entryBad false = false ∧ dispOk f = true ∧ badGroups (m.word (engPe e) f.at_) = 0 ∧
        g.stalls (m.word (engPe e) f.at_) = false ∧ g.illegal (engPe e) (m.word (engPe e) f.at_) = true)) →
    Completes (.microwordExecute e 0) s fun t => (t.engine e).fin = 3)

/-- The table calls of the engines: reads bring a result, writes are staged. A call that an engine has issued and that is not held is made
once: NH_READ, RW_READ and BD_READ bring the entry of the engine's own copy, ST_READ the state memory entry, TS_READ the egress timestamp
kept for the index or a miss; COUNT, ST_WRITE, MSG_POST, TIMER_SET and TX_FRAME are staged until the end of the routine. A result that has
come is put in T0 to T3. The clauses rest on the choices of log entries 25 and 44. (R94, R141, R148) -/
def Obligations.TableCallsAreMade : Prop :=
  (∀ (s : State) (e : Eng) (sel i : Nat), s.halted = false → (s.engine e).call = some (1, sel, i) → (s.engine e).held = none →
    Completes (.nhRead e) s fun t => (t.engine e).call = none ∧
      (t.engine e).res = some (words128 (s.flatE (flatKey 5 (engStore e / 4) (i % 2 ^ 18))).toNat) ∧
      (t.engine e).resHit = (s.flatE (flatKey 5 (engStore e / 4) (i % 2 ^ 18))).toNat.testBit 0) ∧
  (∀ (s : State) (e : Eng) (sel i : Nat), s.halted = false → (s.engine e).call = some (2, sel, i) → (s.engine e).held = none →
    Completes (.rwRead e) s fun t => (t.engine e).call = none ∧
      (t.engine e).res = some (words128 (s.flatE (flatKey 11 (engStore e) (i % 2 ^ 16))).toNat)) ∧
  (∀ (s : State) (e : Eng) (sel i : Nat), s.halted = false → (s.engine e).call = some (3, sel, i) → (s.engine e).held = none →
    Completes (.bdRead e) s fun t => (t.engine e).call = none ∧
      (t.engine e).res = some (words128 (s.flatE (flatKey 3 (engStore e / 4) (i % 2 ^ 14))).toNat)) ∧
  (∀ (s : State) (e : Eng) (sel i : Nat), s.halted = false → (s.engine e).call = some (4, sel, i) → (s.engine e).held = none →
    Completes (.count e) s fun t => (t.engine e).call = none ∧ (t.engine e).staged = (s.engine e).staged ++ [(4, sel, i % 2 ^ 16, [])]) ∧
  (∀ (s : State) (sel i : Nat), s.halted = false → s.pe.eng.call = some (8, sel, i) → s.pe.eng.held = none →
    Completes .stRead s fun t => t.pe.eng.call = none ∧ t.pe.eng.res = some (words128 (s.stmE (i % 2 ^ 17)).toNat)) ∧
  (∀ (s : State) (sel i : Nat), s.halted = false → s.pe.eng.call = some (9, sel, i) → s.pe.eng.held = none →
    Completes .stWrite s fun t => t.pe.eng.call = none ∧ t.pe.eng.staged = s.pe.eng.staged ++ [(9, sel, i % 2 ^ 17, s.pe.eng.ts)] ∧
      t.stm = s.stm) ∧
  (∀ (s : State) (sel i : Nat), s.halted = false → s.pe.eng.call = some (10, sel, i) → s.pe.eng.held = none →
    Completes .msgPost s fun t => t.pe.eng.call = none ∧ t.pe.eng.staged = s.pe.eng.staged ++ [(10, sel, i % 2 ^ 17, s.pe.eng.ts)] ∧
      t.pe.msgq = s.pe.msgq) ∧
  (∀ (s : State) (sel i : Nat), s.halted = false → s.pe.eng.call = some (11, sel, i) → s.pe.eng.held = none →
    Completes .timerSet s fun t => t.pe.eng.call = none ∧
      t.pe.eng.staged = s.pe.eng.staged ++ [(11, sel, i % 2 ^ 17, [s.pe.eng.itime + s.pe.eng.imm2])]) ∧
  (∀ (s : State) (sel i : Nat), s.halted = false → s.pe.eng.call = some (12, sel, i) → s.pe.eng.held = none →
    Completes .txFrame s fun t => t.pe.eng.call = none ∧ t.pe.eng.staged = s.pe.eng.staged ++ [(12, sel, i % 2 ^ 17, [])]) ∧
  (∀ (s : State) (sel i : Nat), s.halted = false → s.pe.eng.call = some (13, sel, i) → s.pe.eng.held = none →
    Completes .tsRead s fun t => t.pe.eng.call = none ∧
      match s.pe.txts.find? fun e => e.1 == i % 2 ^ 17 with
      | some e => t.pe.eng.resHit = true ∧ t.pe.eng.res = some (words128 (tsWords e.2.1 e.2.2))
      | none => t.pe.eng.resHit = false) ∧
  (∀ (s : State) (e : Eng) (l : List (BitVec 32)), s.halted = false → (s.engine e).res = some l → l ≠ [] →
    Completes (.tableCallResult e) s fun t => (t.engine e).res = none ∧ (t.engine e).thit = (s.engine e).resHit ∧
      ∀ i, i < 4 → tabGet (t.engine e).t 0 i = l.getD i 0)

/-- END commits, ABORT discards, and a held engine is resumed, its captures popped, its aisle fenced. END frees the engine and commits the
staged writes in order; the packet of a hewer then has its edit plan. ABORT frees it, discards what is staged and is counted; outcome 1 of
a hewer drops the packet. RESUME of a flagged address by a secure master clears the flag and lets the engines held there go on, and of
another address is rejected; POP removes the oldest capture; FENCE fences the aisle, whose ports leave UP; so does a parity machine check
without RESUME in 100 ms; the protocol engine's raises STOPPED; before that time nothing changes. (R11, R148, R149, R155, R156, R158,
R159, R169) -/
def Obligations.RoutinesEndAndMachineChecksResume : Prop :=
  (∀ (s : State) (sel i : Nat) (ws : List (BitVec 32)), s.halted = false → s.pe.eng.run = true → s.pe.eng.fin = 1 → s.pe.eng.call = none →
    s.pe.eng.staged = [(9, sel, i, ws)] →
    Completes (.endRoutine .pe) s fun t => t.pe.eng.run = false ∧
      t.stmE i = BitVec.ofNat 128 (ws.foldl (fun a x => a * 2 ^ 32 + x.toNat) 0)) ∧
  (∀ (s : State) (a : Fin 16) (h : Fin 32) (k : Packet), s.halted = false → (s.engine (.hewer a h)).run = true → (s.engine (.hewer a h)).fin = 1 →
    (s.engine (.hewer a h)).call = none → (s.engine (.hewer a h)).staged = [] → s.packet (s.engine (.hewer a h)).fid = some k →
    (∀ x ∈ s.pkts, x.frame.fid = k.frame.fid → x.peWait = none) →
    Completes (.endRoutine (.hewer a h)) s fun t => (t.engine (.hewer a h)).run = false ∧
      ∃ k', t.packet k.frame.fid = some k' ∧ k'.planned = some (s.engine (.hewer a h)).plan ∧
        k'.prio = nbits (s.engine (.hewer a h)).md0.toNat 25 3) ∧
  (∀ (s : State) (e : Eng), s.halted = false → ((s.engine e).fin = 2 ∨ (s.engine e).fin = 3) →
    Completes (.abort e) s fun t => (t.engine e).run = false ∧ (t.engine e).staged = [] ∧
      t.cntOf (cntKey 0x1B (2 * engStore e) (s.engine e).fin) = s.cntOf (cntKey 0x1B (2 * engStore e) (s.engine e).fin) + 1 ∧
      (engPe e = false → (s.engine e).fin = 2 → t.packet (s.engine e).fid = none)) ∧
  (∀ (s : State) (r : Req) (k : Fin 17) (v : Word), s.takesSec r (mcCtl k).1 (mcCtl k).2 = true → v.getLsbD 31 = true →
    (s.store k).bad.contains (bits v 0 13) = true →
    Completes (.mcResume r k v) s fun t => (t.store k).bad.contains (bits v 0 13) = false ∧
      ∀ e, engStore e = k → (s.engine e).held = some (BitVec.ofNat 13 (bits v 0 13)) → (t.engine e).held = none) ∧
  (∀ (s : State) (r : Req) (k : Fin 17) (v : Word), s.takesSec r (mcCtl k).1 (mcCtl k).2 = true → v.getLsbD 31 = true →
    (s.store k).bad.contains (bits v 0 13) = false →
    Completes (.mcResume r k v) s fun t => t.evt.turned = s.evt.turned + 1 ∧ t.store k = s.store k) ∧
  (∀ (s : State) (r : Req) (k : Fin 17) (v : Word), s.takesSec r (mcCtl k).1 (mcCtl k).2 = true → v.getLsbD 30 = true →
    Completes (.mcPop r k v) s fun t => t.store k = { s.store k with caps := (s.store k).caps.drop 1 }) ∧
  (∀ (s : State) (r : Req) (a : Fin 16) (v : Word), s.takesSec r .AISLE_MC_CTL a = true → v.getLsbD 29 = true →
    (s.aisle a).fenced = false →
    Completes (.fence r a v) s fun t => (t.aisle a).fenced = true ∧
      ∀ p, p < 512 → aisleOf p = a → s.starts p = true → t.isUp p = false) ∧
  (∀ (s : State) (a : Fin 16), s.halted = false → s.resumeLate a = true →
    Completes (.resumeTimeout a) s fun t => (t.aisle a).fenced = true ∧ (t.aisle a).mc.resumeTmr = false) ∧
  (∀ (s : State) (a : Fin 16), s.resumeLate a = false → Completes (.resumeTimeout a) s fun t => t = s) ∧
  (∀ (s : State), s.resumeLate 16 = false → Completes .peResumeTimeout s fun t => t = s) ∧
  (∀ (s : State), s.halted = false → s.resumeLate 16 = true →
    Completes .peResumeTimeout s fun t => t.pe.mc.resumeTmr = false ∧ (t.raw .PE_EVT_CAUSE 0).getLsbD peStopped = true)

/-- The wheel of the protocol engine, its timers, its neighbours and sessions, and the host packet mover. A running engine that is idle moves,
320 ns after its last position, to the next of 528; a visit to a port with a port state item, no received frame and no session to change
gives Zolliwin the message of that item, which waits in the queue while Zolliwin does not run. An upset of a ROM word that a parity group
shows, while the engine is idle, waits with the word's address. A transmission whose time has come is pending, and its timer gone; before
that nothing changes. The end of a neighbour's TTL removes it and tells Zolliwin; the end of a session's detection time makes the expiry
pending on its port. The packet mover's end moves HEAD on by the frames it moved. The clauses rest on the choices of log entries 42 and
85. (R161, R163, R164, R166, R167, R371) -/
def Obligations.ProtocolEngineVisits : Prop :=
  (∀ (s : State), s.peRuns = true → s.pe.eng.held = none → s.pe.eng.idle = true →
    s.aged s.pe.posAt 320 = true →
    Completes .wheelPosition s fun t => t.pe.pos = (s.pe.pos + 1) % 528 ∧ t.pe.cur = s.pe.pos) ∧
  (∀ (s : State) (w : Nat × Nat × Nat), s.peRuns = true → s.pe.eng.held = none → s.pe.eng.idle = true → s.aged s.pe.posAt 320 = true →
    s.pe.romWork = none → s.pe.romUp = none → s.pe.pos % 33 ≠ 32 → s.bfd = [] →
    let p := s.portOfLane (32 * (s.pe.pos / 33) + s.pe.pos % 33)
    (s.port p).rxq = [] → ((s.port p).work.find? fun w => w.1 == wtPortState) = some w → s.romRoutine wtPortState = true →
    s.pe.msgq.length < 1024 →
    Completes .wheelPosition s fun t =>
      if s.zolOn then .zolMsg wtPortState [BitVec.ofNat 32 p, BitVec.ofNat 32 w.2.1] ∈ t.out
      else t.pe.msgq = s.pe.msgq ++ [(wtPortState, [BitVec.ofNat 32 p, BitVec.ofNat 32 w.2.1])]) ∧
  (∀ (s : State) (u : Nat), s.halted = false → s.peRuns = true → s.pe.eng.idle = true → flipGroups u ≠ 0 →
    Completes (.microwordExecute .pe u) s fun t => t.pe = { s.pe with romUp := some (nbits u 201 13, flipGroups u) }) ∧
  (∀ (s : State) (p : Fin 512) (ty : Fin 16) (i : Nat), s.halted = false → s.isUp p = true → 6 ≤ (ty : Nat) → (ty : Nat) ≤ 9 → s.txTime p ty i = true →
    Completes (.peTimerExpire p ty i) s fun t => (∃ w ∈ (t.port p).work, w.1 = ty ∧ w.2.1 = i) ∧
      t.pe.timers = s.pe.timers.filter fun x => x.1 != i) ∧
  (∀ (s : State) (p : Fin 512) (ty : Fin 16) (i : Nat), s.txTime p ty i = false → Completes (.peTimerExpire p ty i) s fun t => t = s) ∧
  (∀ (s : State) (p : Fin 512) (c l : List Byte) (ttl : Nat), s.halted = false → (s.port p).nbr = some (c, l, ttl) →
    s.aged (s.port p).nbrAt (ttl * 10 ^ 9) = true →
    Completes (.lldpTtlExpire p) s fun t => (t.port p).nbr = none ∧ (t.raw .PE_EVT_CAUSE 0).getLsbD peLldpChange = true) ∧
  (∀ (s : State) (k : Fin 4096), s.halted = false → 2 ≤ (s.bfdS k).state → s.aged (s.bfdS k).heardAt ((s.bfdS k).detectUs * 1000) = true →
    Completes (.bfdDetectExpire k) s fun t => ∃ w ∈ (t.port (s.bfdS k).port).work, w.1 = wtBfdExpire ∧ w.2.1 = k) ∧
  (∀ (s : State) (q : Fin 16) (n : Nat) (io : List (List Byte × List Byte)), s.halted = false →
    (s.dma.mover.find? fun m => m.1 == (q : Nat) || m.1 == (q : Nat) + 32) = some ((q : Nat), n) → s.hqOn q = true →
    io.length ≤ n → ((q : Nat) < 8 ∨ io.length ≤ (s.d2hQ ((q : Nat) - 8)).length) →
    Completes (.hostPacketMoverDone q io) s fun t => t.hqHead q = (s.hqHead q + io.length) % s.hqSize q)

/-- Burns of the owner key, of SVN counters and of revocations, and the lock bit. BURN_OWNER where an owner key is good or both fields are
used is a locked write; while a burn runs, in SHUTTERS or without a slot it is rejected with 0x3; else the burn starts. A field that reads
back good holds the hash; a bad one sends the burn to the other field, and where that is used too the burn fails. SVN_ADVANCE starts a
burn of a higher value not above the SVN in use, is rejected with 0x4 for another kind or a value above it, with 0x3 while a burn runs and
before SETUP, and changes nothing where the counter has the value; its end leaves the counter at that value at least. REVOKE of keys not
yet revoked starts their burn, or is rejected, with 0x4 where one of them is in use, with 0x3 while a burn runs; its end revokes them and
no others. A secure 1 sets CFG_LOCK. A clause rests on the choice of log entry 82. (R389, R390, R391, R392, R406) -/
def Obligations.OtpFusesAreBurned : Prop :=
  (∀ (s : State) (r : Req) (v : Word), s.takesSec r .SEC_OTP_CTL 0 = true → v.getLsbD 31 = true → Completes (.burnOwner r v) s fun t =>
    t.otp = s.otp ∧
    if s.otp.ownerHash.isSome = true ∨ s.otp.fieldsUsed = 2 then
      t.evt.turned = s.evt.turned + 1 ∧ t.rawFld F.SYS_EVT_CAUSE_LOCKED_WR 0 = 1 ∧ t.sec = s.sec
    else if s.secBusy = true ∨ s.nvm.slot = 2 ∨ s.opMode = modeShutters then
      s.turnedBy t F.SEC_STATUS_REJECT 0 ∧ t.sec = s.sec
    else t.sec.otpOp = some (burnOwnerOp, 0) ∧ t.secBusy = true) ∧
  (∀ (s : State), s.halted = false → s.sec.otpOp = some (burnOwnerOp, 0) →
    (s.otp.fieldA = 0 → Completes (.otpBurnDone true) s fun t => t.otp.fieldA = 1 ∧ t.otp.hashA = s.sec.ownerHash ∧
      t.sec.otpOp = none ∧ t.secBusy = false) ∧
    (s.otp.fieldA ≠ 0 → s.otp.fieldB = 0 → Completes (.otpBurnDone true) s fun t => t.otp.fieldB = 1 ∧
      t.otp.hashB = s.sec.ownerHash ∧ t.sec.otpOp = none ∧ t.secBusy = false) ∧
    (s.otp.fieldA = 0 → s.otp.fieldB = 0 → Completes (.otpBurnDone false) s fun t => t.otp.fieldA = 2 ∧ t.sec.otpOp = s.sec.otpOp) ∧
    (s.otp.fieldA ≠ 0 → s.otp.fieldB = 0 → Completes (.otpBurnDone false) s fun t => t.otp.fieldB = 2 ∧ t.sec.otpOp = none ∧
      t.rawFld F.SEC_EVT_CAUSE_OTP_BURN_FAIL 0 = 1)) ∧
  (∀ (s : State) (r : Req) (v : Word), s.takesSec r .SEC_SVN_CTL 0 = true → v.getLsbD 31 = true → Completes (.svnAdvance r v) s fun t =>
    if s.secBusy = true ∨ s.mode.started = false then s.turnedBy t F.SEC_STATUS_REJECT 0 ∧ t.sec = s.sec
    else if bits v 24 2 = 0 ∨ 64 < bits v 0 7 ∨ s.svnInUse (bits v 24 2) < bits v 0 7 then
      t.rawFld F.SEC_STATUS_REJECT 0 = 4 ∧ t.sec = s.sec
    else if s.svnOf (bits v 24 2) < bits v 0 7 then
      t.sec.otpOp = some (burnSvnOp, bits v 24 2 * 128 + bits v 0 7) ∧ t.secBusy = true ∧ t.otp = s.otp
    else t = s) ∧
  (∀ (s : State) (kind n : Nat), s.halted = false → s.sec.otpOp = some (burnSvnOp, kind * 128 + n) → 1 ≤ kind → kind ≤ 3 → n ≤ 64 →
    Completes .svnBurnDone s fun t => n ≤ t.svnOf kind ∧ s.svnOf kind ≤ t.svnOf kind ∧ t.sec.otpOp = none ∧ t.secBusy = false ∧
      t.rawFld F.SEC_EVT_CAUSE_SVN_ADVANCED 0 = 1) ∧
  (∀ (s : State) (r : Req) (v : Word), s.takesSec r .SEC_OTP_CTL 0 = true →
    (∀ n, n < 4 → v.getLsbD n = true → s.otp.revoked n = false) → bits v 0 4 ≠ 0 → Completes (.revoke r v) s fun t =>
      if s.nvm.slot ≠ 2 ∧ s.fld F.SEC_STATUS_KEY_ID 0 < 4 ∧ v.getLsbD (s.fld F.SEC_STATUS_KEY_ID 0) = true then
        t.rawFld F.SEC_STATUS_REJECT 0 = 4 ∧ t.sec = s.sec
      else if s.secBusy then s.turnedBy t F.SEC_STATUS_REJECT 0 ∧ t.sec = s.sec
      else t.sec.otpOp = some (burnRevokeOp, bits v 0 4) ∧ t.secBusy = true) ∧
  (∀ (s : State) (m : Nat), s.halted = false → s.sec.otpOp = some (burnRevokeOp, m) → Completes .revokeBurnDone s fun t =>
    (∀ n, n < 4 → t.otp.revoked n = (s.otp.revoked n || m.testBit n)) ∧ t.sec.otpOp = none ∧ t.secBusy = false) ∧
  (∀ (s : State) (r : Req) (v : Word), s.takesSec r .SEC_LOCK 0 = true → Completes (.cfgLock r v) s fun t =>
    if v.getLsbD 0 then t.cfgLock = true else t = s)

/-- The last thing the device has sent is this SPDM message on a transport. -/
def answers (t : State) (tr : Transport) (l : List Byte) : Prop := t.out.head? = some (.spdm (tr == .doe) l)

/-- A request of a code arrives on a transport that is served. -/
abbrev asks (s : State) (tr : Transport) (code : Nat) (msg : List Byte) : Prop := s.spdmUp tr = true ∧ leAt msg 1 1 = code

/-- SPDM: version, capabilities, algorithms, certificates, measurements, pieces. GET_VERSION, GET_CAPABILITIES and NEGOTIATE_ALGORITHMS bring
a connection to its state and are answered with version 1.3 and the device's capabilities and sizes; the digest and certificate portions
up to 4,088 octets are those of the chain of slot 0; an unsigned GET_MEASUREMENTS gives the number of blocks or the block asked for; a
CHALLENGE needs the entropy source, and its signed answer waits to be fetched in pieces. The first CHUNK_SEND of a large request is kept
and acknowledged; CHUNK_GET hands out the next piece of a response and moves on. A request that is not supported is answered with ERROR
0x07. The clauses rest on the choices of log entries 79 and 80. (R393, R397, R399, R402, R403) -/
def Obligations.SpdmIdentifiesAndAttests : Prop :=
  (∀ (s : State) (tr : Transport) (x : SpdmIn) (msg : List Byte), s.halted = false → asks s tr rqVersion msg → Completes (.getVersion tr x msg) s fun t =>
    t.spdmVer tr = 1 ∧ answers t tr [0x10, 0x04, 0, 0, 0, 1, 0x00, 0x13]) ∧
  (∀ (s : State) (tr : Transport) (x : SpdmIn) (msg : List Byte), s.halted = false → asks s tr rqCapabilities msg → leAt msg 0 1 = 0x13 → s.spdmVer tr = 1 →
    Completes (.getCapabilities tr x msg) s fun t => t.spdmVer tr = 2 ∧ ∃ l, answers t tr l ∧ l.take 4 = spdmHdr 0x61 0 0 ∧
      leAt l 8 4 = spdmCaps ∧ leAt l 12 4 = dataTransferSize ∧ leAt l 16 4 = maxSpdmMsg) ∧
  (∀ (s : State) (tr : Transport) (x : SpdmIn) (msg : List Byte), s.halted = false → asks s tr rqAlgorithms msg → leAt msg 0 1 = 0x13 → s.spdmVer tr = 2 →
    Completes (.negotiateAlgorithms tr x msg) s fun t => if algOffered msg then t.spdmVer tr = 3 ∧ answers t tr (spdmHdr 0x63 4 0 ++ algSelected)
      else t.spdmVer tr = 2 ∧ answers t tr (spdmError spInvalid 0)) ∧
  (∀ (s : State) (tr : Transport) (x : SpdmIn) (msg : List Byte), s.halted = false → asks s tr rqDigests msg → leAt msg 0 1 = 0x13 → 3 ≤ s.spdmVer tr →
    Completes (.getDigests tr x msg) s fun t => answers t tr (spdmHdr 0x01 1 1 ++ s.chainHash)) ∧
  (∀ (s : State) (tr : Transport) (x : SpdmIn) (msg : List Byte), s.halted = false → asks s tr rqCertificate msg → leAt msg 0 1 = 0x13 → 3 ≤ s.spdmVer tr →
    leAt msg 2 1 % 16 = 0 → leAt msg 4 2 < s.certChain.length →
    let n := min (leAt msg 6 2) (s.certChain.length - leAt msg 4 2)
    n ≤ 4088 → Completes (.getCertificate tr x msg) s fun t => answers t tr (spdmHdr 0x02 0 0 ++ leBytes 2 n ++
      leBytes 2 (s.certChain.length - leAt msg 4 2 - n) ++ sliceB s.certChain (leAt msg 4 2) n)) ∧
  (∀ (s : State) (tr : Transport) (x : SpdmIn) (msg : List Byte), s.halted = false → asks s tr rqMeasurements msg → leAt msg 0 1 = 0x13 → 3 ≤ s.spdmVer tr →
    s.entropyOk = true → leAt msg 2 1 % 2 = 0 → leAt msg 3 1 ≤ 8 →
    Completes (.getMeasurements tr x msg) s fun t => ∃ nonce, nonce.length = 32 ∧
      answers t tr (if leAt msg 3 1 = 0 then spdmHdr 0x60 8 0 ++ [0, 0, 0, 0] ++ nonce ++ [0, 0] ++ sliceB msg 4 8
        else spdmHdr 0x60 0 0 ++ [1] ++ leBytes 3 71 ++ s.measBlock (leAt msg 3 1 - 1) ++ nonce ++ [0, 0] ++ sliceB msg 4 8)) ∧
  (∀ (s : State) (tr : Transport) (x : SpdmIn) (msg : List Byte), s.halted = false → asks s tr rqChallenge msg → leAt msg 0 1 = 0x13 → 3 ≤ s.spdmVer tr →
    leAt msg 2 1 = 0 → (leAt msg 3 1 = 0 ∨ leAt msg 3 1 = 1 ∨ leAt msg 3 1 = 255) →
    Completes (.challenge tr x msg) s fun t => if s.entropyOk then
        (tabGet t.sec.chunk {} (2 + spdmKey tr)).size = 110 + (if leAt msg 3 1 = 0 then 0 else 64) + 4627 ∧
          answers t tr (spdmError spLarge 0 ++ leBytes 1 (tabGet t.sec.chunk {} (2 + spdmKey tr)).handle)
      else answers t tr (spdmError spUnspecified 0)) ∧
  (∀ (s : State) (tr : Transport) (x : SpdmIn) (msg : List Byte), s.halted = false → asks s tr rqChunkGet msg → leAt msg 0 1 = 0x13 → 3 ≤ s.spdmVer tr →
    let c := tabGet s.sec.chunk {} (2 + spdmKey tr)
    c.size ≠ 0 → leAt msg 3 1 = c.handle → leAt msg 4 2 = c.seq → 0 < c.seq → 4084 < c.data.length →
    Completes (.chunkGet tr x msg) s fun t =>
      answers t tr (spdmHdr 0x06 0 c.handle ++ leBytes 2 c.seq ++ [0, 0] ++ leBytes 4 4084 ++ c.data.take 4084) ∧
      tabGet t.sec.chunk {} (2 + spdmKey tr) = { c with seq := c.seq + 1, data := c.data.drop 4084 }) ∧
  (∀ (s : State) (tr : Transport) (x : SpdmIn) (msg : List Byte), s.halted = false → asks s tr rqChunkSend msg → 3 ≤ s.spdmVer tr →
    leAt msg 4 2 = 0 → leAt msg 12 4 ≤ maxSpdmMsg → leAt msg 8 4 ≤ leAt msg 12 4 → leAt msg 2 1 % 2 = 0 →
    Completes (.chunkSend tr x msg) s fun t => answers t tr (spdmHdr 0x05 0 (leAt msg 3 1) ++ leBytes 2 0) ∧
      tabGet t.sec.chunk {} (spdmKey tr) =
        { handle := leAt msg 3 1, seq := 1, size := leAt msg 12 4, data := sliceB msg 16 (leAt msg 8 4) }) ∧
  (∀ (s : State) (tr : Transport) (x : SpdmIn) (msg : List Byte), s.halted = false → s.spdmUp tr = true → spdmSupported.contains (leAt msg 1 1) = false →
    Completes (.unsupportedRequest tr x msg) s fun t => answers t tr (spdmError spUnsupported (leAt msg 1 1)))

/-- SPDM sessions and the entropy source. KEY_EXCHANGE adds a session that is not yet established, two at most on a transport, and none while
the entropy source has failed. FINISH establishes it, as a secure one over DOE where SECURE_SESSION_EN is 1 and the requester's key is
listed; with a failed authentication the session ends. In an established session HEARTBEAT is answered and restarts its 20 s, KEY_UPDATE
makes new keys, and END_SESSION ends it. A message that fails its check, and 20 s without one, end the session. A failure of the entropy
source is shown and raised; 1 s of passing tests bring it back, and draw BOOT_ID if none is drawn; before that nothing changes. The
clauses rest on the choices of log entries 73, 79 and 80. (R8, R399, R402, R404, R405) -/
def Obligations.SessionsOpenAndEnd : Prop :=
  (∀ (s : State) (tr : Transport) (x : SpdmIn) (msg : List Byte), s.halted = false → asks s tr rqKeyExchange msg → leAt msg 0 1 = 0x13 → 3 ≤ s.spdmVer tr →
    leAt msg 3 1 = 0 → (leAt msg 2 1 = 0 ∨ leAt msg 2 1 = 1 ∨ leAt msg 2 1 = 255) → x.sid = none →
    Completes (.keyExchange tr x msg) s fun t =>
      if 2 ≤ (s.sec.sess.filter fun y => y.doe == (tr == .doe)).length then t.sec.sess = s.sec.sess ∧ answers t tr (spdmError spSessLimit 0)
      else if s.entropyOk then ∃ sid, t.sec.sess = s.sec.sess ++ [{ doe := tr == .doe, sid := sid, last := s.time.words }]
      else t.sec.sess = s.sec.sess ∧ answers t tr (spdmError spUnspecified 0)) ∧
  (∀ (s : State) (tr : Transport) (x : SpdmIn) (msg : List Byte) (y : Session), s.halted = false → asks s tr rqFinish msg → leAt msg 0 1 = 0x13 →
    3 ≤ s.spdmVer tr → s.sessOf tr x = some y → y.open_ = false →
    Completes (.finish tr x msg) s fun t => if x.good then
        ∃ z ∈ t.sec.sess, z.sid = y.sid ∧ z.open_ = true ∧ z.secure = (tr == .doe && s.bit F.SEC_CFG_SECURE_SESSION_EN 0 &&
          (match x.leaf with | some h => s.secureLeaf h | none => false))
      else (∀ z ∈ t.sec.sess, z.sid ≠ y.sid) ∧ t.rawFld F.SEC_EVT_CAUSE_AUTH_FAIL 0 = 1) ∧
  (∀ (s : State) (tr : Transport) (x : SpdmIn) (msg : List Byte) (y : Session), s.halted = false → asks s tr rqHeartbeat msg → leAt msg 0 1 = 0x13 →
    3 ≤ s.spdmVer tr → s.sessOf tr x = some y → y.open_ = true →
    Completes (.spdmHeartbeat tr x msg) s fun t => answers t tr (spdmHdr 0x68 0 0) ∧ ∀ z ∈ t.sec.sess, z.sid = y.sid → z.last = s.time.words) ∧
  (∀ (s : State) (tr : Transport) (x : SpdmIn) (msg : List Byte) (y : Session), s.halted = false → asks s tr rqKeyUpdate msg → leAt msg 0 1 = 0x13 →
    3 ≤ s.spdmVer tr → s.sessOf tr x = some y → y.open_ = true → leAt msg 2 1 = 1 ∨ leAt msg 2 1 = 2 →
    Completes (.keyUpdate tr x msg) s fun t => answers t tr (spdmHdr 0x69 (leAt msg 2 1) (leAt msg 3 1)) ∧
      ∃ z ∈ t.sec.sess, z.sid = y.sid ∧ z.keyGen = y.keyGen + 1) ∧
  (∀ (s : State) (tr : Transport) (x : SpdmIn) (msg : List Byte) (y : Session), s.halted = false → asks s tr rqEndSession msg → leAt msg 0 1 = 0x13 →
    3 ≤ s.spdmVer tr → s.sessOf tr x = some y → y.open_ = true →
    Completes (.endSession tr x msg) s fun t => (∀ z ∈ t.sec.sess, z.sid ≠ y.sid) ∧ .spdm (tr == .doe) (spdmHdr 0x6C 0 0) ∈ t.out ∧
      t.rawFld F.SEC_EVT_CAUSE_SESSION_END 0 = 1) ∧
  (∀ (s : State) (tr : Transport) (sid : Nat), s.halted = false → s.spdmUp tr = true → (∃ y ∈ s.sec.sess, y.sid = sid ∧ y.doe = (tr == .doe)) →
    Completes (.securedMessageFail tr sid) s fun t => (∀ z ∈ t.sec.sess, z.sid ≠ sid) ∧ t.rawFld F.SEC_EVT_CAUSE_AUTH_FAIL 0 = 1) ∧
  (∀ (s : State) (sid : Nat), s.halted = false → Completes (.sessionHeartbeatTimeout sid) s fun t =>
    t.sec.sess = s.sec.sess.filter fun y => !(y.sid == sid && s.aged y.last 20000000000)) ∧
  (∀ (s : State), s.secRuns = true → s.entropyOk = true → Completes .entropyFail s fun t => t.entropyOk = false ∧
    t.rawFld F.SEC_EVT_CAUSE_ENTROPY_FAIL 0 = 1) ∧
  (∀ (s : State), s.entropyOk = false → s.aged s.sec.entropyAt 1000000000 = false → Completes .entropyRecover s fun t => t = s) ∧
  (∀ (s : State), s.clk.step = 11 → s.entropyOk = false → s.sec.entropyBad = true → s.secRuns = true →
    s.aged s.sec.entropyAt 1000000000 = true → Completes .entropyRecover s fun t => t.entropyOk = true ∧
    t.sec.bootId.isSome = true ∧ (s.sec.bootId.isSome = true → t.sec.bootId = s.sec.bootId))

/-- A command of a ring, in a row of its own, that can run. -/
def dmaCan (s : State) (ring : Nat) (b : List Byte) (op : Nat) : Bool :=
  (cmdOf b).op == op && s.mode.started && !s.clk.soft.contains unitDma && s.cmdFault ring (cmdOf b) == 0

/-- No rebuild channel is at work in any aisle. -/
abbrev noRebuild (s : State) : Prop := ∀ a, a < 16 → ∀ k, k < 4 → s.rbState a k = rbIdle

/-- The host claims, keeps and loses the tables; TAIL writes and descriptors of the rings. A claim takes the tables for the host and starts
its heartbeat, unless it comes over SMBus, the host has them, the mode is SHUTTERS or SETUP, or a secure claim is asked for; it is
rejected then. A release by the owner, or a heartbeat that is late, gives them up: LOST_WHY, HEAD of the host ring at TAIL, its padlocks
released, its queues disabled. A heartbeat of the owner starts its timer again, and is rejected without ownership. TAIL of the host ring
is written only for the host as owner and by a requester that is not Zolliwin, within the ring; else it is rejected with code 0x3, or 0x4
beyond the ring. A descriptor of an invalid ADDR or LEN completes with STATUS 0x4 in the fifth octet of its completion record, one whose
stream cannot be fetched with 0x6 and FETCH_ERR, one whose stream is a single NOP with 0x0; HEAD moves on by one. While the other ring has
a descriptor too, one command of a longer stream runs and the turn passes (log entry 65). The clauses rest on the choices of log entries
63, 69 and 70. (R11, R363, R364, R365, R369, R379) -/
def Obligations.TablesAreOwnedAndRingsFed : Prop :=
  (∀ (s : State) (r : Req) (v : Word), s.takes r .SYS_OWNER_CTL 0 = true → v.getLsbD 31 = true →
    Completes (.claim r v) s fun t =>
      if s.asReq r = .smb ∨ s.hostOwns = true ∨ s.opMode = modeShutters ∨ s.opMode = modeSetup ∨
          (s.bit F.SYS_OWNER_CFG_CLAIM_SECURE 0 = true ∧ secureReq (s.asReq r) = false) then
        s.turnedBy t F.SYS_STATUS_REJECT 0 ∧ t.hostOwns = s.hostOwns
      else t.hostOwns = true ∧ t.dma.everHost = true ∧ t.dma.hbAt = s.time.words) ∧
  (∀ (s : State) (r : Req) (v : Word), s.takes r .SYS_OWNER_CTL 0 = true → v.getLsbD 30 = true → s.asReq r ≠ .smb → s.hostOwns = true →
    Completes (.release r v) s fun t => t.hostOwns = false ∧ t.rawFld F.SYS_OWNER_LOST_WHY 0 = lostRelease ∧
      t.ringHead 0 = s.fld F.DMA_RING_TAIL_TAIL 0 ∧ t.dma.lockH = 0 ∧ ∀ k, k < 16 → t.hqOn k = false) ∧
  (∀ (s : State) (r : Req) (v : Word), s.takes r .SYS_OWNER_CTL 0 = true → v.getLsbD 29 = true → s.asReq r ≠ .smb →
    Completes (.heartbeat r v) s fun t =>
      if s.hostOwns then t.dma = { s.dma with hbAt := s.time.words } else s.turnedBy t F.SYS_STATUS_REJECT 0) ∧
  (∀ (s : State), s.halted = false → s.hostOwns = true → s.fld F.SYS_OWNER_CFG_HB_MS 0 ≠ 0 →
    s.aged s.dma.hbAt (s.fld F.SYS_OWNER_CFG_HB_MS 0 * 1000000) = true →
    Completes .heartbeatLate s fun t => t.hostOwns = false ∧ t.rawFld F.SYS_OWNER_LOST_WHY 0 = lostLate ∧ t.dma.lockH = 0) ∧
  (∀ (s : State) (r : Req) (v : Word), s.takes r .DMA_RING_TAIL 0 = true →
    Completes (.dmaRingTailWrite r 0 v) s fun t =>
      if isZol (s.asReq r) = true ∨ s.hostOwns = false then s.turnedBy t F.DMA_STATUS_REJECT 0
      else if s.ringSize 0 ≤ bits v 0 12 then t.rawFld F.DMA_STATUS_REJECT 0 = 4 ∧ t.evt.turned = s.evt.turned + 1
      else t.fld F.DMA_RING_TAIL_TAIL 0 = bits v 0 12) ∧
  (∀ (s : State) (r : Req) (v : Word), s.takesSec r .DMA_RING_TAIL 1 = true → bits v 0 12 < s.ringSize 1 →
    Completes (.dmaRingTailWrite r 1 v) s fun t => t.fld F.DMA_RING_TAIL_TAIL 1 = bits v 0 12) ∧
  (∀ (s : State) (d : List Byte) (x : Option (List Byte)), s.halted = false → s.bit F.DMA_RING_CFG_EN 0 = true →
    s.ringHead 0 ≠ s.fld F.DMA_RING_TAIL_TAIL 0 → s.mode.started = true → s.clk.soft.contains unitDma = false →
    s.hostFails = false → tabGet s.dma.cur none 0 = none → (tabGet s.dma.cur none 1 = none ∨ s.dma.turn = 0) →
    (leAt d 0 8 % 16 ≠ 0 ∨ leAt d 8 4 < 16 ∨ 1048576 < leAt d 8 4 ∨ leAt d 8 4 % 16 ≠ 0) →
    Completes (.dmaDescriptorExecute 0 d x) s fun t => t.hostByte (s.cplAddr 0 + 4) = 4#8 ∧
      t.ringHead 0 = (s.ringHead 0 + 1) % s.ringSize 0) ∧
  (∀ (s : State) (d : List Byte), s.halted = false → s.bit F.DMA_RING_CFG_EN 0 = true →
    s.ringHead 0 ≠ s.fld F.DMA_RING_TAIL_TAIL 0 → s.mode.started = true → s.clk.soft.contains unitDma = false →
    s.hostFails = false → tabGet s.dma.cur none 0 = none → (tabGet s.dma.cur none 1 = none ∨ s.dma.turn = 0) →
    leAt d 0 8 % 16 = 0 → 16 ≤ leAt d 8 4 → leAt d 8 4 ≤ 1048576 → leAt d 8 4 % 16 = 0 →
    Completes (.dmaDescriptorExecute 0 d none) s fun t => t.hostByte (s.cplAddr 0 + 4) = 6#8 ∧
      t.ringHead 0 = (s.ringHead 0 + 1) % s.ringSize 0 ∧ (t.raw .DMA_EVT_CAUSE 0).getLsbD dmaFetchErr = true) ∧
  (∀ (s : State) (d l : List Byte), s.halted = false → s.bit F.DMA_RING_CFG_EN 0 = true →
    s.ringHead 0 ≠ s.fld F.DMA_RING_TAIL_TAIL 0 → s.mode.started = true → s.clk.soft.contains unitDma = false →
    s.hostFails = false → tabGet s.dma.cur none 0 = none → (tabGet s.dma.cur none 1 = none ∨ s.dma.turn = 0) →
    leAt d 0 8 % 16 = 0 → leAt d 8 4 = 16 → l.length = 16 → cmdLen l = 16 → dmaCan s 0 l opNop = true →
    Completes (.dmaDescriptorExecute 0 d (some l)) s fun t => t.hostByte (s.cplAddr 0 + 4) = 0#8 ∧
      t.ringHead 0 = (s.ringHead 0 + 1) % s.ringSize 0) ∧
  (∀ (s : State) (d l : List Byte), s.halted = false → s.ringBusy 0 = true → s.ringBusy 1 = true → s.mode.started = true →
    s.clk.soft.contains unitDma = false → tabGet s.dma.cur none 0 = none → (tabGet s.dma.cur none 1 = none ∨ s.dma.turn = 0) →
    leAt d 0 8 % 16 = 0 → leAt d 8 4 = l.length → 16 < l.length → l.length ≤ 1048576 → l.length % 16 = 0 →
    cmdLen l < l.length → dmaCan s 0 l opNop = true →
    Completes (.dmaDescriptorExecute 0 d (some l)) s fun t => (tabGet t.dma.cur none 0).map (·.left) = some (l.drop (cmdLen l)) ∧
      t.dma.turn = 1 ∧ t.ringHead 0 = s.ringHead 0 ∧ t.hostWr = s.hostWr)

/-- WRITE, FILL, READ, PSEL_WRITE, PADLOCK, NOP, and the ledger, LPM and rule commands of a ring. WRITE and FILL put each record into every
copy of its flat table, FILL the one record into every entry; on psel a record takes effect in each aisle whose bands allow it, without
bits 62 and 63. READ brings the entries of one copy to its address; where the host write fails it raises FETCH_ERR. PADLOCK sets or clears
padlocks of its ring, unless the other ring holds one; a padlock held for its longest time is released. NOP changes nothing. A ledger
image is inserted into, or its key deleted from, every quarter's copy by that copy's own placement. An LPM prefix already held is
overwritten in place; a new one takes one more entry of its slot's tile and is counted; a deletion takes one away. A rule entry is
written, made invalid, or moved to another place of the same width and cleared where it was. No rebuild is under way here. The clauses
rest on the choices of log entries 20, 71, 124 and 129. (R83, R84, R104, R111, R115, R117, R118, R122, R365, R367, R368, R370) -/
def Obligations.TableCommandsOfARing : Prop :=
  (∀ (s : State) (ring : Fin 2) (b : List Byte), s.halted = false → dmaCan s ring b opWrite = true → (cmdOf b).table ≠ 14 →
    Completes (.write ring b) s fun t => ∀ i c, i < (cmdOf b).cnt → c < copiesOf (cmdOf b).table →
      t.flatE (flatKey (cmdOf b).table c ((cmdOf b).index + i)) = BitVec.ofNat 512 (leNat ((cmdOf b).recs.getD i []))) ∧
  (∀ (s : State) (ring : Fin 2) (b : List Byte), s.halted = false → dmaCan s ring b opWrite = true → (cmdOf b).table = 14 → (cmdOf b).cnt = 1 →
    let e := BitVec.ofNat 64 (leNat ((cmdOf b).recs.getD 0 []))
    Completes (.write ring b) s fun t => ∀ a, a < 16 → (pselWrite (cmdOf b).index e a s).1 = 0 →
      t.psel a (cmdOf b).index = e &&& 0x3FFFFFFFFFFFFFFF#64) ∧
  (∀ (s : State) (ring : Fin 2) (b : List Byte), s.halted = false → dmaCan s ring b opFill = true → (cmdOf b).table ≠ 14 →
    Completes (.fill ring b) s fun t => ∀ i c, i < (cmdOf b).cnt → c < copiesOf (cmdOf b).table →
      t.flatE (flatKey (cmdOf b).table c ((cmdOf b).index + i)) = BitVec.ofNat 512 (leNat ((cmdOf b).recs.headD []))) ∧
  (∀ (s : State) (ring : Fin 2) (b : List Byte), s.halted = false → dmaCan s ring b opRead = true →
    Completes (.read ring b) s fun t =>
      if (ring : Nat) = 0 ∧ s.hostFails = true then t.hostWr = s.hostWr ∧ (t.raw .DMA_EVT_CAUSE 0).getLsbD dmaFetchErr = true
      else if (ring : Nat) = 0 then ∀ i, i < (readBytes s (cmdOf b)).length →
        t.hostByte (leAt (cmdOf b).payload 0 8 + i) = (readBytes s (cmdOf b)).getD i 0
      else t.out = .zolMemory (leAt (cmdOf b).payload 0 8) (readBytes s (cmdOf b)) :: s.out) ∧
  (∀ (s : State) (ring : Fin 2) (b : List Byte), s.halted = false → dmaCan s ring b opPselWrite = true → (cmdOf b).cnt = 1 →
    let e := BitVec.ofNat 64 (leNat ((cmdOf b).recs.getD 0 []))
    Completes (.pselWrite ring b) s fun t => ∀ a, a < 16 → (pselWrite (cmdOf b).index e a s).1 = 0 →
      t.psel a (cmdOf b).index = e &&& 0x3FFFFFFFFFFFFFFF#64) ∧
  (∀ (s : State) (ring : Fin 2) (b : List Byte), s.halted = false → dmaCan s ring b opPadlock = true →
    Completes (.padlock ring b) s fun t =>
      if (cmdOf b).index % 2 = 1 then
        (s.dma.locks (1 - ring) &&& padBits (cmdOf b).table = 0 →
          t.dma.locks ring = s.dma.locks ring ||| padBits (cmdOf b).table) ∧
        (s.dma.locks (1 - ring) &&& padBits (cmdOf b).table ≠ 0 → t.dma.locks ring = s.dma.locks ring)
      else t.dma.locks ring = s.dma.locks ring &&& ~~~ (padBits (cmdOf b).table)) ∧
  (∀ (s : State) (ring : Fin 2) (k : Fin 16), s.halted = false → (k : Nat) ≠ 0 → (s.dma.locks ring).getLsbD k = true →
    s.aged (tabGet s.dma.padAt 0 (16 * (ring : Nat) + (k : Nat))) (s.fld F.DMA_CFG_PADLOCK_MAX_MS 0 * 1000000) = true →
    Completes (.padlockExpired ring k) s fun t => (t.dma.locks ring).getLsbD k = false ∧
      (t.raw .DMA_EVT_CAUSE 0).getLsbD dmaPadExpired = true) ∧
  (∀ (s : State) (ring : Fin 2) (b : List Byte), dmaCan s ring b opNop = true → Completes (.nop ring b) s fun t => t = s) ∧
  (∀ (s : State) (ring : Fin 2) (b x : List Byte), s.halted = false → dmaCan s ring b opLdgInsert = true → (cmdOf b).recs = [x] → imageOk x = true →
    Completes (.ldgInsert ring b) s fun t => ∀ q, q < 4 →
      (t.qtr q).ways = ((s.copyOf q).insert (imageEntry s q x)).1.ways ∧
      (t.qtr q).stash = ((s.copyOf q).insert (imageEntry s q x)).1.stash) ∧
  (∀ (s : State) (ring : Fin 2) (b x : List Byte), s.halted = false → dmaCan s ring b opLdgDelete = true → (cmdOf b).recs = [x] → imageOk x = true →
    Completes (.ldgDelete ring b) s fun t => ∀ q, q < 4 →
      match (s.copyOf q).find (imageEntry s 0 x).1.ty (keyOf (imageEntry s 0 x)) with
      | some p => (t.qtr q).ways = ((s.copyOf q).clear p).ways ∧ (t.qtr q).stash = ((s.copyOf q).clear p).stash
      | none => t.qtr q = s.qtr q) ∧
  (∀ (s : State) (ring : Fin 2) (b x : List Byte) (p : Prefix), s.halted = false → dmaCan s ring b opLpmInsert = true → noRebuild s → (cmdOf b).recs = [x] →
    prefixOf x = some p →
    Completes (.lpmInsert ring b) s fun t => ∀ a n, a < 16 → s.shortBad a p = false →
      let e := p.entry (BitVec.ofNat 32 (leAt x 4 4))
      (∀ i, ((s.candSlots a p).findSome? fun n => (s.presentAt a (s.lpmTile a n) e).map (n, ·)) = some (n, i) →
        t.tile (tkey a (s.lpmTile a n) i) = e) ∧
      (((s.candSlots a p).findSome? fun n => (s.presentAt a (s.lpmTile a n) e).map (n, ·)) = none →
        ((s.candSlots a p).find? fun n => decide (s.used a (s.lpmTile a n) < s.tileSize a (s.lpmTile a n))) = some n →
        t.used a (s.lpmTile a n) = s.used a (s.lpmTile a n) + 1 ∧
        t.cntOf (cntKey 0x1A (2 * a) 0) = s.cntOf (cntKey 0x1A (2 * a) 0) + 1)) ∧
  (∀ (s : State) (ring : Fin 2) (b x : List Byte) (p : Prefix), s.halted = false → dmaCan s ring b opLpmDelete = true → noRebuild s → (cmdOf b).recs = [x] →
    prefixOf x = some p →
    Completes (.lpmDelete ring b) s fun t => ∀ a n i, a < 16 → s.shortBad a p = false →
      ((s.candSlots a p).findSome? fun n => (s.presentAt a (s.lpmTile a n) (p.entry 0)).map (n, ·)) = some (n, i) →
      t.used a (s.lpmTile a n) = s.used a (s.lpmTile a n) - 1 ∧
      t.cntOf (cntKey 0x1A (2 * a) 1) = s.cntOf (cntKey 0x1A (2 * a) 1) + 1) ∧
  (∀ (s : State) (ring : Fin 2) (b x : List Byte), s.halted = false → dmaCan s ring b opRuleWrite = true → noRebuild s → (cmdOf b).recs = [x] →
    Completes (.ruleWrite ring b) s fun t => ∀ a, a < 16 →
      let n := leAt x 0 1
      let i := leAt x 2 2
      let sh := 320 - 80 * s.tileW a (s.ruleTile a n)
      s.ruleIdx a n i = true → (ruleVal x 16).toNat % 2 ^ sh = 0 → (ruleVal x 56).toNat % 2 ^ sh = 0 →
      t.tile (tkey a (s.ruleTile a n) i) =
        { valid := true, value := ruleVal x 16 >>> sh, care := ruleVal x 56 >>> sh, result := BitVec.ofNat 64 (leAt x 8 8) }) ∧
  (∀ (s : State) (ring : Fin 2) (b x : List Byte), s.halted = false → dmaCan s ring b opRuleClear = true → noRebuild s → (cmdOf b).recs = [x] →
    Completes (.ruleClear ring b) s fun t => ∀ a, a < 16 →
      let k := tkey a (s.ruleTile a (leAt x 0 1)) (leAt x 2 2)
      s.ruleIdx a (leAt x 0 1) (leAt x 2 2) = true → (s.tile k).valid = true →
      t.tile k = { s.tile k with valid := false }) ∧
  (∀ (s : State) (ring : Fin 2) (b x : List Byte), s.halted = false → dmaCan s ring b opRuleMove = true → noRebuild s → (cmdOf b).recs = [x] →
    Completes (.ruleMove ring b) s fun t => ∀ a, a < 16 →
      let n := leAt x 0 1
      let m := leAt x 4 1
      let k := tkey a (s.ruleTile a n) (leAt x 2 2)
      let j := tkey a (s.ruleTile a m) (leAt x 6 2)
      s.ruleIdx a n (leAt x 2 2) = true → s.ruleIdx a m (leAt x 6 2) = true →
      s.tileW a (s.ruleTile a n) = s.tileW a (s.ruleTile a m) → (s.tile k).valid = true → (s.tile j).valid = false →
      t.tile j = s.tile k ∧ t.tile k = { s.tile k with valid := false })

/-- What a write of `v` by a requester with these rights leaves in one field of a register's place (R6). -/
def fieldWritten (sec lock : Bool) (r : Reg) (n : Nat) (v : Word) (f : FieldInfo) (s t : State) : Prop :=
  let p := f.fld r
  let x := bits v f.lo f.w
  if f.sec = true ∧ sec = false then t.rawFld p n = s.rawFld p n ∧ t.fld p n = s.fld p n
  else
    match f.ty with
    | .ro => t.rawFld p n = s.rawFld p n ∧ t.fld p n = s.fld p n
    | .wo => True
    | .w1c => ∀ i, i < f.w → (t.raw r n).getLsbD (f.lo + i) = ((s.raw r n).getLsbD (f.lo + i) && !v.getLsbD (f.lo + i))
    | .w1s => ∀ i, i < f.w → (t.raw r n).getLsbD (f.lo + i) = ((s.raw r n).getLsbD (f.lo + i) || v.getLsbD (f.lo + i))
    | .cnt => t.rawFld p n = x
    | .lck => if lock then t.rawFld p n = s.rawFld p n else t.rawFld p n = f.stored x ∧ t.fld p n = f.stored x
    | .rw =>
      if f.ap = .now ∨ f.ap = .none then t.rawFld p n = f.stored x ∧ t.fld p n = f.stored x
      else t.rawFld p n = f.stored x ∧ t.fld p n = s.fld p n

/-- The boot ROM: a slot that verifies starts, else the device stays in SHUTTERS. The slot tried first is the one named by NEXT_SLOT, or the
option SLOT_PREF. Where it is not skipped and its manifest and firmware verify, it is in use, Zolliwin runs, the blocks start and SETUP
begins. Where no slot verifies, and where the options ask for an owner and there is none, the device stays in SHUTTERS and shows why.
After a watchdog reset the firmware of the slot in use runs again if it still verifies as it did; else Zolliwin stops in its boot ROM.
While the NVM is released, busy or waited for, none of this happens. The clauses rest on the choices of log entries 109, 113, 115, 168 and
169. (R324, R332, R333, R360, R395, R396) -/
def Obligations.TheBootRomChoosesASlot : Prop :=
  (∀ (s : State) (d : Fin 193), s.clk.zolRun = 1 → s.opMode = modeShutters → s.nvm.slot = 2 →
    s.fld F.SYS_MODE_SHUT_WHY 0 = 0 → s.nvmMay = true →
    let next := s.fld F.NVM_BOOT_NEXT_SLOT 0
    let first := if next = 1 then 0 else if next = 2 then 1 else s.clk.opts.slotPref % 2
    let sec := manifestSection (s.nvmBytes (slotBase first) 7571) 0
    Completes (.bootRomStart d) s fun t => t.fld F.NVM_STATUS_DENSITY_MIB 0 = 64 + d ∧
      if s.clk.opts.sbPolicy.testBit 1 = true ∧ s.otp.ownerHash = none then
        t.fld F.SYS_MODE_SHUT_WHY 0 = 2 ∧ t.opMode = modeShutters ∧ t.nvm.slot = 2
      else t.fld F.NVM_BOOT_NEXT_SLOT 0 = 0 ∧
        (s.bit (skipFld first) 0 = false → s.manifestOk first = true → s.fwOk (s.slotBytes first sec) sec.2.2 = true →
          t.opMode = modeSetup ∧ t.nvm.slot = first ∧ t.fld F.NVM_STATUS_SLOT 0 = first ∧ t.clk.zolRun = 2 ∧
          t.mode.started = true ∧ t.mode.setup = 0 ∧ t.sec.akOk = true) ∧
        ((∀ k, k < 2 → s.bit (skipFld k) 0 = true ∨ s.manifestOk k = false) →
          t.fld F.SYS_MODE_SHUT_WHY 0 = 1 ∧ t.opMode = modeShutters ∧ t.clk.zolRun = 1 ∧
          t.rawFld F.SYS_MODE_EVT_CAUSE_NO_IMAGE 0 = 1 ∧ ∀ k, k < 2 → t.bit (skipFld k) 0 = true)) ∧
  (∀ (s : State) (d : Fin 193), s.nvmMay = false → Completes (.bootRomStart d) s (fun t => t = s) ∧
    Completes .zolliwinRunsAgain s (fun t => t = s)) ∧
  (∀ (s : State), s.clk.zolRun = 1 → s.mode.shut = true → s.nvm.slot ≠ 2 → modeSetup ≤ s.opMode →
    s.nvmMay = true →
    let sec := s.nvm.sections.getD 0 (0, 0, 0)
    let c := s.slotBytes s.nvm.slot sec
    Completes .zolliwinRunsAgain s fun t =>
      if s.fwOk c sec.2.2 = true ∧ fwDigestOf c = s.sec.fwDigest then t.clk.zolRun = 2 ∧ t.nvm.faultPend = [] ∧ t.nvm.patch = s.patchAgain ∧ t.pe.msgq = []
      else t.clk.zolRun = 3 ∧ t.rawFld F.SEC_EVT_CAUSE_VERIFY_FAIL 0 = 1)

/-- Zolliwin visits the configuration records and finds `l` next. -/
abbrev recNextIs (s : State) (l : List Byte) : Prop :=
  s.opMode = modeSetup ∧ s.mode.setup = 1 ∧ s.zolOn = true ∧ s.nvm.waiting = 0 ∧ s.nvmMay = true ∧
    s.cfgRecord = some l ∧ s.sectionOk 2 = true

/-- SETUP: the microcode patch and the configuration records. A patch that verifies stands in every control store; a section that fails leaves
only ROM, SETUP_ERR 1, and SETUP ends failed; an empty one, with the patch counter at 0, goes on with ROM alone. Records run in order: a
REG record of no write is passed; one of one write makes it as Zolliwin in the secure context, field by field where the register has no
rule of its own, and ends SETUP failed where it is turned away; an IDENT record sets the identity; a WAIT record holds the next back until
its time has passed; a MBX record starts a mailbox write; END, with the pools carved, ends the records; a record that cannot be read ends
SETUP failed with SETUP_ERR 2. The clauses rest on the choices of log entries 110, 111, 112 and 114. (R151, R153, R154, R332, R334, R359) -/
def Obligations.SetupLoadsPatchAndRecords : Prop :=
  (∀ (s : State), s.opMode = modeSetup → s.mode.setup = 0 → s.zolOn = true → s.nvmMay = true →
    s.bit F.SEC_STATUS_MEAS_SEALED 0 = false → (s.imageSection 1).isEmpty = false →
    Completes .patchLoad s fun t =>
      match (if s.sectionOk 1 then s.patchPlain (s.imageSection 1) else none) with
      | some p => t.mode.setup = 1 ∧ t.nvm.patch = p ∧ ∀ k, k < 17 → t.store k = (s.store k).load (k == 16) (patchSecs p)
      | none => t.mode.setup = 3 ∧ t.fld F.SYS_MODE_SETUP_ERR 0 = 1 ∧ t.opMode = modeSetup ∧
        ∀ k, k < 17 → (t.store k).ram = [] ∧ (t.store k).trap = []) ∧
  (∀ (s : State), s.opMode = modeSetup → s.mode.setup = 0 → s.zolOn = true → s.nvmMay = true →
    s.bit F.SEC_STATUS_MEAS_SEALED 0 = false → (s.imageSection 1).isEmpty = true → svnCount s.otp.svnPatch = 0 →
    Completes .patchLoad s fun t => t.mode.setup = 1 ∧ t.nvm.patch = [] ∧ t.sec.patchSvn = 0) ∧
  (∀ (s : State) (l : List Byte), recNextIs s l → recType l = recReg → l.length = 4 → Completes .cfgRecordReg s fun t =>
    t.nvm.cfgPos = s.nvm.cfgPos + 4 ∧ t.mode = s.mode ∧ t.regs = s.regs) ∧
  (∀ (s : State) (l : List Byte) (r : Reg) (n : Nat), recNextIs s l → recType l = recReg → l.length = 12 → s.cfgLock = false →
    leAt l 4 4 % 4 = 0 → findReg (leAt l 4 4) = some (r, n) → s.takes .zs r n = true → r ≠ .SHR_CTL →
    rowWrite .zs r n (BitVec.ofNat 32 (leAt l 8 4)) = none →
    plainWrite .zs r n (BitVec.ofNat 32 (leAt l 8 4)) = writeFields .zs r n (BitVec.ofNat 32 (leAt l 8 4)) →
    Completes .cfgRecordReg s fun t => (∀ f ∈ r.fields, fieldWritten true false r n (BitVec.ofNat 32 (leAt l 8 4)) f s t) ∧
      t.nvm.cfgPos = s.nvm.cfgPos + 12 ∧ t.mode = s.mode ∧ t.opMode = modeSetup) ∧
  (∀ (s : State) (l : List Byte), recNextIs s l → recType l = recReg → l.length = 12 →
    ∀ u, exec (.registerWrite .zs true (leAt l 4 4) (BitVec.ofNat 32 (leAt l 8 4)))
        { s with nvm := { s.nvm with waiting := 0, cfgPos := s.nvm.cfgPos + 12 } } = .next u →
    Completes .cfgRecordReg s fun t => (u.evt.turned = s.evt.turned → t = u) ∧
      (u.evt.turned ≠ s.evt.turned → u.opMode = modeSetup → u.mode.setup = 1 → t.mode.setup = 3)) ∧
  (∀ (s : State) (l : List Byte), recNextIs s l → recType l = recMbx → Completes .cfgRecordMbx s fun t => t.nvm.waiting = 2 ∧
    t.nvm.cfgPos = s.nvm.cfgPos + l.length) ∧
  (∀ (s : State) (l : List Byte), recNextIs s l → recType l = recIdent → Completes .cfgRecordIdent s fun t => t.pe.ident = l.drop 4 ∧
    t.nvm.cfgPos = s.nvm.cfgPos + l.length) ∧
  (∀ (s : State) (l : List Byte), recNextIs s l → recType l = recWait → Completes .cfgRecordWait s fun t => t.nvm.waiting = 1 ∧
    t.nvm.cfgPos = s.nvm.cfgPos + l.length) ∧
  (∀ (s : State), s.halted = false → s.nvm.waiting = 1 → s.aged s.nvm.waitAt (s.nvm.waitUs * 1000) = true →
    Completes .cfgWaitExpire s fun t => t.nvm.waiting = 0) ∧
  (∀ (s : State), s.aged s.nvm.waitAt (s.nvm.waitUs * 1000) = false → Completes .cfgWaitExpire s fun t => t = s) ∧
  (∀ (s : State) (l : List Byte), recNextIs s l → recType l = recEnd → s.carved = true →
    Completes .cfgRecordEnd s fun t => t.mode.setup = 2 ∧ t.opMode = modeSetup) ∧
  (∀ (s : State) (l : List Byte), recNextIs s l → recType l = 0 →
    ∀ c, c = .cfgRecordReg ∨ c = .cfgRecordMbx ∨ c = .cfgRecordIdent ∨ c = .cfgRecordWait ∨ c = .cfgRecordEnd →
      Completes c s fun t => t.mode.setup = 3 ∧ t.fld F.SYS_MODE_SETUP_ERR 0 = 2)

/-- The shadow compare: its pass, its findings and the window of mismatches. With no reference a pass ends when every aisle has swept its
copies, and nothing happens before. With the NVM reference, an entry of a flat table is compared in every copy: the walk goes on, and each
copy that differs is a finding that waits. A table under a padlock is left for later. A finding that is still present when read again, 100
µs later, is logged, newest first; one that is gone is only counted. While Zolliwin does not run the assay stands. After one second a new
bucket begins, and the oldest leaves the window; before that nothing changes. The clauses rest on the choices of log entries 64, 75, 76
and 77. (R23, R373, R375, R377, R378) -/
def Obligations.TheShadowIsCompared : Prop :=
  (∀ (s : State) (d : List Byte) (x : Option (List Byte)), s.assayMode = true → s.zolOn = true → s.clk.soft.contains unitDma = false →
    s.refNow = refNone → Completes (.assayRecordStep d x) s fun t =>
      if ((List.range 16).all fun a => (s.aisle a).swept) then t.cntOf (cntKey 0x81 0 0) = s.cntOf (cntKey 0x81 0 0) + 1 ∧
        t.dma.walk = (1, false, 0) ∧ t.rawFld F.QTR_ASSAY_EVT_CAUSE_PASS_DONE 0 = 1 ∧ ∀ a, a < 16 → (t.aisle a).swept = false
      else t = s) ∧
  (∀ (s : State) (d : List Byte) (x : Option (List Byte)) (w pos : Nat), s.assayMode = true → s.zolOn = true → s.clk.soft.contains unitDma = false →
    s.refNow = refNvm → s.bit F.NVM_STATUS_HOLD_ACTIVE 0 = false → s.dma.walk = (w, false, pos) → w % 16 ≠ 0 →
    isFlat (w % 16) = true → s.padlocked (w % 16) = false → pos < (flatDims (w % 16)).1 →
    Completes (.assayRecordStep d x) s fun t => t.dma.walk = (w, false, pos + 1) ∧
      t.cntOf (cntKey 0x81 0 1) = s.cntOf (cntKey 0x81 0 1) + 1 ∧
      t.dma.finds.length = s.dma.finds.length +
        (s.flatDiffs (w % 16) pos (tabGet s.dma.nrefFlat 0 (w % 16 * 2 ^ 20 + pos))).length) ∧
  (∀ (s : State) (d : List Byte) (x : Option (List Byte)) (w pos : Nat) (rev : Bool), s.assayMode = true → s.zolOn = true →
    s.clk.soft.contains unitDma = false → s.refNow = refNvm → s.bit F.NVM_STATUS_HOLD_ACTIVE 0 = false → s.dma.walk = (w, rev, pos) →
    w % 16 ≠ 0 → s.padlocked (w % 16) = true →
    Completes (.assayRecordStep d x) s fun t => t.dma.skip = s.dma.skip ++ [w % 16] ∧ t.dma.finds = s.dma.finds) ∧
  (∀ (s : State) (f : Finding) (l : List Finding) (ref : Option (List Byte)) (y : List Byte), s.dma.finds = f :: l →
    s.assayMode = true → s.zolOn = true → s.aged f.seen 100000 = true → (s.refNow ≠ refNvm ∨ s.bit F.NVM_STATUS_HOLD_ACTIVE 0 = false) →
    s.clk.soft.contains unitDma = false → s.refAgain f ref = some y → (s.refNow = refHost → refMalformed f.table y = false) →
    s.bit F.ASSAY_CFG_CORRECT_EN 0 = false → Completes (.findingConfirm ref) s fun t => t.dma.finds = l ∧
      if s.stillThere f y then t.dma.log = ({ f with sec := s.nowNs / 10 ^ 9, ns := s.nowNs % 10 ^ 9 } :: s.dma.log).take 64 ∧
        t.dma.passDirty = true ∧ t.cntOf (cntKey 0x81 0 2) = s.cntOf (cntKey 0x81 0 2) + 1
      else t.dma.log = s.dma.log ∧ t.cntOf (cntKey 0x81 0 3) = s.cntOf (cntKey 0x81 0 3) + 1) ∧
  (∀ (s : State), s.halted = false → s.aged s.dma.bucketAt 1000000000 = true →
    Completes .winCountBucketExpire s fun t => t.dma.buckets = (0 :: s.dma.buckets).take (s.fld F.ASSAY_CFG_WIN_S 0) ∧
    t.fld F.ASSAY_STATUS_WIN_COUNT 0 = min ((0 :: s.dma.buckets).take (s.fld F.ASSAY_CFG_WIN_S 0)).sum 0xFFFF) ∧
  (∀ (s : State) (d : List Byte) (x ref : Option (List Byte)), s.halted = false → s.zolOn = false →
    Completes (.assayRecordStep d x) s (fun t => t = s) ∧ Completes (.findingConfirm ref) s (fun t => t = s)) ∧
  (∀ (s : State), s.aged s.dma.bucketAt 1000000000 = false → Completes .winCountBucketExpire s fun t => t = s)

/-- Thermal conversions, the throttle step, the operating limit and the trip. A conversion shows every reading. TJ_MAX is the highest reading
of a sensor that has not failed; the step rises to the highest one whose threshold it has reached and never falls at a conversion;
OVER_LIMIT follows it; where no sensor fails or reaches TRIP_C nothing else changes but events. A sensor at or above TRIP_C in two
conversions in a row drives THERMTRIP_N low and resets the device. The step falls by one where TJ_MAX has been below its threshold less
the hysteresis for one second and fewer than four sensors have failed; else a step-down command changes nothing. The stuck check of the 48
offset conversions, due after 60 s, fails the sensors whose offset reading differs from their last by less than 4 °C; failed sensors stay
failed, and with four of them step 3 is held. Before it is due it changes nothing. (R411, R412, R413, R414, R415, R416) -/
def Obligations.TemperaturesThrottleAndTrip : Prop :=
  (∀ (s : State) (l : List Int), s.opMode ≠ modeCold → (∀ i, i < 48 → l.getD i 0 < 8 * (s.fld F.THM_CFG_TRIP_C 0 : Int)) →
    Completes (.thermalConversion l) s fun t => ∀ i, i < 48 → t.fld F.THM_SENSOR_TEMP i = ofSigned 12 (clampTemp (l.getD i 0))) ∧
  (∀ (s : State) (l : List Int) (x : Int) (i : Nat), s.opMode ≠ modeCold →
    (∀ i, i < 48 → l.getD i 0 < 8 * (s.fld F.THM_CFG_TRIP_C 0 : Int) ∧ tempFails (l.getD i 0) = false) → s.hottest l = some (x, i) →
    Completes (.thermalConversion l) s fun t => t.fld F.THM_STATUS_TJ_MAX 0 = ofSigned 12 (clampTemp x) ∧ t.fld F.THM_STATUS_HOT_SENSOR 0 = i ∧
      t.fld F.THM_STATUS_STEP 0 = max (s.fld F.THM_STATUS_STEP 0) (s.stepFor x) ∧
      t.bit F.THM_STATUS_OVER_LIMIT 0 = decide (8 * (s.fld F.THM_CFG_LIMIT_C 0 : Int) ≤ x) ∧ t.thm.fails = s.thm.fails ∧
      Only (evP ++ [.thm, .clk]) s t ∧ OnlyRegs (evR ++ [.AISLE_SRCH_EVT_CAUSE, .AISLE_SRCH_STATUS, .SYS_MODE, .THM_EVT_CAUSE, .THM_SENSOR, .THM_STATUS]) s t) ∧
  (∀ (s : State) (l : List Int) (i : Nat), s.opMode ≠ modeCold → i < 48 → s.thm.fails.contains i = false → s.thm.prevTrip.contains i = true →
    8 * (s.fld F.THM_CFG_TRIP_C 0 : Int) ≤ l.getD i 0 → tempFails (l.getD i 0) = false → s.clk.thermLow = false → s.nvm.prog = none →
    Completes (.thermalConversion l) s fun t => resetWide t ∧ t.clk.thermLow = true ∧ t.clk.srcs.contains srcTrip = true) ∧
  (∀ (s : State), Completes .thermalStepDown s fun t =>
    let n := s.fld F.THM_STATUS_STEP 0
    let due := ∃ w, s.thm.belowAt = some w ∧ s.aged w 1000000000 = true
    (due ∧ 0 < n ∧ s.thm.fails.length < 4 ∧
      toSigned 12 (s.fld F.THM_STATUS_TJ_MAX 0) < s.stepThr n - 8 * (s.fld F.THM_CFG_HYST_C 0 : Int) → t.fld F.THM_STATUS_STEP 0 = n - 1) ∧
    (¬ (due ∧ 0 < n ∧ s.thm.fails.length < 4 ∧
      toSigned 12 (s.fld F.THM_STATUS_TJ_MAX 0) < s.stepThr n - 8 * (s.fld F.THM_CFG_HYST_C 0 : Int)) → t = s)) ∧
  (∀ (s : State) (l : List Int), s.opMode ≠ modeCold → s.aged s.thm.stuckAt 60000000000 = true → Completes (.sensorStuckCheck l) s fun t =>
    t.thm.stuckAt = s.time.words ∧
    (∀ i, i < 48 → (i ∈ t.thm.fails ↔ i ∈ s.thm.fails ∨ (l.getD i 0 - toSigned 12 (s.fld F.THM_SENSOR_TEMP i)).natAbs < 32)) ∧
      ((∃ i, i < 48 ∧ i ∉ s.thm.fails ∧ (l.getD i 0 - toSigned 12 (s.fld F.THM_SENSOR_TEMP i)).natAbs < 32) → 4 ≤ t.thm.fails.length →
        t.fld F.THM_STATUS_STEP 0 = 3)) ∧
  (∀ (s : State) (l : List Int), s.opMode ≠ modeCold → s.aged s.thm.stuckAt 60000000000 = false →
    Completes (.sensorStuckCheck l) s fun t => t = s)

/-- Zolliwin's power request of a step: taken where R336 permits it, else kept for its repetition. -/
def powerAsked (s t : State) (step : Nat) : Prop :=
  let tgt := if step = 0 then modeOpen else modeLean
  if s.requestFault tgt step = 0 then t.thm.pwrReq = none ∧ (step ≠ 0 ∨ s.opMode = modeLean → t.fld F.SYS_MODE_REQ_STEP 0 = step) ∧
    (if s.opMode = modeLean ∧ (step ≠ 0 ∨ 0 < s.fld F.THM_STATUS_STEP 0) then t.newEpoch = s.newEpoch ∧ t.opMode = s.opMode
     else modeUnderWay s t tgt)
  else t.thm.pwrReq = some step ∧ t.fld F.SYS_MODE_REQ_STEP 0 = s.fld F.SYS_MODE_REQ_STEP 0 ∧ t.opMode = s.opMode

/-- The power of the two rails and the steps Zolliwin requests for it. A reading shows voltage and current of both rails and their power in W,
exact where it is a whole number. Power above the limit since 100 ms makes Zolliwin request LEAN with one step more, at most 3; below 95 %
of it since 10 s one step less, and OPEN from step 1. A permitted request brings the mode change under way, or in LEAN sets the step
alone; one that R336 does not permit is kept and repeated 10 ms later, while a limit is set. Before their times these commands change
nothing. The clauses rest on the choices of log entries 88 and 163. (R344, R417, R419) -/
def Obligations.PowerIsLimited : Prop :=
  (∀ (s : State) (mv da : List Nat), s.clk.step = 11 → Completes (.powerRead mv da) s fun t =>
    let v := fun i => min (mv.getD i 0) 65535
    let a := fun i => min (da.getD i 0) 65535
    (∀ i, i < 2 → t.fld F.SHR_AVS_STATUS_VOLT_MV i = v i ∧ t.fld F.SHR_AVS_STATUS_AMPS i = a i) ∧
    ((v 0 * a 0 + v 1 * a 1) % 10000 = 0 → t.fld F.PWR_STATUS_PWR_W 0 = min ((v 0 * a 0 + v 1 * a 1) / 10000) 1023)) ∧
  (∀ (s : State) (w : Nat), s.zolOn = true → 0 < s.fld F.PWR_CFG_PWR_LIMIT_W 0 → s.fld F.PWR_CFG_PWR_LIMIT_W 0 < s.fld F.PWR_STATUS_PWR_W 0 →
    s.thm.overAt = some w → s.aged w 100000000 = true → Completes .pwrLean s fun t => powerAsked s t (min 3 (s.fld F.SYS_MODE_REQ_STEP 0 + 1)) ∧ t.rawFld F.SHR_EVT_CAUSE_PWR_LEAN 0 = 1) ∧
  (∀ (s : State) (w : Nat), s.zolOn = true → 0 < s.fld F.PWR_CFG_PWR_LIMIT_W 0 → 0 < s.fld F.SYS_MODE_REQ_STEP 0 →
    s.fld F.PWR_STATUS_PWR_W 0 * 100 < 95 * s.fld F.PWR_CFG_PWR_LIMIT_W 0 → s.thm.underAt = some w → s.aged w 10000000000 = true →
    Completes .pwrStepRelax s fun t => powerAsked s t (s.fld F.SYS_MODE_REQ_STEP 0 - 1)) ∧
  (∀ (s : State) (n : Nat), s.zolOn = true → 0 < s.fld F.PWR_CFG_PWR_LIMIT_W 0 → s.thm.pwrReq = some n → n < 4 → s.aged s.thm.pwrReqAt 10000000 = true →
    Completes .pwrRequestRetry s fun t => powerAsked s t n) ∧
  (∀ (s : State) (w : Nat), s.thm.overAt = some w → s.aged w 100000000 = false → Completes .pwrLean s fun t => t = s) ∧
  (∀ (s : State) (w : Nat), s.thm.underAt = some w → s.aged w 10000000000 = false → Completes .pwrStepRelax s fun t => t = s) ∧
  (∀ (s : State), (s.aged s.thm.pwrReqAt 10000000 = false ∨ s.fld F.PWR_CFG_PWR_LIMIT_W 0 = 0) → Completes .pwrRequestRetry s fun t => t = s)

/-- Canaries, AVS steps, and the planner's cycle. A canary sample, once a second, stores the readings and counts a second at the present
temperature (stated where the sample starts neither a cycle nor an action). A rail goes toward its target by at most 5 mV a command,
AVS_STEP_MS after the last one or at once where that failed; three commands that fail put it in fault, and a repetition that succeeds, 10
ms after the last command, ends the fault. A planner cycle starts when it is due, or on PLAN_NOW outside a cycle; it ends with PLANNING
clear, PLAN_DONE and the projection shown. Deferred actions begin after ten minutes, or once the servo has left ACQUIRING. Before their
times these commands change nothing. The clauses rest on the choices of log entries 91, 92, 93 and 148. (R418, R419, R420, R421, R428,
R436) -/
def Obligations.TheRailsFollowTheirTargets : Prop :=
  (∀ (s : State) (dl vm tm : List Nat), s.halted = false → s.clk.step = 11 → s.aged s.thm.canaryAt 1000000000 = true →
    s.zolOn = false ∨ (s.thm.actions = [] ∧ (s.mode.everOpen = false ∨ s.bit F.SHR_STATUS_PLANNING 0 = true)) →
    Completes (.canarySample dl vm tm) s fun t => t.thm.delta = readings dl 64 0 ∧ t.thm.vmin = readings vm 32 0 ∧
      t.thm.tmargin = readings tm 1600 100 ∧ t.thm.opSec = s.thm.opSec + 1 ∧ t.thm.canaryAt = s.time.words ∧
      (let b := tjBin (toSigned 12 (s.fld F.THM_STATUS_TJ_MAX 0))
       tabGet t.thm.hist 0 b = tabGet s.thm.hist 0 b + 1) ∧
      ((∃ e ∈ readings tm 1600 100, e.2 < s.fld F.SHR_CFG2_TCAM_FLOOR 0) → t.rawFld F.SHR_EVT_CAUSE_MARGIN_LOW 0 = 1)) ∧
  (∀ (s : State) (r : Fin 2) (ack : Bool), s.halted = false → 7 ≤ s.clk.step → s.thm.avsFault.contains (r : Nat) = false →
    s.fld F.SHR_AVS_TARGET_TARGET_MV r ≠ s.railNow r →
    tabGet s.thm.avsFail 0 r ≠ 0 ∨ s.avsAged r (s.fld F.SHR_CTL_AVS_STEP_MS 0 * 1000000) = true →
    Completes (.avsStep r ack) s fun t =>
      let v := avsNext (s.railNow r) (s.fld F.SHR_AVS_TARGET_TARGET_MV r)
      if ack then t.railNow r = v ∧ .avs r v ∈ t.out ∧ tabGet t.thm.avsFail 0 r = 0
      else t.railNow r = s.railNow r ∧ t.thm.avsFault.contains (r : Nat) = decide (2 ≤ tabGet s.thm.avsFail 0 r) ∧
        (2 ≤ tabGet s.thm.avsFail 0 r → t.rawFld F.SHR_EVT_CAUSE_AVS_FAULT 0 = 1)) ∧
  (∀ (s : State) (r : Fin 2) (ack : Bool), s.halted = false → s.thm.avsFault.contains (r : Nat) = true → s.avsAged r 10000000 = true → Completes (.avsFaultRetry r ack) s fun t =>
    t.thm.avsFault.contains (r : Nat) = !ack ∧ t.out = .avs r (s.railNow r) :: s.out) ∧
  (∀ (s : State) (w : Nat), s.halted = false → s.canPlan = true → s.bit F.SHR_CFG_PLAN_EN 0 = true → s.thm.planAt = some w → s.aged w 0 = true →
    Completes .plannerCycleStart s fun t => t.bit F.SHR_STATUS_PLANNING 0 = true ∧ t.thm.hist = [] ∧ t.thm.cycleAt = some s.time.words ∧
      t.thm.planAt = some (s.time.words + s.fld F.SHR_CFG_PLAN_H 0 * wordsHour)) ∧
  (∀ (s : State) (r : Req) (v : Word), s.takes r .SHR_CTL 0 = true → v.getLsbD 0 = true → Completes (.planNow r v) s fun t =>
    if s.bit F.SHR_STATUS_PLANNING 0 = true ∨ s.mode.everOpen = false then s.turnedBy t F.SHR_STATUS_REJECT 0 ∧ t.thm = s.thm
    else if s.bit F.SHR_CFG_PLAN_EN 0 = false then t = s
    else if s.canPlan then t.bit F.SHR_STATUS_PLANNING 0 = true ∧ t.thm.cycleAt = some s.time.words
    else t.thm.planAt = some s.time.words) ∧
  (∀ (s : State) (w : Nat), s.zolOn = true → s.bit F.SHR_STATUS_PLANNING 0 = true → s.thm.cycleAt = some w →
    s.aged w nsTenMin = true → Completes .planDone s fun t => t.bit F.SHR_STATUS_PLANNING 0 = false ∧
      t.fld F.SHR_STATUS_REMAIN_H 0 = s.thm.planRemain % 2 ^ F.SHR_STATUS_REMAIN_H.w ∧ t.rawFld F.SHR_EVT_CAUSE_PLAN_DONE 0 = 1 ∧
      (s.thm.planRemain < 17520 → t.rawFld F.SHR_EVT_CAUSE_EOL_NEAR 0 = 1)) ∧
  (∀ (s : State) (m : Nat), s.thm.deferred = 1 → s.aged s.thm.deferAt nsTenMin = true → s.zolOn = true →
    s.thm.actions = [(2, m)] → s.servo = svAcquiring → s.thm.avsFault.contains 0 = false →
    Completes .shoringDeferExpire s fun t => t.thm.deferred = 2 ∧ t.thm.actions = [] ∧
      t.fld F.SHR_AVS_TARGET_TARGET_MV 0 = m % 2 ^ F.SHR_AVS_TARGET_TARGET_MV.w) ∧
  (∀ (s : State) (dl vm tm : List Nat), s.aged s.thm.canaryAt 1000000000 = false → Completes (.canarySample dl vm tm) s fun t => t = s) ∧
  (∀ (s : State) (r : Fin 2) (ack : Bool), tabGet s.thm.avsFail 0 r = 0 → s.avsAged r (s.fld F.SHR_CTL_AVS_STEP_MS 0 * 1000000) = false →
    Completes (.avsStep r ack) s fun t => t = s) ∧
  (∀ (s : State) (r : Fin 2) (ack : Bool), s.avsAged r 10000000 = false → Completes (.avsFaultRetry r ack) s fun t => t = s) ∧
  (∀ (s : State) (w : Nat), s.thm.planAt = some w → s.aged w 0 = false → Completes .plannerCycleStart s fun t => t = s) ∧
  (∀ (s : State) (m : Nat), s.thm.deferred = 1 → s.servo ≠ svAcquiring → s.zolOn = true → s.thm.actions = [(2, m)] →
    s.thm.avsFault.contains 0 = false → Completes .shoringDeferExpire s fun t => t.thm.deferred = 0 ∧ t.thm.actions = [] ∧
      t.fld F.SHR_AVS_TARGET_TARGET_MV 0 = m % 2 ^ F.SHR_AVS_TARGET_TARGET_MV.w) ∧
  (∀ (s : State), s.aged s.thm.deferAt nsTenMin = false → s.servo = svAcquiring →
    Completes .shoringDeferExpire s fun t => t = s)

/-- A bus error is noted: BUS_ERR, a held capture, one more access turned away; and nothing else changes but what events change. -/
def busErrorNoted (s t : State) : Prop :=
  t.evt.turned = s.evt.turned + 1 ∧ t.rawFld F.SYS_EVT_CAUSE_BUS_ERR 0 = 1 ∧ (t.raw .SYS_BUS_ERR 0).getLsbD 31 = true ∧
    Only wrP s t ∧ OnlyRegs wrR s t

/-- The registers whose staged fields a boundary at place `i` lets take effect: of an aisle, of a quarter, of the switch core, of a port. -/
def stagedHere (b : Boundary) (i : Nat) (r : Reg) (n : Nat) : Bool :=
  match b with
  | .pktAisle => [Reg.AISLE_LPM_MAP, .AISLE_RULE_MAP].contains r && outerIdx r n == i
  | .pktQtr => [Reg.QTR_LEARN_CFG, .QTR_ECMP_CFG, .QTR_ECMP_SEED, .QTR_PCOL_MAP].contains r && outerIdx r n == i
  | .pktSwc => r == .SWC_CFG
  | .pktPort => r == .SWC_PORT_CFG && n == i
  | .frmPort => [Reg.PORT_CFG, .TIME_PORT_CFG, .TIME_PORT_ASYM].contains r && n == i || r == .SCH_Q_CFG && n / 9 == i
  | .gatePort => [Reg.SCH_PORT_CFG, .SCH_PORT_RATE, .SCH_PORT_BURST].contains r && n == i ||
      [Reg.SCH_Q_CFG, .SCH_Q_MIN, .SCH_Q_MAX, .SCH_Q_BURST].contains r && n / 9 == i

/-- The fields that wait for a boundary. -/
def stagedAs (b : Boundary) : Applies :=
  match b with
  | .frmPort => .frm
  | .gatePort => .gate
  | _ => .pkt

/-- What a boundary changes beside the fields that take effect: at a frame boundary the headroom and the pauses follow PFC_EN, at a gate
boundary the buckets are brought up to date. -/
def stagedParts (b : Boundary) : List Part :=
  match b with
  | .frmPort => evP ++ [.ports, .cnt]
  | .gatePort => [.live, .ports]
  | _ => [.live]

/-- A write acts field by field, waits for its boundary, or is a bus error. A write that does not arrive changes nothing. One of another shape
than one aligned word, of a reserved location, or of a block not started is one bus error and changes nothing else. A write to a register
with no rule of its own acts field by field: RO and, for other masters, SEC fields stay, W1C and W1S bits clear and set, CNT and RW fields
take the value or the nearest end of their range, LCK fields only while CFG_LOCK = 0. SEC_CFG takes a secure master's value unless
CFG_LOCK is set, which is noted as a locked write. An RW field that waits for a boundary reads as written and takes effect at
STAGED_FIELD_APPLY of its boundary, which leaves every other register; at a gate boundary only at the start of a cycle of the hours list
or, without a list, between frames. The clauses rest on the choices of log entries 105, 118, 119 and 131. (R6, R7, R9, R273, R274, R275,
R280, R284) -/
def Obligations.RegistersAreWritten : Prop :=
  (∀ (s : State) (rq : Req) (ok : Bool) (a : Nat) (v : Word), s.arrives rq = false → Completes (.registerWrite rq ok a v) s fun t => t = s) ∧
  (∀ (s : State) (rq : Req) (ok : Bool) (a : Nat) (v : Word), s.arrives rq = true → (ok = false ∨ a % 4 ≠ 0 ∨ (windowAddr rq a).bind findReg = none) →
    Completes (.registerWrite rq ok a v) s (busErrorNoted s)) ∧
  (∀ (s : State) (rq : Req) (a : Nat) (v : Word) (r : Reg) (n : Nat), s.arrives rq = true → a % 4 = 0 → (windowAddr rq a).bind findReg = some (r, n) →
    (s.accessErr rq r n).isSome = true → Completes (.registerWrite rq true a v) s (busErrorNoted s)) ∧
  (∀ (s : State) (rq : Req) (a : Nat) (v : Word) (r : Reg) (n : Nat), a % 4 = 0 → (windowAddr rq a).bind findReg = some (r, n) → s.takes rq r n = true →
    r ≠ .SHR_CTL → rowWrite rq r n v = none → plainWrite (s.asReq rq) r n v = writeFields (s.asReq rq) r n v →
    Completes (.registerWrite rq true a v) s fun t =>
      (∀ f ∈ r.fields, fieldWritten (secureReq (s.asReq rq)) s.cfgLock r n v f s t) ∧
      (∀ q m, (q, m) ≠ (r, n) → rjR.contains q = false → t.raw q m = s.raw q m ∧ t.eff q m = s.eff q m) ∧ Only wrP s t) ∧
  (∀ (s : State) (rq : Req) (v : Word), s.takes rq .SEC_CFG 0 = true → windowAddr rq (regAddr .SEC_CFG 0) = some (regAddr .SEC_CFG 0) →
    Completes (.registerWrite rq true (regAddr .SEC_CFG 0) v) s fun t =>
    (secureReq (s.asReq rq) = false → t.raw .SEC_CFG 0 = s.raw .SEC_CFG 0 ∧ t.evt = s.evt) ∧
    (secureReq (s.asReq rq) = true → s.cfgLock = true →
      t.raw .SEC_CFG 0 = s.raw .SEC_CFG 0 ∧ t.rawFld F.SYS_EVT_CAUSE_LOCKED_WR 0 = 1 ∧ t.evt.turned = s.evt.turned + 1) ∧
    (secureReq (s.asReq rq) = true → s.cfgLock = false → t.raw .SEC_CFG 0 = v &&& 0xF#32 ∧
      (bits v F.SEC_CFG_SECURE_SESSION_EN.lo 1 = 0 → ∀ x ∈ t.sec.sess, x.secure = false))) ∧
  (∀ (s : State) (b : Boundary) (i n : Nat) (r : Reg), stagedHere b i r n = true → (b = .gatePort → s.gateDue i = true) →
    Completes (.stagedFieldApply b i) s fun t =>
    t.raw r n = s.raw r n ∧ ∀ f ∈ r.fields, f.ty = .rw →
      t.fld (f.fld r) n = if f.ap = stagedAs b then s.rawFld (f.fld r) n else s.fld (f.fld r) n) ∧
  (∀ (s : State) (b : Boundary) (i n : Nat) (r : Reg), stagedHere b i r n = false →
    (b = .frmPort → (evR ++ [Reg.SWC_PORT_HDRM, .SWC_PORT_STATE, .SWC_SHARED_FREE, .SWC_STATUS, .SWC_EVT_CAUSE]).contains r = false) →
    Completes (.stagedFieldApply b i) s fun t => t.raw r n = s.raw r n ∧ t.eff r n = s.eff r n ∧ Only (stagedParts b) s t) ∧
  (∀ (s : State) (i : Nat), s.gateDue i = false → Completes (.stagedFieldApply .gatePort i) s fun t => t = s)

/-- Reads through the window, and the commands of the SMBus target. A read through the window answers the word the register shows the
requester (SEC fields 0 for other masters) and changes nothing; one of another shape than one aligned word, of a reserved location or of a
block not started is one bus error. REG_READ answers count 4, the octets of the register the narrow window maps the address to, least
significant first (0 where it maps none), and the PEC. REG_WRITE with a bad PEC, or none where one is required, is discarded and counted;
with another count than 6, or outside the SYS registers, it does nothing; else it is the write of the register. A command code of no SMBus
command is not acknowledged. A timeout releases the bus. The device answers the alert response address while it asserts SMB_ALERT_N, then
releases it. The clauses rest on the choices of log entries 107 and 171. (R274, R275, R277, R278, R279, R301) -/
def Obligations.TheSmbusReadsAndWrites : Prop :=
  (∀ (s : State) (rq : Req) (a : Nat) (r : Reg) (n : Nat), s.arrives rq = true → a % 4 = 0 → (windowAddr rq a).bind findReg = some (r, n) →
    s.accessErr rq r n = none → Completes (.regRead (.window rq true a)) s fun t =>
      t = { s with out := .readData (s.asReq rq) (s.readWord (s.asReq rq) r n) :: s.out } ∧
      ∀ f ∈ r.fields, f.sec = true → secureReq (s.asReq rq) = false → bits (s.readWord (s.asReq rq) r n) f.lo f.w = 0) ∧
  (∀ (s : State) (rq : Req) (ok : Bool) (a : Nat), s.arrives rq = true →
    (ok = false ∨ a % 4 ≠ 0 ∨ (windowAddr rq a).bind findReg = none ∨ ∃ r n, (windowAddr rq a).bind findReg = some (r, n) ∧ s.accessErr rq r n ≠ none) →
    Completes (.regRead (.window rq ok a)) s (busErrorNoted s)) ∧
  (∀ (s : State) (a : Nat), s.arrives .smb = true → Completes (.regRead (.smbus 0x20 a)) s fun t =>
    t = { s with out := .smbRead (4#8 :: leBytes 4 (s.narrowRead a).toNat ++ [smbPec ([BitVec.ofNat 8 (2 * s.clk.opts.smbAddr), 0x20#8, 2#8] ++
      beBytes 2 a ++ [BitVec.ofNat 8 (2 * s.clk.opts.smbAddr + 1)] ++ (4#8 :: leBytes 4 (s.narrowRead a).toNat))]) :: s.out }) ∧
  (∀ (s : State) (c a : Nat) (v : Word) (p : Option Bool), s.arrives .smb = true →
    (p = some false ∨ p = none ∧ s.bit F.SYS_IF_CFG_SMB_PEC_REQ 0 = true) →
    Completes (.regWrite ⟨0x21, c⟩ a v p) s fun t => t = { s with evt := { s.evt with smbDrops := s.evt.smbDrops + 1 } }) ∧
  (∀ (s : State) (c a : Nat) (v : Word), (c ≠ 6 ∨ 0x1000 ≤ a) → Completes (.regWrite ⟨0x21, c⟩ a v (some true)) s fun t => t = s) ∧
  (∀ (s : State) (a : Nat) (v : Word) (r : Reg) (n : Nat), s.arrives .smb = true → a < 0x1000 → a % 4 = 0 → findReg a = some (r, n) →
    Completes (.regWrite ⟨0x21, 6⟩ a v (some true)) s fun t => exec (.registerWrite .smb true a v) s = .next t) ∧
  (∀ (s : State) (k : BitVec 8) (c a : Nat) (v : Word) (p : Option Bool), s.arrives .smb = true → k ≠ 0x20 → k ≠ 0x21 → k ≠ 0x0F →
    Completes (.regWrite ⟨k, c⟩ a v p) s fun t => t = { s with out := .smbNack :: s.out } ∧ exec (.regRead (.smbus k a)) s = .next t) ∧
  (∀ (s : State), Completes .smbusTimeout s fun t => t = { s with out := .smbusRelease :: s.out }) ∧
  (∀ (s : State), s.alertN = true → Completes .alertResponse s fun t =>
    t.alertN = false ∧ t.out = .alertAddr s.clk.opts.smbAddr :: s.out ∧ t.regs = s.regs) ∧
  (∀ (s : State), s.alertN = false → Completes .alertResponse s fun t => t = s)

/-- Operation `op` is started on a mailbox with GO = 1, and meets no bus error. -/
abbrev mbxGo (s : State) (rq : Req) (n op : Nat) (ctl : Word) : Prop :=
  s.takes rq .MBX_CTL n = true ∧ ctl.getLsbD 31 = true ∧ bits ctl 0 4 = op ∧ s.bit F.MBX_CTL_GO n = false

/-- The DATA words of a mailbox, and the 48-bit value of its pair `c`. -/
def mbxData (s : State) (n : Nat) : List Word := (List.range 16).map fun i => s.raw .MBX_DATA (16 * n + i)
def mbxData48 (s : State) (n c : Nat) : Nat :=
  (s.raw .MBX_DATA (16 * n + 2 * c)).toNat + (s.raw .MBX_DATA (16 * n + 2 * c + 1)).toNat % 2 ^ 16 * 2 ^ 32

/-- The operation of a mailbox meets no fault of R288. -/
abbrev mbxGood (s : State) (rq : Req) (n op : Nat) (ctl : Word) : Prop :=
  s.mbxFault (s.asReq rq) (s.fld F.MBX_SEL_BLOCK n) (s.fld F.MBX_SEL_INDEX n) op (bits ctl 16 8) (bits ctl 8 8) (mbxData s n) = 0

/-- A mailbox operation has ended well: VALID, no ERR, GO clear, and MBX_DONE of a host mailbox. -/
def mbxEnded (t : State) (n : Nat) (good : Bool) : Prop :=
  t.bit F.MBX_CTL_VALID n = good ∧ t.bit F.MBX_CTL_ERR n = !good ∧ t.bit F.MBX_CTL_GO n = false ∧
    (n < 16 → (t.raw .EVT_STATUS 54).getLsbD n = true)

/-- Reads, writes, read-and-clears and module memory through mailboxes. With GO = 1, READ leaves a counter value in the DATA words two words a
counter, the rest 0; READ_CLEAR the same and clears the counters, or the occurrences, the maxima or the histogram of its value; WRITE
loads counters, hours-list entries, BFD sessions, routes, unicast masters, performance counters or requester keys from DATA. An ID or
index not implemented gives ERR 0x1, one not open to the requester 0x2, and DATA stays. A GO while one runs is rejected with 0x3. Module
memory waits for the controller of its site, which runs one transaction at a time, and ends when its own does, with the octets read, or
with ERR 0x5; a result whose mailbox was reset is dropped. Each end of an operation raises MBX_DONE. The clauses rest on the choices of
log entries 100, 101, 102 and 172. (R56, R282, R286, R287, R288, R289, R290, R291, R292) -/
def Obligations.MailboxesOperate : Prop :=
  (∀ (s : State) (rq : Req) (n : Fin 20) (ctl : Word) (c : Nat), mbxGo s rq n mbRead ctl → s.mbxFault (s.asReq rq) (s.fld F.MBX_SEL_BLOCK n)
      (s.fld F.MBX_SEL_INDEX n) mbRead (bits ctl 16 8) (bits ctl 8 8) [] = 0 →
    c < cntWidth (s.fld F.MBX_SEL_BLOCK n) (s.fld F.MBX_SEL_INDEX n) → Completes (.mbxRead rq n ctl) s fun t =>
      (let k := (s.cntOf (cntKey (s.fld F.MBX_SEL_BLOCK n) (s.fld F.MBX_SEL_INDEX n) c)).toNat
       (t.raw .MBX_DATA (16 * n + 2 * c)).toNat = k % 2 ^ 32 ∧ (t.raw .MBX_DATA (16 * n + 2 * c + 1)).toNat = k / 2 ^ 32) ∧
      (∀ j, 2 * cntWidth (s.fld F.MBX_SEL_BLOCK n) (s.fld F.MBX_SEL_INDEX n) ≤ j → j < 16 → t.raw .MBX_DATA (16 * n + j) = 0) ∧
      mbxEnded t n true ∧ t.cnt = s.cnt) ∧
  (∀ (s : State) (rq : Req) (n : Fin 20) (ctl : Word) (c : Nat), mbxGo s rq n mbClear ctl → mbxGood s rq n mbClear ctl →
    c < cntWidth (s.fld F.MBX_SEL_BLOCK n) (s.fld F.MBX_SEL_INDEX n) →
    ¬(s.fld F.MBX_SEL_BLOCK n = 0x11 ∧ s.fld F.MBX_SEL_INDEX n % 2 = 1 ∧ c = 4) → Completes (.mbxReadClear rq n ctl) s fun t =>
      (let k := cntKey (s.fld F.MBX_SEL_BLOCK n) (s.fld F.MBX_SEL_INDEX n) c
       (t.raw .MBX_DATA (16 * n + 2 * c)).toNat = (s.cntOf k).toNat % 2 ^ 32 ∧
         (t.raw .MBX_DATA (16 * n + 2 * c + 1)).toNat = (s.cntOf k).toNat / 2 ^ 32 ∧ t.cntOf k = 0) ∧ mbxEnded t n true) ∧
  (∀ (s : State) (rq : Req) (n : Fin 20) (ctl : Word), mbxGo s rq n mbClear ctl → mbxGood s rq n mbClear ctl →
    Completes (.mbxReadClear rq n ctl) s fun t => mbxEnded t n true ∧
      let idx := s.fld F.MBX_SEL_INDEX n
      (s.fld F.MBX_SEL_BLOCK n = 0x01 → idx ≠ 54 → ∀ i, i < 32 → t.occOf (32 * idx + i) = 0) ∧
      (s.fld F.MBX_SEL_BLOCK n = 0x60 → idx % 2 = 0 → ∀ c, c < 8 → t.pcOf (idx / 2) c = 0) ∧
      (s.fld F.MBX_SEL_BLOCK n = 0x60 → idx % 2 = 1 → (t.perfB (idx / 2)).cyc = 0) ∧
      (s.fld F.MBX_SEL_BLOCK n = 0x62 → t.fld F.BWM_RX_MAX_COUNT idx = 0 ∧ t.fld F.BWM_TX_MAX_COUNT idx = 0) ∧
      (s.fld F.MBX_SEL_BLOCK n = 0x90 → t.thm.hist = [])) ∧
  (∀ (s : State) (rq : Req) (n : Fin 20) (ctl : Word) (c : Nat), mbxGo s rq n mbWrite ctl → mbxGood s rq n mbWrite ctl →
    c < cntWidth (s.fld F.MBX_SEL_BLOCK n) (s.fld F.MBX_SEL_INDEX n) →
    ¬(s.fld F.MBX_SEL_BLOCK n = 0x11 ∧ s.fld F.MBX_SEL_INDEX n % 2 = 1 ∧ c = 4) → Completes (.mbxWrite rq n ctl) s fun t =>
      (t.cntOf (cntKey (s.fld F.MBX_SEL_BLOCK n) (s.fld F.MBX_SEL_INDEX n) c)).toNat = mbxData48 s n c ∧ mbxEnded t n true) ∧
  (∀ (s : State) (rq : Req) (n : Fin 20) (ctl : Word), mbxGo s rq n mbWrite ctl → mbxGood s rq n mbWrite ctl →
    Completes (.mbxWrite rq n ctl) s fun t =>
      let idx := s.fld F.MBX_SEL_INDEX n
      let d := mbxData s n
      (s.fld F.MBX_SEL_BLOCK n ≠ 0x12 → mbxEnded t n true) ∧
      (s.fld F.MBX_SEL_BLOCK n = 0x40 → idx / 256 % 2 = 0 →
        tabGet (t.port (idx / 512)).hl0 {} (idx % 256) = { ns := (d.getD 0 0).toNat, gates := (d.getD 1 0).setWidth 9 }) ∧
      (s.fld F.MBX_SEL_BLOCK n = 0x40 → idx / 256 % 2 = 1 →
        tabGet (t.port (idx / 512)).hl1 {} (idx % 256) = { ns := (d.getD 0 0).toNat, gates := (d.getD 1 0).setWidth 9 }) ∧
      (s.fld F.MBX_SEL_BLOCK n = 0x44 → (t.bfdS idx).pendWr = some (d.take 14)) ∧
      (s.fld F.MBX_SEL_BLOCK n = 0x55 → t.time.routes = d.take 15) ∧
      (s.fld F.MBX_SEL_BLOCK n = 0x57 → tabGet t.time.unicast [] idx = d.take 5) ∧
      (s.fld F.MBX_SEL_BLOCK n = 0x60 → idx % 2 = 0 → ∀ c, c < 8 → (t.pcOf (idx / 2) c).toNat = mbxData48 s n c) ∧
      (s.fld F.MBX_SEL_BLOCK n = 0x60 → idx % 2 = 1 → (t.perfB (idx / 2)).cyc.toNat = (d.getD 0 0).toNat + (d.getD 1 0).toNat * 2 ^ 32) ∧
      (s.fld F.MBX_SEL_BLOCK n = 0x73 →
        tabGet t.sec.reqKeys 0 idx = BitVec.ofNat 512 (beNat (wordsBytes d)))) ∧
  (∀ (s : State) (rq : Req) (n : Fin 20) (ctl : Word), mbxGo s rq n mbRead ctl →
    vidOk (s.fld F.MBX_SEL_BLOCK n) (s.fld F.MBX_SEL_INDEX n) = false → Completes (.mbxRead rq n ctl) s fun t =>
      t.fld F.MBX_CTL_ERRCODE n = 1 ∧ mbxEnded t n false ∧ ∀ m, t.raw .MBX_DATA m = s.raw .MBX_DATA m) ∧
  (∀ (s : State) (rq : Req) (n : Fin 20) (ctl : Word), mbxGo s rq n mbRead ctl →
    vidOk (s.fld F.MBX_SEL_BLOCK n) (s.fld F.MBX_SEL_INDEX n) = true →
    s.mayUse (s.asReq rq) (s.fld F.MBX_SEL_BLOCK n) (s.fld F.MBX_SEL_INDEX n) mbRead = false → Completes (.mbxRead rq n ctl) s fun t =>
      t.fld F.MBX_CTL_ERRCODE n = 2 ∧ mbxEnded t n false ∧ ∀ m, t.raw .MBX_DATA m = s.raw .MBX_DATA m) ∧
  (∀ (s : State) (rq : Req) (n : Fin 20) (ctl : Word), s.takes rq .MBX_CTL n = true → ctl.getLsbD 31 = true → bits ctl 0 4 = mbRead →
    s.bit F.MBX_CTL_GO n = true → Completes (.mbxRead rq n ctl) s fun t =>
      s.turnedBy t F.DMA_STATUS_REJECT 0 ∧ t.raw .MBX_CTL n = s.raw .MBX_CTL n) ∧
  (∀ (s : State) (rq : Req) (n : Fin 20) (ctl : Word), mbxGo s rq n mbRead ctl → s.fld F.MBX_SEL_BLOCK n = 0x12 →
    s.fld F.MBX_SEL_INDEX n % 4 = 0 → (s.asReq rq = .pf0 ∨ s.asReq rq = .z) →
    ([siteEmpty, siteReset, siteFaulted] : List Nat).contains (s.site (siteOf (s.fld F.MBX_SEL_INDEX n))) = false →
    0 < bits ctl 16 8 → bits ctl 16 8 ≤ 64 → bits ctl 8 8 + bits ctl 16 8 ≤ 256 → Completes (.mbxRead rq n ctl) s fun t =>
      let i := s.fld F.MBX_SEL_INDEX n
      let x : I2cTxn := { mbx := n, site := siteOf i, op := mbRead, bank := i / 2 ^ 10 % 256, page := i / 4 % 256
                          off := bits ctl 8 8, len := bits ctl 16 8 }
      (t.mbox n).busy = true ∧ t.bit F.MBX_CTL_GO n = true ∧
      ((∀ y ∈ s.evt.i2cQ, y.site / 8 ≠ siteOf i / 8) → t.evt.i2cQ = s.evt.i2cQ ++ [{ x with onBus := true }] ∧
        t.out = .i2c (siteOf i) false (i / 2 ^ 10 % 256) (i / 4 % 256) (bits ctl 8 8) (bits ctl 16 8) [] :: s.out) ∧
      ((∃ y ∈ s.evt.i2cQ, y.site / 8 = siteOf i / 8 ∧ y.onBus = true) → t.evt.i2cQ = s.evt.i2cQ ++ [x] ∧ t.out = s.out)) ∧
  (∀ (s : State) (n : Fin 20) (x : I2cTxn), s.halted = false → s.evt.i2cQ.find? (fun y => y.mbx == (n : Nat) && y.onBus) = some x → x.dropped = false →
    Completes (.mbxModuleIoDone n none) s fun t =>
      t.fld F.MBX_CTL_ERRCODE n = 5 ∧ t.bit F.MBX_CTL_ERR n = true ∧ t.bit F.MBX_CTL_GO n = false ∧ (t.mbox n).busy = false ∧
        ((n : Nat) < 16 → (t.raw .EVT_STATUS 54).getLsbD n = true) ∧ t.evt.i2cQ.length + 1 = s.evt.i2cQ.length) ∧
  (∀ (s : State) (n : Fin 20) (l : List Byte) (i : Fin 16) (x : I2cTxn), s.halted = false → s.evt.i2cQ.find? (fun y => y.mbx == (n : Nat) && y.onBus) = some x →
    x.dropped = false → x.op = mbRead → x.len ≤ 64 → l.length = x.len → Completes (.mbxModuleIoDone n (some l)) s fun t =>
      (t.raw .MBX_DATA (16 * n + i)).toNat = leAt l (4 * i) 4 ∧ t.bit F.MBX_CTL_VALID n = true ∧ t.bit F.MBX_CTL_GO n = false ∧
        (t.mbox n).busy = false ∧ ((n : Nat) < 16 → (t.raw .EVT_STATUS 54).getLsbD n = true) ∧ t.evt.i2cQ.length + 1 = s.evt.i2cQ.length) ∧
  (∀ (s : State) (n : Fin 20) (x : I2cTxn) (l : Option (List Byte)), s.halted = false → s.evt.i2cQ.find? (fun y => y.mbx == (n : Nat) && y.onBus) = some x →
    x.dropped = true → Completes (.mbxModuleIoDone n l) s fun t => t.regs = s.regs ∧ t.evt.i2cQ.length + 1 = s.evt.i2cQ.length) ∧
  (∀ (s : State) (n : Fin 20) (l : Option (List Byte)), (∀ x ∈ s.evt.i2cQ, x.mbx = (n : Nat) → x.onBus = false) →
    Completes (.mbxModuleIoDone n l) s fun t => t = s)

/-- A message for a vector is sent now: the function can send messages, and the vector is in the table, unmasked, not in its holdoff. -/
abbrev canSend (s : State) (pf vec : Nat) : Prop :=
  s.msixUp pf = true ∧ vec < msixEntries pf ∧ (s.msiV (msiKey pf vec)).masked = false ∧ (s.msiV (msiKey pf vec)).holding = false

/-- The outputs after the interrupt of the firmware view: Zolliwin is interrupted where a bit of EVT_Z_STATUS that EVT_Z_ENABLE has rises. -/
def zolTold (s : State) (e : Nat) : List Out :=
  if (s.raw .EVT_Z_STATUS (e / 32)).getLsbD (e % 32) = false ∧ (s.raw .EVT_Z_ENABLE (e / 32)).getLsbD (e % 32) = true then
    .zolEvt (e / 32) :: s.out
  else s.out

/-- An occurrence, and the messages it sends. A write of EVT_TEST with GO = 1 and a source below 1,792 makes one occurrence: the source's bit
is set in both views and its count rises, up to 65,535. A bit of the firmware view that was clear and is enabled interrupts Zolliwin. A
bit of the host view that was clear and is enabled sends one message to the vector its word is routed to, becomes pending there while the
vector is masked, waits for the end of a holdoff, or is counted as lost while the function cannot send (its link down, or MSI-X disabled)
or has no such vector; or it interrupts Zolliwin. Without GO, with a higher source, or for a lane that starts no port, nothing happens. A
holdoff's end, after HOLDOFF_US, and an unmask send what is owed; a holdoff that has not ended changes nothing. A clause rests on the
choice of log entry 158. (R293, R294, R296, R299, R300, R304, R308) -/
def Obligations.EventsAreDelivered : Prop :=
  (∀ (s : State) (rq : Req) (v : Word), s.takes rq .EVT_TEST 0 = true → v.getLsbD 31 = true → bits v 0 11 ≤ 1791 →
    (bits v 0 11 < 1024 → s.starts (bits v 0 11 % 512) = true) → Completes (.evtTest rq v) s fun t =>
      let e := bits v 0 11
      let w := e / 32
      let vec := s.fld F.EVT_ROUTE_VECTOR w
      let new := (s.raw .EVT_STATUS w).getLsbD (e % 32) = false ∧ (s.raw .EVT_ENABLE w).getLsbD (e % 32) = true
      (t.raw .EVT_STATUS w).getLsbD (e % 32) = true ∧ (t.raw .EVT_Z_STATUS w).getLsbD (e % 32) = true ∧
      (t.occOf e).toNat = min 65535 ((s.occOf e).toNat + 1) ∧ (¬new → t.out = zolTold s e) ∧
      (∀ pf, new → s.fld F.EVT_ROUTE_DEST w = pf + 1 → pf < 4 → canSend s pf vec → t.out = .msi pf vec :: zolTold s e) ∧
      (∀ pf, new → s.fld F.EVT_ROUTE_DEST w = pf + 1 → pf < 4 → s.msixUp pf = true → vec < msixEntries pf →
        ((s.msiV (msiKey pf vec)).masked = true → (t.msiV (msiKey pf vec)).pend = true ∧ t.out = zolTold s e) ∧
        ((s.msiV (msiKey pf vec)).masked = false → (s.msiV (msiKey pf vec)).holding = true →
          (t.msiV (msiKey pf vec)).owed = true ∧ t.out = zolTold s e)) ∧
      (∀ pf, new → s.fld F.EVT_ROUTE_DEST w = pf + 1 → pf < 4 → (s.msixUp pf = false ∨ msixEntries pf ≤ vec) →
        t.out = zolTold s e ∧ t.rawFld F.EVT_MSI_LOST_COUNT 0 = min (2 ^ 32 - 1) (s.rawFld F.EVT_MSI_LOST_COUNT 0 + 1)) ∧
      (new → s.fld F.EVT_ROUTE_DEST w = 5 → t.out = .zolIrq w :: zolTold s e)) ∧
  (∀ (s : State) (rq : Req) (v : Word), s.takes rq .EVT_TEST 0 = true → (v.getLsbD 31 = false ∨ 1791 < bits v 0 11 ∨
    bits v 0 11 < 1024 ∧ s.starts (bits v 0 11 % 512) = false) → Completes (.evtTest rq v) s fun t => t = s) ∧
  (∀ (s : State) (pf : Fin 4) (vec : Fin 2048), s.halted = false → (s.msiV (msiKey pf vec)).holding = true →
    s.aged (s.msiV (msiKey pf vec)).holdAt (s.fld F.EVT_CFG_HOLDOFF_US 0 * 1000) = true → Completes (.holdoffExpire pf vec) s fun t =>
    (t.msiV (msiKey pf vec)).owed = false ∧ ((s.msiV (msiKey pf vec)).owed = false → (t.msiV (msiKey pf vec)).holding = false ∧ t.out = s.out) ∧
      ((s.msiV (msiKey pf vec)).owed = true → s.msixUp pf = true → (vec : Nat) < msixEntries pf → (s.msiV (msiKey pf vec)).masked = false →
        t.out = .msi pf vec :: s.out ∧ ((t.msiV (msiKey pf vec)).holding = true ↔ 0 < s.fld F.EVT_CFG_HOLDOFF_US 0))) ∧
  (∀ (s : State) (pf : Fin 4) (vec : Fin 2048), ((s.msiV (msiKey pf vec)).holding = false ∨
    s.aged (s.msiV (msiKey pf vec)).holdAt (s.fld F.EVT_CFG_HOLDOFF_US 0 * 1000) = false) →
    Completes (.holdoffExpire pf vec) s fun t => t = s) ∧
  (∀ (s : State) (pf : Fin 4) (vec : Fin 2048) (en : Bool), (vec : Nat) < msixEntries pf → s.clk.pcieUp = true → s.clk.perst = false →
    s.bit F.CLK_STATUS_PCIE_LOCK 0 = true → Completes (.msixVectorUnmask ⟨pf, en⟩ vec) s fun t =>
    t.msixUp pf = en ∧ (t.msiV (msiKey pf vec)).masked = false ∧ (t.msiV (msiKey pf vec)).pend = false ∧
      ((s.msiV (msiKey pf vec)).pend = false → t.out = s.out) ∧
      ((s.msiV (msiKey pf vec)).pend = true → en = true → (s.msiV (msiKey pf vec)).holding = false → t.out = .msi pf vec :: s.out)) ∧
  (∀ (s : State) (pf : Fin 4) (vec : Fin 2048) (en : Bool), (msixEntries pf ≤ (vec : Nat) ∨ s.clk.pcieUp = false ∨ s.clk.perst = true ∨
    s.bit F.CLK_STATUS_PCIE_LOCK 0 = false) → Completes (.msixVectorUnmask ⟨pf, en⟩ vec) s fun t => t = s)

/-- The summaries show which leaf words have an enabled bit set. For every requester, bit w of EVT_SUMMARY0 reads 1 exactly while word w of
EVT_STATUS has a bit set that EVT_ENABLE has, and bit w of EVT_SUMMARY1 for word 32 + w; the Z summaries do the same over EVT_Z_STATUS and
EVT_Z_ENABLE for a secure master. (R298) -/
def Obligations.EventSummariesShowPendingWords : Prop :=
  (∀ (s : State) (rq : Req) (w : Nat), w < 32 →
    ((s.readWord rq .EVT_SUMMARY0 0).getLsbD w = true ↔ s.raw .EVT_STATUS w &&& s.raw .EVT_ENABLE w ≠ 0)) ∧
  (∀ (s : State) (rq : Req) (w : Nat), w < 24 →
    ((s.readWord rq .EVT_SUMMARY1 0).getLsbD w = true ↔ s.raw .EVT_STATUS (32 + w) &&& s.raw .EVT_ENABLE (32 + w) ≠ 0)) ∧
  (∀ (s : State) (rq : Req) (w : Nat), secureReq rq = true → w < 32 →
    ((s.readWord rq .EVT_Z_SUMMARY0 0).getLsbD w = true ↔ s.raw .EVT_Z_STATUS w &&& s.raw .EVT_Z_ENABLE w ≠ 0)) ∧
  (∀ (s : State) (rq : Req) (w : Nat), secureReq rq = true → w < 24 →
    ((s.readWord rq .EVT_Z_SUMMARY1 0).getLsbD w = true ↔ s.raw .EVT_Z_STATUS (32 + w) &&& s.raw .EVT_Z_ENABLE (32 + w) ≠ 0))

/-- `n` octets of host memory from `a` on. -/
def Sys2Proof.Machine.State.hostAt (s : State) (a n : Nat) : List Byte := (List.range n).map fun i => s.hostByte (a + i)

/-- Counter overflow, snapshots, the LED chain, the JTAG port, the pins and balls. An increment that carries a performance counter past 2^48
leaves the rest of it and sets its OVF bit, and with CHAIN adds one to the next counter; PERF_CYC past 2^64 sets CYC_OVF; a frozen,
disabled or held block does neither, nor does a counter that the one below chains into. A snapshot, at a multiple of the period later than
the last, advances SEQ and writes the magic, SEQ, the time, the epoch and the 19 blocks of R449 into the slot of that SEQ, or counts
itself lost, up to 0xFFFF. The LED frame has a link and an activity bit a lane, all 0 while the lanes are not started, every 20 ms, none
in COLD (log entry 173). EXTEST resets the parts of reach 2, or waits for a page program; another instruction releases them, Henura debug
acts as BYPASS while debug is locked, TRST_N low (class 4, log entry 190) leaves IDCODE without shifting it, and IDCODE gives its word
(log entry 99). After reset every output is at its In reset level (log entry 159); THERMTRIP_N, HOT_N, EVENT_N and SMB_ALERT_N follow
their conditions. Each lane, each low-speed signal and each clock pair has its balls where the array's rules place them. (R392, R442,
R448, R449, R450, R453, R454, R457, R463, R466, R469) -/
def Obligations.CountersSnapshotsAndPinsAct : Prop :=
  (∀ (s : State) (b : Fin 19) (c : Fin 8) (v : Nat), s.halted = false → s.perfLive b = true → s.pcOwn b c = true →
    2 ^ 48 ≤ (s.pcOf b c).toNat + v → v < 2 ^ 48 →
    Completes (.perfOverflow b ⟨c, by omega⟩ v) s fun t => (t.pcOf b c).toNat = (s.pcOf b c).toNat + v - 2 ^ 48 ∧
      (t.raw .PERF_STATUS b).getLsbD (8 + c) = true ∧
      (if (c : Nat) < 7 ∧ s.bit F.PC_CFG_CHAIN (8 * b + c) = true then
        t.pcOf b (c + 1) = s.pcOf b (c + 1) + 1 ∧ ∀ d, d < (c : Nat) → t.pcOf b d = s.pcOf b d
      else ∀ d, d ≠ (c : Nat) → t.pcOf b d = s.pcOf b d)) ∧
  (∀ (s : State) (b : Fin 19) (v : Nat), s.halted = false → s.perfOn b = true → 2 ^ 64 ≤ (s.perfB b).cyc.toNat + v → v < 2 ^ 64 →
    Completes (.perfOverflow b 8 v) s fun t => (t.perfB b).cyc.toNat = (s.perfB b).cyc.toNat + v - 2 ^ 64 ∧
      t.bit F.PERF_STATUS_CYC_OVF b = true) ∧
  (∀ (s : State) (b : Fin 19) (c : Fin 9) (v : Nat), (s.perfOn b = false ∨ ((c : Nat) < 8 ∧ (s.perfLive b = false ∨ s.pcOwn b c = false))) →
    Completes (.perfOverflow b c v) s fun t => t = s) ∧
  (∀ (s : State) (good : Bool), s.halted = false → s.mode.started = true → s.time.running = true → s.bit F.PERF_SNAP_CFG_SNAP_EN 0 = true →
    s.clk.snapAt < s.snapTime →
    Completes (.perfSnapshot good) s fun t =>
      let seq := (s.clk.snapSeq + 1) % 2 ^ 32
      let a := s.fld F.PERF_SNAP_BASE_HI_ADDR 0 * 2 ^ 32 + s.fld F.PERF_SNAP_BASE_LO_ADDR 0 * 2048 +
        seq % 2 ^ (s.fld F.PERF_SNAP_CFG_LOG2_SIZE 0) * 2048
      t.clk.snapAt = s.snapTime ∧ t.clk.snapSeq = seq ∧
       if good = true ∧ s.clk.perst = false then
         t.hostAt a 4 = leBytes 4 0x50465331 ∧ t.hostAt (a + 4) 4 = leBytes 4 seq ∧
         t.hostAt (a + 8) 6 = leBytes 6 (s.snapTime / 10 ^ 9) ∧ t.hostAt (a + 0xE) 4 = leBytes 4 (s.snapTime % 10 ^ 9) ∧
         t.hostAt (a + 0x12) 2 = [0#8, 0#8] ∧ t.hostAt (a + 0x14) 2 = leBytes 2 (s.fld F.SYS_EPOCH_CURRENT 0) ∧
         t.hostAt (a + 0x16) 1 = [19#8] ∧ t.hostAt (a + 0x17) 9 = List.replicate 9 0#8 ∧
         (∀ b, b < 19 → t.hostAt (a + 0x20 + 80 * b) 8 = leBytes 8 (s.perfB b).cyc.toNat ∧
           (∀ n, n < 8 → t.hostAt (a + 0x28 + 80 * b + 8 * n) 8 = leBytes 8 (s.pcOf b n).toNat) ∧
           t.hostAt (a + 0x68 + 80 * b) 1 = leBytes 1 (s.fld F.PERF_STATUS_OVF b) ∧
           t.hostAt (a + 0x69 + 80 * b) 1 =
             leBytes 1 (s.fld F.PERF_STATUS_CYC_OVF b + 2 * s.fld F.PERF_CTL_EN b + 4 * s.fld F.PERF_GLOBAL_CTL_FREEZE 0) ∧
           t.hostAt (a + 0x6A + 80 * b) 6 = List.replicate 6 0#8) ∧
         (∀ k, (k < a ∨ a + 1552 ≤ k) → t.hostByte k = s.hostByte k) ∧ t.rawFld F.PERF_SNAP_SEQ_SEQ 0 = seq ∧
         t.raw .PERF_SNAP_STATUS 0 = s.raw .PERF_SNAP_STATUS 0
       else t.hostWr = s.hostWr ∧ t.raw .PERF_SNAP_SEQ 0 = s.raw .PERF_SNAP_SEQ 0 ∧
         t.rawFld F.PERF_SNAP_STATUS_LOST 0 = min 0xFFFF (s.rawFld F.PERF_SNAP_STATUS_LOST 0 + 1)) ∧
  (∀ (s : State) (good : Bool), s.snapTime ≤ s.clk.snapAt → Completes (.perfSnapshot good) s fun t => t = s) ∧
  (∀ (s : State), s.halted = false → s.opMode ≠ modeCold → s.aged s.clk.ledAt 20000000 = true → Completes .ledScan s fun t => ∃ l : List Bool,
    t = { s with clk := { s.clk with ledAt := s.time.words }, out := .led l :: s.out } ∧ l.length = 1024 ∧
    ∀ n, n < 512 → l.getD (2 * n) false = (s.mode.started && s.starts n && s.isUp n) ∧
      l.getD (2 * n + 1) false = (s.mode.started && s.starts n && (s.port n).actAt.any fun a => decide (s.time.words < a + 625000))) ∧
  (∀ (s : State), (s.opMode = modeCold ∨ s.aged s.clk.ledAt 20000000 = false) → Completes .ledScan s fun t => t = s) ∧
  (∀ (s : State), Completes .extest s fun t => t.clk.jtagEx = true ∧ t.clk.jtagIr = 1 ∧ t.nvmMem = s.nvmMem ∧
    if s.clk.jtagEx = true then t.clk = { s.clk with jtagIr := 1 } ∧ t.regs = s.regs
    else if s.nvm.prog = none then resetWide t ∧ t.clk.srcs.contains srcExtest = true
    else t.clk.waitNvm.contains srcExtest = true ∧ t.clk.srcs = s.clk.srcs) ∧
  (∀ (s : State), exec (.jtagInstructionLoad 1) s = exec .extest s) ∧
  (∀ (s : State) (c : Fin 5), (c : Nat) ≠ 1 → Completes (.jtagInstructionLoad c) s fun t => t.clk.jtagEx = false ∧ t.regs = s.regs ∧
    t.clk.jtagIr = (if (c : Nat) = 3 ∧ s.debugOpen = false then 2 else if (c : Nat) = 4 then 0 else c) ∧
    (s.clk.jtagEx = false → t.clk.srcs = s.clk.srcs) ∧ (s.clk.jtagEx = true → t.clk.srcs.contains srcExtest = false) ∧
    t.out = (if (c : Nat) = 0 then [.jtagId (BitVec.ofNat 32 (0x11024001 + Config.jtagMaker.toNat * 2))] else []) ++ s.out) ∧
  (∀ p : OutPin, State.reset.pinLevel p = p.inReset) ∧
  (∀ (s : State), (s.pinLevel .thermtripN = if s.clk.thermLow then .low else .released) ∧
    (s.pinLevel .hotN = if s.bit F.THM_STATUS_OVER_LIMIT 0 then .low else .released) ∧
    (s.pinLevel .eventN = if s.eventN then .low else .released) ∧ (s.pinLevel .smbAlertN = if s.alertN then .low else .released)) ∧
  (∀ l, l < 512 → ballAt (laneXY l 0).1 (laneXY l 0).2 = some (.txp l) ∧ ballAt (laneXY l 1).1 (laneXY l 1).2 = some (.txn l) ∧
    ballAt (laneXY l 6).1 (laneXY l 6).2 = some (.rxp l) ∧ ballAt (laneXY l 7).1 (laneXY l 7).2 = some (.rxn l)) ∧
  (∀ i, i < 128 → ballAt (lowXY i).1 (lowXY i).2 = some (.low i)) ∧
  (∀ side, side < 4 → ballAt (laneSideXY side 3 34).1 (laneSideXY side 3 34).2 = some (.clkP (clkPair side)) ∧
    ballAt (laneSideXY side 3 35).1 (laneSideXY side 3 35).2 = some (.clkN (clkPair side))) ∧
  (∀ r c, (ballAt r c).isSome = true ↔ 1 ≤ r ∧ r ≤ 84 ∧ 1 ≤ c ∧ c ≤ 84)

/-- A split makes one to eight ports whose lanes are runs of the stall's lanes. Lanes are parted where a bit of SPLIT and the bits it depends
on are set, and nowhere else: each group left unsplit is one port. Every lane belongs to exactly one port, whose number is its lowest
lane; the speed of a port is its width times the lane data rate; and there are one to eight ports whose speeds add to eight times the lane
data rate, at most 1,600 Gb/s. (R41) -/
def Obligations.PortsOfASplit : Prop :=
  (∀ (s : State) (l : Nat), s.starts (s.portOfLane l) = true ∧ l ∈ s.lanesOf (s.portOfLane l) ∧ s.portOfLane l / 8 = l / 8 ∧
    ∀ p, s.starts p = true → l ∈ s.lanesOf p → p = s.portOfLane l) ∧
  (∀ (s : State) (p : Nat), s.starts p = true → 0 < s.width p ∧ s.lanesOf p = (List.range (s.width p)).map (p + ·) ∧
    s.rateGb p = s.width p * laneRate (s.fld F.STALL_CFG_LANE_RATE (p / 8))) ∧
  (∀ (s : State) (st : Nat),
    let b := fun k => decide (s.fld F.STALL_CFG_SPLIT st / 2 ^ k % 2 = 1)
    (List.range 8).map (fun i => s.starts (8 * st + i)) =
      [true, b 0 && b 1 && b 3, b 0 && b 1, b 0 && b 1 && b 4, b 0, b 0 && b 2 && b 5, b 0 && b 2, b 0 && b 2 && b 6]) ∧
  (∀ (s : State) (st : Nat), 1 ≤ (s.portsOf st).length ∧ (s.portsOf st).length ≤ 8 ∧
    ((s.portsOf st).map s.rateGb).sum = 8 * laneRate (s.fld F.STALL_CFG_LANE_RATE st) ∧
    8 * laneRate (s.fld F.STALL_CFG_LANE_RATE st) ≤ 1600)
end

