-- ==== Sys2Proof/Laws/Tab.lean ====
section
/-!
SUPPORT. Laws/Tab.lean: sparse tables: reading after a write, and the canonical form that every write keeps.
-/
namespace Sys2Proof.Machine

variable {α : Type}

@[simp] theorem tabGet_nil (d : α) (k : Nat) : tabGet [] d k = d := rfl

/-- A key that a table does not list reads as the default. -/
theorem tabGet_absent (t : Tab α) (d : α) (k : Nat) (h : ∀ e ∈ t, e.1 ≠ k) : tabGet t d k = d := by
  induction t with
  | nil => rfl
  | cons a r ih =>
    have ha : a.1 ≠ k := h a (by simp)
    simp [tabGet, ha, ih fun e he => h e (by simp [he])]

/-- Entries that a filter keeps read as before. -/
theorem tabGet_filter (t : Tab α) (d : α) (k : Nat) (p : Nat → Bool) (h : p k = true) :
    tabGet (t.filter fun e => p e.1) d k = tabGet t d k := by
  induction t with
  | nil => rfl
  | cons a r ih =>
    by_cases ha : p a.1 = true
    · simp [List.filter_cons, ha, tabGet, ih]
    · have hk : a.1 ≠ k := fun e => ha (e ▸ h)
      simp [List.filter_cons, ha, tabGet, hk, ih]

/-- A key that a filter removes reads as the default. -/
theorem tabGet_filter_out (t : Tab α) (d : α) (k : Nat) (p : Nat → Bool) (h : p k = false) :
    tabGet (t.filter fun e => p e.1) d k = d :=
  tabGet_absent _ _ _ fun e he hk => by simp [List.mem_filter] at he; rw [hk, h] at he; exact absurd he.2 (by simp)

theorem tabGet_tabIns_self (t : Tab α) (d : α) (k : Nat) (v : α) (h : ∀ e ∈ t, e.1 ≠ k) : tabGet (tabIns t k v) d k = v := by
  induction t with
  | nil => simp [tabIns, tabGet]
  | cons a r ih =>
    have ha : a.1 ≠ k := h a (by simp)
    unfold tabIns
    split
    · simp [tabGet]
    · simp [tabGet, ha, ih fun e he => h e (by simp [he])]

theorem tabGet_tabIns_other (t : Tab α) (d : α) (k j : Nat) (v : α) (h : j ≠ k) : tabGet (tabIns t k v) d j = tabGet t d j := by
  induction t with
  | nil => simp [tabIns, tabGet, h.symm]
  | cons a r ih =>
    unfold tabIns
    split
    · simp [tabGet, h.symm]
    · simp [tabGet, ih]

variable [DecidableEq α]

/-- Reading the key just written gives the value written. -/
@[simp] theorem tabGet_tabPut_self (t : Tab α) (d : α) (k : Nat) (v : α) : tabGet (tabPut t d k v) d k = v := by
  have hk : ∀ e ∈ t.filter (·.1 != k), e.1 ≠ k := fun e he => by simp [List.mem_filter] at he; exact he.2
  unfold tabPut
  split
  · next h => rw [h]; exact tabGet_absent _ _ _ hk
  · exact tabGet_tabIns_self _ _ _ _ hk

/-- A write leaves every other key alone. -/
theorem tabGet_tabPut_other (t : Tab α) (d d' : α) (k j : Nat) (v : α) (h : j ≠ k) :
    tabGet (tabPut t d k v) d' j = tabGet t d' j := by
  have hf : tabGet (t.filter (·.1 != k)) d' j = tabGet t d' j := tabGet_filter t d' j (· != k) (by simp [h])
  unfold tabPut
  split
  · exact hf
  · rw [tabGet_tabIns_other _ _ _ _ _ h, hf]

/-- Reading any key after a write. -/
theorem tabGet_tabPut (t : Tab α) (d : α) (k j : Nat) (v : α) :
    tabGet (tabPut t d k v) d j = if j = k then v else tabGet t d j := by
  split
  · next h => rw [h, tabGet_tabPut_self]
  · next h => exact tabGet_tabPut_other t d d k j v h

/-! ### The canonical form -/

/-- Strictly rising keys, as a pairwise relation. -/
theorem tabRising_iff (t : Tab α) : tabRising t = true ↔ t.Pairwise fun a b => a.1 < b.1 := by
  induction t with
  | nil => simp [tabRising]
  | cons a r ih =>
    cases r with
    | nil => simp [tabRising]
    | cons b r' =>
      rw [tabRising, Bool.and_eq_true, ih, List.pairwise_cons (a := a)]
      simp only [decide_eq_true_eq]
      constructor
      · rintro ⟨hab, hp⟩
        refine ⟨fun c hc => ?_, hp⟩
        rcases List.mem_cons.1 hc with rfl | hc
        · exact hab
        · exact lt_trans hab ((List.pairwise_cons.1 hp).1 c hc)
      · rintro ⟨ha, hp⟩
        exact ⟨ha b (by simp), hp⟩

theorem tabWf_iff (t : Tab α) (d : Nat → α) :
    tabWf t d = true ↔ (t.Pairwise fun a b => a.1 < b.1) ∧ ∀ e ∈ t, e.2 ≠ d e.1 := by
  simp [tabWf, tabRising_iff]

theorem mem_tabIns (t : Tab α) (k : Nat) (v : α) (e : Nat × α) : e ∈ tabIns t k v ↔ e = (k, v) ∨ e ∈ t := by
  induction t with
  | nil => simp [tabIns]
  | cons a r ih =>
    unfold tabIns
    split
    · simp
    · simp [ih]; tauto

theorem tabIns_pairwise (t : Tab α) (k : Nat) (v : α) (h : t.Pairwise fun a b => a.1 < b.1) (hk : ∀ e ∈ t, e.1 ≠ k) :
    (tabIns t k v).Pairwise fun a b => a.1 < b.1 := by
  induction t with
  | nil => simp [tabIns]
  | cons a r ih =>
    have hp := List.pairwise_cons.1 h
    unfold tabIns
    split
    · next hlt =>
      refine List.pairwise_cons.2 ⟨fun e he => ?_, h⟩
      rcases List.mem_cons.1 he with rfl | he
      · exact hlt
      · exact lt_trans hlt (hp.1 e he)
    · next hlt =>
      have hak : a.1 < k := lt_of_le_of_ne (not_lt.1 hlt) (hk a (by simp))
      refine List.pairwise_cons.2 ⟨fun e he => ?_, ih hp.2 fun e he => hk e (by simp [he])⟩
      rcases (mem_tabIns r k v e).1 he with rfl | he
      · exact hak
      · exact hp.1 e he

/-- A write keeps the canonical form. -/
theorem tabWf_tabPut (t : Tab α) (d : Nat → α) (k : Nat) (v : α) (h : tabWf t d = true) : tabWf (tabPut t (d k) k v) d = true := by
  rw [tabWf_iff] at h ⊢
  have hf : (t.filter (·.1 != k)).Pairwise fun a b => a.1 < b.1 := h.1.filter _
  have hm : ∀ e ∈ t.filter (·.1 != k), e.2 ≠ d e.1 := fun e he => h.2 e (List.mem_of_mem_filter he)
  unfold tabPut
  split
  · exact ⟨hf, hm⟩
  · next hv =>
    refine ⟨tabIns_pairwise _ _ _ hf fun e he => by simp [List.mem_filter] at he; exact he.2, fun e he => ?_⟩
    rcases (mem_tabIns _ _ _ e).1 he with rfl | he
    · exact hv
    · exact hm e he

/-- Clearing part of a table keeps the canonical form. -/
theorem tabWf_tabKeep (t : Tab α) (d : Nat → α) (p : Nat → Bool) (h : tabWf t d = true) : tabWf (tabKeep t p) d = true := by
  rw [tabWf_iff] at h ⊢
  exact ⟨h.1.filter _, fun e he => h.2 e (List.mem_of_mem_filter he)⟩

/-- Entries of a table after a write. -/
theorem mem_tabPut (t : Tab α) (d : α) (k : Nat) (v : α) (e : Nat × α) (h : e ∈ tabPut t d k v) : e = (k, v) ∨ e ∈ t := by
  unfold tabPut at h
  split at h
  · exact .inr (List.mem_of_mem_filter h)
  · rcases (mem_tabIns _ _ _ e).1 h with rfl | h
    · exact .inl rfl
    · exact .inr (List.mem_of_mem_filter h)

end Sys2Proof.Machine
end

