-- ==== Sys2Proof/Laws/State.lean ====
section
/-!
SUPPORT. Laws/State.lean: each field of the state under each primitive write: the write of its own part, and every other.
-/
namespace Sys2Proof.Machine

/-- The part a table belongs to. -/
def TabId.part : TabId → Part
  | .regs => .regs
  | .live => .live
  | .cnt => .cnt
  | .stalls => .stalls
  | .ports => .ports
  | .lanes => .lanes
  | .aisles => .aisles
  | .qtrs => .qtrs
  | .mbx => .mbx
  | .perf => .perf
  | .bufs => .bufs
  | .flat => .flat
  | .tiles => .tiles
  | .copies => .copies
  | .rebuild => .rebuild
  | .occ => .occ
  | .msi => .msi
  | .bfd => .bfd
  | .stm => .stm

/-- The part a primitive write changes. -/
def Upd.part : Upd → Part
  | .reg _ _ _ => .regs
  | .live _ _ _ => .live
  | .cnt _ _ => .cnt
  | .fresh => .fresh
  | .fid => .fidNext
  | .out _ => .out
  | .clk _ => .clk
  | .mode _ => .mode
  | .burn _ => .otp
  | .evt _ => .evt
  | .stall _ _ => .stalls
  | .port _ _ => .ports
  | .lane _ _ => .lanes
  | .aisle _ _ => .aisles
  | .qtr _ _ => .qtrs
  | .mbx _ _ => .mbx
  | .perf _ _ => .perf
  | .pkts _ => .pkts
  | .pe _ => .pe
  | .swc _ => .swc
  | .time _ => .time
  | .dma _ => .dma
  | .nvm _ => .nvm
  | .sec _ => .sec
  | .thm _ => .thm
  | .buf _ _ => .bufs
  | .flat _ _ => .flat
  | .tile _ _ => .tiles
  | .copy _ _ => .copies
  | .rebuild _ _ => .rebuild
  | .host _ _ => .hostWr
  | .nvmByte _ _ => .nvmMem
  | .occ _ _ => .occ
  | .msi _ _ => .msi
  | .bfd _ _ => .bfd
  | .stm _ _ => .stm
  | .keep t _ => t.part

variable (s : State)

/-- A primitive write leaves every part but its own alone. -/
theorem applyUpd_agree (u : Upd) (x : Part) (h : u.part ≠ x) : s.agree x (applyUpd u s) := by
  cases u with
  | keep t p => cases t <;> cases x <;> first | rfl | exact absurd rfl h
  | _ => cases x <;> first | rfl | exact absurd rfl h

theorem applyUpd_pending (u : Upd) (h : u.part ≠ .pending) : (applyUpd u s).pending = s.pending := applyUpd_agree s u .pending h
theorem applyUpd_regs (u : Upd) (h : u.part ≠ .regs) : (applyUpd u s).regs = s.regs := applyUpd_agree s u .regs h
theorem applyUpd_live (u : Upd) (h : u.part ≠ .live) : (applyUpd u s).live = s.live := applyUpd_agree s u .live h
theorem applyUpd_cnt (u : Upd) (h : u.part ≠ .cnt) : (applyUpd u s).cnt = s.cnt := applyUpd_agree s u .cnt h
theorem applyUpd_fresh (u : Upd) (h : u.part ≠ .fresh) : (applyUpd u s).fresh = s.fresh := applyUpd_agree s u .fresh h
theorem applyUpd_clk (u : Upd) (h : u.part ≠ .clk) : (applyUpd u s).clk = s.clk := applyUpd_agree s u .clk h
theorem applyUpd_mode (u : Upd) (h : u.part ≠ .mode) : (applyUpd u s).mode = s.mode := applyUpd_agree s u .mode h
theorem applyUpd_otp (u : Upd) (h : u.part ≠ .otp) : (applyUpd u s).otp = s.otp := applyUpd_agree s u .otp h
theorem applyUpd_evt (u : Upd) (h : u.part ≠ .evt) : (applyUpd u s).evt = s.evt := applyUpd_agree s u .evt h
theorem applyUpd_stalls (u : Upd) (h : u.part ≠ .stalls) : (applyUpd u s).stalls = s.stalls := applyUpd_agree s u .stalls h
theorem applyUpd_ports (u : Upd) (h : u.part ≠ .ports) : (applyUpd u s).ports = s.ports := applyUpd_agree s u .ports h
theorem applyUpd_lanes (u : Upd) (h : u.part ≠ .lanes) : (applyUpd u s).lanes = s.lanes := applyUpd_agree s u .lanes h
theorem applyUpd_aisles (u : Upd) (h : u.part ≠ .aisles) : (applyUpd u s).aisles = s.aisles := applyUpd_agree s u .aisles h
theorem applyUpd_qtrs (u : Upd) (h : u.part ≠ .qtrs) : (applyUpd u s).qtrs = s.qtrs := applyUpd_agree s u .qtrs h
theorem applyUpd_pkts (u : Upd) (h : u.part ≠ .pkts) : (applyUpd u s).pkts = s.pkts := applyUpd_agree s u .pkts h
theorem applyUpd_pe (u : Upd) (h : u.part ≠ .pe) : (applyUpd u s).pe = s.pe := applyUpd_agree s u .pe h
theorem applyUpd_swc (u : Upd) (h : u.part ≠ .swc) : (applyUpd u s).swc = s.swc := applyUpd_agree s u .swc h
theorem applyUpd_time (u : Upd) (h : u.part ≠ .time) : (applyUpd u s).time = s.time := applyUpd_agree s u .time h
theorem applyUpd_mbx (u : Upd) (h : u.part ≠ .mbx) : (applyUpd u s).mbx = s.mbx := applyUpd_agree s u .mbx h
theorem applyUpd_dma (u : Upd) (h : u.part ≠ .dma) : (applyUpd u s).dma = s.dma := applyUpd_agree s u .dma h
theorem applyUpd_nvm (u : Upd) (h : u.part ≠ .nvm) : (applyUpd u s).nvm = s.nvm := applyUpd_agree s u .nvm h
theorem applyUpd_sec (u : Upd) (h : u.part ≠ .sec) : (applyUpd u s).sec = s.sec := applyUpd_agree s u .sec h
theorem applyUpd_thm (u : Upd) (h : u.part ≠ .thm) : (applyUpd u s).thm = s.thm := applyUpd_agree s u .thm h
theorem applyUpd_perf (u : Upd) (h : u.part ≠ .perf) : (applyUpd u s).perf = s.perf := applyUpd_agree s u .perf h
theorem applyUpd_fidNext (u : Upd) (h : u.part ≠ .fidNext) : (applyUpd u s).fidNext = s.fidNext := applyUpd_agree s u .fidNext h
theorem applyUpd_out (u : Upd) (h : u.part ≠ .out) : (applyUpd u s).out = s.out := applyUpd_agree s u .out h
theorem applyUpd_bufs (u : Upd) (h : u.part ≠ .bufs) : (applyUpd u s).bufs = s.bufs := applyUpd_agree s u .bufs h
theorem applyUpd_flat (u : Upd) (h : u.part ≠ .flat) : (applyUpd u s).flat = s.flat := applyUpd_agree s u .flat h
theorem applyUpd_tiles (u : Upd) (h : u.part ≠ .tiles) : (applyUpd u s).tiles = s.tiles := applyUpd_agree s u .tiles h
theorem applyUpd_copies (u : Upd) (h : u.part ≠ .copies) : (applyUpd u s).copies = s.copies := applyUpd_agree s u .copies h
theorem applyUpd_rebuild (u : Upd) (h : u.part ≠ .rebuild) : (applyUpd u s).rebuild = s.rebuild := applyUpd_agree s u .rebuild h
theorem applyUpd_hostWr (u : Upd) (h : u.part ≠ .hostWr) : (applyUpd u s).hostWr = s.hostWr := applyUpd_agree s u .hostWr h
theorem applyUpd_nvmMem (u : Upd) (h : u.part ≠ .nvmMem) : (applyUpd u s).nvmMem = s.nvmMem := applyUpd_agree s u .nvmMem h
theorem applyUpd_occ (u : Upd) (h : u.part ≠ .occ) : (applyUpd u s).occ = s.occ := applyUpd_agree s u .occ h
theorem applyUpd_msi (u : Upd) (h : u.part ≠ .msi) : (applyUpd u s).msi = s.msi := applyUpd_agree s u .msi h
theorem applyUpd_bfd (u : Upd) (h : u.part ≠ .bfd) : (applyUpd u s).bfd = s.bfd := applyUpd_agree s u .bfd h
theorem applyUpd_stm (u : Upd) (h : u.part ≠ .stm) : (applyUpd u s).stm = s.stm := applyUpd_agree s u .stm h

@[simp] theorem applyUpd_clk_clk (v : ClkS) : (applyUpd (.clk v) s).clk = v := rfl
@[simp] theorem applyUpd_mode_mode (v : ModeS) : (applyUpd (.mode v) s).mode = v := rfl
@[simp] theorem applyUpd_evt_evt (v : EvtS) : (applyUpd (.evt v) s).evt = v := rfl
@[simp] theorem applyUpd_pkts_pkts (v : List Packet) : (applyUpd (.pkts v) s).pkts = v := rfl
@[simp] theorem applyUpd_pe_pe (v : PeS) : (applyUpd (.pe v) s).pe = v := rfl
@[simp] theorem applyUpd_swc_swc (v : SwcS) : (applyUpd (.swc v) s).swc = v := rfl
@[simp] theorem applyUpd_time_time (v : TimeS) : (applyUpd (.time v) s).time = v := rfl
@[simp] theorem applyUpd_dma_dma (v : DmaS) : (applyUpd (.dma v) s).dma = v := rfl
@[simp] theorem applyUpd_nvm_nvm (v : NvmS) : (applyUpd (.nvm v) s).nvm = v := rfl
@[simp] theorem applyUpd_sec_sec (v : SecS) : (applyUpd (.sec v) s).sec = v := rfl
@[simp] theorem applyUpd_thm_thm (v : ThmS) : (applyUpd (.thm v) s).thm = v := rfl
@[simp] theorem applyUpd_fresh_fresh : (applyUpd .fresh s).fresh = s.fresh + 1 := rfl
@[simp] theorem applyUpd_fid_fidNext : (applyUpd .fid s).fidNext = s.fidNext + 1 := rfl
@[simp] theorem applyUpd_out_out (x : Out) : (applyUpd (.out x) s).out = x :: s.out := rfl
@[simp] theorem applyUpd_burn_otp (v : OtpS) : (applyUpd (.burn v) s).otp = otpJoin s.otp v := rfl
@[simp] theorem applyUpd_reg_regs (r : Reg) (n : Nat) (w : Word) :
    (applyUpd (.reg r n w) s).regs = tabPut s.regs (regReset r n) (regKey r n) (w &&& regMask r) := rfl
@[simp] theorem applyUpd_live_live (r : Reg) (n : Nat) (w : Option Word) :
    (applyUpd (.live r n w) s).live = tabPut s.live none (regKey r n) (w.map (· &&& regMask r)) := rfl
@[simp] theorem applyUpd_cnt_cnt (k : Nat) (v : BitVec 48) : (applyUpd (.cnt k v) s).cnt = tabPut s.cnt 0 k v := rfl
@[simp] theorem applyUpd_stall_stalls (k : Nat) (v : StallS) : (applyUpd (.stall k v) s).stalls = tabPut s.stalls {} k v := rfl
@[simp] theorem applyUpd_port_ports (k : Nat) (v : PortS) : (applyUpd (.port k v) s).ports = tabPut s.ports {} k v := rfl
@[simp] theorem applyUpd_lane_lanes (k : Nat) (v : LaneS) : (applyUpd (.lane k v) s).lanes = tabPut s.lanes {} k v := rfl
@[simp] theorem applyUpd_aisle_aisles (k : Nat) (v : AisleS) : (applyUpd (.aisle k v) s).aisles = tabPut s.aisles {} k v := rfl
@[simp] theorem applyUpd_qtr_qtrs (k : Nat) (v : QtrS) : (applyUpd (.qtr k v) s).qtrs = tabPut s.qtrs {} k v := rfl
@[simp] theorem applyUpd_mbx_mbx (k : Nat) (v : MbxS) : (applyUpd (.mbx k v) s).mbx = tabPut s.mbx {} k v := rfl
@[simp] theorem applyUpd_perf_perf (k : Nat) (v : PerfS) : (applyUpd (.perf k v) s).perf = tabPut s.perf {} k v := rfl
@[simp] theorem applyUpd_buf_bufs (k : Nat) (v : Buf) : (applyUpd (.buf k v) s).bufs = tabPut s.bufs {} k v := rfl
@[simp] theorem applyUpd_flat_flat (k : Nat) (v : BitVec 512) : (applyUpd (.flat k v) s).flat = tabPut s.flat 0 k v := rfl
@[simp] theorem applyUpd_tile_tiles (k : Nat) (v : Tile) : (applyUpd (.tile k v) s).tiles = tabPut s.tiles {} k v := rfl
@[simp] theorem applyUpd_copy_copies (k : Nat) (v : Tile) : (applyUpd (.copy k v) s).copies = tabPut s.copies {} k v := rfl
@[simp] theorem applyUpd_rebuild_rebuild (k : Nat) (v : RebuildS) : (applyUpd (.rebuild k v) s).rebuild = tabPut s.rebuild {} k v := rfl
@[simp] theorem applyUpd_host_hostWr (k : Nat) (v : Byte) : (applyUpd (.host k v) s).hostWr = tabPut s.hostWr 0 k v := rfl
@[simp] theorem applyUpd_nvmByte_nvmMem (k : Nat) (v : Byte) : (applyUpd (.nvmByte k v) s).nvmMem = tabPut s.nvmMem 0xFF k v := rfl
@[simp] theorem applyUpd_occ_occ (k : Nat) (v : BitVec 16) : (applyUpd (.occ k v) s).occ = tabPut s.occ 0 k v := rfl
@[simp] theorem applyUpd_msi_msi (k : Nat) (v : Msi) : (applyUpd (.msi k v) s).msi = tabPut s.msi {} k v := rfl
@[simp] theorem applyUpd_bfd_bfd (k : Nat) (v : Bfd) : (applyUpd (.bfd k v) s).bfd = tabPut s.bfd {} k v := rfl
@[simp] theorem applyUpd_stm_stm (k : Nat) (v : BitVec 128) : (applyUpd (.stm k v) s).stm = tabPut s.stm 0 k v := rfl
@[simp] theorem applyUpd_keep_regs (p : Nat → Bool) : (applyUpd (.keep .regs p) s).regs = tabKeep s.regs p := rfl
@[simp] theorem applyUpd_keep_live (p : Nat → Bool) : (applyUpd (.keep .live p) s).live = tabKeep s.live p := rfl
@[simp] theorem applyUpd_keep_cnt (p : Nat → Bool) : (applyUpd (.keep .cnt p) s).cnt = tabKeep s.cnt p := rfl
@[simp] theorem applyUpd_keep_stalls (p : Nat → Bool) : (applyUpd (.keep .stalls p) s).stalls = tabKeep s.stalls p := rfl
@[simp] theorem applyUpd_keep_ports (p : Nat → Bool) : (applyUpd (.keep .ports p) s).ports = tabKeep s.ports p := rfl
@[simp] theorem applyUpd_keep_lanes (p : Nat → Bool) : (applyUpd (.keep .lanes p) s).lanes = tabKeep s.lanes p := rfl
@[simp] theorem applyUpd_keep_aisles (p : Nat → Bool) : (applyUpd (.keep .aisles p) s).aisles = tabKeep s.aisles p := rfl
@[simp] theorem applyUpd_keep_qtrs (p : Nat → Bool) : (applyUpd (.keep .qtrs p) s).qtrs = tabKeep s.qtrs p := rfl
@[simp] theorem applyUpd_keep_mbx (p : Nat → Bool) : (applyUpd (.keep .mbx p) s).mbx = tabKeep s.mbx p := rfl
@[simp] theorem applyUpd_keep_perf (p : Nat → Bool) : (applyUpd (.keep .perf p) s).perf = tabKeep s.perf p := rfl
@[simp] theorem applyUpd_keep_bufs (p : Nat → Bool) : (applyUpd (.keep .bufs p) s).bufs = tabKeep s.bufs p := rfl
@[simp] theorem applyUpd_keep_flat (p : Nat → Bool) : (applyUpd (.keep .flat p) s).flat = tabKeep s.flat p := rfl
@[simp] theorem applyUpd_keep_tiles (p : Nat → Bool) : (applyUpd (.keep .tiles p) s).tiles = tabKeep s.tiles p := rfl
@[simp] theorem applyUpd_keep_copies (p : Nat → Bool) : (applyUpd (.keep .copies p) s).copies = tabKeep s.copies p := rfl
@[simp] theorem applyUpd_keep_rebuild (p : Nat → Bool) : (applyUpd (.keep .rebuild p) s).rebuild = tabKeep s.rebuild p := rfl
@[simp] theorem applyUpd_keep_occ (p : Nat → Bool) : (applyUpd (.keep .occ p) s).occ = tabKeep s.occ p := rfl
@[simp] theorem applyUpd_keep_msi (p : Nat → Bool) : (applyUpd (.keep .msi p) s).msi = tabKeep s.msi p := rfl
@[simp] theorem applyUpd_keep_bfd (p : Nat → Bool) : (applyUpd (.keep .bfd p) s).bfd = tabKeep s.bfd p := rfl
@[simp] theorem applyUpd_keep_stm (p : Nat → Bool) : (applyUpd (.keep .stm p) s).stm = tabKeep s.stm p := rfl

/-! ### Entries of tables after a write of one of them -/

theorem stall_applyUpd (k j : Nat) (v : StallS) : (applyUpd (.stall k v) s).stall j = if j = k then v else s.stall j := tabGet_tabPut _ _ _ _ _
theorem port_applyUpd (k j : Nat) (v : PortS) : (applyUpd (.port k v) s).port j = if j = k then v else s.port j := tabGet_tabPut _ _ _ _ _
theorem lane_applyUpd (k j : Nat) (v : LaneS) : (applyUpd (.lane k v) s).lane j = if j = k then v else s.lane j := tabGet_tabPut _ _ _ _ _
theorem aisle_applyUpd (k j : Nat) (v : AisleS) : (applyUpd (.aisle k v) s).aisle j = if j = k then v else s.aisle j := tabGet_tabPut _ _ _ _ _
theorem qtr_applyUpd (k j : Nat) (v : QtrS) : (applyUpd (.qtr k v) s).qtr j = if j = k then v else s.qtr j := tabGet_tabPut _ _ _ _ _
theorem mbox_applyUpd (k j : Nat) (v : MbxS) : (applyUpd (.mbx k v) s).mbox j = if j = k then v else s.mbox j := tabGet_tabPut _ _ _ _ _
theorem perfB_applyUpd (k j : Nat) (v : PerfS) : (applyUpd (.perf k v) s).perfB j = if j = k then v else s.perfB j := tabGet_tabPut _ _ _ _ _
theorem buf_applyUpd (k j : Nat) (v : Buf) : (applyUpd (.buf k v) s).buf j = if j = k then v else s.buf j := tabGet_tabPut _ _ _ _ _
theorem flatE_applyUpd (k j : Nat) (v : BitVec 512) : (applyUpd (.flat k v) s).flatE j = if j = k then v else s.flatE j := tabGet_tabPut _ _ _ _ _
theorem tile_applyUpd (k j : Nat) (v : Tile) : (applyUpd (.tile k v) s).tile j = if j = k then v else s.tile j := tabGet_tabPut _ _ _ _ _
theorem copyT_applyUpd (k j : Nat) (v : Tile) : (applyUpd (.copy k v) s).copyT j = if j = k then v else s.copyT j := tabGet_tabPut _ _ _ _ _
theorem rebuildC_applyUpd (k j : Nat) (v : RebuildS) : (applyUpd (.rebuild k v) s).rebuildC j = if j = k then v else s.rebuildC j := tabGet_tabPut _ _ _ _ _
theorem hostByte_applyUpd (k j : Nat) (v : Byte) : (applyUpd (.host k v) s).hostByte j = if j = k then v else s.hostByte j := tabGet_tabPut _ _ _ _ _
theorem nvmByte_applyUpd (k j : Nat) (v : Byte) : (applyUpd (.nvmByte k v) s).nvmByte j = if j = k then v else s.nvmByte j := tabGet_tabPut _ _ _ _ _
theorem occOf_applyUpd (k j : Nat) (v : BitVec 16) : (applyUpd (.occ k v) s).occOf j = if j = k then v else s.occOf j := tabGet_tabPut _ _ _ _ _
theorem msiV_applyUpd (k j : Nat) (v : Msi) : (applyUpd (.msi k v) s).msiV j = if j = k then v else s.msiV j := tabGet_tabPut _ _ _ _ _
theorem bfdS_applyUpd (k j : Nat) (v : Bfd) : (applyUpd (.bfd k v) s).bfdS j = if j = k then v else s.bfdS j := tabGet_tabPut _ _ _ _ _
theorem stmE_applyUpd (k j : Nat) (v : BitVec 128) : (applyUpd (.stm k v) s).stmE j = if j = k then v else s.stmE j := tabGet_tabPut _ _ _ _ _
theorem cntOf_applyUpd (k j : Nat) (v : BitVec 48) : (applyUpd (.cnt k v) s).cntOf j = if j = k then v else s.cntOf j := tabGet_tabPut _ _ _ _ _

end Sys2Proof.Machine
end

