-- ==== Sys2Proof/Laws/Act.lean ====
section
/-!
SUPPORT. Laws/Act.lean: actions: every command is one, what an action whose writes satisfy a predicate leaves alone, and the functions of
a state that an action keeps.
-/
namespace Sys2Proof.Machine

/-! ### Running actions -/

@[simp] theorem run_skip (s : State) : run .skip s = s := rfl
@[simp] theorem run_upd (u : Upd) (s : State) : run (.upd u) s = applyUpd u s := rfl
@[simp] theorem run_seq (a b : Act) (s : State) : run (.seq a b) s = run b (run a s) := rfl
@[simp] theorem run_look (f : State → Act) (s : State) : run (.look f) s = run (f s) s := rfl
@[simp] theorem run_acts_nil (s : State) : run (acts []) s = s := rfl
@[simp] theorem run_acts_cons (a : Act) (l : List Act) (s : State) : run (acts (a :: l)) s = run (acts l) (run a s) := rfl
@[simp] theorem run_each_nil {α : Type} (f : α → Act) (s : State) : run (each [] f) s = s := rfl
@[simp] theorem run_each_cons {α : Type} (x : α) (l : List α) (f : α → Act) (s : State) :
    run (each (x :: l) f) s = run (each l f) (run (f x) s) := rfl

theorem run_when (b : Bool) (a : Act) (s : State) : run (when b a) s = if b then run a s else s := by cases b <;> rfl
@[simp] theorem run_when_true (a : Act) (s : State) : run (when true a) s = run a s := rfl
@[simp] theorem run_when_false (a : Act) (s : State) : run (when false a) s = s := rfl

@[simp] theorem ok_eq (a : Act) (s : State) : ok a s = .next (run a s) := rfl

/-- Every command is an action: it goes on, and makes primitive writes only. -/
theorem exec_run (c : Instr) (s : State) : ∃ a, exec c s = .next (run a s) := by
  cases c <;> exact ⟨_, rfl⟩

/-! ### Actions whose writes all satisfy a predicate -/

/-- Every primitive write an action can make satisfies the predicate. -/
def Act.within (P : Upd → Prop) : Act → Prop
  | .skip => True
  | .upd u => P u
  | .seq a b => a.within P ∧ b.within P
  | .look f => ∀ s, (f s).within P

section within
variable {P : Upd → Prop}

@[simp] theorem within_skip : Act.within P .skip := trivial
@[simp] theorem within_upd (u : Upd) : Act.within P (.upd u) ↔ P u := Iff.rfl
@[simp] theorem within_seq (a b : Act) : Act.within P (.seq a b) ↔ a.within P ∧ b.within P := Iff.rfl
@[simp] theorem within_look (f : State → Act) : Act.within P (.look f) ↔ ∀ s, (f s).within P := Iff.rfl
@[simp] theorem within_acts_nil : Act.within P (acts []) := trivial
@[simp] theorem within_acts_cons (a : Act) (l : List Act) : Act.within P (acts (a :: l)) ↔ a.within P ∧ (acts l).within P := Iff.rfl
theorem within_when (b : Bool) (a : Act) (h : a.within P) : Act.within P (when b a) := by cases b <;> simp [when, h]
theorem within_each {α : Type} (l : List α) (f : α → Act) (h : ∀ x ∈ l, (f x).within P) : Act.within P (each l f) := by
  induction l with
  | nil => trivial
  | cons x r ih => exact ⟨h x (by simp), ih fun y hy => h y (by simp [hy])⟩
theorem within_mono {Q : Upd → Prop} (a : Act) (h : a.within P) (hPQ : ∀ u, P u → Q u) : a.within Q := by
  induction a with
  | skip => trivial
  | upd u => exact hPQ u h
  | seq a b iha ihb => exact ⟨iha h.1, ihb h.2⟩
  | look f ih => exact fun s => ih s (h s)
end within

/-- What holds of a state, and is kept by every write an action can make, holds after it. -/
theorem run_within {P : Upd → Prop} (R : State → State → Prop) (refl : ∀ s, R s s) (trans : ∀ s t u, R s t → R t u → R s u)
    (h : ∀ u s, P u → R s (applyUpd u s)) (a : Act) (ha : a.within P) (s : State) : R s (run a s) := by
  induction a generalizing s with
  | skip => exact refl s
  | upd u => exact h u s ha
  | seq a b iha ihb => exact trans _ _ _ (iha ha.1 s) (ihb ha.2 _)
  | look f ih => exact ih s (ha s) s

/-- What every primitive write keeps, every action keeps. -/
theorem run_always (R : State → State → Prop) (refl : ∀ s, R s s) (trans : ∀ s t u, R s t → R t u → R s u)
    (h : ∀ u s, R s (applyUpd u s)) (a : Act) (s : State) : R s (run a s) := by
  induction a generalizing s with
  | skip => exact refl s
  | upd u => exact h u s
  | seq a b iha ihb => exact trans _ _ _ (iha s) (ihb _)
  | look f ih => exact ih s s

/-- An action whose writes all belong to listed parts leaves every other part alone. -/
theorem run_only (l : List Part) (a : Act) (h : a.within fun u => l.contains u.part = true) (s : State) : Only l s (run a s) := by
  intro x hx
  refine run_within (fun s t => s.agree x t) (fun s => ?_) (fun s t u hst htu => ?_) (fun u s hu => ?_) a h s
  · cases x <;> rfl
  · cases x <;> exact Eq.trans htu hst
  · exact applyUpd_agree s u x fun e => by rw [e] at hu; rw [hu] at hx; exact absurd hx (by simp)

/-! ### Functions of a state that an action keeps -/

/-- An action leaves a function of the state as it was. -/
def Act.keeps {α : Type} (g : State → α) (a : Act) : Prop := ∀ s, g (run a s) = g s

section keeps
variable {α : Type} {g : State → α}

theorem keeps_skip : Act.keeps g .skip := fun _ => rfl
theorem keeps_seq {a b : Act} (ha : a.keeps g) (hb : b.keeps g) : Act.keeps g (.seq a b) := fun s => (hb _).trans (ha s)
theorem keeps_look {f : State → Act} (h : ∀ s, (f s).keeps g) : Act.keeps g (.look f) := fun s => h s s
theorem keeps_acts {l : List Act} (h : ∀ a ∈ l, a.keeps g) : Act.keeps g (acts l) := by
  induction l with
  | nil => exact fun _ => rfl
  | cons a r ih => exact keeps_seq (h a (by simp)) (ih fun b hb => h b (by simp [hb]))
theorem keeps_when {b : Bool} {a : Act} (h : a.keeps g) : Act.keeps g (when b a) := by cases b; exacts [fun _ => rfl, h]
theorem keeps_each {β : Type} {l : List β} {f : β → Act} (h : ∀ x ∈ l, (f x).keeps g) : Act.keeps g (each l f) := by
  induction l with
  | nil => exact fun _ => rfl
  | cons x r ih => exact keeps_seq (h x (by simp)) (ih fun y hy => h y (by simp [hy]))
end keeps

/-- A function of the state that depends on one part is kept by an action that writes no entry of that part. -/
theorem keeps_of_within {α : Type} (g : State → α) (x : Part) (hg : ∀ s t, s.agree x t → g t = g s) (a : Act)
    (h : a.within fun u => u.part ≠ x) : a.keeps g := fun s =>
  run_within (fun s t => g t = g s) (fun _ => rfl) (fun _ _ _ hst htu => htu.trans hst)
    (fun u s hu => hg s _ (applyUpd_agree s u x hu)) a h s

end Sys2Proof.Machine
end

