-- ==== Sys2Proof/Laws/Regs.lean ====
section
/-!
SUPPORT. Laws/Regs.lean: registers and their fields: what a read returns after each way of writing one.
-/
namespace Sys2Proof.Machine

/-! ### Bits of words -/

theorem testBit_bits (x : Word) (lo w i : Nat) : (bits x lo w).testBit i = (decide (i < w) && x.getLsbD (lo + i)) := by
  unfold bits
  rw [Nat.testBit_mod_two_pow, Nat.testBit_div_two_pow]
  rw [BitVec.getLsbD, Nat.add_comm]

theorem getLsbD_bitMask (lo w i : Nat) (hi : i < 32) : (bitMask lo w).getLsbD i = decide (lo ≤ i ∧ i < lo + w) := by
  unfold bitMask
  rw [BitVec.getLsbD_ofNat, Nat.testBit_mul_two_pow, Nat.testBit_two_pow_sub_one]
  by_cases h : lo ≤ i
  · simp [hi, h]; omega
  · simp [hi, h]

theorem getLsbD_putBits (x : Word) (lo w v i : Nat) (hi : i < 32) :
    (putBits x lo w v).getLsbD i = if lo ≤ i ∧ i < lo + w then v.testBit (i - lo) else x.getLsbD i := by
  unfold putBits
  rw [BitVec.getLsbD_or, BitVec.getLsbD_and, BitVec.getLsbD_not, getLsbD_bitMask _ _ _ hi, BitVec.getLsbD_ofNat,
    Nat.testBit_mul_two_pow, Nat.testBit_mod_two_pow]
  by_cases h1 : lo ≤ i
  · by_cases h2 : i < lo + w
    · have : i - lo < w := by omega
      simp [hi, h1, h2, this]
    · have : ¬ (i - lo < w) := by omega
      simp [hi, h1, h2, this]
  · simp [hi, h1]

/-- The field just put reads back. -/
theorem bits_putBits_self (x : Word) (lo w v : Nat) (h : lo + w ≤ 32) : bits (putBits x lo w v) lo w = v % 2 ^ w := by
  apply Nat.eq_of_testBit_eq
  intro i
  rw [testBit_bits, Nat.testBit_mod_two_pow]
  by_cases hi : i < w
  · rw [getLsbD_putBits _ _ _ _ _ (by omega)]; simp [hi]
  · simp [hi]

/-- A field apart from the one put reads as before. -/
theorem bits_putBits_other (x : Word) (lo w lo' w' v : Nat) (h : lo' + w' ≤ 32) (hd : lo' + w' ≤ lo ∨ lo + w ≤ lo') :
    bits (putBits x lo w v) lo' w' = bits x lo' w' := by
  apply Nat.eq_of_testBit_eq
  intro i
  rw [testBit_bits, testBit_bits]
  by_cases hi : i < w'
  · rw [getLsbD_putBits _ _ _ _ _ (by omega), if_neg (by omega)]
  · simp [hi]

/-- Bits that a mask keeps read as before. -/
theorem bits_and_mask (x m : Word) (lo w : Nat) (h : lo + w ≤ 32) (hm : bitMask lo w &&& m = bitMask lo w) : bits (x &&& m) lo w = bits x lo w := by
  apply Nat.eq_of_testBit_eq
  intro i
  rw [testBit_bits, testBit_bits]
  by_cases hi : i < w
  · have : (bitMask lo w &&& m).getLsbD (lo + i) = (bitMask lo w).getLsbD (lo + i) := by rw [hm]
    rw [BitVec.getLsbD_and, getLsbD_bitMask _ _ _ (by omega)] at this
    have h2 : lo ≤ lo + i ∧ lo + i < lo + w := by omega
    simp only [h2, and_self, decide_true, Bool.true_and] at this
    simp [BitVec.getLsbD_and, this]
  · simp [hi]

/-! ### Places of registers -/

theorem ctorIdx_lt (r : Reg) : r.ctorIdx < 256 := by cases r <;> decide

theorem ofNat_ctorIdx (r : Reg) : Reg.ofNat r.ctorIdx = r := by cases r <;> rfl

@[simp] theorem keyReg_regKey (r : Reg) (n : Nat) : keyReg (regKey r n) = r := by
  have h := ctorIdx_lt r
  have : (n * 256 + r.ctorIdx) % 256 = r.ctorIdx := by omega
  simp [keyReg, regKey, this, ofNat_ctorIdx]

@[simp] theorem regKey_div (r : Reg) (n : Nat) : regKey r n / 256 = n := by
  have h := ctorIdx_lt r
  unfold regKey
  omega

/-- Two places have one key only if they are one. -/
theorem regKey_inj {r r' : Reg} {n n' : Nat} : regKey r n = regKey r' n' ↔ r = r' ∧ n = n' := by
  constructor
  · intro h
    have h1 := congrArg keyReg h
    have h2 := congrArg (· / 256) h
    simp at h1 h2
    exact ⟨h1, h2⟩
  · rintro ⟨rfl, rfl⟩
    rfl

/-- The default of a register's place is its reset word. -/
@[simp] theorem regDefault_regKey (r : Reg) (n : Nat) : regDefault (regKey r n) = regReset r n := by simp [regDefault]

/-! ### Words after primitive writes -/

theorem raw_reg (s : State) (r r' : Reg) (n n' : Nat) (w : Word) :
    (applyUpd (.reg r n w) s).raw r' n' = if r' = r ∧ n' = n then w &&& regMask r else s.raw r' n' := by
  unfold State.raw
  rw [applyUpd_reg_regs]
  by_cases h : r' = r ∧ n' = n
  · obtain ⟨rfl, rfl⟩ := h
    simp
  · rw [if_neg h]
    exact tabGet_tabPut_other _ _ _ _ _ _ fun e => h (regKey_inj.1 e)

@[simp] theorem raw_reg_self (s : State) (r : Reg) (n : Nat) (w : Word) : (applyUpd (.reg r n w) s).raw r n = w &&& regMask r := by
  simp [raw_reg]

/-- A write of another part leaves the words as a read returns them. -/
theorem raw_other (s : State) (u : Upd) (h : u.part ≠ .regs) (r : Reg) (n : Nat) : (applyUpd u s).raw r n = s.raw r n := by
  unfold State.raw
  rw [applyUpd_regs s u h]

@[simp] theorem raw_live (s : State) (r r' : Reg) (n n' : Nat) (w : Option Word) :
    (applyUpd (.live r n w) s).raw r' n' = s.raw r' n' := rfl

/-- The staged entry of a place. -/
def State.stagedAt (s : State) (r : Reg) (n : Nat) : Option Word := tabGet s.live none (regKey r n)

theorem eff_eq (s : State) (r : Reg) (n : Nat) : s.eff r n = (s.stagedAt r n).getD (s.raw r n) := rfl

@[simp] theorem stagedAt_reg (s : State) (r r' : Reg) (n n' : Nat) (w : Word) : (applyUpd (.reg r n w) s).stagedAt r' n' = s.stagedAt r' n' := rfl

theorem stagedAt_live (s : State) (r r' : Reg) (n n' : Nat) (w : Option Word) :
    (applyUpd (.live r n w) s).stagedAt r' n' = if r' = r ∧ n' = n then w.map (· &&& regMask r) else s.stagedAt r' n' := by
  unfold State.stagedAt
  rw [applyUpd_live_live, tabGet_tabPut]
  simp [regKey_inj]

/-! ### Setting a field -/

/-- A field lies within its register's word, and all its bits are held. -/
def Fld.held (f : Fld) : Bool := decide (f.lo + f.w ≤ 32) && (bitMask f.lo f.w &&& regMask f.reg == bitMask f.lo f.w)

/-- Two places of fields that share no bit. -/
def Fld.apart (f g : Fld) : Bool := f.reg != g.reg || decide (f.lo + f.w ≤ g.lo ∨ g.lo + g.w ≤ f.lo)

theorem run_setF (f : Fld) (n v : Nat) (s : State) :
    run (setF f n v) s =
      (match s.stagedAt f.reg n with
       | none => applyUpd (.reg f.reg n (putBits (s.raw f.reg n) f.lo f.w v)) s
       | some w => applyUpd (.live f.reg n (some (putBits w f.lo f.w v))) (applyUpd (.reg f.reg n (putBits (s.raw f.reg n) f.lo f.w v)) s)) := by
  unfold setF State.stagedAt
  cases h : tabGet s.live none (regKey f.reg n) <;> simp [h]

/-- A field just set reads back, as read and in effect. -/
theorem setF_self (f : Fld) (n v : Nat) (s : State) (h : f.held = true) :
    (run (setF f n v) s).fld f n = v % 2 ^ f.w ∧ (run (setF f n v) s).rawFld f n = v % 2 ^ f.w := by
  simp only [Fld.held, Bool.and_eq_true, decide_eq_true_eq, beq_iff_eq] at h
  rw [run_setF]
  cases hs : s.stagedAt f.reg n with
  | none =>
    simp only [State.fld, State.rawFld, eff_eq, stagedAt_reg, hs, Option.getD_none, raw_reg_self]
    simp [bits_and_mask _ _ _ _ h.1 h.2, bits_putBits_self _ _ _ _ h.1]
  | some w =>
    simp only [State.fld, State.rawFld, eff_eq, stagedAt_live, raw_live, raw_reg_self, and_self, if_true, Option.map_some,
      Option.getD_some]
    simp [bits_and_mask _ _ _ _ h.1 h.2, bits_putBits_self _ _ _ _ h.1]

@[simp] theorem setF_fld (f : Fld) (n v : Nat) (s : State) (h : f.held = true) : (run (setF f n v) s).fld f n = v % 2 ^ f.w := (setF_self f n v s h).1
@[simp] theorem setF_rawFld (f : Fld) (n v : Nat) (s : State) (h : f.held = true) : (run (setF f n v) s).rawFld f n = v % 2 ^ f.w :=
  (setF_self f n v s h).2

/-- A field that shares no bit with the one set, or lies at another place, reads as before. -/
theorem setF_other (f g : Fld) (n m v : Nat) (s : State) (hg : g.held = true) (h : f.apart g = true ∨ n ≠ m) :
    (run (setF f n v) s).fld g m = s.fld g m ∧ (run (setF f n v) s).rawFld g m = s.rawFld g m := by
  simp only [Fld.held, Bool.and_eq_true, decide_eq_true_eq, beq_iff_eq] at hg
  rw [run_setF]
  by_cases hp : g.reg = f.reg ∧ m = n
  · obtain ⟨hr, rfl⟩ := hp
    have hd : g.lo + g.w ≤ f.lo ∨ f.lo + f.w ≤ g.lo := by
      rcases h with h | h
      · simp [Fld.apart, hr] at h; omega
      · exact absurd rfl h
    cases hs : s.stagedAt f.reg m with
    | none =>
      simp only [State.fld, State.rawFld, hr, eff_eq, stagedAt_reg, hs, Option.getD_none, raw_reg_self]
      rw [hr] at hg
      simp [bits_and_mask _ _ _ _ hg.1 hg.2, bits_putBits_other _ _ _ _ _ _ hg.1 hd]
    | some w =>
      simp only [State.fld, State.rawFld, hr, eff_eq, stagedAt_live, raw_live, raw_reg_self, and_self, if_true, Option.map_some,
        Option.getD_some, hs]
      rw [hr] at hg
      simp [bits_and_mask _ _ _ _ hg.1 hg.2, bits_putBits_other _ _ _ _ _ _ hg.1 hd]
  · cases s.stagedAt f.reg n <;> simp [State.fld, State.rawFld, eff_eq, stagedAt_live, raw_reg, hp]

/-- Setting a field leaves every other register alone. -/
theorem setF_raw (f : Fld) (n v : Nat) (s : State) (r : Reg) (m : Nat) (h : ¬ (r = f.reg ∧ m = n)) :
    (run (setF f n v) s).raw r m = s.raw r m ∧ (run (setF f n v) s).eff r m = s.eff r m := by
  rw [run_setF]
  cases s.stagedAt f.reg n <;> simp [eff_eq, stagedAt_live, raw_reg, h]

/-- Setting a field changes the register parts only. -/
theorem setF_within (P : Upd → Prop) (f : Fld) (n v : Nat) (h1 : ∀ w, P (.reg f.reg n w)) (h2 : ∀ w, P (.live f.reg n w)) :
    (setF f n v).within P := by
  unfold setF
  intro s
  refine ⟨h1 _, ?_⟩
  split
  · trivial
  · exact h2 _

end Sys2Proof.Machine
end

