-- ==== Sys2Proof/Laws/Shared.lean ====
section
/-!
SUPPORT. Laws/Shared.lean: the operations every block shares: what each may change, said once, and how it leaves the rest.
-/
namespace Sys2Proof.Machine

/-! ### Frames of actions -/

/-- A primitive write stays within the listed parts and registers. -/
def inFrame (P : List Part) (R : List Reg) : Upd → Prop
  | .reg r _ _ => P.contains .regs = true ∧ R.contains r = true
  | .live r _ _ => P.contains .live = true ∧ R.contains r = true
  | .keep t _ => P.contains t.part = true ∧ t.part ≠ .regs ∧ t.part ≠ .live
  | u => P.contains u.part = true

/-- The frame of an action: every write it can make stays within the lists. -/
abbrev Act.framed (P : List Part) (R : List Reg) (a : Act) : Prop := a.within (inFrame P R)

variable {P : List Part} {R : List Reg}

theorem inFrame_part (u : Upd) (h : inFrame P R u) : P.contains u.part = true := by
  cases u <;> first | exact h | exact h.1

theorem inFrame_regs (u : Upd) (h : inFrame P R u) (s : State) : OnlyRegs R s (applyUpd u s) := by
  intro r n hr
  cases u with
  | reg q m w =>
    have hne : ¬ (r = q ∧ n = m) := by rintro ⟨rfl, rfl⟩; rw [h.2] at hr; cases hr
    simp [eff_eq, raw_reg, hne]
  | live q m w =>
    have hne : ¬ (r = q ∧ n = m) := by rintro ⟨rfl, rfl⟩; rw [h.2] at hr; cases hr
    simp [eff_eq, stagedAt_live, hne]
  | keep t p =>
    cases t <;> first | exact ⟨rfl, rfl⟩ | exact absurd rfl h.2.1 | exact absurd rfl h.2.2
  | _ => exact ⟨rfl, rfl⟩

/-- What a framed action leaves alone. -/
theorem run_framed (a : Act) (h : a.framed P R) (s : State) : Only P s (run a s) ∧ OnlyRegs R s (run a s) :=
  ⟨run_only P a (within_mono a h inFrame_part) s,
    run_within (OnlyRegs R) (fun _ _ _ _ => ⟨rfl, rfl⟩)
      (fun _ _ _ hst htu r n hr => ⟨(htu r n hr).1.trans (hst r n hr).1, (htu r n hr).2.trans (hst r n hr).2⟩)
      (fun u s hu => inFrame_regs u hu s) a h s⟩

/-- Every member of one list is in another. -/
theorem contains_sub {α : Type} [BEq α] [LawfulBEq α] {l l' : List α} (h : l.all l'.contains = true) :
    ∀ x, l.contains x = true → l'.contains x = true := by
  intro x hx
  rw [List.all_eq_true] at h
  exact h x (by simpa using hx)

/-- A frame may be widened. -/
theorem framed_mono {P' : List Part} {R' : List Reg} (a : Act) (h : a.framed P R) (hP : ∀ x, P.contains x = true → P'.contains x = true)
    (hR : ∀ r, R.contains r = true → R'.contains r = true) : a.framed P' R' :=
  within_mono a h fun u hu => by
    cases u <;> first | exact hP _ hu | exact ⟨hP _ hu.1, hR _ hu.2⟩ | exact ⟨hP _ hu.1, hu.2⟩

/-! ### Fields, counts and messages -/

theorem setF_framed (f : Fld) (n v : Nat) (h1 : P.contains .regs = true) (h2 : P.contains .live = true) (hR : R.contains f.reg = true) :
    (setF f n v).framed P R := setF_within _ f n v (fun _ => ⟨h1, hR⟩) (fun _ => ⟨h2, hR⟩)

theorem addSat_framed (f : Fld) (n k : Nat) (h1 : P.contains .regs = true) (h2 : P.contains .live = true) (hR : R.contains f.reg = true) :
    (addSat f n k).framed P R := fun _ => setF_framed f n _ h1 h2 hR

theorem count_framed (vid idx c k : Nat) (h : P.contains .cnt = true) : (count vid idx c k).framed P R := fun _ => h

theorem emit_framed (o : Out) (h : P.contains .out = true) : (emit o).framed P R := h

theorem modMsi_framed (k : Nat) (f : Msi → Msi) (h : P.contains .msi = true) : (modMsi k f).framed P R := fun _ => h

theorem modEvt_framed (f : EvtS → EvtS) (h : P.contains .evt = true) : (modEvt f).framed P R := fun _ => h

/-- Drawing a free value advances the counter of free values and nothing else. -/
theorem draw_framed (k : Nat → Act) (h : P.contains .fresh = true) (hk : ∀ v, (k v).framed P R) : (draw k).framed P R :=
  fun _ => ⟨h, hk _⟩

/-! ### Occurrences (R294 to R300) -/

/-- The parts an occurrence may change. -/
def occurParts : List Part := [.regs, .live, .occ, .msi, .out]

/-- The registers an occurrence may change. -/
def occurRegs : List Reg := [.EVT_STATUS, .EVT_Z_STATUS, .EVT_MSI_LOST]

theorem sendMsi_framed (pf vec : Nat) : (sendMsi pf vec).framed occurParts occurRegs := by
  intro s
  dsimp only
  split
  · exact addSat_framed _ _ _ rfl rfl rfl
  · split
    · exact modMsi_framed _ _ rfl
    · split
      · exact modMsi_framed _ _ rfl
      · exact ⟨emit_framed _ rfl, within_when _ _ (modMsi_framed _ _ rfl), trivial⟩

theorem deliver_framed (w : Nat) : (deliver w).framed occurParts occurRegs := by
  intro s
  dsimp only
  split
  · exact sendMsi_framed _ _
  · exact within_when _ _ (emit_framed _ rfl)

theorem occur_framed (e : Nat) : (occur e).framed occurParts occurRegs := by
  intro s
  dsimp only
  split
  · trivial
  · exact ⟨⟨rfl, rfl⟩, ⟨rfl, rfl⟩, rfl, within_when _ _ (emit_framed _ rfl), within_when _ _ (deliver_framed _), trivial⟩

/-- Raising a cause bit changes its cause register and what an occurrence changes. -/
theorem raise_framed (f : Fld) (n : Nat) : (raise f n).framed occurParts (f.reg :: occurRegs) := by
  refine ⟨setF_framed f n 1 rfl rfl (by simp), ?_⟩
  split
  · exact framed_mono _ (occur_framed _) (fun _ h => h) fun r h => by simp_all
  · trivial

/-- The state after an occurrence has been recorded, before it is delivered. -/
def State.recorded (s : State) (e : Nat) : State :=
  applyUpd (.occ e (if s.occOf e = 0xFFFF#16 then 0xFFFF#16 else s.occOf e + 1))
    (applyUpd (.reg .EVT_Z_STATUS (e / 32) (s.raw .EVT_Z_STATUS (e / 32) ||| BitVec.ofNat 32 (2 ^ (e % 32))))
      (applyUpd (.reg .EVT_STATUS (e / 32) (s.raw .EVT_STATUS (e / 32) ||| BitVec.ofNat 32 (2 ^ (e % 32)))) s))

/-- An occurrence sets its bit in both views, interrupts Zolliwin where its bit of the firmware view was clear and is enabled, and is
delivered where its bit of the host view was clear and is enabled. -/
theorem run_occur (e : Nat) (s : State) (h : ¬ (e < 1024 ∧ s.starts (e % 512) = false)) :
    run (occur e) s = run (when (decide (s.raw .EVT_STATUS (e / 32) &&& BitVec.ofNat 32 (2 ^ (e % 32)) = 0) &&
      (s.raw .EVT_ENABLE (e / 32) &&& BitVec.ofNat 32 (2 ^ (e % 32))) != 0) (deliver (e / 32)))
      (run (when (decide (s.raw .EVT_Z_STATUS (e / 32) &&& BitVec.ofNat 32 (2 ^ (e % 32)) = 0) &&
        (s.raw .EVT_Z_ENABLE (e / 32) &&& BitVec.ofNat 32 (2 ^ (e % 32))) != 0) (emit (.zolEvt (e / 32)))) (s.recorded e)) := by
  simp only [occur, run_look, if_neg h]
  rfl

theorem recorded_status (e : Nat) (s : State) : (s.recorded e).raw .EVT_STATUS (e / 32) =
    (s.raw .EVT_STATUS (e / 32) ||| BitVec.ofNat 32 (2 ^ (e % 32))) &&& regMask .EVT_STATUS := by
  unfold State.recorded
  rw [raw_other _ _ (by simp [Upd.part]), raw_reg, if_neg (by simp), raw_reg_self]

theorem recorded_zStatus (e : Nat) (s : State) : (s.recorded e).raw .EVT_Z_STATUS (e / 32) =
    (s.raw .EVT_Z_STATUS (e / 32) ||| BitVec.ofNat 32 (2 ^ (e % 32))) &&& regMask .EVT_Z_STATUS := by
  unfold State.recorded
  rw [raw_other _ _ (by simp [Upd.part]), raw_reg_self]

/-! ### Captures, rejects and bus errors (R274, R283, R284, R303) -/

theorem capture_framed (a i : Reg) (addr : Nat) (info : Word) : (capture a i addr info).framed [.regs] [a, i] := by
  intro s
  dsimp only
  split
  · exact ⟨rfl, by simp⟩
  · exact ⟨⟨rfl, by simp⟩, ⟨rfl, by simp⟩, trivial⟩

/-- The register of a block's REJECT field and the cause register of its reject event. -/
def Blk.regs (b : Blk) : List Reg :=
  match b with
  | .sys => [.SYS_STATUS, .SYS_EVT_CAUSE]
  | .stall _ => [.STALL_STATUS, .STALL_EVT_CAUSE]
  | .qtr _ => [.QTR_STATUS, .QTR_EVT_CAUSE]
  | .srch _ => [.AISLE_SRCH_STATUS, .AISLE_SRCH_EVT_CAUSE]
  | .mc _ => [.AISLE_MC_STATUS, .AISLE_MC_EVT_CAUSE]
  | .pe => [.PE_STATUS, .PE_EVT_CAUSE]
  | .swc => [.SWC_STATUS, .SWC_EVT_CAUSE]
  | .sch => [.SCH_STATUS, .SCH_EVT_CAUSE]
  | .timePort _ => [.TIME_STATUS, .TIME_PORT_EVT_CAUSE]
  | .timeSvc => [.TIME_STATUS, .TIME_SVC_EVT_CAUSE]
  | .clk => [.CLK_STATUS, .CLK_EVT_CAUSE]
  | .nvm => [.NVM_STATUS]
  | .dma => [.DMA_STATUS, .DMA_EVT_CAUSE]
  | .sec => [.SEC_STATUS, .SEC_EVT_CAUSE]
  | .shr => [.SHR_STATUS, .SHR_EVT_CAUSE]
  | .perf => [.PERF_SNAP_STATUS]

theorem rejectReport_framed (b : Blk) (code : Nat) : (rejectReport b code).framed occurParts (b.regs ++ occurRegs) := by
  cases b <;> first
    | exact setF_framed _ _ _ rfl rfl rfl
    | exact ⟨setF_framed _ _ _ rfl rfl rfl, framed_mono _ (raise_framed _ _) (fun _ h => h) (contains_sub rfl), trivial⟩

/-- A reject changes the capture, the block's REJECT field, what its event changes, and the count of accesses turned away. -/
theorem reject_framed (b : Blk) (req : Req) (addr code vid : Nat) :
    (reject b req addr code vid).framed (.evt :: occurParts) ([.SYS_REJECT_ADDR, .SYS_REJECT_INFO] ++ (b.regs ++ occurRegs)) :=
  ⟨framed_mono _ (capture_framed _ _ _ _) (contains_sub rfl) (fun r h => by simp_all; tauto),
    framed_mono _ (rejectReport_framed b code) (fun x h => by simp_all) (fun r h => by simp_all),
    modEvt_framed _ rfl, trivial⟩

/-- A locked write changes its capture, what its event changes, and the count of accesses turned away. -/
theorem lockedWrite_framed (req : Req) (addr : Nat) :
    (lockedWrite req addr).framed (.evt :: occurParts) ([.SYS_LOCKED_WR, .SYS_LOCKED_WR_INFO, .SYS_EVT_CAUSE] ++ occurRegs) :=
  ⟨framed_mono _ (capture_framed _ _ _ _) (contains_sub rfl) (contains_sub rfl),
    framed_mono _ (raise_framed _ _) (fun x h => by simp_all) (contains_sub rfl), modEvt_framed _ rfl, trivial⟩

/-- A bus error changes its capture, what its event changes, the count of accesses turned away, and what is sent. -/
theorem busError_framed (req : Req) (addr kind : Nat) (wr : Bool) :
    (busError req addr kind wr).framed (.evt :: occurParts) ([.SYS_BUS_ERR, .SYS_BUS_ERR_INFO, .SYS_EVT_CAUSE] ++ occurRegs) :=
  ⟨framed_mono _ (capture_framed _ _ _ _) (contains_sub rfl) (contains_sub rfl),
    framed_mono _ (raise_framed _ _) (fun x h => by simp_all) (contains_sub rfl), modEvt_framed _ rfl,
    within_when _ _ (emit_framed _ rfl), within_when _ _ (emit_framed _ rfl), trivial⟩

/-! ### Writes of registers (R6, R9, R275) -/

/-- A write by software does what its body does, or is a bus error, or does not arrive. -/
theorem onWrite_framed (req : Req) (r : Reg) (n : Nat) (k : Req → Act) (hk : ∀ q, (k q).framed P R)
    (hP : ∀ x, (Part.evt :: occurParts).contains x = true → P.contains x = true)
    (hR : ∀ q, ([Reg.SYS_BUS_ERR, .SYS_BUS_ERR_INFO, .SYS_EVT_CAUSE] ++ occurRegs).contains q = true → R.contains q = true) :
    (onWrite req r n k).framed P R := by
  intro s
  dsimp only
  split
  · trivial
  · split
    · exact framed_mono _ (busError_framed _ _ _ _) hP hR
    · exact hk _

theorem stageF_framed (f : Fld) (n v : Nat) (h1 : P.contains .regs = true) (h2 : P.contains .live = true) (hR : R.contains f.reg = true) :
    (stageF f n v).framed P R := fun _ => ⟨⟨h1, hR⟩, ⟨h2, hR⟩⟩

theorem writeField_framed (sec : Bool) (r : Reg) (n : Nat) (v : Word) (f : FieldInfo) :
    (writeField sec r n v f).framed [.regs, .live] [r] := by
  unfold writeField
  dsimp only
  split
  · trivial
  · split
    · trivial
    · trivial
    · exact fun _ => setF_framed _ _ _ rfl rfl (by simp [FieldInfo.fld])
    · exact fun _ => setF_framed _ _ _ rfl rfl (by simp [FieldInfo.fld])
    · exact setF_framed _ _ _ rfl rfl (by simp [FieldInfo.fld])
    · exact fun _ => within_when _ _ (setF_framed _ _ _ rfl rfl (by simp [FieldInfo.fld]))
    · split
      · exact setF_framed _ _ _ rfl rfl (by simp [FieldInfo.fld])
      · exact setF_framed _ _ _ rfl rfl (by simp [FieldInfo.fld])
      · exact stageF_framed _ _ _ rfl rfl (by simp [FieldInfo.fld])

/-- A write field by field changes its own register, and what a locked write changes. -/
theorem writeFields_framed (req : Req) (r : Reg) (n : Nat) (v : Word) :
    (writeFields req r n v).framed (.evt :: occurParts) (r :: ([.SYS_LOCKED_WR, .SYS_LOCKED_WR_INFO, .SYS_EVT_CAUSE] ++ occurRegs)) :=
  fun _ => ⟨within_each _ _ fun f _ => framed_mono _ (writeField_framed _ r n v f) (contains_sub rfl)
      (fun q h => by simp_all),
    within_when _ _ (framed_mono _ (lockedWrite_framed _ _) (fun _ h => h) (fun q h => by simp_all)), trivial⟩

/-- Staged fields of one place take effect: a read returns what it did. -/
theorem applyFields_framed (r : Reg) (n : Nat) (p : FieldInfo → Bool) : (applyFields r n p).framed [.live] [r] := by
  intro s
  dsimp only
  split
  · trivial
  · exact ⟨rfl, by simp⟩

end Sys2Proof.Machine
end

