-- ==== Sys2Proof/WellFormed.lean ====
section
/-!
DEFINITION. WellFormed.lean: operands that can occur. A command whose operands fail a check is none that the outside world can send.
-/
namespace Sys2Proof

/-- Units a boundary has: aisles, quarters, the switch core, ports. -/
def Boundary.units : Boundary → Nat
  | .pktAisle => 16
  | .pktQtr => 4
  | .pktSwc => 1
  | .pktPort => 512
  | .frmPort => 512
  | .gatePort => 512

/-- A time since the last time word lies within the 80 ns of one word, in 2^-16 ns (R228). -/
def subOk (sub : Nat) : Bool := decide (sub < 80 * 65536)

/-- Octets of a frame before its FCS: a frame has some; one shorter than 64 octets with its FCS is received too, and counts as an FCS
error (R38). -/
def frameOk (data : List Byte) : Bool := decide (1 ≤ data.length)

/-- A command of a table DMA stream: a header of 16 octets and a payload of whole 16-octet units (R366). -/
def dmaOk (body : List Byte) : Bool := decide (16 ≤ body.length ∧ body.length % 16 = 0)

/-- Octets written to the NVM from outside lie within its largest density (R356). -/
def nvmOk (l : List (Nat × BitVec 8)) : Bool := l.all fun x => decide (x.1 < 2 ^ 28)

/-- A descriptor of a host queue and a frame as read for it (R371). -/
def ioOk (l : List (List Byte × List Byte)) : Bool := l.all fun x => decide (x.1.length = 32 ∧ x.2.length ≤ 10236)

/-- Whether a command's operands are ones that can occur. -/
def Instr.wf : Instr → Bool
  | .registerWrite _ _ addr _ => decide (addr < 2 ^ 26)
  | .stagedFieldApply bnd inst => decide (inst < bnd.units)
  | .frameSfdCapture _ _ data sub => frameOk data && subOk sub
  | .pfcFrameReceive _ _ quanta => decide (quanta.length = 8) && quanta.all fun x => decide (x < 65536)
  | .schedulerSelect _ _ sub => subOk sub
  | .bufferFree _ _ handle _ _ => decide (handle < 2 ^ 23)
  | .eyeSweep _ eyes => decide (eyes.length = 3)
  | .siteChainScan scan => decide (scan.inf.length = 64)
  | .assayUnitRead _ flip _ => decide (flip < 2 ^ 225)
  | .microwordExecute _ upset => decide (upset < 2 ^ 214)
  | .regRead (.smbus _ addr) => decide (addr < 65536)
  | .regRead (.window _ _ addr) => decide (addr < 2 ^ 26)
  | .regWrite head addr _ _ => decide (head.count < 256 ∧ addr < 65536)
  | .ppsInEdge sub => subOk sub
  | .exitSequenceStart written => nvmOk written
  | .nvmHoldClear _ _ written => nvmOk written
  | .dmaDescriptorExecute _ desc _ => decide (desc.length = 32)
  | .write _ body => dmaOk body
  | .fill _ body => dmaOk body
  | .read _ body => dmaOk body
  | .ldgInsert _ body => dmaOk body
  | .ldgDelete _ body => dmaOk body
  | .lpmInsert _ body => dmaOk body
  | .lpmDelete _ body => dmaOk body
  | .pselWrite _ body => dmaOk body
  | .ruleWrite _ body => dmaOk body
  | .ruleClear _ body => dmaOk body
  | .ruleMove _ body => dmaOk body
  | .padlock _ body => dmaOk body
  | .nop _ body => dmaOk body
  | .thermalConversion temps => decide (temps.length = 48)
  | .hostPacketMoverDone _ io => ioOk io
  | _ => true

end Sys2Proof
end

