-- ==== Sys2Proof/Tests/Slice0.lean ====
section
/-!
SUPPORT. Tests/Slice0.lean: small checks with expected values from the spec's worked examples, the ill-formed commands that
WellFormed refuses, and for every statement with hypotheses states and operands that meet them.
-/
namespace Sys2Proof.Tests
open Sys2Proof.Machine
set_option maxRecDepth 20000
set_option Elab.async false

/-! ### A running device -/

/-- A device that runs in OPEN: out of reset, its firmware running, the host's link up and MSI-X enabled. -/
def dev : State :=
  run (acts [setF F.SYS_MODE_MODE 0 modeOpen, setF F.SYS_MODE_TARGET 0 modeOpen, setB F.CLK_STATUS_PCIE_LOCK 0 true,
      setB F.CLK_STATUS_ROOT_LOCK 0 true, setB F.CLK_STATUS_TIME_LOCK 0 true])
    { State.reset with
      clk := { srcs := [], seen := [], perst := false, step := 11, zolRun := 2, pcieUp := true }
      mode := { started := true, shut := true, everOpen := true }
      time := { State.reset.time with running := true, words := 1000000000000 }
      evt := { State.reset.evt with msixOn := [0, 1, 2, 3] } }

/-- The running device after some actions. -/
def tune (l : List Act) : State := run (acts l) dev

/-- The running device in another mode. -/
def inMode (m : Nat) (l : List Act) : State := run (acts (setF F.SYS_MODE_MODE 0 m :: setF F.SYS_MODE_TARGET 0 m :: l)) dev

/-- With no dispatch entry changed for a work type and no trap, its routine is the ROM's. -/
theorem rom_plain (s : State) (ty : Nat) (hd : (s.pe.mc.disp.find? fun e => e.1 == ty) = none) (ht : s.pe.mc.trap = []) :
    s.romRoutine ty = true := by simp [State.romRoutine, dispIn, hd, ht]

/-- A section whose digest stands in the manifest verifies. -/
theorem section_ok (s : State) (i : Nat) (l : List Byte) (hd : (s.nvm.sections.getD i (0, 0, 0)).2.2 = Config.sha3 l)
    (hl : s.imageSection i = l) : s.sectionOk i = true := by
  unfold State.sectionOk
  rw [hd, hl]
  exact beq_self_eq_true _

/-- A state some seconds later. -/
def late (s : State) : State := { s with time := { s.time with words := s.time.words + 1000000000 } }


/-- A state whose units have all applied its epoch. -/
def allIn (s : State) : State := run (each (List.range 88) fun u => acts [epochWindowExpire u, epochUnitApplied u]) (late s)

/-- A running device with port 8 up, after some actions. -/
def upDev (l : List Act) : State :=
  tune (setF F.PORT_STATE_LINK 8 linkUp :: setB F.STALL_STATUS_TXPLL_LOCK 1 true :: modStall 1 (fun S => { S with configured := true }) :: l)


/-- A short frame. -/
def fr1 : List Byte := [2#8, 0#8, 0#8, 0#8, 0#8, 0xBB#8, 2#8, 0#8, 0#8, 0#8, 0#8, 0xAA#8, 0x08#8, 0x99#8] ++ List.replicate 46 5#8


/-- A frame that waits at port 8. -/
def frm1 : Frame := { fid := 7, port := 8, data := fr1 }


/-- A static MAC entry of the frame's destination: `lo` are its low bits. -/
def ent1 (lo : Nat) : LEntry := { e := BitVec.ofNat 128 (2 ^ 127 + 2 ^ 124 + 15 * 2 ^ 120 + macKey 0 0x0200000000BB * 2 ^ 40 + lo) }


/-- Aisle 0 can admit the frame, and the ledger holds the entry. -/
def admDev (lo : Nat) (l : List Act) : State :=
  upDev ([modPort 8 fun P => { P with fifo := [frm1] }, modAisle 0 fun A => { A with mc := { A.mc with running := true } },
    insertLedger 0 (ent1 lo, {}) .skip] ++ l)

/-- A running device with PTP from port 8, which is up and follows. -/
def ptpDev (l : List Act) : State :=
  upDev (modClk (fun c => { c with opts := { c.opts with timeRef := 1 } }) :: setF F.TIME_PORT_PTP_STATUS_PORT_STATE 8 9 ::
    setF F.TIME_PORT_PTP_ROLE 8 1 :: modTime (fun t => { t with parent := some 8 }) :: l)


/-- The record of a foreign master. -/
def rec1 : Foreign := { portId := 0x99, gm := 0x1234, quality := 0x0621000701020000, steps := 2, utc := 37, flags := 4, src := 3, at_ := 1000000000000 }


/-- What a run of the BMCA brings, with this parent. -/
def bmca1 (p : Option (Fin 512)) : Bmca := { parent := p, parentId := 0x99, states := [(8, 9)] }


/-- A good sentence. -/
def tod1 : List Byte := (tune [modTime fun t => { t with tflags := 8, utc := 37 }, setF F.TIME_SERVO_STATUS_STATE 0 2]).todSentence 100

/-- A carved device: its pools are as the reset sizes make them. -/
def carvedDev (l : List Act) : State :=
  run (acts (setF F.SYS_MODE_MODE 0 modeOpen :: l)) (run (carve .zs 1#32) (inMode modeSetup []))


/-- A packet that waits for its buffer. -/
def pk1 : Packet := { frame := { frm1 with lastIn := true, fcsOk := true }, prio := 3, queue := 3, dests := [17, 16] }

/-- A dynamic MAC entry of port 8, of this age, in the stash of quarter 0. -/
def agedDev (age : Nat) : State :=
  tune [setF F.QTR_AGE_CFG_PERIOD 0 300,
    modQtr 0 fun Q => { Q with agePos := 131072, stash := [(0, { e := BitVec.ofNat 128 (2 ^ 127 + 2 ^ 124 + age * 2 ^ 120 + macKey 1 0xBB * 2 ^ 40 + 8) })] }]


/-- A note of quarter 1. -/
def note1 : Note := { typ := 3, quarter := 1, port := 130, seq := 2047 }

/-- Where a hewer runs a word of the patch RAM. -/
def hw0 : Eng := .hewer 0 0


/-- A microword of good parity: ALU operation 1 of G1 and G2 to G5, then the next address. -/
def addWord : BitVec 200 := withParity (BitVec.ofNat 192 (1 * 2 ^ 162 + 5 * 2 ^ 157 + 1 * 2 ^ 152 + 2 * 2 ^ 147))


/-- A device whose hewer 0 of aisle 0 is about to run a word. -/
def microDev (w : BitVec 200) (f : Engine → Engine) : State :=
  tune [modAisle 0 fun A => { A with
    mc := { A.mc with running := true, ram := [(0x1E00, w)] }
    hewers := [(0, f { run := true, pc := 0x1E00, fid := 7, g := [(1, 40#32), (2, 2#32)] })] }]


/-- A device whose protocol engine is in this state. -/
def peDev (f : Engine → Engine) : State :=
  tune [modPe fun E => { E with mc := { E.mc with running := true }, eng := f { run := true, g := [(1, 7#32)] } }]

/-- A device whose security block answers on both transports, negotiated. -/
def spdmDev (l : List Act) : State :=
  tune ([setB F.SEC_STATUS_READY 0 true, setB F.SEC_CFG_DOE_EN 0 true, setB F.SEC_CFG_MCTP_EN 0 true, setB F.SEC_STATUS_ENTROPY_OK 0 true,
    modSec fun c => { c with ver := [(0, 3), (1, 3)] }] ++ l)


/-- A request outside of any session, or in session 5. -/
def sp0 : SpdmIn := { sid := none, good := true, leaf := none }
def sp5 (good : Bool) : SpdmIn := { sid := some 5, good := good, leaf := none }


/-- A request message of version 1.3. -/
def rqMsg (code p1 p2 : Nat) : List Byte := [0x13#8, BitVec.ofNat 8 code, BitVec.ofNat 8 p1, BitVec.ofNat 8 p2] ++ List.replicate 44 0


/-- A session of the device. -/
def ses5 (o : Bool) : Session := { doe := true, sid := 5, open_ := o, last := 0 }

/-- A device whose tables the host owns. -/
def hostDev (l : List Act) : State := tune ([setF F.SYS_OWNER_STATE 0 1, setB F.DMA_RING_CFG_EN 0 true, setF F.DMA_RING_TAIL_TAIL 0 3] ++ l)


/-- A command of a ring. -/
def cmdB (op table index cnt : Nat) (payload : List Byte) : List Byte :=
  leBytes 1 op ++ [0] ++ leBytes 2 (payload.length / 16) ++ leBytes 1 table ++ [0, 0, 0] ++ leBytes 4 index ++ leBytes 4 cnt ++ payload


/-- A descriptor. -/
def descB (len : Nat) : List Byte := leBytes 8 4096 ++ leBytes 4 len ++ [1, 2, 3, 4] ++ List.replicate 8 0


/-- An image of a dynamic MAC entry. -/
def macImg : List Byte := leBytes 16 (2 ^ 127 + 2 ^ 124 + 14 * 2 ^ 120 + macKey 1 0xBB * 2 ^ 40 + 8)


/-- An LPM record of 10.1.0.0/16 in VRF 1. -/
def lpmRec1 : List Byte := [0, 16] ++ leBytes 2 1 ++ leBytes 4 77 ++ List.replicate 8 0 ++ [10, 1] ++ List.replicate 14 0


/-- A rule record of slot 2, index 7, and of its move to index 9 of slot 3. -/
def ruleRec1 : List Byte := [2, 0] ++ leBytes 2 7 ++ [3, 0] ++ leBytes 2 9 ++ leBytes 8 5 ++ leBytes 10 6 ++ List.replicate 30 0 ++ leBytes 10 7 ++
  List.replicate 46 0


/-- A device whose psel entries all name slot 20, and which holds that prefix or that rule in aisle 0. -/
def lpmDev (l : List Act) : State :=
  tune ([.upd (.flat (flatKey 14 0 ((lpmRec1.length * 0 + partition false 1 0x0A010000))) 0x100000#512)] ++ l)

/-- Reset released, the boot ROM about to start. -/
def romDev (l : List Act) : State :=
  run (acts ([setF F.SYS_MODE_MODE 0 modeShutters, modClk fun c => { c with zolRun := 1 }, modMode fun m => { m with started := false, everOpen := false }] ++ l)) dev


/-- SETUP with this configuration record next, in slot A. -/
def recDev (l : List Byte) (e : List Act) : State :=
  inMode modeSetup ([modMode (fun m => { m with setup := 1 }),
    modNvm fun N => { N with cfgPos := 4, sections := [(0, 0, 0), (0, 0, 0), (0x2000, 4 + l.length, Config.sha3 (List.replicate 4 0xFF#8 ++ l)), (0, 0, 0)] }, modNvm fun N => { N with slot := 0 }] ++
    l.zipIdx.map (fun x => .upd (.nvmByte (0x102004 + x.2) x.1)) ++ e)


/-- A record. -/
def recB (ty : Nat) (l : List Byte) : List Byte := leBytes 2 ty ++ leBytes 2 (4 + l.length) ++ l

/-- A mailbox set up for a block and an index. -/
def mbxDev (n blk idx : Nat) (l : List Act) : State := tune ([setF F.MBX_SEL_BLOCK n blk, setF F.MBX_SEL_INDEX n idx] ++ l)

/-! ### Commands that cannot occur -/

/-- One ill-formed command for each check of WellFormed. -/
theorem test_illFormed_refused : ∀ c ∈ ([
    .registerWrite .pf0 true 0x4000000 0, .stagedFieldApply .pktAisle 16, .stagedFieldApply .gatePort 512,
    .frameSfdCapture 0 0 [] 0, .frameSfdCapture 0 0 (List.replicate 60 0) 5242880,
    .pfcFrameReceive 0 0xFF (List.replicate 7 1), .pfcFrameReceive 0 0xFF (List.replicate 8 65536), .schedulerSelect 0 0 5242880,
    .bufferFree 0 0 8388608 0 true, .eyeSweep 0 [(1, 1), (2, 2)], .siteChainScan ⟨[], []⟩, .assayUnitRead 0 (2 ^ 225) 0,
    .microwordExecute (.hewer 0 0) (2 ^ 214), .regRead (.smbus 0x20 65536), .regRead (.window .pf0 true 0x4000000),
    .regWrite ⟨0x21, 256⟩ 0 0 none, .regWrite ⟨0x21, 6⟩ 65536 0 none, .ppsInEdge 5242880,
    .exitSequenceStart [(2 ^ 28, 0)], .nvmHoldClear .zs 0 [(2 ^ 28, 0)], .dmaDescriptorExecute 0 (List.replicate 31 0) none,
    .write 0 (List.replicate 15 0), .fill 0 (List.replicate 17 0), .read 0 [], .ldgInsert 0 [], .ldgDelete 0 [], .lpmInsert 0 [],
    .lpmDelete 0 [], .pselWrite 0 [], .ruleWrite 0 [], .ruleClear 0 [], .ruleMove 0 [], .padlock 0 [], .nop 0 [],
    .thermalConversion (List.replicate 47 0), .hostPacketMoverDone 0 [(List.replicate 31 0, [])],
    .hostPacketMoverDone 0 [(List.replicate 32 0, List.replicate 10237 0)]] : List Instr),
    c.wf = false := by decide +kernel

/-- The same commands with operands at the ends of their ranges. -/
theorem test_wellFormed_accepted : ∀ c ∈ ([
    .registerWrite .pf0 true 0x3FFFFFF 0, .stagedFieldApply .pktAisle 15, .frameSfdCapture 0 0 (List.replicate 60 0) 5242879,
    .pfcFrameReceive 0 0xFF (List.replicate 8 65535), .bufferFree 0 0 8388607 0 true, .eyeSweep 0 [(1, 1), (2, 2), (3, 3)],
    .regRead (.smbus 0x20 65535), .regRead (.window .pf0 true 0x3FFFFFF), .regWrite ⟨0x21, 255⟩ 65535 0 none, .dmaDescriptorExecute 0 (List.replicate 32 0) none, .nop 0 (List.replicate 16 0),
    .thermalConversion (List.replicate 48 0), .hostPacketMoverDone 0 [(List.replicate 32 0, List.replicate 10236 0)]] : List Instr),
    c.wf = true := by decide +kernel

/-! ### The spec's worked examples -/

/-- The addresses of the example after R302. -/
theorem test_event_addresses : regAddr .EVT_STATUS 45 = 0x1000B4 ∧ regAddr .EVT_ENABLE 45 = 0x1001B4 ∧ regAddr .EVT_ROUTE 45 = 0x1002B4 ∧
    regAddr .AISLE_MC_EVT_CAUSE 9 = 0x1A4200C ∧ findReg 0x1A4200C = some (.AISLE_MC_EVT_CAUSE, 9) := by decide +kernel

/-- The device of that example: source 1,471 is enabled for PF0 vector 12 and for Zolliwin. -/
def evtDev : State :=
  tune [setReg .EVT_ENABLE 45 0x80000000, setReg .EVT_Z_ENABLE 45 0x80000000, setReg .EVT_ROUTE 45 0x1000C, setF F.EVT_CFG_HOLDOFF_US 0 0,
    .upd (.msi (msiKey 0 12) { masked := false })]

/-- Its steps 1 to 4. -/
theorem test_event_example : let t := run (raise F.AISLE_MC_EVT_CAUSE_MC_PARITY 9) evtDev
    t.raw .EVT_STATUS 45 = 0x80000000 ∧ t.raw .EVT_Z_STATUS 45 = 0x80000000 ∧ t.occOf 1471 = 1 ∧ .msi 0 12 ∈ t.out ∧
      t.raw .AISLE_MC_EVT_CAUSE 9 = 1 ∧ t.readWord .pf0 .EVT_SUMMARY1 0 = 0x2000 := by decide +kernel

/-- The late start after R219: ARM at 1,000 s 3,601,200 ns of a list that starts at 1,000 s with a cycle of 250,000 ns. -/
theorem test_late_start : lateStart 1000000000000 250000 (1000003601200 * 65536) = (1000003750000, true) := by decide +kernel

/-- The projection after R429: 12,200 h by term 2, a guard band of 10 ps and a target of 740 mV. -/
theorem test_projection :
    (leastTerm [term (2803200 - 550850) 6850 720, term (8000 - 7390) 36 720, none, none]).map (fun x => (x.1.1 / x.1.2, x.2)) = some (12200, 2) ∧
      guardPs 10 135 117 720 24 = 10 ∧ coreGoal 700 7390 false = 740 := by decide +kernel

/-- PC0 chained to PC1, as in the example of PERF (block base 0x0300_0900 is aisle 9's). -/
theorem test_chain : regAddr .PERF_CTL 9 = 0x3000900 ∧
    let t := run (perfOverflow 9 0 189113258583463) (tune [setReg .PERF_CTL 9 0x80000000, setReg .PC_CFG 72 0x80000002,
      modPerf 9 fun P => { P with pc := [(0, 281474976710655)] }])
    (t.pcOf 9 0).toNat = 189113258583462 ∧ (t.pcOf 9 1).toNat = 1 := by decide +kernel

/-- The counters of the example after R410 read 0x0002_0105. -/
theorem test_svn_reads :
    (tune [.upd (.burn { dev.otp with svnFw := 3, svnPatch := 1, svnImage := 31 })]).readWord .pf0 .SEC_SVN 0 = 0x20105 := by decide +kernel

/-- Basket 12,345 and crate 12,345 (R175). -/
theorem test_handles : poolOf 0x3039 = 0 ∧ poolOf 0x203039 = 1 ∧ 0x203039 % 2 ^ 21 = 12345 := by decide +kernel

/-! ### States and operands that meet the hypotheses of the statements -/

theorem witness_EpochsAreRequestedAndApplied :
    (∃ (s : State) (r : Req) (v : Word), s.takes r .SYS_EPOCH_REQ 0 = true ∧ v.getLsbD 31 = true) ∧
    (∃ (s : State), s.halted = false) ∧
    (∃ (s : State) (u : Fin 88), s.halted = false ∧ s.windowOpen u = true ∧ s.aged s.mode.epochAt 20000 = true) ∧
    (∃ (s : State), s.aged s.mode.epochAt 20000 = false) ∧
    (∃ (s : State), s.halted = false ∧ s.epochPending = true ∧ s.allApplied = true ∧ s.mode.epochMode.getD 0 < 8) ∧
    (∃ (s : State), ((s.epochPending = false ∨ s.allApplied = false))) :=
  ⟨⟨dev, .pf0, 0x80000000#32, by decide +kernel⟩,
    ⟨run (epochReq .zs 0x80000000#32) dev, by decide +kernel⟩,
    ⟨late (run (epochReq .zs 0x80000000#32) dev), 64, by decide +kernel⟩,
    ⟨run (epochReq .zs 0x80000000#32) dev, by decide +kernel⟩,
    ⟨allIn (run (epochReq .zs 0x80000000#32) dev), by decide +kernel⟩,
    ⟨dev, by decide +kernel⟩⟩

theorem witness_ModesAreRequested :
    (∃ (s : State) (r : Req) (v : Word), s.takes r .SYS_MODE_REQ 0 = true ∧ v.getLsbD 31 = true) ∧
    (∃ (s : State) (r : Req) (v : Word), s.takes r .SYS_MODE_REQ 0 = true ∧ v.getLsbD 31 = true ∧
      s.requestFault (bits v 0 3) (bits v 4 2) ≠ 0) ∧
    (∃ (s : State) (tgt : Nat) (cause : Nat), s.halted = false ∧ s.epochPending = false ∧ s.autoDue = some (tgt, cause)) :=
  ⟨⟨dev, .pf0, 0x80000005#32, by decide +kernel⟩,
    ⟨dev, .pf0, 0x80000002#32, by decide +kernel⟩,
    ⟨inMode modeLean [], 3, 2, by decide +kernel⟩⟩

theorem witness_SetupEndsAndTestsRun :
    (∃ (s : State), s.halted = false ∧ s.opMode = modeSetup ∧ s.epochPending = false ∧ s.mode.setup = 2 ∧ s.dma.zDone = true ∧
      s.carved = true ∧ s.zRingIdle = true) ∧
    (∃ (s : State) (r : Req) (v : Word), s.takes r .SYS_PROVE_CTL 0 = true ∧ v.getLsbD 31 = true) ∧
    (∃ (s : State) (k : Fin 6), s.halted = false ∧ s.bit F.SYS_PROVE_STATUS_BUSY 0 = true ∧ s.proveNext = some (k : Nat) ∧
      (((k : Nat) = proveBuffer → s.allFree = true)) ∧ s.aged (s.proveFrom k) (proveNs k) = true) ∧
    (∃ (s : State) (k : Fin 6), s.aged (s.proveFrom k) (proveNs k) = false) :=
  ⟨⟨{ inMode modeSetup [modMode fun m => { m with setup := 2 }, modDma fun d => { d with zDone := true }, setB F.SWC_STATUS_CARVED 0 true] with pending := [] },
      by decide +kernel⟩,
    ⟨inMode modeProving [], .zs, 0x80000021#32, by decide +kernel⟩,
    ⟨inMode modeProving [modMode fun m => { m with proveSel := 0x21 }, setB F.SYS_PROVE_STATUS_BUSY 0 true], 0, by decide +kernel⟩,
    ⟨inMode modeProving [modMode fun m => { m with proveSel := 1, proveAt := 1000000000000 }, setB F.SYS_PROVE_STATUS_BUSY 0 true], 0,
      by decide +kernel⟩⟩

theorem witness_ResetsClearTheDevice :
    (∃ (s : State), s.nvm.prog = none) ∧
    (∃ (s : State), s.nvm.prog ≠ none) ∧
    (∃ (s : State) (r : Req) (v : Word), s.takes r .SYS_SWRESET 0 = true ∧ bits v 16 16 = 0xC1EA ∧ s.nvm.prog = none) ∧
    (∃ (s : State) (r : Req) (v : Word), s.takes r .SYS_SWRESET 0 = true ∧ bits v 16 16 = 0xC1EA ∧ s.nvm.prog ≠ none) ∧
    (∃ (s : State), s.bit F.CLK_STATUS_ROOT_LOCK 0 = true ∧ s.nvm.prog ≠ none) ∧
    (∃ (s : State) (r : Req) (v : Word), s.takes r .SYS_SWRESET 0 = true ∧ bits v 16 16 ≠ 0xC1EA) ∧
    (∃ (s : State), s.bit F.CLK_STATUS_ROOT_LOCK 0 = true ∧ s.nvm.prog = none) ∧
    (∃ (s : State), s.zolOn = true ∧ s.opMode = modeSetup ∧ s.mode.setup = 3) :=
  ⟨⟨tune [modPort 3 fun P => { P with anFails := 2 }], by decide +kernel⟩,
    ⟨tune [modNvm fun N => { N with prog := some (4096, [0#8]) }], by decide +kernel⟩,
    ⟨tune [], .pf0, 0xC1EA0000#32, by decide +kernel⟩,
    ⟨tune [modNvm fun N => { N with prog := some (4096, [0#8]) }], .pf0, 0xC1EA0000#32, by decide +kernel⟩,
    ⟨tune [modNvm fun N => { N with prog := some (4096, [0#8]) }], by decide +kernel⟩,
    ⟨tune [], .pf0, 0xC1EB0000#32, by decide +kernel⟩,
    ⟨tune [setReg .CLK_RST_CAUSE 0 3], by decide +kernel⟩,
    ⟨inMode modeSetup [modMode fun m => { m with setup := 3 }, setReg .NVM_BOOT 0 1], by decide +kernel⟩⟩

theorem witness_TheDeviceLeavesReset :
    (∃ (s : State), s.clk.srcs.contains srcResetN = true) ∧
    (∃ (s : State), s.clk.srcs ≠ [] ∧ ((∀ n ∈ s.clk.srcs, n = srcPor ∨ n = srcSw ∨ n = srcReleased ∨ n = srcTripOff))) ∧
    (∃ (s : State), s.clk.srcs = [] ∧ (s.clk.step = 2 ∨ s.clk.step = 3)) ∧
    (∃ (s : State), s.clk.srcs = [] ∧ s.clk.step = 7) :=
  ⟨⟨{ State.reset with clk := { State.reset.clk with srcs := [0, 1] } }, by decide +kernel⟩,
    ⟨{ State.reset with clk := { State.reset.clk with srcs := [0, 5] } }, by decide +kernel⟩,
    ⟨{ State.reset with clk := { State.reset.clk with srcs := [], step := 2 } }, by decide +kernel⟩,
    ⟨{ State.reset with clk := { State.reset.clk with srcs := [], step := 7 } }, by decide +kernel⟩⟩

theorem witness_PageProgramsAndTheNvmBus :
    (∃ (s : State) (g : Nat) (l : List Byte) (q : List (Nat × List Byte)), s.nvm.queue = (g, l) :: q ∧ s.nvm.prog = none ∧
      s.bit F.NVM_CTL_HOLD 0 = false ∧ s.nvmMay = true) ∧
    (∃ (s : State) (a : Nat) (l : List Byte), s.nvm.prog = some (a, l) ∧ s.clk.waitNvm = [] ∧ s.clk.nvmSoft = false) ∧
    (∃ (s : State) (a : Nat) (l : List Byte), s.nvm.prog = some (a, l) ∧ s.clk.waitNvm ≠ []) ∧
    (∃ (s : State), ((s.nvm.prog ≠ none ∨ s.bit F.NVM_CTL_HOLD 0 = true ∨ s.nvmMay = false))) ∧
    (∃ (s : State), s.nvm.prog ≠ none ∧ ((s.clk.waitNvm ≠ [] ∨ s.clk.nvmSoft = true)) ∧ s.aged s.clk.waitAt 5000000 = true) ∧
    (∃ (s : State) (r : Req) (v : Word), s.takes r .NVM_CTL 0 = true ∧ v.getLsbD 0 = true) ∧
    (∃ (s : State) (r : Req) (v : Word), s.takes r .NVM_CTL 0 = true ∧ v.getLsbD 0 = false ∧
      ((isPf0 (s.asReq r) = true → s.hostOwns = true))) :=
  ⟨⟨tune [modNvm fun N => { N with queue := [(0, [1#8])] }], 0, [1#8], [], by decide +kernel⟩,
    ⟨tune [modNvm fun N => { N with prog := some (4096, [1#8, 2#8]) }], 4096, [1#8, 2#8], by decide +kernel⟩,
    ⟨tune [modNvm fun N => { N with prog := some (4096, [1#8, 2#8]) }, modClk fun c => { c with waitNvm := [1] }], 4096, [1#8, 2#8],
      by decide +kernel⟩,
    ⟨tune [modNvm fun N => { N with prog := some (4096, [1#8, 2#8]) }], by decide +kernel⟩,
    ⟨tune [modNvm fun N => { N with prog := some (4096, [1#8, 2#8]) }, modClk fun c => { c with waitNvm := [1] }], by decide +kernel⟩,
    ⟨tune [], .pf0, 1#32, by decide +kernel⟩,
    ⟨tune [setB F.NVM_CTL_HOLD 0 true, setB F.NVM_STATUS_HOLD_ACTIVE 0 true], .z, 0#32, by decide +kernel⟩⟩

theorem witness_PllsLinksAndTheWatchdog :
    (∃ (s : State), s.bit F.CLK_STATUS_TIME_LOCK 0 = true) ∧
    (∃ (s : State), s.bit F.CLK_STATUS_CLK_BACKUP 0 = true) ∧
    (∃ (s : State), s.clk.pcieUp = true) ∧
    (∃ (s : State), s.clk.step = 11) ∧
    (∃ (s : State), s.clk.step = 11 ∧ s.clk.opts.pcieLanes ≠ 0) ∧
    (∃ (s : State), s.halted = false ∧ s.clk.pcieUp = true ∧ s.clk.perst = false ∧ s.bit F.CLK_STATUS_PCIE_LOCK 0 = true) ∧
    (∃ (s : State) (r : Req), s.takesSec r .CLK_WDT_KICK 0 = true) ∧
    (∃ (s : State), s.bit F.CLK_WDT_CFG_WDT_EN 0 = true ∧ s.clk.zolRun ≠ 0) :=
  ⟨⟨tune [], by decide +kernel⟩,
    ⟨tune [setB F.CLK_STATUS_CLK_BACKUP 0 true], by decide +kernel⟩,
    ⟨tune [], by decide +kernel⟩,
    ⟨tune [setF F.SYS_OWNER_STATE 0 1], by decide +kernel⟩,
    ⟨tune [modClk fun c => { c with perst := true, pcieUp := false, opts := { c.opts with pcieLanes := 8 } }], by decide +kernel⟩,
    ⟨tune [modDma fun d => { d with lockH := 3 }], by decide +kernel⟩,
    ⟨tune [], .zs, by decide +kernel⟩,
    ⟨tune [setB F.CLK_WDT_CFG_WDT_EN 0 true, modClk fun c => { c with wdtMs := 100, wdtAt := 1000000000000 }], by decide +kernel⟩⟩

theorem witness_SoftResetsRun :
    (∃ (s : State) (r : Req) (w : Fin 2), s.takes r (if (w : Nat) = 0 then .CLK_SOFT_RST0 else .CLK_SOFT_RST1) 0 = true) ∧
    (∃ (s : State) (r : Req), s.takes r .CLK_SOFT_RST2 0 = true) ∧
    (∃ (s : State) (u : Fin 91), s.halted = false ∧ s.clk.soft.contains (u : Nat) = true ∧ s.exitReady u = true) ∧
    (∃ (s : State) (u : Fin 91), s.exitReady u = false) :=
  ⟨⟨tune [], .zs, 1, by decide +kernel⟩,
    ⟨inMode modeDrain [], .zs, by decide +kernel⟩,
    ⟨tune [modClk fun c => { c with soft := [64, 3] }, setReg .CLK_SOFT_RST2 0 1#32], 64, by decide +kernel⟩,
    ⟨tune [modAisle 3 fun A => { A with hewers := [(0, { run := true })] }, modClk fun c => { c with soft := [67] }, setReg .CLK_SOFT_RST2 0 8#32],
      67, by decide +kernel⟩⟩

theorem witness_FramesAreCapturedAndEnd :
    (∃ (s : State) (p : Fin 512) (data : List Byte), s.starts p = true ∧ s.isUp p = true ∧ (s.port p).arriving = none ∧
      data.length ≤ 10236 ∧ data.length + 4 ≤ s.fifoRoom p) ∧
    (∃ (s : State) (p : Fin 512) (data : List Byte), s.starts p = true ∧ s.isUp p = true ∧ (s.port p).arriving = none ∧
      s.fifoRoom p < data.length + 4) ∧
    (∃ (s : State) (p : Fin 512) (f : Frame), (s.port p).arriving = some f ∧ f.lastIn = false ∧ 64 ≤ f.size ∧ f.size ≤ 10240) ∧
    (∃ (s : State) (p : Fin 512) (f : Frame) (ok : Bool), (s.port p).arriving = some f ∧
      ((ok = false ∨ f.lastIn = true ∨ f.size < 64 ∨ 10240 < f.size))) :=
  ⟨⟨upDev [], 8, fr1, by decide +kernel⟩,
    ⟨upDev [modPort 8 fun P => { P with fifo := List.replicate 79 { frm1 with data := List.replicate 9951 0#8 } }], 8, fr1,
      by decide +kernel⟩,
    ⟨upDev [modPort 8 fun P => { P with arriving := some frm1, fifo := [frm1] }], 8, frm1, by decide +kernel⟩,
    ⟨upDev [modPort 8 fun P => { P with arriving := some frm1, fifo := [frm1] }], 8, frm1, false, by decide +kernel⟩⟩

theorem witness_AislesAdmitAndPolicersRefill :
    (∃ (s : State) (a : Fin 16) (p : Fin 512) (f : Frame) (r : List Frame) (h : Nat), s.halted = false ∧ aisleCan s a p f r h) ∧
    (∃ (s : State) (a : Fin 16) (p : Fin 512) (f : Frame) (r : List Frame) (h : Nat) (e : LEntry), s.halted = false ∧
      aisleCan s a p f r h ∧ macDecides s a p f e ∧ e.fwd.discard = true) ∧
    (∃ (s : State) (a : Fin 16) (p : Fin 512) (f : Frame) (r : List Frame) (h : Nat) (e : LEntry), s.halted = false ∧
      aisleCan s a p f r h ∧ macDecides s a p f e ∧ e.fwd.discard = false ∧ e.fwd.loc = false ∧ e.fwd.kind = 0 ∧
      s.isUp (e.fwd.value % 512) = true ∧ s.hold (e.fwd.value % 512) ≠ holdFlushing) ∧
    (∃ (s : State) (a : Fin 16) (p : Fin 512),
      (((s.port p).fifo = [] ∨ aisleOf p ≠ a ∨ (s.aisle a).fenced = true ∨ s.clk.soft.contains (unitAisle a) = true ∨ s.aisleWaits a = true ∨ s.freeHewer a = none))) ∧
    (∃ (s : State) (q : Fin 4) (i : Nat), s.halted = false ∧ ((s.qtr q).pol.map (·.1)).Nodup ∧ i ∈ (s.qtr q).pol.map (·.1)) :=
  ⟨⟨upDev [modPort 8 fun P => { P with fifo := [frm1] }, modAisle 0 fun A => { A with mc := { A.mc with running := true } }], 0, 8,
      frm1, [], 0, by decide +kernel⟩,
    ⟨admDev (2 ^ 37) [], 0, 8, frm1, [], 0, ((admDev (2 ^ 37) []).ledger 0 1 (macKey 0 0x0200000000BB)).getD {}, by decide +kernel⟩,
    ⟨admDev (16) [setF F.PORT_STATE_LINK 16 linkUp], 0, 8, frm1, [], 0,
      ((admDev (16) []).ledger 0 1 (macKey 0 0x0200000000BB)).getD {}, by decide +kernel⟩,
    ⟨upDev [], 0, 8, by decide +kernel⟩,
    ⟨upDev [modQtr 0 fun Q => { Q with pol := [(4, {}), (9, {})] }], 0, 9, by decide +kernel⟩⟩

theorem witness_TilesAreRebuiltAndAssayed :
    (∃ (s : State) (r : Req) (a : Fin 16) (k : Fin 4) (v : Word), s.takes r .AISLE_REBUILD_CTL (chanN a k) = true ∧
      v.getLsbD 31 = true ∧ s.rbState a k ≠ rbIdle) ∧
    (∃ (s : State) (r : Req) (a : Fin 16) (k : Fin 4) (v : Word), s.takes r .AISLE_REBUILD_CTL (chanN a k) = true ∧
      v.getLsbD 31 = true ∧ ((∀ j, j < 4 → s.rbState a j = rbIdle)) ∧ s.opMode ≠ modeSealed) ∧
    (∃ (s : State) (a : Fin 16) (k : Fin 4), s.halted = false ∧ s.wf = true ∧ s.rbState a k = rbCopy ∧
      (s.rebuildC (chanN a k)).rule = true) ∧
    (∃ (s : State) (r : Req) (a : Fin 16) (k : Fin 4) (v : Word), s.takes r .AISLE_REBUILD_CTL (chanN a k) = true ∧
      v.getLsbD 31 = true ∧ s.opMode = modeSealed) ∧
    (∃ (s : State) (a : Fin 16) (k : Fin 4), s.halted = false ∧ s.wf = true ∧ s.rbState a k = rbCopy ∧
      (s.rebuildC (chanN a k)).rule = false ∧ s.used a (s.rebuildC (chanN a k)).target = 0 ∧ (s.rebuildC (chanN a k)).target < 100 ∧
      ((∀ e ∈ s.tileEntries a (s.rebuildC (chanN a k)).target, e.2.valid = false))) ∧
    (∃ (s : State) (a : Fin 16) (k : Fin 4), s.halted = false ∧ s.rbState a k = rbSwitch) ∧
    (∃ (s : State) (a : Fin 16) (k : Fin 4), s.halted = false ∧ s.rbState a k = rbClear ∧ (s.rebuildC (chanN a k)).okDone = true) ∧
    (∃ (s : State) (a : Fin 16), s.bit F.AISLE_SRCH_CFG_ASSAY_EN a = true ∧ s.mode.started = true ∧ s.zolOn = true ∧
      s.clk.soft.contains (unitAisle a) = false) :=
  ⟨⟨tune [modRebuild (chanN 3 1) fun R => R, setF F.AISLE_REBUILD_STATUS_STATE (chanN 3 1) 1], .zs, 3, 1, 0x80000000#32,
      by decide +kernel⟩,
    ⟨tune [], .zs, 3, 1, 0x80000000#32, by decide +kernel⟩,
    ⟨tune [setF F.AISLE_REBUILD_STATUS_STATE (chanN 3 1) 1, modRebuild (chanN 3 1) fun R => { R with rule := true, slot := 5, target := 98 }, .upd (.tile (tkey 3 69 7) { valid := true, value := 3#320, care := 7#320, result := 9#64 })],
      3, 1, by decide +kernel⟩,
    ⟨inMode modeSealed [], .zs, 3, 1, 0x80000000#32, by decide +kernel⟩,
    ⟨tune [setF F.AISLE_REBUILD_STATUS_STATE (chanN 3 1) 1, modRebuild (chanN 3 1) (fun R => { R with slot := 0, target := 98, lmin := 0, lmax := 32 }), .upd (.tile (tkey 3 (dev.lpmTile 3 0) 0) { valid := true, care := BitVec.ofNat 320 (2 ^ 38 - 1), value := 3#320 })],
      3, 1, by decide +kernel⟩,
    ⟨tune [setF F.AISLE_REBUILD_STATUS_STATE (chanN 3 1) 2, modRebuild (chanN 3 1) fun R => { R with rule := true, slot := 5, target := 98 }],
      3, 1, by decide +kernel⟩,
    ⟨tune [setF F.AISLE_REBUILD_STATUS_STATE (chanN 3 1) 3, modRebuild (chanN 3 1) fun R => { R with rule := true, slot := 5, target := 98, old := 69, okDone := true }],
      3, 1, by decide +kernel⟩,
    ⟨tune [setB F.AISLE_SRCH_CFG_ASSAY_EN 2 true, setB F.AISLE_SRCH_CFG_REPAIR_EN 2 true, modAisle 2 fun A => { A with sweepPos := 70 * 2048 }],
      2, by decide +kernel⟩⟩

theorem witness_PortNegotiatesTrainsAndAligns :
    (∃ (s : State) (p : Fin 512) (ab : List (Nat × Nat × Nat)), s.link p = linkAn ∧ (s.port p).anWait = false ∧ s.canAdvance p = true ∧
      ab.contains (s.ability p) = true) ∧
    (∃ (s : State) (p : Fin 512) (ab : List (Nat × Nat × Nat)), s.link p = linkAn ∧ (s.port p).anWait = false ∧ s.canAdvance p = true ∧
      ab.contains (s.ability p) = false) ∧
    (∃ (s : State) (p : Fin 512), s.link p = linkAn ∧ (s.port p).anWait = false) ∧
    (∃ (s : State) (p : Fin 512), s.link p = linkAn ∧ (s.port p).anWait = true ∧ s.aged (s.port p).anAt 100000000 = true) ∧
    (∃ (s : State) (p : Fin 512), (s.port p).anWait = false) ∧
    (∃ (s : State) (p : Fin 512), s.link p = linkTrain ∧ s.canAdvance p = true) ∧
    (∃ (s : State) (p : Fin 512), s.link p = linkTrain) ∧
    (∃ (s : State) (p : Fin 512), s.link p = linkAlign ∧ s.aged (s.port p).alignAt 100000000 = true) ∧
    (∃ (s : State) (p : Fin 512), s.link p = linkAlign ∧ s.canAdvance p = true ∧
      s.aged (s.port p).alignAt (s.fld F.PORT_CFG_LINKUP_QUAL p * 100000) = true) :=
  ⟨⟨upDev [setF F.PORT_STATE_LINK 8 linkAn], 8, [(0, 0, 0), (upDev []).ability 8], by decide +kernel⟩,
    ⟨upDev [setF F.PORT_STATE_LINK 8 linkAn], 8, [], by decide +kernel⟩,
    ⟨upDev [setF F.PORT_STATE_LINK 8 linkAn], 8, by decide +kernel⟩,
    ⟨upDev [setF F.PORT_STATE_LINK 8 linkAn, modPort 8 fun P => { P with anWait := true }], 8, by decide +kernel⟩,
    ⟨upDev [setF F.PORT_STATE_LINK 8 linkAn], 8, by decide +kernel⟩,
    ⟨upDev [setF F.PORT_STATE_LINK 8 linkTrain], 8, by decide +kernel⟩,
    ⟨upDev [setF F.PORT_STATE_LINK 8 linkTrain], 8, by decide +kernel⟩,
    ⟨upDev [setF F.PORT_STATE_LINK 8 linkAlign], 8, by decide +kernel⟩,
    ⟨upDev [setF F.PORT_STATE_LINK 8 linkAlign, setF F.PORT_STATE_HOLD 8 holdHeld], 8, by decide +kernel⟩⟩

theorem witness_PortLeavesUpAndItsHoldEnds :
    (∃ (s : State) (p : Fin 512) (c : Fin 16), s.isUp p = true ∧ [2, 3, 4, 5, 11].contains (c : Nat) = true) ∧
    (∃ (s : State) (p : Fin 512), s.hold p = holdHeld ∧ s.aged (s.port p).holdAt (s.port p).holdNs = true) ∧
    (∃ (s : State) (p : Fin 512), s.halted = false ∧ s.hold p = holdFlushing ∧ s.queuesEmpty p = true) ∧
    (∃ (s : State) (p : Fin 512), s.queuesEmpty p = false) ∧
    (∃ (s : State) (p : Fin 512) (q : Fin 9) (d : Desc) (r : List Desc), s.halted = false ∧ s.hold p = holdFlushing ∧
      (tabGet (s.port p).queues {} q).d = d :: r) ∧
    (∃ (s : State) (p : Fin 512), s.hold p ≠ holdFlushing) :=
  ⟨⟨upDev [], 8, 2, by decide +kernel⟩,
    ⟨upDev [setF F.PORT_STATE_HOLD 8 holdHeld], 8, by decide +kernel⟩,
    ⟨upDev [setF F.PORT_STATE_HOLD 8 holdFlushing], 8, by decide +kernel⟩,
    ⟨upDev [setF F.PORT_STATE_HOLD 8 holdHeld, modPort 8 fun P => { P with queues := [(0, { d := [{ handle := 3 }] })] }], 8,
      by decide +kernel⟩,
    ⟨upDev [setF F.PORT_STATE_HOLD 8 holdFlushing, modPort 8 fun P => { P with queues := [(0, { d := [{ handle := 3, final := true }, { handle := 4 }] })] }, modBuf 3 fun B => { B with st := 2, sharers := 1, frame := frm1 }],
      8, 0, { handle := 3, final := true }, [{ handle := 4 }], by decide +kernel⟩,
    ⟨upDev [], 8, by decide +kernel⟩⟩

theorem witness_PortConfigurationWritesAct :
    (∃ (s : State) (r : Req) (st : Fin 64), s.takes r .STALL_CFG st = true ∧
      ((s.portsOf st).any fun p => s.rawFld F.PORT_CFG_ADMIN_EN p != 0 || s.hold p != holdNone) = false) ∧
    (∃ (s : State) (r : Req) (st : Fin 64), s.takes r .STALL_CFG st = true ∧
      ((s.portsOf st).any fun p => s.rawFld F.PORT_CFG_ADMIN_EN p != 0 || s.hold p != holdNone) = true) ∧
    (∃ (s : State) (r : Req) (p : Fin 512) (v : Word), s.takes r .PORT_CFG p = true ∧ s.starts p = true ∧ v.getLsbD 0 = true ∧
      s.link p = linkDisabled) ∧
    (∃ (s : State) (r : Req) (p : Fin 512) (v : Word), s.takes r .PORT_CFG p = true ∧ s.starts p = true ∧ v.getLsbD 0 = false) ∧
    (∃ (s : State) (r : Req) (p : Fin 512) (v : Word), s.takes r .PORT_CTL p = true ∧ v.getLsbD 0 = true ∧ s.link p ≠ linkDisabled) ∧
    (∃ (s : State) (r : Req) (p : Fin 512) (v : Word), s.takes r .PORT_CTL p = true ∧ v.getLsbD 0 = true ∧ s.link p = linkDisabled) :=
  ⟨⟨tune [], .pf0, 1, by decide +kernel⟩,
    ⟨tune [setB F.PORT_CFG_ADMIN_EN 8 true], .pf0, 1, by decide +kernel⟩,
    ⟨tune [], .pf0, 8, 1#32, by decide +kernel⟩,
    ⟨upDev [], .pf0, 8, 0#32, by decide +kernel⟩,
    ⟨upDev [], .pf0, 8, 1#32, by decide +kernel⟩,
    ⟨tune [], .pf0, 8, 1#32, by decide +kernel⟩⟩

theorem witness_ReceivedPausesAndRefreshes :
    (∃ (s : State) (p : Fin 512), s.isUp p = true) ∧
    (∃ (s : State) (p : Fin 512), s.isUp p = true) ∧
    (∃ (s : State) (p : Fin 512) (i : Fin 8), ((s.time.running = false ∨ tabGet (s.port p).pauseTill 0 i ≤ s.runNs))) ∧
    (∃ (s : State) (p : Fin 512) (i : Fin 8), s.time.running = true ∧ s.runNs < tabGet (s.port p).pauseTill 0 i) ∧
    (∃ (s : State) (p : Fin 512) (i : Fin 8), s.isUp p = true ∧ (s.port p).txPfc.getLsbD i = true ∧
      s.aged (tabGet (s.port p).pfcSent 0 i) (s.quantaNs p pfcTime / 2) = true) :=
  ⟨⟨upDev [setF F.PORT_CFG_PFC_EN 8 0xF0, modPort 8 fun P => { P with rxPause := 0x40#8 }], 8, by decide +kernel⟩,
    ⟨upDev [], 8, by decide +kernel⟩,
    ⟨upDev [modPort 8 fun P => { P with rxPause := 0x41#8 }], 8, 6, by decide +kernel⟩,
    ⟨upDev [modPort 8 fun P => { P with rxPause := 0x41#8, pauseTill := [(6, 10 ^ 18)] }], 8, 6, by decide +kernel⟩,
    ⟨upDev [modPort 8 (fun P => { P with txPfc := 0x08#8 }), modTime fun t => { t with running := false }], 8, 3, by decide +kernel⟩⟩

theorem witness_LanesAndTransmitPlls :
    (∃ (s : State) (r : Req) (l : Fin 512) (v : Word), s.takes r .LANE_CTL l = true ∧ v.getLsbD 0 = true ∧ s.canRetune l = true) ∧
    (∃ (s : State) (r : Req) (l : Fin 512) (v : Word), s.takes r .LANE_CTL l = true ∧ v.getLsbD 0 = true ∧ s.canRetune l = false) ∧
    (∃ (s : State) (l : Fin 512), s.bit F.LANE_EQ_STATUS_RETUNING l = true) ∧
    (∃ (s : State) (l : Fin 512), s.isUp (s.portOfLane l) = true) ∧
    (∃ (s : State) (st : Fin 64), s.halted = false ∧ s.aged (s.stall st).bwAt ((s.stall st).bwWin * 1000) = true) ∧
    (∃ (s : State) (st : Fin 64), s.aged (s.stall st).bwAt ((s.stall st).bwWin * 1000) = false) ∧
    (∃ (s : State) (st : Fin 64), s.bit F.STALL_STATUS_TXPLL_LOCK st = true) ∧
    (∃ (s : State), s.released = true) ∧
    (∃ (s : State), s.released = false) :=
  ⟨⟨upDev [], .pf0, 9, 1#32, by decide +kernel⟩,
    ⟨tune [], .pf0, 9, 1#32, by decide +kernel⟩,
    ⟨upDev [setB F.LANE_EQ_STATUS_RETUNING 9 true], 9, by decide +kernel⟩,
    ⟨upDev [], 9, by decide +kernel⟩,
    ⟨upDev [modPort 8 fun P => { P with bwRx := 6500, bwTx := 640 }], 1, by decide +kernel⟩,
    ⟨upDev [modStall 1 fun S => { S with bwAt := 1000000000000, bwWin := 5 }], 1, by decide +kernel⟩,
    ⟨upDev [], 1, by decide +kernel⟩,
    ⟨upDev [setB F.STALL_STATUS_TXPLL_LOCK 1 false], by decide +kernel⟩,
    ⟨{ tune [] with clk := { dev.clk with step := 2 } }, by decide +kernel⟩⟩

theorem witness_ModuleSitesComeUpAndFail :
    (∃ (s : State) (st : Fin 64), s.site st = siteReset ∧ 2 ≤ (s.stall st).rstScans) ∧
    (∃ (s : State) (st : Fin 64), s.site st = siteInit) ∧
    (∃ (s : State) (st : Fin 64), s.site st = siteReady) ∧
    (∃ (s : State) (st : Fin 64), s.site st = siteDatapath) ∧
    (∃ (s : State) (st : Fin 64), s.site st ≠ siteEmpty ∧ s.site st ≠ siteFaulted) ∧
    (∃ (s : State) (st : Fin 64), s.site st = siteFaulted ∧ (s.stall st).retryOn = true ∧ s.aged (s.stall st).faultAt 1000000000 = true) ∧
    (∃ (s : State), s.halted = false ∧ s.mode.started = true) :=
  ⟨⟨tune [setF F.STALL_STATUS_SITE_STATE 1 siteReset, modStall 1 fun S => { S with rstScans := 2 }], 1, by decide +kernel⟩,
    ⟨tune [setF F.STALL_STATUS_SITE_STATE 1 siteInit], 1, by decide +kernel⟩,
    ⟨tune [setF F.STALL_STATUS_SITE_STATE 1 siteReady, setB F.PORT_CFG_MODULE 8 true, setF F.PORT_CFG_APPSEL 8 3], 1, by decide +kernel⟩,
    ⟨tune [setF F.STALL_STATUS_SITE_STATE 1 siteDatapath], 1, by decide +kernel⟩,
    ⟨tune [setF F.STALL_STATUS_SITE_STATE 1 siteActive, modStall 1 fun S => { S with retries := 2 }], 1, by decide +kernel⟩,
    ⟨tune [setF F.STALL_STATUS_SITE_STATE 1 siteFaulted, modStall 1 fun S => { S with retries := 1, retryOn := true }], 1,
      by decide +kernel⟩,
    ⟨tune [modStall 0 fun S => { S with lowScans := 2 }], by decide +kernel⟩⟩

theorem witness_DeviceTimeAdvancesAndSteps :
    (∃ (s : State), s.time.running = true) ∧
    (∃ (s : State) (st : Fin 64), (s.stall st).distMiss = 2) ∧
    (∃ (s : State) (d : Int), s.time.stepWait = some d ∧ s.epochPending = false ∧ s.time.running = true ∧ s.servoOn = true ∧
      s.servo = svAcquiring) ∧
    (∃ (s : State), s.epochPending = true) :=
  ⟨⟨dev, by decide +kernel⟩,
    ⟨tune [modStall 5 fun S => { S with distMiss := 2 }, setB F.TIME_STATUS_DIST_OK 0 true], 5, by decide +kernel⟩,
    ⟨tune [setF F.TIME_SERVO_STATUS_STATE 0 svAcquiring, modTime fun t => { t with stepWait := some (-3), acc := 2 ^ 50 }], (-3),
      by decide +kernel⟩,
    ⟨run (epochReq .zs 0x80000000#32) dev, by decide +kernel⟩⟩

theorem witness_CalibrationsAndLinkDelays :
    (∃ (s : State) (p : Fin 512) (k : Fin 10), s.isUp p = true ∧ (k : Nat) ≠ 0 ∧ (k : Nat) ≠ 6 ∧
      (((k : Nat) ≠ 5 ∨ s.tempMoved p = true))) ∧
    (∃ (s : State) (p : Fin 512), s.isUp p = true ∧ 0 < s.fld F.TIME_CAL_CFG_CAL_PERIOD_S 0 ∧
      s.aged (s.port p).calW (s.fld F.TIME_CAL_CFG_CAL_PERIOD_S 0 * 10 ^ 9) = true ∧
      ((s.time.calMs ≠ s.nowNs / 1000000 ∨ s.time.calCnt < 8))) ∧
    (∃ (s : State) (r : Req) (p : Fin 512) (v : Word), s.takes r .TIME_PORT_CTL p = true ∧ v.getLsbD 0 = true) ∧
    (∃ (s : State) (p : Fin 512), (s.port p).calDue = true ∧ s.isUp p = true) ∧
    (∃ (s : State) (r : Req) (p : Fin 512) (v : Word), s.takes r .TIME_PORT_CTL p = true ∧ v.getLsbD 1 = true) ∧
    (∃ (s : State) (p : Fin 512), s.isUp p = true ∧ s.peRuns = true ∧ (s.port p).probing = true ∧
      (((s.port p).pdAt = 0 ∨ s.aged (s.port p).pdAt 10000000 = true))) ∧
    (∃ (s : State) (p : Fin 512), s.isUp p = true ∧ s.peRuns = true ∧ s.bit F.TIME_PORT_CFG_PROBE_EN p = true ∧
      (s.port p).probing = false ∧ s.aged (s.port p).pdAt (s.fld F.TIME_CAL_CFG_LINKDLY_S 0 * 10 ^ 9) = true) ∧
    (∃ (s : State) (p : Fin 512) (d : Int) (mk : Bool), (s.port p).probeOut = true ∧ (s.port p).pdRes = some (d, mk)) ∧
    (∃ (s : State) (p : Fin 512), (s.port p).probing = true ∧ s.aged (s.port p).probeAt 1000000000 = true) :=
  ⟨⟨upDev [], 8, 9, by decide +kernel⟩,
    ⟨upDev [setF F.TIME_CAL_CFG_CAL_PERIOD_S 0 60], 8, by decide +kernel⟩,
    ⟨upDev [], .pf0, 8, 1#32, by decide +kernel⟩,
    ⟨upDev [modPort 8 fun P => { P with calDue := true }], 8, by decide +kernel⟩,
    ⟨upDev [], .pf0, 8, 2#32, by decide +kernel⟩,
    ⟨upDev [modPe fun E => { E with mc := { E.mc with running := true } }, modPort 8 fun P => { P with probing := true }], 8,
      by decide +kernel⟩,
    ⟨upDev [modPe fun E => { E with mc := { E.mc with running := true } }, setB F.TIME_PORT_CFG_PROBE_EN 8 true], 8, by decide +kernel⟩,
    ⟨upDev [modPort 8 fun P => { P with probeOut := true, pdRes := some (77, false) }], 8, 77, false, by decide +kernel⟩,
    ⟨upDev [modPort 8 fun P => { P with probing := true }], 8, by decide +kernel⟩⟩

theorem witness_ServoFollowsItsSourceAndForce :
    (∃ (s : State) (b : Bmca) (p : Fin 512) (r : Foreign), s.servoOn = true ∧ b.parent = some p ∧ s.fld F.TIME_PORT_PTP_ROLE p = 1 ∧
      s.isUp p = true ∧ (s.port p).foreign.find? (fun x => x.portId == b.parentId) = some r ∧ s.bestMaster r = true) ∧
    (∃ (s : State) (b : Bmca), s.servoOn = true ∧ s.bmcaPick b = none) ∧
    (∃ (s : State), s.servoOn = true) ∧
    (∃ (s : State) (t1 : Nat) (t2 : Nat) (cs : Int) (asym : Int) (ep : BitVec 16) (q : List Sample), s.servoOn = true ∧ s.timeRef = 1 ∧
      s.parentSlave = true ∧ s.time.smpQ = .sync t1 t2 cs asym true ep :: q) ∧
    (∃ (s : State) (t1 : Nat) (t2 : Nat) (cs : Int) (asym : Int) (ep : BitVec 16) (q : List Sample), s.servoOn = true ∧ s.timeRef = 1 ∧
      s.parentSlave = true ∧ s.time.smpQ = .sync t1 t2 cs asym false ep :: q ∧ s.beforeStep ep = false) ∧
    (∃ (s : State) (t1 : Nat) (t2 : Nat) (t3 : Nat) (t4 : Nat) (cs : Int) (cd : Int) (ep : BitVec 16) (e2 : BitVec 16) (q : List Sample),
      s.servoOn = true ∧ s.timeRef = 1 ∧ s.parentSlave = true ∧ s.time.smpQ = .delay t3 t4 cd false ep :: q ∧ s.beforeStep ep = false ∧
      s.time.lastSync = some (t1, t2, cs, e2) ∧ s.beforeStep e2 = false ∧ 0 ≤ ((t2 : Int) - t1 - cs) + ((t4 : Int) - t3 - cd)) ∧
    (∃ (s : State), s.sourceLate = true) ∧
    (∃ (s : State), s.sourceLate = false) ∧
    (∃ (s : State), s.servoOn = true ∧ s.servo = svHoldover ∧
      s.aged s.time.hoLimAt (s.fld F.TIME_SERVO_CFG2_HO_LIMIT_S 0 * 10 ^ 9) = true) ∧
    (∃ (s : State) (r : Req) (v : Word), s.takes r .TIME_SERVO_CTL 0 = true ∧ bits v 0 2 = 2 ∧ s.servoOn = true) ∧
    (∃ (s : State) (r : Req) (v : Word), s.takes r .TIME_SERVO_CTL 0 = true ∧ bits v 0 2 = 1 ∧ s.servoOn = true ∧ s.histExists = true) ∧
    (∃ (s : State) (r : Req) (v : Word), s.takes r .TIME_SERVO_CTL 0 = true ∧ bits v 0 2 = 1 ∧ s.histExists = false) ∧
    (∃ (s : State) (r : Req) (v : Word), s.takes r .TIME_SERVO_CTL 0 = true ∧ ((bits v 0 2 = 0 ∨ bits v 0 2 = 3)) ∧ s.servoOn = true ∧
      s.srcPresent = true ∧ [svFreerun, svHoldover, svHoldoverLong].contains s.servo = true) :=
  ⟨⟨ptpDev [modPort 8 fun P => { P with foreign := [rec1] }], bmca1 (some 8), 8, rec1, by decide +kernel⟩,
    ⟨ptpDev [], bmca1 none, by decide +kernel⟩,
    ⟨ptpDev [modPort 8 fun P => { P with foreign := [rec1, { rec1 with portId := 4 }] }], by decide +kernel⟩,
    ⟨ptpDev [modTime fun t => { t with smpQ := [.sync 100 200 3 2 true 0] }], 100, 200, 3, 2, 0, [], by decide +kernel⟩,
    ⟨ptpDev [modTime fun t => { t with smpQ := [.sync 100 200 3 2 false 0] }], 100, 200, 3, 2, 0, [], by decide +kernel⟩,
    ⟨ptpDev [modTime fun t => { t with lastSync := some (100, 300, 3, 0), smpQ := [.delay 400 550 4 false 0] }], 100, 300, 400, 550, 3,
      4, 0, 0, [], by decide +kernel⟩,
    ⟨ptpDev [setF F.TIME_SERVO_STATUS_STATE 0 svLocked], by decide +kernel⟩,
    ⟨ptpDev [modTime fun t => { t with smpAt := 1000000000000 }], by decide +kernel⟩,
    ⟨ptpDev [setF F.TIME_SERVO_STATUS_STATE 0 svHoldover], by decide +kernel⟩,
    ⟨ptpDev [setF F.TIME_SERVO_STATUS_STATE 0 svLocked], .pf0, 2#32, by decide +kernel⟩,
    ⟨ptpDev [modTime fun t => { t with histOk := true }], .pf0, 1#32, by decide +kernel⟩,
    ⟨ptpDev [], .pf0, 1#32, by decide +kernel⟩,
    ⟨ptpDev [modTime (fun t => { t with lost := false }), setF F.TIME_SERVO_STATUS_STATE 0 svHoldoverLong], .pf0, 0#32,
      by decide +kernel⟩⟩

theorem witness_FrequencyInputsAndSelection :
    (∃ (s : State) (i : Fin 4),
      (((i : Nat) = 0 ∨ ((i : Nat) = 1 ∧ s.time.ppsOk = true) ∨ (2 ≤ (i : Nat) ∧ s.isUp (s.recPort ((i : Nat) + 1)) = true))) ∧
      s.aged (tabGet s.time.inAt 0 i) (s.qualNs i) = true) ∧
    (∃ (s : State) (i : Fin 4), s.aged (tabGet s.time.inAt 0 i) (s.qualNs i) = false) ∧
    (∃ (s : State), s.dpllChoice ≠ s.dpllSel) ∧
    (∃ (s : State), s.dpll = dpLocking ∧ s.aged s.time.dpllAt (10 * 10 ^ 9) = true) ∧
    (∃ (s : State) (p : Fin 512), s.bit F.TIME_PORT_PTP_ESMC_EN p = true ∧ s.bit F.TIME_PORT_PTP_STATUS_ESMC_TO p = false ∧
      s.aged (s.port p).esmcAt (5 * 10 ^ 9) = true) :=
  ⟨⟨tune [], 0, by decide +kernel⟩,
    ⟨tune [modTime fun t => { t with inAt := [(0, 1000000000000)] }], 0, by decide +kernel⟩,
    ⟨tune [setF F.TIME_DPLL_STATUS_QUAL 0 1], by decide +kernel⟩,
    ⟨tune [setF F.TIME_DPLL_STATUS_STATE 0 dpLocking], by decide +kernel⟩,
    ⟨upDev [setB F.TIME_PORT_PTP_ESMC_EN 8 true], 8, by decide +kernel⟩⟩

theorem witness_PulsesAndTimeOfDay :
    (∃ (s : State), s.time.ppsOk = true ∧ s.aged s.time.ppsAt 1100000000 = true) ∧
    (∃ (s : State) (l : List Byte), s.bit F.TIME_OUT_CFG_TOD_RX_EN 0 = true ∧ todParse l = none) ∧
    (∃ (s : State) (l : List Byte) (e : Nat) (x : Tod), s.bit F.TIME_OUT_CFG_TOD_RX_EN 0 = true ∧ s.time.ppsEdge = some e ∧
      todParse l = some x ∧ 655360000000 ≤ s.now16 - e ∧ s.now16 - e ≤ 58982400000000 ∧ x.valid ≠ 0 ∧
      (x.flags.testBit 3 || x.flags.testBit 4) = true) ∧
    (∃ (s : State), s.time.running = true ∧ s.edgeNear = true ∧ s.time.edgeS ≠ some s.edgeSec ∧
      ((s.fld F.TIME_OUT_CFG_PPS_MODE 0 = 1 ∨ (2 ≤ s.fld F.TIME_OUT_CFG_PPS_MODE 0 ∧ (s.servo = svLocked ∨ s.servo = svHoldover))))) ∧
    (∃ (s : State) (sec : Nat), s.time.lastEdgeS = some sec ∧ s.bit F.TIME_OUT_CFG_TOD_TX_EN 0 = true ∧
      s.aged s.time.edgeAt (s.fld F.TIME_OUT_CFG_TOD_DELAY_MS 0 * 1000000) = true) :=
  ⟨⟨tune [modTime fun t => { t with ppsOk := true }, setF F.TIME_DPLL_STATUS_QUAL 0 2], by decide +kernel⟩,
    ⟨tune [setB F.TIME_OUT_CFG_TOD_RX_EN 0 true], [1#8, 2#8], by decide +kernel⟩,
    ⟨tune [setB F.TIME_OUT_CFG_TOD_RX_EN 0 true, modTime fun t => { t with ppsEdge := some 0, acc := 655360000000 * 2 ^ 32 }, modClk fun c => { c with opts := { c.opts with timeRef := 2 } }],
      tod1, 0, (todParse tod1).getD ⟨0, 0, 0, 0, 0, 0⟩, by decide +kernel⟩,
    ⟨tune [setF F.TIME_OUT_CFG_PPS_MODE 0 1], by decide +kernel⟩,
    ⟨tune [setB F.TIME_OUT_CFG_TOD_TX_EN 0 true, modTime fun t => { t with lastEdgeS := some 9 }], 9, by decide +kernel⟩⟩

theorem witness_TalliesAreIssuedAndSigned :
    (∃ (s : State), s.bit F.TIME_TALLY_CFG_TALLY_EN 0 = true ∧ s.time.running = true ∧ s.zolOn = true ∧ s.secUp = true ∧
      s.edgeNear = true ∧ ((s.time.tallyReq = some s.edgeSec ∨ s.edgeSec % s.fld F.TIME_TALLY_CFG_PERIOD_S 0 = 0)) ∧
      s.time.tallyS ≠ some s.edgeSec) ∧
    (∃ (s : State) (c : Nat) (body : List Byte) (rest : List (Nat × List Byte)), s.halted = false ∧ s.time.tallyQ = (c, body) :: rest ∧
      s.clk.soft.contains unitSec = false) :=
  ⟨⟨tune [setB F.TIME_TALLY_CFG_TALLY_EN 0 true, setB F.SEC_STATUS_ENTROPY_OK 0 true, modSec fun c => { c with akOk := true }, modTime fun t => { t with tallyReq := some 0 }],
      by decide +kernel⟩,
    ⟨tune [modTime fun t => { t with tallyQ := [(3, List.replicate 60 1#8)] }], 3, List.replicate 60 1#8, [], by decide +kernel⟩⟩

theorem witness_BuffersAreCarvedGrantedAndFreed :
    (∃ (s : State) (r : Req) (v : Word), s.takes r .SWC_CTL 0 = true ∧ v.getLsbD 0 = true ∧
      ((s.opMode = modeSetup ∨ s.opMode = modeProving)) ∧ s.allFree = true ∧ s.carveBad = false) ∧
    (∃ (s : State) (r : Req) (v : Word), s.takes r .SWC_CTL 0 = true ∧ v.getLsbD 0 = true ∧
      (¬ ((s.opMode = modeSetup ∨ s.opMode = modeProving) ∧ s.allFree = true))) ∧
    (∃ (s : State) (r : Req) (v : Word), s.takes r .SWC_CTL 0 = true ∧ v.getLsbD 0 = true ∧
      ((s.opMode = modeSetup ∨ s.opMode = modeProving)) ∧ s.allFree = true ∧ s.carveBad = true) ∧
    (∃ (s : State) (r : AllocReq) (k : Packet) (j : Nat), s.halted = false ∧ s.carved = true ∧ s.clk.soft.contains unitSwc = false ∧
      s.swc.waits = [r] ∧ s.packet r.fid = some k ∧ ((k.frame.lastIn = false ∨ k.frame.fcsOk = true)) ∧ k.toPe = none ∧
      (List.range 4).find? (fun j => decide (k.pool ≤ j) && !s.poolEmpty r.aisle.isSome j) = some j ∧
      k.dests.length + (if r.aisle.isSome then 4096 else 0) ≤ s.fld F.SWC_DESC_FREE_FREE 0 ∧
      ((r.aisle.isSome = true → s.xoff k.frame.port k.prio = false ∧ (poolSize j : Int) ≤ s.sharedFree))) ∧
    (∃ (s : State) (p : Fin 512) (h : Nat), s.halted = false ∧ (s.port p).tx = none ∧ (s.buf h).st ≠ 0 ∧
      ((1 < (s.buf h).sharers ∨ (s.buf h).st = 1 ∧ (s.buf h).sharers = 1))) ∧
    (∃ (s : State) (p : Fin 512) (q : Fin 10) (h : Nat), s.halted = false ∧ (s.port p).tx = none ∧ (s.buf h).st = 1 ∧
      (s.buf h).sharers = 0 ∧ (s.buf h).ownPort = p ∧ (s.buf h).ownQ = q) ∧
    (∃ (s : State) (p : Fin 512) (q : Fin 10) (h : Nat), s.halted = false ∧ (s.port p).tx = none ∧ (s.buf h).st = 1 ∧
      0 < (s.buf h).sharers ∧ (s.buf h).ownPort = p ∧ (s.buf h).ownQ = q) ∧
    (∃ (s : State) (p : Fin 512) (h : Nat), s.halted = false ∧ (s.port p).tx = none ∧ (s.buf h).st = 2 ∧ (s.buf h).sharers = 1) ∧
    (∃ (s : State) (p : Fin 512) (q : Fin 10) (h : Nat) (g : BitVec 4) (f : Bool), s.halted = false ∧ (s.port p).tx = none ∧
      (((s.buf h).st = 0 ∨ (s.buf h).gen ≠ g ∨ (f = false ∧ (s.buf h).sharers = 0) ∨ (f = true ∧ ((s.buf h).ownPort ≠ p ∨ (s.buf h).ownQ ≠ q ∨ (s.buf h).st = 2))))) ∧
    (∃ (s : State) (p : Fin 512) (q : Fin 10) (x : Tx), s.halted = false ∧ (s.port p).tx = some x ∧ x.q = q ∧
      (s.buf x.desc.handle).frame.lastIn = true) :=
  ⟨⟨inMode modeSetup [], .zs, 1#32, by decide +kernel⟩,
    ⟨tune [], .zs, 1#32, by decide +kernel⟩,
    ⟨inMode modeSetup [setReg .SWC_POOL_CFG 0 0, setReg .SWC_POOL_CFG 1 0, setReg .SWC_POOL_CFG 2 0, setReg .SWC_POOL_CFG 3 0], .zs,
      1#32, by decide +kernel⟩,
    ⟨carvedDev [modPkts fun _ => [pk1], modSwc fun w => { w with waits := [{ fid := 7, aisle := some 0 }] }],
      { fid := 7, aisle := some 0 }, pk1, 0, by decide +kernel⟩,
    ⟨carvedDev [modBuf 3 fun B => { B with st := 2, sharers := 3, gen := 5 }], 16, 3, by decide +kernel⟩,
    ⟨carvedDev [modBuf 3 fun B => { B with st := 1, sharers := 0, gen := 5, ownPort := 16, ownQ := 3, frame := frm1 }], 16, 3, 3,
      by decide +kernel⟩,
    ⟨carvedDev [modBuf 3 fun B => { B with st := 1, sharers := 2, gen := 5, ownPort := 16, ownQ := 3, frame := frm1 }], 16, 3, 3,
      by decide +kernel⟩,
    ⟨carvedDev [modBuf 3 fun B => { B with st := 2, sharers := 1, gen := 5, ownPort := 16, ownQ := 3, frame := frm1 }], 17, 3,
      by decide +kernel⟩,
    ⟨carvedDev [], 16, 9, 3, 2, true, by decide +kernel⟩,
    ⟨carvedDev [setF F.PORT_STATE_LINK 16 linkUp, modPort 16 (fun P => { P with tx := some { q := 3, desc := { handle := 3, gen := 5 } } }), modBuf 3 fun B => { B with st := 2, sharers := 3, gen := 5, frame := { frm1 with lastIn := true } }],
      16, 3, { q := 3, desc := { handle := 3, gen := 5 } }, by decide +kernel⟩⟩

theorem witness_ThresholdsAndDepthsArePublished :
    (∃ (s : State), s.halted = false ∧ s.carved = true ∧ s.clk.soft.contains unitSwc = false) ∧
    (∃ (s : State), s.halted = false ∧ ((∀ e ∈ s.ports, ∀ x ∈ e.2.queues, x.1 < 9))) :=
  ⟨⟨carvedDev [modPort 8 fun P => { P with usedSh := [(2, 2000000000)] }], by decide +kernel⟩,
    ⟨carvedDev [modPort 8 fun P => { P with queues := [(2, { d := [{ handle := 3 }] })] }, modBuf 3 fun B => { B with st := 1, len := 77, frame := frm1 }],
      by decide +kernel⟩⟩

theorem witness_SchedulerStartsAFrame :
    (∃ (s : State) (p : Fin 512) (sub : Nat) (q : Nat) (mp : Bool) (d : Desc) (r : List Desc), (s.port p).tx = none ∧
      s.starts p = true ∧ s.halted = false ∧ s.clk.soft.contains unitSch = false ∧
      (s.select p (s.stallTime sub) (s.refilled p (s.coreNow sub))).1 = some (q, mp) ∧
      (tabGet (s.select p (s.stallTime sub) (s.refilled p (s.coreNow sub))).2.queues {} q).d = d :: r) ∧
    (∃ (s : State) (p : Fin 512) (sub : Nat), (s.port p).tx = none ∧ s.starts p = true ∧ s.halted = false ∧
      s.clk.soft.contains unitSch = false ∧ (s.select p (s.stallTime sub) (s.refilled p (s.coreNow sub))).1 = none) ∧
    (∃ (s : State) (p : Fin 512), s.halted = false ∧ s.starts p = true ∧ s.bit F.SCH_PORT_CFG_QT_CLEAR_EN p = true ∧
      s.ptpDue p = true ∧ (s.port p).qtClosed = false ∧ ((s.time.running = false ∨ s.visitNs p ≤ s.fld F.SCH_PORT_CFG_QT_LEAD_NS p))) ∧
    (∃ (s : State) (p : Fin 512) (w : Nat), s.halted = false ∧ (s.port p).qtClosed = true ∧ s.qtWaits p = false ∧
      (s.port p).qtAt = some w ∧ s.aged w 640 = true) ∧
    (∃ (s : State) (p : Fin 512), (s.port p).qtAt = none) ∧
    (∃ (s : State) (p : Fin 512) (w : Nat), s.halted = false ∧ s.starts p = true ∧ s.sampInstant p = some w ∧ (s.port p).sampT ≠ some w) ∧
    (∃ (s : State) (p : Fin 512), ((s.sampInstant p = none ∨ s.sampInstant p = (s.port p).sampT))) ∧
    (∃ (s : State) (r : Req) (p : Fin 512), s.takes r .SCH_SAMP_CTL p = true ∧ s.starts p = true) :=
  ⟨⟨carvedDev [modTime (fun t => { t with acc := 2 ^ 80 }), setF F.PORT_STATE_LINK 8 linkUp, modPort 8 (fun P => { P with queues := [(2, { d := [{ handle := 3, final := true }] })] }), modBuf 3 fun B => { B with st := 2, len := 60, ownPort := 8, ownQ := 2, frame := { frm1 with lastIn := true, fcsOk := true } }],
      8, 9, 2, false, { handle := 3, final := true }, [], by decide +kernel⟩,
    ⟨carvedDev [], 8, 9, by decide +kernel⟩,
    ⟨upDev [setB F.SCH_PORT_CFG_QT_CLEAR_EN 8 true, setF F.SCH_PORT_CFG_QT_LEAD_NS 8 4000, modPort 8 fun P => { P with work := [(wtPtpTx, 1, 0)] }],
      8, by decide +kernel⟩,
    ⟨upDev [modPort 8 fun P => { P with qtClosed := true, qtAt := some 7 }], 8, 7, by decide +kernel⟩,
    ⟨upDev [modPort 8 fun P => { P with qtClosed := true }], 8, by decide +kernel⟩,
    ⟨carvedDev [setF F.SCH_SAMP_CFG_SAMP_US 8 10, modTime (fun t => { t with acc := 12340005 * 2 ^ 48 }), modPort 8 (fun P => { P with queues := [(2, { d := [{ handle := 3 }] })] }), modBuf 3 fun B => { B with st := 1, len := 77, frame := frm1 }],
      8, 12340000, by decide +kernel⟩,
    ⟨upDev [modTime fun t => { t with acc := 12345678 * 2 ^ 48 }], 8, by decide +kernel⟩,
    ⟨upDev [modPort 8 fun P => { P with queues := [(2, { samp := { dLast := 5, dMin := 4, dMax := 6, count := 2 } })] }], .pf0, 8,
      by decide +kernel⟩⟩

theorem witness_HoursListsArmSwitchAndStop :
    (∃ (s : State) (r : Req) (p : Fin 512) (v : Word), s.takes r .SCH_HL_CTL p = true ∧ s.starts p = true ∧ v.getLsbD 0 = true) ∧
    (∃ (s : State) (r : Req) (p : Fin 512) (v : Word), s.takes r .SCH_HL_CTL p = true ∧ s.starts p = true ∧ v.getLsbD 1 = true) ∧
    (∃ (s : State) (r : Req) (p : Fin 512) (v : Word), s.takes r .SCH_HL_CTL p = true ∧ s.starts p = true ∧ v.getLsbD 2 = true) ∧
    (∃ (s : State) (p : Fin 512), s.halted = false ∧ s.starts p = true ∧ s.bit F.SCH_HL_STATUS_ARMED p = true ∧
      (s.port p).armStart ≤ s.nowNs) ∧
    (∃ (s : State) (p : Fin 512), s.halted = false ∧ s.starts p = true) ∧
    (∃ (s : State) (r : Req) (p : Fin 512), s.takes r .SCH_HL_CTL p = true ∧ s.starts p = false) ∧
    (∃ (s : State) (p : Fin 512), s.halted = false ∧ s.starts p = false) :=
  ⟨⟨upDev [], .pf0, 8, 1#32, by decide +kernel⟩,
    ⟨upDev [setB F.SCH_HL_STATUS_ARMED 8 true], .pf0, 8, 2#32, by decide +kernel⟩,
    ⟨upDev [setB F.SCH_HL_STATUS_RUNNING 8 true], .pf0, 8, 4#32, by decide +kernel⟩,
    ⟨upDev [setB F.SCH_HL_STATUS_ARMED 8 true, modPort 8 fun P => { P with armCycle := 1000, armCount := 1 }], 8, by decide +kernel⟩,
    ⟨upDev [], 8, by decide +kernel⟩,
    ⟨dev, .pf0, 9, by decide +kernel⟩,
    ⟨dev, 9, by decide +kernel⟩⟩

theorem witness_CrierAndLedgerMaintenance :
    (∃ (s : State) (q : Fin 4) (n : Note) (r : List Note), s.halted = false ∧ (s.qtr q).fifo = n :: r ∧ (s.qtr q).flushWait = [] ∧
      s.clk.soft.contains (unitQtr q) = false ∧ s.opMode ≠ modeSealed) ∧
    (∃ (s : State) (k : Fin 4) (n : Note) (r : List Note), s.halted = false ∧ takeNote k s.pe.inNotes = some (n, r)) ∧
    (∃ (s : State) (m : Fin 5) (k : Fin 4) (n : Note) (r : List Note), s.halted = false ∧ (m : Nat) < 4 ∧
      takeNote k (s.qtr m).inNotes = some (n, r)) ∧
    (∃ (s : State) (m : Fin 5) (k : Fin 4) (n : Note) (r : List Note), s.halted = false ∧ (m : Nat) < 4 ∧
      takeNote k (s.qtr m).inNotes = some (n, r) ∧ n.typ = 3 ∧ s.opMode ≠ modeSealed) ∧
    (∃ (s : State) (r : Req) (q : Fin 4) (v : Word), s.takes r .QTR_REHASH_CTL q = true ∧ v.getLsbD 0 = true) ∧
    (∃ (s : State) (q : Fin 4), s.halted = false ∧ s.bit F.QTR_LDG_STATUS_MIGRATING q = true) ∧
    (∃ (s : State) (q : Fin 4) (k : Nat), s.halted = false ∧ s.learnMode = true ∧ 0 < s.fld F.QTR_AGE_CFG_PERIOD q ∧
      s.padlocked 12 = false ∧ s.clk.soft.contains (unitQtr q) = false ∧ (s.qtr q).agePos = 131072 + k ∧ k < 64 ∧
      (s.qtr q).ageWay = 0 ∧ ((s.copyOf q).at (stashBase + k)).dynMac = true ∧
      quarterOf (((s.copyOf q).at (stashBase + k)).value % 512) = q ∧ (s.qtr q).noRoom = false ∧ ageDueNow s q = true) ∧
    (∃ (s : State) (q : Fin 4), s.halted = false ∧ s.learnMode = true ∧ 0 < s.fld F.QTR_AGE_CFG_PERIOD q ∧ s.padlocked 12 = false ∧
      s.clk.soft.contains (unitQtr q) = false ∧ (s.qtr q).ageWay = 0 ∧
      ((∀ p ∈ sweepPlaces (s.qtr q).agePos, ((s.copyOf q).at p).dynMac = false ∨ quarterOf (((s.copyOf q).at p).value % 512) ≠ q)) ∧
      ageDueNow s q = true) ∧
    (∃ (s : State) (q : Fin 4), ageDueNow s q = false) ∧
    (∃ (s : State) (r : Req) (q : Fin 4) (v : Word), s.takes r .QTR_FLUSH q = true ∧ v.getLsbD 9 = true ∧
      ((quarterOf (bits v 0 9) ≠ q ∨ s.flushBusy q = true))) ∧
    (∃ (s : State) (r : Req) (q : Fin 4) (v : Word), s.takes r .QTR_FLUSH q = true ∧ v.getLsbD 9 = true ∧ quarterOf (bits v 0 9) = q ∧
      s.flushBusy q = false ∧ s.opMode ≠ modeSealed ∧ (s.qtr q).fifo.length < 256) ∧
    (∃ (s : State) (q : Fin 4), s.halted = false ∧ (s.qtr q).walking = none ∧ (s.qtr q).flushSet ≠ [] ∧ s.padlocked 12 = false ∧
      s.opMode ≠ modeSealed) ∧
    (∃ (s : State) (q : Fin 4) (ports : List Nat), s.halted = false ∧ (s.qtr q).walking = some ports ∧ s.padlocked 12 = false) ∧
    (∃ (s : State), s.halted = false) :=
  ⟨⟨tune [modQtr 1 fun Q => { Q with fifo := [note1], seqNext := 2047 }], 1, note1, [], by decide +kernel⟩,
    ⟨tune [modPe fun E => { E with inNotes := [note1] }], 1, note1, [], by decide +kernel⟩,
    ⟨tune [modQtr 0 fun Q => { Q with inNotes := [note1] }], 0, 1, note1, [], by decide +kernel⟩,
    ⟨tune [modQtr 0 fun Q => { Q with inNotes := [{ note1 with quarter := 2 }, note1] }], 0, 1, note1, [{ note1 with quarter := 2 }],
      by decide +kernel⟩,
    ⟨tune [setReg .QTR_LDG_SEED_NEXT_A 2 77#32], .pf0, 2, 1#32, by decide +kernel⟩,
    ⟨tune [setB F.QTR_LDG_STATUS_MIGRATING 2 true, modQtr 2 fun Q => { Q with migA := 5, migB := 6 }], 2, by decide +kernel⟩,
    ⟨agedDev 1, 0, 0, by decide +kernel⟩,
    ⟨tune [setF F.QTR_AGE_CFG_PERIOD 0 300], 0, by decide +kernel⟩,
    ⟨tune [setF F.QTR_AGE_CFG_PERIOD 0 300, modQtr 0 fun Q => { Q with ageDue := 10 ^ 30 }], 0, by decide +kernel⟩,
    ⟨tune [], .pf0, 1, BitVec.ofNat 32 (512 + 8), by decide +kernel⟩,
    ⟨tune [], .pf0, 0, BitVec.ofNat 32 (512 + 8), by decide +kernel⟩,
    ⟨tune [modQtr 0 fun Q => { Q with flushSet := [3] }], 0, by decide +kernel⟩,
    ⟨run (modQtr 0 fun Q => { Q with walking := some [8] }) (agedDev 5), 0, [8], by decide +kernel⟩,
    ⟨tune [modQtr 0 (fun Q => { Q with flow := [(1, { last := 5 }), (2, { last := 2000000000 })] }), modTime fun t => { t with acc := 2500000000 * 2 ^ 48 }],
      by decide +kernel⟩⟩

theorem witness_EnginesRunMicrowords :
    (∃ (s : State) (e : Eng), s.halted = false ∧ s.engineOn e = true ∧
      (s.store (engStore e)).bad.contains ((s.engine e).fetch (engPe e)).at_ = false ∧ (s.engine e).cycles < cycleLimit (engPe e) ∧
      ((s.engine e).fetch (engPe e)).entryBad false = false ∧ dispOk ((s.engine e).fetch (engPe e)) = true ∧
      badGroups ((s.store (engStore e)).word (engPe e) ((s.engine e).fetch (engPe e)).at_) = 0 ∧
      (s.engine e).stalls ((s.store (engStore e)).word (engPe e) ((s.engine e).fetch (engPe e)).at_) = false ∧
      (s.engine e).illegal (engPe e) ((s.store (engStore e)).word (engPe e) ((s.engine e).fetch (engPe e)).at_) = false ∧
      mw ((s.store (engStore e)).word (engPe e) ((s.engine e).fetch (engPe e)).at_) 188 4 = 0) ∧
    (∃ (s : State) (e : Eng), s.halted = false ∧ s.engineOn e = true ∧
      (s.store (engStore e)).bad.contains ((s.engine e).fetch (engPe e)).at_ = false ∧ (s.engine e).cycles < cycleLimit (engPe e) ∧
      ((s.engine e).fetch (engPe e)).entryBad false = false ∧ dispOk ((s.engine e).fetch (engPe e)) = true ∧
      badGroups ((s.store (engStore e)).word (engPe e) ((s.engine e).fetch (engPe e)).at_) = 0 ∧
      (s.engine e).stalls ((s.store (engStore e)).word (engPe e) ((s.engine e).fetch (engPe e)).at_) = true) ∧
    (∃ (s : State) (e : Eng) (up : Nat), s.halted = false ∧ s.engineOn e = true ∧
      (s.store (engStore e)).bad.contains ((s.engine e).fetch (engPe e)).at_ = false ∧ (s.engine e).cycles < cycleLimit (engPe e) ∧
      up.testBit 200 = false ∧ ((s.engine e).fetch (engPe e)).entryBad false = false ∧ dispOk ((s.engine e).fetch (engPe e)) = true ∧
      badGroups ((s.store (engStore e)).word (engPe e) ((s.engine e).fetch (engPe e)).at_ ^^^ BitVec.ofNat 200 up) ≠ 0) ∧
    (∃ (s : State) (e : Eng), s.halted = false ∧ s.engineOn e = true ∧
      (s.store (engStore e)).bad.contains ((s.engine e).fetch (engPe e)).at_ = true) ∧
    (∃ (s : State) (e : Eng), s.halted = false ∧ s.engineOn e = true ∧
      (s.store (engStore e)).bad.contains ((s.engine e).fetch (engPe e)).at_ = false ∧ (s.engine e).cycles < cycleLimit (engPe e) ∧
      ((s.engine e).fetch (engPe e)).entryBad false = false ∧ dispOk ((s.engine e).fetch (engPe e)) = false) ∧
    (∃ (s : State) (e : Eng), s.halted = false ∧ s.engineOn e = true ∧
      (s.store (engStore e)).bad.contains ((s.engine e).fetch (engPe e)).at_ = false ∧
      ((cycleLimit (engPe e) ≤ (s.engine e).cycles ∨ (((s.engine e).fetch (engPe e)).entryBad false = false ∧ dispOk ((s.engine e).fetch (engPe e)) = true ∧ badGroups ((s.store (engStore e)).word (engPe e) ((s.engine e).fetch (engPe e)).at_) = 0 ∧ (s.engine e).stalls ((s.store (engStore e)).word (engPe e) ((s.engine e).fetch (engPe e)).at_) = false ∧ (s.engine e).illegal (engPe e) ((s.store (engStore e)).word (engPe e) ((s.engine e).fetch (engPe e)).at_) = true)))) :=
  ⟨⟨microDev addWord id, hw0, by decide +kernel⟩,
    ⟨microDev (withParity (BitVec.ofNat 192 (1 * 2 ^ 44))) fun g => { g with call := some (1, 0, 9) }, hw0, by decide +kernel⟩,
    ⟨microDev addWord id, hw0, 1, by decide +kernel⟩,
    ⟨run (modAisle 0 fun A => { A with mc := { A.mc with bad := [0x1E00] } }) (microDev addWord id), hw0, by decide +kernel⟩,
    ⟨microDev addWord fun g => { g with disp := some 3, dispS := [(3, dispEntry (0x1E00#16))] }, hw0, by decide +kernel⟩,
    ⟨microDev addWord fun g => { g with cycles := 64 }, hw0, by decide +kernel⟩⟩

theorem witness_TableCallsAreMade :
    (∃ (s : State) (e : Eng) (sel : Nat) (i : Nat), s.halted = false ∧ (s.engine e).call = some (1, sel, i) ∧ (s.engine e).held = none) ∧
    (∃ (s : State) (e : Eng) (sel : Nat) (i : Nat), s.halted = false ∧ (s.engine e).call = some (2, sel, i) ∧ (s.engine e).held = none) ∧
    (∃ (s : State) (e : Eng) (sel : Nat) (i : Nat), s.halted = false ∧ (s.engine e).call = some (3, sel, i) ∧ (s.engine e).held = none) ∧
    (∃ (s : State) (e : Eng) (sel : Nat) (i : Nat), s.halted = false ∧ (s.engine e).call = some (4, sel, i) ∧ (s.engine e).held = none) ∧
    (∃ (s : State) (sel : Nat) (i : Nat), s.halted = false ∧ s.pe.eng.call = some (8, sel, i) ∧ s.pe.eng.held = none) ∧
    (∃ (s : State) (sel : Nat) (i : Nat), s.halted = false ∧ s.pe.eng.call = some (9, sel, i) ∧ s.pe.eng.held = none) ∧
    (∃ (s : State) (sel : Nat) (i : Nat), s.halted = false ∧ s.pe.eng.call = some (10, sel, i) ∧ s.pe.eng.held = none) ∧
    (∃ (s : State) (sel : Nat) (i : Nat), s.halted = false ∧ s.pe.eng.call = some (11, sel, i) ∧ s.pe.eng.held = none) ∧
    (∃ (s : State) (sel : Nat) (i : Nat), s.halted = false ∧ s.pe.eng.call = some (12, sel, i) ∧ s.pe.eng.held = none) ∧
    (∃ (s : State) (sel : Nat) (i : Nat), s.halted = false ∧ s.pe.eng.call = some (13, sel, i) ∧ s.pe.eng.held = none) ∧
    (∃ (s : State) (e : Eng) (l : List (BitVec 32)), s.halted = false ∧ (s.engine e).res = some l ∧ l ≠ []) :=
  ⟨⟨microDev addWord fun g => { g with call := some (1, 0, 9) }, hw0, 0, 9, by decide +kernel⟩,
    ⟨microDev addWord fun g => { g with call := some (2, 0, 9) }, hw0, 0, 9, by decide +kernel⟩,
    ⟨microDev addWord fun g => { g with call := some (3, 0, 9) }, hw0, 0, 9, by decide +kernel⟩,
    ⟨microDev addWord fun g => { g with call := some (4, 1, 9) }, hw0, 1, 9, by decide +kernel⟩,
    ⟨peDev fun g => { g with call := some (8, 0, 9) }, 0, 9, by decide +kernel⟩,
    ⟨peDev fun g => { g with call := some (9, 0, 9) }, 0, 9, by decide +kernel⟩,
    ⟨peDev fun g => { g with call := some (10, 0, 9) }, 0, 9, by decide +kernel⟩,
    ⟨peDev fun g => { g with call := some (11, 0, 9) }, 0, 9, by decide +kernel⟩,
    ⟨peDev fun g => { g with call := some (12, 0, 9) }, 0, 9, by decide +kernel⟩,
    ⟨peDev fun g => { g with call := some (13, 0, 9) }, 0, 9, by decide +kernel⟩,
    ⟨peDev fun g => { g with res := some [1#32, 2#32] }, .pe, [1#32, 2#32], by decide +kernel⟩⟩

theorem witness_RoutinesEndAndMachineChecksResume :
    (∃ (s : State) (sel : Nat) (i : Nat) (ws : List (BitVec 32)), s.halted = false ∧ s.pe.eng.run = true ∧ s.pe.eng.fin = 1 ∧
      s.pe.eng.call = none ∧ s.pe.eng.staged = [(9, sel, i, ws)]) ∧
    (∃ (s : State) (a : Fin 16) (h : Fin 32) (k : Packet), s.halted = false ∧ (s.engine (.hewer a h)).run = true ∧
      (s.engine (.hewer a h)).fin = 1 ∧ (s.engine (.hewer a h)).call = none ∧ (s.engine (.hewer a h)).staged = [] ∧
      s.packet (s.engine (.hewer a h)).fid = some k ∧ ((∀ x ∈ s.pkts, x.frame.fid = k.frame.fid → x.peWait = none))) ∧
    (∃ (s : State) (e : Eng), s.halted = false ∧ (((s.engine e).fin = 2 ∨ (s.engine e).fin = 3))) ∧
    (∃ (s : State) (r : Req) (k : Fin 17) (v : Word), s.takesSec r (mcCtl k).1 (mcCtl k).2 = true ∧ v.getLsbD 31 = true ∧
      (s.store k).bad.contains (bits v 0 13) = true) ∧
    (∃ (s : State) (r : Req) (k : Fin 17) (v : Word), s.takesSec r (mcCtl k).1 (mcCtl k).2 = true ∧ v.getLsbD 31 = true ∧
      (s.store k).bad.contains (bits v 0 13) = false) ∧
    (∃ (s : State) (r : Req) (k : Fin 17) (v : Word), s.takesSec r (mcCtl k).1 (mcCtl k).2 = true ∧ v.getLsbD 30 = true) ∧
    (∃ (s : State) (r : Req) (a : Fin 16) (v : Word), s.takesSec r .AISLE_MC_CTL a = true ∧ v.getLsbD 29 = true ∧
      (s.aisle a).fenced = false) ∧
    (∃ (s : State) (a : Fin 16), s.halted = false ∧ s.resumeLate a = true) ∧
    (∃ (s : State) (a : Fin 16), s.resumeLate a = false) ∧
    (∃ (s : State), s.resumeLate 16 = false) ∧
    (∃ (s : State), s.halted = false ∧ s.resumeLate 16 = true) :=
  ⟨⟨peDev fun g => { g with fin := 1, staged := [(9, 0, 5, [1#32, 2#32])] }, 0, 5, [1#32, 2#32], by decide +kernel⟩,
    ⟨run (modPkts fun _ => [{ frame := frm1, hewer := some 0 }]) (microDev addWord fun g => { g with fin := 1 }), 0, 0,
      { frame := frm1, hewer := some 0 }, by decide +kernel⟩,
    ⟨run (modPkts fun _ => [{ frame := frm1, hewer := some 0 }]) (microDev addWord fun g => { g with fin := 2 }), hw0,
      by decide +kernel⟩,
    ⟨run (modAisle 0 fun A => { A with mc := { A.mc with bad := [5] } }) (microDev addWord fun g => { g with held := some 5 }), .zs, 0,
      0x80000005#32, by decide +kernel⟩,
    ⟨dev, .zs, 3, 0x80000005#32, by decide +kernel⟩,
    ⟨tune [modAisle 3 fun A => { A with mc := { A.mc with caps := [{ kind := 1, hewer := 2, addr := 3, groups := 4 }] } }], .zs, 3,
      0x40000000#32, by decide +kernel⟩,
    ⟨upDev [], .zs, 0, 0x20000000#32, by decide +kernel⟩,
    ⟨upDev [modAisle 0 fun A => { A with mc := { A.mc with resumeTmr := true, bad := [5] } }], 0, by decide +kernel⟩,
    ⟨upDev [], 0, by decide +kernel⟩,
    ⟨tune [], by decide +kernel⟩,
    ⟨tune [modPe fun E => { E with mc := { E.mc with resumeTmr := true, bad := [5] } }], by decide +kernel⟩⟩

theorem witness_ProtocolEngineVisits :
    (∃ (s : State), s.peRuns = true ∧ s.pe.eng.held = none ∧ s.pe.eng.idle = true ∧ s.aged s.pe.posAt 320 = true) ∧
    (∃ (s : State) (w : Nat × Nat × Nat), s.peRuns = true ∧ s.pe.eng.held = none ∧ s.pe.eng.idle = true ∧
      s.aged s.pe.posAt 320 = true ∧ s.pe.romWork = none ∧ s.pe.romUp = none ∧ s.pe.pos % 33 ≠ 32 ∧ s.bfd = [] ∧
      (s.port (s.portOfLane (32 * (s.pe.pos / 33) + s.pe.pos % 33))).rxq = [] ∧
      ((s.port (s.portOfLane (32 * (s.pe.pos / 33) + s.pe.pos % 33))).work.find? fun w => w.1 == wtPortState) = some w ∧
      s.romRoutine wtPortState = true ∧ s.pe.msgq.length < 1024) ∧
    (∃ (s : State) (u : Nat), s.halted = false ∧ s.peRuns = true ∧ s.pe.eng.idle = true ∧ flipGroups u ≠ 0) ∧
    (∃ (s : State) (p : Fin 512) (ty : Fin 16) (i : Nat), s.halted = false ∧ s.isUp p = true ∧ 6 ≤ (ty : Nat) ∧ (ty : Nat) ≤ 9 ∧
      s.txTime p ty i = true) ∧
    (∃ (s : State) (p : Fin 512) (ty : Fin 16) (i : Nat), s.txTime p ty i = false) ∧
    (∃ (s : State) (p : Fin 512) (c : List Byte) (l : List Byte) (ttl : Nat), s.halted = false ∧ (s.port p).nbr = some (c, l, ttl) ∧
      s.aged (s.port p).nbrAt (ttl * 10 ^ 9) = true) ∧
    (∃ (s : State) (k : Fin 4096), s.halted = false ∧ 2 ≤ (s.bfdS k).state ∧
      s.aged (s.bfdS k).heardAt ((s.bfdS k).detectUs * 1000) = true) ∧
    (∃ (s : State) (q : Fin 16) (n : Nat) (io : List (List Byte × List Byte)), s.halted = false ∧
      (s.dma.mover.find? fun m => m.1 == (q : Nat) || m.1 == (q : Nat) + 32) = some ((q : Nat), n) ∧ s.hqOn q = true ∧ io.length ≤ n ∧
      (((q : Nat) < 8 ∨ io.length ≤ (s.d2hQ ((q : Nat) - 8)).length))) :=
  ⟨⟨tune [modPe fun E => { E with mc := { E.mc with running := true }, pos := 527 }], by decide +kernel⟩,
    ⟨upDev [modPe (fun E => { E with mc := { E.mc with running := true }, pos := 8 }), modPort 8 fun P => { P with work := [(wtPortState, 5, 0)] }],
      (wtPortState, 5, 0),
      by (repeat' apply And.intro) <;> first | decide +kernel | exact rom_plain _ _ (by decide +kernel) (by decide +kernel)⟩,
    ⟨tune [modPe fun E => { E with mc := { E.mc with running := true } }], 5 * 2 ^ 201 + 1, by decide +kernel⟩,
    ⟨upDev [modPe fun E => { E with timers := [(5, 9), (6, 2)] }, modTime fun t => { t with acc := 2 ^ 80 }], 8, 6, 5,
      by decide +kernel⟩,
    ⟨upDev [modPe fun E => { E with timers := [(5, 9), (6, 2)] }], 8, 6, 5, by decide +kernel⟩,
    ⟨upDev [modPort 8 fun P => { P with nbr := some ([1], [2], 120) }], 8, [1], [2], 120, by decide +kernel⟩,
    ⟨tune [modBfd 9 fun b => { b with state := 3 }], 9, by decide +kernel⟩,
    ⟨tune [modDma (fun d => { d with mover := [(2, 3)] }), setF F.SYS_OWNER_STATE 0 1, setB F.HQ_CFG_EN 2 true, setF F.HQ_CFG_LOG2_SIZE 2 4, setF F.HQ_HEAD_HEAD 2 15],
      2, 3, [([], [])], by decide +kernel⟩⟩

theorem witness_OtpFusesAreBurned :
    (∃ (s : State) (r : Req) (v : Word), s.takesSec r .SEC_OTP_CTL 0 = true ∧ v.getLsbD 31 = true) ∧
    (∃ (s : State), s.halted = false ∧ s.sec.otpOp = some (burnOwnerOp, 0)) ∧
    (∃ (s : State) (r : Req) (v : Word), s.takesSec r .SEC_SVN_CTL 0 = true ∧ v.getLsbD 31 = true) ∧
    (∃ (s : State) (kind : Nat) (n : Nat), s.halted = false ∧ s.sec.otpOp = some (burnSvnOp, kind * 128 + n) ∧ 1 ≤ kind ∧ kind ≤ 3 ∧
      n ≤ 64) ∧
    (∃ (s : State) (r : Req) (v : Word), s.takesSec r .SEC_OTP_CTL 0 = true ∧
      ((∀ n, n < 4 → v.getLsbD n = true → s.otp.revoked n = false)) ∧ bits v 0 4 ≠ 0) ∧
    (∃ (s : State) (m : Nat), s.halted = false ∧ s.sec.otpOp = some (burnRevokeOp, m)) ∧
    (∃ (s : State) (r : Req), s.takesSec r .SEC_LOCK 0 = true) :=
  ⟨⟨tune [modNvm (fun N => { N with slot := 0 })], .zs, 0x80000000#32, by decide +kernel⟩,
    ⟨tune [modSec fun c => { c with otpOp := some (burnOwnerOp, 0), ownerHash := 7 }], by decide +kernel⟩,
    ⟨tune [modSec fun c => { c with fwSvn := 5 }], .zs, 0x81000005#32, by decide +kernel⟩,
    ⟨tune [modSec fun c => { c with otpOp := some (burnSvnOp, 1 * 128 + 64) }], 1, 64, by decide +kernel⟩,
    ⟨tune [modNvm (fun N => { N with slot := 0 }), setF F.SEC_STATUS_KEY_ID 0 1], .zs, 5#32, by decide +kernel⟩,
    ⟨tune [modSec fun c => { c with otpOp := some (burnRevokeOp, 9) }], 9, by decide +kernel⟩,
    ⟨dev, .zs, by decide +kernel⟩⟩

theorem witness_SpdmIdentifiesAndAttests :
    (∃ (s : State) (tr : Transport) (msg : List Byte), s.halted = false ∧ asks s tr rqVersion msg) ∧
    (∃ (s : State) (tr : Transport) (msg : List Byte), s.halted = false ∧ asks s tr rqCapabilities msg ∧ leAt msg 0 1 = 0x13 ∧
      s.spdmVer tr = 1) ∧
    (∃ (s : State) (tr : Transport) (msg : List Byte), s.halted = false ∧ asks s tr rqAlgorithms msg ∧ leAt msg 0 1 = 0x13 ∧
      s.spdmVer tr = 2) ∧
    (∃ (s : State) (tr : Transport) (msg : List Byte), s.halted = false ∧ asks s tr rqDigests msg ∧ leAt msg 0 1 = 0x13 ∧
      3 ≤ s.spdmVer tr) ∧
    (∃ (s : State) (tr : Transport) (msg : List Byte), s.halted = false ∧ asks s tr rqCertificate msg ∧ leAt msg 0 1 = 0x13 ∧
      3 ≤ s.spdmVer tr ∧ leAt msg 2 1 % 16 = 0 ∧ leAt msg 4 2 < s.certChain.length ∧
      (min (leAt msg 6 2) (s.certChain.length - leAt msg 4 2)) ≤ 4088) ∧
    (∃ (s : State) (tr : Transport) (msg : List Byte), s.halted = false ∧ asks s tr rqMeasurements msg ∧ leAt msg 0 1 = 0x13 ∧
      3 ≤ s.spdmVer tr ∧ s.entropyOk = true ∧ leAt msg 2 1 % 2 = 0 ∧ leAt msg 3 1 ≤ 8) ∧
    (∃ (s : State) (tr : Transport) (msg : List Byte), s.halted = false ∧ asks s tr rqChallenge msg ∧ leAt msg 0 1 = 0x13 ∧
      3 ≤ s.spdmVer tr ∧ leAt msg 2 1 = 0 ∧ ((leAt msg 3 1 = 0 ∨ leAt msg 3 1 = 1 ∨ leAt msg 3 1 = 255))) ∧
    (∃ (s : State) (tr : Transport) (msg : List Byte), s.halted = false ∧ asks s tr rqChunkGet msg ∧ leAt msg 0 1 = 0x13 ∧
      3 ≤ s.spdmVer tr ∧ (tabGet s.sec.chunk {} (2 + spdmKey tr)).size ≠ 0 ∧
      leAt msg 3 1 = (tabGet s.sec.chunk {} (2 + spdmKey tr)).handle ∧ leAt msg 4 2 = (tabGet s.sec.chunk {} (2 + spdmKey tr)).seq ∧
      0 < (tabGet s.sec.chunk {} (2 + spdmKey tr)).seq ∧ 4084 < (tabGet s.sec.chunk {} (2 + spdmKey tr)).data.length) ∧
    (∃ (s : State) (tr : Transport) (msg : List Byte), s.halted = false ∧ asks s tr rqChunkSend msg ∧ 3 ≤ s.spdmVer tr ∧
      leAt msg 4 2 = 0 ∧ leAt msg 12 4 ≤ maxSpdmMsg ∧ leAt msg 8 4 ≤ leAt msg 12 4 ∧ leAt msg 2 1 % 2 = 0) ∧
    (∃ (s : State) (tr : Transport) (msg : List Byte), s.halted = false ∧ s.spdmUp tr = true ∧
      spdmSupported.contains (leAt msg 1 1) = false) :=
  ⟨⟨spdmDev [], .doe, [0x10#8, 0x84#8, 0#8, 0#8], by decide +kernel⟩,
    ⟨spdmDev [modSec fun c => { c with ver := [(1, 1)] }], .mctp, rqMsg rqCapabilities 0 0, by decide +kernel⟩,
    ⟨spdmDev [modSec fun c => { c with ver := [(0, 2)] }], .doe, rqMsg rqAlgorithms 0 0, by decide +kernel⟩,
    ⟨spdmDev [], .doe, rqMsg rqDigests 0 0, by decide +kernel⟩,
    ⟨spdmDev [], .doe, [0x13#8, 0x82#8, 0#8, 0#8, 4#8, 0#8, 16#8, 0#8], by decide +kernel⟩,
    ⟨spdmDev [], .doe, rqMsg rqMeasurements 0 8, by decide +kernel⟩,
    ⟨spdmDev [], .mctp, rqMsg rqChallenge 0 1, by decide +kernel⟩,
    ⟨spdmDev [modSec fun c => { c with chunk := [(2, { handle := 3, seq := 1, size := 5000, data := List.replicate 4090 1#8 })] }],
      .doe, [0x13#8, 0x86#8, 0#8, 3#8, 1#8, 0#8], by decide +kernel⟩,
    ⟨spdmDev [], .doe, [0x13#8, 0x85#8, 0#8, 3#8, 0#8, 0#8, 0#8, 0#8, 1#8, 0#8, 0#8, 0#8, 2#8, 0#8, 0#8, 0#8, 0x13#8],
      by decide +kernel⟩,
    ⟨spdmDev [], .doe, rqMsg 0x77 0 0, by decide +kernel⟩⟩

theorem witness_SessionsOpenAndEnd :
    (∃ (s : State) (tr : Transport) (x : SpdmIn) (msg : List Byte), s.halted = false ∧ asks s tr rqKeyExchange msg ∧
      leAt msg 0 1 = 0x13 ∧ 3 ≤ s.spdmVer tr ∧ leAt msg 3 1 = 0 ∧ ((leAt msg 2 1 = 0 ∨ leAt msg 2 1 = 1 ∨ leAt msg 2 1 = 255)) ∧
      x.sid = none) ∧
    (∃ (s : State) (tr : Transport) (x : SpdmIn) (msg : List Byte) (y : Session), s.halted = false ∧ asks s tr rqFinish msg ∧
      leAt msg 0 1 = 0x13 ∧ 3 ≤ s.spdmVer tr ∧ s.sessOf tr x = some y ∧ y.open_ = false) ∧
    (∃ (s : State) (tr : Transport) (x : SpdmIn) (msg : List Byte) (y : Session), s.halted = false ∧ asks s tr rqHeartbeat msg ∧
      leAt msg 0 1 = 0x13 ∧ 3 ≤ s.spdmVer tr ∧ s.sessOf tr x = some y ∧ y.open_ = true) ∧
    (∃ (s : State) (tr : Transport) (x : SpdmIn) (msg : List Byte) (y : Session), s.halted = false ∧ asks s tr rqKeyUpdate msg ∧
      leAt msg 0 1 = 0x13 ∧ 3 ≤ s.spdmVer tr ∧ s.sessOf tr x = some y ∧ y.open_ = true ∧ (leAt msg 2 1 = 1 ∨ leAt msg 2 1 = 2)) ∧
    (∃ (s : State) (tr : Transport) (x : SpdmIn) (msg : List Byte) (y : Session), s.halted = false ∧ asks s tr rqEndSession msg ∧
      leAt msg 0 1 = 0x13 ∧ 3 ≤ s.spdmVer tr ∧ s.sessOf tr x = some y ∧ y.open_ = true) ∧
    (∃ (s : State) (tr : Transport) (sid : Nat), s.halted = false ∧ s.spdmUp tr = true ∧
      ((∃ y ∈ s.sec.sess, y.sid = sid ∧ y.doe = (tr == .doe)))) ∧
    (∃ (s : State), s.halted = false) ∧
    (∃ (s : State), s.secRuns = true ∧ s.entropyOk = true) ∧
    (∃ (s : State), s.entropyOk = false ∧ s.aged s.sec.entropyAt 1000000000 = false) ∧
    (∃ (s : State), s.clk.step = 11 ∧ s.entropyOk = false ∧ s.sec.entropyBad = true ∧ s.secRuns = true ∧
      s.aged s.sec.entropyAt 1000000000 = true) :=
  ⟨⟨spdmDev [], .doe, sp0, rqMsg rqKeyExchange 255 0, by decide +kernel⟩,
    ⟨spdmDev [modSec fun c => { c with sess := [ses5 false] }], .doe, sp5 true, rqMsg rqFinish 0 0, ses5 false, by decide +kernel⟩,
    ⟨spdmDev [modSec fun c => { c with sess := [ses5 true] }], .doe, sp5 true, rqMsg rqHeartbeat 0 0, ses5 true, by decide +kernel⟩,
    ⟨spdmDev [modSec fun c => { c with sess := [ses5 true] }], .doe, sp5 true, rqMsg rqKeyUpdate 1 9, ses5 true, by decide +kernel⟩,
    ⟨spdmDev [modSec fun c => { c with sess := [ses5 true] }], .doe, sp5 true, rqMsg rqEndSession 0 0, ses5 true, by decide +kernel⟩,
    ⟨spdmDev [modSec fun c => { c with sess := [ses5 true] }], .doe, 5, by decide +kernel⟩,
    ⟨spdmDev [modSec fun c => { c with sess := [ses5 true] }], by decide +kernel⟩,
    ⟨spdmDev [], by decide +kernel⟩,
    ⟨spdmDev [setB F.SEC_STATUS_ENTROPY_OK 0 false, modSec fun c => { c with entropyAt := 1000000000000 }], by decide +kernel⟩,
    ⟨spdmDev [setB F.SEC_STATUS_ENTROPY_OK 0 false, modSec fun c => { c with entropyBad := true }], by decide +kernel⟩⟩

theorem witness_TablesAreOwnedAndRingsFed :
    (∃ (s : State) (r : Req) (v : Word), s.takes r .SYS_OWNER_CTL 0 = true ∧ v.getLsbD 31 = true) ∧
    (∃ (s : State) (r : Req) (v : Word), s.takes r .SYS_OWNER_CTL 0 = true ∧ v.getLsbD 30 = true ∧ s.asReq r ≠ .smb ∧ s.hostOwns = true) ∧
    (∃ (s : State) (r : Req) (v : Word), s.takes r .SYS_OWNER_CTL 0 = true ∧ v.getLsbD 29 = true ∧ s.asReq r ≠ .smb) ∧
    (∃ (s : State), s.halted = false ∧ s.hostOwns = true ∧ s.fld F.SYS_OWNER_CFG_HB_MS 0 ≠ 0 ∧
      s.aged s.dma.hbAt (s.fld F.SYS_OWNER_CFG_HB_MS 0 * 1000000) = true) ∧
    (∃ (s : State) (r : Req), s.takes r .DMA_RING_TAIL 0 = true) ∧
    (∃ (s : State) (r : Req) (v : Word), s.takesSec r .DMA_RING_TAIL 1 = true ∧ bits v 0 12 < s.ringSize 1) ∧
    (∃ (s : State) (d : List Byte), s.halted = false ∧ s.bit F.DMA_RING_CFG_EN 0 = true ∧ s.ringHead 0 ≠ s.fld F.DMA_RING_TAIL_TAIL 0 ∧
      s.mode.started = true ∧ s.clk.soft.contains unitDma = false ∧ s.hostFails = false ∧ tabGet s.dma.cur none 0 = none ∧
      ((tabGet s.dma.cur none 1 = none ∨ s.dma.turn = 0)) ∧
      ((leAt d 0 8 % 16 ≠ 0 ∨ leAt d 8 4 < 16 ∨ 1048576 < leAt d 8 4 ∨ leAt d 8 4 % 16 ≠ 0))) ∧
    (∃ (s : State) (d : List Byte), s.halted = false ∧ s.bit F.DMA_RING_CFG_EN 0 = true ∧ s.ringHead 0 ≠ s.fld F.DMA_RING_TAIL_TAIL 0 ∧
      s.mode.started = true ∧ s.clk.soft.contains unitDma = false ∧ s.hostFails = false ∧ tabGet s.dma.cur none 0 = none ∧
      ((tabGet s.dma.cur none 1 = none ∨ s.dma.turn = 0)) ∧ leAt d 0 8 % 16 = 0 ∧ 16 ≤ leAt d 8 4 ∧ leAt d 8 4 ≤ 1048576 ∧
      leAt d 8 4 % 16 = 0) ∧
    (∃ (s : State) (d : List Byte) (l : List Byte), s.halted = false ∧ s.bit F.DMA_RING_CFG_EN 0 = true ∧
      s.ringHead 0 ≠ s.fld F.DMA_RING_TAIL_TAIL 0 ∧ s.mode.started = true ∧ s.clk.soft.contains unitDma = false ∧ s.hostFails = false ∧
      tabGet s.dma.cur none 0 = none ∧ ((tabGet s.dma.cur none 1 = none ∨ s.dma.turn = 0)) ∧ leAt d 0 8 % 16 = 0 ∧ leAt d 8 4 = 16 ∧
      l.length = 16 ∧ cmdLen l = 16 ∧ dmaCan s 0 l opNop = true) ∧
    (∃ (s : State) (d : List Byte) (l : List Byte), s.halted = false ∧ s.ringBusy 0 = true ∧ s.ringBusy 1 = true ∧
      s.mode.started = true ∧ s.clk.soft.contains unitDma = false ∧ tabGet s.dma.cur none 0 = none ∧
      ((tabGet s.dma.cur none 1 = none ∨ s.dma.turn = 0)) ∧ leAt d 0 8 % 16 = 0 ∧ leAt d 8 4 = l.length ∧ 16 < l.length ∧
      l.length ≤ 1048576 ∧ l.length % 16 = 0 ∧ cmdLen l < l.length ∧ dmaCan s 0 l opNop = true) :=
  ⟨⟨dev, .pf0, 0x80000000#32, by decide +kernel⟩,
    ⟨hostDev [modDma fun d => { d with lockH := 6 }], .pf0, 0x40000000#32, by decide +kernel⟩,
    ⟨hostDev [], .pf0, 0x20000000#32, by decide +kernel⟩,
    ⟨{ hostDev [setF F.SYS_OWNER_CFG_HB_MS 0 1] with time := { dev.time with words := 12500 } }, by decide +kernel⟩,
    ⟨hostDev [], .pf0, by decide +kernel⟩,
    ⟨hostDev [setF F.DMA_RING_CFG_LOG2_SIZE 1 6], .zs, 5#32, by decide +kernel⟩,
    ⟨hostDev [setF F.DMA_RING_CFG_LOG2_SIZE 0 6], descB 20, by decide +kernel⟩,
    ⟨hostDev [setF F.DMA_RING_CFG_LOG2_SIZE 0 6], descB 32, by decide +kernel⟩,
    ⟨hostDev [setF F.DMA_RING_CFG_LOG2_SIZE 0 6], descB 16, cmdB opNop 0 0 0 [], by decide +kernel⟩,
    ⟨hostDev [setF F.DMA_RING_CFG_LOG2_SIZE 0 6, setB F.DMA_RING_CFG_EN 1 true, setF F.DMA_RING_TAIL_TAIL 1 3], descB 32,
      cmdB opNop 0 0 0 [] ++ cmdB opNop 0 0 0 [], by decide +kernel⟩⟩

theorem witness_TableCommandsOfARing :
    (∃ (s : State) (ring : Fin 2) (b : List Byte), s.halted = false ∧ dmaCan s ring b opWrite = true ∧ (cmdOf b).table ≠ 14) ∧
    (∃ (s : State) (ring : Fin 2) (b : List Byte), s.halted = false ∧ dmaCan s ring b opWrite = true ∧ (cmdOf b).table = 14 ∧
      (cmdOf b).cnt = 1) ∧
    (∃ (s : State) (ring : Fin 2) (b : List Byte), s.halted = false ∧ dmaCan s ring b opFill = true ∧ (cmdOf b).table ≠ 14) ∧
    (∃ (s : State) (ring : Fin 2) (b : List Byte), s.halted = false ∧ dmaCan s ring b opRead = true) ∧
    (∃ (s : State) (ring : Fin 2) (b : List Byte), s.halted = false ∧ dmaCan s ring b opPselWrite = true ∧ (cmdOf b).cnt = 1) ∧
    (∃ (s : State) (ring : Fin 2) (b : List Byte), s.halted = false ∧ dmaCan s ring b opPadlock = true) ∧
    (∃ (s : State) (ring : Fin 2) (k : Fin 16), s.halted = false ∧ (k : Nat) ≠ 0 ∧ (s.dma.locks ring).getLsbD k = true ∧
      s.aged (tabGet s.dma.padAt 0 (16 * (ring : Nat) + (k : Nat))) (s.fld F.DMA_CFG_PADLOCK_MAX_MS 0 * 1000000) = true) ∧
    (∃ (s : State) (ring : Fin 2) (b : List Byte), dmaCan s ring b opNop = true) ∧
    (∃ (s : State) (ring : Fin 2) (b : List Byte) (x : List Byte), s.halted = false ∧ dmaCan s ring b opLdgInsert = true ∧
      (cmdOf b).recs = [x] ∧ imageOk x = true) ∧
    (∃ (s : State) (ring : Fin 2) (b : List Byte) (x : List Byte), s.halted = false ∧ dmaCan s ring b opLdgDelete = true ∧
      (cmdOf b).recs = [x] ∧ imageOk x = true) ∧
    (∃ (s : State) (ring : Fin 2) (b : List Byte) (x : List Byte) (p : Prefix), s.halted = false ∧ dmaCan s ring b opLpmInsert = true ∧
      noRebuild s ∧ (cmdOf b).recs = [x] ∧ prefixOf x = some p) ∧
    (∃ (s : State) (ring : Fin 2) (b : List Byte) (x : List Byte) (p : Prefix), s.halted = false ∧ dmaCan s ring b opLpmDelete = true ∧
      noRebuild s ∧ (cmdOf b).recs = [x] ∧ prefixOf x = some p) ∧
    (∃ (s : State) (ring : Fin 2) (b : List Byte) (x : List Byte), s.halted = false ∧ dmaCan s ring b opRuleWrite = true ∧
      noRebuild s ∧ (cmdOf b).recs = [x]) ∧
    (∃ (s : State) (ring : Fin 2) (b : List Byte) (x : List Byte), s.halted = false ∧ dmaCan s ring b opRuleClear = true ∧
      noRebuild s ∧ (cmdOf b).recs = [x]) ∧
    (∃ (s : State) (ring : Fin 2) (b : List Byte) (x : List Byte), s.halted = false ∧ dmaCan s ring b opRuleMove = true ∧ noRebuild s ∧
      (cmdOf b).recs = [x]) :=
  ⟨⟨hostDev [], 0, cmdB opWrite 2 510 2 (List.replicate 32 0xA5#8), by decide +kernel⟩,
    ⟨hostDev [], 0, cmdB opWrite 14 8191 1 (List.replicate 2 0xA5#8 ++ List.replicate 14 0#8), by decide +kernel⟩,
    ⟨hostDev [], 0, cmdB opFill 10 65530 6 (List.replicate 16 0xA5#8), by decide +kernel⟩,
    ⟨hostDev [.upd (.flat (flatKey 2 1 5) 0x1234#512)], 0, cmdB opRead 2 4 2 (leBytes 8 0x1000 ++ [1] ++ List.replicate 7 0),
      by decide +kernel⟩,
    ⟨hostDev [], 1, cmdB opPselWrite 14 8191 1 (List.replicate 2 0xA5#8 ++ List.replicate 14 0#8), by decide +kernel⟩,
    ⟨hostDev [], 0, cmdB opPadlock 12 1 0 [], by decide +kernel⟩,
    ⟨{ hostDev [setF F.DMA_CFG_PADLOCK_MAX_MS 0 1, modDma fun d => { d with lockH := 6 }] with time := { dev.time with words := 12500 } },
      0, 2, by decide +kernel⟩,
    ⟨hostDev [], 0, cmdB opNop 0 0 0 [], by decide +kernel⟩,
    ⟨hostDev [], 0, cmdB opLdgInsert 12 0 1 macImg, macImg, by decide +kernel⟩,
    ⟨run (dmaRow opLdgInsert 0 (cmdB opLdgInsert 12 0 1 macImg)) (hostDev []), 0, cmdB opLdgDelete 12 0 1 macImg, macImg,
      by decide +kernel⟩,
    ⟨lpmDev [], 1, cmdB opLpmInsert 13 0 1 lpmRec1, lpmRec1, { v6 := false, vrf := 1, addr := 0x0A010000, len := 16 },
      by decide +kernel⟩,
    ⟨run (dmaRow opLpmInsert 1 (cmdB opLpmInsert 13 0 1 lpmRec1)) (lpmDev []), 1, cmdB opLpmDelete 13 0 1 lpmRec1, lpmRec1,
      { v6 := false, vrf := 1, addr := 0x0A010000, len := 16 }, by decide +kernel⟩,
    ⟨dev, 1, cmdB opRuleWrite 15 0 1 ruleRec1, ruleRec1, by decide +kernel⟩,
    ⟨run (dmaRow opRuleWrite 1 (cmdB opRuleWrite 15 0 1 ruleRec1)) dev, 1, cmdB opRuleClear 15 0 1 ruleRec1, ruleRec1,
      by decide +kernel⟩,
    ⟨run (dmaRow opRuleWrite 1 (cmdB opRuleWrite 15 0 1 ruleRec1)) dev, 1, cmdB opRuleMove 15 0 1 ruleRec1, ruleRec1, by decide +kernel⟩⟩

theorem witness_TheBootRomChoosesASlot :
    (∃ (s : State), s.clk.zolRun = 1 ∧ s.opMode = modeShutters ∧ s.nvm.slot = 2 ∧ s.fld F.SYS_MODE_SHUT_WHY 0 = 0 ∧ s.nvmMay = true) ∧
    (∃ (s : State), s.nvmMay = false) ∧
    (∃ (s : State), s.clk.zolRun = 1 ∧ s.mode.shut = true ∧ s.nvm.slot ≠ 2 ∧ modeSetup ≤ s.opMode ∧ s.nvmMay = true) :=
  ⟨⟨romDev [modNvm fun N => { N with slot := 2 }], by decide +kernel⟩,
    ⟨romDev [modClk fun c => { c with waitNvm := [1] }], by decide +kernel⟩,
    ⟨{ inMode modeOpen [modNvm fun N => { N with slot := 1 }] with clk := { dev.clk with zolRun := 1 } }, by decide +kernel⟩⟩

theorem witness_SetupLoadsPatchAndRecords :
    (∃ (s : State), s.opMode = modeSetup ∧ s.mode.setup = 0 ∧ s.zolOn = true ∧ s.nvmMay = true ∧
      s.bit F.SEC_STATUS_MEAS_SEALED 0 = false ∧ (s.imageSection 1).isEmpty = false) ∧
    (∃ (s : State), s.opMode = modeSetup ∧ s.mode.setup = 0 ∧ s.zolOn = true ∧ s.nvmMay = true ∧
      s.bit F.SEC_STATUS_MEAS_SEALED 0 = false ∧ (s.imageSection 1).isEmpty = true ∧ svnCount s.otp.svnPatch = 0) ∧
    (∃ (s : State) (l : List Byte), recNextIs s l ∧ recType l = recReg ∧ l.length = 4) ∧
    (∃ (s : State) (l : List Byte) (r : Reg) (n : Nat), recNextIs s l ∧ recType l = recReg ∧ l.length = 12 ∧ s.cfgLock = false ∧
      leAt l 4 4 % 4 = 0 ∧ findReg (leAt l 4 4) = some (r, n) ∧ s.takes .zs r n = true ∧ r ≠ .SHR_CTL ∧
      rowWrite .zs r n (BitVec.ofNat 32 (leAt l 8 4)) = none ∧
      plainWrite .zs r n (BitVec.ofNat 32 (leAt l 8 4)) = writeFields .zs r n (BitVec.ofNat 32 (leAt l 8 4))) ∧
    (∃ (s : State) (l : List Byte), recNextIs s l ∧ recType l = recReg ∧ l.length = 12) ∧
    (∃ (s : State) (l : List Byte), recNextIs s l ∧ recType l = recMbx) ∧
    (∃ (s : State) (l : List Byte), recNextIs s l ∧ recType l = recIdent) ∧
    (∃ (s : State) (l : List Byte), recNextIs s l ∧ recType l = recWait) ∧
    (∃ (s : State), s.halted = false ∧ s.nvm.waiting = 1 ∧ s.aged s.nvm.waitAt (s.nvm.waitUs * 1000) = true) ∧
    (∃ (s : State), s.aged s.nvm.waitAt (s.nvm.waitUs * 1000) = false) ∧
    (∃ (s : State) (l : List Byte), recNextIs s l ∧ recType l = recEnd ∧ s.carved = true) ∧
    (∃ (s : State) (l : List Byte), recNextIs s l ∧ recType l = 0) :=
  ⟨⟨inMode modeSetup [modMode (fun m => { m with setup := 0 }), modNvm fun N => { N with slot := 0, sections := [(0, 0, 0), (0x2000, 16, 0)] }],
      by decide +kernel⟩,
    ⟨inMode modeSetup [modMode (fun m => { m with setup := 0 }), modNvm fun N => { N with slot := 0, sections := [(0, 0, 0), (0x2000, 0, 0)] }],
      by decide +kernel⟩,
    ⟨recDev (recB 1 []) [], recB 1 [],
      by (repeat' apply And.intro) <;> first | decide +kernel | rfl | exact section_ok _ _ _ rfl (by decide +kernel)⟩,
    ⟨recDev (recB 1 (leBytes 4 (regAddr .SCH_PORT_CFG 511) ++ leBytes 4 7)) [],
      recB 1 (leBytes 4 (regAddr .SCH_PORT_CFG 511) ++ leBytes 4 7), .SCH_PORT_CFG, 511,
      by (repeat' apply And.intro) <;> first | decide +kernel | rfl | exact section_ok _ _ _ rfl (by decide +kernel)⟩,
    ⟨recDev (recB 1 (leBytes 4 0x14 ++ leBytes 4 7)) [], recB 1 (leBytes 4 0x14 ++ leBytes 4 7),
      by (repeat' apply And.intro) <;> first | decide +kernel | rfl | exact section_ok _ _ _ rfl (by decide +kernel)⟩,
    ⟨recDev (recB 2 (leBytes 4 0 ++ [2, 0, 0, 0] ++ leBytes 4 1)) [], recB 2 (leBytes 4 0 ++ [2, 0, 0, 0] ++ leBytes 4 1),
      by (repeat' apply And.intro) <;> first | decide +kernel | rfl | exact section_ok _ _ _ rfl (by decide +kernel)⟩,
    ⟨recDev (recB 3 (List.replicate 96 0)) [], recB 3 (List.replicate 96 0),
      by (repeat' apply And.intro) <;> first | decide +kernel | rfl | exact section_ok _ _ _ rfl (by decide +kernel)⟩,
    ⟨recDev (recB 4 (leBytes 4 1000)) [], recB 4 (leBytes 4 1000),
      by (repeat' apply And.intro) <;> first | decide +kernel | rfl | exact section_ok _ _ _ rfl (by decide +kernel)⟩,
    ⟨recDev [] [modNvm fun N => { N with waiting := 1 }], by decide +kernel⟩,
    ⟨recDev [] [modNvm fun N => { N with waiting := 1, waitAt := 1000000000000 , waitUs := 5 }], by decide +kernel⟩,
    ⟨run (acts [setF F.SYS_MODE_MODE 0 modeSetup]) (recDev (recB 0xFFFF []) [carve .zs 1#32]), recB 0xFFFF [],
      by (repeat' apply And.intro) <;> first | decide +kernel | rfl | exact section_ok _ _ _ rfl (by decide +kernel)⟩,
    ⟨recDev (recB 9 []) [], recB 9 [],
      by (repeat' apply And.intro) <;> first | decide +kernel | rfl | exact section_ok _ _ _ rfl (by decide +kernel)⟩⟩

theorem witness_TheShadowIsCompared :
    (∃ (s : State), s.assayMode = true ∧ s.zolOn = true ∧ s.clk.soft.contains unitDma = false ∧ s.refNow = refNone) ∧
    (∃ (s : State) (w : Nat) (pos : Nat), s.assayMode = true ∧ s.zolOn = true ∧ s.clk.soft.contains unitDma = false ∧
      s.refNow = refNvm ∧ s.bit F.NVM_STATUS_HOLD_ACTIVE 0 = false ∧ s.dma.walk = (w, false, pos) ∧ w % 16 ≠ 0 ∧
      isFlat (w % 16) = true ∧ s.padlocked (w % 16) = false ∧ pos < (flatDims (w % 16)).1) ∧
    (∃ (s : State) (w : Nat) (pos : Nat) (rev : Bool), s.assayMode = true ∧ s.zolOn = true ∧ s.clk.soft.contains unitDma = false ∧
      s.refNow = refNvm ∧ s.bit F.NVM_STATUS_HOLD_ACTIVE 0 = false ∧ s.dma.walk = (w, rev, pos) ∧ w % 16 ≠ 0 ∧
      s.padlocked (w % 16) = true) ∧
    (∃ (s : State) (f : Finding) (l : List Finding) (ref : Option (List Byte)) (y : List Byte), s.dma.finds = f :: l ∧
      s.assayMode = true ∧ s.zolOn = true ∧ s.aged f.seen 100000 = true ∧
      ((s.refNow ≠ refNvm ∨ s.bit F.NVM_STATUS_HOLD_ACTIVE 0 = false)) ∧ s.clk.soft.contains unitDma = false ∧
      s.refAgain f ref = some y ∧ ((s.refNow = refHost → refMalformed f.table y = false)) ∧ s.bit F.ASSAY_CFG_CORRECT_EN 0 = false) ∧
    (∃ (s : State), s.halted = false ∧ s.aged s.dma.bucketAt 1000000000 = true) ∧
    (∃ (s : State), s.halted = false ∧ s.zolOn = false) ∧
    (∃ (s : State), s.aged s.dma.bucketAt 1000000000 = false) :=
  ⟨⟨dev, by decide +kernel⟩,
    ⟨tune [setF F.ASSAY_STATUS_REF 0 refNvm, .upd (.flat (flatKey 2 1 511) 1#512), modDma fun d => { d with walk := (2, false, 511) }],
      2, 511, by decide +kernel⟩,
    ⟨tune [setF F.ASSAY_STATUS_REF 0 refNvm, modDma fun d => { d with lockZ := 4, walk := (2, false, 511) }], 2, 511, false,
      by decide +kernel⟩,
    ⟨tune [setB F.ASSAY_CFG_CORRECT_EN 0 false, setF F.ASSAY_STATUS_REF 0 refNvm, .upd (.flat (flatKey 2 1 511) 1#512), modDma fun d => { d with finds := [{ table := 2, place := 17, index := 511 }] }],
      { table := 2, place := 17, index := 511 }, [], none, List.replicate 16 0, by decide +kernel⟩,
    ⟨tune [setF F.ASSAY_CFG_WIN_S 0 3, modDma fun d => { d with buckets := [1, 2, 3] }], by decide +kernel⟩,
    ⟨tune [modClk fun c => { c with zolRun := 3 }], by decide +kernel⟩,
    ⟨tune [modDma fun d => { d with bucketAt := 1000000000000 }], by decide +kernel⟩⟩

theorem witness_TemperaturesThrottleAndTrip :
    (∃ (s : State) (l : List Int), s.opMode ≠ modeCold ∧ ((∀ i, i < 48 → l.getD i 0 < 8 * (s.fld F.THM_CFG_TRIP_C 0 : Int)))) ∧
    (∃ (s : State) (l : List Int) (x : Int) (i : Nat), s.opMode ≠ modeCold ∧
      ((∀ i, i < 48 → l.getD i 0 < 8 * (s.fld F.THM_CFG_TRIP_C 0 : Int) ∧ tempFails (l.getD i 0) = false)) ∧ s.hottest l = some (x, i)) ∧
    (∃ (s : State) (l : List Int) (i : Nat), s.opMode ≠ modeCold ∧ i < 48 ∧ s.thm.fails.contains i = false ∧
      s.thm.prevTrip.contains i = true ∧ 8 * (s.fld F.THM_CFG_TRIP_C 0 : Int) ≤ l.getD i 0 ∧ tempFails (l.getD i 0) = false ∧
      s.clk.thermLow = false ∧ s.nvm.prog = none) ∧
    (∃ (s : State), s.opMode ≠ modeCold ∧ s.aged s.thm.stuckAt 60000000000 = true) ∧
    (∃ (s : State), s.opMode ≠ modeCold ∧ s.aged s.thm.stuckAt 60000000000 = false) :=
  ⟨⟨tune [setF F.THM_CFG_TRIP_C 0 125], List.replicate 48 400, by decide +kernel⟩,
    ⟨tune [setF F.THM_CFG_TRIP_C 0 125], List.replicate 47 400 ++ [850], 850, 47, by decide +kernel⟩,
    ⟨tune [setF F.THM_CFG_TRIP_C 0 125, modThm fun h => { h with prevTrip := [3] }], List.replicate 3 400 ++ [1000], 3,
      by decide +kernel⟩,
    ⟨dev, by decide +kernel⟩,
    ⟨tune [modThm fun h => { h with stuckAt := 1000000000000 }], by decide +kernel⟩⟩

theorem witness_PowerIsLimited :
    (∃ (s : State), s.clk.step = 11) ∧
    (∃ (s : State) (w : Nat), s.zolOn = true ∧ 0 < s.fld F.PWR_CFG_PWR_LIMIT_W 0 ∧
      s.fld F.PWR_CFG_PWR_LIMIT_W 0 < s.fld F.PWR_STATUS_PWR_W 0 ∧ s.thm.overAt = some w ∧ s.aged w 100000000 = true) ∧
    (∃ (s : State) (w : Nat), s.zolOn = true ∧ 0 < s.fld F.PWR_CFG_PWR_LIMIT_W 0 ∧ 0 < s.fld F.SYS_MODE_REQ_STEP 0 ∧
      s.fld F.PWR_STATUS_PWR_W 0 * 100 < 95 * s.fld F.PWR_CFG_PWR_LIMIT_W 0 ∧ s.thm.underAt = some w ∧ s.aged w 10000000000 = true) ∧
    (∃ (s : State) (n : Nat), s.zolOn = true ∧ 0 < s.fld F.PWR_CFG_PWR_LIMIT_W 0 ∧ s.thm.pwrReq = some n ∧ n < 4 ∧
      s.aged s.thm.pwrReqAt 10000000 = true) ∧
    (∃ (s : State) (w : Nat), s.thm.overAt = some w ∧ s.aged w 100000000 = false) ∧
    (∃ (s : State) (w : Nat), s.thm.underAt = some w ∧ s.aged w 10000000000 = false) ∧
    (∃ (s : State), ((s.aged s.thm.pwrReqAt 10000000 = false ∨ s.fld F.PWR_CFG_PWR_LIMIT_W 0 = 0))) :=
  ⟨⟨dev, by decide +kernel⟩,
    ⟨tune [setF F.PWR_CFG_PWR_LIMIT_W 0 100, setF F.PWR_STATUS_PWR_W 0 101, modThm fun h => { h with overAt := some 5 }], 5,
      by decide +kernel⟩,
    ⟨inMode modeLean [setF F.SYS_MODE_REQ_STEP 0 3, setF F.PWR_CFG_PWR_LIMIT_W 0 100, setF F.PWR_STATUS_PWR_W 0 94, modThm fun h => { h with underAt := some 5 }],
      5, by decide +kernel⟩,
    ⟨inMode modeLean [setF F.PWR_CFG_PWR_LIMIT_W 0 100, modThm fun h => { h with pwrReq := some 2 }], 2, by decide +kernel⟩,
    ⟨tune [modThm fun h => { h with overAt := some 1000000000000 }], 1000000000000, by decide +kernel⟩,
    ⟨tune [modThm fun h => { h with underAt := some 1000000000000 }], 1000000000000, by decide +kernel⟩,
    ⟨tune [modThm fun h => { h with pwrReqAt := 1000000000000 }], by decide +kernel⟩⟩

theorem witness_TheRailsFollowTheirTargets :
    (∃ (s : State), s.halted = false ∧ s.clk.step = 11 ∧ s.aged s.thm.canaryAt 1000000000 = true ∧
      (s.zolOn = false ∨ (s.thm.actions = [] ∧ (s.mode.everOpen = false ∨ s.bit F.SHR_STATUS_PLANNING 0 = true)))) ∧
    (∃ (s : State) (r : Fin 2), s.halted = false ∧ 7 ≤ s.clk.step ∧ s.thm.avsFault.contains (r : Nat) = false ∧
      s.fld F.SHR_AVS_TARGET_TARGET_MV r ≠ s.railNow r ∧
      (tabGet s.thm.avsFail 0 r ≠ 0 ∨ s.avsAged r (s.fld F.SHR_CTL_AVS_STEP_MS 0 * 1000000) = true)) ∧
    (∃ (s : State) (r : Fin 2), s.halted = false ∧ s.thm.avsFault.contains (r : Nat) = true ∧ s.avsAged r 10000000 = true) ∧
    (∃ (s : State) (w : Nat), s.halted = false ∧ s.canPlan = true ∧ s.bit F.SHR_CFG_PLAN_EN 0 = true ∧ s.thm.planAt = some w ∧
      s.aged w 0 = true) ∧
    (∃ (s : State) (r : Req) (v : Word), s.takes r .SHR_CTL 0 = true ∧ v.getLsbD 0 = true) ∧
    (∃ (s : State) (w : Nat), s.zolOn = true ∧ s.bit F.SHR_STATUS_PLANNING 0 = true ∧ s.thm.cycleAt = some w ∧ s.aged w nsTenMin = true) ∧
    (∃ (s : State) (m : Nat), s.thm.deferred = 1 ∧ s.aged s.thm.deferAt nsTenMin = true ∧ s.zolOn = true ∧ s.thm.actions = [(2, m)] ∧
      s.servo = svAcquiring ∧ s.thm.avsFault.contains 0 = false) ∧
    (∃ (s : State), s.aged s.thm.canaryAt 1000000000 = false) ∧
    (∃ (s : State) (r : Fin 2), tabGet s.thm.avsFail 0 r = 0 ∧ s.avsAged r (s.fld F.SHR_CTL_AVS_STEP_MS 0 * 1000000) = false) ∧
    (∃ (s : State) (r : Fin 2), s.avsAged r 10000000 = false) ∧
    (∃ (s : State) (w : Nat), s.thm.planAt = some w ∧ s.aged w 0 = false) ∧
    (∃ (s : State) (m : Nat), s.thm.deferred = 1 ∧ s.servo ≠ svAcquiring ∧ s.zolOn = true ∧ s.thm.actions = [(2, m)] ∧
      s.thm.avsFault.contains 0 = false) ∧
    (∃ (s : State), s.aged s.thm.deferAt nsTenMin = false ∧ s.servo = svAcquiring) :=
  ⟨⟨{ inMode modeSetup [] with clk := { dev.clk with zolRun := 3 }, mode := { dev.mode with everOpen := false } }, by decide +kernel⟩,
    ⟨tune [setReg .SHR_AVS_TARGET 1 760, modThm fun h => { h with vlane := 750 }], 1, by decide +kernel⟩,
    ⟨tune [modThm fun h => { h with avsFault := [1] }], 1, by decide +kernel⟩,
    ⟨tune [modThm fun h => { h with planAt := some 0, hist := [(1, 5)] }], 0, by decide +kernel⟩,
    ⟨dev, .pf0, 1#32, by decide +kernel⟩,
    ⟨tune [setB F.SHR_STATUS_PLANNING 0 true, modThm fun h => { h with cycleAt := some 0, planRemain := 17519 }], 0, by decide +kernel⟩,
    ⟨tune [setF F.TIME_SERVO_STATUS_STATE 0 svAcquiring, modThm fun h => { h with deferred := 1, deferAt := 0, actions := [(2, 730)] }],
      730, by decide +kernel⟩,
    ⟨tune [modThm fun h => { h with canaryAt := 1000000000000 }], by decide +kernel⟩,
    ⟨tune [setF F.SHR_CTL_AVS_STEP_MS 0 5, modThm fun h => { h with avsAt := [(1, some 1000000000000)] }], 1, by decide +kernel⟩,
    ⟨tune [modThm fun h => { h with avsAt := [(1, some 1000000000000)] }], 1, by decide +kernel⟩,
    ⟨tune [modThm fun h => { h with planAt := some 2000000000000 }], 2000000000000, by decide +kernel⟩,
    ⟨tune [setF F.TIME_SERVO_STATUS_STATE 0 2, modThm fun h => { h with deferred := 1, deferAt := 0, actions := [(2, 730)] }], 730,
      by decide +kernel⟩,
    ⟨tune [setF F.TIME_SERVO_STATUS_STATE 0 svAcquiring, modThm fun h => { h with deferAt := 1000000000000 }], by decide +kernel⟩⟩

theorem witness_RegistersAreWritten :
    (∃ (s : State) (rq : Req), s.arrives rq = false) ∧
    (∃ (s : State) (rq : Req) (ok : Bool) (a : Nat), s.arrives rq = true ∧
      ((ok = false ∨ a % 4 ≠ 0 ∨ (windowAddr rq a).bind findReg = none))) ∧
    (∃ (s : State) (rq : Req) (a : Nat) (r : Reg) (n : Nat), s.arrives rq = true ∧ a % 4 = 0 ∧
      (windowAddr rq a).bind findReg = some (r, n) ∧ (s.accessErr rq r n).isSome = true) ∧
    (∃ (s : State) (rq : Req) (a : Nat) (v : Word) (r : Reg) (n : Nat), a % 4 = 0 ∧ (windowAddr rq a).bind findReg = some (r, n) ∧
      s.takes rq r n = true ∧ r ≠ .SHR_CTL ∧ rowWrite rq r n v = none ∧ plainWrite (s.asReq rq) r n v = writeFields (s.asReq rq) r n v) ∧
    (∃ (s : State) (rq : Req), s.takes rq .SEC_CFG 0 = true ∧ windowAddr rq (regAddr .SEC_CFG 0) = some (regAddr .SEC_CFG 0)) ∧
    (∃ (s : State) (b : Boundary) (i : Nat) (n : Nat) (r : Reg), stagedHere b i r n = true ∧ ((b = .gatePort → s.gateDue i = true))) ∧
    (∃ (b : Boundary) (i : Nat) (n : Nat) (r : Reg), stagedHere b i r n = false ∧
      ((b = .frmPort → (evR ++ [Reg.SWC_PORT_HDRM, .SWC_PORT_STATE, .SWC_SHARED_FREE, .SWC_STATUS, .SWC_EVT_CAUSE]).contains r = false))) ∧
    (∃ (s : State) (i : Nat), s.gateDue i = false) :=
  ⟨⟨{ dev with clk := { dev.clk with perst := true } }, .pf0, by decide +kernel⟩,
    ⟨dev, .pf0, false, 0, by decide +kernel⟩,
    ⟨{ dev with mode := { dev.mode with started := false, shut := false } }, .pf0, regAddr .PORT_CFG 5, .PORT_CFG, 5, by decide +kernel⟩,
    ⟨dev, .pf0, regAddr .SCH_PORT_CFG 511, 0xFFFFFFFF#32, .SCH_PORT_CFG, 511, by decide +kernel, by decide +kernel, by decide +kernel,
      by decide +kernel, rfl, rfl⟩,
    ⟨dev, .zs, by decide +kernel⟩,
    ⟨tune [.upd (.reg .PORT_CFG 511 0xFFFF)], .frmPort, 511, 511, .PORT_CFG, by decide +kernel⟩,
    ⟨.frmPort, 8, 9, .PORT_CFG, by decide +kernel⟩,
    ⟨tune [setB F.SCH_HL_STATUS_RUNNING 8 true, modPort 8 (fun P => { P with hlCycle := 1000000 }), modTime fun t => { t with acc := 500000 * 2 ^ 48 }],
      8, by decide +kernel⟩⟩

theorem witness_TheSmbusReadsAndWrites :
    (∃ (s : State) (rq : Req) (a : Nat) (r : Reg) (n : Nat), s.arrives rq = true ∧ a % 4 = 0 ∧
      (windowAddr rq a).bind findReg = some (r, n) ∧ s.accessErr rq r n = none) ∧
    (∃ (s : State) (rq : Req) (ok : Bool) (a : Nat), s.arrives rq = true ∧
      ((ok = false ∨ a % 4 ≠ 0 ∨ (windowAddr rq a).bind findReg = none ∨ ∃ r n, (windowAddr rq a).bind findReg = some (r, n) ∧ s.accessErr rq r n ≠ none))) ∧
    (∃ (s : State), s.arrives .smb = true) ∧
    (∃ (s : State) (p : Option Bool), s.arrives .smb = true ∧ ((p = some false ∨ p = none ∧ s.bit F.SYS_IF_CFG_SMB_PEC_REQ 0 = true))) ∧
    (∃ (c : Nat) (a : Nat), ((c ≠ 6 ∨ 0x1000 ≤ a))) ∧
    (∃ (s : State) (a : Nat) (r : Reg) (n : Nat), s.arrives .smb = true ∧ a < 0x1000 ∧ a % 4 = 0 ∧ findReg a = some (r, n)) ∧
    (∃ (s : State) (k : BitVec 8), s.arrives .smb = true ∧ k ≠ 0x20 ∧ k ≠ 0x21 ∧ k ≠ 0x0F) ∧
    (∃ (s : State), s.alertN = true) ∧
    (∃ (s : State), s.alertN = false) :=
  ⟨⟨dev, .pf0, regAddr .SEC_CFG 0, .SEC_CFG, 0, by decide +kernel⟩,
    ⟨dev, .pf0, false, 0, by decide +kernel, Or.inl rfl⟩,
    ⟨dev, by decide +kernel⟩,
    ⟨dev, some false, by decide +kernel⟩,
    ⟨5, 0x14, by decide +kernel⟩,
    ⟨dev, regAddr .SYS_IF_CFG 0, .SYS_IF_CFG, 0, by decide +kernel⟩,
    ⟨dev, 0x22#8, by decide +kernel⟩,
    ⟨tune [setF F.EVT_ROUTE_DEST 55 6, setB F.SYS_IF_CFG_ALERT_EN 0 true, setReg .EVT_ENABLE 55 1, setReg .EVT_STATUS 55 1],
      by decide +kernel⟩,
    ⟨dev, by decide +kernel⟩⟩

theorem witness_MailboxesOperate :
    (∃ (s : State) (rq : Req) (n : Fin 20) (ctl : Word) (c : Nat), mbxGo s rq n mbRead ctl ∧
      s.mbxFault (s.asReq rq) (s.fld F.MBX_SEL_BLOCK n) (s.fld F.MBX_SEL_INDEX n) mbRead (bits ctl 16 8) (bits ctl 8 8) [] = 0 ∧
      c < cntWidth (s.fld F.MBX_SEL_BLOCK n) (s.fld F.MBX_SEL_INDEX n)) ∧
    (∃ (s : State) (rq : Req) (n : Fin 20) (ctl : Word) (c : Nat), mbxGo s rq n mbClear ctl ∧ mbxGood s rq n mbClear ctl ∧
      c < cntWidth (s.fld F.MBX_SEL_BLOCK n) (s.fld F.MBX_SEL_INDEX n) ∧
      ¬(s.fld F.MBX_SEL_BLOCK n = 0x11 ∧ s.fld F.MBX_SEL_INDEX n % 2 = 1 ∧ c = 4)) ∧
    (∃ (s : State) (rq : Req) (n : Fin 20) (ctl : Word), mbxGo s rq n mbClear ctl ∧ mbxGood s rq n mbClear ctl) ∧
    (∃ (s : State) (rq : Req) (n : Fin 20) (ctl : Word) (c : Nat), mbxGo s rq n mbWrite ctl ∧ mbxGood s rq n mbWrite ctl ∧
      c < cntWidth (s.fld F.MBX_SEL_BLOCK n) (s.fld F.MBX_SEL_INDEX n) ∧
      ¬(s.fld F.MBX_SEL_BLOCK n = 0x11 ∧ s.fld F.MBX_SEL_INDEX n % 2 = 1 ∧ c = 4)) ∧
    (∃ (s : State) (rq : Req) (n : Fin 20) (ctl : Word), mbxGo s rq n mbWrite ctl ∧ mbxGood s rq n mbWrite ctl) ∧
    (∃ (s : State) (rq : Req) (n : Fin 20) (ctl : Word), mbxGo s rq n mbRead ctl ∧
      vidOk (s.fld F.MBX_SEL_BLOCK n) (s.fld F.MBX_SEL_INDEX n) = false) ∧
    (∃ (s : State) (rq : Req) (n : Fin 20) (ctl : Word), mbxGo s rq n mbRead ctl ∧
      vidOk (s.fld F.MBX_SEL_BLOCK n) (s.fld F.MBX_SEL_INDEX n) = true ∧
      s.mayUse (s.asReq rq) (s.fld F.MBX_SEL_BLOCK n) (s.fld F.MBX_SEL_INDEX n) mbRead = false) ∧
    (∃ (s : State) (rq : Req) (n : Fin 20) (ctl : Word), s.takes rq .MBX_CTL n = true ∧ ctl.getLsbD 31 = true ∧ bits ctl 0 4 = mbRead ∧
      s.bit F.MBX_CTL_GO n = true) ∧
    (∃ (s : State) (rq : Req) (n : Fin 20) (ctl : Word), mbxGo s rq n mbRead ctl ∧ s.fld F.MBX_SEL_BLOCK n = 0x12 ∧
      s.fld F.MBX_SEL_INDEX n % 4 = 0 ∧ ((s.asReq rq = .pf0 ∨ s.asReq rq = .z)) ∧
      ([siteEmpty, siteReset, siteFaulted] : List Nat).contains (s.site (siteOf (s.fld F.MBX_SEL_INDEX n))) = false ∧
      0 < bits ctl 16 8 ∧ bits ctl 16 8 ≤ 64 ∧ bits ctl 8 8 + bits ctl 16 8 ≤ 256) ∧
    (∃ (s : State) (n : Fin 20) (x : I2cTxn), s.halted = false ∧ s.evt.i2cQ.find? (fun y => y.mbx == (n : Nat) && y.onBus) = some x ∧
      x.dropped = false) ∧
    (∃ (s : State) (n : Fin 20) (l : List Byte) (x : I2cTxn), s.halted = false ∧
      s.evt.i2cQ.find? (fun y => y.mbx == (n : Nat) && y.onBus) = some x ∧ x.dropped = false ∧ x.op = mbRead ∧ x.len ≤ 64 ∧
      l.length = x.len) ∧
    (∃ (s : State) (n : Fin 20) (x : I2cTxn), s.halted = false ∧ s.evt.i2cQ.find? (fun y => y.mbx == (n : Nat) && y.onBus) = some x ∧
      x.dropped = true) ∧
    (∃ (s : State) (n : Fin 20), ((∀ x ∈ s.evt.i2cQ, x.mbx = (n : Nat) → x.onBus = false))) :=
  ⟨⟨mbxDev 3 0x10 511 [.upd (.cnt (cntKey 0x10 511 7) 0x123456789ABC)], .pf0, 3, 0x80080000#32 + BitVec.ofNat 32 mbRead, 7,
      by decide +kernel⟩,
    ⟨mbxDev 3 0x10 511 [.upd (.cnt (cntKey 0x10 511 7) 0x123456789ABC)], .pf0, 3, 0x80080000#32 + BitVec.ofNat 32 mbClear, 7,
      by decide +kernel⟩,
    ⟨mbxDev 3 0x01 5 [.upd (.occ 161 7)], .pf0, 3, 0x80080000#32 + BitVec.ofNat 32 mbClear, by decide +kernel⟩,
    ⟨mbxDev 3 0x10 511 [setReg .MBX_DATA 62 0x12345678, setReg .MBX_DATA 63 0x9ABCDEF0], .pf0, 3,
      0x80100000#32 + BitVec.ofNat 32 mbWrite, 7, by decide +kernel⟩,
    ⟨mbxDev 3 0x40 0x1FF [setReg .MBX_DATA 48 1000, setReg .MBX_DATA 49 3], .pf0, 3, 0x80080000#32 + BitVec.ofNat 32 mbWrite,
      by decide +kernel⟩,
    ⟨mbxDev 3 0x7F 0 [], .pf0, 3, 0x80080000#32 + BitVec.ofNat 32 mbRead, by decide +kernel⟩,
    ⟨mbxDev 15 0x10 0 [], .pf3, 15, 0x80080000#32 + BitVec.ofNat 32 mbRead, by decide +kernel⟩,
    ⟨mbxDev 3 0x10 0 [setB F.MBX_CTL_GO 3 true], .pf0, 3, 0x80080000#32 + BitVec.ofNat 32 mbRead, by decide +kernel⟩,
    ⟨mbxDev 3 0x12 0 [setF F.STALL_STATUS_SITE_STATE 0 3], .pf0, 3, 0x80400000#32 + BitVec.ofNat 32 mbRead, by decide +kernel⟩,
    ⟨mbxDev 3 0x12 0 [modEvt fun e => { e with i2cQ := [{ mbx := 5, site := 7 }, { mbx := 3, op := mbRead, len := 64, onBus := true }] }],
      3, { mbx := 3, op := mbRead, len := 64, onBus := true }, by decide +kernel⟩,
    ⟨mbxDev 3 0x12 0 [modEvt fun e => { e with i2cQ := [{ mbx := 3, op := mbRead, len := 64, onBus := true }, { mbx := 5, site := 7 }] }],
      3, List.replicate 63 7 ++ [9], { mbx := 3, op := mbRead, len := 64, onBus := true }, by decide +kernel⟩,
    ⟨mbxDev 3 0x12 0 [modEvt fun e => { e with i2cQ := [{ mbx := 3, dropped := true, onBus := true }] }], 3,
      { mbx := 3, dropped := true, onBus := true }, by decide +kernel⟩,
    ⟨mbxDev 3 0x12 0 [modEvt fun e => { e with i2cQ := [{ mbx := 3 }] }], 3, by decide +kernel⟩⟩

theorem witness_EventsAreDelivered :
    (∃ (s : State) (rq : Req) (v : Word), s.takes rq .EVT_TEST 0 = true ∧ v.getLsbD 31 = true ∧ bits v 0 11 ≤ 1791 ∧
      ((bits v 0 11 < 1024 → s.starts (bits v 0 11 % 512) = true))) ∧
    (∃ (s : State) (rq : Req) (v : Word), s.takes rq .EVT_TEST 0 = true ∧
      ((v.getLsbD 31 = false ∨ 1791 < bits v 0 11 ∨ bits v 0 11 < 1024 ∧ s.starts (bits v 0 11 % 512) = false))) ∧
    (∃ (s : State) (pf : Fin 4) (vec : Fin 2048), s.halted = false ∧ (s.msiV (msiKey pf vec)).holding = true ∧
      s.aged (s.msiV (msiKey pf vec)).holdAt (s.fld F.EVT_CFG_HOLDOFF_US 0 * 1000) = true) ∧
    (∃ (s : State) (pf : Fin 4) (vec : Fin 2048),
      (((s.msiV (msiKey pf vec)).holding = false ∨ s.aged (s.msiV (msiKey pf vec)).holdAt (s.fld F.EVT_CFG_HOLDOFF_US 0 * 1000) = false))) ∧
    (∃ (s : State) (pf : Fin 4) (vec : Fin 2048), (vec : Nat) < msixEntries pf ∧ s.clk.pcieUp = true ∧ s.clk.perst = false ∧
      s.bit F.CLK_STATUS_PCIE_LOCK 0 = true) ∧
    (∃ (s : State) (pf : Fin 4) (vec : Fin 2048),
      ((msixEntries pf ≤ (vec : Nat) ∨ s.clk.pcieUp = false ∨ s.clk.perst = true ∨ s.bit F.CLK_STATUS_PCIE_LOCK 0 = false))) :=
  ⟨⟨tune [setReg .EVT_ENABLE 55 0xFFFFFFFF, setReg .EVT_Z_ENABLE 55 0x80000000, setF F.EVT_ROUTE_DEST 55 1, .upd (.msi (msiKey 0 0) { masked := false })],
      .pf0, 0x800006FF#32, by decide +kernel⟩,
    ⟨dev, .pf0, 0x80000700#32, by decide +kernel⟩,
    ⟨tune [.upd (.msi (msiKey 3 15) { masked := false, holding := true, owed := true })], 3, 15, by decide +kernel⟩,
    ⟨dev, 0, 2047, by decide +kernel⟩,
    ⟨tune [.upd (.msi (msiKey 0 2047) { masked := true, pend := true })], 0, 2047, by decide +kernel⟩,
    ⟨dev, 1, 64, by decide +kernel⟩⟩

theorem witness_EventSummariesShowPendingWords :
    (∃ (w : Nat), w < 32) ∧
    (∃ (w : Nat), w < 24) ∧
    (∃ (rq : Req) (w : Nat), secureReq rq = true ∧ w < 32) ∧
    (∃ (rq : Req) (w : Nat), secureReq rq = true ∧ w < 24) :=
  ⟨⟨31, by decide +kernel⟩,
    ⟨23, by decide +kernel⟩,
    ⟨.zs, 31, by decide +kernel⟩,
    ⟨.zs, 23, by decide +kernel⟩⟩

theorem witness_CountersSnapshotsAndPinsAct :
    (∃ (s : State) (b : Fin 19) (c : Fin 8) (v : Nat), s.halted = false ∧ s.perfLive b = true ∧ s.pcOwn b c = true ∧
      2 ^ 48 ≤ (s.pcOf b c).toNat + v ∧ v < 2 ^ 48) ∧
    (∃ (s : State) (b : Fin 19) (v : Nat), s.halted = false ∧ s.perfOn b = true ∧ 2 ^ 64 ≤ (s.perfB b).cyc.toNat + v ∧ v < 2 ^ 64) ∧
    (∃ (s : State) (b : Fin 19) (c : Fin 9), ((s.perfOn b = false ∨ ((c : Nat) < 8 ∧ (s.perfLive b = false ∨ s.pcOwn b c = false))))) ∧
    (∃ (s : State), s.halted = false ∧ s.mode.started = true ∧ s.time.running = true ∧ s.bit F.PERF_SNAP_CFG_SNAP_EN 0 = true ∧
      s.clk.snapAt < s.snapTime) ∧
    (∃ (s : State), s.snapTime ≤ s.clk.snapAt) ∧
    (∃ (s : State), s.halted = false ∧ s.opMode ≠ modeCold ∧ s.aged s.clk.ledAt 20000000 = true) ∧
    (∃ (s : State), ((s.opMode = modeCold ∨ s.aged s.clk.ledAt 20000000 = false))) ∧
    (∃ (c : Fin 5), (c : Nat) ≠ 1) :=
  ⟨⟨tune [setB F.PERF_CTL_EN 4 true, modPerf 4 fun P => { P with pc := [(7, 5)] }], 4, 7, 2 ^ 48 - 1, by decide +kernel⟩,
    ⟨tune [setB F.PERF_CTL_EN 4 true, modPerf 4 fun P => { P with cyc := 5 }], 4, 2 ^ 64 - 1, by decide +kernel⟩,
    ⟨dev, 4, 8, by decide +kernel⟩,
    ⟨tune [setB F.PERF_SNAP_CFG_SNAP_EN 0 true, modTime fun t => { t with acc := 2 ^ 80 }], by decide +kernel⟩,
    ⟨tune [setB F.PERF_SNAP_CFG_SNAP_EN 0 true, modClk fun c => { c with snapAt := 0 }], by decide +kernel⟩,
    ⟨dev, by decide +kernel⟩,
    ⟨State.reset, by decide +kernel⟩,
    ⟨3, by decide +kernel⟩⟩

/-! ### Witnesses of the statements about every command or every step -/

theorem witness_StepRunsTheFrontCommand : ∃ s : State, s.pending = [] := ⟨State.reset, rfl⟩

theorem witness_EveryStepKeepsTheStateWellFormed :
    ∃ s t : State, s.wf = true ∧ step s = .next t :=
  ⟨{ dev with pending := [.heartbeat .pf0 0x20000000] }, _, by decide +kernel, rfl⟩

theorem witness_HistoryIsNeverUndone : ∃ (c : Instr) (s t : State), exec c s = .next t := ⟨.heartbeat .pf0 0x20000000, dev, _, rfl⟩

theorem witness_HistoryIsNeverUndone_fuses :
    ∃ s : State, s.otp.revoked 2 = true ∧ s.otp.fieldA ≠ 0 ∧ s.otp.fieldB ≠ 0 :=
  ⟨tune [.upd (.burn { dev.otp with revoke := 0x10#8, fieldA := 1, fieldB := 2 })], by decide +kernel⟩

theorem witness_TheLockHoldsUntilReset : ∃ s t : State, s.cfgLock = true ∧ step s = .next t :=
  ⟨{ tune [setB F.SEC_LOCK_CFG_LOCK 0 true] with pending := [.por true] }, _, by decide +kernel, rfl⟩

theorem witness_DataPathFrames : ∃ (c : Instr) (P : List Part) (R : List Reg) (s t : State),
    framePath c = some (P, R) ∧ exec c s = .next t := ⟨.bufferFree 8 1 12345 0 true, _, _, carvedDev [], _, rfl, rfl⟩

theorem witness_TableFrames : ∃ (c : Instr) (P : List Part) (R : List Reg) (s t : State),
    frameTable c = some (P, R) ∧ exec c s = .next t := ⟨.claim .pf0 0x80000000, _, _, dev, _, rfl, rfl⟩

theorem witness_TableFrames_flat : ∃ (ring : Fin 2) (b : List Byte) (s t : State) (k : Nat),
    flatAway (cmdOf b) k ∧ exec (.write ring b) s = .next t :=
  ⟨0, cmdB opWrite 2 510 2 (List.replicate 32 0xA5#8), hostDev [], _, flatKey 3 0 510, by
    intro _ copy i hc hi
    have h : (cmdOf (cmdB opWrite 2 510 2 (List.replicate 32 0xA5#8))).cnt = 2 ∧
      (cmdOf (cmdB opWrite 2 510 2 (List.replicate 32 0xA5#8))).table = 2 ∧
      (cmdOf (cmdB opWrite 2 510 2 (List.replicate 32 0xA5#8))).index = 510 ∧
      (cmdOf (cmdB opWrite 2 510 2 (List.replicate 32 0xA5#8))).op ≠ opPselWrite := by decide +kernel
    rw [if_neg h.2.2.2, h.2.1, h.2.2.1]
    rw [h.1] at hi
    simp only [flatKey]; omega, rfl⟩

theorem witness_TableFrames_host :
    (∃ (ring : Fin 2) (b : List Byte) (s t : State) (k : Nat), k < leAt (cmdOf b).payload 0 8 ∧ exec (.read ring b) s = .next t) ∧
    (∃ (ring : Fin 2) (d : List Byte) (x : Option (List Byte)) (s t : State), exec (.dmaDescriptorExecute ring d x) s = .next t) ∧
    (∃ (ref : Option (List Byte)) (s t : State), s.dma.finds ≠ [] ∧ exec (.findingConfirm ref) s = .next t) ∧
    (∃ (q : Fin 16) (io : List (List Byte × List Byte)) (s t : State) (k : Nat), exec (.hostPacketMoverDone q io) s = .next t ∧
      (∀ x ∈ io, k < leAt x.1 0 8 ∨ leAt x.1 0 8 + leAt x.1 8 2 ≤ k) ∧
      (∀ i, i < io.length → k < s.hqBase q + 32 * ((s.hqHead q + i) % s.hqSize q) + 12 ∨
        s.hqBase q + 32 * ((s.hqHead q + i) % s.hqSize q) + 32 ≤ k)) :=
  ⟨⟨0, cmdB opRead 2 4 2 (leBytes 8 0x1000 ++ [1] ++ List.replicate 7 0), hostDev [], _, 5, by decide +kernel, rfl⟩,
    ⟨0, descB 16, some (cmdB opNop 0 0 0 []), hostDev [], _, rfl⟩,
    ⟨none, tune [modDma fun d => { d with finds := [{ table := 2, place := 17, index := 511 }] }], _, by decide +kernel, rfl⟩,
    ⟨9, [(leBytes 8 4096 ++ leBytes 2 64 ++ List.replicate 22 0, [])],
      hostDev [setB F.HQ_CFG_EN 9 true, modDma fun d => { d with mover := [(9, 1)], d2h := [(1, [(3, frm1)])] }], _, 5,
      rfl, by decide +kernel, by decide +kernel⟩⟩

theorem witness_TimeFrames : ∃ (c : Instr) (P : List Part) (R : List Reg) (s t : State),
    frameTime c = some (P, R) ∧ exec c s = .next t := ⟨.forceHoldover .zs 2, _, _, dev, _, rfl, rfl⟩

theorem witness_ManagementFrames : ∃ (c : Instr) (P : List Part) (R : List Reg) (s t : State),
    frameManage c = some (P, R) ∧ exec c s = .next t := ⟨.evtTest .pf0 0x800006FF, _, _, dev, _, rfl, rfl⟩

theorem witness_ManagementFrames_setup : ∃ s t : State, s.mode.setup ≠ 3 ∧ exec .setupComplete s = .next t :=
  ⟨dev, _, by decide +kernel, rfl⟩

theorem witness_PortCommandsTouchTheirPort : ∃ (c : Instr) (p : Nat) (s t : State),
    onePort c = some p ∧ exec c s = .next t := ⟨.frameSfdCapture 511 0 fr1 100, _, upDev [], _, rfl, rfl⟩

theorem witness_CountersSnapshotsAndPinsAct_balls : ∃ l i side : Nat, l < 512 ∧ i < 128 ∧ side < 4 := ⟨511, 127, 3, by decide⟩

theorem witness_PortsOfASplit : ∃ (s : State) (p l : Nat), s.starts p = true ∧ l ∈ s.lanesOf p :=
  ⟨tune [setF F.STALL_CFG_SPLIT 3 11], 24, 24, by decide +kernel⟩

end Sys2Proof.Tests
end

section
/-!
PROOF. Every primitive write keeps the tables canonical and the register words within their fields, so every step does (R5, R6).
-/
namespace Sys2Proof.Machine

/-- The parts of a well-formed state, by name. -/
structure State.WellFormed (s : State) : Prop where
  regs : tabWf s.regs regDefault = true
  regWords : wordsOk s.regs = true
  liveWords : (s.live.all fun e => (e.2.getD 0) &&& regMask (keyReg e.1) == e.2.getD 0) = true
  live : tabWf s.live (fun _ => none) = true
  cnt : tabWf s.cnt (fun _ => 0) = true
  stalls : tabWf s.stalls (fun _ => {}) = true
  ports : tabWf s.ports (fun _ => {}) = true
  lanes : tabWf s.lanes (fun _ => {}) = true
  aisles : tabWf s.aisles (fun _ => {}) = true
  qtrs : tabWf s.qtrs (fun _ => {}) = true
  mbx : tabWf s.mbx (fun _ => {}) = true
  perf : tabWf s.perf (fun _ => {}) = true
  bufs : tabWf s.bufs (fun _ => {}) = true
  flat : tabWf s.flat (fun _ => 0) = true
  tiles : tabWf s.tiles (fun _ => {}) = true
  copies : tabWf s.copies (fun _ => {}) = true
  rebuild : tabWf s.rebuild (fun _ => {}) = true
  hostWr : tabWf s.hostWr (fun _ => 0) = true
  nvmMem : tabWf s.nvmMem (fun _ => 0xFF) = true
  occ : tabWf s.occ (fun _ => 0) = true
  msi : tabWf s.msi (fun _ => {}) = true
  bfd : tabWf s.bfd (fun _ => {}) = true
  stm : tabWf s.stm (fun _ => 0) = true

theorem wf_iff (s : State) : s.wf = true ↔ s.WellFormed := by
  simp only [State.wf, Bool.and_eq_true]
  constructor
  · rintro ⟨⟨⟨⟨⟨⟨⟨⟨⟨⟨⟨⟨⟨⟨⟨⟨⟨⟨⟨⟨⟨⟨h1, h2⟩, h3⟩, h4⟩, h5⟩, h6⟩, h7⟩, h8⟩, h9⟩, h10⟩, h11⟩, h12⟩, h13⟩, h14⟩, h15⟩, h16⟩, h17⟩, h18⟩, h19⟩, h20⟩,
      h21⟩, h22⟩, h23⟩
    exact ⟨h1, h2, h3, h4, h5, h6, h7, h8, h9, h10, h11, h12, h13, h14, h15, h16, h17, h18, h19, h20, h21, h22, h23⟩
  · intro h
    simp only [h.regs, h.regWords, h.liveWords, h.live, h.cnt, h.stalls, h.ports, h.lanes, h.aisles, h.qtrs, h.mbx, h.perf, h.bufs, h.flat,
      h.tiles, h.copies, h.rebuild, h.hostWr, h.nvmMem, h.occ, h.msi, h.bfd, h.stm, and_self]

theorem and_mask_idem (w m : Word) : w &&& m &&& m = w &&& m := by rw [BitVec.and_assoc, BitVec.and_self]

/-- A masked word put in the register table is one its fields can hold. -/
theorem wordsOk_tabPut (t : Tab Word) (d : Word) (r : Reg) (n : Nat) (w : Word) (h : wordsOk t = true) :
    wordsOk (tabPut t d (regKey r n) (w &&& regMask r)) = true := by
  simp only [wordsOk, List.all_eq_true] at h ⊢
  intro e he
  rcases mem_tabPut _ _ _ _ _ he with rfl | he
  · simp [and_mask_idem]
  · exact h e he

/-- A masked word put in the table of words in effect is one its fields can hold. -/
theorem liveWords_tabPut (t : Tab (Option Word)) (r : Reg) (n : Nat) (w : Option Word)
    (h : (t.all fun e => (e.2.getD 0) &&& regMask (keyReg e.1) == e.2.getD 0) = true) :
    ((tabPut t none (regKey r n) (w.map (· &&& regMask r))).all fun e => (e.2.getD 0) &&& regMask (keyReg e.1) == e.2.getD 0) = true := by
  simp only [List.all_eq_true] at h ⊢
  intro e he
  rcases mem_tabPut _ _ _ _ _ he with rfl | he
  · cases w <;> simp [and_mask_idem]
  · exact h e he

/-- Entries that a clearing leaves were there before. -/
theorem all_tabKeep {α : Type} (t : Tab α) (p : Nat → Bool) (q : Nat × α → Bool) (h : t.all q = true) : (tabKeep t p).all q = true := by
  rw [List.all_eq_true] at h ⊢
  exact fun e he => h e (List.mem_of_mem_filter he)

/-- Clearing a part of a table keeps the state well formed. -/
theorem wellFormed_keep (t : TabId) (p : Nat → Bool) (s : State) (h : s.WellFormed) : (applyUpd (.keep t p) s).WellFormed := by
  cases t with
  | regs => exact { h with regs := tabWf_tabKeep _ _ _ h.regs, regWords := all_tabKeep _ _ _ h.regWords }
  | live => exact { h with live := tabWf_tabKeep _ _ _ h.live, liveWords := all_tabKeep _ _ _ h.liveWords }
  | cnt => exact { h with cnt := tabWf_tabKeep _ _ _ h.cnt }
  | stalls => exact { h with stalls := tabWf_tabKeep _ _ _ h.stalls }
  | ports => exact { h with ports := tabWf_tabKeep _ _ _ h.ports }
  | lanes => exact { h with lanes := tabWf_tabKeep _ _ _ h.lanes }
  | aisles => exact { h with aisles := tabWf_tabKeep _ _ _ h.aisles }
  | qtrs => exact { h with qtrs := tabWf_tabKeep _ _ _ h.qtrs }
  | mbx => exact { h with mbx := tabWf_tabKeep _ _ _ h.mbx }
  | perf => exact { h with perf := tabWf_tabKeep _ _ _ h.perf }
  | bufs => exact { h with bufs := tabWf_tabKeep _ _ _ h.bufs }
  | flat => exact { h with flat := tabWf_tabKeep _ _ _ h.flat }
  | tiles => exact { h with tiles := tabWf_tabKeep _ _ _ h.tiles }
  | copies => exact { h with copies := tabWf_tabKeep _ _ _ h.copies }
  | rebuild => exact { h with rebuild := tabWf_tabKeep _ _ _ h.rebuild }
  | occ => exact { h with occ := tabWf_tabKeep _ _ _ h.occ }
  | msi => exact { h with msi := tabWf_tabKeep _ _ _ h.msi }
  | bfd => exact { h with bfd := tabWf_tabKeep _ _ _ h.bfd }
  | stm => exact { h with stm := tabWf_tabKeep _ _ _ h.stm }

/-- The write of a register word as a read returns it keeps the register table canonical. -/
theorem tabWf_putReg (t : Tab Word) (r : Reg) (n : Nat) (w : Word) (h : tabWf t regDefault = true) :
    tabWf (tabPut t (regReset r n) (regKey r n) w) regDefault = true := by
  have := tabWf_tabPut t regDefault (regKey r n) w h
  rwa [regDefault_regKey] at this

/-- Every primitive write keeps the state well formed. -/
theorem wellFormed_applyUpd (u : Upd) (s : State) (h : s.WellFormed) : (applyUpd u s).WellFormed := by
  cases u with
  | reg r n w => exact { h with regs := tabWf_putReg _ _ _ _ h.regs, regWords := wordsOk_tabPut _ _ _ _ _ h.regWords }
  | live r n w => exact { h with live := tabWf_tabPut _ _ _ _ h.live, liveWords := liveWords_tabPut _ _ _ _ h.liveWords }
  | keep t p => exact wellFormed_keep t p s h
  | cnt k v => exact { h with cnt := tabWf_tabPut _ _ _ _ h.cnt }
  | stall n v => exact { h with stalls := tabWf_tabPut _ _ _ _ h.stalls }
  | port n v => exact { h with ports := tabWf_tabPut _ _ _ _ h.ports }
  | lane n v => exact { h with lanes := tabWf_tabPut _ _ _ _ h.lanes }
  | aisle n v => exact { h with aisles := tabWf_tabPut _ _ _ _ h.aisles }
  | qtr n v => exact { h with qtrs := tabWf_tabPut _ _ _ _ h.qtrs }
  | mbx n v => exact { h with mbx := tabWf_tabPut _ _ _ _ h.mbx }
  | perf n v => exact { h with perf := tabWf_tabPut _ _ _ _ h.perf }
  | buf k v => exact { h with bufs := tabWf_tabPut _ _ _ _ h.bufs }
  | flat k v => exact { h with flat := tabWf_tabPut _ _ _ _ h.flat }
  | tile k v => exact { h with tiles := tabWf_tabPut _ _ _ _ h.tiles }
  | copy k v => exact { h with copies := tabWf_tabPut _ _ _ _ h.copies }
  | rebuild k v => exact { h with rebuild := tabWf_tabPut _ _ _ _ h.rebuild }
  | host a v => exact { h with hostWr := tabWf_tabPut _ _ _ _ h.hostWr }
  | nvmByte a v => exact { h with nvmMem := tabWf_tabPut _ _ _ _ h.nvmMem }
  | occ e v => exact { h with occ := tabWf_tabPut _ _ _ _ h.occ }
  | msi k v => exact { h with msi := tabWf_tabPut _ _ _ _ h.msi }
  | bfd k v => exact { h with bfd := tabWf_tabPut _ _ _ _ h.bfd }
  | stm k v => exact { h with stm := tabWf_tabPut _ _ _ _ h.stm }
  | _ => exact { h with }

/-- Every action keeps the state well formed. -/
theorem wf_run (a : Act) (s : State) (h : s.wf = true) : (run a s).wf = true :=
  run_always (fun s t => s.wf = true → t.wf = true) (fun _ h => h) (fun _ _ _ hst htu h => htu (hst h))
    (fun u s h => (wf_iff _).2 (wellFormed_applyUpd u s ((wf_iff s).1 h))) a s h

/-- A step runs an action on the state without its front command, or, on an empty queue, is idle. -/
theorem step_next (s t : State) (h : step s = .next t) :
    t = s ∨ ∃ c q, s.pending = c :: q ∧ exec c { s with pending := q } = .next t := by
  cases hq : s.pending with
  | nil =>
    have : step s = .next s := by simp [step, hq]
    rw [this] at h
    exact .inl (by cases h; rfl)
  | cons c q => exact .inr ⟨c, q, rfl, by simpa [step, hq, State.rest] using h⟩

/-- Settles O3: no primitive write of a command takes a table out of its canonical form or a word out of its fields. -/
theorem everyStepKeepsTheStateWellFormed : Obligations.EveryStepKeepsTheStateWellFormed := by
  intro s t hs h
  rcases step_next s t h with rfl | ⟨c, q, -, hc⟩
  · exact hs
  · obtain ⟨a, ha⟩ := exec_run c { s with pending := q }
    rw [ha] at hc
    cases hc
    exact wf_run a _ hs

end Sys2Proof.Machine
end

section
/-!
PROOF. Frames (1 of 7): what each action may change, as lists of parts and registers that follow its definition. The lemmas are
many and small: they are elaborated one after another, since a thread for each would take more memory than the check has.
-/
set_option Elab.async false
namespace Sys2Proof.Machine
/-- A set of numbered things as the bits of a number; written so that a frame's inclusion is decided by arithmetic on numbers. -/
def maskOf {α : Type} (ix : α → Nat) : List α → Nat
  | [] => 0
  | x :: r => Nat.lor (Nat.pow 2 (ix x)) (maskOf ix r)

/-- One set of numbered things lies within another. -/
def maskSub {α : Type} (ix : α → Nat) (l l' : List α) : Bool := Nat.beq (Nat.land (maskOf ix l) (maskOf ix l')) (maskOf ix l)

/-- One frame lies within another. -/
def frameSub (P : List Part) (R : List Reg) (P' : List Part) (R' : List Reg) : Bool :=
  maskSub Part.ctorIdx P P' && maskSub Reg.ctorIdx R R'

theorem maskSub_iff {α : Type} {ix : α → Nat} {l l' : List α} : maskSub ix l l' = true ↔ maskOf ix l &&& maskOf ix l' = maskOf ix l :=
  ⟨Nat.eq_of_beq_eq_true, fun h => by rw [maskSub]; exact Nat.beq_eq.mpr h⟩

theorem testBit_maskOf {α : Type} (ix : α → Nat) (l : List α) (i : Nat) : (maskOf ix l).testBit i = l.any fun x => ix x == i := by
  induction l with
  | nil => simp [maskOf]
  | cons x r ih =>
    have : maskOf ix (x :: r) = 2 ^ ix x ||| maskOf ix r := rfl
    rw [this, Nat.testBit_or, ih, Nat.testBit_two_pow, List.any_cons]
    rfl

theorem mem_of_maskOf {α : Type} (ix : α → Nat) (hix : ∀ x y, ix x = ix y → x = y) (l l' : List α)
    (h : maskSub ix l l' = true) (x : α) (hx : x ∈ l) : x ∈ l' := by
  rw [maskSub_iff] at h
  have hb : (maskOf ix l).testBit (ix x) = true := by
    rw [testBit_maskOf, List.any_eq_true]
    exact ⟨x, hx, by simp⟩
  rw [← h, Nat.testBit_and, Bool.and_eq_true, testBit_maskOf, testBit_maskOf, List.any_eq_true, List.any_eq_true] at hb
  obtain ⟨-, y, hy, hyx⟩ := hb
  rwa [hix y x (by simpa using hyx)] at hy

theorem part_ofNat_ctorIdx (x : Part) : Part.ofNat x.ctorIdx = x := by cases x <;> rfl

theorem part_ctorIdx_inj (x y : Part) (h : x.ctorIdx = y.ctorIdx) : x = y := by
  rw [← part_ofNat_ctorIdx x, h, part_ofNat_ctorIdx]

theorem reg_ctorIdx_inj (r q : Reg) (h : r.ctorIdx = q.ctorIdx) : r = q := by
  rw [← ofNat_ctorIdx r, h, ofNat_ctorIdx]

theorem frameSub_iff {P P' : List Part} {R R' : List Reg} (h : frameSub P R P' R' = true) :
    (∀ x, P.contains x = true → P'.contains x = true) ∧ ∀ r, R.contains r = true → R'.contains r = true := by
  simp only [frameSub, Bool.and_eq_true] at h
  exact ⟨fun x hx => by simpa using mem_of_maskOf _ part_ctorIdx_inj _ _ h.1 x (by simpa using hx),
    fun r hr => by simpa using mem_of_maskOf _ reg_ctorIdx_inj _ _ h.2 r (by simpa using hr)⟩

theorem frameSub_trans {P P' P'' : List Part} {R R' R'' : List Reg} (h : frameSub P R P' R' = true) (h' : frameSub P' R' P'' R'' = true) :
    frameSub P R P'' R'' = true := by
  simp only [frameSub, Bool.and_eq_true, maskSub_iff] at *
  exact ⟨by rw [← h.1, Nat.and_assoc, h'.1], by rw [← h.2, Nat.and_assoc, h'.2]⟩

/-- Every write of an action stays within a frame. A wrapper of `Act.framed` that no reduction opens: proofs about frames go by the
rules below, one for each way of building an action. -/
structure Act.Framed (P : List Part) (R : List Reg) (a : Act) : Prop where
  within : a.framed P R

/-- Each action of a list stays within a frame. -/
def Act.allFramed (P : List Part) (R : List Reg) : List Act → Prop
  | [] => True
  | a :: l => a.Framed P R ∧ Act.allFramed P R l

namespace Act.Framed

variable {P : List Part} {R : List Reg} {a b : Act}

theorem skip : Act.skip.Framed P R := ⟨trivial⟩

theorem upd {u : Upd} (h : inFrame P R u) : (Act.upd u).Framed P R := ⟨h⟩

theorem seq (ha : a.Framed P R) (hb : b.Framed P R) : (Act.seq a b).Framed P R := ⟨ha.within, hb.within⟩

theorem look {f : State → Act} (h : ∀ s, (f s).Framed P R) : (Act.look f).Framed P R := ⟨fun s => (h s).within⟩

theorem acts {l : List Act} (h : allFramed P R l) : (Machine.acts l).Framed P R := by
  induction l with
  | nil => exact ⟨trivial⟩
  | cons a l ih => exact ⟨h.1.within, (ih h.2).within⟩

theorem when {c : Bool} (h : a.Framed P R) : (Machine.when c a).Framed P R := ⟨within_when c a h.within⟩

theorem each {α : Type} {l : List α} {f : α → Act} (h : ∀ x ∈ l, (f x).Framed P R) : (Machine.each l f).Framed P R :=
  ⟨within_each l f fun x hx => (h x hx).within⟩

theorem ite {c : Prop} [Decidable c] (ha : a.Framed P R) (hb : b.Framed P R) : (if c then a else b).Framed P R := by split <;> assumption

theorem ite_snd {α : Type} {x y : α × Act} {c : Prop} [Decidable c] (hx : x.2.Framed P R) (hy : y.2.Framed P R) :
    (if c then x else y).2.Framed P R := by split <;> assumption

/-- A frame may be widened. -/
theorem widen {P' : List Part} {R' : List Reg} (h : a.Framed P R) (hs : frameSub P R P' R' = true := by decide) : a.Framed P' R' :=
  ⟨framed_mono a h.within (frameSub_iff hs).1 (frameSub_iff hs).2⟩

/-- A frame within the one that a hypothesis widens. -/
theorem into {P' P'' : List Part} {R' R'' : List Reg} (h : a.Framed P R) (h' : frameSub P' R' P'' R'' = true)
    (hs : frameSub P R P' R' = true := by decide) : a.Framed P'' R'' := h.widen (frameSub_trans hs h')

/-- What a framed action leaves alone. -/
theorem run (h : a.Framed P R) (s : State) : Only P s (Machine.run a s) ∧ OnlyRegs R s (Machine.run a s) := run_framed a h.within s

end Act.Framed

/-! ### The frames of the shared operations -/

theorem setF_own (f : Fld) (n v : Nat) : (setF f n v).Framed [.regs, .live] [f.reg] := ⟨setF_framed f n v rfl rfl (by simp)⟩
theorem setF_at (r : Reg) (lo w n v : Nat) : (setF ⟨r, lo, w⟩ n v).Framed [.regs, .live] [r] := setF_own ⟨r, lo, w⟩ n v
theorem setB_at (r : Reg) (lo w n : Nat) (b : Bool) : (setB ⟨r, lo, w⟩ n b).Framed [.regs, .live] [r] := setF_own ⟨r, lo, w⟩ n _
theorem reg_own (r : Reg) (n : Nat) (w : Word) : (Act.upd (.reg r n w)).Framed [.regs] [r] := .upd ⟨rfl, by simp⟩
theorem live_own (r : Reg) (n : Nat) (w : Option Word) : (Act.upd (.live r n w)).Framed [.live] [r] := .upd ⟨rfl, by simp⟩
theorem setB_own (f : Fld) (n : Nat) (b : Bool) : (setB f n b).Framed [.regs, .live] [f.reg] := setF_own f n _
theorem setFHw_own (f : Fld) (n v : Nat) : (setFHw f n v).Framed [.regs, .live] [f.reg] := by
  refine .look fun _ => ?_
  split
  · exact setF_own f n v
  · exact .upd ⟨rfl, by simp⟩
theorem addSat_own (f : Fld) (n k : Nat) : (addSat f n k).Framed [.regs, .live] [f.reg] := .look fun _ => setF_own f n _
theorem addMod_own (f : Fld) (n k : Nat) : (addMod f n k).Framed [.regs, .live] [f.reg] := .look fun _ => setF_own f n _
theorem stageF_own (f : Fld) (n v : Nat) : (stageF f n v).Framed [.regs, .live] [f.reg] := ⟨stageF_framed f n v rfl rfl (by simp)⟩
theorem setReg_own (r : Reg) (n : Nat) (w : Word) : (setReg r n w).Framed [.regs, .live] [r] :=
  .seq (.upd ⟨rfl, by simp⟩) (.upd ⟨rfl, by simp⟩)
theorem each_setReg_own (l : List Reg) (n : Nat) (w : Reg → Word) : (each l fun r => setReg r n (w r)).Framed [.regs, .live] l :=
  .each fun r hr => ⟨framed_mono _ (setReg_own r n (w r)).within (fun _ h => h) fun q hq => by simp at hq ⊢; exact hq ▸ hr⟩
theorem clearStatus_own (r : Reg) (w : Nat) (v : Word) : (clearStatus r w v).Framed [.regs] [r] := .look fun _ => reg_own _ _ _
theorem capture_own (x y : Reg) (addr : Nat) (w : Word) : (capture x y addr w).Framed [.regs] [x, y] := ⟨capture_framed x y addr w⟩
theorem raise_own (f : Fld) (n : Nat) : (raise f n).Framed occurParts (f.reg :: occurRegs) := ⟨raise_framed f n⟩
theorem raiseBit_own (r : Reg) (n b : Nat) : (raiseBit r n b).Framed occurParts (r :: occurRegs) := ⟨raise_framed _ _⟩
theorem sendMsi_own (pf vec : Nat) : (sendMsi pf vec).Framed occurParts occurRegs := ⟨sendMsi_framed pf vec⟩
theorem deliver_own (w : Nat) : (deliver w).Framed occurParts occurRegs := ⟨deliver_framed w⟩
theorem occur_own (e : Nat) : (occur e).Framed occurParts occurRegs := ⟨occur_framed e⟩
theorem lockedWrite_own (req : Req) (addr : Nat) : (lockedWrite req addr).Framed (.evt :: occurParts)
    (.SYS_LOCKED_WR :: .SYS_LOCKED_WR_INFO :: .SYS_EVT_CAUSE :: occurRegs) := ⟨lockedWrite_framed req addr⟩
theorem busError_own (req : Req) (addr kind : Nat) (wr : Bool) : (busError req addr kind wr).Framed (.evt :: occurParts)
    (.SYS_BUS_ERR :: .SYS_BUS_ERR_INFO :: .SYS_EVT_CAUSE :: occurRegs) := ⟨busError_framed req addr kind wr⟩
theorem rejectReport_own (b : Blk) (code : Nat) : (rejectReport b code).Framed occurParts (b.regs ++ occurRegs) :=
  ⟨rejectReport_framed b code⟩
theorem reject_own (b : Blk) (req : Req) (addr code vid : Nat) : (reject b req addr code vid).Framed (.evt :: occurParts)
    (.SYS_REJECT_ADDR :: .SYS_REJECT_INFO :: (b.regs ++ occurRegs)) := ⟨reject_framed b req addr code vid⟩
theorem reject3_own (b : Blk) (req : Req) (r : Reg) (n : Nat) : (reject3 b req r n).Framed (.evt :: occurParts)
    (.SYS_REJECT_ADDR :: .SYS_REJECT_INFO :: (b.regs ++ occurRegs)) := reject_own _ _ _ _ _
theorem writeFields_own (req : Req) (r : Reg) (n : Nat) (v : Word) : (writeFields req r n v).Framed (.evt :: occurParts)
    (r :: .SYS_LOCKED_WR :: .SYS_LOCKED_WR_INFO :: .SYS_EVT_CAUSE :: occurRegs) := ⟨writeFields_framed req r n v⟩
theorem applyFields_own (r : Reg) (n : Nat) (p : FieldInfo → Bool) : (applyFields r n p).Framed [.live] [r] := ⟨applyFields_framed r n p⟩

theorem reject_stall (k : Nat) (req : Req) (addr code vid : Nat) : (reject (.stall k) req addr code vid).Framed (.evt :: occurParts)
    (.SYS_REJECT_ADDR :: .SYS_REJECT_INFO :: .STALL_STATUS :: .STALL_EVT_CAUSE :: occurRegs) := reject_own (.stall _) _ _ _ _
theorem reject_qtr (k : Nat) (req : Req) (addr code vid : Nat) : (reject (.qtr k) req addr code vid).Framed (.evt :: occurParts)
    (.SYS_REJECT_ADDR :: .SYS_REJECT_INFO :: .QTR_STATUS :: .QTR_EVT_CAUSE :: occurRegs) := reject_own (.qtr _) _ _ _ _
theorem reject_srch (k : Nat) (req : Req) (addr code vid : Nat) : (reject (.srch k) req addr code vid).Framed (.evt :: occurParts)
    (.SYS_REJECT_ADDR :: .SYS_REJECT_INFO :: .AISLE_SRCH_STATUS :: .AISLE_SRCH_EVT_CAUSE :: occurRegs) := reject_own (.srch _) _ _ _ _
theorem reject_mc (k : Nat) (req : Req) (addr code vid : Nat) : (reject (.mc k) req addr code vid).Framed (.evt :: occurParts)
    (.SYS_REJECT_ADDR :: .SYS_REJECT_INFO :: .AISLE_MC_STATUS :: .AISLE_MC_EVT_CAUSE :: occurRegs) := reject_own (.mc _) _ _ _ _
theorem reject_timePort (k : Nat) (req : Req) (addr code vid : Nat) : (reject (.timePort k) req addr code vid).Framed (.evt :: occurParts)
    (.SYS_REJECT_ADDR :: .SYS_REJECT_INFO :: .TIME_STATUS :: .TIME_PORT_EVT_CAUSE :: occurRegs) := reject_own (.timePort _) _ _ _ _

/-- The registers a reject of a control store changes. -/
def mcBlkRegs : List Reg := .AISLE_MC_STATUS :: .AISLE_MC_EVT_CAUSE :: .PE_STATUS :: .PE_EVT_CAUSE :: .SYS_REJECT_ADDR ::
  .SYS_REJECT_INFO :: occurRegs

theorem reject_mcBlk (k : Nat) (req : Req) (addr code vid : Nat) : (reject (mcBlk k) req addr code vid).Framed (.evt ::
  occurParts) mcBlkRegs := by
  unfold mcBlk; split; exacts [(reject_mc _ _ _ _ _).widen, (reject_own _ _ _ _ _).widen]

theorem reject3_mcBlk (k : Nat) (req : Req) (r : Reg) (n : Nat) : (reject3 (mcBlk k) req r n).Framed (.evt :: occurParts) mcBlkRegs :=
  reject_mcBlk _ _ _ _ _

/-- The registers a reject of a mailbox operation changes. -/
def vidBlkRegs : List Reg := .SYS_STATUS :: .SYS_EVT_CAUSE :: .STALL_STATUS :: .STALL_EVT_CAUSE :: .AISLE_MC_STATUS :: .AISLE_MC_EVT_CAUSE
  :: .PE_STATUS :: .PE_EVT_CAUSE :: .SCH_STATUS :: .SCH_EVT_CAUSE :: .TIME_STATUS :: .TIME_SVC_EVT_CAUSE :: .DMA_STATUS :: .DMA_EVT_CAUSE
  :: .SEC_STATUS :: .SEC_EVT_CAUSE :: .SHR_STATUS :: .SHR_EVT_CAUSE :: .SYS_REJECT_ADDR :: .SYS_REJECT_INFO :: occurRegs

theorem reject_vidBlk (v i : Nat) (req : Req) (addr code vid : Nat) :
    (reject (vidBlk v i) req addr code vid).Framed (.evt :: occurParts) vidBlkRegs := by
  unfold vidBlk
  split_ifs
  · exact (reject_stall _ _ _ _ _).widen
  · exact (reject_mc _ _ _ _ _).widen
  all_goals exact (reject_own _ _ _ _ _).widen

theorem count_own (vid idx c k : Nat) : (count vid idx c k).Framed [.cnt] [] := .look fun _ => .upd rfl

theorem emit_own (o : Out) : (emit o).Framed [.out] [] := .upd rfl
theorem modMsi_own (k : Nat) (f : Msi → Msi) : (modMsi k f).Framed [.msi] [] := .look fun _ => .upd rfl
theorem modEvt_own (f : EvtS → EvtS) : (modEvt f).Framed [.evt] [] := .look fun _ => .upd rfl

theorem draw_own {P : List Part} {R : List Reg} {k : Nat → Act} (hk : ∀ v, (k v).Framed P R)
    (hs : frameSub [.fresh] [] P R = true := by decide) : (draw k).Framed P R :=
  ⟨draw_framed k ((frameSub_iff hs).1 _ rfl) fun v => (hk v).within⟩

theorem onWrite_own {P : List Part} {R : List Reg} {req : Req} {r : Reg} {n : Nat} {k : Req → Act} (hk : ∀ q, (k q).Framed P R)
    (hs : frameSub (.evt :: occurParts) (.SYS_BUS_ERR :: .SYS_BUS_ERR_INFO :: .SYS_EVT_CAUSE :: occurRegs) P R = true := by decide) :
    (onWrite req r n k).Framed P R :=
  ⟨onWrite_framed req r n k (fun q => (hk q).within) (frameSub_iff hs).1 (frameSub_iff hs).2⟩

/-! ### Registers that several operations change -/

/-- The registers that `onSecWrite` changes. -/
def accessRegs : List Reg := .SYS_BUS_ERR :: .SYS_BUS_ERR_INFO :: .SYS_EVT_CAUSE :: occurRegs

/-- The registers that `setWindow` changes. -/
def setWindowRegs : List Reg := .ASSAY_STATUS :: .QTR_ASSAY_EVT_CAUSE :: .SYS_MODE :: .SYS_MODE_EVT_CAUSE :: occurRegs

/-- The registers that `leaveUp` changes. -/
def leaveRegs : List Reg := .FLAP_CNT :: .LANE_EQ_STATUS :: .PORT_STATE :: .SHR_EVT_CAUSE :: .SWC_PORT_HDRM :: .SWC_SHARED_FREE ::
    .SWC_STATUS :: .TIME_DPLL_STATUS :: .TIME_PORT_CAL_STATUS :: .TIME_PORT_PTP_STATUS :: occurRegs

/-- The registers that `freeReq` changes. -/
def freeRegs : List Reg := .PERF_STATUS :: .SWC_DESC_FREE :: .SWC_EVT_CAUSE :: .SWC_ILLFREE_CAP0 :: .SWC_ILLFREE_CAP1 :: .SWC_POOL_FREE ::
    .SWC_PORT_STATE :: .SWC_SHARED_FREE :: .SWC_STATUS :: .SYS_MODE :: .SYS_MODE_EVT_CAUSE :: occurRegs

/-- The registers that `pwrRequest` changes. -/
def pwrRequestRegs : List Reg := .AISLE_PARSE_CFG :: .AISLE_SRCH_EVT_CAUSE :: .AISLE_SRCH_STATUS :: .SYS_EPOCH :: .SYS_EPOCH_APPLIED0 ::
    .SYS_EPOCH_APPLIED1 :: .SYS_EPOCH_APPLIED2 :: .SYS_EVT_CAUSE :: .SYS_MODE :: .SYS_MODE_EVT_CAUSE :: .SYS_REJECT_ADDR ::
    .SYS_REJECT_INFO :: .SYS_STATUS :: occurRegs

/-- The registers that `actionTry` changes. -/
def actionTryRegs : List Reg := .AISLE_REBUILD_CTL :: .AISLE_REBUILD_STATUS :: .AISLE_SRCH_EVT_CAUSE :: .AISLE_SRCH_STATUS ::
    .AISLE_TILE_CFG :: .LANE_EQ_STATUS :: .PORT_STATE :: .SHR_AVS_TARGET :: .SHR_EVT_CAUSE :: .STALL_EVT_CAUSE :: .STALL_STATUS ::
    .SYS_LOCKED_WR :: .SYS_LOCKED_WR_INFO :: .SYS_REJECT_ADDR :: .SYS_REJECT_INFO :: .TIME_PORT_CAL_STATUS :: accessRegs

/-- The registers that `microwordExecute` changes. -/
def microwordExecuteRegs : List Reg := .AISLE_MC_EVT_CAUSE :: .AISLE_MC_STATUS :: .FLAP_CNT :: .LANE_EQ_STATUS :: .PE_EVT_CAUSE ::
    .PE_STATUS :: .PORT_STATE :: .SHR_EVT_CAUSE :: .SWC_PORT_HDRM :: .SYS_EPOCH_APPLIED0 :: .SYS_EPOCH_APPLIED1 :: .SYS_EPOCH_APPLIED2 ::
    .TIME_DPLL_STATUS :: .TIME_PORT_CAL_STATUS :: .TIME_PORT_PTP_STATUS :: freeRegs

/-- The registers that `mbxRun` changes. -/
def mbxRunRegs : List Reg := .AISLE_MC_EVT_CAUSE :: .AISLE_MC_STATUS :: .BWM_RX_MAX :: .BWM_TX_MAX :: .DMA_EVT_CAUSE :: .DMA_STATUS ::
    .MBX_CTL :: .MBX_DATA :: .PC_CFG :: .PC_THR :: .PE_EVT_CAUSE :: .PE_STATUS :: .SCH_EVT_CAUSE :: .SCH_STATUS :: .SEC_EVT_CAUSE ::
    .SEC_STATUS :: .SHR_EVT_CAUSE :: .SHR_STATUS :: .STALL_EVT_CAUSE :: .STALL_STATUS :: .SYS_EVT_CAUSE :: .SYS_LOCKED_WR ::
    .SYS_LOCKED_WR_INFO :: .SYS_REJECT_ADDR :: .SYS_REJECT_INFO :: .SYS_STATUS :: .TIME_STATUS :: .TIME_SVC_EVT_CAUSE :: occurRegs


/-! ### Machine/Ops.lean -/

theorem modStall_framed (n : Nat) (f : StallS → StallS) : (modStall n f).Framed [.stalls] [] := .look fun _ => .upd rfl

theorem modPort_framed (n : Nat) (f : PortS → PortS) : (modPort n f).Framed [.ports] [] := .look fun _ => .upd rfl

theorem modLane_framed (n : Nat) (f : LaneS → LaneS) : (modLane n f).Framed [.lanes] [] := .look fun _ => .upd rfl

theorem modAisle_framed (n : Nat) (f : AisleS → AisleS) : (modAisle n f).Framed [.aisles] [] := .look fun _ => .upd rfl

theorem modQtr_framed (n : Nat) (f : QtrS → QtrS) : (modQtr n f).Framed [.qtrs] [] := .look fun _ => .upd rfl

theorem modMbx_framed (n : Nat) (f : MbxS → MbxS) : (modMbx n f).Framed [.mbx] [] := .look fun _ => .upd rfl

theorem modPerf_framed (n : Nat) (f : PerfS → PerfS) : (modPerf n f).Framed [.perf] [] := .look fun _ => .upd rfl

theorem modBuf_framed (h : Nat) (f : Buf → Buf) : (modBuf h f).Framed [.bufs] [] := .look fun _ => .upd rfl

theorem modClk_framed (f : ClkS → ClkS) : (modClk f).Framed [.clk] [] := .look fun _ => .upd rfl

theorem modMode_framed (f : ModeS → ModeS) : (modMode f).Framed [.mode] [] := .look fun _ => .upd rfl

theorem modPkts_framed (f : List Packet → List Packet) : (modPkts f).Framed [.pkts] [] := .look fun _ => .upd rfl

theorem modPe_framed (f : PeS → PeS) : (modPe f).Framed [.pe] [] := .look fun _ => .upd rfl

theorem modSwc_framed (f : SwcS → SwcS) : (modSwc f).Framed [.swc] [] := .look fun _ => .upd rfl

theorem modTime_framed (f : TimeS → TimeS) : (modTime f).Framed [.time] [] := .look fun _ => .upd rfl

theorem modDma_framed (f : DmaS → DmaS) : (modDma f).Framed [.dma] [] := .look fun _ => .upd rfl

theorem modNvm_framed (f : NvmS → NvmS) : (modNvm f).Framed [.nvm] [] := .look fun _ => .upd rfl

theorem modSec_framed (f : SecS → SecS) : (modSec f).Framed [.sec] [] := .look fun _ => .upd rfl

theorem modThm_framed (f : ThmS → ThmS) : (modThm f).Framed [.thm] [] := .look fun _ => .upd rfl

theorem modBfd_framed (k : Nat) (f : Bfd → Bfd) : (modBfd k f).Framed [.bfd] [] := .look fun _ => .upd rfl

theorem modRebuild_framed (k : Nat) (f : RebuildS → RebuildS) : (modRebuild k f).Framed [.rebuild] [] := .look fun _ => .upd rfl


/-! ### Machine/PerfBase.lean -/

theorem pcAdd_framed (b fuel n k : Nat) : (pcAdd b fuel n k).Framed [.live, .perf, .regs] [.PERF_STATUS] := by
  induction fuel generalizing n k with
  | zero => exact .skip
  | succ fuel ih => exact .look fun _ => .acts ⟨(modPerf_framed _ _).widen, .when (.acts ⟨(setF_at _ _ _ _ _).widen, .when (ih _ _),
      trivial⟩), trivial⟩

theorem cycAdd_framed (b k : Nat) : (cycAdd b k).Framed [.live, .perf, .regs] [.PERF_STATUS] := .look fun _ =>
  .acts ⟨(modPerf_framed _ _).widen, .when (setB_own _ _ _).widen, trivial⟩

theorem perfEvent_framed (b code : Nat) (port : Option Nat) (v : Nat) : (perfEvent b code port v).Framed [.live, .perf, .regs]
    [.PERF_STATUS] := .look fun _ =>
  .when (.each (fun _ _ => (pcAdd_framed _ _ _ _).widen))

theorem perfBytes_framed (b code : Nat) (port : Option Nat) (v m : Nat) : (perfBytes b code port v m).Framed [.live, .perf, .regs]
    [.PERF_STATUS] := .look fun _ =>
  .when (.each (fun _ _ => (pcAdd_framed _ _ _ _).widen))

theorem perfPorts_framed (b code : Nat) (ports : List Nat) : (perfPorts b code ports).Framed [.live, .perf, .regs] [.PERF_STATUS] :=
  .look fun _ => .when (.each (fun _ _ => .when (pcAdd_framed _ _ _ _).widen))


/-! ### Machine/Flags.lean -/

theorem syncAlert_framed : (syncAlert).Framed [.evt] [] := .look fun _ => .when (modEvt_own _).widen

theorem raisePe_framed (b : Nat) : (raisePe b).Framed occurParts (.PE_EVT_CAUSE :: occurRegs) := (raiseBit_own _ _ _).widen

theorem raiseDma_framed (b : Nat) : (raiseDma b).Framed occurParts (.DMA_EVT_CAUSE :: occurRegs) := (raiseBit_own _ _ _).widen

theorem noteTurned_framed : (noteTurned).Framed [.evt] [] := (modEvt_own _).widen

theorem tellZol_framed (kind : Nat) (words : List Word) : (tellZol kind words).Framed [.out] [] := (emit_own _).widen


/-! ### Machine/Operands.lean -/

theorem coreDo_framed {P : List Part} {R : List Reg} (a : Act) (hs : frameSub [] [] P R = true) (ha : a.Framed P R) :
    (coreDo a).Framed P R := .look fun _ =>
  .when ha

theorem onSecWrite_framed {P : List Part} {R : List Reg} (req : Req) (r : Reg) (n : Nat) (k : Req → Act) (hs : frameSub (.evt ::
    occurParts) accessRegs P R = true) (hk : ∀ x0, (k x0).Framed P R) : (onSecWrite req r n k).Framed P R :=
  onWrite_own (fun _ => .when ((hk _))) (frameSub_trans (by decide) hs)


/-! ### Machine/Ledger.lean -/

theorem putCopy_framed (q : Nat) (c : Copy) : (putCopy q c).Framed [.live, .qtrs, .regs] [.QTR_LDG_STATUS] :=
  .acts ⟨(modQtr_framed _ _).widen, (setF_own _ _ _).widen, (setF_own _ _ _).widen, trivial⟩

theorem insertLedger_framed {P : List Part} {R : List Reg} (q : Nat) (x : LEntry × LEntry) (fail : Act) (hs : frameSub (.cnt :: .qtrs ::
    occurParts) (.QTR_EVT_CAUSE :: .QTR_LDG_STATUS :: occurRegs) P R = true) (hfail : fail.Framed P R) :
    (insertLedger q x fail).Framed P R := by
  refine .look fun _ => .acts ⟨(putCopy_framed _ _).into hs, ?_, trivial⟩
  split
  · exact .when ((raise_own _ _).into hs)
  · exact .acts ⟨(raise_own _ _).into hs, (count_own _ _ _ _).into hs, hfail, trivial⟩
  · exact .skip

theorem qcount_framed (q g c k : Nat) : (qcount q g c k).Framed [.cnt] [] := (count_own _ _ _ _).widen

theorem pushNote_framed (q : Nat) (n : Note) : (pushNote q n).Framed [.qtrs] [] := (modQtr_framed _ _).widen

theorem learnDrop_framed (q : Nat) : (learnDrop q).Framed (.cnt :: occurParts) (.QTR_EVT_CAUSE :: occurRegs) :=
  .acts ⟨(qcount_framed _ _ _ _).widen, (raise_own _ _).widen, trivial⟩

theorem learnDecide_framed (q bd mac port fid tIn : Nat) : (learnDecide q bd mac port fid tIn).Framed (.cnt :: .qtrs :: occurParts)
    (.QTR_EVT_CAUSE :: .QTR_LDG_STATUS :: occurRegs) := by
  refine .look fun _ => ?_
  dsimp only
  split
  · exact .ite .skip (.ite (qcount_framed _ _ _ _).widen (.ite (learnDrop_framed _).widen (modQtr_framed _ _).widen))
  · exact .ite (.when (.acts ⟨(qcount_framed _ _ _ _).widen, (raise_own _ _).widen, trivial⟩)) (.acts ⟨.when (putCopy_framed _ _).widen,
      .when (.ite .skip (.ite (qcount_framed _ _ _ _).widen (.ite (learnDrop_framed _).widen (modQtr_framed _ _).widen))), trivial⟩)

theorem learnCommit_framed (q : Nat) (l : Learn) : (learnCommit q l).Framed (.cnt :: .qtrs :: occurParts)
    (.QTR_EVT_CAUSE :: .QTR_LDG_STATUS :: occurRegs) := by
  refine .look fun s => ?_
  dsimp only
  generalize (s.copyOf q).find 1 (macKey l.bd l.mac) = found
  generalize ((s.copyOf q).insert (learnedEntry (s.copyOf q).gen l.bd l.mac l.port l.time q, {})).2 = r
  refine .ite .skip (.ite (qcount_framed _ _ _ _).widen (.ite (learnDrop_framed _).widen ?_))
  cases found with
  | none =>
    cases r with
    | failed => exact insertLedger_framed _ _ _ (by decide) .skip
    | _ => exact .acts ⟨insertLedger_framed _ _ _ (by decide) .skip, (qcount_framed _ _ _ _).widen, (pushNote_framed _ _).widen, trivial⟩
  | some p =>
    exact .ite .skip (.ite (.acts ⟨(putCopy_framed _ _).widen, (pushNote_framed _ _).widen,
      .ite (qcount_framed _ _ _ _).widen (.acts ⟨(qcount_framed _ _ _ _).widen, (raise_own _ _).widen, trivial⟩), trivial⟩) .skip)

theorem learnVerdict_framed (q fid : Nat) (good : Bool) : (learnVerdict q fid good).Framed (.cnt :: .qtrs :: occurParts) (.QTR_EVT_CAUSE
    :: .QTR_LDG_STATUS :: occurRegs) := by
  refine .look fun _ => ?_
  split
  · exact .skip
  · exact .acts ⟨(modQtr_framed _ _).widen, .ite (learnCommit_framed _ _).widen (qcount_framed _ _ _ _).widen, trivial⟩

theorem addFlush_framed (q p : Nat) : (addFlush q p).Framed [.qtrs] [] := (modQtr_framed _ _).widen

theorem flushPort_framed (p : Nat) : (flushPort p).Framed [.qtrs] [] := .look fun _ =>
  .ite .skip (.ite (modQtr_framed _ _).widen (.acts ⟨(pushNote_framed _ _).widen, (addFlush_framed _ _).widen, trivial⟩))

theorem flushFromWait_framed (q : Nat) : (flushFromWait q).Framed [.qtrs] [] := by
  refine .look fun _ => ?_
  split
  · exact .skip
  · exact .when (.acts ⟨(modQtr_framed _ _).widen, (flushPort_framed _).widen, trivial⟩)

theorem crierNoteSend_framed (q : Nat) : (crierNoteSend q).Framed [.live, .pe, .qtrs, .regs] [.QTR_CRIER_STATUS] := by
  refine .look fun _ => ?_
  split
  · exact .skip
  · exact .when (.acts ⟨(modQtr_framed _ _).widen, (setF_own _ _ _).widen, .each (fun _ _ => (modQtr_framed _ _).widen),
      (modPe_framed _).widen, (flushFromWait_framed _).widen, trivial⟩)

theorem seqCheck_framed (q sender seq : Nat) : (seqCheck q sender seq).Framed (.cnt :: .qtrs :: occurParts) (.QTR_EVT_CAUSE :: occurRegs)
    := .look fun _ =>
  .acts ⟨.when (.acts ⟨(raise_own _ _).widen, (qcount_framed _ _ _ _).widen, trivial⟩), (modQtr_framed _ _).widen, trivial⟩

theorem applyNote_framed (q : Nat) (n : Note) : (applyNote q n).Framed (.cnt :: .qtrs :: occurParts) (.QTR_EVT_CAUSE :: .QTR_LDG_STATUS ::
    occurRegs) := by
  refine .look fun _ => .ite .skip (.ite .skip (.ite ?_ (.ite ?_ (.ite (addFlush_framed _ _).widen (qcount_framed _ _ _ _).widen))))
  · split
    · exact insertLedger_framed _ _ _ (by decide) (.acts ⟨(qcount_framed _ _ _ _).widen, (raise_own _ _).widen, trivial⟩)
    · exact .ite (.acts ⟨(qcount_framed _ _ _ _).widen, (raise_own _ _).widen, trivial⟩) (.when (putCopy_framed _ _).widen)
  · split
    · exact .skip
    · exact .when (putCopy_framed _ _).widen

theorem crierNoteReceive_framed (station sender : Nat) (parityOk : Bool) : (crierNoteReceive station sender parityOk).Framed (.cnt :: .pe
    :: .qtrs :: occurParts) (.QTR_EVT_CAUSE :: .QTR_LDG_STATUS :: occurRegs) := by
  refine .look fun _ => .ite ?_ ?_
  · split
    · exact .skip
    · exact (modPe_framed _).widen
  · split
    · exact .skip
    · exact .acts ⟨(modQtr_framed _ _).widen, .when (.acts ⟨(seqCheck_framed _ _ _).widen, (applyNote_framed _ _).widen, trivial⟩),
        trivial⟩

theorem rehashStart_framed (req : Req) (q : Nat) (value : Word) : (rehashStart req q value).Framed (.evt :: .qtrs :: occurParts)
    (.QTR_EVT_CAUSE :: .QTR_LDG_STATUS :: .QTR_REHASH_PTR :: .QTR_STATUS :: .SYS_REJECT_ADDR :: .SYS_REJECT_INFO :: accessRegs) :=
  onWrite_own (fun _ => .when (.look fun _ => .ite (reject_qtr _ _ _ _ _).widen (.acts ⟨(modQtr_framed _ _).widen,
    (setReg_own _ _ _).widen, (setB_own _ _ _).widen, trivial⟩)))

theorem rehashDone_framed (q : Nat) : (rehashDone q).Framed (.cnt :: .qtrs :: occurParts) (.QTR_EVT_CAUSE :: .QTR_LDG_SEED_A ::
    .QTR_LDG_SEED_B :: .QTR_LDG_STATUS :: .QTR_REHASH_PTR :: occurRegs) := .look fun _ =>
  .when (.acts ⟨(putCopy_framed _ _).widen, .each (fun _ _ => (raise_own _ _).widen), .each (fun _ _ => .acts ⟨(raise_own _ _).widen,
    (qcount_framed _ _ _ _).widen, trivial⟩), (setReg_own _ _ _).widen, (setReg_own _ _ _).widen, (setF_own _ _ _).widen,
    (setReg_own _ _ _).widen, (setB_own _ _ _).widen, (raise_own _ _).widen, trivial⟩)

theorem ageWays_framed (q pos w fuel : Nat) : (ageWays q pos w fuel).Framed [.cnt, .live, .qtrs, .regs] [.QTR_LDG_STATUS] := by
  induction fuel generalizing w with
  | zero => exact .skip
  | succ fuel ih =>
    refine .look fun _ => ?_
    dsimp only
    split
    · exact (modQtr_framed _ _).widen
    · refine .ite (.ite (.ite (modQtr_framed _ _).widen ?_) ?_) (.acts ⟨(modQtr_framed _ _).widen, ih _, trivial⟩)
      · exact .acts ⟨(modQtr_framed _ _).widen, (putCopy_framed _ _).widen, (pushNote_framed _ _).widen, (qcount_framed _ _ _ _).widen, ih _,
          trivial⟩
      · exact .acts ⟨(modQtr_framed _ _).widen, .when (putCopy_framed _ _).widen, ih _, trivial⟩

theorem ageingVisit_framed (q : Nat) : (ageingVisit q).Framed [.cnt, .live, .qtrs, .regs] [.QTR_LDG_STATUS] := .look fun _ =>
  .when (ageWays_framed _ _ _ _).widen

theorem qtrFlushGo_framed (req : Req) (q : Nat) (value : Word) : (qtrFlushGo req q value).Framed (.evt :: .qtrs :: occurParts)
    (.QTR_EVT_CAUSE :: .QTR_STATUS :: .SYS_REJECT_ADDR :: .SYS_REJECT_INFO :: accessRegs) :=
  onWrite_own (fun _ => .when (.look fun _ => .ite (reject_qtr _ _ _ _ _).widen (flushPort_framed _).widen))

theorem flushWalkStart_framed (q : Nat) : (flushWalkStart q).Framed [.live, .qtrs, .regs] [.QTR_LDG_STATUS] := .look fun _ =>
  .when (.acts ⟨(modQtr_framed _ _).widen, (putCopy_framed _ _).widen, trivial⟩)

theorem flushDone_framed (q : Nat) : (flushDone q).Framed (.cnt :: .qtrs :: occurParts) (.QTR_EVT_CAUSE :: occurRegs) := by
  refine .look fun _ => ?_
  split
  · exact .skip
  · exact .when (.acts ⟨(modQtr_framed _ _).widen, (raise_own _ _).widen, (qcount_framed _ _ _ _).widen, trivial⟩)

theorem flowletSweep_framed (q : Nat) : (flowletSweep q).Framed [.qtrs] [] := .look fun _ => (modQtr_framed _ _).widen


/-! ### Machine/Epoch.lean -/

theorem unitReport_framed (u : Nat) : (unitReport u).Framed [.regs] [.SYS_EPOCH_APPLIED0, .SYS_EPOCH_APPLIED1, .SYS_EPOCH_APPLIED2] := by
  refine .look fun _ => .when ?_
  unfold appliedReg
  split_ifs <;> exact (reg_own _ _ _).widen

theorem requestEpoch_framed (tgt : Option Nat) (cause : Nat) (step : Int) : (requestEpoch tgt cause step).Framed [.aisles, .live, .mode,
    .regs, .time] [.AISLE_PARSE_CFG, .SYS_EPOCH, .SYS_EPOCH_APPLIED0, .SYS_EPOCH_APPLIED1, .SYS_EPOCH_APPLIED2, .SYS_MODE] :=
  .look fun _ => .acts ⟨(setF_own _ _ _).widen, (setB_own _ _ _).widen, (setF_own _ _ _).widen, (setReg_own _ _ _).widen,
    (setReg_own _ _ _).widen, (setReg_own _ _ _).widen, (modMode_framed _).widen, (modTime_framed _).widen, .each (fun _ _ => .acts
    ⟨(modAisle_framed _ _).widen, (live_own _ _ _).widen, trivial⟩), .each (fun _ _ => (unitReport_framed _).widen), trivial⟩

theorem epochUnitApplied_framed (u : Nat) : (epochUnitApplied u).Framed [.regs] [.SYS_EPOCH_APPLIED0, .SYS_EPOCH_APPLIED1,
    .SYS_EPOCH_APPLIED2] :=
  (unitReport_framed _).widen

theorem countLate_framed (n : Nat) : (countLate n).Framed occurParts (.SYS_EPOCH_LATE :: .SYS_MODE_EVT_CAUSE :: occurRegs) :=
  .each (fun _ _ => .acts ⟨(addSat_own _ _ _).widen, (raise_own _ _).widen, trivial⟩)

theorem lateCheck_framed (u : Nat) (f : Frame) : (lateCheck u f).Framed occurParts (.SYS_EPOCH_LATE :: .SYS_MODE_EVT_CAUSE :: occurRegs)
    := .look fun _ =>
  .when (countLate_framed _).widen

theorem epochWindowExpire_framed (u : Nat) : (epochWindowExpire u).Framed (.mode :: .pkts :: occurParts) (.SYS_EPOCH_APPLIED0 ::
    .SYS_EPOCH_APPLIED1 :: .SYS_EPOCH_APPLIED2 :: .SYS_EPOCH_LATE :: .SYS_MODE_EVT_CAUSE :: occurRegs) := .look fun _ =>
  .when (.acts ⟨(modMode_framed _).widen, (countLate_framed _).widen, (modPkts_framed _).widen, (unitReport_framed _).widen, trivial⟩)


end Sys2Proof.Machine
end

section
/-!
PROOF. Frames (2 of 7): what each action may change, as lists of parts and registers that follow its definition. The lemmas are
many and small: they are elaborated one after another, since a thread for each would take more memory than the check has.
-/
set_option Elab.async false
namespace Sys2Proof.Machine

/-! ### Machine/Buffer.lean -/

theorem syncSwc_framed : (syncSwc).Framed [.live, .regs] [.SWC_SHARED_FREE, .SWC_STATUS] := .look fun _ =>
  .acts ⟨(setF_own _ _ _).widen, (setF_own _ _ _).widen, trivial⟩

theorem pfcSync_framed (p : Nat) : (pfcSync p).Framed [.cnt, .out, .ports] [] := .look fun _ =>
  .ite (modPort_framed _ _).widen (.when (.acts ⟨(emit_own _).widen, (count_own _ _ _ _).widen, (modPort_framed _ _).widen, trivial⟩))

theorem xoffEval_framed (p i : Nat) : (xoffEval p i).Framed [.live, .regs] [.SWC_PORT_STATE] := .look fun _ =>
  .ite .skip (.ite (setF_at _ _ _ _ _).widen (.when (setF_at _ _ _ _ _).widen))

theorem fifoLevel_framed (p : Nat) : (fifoLevel p).Framed [.cnt, .live, .out, .ports, .regs] [.SWC_PORT_STATE] := .look fun _ =>
  .ite .skip (.ite (.acts ⟨(setB_own _ _ _).widen, (pfcSync_framed _).widen, trivial⟩) (.when (.acts ⟨(setB_own _ _ _).widen,
    (pfcSync_framed _).widen, trivial⟩)))

theorem thresholdRecompute_framed : (thresholdRecompute).Framed [.cnt, .live, .out, .ports, .regs, .swc] [.SWC_PORT_STATE,
    .SYS_EPOCH_APPLIED0, .SYS_EPOCH_APPLIED1, .SYS_EPOCH_APPLIED2] := .look fun _ =>
  .acts ⟨.when (.acts ⟨(modSwc_framed _).widen, .each (fun _ _ => .acts ⟨.each (fun _ _ => (xoffEval_framed _ _).widen),
    (pfcSync_framed _).widen, trivial⟩), trivial⟩), (unitReport_framed _).widen, trivial⟩

theorem sizePort_framed (p d : Nat) (est : Bool) : (sizePort p d est).Framed (.ports :: occurParts) (.SWC_EVT_CAUSE :: .SWC_PORT_HDRM ::
    .SWC_PORT_STATE :: .SWC_SHARED_FREE :: .SWC_STATUS :: occurRegs) := .look fun _ =>
  .acts ⟨(modPort_framed _ _).widen, (setB_own _ _ _).widen, (setB_own _ _ _).widen, (setB_own _ _ _).widen, (setF_own _ _ _).widen,
    (setF_own _ _ _).widen, .when (raise_own _ _).widen, .when (raise_own _ _).widen, (syncSwc_framed).widen, trivial⟩

theorem releaseHdrm_framed (p : Nat) : (releaseHdrm p).Framed [.live, .ports, .regs] [.SWC_PORT_HDRM, .SWC_SHARED_FREE, .SWC_STATUS] :=
  .look fun _ => .when (.acts ⟨(modPort_framed _ _).widen, .when (setF_own _ _ _).widen, (syncSwc_framed).widen, trivial⟩)

theorem followPfcEn_framed (p : Nat) (old : List Nat) : (followPfcEn p old).Framed (.cnt :: .ports :: occurParts) (.SWC_EVT_CAUSE ::
    .SWC_PORT_HDRM :: .SWC_PORT_STATE :: .SWC_SHARED_FREE :: .SWC_STATUS :: occurRegs) := .look fun _ =>
  .when (.acts ⟨(modPort_framed _ _).widen, .ite (sizePort_framed _ _ _).widen (.acts ⟨.when (setF_own _ _ _).widen,
    (syncSwc_framed).widen, trivial⟩), (pfcSync_framed _).widen, trivial⟩)

theorem drainCheck_framed : (drainCheck).Framed occurParts (.SYS_MODE :: .SYS_MODE_EVT_CAUSE :: occurRegs) := .look fun _ =>
  .when (.acts ⟨(setB_own _ _ _).widen, (raise_own _ _).widen, trivial⟩)

theorem becomeFree_framed (h : Nat) : (becomeFree h).Framed (.bufs :: .cnt :: .perf :: .ports :: .swc :: occurParts) (.PERF_STATUS ::
    .SWC_POOL_FREE :: .SWC_PORT_STATE :: .SWC_SHARED_FREE :: .SWC_STATUS :: .SYS_MODE :: .SYS_MODE_EVT_CAUSE :: occurRegs) :=
  .look fun _ => .acts ⟨.upd rfl, (perfEvent_framed _ _ _ _).widen, (setF_own _ _ _).widen, (modSwc_framed _).widen, .when (.acts
    ⟨(modPort_framed _ _).widen, (xoffEval_framed _ _).widen, (pfcSync_framed _).widen, trivial⟩), (syncSwc_framed).widen,
    (drainCheck_framed).widen, trivial⟩

theorem illegalFree_framed (p q h kind : Nat) : (illegalFree p q h kind).Framed (.cnt :: occurParts) (.SWC_EVT_CAUSE :: .SWC_ILLFREE_CAP0
    :: .SWC_ILLFREE_CAP1 :: occurRegs) := .look fun _ =>
  .acts ⟨(raise_own _ _).widen, (count_own _ _ _ _).widen, .when (.acts ⟨(setReg_own _ _ _).widen, (setReg_own _ _ _).widen, trivial⟩),
    trivial⟩

theorem freeDesc_framed : (freeDesc).Framed [.live, .regs] [.SWC_DESC_FREE] := .look fun _ => (setF_own _ _ _).widen

theorem freeReq_framed (p q h : Nat) (gen : BitVec 4) (final : Bool) : (freeReq p q h gen final).Framed (.bufs :: .cnt :: .perf :: .ports
    :: .swc :: occurParts) freeRegs := .look fun _ =>
  .ite (illegalFree_framed _ _ _ _).widen (.ite (illegalFree_framed _ _ _ _).widen (.ite (.ite (illegalFree_framed _ _ _ _).widen (.ite
    (illegalFree_framed _ _ _ _).widen (.ite (.acts ⟨(freeDesc_framed).widen, (becomeFree_framed _).widen, trivial⟩) (.acts
    ⟨(freeDesc_framed).widen, (modBuf_framed _ _).widen, trivial⟩)))) (.ite (illegalFree_framed _ _ _ _).widen (.acts
    ⟨(freeDesc_framed).widen, (modBuf_framed _ _).widen, .when (becomeFree_framed _).widen, trivial⟩))))

theorem dropCopy_framed (p q : Nat) (d : Desc) : (dropCopy p q d).Framed (.bufs :: .cnt :: .perf :: .ports :: .swc :: occurParts) freeRegs
    :=
  (freeReq_framed _ _ _ _ _).widen

theorem dropQueued_framed (h : Nat) : (dropQueued h).Framed (.bufs :: .cnt :: .perf :: .ports :: .swc :: occurParts) freeRegs :=
  .look fun _ => .each (fun _ _ => .each (fun _ _ => .acts ⟨(modPort_framed _ _).widen, .each (fun _ _ => (dropCopy_framed _ _ _).widen),
    trivial⟩))

theorem truncateAt_framed (h : Nat) : (truncateAt h).Framed (.bufs :: .cnt :: occurParts) (.SWC_EVT_CAUSE :: occurRegs) := .look fun _ =>
  .when (.acts ⟨(modBuf_framed _ _).widen, (count_own _ _ _ _).widen, (raise_own _ _).widen, trivial⟩)

theorem noteWait_framed (r : AllocReq) (k : Nat) (pool desc : Bool) : (noteWait r k pool desc).Framed (.cnt :: .swc :: occurParts)
    (.SWC_EVT_CAUSE :: occurRegs) := by
  refine .acts ⟨(modSwc_framed _).widen, .when (.acts ⟨(count_own _ _ _ _).widen, ?_, trivial⟩), .when ?_, trivial⟩
  · split
    · exact (raise_own _ _).widen
    · exact .skip
  · split
    · exact (raise_own _ _).widen
    · exact .skip

theorem enqueueCopies_framed (k : Packet) (h : Nat) (gen : BitVec 4) : (enqueueCopies k h gen).Framed [.ports, .swc] [] :=
  .each (fun _ _ => .look fun _ => .acts ⟨.when (modSwc_framed _).widen, (modPort_framed _ _).widen, trivial⟩)

theorem grant_framed (r : AllocReq) (pkt : Packet) (k pick : Nat) : (grant r pkt k pick).Framed (.bufs :: .cnt :: .pkts :: .ports :: .swc
    :: occurParts) (.SWC_DESC_FREE :: .SWC_EVT_CAUSE :: .SWC_POOL_FREE :: .SWC_POOL_LOW :: .SWC_PORT_STATE :: .SWC_SHARED_FREE ::
    .SWC_STATUS :: occurRegs) := by
  refine .look fun _ => .acts ⟨.upd rfl, (modSwc_framed _).widen, (setF_own _ _ _).widen, .when (setF_own _ _ _).widen,
    (setF_own _ _ _).widen, .when (.acts ⟨(count_own _ _ _ _).widen, ?_, trivial⟩), .when (.acts ⟨(modPort_framed _ _).widen,
    (xoffEval_framed _ _).widen, (pfcSync_framed _).widen, trivial⟩), (modPkts_framed _).widen, (modSwc_framed _).widen,
    (truncateAt_framed _).widen, (enqueueCopies_framed _ _ _).widen, (syncSwc_framed).widen, trivial⟩
  split
  · exact (raise_own _ _).widen
  · exact .skip

theorem serve_framed (r : AllocReq) (pick : Nat) : (serve r pick).Framed (.bufs :: .cnt :: .pkts :: .ports :: .swc :: occurParts)
    (.SWC_DESC_FREE :: .SWC_EVT_CAUSE :: .SWC_POOL_FREE :: .SWC_POOL_LOW :: .SWC_PORT_STATE :: .SWC_SHARED_FREE :: .SWC_STATUS ::
    occurRegs) := by
  refine .look fun _ => ?_
  dsimp only
  split
  · exact (modSwc_framed _).widen
  · refine .ite (.acts ⟨(modPkts_framed _).widen, (modSwc_framed _).widen, trivial⟩) ?_
    split
    · exact (noteWait_framed _ _ _ _).widen
    · exact .ite (noteWait_framed _ _ _ _).widen (grant_framed _ _ _ _).widen

theorem askBuffer_framed (fid : Nat) (aisle : Option Nat) : (askBuffer fid aisle).Framed [.swc] [] := (modSwc_framed _).widen

theorem cycleCounts_framed : (cycleCounts).Framed [.live, .perf, .regs, .swc] [.PERF_STATUS] := .look fun _ =>
  .acts ⟨.when (perfEvent_framed _ _ _ _).widen, .when (perfBytes_framed _ _ _ _ _).widen, .when (perfEvent_framed _ _ _ _).widen, .when
    (perfEvent_framed _ _ _ _).widen, (modSwc_framed _).widen, trivial⟩

theorem bufferAllocate_framed (picks : List Nat) : (bufferAllocate picks).Framed (.bufs :: .cnt :: .perf :: .pkts :: .ports :: .swc ::
    occurParts) (.PERF_STATUS :: .SWC_DESC_FREE :: .SWC_EVT_CAUSE :: .SWC_POOL_FREE :: .SWC_POOL_LOW :: .SWC_PORT_STATE ::
    .SWC_SHARED_FREE :: .SWC_STATUS :: occurRegs) := .look fun _ =>
  .when (.acts ⟨(modSwc_framed _).widen, .each (fun _ _ => (serve_framed _ _).widen), (cycleCounts_framed).widen, (modSwc_framed _).widen,
    trivial⟩)

theorem carveNow_framed : (carveNow).Framed (.evt :: .swc :: occurParts) (.SWC_EVT_CAUSE :: .SWC_POOL_FREE :: .SWC_POOL_LOW ::
    .SWC_POOL_TOTAL :: .SWC_SHARED_FREE :: .SWC_STATUS :: occurRegs) := .look fun _ =>
  .ite (.acts ⟨(setB_own _ _ _).widen, (raise_own _ _).widen, (noteTurned_framed).widen, trivial⟩) (.acts ⟨(setB_own _ _ _).widen,
    (setB_own _ _ _).widen, .each (fun _ _ => .acts ⟨(setF_own _ _ _).widen, (setF_own _ _ _).widen, (setF_own _ _ _).widen, trivial⟩),
    .look fun _ => (modSwc_framed _).widen, (syncSwc_framed).widen, trivial⟩)

theorem carve_framed (req : Req) (value : Word) : (carve req value).Framed (.evt :: .swc :: occurParts) (.SWC_EVT_CAUSE :: .SWC_POOL_FREE
    :: .SWC_POOL_LOW :: .SWC_POOL_TOTAL :: .SWC_SHARED_FREE :: .SWC_STATUS :: .SYS_REJECT_ADDR :: .SYS_REJECT_INFO :: accessRegs) :=
  onWrite_own (fun _ => .when (.look fun _ => .ite (.acts ⟨(modSwc_framed _).widen, (carveNow_framed).widen, trivial⟩)
    (reject3_own _ _ _ _).widen))

theorem queueDepthPublish_framed : (queueDepthPublish).Framed [.qtrs] [] := .look fun _ => .each (fun _ _ => (modQtr_framed _ _).widen)


/-! ### Machine/PeBase.lean -/

theorem postWork_framed (p ty idx flags : Nat) : (postWork p ty idx flags).Framed [.ports] [] := (modPort_framed _ _).widen

theorem peSendTo_framed (p q : Nat) (data : List Byte) (parsed : Parsed) (dst : PtpTo) : (peSendTo p q data parsed dst).Framed (.cnt ::
    .fidNext :: .perf :: .pkts :: .swc :: occurParts) (.PERF_STATUS :: .SWC_EVT_CAUSE :: occurRegs) := .look fun _ =>
  .ite (.acts ⟨(count_own _ _ _ _).widen, (perfEvent_framed _ _ _ _).widen, (raise_own _ _).widen, trivial⟩) (.acts ⟨.upd rfl,
    (modPkts_framed _).widen, (askBuffer_framed _ _).widen, trivial⟩)

theorem peSend_framed (p q : Nat) (data : List Byte) (parsed : Parsed) : (peSend p q data parsed).Framed (.cnt :: .fidNext :: .perf ::
    .pkts :: .swc :: occurParts) (.PERF_STATUS :: .SWC_EVT_CAUSE :: occurRegs) :=
  (peSendTo_framed _ _ _ _ _).widen

theorem postMsg_framed (kind : Nat) (words : List Word) : (postMsg kind words).Framed (.cnt :: .pe :: occurParts) (.PE_EVT_CAUSE ::
    occurRegs) := .look fun _ =>
  .ite (emit_own _).widen (.ite (.acts ⟨(count_own _ _ _ _).widen, (raisePe_framed _).widen, trivial⟩) (modPe_framed _).widen)

theorem takeMsgs_framed : (takeMsgs).Framed [.out, .pe] [] := .look fun _ =>
  .acts ⟨.each (fun _ _ => (emit_own _).widen), (modPe_framed _).widen, trivial⟩


/-! ### Machine/TimeCal.lean -/

theorem syncRecal_framed (p : Nat) : (syncRecal p).Framed [.live, .regs] [.PORT_STATE, .TIME_PORT_CAL_STATUS] := .look fun _ =>
  .acts ⟨(setB_own _ _ _).widen, (setB_own _ _ _).widen, trivial⟩

theorem calStart_framed (p trig : Nat) : (calStart p trig).Framed [.live, .ports, .regs] [.PORT_STATE, .TIME_PORT_CAL_STATUS] :=
  .look fun _ => .when (.acts ⟨(setF_own _ _ _).widen, (setF_own _ _ _).widen, (modPort_framed _ _).widen, (syncRecal_framed _).widen,
    trivial⟩)

theorem calStartAll_framed (ports : List Nat) (trig : Nat) : (calStartAll ports trig).Framed [.live, .ports, .regs] [.PORT_STATE,
    .TIME_PORT_CAL_STATUS] :=
  .each (fun _ _ => (calStart_framed _ _).widen)

theorem distSettle_framed (st : Nat) : (distSettle st).Framed [.live, .regs, .stalls] [.PORT_STATE, .TIME_PORT_CAL_STATUS] :=
  .look fun _ => .when (.acts ⟨(modStall_framed _ _).widen, .each (fun _ _ => (syncRecal_framed _).widen), trivial⟩)

theorem inputSpan_framed (i : Nat) : (inputSpan i).Framed [.live, .regs, .time] [.TIME_DPLL_STATUS] := .look fun _ =>
  .acts ⟨(modTime_framed _).widen, (setF_own _ _ _).widen, trivial⟩

theorem inputLost_framed (i : Nat) : (inputLost i).Framed [.live, .regs, .time] [.TIME_DPLL_STATUS] :=
  .acts ⟨(modTime_framed _).widen, (inputSpan_framed _).widen, trivial⟩

theorem recClock_framed (p : Nat) (lost : Bool) : (recClock p lost).Framed [.live, .regs, .time] [.TIME_DPLL_STATUS] := .look fun _ =>
  .each (fun _ _ => .ite (inputLost_framed _).widen (inputSpan_framed _).widen)

theorem calEnterUp_framed (p : Nat) : (calEnterUp p).Framed [.lanes, .live, .ports, .regs, .time] [.PORT_STATE, .TIME_DPLL_STATUS,
    .TIME_PORT_CAL_STATUS] := .look fun _ =>
  .acts ⟨.each (fun _ _ => (modLane_framed _ _).widen), (setF_own _ _ _).widen, (setB_own _ _ _).widen, (modPort_framed _ _).widen,
    (recClock_framed _ _).widen, (calStart_framed _ _).widen, trivial⟩

theorem calLeaveUp_framed (p : Nat) : (calLeaveUp p).Framed [.live, .ports, .regs, .stalls, .time] [.LANE_EQ_STATUS, .PORT_STATE,
    .TIME_DPLL_STATUS, .TIME_PORT_CAL_STATUS] := .look fun _ =>
  .acts ⟨(modPort_framed _ _).widen, (recClock_framed _ _).widen, .when (setF_own _ _ _).widen, .each (fun _ _ => (setB_own _ _ _).widen),
    (syncRecal_framed _).widen, (distSettle_framed _).widen, trivial⟩

theorem probeStart_framed (p : Nat) : (probeStart p).Framed [.ports] [] := .look fun _ => (modPort_framed _ _).widen

theorem probeOnUp_framed (p : Nat) : (probeOnUp p).Framed [.ports] [] := .look fun _ => .when (probeStart_framed _).widen

theorem reportDelay_framed (p d : Nat) : (reportDelay p d).Framed (.ports :: occurParts) (.SWC_EVT_CAUSE :: .SWC_PORT_HDRM ::
    .SWC_PORT_STATE :: .SWC_SHARED_FREE :: .SWC_STATUS :: .TIME_PORT_CAL_STATUS :: .TIME_PORT_EVT_CAUSE :: .TIME_PORT_LINKDLY ::
    occurRegs) :=
  .acts ⟨(setF_own _ _ _).widen, (setB_own _ _ _).widen, (raise_own _ _).widen, (sizePort_framed _ _ _).widen, trivial⟩

theorem setClkOuts_framed (a b c : Nat) : (setClkOuts a b c).Framed [.out, .time] [] := .look fun _ =>
  .acts ⟨(modTime_framed _).widen, .when (emit_own _).widen, .when (emit_own _).widen, .when (emit_own _).widen, trivial⟩

theorem clkOutEdge_framed : (clkOutEdge).Framed [.out, .time] [] := .look fun _ => (setClkOuts_framed _ _ _).widen

theorem clkOutWrite_framed : (clkOutWrite).Framed [.out, .time] [] := .look fun _ => (setClkOuts_framed _ _ _).widen

theorem timeWordSend_framed : (timeWordSend).Framed [.out, .regs, .time] [.SYS_EPOCH_APPLIED0, .SYS_EPOCH_APPLIED1, .SYS_EPOCH_APPLIED2]
    := .look fun _ =>
  .when (.acts ⟨(modTime_framed _).widen, (clkOutEdge_framed).widen, (unitReport_framed _).widen, trivial⟩)

theorem distEchoMeasure_framed (st : Nat) (echo : Option Nat) : (distEchoMeasure st echo).Framed [.live, .perf, .ports, .regs, .stalls]
    [.PERF_STATUS, .PORT_STATE, .TIME_PORT_CAL_STATUS, .TIME_STATUS] := by
  refine .look fun _ => ?_
  split
  · exact .acts ⟨(modStall_framed _ _).widen, .when (.acts ⟨(modStall_framed _ _).widen, (setB_own _ _ _).widen, .each (fun _ _ =>
      (syncRecal_framed _).widen), trivial⟩), trivial⟩
  · exact .acts ⟨(perfEvent_framed _ _ _ _).widen, (modStall_framed _ _).widen, .ite (.acts ⟨(modStall_framed _ _).widen,
      (setB_own _ _ _).widen, .each (fun _ _ => (syncRecal_framed _).widen), trivial⟩) (.when (.acts ⟨(modStall_framed _ _).widen, .each
      (fun _ _ => .acts ⟨(modPort_framed _ _).widen, (calStart_framed _ _).widen, trivial⟩), (distSettle_framed _).widen, .look fun _ =>
      .when (setB_own _ _ _).widen, trivial⟩)), trivial⟩

theorem calPeriodExpire_framed (p : Nat) : (calPeriodExpire p).Framed [.live, .ports, .regs, .time] [.PORT_STATE, .TIME_PORT_CAL_STATUS]
    := .look fun _ =>
  .when (.acts ⟨(modTime_framed _).widen, (calStart_framed _ _).widen, trivial⟩)

theorem calibrationStart_framed (p trig : Nat) : (calibrationStart p trig).Framed [.live, .ports, .regs, .time] [.PORT_STATE,
    .TIME_PORT_CAL_STATUS] := .look fun _ =>
  .ite (calPeriodExpire_framed _).widen (.when (calStart_framed _ _).widen)

theorem calFinish_framed (p : Nat) : (calFinish p).Framed (.perf :: .ports :: .stalls :: .time :: occurParts) (.PERF_STATUS :: .PORT_STATE
    :: .TIME_PORT_CAL_STATUS :: .TIME_PORT_EVT_CAUSE :: occurRegs) := .look fun _ =>
  .acts ⟨(modPort_framed _ _).widen, (modTime_framed _).widen, (setF_own _ _ _).widen, (addMod_own _ _ _).widen,
    (perfEvent_framed _ _ _ _).widen, (raise_own _ _).widen, (syncRecal_framed _).widen, (distSettle_framed _).widen,
    (probeOnUp_framed _).widen, trivial⟩

theorem calBoundary_framed (p bit : Nat) : (calBoundary p bit).Framed (.perf :: .ports :: .stalls :: .time :: occurParts) (.PERF_STATUS ::
    .PORT_STATE :: .TIME_PORT_CAL_STATUS :: .TIME_PORT_EVT_CAUSE :: occurRegs) := .look fun _ =>
  .when (.acts ⟨(modPort_framed _ _).widen, .look fun _ => .ite (calFinish_framed _).widen (syncRecal_framed _).widen, trivial⟩)

theorem calibrationCommit_framed (p : Nat) (meas : List LaneMeas) : (calibrationCommit p meas).Framed (.lanes :: .perf :: .ports ::
    .stalls :: .time :: occurParts) (.PERF_STATUS :: .PORT_STATE :: .TIME_PORT_CAL_STATUS :: .TIME_PORT_EVT_CAUSE :: occurRegs) :=
  .look fun _ => .when (.ite (.acts ⟨.each (fun _ _ => (modLane_framed _ _).widen), (setF_own _ _ _).widen, (modPort_framed _ _).widen,
    .when (calFinish_framed _).widen, trivial⟩) (.ite (modPort_framed _ _).widen (.acts ⟨(modPort_framed _ _).widen,
    (setF_own _ _ _).widen, (raise_own _ _).widen, (syncRecal_framed _).widen, (distSettle_framed _).widen, trivial⟩)))

theorem calReq_framed (req : Req) (p : Nat) (value : Word) : (calReq req p value).Framed (.evt :: .ports :: occurParts) (.PORT_STATE ::
    .SYS_REJECT_ADDR :: .SYS_REJECT_INFO :: .TIME_PORT_CAL_STATUS :: .TIME_PORT_EVT_CAUSE :: .TIME_STATUS :: accessRegs) :=
  onWrite_own (fun _ => .when (.look fun _ => .when (.ite (calStart_framed _ _).widen (reject_timePort _ _ _ _ _).widen)))

theorem probeReq_framed (req : Req) (p : Nat) (value : Word) : (probeReq req p value).Framed (.evt :: .ports :: occurParts)
    (.SYS_REJECT_ADDR :: .SYS_REJECT_INFO :: .TIME_PORT_EVT_CAUSE :: .TIME_STATUS :: accessRegs) :=
  onWrite_own (fun _ => .when (.look fun _ => .when (.ite (probeStart_framed _).widen (reject_timePort _ _ _ _ _).widen)))

theorem exchange_framed (p : Nat) : (exchange p).Framed [.cnt, .ports] [] := .look fun _ =>
  .acts ⟨.when (count_own _ _ _ _).widen, (modPort_framed _ _).widen, (count_own _ _ _ _).widen, (postWork_framed _ _ _ _).widen, trivial⟩

theorem probeSend_framed (p : Nat) : (probeSend p).Framed [.cnt, .ports] [] := .look fun _ => .when (exchange_framed _).widen

theorem probeResponse_framed (p : Nat) (up : Bool) : (probeResponse p up).Framed (.cnt :: .ports :: occurParts) (.SWC_EVT_CAUSE ::
    .SWC_PORT_HDRM :: .SWC_PORT_STATE :: .SWC_SHARED_FREE :: .SWC_STATUS :: .TIME_PORT_CAL_STATUS :: .TIME_PORT_EVT_CAUSE ::
    .TIME_PORT_LINKDLY :: occurRegs) := by
  refine .look fun _ => ?_
  split
  · exact .skip
  · exact .when (.ite (.acts ⟨(modPort_framed _ _).widen, (count_own _ _ _ _).widen, trivial⟩) (.acts ⟨(modPort_framed _ _).widen, .ite
      (.ite (.acts ⟨(modPort_framed _ _).widen, (reportDelay_framed _ _).widen, trivial⟩) (modPort_framed _ _).widen) (.when
      (reportDelay_framed _ _).widen), trivial⟩))

theorem probeNone_framed (p : Nat) : (probeNone p).Framed (.ports :: occurParts) (.TIME_PORT_EVT_CAUSE :: occurRegs) := .look fun _ =>
  .when (.acts ⟨(modPort_framed _ _).widen, (raise_own _ _).widen, trivial⟩)

theorem linkdlyPeriodExpire_framed (p : Nat) : (linkdlyPeriodExpire p).Framed [.cnt, .ports] [] := .look fun _ =>
  .when (exchange_framed _).widen


/-! ### Machine/Link.lean -/

theorem sendPages_framed (p : Nat) : (sendPages p).Framed [.out] [] := .look fun _ => .when (emit_own _).widen

theorem enterLink_framed (p l : Nat) : (enterLink p l).Framed [.lanes, .live, .out, .ports, .regs] [.PORT_STATE] := .look fun _ =>
  .acts ⟨(setF_own _ _ _).widen, .when (sendPages_framed _).widen, .when (.each (fun _ _ => (modLane_framed _ _).widen)), .when (.acts
    ⟨(modPort_framed _ _).widen, .when (.each (fun _ _ => (modLane_framed _ _).widen)), trivial⟩), trivial⟩

theorem goRestart_framed (p : Nat) : (goRestart p).Framed [.lanes, .live, .out, .ports, .regs] [.PORT_STATE] := .look fun _ =>
  .acts ⟨(modPort_framed _ _).widen, (enterLink_framed _ _).widen, trivial⟩

theorem holdDone_framed (p : Nat) : (holdDone p).Framed [.live, .ports, .regs] [.PORT_STATE, .SWC_PORT_HDRM, .SWC_SHARED_FREE,
    .SWC_STATUS] := .look fun _ =>
  .when (.acts ⟨(setF_own _ _ _).widen, (releaseHdrm_framed _).widen, trivial⟩)

theorem flushBegin_framed (p : Nat) : (flushBegin p).Framed [.live, .ports, .qtrs, .regs] [.PORT_STATE, .SWC_PORT_HDRM, .SWC_SHARED_FREE,
    .SWC_STATUS] :=
  .acts ⟨(setF_own _ _ _).widen, (flushPort_framed _).widen, (holdDone_framed _).widen, trivial⟩

theorem ptpState_framed (p code : Nat) : (ptpState p code).Framed [.live, .regs] [.TIME_PORT_PTP_STATUS] := .look fun _ =>
  .when (setF_own _ _ _).widen

theorem retuneFails_framed (l : Nat) : (retuneFails l).Framed (.lanes :: occurParts) (.SHR_EVT_CAUSE :: occurRegs) := .look fun _ =>
  .acts ⟨(modLane_framed _ _).widen, .when (raise_own _ _).widen, trivial⟩

theorem retuneCut_framed (l : Nat) : (retuneCut l).Framed (.lanes :: occurParts) (.SHR_EVT_CAUSE :: occurRegs) := .look fun _ =>
  .when (.acts ⟨(retuneFails_framed _).widen, (modLane_framed _ _).widen, trivial⟩)

theorem leaveUp_framed (p cause : Nat) (admin0 : Bool) : (leaveUp p cause admin0).Framed (.cnt :: .lanes :: .ports :: .qtrs :: .stalls ::
    .time :: occurParts) leaveRegs := .look fun _ =>
  .acts ⟨(setF_own _ _ _).widen, (setF_own _ _ _).widen, (setF_own _ _ _).widen, (addSat_own _ _ _).widen, (occur_own _).widen, .each
    (fun _ _ => (retuneCut_framed _).widen), (calLeaveUp_framed _).widen, (pfcSync_framed _).widen, (ptpState_framed _ _).widen,
    (postWork_framed _ _ _ _).widen, .when (.ite (flushBegin_framed _).widen (.acts ⟨(modPort_framed _ _).widen, (setF_own _ _ _).widen,
    trivial⟩)), trivial⟩

theorem enterUp_framed (p : Nat) : (enterUp p).Framed (.cnt :: .lanes :: .ports :: .qtrs :: .time :: occurParts) (.PORT_STATE ::
    .SWC_EVT_CAUSE :: .SWC_PORT_HDRM :: .SWC_PORT_STATE :: .SWC_SHARED_FREE :: .SWC_STATUS :: .TIME_DPLL_STATUS :: .TIME_PORT_CAL_STATUS
    :: .TIME_PORT_PTP_STATUS :: occurRegs) := .look fun _ =>
  .acts ⟨(setF_own _ _ _).widen, (occur_own _).widen, (modPort_framed _ _).widen, .when (.ite (flushBegin_framed _).widen
    (setF_own _ _ _).widen), (sizePort_framed _ _ _).widen, (pfcSync_framed _).widen, (calEnterUp_framed _).widen,
    (ptpState_framed _ _).widen, (postWork_framed _ _ _ _).widen, (modPort_framed _ _).widen, .when (postWork_framed _ _ _ _).widen,
    trivial⟩

theorem dropToRestart_framed (p cause : Nat) : (dropToRestart p cause).Framed (.cnt :: .lanes :: .ports :: .qtrs :: .stalls :: .time ::
    occurParts) leaveRegs := .look fun _ =>
  .acts ⟨.when (leaveUp_framed _ _ _).widen, (goRestart_framed _).widen, trivial⟩

theorem pfcFrameReceive_framed (p : Nat) (vec : BitVec 8) (quanta : List Nat) : (pfcFrameReceive p vec quanta).Framed [.cnt, .ports] [] :=
  .look fun _ => .when (.acts ⟨(count_own _ _ _ _).widen, (modPort_framed _ _).widen, trivial⟩)

theorem pauseFrameReceive_framed (p : Nat) : (pauseFrameReceive p).Framed [.cnt, .ports] [] := .look fun _ =>
  .when (.acts ⟨(count_own _ _ _ _).widen, (modPort_framed _ _).widen, trivial⟩)

theorem pfcPauseExpire_framed (p i : Nat) : (pfcPauseExpire p i).Framed [.ports] [] := .look fun _ => .when (modPort_framed _ _).widen

theorem pfcRefresh_framed (p i : Nat) : (pfcRefresh p i).Framed [.cnt, .out, .ports] [] := .look fun _ =>
  .when (.acts ⟨(emit_own _).widen, (count_own _ _ _ _).widen, (modPort_framed _ _).widen, trivial⟩)

theorem configure_framed (st : Nat) : (configure st).Framed [.out, .stalls] [] := .look fun _ =>
  .when (.acts ⟨(modStall_framed _ _).widen, .each (fun _ _ => (sendPages_framed _).widen), trivial⟩)

theorem stallCfgWrite_framed (req : Req) (st : Nat) (value : Word) : (stallCfgWrite req st value).Framed (.evt :: .stalls :: occurParts)
    (.PORT_STATE :: .STALL_CFG :: .STALL_EVT_CAUSE :: .STALL_STATUS :: .SYS_LOCKED_WR :: .SYS_LOCKED_WR_INFO :: .SYS_REJECT_ADDR ::
    .SYS_REJECT_INFO :: accessRegs) :=
  onWrite_own (fun _ => .look fun _ => .ite (reject_stall _ _ _ _ _).widen (.acts ⟨(writeFields_own _ _ _ _).widen, .each (fun _ _ =>
    (setF_own _ _ _).widen), (configure_framed _).widen, trivial⟩))

theorem portCfgWrite_framed (req : Req) (p : Nat) (value : Word) : (portCfgWrite req p value).Framed (.cnt :: .evt :: .lanes :: .ports ::
    .qtrs :: .stalls :: .time :: occurParts) (.PORT_CFG :: .SYS_BUS_ERR :: .SYS_BUS_ERR_INFO :: .SYS_EVT_CAUSE :: .SYS_LOCKED_WR ::
    .SYS_LOCKED_WR_INFO :: leaveRegs) :=
  onWrite_own (fun _ => .acts ⟨(writeFields_own _ _ _ _).widen, (configure_framed _).widen, .look fun _ => .when (.ite (.when
    (goRestart_framed _).widen) (.when (.ite (.acts ⟨(leaveUp_framed _ _ _).widen, .when (flushPort_framed _).widen, trivial⟩) (.acts
    ⟨(setF_own _ _ _).widen, .ite (flushPort_framed _).widen (.ite (flushBegin_framed _).widen (flushPort_framed _).widen), trivial⟩)))),
    trivial⟩)

theorem portRestart_framed (req : Req) (p : Nat) (value : Word) : (portRestart req p value).Framed (.cnt :: .evt :: .lanes :: .ports ::
    .qtrs :: .stalls :: .time :: occurParts) (.STALL_EVT_CAUSE :: .STALL_STATUS :: .SYS_BUS_ERR :: .SYS_BUS_ERR_INFO :: .SYS_EVT_CAUSE ::
    .SYS_REJECT_ADDR :: .SYS_REJECT_INFO :: leaveRegs) :=
  onWrite_own (fun _ => .when (.look fun _ => .ite (reject_stall _ _ _ _ _).widen (.acts ⟨.when (.acts ⟨(setF_own _ _ _).widen,
    (modStall_framed _ _).widen, trivial⟩), (dropToRestart_framed _ _).widen, (setF_own _ _ _).widen, trivial⟩)))

theorem anFail_framed (p : Nat) : (anFail p).Framed [.live, .ports, .regs] [.PORT_STATE] := .look fun _ =>
  .when (.acts ⟨(setF_own _ _ _).widen, (modPort_framed _ _).widen, trivial⟩)

theorem negotiationComplete_framed (p : Nat) (abilities : List (Nat × Nat × Nat)) : (negotiationComplete p abilities).Framed [.lanes,
    .live, .out, .ports, .regs] [.PORT_STATE] := .look fun _ =>
  .when (.ite (enterLink_framed _ _).widen (anFail_framed _).widen)

theorem anPauseExpire_framed (p : Nat) : (anPauseExpire p).Framed [.lanes, .live, .out, .ports, .regs] [.PORT_STATE] := .look fun _ =>
  .when (.acts ⟨(modPort_framed _ _).widen, .when (enterLink_framed _ _).widen, trivial⟩)

theorem trainingComplete_framed (p : Nat) (eq : List (List Byte)) (precode : Bool) : (trainingComplete p eq precode).Framed [.cnt, .lanes,
    .live, .out, .ports, .regs] [.LANE_EQ_STATUS, .PORT_STATE] := .look fun _ =>
  .when (.acts ⟨(enterLink_framed _ _).widen, .each (fun _ _ => .acts ⟨(modLane_framed _ _).widen, (setB_own _ _ _).widen,
    (setB_own _ _ _).widen, (count_own _ _ _ _).widen, trivial⟩), trivial⟩)

theorem trainingTimeboxExpire_framed (p : Nat) : (trainingTimeboxExpire p).Framed [.lanes, .live, .out, .ports, .regs] [.PORT_STATE] :=
  .look fun _ => .when (.acts ⟨(setF_own _ _ _).widen, (modPort_framed _ _).widen, (enterLink_framed _ _).widen, trivial⟩)

theorem alignmentQualified_framed (p : Nat) : (alignmentQualified p).Framed (.cnt :: .lanes :: .ports :: .qtrs :: .time :: occurParts)
    (.LANE_EQ_STATUS :: .PORT_STATE :: .SWC_EVT_CAUSE :: .SWC_PORT_HDRM :: .SWC_PORT_STATE :: .SWC_SHARED_FREE :: .SWC_STATUS ::
    .TIME_DPLL_STATUS :: .TIME_PORT_CAL_STATUS :: .TIME_PORT_PTP_STATUS :: occurRegs) := .look fun _ =>
  .when (.acts ⟨.each (fun _ _ => (setB_own _ _ _).widen), (enterUp_framed _).widen, trivial⟩)

theorem alignTimeout_framed (p : Nat) : (alignTimeout p).Framed [.lanes, .live, .out, .ports, .regs] [.PORT_STATE] := .look fun _ =>
  .when (goRestart_framed _).widen

theorem linkLoss_framed (p cause : Nat) : (linkLoss p cause).Framed (.cnt :: .lanes :: .ports :: .qtrs :: .stalls :: .time ::
    occurParts) leaveRegs := .look fun _ =>
  .when (.acts ⟨.when (.each (fun _ _ => (count_own _ _ _ _).widen)), (dropToRestart_framed _ _).widen, trivial⟩)

theorem holdTimerExpire_framed (p : Nat) : (holdTimerExpire p).Framed [.live, .ports, .qtrs, .regs] [.PORT_STATE, .SWC_PORT_HDRM,
    .SWC_SHARED_FREE, .SWC_STATUS] := .look fun _ =>
  .when (flushBegin_framed _).widen

theorem queuesEmptyReport_framed (p : Nat) : (queuesEmptyReport p).Framed [.live, .ports, .regs] [.PORT_STATE, .SWC_PORT_HDRM,
    .SWC_SHARED_FREE, .SWC_STATUS] :=
  (holdDone_framed _).widen

theorem flushDiscard_framed (p q : Nat) : (flushDiscard p q).Framed (.bufs :: .cnt :: .perf :: .ports :: .swc :: occurParts) freeRegs
    := by
  refine .look fun _ => .when ?_
  split
  · exact .skip
  · split
    · exact .skip
    · exact .acts ⟨(modPort_framed _ _).widen, (count_own _ _ _ _).widen, (perfEvent_framed _ _ _ _).widen, (raise_own _ _).widen,
        (dropCopy_framed _ _ _).widen, trivial⟩

theorem retuneStart_framed (l : Nat) : (retuneStart l).Framed [.live, .ports, .regs] [.LANE_EQ_STATUS, .PORT_STATE, .TIME_PORT_CAL_STATUS]
    := .look fun _ =>
  .acts ⟨(setB_own _ _ _).widen, (modPort_framed _ _).widen, (syncRecal_framed _).widen, trivial⟩

theorem laneRetune_framed (req : Req) (l : Nat) (value : Word) : (laneRetune req l value).Framed (.evt :: .ports :: occurParts)
    (.LANE_EQ_STATUS :: .PORT_STATE :: .STALL_EVT_CAUSE :: .STALL_STATUS :: .SYS_REJECT_ADDR :: .SYS_REJECT_INFO :: .TIME_PORT_CAL_STATUS
    :: accessRegs) :=
  onWrite_own (fun _ => .when (.look fun _ => .ite (retuneStart_framed _).widen (reject_stall _ _ _ _ _).widen))

theorem retuneComplete_framed (l : Nat) (good : Bool) (eq : List Byte) : (retuneComplete l good eq).Framed (.cnt :: .lanes :: .ports ::
    occurParts) (.LANE_EQ_STATUS :: .PORT_STATE :: .SHR_EVT_CAUSE :: .TIME_PORT_CAL_STATUS :: occurRegs) := .look fun _ =>
  .when (.acts ⟨(setB_own _ _ _).widen, (modPort_framed _ _).widen, .ite (.acts ⟨(modLane_framed _ _).widen, (count_own _ _ _ _).widen,
    trivial⟩) (.when (retuneFails_framed _).widen), (modLane_framed _ _).widen, (calStart_framed _ _).widen, trivial⟩)

theorem sweepAfter_framed (l low : Nat) : (sweepAfter l low).Framed [.lanes, .thm] [] := .look fun _ =>
  .acts ⟨.when (modLane_framed _ _).widen, .when (.acts ⟨(modLane_framed _ _).widen, .when (modThm_framed _).widen, trivial⟩), trivial⟩

theorem eyeSweep_framed (l : Nat) (eyes : List (Nat × Nat)) : (eyeSweep l eyes).Framed (.cnt :: .lanes :: .thm :: occurParts) (.LANE_EYE
    :: .STALL_EVT_CAUSE :: occurRegs) := .look fun _ =>
  .when (.acts ⟨.each (fun _ _ => (setReg_own _ _ _).widen), (count_own _ _ _ _).widen, (modLane_framed _ _).widen,
    (sweepAfter_framed _ _).widen, .when (raise_own _ _).widen, trivial⟩)

theorem healthGradeRefresh_framed (p : Nat) (stats : List (Nat × Nat × Nat × Nat)) : (healthGradeRefresh p stats).Framed [.cnt, .live,
    .regs] [.PORT_STATE] := .look fun _ =>
  .ite (.acts ⟨(setF_own _ _ _).widen, .each (fun _ _ => .acts ⟨(count_own _ _ _ _).widen, (count_own _ _ _ _).widen,
    (count_own _ _ _ _).widen, (count_own _ _ _ _).widen, trivial⟩), trivial⟩) (setF_own _ _ _).widen

theorem bwmWindowEnd_framed (st : Nat) : (bwmWindowEnd st).Framed [.live, .ports, .regs, .stalls] [.BWM_RX_LAST, .BWM_RX_MAX,
    .BWM_TX_LAST, .BWM_TX_MAX] := .look fun _ =>
  .when (.acts ⟨.each (fun _ _ => .acts ⟨(setF_own _ _ _).widen, (setF_own _ _ _).widen, (setF_own _ _ _).widen, (setF_own _ _ _).widen,
    (modPort_framed _ _).widen, trivial⟩), (modStall_framed _ _).widen, trivial⟩)

theorem modulePortsDown_framed (st cause : Nat) : (modulePortsDown st cause).Framed (.cnt :: .lanes :: .ports :: .qtrs :: .stalls :: .time
    :: occurParts) leaveRegs := .look fun _ =>
  .each (fun _ _ => .acts ⟨(dropToRestart_framed _ _).widen, (setF_own _ _ _).widen, trivial⟩)

theorem modulePortsGo_framed (st : Nat) : (modulePortsGo st).Framed [.lanes, .live, .out, .ports, .regs] [.PORT_STATE] := .look fun _ =>
  .each (fun _ _ => (goRestart_framed _).widen)

theorem siteStart_framed (st : Nat) : (siteStart st).Framed [.live, .regs, .stalls] [.STALL_STATUS] :=
  .acts ⟨(setF_own _ _ _).widen, (modStall_framed _ _).widen, trivial⟩

theorem siteScan_framed (st : Nat) (prsl intl r0 r1 : Bool) : (siteScan st prsl intl r0 r1).Framed (.cnt :: .evt :: .lanes :: .ports ::
    .qtrs :: .stalls :: .time :: occurParts) (.STALL_EVT_CAUSE :: .STALL_STATUS :: leaveRegs) := .look fun _ =>
  .acts ⟨(modStall_framed _ _).widen, (setB_own _ _ _).widen, (setB_own _ _ _).widen, (setB_own _ _ _).widen, .ite (.when (.acts
    ⟨(setB_own _ _ _).widen, (setF_own _ _ _).widen, (modStall_framed _ _).widen, (modEvt_own _).widen, (raise_own _ _).widen,
    (modulePortsDown_framed _ _).widen, trivial⟩)) (.when (.acts ⟨(setB_own _ _ _).widen, (modStall_framed _ _).widen,
    (siteStart_framed _).widen, (raise_own _ _).widen, trivial⟩)), trivial⟩

theorem i2cTake_framed (k n : Nat) : (i2cTake k n).Framed [.evt, .out] [] := by
  refine .look fun _ => .acts ⟨(modEvt_own _).widen, ?_, trivial⟩
  split
  · exact .skip
  · exact (emit_own _).widen

theorem i2cStart_framed (k : Nat) : (i2cStart k).Framed [.evt, .out] [] := by
  refine .look fun _ => .when ?_
  split
  · exact .when (i2cTake_framed _ _).widen
  · exact (i2cTake_framed _ _).widen

theorem i2cOwnEnd_framed : (i2cOwnEnd).Framed [.evt, .out] [] :=
  .acts ⟨(modEvt_own _).widen, .each (fun _ _ => (i2cStart_framed _).widen), trivial⟩

theorem ownAccess_framed (x : I2cTxn) : (ownAccess x).Framed [.evt, .out] [] :=
  .acts ⟨(modEvt_own _).widen, (i2cStart_framed _).widen, trivial⟩

theorem ownRead_framed (st page off len : Nat) : (ownRead st page off len).Framed [.evt, .out] [] := (ownAccess_framed _).widen

theorem ownWrite_framed (st page off : Nat) (b : List Byte) : (ownWrite st page off b).Framed [.evt, .out] [] :=
  (ownAccess_framed _).widen

theorem readFlags_framed (st : Nat) (flags : List Byte) : (readFlags st flags).Framed [.evt, .out, .stalls] [] := .look fun _ =>
  .when (.acts ⟨(ownRead_framed _ _ _ _).widen, (ownRead_framed _ _ _ _).widen, (modStall_framed _ _).widen, trivial⟩)

theorem siteChainScan_framed (inf : List (Bool × Bool × Bool × Bool)) (flags : List (List Byte)) : (siteChainScan inf flags).Framed (.cnt
    :: .evt :: .lanes :: .ports :: .qtrs :: .stalls :: .time :: occurParts) (.STALL_EVT_CAUSE :: .STALL_STATUS :: leaveRegs) :=
  .look fun _ => .when (.acts ⟨(emit_own _).widen, (i2cOwnEnd_framed).widen, .each (fun _ _ => .acts ⟨(siteScan_framed _ _ _ _ _).widen,
    (readFlags_framed _ _).widen, trivial⟩), trivial⟩)

theorem moduleResetRelease_framed (st : Nat) : (moduleResetRelease st).Framed [.live, .regs, .stalls] [.STALL_STATUS] := .look fun _ =>
  .when (.acts ⟨(modStall_framed _ _).widen, (setF_own _ _ _).widen, trivial⟩)

theorem moduleLowPwrReport_framed (st : Nat) (flat : Bool) (apps : List Nat) (ident : ModuleId) :
    (moduleLowPwrReport st flat apps ident).Framed [.evt, .lanes, .live, .out, .ports, .regs, .stalls] [.PORT_STATE, .STALL_STATUS] :=
  .look fun _ => .when (.acts ⟨(ownRead_framed _ _ _ _).widen, (ownRead_framed _ _ _ _).widen, (ownRead_framed _ _ _ _).widen,
    (modStall_framed _ _).widen, .ite (.acts ⟨(setF_own _ _ _).widen, (modStall_framed _ _).widen, (modulePortsGo_framed _).widen,
    trivial⟩) (.acts ⟨(setF_own _ _ _).widen, (modStall_framed _ _).widen, (ownWrite_framed _ _ _ _).widen, trivial⟩), trivial⟩)

theorem moduleReady_framed (st : Nat) : (moduleReady st).Framed [.evt, .live, .out, .regs] [.STALL_STATUS] := .look fun _ =>
  .when (.acts ⟨(setF_own _ _ _).widen, .each (fun _ _ => .each (fun _ _ => (ownWrite_framed _ _ _ _).widen)),
    (ownWrite_framed _ _ _ _).widen, (ownWrite_framed _ _ _ _).widen, trivial⟩)

theorem siteFail_framed (st : Nat) (retry : Bool) : (siteFail st retry).Framed (.cnt :: .lanes :: .ports :: .qtrs :: .stalls :: .time ::
    occurParts) (.STALL_EVT_CAUSE :: .STALL_STATUS :: leaveRegs) := .look fun _ =>
  .acts ⟨(setF_own _ _ _).widen, (raise_own _ _).widen, (modStall_framed _ _).widen, (modulePortsDown_framed _ _).widen, trivial⟩

theorem datapathActivated_framed (st : Nat) : (datapathActivated st).Framed (.cnt :: .lanes :: .ports :: .qtrs :: .stalls :: .time ::
    occurParts) (.STALL_EVT_CAUSE :: .STALL_STATUS :: leaveRegs) := .look fun _ =>
  .when (.ite (.acts ⟨(setF_own _ _ _).widen, (modStall_framed _ _).widen, (modulePortsGo_framed _).widen, trivial⟩)
    (siteFail_framed _ _).widen)

theorem siteFault_framed (st : Nat) : (siteFault st).Framed (.cnt :: .lanes :: .ports :: .qtrs :: .stalls :: .time :: occurParts)
    (.STALL_EVT_CAUSE :: .STALL_STATUS :: leaveRegs) := .look fun _ =>
  .when (siteFail_framed _ _).widen

theorem siteFaultRetry_framed (st : Nat) : (siteFaultRetry st).Framed [.live, .regs, .stalls] [.STALL_STATUS] := .look fun _ =>
  .when (.acts ⟨(modStall_framed _ _).widen, (siteStart_framed _).widen, trivial⟩)

theorem txpllLoss_framed (st : Nat) : (txpllLoss st).Framed (.cnt :: .lanes :: .ports :: .qtrs :: .stalls :: .time :: occurParts)
    (.STALL_EVT_CAUSE :: .STALL_STATUS :: leaveRegs) := .look fun _ =>
  .when (.acts ⟨(setB_own _ _ _).widen, (raise_own _ _).widen, .each (fun _ _ => (dropToRestart_framed _ _).widen), trivial⟩)

theorem txpllRelock_framed (st : Nat) : (txpllRelock st).Framed [.live, .ports, .regs] [.PORT_STATE, .STALL_STATUS, .TIME_PORT_CAL_STATUS]
    := .look fun _ =>
  .when (.acts ⟨(setB_own _ _ _).widen, (calStartAll_framed _ _).widen, trivial⟩)


end Sys2Proof.Machine
end

section
/-!
PROOF. Frames (3 of 7): what each action may change, as lists of parts and registers that follow its definition. The lemmas are
many and small: they are elaborated one after another, since a thread for each would take more memory than the check has.
-/
set_option Elab.async false
namespace Sys2Proof.Machine

/-! ### Machine/Search.lean -/

theorem setUsed_framed (a t n : Nat) : (setUsed a t n).Framed [.live, .regs] [.AISLE_TILE_CFG] := (setF_own _ _ _).widen

theorem putTile_framed (a t e : Nat) (x : Tile) : (putTile a t e x).Framed [.copies, .tiles] [] := .acts ⟨.upd rfl, .upd rfl, trivial⟩

theorem clearValid_framed (a t e : Nat) : (clearValid a t e).Framed [.copies, .tiles] [] := .look fun _ => (putTile_framed _ _ _ _).widen

theorem moveTile_framed (a t i j : Nat) : (moveTile a t i j).Framed [.copies, .tiles] [] := .look fun _ =>
  .acts ⟨(putTile_framed _ _ _ _).widen, (clearValid_framed _ _ _).widen, trivial⟩

theorem sealLatch_framed : (sealLatch).Framed occurParts (.SYS_MODE :: .SYS_MODE_EVT_CAUSE :: occurRegs) := .look fun _ =>
  .when (.acts ⟨(setB_own _ _ _).widen, (raise_own _ _).widen, trivial⟩)

theorem setWindow_framed (l : List Nat) : (setWindow l).Framed (.dma :: occurParts) setWindowRegs := .look fun _ =>
  .acts ⟨(modDma_framed _).widen, (setF_own _ _ _).widen, .when (raise_own _ _).widen, (sealLatch_framed).widen, trivial⟩

theorem winAdd_framed : (winAdd).Framed (.dma :: occurParts) setWindowRegs := .look fun _ => (setWindow_framed _).widen

theorem logFinding_framed (f : Finding) : (logFinding f).Framed [.dma, .live, .regs] [.SYS_MODE] := .look fun _ =>
  .acts ⟨(modDma_framed _).widen, .when (setB_own _ _ _).widen, trivial⟩

theorem countMove_framed (a : Nat) : (countMove a).Framed [.cnt] [] := (count_own _ _ _ _).widen

theorem chainMoves_framed (a t hole : Nat) (l : List Nat) : (chainMoves a t hole l).1.Framed [.cnt, .copies, .tiles] [] := by
  induction l generalizing hole with
  | nil => exact .skip
  | cons i r ih =>
    simp only [chainMoves]
    split
    · exact ih i
    · exact .acts ⟨(moveTile_framed _ _ _ _).widen, (countMove_framed _).widen, ih i, trivial⟩

theorem placeNew_framed (a t : Nat) (x : Tile) : (placeNew a t x).Framed [.cnt, .copies, .live, .regs, .tiles] [.AISLE_TILE_CFG] :=
  .look fun _ => .acts ⟨(chainMoves_framed _ _ _ _).widen, (putTile_framed _ _ _ _).widen, (setUsed_framed _ _ _).widen, trivial⟩

theorem deleteAt_framed (a t x : Nat) : (deleteAt a t x).Framed [.cnt, .copies, .live, .regs, .tiles] [.AISLE_TILE_CFG] := .look fun _ =>
  .acts ⟨(clearValid_framed _ _ _).widen, (chainMoves_framed _ _ _ _).widen, (setUsed_framed _ _ _).widen, trivial⟩

theorem rebuildFail_framed (a k result : Nat) : (rebuildFail a k result).Framed (.cnt :: .rebuild :: occurParts) (.AISLE_REBUILD_STATUS ::
    .AISLE_SRCH_EVT_CAUSE :: occurRegs) :=
  .acts ⟨(setF_own _ _ _).widen, (setF_own _ _ _).widen, (setF_own _ _ _).widen, (modRebuild_framed _ _).widen, (raise_own _ _).widen,
    (count_own _ _ _ _).widen, trivial⟩

theorem targetPut_framed (a k : Nat) (x : Tile) : (targetPut a k x).Framed (.cnt :: .copies :: .rebuild :: .tiles :: occurParts)
    (.AISLE_REBUILD_STATUS :: .AISLE_SRCH_EVT_CAUSE :: .AISLE_TILE_CFG :: occurRegs) := by
  refine .look fun _ => ?_
  dsimp only
  split
  · exact (putTile_framed _ _ _ _).widen
  · exact .ite (placeNew_framed _ _ _).widen (.when (rebuildFail_framed _ _ _).widen)

theorem lpmInsert_framed (p : Prefix) (res : BitVec 32) (a : Nat) (s : Machine.State) : ((lpmInsert p res a s).2).Framed (.cnt :: .copies
    :: .rebuild :: .tiles :: occurParts) (.AISLE_REBUILD_STATUS :: .AISLE_SRCH_EVT_CAUSE :: .AISLE_TILE_CFG :: occurRegs) := by
  refine .ite_snd .skip ?_
  split
  · exact .acts ⟨(putTile_framed _ _ _ _).widen, .each (fun _ _ => (targetPut_framed _ _ _).widen), trivial⟩
  · split
    · exact (raise_own _ _).widen
    · exact .acts ⟨(placeNew_framed _ _ _).widen, (count_own _ _ _ _).widen, .each (fun _ _ => (targetPut_framed _ _ _).widen), trivial⟩

theorem rebuildSwitch_framed (a k : Nat) : (rebuildSwitch a k).Framed [.live, .rebuild, .regs] [.AISLE_LPM_MAP, .AISLE_REBUILD_STATUS,
    .AISLE_RULE_MAP] := .look fun _ =>
  .when (.acts ⟨(modRebuild_framed _ _).widen, .ite (setFHw_own _ _ _).widen (.acts ⟨(setFHw_own _ _ _).widen, (setFHw_own _ _ _).widen,
    (setFHw_own _ _ _).widen, trivial⟩), (setF_own _ _ _).widen, trivial⟩)

theorem onAisles_framed {P : List Part} {R : List Reg} {f : Nat → State → Nat × Act} {k : Nat → Nat → Act}
    (hf : ∀ a s, (f a s).2.Framed P R) (hk : ∀ st m, (k st m).Framed P R) : (onAisles f k).Framed P R :=
  .look fun _ => .acts ⟨.each fun _ _ => .look fun _ => hf _ _, hk _ _, trivial⟩

theorem lpmInsertC_framed (p : Prefix) (res : BitVec 32) (a : Nat) (s : Machine.State) : ((lpmInsertC p res a s).2).Framed (.cnt ::
    .copies :: .rebuild :: .tiles :: occurParts) (.AISLE_LPM_MAP :: .AISLE_REBUILD_STATUS :: .AISLE_RULE_MAP :: .AISLE_SRCH_EVT_CAUSE ::
    .AISLE_TILE_CFG :: occurRegs) :=
  .acts ⟨.each (fun _ _ => (rebuildSwitch_framed _ _).widen), (lpmInsert_framed _ _ _ _).widen, .when (count_own _ _ _ _).widen, trivial⟩

theorem lpmDelete_framed (p : Prefix) (a : Nat) (s : Machine.State) : ((lpmDelete p a s).2).Framed [.cnt, .copies, .live, .regs, .tiles]
    [.AISLE_TILE_CFG] := by
  refine .ite_snd .skip ?_
  dsimp only
  split
  · exact .skip
  · refine .acts ⟨(deleteAt_framed _ _ _).widen, (count_own _ _ _ _).widen, .each (fun _ _ => .look fun _ => ?_), trivial⟩
    split
    · exact (deleteAt_framed _ _ _).widen
    · exact .skip

theorem pselWrite_framed (p : Nat) (e : BitVec 64) (a : Nat) (s : Machine.State) : ((pselWrite p e a s).2).Framed (.flat :: occurParts)
    (.AISLE_SRCH_EVT_CAUSE :: occurRegs) :=
  .ite_snd (raise_own _ _).widen (.upd rfl)

theorem rulePut_framed (a n i : Nat) (x : Tile) : (rulePut a n i x).Framed [.copies, .live, .regs, .tiles] [.AISLE_TILE_CFG] :=
  .look fun _ => .acts ⟨.look fun _ => .acts ⟨(setUsed_framed _ _ _).widen, (putTile_framed _ _ _ _).widen, trivial⟩, .each (fun _ _ =>
    .look fun _ => .look fun _ => .acts ⟨(setUsed_framed _ _ _).widen, (putTile_framed _ _ _ _).widen, trivial⟩), trivial⟩

theorem ruleWrite_framed (n i : Nat) (value care : BitVec 320) (res : BitVec 64) (a : Nat) (s : Machine.State) :
    ((ruleWrite n i value care res a s).2).Framed [.copies, .live, .regs, .tiles] [.AISLE_TILE_CFG] :=
  .ite_snd .skip (.ite_snd .skip (rulePut_framed _ _ _ _).widen)

theorem ruleClear_framed (n i a : Nat) (s : Machine.State) : ((ruleClear n i a s).2).Framed [.copies, .live, .regs, .tiles]
    [.AISLE_TILE_CFG] :=
  .ite_snd .skip (.ite_snd .skip (rulePut_framed _ _ _ _).widen)

theorem ruleMove_framed (n i m j a : Nat) (s : Machine.State) : ((ruleMove n i m j a s).2).Framed [.cnt, .copies, .live, .regs, .tiles]
    [.AISLE_TILE_CFG] :=
  .ite_snd .skip (.ite_snd .skip (.ite_snd .skip (.acts ⟨(rulePut_framed _ _ _ _).widen, (rulePut_framed _ _ _ _).widen,
    (countMove_framed _).widen, trivial⟩)))

theorem rebuildGo_framed (req : Req) (a k : Nat) (value : Word) : (rebuildGo req a k value).Framed (.cnt :: .copies :: .evt :: .rebuild ::
    .tiles :: occurParts) (.AISLE_REBUILD_CTL :: .AISLE_REBUILD_STATUS :: .AISLE_SRCH_EVT_CAUSE :: .AISLE_SRCH_STATUS :: .AISLE_TILE_CFG
    :: .SYS_LOCKED_WR :: .SYS_LOCKED_WR_INFO :: .SYS_REJECT_ADDR :: .SYS_REJECT_INFO :: accessRegs) := by
  refine onWrite_own (fun _ => .look fun _ => .ite (writeFields_own _ _ _ _).widen (.ite (reject_srch _ _ _ _ _).widen (.acts
    ⟨(writeFields_own _ _ _ _).widen, ?_, trivial⟩)))
  split
  · exact .acts ⟨(setF_own _ _ _).widen, (raise_own _ _).widen, (count_own _ _ _ _).widen, trivial⟩
  · exact .acts ⟨(modRebuild_framed _ _).widen, .upd ⟨rfl, nofun, nofun⟩, .upd ⟨rfl, nofun, nofun⟩, (setUsed_framed _ _ _).widen,
      (setB_own _ _ _).widen, (setF_own _ _ _).widen, (setF_own _ _ _).widen, trivial⟩

theorem rebuildEntries_framed (a k : Nat) (l : List (Nat × Tile)) : (rebuildEntries a k l).Framed (.cnt :: .copies :: .rebuild :: .tiles
    :: occurParts) (.AISLE_REBUILD_STATUS :: .AISLE_SRCH_EVT_CAUSE :: .AISLE_TILE_CFG :: occurRegs) := by
  induction l with
  | nil => exact .skip
  | cons x r ih => exact .look fun _ => .ite .skip (.acts ⟨.when (.acts ⟨.ite (.acts ⟨(putTile_framed _ _ _ _).widen,
      (setUsed_framed _ _ _).widen, trivial⟩) (targetPut_framed _ _ _).widen, .look fun _ => .when (.acts ⟨(countMove_framed _).widen,
      (setF_own _ _ _).widen, trivial⟩), trivial⟩), ih, trivial⟩)

theorem rebuildCopyDone_framed (a k : Nat) : (rebuildCopyDone a k).Framed (.cnt :: .copies :: .rebuild :: .tiles :: occurParts)
    (.AISLE_REBUILD_STATUS :: .AISLE_SRCH_EVT_CAUSE :: .AISLE_TILE_CFG :: occurRegs) := .look fun _ =>
  .when (.acts ⟨(rebuildEntries_framed _ _ _).widen, .look fun _ => .when (.acts ⟨(setF_own _ _ _).widen, (setF_own _ _ _).widen,
    trivial⟩), trivial⟩)

theorem rebuildClearDone_framed (a k : Nat) : (rebuildClearDone a k).Framed (.cnt :: .copies :: .rebuild :: .tiles :: occurParts)
    (.AISLE_REBUILD_STATUS :: .AISLE_SRCH_EVT_CAUSE :: .AISLE_TILE_CFG :: occurRegs) := .look fun _ =>
  .when (.acts ⟨.upd ⟨rfl, nofun, nofun⟩, .upd ⟨rfl, nofun, nofun⟩, (setUsed_framed _ _ _).widen, (setF_own _ _ _).widen,
    (setB_own _ _ _).widen, .when (.acts ⟨(setF_own _ _ _).widen, (raise_own _ _).widen, (count_own _ _ _ _).widen, trivial⟩), .upd rfl,
    trivial⟩)

theorem tcamFinding_framed (a t u kind : Nat) (c : Tile) (w j : Nat) : (tcamFinding a t u kind c w j).Framed (.dma ::
    occurParts) setWindowRegs := .look fun _ =>
  .acts ⟨(logFinding_framed _).widen, (winAdd_framed).widen, trivial⟩

theorem assayUnitRead_framed (a flip code : Nat) : (assayUnitRead a flip code).Framed (.aisles :: .cnt :: .copies :: .dma :: .tiles ::
    occurParts) (.AISLE_SRCH_EVT_CAUSE :: .AISLE_SRCH_STATUS :: .AISLE_TILE_CFG :: setWindowRegs) := .look fun _ =>
  .when (.acts ⟨.upd rfl, .ite (.acts ⟨.ite (.ite (deleteAt_framed _ _ _).widen (clearValid_framed _ _ _).widen) (.acts
    ⟨(clearValid_framed _ _ _).widen, .when (setUsed_framed _ _ _).widen, trivial⟩), (count_own _ _ _ _).widen, (raise_own _ _).widen,
    (tcamFinding_framed _ _ _ _ _ _ _).widen, trivial⟩) (.acts ⟨.when (count_own _ _ _ _).widen, .when (.acts ⟨.when (.upd rfl),
    (count_own _ _ _ _).widen, (raise_own _ _).widen, (tcamFinding_framed _ _ _ _ _ _ _).widen, trivial⟩), trivial⟩), .ite
    (modAisle_framed _ _).widen (.acts ⟨(modAisle_framed _ _).widen, (addMod_own _ _ _).widen, trivial⟩), trivial⟩)

theorem stepSync_framed : (stepSync).Framed occurParts (.AISLE_SRCH_EVT_CAUSE :: .AISLE_SRCH_STATUS :: occurRegs) := .look fun _ =>
  .each (fun _ _ => .when (.acts ⟨(setF_own _ _ _).widen, (raise_own _ _).widen, trivial⟩))


/-! ### Machine/Micro.lean -/

theorem modStore_framed (k : Nat) (f : McStore → McStore) : (modStore k f).Framed [.aisles, .pe] [] :=
  .ite (modAisle_framed _ _).widen (modPe_framed _).widen

theorem modEng_framed (e : Eng) (f : Engine → Engine) : (modEng e f).Framed [.aisles, .pe] [] := by
  unfold modEng
  split
  · exact (modAisle_framed _ _).widen
  · exact (modPe_framed _).widen

theorem fenceAisle_framed (a : Nat) : (fenceAisle a).Framed (.aisles :: .cnt :: .lanes :: .ports :: .qtrs :: .stalls :: .time ::
    occurParts) (.AISLE_MC_EVT_CAUSE :: .SYS_EPOCH_APPLIED0 :: .SYS_EPOCH_APPLIED1 :: .SYS_EPOCH_APPLIED2 :: leaveRegs) := .look fun _ =>
  .when (.acts ⟨(modAisle_framed _ _).widen, (raise_own _ _).widen, .each (fun _ _ => (dropToRestart_framed _ _).widen),
    (unitReport_framed _).widen, trivial⟩)

theorem machineCheck_framed (e : Eng) (kind addr groups : Nat) : (machineCheck e kind addr groups).Framed (.aisles :: .cnt :: .lanes ::
    .pe :: .ports :: .qtrs :: .stalls :: .time :: occurParts) (.AISLE_MC_EVT_CAUSE :: .AISLE_MC_STATUS :: .PE_EVT_CAUSE :: .PE_STATUS ::
    .SYS_EPOCH_APPLIED0 :: .SYS_EPOCH_APPLIED1 :: .SYS_EPOCH_APPLIED2 :: leaveRegs) :=
  .acts ⟨.look fun _ => .ite (modStore_framed _ _).widen (.ite (setB_own _ _ _).widen (setB_own _ _ _).widen), .look fun _ =>
    (modStore_framed _ _).widen, (count_own _ _ _ _).widen, .when (count_own _ _ _ _).widen, .ite (raisePe_framed _).widen
    (by split <;> exact (raise_own _ _).widen), .look fun _ => .when (.ite (raisePe_framed _).widen (fenceAisle_framed _).widen), trivial⟩

theorem repairFull_framed (k : Nat) : (repairFull k).Framed (.aisles :: .cnt :: .lanes :: .ports :: .qtrs :: .stalls :: .time ::
    occurParts) (.AISLE_MC_EVT_CAUSE :: .PE_EVT_CAUSE :: .SYS_EPOCH_APPLIED0 :: .SYS_EPOCH_APPLIED1 :: .SYS_EPOCH_APPLIED2 :: leaveRegs)
    := .look fun _ =>
  .when (.ite (raisePe_framed _).widen (.acts ⟨(raise_own _ _).widen, (fenceAisle_framed _).widen, trivial⟩))

theorem parityCheck_framed (e : Eng) (kind addr groups : Nat) : (parityCheck e kind addr groups).Framed (.aisles :: .cnt :: .lanes :: .pe
    :: .ports :: .qtrs :: .stalls :: .time :: occurParts) (.AISLE_MC_EVT_CAUSE :: .AISLE_MC_STATUS :: .PE_EVT_CAUSE :: .PE_STATUS ::
    .SYS_EPOCH_APPLIED0 :: .SYS_EPOCH_APPLIED1 :: .SYS_EPOCH_APPLIED2 :: leaveRegs) :=
  .acts ⟨.look fun _ => (modStore_framed _ _).widen, (modEng_framed _ _).widen, (machineCheck_framed _ _ _ _).widen, .when
    (repairFull_framed _).widen, trivial⟩

theorem faultCheck_framed (e : Eng) (kind addr : Nat) : (faultCheck e kind addr).Framed (.aisles :: .cnt :: .lanes :: .pe :: .ports ::
    .qtrs :: .stalls :: .time :: occurParts) (.AISLE_MC_EVT_CAUSE :: .AISLE_MC_STATUS :: .PE_EVT_CAUSE :: .PE_STATUS ::
    .SYS_EPOCH_APPLIED0 :: .SYS_EPOCH_APPLIED1 :: .SYS_EPOCH_APPLIED2 :: leaveRegs) :=
  .acts ⟨(machineCheck_framed _ _ _ _).widen, (modEng_framed _ _).widen, trivial⟩

theorem peFreeFrame_framed (fid : Nat) : (peFreeFrame fid).Framed (.bufs :: .cnt :: .perf :: .ports :: .swc :: occurParts) freeRegs :=
  .look fun _ => .each (fun _ _ => (freeReq_framed _ _ _ _ _).widen)

theorem dispatchMiss_framed (e : Eng) : (dispatchMiss e).Framed (.aisles :: .bufs :: .cnt :: .pe :: .perf :: .ports :: .swc ::
    occurParts) freeRegs := by
  refine .acts ⟨(count_own _ _ _ _).widen, ?_, trivial⟩
  split
  · exact (modEng_framed _ _).widen
  · exact .look fun _ => .acts ⟨(modEng_framed _ _).widen, (peFreeFrame_framed _).widen, trivial⟩

theorem startRoutine_framed (e : Eng) (i : Nat) : (startRoutine e i).Framed [.aisles, .pe] [] := .look fun _ => (modEng_framed _ _).widen

theorem hewerStart_framed (e : Eng) (k : Packet) : (hewerStart e k).Framed [.aisles, .pe] [] := .look fun _ =>
  .acts ⟨(modEng_framed _ _).widen, (startRoutine_framed _ _).widen, trivial⟩

theorem modPacket_framed (fid : Nat) (f : Packet → Packet) : (modPacket fid f).Framed [.pkts] [] := (modPkts_framed _).widen

theorem dropPacket_framed (fid : Nat) : (dropPacket fid).Framed [.pkts] [] := (modPkts_framed _).widen

theorem peDeliver_framed (k : Packet) (wt : Nat) : (peDeliver k wt).Framed (.cnt :: .pkts :: .ports :: .swc :: occurParts) (.PE_EVT_CAUSE
    :: occurRegs) := .look fun _ =>
  .ite (.acts ⟨(dropPacket_framed _).widen, (count_own _ _ _ _).widen, (raisePe_framed _).widen, trivial⟩) (.acts
    ⟨(modPort_framed _ _).widen, (modPacket_framed _ _).widen, (askBuffer_framed _ _).widen, trivial⟩)

theorem leaveList_framed (l : List Packet) (p : Nat) : (leaveList l p).Framed (.cnt :: .pkts :: .ports :: .swc :: occurParts)
    (.PE_EVT_CAUSE :: occurRegs) := by
  induction l with
  | nil => exact .skip
  | cons k r ih =>
    refine .ite ih ?_
    split
    · exact .acts ⟨(peDeliver_framed _ _).widen, ih, trivial⟩
    · exact .ite .skip (.acts ⟨(modPacket_framed _ _).widen, (askBuffer_framed _ _).widen, ih, trivial⟩)

theorem leaveHewers_framed (p : Nat) : (leaveHewers p).Framed (.cnt :: .pkts :: .ports :: .swc :: occurParts) (.PE_EVT_CAUSE :: occurRegs)
    := .look fun _ =>
  (leaveList_framed _ _).widen

theorem doWord_framed (e : Eng) (w : BitVec 200) (pc at_ : Nat) : (doWord e w pc at_).Framed (.aisles :: .cnt :: .lanes :: .pe :: .ports
    :: .qtrs :: .stalls :: .time :: occurParts) (.AISLE_MC_EVT_CAUSE :: .AISLE_MC_STATUS :: .PE_EVT_CAUSE :: .PE_STATUS ::
    .SYS_EPOCH_APPLIED0 :: .SYS_EPOCH_APPLIED1 :: .SYS_EPOCH_APPLIED2 :: leaveRegs) := by
  refine .look fun _ => .ite (faultCheck_framed _ _ _).widen ?_
  dsimp only
  split
  · exact (modEng_framed _ _).widen
  · exact (modEng_framed _ _).widen
  · exact .acts ⟨(modEng_framed _ _).widen, (faultCheck_framed _ _ _).widen, trivial⟩
  · exact (modEng_framed _ _).widen

theorem keepFlip_framed (f : Fetch) (e : Eng) : (f.keepFlip e).Framed [.aisles, .pe] [] := by
  unfold Fetch.keepFlip
  split
  · exact (modStore_framed _ _).widen
  · exact (modStore_framed _ _).widen
  · exact .skip

theorem microwordExecute_framed (e : Eng) (upset : Nat) : (microwordExecute e upset).Framed (.aisles :: .bufs :: .cnt :: .lanes :: .pe ::
    .perf :: .ports :: .qtrs :: .stalls :: .swc :: .time :: occurParts) microwordExecuteRegs := .look fun _ =>
  .ite (.when (modPe_framed _).widen) (.when (.ite (modEng_framed _ _).widen (.ite (faultCheck_framed _ _ _).widen (.ite (.acts ⟨.when
    (keepFlip_framed _ _).widen, (parityCheck_framed _ _ _ _).widen, trivial⟩) (.ite (dispatchMiss_framed _).widen (.acts ⟨.when
    (count_own _ _ _ _).widen, (modEng_framed _ _).widen, .ite (.acts ⟨.when (modStore_framed _ _).widen,
    (parityCheck_framed _ _ _ _).widen, trivial⟩) (.ite (.acts ⟨(modEng_framed _ _).widen, (count_own _ _ _ _).widen, trivial⟩)
    (doWord_framed _ _ _ _).widen), trivial⟩))))))

theorem makeCall_framed {P : List Part} {R : List Reg} (e : Eng) (top : Nat) (k : Nat → Nat → Engine → Act) (hs : frameSub [.aisles, .pe]
    [] P R = true) (hk : ∀ x0 x1 x2, (k x0 x1 x2).Framed P R) : (makeCall e top k).Framed P R := by
  refine .look fun _ => ?_
  split
  · exact .ite (.acts ⟨(modEng_framed _ _).into hs, (hk _ _ _), trivial⟩) .skip
  · exact .skip

theorem setRes_framed (e : Eng) (x : Nat) (hit : Bool) : (setRes e x hit).Framed [.aisles, .pe] [] := (modEng_framed _ _).widen

theorem stage_framed (e : Eng) (top sel i : Nat) (ws : List (BitVec 32)) : (stage e top sel i ws).Framed [.aisles, .pe] [] :=
  (modEng_framed _ _).widen

theorem nhRead_framed (e : Eng) : (nhRead e).Framed [.aisles, .pe] [] :=
  makeCall_framed _ _ _ (by decide) (fun _ _ _ => .look fun _ => (setRes_framed _ _ _).widen)

theorem rwRead_framed (e : Eng) : (rwRead e).Framed [.aisles, .pe] [] :=
  makeCall_framed _ _ _ (by decide) (fun _ _ _ => .look fun _ => (setRes_framed _ _ _).widen)

theorem bdRead_framed (e : Eng) : (bdRead e).Framed [.aisles, .pe] [] :=
  makeCall_framed _ _ _ (by decide) (fun _ _ _ => .look fun _ => (setRes_framed _ _ _).widen)

theorem countCall_framed (e : Eng) : (countCall e).Framed [.aisles, .pe] [] :=
  makeCall_framed _ _ _ (by decide) (fun _ _ _ => (stage_framed _ _ _ _ _).widen)

theorem stRead_framed : (stRead).Framed [.aisles, .pe] [] :=
  makeCall_framed _ _ _ (by decide) (fun _ _ _ => .look fun _ => (setRes_framed _ _ _).widen)

theorem stWrite_framed : (stWrite).Framed [.aisles, .pe] [] :=
  makeCall_framed _ _ _ (by decide) (fun _ _ _ => (stage_framed _ _ _ _ _).widen)

theorem msgPost_framed : (msgPost).Framed [.aisles, .pe] [] :=
  makeCall_framed _ _ _ (by decide) (fun _ _ _ => (stage_framed _ _ _ _ _).widen)

theorem timerSet_framed : (timerSet).Framed [.aisles, .pe] [] :=
  makeCall_framed _ _ _ (by decide) (fun _ _ _ => (stage_framed _ _ _ _ _).widen)

theorem txFrame_framed : (txFrame).Framed [.aisles, .pe] [] :=
  makeCall_framed _ _ _ (by decide) (fun _ _ _ => (stage_framed _ _ _ _ _).widen)

theorem tsRead_framed : (tsRead).Framed [.aisles, .pe] [] := by
  refine makeCall_framed _ _ _ (by decide) (fun _ _ _ => .look fun _ => ?_)
  split <;> exact (setRes_framed _ _ _).widen

theorem tableCallResult_framed (e : Eng) : (tableCallResult e).Framed [.aisles, .pe] [] := (modEng_framed _ _).widen

theorem commitOne_framed (e : Eng) (w : Nat × Nat × Nat × List (BitVec 32)) : (commitOne e w).Framed (.cnt :: .fidNext :: .fresh :: .pe ::
    .perf :: .pkts :: .stm :: .swc :: occurParts) (.PERF_STATUS :: .PE_EVT_CAUSE :: .SWC_EVT_CAUSE :: occurRegs) := by
  refine .look fun _ => ?_
  split <;> exact .ite (count_own _ _ _ _).widen (.ite (.upd rfl) (.ite (postMsg_framed _ _).widen (.ite (modPe_framed _).widen (.ite
    (draw_own (fun _ => (peSend_framed _ _ _ _).widen)) .skip))))

theorem endRoutine_framed (e : Eng) : (endRoutine e).Framed (.aisles :: .bufs :: .cnt :: .fidNext :: .fresh :: .pe :: .perf :: .pkts ::
    .ports :: .stm :: .swc :: occurParts) (.PE_EVT_CAUSE :: freeRegs) := by
  refine .look fun _ => .when (.acts ⟨(modEng_framed _ _).widen, .each (fun _ _ => (commitOne_framed _ _).widen), ?_, trivial⟩)
  split
  · split
    · exact .skip
    · exact .acts ⟨(modPacket_framed _ _).widen, (leaveHewers_framed _).widen, trivial⟩
  · exact (peFreeFrame_framed _).widen

theorem abort_framed (e : Eng) : (abort e).Framed (.aisles :: .bufs :: .cnt :: .pe :: .perf :: .pkts :: .ports :: .swc :: occurParts)
    (.PE_EVT_CAUSE :: freeRegs) := by
  refine .look fun _ => .when (.acts ⟨(modEng_framed _ _).widen, (count_own _ _ _ _).widen, ?_, trivial⟩)
  split
  · split
    · exact .skip
    · exact .acts ⟨.ite (dropPacket_framed _).widen (.acts ⟨(count_own _ _ _ _).widen, (count_own _ _ _ _).widen,
        (raisePe_framed _).widen, (modPacket_framed _ _).widen, trivial⟩), (leaveHewers_framed _).widen, trivial⟩
  · exact (peFreeFrame_framed _).widen

theorem mcResume_framed (req : Req) (k : Nat) (value : Word) : (mcResume req k value).Framed (.aisles :: .evt :: .pe :: occurParts)
    (.AISLE_MC_EVT_CAUSE :: .AISLE_MC_STATUS :: .PE_EVT_CAUSE :: .PE_STATUS :: .SYS_REJECT_ADDR :: .SYS_REJECT_INFO :: accessRegs) :=
  onSecWrite_framed _ _ _ _ (by decide) (fun _ => .when (.look fun _ => .ite (.acts ⟨(modStore_framed _ _).widen, .ite (.acts
    ⟨(modAisle_framed _ _).widen, (raise_own _ _).widen, trivial⟩) (.acts ⟨(modPe_framed _).widen, (raisePe_framed _).widen, trivial⟩),
    trivial⟩) (reject3_mcBlk _ _ _ _).widen))

theorem mcPop_framed (req : Req) (k : Nat) (value : Word) : (mcPop req k value).Framed (.aisles :: .evt :: .pe :: occurParts) accessRegs
    :=
  onSecWrite_framed _ _ _ _ (by decide) (fun _ => .when (modStore_framed _ _).widen)

theorem fence_framed (req : Req) (a : Nat) (value : Word) : (fence req a value).Framed (.aisles :: .cnt :: .evt :: .lanes :: .ports ::
    .qtrs :: .stalls :: .time :: occurParts) (.AISLE_MC_EVT_CAUSE :: .SYS_BUS_ERR :: .SYS_BUS_ERR_INFO :: .SYS_EPOCH_APPLIED0 ::
    .SYS_EPOCH_APPLIED1 :: .SYS_EPOCH_APPLIED2 :: .SYS_EVT_CAUSE :: leaveRegs) :=
  onSecWrite_framed _ _ _ _ (by decide) (fun _ => .when (fenceAisle_framed _).widen)

theorem resumeTimeout_framed (a : Nat) : (resumeTimeout a).Framed (.aisles :: .cnt :: .lanes :: .pe :: .ports :: .qtrs :: .stalls :: .time
    :: occurParts) (.AISLE_MC_EVT_CAUSE :: .SYS_EPOCH_APPLIED0 :: .SYS_EPOCH_APPLIED1 :: .SYS_EPOCH_APPLIED2 :: leaveRegs) :=
  .look fun _ => .when (.acts ⟨(modStore_framed _ _).widen, (fenceAisle_framed _).widen, trivial⟩)

theorem peResumeTimeout_framed : (peResumeTimeout).Framed (.aisles :: .pe :: occurParts) (.PE_EVT_CAUSE :: occurRegs) := .look fun _ =>
  .when (.acts ⟨(modStore_framed _ _).widen, (raisePe_framed _).widen, trivial⟩)


/-! ### Machine/HostQ.lean -/

theorem hqAdvance_framed (k n : Nat) : (hqAdvance k n).Framed [.live, .regs] [.HQ_HEAD] := .look fun _ => (setF_own _ _ _).widen

theorem hostWrite_framed (a : Nat) (l : List Byte) : (hostWrite a l).Framed [.hostWr] [] := .each (fun _ _ => .upd rfl)

theorem d2hDeliver_framed (q reason : Nat) (f : Frame) : (d2hDeliver q reason f).Framed (.bufs :: .cnt :: .dma :: .perf :: .ports :: .swc
    :: occurParts) (.DMA_EVT_CAUSE :: .HQ_LOST :: freeRegs) := .look fun _ =>
  .ite (.acts ⟨(addSat_own _ _ _).widen, (peFreeFrame_framed _).widen, trivial⟩) (.ite (.acts ⟨(addSat_own _ _ _).widen,
    (raiseDma_framed _).widen, (peFreeFrame_framed _).widen, trivial⟩) (modDma_framed _).widen)

theorem d2hTerminate_framed (q : Nat) : (d2hTerminate q).Framed (.bufs :: .cnt :: .dma :: .perf :: .ports :: .swc :: occurParts) (.HQ_LOST
    :: freeRegs) := .look fun _ =>
  .acts ⟨(addSat_own _ _ _).widen, .each (fun _ _ => (peFreeFrame_framed _).widen), (modDma_framed _).widen, trivial⟩

theorem h2dKeep_framed : (h2dKeep).Framed [.dma] [] := (modDma_framed _).widen

theorem hostSlot_framed (k : Nat) : (hostSlot k).Framed [.dma] [] := .look fun _ => .when (modDma_framed _).widen

theorem h2dOne_framed (k : Nat) (io : List Byte × List Byte) : (h2dOne k io).Framed (.cnt :: .fidNext :: .perf :: .pkts :: .swc ::
    occurParts) (.DMA_EVT_CAUSE :: .HQ_LOST :: .PERF_STATUS :: .SWC_EVT_CAUSE :: occurRegs) :=
  .ite (.acts ⟨(addSat_own _ _ _).widen, (raiseDma_framed _).widen, trivial⟩) (peSend_framed _ _ _ _).widen

theorem d2hOne_framed (k i : Nat) (io : List Byte) (reason : Nat) (f : Frame) : (d2hOne k i io reason f).Framed (.bufs :: .cnt :: .hostWr
    :: .perf :: .ports :: .swc :: occurParts) freeRegs := .look fun _ =>
  .acts ⟨(hostWrite_framed _ _).widen, (hostWrite_framed _ _).widen, (peFreeFrame_framed _).widen, trivial⟩

theorem hostPacketMoverDone_framed (k : Nat) (io : List (List Byte × List Byte)) : (hostPacketMoverDone k io).Framed (.bufs :: .cnt ::
    .dma :: .fidNext :: .hostWr :: .perf :: .pkts :: .ports :: .swc :: occurParts) (.DMA_EVT_CAUSE :: .HQ_HEAD :: .HQ_LOST :: freeRegs)
    := by
  refine .look fun _ => ?_
  split
  · exact .skip
  · exact .acts ⟨(modDma_framed _).widen, .ite (.each (fun _ _ => (h2dOne_framed _ _).widen)) (.when (.ite (.acts ⟨.each (fun _ _ =>
      (h2dOne_framed _ _).widen), (hqAdvance_framed _ _).widen, .when (raiseDma_framed _).widen, trivial⟩) (.acts ⟨.each (fun _ _ =>
      (d2hOne_framed _ _ _ _ _).widen), (modDma_framed _).widen, (hqAdvance_framed _ _).widen, .when (raiseDma_framed _).widen,
      trivial⟩))), trivial⟩


/-! ### Machine/Nvm.lean -/

theorem nvmWritten_framed (l : List (Nat × BitVec 8)) : (nvmWritten l).Framed [.nvmMem] [] := .each (fun _ _ => .upd rfl)

theorem noteValid_framed (slot : Nat) : (noteValid slot).Framed [.live, .regs] [.NVM_STATUS] := by
  refine .look fun _ => ?_
  split <;> exact (setB_own _ _ _).widen

theorem nvmQueue_framed (region : Nat) (l : List Byte) : (nvmQueue region l).Framed [.nvm] [] := (modNvm_framed _).widen

theorem holdSync_framed : (holdSync).Framed [.live, .regs] [.NVM_STATUS] := .look fun _ => (setB_own _ _ _).widen

theorem programBytes_framed (a : Nat) (l : List Byte) : (programBytes a l).Framed [.nvmMem] [] := .look fun _ =>
  .each (fun _ _ => .upd rfl)

theorem ledgerFull_framed : (ledgerFull).Framed occurParts (.SHR_EVT_CAUSE :: .SHR_STATUS :: occurRegs) :=
  .acts ⟨(raise_own _ _).widen, (setB_own _ _ _).widen, trivial⟩

theorem nvmPageProgram_framed : (nvmPageProgram).Framed (.nvm :: occurParts) (.DMA_EVT_CAUSE :: .NVM_FAULT :: .NVM_STATUS ::
    .SHR_EVT_CAUSE :: .SHR_STATUS :: occurRegs) := by
  refine .look fun _ => ?_
  split
  · exact .skip
  · exact .when (.ite (.acts ⟨(modNvm_framed _).widen, .when (raiseDma_framed _).widen, trivial⟩) (.acts ⟨(modNvm_framed _).widen, .when
      (.acts ⟨(modNvm_framed _).widen, (setF_own _ _ _).widen, trivial⟩), .when (ledgerFull_framed).widen, (setB_own _ _ _).widen,
      trivial⟩))

theorem programEnd_framed : (programEnd).Framed [.live, .nvm, .nvmMem, .regs] [.NVM_STATUS] := by
  refine .look fun _ => ?_
  split
  · exact .skip
  · exact .acts ⟨(programBytes_framed _ _).widen, (modNvm_framed _).widen, (setB_own _ _ _).widen, (holdSync_framed).widen, trivial⟩

theorem faultQueue_framed (l : List (List Byte)) : (faultQueue l).Framed [.nvm] [] := .each (fun _ _ => (nvmQueue_framed _ _).widen)

theorem faultWrite_framed (cause : Nat) : (faultWrite cause).Framed (.nvm :: occurParts) (.DMA_EVT_CAUSE :: occurRegs) := .look fun _ =>
  .ite (raiseDma_framed _).widen (.acts ⟨(modNvm_framed _).widen, .ite (faultQueue_framed _).widen (modNvm_framed _).widen, trivial⟩)

theorem faultResume_framed : (faultResume).Framed [.nvm] [] := .look fun _ =>
  .acts ⟨(faultQueue_framed _).widen, (modNvm_framed _).widen, trivial⟩

theorem extendM_framed (i : Nat) (d : BitVec 512) : (extendM i d).Framed [.sec] [] := (modSec_framed _).widen

theorem passBegin_framed (rebase : Bool) : (passBegin rebase).Framed [.aisles, .dma, .live, .regs] [.ASSAY_STATUS] := .look fun _ =>
  .acts ⟨(modDma_framed _).widen, .each (fun _ _ => (modAisle_framed _ _).widen), (setB_own _ _ _).widen, trivial⟩

theorem refSync_framed (force : Bool) : (refSync force).Framed (.aisles :: .dma :: occurParts) (.ASSAY_STATUS :: .QTR_ASSAY_EVT_CAUSE ::
    occurRegs) := .look fun _ =>
  .acts ⟨.when (.acts ⟨(setF_own _ _ _).widen, (raise_own _ _).widen, trivial⟩), .when (passBegin_framed _).widen, trivial⟩

theorem refOwner_framed : (refOwner).Framed (.aisles :: .dma :: occurParts) (.ASSAY_STATUS :: .QTR_ASSAY_EVT_CAUSE :: occurRegs) :=
  .look fun _ => .when (refSync_framed _).widen

theorem refFail_framed : (refFail).Framed (.aisles :: .dma :: .nvm :: occurParts) (.ASSAY_STATUS :: .QTR_ASSAY_EVT_CAUSE :: occurRegs) :=
  .look fun _ => .acts ⟨(raise_own _ _).widen, .ite (modDma_framed _).widen (modNvm_framed _).widen, (refSync_framed _).widen, trivial⟩

theorem onHold_framed {P : List Part} {R : List Reg} (req : Req) (value : Word) (b : Bool) (k : Act) (hs : frameSub (.evt :: occurParts)
    (.NVM_STATUS :: .SYS_REJECT_ADDR :: .SYS_REJECT_INFO :: accessRegs) P R = true) (hk : k.Framed P R) :
    (onHold req value b k).Framed P R :=
  onWrite_own (fun _ => .when (.look fun _ => .ite ((reject3_own _ _ _ _).into hs) hk)) (frameSub_trans (by decide) hs)

theorem nvmHoldSet_framed (req : Req) (value : Word) : (nvmHoldSet req value).Framed (.evt :: occurParts) (.NVM_CTL :: .NVM_STATUS ::
    .SYS_REJECT_ADDR :: .SYS_REJECT_INFO :: accessRegs) :=
  onHold_framed _ _ _ _ (by decide) (.acts ⟨(setB_own _ _ _).widen, (holdSync_framed).widen, trivial⟩)

theorem mbxEnd_framed (n : Nat) : (mbxEnd n).Framed (.mbx :: occurParts) (.MBX_CTL :: occurRegs) :=
  .acts ⟨(setB_own _ _ _).widen, (modMbx_framed _ _).widen, .when (occur_own _).widen, trivial⟩

theorem mbxOk_framed (n : Nat) (out : Option (List Word)) : (mbxOk n out).Framed (.mbx :: occurParts) (.MBX_CTL :: .MBX_DATA :: occurRegs)
    := by
  refine .acts ⟨?_, (setB_own _ _ _).widen, (mbxEnd_framed _).widen, trivial⟩
  split
  · exact .skip
  · exact .each (fun _ _ => (setReg_own _ _ _).widen)

theorem nvmRead_framed (n a : Nat) : (nvmRead n a).Framed (.mbx :: .nvm :: occurParts) (.MBX_CTL :: .MBX_DATA :: occurRegs) :=
  .look fun _ => .ite (mbxOk_framed _ _).widen (modNvm_framed _).widen

theorem nvmServe_framed : (nvmServe).Framed (.mbx :: .nvm :: occurParts) (.MBX_CTL :: .MBX_DATA :: occurRegs) := .look fun _ =>
  .when (.acts ⟨(modNvm_framed _).widen, .each (fun _ _ => (nvmRead_framed _ _).widen), trivial⟩)

theorem nvmHoldClear_framed (req : Req) (value : Word) (written : List (Nat × BitVec 8)) : (nvmHoldClear req value written).Framed
    (.aisles :: .dma :: .evt :: .mbx :: .nvm :: .nvmMem :: occurParts) (.ASSAY_STATUS :: .MBX_CTL :: .MBX_DATA :: .NVM_CTL :: .NVM_STATUS
    :: .QTR_ASSAY_EVT_CAUSE :: .SYS_REJECT_ADDR :: .SYS_REJECT_INFO :: accessRegs) :=
  onHold_framed _ _ _ _ (by decide) (.look fun _ => .acts ⟨.when (nvmWritten_framed _).widen, (setB_own _ _ _).widen,
    (holdSync_framed).widen, .look fun _ => .when (.acts ⟨(noteValid_framed _).widen, (noteValid_framed _).widen, .look fun _ => .when
    (.ite (refFail_framed).widen (modNvm_framed _).widen), (nvmServe_framed).widen, trivial⟩), trivial⟩)


/-! ### Machine/Patch.lean -/

theorem loadStore_framed (payload : List Byte) (k : Nat) : (loadStore payload k).Framed [.aisles, .pe] [] := (modStore_framed _ _).widen

theorem clearStore_framed (k : Nat) : (clearStore k).Framed [.aisles, .pe] [] := (loadStore_framed _ _).widen


/-! ### Machine/Path.lean -/

theorem frameSfdCapture_framed (p pos : Nat) (data : List Byte) (sub : Nat) : (frameSfdCapture p pos data sub).Framed (.cnt :: .fidNext ::
    .perf :: .ports :: occurParts) (.PERF_STATUS :: .SWC_EVT_CAUSE :: .SWC_PORT_STATE :: occurRegs) := .look fun _ =>
  .when (.acts ⟨.upd rfl, (modPort_framed _ _).widen, (perfEvent_framed _ _ _ _).widen, .when (perfEvent_framed _ _ _ _).widen, .when
    (.acts ⟨(count_own _ _ _ _).widen, (raise_own _ _).widen, trivial⟩), (fifoLevel_framed _).widen, trivial⟩)

theorem markLast_framed (p fid : Nat) (good : Bool) : (markLast p fid good).Framed (.bufs :: .cnt :: .perf :: .pkts :: .ports :: .swc ::
    occurParts) freeRegs :=
  .acts ⟨(modPort_framed _ _).widen, (modPkts_framed _).widen, .look fun _ => .each (fun _ _ => .acts ⟨(modBuf_framed _ _).widen,
    (perfBytes_framed _ _ _ _ _).widen, (truncateAt_framed _).widen, .when (.acts ⟨(modPort_framed _ _).widen, .look fun _ => .ite
    (freeReq_framed _ _ _ _ _).widen (dropQueued_framed _).widen, trivial⟩), trivial⟩), trivial⟩

theorem frameLastByte_framed (p : Nat) (fcsOk : Bool) : (frameLastByte p fcsOk).Framed (.bufs :: .cnt :: .perf :: .pkts :: .ports :: .qtrs
    :: .stalls :: .swc :: .time :: occurParts) (.PORT_STATE :: .QTR_EVT_CAUSE :: .QTR_LDG_STATUS :: .TIME_PORT_CAL_STATUS ::
    .TIME_PORT_EVT_CAUSE :: freeRegs) := by
  refine .look fun _ => ?_
  split
  · exact .skip
  · exact .acts ⟨(modPort_framed _ _).widen, (calBoundary_framed _ _).widen, .ite (.acts ⟨(count_own _ _ _ _).widen,
      (count_own _ _ _ _).widen, trivial⟩) (count_own _ _ _ _).widen, .when (count_own _ _ _ _).widen, .when
      (perfBytes_framed _ _ _ _ _).widen, (markLast_framed _ _ _).widen, .when (modPort_framed _ _).widen, (fifoLevel_framed _).widen,
      .each (fun _ _ => (modQtr_framed _ _).widen), (modQtr_framed _ _).widen, .look fun _ => (learnVerdict_framed _ _ _).widen, trivial⟩

theorem police_framed {P : List Part} {R : List Reg} (q i : Nat) (f : Frame) (outer d : Parsed) (queue : Nat) (k : Bool → Nat → Act) (hs
    : frameSub (.cnt :: .qtrs :: occurParts) (.SCH_EVT_CAUSE :: occurRegs) P R = true) (hk : ∀ x0 x1, (k x0 x1).Framed P R) :
    (police q i f outer d queue k).Framed P R := .look fun _ =>
  .acts ⟨(modQtr_framed _ _).into hs, (count_own _ _ _ _).into hs, (count_own _ _ _ _).into hs, .when (.acts
    ⟨(qcount_framed _ _ _ _).into hs, (raise_own _ _).into hs, trivial⟩), (hk _ _), trivial⟩

theorem launch_framed (k : Packet) (h : Nat) : (launch k h).Framed (.aisles :: .cnt :: .pe :: .perf :: .pkts :: occurParts) (.PERF_STATUS
    :: .SWC_EVT_CAUSE :: occurRegs) := .look fun _ =>
  .acts ⟨.each (fun _ _ => .acts ⟨(count_own _ _ _ _).widen, (raise_own _ _).widen, trivial⟩), (perfPorts_framed _ _ _).widen, .when
    (.acts ⟨(modPkts_framed _).widen, (hewerStart_framed _ _).widen, trivial⟩), trivial⟩

theorem expand_framed (k : Packet) (q h bd : Nat) (d : Parsed) (fwd : Fwd) (flood : Bool) (rule : Nat) :
    (expand k q h bd d fwd flood rule).Framed (.aisles :: .cnt :: .pe :: .perf :: .pkts :: .qtrs :: occurParts) (.PERF_STATUS ::
    .SCH_EVT_CAUSE :: .SWC_EVT_CAUSE :: occurRegs) := by
  refine .look fun _ => .acts ⟨.when ?_, .ite (qcount_framed _ _ _ _).widen (.ite (police_framed _ _ _ _ _ _ _ (by decide) (fun _ _ =>
    .ite .skip (.ite (qcount_framed _ _ _ _).widen (launch_framed _ _).widen))) (.ite (qcount_framed _ _ _ _).widen
    (launch_framed _ _).widen)), trivial⟩
  split
  · exact (modQtr_framed _ _).widen
  · exact .skip

theorem resolve_framed (a h : Nat) (f : Frame) (cfg : Word) : (resolve a h f cfg).Framed (.aisles :: .cnt :: .pe :: .perf :: .pkts ::
    .ports :: .qtrs :: .swc :: occurParts) (.PERF_STATUS :: .PE_EVT_CAUSE :: .QTR_EVT_CAUSE :: .QTR_LDG_STATUS :: .SCH_EVT_CAUSE ::
    .SWC_EVT_CAUSE :: occurRegs) := by
  refine .look fun _ => .acts ⟨.when (.acts ⟨(learnDecide_framed _ _ _ _ _ _).widen, .when (learnVerdict_framed _ _ _).widen, trivial⟩),
    .when (.acts ⟨(perfEvent_framed _ _ _ _).widen, .when (perfEvent_framed _ _ _ _).widen, trivial⟩), (perfEvent_framed _ _ _ _).widen,
    .when (perfEvent_framed _ _ _ _).widen, (perfEvent_framed _ _ _ _).widen, (perfEvent_framed _ _ _ _).widen, .when
    (perfEvent_framed _ _ _ _).widen, ?_, trivial⟩
  split
  · exact .acts ⟨(modPkts_framed _).widen, (leaveHewers_framed _).widen, trivial⟩
  · split
    · exact (qcount_framed _ _ _ _).widen
    · exact .ite (qcount_framed _ _ _ _).widen (.ite (.acts ⟨(modPkts_framed _).widen, (leaveHewers_framed _).widen, trivial⟩)
        (expand_framed _ _ _ _ _ _ _ _).widen)

theorem aisleAdmit_framed (a p : Nat) : (aisleAdmit a p).Framed (.aisles :: .cnt :: .pe :: .perf :: .pkts :: .ports :: .qtrs :: .swc ::
    occurParts) (.PERF_STATUS :: .PE_EVT_CAUSE :: .QTR_EVT_CAUSE :: .QTR_LDG_STATUS :: .SCH_EVT_CAUSE :: .SWC_EVT_CAUSE :: .SWC_PORT_STATE
    :: .SYS_EPOCH_LATE :: .SYS_MODE_EVT_CAUSE :: occurRegs) := by
  refine .look fun _ => ?_
  split
  · exact .when (.acts ⟨(lateCheck_framed _ _).widen, (modPort_framed _ _).widen, (fifoLevel_framed _).widen,
      (perfEvent_framed _ _ _ _).widen, .when (perfBytes_framed _ _ _ _ _).widen, (resolve_framed _ _ _ _).widen, trivial⟩)
  · exact .skip

theorem policerSweep_framed (q : Nat) : (policerSweep q).Framed [.qtrs] [] := .look fun _ => (modQtr_framed _ _).widen


end Sys2Proof.Machine
end

section
/-!
PROOF. Frames (4 of 7): what each action may change, as lists of parts and registers that follow its definition. The lemmas are
many and small: they are elaborated one after another, since a thread for each would take more memory than the check has.
-/
set_option Elab.async false
namespace Sys2Proof.Machine

/-! ### Machine/Sched.lean -/

theorem keepTs_framed (p tEg : Nat) (f : Frame) (P : Parsed) (dst : PtpTo) : (keepTs p tEg f P dst).Framed [.pe, .ports] [] :=
  .look fun _ => .acts ⟨(modPe_framed _).widen, .ite (modPort_framed _ _).widen (.ite (modPort_framed _ _).widen (.acts
    ⟨(modPort_framed _ _).widen, (postWork_framed _ _ _ _).widen, trivial⟩)), trivial⟩

theorem takeHead_framed (p q : Nat) : (takeHead p q).Framed [.ports] [] := (modPort_framed _ _).widen

theorem syncGates_framed (p : Nat) : (syncGates p).Framed [.live, .regs] [.SCH_HL_STATUS] := .look fun _ =>
  .acts ⟨(setF_own _ _ _).widen, (setF_own _ _ _).widen, trivial⟩

theorem schedulerSelect_framed (p pos sub : Nat) : (schedulerSelect p pos sub).Framed (.bufs :: .cnt :: .pe :: .perf :: .ports :: .swc ::
    occurParts) (.SCH_HL_STATUS :: .SYS_EPOCH_APPLIED0 :: .SYS_EPOCH_APPLIED1 :: .SYS_EPOCH_APPLIED2 :: .TIME_PORT_EVT_CAUSE :: freeRegs)
    := by
  refine .look fun _ => .when (.acts ⟨.upd rfl, (perfEvent_framed _ _ _ _).widen, ?_, trivial⟩)
  split
  · exact .skip
  · split
    · exact .skip
    · exact .ite (.acts ⟨(takeHead_framed _ _).widen, (dropCopy_framed _ _ _).widen, (count_own _ _ _ _).widen,
        (perfEvent_framed _ _ _ _).widen, (raise_own _ _).widen, trivial⟩) (.ite (.acts ⟨(takeHead_framed _ _).widen,
        (dropCopy_framed _ _ _).widen, (count_own _ _ _ _).widen, (perfEvent_framed _ _ _ _).widen, (raise_own _ _).widen, trivial⟩)
        (.acts ⟨(takeHead_framed _ _).widen, (modPort_framed _ _).widen, (perfEvent_framed _ _ _ _).widen,
        (perfEvent_framed _ _ _ _).widen, .when (perfEvent_framed _ _ _ _).widen, .when (perfEvent_framed _ _ _ _).widen,
        (perfBytes_framed _ _ _ _ _).widen, (perfEvent_framed _ _ _ _).widen, .when (perfEvent_framed _ _ _ _).widen, .when (.acts
        ⟨(count_own _ _ _ _).widen, (perfEvent_framed _ _ _ _).widen, .when (.acts ⟨(count_own _ _ _ _).widen, (raise_own _ _).widen,
        trivial⟩), .when (count_own _ _ _ _).widen, trivial⟩), .when (.acts ⟨(modPort_framed _ _).widen, (syncGates_framed _).widen,
        trivial⟩), .when (keepTs_framed _ _ _ _ _).widen, (unitReport_framed _).widen, (unitReport_framed _).widen, trivial⟩))

theorem txEnd_framed (p : Nat) (t : Tx) : (txEnd p t).Framed (.cnt :: .perf :: .ports :: .stalls :: .time :: occurParts) (.PERF_STATUS ::
    .PORT_STATE :: .SYS_EPOCH_APPLIED0 :: .SYS_EPOCH_APPLIED1 :: .SYS_EPOCH_APPLIED2 :: .TIME_PORT_CAL_STATUS :: .TIME_PORT_EVT_CAUSE ::
    occurRegs) := .look fun _ =>
  .acts ⟨(modPort_framed _ _).widen, (calBoundary_framed _ _).widen, .ite (count_own _ _ _ _).widen (.acts ⟨(count_own _ _ _ _).widen,
    (count_own _ _ _ _).widen, trivial⟩), .when (count_own _ _ _ _).widen, .when (emit_own _).widen, (unitReport_framed _).widen,
    (unitReport_framed _).widen, trivial⟩

theorem bufferFree_framed (p q handle : Nat) (gen : BitVec 4) (final : Bool) : (bufferFree p q handle gen final).Framed (.bufs :: .cnt ::
    .perf :: .ports :: .stalls :: .swc :: .time :: occurParts) (.PORT_STATE :: .SYS_EPOCH_APPLIED0 :: .SYS_EPOCH_APPLIED1 ::
    .SYS_EPOCH_APPLIED2 :: .TIME_PORT_CAL_STATUS :: .TIME_PORT_EVT_CAUSE :: freeRegs) := by
  refine .look fun _ => ?_
  split
  · exact .ite (.when (.acts ⟨(txEnd_framed _ _).widen, (freeReq_framed _ _ _ _ _).widen, trivial⟩)) (freeReq_framed _ _ _ _ _).widen
  · exact (freeReq_framed _ _ _ _ _).widen

theorem showStart_framed (p start : Nat) : (showStart p start).Framed [.live, .regs] [.SCH_HL_START_NS, .SCH_HL_START_S, .SCH_HL_START_SH]
    :=
  .acts ⟨(setF_own _ _ _).widen, (setF_own _ _ _).widen, (setF_own _ _ _).widen, trivial⟩

theorem lateFlag_framed (p : Nat) : (lateFlag p).Framed occurParts (.SCH_EVT_CAUSE :: .SCH_HL_STATUS :: occurRegs) :=
  .acts ⟨(setB_own _ _ _).widen, (raise_own _ _).widen, trivial⟩

theorem hlArm_framed (req : Req) (p : Nat) (value : Word) : (hlArm req p value).Framed (.evt :: .ports :: occurParts) (.SCH_EVT_CAUSE ::
    .SCH_HL_START_NS :: .SCH_HL_START_S :: .SCH_HL_START_SH :: .SCH_HL_STATUS :: .SCH_STATUS :: .SYS_REJECT_ADDR :: .SYS_REJECT_INFO ::
    accessRegs) := by
  refine onWrite_own (fun _ => .when (.look fun _ => .when (.ite (reject3_own _ _ _ _).widen ?_)))
  split
  · exact (reject_own _ _ _ _ _).widen
  · exact .acts ⟨(setB_own _ _ _).widen, (setB_own _ _ _).widen, .when (lateFlag_framed _).widen, (showStart_framed _ _).widen,
      (modPort_framed _ _).widen, trivial⟩

theorem hlCancel_framed (req : Req) (p : Nat) (value : Word) : (hlCancel req p value).Framed (.evt :: occurParts) (.SCH_EVT_CAUSE ::
    .SCH_HL_STATUS :: .SCH_STATUS :: .SYS_REJECT_ADDR :: .SYS_REJECT_INFO :: accessRegs) :=
  onWrite_own (fun _ => .when (.look fun _ => .when (.ite (setB_own _ _ _).widen (reject3_own _ _ _ _).widen)))

theorem hlStop_framed (req : Req) (p : Nat) (value : Word) : (hlStop req p value).Framed (.evt :: occurParts) (.SCH_EVT_CAUSE ::
    .SCH_HL_STATUS :: .SCH_STATUS :: .SYS_REJECT_ADDR :: .SYS_REJECT_INFO :: accessRegs) :=
  onWrite_own (fun _ => .when (.look fun _ => .when (.ite (.acts ⟨(setB_own _ _ _).widen, (syncGates_framed _).widen, trivial⟩)
    (reject3_own _ _ _ _).widen)))

theorem hlSwitch_framed (p : Nat) : (hlSwitch p).Framed (.perf :: .ports :: occurParts) (.PERF_STATUS :: .SCH_EVT_CAUSE :: .SCH_HL_STATUS
    :: occurRegs) := .look fun _ =>
  .when (.acts ⟨(setB_own _ _ _).widen, (setB_own _ _ _).widen, (setB_own _ _ _).widen, (modPort_framed _ _).widen,
    (perfEvent_framed _ _ _ _).widen, (raise_own _ _).widen, (syncGates_framed _).widen, trivial⟩)

theorem gateEdge_framed (p : Nat) : (gateEdge p).Framed [.live, .regs] [.SCH_HL_STATUS] := .look fun _ => .when (syncGates_framed _).widen

theorem hlStep_framed : (hlStep).Framed (.ports :: occurParts) (.SCH_EVT_CAUSE :: .SCH_HL_START_NS :: .SCH_HL_START_S :: .SCH_HL_START_SH
    :: .SCH_HL_STATUS :: .SCH_STATUS :: occurRegs) := .look fun _ =>
  .each (fun _ _ => .look fun _ => .acts ⟨.when (.ite (.acts ⟨(setB_own _ _ _).widen, (setF_own _ _ _).widen, (raise_own _ _).widen,
    trivial⟩) (.ite (.acts ⟨(modPort_framed _ _).widen, (showStart_framed _ _).widen, (lateFlag_framed _).widen, trivial⟩) .skip)), .when
    (syncGates_framed _).widen, trivial⟩)

theorem qtClearClose_framed (p : Nat) : (qtClearClose p).Framed [.live, .perf, .ports, .regs] [.PERF_STATUS, .SCH_HL_STATUS] :=
  .look fun _ => .when (.acts ⟨(modPort_framed _ _).widen, (perfEvent_framed _ _ _ _).widen, (syncGates_framed _).widen, trivial⟩)

theorem qtClearReopen_framed (p : Nat) : (qtClearReopen p).Framed [.live, .ports, .regs] [.SCH_HL_STATUS] := .look fun _ =>
  .when (.acts ⟨(modPort_framed _ _).widen, (syncGates_framed _).widen, trivial⟩)

theorem latencySample_framed (p : Nat) : (latencySample p).Framed (.ports :: occurParts) (.SCH_EVT_CAUSE :: occurRegs) := by
  refine .look fun _ => ?_
  split
  · exact .skip
  · exact .when (.acts ⟨(modPort_framed _ _).widen, .each (fun _ _ => .acts ⟨(modPort_framed _ _).widen, .when (raise_own _ _).widen,
      trivial⟩), trivial⟩)

theorem samplerClear_framed (req : Req) (p : Nat) (value : Word) : (samplerClear req p value).Framed (.evt :: .ports :: occurParts)
    (.SCH_SAMP_CTL :: .SYS_LOCKED_WR :: .SYS_LOCKED_WR_INFO :: accessRegs) :=
  onWrite_own (fun _ => .look fun _ => .acts ⟨(writeFields_own _ _ _ _).widen, .when (.each (fun _ _ => (modPort_framed _ _).widen)),
    trivial⟩)


/-! ### Machine/TimeSvc.lean -/

theorem syncSource_framed : (syncSource).Framed [.live, .regs] [.TIME_SERVO_STATUS] := .look fun _ => (setF_own _ _ _).widen

theorem tallyDue_framed : (tallyDue).Framed [.time] [] := .look fun _ => (modTime_framed _).widen

theorem stepDrop_framed : (stepDrop).Framed [.time] [] := (modTime_framed _).widen

theorem closeSpan_framed : (closeSpan).Framed [.time] [] := .look fun _ => (modTime_framed _).widen

theorem setInc_framed (v : Nat) : (setInc v).Framed [.time] [] := .look fun _ =>
  .acts ⟨.when (closeSpan_framed).widen, (modTime_framed _).widen, trivial⟩

theorem driveInc_framed : (driveInc).Framed [.fresh, .time] [] := draw_own (fun _ => (setInc_framed _).widen)

theorem servoTo_framed (n : Nat) : (servoTo n).Framed (.time :: occurParts) (.TIME_SERVO_STATUS :: .TIME_SVC_EVT_CAUSE :: occurRegs) :=
  .look fun _ => .when (.acts ⟨.when (.acts ⟨(closeSpan_framed).widen, (modTime_framed _).widen, trivial⟩), .when
    (modTime_framed _).widen, (setF_own _ _ _).widen, (modTime_framed _).widen, .when (modTime_framed _).widen, .when
    (modTime_framed _).widen, .when (modTime_framed _).widen, (raise_own _ _).widen, (tallyDue_framed).widen, trivial⟩)

theorem srcArrive_framed : (srcArrive).Framed (.time :: occurParts) (.TIME_SERVO_STATUS :: .TIME_SVC_EVT_CAUSE :: occurRegs) :=
  .look fun _ => .acts ⟨(modTime_framed _).widen, .when (servoTo_framed _).widen, (syncSource_framed).widen, trivial⟩

theorem srcLose_framed : (srcLose).Framed (.time :: occurParts) (.TIME_SERVO_STATUS :: .TIME_SVC_EVT_CAUSE :: occurRegs) :=
  .look fun _ => .acts ⟨(modTime_framed _).widen, .when (.ite (servoTo_framed _).widen (.when (servoTo_framed _).widen)),
    (syncSource_framed).widen, trivial⟩

theorem servoSuspend_framed : (servoSuspend).Framed [.time] [] := .acts ⟨(stepDrop_framed).widen, (modTime_framed _).widen, trivial⟩

theorem servoResume_framed : (servoResume).Framed (.ports :: .time :: occurParts) (.TIME_SERVO_STATUS :: .TIME_SVC_EVT_CAUSE :: occurRegs)
    := .look fun _ =>
  .when (.acts ⟨(servoTo_framed _).widen, (modTime_framed _).widen, .each (fun _ _ => (modPort_framed _ _).widen),
    (syncSource_framed).widen, trivial⟩)

theorem smpDiscard_framed (mark : Bool) : (smpDiscard mark).Framed [.time] [] := (modTime_framed _).widen

theorem servoOffset_framed (off : Int) : (servoOffset off).Framed (.fresh :: .time :: occurParts) (.TIME_SERVO_STATUS ::
    .TIME_SVC_EVT_CAUSE :: occurRegs) := .look fun _ =>
  .ite (.acts ⟨(modTime_framed _).widen, .ite (modTime_framed _).widen (.acts ⟨(driveInc_framed).widen, (modTime_framed _).widen,
    .look fun _ => .when (servoTo_framed _).widen, trivial⟩), trivial⟩) (.when (.acts ⟨(modTime_framed _).widen, (driveInc_framed).widen,
    (modTime_framed _).widen, .look fun _ => .when (servoTo_framed _).widen, trivial⟩))

theorem sampleSeen_framed : (sampleSeen).Framed (.time :: occurParts) (.TIME_SERVO_STATUS :: .TIME_SVC_EVT_CAUSE :: occurRegs) :=
  .look fun _ => .acts ⟨(modTime_framed _).widen, (srcArrive_framed).widen, trivial⟩

theorem sampleTake_framed (up : Bool) (x : Sample) : (sampleTake up x).Framed (.fresh :: .time :: occurParts) (.TIME_SERVO_STATUS ::
    .TIME_SVC_EVT_CAUSE :: occurRegs) := by
  refine .look fun _ => ?_
  split
  · exact .ite (smpDiscard_framed _).widen (.acts ⟨(modTime_framed _).widen, .ite (smpDiscard_framed _).widen (.acts
      ⟨(sampleSeen_framed).widen, (servoOffset_framed _).widen, trivial⟩), trivial⟩)
  · split
    · exact (smpDiscard_framed _).widen
    · exact .ite (smpDiscard_framed _).widen (.acts ⟨(modTime_framed _).widen, (sampleSeen_framed).widen, trivial⟩)

theorem servoSample_framed (up : Bool) : (servoSample up).Framed (.fresh :: .time :: occurParts) (.TIME_SERVO_STATUS ::
    .TIME_SVC_EVT_CAUSE :: occurRegs) := by
  refine .look fun _ => ?_
  split
  · exact .skip
  · refine .when (.acts ⟨(modTime_framed _).widen, ?_, trivial⟩)
    split
    · exact .skip
    · exact .when (sampleTake_framed _ _).widen

theorem timeStep_framed : (timeStep).Framed (.aisles :: .clk :: .mode :: .ports :: .time :: occurParts) (.AISLE_PARSE_CFG ::
    .SCH_EVT_CAUSE :: .SCH_HL_START_NS :: .SCH_HL_START_S :: .SCH_HL_START_SH :: .SCH_HL_STATUS :: .SCH_STATUS :: .SYS_EPOCH ::
    .SYS_EPOCH_APPLIED0 :: .SYS_EPOCH_APPLIED1 :: .SYS_EPOCH_APPLIED2 :: .SYS_MODE :: .TIME_SVC_EVT_CAUSE :: occurRegs) := by
  refine .look fun _ => ?_
  split
  · exact .skip
  · exact .when (.acts ⟨(modTime_framed _).widen, (tallyDue_framed).widen, .look fun _ => (modClk_framed _).widen,
      (requestEpoch_framed _ _ _).widen, (hlStep_framed).widen, (raise_own _ _).widen, trivial⟩)

theorem sourceLost_framed : (sourceLost).Framed (.time :: occurParts) (.TIME_SERVO_STATUS :: .TIME_SVC_EVT_CAUSE :: occurRegs) :=
  .look fun _ => .when (srcLose_framed).widen

theorem holdoverLimitExpire_framed : (holdoverLimitExpire).Framed (.time :: occurParts) (.TIME_SERVO_STATUS :: .TIME_SVC_EVT_CAUSE ::
    occurRegs) := .look fun _ =>
  .when (servoTo_framed _).widen

theorem onForce_framed {P : List Part} {R : List Reg} (req : Req) (value : Word) (codes : List Nat) (k : Req → Machine.State → Act) (hs
    : frameSub (.evt :: occurParts) accessRegs P R = true) (hk : ∀ x0 x1, (k x0 x1).Framed P R) : (onForce req value codes k).Framed P R
    :=
  onWrite_own (fun _ => .when (.look fun _ => (hk _ _))) (frameSub_trans (by decide) hs)

theorem forceNone_framed (req : Req) (value : Word) : (forceNone req value).Framed (.evt :: .time :: occurParts) (.SYS_LOCKED_WR ::
    .SYS_LOCKED_WR_INFO :: .TIME_SERVO_CTL :: .TIME_SERVO_STATUS :: .TIME_SVC_EVT_CAUSE :: accessRegs) :=
  onForce_framed _ _ _ _ (by decide) (fun _ _ => .acts ⟨(writeFields_own _ _ _ _).widen, .when (servoTo_framed _).widen, trivial⟩)

theorem forceHoldover_framed (req : Req) (value : Word) : (forceHoldover req value).Framed (.evt :: .time :: occurParts) (.SYS_LOCKED_WR
    :: .SYS_LOCKED_WR_INFO :: .SYS_REJECT_ADDR :: .SYS_REJECT_INFO :: .TIME_SERVO_CTL :: .TIME_SERVO_STATUS :: .TIME_STATUS ::
    .TIME_SVC_EVT_CAUSE :: accessRegs) :=
  onForce_framed _ _ _ _ (by decide) (fun _ _ => .ite (.acts ⟨(writeFields_own _ _ _ _).widen, .when (servoTo_framed _).widen, trivial⟩)
    (reject3_own _ _ _ _).widen)

theorem forceFreerun_framed (req : Req) (value : Word) : (forceFreerun req value).Framed (.evt :: .time :: occurParts) (.SYS_LOCKED_WR ::
    .SYS_LOCKED_WR_INFO :: .TIME_SERVO_CTL :: .TIME_SERVO_STATUS :: .TIME_SVC_EVT_CAUSE :: accessRegs) :=
  onForce_framed _ _ _ _ (by decide) (fun _ _ => .acts ⟨(writeFields_own _ _ _ _).widen, .when (.acts ⟨(servoTo_framed _).widen,
    (setInc_framed _).widen, trivial⟩), trivial⟩)

theorem parentGone_framed : (parentGone).Framed (.time :: occurParts) (.TIME_SERVO_STATUS :: .TIME_SVC_EVT_CAUSE :: occurRegs) :=
  .look fun _ => .when (.acts ⟨(modTime_framed _).widen, (tallyDue_framed).widen, (setF_own _ _ _).widen, (setF_own _ _ _).widen, .when
    (srcLose_framed).widen, (raise_own _ _).widen, trivial⟩)

theorem parentTake_framed (p : Nat) (r : Foreign) (was : Bool) : (parentTake p r was).Framed (.ports :: .time :: occurParts)
    (.TIME_SERVO_STATUS :: .TIME_SVC_EVT_CAUSE :: occurRegs) := .look fun _ =>
  .acts ⟨(modTime_framed _).widen, .when (tallyDue_framed).widen, .when (stepDrop_framed).widen, .when (.acts ⟨(modTime_framed _).widen,
    (modPort_framed _ _).widen, trivial⟩), (setF_own _ _ _).widen, (setF_own _ _ _).widen, .when (.acts ⟨(raise_own _ _).widen,
    .look fun _ => .when (servoTo_framed _).widen, trivial⟩), .look fun _ => .when (sampleSeen_framed).widen, trivial⟩

theorem bmcaRun_framed (b : Bmca) : (bmcaRun b).Framed (.ports :: .time :: occurParts) (.TIME_PORT_PTP_STATUS :: .TIME_SERVO_STATUS ::
    .TIME_SVC_EVT_CAUSE :: occurRegs) := by
  refine .look fun _ => .when (.acts ⟨.each (fun _ _ => .look fun _ => .when (ptpState_framed _ _).widen), ?_, (syncSource_framed).widen,
    trivial⟩)
  split
  · exact (parentGone_framed).widen
  · exact (parentTake_framed _ _ _).widen

theorem announceReceiptTimeout_framed (p : Nat) : (announceReceiptTimeout p).Framed [.ports] [] := .look fun _ =>
  .when (modPort_framed _ _).widen

theorem announceRecord_framed (p : Nat) (r : Foreign) : (announceRecord p r).Framed [.ports, .time] [] := by
  refine .look fun _ => .ite (modPort_framed _ _).widen (.ite ?_ (.ite ?_ (modPort_framed _ _).widen))
  · dsimp only
    split
    · exact .skip
    · exact .ite (.acts ⟨(modPort_framed _ _).widen, (modPort_framed _ _).widen, trivial⟩) (modTime_framed _).widen
  · dsimp only
    split
    · exact .skip
    · exact .ite (.acts ⟨(modPort_framed _ _).widen, (modPort_framed _ _).widen, trivial⟩) (modTime_framed _).widen

theorem esmcEvent_framed (p : Nat) : (esmcEvent p).Framed [.ports] [] := .look fun _ => .when (postWork_framed _ _ _ _).widen

theorem syncQl_framed : (syncQl).Framed [.live, .ports, .regs] [.TIME_DPLL_STATUS] := .look fun _ =>
  .when (.acts ⟨(setF_own _ _ _).widen, .each (fun _ _ => (esmcEvent_framed _).widen), trivial⟩)

theorem setSel_framed (n : Nat) : (setSel n).Framed (.ports :: occurParts) (.TIME_DPLL_STATUS :: .TIME_SVC_EVT_CAUSE :: occurRegs) :=
  .look fun _ => .when (.acts ⟨.each (fun _ _ => (esmcEvent_framed _).widen), (setF_own _ _ _).widen, (raise_own _ _).widen,
    .look fun _ => .each (fun _ _ => (esmcEvent_framed _).widen), trivial⟩)

theorem dpllTo_framed (n : Nat) : (dpllTo n).Framed (.ports :: .time :: occurParts) (.TIME_DPLL_STATUS :: .TIME_SVC_EVT_CAUSE ::
    occurRegs) := .look fun _ =>
  .acts ⟨.when (.acts ⟨(modTime_framed _).widen, (setF_own _ _ _).widen, (raise_own _ _).widen, trivial⟩), (syncQl_framed).widen, trivial⟩

theorem dpllLeave_framed : (dpllLeave).Framed (.ports :: .time :: occurParts) (.TIME_DPLL_STATUS :: .TIME_SVC_EVT_CAUSE :: occurRegs) :=
  .look fun _ => .when (dpllTo_framed _).widen

theorem refSwitch_framed : (refSwitch).Framed (.ports :: .time :: occurParts) (.TIME_DPLL_STATUS :: .TIME_SVC_EVT_CAUSE :: occurRegs) :=
  .look fun _ => .when (.acts ⟨(setSel_framed _).widen, .ite (.ite (dpllTo_framed _).widen (dpllLeave_framed).widen) (.ite
    (dpllTo_framed _).widen (.when (modTime_framed _).widen)), (syncQl_framed).widen, trivial⟩)

theorem dpllClockLost_framed : (dpllClockLost).Framed (.ports :: .time :: occurParts) (.TIME_DPLL_STATUS :: .TIME_SVC_EVT_CAUSE ::
    occurRegs) :=
  .acts ⟨(setSel_framed _).widen, (dpllLeave_framed).widen, (syncQl_framed).widen, trivial⟩

theorem dpllInputLoss_framed (i : Nat) : (dpllInputLoss i).Framed [.live, .regs, .time] [.TIME_DPLL_STATUS] := (inputLost_framed _).widen

theorem dpllInputQualify_framed (i : Nat) : (dpllInputQualify i).Framed [.live, .regs] [.TIME_DPLL_STATUS] := .look fun _ =>
  .when (setF_own _ _ _).widen

theorem dpllLock_framed : (dpllLock).Framed (.ports :: .time :: occurParts) (.TIME_DPLL_STATUS :: .TIME_SVC_EVT_CAUSE :: occurRegs) :=
  .look fun _ => .when (dpllTo_framed _).widen

theorem esmcTimeout_framed (p : Nat) : (esmcTimeout p).Framed (.ports :: occurParts) (.PE_EVT_CAUSE :: .TIME_DPLL_STATUS ::
    .TIME_PORT_PTP_STATUS :: occurRegs) := .look fun _ =>
  .when (.acts ⟨(setF_own _ _ _).widen, (setB_own _ _ _).widen, (raisePe_framed _).widen, (syncQl_framed).widen, trivial⟩)

theorem esmcReceive_framed (p ql enh : Nat) : (esmcReceive p ql enh).Framed (.ports :: occurParts) (.PE_EVT_CAUSE :: .TIME_DPLL_STATUS ::
    .TIME_PORT_PTP_STATUS :: occurRegs) := .look fun _ =>
  .acts ⟨(setF_own _ _ _).widen, (setB_own _ _ _).widen, (modPort_framed _ _).widen, .when (raisePe_framed _).widen,
    (syncQl_framed).widen, trivial⟩

theorem ppsInEdge_framed (sub : Nat) : (ppsInEdge sub).Framed (.time :: occurParts) (.TIME_DPLL_STATUS :: .TIME_SERVO_STATUS ::
    .TIME_SVC_EVT_CAUSE :: occurRegs) := .look fun _ =>
  .when (.acts ⟨(modTime_framed _).widen, .when (inputSpan_framed _).widen, .when (srcLose_framed).widen, trivial⟩)

theorem ppsLoss_framed : (ppsLoss).Framed (.time :: occurParts) (.TIME_DPLL_STATUS :: .TIME_SVC_EVT_CAUSE :: occurRegs) := .look fun _ =>
  .when (.acts ⟨(modTime_framed _).widen, (raise_own _ _).widen, (dpllInputLoss_framed _).widen, trivial⟩)

theorem todSentenceReceive_framed (l : List Byte) : (todSentenceReceive l).Framed (.fresh :: .time :: occurParts) (.TIME_SERVO_STATUS ::
    .TIME_SVC_EVT_CAUSE :: occurRegs) := by
  refine .look fun _ => .when ?_
  split
  · exact .ite (.acts ⟨.when (.acts ⟨(modTime_framed _).widen, (setF_own _ _ _).widen, .when (.ite (smpDiscard_framed _).widen (.acts
      ⟨(srcArrive_framed).widen, (servoOffset_framed _).widen, trivial⟩)), trivial⟩), (modTime_framed _).widen, trivial⟩)
      (raise_own _ _).widen
  · exact (raise_own _ _).widen

theorem ppsOutEdge_framed : (ppsOutEdge).Framed [.out, .time] [] := .look fun _ =>
  .when (.acts ⟨(modTime_framed _).widen, .ite (.acts ⟨(emit_own _).widen, (modTime_framed _).widen, trivial⟩) (modTime_framed _).widen,
    trivial⟩)

theorem todSentenceSend_framed : (todSentenceSend).Framed [.out, .time] [] := by
  refine .look fun _ => ?_
  split
  · exact .skip
  · exact .when (.acts ⟨(modTime_framed _).widen, .when (emit_own _).widen, trivial⟩)

theorem withRnd_framed {P : List Part} {R : List Reg} (k : BitVec 256 → Act) (hs : frameSub [.fresh] [] P R = true) (hk : ∀ x0,
    (k x0).Framed P R) : (withRnd k).Framed P R := .look fun _ =>
  .ite (draw_own (fun _ => (hk _)) (frameSub_trans (by decide) hs)) ((hk _))

theorem signed_framed {P : List Part} {R : List Reg} (ctx msg : List Byte) (k : List Byte → Act) (hs : frameSub [.fresh] [] P R = true)
    (hk : ∀ x0, (k x0).Framed P R) : (signed ctx msg k).Framed P R :=
  withRnd_framed _ (frameSub_trans (by decide) hs) (fun _ => .look fun _ => (hk _))

theorem tallyIssue_framed : (tallyIssue).Framed [.fresh, .live, .regs, .time] [.TIME_TALLY_STATUS] := by
  refine .look fun _ => .when ?_
  split
  · exact .acts ⟨(modTime_framed _).widen, (setF_own _ _ _).widen, trivial⟩
  · exact draw_own (fun _ => .acts ⟨(modTime_framed _).widen, (setF_own _ _ _).widen, trivial⟩)

theorem tallySigned_framed : (tallySigned).Framed [.fresh, .time] [] := by
  refine .look fun _ => ?_
  split
  · exact .skip
  · exact .when (signed_framed _ _ _ (by decide) (fun _ => (modTime_framed _).widen))

theorem ptpCfgWrite_framed (rq : Req) (v : Word) : (ptpCfgWrite rq v).Framed (.evt :: occurParts) (.SYS_EVT_CAUSE :: .SYS_LOCKED_WR ::
    .SYS_LOCKED_WR_INFO :: .SYS_REJECT_ADDR :: .SYS_REJECT_INFO :: .TIME_PTP_CFG :: .TIME_STATUS :: .TIME_SVC_EVT_CAUSE :: occurRegs) :=
  .look fun _ => .ite (.acts ⟨(writeFields_own _ _ _ _).widen, .look fun _ => (setF_own _ _ _).widen, trivial⟩)
    (reject3_own _ _ _ _).widen

theorem portPtpWrite_framed (rq : Req) (p : Nat) (v : Word) : (portPtpWrite rq p v).Framed (.evt :: occurParts) (.SYS_EVT_CAUSE ::
    .SYS_LOCKED_WR :: .SYS_LOCKED_WR_INFO :: .SYS_REJECT_ADDR :: .SYS_REJECT_INFO :: .TIME_PORT_EVT_CAUSE :: .TIME_PORT_PTP ::
    .TIME_PORT_PTP_STATUS :: .TIME_STATUS :: occurRegs) := .look fun _ =>
  .ite (.acts ⟨(writeFields_own _ _ _ _).widen, .look fun _ => (setF_own _ _ _).widen, trivial⟩) (reject_timePort _ _ _ _ _).widen

theorem dpllSrcWrite_framed (rq : Req) (v : Word) : (dpllSrcWrite rq v).Framed (.evt :: .ports :: .time :: occurParts) (.SYS_EVT_CAUSE ::
    .SYS_LOCKED_WR :: .SYS_LOCKED_WR_INFO :: .TIME_DPLL_SRC :: .TIME_DPLL_STATUS :: occurRegs) := .look fun _ =>
  .acts ⟨.each (fun _ _ => (esmcEvent_framed _).widen), (writeFields_own _ _ _ _).widen, .look fun _ => .each (fun _ _ => .ite
    (inputSpan_framed _).widen (inputLost_framed _).widen), .look fun _ => .each (fun _ _ => (esmcEvent_framed _).widen),
    (syncQl_framed).widen, trivial⟩

theorem outCfgWrite_framed (rq : Req) (v : Word) : (outCfgWrite rq v).Framed (.evt :: .time :: occurParts) (.SYS_EVT_CAUSE ::
    .SYS_LOCKED_WR :: .SYS_LOCKED_WR_INFO :: .TIME_OUT_CFG :: occurRegs) :=
  .acts ⟨(writeFields_own _ _ _ _).widen, (clkOutWrite_framed).widen, trivial⟩


/-! ### Machine/Modes.lean -/

theorem stepChanged_framed : (stepChanged).Framed occurParts (.AISLE_SRCH_EVT_CAUSE :: .AISLE_SRCH_STATUS :: .SYS_MODE :: occurRegs) :=
  .look fun _ => .acts ⟨(setF_own _ _ _).widen, .when (stepSync_framed).widen, trivial⟩

theorem setReqStep_framed (n : Nat) : (setReqStep n).Framed occurParts (.AISLE_SRCH_EVT_CAUSE :: .AISLE_SRCH_STATUS :: .SYS_MODE ::
    occurRegs) :=
  .acts ⟨(setF_own _ _ _).widen, (stepChanged_framed).widen, trivial⟩

theorem modeRequest_framed (tgt step : Nat) : (modeRequest tgt step).Framed (.aisles :: .mode :: .time :: occurParts) (.AISLE_PARSE_CFG ::
    .AISLE_SRCH_EVT_CAUSE :: .AISLE_SRCH_STATUS :: .SYS_EPOCH :: .SYS_EPOCH_APPLIED0 :: .SYS_EPOCH_APPLIED1 :: .SYS_EPOCH_APPLIED2 ::
    .SYS_MODE :: .SYS_MODE_EVT_CAUSE :: occurRegs) := .look fun _ =>
  .ite (.acts ⟨(setReqStep_framed _).widen, .ite (raise_own _ _).widen (requestEpoch_framed _ _ _).widen, trivial⟩) (.ite (.acts
    ⟨(setReqStep_framed _).widen, .ite (raise_own _ _).widen (requestEpoch_framed _ _ _).widen, trivial⟩)
    (requestEpoch_framed _ _ _).widen)

theorem onModeReq_framed (req : Req) (value : Word) (tgts : List Nat) : (onModeReq req value tgts).Framed (.aisles :: .evt :: .mode ::
    .time :: occurParts) (.SYS_BUS_ERR :: .SYS_BUS_ERR_INFO :: pwrRequestRegs) :=
  onWrite_own (fun _ => .when (.look fun _ => .ite (modeRequest_framed _ _).widen (reject_own _ _ _ _ _).widen))

theorem autoModeChange_framed : (autoModeChange).Framed [.aisles, .live, .mode, .regs, .time] [.AISLE_PARSE_CFG, .SYS_EPOCH,
    .SYS_EPOCH_APPLIED0, .SYS_EPOCH_APPLIED1, .SYS_EPOCH_APPLIED2, .SYS_MODE] := by
  refine .look fun _ => .when ?_
  split
  · exact (requestEpoch_framed _ _ _).widen
  · exact .skip

theorem epochReq_framed (req : Req) (value : Word) : (epochReq req value).Framed (.aisles :: .evt :: .mode :: .time :: occurParts)
    (.AISLE_PARSE_CFG :: .SYS_EPOCH :: .SYS_EPOCH_APPLIED0 :: .SYS_EPOCH_APPLIED1 :: .SYS_EPOCH_APPLIED2 :: .SYS_MODE :: .SYS_REJECT_ADDR
    :: .SYS_REJECT_INFO :: .SYS_STATUS :: accessRegs) :=
  onWrite_own (fun _ => .when (.look fun _ => .ite (reject3_own _ _ _ _).widen (requestEpoch_framed _ _ _).widen))

theorem setupFail_framed (code : Nat) : (setupFail code).Framed (.mode :: occurParts) (.NVM_BOOT :: .SYS_MODE :: .SYS_MODE_EVT_CAUSE ::
    occurRegs) := .look fun _ =>
  .when (.acts ⟨(setF_own _ _ _).widen, (raise_own _ _).widen, (modMode_framed _).widen, .when (setB_own _ _ _).widen, .when
    (setB_own _ _ _).widen, trivial⟩)

theorem setupBegin_framed : (setupBegin).Framed [.aisles, .dma, .live, .mode, .nvm, .pe, .regs, .swc] [.SYS_MODE] :=
  .acts ⟨(modMode_framed _).widen, (setF_own _ _ _).widen, (modNvm_framed _).widen, (modSwc_framed _).widen, (modDma_framed _).widen,
    .each (fun _ _ => (modStore_framed _ _).widen), trivial⟩

theorem modeLeave_framed (m : Nat) : (modeLeave m).Framed occurParts (.SYS_MODE :: .SYS_MODE_EVT_CAUSE :: occurRegs) :=
  .acts ⟨.when (setB_own _ _ _).widen, .when (raise_own _ _).widen, trivial⟩

theorem modeEnter_framed (m before cause : Nat) : (modeEnter m before cause).Framed (.aisles :: .dma :: .mode :: .nvm :: .pe :: .ports ::
    .swc :: .thm :: occurParts) (.AISLE_SRCH_EVT_CAUSE :: .AISLE_SRCH_STATUS :: .DMA_EVT_CAUSE :: .SEC_STATUS :: .SYS_MODE_CFG ::
    setWindowRegs) := .look fun _ =>
  .acts ⟨.when (.acts ⟨.each (fun _ _ => (modStore_framed _ _).widen), (setB_own _ _ _).widen, trivial⟩), .when (.acts
    ⟨(modMode_framed _).widen, (modThm_framed _).widen, .each (fun _ _ => (probeOnUp_framed _).widen), trivial⟩), .when
    (raise_own _ _).widen, .when (.acts ⟨(setB_own _ _ _).widen, (setB_own _ _ _).widen, (modDma_framed _).widen,
    (modMode_framed _).widen, .when (raise_own _ _).widen, (faultWrite_framed _).widen, trivial⟩), .when (refSync_framed _).widen, .when
    (setFHw_own _ _ _).widen, .when (.acts ⟨(modMode_framed _).widen, (setupBegin_framed).widen, trivial⟩), (drainCheck_framed).widen,
    (stepChanged_framed).widen, (sealLatch_framed).widen, trivial⟩

theorem epochDone_framed : (epochDone).Framed (.aisles :: .dma :: .mode :: .nvm :: .pe :: .ports :: .swc :: .thm :: occurParts)
    (.AISLE_SRCH_EVT_CAUSE :: .AISLE_SRCH_STATUS :: .DMA_EVT_CAUSE :: .SEC_STATUS :: .SYS_EPOCH :: .SYS_MODE_CFG :: setWindowRegs) := by
  refine .look fun _ => .when (.acts ⟨(setF_own _ _ _).widen, (setB_own _ _ _).widen, (raise_own _ _).widen, ?_, .look fun _ =>
    (setF_own _ _ _).widen, trivial⟩)
  split
  · exact .skip
  · exact .acts ⟨(modeLeave_framed _).widen, (setF_own _ _ _).widen, (modMode_framed _).widen, (raise_own _ _).widen,
      (modeEnter_framed _ _ _).widen, trivial⟩

theorem proveGo_framed (req : Req) (value : Word) : (proveGo req value).Framed (.evt :: .mode :: occurParts) (.SYS_PROVE_CTL ::
    .SYS_PROVE_STATUS :: .SYS_REJECT_ADDR :: .SYS_REJECT_INFO :: .SYS_STATUS :: accessRegs) :=
  onWrite_own (fun _ => .when (.look fun _ => .ite (reject3_own _ _ _ _).widen (.ite (reject_own _ _ _ _ _).widen (.acts
    ⟨(setF_own _ _ _).widen, (setB_own _ _ _).widen, (setF_own _ _ _).widen, (setF_own _ _ _).widen, (modMode_framed _).widen,
    trivial⟩))))

theorem proveLeaves_framed (t : Nat) : (proveLeaves t).Framed [.copies, .live, .pe, .qtrs, .regs, .stalls, .tiles] [.AISLE_TILE_CFG,
    .QTR_LDG_STATUS] :=
  .ite (.acts ⟨.upd ⟨rfl, nofun, nofun⟩, .upd ⟨rfl, nofun, nofun⟩, .look fun _ => .each (fun _ _ => (setF_own _ _ _).widen), trivial⟩)
    (.ite (.each (fun _ _ => .acts ⟨(modQtr_framed _ _).widen, (setF_own _ _ _).widen, (setF_own _ _ _).widen, trivial⟩)) (.ite (.acts
    ⟨.each (fun _ _ => (modQtr_framed _ _).widen), (modPe_framed _).widen, trivial⟩) (.ite (.look fun _ => .each (fun _ _ =>
    (modStall_framed _ _).widen)) .skip)))

theorem proveTestDone_framed (t : Nat) (fail : Bool) (detail : List Word) : (proveTestDone t fail detail).Framed (.copies :: .mode :: .pe
    :: .qtrs :: .stalls :: .tiles :: occurParts) (.AISLE_TILE_CFG :: .QTR_LDG_STATUS :: .SYS_MODE_EVT_CAUSE :: .SYS_PROVE_STATUS ::
    occurRegs) := .look fun _ =>
  .when (.acts ⟨(proveLeaves_framed _).widen, (modMode_framed _).widen, (setF_own _ _ _).widen, .when (setF_own _ _ _).widen, .when (.acts
    ⟨(setB_own _ _ _).widen, (raise_own _ _).widen, .look fun _ => .when (raise_own _ _).widen, trivial⟩), trivial⟩)


/-! ### Machine/Owner.lean -/

theorem padSync_framed : (padSync).Framed [.live, .regs] [.DMA_PADLOCK] := .look fun _ =>
  .acts ⟨(setF_own _ _ _).widen, (setF_own _ _ _).widen, trivial⟩

theorem padRelease_framed (ring : Nat) : (padRelease ring).Framed [.dma, .live, .regs] [.DMA_PADLOCK] :=
  .acts ⟨(modDma_framed _).widen, (padSync_framed).widen, trivial⟩

theorem dmaHostWrite_framed (a : Nat) (l : List Byte) : (dmaHostWrite a l).Framed (.hostWr :: occurParts) (.DMA_EVT_CAUSE :: occurRegs) :=
  .look fun _ => .ite (raiseDma_framed _).widen (hostWrite_framed _ _).widen

theorem descEnd_framed (ring : Nat) (tag : List Byte) (irq : Bool) (r : CmdEnd) (off : Nat) : (descEnd ring tag irq r off).Framed (.dma ::
    .hostWr :: occurParts) (.DMA_EVT_CAUSE :: .DMA_RING_HEAD :: occurRegs) := .look fun _ =>
  .acts ⟨.ite (dmaHostWrite_framed _ _).widen (emit_own _).widen, (setF_own _ _ _).widen, .when (modDma_framed _).widen, .when
    (raiseDma_framed _).widen, .when (raiseDma_framed _).widen, trivial⟩

theorem ringAbandon_framed (ring : Nat) : (ringAbandon ring).Framed (.dma :: .hostWr :: occurParts) (.DMA_EVT_CAUSE :: .DMA_RING_HEAD ::
    occurRegs) := by
  refine .acts ⟨.look fun _ => ?_, .look fun _ => (setF_own _ _ _).widen, trivial⟩
  split
  · exact .skip
  · exact .acts ⟨(modDma_framed _).widen, (descEnd_framed _ _ _ _ _).widen, trivial⟩

theorem ringReset_framed (ring : Nat) : (ringReset ring).Framed [.dma, .live, .regs] [.DMA_CPL_BASE_HI, .DMA_CPL_BASE_LO,
    .DMA_RING_BASE_HI, .DMA_RING_BASE_LO, .DMA_RING_CFG, .DMA_RING_HEAD, .DMA_RING_TAIL] :=
  .acts ⟨(each_setReg_own _ _ _).widen, (modDma_framed _).widen, trivial⟩

theorem hqReset_framed : (hqReset).Framed [.live, .regs] [.HQ_BASE_HI, .HQ_BASE_LO, .HQ_CFG, .HQ_HEAD, .HQ_LOST, .HQ_TAIL] :=
  .each (fun _ _ => (each_setReg_own _ _ _).widen)

theorem hqStop_framed : (hqStop).Framed (.bufs :: .cnt :: .dma :: .perf :: .ports :: .swc :: occurParts) (.HQ_LOST :: freeRegs) :=
  .acts ⟨(h2dKeep_framed).widen, .each (fun _ _ => (d2hTerminate_framed _).widen), trivial⟩

theorem loseOwner_framed (why : Nat) : (loseOwner why).Framed (.aisles :: .bufs :: .cnt :: .dma :: .hostWr :: .perf :: .ports :: .swc ::
    occurParts) (.ASSAY_CTL :: .ASSAY_STATUS :: .DMA_EVT_CAUSE :: .DMA_PADLOCK :: .DMA_RING_HEAD :: .HQ_CFG :: .HQ_LOST ::
    .QTR_ASSAY_EVT_CAUSE :: .SYS_OWNER :: freeRegs) := .look fun _ =>
  .when (.acts ⟨(setF_own _ _ _).widen, (setF_own _ _ _).widen, (ringAbandon_framed _).widen, (padRelease_framed _).widen, .each
    (fun _ _ => (setB_own _ _ _).widen), (hqStop_framed).widen, (setB_own _ _ _).widen, (raiseDma_framed _).widen,
    (refOwner_framed).widen, trivial⟩)

theorem heartbeatRestart_framed : (heartbeatRestart).Framed [.dma] [] := .look fun _ => (modDma_framed _).widen

theorem claim_framed (req : Req) (value : Word) : (claim req value).Framed (.aisles :: .dma :: .evt :: occurParts) (.ASSAY_STATUS ::
    .DMA_EVT_CAUSE :: .QTR_ASSAY_EVT_CAUSE :: .SYS_OWNER :: .SYS_REJECT_ADDR :: .SYS_REJECT_INFO :: .SYS_STATUS :: accessRegs) :=
  onWrite_own (fun _ => .when (.look fun _ => .ite (reject3_own _ _ _ _).widen (.acts ⟨(setF_own _ _ _).widen, (modDma_framed _).widen,
    (heartbeatRestart_framed).widen, (raiseDma_framed _).widen, (refOwner_framed).widen, trivial⟩)))

theorem release_framed (req : Req) (value : Word) : (release req value).Framed (.aisles :: .bufs :: .cnt :: .dma :: .evt :: .hostWr ::
    .perf :: .ports :: .swc :: occurParts) (.ASSAY_CTL :: .ASSAY_STATUS :: .DMA_EVT_CAUSE :: .DMA_PADLOCK :: .DMA_RING_HEAD :: .HQ_CFG ::
    .HQ_LOST :: .QTR_ASSAY_EVT_CAUSE :: .SYS_BUS_ERR :: .SYS_BUS_ERR_INFO :: .SYS_EVT_CAUSE :: .SYS_OWNER :: .SYS_REJECT_ADDR ::
    .SYS_REJECT_INFO :: .SYS_STATUS :: freeRegs) :=
  onWrite_own (fun _ => .when (.look fun _ => .ite (reject3_own _ _ _ _).widen (loseOwner_framed _).widen))

theorem heartbeat_framed (req : Req) (value : Word) : (heartbeat req value).Framed (.dma :: .evt :: occurParts) (.SYS_REJECT_ADDR ::
    .SYS_REJECT_INFO :: .SYS_STATUS :: accessRegs) :=
  onWrite_own (fun _ => .when (.look fun _ => .ite (reject3_own _ _ _ _).widen (heartbeatRestart_framed).widen))

theorem heartbeatLate_framed : (heartbeatLate).Framed (.aisles :: .bufs :: .cnt :: .dma :: .hostWr :: .perf :: .ports :: .swc ::
    occurParts) (.ASSAY_CTL :: .ASSAY_STATUS :: .DMA_EVT_CAUSE :: .DMA_PADLOCK :: .DMA_RING_HEAD :: .HQ_CFG :: .HQ_LOST ::
    .QTR_ASSAY_EVT_CAUSE :: .SYS_OWNER :: freeRegs) := .look fun _ =>
  .when (loseOwner_framed _).widen


end Sys2Proof.Machine
end

section
/-!
PROOF. Frames (5 of 7): what each action may change, as lists of parts and registers that follow its definition. The lemmas are
many and small: they are elaborated one after another, since a thread for each would take more memory than the check has.
-/
set_option Elab.async false
namespace Sys2Proof.Machine

/-! ### Machine/Dma.lean -/

theorem applyRecs_framed {α : Type} {P : List Part} {R : List Reg} {l : List α} {i : Nat} {f : Nat → α → (Nat → Nat → Act) → Act}
    {k : CmdEnd → Act} (hf : ∀ i x k', (∀ st m, (k' st m).Framed P R) → (f i x k').Framed P R) (hk : ∀ r, (k r).Framed P R) :
    (applyRecs l i f k).Framed P R := by
  induction l generalizing i with
  | nil => exact hk _
  | cons x r ih => exact hf _ _ _ fun _ _ => .ite ih (hk _)

theorem flatWrite_framed (t i v : Nat) : (flatWrite t i v).Framed [.flat, .qtrs] [] :=
  .acts ⟨.each (fun _ _ => .upd rfl), .when (.look fun _ => .each (fun _ _ => (modQtr_framed _ _).widen)), trivial⟩

theorem flatRec_framed {P : List Part} {R : List Reg} (t i : Nat) (x : List Byte) (k : Nat → Nat → Act) (hs : frameSub (.flat :: .qtrs ::
    occurParts) (.AISLE_SRCH_EVT_CAUSE :: occurRegs) P R = true) (hk : ∀ x0 x1, (k x0 x1).Framed P R) : (flatRec t i x k).Framed P R :=
  .ite (onAisles_framed (fun _ _ => (pselWrite_framed _ _ _ _).into hs) (fun _ _ => (hk _ _))) (.acts ⟨(flatWrite_framed _ _ _).into hs,
    (hk _ _), trivial⟩)

theorem ldgInsertRec_framed {P : List Part} {R : List Reg} (x : List Byte) (k : Nat → Nat → Act) (hs : frameSub (.cnt :: .qtrs ::
    occurParts) (.QTR_EVT_CAUSE :: .QTR_LDG_STATUS :: occurRegs) P R = true) (hk : ∀ x0 x1, (k x0 x1).Framed P R) :
    (ldgInsertRec x k).Framed P R :=
  .ite ((hk _ _)) (.look fun _ => .acts ⟨.each (fun _ _ => insertLedger_framed _ _ _ (frameSub_trans (by decide) hs) .skip), (hk _ _),
    trivial⟩)

theorem ldgDeleteRec_framed {P : List Part} {R : List Reg} (x : List Byte) (k : Nat → Nat → Act) (hs : frameSub [.live, .qtrs, .regs]
    [.QTR_LDG_STATUS] P R = true) (hk : ∀ x0 x1, (k x0 x1).Framed P R) : (ldgDeleteRec x k).Framed P R := by
  refine .ite ((hk _ _)) (.look fun _ => .acts ⟨.each (fun _ _ => ?_), (hk _ _), trivial⟩)
  split
  · exact (putCopy_framed _ _).into hs
  · exact .skip

theorem lpmRec_framed {P : List Part} {R : List Reg} (op : Nat) (x : List Byte) (k : Nat → Nat → Act) (hs : frameSub (.cnt :: .copies ::
    .rebuild :: .tiles :: occurParts) (.AISLE_LPM_MAP :: .AISLE_REBUILD_STATUS :: .AISLE_RULE_MAP :: .AISLE_SRCH_EVT_CAUSE ::
    .AISLE_TILE_CFG :: occurRegs) P R = true) (hk : ∀ x0 x1, (k x0 x1).Framed P R) : (lpmRec op x k).Framed P R := by
  unfold lpmRec
  split
  · exact (hk _ _)
  · exact .ite (onAisles_framed (fun _ _ => (lpmInsertC_framed _ _ _ _).into hs) (fun _ _ => (hk _ _))) (onAisles_framed (fun _ _ =>
      (lpmDelete_framed _ _ _).into hs) (fun _ _ => (hk _ _)))

theorem ruleRec_framed {P : List Part} {R : List Reg} (op : Nat) (x : List Byte) (k : Nat → Nat → Act) (hs : frameSub [.cnt, .copies,
    .live, .regs, .tiles] [.AISLE_TILE_CFG] P R = true) (hk : ∀ x0 x1, (k x0 x1).Framed P R) : (ruleRec op x k).Framed P R :=
  .ite (onAisles_framed (fun _ _ => (ruleWrite_framed _ _ _ _ _ _ _).into hs) (fun _ _ => (hk _ _))) (.ite (onAisles_framed (fun _ _ =>
    (ruleClear_framed _ _ _ _).into hs) (fun _ _ => (hk _ _))) (onAisles_framed (fun _ _ => (ruleMove_framed _ _ _ _ _ _).into hs)
    (fun _ _ => (hk _ _))))

theorem notesLand_framed : (notesLand).Framed (.cnt :: .pe :: .qtrs :: occurParts) (.QTR_EVT_CAUSE :: .QTR_LDG_STATUS :: occurRegs) :=
  .look fun _ => .acts ⟨.each (fun _ _ => .each (fun _ _ => (crierNoteReceive_framed _ _ _).widen)), .each (fun _ _ =>
    (crierNoteReceive_framed _ _ _).widen), trivial⟩

theorem padlockDo_framed {P : List Part} {R : List Reg} (ring t : Nat) (set : Bool) (k : Nat → Nat → Act) (hs : frameSub (.cnt :: .dma ::
    .pe :: .qtrs :: occurParts) (.DMA_PADLOCK :: .QTR_EVT_CAUSE :: .QTR_LDG_STATUS :: occurRegs) P R = true) (hk : ∀ x0 x1,
    (k x0 x1).Framed P R) : (padlockDo ring t set k).Framed P R := .look fun _ =>
  .ite (.ite ((hk _ _)) (.acts ⟨.when ((notesLand_framed).into hs), (modDma_framed _).into hs, (padSync_framed).into hs, (hk _ _),
    trivial⟩)) (.acts ⟨(modDma_framed _).into hs, (padSync_framed).into hs, (hk _ _), trivial⟩)

theorem padlockExpired_framed (ring t : Nat) : (padlockExpired ring t).Framed (.cnt :: .dma :: .pe :: .qtrs :: occurParts) (.DMA_EVT_CAUSE
    :: .DMA_PADLOCK :: .QTR_EVT_CAUSE :: .QTR_LDG_STATUS :: occurRegs) := .look fun _ =>
  .when (.acts ⟨padlockDo_framed _ _ _ _ (by decide) (fun _ _ => .skip), (raiseDma_framed _).widen, trivial⟩)

/-- The parts that the effect of a table command may change. -/
def cmdParts : List Part := .cnt :: .copies :: .flat :: .rebuild :: .tiles :: .qtrs :: .hostWr :: .dma :: .pe :: occurParts

/-- The registers that the effect of a table command may change. -/
def cmdRegs : List Reg := .AISLE_SRCH_EVT_CAUSE :: .QTR_EVT_CAUSE :: .QTR_LDG_STATUS :: .AISLE_LPM_MAP ::
  .AISLE_REBUILD_STATUS :: .AISLE_RULE_MAP :: .AISLE_TILE_CFG :: .DMA_PADLOCK :: .DMA_EVT_CAUSE :: occurRegs

theorem cmdEffect_framed {P : List Part} {R : List Reg} (ring : Nat) (c : DmaCmd) (k : CmdEnd → Act)
    (hs : frameSub cmdParts cmdRegs P R = true) (hk : ∀ r, (k r).Framed P R) : (cmdEffect ring c k).Framed P R := by
  unfold cmdEffect
  split_ifs
  · exact applyRecs_framed (fun _ _ _ h => flatRec_framed _ _ _ _ (frameSub_trans (by decide) hs) h) hk
  · exact applyRecs_framed (fun _ _ _ h => flatRec_framed _ _ _ _ (frameSub_trans (by decide) hs) h) hk
  · exact .look fun _ => .acts ⟨(dmaHostWrite_framed _ _).into hs, hk _, trivial⟩
  · exact .look fun _ => .acts ⟨(emit_own _).into hs, hk _, trivial⟩
  · exact applyRecs_framed (fun _ _ _ h => ldgInsertRec_framed _ _ (frameSub_trans (by decide) hs) h) hk
  · exact applyRecs_framed (fun _ _ _ h => ldgDeleteRec_framed _ _ (frameSub_trans (by decide) hs) h) hk
  · exact applyRecs_framed (fun _ _ _ h => lpmRec_framed _ _ _ (frameSub_trans (by decide) hs) h) hk
  · exact applyRecs_framed (fun _ _ _ h => flatRec_framed _ _ _ _ (frameSub_trans (by decide) hs) h) hk
  · exact applyRecs_framed (fun _ _ _ h => ruleRec_framed _ _ _ (frameSub_trans (by decide) hs) h) hk
  · exact padlockDo_framed _ _ _ _ (frameSub_trans (by decide) hs) fun _ _ => hk _
  · exact hk _

/-- The parts that a table command may change. -/
def dmaParts : List Part := .evt :: cmdParts

/-- The registers that a table command may change. -/
def dmaRegs : List Reg := .DMA_STATUS :: .SYS_REJECT_ADDR :: .SYS_REJECT_INFO :: cmdRegs

theorem dmaCmd_framed {P : List Part} {R : List Reg} (ring : Nat) (c : DmaCmd) (k : CmdEnd → Act)
    (hs : frameSub dmaParts dmaRegs P R = true) (hk : ∀ r, (k r).Framed P R) : (dmaCmd ring c k).Framed P R := by
  have hdone : ∀ r : CmdEnd, (acts [when (r.st == 3) (reject3 .dma .dma .DMA_RING_TAIL ring), k r]).Framed P R :=
    fun r => .acts ⟨.when ((reject3_own _ _ _ _).into hs), hk r, trivial⟩
  exact .look fun s => .ite (cmdEffect_framed _ _ _ (frameSub_trans (by decide) hs) hdone) (hdone _)

theorem refCmd_framed (c : DmaCmd) : (refCmd c).Framed (.dma :: .mode :: occurParts) (.NVM_BOOT :: .SYS_MODE :: .SYS_MODE_EVT_CAUSE ::
    occurRegs) := .look fun _ =>
  .acts ⟨.upd rfl, .when (setupFail_framed _).widen, trivial⟩

theorem runStream_framed {P : List Part} {R : List Reg} (ring fuel off : Nat) (l : List Byte) (step : DmaCmd → Act)
    (k : CmdEnd → Nat → List Byte → Act) (hs : frameSub dmaParts dmaRegs P R = true) (hstep : ∀ c, (step c).Framed P R)
    (hk : ∀ r off l, (k r off l).Framed P R) : (runStream ring fuel off l step k).Framed P R := by
  induction fuel generalizing off l with
  | zero => exact .ite (hk _ _ _) (hk _ _ _)
  | succ fuel ih =>
    exact .ite (hk _ _ _) (.ite (hk _ _ _)
      (dmaCmd_framed _ _ _ hs fun _ => .ite (.acts ⟨hstep _, ih _ _, trivial⟩) (hk _ _ _)))

theorem imageLoaded_framed : (imageLoaded).Framed (.aisles :: .dma :: .sec :: occurParts) (.ASSAY_STATUS :: .QTR_ASSAY_EVT_CAUSE ::
    occurRegs) := .look fun _ =>
  .acts ⟨(modDma_framed _).widen, .when (extendM_framed _ _).widen, (refSync_framed _).widen, trivial⟩

theorem streamEnd_framed (ring : Nat) (x : Machine.Stream) (r : CmdEnd) (off : Nat) : (streamEnd ring x r off).Framed (.aisles :: .dma ::
    .hostWr :: .mode :: .sec :: occurParts) (.DMA_EVT_CAUSE :: .DMA_RING_HEAD :: .NVM_BOOT :: setWindowRegs) :=
  .acts ⟨(descEnd_framed _ _ _ _ _).widen, .when (.ite (setupFail_framed _).widen (.acts ⟨(modDma_framed _).widen, .look fun _ => .when
    (imageLoaded_framed).widen, trivial⟩)), trivial⟩

/-- The parts that a stream of table commands may change. -/
def streamParts : List Part := .aisles :: .mode :: .sec :: dmaParts

/-- The registers that a stream of table commands may change. -/
def streamRegs : List Reg := .ASSAY_STATUS :: .DMA_RING_HEAD :: .NVM_BOOT :: .QTR_ASSAY_EVT_CAUSE :: .SYS_MODE ::
  .SYS_MODE_EVT_CAUSE :: dmaRegs

theorem streamRun_framed (ring : Nat) (x : Machine.Stream) : (streamRun ring x).Framed streamParts streamRegs := by
  refine .look fun _ => runStream_framed _ _ _ _ _ _ (by decide) (fun _ => ?_) fun _ _ _ => ?_
  · split
    · exact (refCmd_framed _).widen
    · exact .skip
  · exact .acts ⟨.when (modDma_framed _).widen, .ite (.acts ⟨(modDma_framed _).widen, (streamEnd_framed _ _ _ _).widen, trivial⟩)
      (modDma_framed _).widen, trivial⟩

theorem dmaDescriptorExecute_framed (ring : Nat) (desc : List Byte) (stream : Option (List Byte)) :
    (dmaDescriptorExecute ring desc stream).Framed streamParts streamRegs := by
  refine .look fun s => .when ?_
  split
  · exact streamRun_framed _ _
  · refine .ite (descEnd_framed _ _ _ _ _).widen ?_
    split
    · exact .acts ⟨(raiseDma_framed _).widen, (descEnd_framed _ _ _ _ _).widen, trivial⟩
    · exact .ite (.ite (.acts ⟨(setupFail_framed _).widen, (descEnd_framed _ _ _ _ _).widen, trivial⟩) (streamRun_framed _ _))
        (streamRun_framed _ _)

theorem dmaRingTailWrite_framed (req : Req) (ring : Nat) (value : Word) : (dmaRingTailWrite req ring value).Framed (.evt :: occurParts)
    (.DMA_EVT_CAUSE :: .DMA_RING_TAIL :: .DMA_STATUS :: .SYS_REJECT_ADDR :: .SYS_REJECT_INFO :: accessRegs) :=
  .ite (onWrite_own (fun _ => .look fun _ => .ite (reject3_own _ _ _ _).widen (.ite (reject_own _ _ _ _ _).widen (setF_own _ _ _).widen)))
    (onSecWrite_framed _ _ _ _ (by decide) (fun _ => .look fun _ => .ite (reject3_own _ _ _ _).widen (.ite (reject_own _ _ _ _ _).widen
    (setF_own _ _ _).widen)))

theorem dmaRow_framed (op ring : Nat) (body : List Byte) : (dmaRow op ring body).Framed dmaParts dmaRegs :=
  .look fun _ => .when (dmaCmd_framed _ _ _ (by decide) fun _ => .skip)


/-! ### Machine/Assay.lean -/

theorem passEnd_framed : (passEnd).Framed (.aisles :: .cnt :: .dma :: occurParts) setWindowRegs := .look fun _ =>
  .acts ⟨(raise_own _ _).widen, (count_own _ _ _ _).widen, .when (count_own _ _ _ _).widen, .when (raise_own _ _).widen, .when (.acts
    ⟨(setB_own _ _ _).widen, (raise_own _ _).widen, trivial⟩), (passBegin_framed _).widen, trivial⟩

theorem walkTo_framed (t : Nat) (rev : Bool) (pos : Nat) : (walkTo t rev pos).Framed [.dma] [] := (modDma_framed _).widen

theorem walkNext_framed (t : Nat) : (walkNext t).Framed [.dma] [] := (walkTo_framed _ _ _).widen

theorem stepFound_framed (l : List Finding) : (stepFound l).Framed [.cnt, .dma] [] := .look fun _ =>
  .acts ⟨(count_own _ _ _ _).widen, (modDma_framed _).widen, trivial⟩

theorem tableStep_framed (w t : Nat) (rev : Bool) (pos : Nat) (dir : List Byte) (ref : Option (List Byte)) :
    (tableStep w t rev pos dir ref).Framed (.aisles :: .cnt :: .dma :: .nvm :: occurParts) (.ASSAY_STATUS :: .QTR_ASSAY_EVT_CAUSE ::
    occurRegs) := by
  refine .look fun _ => .ite (walkNext_framed _).widen (.ite (.ite (walkNext_framed _).widen (.ite ?_ (.acts ⟨(stepFound_framed _).widen,
    (walkTo_framed _ _ _).widen, trivial⟩))) (.ite (.ite (walkTo_framed _ _ _).widen (.ite ?_ (.acts ⟨(stepFound_framed _).widen,
    (walkTo_framed _ _ _).widen, trivial⟩))) ?_))
  · split
    · exact (refFail_framed).widen
    · exact .ite (refFail_framed).widen (.acts ⟨(stepFound_framed _).widen, (walkTo_framed _ _ _).widen, trivial⟩)
  · split
    · exact (refFail_framed).widen
    · exact .ite (refFail_framed).widen (.acts ⟨(stepFound_framed _).widen, (walkTo_framed _ _ _).widen, trivial⟩)
  · split
    · exact (walkNext_framed _).widen
    · refine .ite (.ite (.acts ⟨(stepFound_framed _).widen, (walkTo_framed _ _ _).widen, trivial⟩) ?_) (.acts ⟨(stepFound_framed _).widen,
        (walkTo_framed _ _ _).widen, trivial⟩)
      split
      · exact (refFail_framed).widen
      · exact .ite (refFail_framed).widen (.acts ⟨(stepFound_framed _).widen, (walkTo_framed _ _ _).widen, trivial⟩)

theorem assayRecordStep_framed (dir : List Byte) (ref : Option (List Byte)) : (assayRecordStep dir ref).Framed (.aisles :: .cnt :: .dma ::
    .nvm :: occurParts) setWindowRegs := by
  refine .look fun _ => .when (.ite (.when (passEnd_framed).widen) (.ite .skip (.ite (refFail_framed).widen ?_)))
  split
  all_goals
    refine .ite ?_ (.ite (.acts ⟨(modDma_framed _).widen, (walkNext_framed _).widen, trivial⟩) (tableStep_framed _ _ _ _ _ _).widen)
    split
    · exact .when (passEnd_framed).widen
    · exact .when (.acts ⟨(modDma_framed _).widen, (walkTo_framed _ _ _).widen, trivial⟩)

theorem findingConfirm_framed (ref : Option (List Byte)) : (findingConfirm ref).Framed (.aisles :: .nvm :: dmaParts)
    (.ASSAY_STATUS :: .QTR_ASSAY_EVT_CAUSE :: .SYS_MODE :: .SYS_MODE_EVT_CAUSE :: dmaRegs) := by
  refine .look fun s => ?_
  split
  · exact .skip
  · refine .when (.acts ⟨(modDma_framed _).widen, ?_, trivial⟩)
    split
    · exact refFail_framed.widen
    · refine .ite refFail_framed.widen (.ite (count_own _ _ _ _).widen (.acts ?_))
      refine ⟨(count_own _ _ _ _).widen, (logFinding_framed _).widen, (raise_own _ _).widen, .when winAdd_framed.widen,
        .when (dmaCmd_framed _ _ _ (by decide) fun _ => .ite ?_ ?_), trivial⟩
      · exact .acts ⟨(count_own _ _ _ _).widen, (raise_own _ _).widen, trivial⟩
      · exact .acts ⟨(count_own _ _ _ _).widen, (raise_own _ _).widen, trivial⟩

theorem winCountBucketExpire_framed : (winCountBucketExpire).Framed (.dma :: occurParts) setWindowRegs := .look fun _ =>
  .when (.acts ⟨(modDma_framed _).widen, (setWindow_framed _).widen, trivial⟩)


/-! ### Machine/PtpMsg.lean -/

theorem ptpPost_framed (p : Nat) (dst : PtpTo) (ty : Nat) (msg : List Byte) : (ptpPost p dst ty msg).Framed (.cnt :: .fidNext :: .perf ::
    .pkts :: .ports :: .swc :: occurParts) (.PERF_STATUS :: .SWC_EVT_CAUSE :: occurRegs) := .look fun _ =>
  .acts ⟨.when (.look fun _ => (modPort_framed _ _).widen), (peSendTo_framed _ _ _ _ _).widen, trivial⟩

theorem withSeq_framed {P : List Part} {R : List Reg} (p ty : Nat) (k : Nat → Act) (hs : frameSub [.ports] [] P R = true) (hk : ∀ x0,
    (k x0).Framed P R) : (withSeq p ty k).Framed P R := .look fun _ =>
  .acts ⟨(modPort_framed _ _).into hs, (hk _), trivial⟩

theorem sendSync_framed (p : Nat) (dst : PtpTo) (log : Nat) : (sendSync p dst log).Framed (.cnt :: .fidNext :: .perf :: .pkts :: .ports ::
    .swc :: occurParts) (.PERF_STATUS :: .SWC_EVT_CAUSE :: occurRegs) :=
  withSeq_framed _ _ _ (by decide) (fun _ => .look fun _ => (ptpPost_framed _ _ _ _).widen)

theorem sendAnnounce_framed (p : Nat) (dst : PtpTo) (log : Nat) : (sendAnnounce p dst log).Framed (.cnt :: .fidNext :: .perf :: .pkts ::
    .ports :: .swc :: occurParts) (.PERF_STATUS :: .SWC_EVT_CAUSE :: occurRegs) :=
  withSeq_framed _ _ _ (by decide) (fun _ => .look fun _ => (ptpPost_framed _ _ _ _).widen)

theorem sendDelayReq_framed (p : Nat) : (sendDelayReq p).Framed (.cnt :: .fidNext :: .perf :: .pkts :: .ports :: .swc :: occurParts)
    (.PERF_STATUS :: .SWC_EVT_CAUSE :: occurRegs) :=
  withSeq_framed _ _ _ (by decide) (fun _ => .look fun _ => (ptpPost_framed _ _ _ _).widen)

theorem sendPdelayReq_framed (p : Nat) : (sendPdelayReq p).Framed (.cnt :: .fidNext :: .perf :: .pkts :: .ports :: .swc :: occurParts)
    (.PERF_STATUS :: .SWC_EVT_CAUSE :: occurRegs) :=
  withSeq_framed _ _ _ (by decide) (fun _ => (ptpPost_framed _ _ _ _).widen)

theorem sendFollowUp_framed (p : Nat) : (sendFollowUp p).Framed (.cnt :: .fidNext :: .perf :: .pkts :: .ports :: .swc :: occurParts)
    (.PERF_STATUS :: .SWC_EVT_CAUSE :: occurRegs) := by
  refine .look fun _ => ?_
  split
  · exact .skip
  · exact .acts ⟨(modPort_framed _ _).widen, .ite (ptpPost_framed _ _ _ _).widen (ptpPost_framed _ _ _ _).widen, .when
      (postWork_framed _ _ _ _).widen, trivial⟩

theorem sendSignaling_framed (p : Nat) (dst : PtpTo) (target : Nat) (tlvs : List Byte) : (sendSignaling p dst target tlvs).Framed (.cnt ::
    .fidNext :: .perf :: .pkts :: .ports :: .swc :: occurParts) (.PERF_STATUS :: .SWC_EVT_CAUSE :: occurRegs) :=
  withSeq_framed _ _ _ (by decide) (fun _ => .look fun _ => (ptpPost_framed _ _ _ _).widen)

theorem grantOne_framed (p : Nat) (frm : PtpTo) (id : Nat) (v : List Byte) : (grantOne p frm id v).Framed (.cnt :: .fidNext :: .perf ::
    .pkts :: .ports :: .swc :: .time :: occurParts) (.PERF_STATUS :: .SWC_EVT_CAUSE :: occurRegs) := .look fun _ =>
  .acts ⟨(modTime_framed _).widen, (sendSignaling_framed _ _ _ _).widen, trivial⟩

theorem unicastRx_framed (p : Nat) (frm : PtpTo) (id : Nat) (l : List (Nat × List Byte)) : (unicastRx p frm id l).Framed (.cnt :: .fidNext
    :: .perf :: .pkts :: .ports :: .swc :: .time :: occurParts) (.PERF_STATUS :: .SWC_EVT_CAUSE :: occurRegs) := .look fun _ =>
  .when (.each (fun _ _ => .ite (grantOne_framed _ _ _ _).widen (.ite (.acts ⟨(modTime_framed _).widen,
    (sendSignaling_framed _ _ _ _).widen, trivial⟩) .skip)))

theorem grantTx_framed (p i : Nat) : (grantTx p i).Framed (.cnt :: .fidNext :: .perf :: .pkts :: .ports :: .swc :: occurParts)
    (.PERF_STATUS :: .SWC_EVT_CAUSE :: occurRegs) := by
  refine .look fun _ => ?_
  split
  · exact .skip
  · exact .when (.ite (sendSync_framed _ _ _).widen (.when (sendAnnounce_framed _ _ _).widen))

theorem unicastRequest_framed (p e : Nat) : (unicastRequest p e).Framed (.cnt :: .fidNext :: .fresh :: .perf :: .pkts :: .ports :: .swc ::
    occurParts) (.PERF_STATUS :: .SWC_EVT_CAUSE :: occurRegs) := .look fun _ =>
  .when (draw_own (fun _ => (sendSignaling_framed _ _ _ _).widen))

theorem ptpTx_framed (p idx : Nat) : (ptpTx p idx).Framed (.cnt :: .fidNext :: .fresh :: .perf :: .pkts :: .ports :: .swc :: occurParts)
    (.PERF_STATUS :: .SWC_EVT_CAUSE :: occurRegs) := .look fun _ =>
  .ite (sendPdelayReq_framed _).widen (.ite (.when (sendSync_framed _ _ _).widen) (.ite (.when (sendDelayReq_framed _).widen) (.ite (.when
    (sendAnnounce_framed _ _ _).widen) (.ite (sendFollowUp_framed _).widen (.ite (unicastRequest_framed _ _).widen (.ite
    (grantTx_framed _ _).widen .skip))))))

theorem smpPut_framed (x : Sample) : (smpPut x).Framed [.time] [] := .look fun _ => .when (modTime_framed _).widen

theorem syncRx_framed (p : Nat) (d : List Byte) (o : Nat) (f : Frame) (frm : PtpTo) : (syncRx p d o f frm).Framed [.ports, .time] [] :=
  .look fun _ => .when (.acts ⟨(modPort_framed _ _).widen, .ite (modPort_framed _ _).widen (smpPut_framed _).widen, trivial⟩)

theorem followUpRx_framed (p : Nat) (d : List Byte) (o : Nat) : (followUpRx p d o).Framed [.ports, .time] [] := by
  refine .look fun _ => .when ?_
  split
  · exact .when (.acts ⟨(modPort_framed _ _).widen, (smpPut_framed _).widen, trivial⟩)
  · exact .skip

theorem delayRespRx_framed (p : Nat) (d : List Byte) (o : Nat) : (delayRespRx p d o).Framed [.ports, .time] [] := by
  refine .look fun _ => .when ?_
  split
  · exact .when (.acts ⟨(modPort_framed _ _).widen, (smpPut_framed _).widen, trivial⟩)
  · exact .skip

theorem delayReqRx_framed (p : Nat) (d : List Byte) (o : Nat) (f : Frame) (frm : PtpTo) : (delayReqRx p d o f frm).Framed (.cnt ::
    .fidNext :: .perf :: .pkts :: .ports :: .swc :: occurParts) (.PERF_STATUS :: .SWC_EVT_CAUSE :: occurRegs) := .look fun _ =>
  .when (ptpPost_framed _ _ _ _).widen

theorem pdelayReqRx_framed (p : Nat) (d : List Byte) (o : Nat) (f : Frame) : (pdelayReqRx p d o f).Framed (.cnt :: .fidNext :: .perf ::
    .pkts :: .ports :: .swc :: occurParts) (.PERF_STATUS :: .SWC_EVT_CAUSE :: occurRegs) := .look fun _ =>
  .when (ptpPost_framed _ _ _ _).widen

theorem pdelayRespRx_framed (p : Nat) (d : List Byte) (o : Nat) (f : Frame) : (pdelayRespRx p d o f).Framed [.ports] [] := by
  refine .look fun _ => .when ?_
  split
  · exact .skip
  · exact .ite (modPort_framed _ _).widen (modPort_framed _ _).widen

theorem pdelayFollowRx_framed (p : Nat) (d : List Byte) (o : Nat) : (pdelayFollowRx p d o).Framed [.ports] [] := by
  refine .look fun _ => .when ?_
  split
  · exact (modPort_framed _ _).widen
  · exact .skip

theorem ptpRx_framed (p : Nat) (P : Parsed) (f : Frame) : (ptpRx p P f).Framed (.cnt :: .fidNext :: .pe :: .perf :: .pkts :: .ports ::
    .swc :: .time :: occurParts) (.PERF_STATUS :: .PE_EVT_CAUSE :: .SWC_EVT_CAUSE :: occurRegs) := .look fun _ =>
  .ite (pdelayReqRx_framed _ _ _ _).widen (.ite (.acts ⟨(pdelayRespRx_framed _ _ _ _).widen, (postMsg_framed _ _).widen, trivial⟩) (.ite
    (.acts ⟨(pdelayFollowRx_framed _ _ _).widen, (postMsg_framed _ _).widen, trivial⟩) (.ite .skip (.acts ⟨(modPort_framed _ _).widen,
    .ite (delayReqRx_framed _ _ _ _ _).widen (.ite (.acts ⟨.when (announceRecord_framed _ _).widen, (postMsg_framed _ _).widen, trivial⟩)
    (.ite (unicastRx_framed _ _ _ _).widen (.ite (.acts ⟨(syncRx_framed _ _ _ _ _).widen, (postMsg_framed _ _).widen, trivial⟩) (.ite
    (.acts ⟨(followUpRx_framed _ _ _).widen, (postMsg_framed _ _).widen, trivial⟩) (.ite (.acts ⟨(delayRespRx_framed _ _ _).widen,
    (postMsg_framed _ _).widen, trivial⟩) (postMsg_framed _ _).widen))))), trivial⟩))))


/-! ### Machine/PeWheel.lean -/

theorem nbrRemove_framed (p : Nat) : (nbrRemove p).Framed (.cnt :: .pe :: .ports :: occurParts) (.PE_EVT_CAUSE :: occurRegs) :=
  .look fun _ => .when (.acts ⟨(modPort_framed _ _).widen, (postMsg_framed _ _).widen, (raisePe_framed _).widen, trivial⟩)

theorem lldpRx_framed (p : Nat) (d : List Byte) : (lldpRx p d).Framed (.cnt :: .pe :: .ports :: occurParts) (.PE_EVT_CAUSE :: occurRegs)
    := by
  refine .look fun _ => .ite (count_own _ _ _ _).widen ?_
  split
  · exact .ite (count_own _ _ _ _).widen (.acts ⟨(modPe_framed _).widen, .ite (nbrRemove_framed _).widen (.acts
      ⟨(modPort_framed _ _).widen, .when (.acts ⟨(modPort_framed _ _).widen, (postMsg_framed _ _).widen, (raisePe_framed _).widen,
      trivial⟩), trivial⟩), trivial⟩)
  · exact (count_own _ _ _ _).widen

theorem lldpTtlExpire_framed (p : Nat) : (lldpTtlExpire p).Framed (.cnt :: .pe :: .ports :: occurParts) (.PE_EVT_CAUSE :: occurRegs) := by
  refine .look fun _ => ?_
  split
  · exact .skip
  · exact .when (nbrRemove_framed _).widen

theorem bfdTo_framed (k st diag : Nat) : (bfdTo k st diag).Framed (.bfd :: .cnt :: .pe :: occurParts) (.PE_EVT_CAUSE :: occurRegs) :=
  .look fun _ => .when (.acts ⟨(modBfd_framed _ _).widen, (postMsg_framed _ _).widen, (raisePe_framed _).widen, trivial⟩)

theorem bfdSend_framed (k : Nat) (fin : Bool) : (bfdSend k fin).Framed (.cnt :: .fidNext :: .perf :: .pkts :: .swc :: occurParts)
    (.PERF_STATUS :: .SWC_EVT_CAUSE :: occurRegs) := .look fun _ =>
  (peSend_framed _ _ _ _).widen

theorem bfdTx_framed (k : Nat) : (bfdTx k).Framed (.bfd :: .cnt :: .fidNext :: .perf :: .pkts :: .swc :: occurParts) (.PERF_STATUS ::
    .SWC_EVT_CAUSE :: occurRegs) := .look fun _ =>
  .ite (.when (bfdSend_framed _ _).widen) (.when (.acts ⟨(bfdSend_framed _ _).widen, (modBfd_framed _ _).widen, trivial⟩))

theorem bfdApply_framed (k : Nat) : (bfdApply k).Framed (.bfd :: .cnt :: .pe :: occurParts) (.PE_EVT_CAUSE :: occurRegs) := by
  refine .look fun _ => ?_
  dsimp only
  split
  · exact .skip
  · exact .ite (modBfd_framed _ _).widen (.acts ⟨(modBfd_framed _ _).widen, (bfdTo_framed _ _ _).widen, trivial⟩)

theorem bfdRx_framed (p : Nat) (P : Parsed) (d : List Byte) : (bfdRx p P d).Framed (.bfd :: .cnt :: .fidNext :: .pe :: .perf :: .pkts ::
    .swc :: occurParts) (.PERF_STATUS :: .PE_EVT_CAUSE :: .SWC_EVT_CAUSE :: occurRegs) := by
  refine .look fun _ => ?_
  dsimp only
  split
  · exact (count_own _ _ _ _).widen
  · exact .acts ⟨(modBfd_framed _ _).widen, .ite .skip (.ite (bfdTo_framed _ _ _).widen (.ite (.ite (bfdTo_framed _ _ _).widen (.when
      (bfdTo_framed _ _ _).widen)) (.ite (.when (bfdTo_framed _ _ _).widen) (.when (bfdTo_framed _ _ _).widen)))), .when
      (bfdSend_framed _ _).widen, trivial⟩

theorem bfdDetectExpire_framed (k : Nat) : (bfdDetectExpire k).Framed [.ports] [] := .look fun _ => .when (postWork_framed _ _ _ _).widen

theorem bfdExpired_framed (k : Nat) : (bfdExpired k).Framed (.bfd :: .cnt :: .pe :: occurParts) (.PE_EVT_CAUSE :: occurRegs) :=
  .look fun _ => .when (.acts ⟨(modBfd_framed _ _).widen, (bfdTo_framed _ _ _).widen, trivial⟩)

theorem bfdRewrite_framed : (bfdRewrite).Framed [.bfd] [] := .look fun _ => .each (fun _ _ => (modBfd_framed _ _).widen)

theorem tallyTx_framed (p : Nat) : (tallyTx p).Framed (.cnt :: .fidNext :: .perf :: .pkts :: .swc :: .time :: occurParts) (.PERF_STATUS ::
    .PE_EVT_CAUSE :: .SWC_EVT_CAUSE :: occurRegs) := by
  refine .look fun _ => ?_
  split
  · exact .skip
  · exact .acts ⟨(peSend_framed _ _ _ _).widen, (modTime_framed _).widen, .when (raisePe_framed _).widen, trivial⟩

theorem tallyFail_framed : (tallyFail).Framed (.time :: occurParts) (.PE_EVT_CAUSE :: occurRegs) := .look fun _ =>
  .when (.acts ⟨(modTime_framed _).widen, (raisePe_framed _).widen, trivial⟩)

theorem rxPrune_framed (p : Nat) : (rxPrune p).Framed (.bufs :: .cnt :: .perf :: .ports :: .swc :: occurParts) freeRegs := .look fun _ =>
  .acts ⟨.each (fun _ _ => (peFreeFrame_framed _).widen), (modPort_framed _ _).widen, trivial⟩

theorem rxRoutine_framed (p ty : Nat) (b : Buf) : (rxRoutine p ty b).Framed (.bfd :: .bufs :: .cnt :: .dma :: .fidNext :: .pe :: .perf ::
    .pkts :: .ports :: .swc :: .time :: occurParts) (.DMA_EVT_CAUSE :: .HQ_LOST :: .PE_EVT_CAUSE :: .TIME_DPLL_STATUS ::
    .TIME_PORT_PTP_STATUS :: freeRegs) :=
  .ite (.acts ⟨(ptpRx_framed _ _ _).widen, (peFreeFrame_framed _).widen, trivial⟩) (.ite (.acts ⟨(bfdRx_framed _ _ _).widen,
    (peFreeFrame_framed _).widen, trivial⟩) (.ite (.acts ⟨(lldpRx_framed _ _).widen, (peFreeFrame_framed _).widen, trivial⟩) (.ite
    (.look fun _ => .acts ⟨.when (esmcReceive_framed _ _ _).widen, (peFreeFrame_framed _).widen, trivial⟩) (.ite (.look fun _ =>
    (d2hDeliver_framed _ _ _).widen) (d2hDeliver_framed _ _ _).widen))))

theorem itemRoutine_framed (p ty idx : Nat) : (itemRoutine p ty idx).Framed (.bfd :: .cnt :: .fidNext :: .fresh :: .pe :: .perf :: .pkts
    :: .ports :: .swc :: .time :: occurParts) (.PERF_STATUS :: .PE_EVT_CAUSE :: .SWC_EVT_CAUSE :: occurRegs) :=
  .ite (postMsg_framed _ _).widen (.ite (bfdExpired_framed _).widen (.ite (ptpTx_framed _ _).widen (.ite (bfdTx_framed _).widen (.ite
    (.look fun _ => .when (peSend_framed _ _ _ _).widen) (.ite (.look fun _ => .when (peSend_framed _ _ _ _).widen) (.ite
    (tallyTx_framed _).widen .skip))))))

theorem peStart_framed (p ty fid idx flags : Nat) (f : Frame) (P : Parsed) : (peStart p ty fid idx flags f P).Framed [.aisles, .pe] [] :=
  .acts ⟨(modPe_framed _).widen, (modEng_framed _ _).widen, (startRoutine_framed _ _).widen, trivial⟩

theorem romEffect_framed (p ty fid idx : Nat) : (romEffect p ty fid idx).Framed (.bfd :: .bufs :: .cnt :: .dma :: .fidNext :: .fresh ::
    .pe :: .perf :: .pkts :: .ports :: .swc :: .time :: occurParts) (.DMA_EVT_CAUSE :: .HQ_LOST :: .PE_EVT_CAUSE :: .TIME_DPLL_STATUS ::
    .TIME_PORT_PTP_STATUS :: freeRegs) := by
  refine .look fun _ => .ite ?_ (itemRoutine_framed _ _ _).widen
  split
  · exact (rxRoutine_framed _ _ _).widen
  · exact .skip

theorem romStart_framed (p ty fid idx : Nat) : (romStart p ty fid idx).Framed (.aisles :: .bfd :: .bufs :: .cnt :: .dma :: .fidNext ::
    .fresh :: .lanes :: .pe :: .perf :: .pkts :: .ports :: .qtrs :: .stalls :: .swc :: .time :: occurParts) (.DMA_EVT_CAUSE :: .HQ_LOST ::
    microwordExecuteRegs) := by
  refine .look fun _ => .acts ⟨.when (count_own _ _ _ _).widen, ?_, trivial⟩
  split
  · exact (romEffect_framed _ _ _ _).widen
  · exact .ite (romEffect_framed _ _ _ _).widen (.acts ⟨(modPe_framed _).widen, .ite (.acts ⟨(modEng_framed _ _).widen,
      (modPe_framed _).widen, trivial⟩) (.acts ⟨(parityCheck_framed _ _ _ _).widen, (modPe_framed _).widen, trivial⟩), trivial⟩)

theorem runWork_framed (p ty : Nat) : (runWork p ty).Framed (.aisles :: .bfd :: .bufs :: .cnt :: .dma :: .fidNext :: .fresh :: .lanes ::
    .pe :: .perf :: .pkts :: .ports :: .qtrs :: .stalls :: .swc :: .time :: occurParts) (.DMA_EVT_CAUSE :: .HQ_LOST ::
    microwordExecuteRegs) := by
  refine .look fun _ => .ite ?_ (.acts ⟨(modPort_framed _ _).widen, .ite (romStart_framed _ _ _ _).widen (.acts ⟨.upd rfl,
    (peStart_framed _ _ _ _ _ _ _).widen, trivial⟩), trivial⟩)
  split
  · exact .skip
  · exact .acts ⟨(modPort_framed _ _).widen, .ite (romStart_framed _ _ _ _).widen (peStart_framed _ _ _ _ _ _ _).widen, trivial⟩

theorem portVisit_framed (p : Nat) : (portVisit p).Framed (.aisles :: .bfd :: .bufs :: .cnt :: .dma :: .fidNext :: .fresh :: .lanes :: .pe
    :: .perf :: .pkts :: .ports :: .qtrs :: .stalls :: .swc :: .time :: occurParts) (.DMA_EVT_CAUSE :: .HQ_LOST :: microwordExecuteRegs)
    := by
  refine .look fun _ => .acts ⟨.each (fun _ _ => (bfdApply_framed _).widen), .when (modPort_framed _ _).widen, (rxPrune_framed _).widen,
    .look fun _ => ?_, trivial⟩
  split
  · exact .skip
  · exact (runWork_framed _ _).widen

theorem wheelPosition_framed : (wheelPosition).Framed (.aisles :: .bfd :: .bufs :: .cnt :: .dma :: .fidNext :: .fresh :: .lanes :: .pe ::
    .perf :: .pkts :: .ports :: .qtrs :: .stalls :: .swc :: .time :: occurParts) (.DMA_EVT_CAUSE :: .HQ_LOST :: microwordExecuteRegs)
    := by
  refine .look fun _ => .when (.acts ⟨(modPe_framed _).widen, ?_, (tallyFail_framed).widen, .ite (hostSlot_framed _).widen
    (portVisit_framed _).widen, (unitReport_framed _).widen, trivial⟩)
  split
  · exact (romEffect_framed _ _ _ _).widen
  · exact .skip

theorem peTimerExpire_framed (p ty idx : Nat) : (peTimerExpire p ty idx).Framed [.bfd, .pe, .ports] [] := .look fun _ =>
  .when (.acts ⟨(modPe_framed _).widen, .ite (modBfd_framed _ _).widen (modPort_framed _ _).widen, (postWork_framed _ _ _ _).widen,
    trivial⟩)


end Sys2Proof.Machine
end

section
/-!
PROOF. Frames (6 of 7): what each action may change, as lists of parts and registers that follow its definition. The lemmas are
many and small: they are elaborated one after another, since a thread for each would take more memory than the check has.
-/
set_option Elab.async false
namespace Sys2Proof.Machine

/-! ### Machine/Sec.lean -/

theorem burnStart_framed (op x : Nat) : (burnStart op x).Framed [.live, .regs, .sec] [.SEC_STATUS] :=
  .acts ⟨(modSec_framed _).widen, (setB_own _ _ _).widen, trivial⟩

theorem burnEnd_framed : (burnEnd).Framed [.live, .regs, .sec] [.SEC_STATUS] :=
  .acts ⟨(modSec_framed _).widen, (setB_own _ _ _).widen, trivial⟩

theorem burnOwner_framed (req : Req) (value : Word) : (burnOwner req value).Framed (.evt :: .sec :: occurParts) (.SEC_EVT_CAUSE ::
    .SEC_STATUS :: .SYS_LOCKED_WR :: .SYS_LOCKED_WR_INFO :: .SYS_REJECT_ADDR :: .SYS_REJECT_INFO :: accessRegs) :=
  onSecWrite_framed _ _ _ _ (by decide) (fun _ => .when (.look fun _ => .ite (lockedWrite_own _ _).widen (.ite (reject3_own _ _ _ _).widen
    (burnStart_framed _ _).widen)))

theorem otpBurnDone_framed (good : Bool) : (otpBurnDone good).Framed (.otp :: .sec :: occurParts) (.SEC_EVT_CAUSE :: .SEC_STATUS ::
    occurRegs) := .look fun _ =>
  .when (.ite (.acts ⟨.upd rfl, (burnEnd_framed).widen, (raise_own _ _).widen, trivial⟩) (.acts ⟨.upd rfl, .look fun _ => .when (.acts
    ⟨(burnEnd_framed).widen, (raise_own _ _).widen, trivial⟩), trivial⟩))

theorem revoke_framed (req : Req) (value : Word) : (revoke req value).Framed (.evt :: .sec :: occurParts) (.SEC_EVT_CAUSE :: .SEC_STATUS
    :: .SYS_LOCKED_WR :: .SYS_LOCKED_WR_INFO :: .SYS_REJECT_ADDR :: .SYS_REJECT_INFO :: accessRegs) :=
  onSecWrite_framed _ _ _ _ (by decide) (fun _ => .look fun _ => .acts ⟨.when (lockedWrite_own _ _).widen, .when (.ite
    (reject_own _ _ _ _ _).widen (.ite (reject3_own _ _ _ _).widen (burnStart_framed _ _).widen)), trivial⟩)

theorem revokeBurnDone_framed : (revokeBurnDone).Framed [.live, .otp, .regs, .sec] [.SEC_STATUS] := by
  refine .look fun _ => ?_
  split
  · exact .acts ⟨.upd rfl, (burnEnd_framed).widen, trivial⟩
  · exact .skip

theorem svnAdvance_framed (req : Req) (value : Word) : (svnAdvance req value).Framed (.evt :: .sec :: occurParts) (.SEC_EVT_CAUSE ::
    .SEC_STATUS :: .SYS_REJECT_ADDR :: .SYS_REJECT_INFO :: accessRegs) :=
  onSecWrite_framed _ _ _ _ (by decide) (fun _ => .when (.look fun _ => .ite (reject3_own _ _ _ _).widen (.ite
    (reject_own _ _ _ _ _).widen (.when (burnStart_framed _ _).widen))))

theorem svnBurnDone_framed : (svnBurnDone).Framed (.otp :: .sec :: occurParts) (.SEC_EVT_CAUSE :: .SEC_STATUS :: occurRegs) := by
  refine .look fun _ => ?_
  split
  · exact .acts ⟨.upd rfl, (burnEnd_framed).widen, (raise_own _ _).widen, trivial⟩
  · exact .skip

theorem cfgLockSet_framed (req : Req) (value : Word) : (cfgLockSet req value).Framed (.evt :: occurParts) (.SEC_LOCK :: accessRegs) :=
  onSecWrite_framed _ _ _ _ (by decide) (fun _ => .when (setB_own _ _ _).widen)

theorem drawBootId_framed : (drawBootId).Framed [.fresh, .sec] [] := .look fun _ => .when (draw_own (fun _ => (modSec_framed _).widen))

theorem entropyShow_framed : (entropyShow).Framed (.fresh :: .sec :: occurParts) (.SEC_EVT_CAUSE :: .SEC_STATUS :: occurRegs) :=
  .look fun _ => .ite (raise_own _ _).widen (.acts ⟨(setB_own _ _ _).widen, (drawBootId_framed).widen, trivial⟩)

theorem entropyFail_framed : (entropyFail).Framed (.sec :: occurParts) (.SEC_EVT_CAUSE :: .SEC_STATUS :: occurRegs) := .look fun _ =>
  .acts ⟨(modSec_framed _).widen, .when (.acts ⟨(setB_own _ _ _).widen, (raise_own _ _).widen, trivial⟩), trivial⟩

theorem entropyRecover_framed : (entropyRecover).Framed (.fresh :: .sec :: occurParts) (.SEC_EVT_CAUSE :: .SEC_STATUS :: occurRegs) :=
  .look fun _ => .when (.acts ⟨(modSec_framed _).widen, .when (entropyShow_framed).widen, trivial⟩)

theorem sessSync_framed : (sessSync).Framed [.live, .regs] [.SEC_STATUS] := .look fun _ =>
  .acts ⟨(setF_own _ _ _).widen, (setB_own _ _ _).widen, trivial⟩

theorem sessEnd_framed (p : Session → Bool) : (sessEnd p).Framed (.sec :: occurParts) (.SEC_EVT_CAUSE :: .SEC_STATUS :: occurRegs) :=
  .look fun _ => .acts ⟨(modSec_framed _).widen, (sessSync_framed).widen, .when (raise_own _ _).widen, trivial⟩

theorem secCfgWrite_framed (rq : Req) (value : Word) : (secCfgWrite rq value).Framed (.evt :: .sec :: occurParts) (.SEC_CFG :: .SEC_STATUS
    :: .SYS_EVT_CAUSE :: .SYS_LOCKED_WR :: .SYS_LOCKED_WR_INFO :: occurRegs) :=
  .acts ⟨(writeFields_own _ _ _ _).widen, .look fun _ => .when (.acts ⟨(modSec_framed _).widen, (sessSync_framed).widen, trivial⟩),
    trivial⟩

theorem sessionHeartbeatTimeout_framed (sid : Nat) : (sessionHeartbeatTimeout sid).Framed (.sec :: occurParts) (.SEC_EVT_CAUSE ::
    .SEC_STATUS :: occurRegs) := .look fun _ =>
  (sessEnd_framed _).widen

theorem setVer_framed (t : Transport) (n : Nat) : (setVer t n).Framed [.sec] [] := (modSec_framed _).widen

theorem modSess_framed (sid : Nat) (f : Session → Session) : (modSess sid f).Framed [.sec] [] := (modSec_framed _).widen

theorem freeOctets_framed {P : List Part} {R : List Reg} (n : Nat) (k : List Byte → Act) (hs : frameSub [.fresh] [] P R = true) (hk
    : ∀ x0, (k x0).Framed P R) : (freeOctets n k).Framed P R :=
  draw_own (fun _ => (hk _)) (frameSub_trans (by decide) hs)

theorem withNonce_framed {P : List Part} {R : List Reg} (k rsp : List Byte → Act) (hs : frameSub [.fresh] [] P R = true) (hk : ∀ x0,
    (k x0).Framed P R) (hrsp : ∀ x0, (rsp x0).Framed P R) : (withNonce k rsp).Framed P R := .look fun _ =>
  .ite (freeOctets_framed _ _ (frameSub_trans (by decide) hs) (fun _ => (hk _))) ((hrsp _))

theorem spVersionRsp_framed {P : List Part} {R : List Reg} (t : Transport) (rsp : List Byte → Act) (hs : frameSub [.sec] [] P R = true)
    (hrsp : ∀ x0, (rsp x0).Framed P R) : (spVersionRsp t rsp).Framed P R :=
  .acts ⟨(setVer_framed _ _).into hs, (hrsp _), trivial⟩

theorem spCapsRsp_framed {P : List Part} {R : List Reg} (t : Transport) (rsp : List Byte → Act) (hs : frameSub [.fresh, .sec]
    [] P R = true) (hrsp : ∀ x0, (rsp x0).Framed P R) : (spCapsRsp t rsp).Framed P R :=
  .acts ⟨(setVer_framed _ _).into hs, freeOctets_framed _ _ (frameSub_trans (by decide) hs) (fun _ => (hrsp _)), trivial⟩

theorem spAlgRsp_framed {P : List Part} {R : List Reg} (t : Transport) (msg : List Byte) (rsp : List Byte → Act) (hs : frameSub [.sec]
    [] P R = true) (hrsp : ∀ x0, (rsp x0).Framed P R) : (spAlgRsp t msg rsp).Framed P R :=
  .ite (.acts ⟨(setVer_framed _ _).into hs, (hrsp _), trivial⟩) ((hrsp _))

theorem trNote_framed (t : Transport) (x : SpdmIn) (msg l : List Byte) : (trNote t x msg l).Framed [.sec] [] :=
  .when (modSec_framed _).widen

theorem spDigestsRsp_framed {P : List Part} {R : List Reg} (rsp : List Byte → Act) (hs : frameSub [] [] P R = true) (hrsp : ∀ x0,
    (rsp x0).Framed P R) : (spDigestsRsp rsp).Framed P R := .look fun _ =>
  (hrsp _)

theorem spCertRsp_framed {P : List Part} {R : List Reg} (msg : List Byte) (rsp : List Byte → Act) (hs : frameSub [] [] P R = true) (hrsp
    : ∀ x0, (rsp x0).Framed P R) : (spCertRsp msg rsp).Framed P R := .look fun _ =>
  .ite ((hrsp _)) ((hrsp _))

theorem spChallengeRsp_framed {P : List Part} {R : List Reg} (t : Transport) (msg : List Byte) (rsp : List Byte → Act) (hs : frameSub
    [.fresh] [] P R = true) (hrsp : ∀ x0, (rsp x0).Framed P R) : (spChallengeRsp t msg rsp).Framed P R :=
  .ite ((hrsp _)) (withNonce_framed _ _ (frameSub_trans (by decide) hs) (fun _ => .look fun _ => signed_framed _ _ _ (frameSub_trans
    (by decide) hs) (fun _ => (hrsp _))) (fun _ => (hrsp _)))

theorem spMeasRsp_framed {P : List Part} {R : List Reg} (t : Transport) (x : SpdmIn) (msg : List Byte) (rsp : List Byte → Act) (hs
    : frameSub [.fresh] [] P R = true) (hrsp : ∀ x0, (rsp x0).Framed P R) : (spMeasRsp t x msg rsp).Framed P R :=
  .ite ((hrsp _)) (withNonce_framed _ _ (frameSub_trans (by decide) hs) (fun _ => .look fun _ => .ite (signed_framed _ _ _ (frameSub_trans
    (by decide) hs) (fun _ => (hrsp _))) ((hrsp _))) (fun _ => (hrsp _)))

theorem spKeyExRsp_framed {P : List Part} {R : List Reg} (t : Transport) (msg : List Byte) (rsp : List Byte → Act) (hs : frameSub [.fresh,
    .sec] [] P R = true) (hrsp : ∀ x0, (rsp x0).Framed P R) : (spKeyExRsp t msg rsp).Framed P R := .look fun _ =>
  .ite ((hrsp _)) (.ite ((hrsp _)) (withNonce_framed _ _ (frameSub_trans (by decide) hs) (fun _ => draw_own (fun _ => .look fun _ => .acts
    ⟨(modSec_framed _).into hs, freeOctets_framed _ _ (frameSub_trans (by decide) hs) (fun _ => signed_framed _ _ _ (frameSub_trans
    (by decide) hs) (fun _ => (hrsp _))), trivial⟩) (frameSub_trans (by decide) hs)) (fun _ => (hrsp _))))

theorem spFinishRsp_framed {P : List Part} {R : List Reg} (t : Transport) (x : SpdmIn) (rsp : List Byte → Act) (hs : frameSub (.sec ::
    occurParts) (.SEC_EVT_CAUSE :: .SEC_STATUS :: occurRegs) P R = true) (hrsp : ∀ x0, (rsp x0).Framed P R) :
    (spFinishRsp t x rsp).Framed P R := by
  refine .look fun _ => ?_
  split
  · exact (hrsp _)
  · exact .ite ((hrsp _)) (.ite (.acts ⟨(sessEnd_framed _).into hs, (raise_own _ _).into hs, (hrsp _), trivial⟩) (.acts
      ⟨(modSess_framed _ _).into hs, (raise_own _ _).into hs, .when ((raise_own _ _).into hs), (sessSync_framed).into hs, (hrsp _),
      trivial⟩))

theorem inSession_framed {P : List Part} {R : List Reg} (t : Transport) (x : SpdmIn) (rsp : List Byte → Act) (k : Session → Act) (hs
    : frameSub [] [] P R = true) (hrsp : ∀ x0, (rsp x0).Framed P R) (hk : ∀ x0, (k x0).Framed P R) : (inSession t x rsp k).Framed P R
    := by
  refine .look fun _ => ?_
  split
  · exact (hrsp _)
  · exact .ite ((hk _)) ((hrsp _))

theorem spKeyUpdateRsp_framed {P : List Part} {R : List Reg} (t : Transport) (x : SpdmIn) (msg : List Byte) (rsp : List Byte → Act) (hs
    : frameSub [.sec] [] P R = true) (hrsp : ∀ x0, (rsp x0).Framed P R) : (spKeyUpdateRsp t x msg rsp).Framed P R :=
  inSession_framed _ _ _ _ (frameSub_trans (by decide) hs) (fun _ => (hrsp _)) (fun _ => .ite ((hrsp _)) (.acts ⟨.when
    ((modSess_framed _ _).into hs), (hrsp _), trivial⟩))

theorem spChunkGetRsp_framed {P : List Part} {R : List Reg} (t : Transport) (msg : List Byte) (rsp : List Byte → Act) (hs : frameSub
    [.sec] [] P R = true) (hrsp : ∀ x0, (rsp x0).Framed P R) : (spChunkGetRsp t msg rsp).Framed P R := .look fun _ =>
  .ite ((hrsp _)) (.acts ⟨(modSec_framed _).into hs, (hrsp _), trivial⟩)

theorem spdmAnswer_framed {P : List Part} {R : List Reg} (t : Transport) (x : SpdmIn) (msg : List Byte) (send : List Byte → Act) (hs
    : frameSub (.fresh :: .sec :: occurParts) (.SEC_EVT_CAUSE :: .SEC_STATUS :: occurRegs) P R = true) (hsend : ∀ x0,
    (send x0).Framed P R) : (spdmAnswer t x msg send).Framed P R := .look fun _ =>
  .ite (.acts ⟨(trNote_framed _ _ _ _).into hs, (hsend _), trivial⟩) (.ite (.acts ⟨(trNote_framed _ _ _ _).into hs, (hsend _), trivial⟩)
    (.ite (.acts ⟨(trNote_framed _ _ _ _).into hs, (hsend _), trivial⟩) (.ite (spVersionRsp_framed _ _ (frameSub_trans (by decide) hs)
    (fun _ => .acts ⟨(trNote_framed _ _ _ _).into hs, (hsend _), trivial⟩)) (.ite (spCapsRsp_framed _ _ (frameSub_trans (by decide) hs)
    (fun _ => .acts ⟨(trNote_framed _ _ _ _).into hs, (hsend _), trivial⟩)) (.ite (spAlgRsp_framed _ _ _ (frameSub_trans (by decide) hs)
    (fun _ => .acts ⟨(trNote_framed _ _ _ _).into hs, (hsend _), trivial⟩)) (.ite (spDigestsRsp_framed _ (frameSub_trans (by decide) hs)
    (fun _ => .acts ⟨(trNote_framed _ _ _ _).into hs, (hsend _), trivial⟩)) (.ite (spCertRsp_framed _ _ (frameSub_trans (by decide) hs)
    (fun _ => .acts ⟨(trNote_framed _ _ _ _).into hs, (hsend _), trivial⟩)) (.ite (spChallengeRsp_framed _ _ _ (frameSub_trans
    (by decide) hs) (fun _ => .acts ⟨(trNote_framed _ _ _ _).into hs, (hsend _), trivial⟩)) (.ite (spMeasRsp_framed _ _ _ _
    (frameSub_trans (by decide) hs) (fun _ => .acts ⟨(trNote_framed _ _ _ _).into hs, (hsend _), trivial⟩)) (.ite (spKeyExRsp_framed _ _ _
    (frameSub_trans (by decide) hs) (fun _ => .acts ⟨(trNote_framed _ _ _ _).into hs, (hsend _), trivial⟩)) (.ite
    (spFinishRsp_framed _ _ _ (frameSub_trans (by decide) hs) (fun _ => .acts ⟨(trNote_framed _ _ _ _).into hs, (hsend _), trivial⟩))
    (.ite (inSession_framed _ _ _ _ (frameSub_trans (by decide) hs) (fun _ => .acts ⟨(trNote_framed _ _ _ _).into hs, (hsend _), trivial⟩)
    (fun _ => .acts ⟨(trNote_framed _ _ _ _).into hs, (hsend _), trivial⟩)) (.ite (spKeyUpdateRsp_framed _ _ _ _ (frameSub_trans
    (by decide) hs) (fun _ => .acts ⟨(trNote_framed _ _ _ _).into hs, (hsend _), trivial⟩)) (.ite (inSession_framed _ _ _ _
    (frameSub_trans (by decide) hs) (fun _ => .acts ⟨(trNote_framed _ _ _ _).into hs, (hsend _), trivial⟩) (fun _ => .acts ⟨.acts
    ⟨(trNote_framed _ _ _ _).into hs, (hsend _), trivial⟩, (sessEnd_framed _).into hs, trivial⟩)) (.ite (spChunkGetRsp_framed _ _ _
    (frameSub_trans (by decide) hs) (fun _ => .acts ⟨(trNote_framed _ _ _ _).into hs, (hsend _), trivial⟩)) (.acts
    ⟨(trNote_framed _ _ _ _).into hs, (hsend _), trivial⟩))))))))))))))))

theorem spChunkSendRsp_framed {P : List Part} {R : List Reg} (t : Transport) (x : SpdmIn) (msg : List Byte) (rsp : List Byte → Act) (hs
    : frameSub (.fresh :: .sec :: occurParts) (.SEC_EVT_CAUSE :: .SEC_STATUS :: occurRegs) P R = true) (hrsp : ∀ x0, (rsp x0).Framed P R)
    : (spChunkSendRsp t x msg rsp).Framed P R := .look fun _ =>
  .ite ((hrsp _)) (.ite ((hrsp _)) (.ite (.acts ⟨(modSec_framed _).into hs, (hrsp _), trivial⟩) (.ite (.acts ⟨(modSec_framed _).into hs,
    (hrsp _), trivial⟩) (.ite (.acts ⟨(modSec_framed _).into hs, (hrsp _), trivial⟩) (.ite (.acts ⟨(modSec_framed _).into hs, (hrsp _),
    trivial⟩) (.acts ⟨(modSec_framed _).into hs, spdmAnswer_framed _ _ _ _ (frameSub_trans (by decide) hs) (fun _ => (hrsp _)),
    trivial⟩))))))

theorem spdmSend_framed (t : Transport) (l : List Byte) : (spdmSend t l).Framed [.out, .sec] [] :=
  .ite (emit_own _).widen (.look fun _ => .acts ⟨(modSec_framed _).widen, (emit_own _).widen, trivial⟩)

theorem spdmRow_framed (code : Nat) (t : Transport) (x : SpdmIn) (msg : List Byte) : (spdmRow code t x msg).Framed (.fresh :: .sec ::
    occurParts) (.SEC_EVT_CAUSE :: .SEC_STATUS :: occurRegs) := by
  refine .look fun _ => .when (.acts ⟨?_, .ite (spChunkSendRsp_framed _ _ _ _ (by decide) (fun _ => (spdmSend_framed _ _).widen))
    (spdmAnswer_framed _ _ _ _ (by decide) (fun _ => (spdmSend_framed _ _).widen)), trivial⟩)
  split
  · exact (modSess_framed _ _).widen
  · exact .skip

theorem unsupportedRequest_framed (t : Transport) (x : SpdmIn) (msg : List Byte) : (unsupportedRequest t x msg).Framed (.fresh :: .sec ::
    occurParts) (.SEC_EVT_CAUSE :: .SEC_STATUS :: occurRegs) := .look fun _ =>
  .when (spdmRow_framed _ _ _ _).widen

theorem securedMessageFail_framed (t : Transport) (sid : Nat) : (securedMessageFail t sid).Framed (.sec :: occurParts) (.SEC_EVT_CAUSE ::
    .SEC_STATUS :: occurRegs) := .look fun _ =>
  .when (.acts ⟨(sessEnd_framed _).widen, (raise_own _ _).widen, trivial⟩)


/-! ### Machine/Reset.lean -/

theorem releaseSrc_framed (src mark : Nat) : (releaseSrc src mark).Framed [.clk] [] := (modClk_framed _).widen

theorem tripRelease_framed : (tripRelease).Framed [.clk, .out] [] :=
  .acts ⟨(releaseSrc_framed _ _).widen, (modClk_framed _).widen, (emit_own _).widen, trivial⟩

theorem burnCut_framed : (burnCut).Framed [.fresh, .otp] [] := by
  refine .look fun _ => ?_
  split
  · exact .skip
  · exact draw_own (fun _ => .ite (.upd rfl) (.ite (.upd rfl) (.upd rfl)))

theorem programCut_framed : (programCut).Framed [.fresh, .nvmMem] [] := by
  refine .look fun _ => ?_
  split
  · exact .skip
  · exact draw_own (fun _ => (programBytes_framed _ _).widen)

theorem outputsLow_framed : (outputsLow).Framed [.out] [] := .look fun _ =>
  .acts ⟨.when (emit_own _).widen, (emit_own _).widen, .each (fun _ _ => (emit_own _).widen), trivial⟩

theorem holdPending_framed : (holdPending).Framed [.clk, .live, .regs] [.CLK_RST_CAUSE] := .look fun _ =>
  .acts ⟨.when (modClk_framed _).widen, (setB_own _ _ _).widen, trivial⟩

theorem resetNRelease_framed : (resetNRelease).Framed [.clk] [] := (releaseSrc_framed _ _).widen

theorem exitSequenceStart_framed (written : List (Nat × BitVec 8)) : (exitSequenceStart written).Framed [.clk, .live, .nvmMem, .regs]
    [.CLK_RST_CAUSE] := .look fun _ =>
  .when (.acts ⟨(nvmWritten_framed _).widen, .ite (setReg_own _ _ _).widen (setReg_own _ _ _).widen, (modClk_framed _).widen, trivial⟩)

theorem loadOptions_framed (nvm : Bool) : (loadOptions nvm).Framed (.clk :: occurParts) (.CLK_EVT_CAUSE :: .CLK_OPT_STATUS :: .PERF_PERMIT
    :: .THM_CFG :: occurRegs) := .look fun _ =>
  .acts ⟨(modClk_framed _).widen, (setF_own _ _ _).widen, (setB_own _ _ _).widen, (setF_own _ _ _).widen, (setF_own _ _ _).widen,
    (setF_own _ _ _).widen, (setF_own _ _ _).widen, (setF_own _ _ _).widen, .when (raise_own _ _).widen, .when (.acts
    ⟨(setB_own _ _ _).widen, (raise_own _ _).widen, trivial⟩), trivial⟩

theorem refclkMeasure_framed (count : Nat) (nvm : Bool) : (refclkMeasure count nvm).Framed (.clk :: occurParts) (.CLK_EVT_CAUSE ::
    .CLK_OPT_STATUS :: .CLK_STATUS :: .PERF_PERMIT :: .THM_CFG :: occurRegs) := .look fun _ =>
  .when (.acts ⟨(setF_own _ _ _).widen, .ite (modClk_framed _).widen (.acts ⟨(setB_own _ _ _).widen, (emit_own _).widen, .each (fun _ _ =>
    (emit_own _).widen), (loadOptions_framed _).widen, (modClk_framed _).widen, trivial⟩), trivial⟩)

theorem wdtRestart_framed : (wdtRestart).Framed [.clk] [] := .look fun _ => (modClk_framed _).widen

theorem wdtKick_framed (req : Req) (value : Word) : (wdtKick req value).Framed (.clk :: .evt :: occurParts) (.CLK_WDT_STATUS ::
    accessRegs) :=
  onSecWrite_framed _ _ _ _ (by decide) (fun _ => .ite (wdtRestart_framed).widen (addSat_own _ _ _).widen)

theorem mbxReset_framed (n : Nat) : (mbxReset n).Framed [.evt, .live, .mbx, .nvm, .regs] [.MBX_CTL, .MBX_DATA, .MBX_SEL] :=
  .acts ⟨(setReg_own _ _ _).widen, (setReg_own _ _ _).widen, .each (fun _ _ => (setReg_own _ _ _).widen), (modMbx_framed _ _).widen,
    (modNvm_framed _).widen, (modEvt_own _).widen, trivial⟩

theorem zolMemoryReset_framed : (zolMemoryReset).Framed [.bfd, .nvm, .pe, .thm, .time] [] := .look fun _ =>
  .acts ⟨(modNvm_framed _).widen, (modPe_framed _).widen, (modThm_framed _).widen, (stepDrop_framed).widen, .each (fun _ _ =>
    (modBfd_framed _ _).widen), trivial⟩

theorem wdtExpire_framed : (wdtExpire).Framed (.bfd :: .clk :: .evt :: .mbx :: .nvm :: .pe :: .thm :: .time :: occurParts) (.CLK_EVT_CAUSE
    :: .CLK_RST_CAUSE :: .MBX_CTL :: .MBX_DATA :: .MBX_SEL :: occurRegs) := .look fun _ =>
  .when (.acts ⟨(modClk_framed _).widen, .each (fun _ _ => (mbxReset_framed _).widen), (zolMemoryReset_framed).widen,
    (addSat_own _ _ _).widen, (servoSuspend_framed).widen, (wdtRestart_framed).widen, (raise_own _ _).widen, trivial⟩)

theorem pcieStart_framed : (pcieStart).Framed [.clk, .live, .regs] [.CLK_STATUS] := .look fun _ =>
  .when (.acts ⟨(modClk_framed _).widen, (setB_own _ _ _).widen, trivial⟩)

theorem resetDone_framed : (resetDone).Framed (.clk :: .fresh :: .mode :: .sec :: .time :: occurParts) (.CLK_EVT_CAUSE :: .CLK_STATUS ::
    .SEC_EVT_CAUSE :: .SEC_STATUS :: .SYS_MODE :: occurRegs) := .look fun _ =>
  .when (.acts ⟨(modClk_framed _).widen, (setB_own _ _ _).widen, (modTime_framed _).widen, (pcieStart_framed).widen,
    (wdtRestart_framed).widen, (setF_own _ _ _).widen, (setF_own _ _ _).widen, (modMode_framed _).widen, (setB_own _ _ _).widen,
    (entropyShow_framed).widen, withRnd_framed _ (by decide) (fun _ => (modSec_framed _).widen), .look fun _ => .when (.acts
    ⟨(setB_own _ _ _).widen, (raise_own _ _).widen, trivial⟩), .look fun _ => .acts ⟨(extendM_framed _ _).widen,
    (extendM_framed _ _).widen, trivial⟩, (raise_own _ _).widen, trivial⟩)

theorem timepllLoss_framed : (timepllLoss).Framed (.ports :: .time :: occurParts) (.CLK_EVT_CAUSE :: .CLK_STATUS :: .TIME_DPLL_STATUS ::
    .TIME_SVC_EVT_CAUSE :: occurRegs) := .look fun _ =>
  .when (.acts ⟨(setB_own _ _ _).widen, (setB_own _ _ _).widen, (raise_own _ _).widen, (dpllClockLost_framed).widen, trivial⟩)

theorem timepllRelock_framed : (timepllRelock).Framed (.ports :: .time :: occurParts) (.CLK_EVT_CAUSE :: .CLK_STATUS :: .PORT_STATE ::
    .TIME_DPLL_STATUS :: .TIME_PORT_CAL_STATUS :: .TIME_SVC_EVT_CAUSE :: occurRegs) := .look fun _ =>
  .when (.acts ⟨(setB_own _ _ _).widen, (setB_own _ _ _).widen, (raise_own _ _).widen, (calStartAll_framed _ _).widen,
    (refSwitch_framed).widen, trivial⟩)

theorem pciePllLoss_framed : (pciePllLoss).Framed [.live, .regs] [.CLK_STATUS] := (setB_own _ _ _).widen

theorem pciePllRelock_framed : (pciePllRelock).Framed [.live, .regs] [.CLK_STATUS] := .look fun _ => .when (setB_own _ _ _).widen

theorem clearCnt_framed (u : Nat) : (clearCnt u).Framed [.cnt] [] := .upd ⟨rfl, nofun, nofun⟩

theorem cutArriving_framed (p : Nat) : (cutArriving p).Framed (.bufs :: .cnt :: .perf :: .pkts :: .ports :: .qtrs :: .stalls :: .swc ::
    .time :: occurParts) (.PORT_STATE :: .QTR_EVT_CAUSE :: .QTR_LDG_STATUS :: .TIME_PORT_CAL_STATUS :: .TIME_PORT_EVT_CAUSE :: freeRegs)
    :=
  (frameLastByte_framed _ _).widen

theorem parkPort_framed (p : Nat) : (parkPort p).Framed (.cnt :: .lanes :: .ports :: .qtrs :: .stalls :: .time :: occurParts) leaveRegs :=
  .look fun _ => .acts ⟨.when (leaveUp_framed _ _ _).widen, .look fun _ => (setF_own _ _ _).widen, trivial⟩

theorem fillPolicers_framed (q : Nat) : (fillPolicers q).Framed [.qtrs] [] := .look fun _ => (modQtr_framed _ _).widen

theorem softExit_framed (u : Nat) : (softExit u).Framed (.aisles :: .bfd :: .fresh :: .lanes :: .mbx :: .nvm :: .pe :: .ports :: .sec ::
    occurParts) (.MBX_CTL :: .MBX_DATA :: .NVM_STATUS :: .PORT_STATE :: .SEC_EVT_CAUSE :: .SEC_STATUS :: .STALL_STATUS :: occurRegs) :=
  .look fun _ => .ite (.acts ⟨(setB_own _ _ _).widen, .each (fun _ _ => (goRestart_framed _).widen), trivial⟩) (.ite (.acts
    ⟨(loadStore_framed _ _).widen, .each (fun _ _ => (goRestart_framed _).widen), trivial⟩) (.ite (.acts ⟨(loadStore_framed _ _).widen,
    (bfdRewrite_framed).widen, trivial⟩) (.ite (.acts ⟨(holdSync_framed).widen, (nvmServe_framed).widen, trivial⟩) (.ite (.acts
    ⟨(setB_own _ _ _).widen, (entropyShow_framed).widen, trivial⟩) .skip))))

theorem softReg_own (u : Nat) (w : Word) : (Act.upd (.reg (softReg u).1 0 w)).Framed [.regs]
    [.CLK_SOFT_RST0, .CLK_SOFT_RST1, .CLK_SOFT_RST2] := by
  unfold softReg
  split_ifs
  · exact (reg_own .CLK_SOFT_RST0 _ _).widen
  · exact (reg_own .CLK_SOFT_RST1 _ _).widen
  · exact (reg_own .CLK_SOFT_RST2 _ _).widen

theorem softResetDone_framed (u : Nat) : (softResetDone u).Framed (.aisles :: .bfd :: .clk :: .fresh :: .lanes :: .mbx :: .nvm :: .pe ::
    .ports :: .sec :: occurParts) (.CLK_EVT_CAUSE :: .CLK_SOFT_RST0 :: .CLK_SOFT_RST1 :: .CLK_SOFT_RST2 :: .MBX_CTL :: .MBX_DATA ::
    .NVM_STATUS :: .PORT_STATE :: .SEC_EVT_CAUSE :: .SEC_STATUS :: .STALL_STATUS :: occurRegs) := .look fun _ =>
  .when (.acts ⟨(modClk_framed _).widen, (softReg_own _ _).widen, (softExit_framed _).widen, (raise_own _ _).widen, trivial⟩)

theorem msiReset_framed (pf : Nat) : (msiReset pf).Framed [.evt, .msi] [] :=
  .acts ⟨.upd ⟨rfl, nofun, nofun⟩, (modEvt_own _).widen, trivial⟩

theorem snapReset_framed : (snapReset).Framed [.live, .regs] [.PERF_SNAP_BASE_HI, .PERF_SNAP_BASE_LO, .PERF_SNAP_CFG] :=
  (each_setReg_own _ _ _).widen

theorem doeReset_framed : (doeReset).Framed (.sec :: occurParts) (.SEC_EVT_CAUSE :: .SEC_STATUS :: occurRegs) :=
  .acts ⟨(sessEnd_framed _).widen, (modSec_framed _).widen, trivial⟩

theorem perstNAssert_framed : (perstNAssert).Framed (.aisles :: .bufs :: .clk :: .cnt :: .dma :: .evt :: .hostWr :: .mbx :: .nvm :: .perf
    :: .ports :: .sec :: .swc :: occurParts) (.ASSAY_CTL :: .ASSAY_STATUS :: .CLK_EVT_CAUSE :: .CLK_STATUS :: .DMA_CPL_BASE_HI ::
    .DMA_CPL_BASE_LO :: .DMA_EVT_CAUSE :: .DMA_PADLOCK :: .DMA_RING_BASE_HI :: .DMA_RING_BASE_LO :: .DMA_RING_CFG :: .DMA_RING_HEAD ::
    .DMA_RING_TAIL :: .HQ_BASE_HI :: .HQ_BASE_LO :: .HQ_CFG :: .HQ_HEAD :: .HQ_LOST :: .HQ_TAIL :: .MBX_CTL :: .MBX_DATA :: .MBX_SEL ::
    .PERF_SNAP_BASE_HI :: .PERF_SNAP_BASE_LO :: .PERF_SNAP_CFG :: .QTR_ASSAY_EVT_CAUSE :: .SEC_EVT_CAUSE :: .SEC_STATUS :: .SYS_OWNER ::
    freeRegs) := .look fun _ =>
  .acts ⟨(modClk_framed _).widen, .when (raise_own _ _).widen, .when (.acts ⟨(setB_own _ _ _).widen, .each (fun _ _ =>
    (msiReset_framed _).widen), .each (fun _ _ => (mbxReset_framed _).widen), (doeReset_framed).widen, (loseOwner_framed _).widen,
    (padRelease_framed _).widen, (ringReset_framed _).widen, (hqStop_framed).widen, (hqReset_framed).widen, (snapReset_framed).widen,
    trivial⟩), trivial⟩

theorem perstNRelease_framed : (perstNRelease).Framed [.clk, .live, .regs] [.CLK_STATUS] :=
  .acts ⟨(modClk_framed _).widen, .look fun _ => .when (pcieStart_framed).widen, trivial⟩

theorem flr_framed (pf : Nat) : (flr pf).Framed (.bufs :: .cnt :: .dma :: .evt :: .hostWr :: .mbx :: .nvm :: .perf :: .ports :: .sec ::
    .swc :: occurParts) (.CLK_EVT_CAUSE :: .DMA_CPL_BASE_HI :: .DMA_CPL_BASE_LO :: .DMA_EVT_CAUSE :: .DMA_PADLOCK :: .DMA_RING_BASE_HI ::
    .DMA_RING_BASE_LO :: .DMA_RING_CFG :: .DMA_RING_HEAD :: .DMA_RING_TAIL :: .HQ_BASE_HI :: .HQ_BASE_LO :: .HQ_CFG :: .HQ_HEAD ::
    .HQ_LOST :: .HQ_TAIL :: .MBX_CTL :: .MBX_DATA :: .MBX_SEL :: .PERF_SNAP_BASE_HI :: .PERF_SNAP_BASE_LO :: .PERF_SNAP_CFG ::
    .SEC_EVT_CAUSE :: .SEC_STATUS :: freeRegs) := by
  refine .look fun _ => .when (.acts ⟨(raise_own _ _).widen, (msiReset_framed _).widen, .each (fun _ _ => (mbxReset_framed _).widen), ?_,
    trivial⟩)
  split
  · exact (doeReset_framed).widen
  · exact .acts ⟨(ringAbandon_framed _).widen, (padRelease_framed _).widen, (ringReset_framed _).widen, trivial⟩
  · exact .acts ⟨(hqStop_framed).widen, (hqReset_framed).widen, trivial⟩
  · exact (snapReset_framed).widen


/-! ### Machine/Thermal.lean -/

theorem belowSync_framed (again : Bool) : (belowSync again).Framed [.thm] [] := .look fun _ => (modThm_framed _).widen

theorem thermStep_framed (n : Nat) : (thermStep n).Framed (.thm :: occurParts) (.AISLE_SRCH_EVT_CAUSE :: .AISLE_SRCH_STATUS :: .SYS_MODE
    :: .THM_EVT_CAUSE :: .THM_STATUS :: occurRegs) := .look fun _ =>
  .when (.acts ⟨(setF_own _ _ _).widen, (by split <;> exact (raise_own _ _).widen), (stepChanged_framed).widen,
    (belowSync_framed _).widen, trivial⟩)

theorem sensorsFail_framed (l : List Nat) : (sensorsFail l).Framed (.thm :: occurParts) (.AISLE_SRCH_EVT_CAUSE :: .AISLE_SRCH_STATUS ::
    .SYS_MODE :: .THM_EVT_CAUSE :: .THM_FAIL0 :: .THM_FAIL1 :: .THM_STATUS :: occurRegs) := .look fun _ =>
  .when (.acts ⟨(modThm_framed _).widen, (setF_own _ _ _).widen, (setF_own _ _ _).widen, (raise_own _ _).widen, .when (.acts
    ⟨(thermStep_framed _).widen, .when (raise_own _ _).widen, trivial⟩), trivial⟩)

theorem newTj_framed (t : Int) (i : Nat) : (newTj t i).Framed (.thm :: occurParts) (.AISLE_SRCH_EVT_CAUSE :: .AISLE_SRCH_STATUS ::
    .SYS_MODE :: .THM_EVT_CAUSE :: .THM_STATUS :: occurRegs) := .look fun _ =>
  .acts ⟨(setF_own _ _ _).widen, (setF_own _ _ _).widen, .when (thermStep_framed _).widen, (setB_own _ _ _).widen, .when
    (raise_own _ _).widen, .when (emit_own _).widen, (belowSync_framed _).widen, trivial⟩

theorem tripSense_framed (temps : List Int) : (tripSense temps).Framed [.clk, .out] [] := .look fun _ =>
  .acts ⟨(modClk_framed _).widen, .when (tripRelease_framed).widen, trivial⟩

theorem thermalStepDown_framed : (thermalStepDown).Framed (.thm :: occurParts) (.AISLE_SRCH_EVT_CAUSE :: .AISLE_SRCH_STATUS :: .SYS_MODE
    :: .THM_EVT_CAUSE :: .THM_STATUS :: occurRegs) := .look fun _ =>
  .when (thermStep_framed _).widen

theorem sensorStuckCheck_framed (temps : List Int) : (sensorStuckCheck temps).Framed (.thm :: occurParts) (.AISLE_SRCH_EVT_CAUSE ::
    .AISLE_SRCH_STATUS :: .SYS_MODE :: .THM_EVT_CAUSE :: .THM_FAIL0 :: .THM_FAIL1 :: .THM_STATUS :: occurRegs) := by
  refine .look fun _ => .when (.acts ⟨(modThm_framed _).widen, (sensorsFail_framed _).widen, .look fun _ => ?_, trivial⟩)
  split
  · exact (newTj_framed _ _).widen
  · exact .skip

theorem divFree_framed {P : List Part} {R : List Reg} (num den : Nat) (k : Nat → Act) (hs : frameSub [.fresh] [] P R = true) (hk : ∀ x0,
    (k x0).Framed P R) : (divFree num den k).Framed P R :=
  .ite ((hk _)) (draw_own (fun _ => (hk _)) (frameSub_trans (by decide) hs))

theorem powerRead_framed (mv da : List Nat) : (powerRead mv da).Framed [.fresh, .live, .regs, .thm] [.PWR_STATUS, .SHR_AVS_STATUS] :=
  .look fun _ => .when (.acts ⟨.each (fun _ _ => .acts ⟨(setF_own _ _ _).widen, (setF_own _ _ _).widen, trivial⟩), divFree_framed _ _ _
    (by decide) (fun _ => (setF_own _ _ _).widen), .look fun _ => (modThm_framed _).widen, trivial⟩)

theorem pwrRequest_framed (step : Nat) : (pwrRequest step).Framed (.aisles :: .evt :: .mode :: .thm :: .time :: occurParts) pwrRequestRegs
    := .look fun _ =>
  .ite (.acts ⟨(modThm_framed _).widen, (modeRequest_framed _ _).widen, trivial⟩) (.acts ⟨(modThm_framed _).widen,
    (reject_own _ _ _ _ _).widen, trivial⟩)

theorem pwrLean_framed : (pwrLean).Framed (.aisles :: .evt :: .mode :: .thm :: .time :: occurParts) (.SHR_EVT_CAUSE :: pwrRequestRegs) :=
  .look fun _ => .when (.acts ⟨(modThm_framed _).widen, (raise_own _ _).widen, (pwrRequest_framed _).widen, trivial⟩)

theorem pwrStepRelax_framed : (pwrStepRelax).Framed (.aisles :: .evt :: .mode :: .thm :: .time :: occurParts) pwrRequestRegs :=
  .look fun _ => .when (.acts ⟨(modThm_framed _).widen, (pwrRequest_framed _).widen, trivial⟩)

theorem pwrRequestRetry_framed : (pwrRequestRetry).Framed (.aisles :: .evt :: .mode :: .thm :: .time :: occurParts) pwrRequestRegs := by
  refine .look fun _ => .when ?_
  split
  · exact .skip
  · exact (pwrRequest_framed _).widen


/-! ### Machine/Shoring.lean -/

theorem ledgerAppend_framed {P : List Part} {R : List Reg} (l : Machine.State → List Byte) (k : Act) (hs : frameSub (.nvm :: .thm ::
    occurParts) (.SHR_EVT_CAUSE :: occurRegs) P R = true) (hk : k.Framed P R) : (ledgerAppend l k).Framed P R := .look fun _ =>
  .ite .skip (.ite ((raise_own _ _).into hs) (.acts ⟨(nvmQueue_framed _ _).into hs, hk, (modThm_framed _).into hs, trivial⟩))

theorem laneAppend_framed (r : LaneRec) : (laneAppend r).Framed (.nvm :: .thm :: occurParts) (.SHR_EVT_CAUSE :: occurRegs) :=
  ledgerAppend_framed _ _ (by decide) (modThm_framed _).widen

theorem laneAppends_framed (n : Nat) (l : List Nat) : (laneAppends n l).Framed (.nvm :: .thm :: occurParts) (.SHR_EVT_CAUSE :: occurRegs)
    := by
  induction l generalizing n with
  | nil => exact .skip
  | cons st r ih =>
    refine .look fun _ => ?_
    split
    · exact .ite (.acts ⟨(laneAppend_framed _).widen, ih _, trivial⟩) .skip
    · exact ih _

theorem planAppend_framed : (planAppend).Framed (.nvm :: .thm :: occurParts) (.SHR_EVT_CAUSE :: occurRegs) := .look fun _ =>
  .when (ledgerAppend_framed _ _ (by decide) (modThm_framed _).widen)

theorem ledgerTake_framed (r : List Byte) : (ledgerTake r).Framed [.live, .regs, .thm] [.SHR_AVS_TARGET] :=
  .acts ⟨(modThm_framed _).widen, .ite (.acts ⟨(modThm_framed _).widen, (setF_own _ _ _).widen, (setF_own _ _ _).widen, trivial⟩) (.when
    (modThm_framed _).widen), trivial⟩

theorem ledgerLoad_framed : (ledgerLoad).Framed (.nvm :: .thm :: occurParts) (.SHR_AVS_TARGET :: .SHR_EVT_CAUSE :: .SHR_STATUS ::
    occurRegs) := .look fun _ =>
  .acts ⟨(modNvm_framed _).widen, .when (ledgerFull_framed).widen, .each (fun _ _ => (ledgerTake_framed _).widen), trivial⟩

theorem takeWidth_framed (a t u : Nat) : (takeWidth a t u).Framed [.live, .regs] [.AISLE_TILE_CFG] := .look fun _ =>
  .when (setF_own _ _ _).widen

theorem actionOff_framed (x : Nat × Nat) : (actionOff x).Framed [.thm] [] := (modThm_framed _).widen

theorem carryBit_framed (i : Nat) : (carryBit i).Framed [.thm] [] := (modThm_framed _).widen

theorem askCore_framed : (askCore).Framed [.thm] [] := (modThm_framed _).widen

theorem remapWeak_framed : (remapWeak).Framed (.thm :: occurParts) (.AISLE_LPM_MAP :: .AISLE_RULE_MAP :: .AISLE_TILE_CFG :: .SHR_EVT_CAUSE
    :: occurRegs) := by
  refine .look fun _ => .each (fun _ _ => .look fun _ => ?_)
  split
  · exact .acts ⟨(takeWidth_framed _ _ _).widen, .ite (setF_own _ _ _).widen (setF_own _ _ _).widen, trivial⟩
  · exact .acts ⟨(raise_own _ _).widen, (askCore_framed).widen, trivial⟩
  · exact .skip

theorem tileRetire_framed (a t : Nat) : (tileRetire a t).Framed (.cnt :: .copies :: .evt :: .rebuild :: .thm :: .tiles :: occurParts)
    (.AISLE_REBUILD_CTL :: .AISLE_REBUILD_STATUS :: .AISLE_SRCH_EVT_CAUSE :: .AISLE_SRCH_STATUS :: .AISLE_TILE_CFG :: .SHR_EVT_CAUSE ::
    .SYS_LOCKED_WR :: .SYS_LOCKED_WR_INFO :: .SYS_REJECT_ADDR :: .SYS_REJECT_INFO :: accessRegs) := by
  refine .look fun _ => .ite (.acts ⟨(actionOff_framed _).widen, (askCore_framed).widen, trivial⟩) ?_
  split
  · exact (actionOff_framed _).widen
  · exact .skip
  · refine .ite .skip ?_
    split
    · exact .acts ⟨(actionOff_framed _).widen, (raise_own _ _).widen, (askCore_framed).widen, trivial⟩
    · exact .acts ⟨(actionOff_framed _).widen, (takeWidth_framed _ _ _).widen, (rebuildGo_framed _ _ _ _).widen, .look fun _ => .when
        (.acts ⟨(modThm_framed _).widen, (raise_own _ _).widen, (carryBit_framed _).widen, trivial⟩), trivial⟩

theorem laneAction_framed (l : Nat) : (laneAction l).Framed (.evt :: .lanes :: .ports :: .thm :: occurParts) (.LANE_EQ_STATUS ::
    .PORT_STATE :: .SHR_EVT_CAUSE :: .STALL_EVT_CAUSE :: .STALL_STATUS :: .SYS_REJECT_ADDR :: .SYS_REJECT_INFO :: .TIME_PORT_CAL_STATUS ::
    occurRegs) := .look fun _ =>
  .ite (.acts ⟨(actionOff_framed _).widen, (retuneFails_framed _).widen, (modLane_framed _ _).widen, (reject_stall _ _ _ _ _).widen,
    trivial⟩) (.when (.acts ⟨(actionOff_framed _).widen, (modLane_framed _ _).widen, (retuneStart_framed _).widen,
    (carryBit_framed _).widen, (modThm_framed _).widen, trivial⟩))

theorem targetAction_framed (x : Nat × Nat) : (targetAction x).Framed [.live, .regs, .thm] [.SHR_AVS_TARGET] := .look fun _ =>
  .acts ⟨(actionOff_framed _).widen, .ite (.when (modThm_framed _).widen) (setF_own _ _ _).widen, trivial⟩

theorem actionTry_framed (x : Nat × Nat) : (actionTry x).Framed (.cnt :: .copies :: .evt :: .lanes :: .ports :: .rebuild :: .thm :: .tiles
    :: occurParts) actionTryRegs :=
  .ite (laneAction_framed _).widen (.ite (tileRetire_framed _ _).widen (targetAction_framed _).widen)

theorem actionPump_framed : (actionPump).Framed (.cnt :: .copies :: .evt :: .lanes :: .ports :: .rebuild :: .thm :: .tiles ::
    occurParts) actionTryRegs := .look fun _ =>
  .when (.ite (.when (.acts ⟨(modThm_framed _).widen, (carryBit_framed _).widen, trivial⟩)) (.acts ⟨(modThm_framed _).widen, .each
    (fun _ _ => (actionTry_framed _).widen), trivial⟩))

theorem shoringDeferExpire_framed : (shoringDeferExpire).Framed (.cnt :: .copies :: .evt :: .lanes :: .ports :: .rebuild :: .thm :: .tiles
    :: occurParts) actionTryRegs := .look fun _ =>
  .when (.acts ⟨(modThm_framed _).widen, (actionPump_framed).widen, trivial⟩)

theorem retuneEnds_framed (l : Nat) (good : Bool) (eq : List Byte) : (retuneEnds l good eq).Framed (.cnt :: .copies :: .evt :: .lanes ::
    .ports :: .rebuild :: .thm :: .tiles :: occurParts) actionTryRegs :=
  .acts ⟨(retuneComplete_framed _ _ _).widen, (actionPump_framed).widen, trivial⟩

theorem projection_framed (vreq vlane : Nat) : (projection vreq vlane).Framed [.fresh, .thm] [] := by
  refine .look fun s => ?_
  cases s.oldPoint with
  | none => exact (modThm_framed _).widen
  | some x =>
    dsimp only
    generalize leastTerm _ = least
    rcases least with _ | ⟨⟨n, d⟩, i⟩
    · exact (modThm_framed _).widen
    · exact divFree_framed _ _ _ (by decide) fun _ => (modThm_framed _).widen

theorem planCompute_framed (gp vtime : Nat) : (planCompute gp vtime).Framed (.fresh :: .lanes :: .thm :: occurParts) (.SHR_EVT_CAUSE ::
    occurRegs) := by
  refine .look fun _ => .acts ⟨.when (raise_own _ _).widen, .when (carryBit_framed _).widen, .when (carryBit_framed _).widen, .when
    (carryBit_framed _).widen, (modThm_framed _).widen, ?_, .each (fun _ _ => (modLane_framed _ _).widen), (projection_framed _ _).widen,
    trivial⟩
  split
  · exact (modThm_framed _).widen
  · exact draw_own (fun _ => (modThm_framed _).widen)

theorem cycleStart_framed : (cycleStart).Framed (.cnt :: .copies :: .evt :: .fresh :: .lanes :: .ports :: .rebuild :: .thm :: .tiles ::
    occurParts) (.SHR_STATUS :: actionTryRegs) := .look fun _ =>
  .acts ⟨(setB_own _ _ _).widen, divFree_framed _ _ _ (by decide) (fun _ => (modThm_framed _).widen), .look fun _ => divFree_framed _ _ _
    (by decide) (fun _ => (planCompute_framed _ _).widen), (actionPump_framed).widen, trivial⟩

theorem plannerCycleStart_framed : (plannerCycleStart).Framed (.cnt :: .copies :: .evt :: .fresh :: .lanes :: .ports :: .rebuild :: .thm
    :: .tiles :: occurParts) (.SHR_STATUS :: actionTryRegs) := .look fun _ =>
  .when (.acts ⟨.when (modThm_framed _).widen, (cycleStart_framed).widen, trivial⟩)

theorem cycleNow_framed : (cycleNow).Framed (.cnt :: .copies :: .evt :: .fresh :: .lanes :: .ports :: .rebuild :: .thm :: .tiles ::
    occurParts) (.SHR_STATUS :: actionTryRegs) := .look fun _ =>
  .when (.ite (cycleStart_framed).widen (modThm_framed _).widen)

theorem planNow_framed (req : Req) (value : Word) : (planNow req value).Framed (.cnt :: .copies :: .evt :: .fresh :: .lanes :: .ports ::
    .rebuild :: .thm :: .tiles :: occurParts) (.SHR_STATUS :: actionTryRegs) :=
  onWrite_own (fun _ => .when (.look fun _ => .ite (reject3_own _ _ _ _).widen (cycleNow_framed).widen))

theorem planDone_framed : (planDone).Framed (.nvm :: .thm :: occurParts) (.SHR_EVT_CAUSE :: .SHR_STATUS :: occurRegs) := .look fun _ =>
  .when (.acts ⟨(planAppend_framed).widen, (laneAppends_framed _ _).widen, (setF_own _ _ _).widen, (setF_own _ _ _).widen,
    (setB_own _ _ _).widen, (raise_own _ _).widen, .when (raise_own _ _).widen, trivial⟩)

theorem canarySample_framed (delta vmin tmargin : List Nat) : (canarySample delta vmin tmargin).Framed (.cnt :: .copies :: .evt :: .fresh
    :: .lanes :: .ports :: .rebuild :: .thm :: .tiles :: occurParts) (.SHR_STATUS :: actionTryRegs) := .look fun _ =>
  .when (.acts ⟨(modThm_framed _).widen, .look fun _ => .when (.acts ⟨.when (raise_own _ _).widen, .when (.ite (.acts
    ⟨(modThm_framed _).widen, (cycleStart_framed).widen, trivial⟩) (modThm_framed _).widen), trivial⟩), (actionPump_framed).widen,
    trivial⟩)

theorem avsFrame_framed (r v : Nat) : (avsFrame r v).Framed [.out, .thm] [] := .look fun _ =>
  .acts ⟨(modThm_framed _).widen, (emit_own _).widen, trivial⟩

theorem avsStep_framed (r : Nat) (ack : Bool) : (avsStep r ack).Framed (.ports :: .thm :: occurParts) (.PORT_STATE :: .SHR_EVT_CAUSE ::
    .TIME_PORT_CAL_STATUS :: occurRegs) := .look fun _ =>
  .when (.acts ⟨(avsFrame_framed _ _).widen, .ite (.acts ⟨(modThm_framed _).widen, (modThm_framed _).widen,
    (calStartAll_framed _ _).widen, trivial⟩) (.ite (modThm_framed _).widen (.acts ⟨(modThm_framed _).widen, (raise_own _ _).widen,
    trivial⟩)), trivial⟩)

theorem avsFaultRetry_framed (r : Nat) (ack : Bool) : (avsFaultRetry r ack).Framed [.out, .thm] [] := .look fun _ =>
  .when (.acts ⟨(avsFrame_framed _ _).widen, .when (modThm_framed _).widen, trivial⟩)


end Sys2Proof.Machine
end

section
/-!
PROOF. Frames (7 of 7): what each action may change, as lists of parts and registers that follow its definition. The lemmas are
many and small: they are elaborated one after another, since a thread for each would take more memory than the check has.
-/
set_option Elab.async false
namespace Sys2Proof.Machine

/-! ### Machine/Perf.lean -/

theorem levelsAdd_framed (b : Nat) : (levelsAdd b).Framed [.live, .perf, .regs] [.PERF_STATUS] :=
  .each (fun _ _ => .look fun _ => .when (pcAdd_framed _ _ _ _).widen)

theorem perfTick_framed : (perfTick).Framed [.live, .perf, .regs] [.PERF_STATUS] :=
  .acts ⟨(perfEvent_framed _ _ _ _).widen, .each (fun _ _ => .look fun _ => .when (.acts ⟨(cycAdd_framed _ _).widen, .when
    (levelsAdd_framed _).widen, trivial⟩)), trivial⟩

theorem timeWord_framed : (timeWord).Framed [.live, .out, .perf, .regs, .time] [.PERF_STATUS, .SYS_EPOCH_APPLIED0, .SYS_EPOCH_APPLIED1,
    .SYS_EPOCH_APPLIED2] := .look fun _ =>
  .acts ⟨(timeWordSend_framed).widen, .when (perfTick_framed).widen, trivial⟩

theorem perfOverflow_framed (b ctr value : Nat) : (perfOverflow b ctr value).Framed [.live, .perf, .regs] [.PERF_STATUS] :=
  .look fun _ => .when (.ite (.when (pcAdd_framed _ _ _ _).widen) (.when (cycAdd_framed _ _).widen))

theorem perfSnapshot_framed (good : Bool) : (perfSnapshot good).Framed [.clk, .hostWr, .live, .regs] [.PERF_SNAP_SEQ, .PERF_SNAP_STATUS]
    := .look fun _ =>
  .when (.acts ⟨(modClk_framed _).widen, .ite (.acts ⟨(hostWrite_framed _ _).widen, (hostWrite_framed _ _).widen,
    (hostWrite_framed _ _).widen, (setF_own _ _ _).widen, trivial⟩) (addSat_own _ _ _).widen, trivial⟩)


/-! ### Machine/Pins.lean -/

theorem ledScan_framed : (ledScan).Framed [.clk, .out] [] := .look fun _ =>
  .when (.acts ⟨(modClk_framed _).widen, (emit_own _).widen, trivial⟩)

theorem extestEnd_framed : (extestEnd).Framed [.clk] [] := .acts ⟨(releaseSrc_framed _ _).widen, (modClk_framed _).widen, trivial⟩


/-! ### Machine/Mailbox.lean -/

theorem cntLoad_framed (vid idx : Nat) (d : List Word) : (cntLoad vid idx d).Framed [.cnt] [] := .each (fun _ _ => .when (.upd rfl))

theorem storeWrite_framed (k idx : Nat) (d : List Word) : (storeWrite k idx d).Framed (.aisles :: .pe :: occurParts) (.AISLE_MC_EVT_CAUSE
    :: .PE_EVT_CAUSE :: occurRegs) :=
  .ite (modStore_framed _ _).widen (.ite (.acts ⟨(modStore_framed _ _).widen, .when (.ite (raisePe_framed _).widen (raise_own _ _).widen),
    trivial⟩) (modStore_framed _ _).widen)

theorem hlWrite_framed (idx : Nat) (d : List Word) : (hlWrite idx d).Framed [.ports] [] := by
  unfold hlWrite
  exact (modPort_framed _ _).widen

theorem vidWrite_framed (rq : Req) (vid idx : Nat) (d : List Word) : (vidWrite rq vid idx d).Framed (.aisles :: .bfd :: .cnt :: .evt ::
    .pe :: .perf :: .ports :: .sec :: .time :: occurParts) (.AISLE_MC_EVT_CAUSE :: .PC_CFG :: .PC_THR :: .PE_EVT_CAUSE :: .SEC_EVT_CAUSE
    :: .SYS_EVT_CAUSE :: .SYS_LOCKED_WR :: .SYS_LOCKED_WR_INFO :: occurRegs) := by
  refine .ite (cntLoad_framed _ _ _).widen (.ite (storeWrite_framed _ _ _).widen ?_)
  split
  · exact .each (fun _ _ => .acts ⟨.upd rfl, .upd rfl, trivial⟩)
  · exact (hlWrite_framed _ _).widen
  · exact (modBfd_framed _ _).widen
  · exact (modTime_framed _).widen
  · exact (modTime_framed _).widen
  · exact .ite (modPerf_framed _ _).widen (modPerf_framed _ _).widen
  · exact .acts ⟨(writeFields_own _ _ _ _).widen, (writeFields_own _ _ _ _).widen, trivial⟩
  · exact .acts ⟨(extendM_framed _ _).widen, (raise_own _ _).widen, trivial⟩
  · exact (modSec_framed _).widen
  · exact .skip

theorem vidClear_framed (vid idx : Nat) : (vidClear vid idx).Framed [.cnt, .live, .occ, .perf, .regs, .thm] [.BWM_RX_MAX, .BWM_TX_MAX]
    := by
  refine .ite (cntLoad_framed _ _ _).widen ?_
  split
  · exact .each (fun _ _ => .upd rfl)
  · exact .ite (modPerf_framed _ _).widen (modPerf_framed _ _).widen
  · exact .acts ⟨(setF_own _ _ _).widen, (setF_own _ _ _).widen, trivial⟩
  · exact (modThm_framed _).widen
  · exact .skip

theorem mbxErr_framed (n code : Nat) : (mbxErr n code).Framed (.mbx :: occurParts) (.MBX_CTL :: occurRegs) :=
  .acts ⟨(setB_own _ _ _).widen, (setF_own _ _ _).widen, (mbxEnd_framed _).widen, trivial⟩

theorem moduleIo_framed (n idx op len off : Nat) (d : List Word) : (moduleIo n idx op len off d).Framed [.evt, .mbx, .out] [] :=
  .acts ⟨(modMbx_framed _ _).widen, (modEvt_own _).widen, (i2cStart_framed _).widen, trivial⟩

theorem mbxRun_framed (rq : Req) (n : Nat) : (mbxRun rq n).Framed (.aisles :: .bfd :: .cnt :: .evt :: .mbx :: .nvm :: .pe :: .perf ::
    .ports :: .sec :: .thm :: .time :: occurParts) mbxRunRegs := .look fun _ =>
  .ite (.acts ⟨(mbxErr_framed _ _).widen, .when (reject_vidBlk _ _ _ _ _ _).widen, .when (lockedWrite_own _ _).widen, trivial⟩) (.ite
    (moduleIo_framed _ _ _ _ _ _).widen (.ite (nvmRead_framed _ _).widen (.ite (nvmRead_framed _ _).widen (.ite (mbxOk_framed _ _).widen
    (.ite (.acts ⟨(vidWrite_framed _ _ _ _).widen, (mbxOk_framed _ _).widen, trivial⟩) (.acts ⟨(vidClear_framed _ _).widen,
    (mbxOk_framed _ _).widen, trivial⟩))))))

theorem mbxCtl_framed (req : Req) (n : Nat) (ctl : Word) : (mbxCtl req n ctl).Framed (.aisles :: .bfd :: .cnt :: .evt :: .mbx :: .nvm ::
    .pe :: .perf :: .ports :: .sec :: .thm :: .time :: occurParts) (.SYS_BUS_ERR :: .SYS_BUS_ERR_INFO :: mbxRunRegs) :=
  onWrite_own (fun _ => .look fun _ => .ite (.acts ⟨(setF_own _ _ _).widen, (setF_own _ _ _).widen, (setF_own _ _ _).widen, trivial⟩)
    (.ite (reject3_own _ _ _ _).widen (.acts ⟨.acts ⟨(setF_own _ _ _).widen, (setF_own _ _ _).widen, (setF_own _ _ _).widen, trivial⟩,
    (setB_own _ _ _).widen, (setB_own _ _ _).widen, (setF_own _ _ _).widen, (setB_own _ _ _).widen, (mbxRun_framed _ _).widen, trivial⟩)))

theorem mbxRow_framed (op : Nat) (req : Req) (n : Nat) (ctl : Word) : (mbxRow op req n ctl).Framed (.aisles :: .bfd :: .cnt :: .evt ::
    .mbx :: .nvm :: .pe :: .perf :: .ports :: .sec :: .thm :: .time :: occurParts) (.SYS_BUS_ERR :: .SYS_BUS_ERR_INFO :: mbxRunRegs) :=
  .when (mbxCtl_framed _ _ _).widen

theorem mbxModuleIoDone_framed (n : Nat) (resp : Option (List Byte)) : (mbxModuleIoDone n resp).Framed (.evt :: .mbx :: occurParts)
    (.MBX_CTL :: .MBX_DATA :: occurRegs) := by
  refine .look fun _ => ?_
  dsimp only
  split
  · exact .skip
  · refine .acts ⟨(modEvt_own _).widen, .when ?_, (i2cStart_framed _).widen, trivial⟩
    split
    · exact (mbxErr_framed _ _).widen
    · exact (mbxOk_framed _ _).widen


/-! ### Machine/Window.lean -/

theorem enableWrite_framed (rq : Req) (w : Nat) (v : Word) : (enableWrite rq w v).Framed (.evt :: occurParts) (.EVT_ENABLE ::
    .SYS_EVT_CAUSE :: .SYS_LOCKED_WR :: .SYS_LOCKED_WR_INFO :: occurRegs) := .look fun _ =>
  .acts ⟨(writeFields_own _ _ _ _).widen, .when (deliver_own _).widen, trivial⟩

theorem zEnableWrite_framed (rq : Req) (w : Nat) (v : Word) : (zEnableWrite rq w v).Framed (.evt :: occurParts) (.EVT_Z_ENABLE ::
    .SYS_EVT_CAUSE :: .SYS_LOCKED_WR :: .SYS_LOCKED_WR_INFO :: occurRegs) := .look fun _ =>
  .acts ⟨(writeFields_own _ _ _ _).widen, .when (emit_own _).widen, trivial⟩

theorem evtTestWrite_framed (v : Word) : (evtTestWrite v).Framed occurParts occurRegs := .when (occur_own _).widen

theorem wdtCfgWrite_framed (rq : Req) (v : Word) : (wdtCfgWrite rq v).Framed (.clk :: .evt :: occurParts) (.CLK_WDT_CFG :: .SYS_EVT_CAUSE
    :: .SYS_LOCKED_WR :: .SYS_LOCKED_WR_INFO :: occurRegs) := .look fun _ =>
  .acts ⟨(writeFields_own _ _ _ _).widen, .look fun _ => .ite (.when (wdtRestart_framed).widen) (.when (modClk_framed _).widen), trivial⟩

theorem nvmBootWrite_framed (rq : Req) (v : Word) : (nvmBootWrite rq v).Framed (.evt :: occurParts) (.NVM_BOOT :: .NVM_STATUS ::
    .SYS_EVT_CAUSE :: .SYS_LOCKED_WR :: .SYS_LOCKED_WR_INFO :: .SYS_REJECT_ADDR :: .SYS_REJECT_INFO :: occurRegs) := .look fun _ =>
  .ite (reject3_own _ _ _ _).widen (writeFields_own _ _ _ _).widen

theorem ringCfgWrite_framed (rq : Req) (ring : Nat) (v : Word) : (ringCfgWrite rq ring v).Framed (.evt :: occurParts) (.DMA_EVT_CAUSE ::
    .DMA_RING_CFG :: .DMA_STATUS :: .SYS_EVT_CAUSE :: .SYS_LOCKED_WR :: .SYS_LOCKED_WR_INFO :: .SYS_REJECT_ADDR :: .SYS_REJECT_INFO ::
    occurRegs) :=
  .when (.look fun _ => .ite (reject3_own _ _ _ _).widen (writeFields_own _ _ _ _).widen)

theorem hqCfgWrite_framed (rq : Req) (k : Nat) (v : Word) : (hqCfgWrite rq k v).Framed (.bufs :: .cnt :: .dma :: .evt :: .perf :: .ports
    :: .swc :: occurParts) (.DMA_EVT_CAUSE :: .DMA_STATUS :: .HQ_CFG :: .HQ_LOST :: .SYS_EVT_CAUSE :: .SYS_LOCKED_WR ::
    .SYS_LOCKED_WR_INFO :: .SYS_REJECT_ADDR :: .SYS_REJECT_INFO :: freeRegs) := .look fun _ =>
  .ite (reject3_own _ _ _ _).widen (.ite (reject3_own _ _ _ _).widen (.acts ⟨(writeFields_own _ _ _ _).widen, .when
    (d2hTerminate_framed _).widen, trivial⟩))

theorem hqTailWrite_framed (rq : Req) (k : Nat) (v : Word) : (hqTailWrite rq k v).Framed (.evt :: occurParts) (.DMA_EVT_CAUSE ::
    .DMA_STATUS :: .HQ_TAIL :: .SYS_EVT_CAUSE :: .SYS_LOCKED_WR :: .SYS_LOCKED_WR_INFO :: .SYS_REJECT_ADDR :: .SYS_REJECT_INFO ::
    occurRegs) := .look fun _ =>
  .ite (reject_own _ _ _ _ _).widen (writeFields_own _ _ _ _).widen

theorem assayWrite_framed {P : List Part} {R : List Reg} (rq : Req) (r : Reg) (k : Act) (hs : frameSub (.evt :: occurParts)
    (.DMA_EVT_CAUSE :: .DMA_STATUS :: .QTR_ASSAY_EVT_CAUSE :: .SYS_REJECT_ADDR :: .SYS_REJECT_INFO :: occurRegs) P R = true) (hk
    : k.Framed P R) : (assayWrite rq r k).Framed P R := .look fun _ =>
  .ite (.acts ⟨(reject3_own _ _ _ _).into hs, (raise_own _ _).into hs, trivial⟩) hk

theorem assayCfgWrite_framed (rq : Req) (v : Word) : (assayCfgWrite rq v).Framed (.aisles :: .dma :: .evt :: occurParts) (.ASSAY_CFG ::
    .SYS_EVT_CAUSE :: .SYS_LOCKED_WR :: .SYS_LOCKED_WR_INFO :: setWindowRegs) := .look fun _ =>
  .acts ⟨(writeFields_own _ _ _ _).widen, .look fun _ => (setWindow_framed _).widen, .look fun _ => .when (refSync_framed _).widen,
    trivial⟩

theorem assayCtlWrite_framed (rq : Req) (v : Word) : (assayCtlWrite rq v).Framed (.aisles :: .dma :: .evt :: occurParts) (.ASSAY_CTL ::
    .ASSAY_STATUS :: .DMA_EVT_CAUSE :: .DMA_STATUS :: .QTR_ASSAY_EVT_CAUSE :: .SYS_EVT_CAUSE :: .SYS_LOCKED_WR :: .SYS_LOCKED_WR_INFO ::
    .SYS_REJECT_ADDR :: .SYS_REJECT_INFO :: occurRegs) := .look fun _ =>
  .ite (reject3_own _ _ _ _).widen (.acts ⟨(writeFields_own _ _ _ _).widen, (modDma_framed _).widen, (refSync_framed _).widen, trivial⟩)

theorem mapWrite_framed (rq : Req) (rule : Bool) (n : Nat) (v : Word) : (mapWrite rq rule n v).Framed (.evt :: occurParts)
    (.AISLE_LPM_MAP :: .AISLE_RULE_MAP :: .AISLE_SRCH_EVT_CAUSE :: .AISLE_SRCH_STATUS :: .SYS_EVT_CAUSE :: .SYS_LOCKED_WR ::
    .SYS_LOCKED_WR_INFO :: .SYS_REJECT_ADDR :: .SYS_REJECT_INFO :: occurRegs) := by
  refine .look fun _ => .ite (reject_srch _ _ _ _ _).widen (.ite (reject_srch _ _ _ _ _).widen (.ite (reject_srch _ _ _ _ _).widen ?_))
  cases rule with
  | true => exact (writeFields_own _ .AISLE_RULE_MAP _ _).widen
  | false => exact (writeFields_own _ .AISLE_LPM_MAP _ _).widen

theorem tileCfgWrite_framed (rq : Req) (n : Nat) (v : Word) : (tileCfgWrite rq n v).Framed (.evt :: occurParts) (.AISLE_SRCH_EVT_CAUSE ::
    .AISLE_SRCH_STATUS :: .AISLE_TILE_CFG :: .SYS_EVT_CAUSE :: .SYS_LOCKED_WR :: .SYS_LOCKED_WR_INFO :: .SYS_REJECT_ADDR ::
    .SYS_REJECT_INFO :: occurRegs) := .look fun _ =>
  .ite (writeFields_own _ _ _ _).widen (reject_srch _ _ _ _ _).widen

theorem qCfgWrite_framed (rq : Req) (n : Nat) (v : Word) : (qCfgWrite rq n v).Framed (.evt :: occurParts) (.SCH_Q_CFG :: .SYS_EVT_CAUSE ::
    .SYS_LOCKED_WR :: .SYS_LOCKED_WR_INFO :: occurRegs) :=
  (writeFields_own _ _ _ _).widen

theorem evtTest_framed (req : Req) (value : Word) : (evtTest req value).Framed (.evt :: occurParts) accessRegs :=
  onWrite_own (fun _ => (evtTestWrite_framed _).widen)

theorem onSmb_framed {P : List Part} {R : List Reg} (code own : BitVec 8) (k : Act) (hs : frameSub [.out] [] P R = true) (hk
    : k.Framed P R) : (onSmb code own k).Framed P R := .look fun _ =>
  .when (.ite hk (.when ((emit_own _).into hs)))

theorem windowRead_framed (req : Req) (shapeOk : Bool) (addr : Nat) : (windowRead req shapeOk addr).Framed (.evt :: occurParts) accessRegs
    := by
  refine .look fun _ => .when (.ite (busError_own _ _ _ _).widen ?_)
  split
  · exact (busError_own _ _ _ _).widen
  · split
    · exact (busError_own _ _ _ _).widen
    · exact (emit_own _).widen

theorem regRead_framed (x : ReadAt) : (regRead x).Framed (.evt :: occurParts) accessRegs := by
  unfold regRead
  split
  · exact (windowRead_framed _ _ _).widen
  · exact onSmb_framed _ _ _ (by decide) (.look fun _ => (emit_own _).widen)

theorem smbusTimeout_framed : (smbusTimeout).Framed [.out] [] := (emit_own _).widen

theorem alertResponse_framed : (alertResponse).Framed [.evt, .out] [] := .look fun _ =>
  .when (.acts ⟨(emit_own _).widen, (modEvt_own _).widen, trivial⟩)

theorem holdoffExpire_framed (pf vec : Nat) : (holdoffExpire pf vec).Framed occurParts occurRegs := .look fun _ =>
  .when (.acts ⟨(modMsi_own _ _).widen, .when (sendMsi_own _ _).widen, trivial⟩)

theorem msixVectorUnmask_framed (pf vec : Nat) (enable : Bool) : (msixVectorUnmask pf vec enable).Framed (.evt :: occurParts) occurRegs :=
  .look fun _ => .when (.acts ⟨(modEvt_own _).widen, (modMsi_own _ _).widen, .when (sendMsi_own _ _).widen, trivial⟩)


/-! ### Machine/Image.lean -/

theorem stayShut_framed (why : Nat) : (stayShut why).Framed occurParts (.SYS_MODE :: .SYS_MODE_EVT_CAUSE :: occurRegs) :=
  .acts ⟨(setF_own _ _ _).widen, (raise_own _ _).widen, trivial⟩

theorem bootFrom_framed (slot : Nat) : (bootFrom slot).Framed (.aisles :: .clk :: .dma :: .fresh :: .mode :: .nvm :: .pe :: .sec :: .swc
    :: .thm :: occurParts) (.NVM_STATUS :: .SEC_STATUS :: .SHR_AVS_TARGET :: .SHR_EVT_CAUSE :: .SHR_STATUS :: .SYS_MODE :: occurRegs) :=
  .look fun _ => .acts ⟨(extendM_framed _ _).widen, (modNvm_framed _).widen, (setF_own _ _ _).widen, (setF_own _ _ _).widen,
    (modNvm_framed _).widen, (modSec_framed _).widen, withRnd_framed _ (by decide) (fun _ => (modSec_framed _).widen),
    (modClk_framed _).widen, (wdtRestart_framed).widen, (modMode_framed _).widen, (setF_own _ _ _).widen, (setF_own _ _ _).widen,
    (setupBegin_framed).widen, (ledgerLoad_framed).widen, trivial⟩

theorem bootFail_framed (slot : Nat) : (bootFail slot).Framed occurParts (.NVM_BOOT :: .SEC_EVT_CAUSE :: occurRegs) :=
  .acts ⟨by unfold skipFld; split <;> exact (setB_own _ _ _).widen, (raise_own _ _).widen, trivial⟩

theorem bootTry_framed (l : List Nat) : (bootTry l).Framed (.aisles :: .clk :: .dma :: .fresh :: .mode :: .nvm :: .pe :: .sec :: .swc ::
    .thm :: occurParts) (.NVM_BOOT :: .NVM_STATUS :: .SEC_EVT_CAUSE :: .SEC_STATUS :: .SHR_AVS_TARGET :: .SHR_EVT_CAUSE :: .SHR_STATUS ::
    .SYS_MODE :: .SYS_MODE_EVT_CAUSE :: occurRegs) := by
  induction l with
  | nil => exact (stayShut_framed _).widen
  | cons slot r ih => exact .look fun _ => .ite ih (.acts ⟨(noteValid_framed _).widen, .ite (.acts ⟨(extendM_framed _ _).widen, .ite
      (bootFrom_framed _).widen (.acts ⟨(bootFail_framed _).widen, ih, trivial⟩), trivial⟩) (.acts ⟨(bootFail_framed _).widen, ih,
      trivial⟩), trivial⟩)

theorem bootRomStart_framed (dens : Nat) : (bootRomStart dens).Framed (.aisles :: .clk :: .dma :: .fresh :: .mode :: .nvm :: .pe :: .sec
    :: .swc :: .thm :: occurParts) (.NVM_BOOT :: .NVM_FAULT :: .NVM_STATUS :: .SEC_EVT_CAUSE :: .SEC_STATUS :: .SHR_AVS_TARGET ::
    .SHR_EVT_CAUSE :: .SHR_STATUS :: .SYS_MODE :: .SYS_MODE_EVT_CAUSE :: occurRegs) := .look fun _ =>
  .when (.acts ⟨(modNvm_framed _).widen, (setF_own _ _ _).widen, .look fun _ => .acts ⟨(modNvm_framed _).widen, (setF_own _ _ _).widen,
    trivial⟩, .ite (stayShut_framed _).widen (.acts ⟨(setF_own _ _ _).widen, (bootTry_framed _).widen, trivial⟩), trivial⟩)

theorem patchStand_framed (payload : List Byte) : (patchStand payload).Framed [.aisles, .mode, .pe] [] :=
  .acts ⟨.each (fun _ _ => (loadStore_framed _ _).widen), (modMode_framed _).widen, trivial⟩

theorem patchLoad_framed : (patchLoad).Framed (.aisles :: .mode :: .nvm :: .pe :: .sec :: occurParts) (.NVM_BOOT :: .SYS_MODE ::
    .SYS_MODE_EVT_CAUSE :: occurRegs) := by
  refine .look fun _ => .when (.ite (patchStand_framed _).widen (.ite (.ite (.acts ⟨(modNvm_framed _).widen, (modSec_framed _).widen,
    (patchStand_framed _).widen, (extendM_framed _ _).widen, trivial⟩) (.acts ⟨.each (fun _ _ => (clearStore_framed _).widen),
    (setupFail_framed _).widen, trivial⟩)) (.ite (.acts ⟨.each (fun _ _ => (clearStore_framed _).widen), (setupFail_framed _).widen,
    trivial⟩) ?_)))
  split
  · exact .acts ⟨.each (fun _ _ => (clearStore_framed _).widen), (setupFail_framed _).widen, trivial⟩
  · exact .acts ⟨(modNvm_framed _).widen, (modSec_framed _).widen, (patchStand_framed _).widen, (extendM_framed _ _).widen, trivial⟩

theorem recNext_framed (l : List Byte) : (recNext l).Framed [.nvm] [] := (modNvm_framed _).widen

theorem recsEnd_framed : (recsEnd).Framed (.aisles :: .dma :: .evt :: .mode :: .sec :: .swc :: .thm :: occurParts) (.AISLE_LPM_MAP ::
    .AISLE_RULE_MAP :: .AISLE_TILE_CFG :: .NVM_BOOT :: .SHR_EVT_CAUSE :: .SWC_EVT_CAUSE :: .SWC_POOL_FREE :: .SWC_POOL_LOW ::
    .SWC_POOL_TOTAL :: .SWC_SHARED_FREE :: .SWC_STATUS :: setWindowRegs) :=
  .acts ⟨.look fun _ => .when (.acts ⟨(carveNow_framed).widen, .look fun _ => .when (setupFail_framed _).widen, trivial⟩), .look fun _ =>
    .when (.acts ⟨.when (extendM_framed _ _).widen, (remapWeak_framed).widen, (modMode_framed _).widen, .when (imageLoaded_framed).widen,
    trivial⟩), trivial⟩

theorem cfgWaitExpire_framed : (cfgWaitExpire).Framed [.nvm] [] := .look fun _ => .when (modNvm_framed _).widen

theorem zolliwinRunsAgain_framed : (zolliwinRunsAgain).Framed (.aisles :: .clk :: .cnt :: .lanes :: .nvm :: .pe :: .ports :: .qtrs ::
    .stalls :: .time :: occurParts) (.AISLE_MC_EVT_CAUSE :: .PE_EVT_CAUSE :: .SEC_EVT_CAUSE :: .SYS_EPOCH_APPLIED0 :: .SYS_EPOCH_APPLIED1
    :: .SYS_EPOCH_APPLIED2 :: .TIME_SERVO_STATUS :: .TIME_SVC_EVT_CAUSE :: leaveRegs) := .look fun _ =>
  .when (.ite (.acts ⟨(modClk_framed _).widen, (wdtRestart_framed).widen, (modNvm_framed _).widen, (takeMsgs_framed).widen,
    (servoResume_framed).widen, (faultResume_framed).widen, .each (fun _ _ => (repairFull_framed _).widen), trivial⟩) (.acts
    ⟨(modClk_framed _).widen, (raise_own _ _).widen, trivial⟩))

end Sys2Proof.Machine
end

section
/-!
PROOF. What the commands of the data path leave alone: the frame of each command's action lies within the one that `framePath` lists.
-/
set_option Elab.async false
namespace Sys2Proof.Machine

theorem Act.Framed.coreDo {P : List Part} {R : List Reg} {a : Act} (h : a.Framed P R) : (Machine.coreDo a).Framed P R :=
  .look fun _ => .when h

/-- A command whose action is framed leaves the rest alone. -/
theorem Act.Framed.exec {P : List Part} {R : List Reg} {a : Act} {c : Instr} {s t : State} (h : a.Framed P R)
    (hc : ∀ s, Machine.exec c s = .next (Machine.run a s)) (ht : Machine.exec c s = .next t) : Only P s t ∧ OnlyRegs R s t := by
  rw [hc] at ht
  cases ht
  exact h.run s

/-- The action of a command of the data path lies within its frame. -/
theorem framePath_action (c : Instr) (P : List Part) (R : List Reg) (h : framePath c = some (P, R)) :
    ∃ a : Act, (∀ s, exec c s = .next (run a s)) ∧ a.Framed P R := by
  cases c with
  | frameSfdCapture => cases h; exact ⟨_, fun _ => rfl, (frameSfdCapture_framed _ _ _ _).widen⟩
  | pfcFrameReceive => cases h; exact ⟨_, fun _ => rfl, (pfcFrameReceive_framed _ _ _).widen⟩
  | pauseFrameReceive => cases h; exact ⟨_, fun _ => rfl, (pauseFrameReceive_framed _).widen⟩
  | pfcPauseExpire => cases h; exact ⟨_, fun _ => rfl, (pfcPauseExpire_framed _ _).widen⟩
  | pfcRefresh => cases h; exact ⟨_, fun _ => rfl, (pfcRefresh_framed _ _).widen⟩
  | aisleAdmit => cases h; exact ⟨_, fun _ => rfl, .coreDo (aisleAdmit_framed _ _).widen⟩
  | frameLastByte => cases h; exact ⟨_, fun _ => rfl, (frameLastByte_framed _ _).widen⟩
  | bufferAllocate => cases h; exact ⟨_, fun _ => rfl, .coreDo (bufferAllocate_framed _).widen⟩
  | bufferFree => cases h; exact ⟨_, fun _ => rfl, .coreDo (bufferFree_framed _ _ _ _ _).widen⟩
  | thresholdRecompute => cases h; exact ⟨_, fun _ => rfl, .coreDo thresholdRecompute_framed.widen⟩
  | queueDepthPublish => cases h; exact ⟨_, fun _ => rfl, .coreDo queueDepthPublish_framed.widen⟩
  | policerSweep => cases h; exact ⟨_, fun _ => rfl, .coreDo (policerSweep_framed _).widen⟩
  | schedulerSelect => cases h; exact ⟨_, fun _ => rfl, .coreDo (schedulerSelect_framed _ _ _).widen⟩
  | flushDiscard => cases h; exact ⟨_, fun _ => rfl, .coreDo (flushDiscard_framed _ _).widen⟩
  | queuesEmptyReport => cases h; exact ⟨_, fun _ => rfl, .coreDo (queuesEmptyReport_framed _).widen⟩
  | stallCfgWrite => cases h; exact ⟨_, fun _ => rfl, (stallCfgWrite_framed _ _ _).widen⟩
  | portCfgWrite => cases h; exact ⟨_, fun _ => rfl, (portCfgWrite_framed _ _ _).widen⟩
  | portRestart => cases h; exact ⟨_, fun _ => rfl, (portRestart_framed _ _ _).widen⟩
  | negotiationComplete => cases h; exact ⟨_, fun _ => rfl, (negotiationComplete_framed _ _).widen⟩
  | anPauseExpire => cases h; exact ⟨_, fun _ => rfl, (anPauseExpire_framed _).widen⟩
  | trainingTimeboxExpire => cases h; exact ⟨_, fun _ => rfl, (trainingTimeboxExpire_framed _).widen⟩
  | alignTimeout => cases h; exact ⟨_, fun _ => rfl, (alignTimeout_framed _).widen⟩
  | anFail => cases h; exact ⟨_, fun _ => rfl, (anFail_framed _).widen⟩
  | trainingComplete => cases h; exact ⟨_, fun _ => rfl, (trainingComplete_framed _ _ _).widen⟩
  | alignmentQualified => cases h; exact ⟨_, fun _ => rfl, (alignmentQualified_framed _).widen⟩
  | linkLoss => cases h; exact ⟨_, fun _ => rfl, (linkLoss_framed _ _).widen⟩
  | holdTimerExpire => cases h; exact ⟨_, fun _ => rfl, (holdTimerExpire_framed _).widen⟩
  | laneRetune => cases h; exact ⟨_, fun _ => rfl, (laneRetune_framed _ _ _).widen⟩
  | retuneComplete => cases h; exact ⟨_, fun _ => rfl, (retuneEnds_framed _ _ _).widen⟩
  | eyeSweep => cases h; exact ⟨_, fun _ => rfl, (eyeSweep_framed _ _).widen⟩
  | healthGradeRefresh => cases h; exact ⟨_, fun _ => rfl, (healthGradeRefresh_framed _ _).widen⟩
  | bwmWindowEnd => cases h; exact ⟨_, fun _ => rfl, .coreDo (bwmWindowEnd_framed _).widen⟩
  | siteChainScan => cases h; exact ⟨_, fun _ => rfl, .coreDo (siteChainScan_framed _ _).widen⟩
  | datapathActivated => cases h; exact ⟨_, fun _ => rfl, (datapathActivated_framed _).widen⟩
  | siteFault => cases h; exact ⟨_, fun _ => rfl, (siteFault_framed _).widen⟩
  | txpllLoss => cases h; exact ⟨_, fun _ => rfl, (txpllLoss_framed _).widen⟩
  | moduleResetRelease => cases h; exact ⟨_, fun _ => rfl, (moduleResetRelease_framed _).widen⟩
  | siteFaultRetry => cases h; exact ⟨_, fun _ => rfl, (siteFaultRetry_framed _).widen⟩
  | moduleLowPwrReport => cases h; exact ⟨_, fun _ => rfl, (moduleLowPwrReport_framed _ _ _ _).widen⟩
  | moduleReady => cases h; exact ⟨_, fun _ => rfl, (moduleReady_framed _).widen⟩
  | hlArm => cases h; exact ⟨_, fun _ => rfl, (hlArm_framed _ _ _).widen⟩
  | hlCancel => cases h; exact ⟨_, fun _ => rfl, (hlCancel_framed _ _ _).widen⟩
  | hlStop => cases h; exact ⟨_, fun _ => rfl, (hlStop_framed _ _ _).widen⟩
  | hlSwitch => cases h; exact ⟨_, fun _ => rfl, .coreDo (hlSwitch_framed _).widen⟩
  | gateEdge => cases h; exact ⟨_, fun _ => rfl, .coreDo (gateEdge_framed _).widen⟩
  | qtClearClose => cases h; exact ⟨_, fun _ => rfl, .coreDo (qtClearClose_framed _).widen⟩
  | qtClearReopen => cases h; exact ⟨_, fun _ => rfl, .coreDo (qtClearReopen_framed _).widen⟩
  | latencySample => cases h; exact ⟨_, fun _ => rfl, .coreDo (latencySample_framed _).widen⟩
  | samplerClear => cases h; exact ⟨_, fun _ => rfl, (samplerClear_framed _ _ _).widen⟩
  | carve => cases h; exact ⟨_, fun _ => rfl, (carve_framed _ _).widen⟩
  | txpllRelock => cases h; exact ⟨_, fun _ => rfl, (txpllRelock_framed _).widen⟩
  | _ => cases h

/-- Settles O6: no action of the data path writes outside its frame. -/
theorem dataPathFrames : Obligations.DataPathFrames := by
  intro c P R s t h ht
  obtain ⟨a, ha, hf⟩ := framePath_action c P R h
  exact hf.exec ha ht

end Sys2Proof.Machine
end

section
/-!
PROOF. CFG_LOCK: an action either leaves the bit in effect alone, or sets it, or brings a reset of reach 1 or 2 (R7).
-/
set_option Elab.async false
namespace Sys2Proof.Machine

/-! ### What a framed action leaves of registers and parts -/

variable {P : List Part} {R : List Reg} {a : Act}

/-- A framed action leaves a register it does not list as read and in effect. -/
theorem Act.Framed.reg (h : a.Framed P R) {r : Reg} (hr : R.contains r = false) (n : Nat) (s : State) :
    (Machine.run a s).raw r n = s.raw r n ∧ (Machine.run a s).eff r n = s.eff r n := (h.run s).2 r n hr

theorem Act.Framed.fld (h : a.Framed P R) (f : Fld) (n : Nat) (s : State) (hr : R.contains f.reg = false := by decide) :
    (Machine.run a s).fld f n = s.fld f n := by rw [State.fld, (h.reg hr n s).2, State.fld]

theorem Act.Framed.rawFld (h : a.Framed P R) (f : Fld) (n : Nat) (s : State) (hr : R.contains f.reg = false := by decide) :
    (Machine.run a s).rawFld f n = s.rawFld f n := by rw [State.rawFld, (h.reg hr n s).1, State.rawFld]

theorem Act.Framed.bit (h : a.Framed P R) (f : Fld) (n : Nat) (s : State) (hr : R.contains f.reg = false := by decide) :
    (Machine.run a s).bit f n = s.bit f n := by rw [State.bit, h.fld f n s hr, State.bit]

theorem Act.Framed.part (h : a.Framed P R) (x : Part) (s : State) (hx : P.contains x = false := by decide) :
    s.agree x (Machine.run a s) := (h.run s).1 x hx

theorem Act.Framed.clk (h : a.Framed P R) (s : State) (hx : P.contains .clk = false := by decide) :
    (Machine.run a s).clk = s.clk := h.part .clk s hx

/-! ### The lock, or a reset -/

/-- A reset of reach 1 or 2: a source is asserted, and the exit sequence has not begun. -/
def State.inReset (s : State) : Prop := s.clk.step = 0 ∧ s.clk.srcs ≠ []

/-- CFG_LOCK is set, or the device is in a reset of reach 1 or 2. -/
def State.lockedOrReset (s : State) : Prop := s.cfgLock = true ∨ s.inReset

/-- An action that keeps the lock, but for a reset, and keeps a reset. -/
structure Act.HoldsLock (a : Act) : Prop where
  keep : ∀ s, s.lockedOrReset → (run a s).lockedOrReset

/-- Each action of a list keeps the lock or the reset. -/
def Act.allHoldLock : List Act → Prop
  | [] => True
  | a :: l => a.HoldsLock ∧ Act.allHoldLock l

namespace Act.HoldsLock

theorem skip : Act.skip.HoldsLock := ⟨fun _ h => h⟩

theorem seq {a b : Act} (ha : a.HoldsLock) (hb : b.HoldsLock) : (Act.seq a b).HoldsLock := ⟨fun s h => hb.keep _ (ha.keep s h)⟩

theorem look {f : State → Act} (h : ∀ s, (f s).HoldsLock) : (Act.look f).HoldsLock := ⟨fun s hs => (h s).keep s hs⟩

theorem acts {l : List Act} (h : allHoldLock l) : (Machine.acts l).HoldsLock := by
  induction l with
  | nil => exact skip
  | cons a l ih => exact seq h.1 (ih h.2)

theorem when {c : Bool} {a : Act} (h : a.HoldsLock) : (Machine.when c a).HoldsLock := by
  cases c with
  | true => exact h
  | false => exact skip

theorem each {α : Type} {l : List α} {f : α → Act} (h : ∀ x ∈ l, (f x).HoldsLock) : (Machine.each l f).HoldsLock := by
  induction l with
  | nil => exact skip
  | cons x l ih => exact seq (h x (by simp)) (ih fun y hy => h y (by simp [hy]))

theorem ite {a b : Act} {c : Prop} [Decidable c] (ha : a.HoldsLock) (hb : b.HoldsLock) : (if c then a else b).HoldsLock := by
  split <;> assumption

end Act.HoldsLock

/-- A framed action that lists neither SEC_LOCK nor the clock state keeps the lock and a reset. -/
theorem Act.Framed.holds (h : a.Framed P R) (hP : P.contains .clk = false := by decide) (hR : R.contains .SEC_LOCK = false := by decide) :
    a.HoldsLock := by
  refine ⟨fun s hs => ?_⟩
  unfold State.lockedOrReset State.inReset State.cfgLock at *
  rwa [h.clk s hP, h.bit F.SEC_LOCK_CFG_LOCK 0 s hR]

/-- A change of the clock state that leaves the step, and some source where there was one. -/
theorem modClk_holds {f : ClkS → ClkS} (hstep : ∀ c, (f c).step = c.step) (hsrcs : ∀ c, c.srcs ≠ [] → (f c).srcs ≠ []) :
    (modClk f).HoldsLock := by
  refine ⟨fun s hs => ?_⟩
  rcases hs with hs | ⟨h0, hn⟩
  · left
    have := (modClk_framed f).bit F.SEC_LOCK_CFG_LOCK 0 s
    rwa [State.cfgLock, this]
  · exact .inr ⟨(hstep _).trans h0, hsrcs _ hn⟩

/-- A change of the clock state that leaves the step and the sources. -/
theorem modClk_holds' {f : ClkS → ClkS} (h : ∀ c, (f c).step = c.step ∧ (f c).srcs = c.srcs) : (modClk f).HoldsLock :=
  modClk_holds (fun c => (h c).1) fun c hc => by rwa [(h c).2]

/-- A field of another register. -/
theorem setF_holds {f : Fld} (h : f.reg ≠ .SEC_LOCK) (n v : Nat) : (setF f n v).HoldsLock :=
  (setF_own f n v).holds (by decide) (by simpa using h.symm)

/-- A write field by field of another register. -/
theorem writeFields_holds {r : Reg} (h : r ≠ .SEC_LOCK) (rq : Req) (n : Nat) (v : Word) : (writeFields rq r n v).HoldsLock :=
  (writeFields_own rq r n v).holds (by decide) (by simp [h.symm, occurRegs])

/-- The staged fields of another register take effect. -/
theorem applyFields_holds {r : Reg} (h : r ≠ .SEC_LOCK) (n : Nat) (p : FieldInfo → Bool) : (applyFields r n p).HoldsLock :=
  (applyFields_own r n p).holds (by decide) (by simpa using h.symm)

theorem reject_holds (b : Blk) (req : Req) (addr code vid : Nat) : (reject b req addr code vid).HoldsLock :=
  (reject_own b req addr code vid).holds (by decide) (by cases b <;> rfl)

theorem reject3_holds (b : Blk) (req : Req) (r : Reg) (n : Nat) : (reject3 b req r n).HoldsLock := reject_holds _ _ _ _ _

theorem busError_holds (req : Req) (addr kind : Nat) (wr : Bool) : (busError req addr kind wr).HoldsLock :=
  (busError_own req addr kind wr).holds

/-- A write that arrives does what its body does, or is a bus error. -/
theorem onWrite_holds {req : Req} {r : Reg} {n : Nat} {k : Req → Act} (h : ∀ q, (k q).HoldsLock) : (onWrite req r n k).HoldsLock := by
  refine .look fun s => ?_
  split
  · exact .skip
  · split
    · exact busError_holds _ _ _ _
    · exact h _

theorem onSecWrite_holds {req : Req} {r : Reg} {n : Nat} {k : Req → Act} (h : ∀ q, (k q).HoldsLock) : (onSecWrite req r n k).HoldsLock :=
  onWrite_holds fun _ => .when (h _)

end Sys2Proof.Machine
end

section
/-!
PROOF. CFG_LOCK under resets of reach 1 and 2 and under soft resets (R311 to R323).
-/
set_option Elab.async false
namespace Sys2Proof.Machine

/-! ### Resets of reach 1 and 2 -/

theorem addSet_ne_nil (l : List Nat) (n : Nat) : addSet l n ≠ [] := by
  cases l with
  | nil => simp [addSet]
  | cons y r =>
    simp only [addSet]
    split_ifs <;> simp

theorem foldl_addSet_ne_nil (l m : List Nat) (h : m ≠ [] ∨ l ≠ []) : l.foldl addSet m ≠ [] := by
  induction l generalizing m with
  | nil => simpa using h
  | cons x l ih => exact ih _ (.inl (addSet_ne_nil _ _))

theorem releaseIn_ne_nil (src mark : Nat) (l : List Nat) (h : l ≠ []) : releaseIn src mark l ≠ [] := by
  unfold releaseIn
  split
  · exact addSet_ne_nil _ _
  · exact h

theorem releaseSrc_holds (src mark : Nat) : (releaseSrc src mark).HoldsLock :=
  modClk_holds (fun _ => rfl) fun _ hc => releaseIn_ne_nil _ _ _ hc

theorem tripRelease_holds : tripRelease.HoldsLock :=
  .acts ⟨releaseSrc_holds _ _, modClk_holds' fun _ => ⟨rfl, rfl⟩, (emit_own _).holds, trivial⟩

@[simp] theorem run_modClk (f : ClkS → ClkS) (s : State) : (run (modClk f) s).clk = f s.clk := rfl

/-- A reset of the parts keeps the sources and the step as they are at 0. -/
theorem deviceReset_inReset (s : State) (h : s.clk.srcs ≠ []) : (run deviceReset s).inReset := by
  have hclk : (run deviceReset s).clk.srcs = (run outputsLow (run burnCut s)).clk.srcs := rfl
  rw [outputsLow_framed.clk, burnCut_framed.clk] at hclk
  exact ⟨rfl, by rwa [hclk]⟩

/-- Applying a source brings a reset of reach 1 or 2. -/
theorem applySrcs_inReset (l : List Nat) (hl : l ≠ []) (s : State) : (run (applySrcs l) s).inReset := by
  refine deviceReset_inReset _ ?_
  have h : (when (l.any fun n => n == srcResetN || n == srcReleased) (setReg .NVM_BOOT 0 0)).Framed [.regs, .live] [.NVM_BOOT] :=
    .when (setReg_own _ _ _)
  rw [h.clk]
  exact foldl_addSet_ne_nil _ _ (.inr hl)

theorem applySrcs_holds (l : List Nat) (hl : l ≠ []) : (applySrcs l).HoldsLock := ⟨fun s _ => .inr (applySrcs_inReset l hl s)⟩

theorem holdPending_holds : holdPending.HoldsLock :=
  .look fun _ => .acts ⟨.when (modClk_holds' fun _ => ⟨rfl, rfl⟩), (setB_own _ _ _).holds, trivial⟩

theorem assertSrc_holds (n : Nat) : (assertSrc n).HoldsLock :=
  .look fun _ => .ite (.acts ⟨holdPending_holds, modClk_holds' fun _ => ⟨rfl, rfl⟩, trivial⟩) (applySrcs_holds _ (by simp))

/-- POR brings a reset of reach 1. -/
theorem por_holds (low : Bool) : (por low).HoldsLock := by
  refine ⟨fun s _ => .inr ?_⟩
  have h : ∀ t, (run (.upd (.thm {})) t).inReset ↔ t.inReset := fun _ => Iff.rfl
  exact (h _).2 (deviceReset_inReset _ (List.cons_ne_nil _ _))

theorem resetNAssert_holds : resetNAssert.HoldsLock :=
  .look fun _ => .acts ⟨.when tripRelease_holds, assertSrc_holds _, trivial⟩

theorem sysSwreset_holds (req : Req) (value : Word) : (sysSwreset req value).HoldsLock :=
  onWrite_holds fun _ => .ite (assertSrc_holds _) (reject_holds _ _ _ _ _)

theorem setupComplete_holds : setupComplete.HoldsLock :=
  .look fun _ => .when (.ite (.when (assertSrc_holds _)) (.when (requestEpoch_framed _ _ _).holds))

theorem rootpllLoss_holds : rootpllLoss.HoldsLock :=
  .look fun _ => .when (.acts ⟨(setB_own _ _ _).holds, (setB_own _ _ _).holds, assertSrc_holds _, trivial⟩)

theorem tripFire_holds : tripFire.HoldsLock :=
  .acts ⟨modClk_holds' fun _ => ⟨rfl, rfl⟩, (emit_own _).holds, assertSrc_holds _, trivial⟩

theorem tripSense_holds (temps : List Int) : (tripSense temps).HoldsLock :=
  .look fun _ => .acts ⟨modClk_holds' fun _ => ⟨rfl, rfl⟩, .when tripRelease_holds, trivial⟩

theorem thermalConversion_holds (temps : List Int) : (thermalConversion temps).HoldsLock := by
  refine .acts ⟨tripSense_holds _, .look fun _ => .when (.acts ⟨.each fun _ _ => (setF_own _ _ _).holds, (sensorsFail_framed _).holds,
    .look fun _ => .acts ⟨?_, (modThm_framed _).holds, .when tripFire_holds, trivial⟩, trivial⟩), trivial⟩
  split
  · exact (newTj_framed _ _).holds
  · exact .skip

theorem extest_holds : extest.HoldsLock :=
  .look fun _ => .acts ⟨modClk_holds' fun _ => ⟨rfl, rfl⟩, .when (assertSrc_holds _), trivial⟩

theorem jtagInstructionLoad_holds (cls : Nat) : (jtagInstructionLoad cls).HoldsLock :=
  .ite extest_holds (.look fun _ => .acts ⟨.when (.acts ⟨releaseSrc_holds _ _, modClk_holds' fun _ => ⟨rfl, rfl⟩, trivial⟩),
    modClk_holds' fun _ => ⟨rfl, rfl⟩, .when (emit_own _).holds, trivial⟩)

/-! ### Soft resets -/

/-- SEC_LOCK is among the registers that a soft reset keeps. -/
theorem clearRegs_holds (u : Nat) : (clearRegs u).HoldsLock := by
  refine .look fun s => .each fun e he => .each fun f _ => setF_holds ?_ _ _
  rw [List.mem_filter, Bool.and_eq_true] at he
  intro h
  have hk : softKeeps (keyReg e.1) = false := by simpa using he.2.2
  have hr : keyReg e.1 = .SEC_LOCK := h
  rw [hr] at hk
  exact absurd hk (by decide)

theorem softStall_holds (st : Nat) : (softStall st).HoldsLock :=
  .look fun _ => .acts ⟨.each fun _ _ => (cutArriving_framed _).holds, .each fun _ _ => (leaveUp_framed _ _ _).holds,
    .each fun _ _ => .acts ⟨(modPort_framed _ _).holds, (modLane_framed _ _).holds, trivial⟩, (modStall_framed _ _).holds,
    clearRegs_holds _, .each fun _ _ => (parkPort_framed _).holds, trivial⟩

theorem softAisle_holds (k : Nat) (h : k < 16) : (softAisle k h).HoldsLock :=
  .look fun _ => .acts ⟨.each fun _ _ => (parkPort_framed _).holds,
    .each fun _ _ => .when (.acts ⟨(modEng_framed _ _).holds, (abort_framed _).holds, trivial⟩), (modAisle_framed _ _).holds,
    .each fun _ _ => Act.Framed.holds (P := [.rebuild]) (R := []) (.upd rfl), clearRegs_holds _, trivial⟩

theorem softQtr_holds (q : Nat) : (softQtr q).HoldsLock :=
  .look fun _ => .acts ⟨(putCopy_framed _ _).holds, (fillPolicers_framed _).holds, (modQtr_framed _ _).holds,
    .each fun _ _ => (modQtr_framed _ _).holds, (modPe_framed _).holds, clearRegs_holds _, trivial⟩

theorem softPe_holds : softPe.HoldsLock :=
  .look fun _ => .acts ⟨.each fun _ _ => .acts ⟨.each fun _ _ => (peFreeFrame_framed _).holds, (modPort_framed _ _).holds, trivial⟩,
    .when (peFreeFrame_framed _).holds, (modPkts_framed _).holds, (modPe_framed _).holds,
    Act.Framed.holds (P := [.stm]) (R := []) (.upd ⟨rfl, nofun, nofun⟩), .each fun _ _ => (modBfd_framed _ _).holds,
    clearRegs_holds _, trivial⟩

theorem softTime_holds : softTime.HoldsLock :=
  .look fun _ => .acts ⟨(servoTo_framed _).holds, (dpllTo_framed _).holds, .each fun _ _ => .acts ⟨(modPort_framed _ _).holds, trivial⟩,
    (modTime_framed _).holds, clearRegs_holds _, .each fun _ _ => (syncRecal_framed _).holds, trivial⟩

theorem softSwc_holds : softSwc.HoldsLock :=
  .look fun _ => .acts ⟨Act.Framed.holds (P := [.bufs]) (R := []) (.upd ⟨rfl, nofun, nofun⟩), (modPkts_framed _).holds,
    Act.Framed.holds (P := [.swc]) (R := []) (.upd rfl), .each fun _ _ => (modPort_framed _ _).holds, clearRegs_holds _,
    carveNow_framed.holds, .each fun _ _ => (pfcSync_framed _).holds, trivial⟩

theorem softSch_holds : softSch.HoldsLock :=
  .look fun _ => .acts ⟨.each fun _ _ => (modPort_framed _ _).holds, clearRegs_holds _, trivial⟩

theorem softDma_holds : softDma.HoldsLock :=
  .look fun _ => .acts ⟨(ringAbandon_framed _).holds, (ringAbandon_framed _).holds, (padRelease_framed _).holds,
    (padRelease_framed _).holds, (modDma_framed _).holds, clearRegs_holds _, padSync_framed.holds, (passBegin_framed _).holds, trivial⟩

theorem softNvm_holds : softNvm.HoldsLock := .acts ⟨(modNvm_framed _).holds, clearRegs_holds _, trivial⟩

theorem softSec_holds : softSec.HoldsLock :=
  .acts ⟨burnCut_framed.holds, (sessEnd_framed _).holds, (modSec_framed _).holds, (modTime_framed _).holds, (setB_own _ _ _).holds,
    (setB_own _ _ _).holds, (setB_own _ _ _).holds, (setF_own _ _ _).holds, clearRegs_holds _, trivial⟩

theorem softBody_holds (u : Nat) : (softBody u).HoldsLock := by
  unfold softBody
  split_ifs
  · exact softStall_holds _
  · exact softAisle_holds _ _
  · exact softQtr_holds _
  · exact softPe_holds
  · exact softTime_holds
  · exact softSwc_holds
  · exact softSch_holds
  · exact softDma_holds
  · exact softNvm_holds
  · exact softSec_holds

theorem softStart_holds (u : Nat) : (softStart u).HoldsLock := by
  refine .acts ⟨modClk_holds' fun _ => ⟨rfl, rfl⟩, softBody_holds _, (clearCnt_framed _).holds, ?_, trivial⟩
  split
  · exact (unitReport_framed _).holds
  · exact .skip

theorem softBit_holds (u : Nat) : (softBit u).HoldsLock :=
  .look fun _ => .acts ⟨(softReg_own _ _).holds,
    .ite (.acts ⟨holdPending_holds, modClk_holds' fun _ => ⟨rfl, rfl⟩, trivial⟩) (softStart_holds _), trivial⟩

theorem softWrite_holds (req : Req) (word : Nat) (value mask : Word) : (softWrite req word value mask).HoldsLock := by
  unfold softWrite
  dsimp only
  exact onWrite_holds fun _ => .look fun _ => .acts ⟨.when (reject3_holds _ _ _ _), .each fun _ _ => softBit_holds _, trivial⟩

/-! ### The end of a page program -/

theorem applyHeld_holds : applyHeld.HoldsLock := by
  refine .look fun s => ?_
  split
  · next h => exact applySrcs_holds _ (by rintro h'; rw [h'] at h; exact absurd h (by decide))
  · exact .when (.acts ⟨modClk_holds' fun _ => ⟨rfl, rfl⟩, softStart_holds _, trivial⟩)

theorem nvmProgramEnd_holds : nvmProgramEnd.HoldsLock := .acts ⟨programEnd_framed.holds, applyHeld_holds, trivial⟩

theorem nvmResetDelayLimit_holds : nvmResetDelayLimit.HoldsLock :=
  .look fun _ => .when (.acts ⟨programCut_framed.holds, (modNvm_framed _).holds, (setB_own _ _ _).holds, holdSync_framed.holds,
    (setB_own _ _ _).holds, applyHeld_holds, trivial⟩)

end Sys2Proof.Machine
end

section
/-!
PROOF. CFG_LOCK under writes of registers: a write of SEC_LOCK can only set the bit, and no other write reaches it (R6, R7, R275).
-/
set_option Elab.async false
namespace Sys2Proof.Machine

/-- CFG_LOCK_SET sets the lock, or leaves it. -/
theorem cfgLockSet_holds (req : Req) (value : Word) : (cfgLockSet req value).HoldsLock := by
  refine onSecWrite_holds fun _ => .when ⟨fun s _ => .inl ?_⟩
  rw [State.cfgLock, State.bit, setB, setF_fld _ _ _ _ (by decide)]
  decide

/-! ### Writes with a register as a parameter -/

section
variable {r : Reg} (hr : r ≠ .SEC_LOCK)
include hr

theorem mbxFieldWrite_holds (rq : Req) (n mb : Nat) (v : Word) : (mbxFieldWrite rq r n mb v).HoldsLock :=
  .look fun _ => .ite (reject3_holds _ _ _ _) (writeFields_holds hr _ _ _)

theorem ringBaseWrite_holds (rq : Req) (ring : Nat) (v : Word) : (ringBaseWrite rq r ring v).HoldsLock :=
  .when (.look fun _ => .ite (reject3_holds _ _ _ _) (writeFields_holds hr _ _ _))

theorem hqBaseWrite_holds (rq : Req) (k : Nat) (v : Word) : (hqBaseWrite rq r k v).HoldsLock :=
  .look fun _ => .ite (reject3_holds _ _ _ _) (writeFields_holds hr _ _ _)

theorem shadowWrite_holds (rq : Req) (v : Word) : (shadowWrite rq r v).HoldsLock :=
  .look fun _ => .ite (reject3_holds _ _ _ _) (writeFields_holds hr _ _ _)

theorem permitWrite_holds (rq : Req) (v : Word) : (permitWrite rq r v).HoldsLock :=
  .when (.acts ⟨writeFields_holds hr _ _ _, .when (setB_own _ _ _).holds, trivial⟩)

theorem snapWrite_holds (rq : Req) (v : Word) : (snapWrite rq r v).HoldsLock :=
  .look fun _ => .ite (reject3_holds _ _ _ _) (.acts ⟨writeFields_holds hr _ _ _, .when (modClk_holds' fun _ => ⟨rfl, rfl⟩), trivial⟩)

theorem dpllWrite_holds (rq : Req) (v : Word) : (dpllWrite rq r v).HoldsLock :=
  .acts ⟨writeFields_holds hr _ _ _, .look fun _ => .when (.acts ⟨(setSel_framed _).holds, (dpllTo_framed _).holds, trivial⟩),
    syncQl_framed.holds, trivial⟩

end

theorem assayWrite_holds (rq : Req) (r : Reg) {k : Act} (hk : k.HoldsLock) : (assayWrite rq r k).HoldsLock :=
  .look fun _ => .ite (.acts ⟨reject3_holds _ _ _ _, (raise_own _ _).holds, trivial⟩) hk

theorem wdtRestart_holds : wdtRestart.HoldsLock := .look fun _ => modClk_holds' fun _ => ⟨rfl, rfl⟩

theorem wdtKick_holds (req : Req) (value : Word) : (wdtKick req value).HoldsLock :=
  onSecWrite_holds fun _ => .ite wdtRestart_holds (addSat_own _ _ _).holds

theorem wdtCfgWrite_holds (rq : Req) (v : Word) : (wdtCfgWrite rq v).HoldsLock :=
  .look fun _ => .acts ⟨writeFields_holds (by decide) _ _ _,
    .look fun _ => .ite (.when wdtRestart_holds) (.when (modClk_holds' fun _ => ⟨rfl, rfl⟩)), trivial⟩

/-! ### Any register -/

/-- A write of a register whose rows are commands keeps the lock. -/
theorem rowWrite_holds (req : Req) (r : Reg) (n : Nat) (v : Word) (a : Act) (h : rowWrite req r n v = some a) : a.HoldsLock := by
  unfold rowWrite at h
  split at h
  · cases h
    exact (stallCfgWrite_framed _ _ _).holds
  · cases h
    exact (portCfgWrite_framed _ _ _).holds
  · cases h
    exact (portRestart_framed _ _ _).holds
  · cases h
    exact (laneRetune_framed _ _ _).holds
  · cases h
    exact (rehashStart_framed _ _ _).holds
  · cases h
    exact (qtrFlushGo_framed _ _ _).holds
  · cases h
    exact (rebuildGo_framed _ _ _ _).holds
  · cases h
    exact .acts ⟨(mcResume_framed _ _ _).holds, (mcPop_framed _ _ _).holds, (fence_framed _ _ _).holds, trivial⟩
  · cases h
    exact .acts ⟨(mcResume_framed _ _ _).holds, (mcPop_framed _ _ _).holds, trivial⟩
  · cases h
    exact (mbxCtl_framed _ _ _).holds
  · cases h
    exact .acts ⟨(calReq_framed _ _ _).holds, (probeReq_framed _ _ _).holds, trivial⟩
  · cases h
    exact .acts ⟨(forceNone_framed _ _).holds, (forceHoldover_framed _ _).holds, (forceFreerun_framed _ _).holds, trivial⟩
  · cases h
    exact .acts ⟨(hlArm_framed _ _ _).holds, (hlCancel_framed _ _ _).holds, (hlStop_framed _ _ _).holds, trivial⟩
  · cases h
    exact (samplerClear_framed _ _ _).holds
  · cases h
    exact (carve_framed _ _).holds
  · cases h
    exact sysSwreset_holds _ _
  · cases h
    exact softWrite_holds _ _ _ _
  · cases h
    exact softWrite_holds _ _ _ _
  · cases h
    exact softWrite_holds _ _ _ _
  · cases h
    exact wdtKick_holds _ _
  · cases h
    exact (onModeReq_framed _ _ _).holds
  · cases h
    exact (epochReq_framed _ _).holds
  · split at h
    · cases h
      exact (proveGo_framed _ _).holds
    · cases h
  · cases h
    exact .ite ((nvmHoldSet_framed _ _).holds) ((nvmHoldClear_framed _ _ _).holds)
  · split at h
    · cases h
    · cases h
      exact .acts ⟨(claim_framed _ _).holds, (release_framed _ _).holds, (heartbeat_framed _ _).holds, trivial⟩
  · cases h
    exact (dmaRingTailWrite_framed _ _ _).holds
  · cases h
    exact (svnAdvance_framed _ _).holds
  · cases h
    exact .acts ⟨(burnOwner_framed _ _).holds, (revoke_framed _ _).holds, trivial⟩
  · cases h
    exact cfgLockSet_holds _ _
  · cases h

/-- A write of a register that has no row of its own keeps the lock: SEC_LOCK has one. -/
theorem plainWrite_holds (rq : Req) {r : Reg} (hr : r ≠ .SEC_LOCK) (n : Nat) (v : Word) : (plainWrite rq r n v).HoldsLock := by
  unfold plainWrite
  split
  · exact .acts ⟨(clearStatus_own _ _ _).holds, syncAlert_framed.holds, trivial⟩
  · exact .when (clearStatus_own _ _ _).holds
  · exact (zEnableWrite_framed _ _ _).holds
  · exact .acts ⟨(enableWrite_framed _ _ _).holds, syncAlert_framed.holds, trivial⟩
  · exact .acts ⟨writeFields_holds (by decide) _ _ _, syncAlert_framed.holds, trivial⟩
  · exact (evtTestWrite_framed _).holds
  · exact .acts ⟨writeFields_holds (by decide) _ _ _, syncAlert_framed.holds, trivial⟩
  · exact reject3_holds _ _ _ _
  · exact .acts ⟨writeFields_holds (by decide) _ _ _, sealLatch_framed.holds, trivial⟩
  · exact mbxFieldWrite_holds (by decide) _ _ _ _
  · exact mbxFieldWrite_holds (by decide) _ _ _ _
  · exact wdtCfgWrite_holds _ _
  · exact (nvmBootWrite_framed _ _).holds
  · exact ringBaseWrite_holds (by decide) _ _ _
  · exact ringBaseWrite_holds (by decide) _ _ _
  · exact ringBaseWrite_holds (by decide) _ _ _
  · exact ringBaseWrite_holds (by decide) _ _ _
  · exact (ringCfgWrite_framed _ _ _).holds
  · exact hqBaseWrite_holds (by decide) _ _ _
  · exact hqBaseWrite_holds (by decide) _ _ _
  · exact (hqCfgWrite_framed _ _ _).holds
  · exact (hqTailWrite_framed _ _ _).holds
  · exact assayWrite_holds _ _ (assayCfgWrite_framed _ _).holds
  · exact assayWrite_holds _ _ (writeFields_holds (by decide) _ _ _)
  · exact assayWrite_holds _ _ (shadowWrite_holds (by decide) _ _)
  · exact assayWrite_holds _ _ (shadowWrite_holds (by decide) _ _)
  · exact assayWrite_holds _ _ (assayCtlWrite_framed _ _).holds
  · exact assayWrite_holds _ _ .skip
  · exact (secCfgWrite_framed _ _).holds
  · exact (ptpCfgWrite_framed _ _).holds
  · exact (portPtpWrite_framed _ _ _).holds
  · exact dpllWrite_holds (by decide) _ _
  · exact dpllWrite_holds (by decide) _ _
  · exact (dpllSrcWrite_framed _ _).holds
  · exact (outCfgWrite_framed _ _).holds
  · exact (mapWrite_framed _ _ _ _).holds
  · exact (mapWrite_framed _ _ _ _).holds
  · exact (tileCfgWrite_framed _ _ _).holds
  · exact (qCfgWrite_framed _ _ _).holds
  · exact .acts ⟨writeFields_holds (by decide) _ _ _, syncSwc_framed.holds, trivial⟩
  · exact writeFields_holds (by decide) _ _ _
  · exact permitWrite_holds (by decide) _ _
  · exact permitWrite_holds (by decide) _ _
  · exact snapWrite_holds (by decide) _ _
  · exact snapWrite_holds (by decide) _ _
  · exact snapWrite_holds (by decide) _ _
  · exact writeFields_holds hr _ _ _

theorem wordWrite_holds (req : Req) (r : Reg) (n : Nat) (v : Word) : (wordWrite req r n v).HoldsLock := by
  refine onWrite_holds fun rq => ?_
  split
  · next h => exact .acts ⟨writeFields_holds (by rw [h]; decide) _ _ _, (planNow_framed _ _).holds, trivial⟩
  · split
    · next a h => exact rowWrite_holds _ _ _ _ a h
    · next h => exact plainWrite_holds _ (by rintro rfl; exact absurd h (by simp [rowWrite])) _ _

theorem registerWrite_holds (req : Req) (shapeOk : Bool) (addr : Nat) (v : Word) : (registerWrite req shapeOk addr v).HoldsLock := by
  refine .look fun _ => .when (.ite (busError_holds _ _ _ _) ?_)
  split
  · exact busError_holds _ _ _ _
  · exact wordWrite_holds _ _ _ _

theorem regWrite_holds (code : BitVec 8) (count x : Nat) (v : Word) (pec : Option Bool) : (regWrite code count x v pec).HoldsLock := by
  refine .look fun _ => .when (.ite (.look fun _ => .ite (modEvt_own _).holds (.ite .skip ?_)) (.when (emit_own _).holds))
  split
  · exact .skip
  · exact .when (wordWrite_holds _ _ _ _)

/-! ### Fields that wait for their boundary -/

/-- Fields of other registers take effect at their boundary. -/
theorem applyStaged_holds {sel : Reg → Nat → Bool} (h : ∀ n, sel .SEC_LOCK n = false) (ap : Applies) : (applyStaged sel ap).HoldsLock := by
  refine .look fun s => .each fun e he => applyFields_holds ?_ _ _
  rw [List.mem_filter] at he
  intro hr
  rw [hr, h] at he
  exact absurd he.2 (by decide)

theorem stagedFieldApply_holds (bnd : Boundary) (i : Nat) : (stagedFieldApply bnd i).HoldsLock := by
  unfold stagedFieldApply
  split
  · exact applyStaged_holds (fun _ => rfl) _
  · exact applyStaged_holds (fun _ => rfl) _
  · exact applyStaged_holds (fun _ => rfl) _
  · exact applyStaged_holds (fun _ => rfl) _
  · exact .look fun _ => .acts ⟨applyStaged_holds (fun _ => rfl) _, (followPfcEn_framed _ _).holds, trivial⟩
  · exact .look fun _ => .when (.acts ⟨(modPort_framed _ _).holds, applyStaged_holds (fun _ => rfl) _,
      .look fun _ => (modPort_framed _ _).holds, trivial⟩)

/-! ### Configuration records -/

theorem recWrite_holds (addr : Nat) (v : Word) : (recWrite addr v).HoldsLock :=
  .look fun _ => .when (.acts ⟨registerWrite_holds _ _ _ _, .look fun _ => .when (setupFail_framed _).holds, trivial⟩)

theorem recMailbox_holds (l : List Byte) : (recMailbox l).HoldsLock := by
  unfold recMailbox
  exact .acts ⟨wordWrite_holds _ _ _ _, .each fun _ _ => wordWrite_holds _ _ _ _, wordWrite_holds _ _ _ _, trivial⟩

theorem recDo_holds (l : List Byte) : (recDo l).HoldsLock := by
  unfold recDo
  dsimp only
  split_ifs
  · exact .acts ⟨(recNext_framed _).holds, .each fun _ _ => recWrite_holds _ _, trivial⟩
  · exact .look fun _ => .acts ⟨(recNext_framed _).holds, recMailbox_holds _, (modNvm_framed _).holds,
      .look fun _ => .when (setupFail_framed _).holds, trivial⟩
  · exact .acts ⟨(recNext_framed _).holds, (modPe_framed _).holds, trivial⟩
  · exact .look fun _ => .acts ⟨(recNext_framed _).holds, (modNvm_framed _).holds, trivial⟩
  · exact recsEnd_framed.holds
  · exact (setupFail_framed _).holds

theorem cfgVisit_holds (row : Nat) : (cfgVisit row).HoldsLock := by
  refine .look fun _ => .when (.ite (.acts ⟨(modNvm_framed _).holds, (setupFail_framed _).holds, trivial⟩) ?_)
  split
  · exact .when (.acts ⟨(modNvm_framed _).holds, recsEnd_framed.holds, trivial⟩)
  · exact .ite (setupFail_framed _).holds (.when (.acts ⟨(modNvm_framed _).holds, recDo_holds _, trivial⟩))

end Sys2Proof.Machine
end

section
/-!
PROOF. Every command keeps CFG_LOCK, but for a reset of reach 1 or 2 (R7).
-/
set_option Elab.async false
namespace Sys2Proof.Machine

theorem Act.HoldsLock.coreDo {a : Act} (h : a.HoldsLock) : (Machine.coreDo a).HoldsLock := .look fun _ => .when h

/-- A lock that is set stays so, or a reset comes. -/
theorem Act.HoldsLock.locks {a : Act} (h : a.HoldsLock) (s : State) (hs : s.cfgLock = true) : (Machine.run a s).lockedOrReset :=
  h.keep s (.inl hs)

/-- An action that does not write SEC_LOCK leaves a lock that is set, whatever it does to the clocks. -/
theorem Act.Framed.locks {P : List Part} {R : List Reg} {a : Act} (h : a.Framed P R) (s : State) (hs : s.cfgLock = true)
    (hR : R.contains .SEC_LOCK = false := by decide) : (Machine.run a s).lockedOrReset :=
  .inl (by rwa [State.cfgLock, h.bit F.SEC_LOCK_CFG_LOCK 0 s hR])

/-- A command keeps a lock that is set, but for a reset. -/
theorem command_locks (c : Instr) : ∃ a : Act, (∀ s, exec c s = .next (run a s)) ∧ ∀ s, s.cfgLock = true → (run a s).lockedOrReset := by
  cases c with
  | registerWrite => exact ⟨_, fun _ => rfl, (registerWrite_holds _ _ _ _).locks⟩
  | stagedFieldApply => exact ⟨_, fun _ => rfl, (stagedFieldApply_holds _ _).locks⟩
  | frameSfdCapture => exact ⟨_, fun _ => rfl, (frameSfdCapture_framed _ _ _ _).locks⟩
  | pfcFrameReceive => exact ⟨_, fun _ => rfl, (pfcFrameReceive_framed _ _ _).locks⟩
  | pauseFrameReceive => exact ⟨_, fun _ => rfl, (pauseFrameReceive_framed _).locks⟩
  | pfcPauseExpire => exact ⟨_, fun _ => rfl, (pfcPauseExpire_framed _ _).locks⟩
  | pfcRefresh => exact ⟨_, fun _ => rfl, (pfcRefresh_framed _ _).locks⟩
  | aisleAdmit => exact ⟨_, fun _ => rfl, (aisleAdmit_framed _ _).coreDo.locks⟩
  | frameLastByte => exact ⟨_, fun _ => rfl, (frameLastByte_framed _ _).locks⟩
  | bufferAllocate => exact ⟨_, fun _ => rfl, (bufferAllocate_framed _).coreDo.locks⟩
  | bufferFree => exact ⟨_, fun _ => rfl, (bufferFree_framed _ _ _ _ _).coreDo.locks⟩
  | thresholdRecompute => exact ⟨_, fun _ => rfl, thresholdRecompute_framed.coreDo.locks⟩
  | queueDepthPublish => exact ⟨_, fun _ => rfl, queueDepthPublish_framed.coreDo.locks⟩
  | schedulerSelect => exact ⟨_, fun _ => rfl, (schedulerSelect_framed _ _ _).coreDo.locks⟩
  | flushDiscard => exact ⟨_, fun _ => rfl, (flushDiscard_framed _ _).coreDo.locks⟩
  | queuesEmptyReport => exact ⟨_, fun _ => rfl, (queuesEmptyReport_framed _).coreDo.locks⟩
  | stallCfgWrite => exact ⟨_, fun _ => rfl, (stallCfgWrite_framed _ _ _).locks⟩
  | portCfgWrite => exact ⟨_, fun _ => rfl, (portCfgWrite_framed _ _ _).locks⟩
  | portRestart => exact ⟨_, fun _ => rfl, (portRestart_framed _ _ _).locks⟩
  | negotiationComplete => exact ⟨_, fun _ => rfl, (negotiationComplete_framed _ _).locks⟩
  | anFail => exact ⟨_, fun _ => rfl, (anFail_framed _).locks⟩
  | anPauseExpire => exact ⟨_, fun _ => rfl, (anPauseExpire_framed _).locks⟩
  | trainingComplete => exact ⟨_, fun _ => rfl, (trainingComplete_framed _ _ _).locks⟩
  | trainingTimeboxExpire => exact ⟨_, fun _ => rfl, (trainingTimeboxExpire_framed _).locks⟩
  | alignmentQualified => exact ⟨_, fun _ => rfl, (alignmentQualified_framed _).locks⟩
  | alignTimeout => exact ⟨_, fun _ => rfl, (alignTimeout_framed _).locks⟩
  | linkLoss => exact ⟨_, fun _ => rfl, (linkLoss_framed _ _).locks⟩
  | holdTimerExpire => exact ⟨_, fun _ => rfl, (holdTimerExpire_framed _).locks⟩
  | laneRetune => exact ⟨_, fun _ => rfl, (laneRetune_framed _ _ _).locks⟩
  | retuneComplete => exact ⟨_, fun _ => rfl, (retuneEnds_framed _ _ _).locks⟩
  | eyeSweep => exact ⟨_, fun _ => rfl, (eyeSweep_framed _ _).locks⟩
  | healthGradeRefresh => exact ⟨_, fun _ => rfl, (healthGradeRefresh_framed _ _).locks⟩
  | bwmWindowEnd => exact ⟨_, fun _ => rfl, (bwmWindowEnd_framed _).coreDo.locks⟩
  | siteChainScan => exact ⟨_, fun _ => rfl, (siteChainScan_framed _ _).coreDo.locks⟩
  | moduleResetRelease => exact ⟨_, fun _ => rfl, (moduleResetRelease_framed _).locks⟩
  | moduleLowPwrReport => exact ⟨_, fun _ => rfl, (moduleLowPwrReport_framed _ _ _ _).locks⟩
  | moduleReady => exact ⟨_, fun _ => rfl, (moduleReady_framed _).locks⟩
  | datapathActivated => exact ⟨_, fun _ => rfl, (datapathActivated_framed _).locks⟩
  | siteFault => exact ⟨_, fun _ => rfl, (siteFault_framed _).locks⟩
  | siteFaultRetry => exact ⟨_, fun _ => rfl, (siteFaultRetry_framed _).locks⟩
  | crierNoteSend => exact ⟨_, fun _ => rfl, (crierNoteSend_framed _).coreDo.locks⟩
  | crierNoteReceive => exact ⟨_, fun _ => rfl, (crierNoteReceive_framed _ _ _).coreDo.locks⟩
  | rehashStart => exact ⟨_, fun _ => rfl, (rehashStart_framed _ _ _).locks⟩
  | rehashDone => exact ⟨_, fun _ => rfl, (rehashDone_framed _).coreDo.locks⟩
  | ageingVisit => exact ⟨_, fun _ => rfl, (ageingVisit_framed _).coreDo.locks⟩
  | qtrFlushGo => exact ⟨_, fun _ => rfl, (qtrFlushGo_framed _ _ _).locks⟩
  | flushWalkStart => exact ⟨_, fun _ => rfl, (flushWalkStart_framed _).coreDo.locks⟩
  | flushDone => exact ⟨_, fun _ => rfl, (flushDone_framed _).coreDo.locks⟩
  | flowletSweep => exact ⟨_, fun _ => rfl, (flowletSweep_framed _).coreDo.locks⟩
  | rebuildGo => exact ⟨_, fun _ => rfl, (rebuildGo_framed _ _ _ _).locks⟩
  | rebuildCopyDone => exact ⟨_, fun _ => rfl, (rebuildCopyDone_framed _ _).coreDo.locks⟩
  | rebuildSwitch => exact ⟨_, fun _ => rfl, (rebuildSwitch_framed _ _).coreDo.locks⟩
  | rebuildClearDone => exact ⟨_, fun _ => rfl, (rebuildClearDone_framed _ _).coreDo.locks⟩
  | assayUnitRead => exact ⟨_, fun _ => rfl, (assayUnitRead_framed _ _ _).coreDo.locks⟩
  | microwordExecute => exact ⟨_, fun _ => rfl, (microwordExecute_framed _ _).coreDo.locks⟩
  | nhRead => exact ⟨_, fun _ => rfl, (nhRead_framed _).coreDo.locks⟩
  | rwRead => exact ⟨_, fun _ => rfl, (rwRead_framed _).coreDo.locks⟩
  | bdRead => exact ⟨_, fun _ => rfl, (bdRead_framed _).coreDo.locks⟩
  | count => exact ⟨_, fun _ => rfl, (countCall_framed _).coreDo.locks⟩
  | stRead => exact ⟨_, fun _ => rfl, stRead_framed.coreDo.locks⟩
  | stWrite => exact ⟨_, fun _ => rfl, stWrite_framed.coreDo.locks⟩
  | msgPost => exact ⟨_, fun _ => rfl, msgPost_framed.coreDo.locks⟩
  | timerSet => exact ⟨_, fun _ => rfl, timerSet_framed.coreDo.locks⟩
  | txFrame => exact ⟨_, fun _ => rfl, txFrame_framed.coreDo.locks⟩
  | tsRead => exact ⟨_, fun _ => rfl, tsRead_framed.coreDo.locks⟩
  | tableCallResult => exact ⟨_, fun _ => rfl, (tableCallResult_framed _).coreDo.locks⟩
  | endRoutine => exact ⟨_, fun _ => rfl, (endRoutine_framed _).coreDo.locks⟩
  | abort => exact ⟨_, fun _ => rfl, (abort_framed _).coreDo.locks⟩
  | mcResume => exact ⟨_, fun _ => rfl, (mcResume_framed _ _ _).locks⟩
  | mcPop => exact ⟨_, fun _ => rfl, (mcPop_framed _ _ _).locks⟩
  | fence => exact ⟨_, fun _ => rfl, (fence_framed _ _ _).locks⟩
  | resumeTimeout => exact ⟨_, fun _ => rfl, (resumeTimeout_framed _).coreDo.locks⟩
  | peResumeTimeout => exact ⟨_, fun _ => rfl, peResumeTimeout_framed.coreDo.locks⟩
  | wheelPosition => exact ⟨_, fun _ => rfl, wheelPosition_framed.locks⟩
  | peTimerExpire => exact ⟨_, fun _ => rfl, (peTimerExpire_framed _ _ _).coreDo.locks⟩
  | lldpTtlExpire => exact ⟨_, fun _ => rfl, (lldpTtlExpire_framed _).coreDo.locks⟩
  | bfdDetectExpire => exact ⟨_, fun _ => rfl, (bfdDetectExpire_framed _).coreDo.locks⟩
  | mbxRead => exact ⟨_, fun _ => rfl, (mbxRow_framed _ _ _ _).locks⟩
  | mbxWrite => exact ⟨_, fun _ => rfl, (mbxRow_framed _ _ _ _).locks⟩
  | mbxReadClear => exact ⟨_, fun _ => rfl, (mbxRow_framed _ _ _ _).locks⟩
  | mbxModuleIoDone => exact ⟨_, fun _ => rfl, (mbxModuleIoDone_framed _ _).coreDo.locks⟩
  | regRead => exact ⟨_, fun _ => rfl, (regRead_framed _).locks⟩
  | regWrite => exact ⟨_, fun _ => rfl, (regWrite_holds _ _ _ _ _).locks⟩
  | smbusTimeout => exact ⟨_, fun _ => rfl, smbusTimeout_framed.locks⟩
  | alertResponse => exact ⟨_, fun _ => rfl, alertResponse_framed.locks⟩
  | evtTest => exact ⟨_, fun _ => rfl, (evtTest_framed _ _).locks⟩
  | holdoffExpire => exact ⟨_, fun _ => rfl, (holdoffExpire_framed _ _).coreDo.locks⟩
  | timeWordSend => exact ⟨_, fun _ => rfl, timeWord_framed.locks⟩
  | distEchoMeasure => exact ⟨_, fun _ => rfl, (distEchoMeasure_framed _ _).locks⟩
  | timeStep => exact ⟨_, fun _ => rfl, timeStep_framed.locks⟩
  | calibrationStart => exact ⟨_, fun _ => rfl, (calibrationStart_framed _ _).locks⟩
  | calibrationCommit => exact ⟨_, fun _ => rfl, (calibrationCommit_framed _ _).locks⟩
  | calPeriodExpire => exact ⟨_, fun _ => rfl, (calPeriodExpire_framed _).locks⟩
  | calReq => exact ⟨_, fun _ => rfl, (calReq_framed _ _ _).locks⟩
  | probeReq => exact ⟨_, fun _ => rfl, (probeReq_framed _ _ _).locks⟩
  | probeSend => exact ⟨_, fun _ => rfl, (probeSend_framed _).locks⟩
  | probeResponse => exact ⟨_, fun _ => rfl, (probeResponse_framed _ _).locks⟩
  | probeNone => exact ⟨_, fun _ => rfl, (probeNone_framed _).locks⟩
  | linkdlyPeriodExpire => exact ⟨_, fun _ => rfl, (linkdlyPeriodExpire_framed _).locks⟩
  | bmcaRun => exact ⟨_, fun _ => rfl, (bmcaRun_framed _).locks⟩
  | announceReceiptTimeout => exact ⟨_, fun _ => rfl, (announceReceiptTimeout_framed _).locks⟩
  | servoSample => exact ⟨_, fun _ => rfl, (servoSample_framed _).locks⟩
  | sourceLost => exact ⟨_, fun _ => rfl, sourceLost_framed.locks⟩
  | holdoverLimitExpire => exact ⟨_, fun _ => rfl, holdoverLimitExpire_framed.locks⟩
  | forceNone => exact ⟨_, fun _ => rfl, (forceNone_framed _ _).locks⟩
  | forceHoldover => exact ⟨_, fun _ => rfl, (forceHoldover_framed _ _).locks⟩
  | forceFreerun => exact ⟨_, fun _ => rfl, (forceFreerun_framed _ _).locks⟩
  | ppsInEdge => exact ⟨_, fun _ => rfl, (ppsInEdge_framed _).locks⟩
  | todSentenceReceive => exact ⟨_, fun _ => rfl, (todSentenceReceive_framed _).locks⟩
  | ppsLoss => exact ⟨_, fun _ => rfl, ppsLoss_framed.locks⟩
  | dpllInputLoss => exact ⟨_, fun _ => rfl, (dpllInputLoss_framed _).locks⟩
  | dpllInputQualify => exact ⟨_, fun _ => rfl, (dpllInputQualify_framed _).locks⟩
  | refSwitch => exact ⟨_, fun _ => rfl, refSwitch_framed.locks⟩
  | dpllLock => exact ⟨_, fun _ => rfl, dpllLock_framed.locks⟩
  | esmcTimeout => exact ⟨_, fun _ => rfl, (esmcTimeout_framed _).locks⟩
  | ppsOutEdge => exact ⟨_, fun _ => rfl, ppsOutEdge_framed.locks⟩
  | todSentenceSend => exact ⟨_, fun _ => rfl, todSentenceSend_framed.locks⟩
  | tallyIssue => exact ⟨_, fun _ => rfl, tallyIssue_framed.locks⟩
  | tallySigned => exact ⟨_, fun _ => rfl, tallySigned_framed.coreDo.locks⟩
  | hlArm => exact ⟨_, fun _ => rfl, (hlArm_framed _ _ _).locks⟩
  | hlCancel => exact ⟨_, fun _ => rfl, (hlCancel_framed _ _ _).locks⟩
  | hlStop => exact ⟨_, fun _ => rfl, (hlStop_framed _ _ _).locks⟩
  | hlSwitch => exact ⟨_, fun _ => rfl, (hlSwitch_framed _).coreDo.locks⟩
  | gateEdge => exact ⟨_, fun _ => rfl, (gateEdge_framed _).coreDo.locks⟩
  | qtClearClose => exact ⟨_, fun _ => rfl, (qtClearClose_framed _).coreDo.locks⟩
  | qtClearReopen => exact ⟨_, fun _ => rfl, (qtClearReopen_framed _).coreDo.locks⟩
  | latencySample => exact ⟨_, fun _ => rfl, (latencySample_framed _).coreDo.locks⟩
  | samplerClear => exact ⟨_, fun _ => rfl, (samplerClear_framed _ _ _).locks⟩
  | policerSweep => exact ⟨_, fun _ => rfl, (policerSweep_framed _).coreDo.locks⟩
  | carve => exact ⟨_, fun _ => rfl, (carve_framed _ _).locks⟩
  | por => exact ⟨_, fun _ => rfl, (por_holds _).locks⟩
  | resetNAssert => exact ⟨_, fun _ => rfl, resetNAssert_holds.locks⟩
  | resetNRelease => exact ⟨_, fun _ => rfl, resetNRelease_framed.locks⟩
  | sysSwreset => exact ⟨_, fun _ => rfl, (sysSwreset_holds _ _).locks⟩
  | nvmProgramEnd => exact ⟨_, fun _ => rfl, nvmProgramEnd_holds.locks⟩
  | nvmResetDelayLimit => exact ⟨_, fun _ => rfl, nvmResetDelayLimit_holds.locks⟩
  | exitSequenceStart => exact ⟨_, fun _ => rfl, (exitSequenceStart_framed _).locks⟩
  | refclkMeasure => exact ⟨_, fun _ => rfl, (refclkMeasure_framed _ _).locks⟩
  | resetDone => exact ⟨_, fun _ => rfl, resetDone_framed.locks⟩
  | rootpllLoss => exact ⟨_, fun _ => rfl, rootpllLoss_holds.locks⟩
  | timepllLoss => exact ⟨_, fun _ => rfl, timepllLoss_framed.locks⟩
  | timepllRelock => exact ⟨_, fun _ => rfl, timepllRelock_framed.locks⟩
  | txpllLoss => exact ⟨_, fun _ => rfl, (txpllLoss_framed _).locks⟩
  | txpllRelock => exact ⟨_, fun _ => rfl, (txpllRelock_framed _).locks⟩
  | pciePllLoss => exact ⟨_, fun _ => rfl, pciePllLoss_framed.locks⟩
  | softResetStall => exact ⟨_, fun _ => rfl, (softWrite_holds _ _ _ _).locks⟩
  | softResetAisle => exact ⟨_, fun _ => rfl, (softWrite_holds _ _ _ _).locks⟩
  | softResetQuarter => exact ⟨_, fun _ => rfl, (softWrite_holds _ _ _ _).locks⟩
  | softResetPe => exact ⟨_, fun _ => rfl, (softWrite_holds _ _ _ _).locks⟩
  | softResetTime => exact ⟨_, fun _ => rfl, (softWrite_holds _ _ _ _).locks⟩
  | softResetSwc => exact ⟨_, fun _ => rfl, (softWrite_holds _ _ _ _).locks⟩
  | softResetSch => exact ⟨_, fun _ => rfl, (softWrite_holds _ _ _ _).locks⟩
  | softResetDma => exact ⟨_, fun _ => rfl, (softWrite_holds _ _ _ _).locks⟩
  | softResetNvm => exact ⟨_, fun _ => rfl, (softWrite_holds _ _ _ _).locks⟩
  | softResetSec => exact ⟨_, fun _ => rfl, (softWrite_holds _ _ _ _).locks⟩
  | softResetDone => exact ⟨_, fun _ => rfl, (softResetDone_framed _).coreDo.locks⟩
  | wdtKick => exact ⟨_, fun _ => rfl, (wdtKick_holds _ _).locks⟩
  | wdtExpire => exact ⟨_, fun _ => rfl, wdtExpire_framed.locks⟩
  | perstNAssert => exact ⟨_, fun _ => rfl, perstNAssert_framed.locks⟩
  | perstNRelease => exact ⟨_, fun _ => rfl, perstNRelease_framed.locks⟩
  | flr => exact ⟨_, fun _ => rfl, (flr_framed _).coreDo.locks⟩
  | bootRomStart => exact ⟨_, fun _ => rfl, (bootRomStart_framed _).locks⟩
  | patchLoad => exact ⟨_, fun _ => rfl, patchLoad_framed.locks⟩
  | cfgRecordReg => exact ⟨_, fun _ => rfl, (cfgVisit_holds _).locks⟩
  | cfgRecordMbx => exact ⟨_, fun _ => rfl, (cfgVisit_holds _).locks⟩
  | cfgRecordIdent => exact ⟨_, fun _ => rfl, (cfgVisit_holds _).locks⟩
  | cfgRecordWait => exact ⟨_, fun _ => rfl, (cfgVisit_holds _).locks⟩
  | cfgWaitExpire => exact ⟨_, fun _ => rfl, cfgWaitExpire_framed.coreDo.locks⟩
  | cfgRecordEnd => exact ⟨_, fun _ => rfl, (cfgVisit_holds _).locks⟩
  | setupComplete => exact ⟨_, fun _ => rfl, setupComplete_holds.coreDo.locks⟩
  | modeReqOpen => exact ⟨_, fun _ => rfl, (onModeReq_framed _ _ _).locks⟩
  | modeReqLean => exact ⟨_, fun _ => rfl, (onModeReq_framed _ _ _).locks⟩
  | modeReqDrain => exact ⟨_, fun _ => rfl, (onModeReq_framed _ _ _).locks⟩
  | modeReqSealed => exact ⟨_, fun _ => rfl, (onModeReq_framed _ _ _).locks⟩
  | modeReqProving => exact ⟨_, fun _ => rfl, (onModeReq_framed _ _ _).locks⟩
  | modeReqSetup => exact ⟨_, fun _ => rfl, (onModeReq_framed _ _ _).locks⟩
  | autoModeChange => exact ⟨_, fun _ => rfl, autoModeChange_framed.coreDo.locks⟩
  | epochReq => exact ⟨_, fun _ => rfl, (epochReq_framed _ _).locks⟩
  | epochUnitApplied => exact ⟨_, fun _ => rfl, (epochUnitApplied_framed _).coreDo.locks⟩
  | epochWindowExpire => exact ⟨_, fun _ => rfl, (epochWindowExpire_framed _).coreDo.locks⟩
  | epochDone => exact ⟨_, fun _ => rfl, epochDone_framed.coreDo.locks⟩
  | proveGo => exact ⟨_, fun _ => rfl, (proveGo_framed _ _).locks⟩
  | proveTestDone => exact ⟨_, fun _ => rfl, (proveTestDone_framed _ _ _).coreDo.locks⟩
  | nvmHoldSet => exact ⟨_, fun _ => rfl, (nvmHoldSet_framed _ _).locks⟩
  | nvmHoldClear => exact ⟨_, fun _ => rfl, (nvmHoldClear_framed _ _ _).locks⟩
  | nvmPageProgram => exact ⟨_, fun _ => rfl, nvmPageProgram_framed.locks⟩
  | claim => exact ⟨_, fun _ => rfl, (claim_framed _ _).locks⟩
  | release => exact ⟨_, fun _ => rfl, (release_framed _ _).locks⟩
  | heartbeat => exact ⟨_, fun _ => rfl, (heartbeat_framed _ _).locks⟩
  | heartbeatLate => exact ⟨_, fun _ => rfl, heartbeatLate_framed.coreDo.locks⟩
  | dmaRingTailWrite => exact ⟨_, fun _ => rfl, (dmaRingTailWrite_framed _ _ _).locks⟩
  | dmaDescriptorExecute => exact ⟨_, fun _ => rfl, (dmaDescriptorExecute_framed _ _ _).coreDo.locks⟩
  | write => exact ⟨_, fun _ => rfl, (dmaRow_framed _ _ _).coreDo.locks⟩
  | fill => exact ⟨_, fun _ => rfl, (dmaRow_framed _ _ _).coreDo.locks⟩
  | read => exact ⟨_, fun _ => rfl, (dmaRow_framed _ _ _).coreDo.locks⟩
  | ldgInsert => exact ⟨_, fun _ => rfl, (dmaRow_framed _ _ _).coreDo.locks⟩
  | ldgDelete => exact ⟨_, fun _ => rfl, (dmaRow_framed _ _ _).coreDo.locks⟩
  | lpmInsert => exact ⟨_, fun _ => rfl, (dmaRow_framed _ _ _).coreDo.locks⟩
  | lpmDelete => exact ⟨_, fun _ => rfl, (dmaRow_framed _ _ _).coreDo.locks⟩
  | pselWrite => exact ⟨_, fun _ => rfl, (dmaRow_framed _ _ _).coreDo.locks⟩
  | ruleWrite => exact ⟨_, fun _ => rfl, (dmaRow_framed _ _ _).coreDo.locks⟩
  | ruleClear => exact ⟨_, fun _ => rfl, (dmaRow_framed _ _ _).coreDo.locks⟩
  | ruleMove => exact ⟨_, fun _ => rfl, (dmaRow_framed _ _ _).coreDo.locks⟩
  | padlock => exact ⟨_, fun _ => rfl, (dmaRow_framed _ _ _).coreDo.locks⟩
  | nop => exact ⟨_, fun _ => rfl, (dmaRow_framed _ _ _).coreDo.locks⟩
  | padlockExpired => exact ⟨_, fun _ => rfl, (padlockExpired_framed _ _).coreDo.locks⟩
  | assayRecordStep => exact ⟨_, fun _ => rfl, (assayRecordStep_framed _ _).coreDo.locks⟩
  | findingConfirm => exact ⟨_, fun _ => rfl, (findingConfirm_framed _).coreDo.locks⟩
  | winCountBucketExpire => exact ⟨_, fun _ => rfl, winCountBucketExpire_framed.coreDo.locks⟩
  | burnOwner => exact ⟨_, fun _ => rfl, (burnOwner_framed _ _).locks⟩
  | otpBurnDone => exact ⟨_, fun _ => rfl, (otpBurnDone_framed _).coreDo.locks⟩
  | revoke => exact ⟨_, fun _ => rfl, (revoke_framed _ _).locks⟩
  | svnAdvance => exact ⟨_, fun _ => rfl, (svnAdvance_framed _ _).locks⟩
  | svnBurnDone => exact ⟨_, fun _ => rfl, svnBurnDone_framed.coreDo.locks⟩
  | cfgLock => exact ⟨_, fun _ => rfl, (cfgLockSet_holds _ _).locks⟩
  | entropyFail => exact ⟨_, fun _ => rfl, entropyFail_framed.locks⟩
  | entropyRecover => exact ⟨_, fun _ => rfl, entropyRecover_framed.locks⟩
  | getVersion => exact ⟨_, fun _ => rfl, (spdmRow_framed _ _ _ _).coreDo.locks⟩
  | getCapabilities => exact ⟨_, fun _ => rfl, (spdmRow_framed _ _ _ _).coreDo.locks⟩
  | negotiateAlgorithms => exact ⟨_, fun _ => rfl, (spdmRow_framed _ _ _ _).coreDo.locks⟩
  | getDigests => exact ⟨_, fun _ => rfl, (spdmRow_framed _ _ _ _).coreDo.locks⟩
  | getCertificate => exact ⟨_, fun _ => rfl, (spdmRow_framed _ _ _ _).coreDo.locks⟩
  | challenge => exact ⟨_, fun _ => rfl, (spdmRow_framed _ _ _ _).coreDo.locks⟩
  | getMeasurements => exact ⟨_, fun _ => rfl, (spdmRow_framed _ _ _ _).coreDo.locks⟩
  | keyExchange => exact ⟨_, fun _ => rfl, (spdmRow_framed _ _ _ _).coreDo.locks⟩
  | finish => exact ⟨_, fun _ => rfl, (spdmRow_framed _ _ _ _).coreDo.locks⟩
  | spdmHeartbeat => exact ⟨_, fun _ => rfl, (spdmRow_framed _ _ _ _).coreDo.locks⟩
  | keyUpdate => exact ⟨_, fun _ => rfl, (spdmRow_framed _ _ _ _).coreDo.locks⟩
  | endSession => exact ⟨_, fun _ => rfl, (spdmRow_framed _ _ _ _).coreDo.locks⟩
  | chunkSend => exact ⟨_, fun _ => rfl, (spdmRow_framed _ _ _ _).coreDo.locks⟩
  | chunkGet => exact ⟨_, fun _ => rfl, (spdmRow_framed _ _ _ _).coreDo.locks⟩
  | sessionHeartbeatTimeout => exact ⟨_, fun _ => rfl, (sessionHeartbeatTimeout_framed _).coreDo.locks⟩
  | thermalConversion => exact ⟨_, fun _ => rfl, (thermalConversion_holds _).locks⟩
  | thermalStepDown => exact ⟨_, fun _ => rfl, thermalStepDown_framed.locks⟩
  | sensorStuckCheck => exact ⟨_, fun _ => rfl, (sensorStuckCheck_framed _).locks⟩
  | powerRead => exact ⟨_, fun _ => rfl, (powerRead_framed _ _).locks⟩
  | pwrLean => exact ⟨_, fun _ => rfl, pwrLean_framed.locks⟩
  | pwrStepRelax => exact ⟨_, fun _ => rfl, pwrStepRelax_framed.locks⟩
  | pwrRequestRetry => exact ⟨_, fun _ => rfl, pwrRequestRetry_framed.locks⟩
  | canarySample => exact ⟨_, fun _ => rfl, (canarySample_framed _ _ _).coreDo.locks⟩
  | planNow => exact ⟨_, fun _ => rfl, (planNow_framed _ _).locks⟩
  | plannerCycleStart => exact ⟨_, fun _ => rfl, plannerCycleStart_framed.coreDo.locks⟩
  | planDone => exact ⟨_, fun _ => rfl, planDone_framed.coreDo.locks⟩
  | shoringDeferExpire => exact ⟨_, fun _ => rfl, shoringDeferExpire_framed.coreDo.locks⟩
  | avsStep => exact ⟨_, fun _ => rfl, (avsStep_framed _ _).coreDo.locks⟩
  | avsFaultRetry => exact ⟨_, fun _ => rfl, (avsFaultRetry_framed _ _).coreDo.locks⟩
  | perfSnapshot => exact ⟨_, fun _ => rfl, (perfSnapshot_framed _).coreDo.locks⟩
  | perfOverflow => exact ⟨_, fun _ => rfl, (perfOverflow_framed _ _ _).coreDo.locks⟩
  | ledScan => exact ⟨_, fun _ => rfl, ledScan_framed.coreDo.locks⟩
  | extest => exact ⟨_, fun _ => rfl, extest_holds.locks⟩
  | jtagInstructionLoad => exact ⟨_, fun _ => rfl, (jtagInstructionLoad_holds _).locks⟩
  | pciePllRelock => exact ⟨_, fun _ => rfl, pciePllRelock_framed.locks⟩
  | revokeBurnDone => exact ⟨_, fun _ => rfl, revokeBurnDone_framed.coreDo.locks⟩
  | zolliwinRunsAgain => exact ⟨_, fun _ => rfl, zolliwinRunsAgain_framed.locks⟩
  | msixVectorUnmask => exact ⟨_, fun _ => rfl, (msixVectorUnmask_framed _ _ _).locks⟩
  | unsupportedRequest => exact ⟨_, fun _ => rfl, (unsupportedRequest_framed _ _ _).coreDo.locks⟩
  | securedMessageFail => exact ⟨_, fun _ => rfl, (securedMessageFail_framed _ _).coreDo.locks⟩
  | hostPacketMoverDone => exact ⟨_, fun _ => rfl, (hostPacketMoverDone_framed _ _).coreDo.locks⟩

/-- Settles O5: a command writes SEC_LOCK to set the bit only, and a reset of reach 1 or 2 leaves a source asserted at step 0. -/
theorem theLockHoldsUntilReset : Obligations.TheLockHoldsUntilReset := by
  intro s t hs h
  rcases step_next s t h with rfl | ⟨c, q, -, hc⟩
  · exact .inl hs
  · obtain ⟨a, ha, hl⟩ := command_locks c
    rw [ha] at hc
    cases hc
    exact hl _ hs

end Sys2Proof.Machine
end

section
/-!
PROOF. What single actions do: the rules by which the statements about commands are proved. A command answers the state after its action; a
write that is taken does its body; a field just set reads back; a framed action leaves the parts and registers it does not list.
-/
set_option Elab.async false
namespace Sys2Proof.Machine

/-! ### Commands -/

/-- A command that answers the state after an action satisfies what that state satisfies. -/
theorem completes_run {c : Instr} {s : State} {a : Act} {p : State → Prop} (h : exec c s = .next (run a s)) (hp : p (run a s)) :
    Completes c s p := ⟨_, h, hp⟩

/-- What such a command completes with holds of the state after its action. -/
theorem completes_next {c : Instr} {s : State} {a : Act} {p : State → Prop} (h : exec c s = .next (run a s)) (hc : Completes c s p) :
    p (run a s) := by
  obtain ⟨t, ht, hp⟩ := hc
  rw [h] at ht
  cases ht
  exact hp

/-- A command of a domain that runs off ROOTPLL does its action while ROOTPLL is not waited for. -/
theorem run_coreDo (a : Act) (s : State) (h : s.halted = false) : run (coreDo a) s = run a s := by
  simp [coreDo, h]

/-- While ROOTPLL is waited for such a command does nothing. -/
theorem run_coreDo_halted (a : Act) (s : State) (h : s.halted = true) : run (coreDo a) s = s := by
  simp [coreDo, h]

theorem takes_iff {s : State} {r : Req} {reg : Reg} {n : Nat} : s.takes r reg n = true ↔ s.arrives r = true ∧ s.accessErr r reg n = none := by
  simp [State.takes]

/-- A write that is taken does its body, for the requester as captures name it. -/
theorem run_onWrite {s : State} {r : Req} {reg : Reg} {n : Nat} (h : s.takes r reg n = true) (k : Req → Act) :
    run (onWrite r reg n k) s = run (k (s.asReq r)) s := by
  obtain ⟨h1, h2⟩ := takes_iff.1 h
  simp [onWrite, h1, h2]

/-- A write of a SEC register that a secure master makes does its body. -/
theorem run_onSecWrite {s : State} {r : Req} {reg : Reg} {n : Nat} (h : s.takesSec r reg n = true) (k : Req → Act) :
    run (onSecWrite r reg n k) s = run (k (s.asReq r)) s := by
  obtain ⟨h1, h2⟩ := Bool.and_eq_true_iff.1 h
  rw [onSecWrite, run_onWrite h1, h2, run_when_true]

/-- Device time that has not run for as long holds an expiry back. -/
theorem run_when_eq_false {b : Bool} (h : b = false) (a : Act) (s : State) : run (when b a) s = s := by rw [h, run_when_false]

theorem run_when_eq_true {b : Bool} (h : b = true) (a : Act) (s : State) : run (when b a) s = run a s := by rw [h, run_when_true]

/-! ### Fields just set -/

@[simp] theorem setB_bit (f : Fld) (n : Nat) (b : Bool) (s : State) (h : f.held = true) (hw : f.w = 1) : (run (setB f n b) s).bit f n = b := by
  rw [State.bit, setB, setF_fld _ _ _ _ h, hw]
  cases b <;> rfl

@[simp] theorem setB_fld (f : Fld) (n : Nat) (b : Bool) (s : State) (h : f.held = true) (hw : f.w = 1) :
    (run (setB f n b) s).fld f n = if b then 1 else 0 := by
  rw [setB, setF_fld _ _ _ _ h, hw]
  cases b <;> rfl

@[simp] theorem setB_rawFld (f : Fld) (n : Nat) (b : Bool) (s : State) (h : f.held = true) (hw : f.w = 1) :
    (run (setB f n b) s).rawFld f n = if b then 1 else 0 := by
  rw [setB, setF_rawFld _ _ _ _ h, hw]
  cases b <;> rfl

/-- A field that shares no bit with the one set reads as before. -/
theorem setF_fld_apart (f g : Fld) (n m v : Nat) (s : State) (hg : g.held = true) (h : f.apart g = true) :
    (run (setF f n v) s).fld g m = s.fld g m := (setF_other f g n m v s hg (.inl h)).1

theorem setF_rawFld_apart (f g : Fld) (n m v : Nat) (s : State) (hg : g.held = true) (h : f.apart g = true) :
    (run (setF f n v) s).rawFld g m = s.rawFld g m := (setF_other f g n m v s hg (.inl h)).2

theorem setF_bit_apart (f g : Fld) (n m v : Nat) (s : State) (hg : g.held = true) (h : f.apart g = true) :
    (run (setF f n v) s).bit g m = s.bit g m := by rw [State.bit, setF_fld_apart _ _ _ _ _ _ hg h, State.bit]

theorem setB_fld_apart (f g : Fld) (n m : Nat) (b : Bool) (s : State) (hg : g.held = true) (h : f.apart g = true) :
    (run (setB f n b) s).fld g m = s.fld g m := setF_fld_apart _ _ _ _ _ _ hg h

theorem setB_rawFld_apart (f g : Fld) (n m : Nat) (b : Bool) (s : State) (hg : g.held = true) (h : f.apart g = true) :
    (run (setB f n b) s).rawFld g m = s.rawFld g m := setF_rawFld_apart _ _ _ _ _ _ hg h

theorem setB_bit_apart (f g : Fld) (n m : Nat) (b : Bool) (s : State) (hg : g.held = true) (h : f.apart g = true) :
    (run (setB f n b) s).bit g m = s.bit g m := setF_bit_apart _ _ _ _ _ _ hg h

/-- The same field at another place reads as before. -/
theorem setF_fld_place (f : Fld) (n m v : Nat) (s : State) (hg : f.held = true) (h : n ≠ m) :
    (run (setF f n v) s).fld f m = s.fld f m := (setF_other f f n m v s hg (.inr h)).1

theorem bits_lt (x : Word) (lo w : Nat) : bits x lo w < 2 ^ w := by
  unfold bits; exact Nat.mod_lt _ (Nat.two_pow_pos w)

theorem fld_lt (s : State) (f : Fld) (n : Nat) : s.fld f n < 2 ^ f.w := bits_lt _ _ _

theorem rawFld_lt (s : State) (f : Fld) (n : Nat) : s.rawFld f n < 2 ^ f.w := bits_lt _ _ _

/-! ### Parts a framed action does not list -/

section
variable {P : List Part} {R : List Reg} {a : Act}

theorem Act.Framed.mode (h : a.Framed P R) (s : State) (hx : P.contains .mode = false := by decide) :
    (Machine.run a s).mode = s.mode := h.part .mode s hx

theorem Act.Framed.evt (h : a.Framed P R) (s : State) (hx : P.contains .evt = false := by decide) :
    (Machine.run a s).evt = s.evt := h.part .evt s hx

theorem Act.Framed.time (h : a.Framed P R) (s : State) (hx : P.contains .time = false := by decide) :
    (Machine.run a s).time = s.time := h.part .time s hx

theorem Act.Framed.ports (h : a.Framed P R) (s : State) (hx : P.contains .ports = false := by decide) :
    (Machine.run a s).ports = s.ports := h.part .ports s hx

theorem Act.Framed.stalls (h : a.Framed P R) (s : State) (hx : P.contains .stalls = false := by decide) :
    (Machine.run a s).stalls = s.stalls := h.part .stalls s hx

theorem Act.Framed.lanes (h : a.Framed P R) (s : State) (hx : P.contains .lanes = false := by decide) :
    (Machine.run a s).lanes = s.lanes := h.part .lanes s hx

theorem Act.Framed.aisles (h : a.Framed P R) (s : State) (hx : P.contains .aisles = false := by decide) :
    (Machine.run a s).aisles = s.aisles := h.part .aisles s hx

theorem Act.Framed.qtrs (h : a.Framed P R) (s : State) (hx : P.contains .qtrs = false := by decide) :
    (Machine.run a s).qtrs = s.qtrs := h.part .qtrs s hx

theorem Act.Framed.pkts (h : a.Framed P R) (s : State) (hx : P.contains .pkts = false := by decide) :
    (Machine.run a s).pkts = s.pkts := h.part .pkts s hx

theorem Act.Framed.pe (h : a.Framed P R) (s : State) (hx : P.contains .pe = false := by decide) :
    (Machine.run a s).pe = s.pe := h.part .pe s hx

theorem Act.Framed.swc (h : a.Framed P R) (s : State) (hx : P.contains .swc = false := by decide) :
    (Machine.run a s).swc = s.swc := h.part .swc s hx

theorem Act.Framed.mbx (h : a.Framed P R) (s : State) (hx : P.contains .mbx = false := by decide) :
    (Machine.run a s).mbx = s.mbx := h.part .mbx s hx

theorem Act.Framed.dma (h : a.Framed P R) (s : State) (hx : P.contains .dma = false := by decide) :
    (Machine.run a s).dma = s.dma := h.part .dma s hx

theorem Act.Framed.nvm (h : a.Framed P R) (s : State) (hx : P.contains .nvm = false := by decide) :
    (Machine.run a s).nvm = s.nvm := h.part .nvm s hx

theorem Act.Framed.sec (h : a.Framed P R) (s : State) (hx : P.contains .sec = false := by decide) :
    (Machine.run a s).sec = s.sec := h.part .sec s hx

theorem Act.Framed.thm (h : a.Framed P R) (s : State) (hx : P.contains .thm = false := by decide) :
    (Machine.run a s).thm = s.thm := h.part .thm s hx

theorem Act.Framed.perf (h : a.Framed P R) (s : State) (hx : P.contains .perf = false := by decide) :
    (Machine.run a s).perf = s.perf := h.part .perf s hx

theorem Act.Framed.bufs (h : a.Framed P R) (s : State) (hx : P.contains .bufs = false := by decide) :
    (Machine.run a s).bufs = s.bufs := h.part .bufs s hx

theorem Act.Framed.flat (h : a.Framed P R) (s : State) (hx : P.contains .flat = false := by decide) :
    (Machine.run a s).flat = s.flat := h.part .flat s hx

theorem Act.Framed.tiles (h : a.Framed P R) (s : State) (hx : P.contains .tiles = false := by decide) :
    (Machine.run a s).tiles = s.tiles := h.part .tiles s hx

theorem Act.Framed.copies (h : a.Framed P R) (s : State) (hx : P.contains .copies = false := by decide) :
    (Machine.run a s).copies = s.copies := h.part .copies s hx

theorem Act.Framed.rebuild (h : a.Framed P R) (s : State) (hx : P.contains .rebuild = false := by decide) :
    (Machine.run a s).rebuild = s.rebuild := h.part .rebuild s hx

theorem Act.Framed.bfd (h : a.Framed P R) (s : State) (hx : P.contains .bfd = false := by decide) :
    (Machine.run a s).bfd = s.bfd := h.part .bfd s hx

theorem Act.Framed.stm (h : a.Framed P R) (s : State) (hx : P.contains .stm = false := by decide) :
    (Machine.run a s).stm = s.stm := h.part .stm s hx

theorem Act.Framed.otp (h : a.Framed P R) (s : State) (hx : P.contains .otp = false := by decide) :
    (Machine.run a s).otp = s.otp := h.part .otp s hx

theorem Act.Framed.hostWr (h : a.Framed P R) (s : State) (hx : P.contains .hostWr = false := by decide) :
    (Machine.run a s).hostWr = s.hostWr := h.part .hostWr s hx

theorem Act.Framed.nvmMem (h : a.Framed P R) (s : State) (hx : P.contains .nvmMem = false := by decide) :
    (Machine.run a s).nvmMem = s.nvmMem := h.part .nvmMem s hx

theorem Act.Framed.cnt (h : a.Framed P R) (s : State) (hx : P.contains .cnt = false := by decide) :
    (Machine.run a s).cnt = s.cnt := h.part .cnt s hx

theorem Act.Framed.out (h : a.Framed P R) (s : State) (hx : P.contains .out = false := by decide) :
    (Machine.run a s).out = s.out := h.part .out s hx

theorem Act.Framed.port (h : a.Framed P R) (s : State) (k : Nat) (hx : P.contains .ports = false := by decide) :
    (Machine.run a s).port k = s.port k := by rw [State.port, h.ports s hx, State.port]

theorem Act.Framed.stall (h : a.Framed P R) (s : State) (k : Nat) (hx : P.contains .stalls = false := by decide) :
    (Machine.run a s).stall k = s.stall k := by rw [State.stall, h.stalls s hx, State.stall]

theorem Act.Framed.lane (h : a.Framed P R) (s : State) (k : Nat) (hx : P.contains .lanes = false := by decide) :
    (Machine.run a s).lane k = s.lane k := by rw [State.lane, h.lanes s hx, State.lane]

theorem Act.Framed.aisle (h : a.Framed P R) (s : State) (k : Nat) (hx : P.contains .aisles = false := by decide) :
    (Machine.run a s).aisle k = s.aisle k := by rw [State.aisle, h.aisles s hx, State.aisle]

theorem Act.Framed.qtr (h : a.Framed P R) (s : State) (k : Nat) (hx : P.contains .qtrs = false := by decide) :
    (Machine.run a s).qtr k = s.qtr k := by rw [State.qtr, h.qtrs s hx, State.qtr]

theorem Act.Framed.mbox (h : a.Framed P R) (s : State) (k : Nat) (hx : P.contains .mbx = false := by decide) :
    (Machine.run a s).mbox k = s.mbox k := by rw [State.mbox, h.mbx s hx, State.mbox]

theorem Act.Framed.buf (h : a.Framed P R) (s : State) (k : Nat) (hx : P.contains .bufs = false := by decide) :
    (Machine.run a s).buf k = s.buf k := by rw [State.buf, h.bufs s hx, State.buf]

theorem Act.Framed.tile (h : a.Framed P R) (s : State) (k : Nat) (hx : P.contains .tiles = false := by decide) :
    (Machine.run a s).tile k = s.tile k := by rw [State.tile, h.tiles s hx, State.tile]

theorem Act.Framed.copyT (h : a.Framed P R) (s : State) (k : Nat) (hx : P.contains .copies = false := by decide) :
    (Machine.run a s).copyT k = s.copyT k := by rw [State.copyT, h.copies s hx, State.copyT]

theorem Act.Framed.rebuildC (h : a.Framed P R) (s : State) (k : Nat) (hx : P.contains .rebuild = false := by decide) :
    (Machine.run a s).rebuildC k = s.rebuildC k := by rw [State.rebuildC, h.rebuild s hx, State.rebuildC]

theorem Act.Framed.bfdS (h : a.Framed P R) (s : State) (k : Nat) (hx : P.contains .bfd = false := by decide) :
    (Machine.run a s).bfdS k = s.bfdS k := by rw [State.bfdS, h.bfd s hx, State.bfdS]

end

/-! ### Changes of one part -/

@[simp] theorem run_modMode (f : ModeS → ModeS) (s : State) : (run (modMode f) s).mode = f s.mode := rfl
@[simp] theorem run_modEvt (f : EvtS → EvtS) (s : State) : (run (modEvt f) s).evt = f s.evt := rfl
@[simp] theorem run_modPkts (f : List Packet → List Packet) (s : State) : (run (modPkts f) s).pkts = f s.pkts := rfl
@[simp] theorem run_modPe (f : PeS → PeS) (s : State) : (run (modPe f) s).pe = f s.pe := rfl
@[simp] theorem run_modSwc (f : SwcS → SwcS) (s : State) : (run (modSwc f) s).swc = f s.swc := rfl
@[simp] theorem run_modTime (f : TimeS → TimeS) (s : State) : (run (modTime f) s).time = f s.time := rfl
@[simp] theorem run_modDma (f : DmaS → DmaS) (s : State) : (run (modDma f) s).dma = f s.dma := rfl
@[simp] theorem run_modNvm (f : NvmS → NvmS) (s : State) : (run (modNvm f) s).nvm = f s.nvm := rfl
@[simp] theorem run_modSec (f : SecS → SecS) (s : State) : (run (modSec f) s).sec = f s.sec := rfl
@[simp] theorem run_modThm (f : ThmS → ThmS) (s : State) : (run (modThm f) s).thm = f s.thm := rfl
theorem run_modStall (k j : Nat) (f : StallS → StallS) (s : State) : (run (modStall k f) s).stall j = if j = k then f (s.stall k) else s.stall j :=
  stall_applyUpd _ _ _ _
@[simp] theorem run_modStall_self (k : Nat) (f : StallS → StallS) (s : State) : (run (modStall k f) s).stall k = f (s.stall k) := by rw [run_modStall, if_pos rfl]
theorem run_modPort (k j : Nat) (f : PortS → PortS) (s : State) : (run (modPort k f) s).port j = if j = k then f (s.port k) else s.port j :=
  port_applyUpd _ _ _ _
@[simp] theorem run_modPort_self (k : Nat) (f : PortS → PortS) (s : State) : (run (modPort k f) s).port k = f (s.port k) := by rw [run_modPort, if_pos rfl]
theorem run_modLane (k j : Nat) (f : LaneS → LaneS) (s : State) : (run (modLane k f) s).lane j = if j = k then f (s.lane k) else s.lane j :=
  lane_applyUpd _ _ _ _
@[simp] theorem run_modLane_self (k : Nat) (f : LaneS → LaneS) (s : State) : (run (modLane k f) s).lane k = f (s.lane k) := by rw [run_modLane, if_pos rfl]
theorem run_modAisle (k j : Nat) (f : AisleS → AisleS) (s : State) : (run (modAisle k f) s).aisle j = if j = k then f (s.aisle k) else s.aisle j :=
  aisle_applyUpd _ _ _ _
@[simp] theorem run_modAisle_self (k : Nat) (f : AisleS → AisleS) (s : State) : (run (modAisle k f) s).aisle k = f (s.aisle k) := by rw [run_modAisle, if_pos rfl]
theorem run_modQtr (k j : Nat) (f : QtrS → QtrS) (s : State) : (run (modQtr k f) s).qtr j = if j = k then f (s.qtr k) else s.qtr j :=
  qtr_applyUpd _ _ _ _
@[simp] theorem run_modQtr_self (k : Nat) (f : QtrS → QtrS) (s : State) : (run (modQtr k f) s).qtr k = f (s.qtr k) := by rw [run_modQtr, if_pos rfl]
theorem run_modMbx (k j : Nat) (f : MbxS → MbxS) (s : State) : (run (modMbx k f) s).mbox j = if j = k then f (s.mbox k) else s.mbox j :=
  mbox_applyUpd _ _ _ _
@[simp] theorem run_modMbx_self (k : Nat) (f : MbxS → MbxS) (s : State) : (run (modMbx k f) s).mbox k = f (s.mbox k) := by rw [run_modMbx, if_pos rfl]
theorem run_modBuf (k j : Nat) (f : Buf → Buf) (s : State) : (run (modBuf k f) s).buf j = if j = k then f (s.buf k) else s.buf j :=
  buf_applyUpd _ _ _ _
@[simp] theorem run_modBuf_self (k : Nat) (f : Buf → Buf) (s : State) : (run (modBuf k f) s).buf k = f (s.buf k) := by rw [run_modBuf, if_pos rfl]
theorem run_modRebuild (k j : Nat) (f : RebuildS → RebuildS) (s : State) : (run (modRebuild k f) s).rebuildC j = if j = k then f (s.rebuildC k) else s.rebuildC j :=
  rebuildC_applyUpd _ _ _ _
@[simp] theorem run_modRebuild_self (k : Nat) (f : RebuildS → RebuildS) (s : State) : (run (modRebuild k f) s).rebuildC k = f (s.rebuildC k) := by rw [run_modRebuild, if_pos rfl]
theorem run_modBfd (k j : Nat) (f : Bfd → Bfd) (s : State) : (run (modBfd k f) s).bfdS j = if j = k then f (s.bfdS k) else s.bfdS j :=
  bfdS_applyUpd _ _ _ _
@[simp] theorem run_modBfd_self (k : Nat) (f : Bfd → Bfd) (s : State) : (run (modBfd k f) s).bfdS k = f (s.bfdS k) := by rw [run_modBfd, if_pos rfl]

/-! ### Rejects -/

/-- The REJECT field of a block, and its place. -/
def Blk.field : Blk → Fld × Nat
  | .sys => (F.SYS_STATUS_REJECT, 0)
  | .stall n => (F.STALL_STATUS_REJECT, n)
  | .qtr n => (F.QTR_STATUS_REJECT, n)
  | .srch n => (F.AISLE_SRCH_STATUS_REJECT, n)
  | .mc n => (F.AISLE_MC_STATUS_REJECT, n)
  | .pe => (F.PE_STATUS_REJECT, 0)
  | .swc => (F.SWC_STATUS_REJECT, 0)
  | .sch => (F.SCH_STATUS_REJECT, 0)
  | .timePort _ => (F.TIME_STATUS_REJECT, 0)
  | .timeSvc => (F.TIME_STATUS_REJECT, 0)
  | .clk => (F.CLK_STATUS_REJECT, 0)
  | .nvm => (F.NVM_STATUS_REJECT, 0)
  | .dma => (F.DMA_STATUS_REJECT, 0)
  | .sec => (F.SEC_STATUS_REJECT, 0)
  | .shr => (F.SHR_STATUS_REJECT, 0)
  | .perf => (F.PERF_SNAP_STATUS_REJECT, 0)

/-- A report of a reject leaves the code in the REJECT field of its block. -/
theorem rejectReport_code (b : Blk) (code : Nat) (s : State) (h : code < 16) :
    (run (rejectReport b code) s).rawFld b.field.1 b.field.2 = code := by
  have hm : code % 2 ^ 4 = code := Nat.mod_eq_of_lt h
  cases b <;> simp only [rejectReport, run_acts_cons, run_acts_nil, Blk.field, raiseDma, raisePe]
  case nvm => rw [setF_rawFld _ _ _ _ (by decide)]; exact hm
  case perf => rw [setF_rawFld _ _ _ _ (by decide)]; exact hm
  case dma => rw [(raiseBit_own _ _ _).rawFld _ _ _, setF_rawFld _ _ _ _ (by decide)]; exact hm
  case pe => rw [(raiseBit_own _ _ _).rawFld _ _ _, setF_rawFld _ _ _ _ (by decide)]; exact hm
  all_goals rw [(raise_own _ _).rawFld _ _ _, setF_rawFld _ _ _ _ (by decide)]; exact hm

/-- A reject leaves its code in the REJECT field of its block. -/
theorem reject_code (b : Blk) (req : Req) (addr code vid : Nat) (s : State) (h : code < 16) :
    (run (reject b req addr code vid) s).rawFld b.field.1 b.field.2 = code := by
  simp only [reject, run_acts_cons, run_acts_nil]
  rw [noteTurned_framed.rawFld _ _ _ rfl, rejectReport_code _ _ _ h]

/-- A reject is one more write turned away, and changes the event state in nothing else. -/
theorem reject_turned (b : Blk) (req : Req) (addr code vid : Nat) (s : State) :
    (run (reject b req addr code vid) s).evt.turned = s.evt.turned + 1 := by
  have h : (run (reject b req addr code vid) s).evt = { s.evt with turned := s.evt.turned + 1 } := by
    simp only [reject, run_acts_cons, run_acts_nil, noteTurned, run_modEvt]
    rw [(rejectReport_own _ _).evt _, (capture_own _ _ _ _).evt _]
  rw [h]

/-- A reject with code 0x3 turns a write away as the statements have it. -/
theorem reject3_turned (b : Blk) (req : Req) (r : Reg) (n : Nat) (s : State) :
    s.turnedBy (run (reject3 b req r n) s) b.field.1 b.field.2 :=
  ⟨reject_code _ _ _ _ _ _ (by decide), reject_turned _ _ _ _ _ _⟩

/-! ### Causes raised -/

/-- A cause just raised reads 1. -/
theorem raise_rawFld (f : Fld) (n : Nat) (s : State) (h : f.held = true) (hw : f.w = 1) (hr : occurRegs.contains f.reg = false) :
    (run (raise f n) s).rawFld f n = 1 := by
  have h1 : (run (setF f n 1) s).rawFld f n = 1 := by rw [setF_rawFld _ _ _ _ h, hw]; rfl
  unfold raise
  rw [run_seq]
  split
  · rw [(occur_own _).rawFld _ _ _ hr, h1]
  · exact h1

/-- A field apart from the cause raised reads as before. -/
theorem raise_rawFld_apart (f g : Fld) (n m : Nat) (s : State) (hg : g.held = true) (h : f.apart g = true)
    (hr : occurRegs.contains g.reg = false) : (run (raise f n) s).rawFld g m = s.rawFld g m := by
  have h1 := setF_rawFld_apart f g n m 1 s hg h
  unfold raise
  rw [run_seq]
  split
  · rw [(occur_own _).rawFld _ _ _ hr, h1]
  · exact h1

theorem raise_fld_apart (f g : Fld) (n m : Nat) (s : State) (hg : g.held = true) (h : f.apart g = true)
    (hr : occurRegs.contains g.reg = false) : (run (raise f n) s).fld g m = s.fld g m := by
  have h1 := setF_fld_apart f g n m 1 s hg h
  unfold raise
  rw [run_seq]
  split
  · rw [(occur_own _).fld _ _ _ hr, h1]
  · exact h1

/-! ### Actions for each member of a list -/

/-- What each action establishes for its own member, and none takes away, holds for every member in the end. -/
theorem each_all {α : Type} {f : α → Act} {p : α → State → Prop} (self : ∀ x s, p x (run (f x) s))
    (keep : ∀ x y s, p y s → p y (run (f x) s)) (l : List α) : ∀ s, ∀ x ∈ l, p x (run (each l f) s) := by
  have keepAll : ∀ (l : List α) (y : α) (s : State), p y s → p y (run (each l f) s) := by
    intro l y
    induction l with
    | nil => exact fun _ h => h
    | cons x l ih => exact fun s h => ih _ (keep x y s h)
  induction l with
  | nil => simp
  | cons x l ih =>
    intro s y hy
    rcases List.mem_cons.1 hy with rfl | hy
    · exact keepAll l y _ (self y s)
    · exact ih _ y hy

end Sys2Proof.Machine
end

section
/-!
PROOF. Requests of an operating mode (R335 to R344): what the request of an epoch leaves, and from it what each command does.
-/
set_option Elab.async false
namespace Sys2Proof.Machine

/-! ### The request of an epoch (R339, R340) -/

/-- The part of a request of an epoch that follows the change of the mode state: the step log, the parse rules and the first reports. -/
def epochTail (s : State) (step : Int) : Act :=
  acts [modTime fun t => { t with stepLog := ((s.newEpoch + 1, s.stepSum + step) :: t.stepLog).take 64 },
    each (List.range 16) fun a =>
      acts [modAisle a fun x => { x with parseOld := s.eff .AISLE_PARSE_CFG a }, .upd (.live .AISLE_PARSE_CFG a none)],
    each ((List.range 88).filter fun u =>
      s.clk.soft.contains (unitSoft u) || (decide (64 ≤ u ∧ u < 80) && (s.aisle (u - 64)).fenced)) unitReport]

theorem epochTail_framed (s : State) (step : Int) : (epochTail s step).Framed [.time, .aisles, .live, .regs]
    [.AISLE_PARSE_CFG, .SYS_EPOCH_APPLIED0, .SYS_EPOCH_APPLIED1, .SYS_EPOCH_APPLIED2] :=
  .acts ⟨(modTime_framed _).widen, .each (fun _ _ => .acts ⟨(modAisle_framed _ _).widen, (live_own _ _ _).widen, trivial⟩),
    .each (fun _ _ => (unitReport_framed _).widen), trivial⟩

/-- A request of an epoch: the fields of SYS_EPOCH and SYS_MODE and the cleared reports, the mode state, and the rest. -/
theorem run_requestEpoch (tgt : Option Nat) (cause : Nat) (step : Int) (s : State) :
    run (requestEpoch tgt cause step) s =
      run (acts [setF F.SYS_EPOCH_REQUESTED 0 (s.newEpoch + 1).toNat,
        setB F.SYS_MODE_PENDING 0 true, setF F.SYS_MODE_TARGET 0 (tgt.getD s.opMode),
        setReg .SYS_EPOCH_APPLIED0 0 0, setReg .SYS_EPOCH_APPLIED1 0 0, setReg .SYS_EPOCH_APPLIED2 0 0,
        modMode fun m => { m with
          epochMode := tgt
          epochCause := cause
          pendLate := List.range 84
          epochAt := s.time.words
          drainEp := if tgt = some modeDrain then s.newEpoch + 1 else m.drainEp },
        epochTail s step]) s := rfl

theorem requestEpoch_fld (f : Fld) (n : Nat) (tgt : Option Nat) (cause : Nat) (step : Int) (s : State) (hf : f.held = true)
    (h1 : Fld.apart F.SYS_EPOCH_REQUESTED f = true) (h2 : Fld.apart F.SYS_MODE_PENDING f = true)
    (h3 : Fld.apart F.SYS_MODE_TARGET f = true)
    (h4 : [Reg.AISLE_PARSE_CFG, .SYS_EPOCH_APPLIED0, .SYS_EPOCH_APPLIED1, .SYS_EPOCH_APPLIED2].contains f.reg = false) :
    (run (requestEpoch tgt cause step) s).fld f n = s.fld f n := by
  have h5 : ([Reg.SYS_EPOCH_APPLIED0].contains f.reg = false ∧ [Reg.SYS_EPOCH_APPLIED1].contains f.reg = false) ∧
      [Reg.SYS_EPOCH_APPLIED2].contains f.reg = false := by simp_all
  rw [run_requestEpoch]
  simp only [run_acts_cons, run_acts_nil]
  rw [(epochTail_framed s step).fld _ _ _ h4, (modMode_framed _).fld _ _ _ rfl, (setReg_own _ _ _).fld _ _ _ h5.2,
    (setReg_own _ _ _).fld _ _ _ h5.1.2, (setReg_own _ _ _).fld _ _ _ h5.1.1]
  rw [setF_fld_apart _ _ _ _ _ _ hf h3, setB_fld_apart _ _ _ _ _ _ hf h2, setF_fld_apart _ _ _ _ _ _ hf h1]

/-- A request of an epoch takes the next number, marks it pending, and keeps what it carries. -/
theorem requestEpoch_spec (tgt : Option Nat) (cause : Nat) (step : Int) (s : State) :
    (run (requestEpoch tgt cause step) s).newEpoch = s.newEpoch + 1 ∧
    (run (requestEpoch tgt cause step) s).epochPending = true ∧
    (run (requestEpoch tgt cause step) s).fld F.SYS_MODE_TARGET 0 = tgt.getD s.opMode % 8 ∧
    (run (requestEpoch tgt cause step) s).mode = { s.mode with
      epochMode := tgt
      epochCause := cause
      pendLate := List.range 84
      epochAt := s.time.words
      drainEp := if tgt = some modeDrain then s.newEpoch + 1 else s.mode.drainEp } := by
  rw [run_requestEpoch]
  simp only [run_acts_cons, run_acts_nil, State.newEpoch, State.epochPending]
  refine ⟨?_, ?_, ?_, ?_⟩
  · rw [(epochTail_framed s step).fld _ _ _, (modMode_framed _).fld _ _ _, (setReg_own _ _ _).fld _ _ _, (setReg_own _ _ _).fld _ _ _,
      (setReg_own _ _ _).fld _ _ _, setF_fld_apart _ _ _ _ _ _ (by decide) (by decide), setB_fld_apart _ _ _ _ _ _ (by decide) (by decide),
      setF_fld _ _ _ _ (by decide)]
    apply BitVec.eq_of_toNat_eq
    simp [F.SYS_EPOCH_REQUESTED]
  · rw [(epochTail_framed s step).bit _ _ _, (modMode_framed _).bit _ _ _, (setReg_own _ _ _).bit _ _ _, (setReg_own _ _ _).bit _ _ _,
      (setReg_own _ _ _).bit _ _ _, setF_bit_apart _ _ _ _ _ _ (by decide) (by decide), setB_bit _ _ _ _ (by decide) (by decide)]
  · rw [(epochTail_framed s step).fld _ _ _, (modMode_framed _).fld _ _ _, (setReg_own _ _ _).fld _ _ _, (setReg_own _ _ _).fld _ _ _,
      (setReg_own _ _ _).fld _ _ _, setF_fld _ _ _ _ (by decide)]
    rfl
  · rw [(epochTail_framed s step).mode _, run_modMode, (setReg_own _ _ _).mode _, (setReg_own _ _ _).mode _, (setReg_own _ _ _).mode _,
      (setF_own _ _ _).mode _, (setB_own _ _ _).mode _, (setF_own _ _ _).mode _]

/-- An epoch that carries a mode puts the change to it under way. -/
theorem requestEpoch_underWay (tgt cause : Nat) (step : Int) (s : State) (h : tgt < 8) :
    modeUnderWay s (run (requestEpoch (some tgt) cause step) s) tgt := by
  obtain ⟨h1, h2, h3, h4⟩ := requestEpoch_spec (some tgt) cause step s
  refine ⟨h1, h2, ?_, by rw [h4], requestEpoch_fld _ _ _ _ _ _ (by decide) (by decide) (by decide) (by decide) (by decide)⟩
  rw [h3]
  exact Nat.mod_eq_of_lt h

/-- A mode change under way after an action that leaves mode and epoch number is under way from the state before it. -/
theorem modeUnderWay_of_same {s s' t : State} {tgt : Nat} (hm : s'.opMode = s.opMode) (he : s'.newEpoch = s.newEpoch)
    (h : modeUnderWay s' t tgt) : modeUnderWay s t tgt := by
  unfold modeUnderWay at *
  rwa [← hm, ← he]

/-! ### The requested step (R344) -/

theorem setReqStep_step (n : Nat) (s : State) (h : n < 4) : (run (setReqStep n) s).fld F.SYS_MODE_REQ_STEP 0 = n := by
  simp only [setReqStep, stepChanged, run_acts_cons, run_acts_nil, run_look]
  rw [(stepSync_framed.when).fld _ _ _, setF_fld_apart _ _ _ _ _ _ (by decide) (by decide), setF_fld _ _ _ _ (by decide)]
  exact Nat.mod_eq_of_lt h

/-- The requested step leaves the other fields of SYS_MODE but STEP. -/
theorem setReqStep_fld (n : Nat) (f : Fld) (s : State) (hf : f.held = true) (h1 : Fld.apart F.SYS_MODE_STEP f = true)
    (h2 : Fld.apart F.SYS_MODE_REQ_STEP f = true) (h3 : (Reg.AISLE_SRCH_EVT_CAUSE :: .AISLE_SRCH_STATUS :: occurRegs).contains f.reg = false) :
    (run (setReqStep n) s).fld f 0 = s.fld f 0 := by
  simp only [setReqStep, stepChanged, run_acts_cons, run_acts_nil, run_look]
  rw [(stepSync_framed.when).fld _ _ _ h3, setF_fld_apart _ _ _ _ _ _ hf h1, setF_fld_apart _ _ _ _ _ _ hf h2]

theorem setReqStep_opMode (n : Nat) (s : State) : (run (setReqStep n) s).opMode = s.opMode :=
  setReqStep_fld n F.SYS_MODE_MODE s (by decide) (by decide) (by decide) (by decide)

theorem setReqStep_newEpoch (n : Nat) (s : State) : (run (setReqStep n) s).newEpoch = s.newEpoch :=
  congrArg (BitVec.ofNat 16) ((setReqStep_framed n).fld F.SYS_EPOCH_REQUESTED 0 s)

/-! ### Requests and automatic changes -/

/-- A request of a mode that is taken acts on its fault. -/
theorem run_onModeReq {s : State} {r : Req} {v : Word} {l : List Nat} (h : s.takes r .SYS_MODE_REQ 0 = true) (hgo : v.getLsbD 31 = true)
    (hl : bits v 0 3 ∈ l) :
    run (onModeReq r v l) s = run (if s.requestFault (bits v 0 3) (bits v 4 2) = 0 then modeRequest (bits v 0 3) (bits v 4 2)
      else reject .sys (s.asReq r) (regAddr .SYS_MODE_REQ 0) (s.requestFault (bits v 0 3) (bits v 4 2)) 0) s := by
  rw [onModeReq, run_onWrite h, run_when_eq_true (by simp [hgo, hl]), run_look]

/-- A permitted request of a mode other than LEAN, from a mode other than LEAN or not of OPEN, takes the next epoch. -/
theorem run_modeRequest_plain {s : State} {tgt step : Nat} (h1 : tgt ≠ modeLean) (h2 : tgt ≠ modeOpen ∨ s.opMode ≠ modeLean) :
    run (modeRequest tgt step) s = run (requestEpoch (some tgt) 1 0) s := by
  rw [modeRequest, run_look, if_neg h1, if_neg (by tauto)]

theorem run_modeRequest_lean {s : State} {step : Nat} :
    run (modeRequest modeLean step) s = run (if s.opMode = modeLean then raise F.SYS_MODE_EVT_CAUSE_MODE_DONE 0
      else requestEpoch (some modeLean) 1 0) (run (setReqStep step) s) := by
  rw [modeRequest, run_look, if_pos rfl]
  rfl

theorem run_modeRequest_openFromLean {s : State} {step : Nat} (h : s.opMode = modeLean) :
    run (modeRequest modeOpen step) s = run (if 0 < s.fld F.THM_STATUS_STEP 0 then raise F.SYS_MODE_EVT_CAUSE_MODE_DONE 0
      else requestEpoch (some modeOpen) 1 0) (run (setReqStep 0) s) := by
  rw [modeRequest, run_look, if_neg (by decide), if_pos ⟨rfl, h⟩]
  rfl

/-- The automatic change that is due is one to OPEN, LEAN or SEALED. -/
theorem autoDue_lt {s : State} {tgt cause : Nat} (h : s.autoDue = some (tgt, cause)) : tgt < 8 := by
  unfold State.autoDue at h
  split_ifs at h <;> simp only [Option.some.injEq, Prod.mk.injEq, reduceCtorEq] at h <;> obtain ⟨rfl, -⟩ := h <;> decide

/-- The code of a fault is 0x0, 0x3 or 0x4. -/
theorem requestFault_lt (s : State) (tgt step : Nat) : s.requestFault tgt step < 16 := by
  unfold State.requestFault
  split_ifs <;> decide

section
variable {s : State} {r : Req} {v : Word} {c : Instr} {l : List Nat} (h : s.takes r .SYS_MODE_REQ 0 = true) (hgo : v.getLsbD 31 = true)
  (hc : exec c s = .next (run (onModeReq r v l) s)) (hl : bits v 0 3 ∈ l)
include h hgo hc hl

/-- A permitted request of DRAIN, SEALED, PROVING or SETUP takes the next epoch. -/
theorem modeReq_plain {tgt : Nat} (ht : bits v 0 3 = tgt) (h0 : s.requestFault tgt (bits v 4 2) = 0) (h1 : tgt ≠ modeLean)
    (h2 : tgt ≠ modeOpen ∨ s.opMode ≠ modeLean) : exec c s = .next (run (requestEpoch (some tgt) 1 0) s) := by
  subst ht
  rw [hc, run_onModeReq h hgo hl, if_pos h0, run_modeRequest_plain h1 h2]

/-- A request with a fault is rejected with its code, and changes neither mode nor epoch. -/
theorem modeReq_fault (h0 : s.requestFault (bits v 0 3) (bits v 4 2) ≠ 0) :
    Completes c s fun t => t.rawFld F.SYS_STATUS_REJECT 0 = s.requestFault (bits v 0 3) (bits v 4 2) ∧
      t.evt.turned = s.evt.turned + 1 ∧ t.newEpoch = s.newEpoch ∧ t.opMode = s.opMode ∧ t.mode = s.mode := by
  refine completes_run hc ?_
  rw [run_onModeReq h hgo hl, if_neg h0]
  have hf := reject_own .sys (s.asReq r) (regAddr .SYS_MODE_REQ 0) (s.requestFault (bits v 0 3) (bits v 4 2)) 0
  exact ⟨reject_code .sys _ _ _ _ _ (requestFault_lt _ _ _), reject_turned _ _ _ _ _ _,
    congrArg (BitVec.ofNat 16) (hf.fld F.SYS_EPOCH_REQUESTED 0 s), hf.fld F.SYS_MODE_MODE 0 s, hf.mode s⟩

end

/-- Settles O12: a permitted request takes the next epoch (LEAN and OPEN from LEAN by way of the requested step), a faulty one is rejected
with the code of its fault, and an automatic change takes the next epoch with its cause. -/
theorem modesAreRequested : Obligations.ModesAreRequested := by
  refine ⟨fun s r v h hgo => ⟨fun ht h0 => ?_, fun ht h0 => ?_, fun ht h0 => ?_, fun ht h0 => ?_, fun ht h0 => ?_, fun ht h0 => ?_⟩,
    fun s r v h hgo h0 c hc => ?_, fun s tgt cause hh hp hd => ?_⟩
  · refine completes_run (modeReq_plain h hgo rfl (by simp [ht]) ht h0 (by decide) (.inl (by decide))) ?_
    refine ⟨requestEpoch_underWay _ _ _ _ (by decide), ?_⟩
    rw [(requestEpoch_spec _ _ _ _).2.2.2]
    rfl
  · exact completes_run (modeReq_plain h hgo rfl (by simp [ht]) ht h0 (by decide) (.inl (by decide)))
      (requestEpoch_underWay _ _ _ _ (by decide))
  · exact completes_run (modeReq_plain h hgo rfl (by simp [ht]) ht h0 (by decide) (.inl (by decide)))
      (requestEpoch_underWay _ _ _ _ (by decide))
  · exact completes_run (modeReq_plain h hgo rfl (by simp [ht]) ht h0 (by decide) (.inl (by decide)))
      (requestEpoch_underWay _ _ _ _ (by decide))
  · refine completes_run rfl ?_
    rw [run_onModeReq h hgo (by simp [ht]), ht, if_pos h0, run_modeRequest_lean]
    have hstep : bits v 4 2 < 4 := bits_lt v 4 2
    by_cases hm : s.opMode = modeLean
    · rw [if_pos hm, if_pos hm, (raise_own _ _).fld _ _ _]
      exact ⟨setReqStep_step _ _ hstep,
        (congrArg (BitVec.ofNat 16) ((raise_own _ _).fld F.SYS_EPOCH_REQUESTED 0 _)).trans (setReqStep_newEpoch _ _)⟩
    · rw [if_neg hm, if_neg hm, requestEpoch_fld _ _ _ _ _ _ (by decide) (by decide) (by decide) (by decide) (by decide)]
      exact ⟨setReqStep_step _ _ hstep, modeUnderWay_of_same (setReqStep_opMode _ _) (setReqStep_newEpoch _ _)
        (requestEpoch_underWay _ _ _ _ (by decide))⟩
  · by_cases hm : s.opMode = modeLean
    · refine completes_run rfl ?_
      rw [run_onModeReq h hgo (by simp [ht]), ht, if_pos h0, run_modeRequest_openFromLean hm, if_pos hm]
      by_cases hs : 0 < s.fld F.THM_STATUS_STEP 0
      · rw [if_pos hs, if_pos hs, (raise_own _ _).fld _ _ _]
        exact ⟨setReqStep_step _ _ (by decide),
          (congrArg (BitVec.ofNat 16) ((raise_own _ _).fld F.SYS_EPOCH_REQUESTED 0 _)).trans (setReqStep_newEpoch _ _)⟩
      · rw [if_neg hs, if_neg hs, requestEpoch_fld _ _ _ _ _ _ (by decide) (by decide) (by decide) (by decide) (by decide)]
        exact ⟨setReqStep_step _ _ (by decide), modeUnderWay_of_same (setReqStep_opMode _ _) (setReqStep_newEpoch _ _)
          (requestEpoch_underWay _ _ _ _ (by decide))⟩
    · refine completes_run (modeReq_plain h hgo rfl (by simp [ht]) ht h0 (by decide) (.inr hm)) ?_
      rw [if_neg hm]
      exact requestEpoch_underWay _ _ _ _ (by decide)
  · rcases hc with ⟨rfl, ht⟩ | ⟨rfl, ht⟩ | ⟨rfl, ht⟩ | ⟨rfl, ht⟩ | ⟨rfl, ht⟩ | ⟨rfl, ht⟩ <;>
      exact modeReq_fault h hgo rfl (by simp [ht]) h0
  · refine completes_run rfl ?_
    rw [run_coreDo _ _ hh, autoModeChange, run_look, run_when_eq_true (by simp [hp])]
    simp only [hd]
    exact ⟨requestEpoch_underWay _ _ _ _ (autoDue_lt hd), by rw [(requestEpoch_spec _ _ _ _).2.2.2]⟩

end Sys2Proof.Machine
end

section
/-!
PROOF. The end of SETUP (R334) and the built-in tests of PROVING (R351).
-/
set_option Elab.async false
namespace Sys2Proof.Machine

/-! ### What a test leaves behind -/

theorem proveLeaves_tiles (s : State) : (run (proveLeaves proveTiles) s).tiles = [] ∧ (run (proveLeaves proveTiles) s).copies = [] := by
  have hf (l : List Nat) : (each l fun k => setF F.AISLE_TILE_CFG_USED (k / 256) 0).Framed [.regs, .live] [.AISLE_TILE_CFG] :=
    .each fun _ _ => (setF_own _ _ _).widen
  have hnil {α : Type} (t : Tab α) : tabKeep t (fun _ => false) = [] := by simp [tabKeep]
  simp only [proveLeaves, if_true, run_acts_cons, run_acts_nil, run_look]
  exact ⟨((hf _).tiles _).trans (hnil _), ((hf _).copies _).trans (hnil _)⟩

theorem proveLeaves_ledgers (s : State) (q : Nat) (hq : q < 4) :
    ((run (proveLeaves proveLedgers) s).qtr q).ways = [] ∧ ((run (proveLeaves proveLedgers) s).qtr q).stash = [] := by
  refine each_all (p := fun q s => (s.qtr q).ways = [] ∧ (s.qtr q).stash = []) (fun q s => ?_) (fun x q s h => ?_) (List.range 4) s q
    (List.mem_range.2 hq)
  · simp only [run_acts_cons, run_acts_nil]
    rw [(setF_own _ _ _).qtr _ _, (setF_own _ _ _).qtr _ _, run_modQtr_self]
    exact ⟨rfl, rfl⟩
  · simp only [run_acts_cons, run_acts_nil]
    rw [(setF_own _ _ _).qtr _ _, (setF_own _ _ _).qtr _ _, run_modQtr]
    split
    · exact ⟨rfl, rfl⟩
    · exact h

theorem proveLeaves_crier (s : State) (q : Nat) (hq : q < 4) :
    ((run (proveLeaves proveCrier) s).qtr q).fifo = [] ∧ ((run (proveLeaves proveCrier) s).qtr q).inNotes = [] ∧
      ((run (proveLeaves proveCrier) s).qtr q).seqNext = 0 := by
  refine each_all (p := fun q s => (s.qtr q).fifo = [] ∧ (s.qtr q).inNotes = [] ∧ (s.qtr q).seqNext = 0) (fun q s => ?_) (fun x q s h => ?_)
    (List.range 4) s q (List.mem_range.2 hq)
  · rw [run_modQtr_self]
    exact ⟨rfl, rfl, rfl⟩
  · rw [run_modQtr]
    split
    · exact ⟨rfl, rfl, rfl⟩
    · exact h

/-! ### The end of a test -/

/-- The verdict of a test: CSTORE also fails where a control store differs from the verified copy. -/
def State.proveFails (s : State) (t : Nat) (fail : Bool) : Bool := fail || (t == proveCstore && !((List.range 17).all s.storeAgrees))

theorem proveFails_iff (s : State) (t : Nat) (fail : Bool) :
    s.proveFails t fail = true ↔ fail = true ∨ (t = proveCstore ∧ ∃ c, c < 17 ∧ s.storeAgrees c = false) := by
  simp [State.proveFails]

/-- The clearance of BUSY that follows the last test. -/
def proveLast : Act := acts [setB F.SYS_PROVE_STATUS_BUSY 0 false, raise F.SYS_MODE_EVT_CAUSE_PROVE_DONE 0,
  .look fun s => when (decide (0 < s.fld F.SYS_PROVE_STATUS_FAIL 0)) (raise F.SYS_MODE_EVT_CAUSE_PROVE_FAIL 0)]

theorem proveLast_framed : proveLast.Framed occurParts (.SYS_PROVE_STATUS :: .SYS_MODE_EVT_CAUSE :: occurRegs) :=
  .acts ⟨(setB_own _ _ _).widen, (raise_own _ _).widen, .look fun _ => .when (raise_own _ _).widen, trivial⟩

theorem proveLast_fld (f : Fld) (s : State) (hf : f.held = true) (h : Fld.apart F.SYS_PROVE_STATUS_BUSY f = true)
    (hr : (Reg.SYS_MODE_EVT_CAUSE :: occurRegs).contains f.reg = false) : (run proveLast s).fld f 0 = s.fld f 0 := by
  simp only [proveLast, run_acts_cons, run_acts_nil, run_look]
  rw [((raise_own F.SYS_MODE_EVT_CAUSE_PROVE_FAIL 0).when).fld _ _ _ hr, (raise_own F.SYS_MODE_EVT_CAUSE_PROVE_DONE 0).fld _ _ _ hr,
    setB_fld_apart _ _ _ _ _ _ hf h]

theorem proveLast_done (s : State) :
    (run proveLast s).bit F.SYS_PROVE_STATUS_BUSY 0 = false ∧ (run proveLast s).rawFld F.SYS_MODE_EVT_CAUSE_PROVE_DONE 0 = 1 := by
  simp only [proveLast, run_acts_cons, run_acts_nil, run_look]
  rw [((raise_own F.SYS_MODE_EVT_CAUSE_PROVE_FAIL 0).when).bit _ _ _, (raise_own F.SYS_MODE_EVT_CAUSE_PROVE_DONE 0).bit _ _ _,
    setB_bit _ _ _ _ (by decide) rfl, run_when]
  refine ⟨rfl, ?_⟩
  split
  · rw [raise_rawFld_apart _ _ _ _ _ (by decide) (by decide) (by decide), raise_rawFld _ _ _ (by decide) rfl (by decide)]
  · rw [raise_rawFld _ _ _ (by decide) rfl (by decide)]

/-- The marks that the end of a test leaves in the mode state and in SYS_PROVE_STATUS. -/
def proveMarks (s : State) (t : Nat) (fail : Bool) (detail : List Word) : Act :=
  acts [modMode fun m => { m with
      proveSel := s.mode.proveSel - 2 ^ t
      proveAt := s.time.words
      proveRes := tabPut m.proveRes [] t ((if s.proveFails t fail then 3#32 else 1#32) :: (detail.take 6)) },
    setF F.SYS_PROVE_STATUS_DONE 0 (s.fld F.SYS_PROVE_STATUS_DONE 0 ||| 2 ^ t),
    when (s.proveFails t fail) (setF F.SYS_PROVE_STATUS_FAIL 0 (s.fld F.SYS_PROVE_STATUS_FAIL 0 ||| 2 ^ t)),
    when (s.mode.proveSel - 2 ^ t == 0) proveLast]

theorem proveMarks_framed (s : State) (t : Nat) (fail : Bool) (d : List Word) : (proveMarks s t fail d).Framed (.mode :: occurParts)
    (.SYS_PROVE_STATUS :: .SYS_MODE_EVT_CAUSE :: occurRegs) :=
  .acts ⟨(modMode_framed _).widen, (setF_own _ _ _).widen, .when (setF_own _ _ _).widen, .when proveLast_framed.widen, trivial⟩

theorem run_proveTestDone {s : State} {t : Nat} (hb : s.bit F.SYS_PROVE_STATUS_BUSY 0 = true) (hn : s.proveNext = some t)
    (hf : t = proveBuffer → s.allFree = true) (ha : s.aged (s.proveFrom t) (proveNs t) = true) (fail : Bool) (d : List Word) :
    run (proveTestDone t fail d) s = run (proveMarks s t fail d) (run (proveLeaves t) s) := by
  rw [proveTestDone, run_look, run_when_eq_true]
  · rfl
  · have : (t != proveBuffer || s.allFree) = true := by
      by_cases h : t = proveBuffer <;> simp [h, hf]
    simp [hb, hn, this, ha]

section
variable (s : State) (t : Nat) (fail : Bool) (d : List Word)

theorem proveMarks_sel : (run (proveMarks s t fail d) (run (proveLeaves t) s)).mode.proveSel = s.mode.proveSel - 2 ^ t := by
  simp only [proveMarks, run_acts_cons, run_acts_nil]
  rw [(proveLast_framed.when).mode _, ((setF_own _ _ _).when).mode _, (setF_own _ _ _).mode _, run_modMode]

theorem or_bit_lt {a t : Nat} (ha : a < 2 ^ 6) (ht : t < 6) : (a ||| 2 ^ t) % 2 ^ 6 = a ||| 2 ^ t :=
  Nat.mod_eq_of_lt (Nat.or_lt_two_pow ha (Nat.pow_lt_pow_right (by decide) ht))

theorem proveMarks_done (ht : t < 6) :
    (run (proveMarks s t fail d) (run (proveLeaves t) s)).fld F.SYS_PROVE_STATUS_DONE 0 = s.fld F.SYS_PROVE_STATUS_DONE 0 ||| 2 ^ t := by
  have hlast (b : Bool) (u : State) : (run (when b proveLast) u).fld F.SYS_PROVE_STATUS_DONE 0 = u.fld F.SYS_PROVE_STATUS_DONE 0 := by
    cases b
    · rfl
    · exact proveLast_fld _ _ (by decide) (by decide) (by decide)
  have hfail (b : Bool) (x : Nat) (u : State) : (run (when b (setF F.SYS_PROVE_STATUS_FAIL 0 x)) u).fld F.SYS_PROVE_STATUS_DONE 0 =
      u.fld F.SYS_PROVE_STATUS_DONE 0 := by
    cases b
    · rfl
    · exact setF_fld_apart _ _ _ _ _ _ (by decide) (by decide)
  simp only [proveMarks, run_acts_cons, run_acts_nil]
  rw [hlast, hfail, setF_fld _ _ _ _ (by decide)]
  exact or_bit_lt (fld_lt s F.SYS_PROVE_STATUS_DONE 0) ht

theorem proveMarks_fail (ht : t < 6) : (run (proveMarks s t fail d) (run (proveLeaves t) s)).fld F.SYS_PROVE_STATUS_FAIL 0 =
    if s.proveFails t fail then s.fld F.SYS_PROVE_STATUS_FAIL 0 ||| 2 ^ t else s.fld F.SYS_PROVE_STATUS_FAIL 0 := by
  have hlast (b : Bool) (u : State) : (run (when b proveLast) u).fld F.SYS_PROVE_STATUS_FAIL 0 = u.fld F.SYS_PROVE_STATUS_FAIL 0 := by
    cases b
    · rfl
    · exact proveLast_fld _ _ (by decide) (by decide) (by decide)
  simp only [proveMarks, run_acts_cons, run_acts_nil]
  rw [hlast, run_when]
  split
  · rw [setF_fld _ _ _ _ (by decide)]
    exact or_bit_lt (fld_lt s F.SYS_PROVE_STATUS_FAIL 0) ht
  · rw [setF_fld_apart _ _ _ _ _ _ (by decide) (by decide), (modMode_framed _).fld _ _ _, (proveLeaves_framed _).fld _ _ _]

theorem proveMarks_last (h : s.mode.proveSel = 2 ^ t) : (run (proveMarks s t fail d) (run (proveLeaves t) s)).bit F.SYS_PROVE_STATUS_BUSY 0 = false ∧
    (run (proveMarks s t fail d) (run (proveLeaves t) s)).rawFld F.SYS_MODE_EVT_CAUSE_PROVE_DONE 0 = 1 := by
  have h0 : (s.mode.proveSel - 2 ^ t == 0) = true := by simp [h]
  simp only [proveMarks, run_acts_cons, run_acts_nil, h0, run_when_true]
  exact proveLast_done _

end

/-- Settles O13: SETUP ends with the request of an epoch, GO starts the tests, and each test ends with its bits and what it leaves behind. -/
theorem setupEndsAndTestsRun : Obligations.SetupEndsAndTestsRun := by
  refine ⟨fun s hh hm hp hs hz hc hr => ?_, fun s r v h hgo => ?_, fun s k fail d hh hb hn hf ha => ?_, fun s k fail d ha => ?_⟩
  · refine completes_run rfl ?_
    rw [run_coreDo _ _ hh, setupComplete, run_look, run_when_eq_true (by simp [hm]), if_neg (by simp [hs]),
      run_when_eq_true (by simp [hp, hs, hz, hc, hr])]
    exact requestEpoch_underWay _ _ _ _ (by split <;> decide)
  · refine completes_run rfl ?_
    rw [proveGo, run_onWrite h, run_when_eq_true hgo, run_look]
    dsimp only
    split
    · exact ⟨reject3_turned .sys _ _ _ _, (reject3_own _ _ _ _).mode _⟩
    · split
      · exact ⟨reject_code .sys _ _ _ _ _ (by decide), (reject_own _ _ _ _ _).mode _⟩
      · simp only [run_acts_cons, run_acts_nil]
        rw [(modMode_framed _).bit _ _ _, (modMode_framed _).fld _ _ _, (modMode_framed _).fld _ _ _, run_modMode,
          setF_bit_apart _ _ _ _ _ _ (by decide) (by decide), setF_bit_apart _ _ _ _ _ _ (by decide) (by decide),
          setB_bit _ _ _ _ (by decide) rfl, setF_fld_apart _ _ _ _ _ _ (by decide) (by decide), setF_fld _ _ _ _ (by decide),
          setF_fld _ _ _ _ (by decide)]
        exact ⟨rfl, rfl, rfl, rfl⟩
  · refine completes_run rfl ?_
    rw [run_coreDo _ _ hh, run_proveTestDone hb hn hf ha]
    refine ⟨proveMarks_sel _ _ _ _, proveMarks_done _ _ _ _ k.2, ?_, proveMarks_last _ _ _ _, fun hk => ?_, fun hk q hq => ?_, fun hk q hq => ?_⟩
    · rw [proveMarks_fail _ _ _ _ k.2]
      simp only [proveFails_iff]
    · rw [(proveMarks_framed _ _ _ _).tiles _, (proveMarks_framed _ _ _ _).copies _, hk]
      exact proveLeaves_tiles s
    · rw [(proveMarks_framed _ _ _ _).qtr _ _, hk]
      exact proveLeaves_ledgers s q hq
    · rw [(proveMarks_framed _ _ _ _).qtr _ _, hk]
      exact proveLeaves_crier s q hq
  · refine completes_run rfl ?_
    rw [coreDo, run_look, proveTestDone, run_when]
    split
    · rw [run_look, run_when_eq_false (by simp [ha])]
    · rfl

end Sys2Proof.Machine
end

section
/-!
PROOF. Rebuilds of a slot into a relief tile, and the copy assay (R106, R120 to R125).
-/
set_option Elab.async false
namespace Sys2Proof.Machine

/-! ### Entries of a tile -/

theorem tkey_eq (a t i : Nat) : tkey a t i = tileN a t * 2048 + i := rfl

theorem tkey_inj {a t i j : Nat} : tkey a t i = tkey a t j ↔ i = j := by unfold tkey; omega

theorem mem_tileEntries {s : State} {a t : Nat} {e : Nat × Tile} :
    e ∈ s.tileEntries a t ↔ e.1 < 2048 ∧ (tkey a t e.1, e.2) ∈ s.tiles := by
  simp only [State.tileEntries, List.mem_map, List.mem_filter, decide_eq_true_eq]
  simp only [tkey]
  constructor
  · rintro ⟨⟨k, x⟩, ⟨hm, hlo, hhi⟩, rfl⟩
    dsimp only at *
    exact ⟨by omega, by rwa [show tileN a t * 2048 + (k - (tileN a t * 2048 + 0)) = k by omega]⟩
  · rintro ⟨hi, hm⟩
    exact ⟨_, ⟨hm, by dsimp only; omega, by dsimp only; omega⟩, Prod.ext (by dsimp only; omega) rfl⟩

/-- What a table answers at a key is listed there, or is the default. -/
theorem tabGet_mem {α : Type} (t : Tab α) (d : α) (k : Nat) : (k, tabGet t d k) ∈ t ∨ tabGet t d k = d := by
  induction t with
  | nil => exact .inr rfl
  | cons e r ih =>
    obtain ⟨i, v⟩ := e
    rw [tabGet]
    split
    · next h => subst h; exact .inl (by simp)
    · exact ih.imp (List.mem_cons_of_mem _) id

/-- A valid entry is listed. -/
theorem mem_tileEntries_of_valid {s : State} {a t i : Nat} (hi : i < 2048) (h : (s.tile (tkey a t i)).valid = true) :
    (i, s.tile (tkey a t i)) ∈ s.tileEntries a t := by
  rw [mem_tileEntries]
  refine ⟨hi, (tabGet_mem s.tiles {} (tkey a t i)).resolve_right fun hd => ?_⟩
  rw [State.tile, hd] at h
  exact absurd h (by decide)

/-- In a well-formed state the indices of a tile's entries are distinct. -/
theorem tileEntries_nodup {s : State} (h : s.wf = true) (a t : Nat) : ((s.tileEntries a t).map (·.1)).Nodup := by
  have hp : s.tiles.Pairwise fun x y => x.1 < y.1 := ((tabWf_iff _ _).1 ((wf_iff s).1 h).tiles).1
  unfold State.tileEntries
  rw [List.map_map, List.Nodup, List.pairwise_map]
  refine (hp.filter _).imp_of_mem fun {x y} hx hy hlt => ?_
  simp only [List.mem_filter, decide_eq_true_eq] at hx hy
  simp only [Function.comp]
  omega

theorem tile_put (s : State) (a t e : Nat) (x : Tile) (k : Nat) :
    (run (putTile a t e x) s).tile k = if k = tkey a t e then x else s.tile k := by
  simp only [putTile, run_acts_cons, run_acts_nil, run_upd]
  rw [State.tile, applyUpd_tiles _ _ (by simp [Upd.part]), ← State.tile, tile_applyUpd]

/-! ### Copying a rule slot (R122) -/

/-- The state of a channel that copies: its state and its parameters. -/
structure State.copying (s : State) (a k : Nat) (c : RebuildS) : Prop where
  state : s.rbState a k = rbCopy
  chan : s.rebuildC (chanN a k) = c

theorem State.copying.of_framed {s : State} {a k : Nat} {c : RebuildS} (h : s.copying a k c) {P : List Part} {R : List Reg} {x : Act}
    (hx : x.Framed P R) (hP : P.contains .rebuild = false := by decide) (hR : R.contains .AISLE_REBUILD_STATUS = false := by decide) :
    (run x s).copying a k c :=
  ⟨(hx.fld _ _ _ hR).trans h.state, (hx.rebuildC _ _ hP).trans h.chan⟩

theorem State.copying.of_progress {s : State} {a k : Nat} {c : RebuildS} (h : s.copying a k c) (n v : Nat) :
    (run (setF F.AISLE_REBUILD_STATUS_PROGRESS n v) s).copying a k c :=
  ⟨(setF_fld_apart _ _ _ _ _ _ (by decide) (by decide)).trans h.state, ((setF_own _ _ _).rebuildC _ _).trans h.chan⟩

/-- The mark of progress that follows an entry copied. -/
def copyMark (a k i : Nat) (c : RebuildS) : Act :=
  .look fun s => when (s.rbState a k == rbCopy) (acts [countMove a,
    setF F.AISLE_REBUILD_STATUS_PROGRESS (chanN a k) (min (i + 1) (s.tileSize a c.target - 1))])

theorem copyMark_framed (a k i : Nat) (c : RebuildS) : (copyMark a k i c).Framed [.cnt, .regs, .live] [.AISLE_REBUILD_STATUS] :=
  .look fun _ => .when (.acts ⟨(countMove_framed _).widen, (setF_own _ _ _).widen, trivial⟩)

theorem copyMark_copying {s : State} {a k : Nat} {c : RebuildS} (h : s.copying a k c) (i : Nat) (d : RebuildS) :
    (run (copyMark a k i d) s).copying a k c := by
  rw [copyMark, run_look, run_when_eq_true (by simp [h.state])]
  exact (h.of_framed (countMove_framed a)).of_progress _ _

theorem copyMark_skip {s : State} {a k : Nat} (h : s.rbState a k ≠ rbCopy) (i : Nat) (c : RebuildS) : run (copyMark a k i c) s = s := by
  rw [copyMark, run_look, run_when_eq_false (by simp [h])]

/-- A copy goes on with the next entry. -/
theorem run_rebuildEntries_cons {s : State} {a k : Nat} {c : RebuildS} (h : s.copying a k c) (i : Nat) (x : Tile) (r : List (Nat × Tile)) :
    run (rebuildEntries a k ((i, x) :: r)) s = run (rebuildEntries a k r) (run (when x.valid (acts [
      (if c.rule then acts [putTile a c.target i x,
        setUsed a c.target (s.used a c.target + (if (s.tile (tkey a c.target i)).valid then 0 else 1))] else targetPut a k x),
      copyMark a k i c])) s) := by
  rw [rebuildEntries, run_look, if_neg (by simp [h.state]), h.chan]
  rfl

/-- A channel that has ended its copy copies no more. -/
theorem run_rebuildEntries_ended {s : State} {a k : Nat} (h : s.rbState a k ≠ rbCopy) (l : List (Nat × Tile)) :
    run (rebuildEntries a k l) s = s := by
  cases l with
  | nil => rfl
  | cons e r => rw [rebuildEntries, run_look, if_pos h]; rfl

/-- The copy of a rule slot puts each valid entry at its place in the target and leaves the other places of the target alone. -/
theorem rebuildEntries_rule {a k : Nat} {c : RebuildS} (hr : c.rule = true) (l : List (Nat × Tile)) (hd : (l.map (·.1)).Nodup) :
    ∀ s : State, s.copying a k c → (run (rebuildEntries a k l) s).copying a k c ∧
      (∀ e ∈ l, e.2.valid = true → (run (rebuildEntries a k l) s).tile (tkey a c.target e.1) = e.2) ∧
      ∀ i, i ∉ l.map (·.1) → (run (rebuildEntries a k l) s).tile (tkey a c.target i) = s.tile (tkey a c.target i) := by
  induction l with
  | nil => exact fun s h => ⟨h, by simp, fun _ _ => rfl⟩
  | cons e r ih =>
    obtain ⟨i, x⟩ := e
    intro s h
    rw [List.map_cons, List.nodup_cons] at hd
    rw [run_rebuildEntries_cons h, if_pos hr]
    cases hv : x.valid with
    | false =>
      obtain ⟨h1, h2, h3⟩ := ih hd.2 s h
      refine ⟨h1, fun e he hev => ?_, fun j hj => h3 j (by simp at hj ⊢; tauto)⟩
      rcases List.mem_cons.1 he with rfl | he
      · simp [hv] at hev
      · exact h2 e he hev
    | true =>
      have hput : (acts [putTile a c.target i x, setUsed a c.target (s.used a c.target + (if (s.tile (tkey a c.target i)).valid then 0
          else 1))]).Framed [.copies, .tiles, .regs, .live] [.AISLE_TILE_CFG] :=
        .acts ⟨(putTile_framed _ _ _ _).widen, (setUsed_framed _ _ _).widen, trivial⟩
      have htile (j : Nat) : (run (acts [acts [putTile a c.target i x, setUsed a c.target (s.used a c.target +
          (if (s.tile (tkey a c.target i)).valid then 0 else 1))], copyMark a k i c]) s).tile (tkey a c.target j) =
          if j = i then x else s.tile (tkey a c.target j) := by
        simp only [run_acts_cons, run_acts_nil]
        rw [(copyMark_framed _ _ _ _).tile _ _, (setUsed_framed _ _ _).tile _ _, tile_put]
        simp only [tkey_inj]
      obtain ⟨h1, h2, h3⟩ := ih hd.2 _ (copyMark_copying (h.of_framed hput) i c)
      refine ⟨h1, fun e he hev => ?_, fun j hj => ?_⟩
      · rcases List.mem_cons.1 he with rfl | he
        · refine (h3 i hd.1).trans ((htile i).trans (if_pos rfl))
        · exact h2 e he hev
      · rw [List.map_cons, List.mem_cons, not_or] at hj
        exact (h3 j hj.2).trans ((htile j).trans (if_neg hj.1))

/-- REBUILD_COPY_DONE copies the entries, and waits for the packet boundary where the copy has not failed. -/
theorem run_rebuildCopyDone {s : State} {a k : Nat} {c : RebuildS} (h : s.copying a k c) (src : Nat)
    (hs : (if c.rule then s.ruleTile a c.slot else s.lpmTile a c.slot) = src) :
    run (rebuildCopyDone a k) s = run (.look fun t => when (t.rbState a k == rbCopy)
      (acts [setF F.AISLE_REBUILD_STATUS_PROGRESS (chanN a k) (t.tileSize a src - 1),
        setF F.AISLE_REBUILD_STATUS_STATE (chanN a k) rbSwitch])) (run (rebuildEntries a k (s.tileEntries a src)) s) := by
  rw [rebuildCopyDone, run_look, run_when_eq_true (by simp [h.state]), h.chan, hs]
  rfl

/-- A copy that has not failed ends in SWITCH, and its end leaves the tiles. -/
theorem copyEnd_switch {t : State} {a k : Nat} (h : t.rbState a k = rbCopy) (src : Nat) :
    (run (.look fun t => when (t.rbState a k == rbCopy)
      (acts [setF F.AISLE_REBUILD_STATUS_PROGRESS (chanN a k) (t.tileSize a src - 1),
        setF F.AISLE_REBUILD_STATUS_STATE (chanN a k) rbSwitch])) t).rbState a k = rbSwitch := by
  rw [run_look, run_when_eq_true (by simp [h])]
  exact setF_fld _ _ _ _ (by decide)

theorem copyEnd_framed (a k src : Nat) : (Act.look fun t => when (t.rbState a k == rbCopy)
    (acts [setF F.AISLE_REBUILD_STATUS_PROGRESS (chanN a k) (t.tileSize a src - 1),
      setF F.AISLE_REBUILD_STATUS_STATE (chanN a k) rbSwitch])).Framed [.regs, .live] [.AISLE_REBUILD_STATUS] :=
  .look fun _ => .when (.acts ⟨(setF_own _ _ _).widen, (setF_own _ _ _).widen, trivial⟩)

end Sys2Proof.Machine
end

section
/-!
PROOF. The copy of an LPM slot (R117, R122): while every entry lies in the new band the target holds entries of that band only; an entry
outside it, or one that finds no room, ends the copy.
-/
set_option Elab.async false
namespace Sys2Proof.Machine

/-- An entry lies in the band of a rebuild. -/
def RebuildS.has (c : RebuildS) (x : Tile) : Prop := c.lmin ≤ x.plen ∧ x.plen ≤ c.lmax

/-- Every valid entry of the target lies in the new band. -/
def State.inBand (s : State) (a : Nat) (c : RebuildS) : Prop := ∀ e ∈ s.tileEntries a c.target, e.2.valid = true → c.has e.2

/-- The copy has ended with RESULT 5. -/
structure State.copyFailed (s : State) (a k : Nat) : Prop where
  state : s.rbState a k = rbClear
  result : s.fld F.AISLE_REBUILD_STATUS_RESULT (chanN a k) = 5
  cause : s.rawFld F.AISLE_SRCH_EVT_CAUSE_REBUILD_FAIL a = 1

theorem rebuildFail_copyFailed (a k : Nat) (s : State) : (run (rebuildFail a k 5) s).copyFailed a k := by
  refine ⟨?_, ?_, ?_⟩ <;> simp only [State.rbState, rebuildFail, run_acts_cons, run_acts_nil]
  · rw [(count_own _ _ _ _).fld _ _ _, (raise_own _ _).fld _ _ _, (modRebuild_framed _ _).fld _ _ _,
      setF_fld_apart _ _ _ _ _ _ (by decide) (by decide), setF_fld _ _ _ _ (by decide)]
    rfl
  · rw [(count_own _ _ _ _).fld _ _ _, (raise_own _ _).fld _ _ _, (modRebuild_framed _ _).fld _ _ _,
      setF_fld_apart _ _ _ _ _ _ (by decide) (by decide), setF_fld_apart _ _ _ _ _ _ (by decide) (by decide), setF_fld _ _ _ _ (by decide)]
    rfl
  · rw [(count_own _ _ _ _).rawFld _ _ _, raise_rawFld _ _ _ (by decide) rfl (by decide)]

/-! ### Tiles that keep to the band -/

section
variable {s : State} {a : Nat} {c : RebuildS}

theorem State.inBand.of_framed (h : s.inBand a c) {P : List Part} {R : List Reg} {x : Act} (hx : x.Framed P R)
    (hP : P.contains .tiles = false := by decide) : (run x s).inBand a c := by
  unfold State.inBand State.tileEntries at *
  rwa [hx.tiles _ hP]

theorem State.inBand.tile (h : s.inBand a c) {i : Nat} (hi : i < 2048) (hv : (s.tile (tkey a c.target i)).valid = true) :
    c.has (s.tile (tkey a c.target i)) :=
  h (i, s.tile (tkey a c.target i)) (mem_tileEntries_of_valid hi hv) hv

theorem State.inBand.put (h : s.inBand a c) (t e : Nat) {x : Tile} (hx : x.valid = true → c.has x) : (run (putTile a t e x) s).inBand a c := by
  intro y hy hv
  rw [mem_tileEntries] at hy
  have hy2 : (tkey a c.target y.1, y.2) ∈ tabPut s.tiles {} (tkey a t e) x := hy.2
  rcases mem_tabPut _ _ _ _ _ hy2 with he | he
  · rw [Prod.mk.injEq] at he
    rw [he.2] at hv ⊢
    exact hx hv
  · exact h y (mem_tileEntries.2 ⟨hy.1, he⟩) hv

theorem State.inBand.move (h : s.inBand a c) {i : Nat} (hi : i < 2048) (j : Nat) : (run (moveTile a c.target i j) s).inBand a c := by
  simp only [moveTile, clearValid, run_look, run_acts_cons, run_acts_nil]
  exact (h.put _ _ (h.tile hi)).put _ _ nofun

theorem State.inBand.chain (l : List Nat) (hl : ∀ i ∈ l, i < 2048) (hole : Nat) :
    ∀ s : State, s.inBand a c → (run (chainMoves a c.target hole l).1 s).inBand a c := by
  induction l generalizing hole with
  | nil => exact fun _ h => h
  | cons i r ih =>
    intro s h
    have ih' := fun s h => ih (fun j hj => hl j (by simp [hj])) i s h
    rw [chainMoves]
    split
    · exact ih' s h
    · simp only [run_acts_cons, run_acts_nil]
      exact ih' _ ((h.move (hl i (by simp)) hole).of_framed (countMove_framed a))

theorem groupStarts_lt {l : List Nat} {n i : Nat} (h : i ∈ groupStarts l n) : i < l.length := by
  simp only [groupStarts, List.mem_reverse, List.mem_filter, List.mem_range] at h
  exact h.1

theorem State.inBand.place (h : s.inBand a c) {x : Tile} (hx : c.has x) (hu : s.used a c.target < 2048) :
    (run (placeNew a c.target x) s).inBand a c := by
  simp only [placeNew, run_look, run_acts_cons, run_acts_nil]
  refine ((State.inBand.chain _ (fun i hi => ?_) _ s h).put _ _ fun _ => hx).of_framed (setUsed_framed _ _ _)
  have := groupStarts_lt hi
  rw [State.lens, List.length_map, List.length_range] at this
  omega

end

/-! ### One entry put in the target -/

/-- After an entry has been put in the target, the copy goes on, with at most one more entry in it. -/
structure State.tookOne (s t : State) (a k : Nat) (c : RebuildS) : Prop where
  copying : t.copying a k c
  inBand : t.inBand a c
  used : t.used a c.target ≤ s.used a c.target + 1
  size : t.tileSize a c.target = s.tileSize a c.target

theorem setUsed_used (a t n : Nat) (s : State) : (run (setUsed a t n) s).used a t = n % 4096 := setF_fld _ _ _ _ (by decide)

theorem setUsed_size (a t n u : Nat) (s : State) : (run (setUsed a t n) s).tileSize a u = s.tileSize a u := by
  unfold State.tileSize State.tileW
  rw [setUsed, setF_fld_apart _ _ _ _ _ _ (by decide) (by decide)]

theorem tileSize_of_framed {P : List Part} {R : List Reg} {x : Act} (hx : x.Framed P R) (s : State) (a t : Nat)
    (hR : R.contains .AISLE_TILE_CFG = false := by decide) : (run x s).tileSize a t = s.tileSize a t := by
  unfold State.tileSize State.tileW
  rw [hx.fld _ _ _ hR]

theorem tileSize_le (s : State) (a t : Nat) : s.tileSize a t ≤ 2048 := Nat.div_le_self _ _

theorem placeNew_used (a t : Nat) (x : Tile) (s : State) : (run (placeNew a t x) s).used a t ≤ s.used a t + 1 := by
  simp only [placeNew, run_look, run_acts_cons, run_acts_nil]
  rw [setUsed_used]
  exact Nat.mod_le _ _

theorem placeNew_size (a t : Nat) (x : Tile) (s : State) : (run (placeNew a t x) s).tileSize a t = s.tileSize a t := by
  simp only [placeNew, run_look, run_acts_cons, run_acts_nil]
  rw [setUsed_size, tileSize_of_framed (putTile_framed _ _ _ _), tileSize_of_framed (chainMoves_framed _ _ _ _)]

section
variable {s : State} {a k : Nat} {c : RebuildS} {x : Tile} (h : s.copying a k c) (hb : s.inBand a c)
include h hb

/-- An entry of the band is taken, or there is no room and the copy fails. -/
theorem targetPut_has (hx : c.has x) :
    s.tookOne (run (targetPut a k x) s) a k c ∨ (s.tileSize a c.target ≤ s.used a c.target ∧ (run (targetPut a k x) s).copyFailed a k) := by
  rw [targetPut, run_look, h.chan]
  dsimp only
  cases hp : s.presentAt a c.target x with
  | some i =>
    have hf := putTile_framed a c.target i x
    exact .inl ⟨h.of_framed hf, hb.put _ _ fun _ => hx, by rw [State.used, hf.fld _ _ _, ← State.used]; omega, tileSize_of_framed hf _ _ _⟩
  | none =>
    dsimp only
    by_cases hu : s.used a c.target < s.tileSize a c.target
    · rw [if_pos (by simpa [hu, RebuildS.has] using hx)]
      exact .inl ⟨h.of_framed (placeNew_framed _ _ _), hb.place hx (by have := tileSize_le s a c.target; omega), placeNew_used _ _ _ _,
        placeNew_size _ _ _ _⟩
    · rw [if_neg (by simp [hu]), run_when_eq_true (by simp [h.state])]
      exact .inr ⟨by omega, rebuildFail_copyFailed _ _ _⟩

/-- An entry outside the band is not in the target, and ends the copy. -/
theorem targetPut_out (hx : ¬ c.has x) : (run (targetPut a k x) s).copyFailed a k := by
  have hp : s.presentAt a c.target x = none := by
    rw [State.presentAt, Option.map_eq_none_iff, List.find?_eq_none]
    intro e he hs
    simp only [Tile.same, Bool.and_eq_true, beq_iff_eq] at hs
    obtain ⟨⟨⟨hv, -⟩, -⟩, hc⟩ := hs
    refine hx ?_
    have := hb e he hv
    rwa [RebuildS.has, Tile.plen, hc, ← Tile.plen] at this
  rw [targetPut, run_look, h.chan]
  dsimp only
  rw [hp]
  dsimp only
  rw [if_neg (fun hc => hx (by simp at hc; exact hc.1)), run_when_eq_true (by simp [h.state])]
  exact rebuildFail_copyFailed _ _ _

end

/-! ### The copy as a whole -/

theorem State.copyFailed.ne_copy {s : State} {a k : Nat} (h : s.copyFailed a k) : s.rbState a k ≠ rbCopy := by
  rw [h.state]; decide

/-- Once a copy has failed its mark and the entries left change nothing. -/
theorem copyFailed_rest {s : State} {a k : Nat} (h : s.copyFailed a k) (i : Nat) (c : RebuildS) (r : List (Nat × Tile)) :
    (run (rebuildEntries a k r) (run (copyMark a k i c) s)).copyFailed a k := by
  rw [copyMark_skip h.ne_copy, run_rebuildEntries_ended h.ne_copy]
  exact h

/-- The mark of progress leaves what an entry taken leaves. -/
theorem State.tookOne.mark {s t : State} {a k : Nat} {c : RebuildS} (h : s.tookOne t a k c) (i : Nat) :
    s.tookOne (run (copyMark a k i c) t) a k c := by
  have hf := copyMark_framed a k i c
  exact ⟨copyMark_copying h.copying i c, h.inBand.of_framed hf, by rw [State.used, hf.fld _ _ _]; exact h.used,
    (tileSize_of_framed hf _ _ _).trans h.size⟩

/-- A copy whose entries all lie in the band and find room goes through. -/
theorem rebuildEntries_lpm {a k : Nat} {c : RebuildS} (hr : c.rule = false) (l : List (Nat × Tile)) :
    ∀ s : State, s.copying a k c → s.inBand a c → (∀ e ∈ l, e.2.valid = true → c.has e.2) →
      s.used a c.target + (l.filter (·.2.valid)).length ≤ s.tileSize a c.target → (run (rebuildEntries a k l) s).copying a k c := by
  induction l with
  | nil => exact fun s h _ _ _ => h
  | cons e r ih =>
    obtain ⟨i, x⟩ := e
    intro s h hb hl hu
    rw [run_rebuildEntries_cons h, if_neg (by simp [hr])]
    cases hv : x.valid with
    | false => exact ih s h hb (fun e he => hl e (by simp [he])) (by simpa [List.filter_cons, hv] using hu)
    | true =>
      rw [List.filter_cons_of_pos (by exact hv), List.length_cons] at hu
      rcases targetPut_has (x := x) h hb (hl (i, x) (by simp) hv) with ht | ⟨hfull, -⟩
      · have hm := ht.mark i
        have hroom : (run (copyMark a k i c) (run (targetPut a k x) s)).used a c.target + (r.filter (·.2.valid)).length ≤
            (run (copyMark a k i c) (run (targetPut a k x) s)).tileSize a c.target := by
          rw [hm.size]
          have := hm.used
          omega
        exact ih _ hm.copying hm.inBand (fun e he => hl e (by simp [he])) hroom
      · omega

/-- A copy with an entry outside the band fails. -/
theorem rebuildEntries_lpm_out {a k : Nat} {c : RebuildS} (hr : c.rule = false) (l : List (Nat × Tile)) :
    ∀ s : State, s.copying a k c → s.inBand a c → (∃ e ∈ l, e.2.valid = true ∧ ¬ c.has e.2) →
      (run (rebuildEntries a k l) s).copyFailed a k := by
  induction l with
  | nil => simp
  | cons e r ih =>
    obtain ⟨i, x⟩ := e
    intro s h hb hl
    rw [run_rebuildEntries_cons h, if_neg (by simp [hr])]
    cases hv : x.valid with
    | false => exact ih s h hb (by simpa [hv] using hl)
    | true =>
      by_cases hx : c.has x
      · rcases targetPut_has h hb hx with ht | ⟨-, hf⟩
        · have hm := ht.mark i
          exact ih _ hm.copying hm.inBand (by simpa [hv, hx] using hl)
        · exact copyFailed_rest hf i c r
      · exact copyFailed_rest (targetPut_out h hb hx) i c r

end Sys2Proof.Machine
end

section
/-!
PROOF. The commands of a rebuild and the reading of one unit by the copy assay (R106, R120 to R125).
-/
set_option Elab.async false
namespace Sys2Proof.Machine

/-! ### Fields that the hardware itself writes -/

/-- A field that the hardware writes reads back in effect. -/
theorem setFHw_fld (f : Fld) (n v : Nat) (s : State) (h : f.held = true) : (run (setFHw f n v) s).fld f n = v % 2 ^ f.w := by
  have hh := h
  simp only [Fld.held, Bool.and_eq_true, decide_eq_true_eq, beq_iff_eq] at hh
  rw [setFHw, run_look]
  split
  · exact setF_fld _ _ _ _ h
  · simp only [run_upd, State.fld, eff_eq, stagedAt_live, and_self, if_true, Option.map_some, Option.getD_some]
    rw [bits_and_mask _ _ _ _ hh.1 hh.2, bits_putBits_self _ _ _ _ hh.1]

/-- A field apart from it reads as before. -/
theorem setFHw_fld_apart (f g : Fld) (n m v : Nat) (s : State) (hg : g.held = true) (h : f.apart g = true) :
    (run (setFHw f n v) s).fld g m = s.fld g m := by
  have hh := hg
  simp only [Fld.held, Bool.and_eq_true, decide_eq_true_eq, beq_iff_eq] at hh
  rw [setFHw, run_look]
  split
  · exact setF_fld_apart _ _ _ _ _ _ hg h
  · next w hw =>
    simp only [run_upd, State.fld, eff_eq, stagedAt_live, raw_live]
    split
    · next hp =>
      obtain ⟨hr, rfl⟩ := hp
      have hw' : s.stagedAt g.reg m = some w := by rw [hr]; exact hw
      have hd : g.lo + g.w ≤ f.lo ∨ f.lo + f.w ≤ g.lo := by simp [Fld.apart, hr] at h; omega
      rw [hw', Option.map_some, Option.getD_some, Option.getD_some, ← hr, bits_and_mask _ _ _ _ hh.1 hh.2,
        bits_putBits_other _ _ _ _ _ _ hh.1 hd]
    · rfl

/-! ### GO (R120, R121) -/

/-- The parameters of a rebuild as the word of its GO has them. -/
def goParams (v : Word) : RebuildS where
  rule := v.getLsbD 30
  slot := bits v 24 6
  target := min (bits v 17 7) 99
  lmin := min (bits v 0 8) 128
  lmax := min (bits v 8 8) 128

section
variable {s : State} {r : Req} {a k : Nat} {v : Word} (h : s.takes r .AISLE_REBUILD_CTL (chanN a k) = true) (hgo : v.getLsbD 31 = true)
include h hgo

/-- A GO on a channel that is not idle, or in SEALED, is rejected, and leaves tiles and channels. -/
theorem run_rebuildGo_reject (hbad : s.rbState a k ≠ rbIdle ∨ s.opMode = modeSealed) :
    run (rebuildGo r a k v) s = run (reject3 (.srch a) (s.asReq r) .AISLE_REBUILD_CTL (chanN a k)) s := by
  rw [rebuildGo, run_onWrite h, run_look]
  dsimp only
  rw [if_neg (by simp [hgo]), if_pos (by rcases hbad with hb | hb <;> simp [hb])]

/-- A GO while every channel is idle acts on its checks. -/
theorem run_rebuildGo (hidle : ∀ j, j < 4 → s.rbState a j = rbIdle) (hk : k < 4) (hm : s.opMode ≠ modeSealed) :
    run (rebuildGo r a k v) s = run (match s.rebuildCheck a (v.getLsbD 30) (bits v 24 6) (min (bits v 17 7) 99) (min (bits v 0 8) 128)
        (min (bits v 8 8) 128) with
      | some code => acts [setF F.AISLE_REBUILD_STATUS_RESULT (chanN a k) code, raise F.AISLE_SRCH_EVT_CAUSE_REBUILD_FAIL a,
          count 0x1A (2 * a + 1) 0 1]
      | none => acts [
          modRebuild (chanN a k) fun _ => goParams v,
          .upd (.keep .tiles fun i => i / 2048 != tileN a (min (bits v 17 7) 99)),
          .upd (.keep .copies fun i => i / 2048 != tileN a (min (bits v 17 7) 99)), setUsed a (min (bits v 17 7) 99) 0,
          setB F.AISLE_REBUILD_STATUS_BUSY (chanN a k) true, setF F.AISLE_REBUILD_STATUS_STATE (chanN a k) rbCopy,
          setF F.AISLE_REBUILD_STATUS_PROGRESS (chanN a k) 0])
      (run (writeFields (s.asReq r) .AISLE_REBUILD_CTL (chanN a k) v) s) := by
  rw [rebuildGo, run_onWrite h, run_look]
  dsimp only
  have hother : ((List.range 4).any fun j => j != k && s.rbState a j != rbIdle &&
      (s.rebuildC (chanN a j)).rule == v.getLsbD 30 && (s.rebuildC (chanN a j)).slot == bits v 24 6) = false := by
    rw [List.any_eq_false]
    intro j hj
    simp [hidle j (List.mem_range.1 hj)]
  rw [if_neg (by simp [hgo]), if_neg (by rw [hother]; simp [hidle k hk, hm])]
  generalize s.rebuildCheck a (v.getLsbD 30) (bits v 24 6) (min (bits v 17 7) 99) (min (bits v 0 8) 128) (min (bits v 8 8) 128) = o
  cases o <;> rfl

end

/-- The codes of the checks are 2, 3 and 4. -/
theorem rebuildCheck_lt {s : State} {a : Nat} {rule : Bool} {slot target lmin lmax c : Nat}
    (h : s.rebuildCheck a rule slot target lmin lmax = some c) : c < 8 := by
  unfold State.rebuildCheck at h
  dsimp only at h
  split_ifs at h <;> rw [Option.some.injEq] at h <;> omega

/-! ### Switch and clear (R121, R123) -/

/-- The switch maps a rule slot to the target, and keeps the tile that the slot had. -/
theorem rebuildSwitch_rule {s : State} {a k : Nat} (h : s.rbState a k = rbSwitch) (hr : (s.rebuildC (chanN a k)).rule = true) :
    (run (rebuildSwitch a k) s).rbState a k = rbClear ∧
    (run (rebuildSwitch a k) s).ruleTile a (s.rebuildC (chanN a k)).slot = min ((s.rebuildC (chanN a k)).target % 128) 99 ∧
    ((run (rebuildSwitch a k) s).rebuildC (chanN a k)).old = s.ruleTile a (s.rebuildC (chanN a k)).slot := by
  rw [rebuildSwitch, run_look]
  dsimp only
  rw [run_when_eq_true (by simp [h]), if_pos hr]
  simp only [run_acts_cons, run_acts_nil]
  refine ⟨setF_fld _ _ _ _ (by decide), ?_, ?_⟩
  · rw [State.ruleTile, (setF_own _ _ _).fld _ _ _, setFHw_fld _ _ _ _ (by decide)]
    rfl
  · rw [(setF_own _ _ _).rebuildC _ _, (setFHw_own _ _ _).rebuildC _ _, run_modRebuild_self, if_pos hr]

/-- The switch maps an LPM slot to the target, and keeps the tile that the slot had. -/
theorem rebuildSwitch_lpm {s : State} {a k : Nat} (h : s.rbState a k = rbSwitch) (hr : (s.rebuildC (chanN a k)).rule = false) :
    (run (rebuildSwitch a k) s).rbState a k = rbClear ∧
    (run (rebuildSwitch a k) s).lpmTile a (s.rebuildC (chanN a k)).slot = min ((s.rebuildC (chanN a k)).target % 128) 99 ∧
    ((run (rebuildSwitch a k) s).rebuildC (chanN a k)).old = s.lpmTile a (s.rebuildC (chanN a k)).slot := by
  rw [rebuildSwitch, run_look]
  dsimp only
  rw [run_when_eq_true (by simp [h]), if_neg (by simp [hr])]
  simp only [run_acts_cons, run_acts_nil]
  refine ⟨setF_fld _ _ _ _ (by decide), ?_, ?_⟩
  · rw [State.lpmTile, (setF_own _ _ _).fld _ _ _, setFHw_fld_apart _ _ _ _ _ _ (by decide) (by decide),
      setFHw_fld_apart _ _ _ _ _ _ (by decide) (by decide), setFHw_fld _ _ _ _ (by decide)]
    rfl
  · rw [(setF_own _ _ _).rebuildC _ _, (setFHw_own _ _ _).rebuildC _ _, (setFHw_own _ _ _).rebuildC _ _, (setFHw_own _ _ _).rebuildC _ _,
      run_modRebuild_self, if_neg (by simp [hr])]

/-- The end of the clear of a rebuild that has switched. -/
theorem rebuildClearDone_done {s : State} {a k : Nat} (h : s.rbState a k = rbClear) (hd : (s.rebuildC (chanN a k)).okDone = true) :
    (run (rebuildClearDone a k) s).rbState a k = rbIdle ∧
    (run (rebuildClearDone a k) s).bit F.AISLE_REBUILD_STATUS_BUSY (chanN a k) = false ∧
    (run (rebuildClearDone a k) s).fld F.AISLE_REBUILD_STATUS_RESULT (chanN a k) = 1 ∧
    (run (rebuildClearDone a k) s).rawFld F.AISLE_SRCH_EVT_CAUSE_REBUILD_DONE a = 1 ∧
    (run (rebuildClearDone a k) s).used a (s.rebuildC (chanN a k)).old = 0 := by
  have hrb : (Act.upd (.rebuild (chanN a k) {})).Framed [.rebuild] [] := .upd rfl
  rw [rebuildClearDone, run_look]
  dsimp only
  rw [run_when_eq_true (by simp [h]), run_acts_cons, run_acts_cons, run_acts_cons, run_acts_cons, run_acts_cons, run_acts_cons, run_acts_cons,
    run_acts_nil, hd, run_when_true]
  generalize run (.upd (.keep .copies _)) (run (.upd (.keep .tiles _)) s) = u
  refine ⟨?_, ?_, ?_, ?_, ?_⟩ <;> simp only [State.rbState, State.used, run_acts_cons, run_acts_nil]
  · rw [hrb.fld _ _ _, (count_own _ _ _ _).fld _ _ _, (raise_own _ _).fld _ _ _, setF_fld_apart _ _ _ _ _ _ (by decide) (by decide),
      setB_fld_apart _ _ _ _ _ _ (by decide) (by decide), setF_fld _ _ _ _ (by decide)]
    rfl
  · rw [hrb.bit _ _ _, (count_own _ _ _ _).bit _ _ _, (raise_own _ _).bit _ _ _, setF_bit_apart _ _ _ _ _ _ (by decide) (by decide),
      setB_bit _ _ _ _ (by decide) rfl]
  · rw [hrb.fld _ _ _, (count_own _ _ _ _).fld _ _ _, (raise_own _ _).fld _ _ _, setF_fld _ _ _ _ (by decide)]
    rfl
  · rw [hrb.rawFld _ _ _, (count_own _ _ _ _).rawFld _ _ _, raise_rawFld _ _ _ (by decide) rfl (by decide)]
  · rw [hrb.fld _ _ _, (count_own _ _ _ _).fld _ _ _, (raise_own _ _).fld _ _ _, (setF_own _ _ _).fld _ _ _, (setB_own _ _ _).fld _ _ _,
      (setF_own _ _ _).fld _ _ _]
    exact setF_fld _ _ _ _ (by decide)

/-! ### The copy assay (R124, R125) -/

/-- The sweep goes on to the next unit, or starts again. -/
def assayNext (a pos : Nat) : Act :=
  if pos + 1 < 204800 then modAisle a fun A => { A with sweepPos := pos + 1 }
  else acts [modAisle a fun A => { A with sweepPos := 0, swept := A.swept || A.sweepFrom, sweepFrom := true },
    addMod F.AISLE_SRCH_STATUS_ASSAY_SWEEPS a 1]

theorem assayNext_framed (a pos : Nat) : (assayNext a pos).Framed [.aisles, .regs, .live] [.AISLE_SRCH_STATUS] :=
  .ite (modAisle_framed _ _).widen (.acts ⟨(modAisle_framed _ _).widen, (addMod_own _ _ _).widen, trivial⟩)

theorem assayNext_pos (a pos : Nat) (s : State) : ((run (assayNext a pos) s).aisle a).sweepPos = if pos + 1 < 204800 then pos + 1 else 0 := by
  unfold assayNext
  split
  · rw [run_modAisle_self]
  · simp only [run_acts_cons, run_acts_nil]
    rw [(addMod_own _ _ _).aisle _ _, run_modAisle_self]

/-- What the assay does with a unit whose copy is lost. -/
def assayLost (s : State) (a t u : Nat) (c : Tile) (e w j : Nat) : Act :=
  acts [(if s.sorted a t then (if e < s.used a t then deleteAt a t e else clearValid a t e)
      else acts [clearValid a t e, when c.valid (setUsed a t (s.used a t - 1))]),
    count 0x1A (2 * a) 6 1, raise F.AISLE_SRCH_EVT_CAUSE_TCAM_LOST a, tcamFinding a t u 4 c w j]

/-- What the assay does with a unit and its copy. -/
def assayCompare (s : State) (a t u : Nat) (x c : Tile) (k w j code : Nat) : Act :=
  acts [when (code == 1) (count 0x1A (2 * a) 5 1),
    when (!x.agree c w j) (acts [when (s.bit F.AISLE_SRCH_CFG_REPAIR_EN a) (.upd (.tile k (x.repair c w j))),
      count 0x1A (2 * a) 4 1, raise F.AISLE_SRCH_EVT_CAUSE_TCAM_REPAIR a, tcamFinding a t u 3 c w j])]

section
variable (s : State) (a t u : Nat) (x c : Tile) (e w j : Nat)

theorem tcam_mark (f : Fld) (n kind : Nat) (v : State) (hf : f.held = true) (hw : f.w = 1)
    (hr : (setWindowRegs ++ occurRegs).contains f.reg = false) :
    (run (tcamFinding a t u kind c w j) (run (raise f n) v)).rawFld f n = 1 := by
  simp only [List.contains_eq_mem, List.mem_append, decide_eq_false_iff_not, not_or] at hr
  rw [(tcamFinding_framed _ _ _ _ _ _ _).rawFld _ _ _ (by simpa using hr.1), raise_rawFld _ _ _ hf hw (by simpa using hr.2)]

theorem assayLost_cause (v : State) : (run (assayLost s a t u c e w j) v).rawFld F.AISLE_SRCH_EVT_CAUSE_TCAM_LOST a = 1 := by
  simp only [assayLost, run_acts_cons, run_acts_nil]
  exact tcam_mark _ _ _ _ _ _ _ _ _ _ (by decide) rfl (by decide)

/-- In a tile that keeps no order the entry is made invalid. -/
theorem assayLost_tile (v : State) (h : s.sorted a t = false) :
    (run (assayLost s a t u c e w j) v).tile (tkey a t e) = { v.tile (tkey a t e) with valid := false } := by
  simp only [assayLost, run_acts_cons, run_acts_nil]
  rw [(tcamFinding_framed _ _ _ _ _ _ _).tile _ _, (raise_own _ _).tile _ _, (count_own _ _ _ _).tile _ _, if_neg (by simp [h])]
  simp only [run_acts_cons, run_acts_nil]
  rw [((setUsed_framed _ _ _).when).tile _ _, clearValid, run_look, tile_put, if_pos rfl]

/-- In a tile that keeps the order the gap is closed, which leaves one entry less. -/
theorem assayLost_used (v : State) (h : s.sorted a t = true) (he : e < s.used a t) (hv : v.used a t = s.used a t) :
    (run (assayLost s a t u c e w j) v).used a t = s.used a t - 1 := by
  simp only [assayLost, run_acts_cons, run_acts_nil]
  rw [State.used, (tcamFinding_framed _ _ _ _ _ _ _).fld _ _ _, (raise_own _ _).fld _ _ _, (count_own _ _ _ _).fld _ _ _, if_pos h, if_pos he]
  simp only [deleteAt, run_look, run_acts_cons, run_acts_nil]
  rw [← State.used, setUsed_used, hv]
  have : s.used a t < 2 ^ 12 := fld_lt _ _ _
  exact Nat.mod_eq_of_lt (by omega)

/-- A unit that agrees with its copy is passed. -/
theorem assayCompare_agree (k code : Nat) (v : State) (h : x.agree c w j = true) :
    (run (assayCompare s a t u x c k w j code) v).tile k = v.tile k := by
  simp only [assayCompare, run_acts_cons, run_acts_nil]
  rw [run_when_eq_false (by simp [h]), ((count_own _ _ _ _).when).tile _ _]

/-- A unit that differs is rewritten from its copy where repair is enabled. -/
theorem assayCompare_repair (k code : Nat) (v : State) (h : x.agree c w j = false) (hr : s.bit F.AISLE_SRCH_CFG_REPAIR_EN a = true) :
    (run (assayCompare s a t u x c k w j code) v).tile k = x.repair c w j ∧
    (run (assayCompare s a t u x c k w j code) v).rawFld F.AISLE_SRCH_EVT_CAUSE_TCAM_REPAIR a = 1 := by
  simp only [assayCompare, run_acts_cons, run_acts_nil, h, hr, Bool.not_false, run_when_true]
  refine ⟨?_, tcam_mark _ _ _ _ _ _ _ _ _ _ (by decide) rfl (by decide)⟩
  rw [(tcamFinding_framed _ _ _ _ _ _ _).tile _ _, (raise_own _ _).tile _ _, (count_own _ _ _ _).tile _ _, run_upd, tile_applyUpd, if_pos rfl]

end

/-- The assay reads one unit: the flips arrive, the unit is compared or given up, and the sweep goes on. -/
theorem run_assayUnitRead {s : State} {a : Nat} (h1 : s.bit F.AISLE_SRCH_CFG_ASSAY_EN a = true) (h2 : s.mode.started = true)
    (h3 : s.zolOn = true) (h4 : s.clk.soft.contains (unitAisle a) = false) (flip code : Nat) {pos w e j : Nat} {x c : Tile}
    (hpos : (s.aisle a).sweepPos = pos) (hw : s.tileW a (pos / 2048) = w) (he : pos % 2048 / w = e) (hj : pos % 2048 % w = j)
    (hx : (s.tile (tkey a (pos / 2048) e)).flip w j flip = x) (hc : s.copyT (tkey a (pos / 2048) e) = c) :
    run (assayUnitRead a flip code) s = run (assayNext a pos) (run (if code = 2 then
      assayLost s a (pos / 2048) (pos % 2048) c e w j else assayCompare s a (pos / 2048) (pos % 2048) x c (tkey a (pos / 2048) e) w j code)
      (run (.upd (.tile (tkey a (pos / 2048) e) x)) s)) := by
  subst hpos hw he hj hx hc
  rw [assayUnitRead, run_look, run_when_eq_true (by rw [h1, h2, h3, h4]; rfl)]
  rfl

/-! ### The obligation -/

theorem zolOn_not_halted {s : State} (h : s.zolOn = true) : s.halted = false := by
  simp only [State.zolOn, Bool.and_eq_true, Bool.not_eq_true'] at h
  exact h.2

/-- Settles O21: GO, the copies of both kinds of slot, the switch, the clear and the assay each do what the statement says of them. -/
theorem tilesAreRebuiltAndAssayed : Obligations.TilesAreRebuiltAndAssayed := by
  refine ⟨fun s r a k v h hgo hb => ?_, fun s r a k v h hgo hi hm => ?_, fun s a k hh hwf hs hr => ?_, fun s r a k v h hgo hm => ?_,
    fun s a k hh hwf hs hr hu ht hinv => ?_, fun s a k hh hs => ?_, fun s a k hh hs hd => ?_, fun s a flip code h1 h2 h3 h4 => ?_⟩
  · refine completes_run rfl ?_
    rw [run_rebuildGo_reject h hgo (.inl hb)]
    exact ⟨reject3_turned (.srch a) _ _ _ _, (reject_srch a _ _ _ _).fld _ _ _⟩
  · refine completes_run rfl ?_
    rw [run_rebuildGo h hgo hi k.2 hm]
    have hw := writeFields_own (s.asReq r) .AISLE_REBUILD_CTL (chanN a k) v
    generalize ho : s.rebuildCheck a (v.getLsbD 30) (bits v 24 6) (min (bits v 17 7) 99) (min (bits v 0 8) 128) (min (bits v 8 8) 128) = o
    cases o with
    | some c =>
      simp only [run_acts_cons, run_acts_nil, State.rbState]
      rw [(count_own _ _ _ _).fld _ _ _, (count_own _ _ _ _).fld _ _ _, (raise_own _ _).fld _ _ _, (raise_own _ _).fld _ _ _,
        setF_fld _ _ _ _ (by decide), setF_fld_apart _ _ _ _ _ _ (by decide) (by decide), hw.fld _ _ _]
      exact ⟨Nat.mod_eq_of_lt (rebuildCheck_lt ho), hi k k.2⟩
    | none =>
      simp only [run_acts_cons, run_acts_nil, State.rbState]
      rw [setF_fld_apart _ _ _ _ _ _ (by decide) (by decide), setF_fld _ _ _ _ (by decide), setF_bit_apart _ _ _ _ _ _ (by decide) (by decide),
        setF_bit_apart _ _ _ _ _ _ (by decide) (by decide), setB_bit _ _ _ _ (by decide) rfl, (setF_own _ _ _).rebuildC _ _,
        (setF_own _ _ _).rebuildC _ _, (setB_own _ _ _).rebuildC _ _, (setUsed_framed _ _ _).rebuildC _ _]
      refine ⟨rfl, rfl, ?_⟩
      rw [run_upd, run_upd, State.rebuildC, applyUpd_rebuild _ _ (by simp [Upd.part, TabId.part]),
        applyUpd_rebuild _ _ (by simp [Upd.part, TabId.part]), ← State.rebuildC, run_modRebuild_self]
      exact ⟨rfl, rfl⟩
  · refine completes_run rfl ?_
    have hc : s.copying a k (s.rebuildC (chanN a k)) := ⟨hs, rfl⟩
    rw [run_coreDo _ _ hh, run_rebuildCopyDone hc (s.ruleTile a (s.rebuildC (chanN a k)).slot) (by rw [if_pos hr])]
    obtain ⟨hend, hput, -⟩ := rebuildEntries_rule hr _ (tileEntries_nodup hwf a (s.ruleTile a (s.rebuildC (chanN a k)).slot)) s hc
    exact ⟨copyEnd_switch hend.state _, fun e he hv => ((copyEnd_framed _ _ _).tile _ _).trans (hput e he hv)⟩
  · refine completes_run rfl ?_
    rw [run_rebuildGo_reject h hgo (.inr hm)]
    have hf := reject_srch a (s.asReq r) (regAddr .AISLE_REBUILD_CTL (chanN a k)) 3 0
    exact ⟨reject3_turned (.srch a) _ _ _ _, hf.tiles _, hf.rebuild _, fun j _ => hf.fld _ _ _⟩
  · refine completes_run rfl ?_
    have hc : s.copying a k (s.rebuildC (chanN a k)) := ⟨hs, rfl⟩
    have hb : s.inBand a (s.rebuildC (chanN a k)) := fun e he hv => by simp [hinv e he] at hv
    rw [run_coreDo _ _ hh, run_rebuildCopyDone hc (s.lpmTile a (s.rebuildC (chanN a k)).slot) (by rw [if_neg (by simp [hr])])]
    refine ⟨fun hall hroom => ?_, fun hout => ?_⟩
    · refine copyEnd_switch (rebuildEntries_lpm hr _ s hc hb (fun e he hv => hall e (List.mem_filter.2 ⟨he, hv⟩)) ?_).state _
      rwa [hu, Nat.zero_add]
    · obtain ⟨e, he, hno⟩ := hout
      have hf := rebuildEntries_lpm_out hr _ s hc hb ⟨e, (List.mem_filter.1 he).1, (List.mem_filter.1 he).2, hno⟩
      rw [run_look, run_when_eq_false (by simp [hf.ne_copy])]
      refine ⟨hf.state, hf.result, hf.cause, ?_⟩
      rw [State.lpmTile, (rebuildEntries_framed _ _ _).fld _ _ _, State.lpmTile]
  · refine completes_run rfl ?_
    rw [run_coreDo _ _ hh]
    cases hr : (s.rebuildC (chanN a k)).rule with
    | true => exact rebuildSwitch_rule hs hr
    | false => exact rebuildSwitch_lpm hs hr
  · refine completes_run rfl ?_
    rw [run_coreDo _ _ hh]
    exact rebuildClearDone_done hs hd
  · refine completes_run rfl ?_
    rw [run_coreDo _ _ (zolOn_not_halted h3), run_assayUnitRead h1 h2 h3 h4 flip code rfl rfl rfl rfl rfl rfl]
    have hn := assayNext_framed a (s.aisle a).sweepPos
    have hx (k : Nat) (x : Tile) : (run (.upd (.tile k x)) s).tile k = x := by rw [run_upd, tile_applyUpd, if_pos rfl]
    have hw (k : Nat) (x : Tile) : (Act.upd (.tile k x)).Framed [.tiles] [] := .upd rfl
    refine ⟨assayNext_pos _ _ _, fun hc => ⟨?_, fun hns => ?_, fun hs he => ?_⟩, fun hc hag => ?_, fun hc hag hrep => ?_⟩
    · rw [hn.rawFld _ _ _, if_pos hc, assayLost_cause]
    · rw [hn.tile _ _, if_pos hc, assayLost_tile _ _ _ _ _ _ _ _ _ hns, hx]
    · rw [State.used, hn.fld _ _ _, if_pos hc, ← State.used]
      exact assayLost_used _ _ _ _ _ _ _ _ _ hs he ((hw _ _).fld _ _ _)
    · rw [hn.tile _ _, if_neg hc, assayCompare_agree _ _ _ _ _ _ _ _ _ _ _ hag, hx]
    · rw [hn.tile _ _, hn.rawFld _ _ _, if_neg hc]
      exact assayCompare_repair _ _ _ _ _ _ _ _ _ _ _ hag hrep

end Sys2Proof.Machine
end

section
/-!
PROOF. The end of a lane retune (R46, R425): the planner's own retune of the same lane may begin with it.
-/
set_option Elab.async false
namespace Sys2Proof.Machine

/-- A running device whose port 8 is UP and whose lane 9 is in a retune that software asked for, while the planner's action to retune lane 9
waits. -/
def retunedTwice : State :=
  Tests.upDev [setB F.LANE_EQ_STATUS_RETUNING 9 true, modPort 8 fun P => { P with retunes := [9] },
    modThm fun h => { h with actions := [(0, 9)] }]

theorem retunedTwice_retuning : retunedTwice.bit F.LANE_EQ_STATUS_RETUNING 9 = true := by decide +kernel

/-- With the end of the retune the planner's begins, and the lane is marked again. -/
theorem retunedTwice_again : (run (retuneEnds 9 true []) retunedTwice).bit F.LANE_EQ_STATUS_RETUNING 9 = true := by decide +kernel

/-- Refutes O26: the end of a retune lets the planner's actions that wait begin; where one of them is a retune of the same lane, the lane
reads RETUNING = 1 after the command. -/
theorem not_lanesAndTransmitPlls : ¬ Obligations.LanesAndTransmitPlls := by
  unfold Obligations.LanesAndTransmitPlls
  rintro ⟨-, -, hend, -⟩
  have h := completes_next (a := retuneEnds 9 true []) rfl (hend retunedTwice 9 true [] retunedTwice_retuning)
  exact absurd (retunedTwice_again.symm.trans h.1) (by decide)

end Sys2Proof.Machine
end

section
/-!
PROOF. Device time: time words, the echoes of its distribution, and the step through an epoch (R227 to R229, R252, R261).
-/
set_option Elab.async false
namespace Sys2Proof.Machine

/-! ### Time words (R227, R261) -/

theorem setClkOuts_time (a b c : Nat) (s : State) : (run (setClkOuts a b c) s).time = { s.time with clkOuts := (a, b, c) } := by
  simp only [setClkOuts, run_look, run_acts_cons, run_acts_nil]
  rw [((emit_own _).when).time _, ((emit_own _).when).time _, ((emit_own _).when).time _, run_modTime]

/-- Each clock output follows its register. -/
theorem clkOutEdge_time (s : State) : (run clkOutEdge s).time = { s.time with clkOuts := (s.timeclkOn, s.synceSel 0, s.synceSel 1) } :=
  setClkOuts_time _ _ _ _

/-- A change of the time state that leaves whether device time runs leaves the sources of the clock outputs. -/
theorem modTime_clkOuts (f : TimeS → TimeS) (s : State) (h : (f s.time).running = s.time.running) :
    (run (modTime f) s).timeclkOn = s.timeclkOn ∧ ∀ i, (run (modTime f) s).synceSel i = s.synceSel i := by
  constructor
  · rw [State.timeclkOn, (modTime_framed f).bit _ _ _, run_modTime, h, State.timeclkOn]
  · intro i
    rw [State.synceSel, (modTime_framed f).fld _ _ _ rfl, State.synceSel]

/-- A time word of running device time. -/
theorem timeWordSend_time (s : State) (h : s.time.running = true) : (run timeWordSend s).time =
    { s.time with acc := (s.time.acc + 64 * s.time.inc) % accMod, words := s.time.words + 1,
                  clkOuts := (s.timeclkOn, s.synceSel 0, s.synceSel 1) } := by
  rw [timeWordSend, run_look, run_when_eq_true h, run_acts_cons, run_acts_cons, run_acts_cons, run_acts_nil,
    (unitReport_framed _).time _, clkOutEdge_time, run_modTime]
  obtain ⟨h1, h2⟩ := modTime_clkOuts (fun t => { t with acc := (t.acc + 64 * t.inc) % accMod, words := t.words + 1 }) s rfl
  rw [h1, h2, h2]

theorem timeWord_time (s : State) : (run timeWord s).time = (run timeWordSend s).time := by
  simp only [timeWord, run_look, run_acts_cons, run_acts_nil]
  exact (perfTick_framed.when).time _

/-! ### Echoes of the distribution (R228) -/

/-- The distribution to a stall is out of calibration. -/
def distLose (s : State) (st : Nat) : Act :=
  acts [modStall st fun x => { x with distOk := false, distBad := true }, setB F.TIME_STATUS_DIST_OK 0 false,
    each (s.portsOf st) fun p => syncRecal p]

theorem each_syncRecal_framed (l : List Nat) : (each l fun p => syncRecal p).Framed [.regs, .live] [.PORT_STATE, .TIME_PORT_CAL_STATUS] :=
  .each fun _ _ => (syncRecal_framed _).widen

theorem distLose_bad (u s : State) (st : Nat) :
    ((run (distLose u st) s).stall st).distBad = true ∧ (run (distLose u st) s).bit F.TIME_STATUS_DIST_OK 0 = false := by
  simp only [distLose, run_acts_cons, run_acts_nil]
  rw [(each_syncRecal_framed _).stall _ _, (each_syncRecal_framed _).bit _ _ _, (setB_own _ _ _).stall _ _, run_modStall_self,
    setB_bit _ _ _ _ (by decide) rfl]
  exact ⟨rfl, rfl⟩

/-- A stall keeps its distance and its count of missing echoes. -/
def keepsDist (a : Act) : Prop := ∀ (s : State) (st : Nat), ((run a s).stall st).dDist = (s.stall st).dDist ∧
  ((run a s).stall st).distMiss = (s.stall st).distMiss

theorem keepsDist_of_framed {P : List Part} {R : List Reg} {a : Act} (h : a.Framed P R) (hP : P.contains .stalls = false := by decide) :
    keepsDist a := fun s st => by rw [h.stall _ _ hP]; exact ⟨rfl, rfl⟩

theorem keepsDist_modStall (k : Nat) (f : StallS → StallS) (h : ∀ x, (f x).dDist = x.dDist ∧ (f x).distMiss = x.distMiss) :
    keepsDist (modStall k f) := fun s st => by
  rw [run_modStall]
  split
  · next e => rw [e]; exact h _
  · exact ⟨rfl, rfl⟩

theorem keepsDist_acts {l : List Act} (h : ∀ a ∈ l, keepsDist a) : keepsDist (acts l) := by
  induction l with
  | nil => exact fun _ _ => ⟨rfl, rfl⟩
  | cons a l ih =>
    intro s st
    obtain ⟨h1, h2⟩ := ih (fun b hb => h b (by simp [hb])) (run a s) st
    obtain ⟨h3, h4⟩ := h a (by simp) s st
    exact ⟨h1.trans h3, h2.trans h4⟩

theorem keepsDist_when {b : Bool} {a : Act} (h : keepsDist a) : keepsDist (when b a) := by
  cases b with
  | true => exact h
  | false => exact fun _ _ => ⟨rfl, rfl⟩

theorem distLose_keepsDist (u : State) (st : Nat) : keepsDist (distLose u st) := by
  refine keepsDist_acts fun a ha => ?_
  simp only [List.mem_cons, List.not_mem_nil, or_false] at ha
  rcases ha with rfl | rfl | rfl
  · exact keepsDist_modStall _ _ fun _ => ⟨rfl, rfl⟩
  · exact keepsDist_of_framed (setB_own _ _ _)
  · exact keepsDist_of_framed (each_syncRecal_framed _)

theorem distSettle_keepsDist (st : Nat) : keepsDist (distSettle st) := by
  intro s
  refine keepsDist_when (keepsDist_acts fun a ha => ?_) s
  simp only [List.mem_cons, List.not_mem_nil, or_false] at ha
  rcases ha with rfl | rfl
  · exact keepsDist_modStall _ _ fun _ => ⟨rfl, rfl⟩
  · exact keepsDist_of_framed (each_syncRecal_framed _)

/-- What follows an echo that shows the distribution calibrated. -/
def distRegain (s : State) (st : Nat) : Act :=
  acts [modStall st fun x => { x with distOk := true },
    each ((s.portsOf st).filter s.isUp) (fun p => acts [modPort p fun P => { P with distPend := true }, calStart p 9]), distSettle st,
    .look fun s => when ((List.range 64).all fun i => (s.stall i).distOk) (setB F.TIME_STATUS_DIST_OK 0 true)]

theorem distRegain_keepsDist (u : State) (st : Nat) : keepsDist (distRegain u st) := by
  have hcal : (each ((u.portsOf st).filter u.isUp) (fun p => acts [modPort p fun P => { P with distPend := true }, calStart p 9])).Framed
      [.live, .ports, .regs] [.PORT_STATE, .TIME_PORT_CAL_STATUS] :=
    .each fun _ _ => .acts ⟨(modPort_framed _ _).widen, (calStart_framed _ _).widen, trivial⟩
  have hok : (Act.look fun s => when ((List.range 64).all fun i => (s.stall i).distOk) (setB F.TIME_STATUS_DIST_OK 0 true)).Framed
      [.regs, .live] [.TIME_STATUS] := .look fun _ => .when (setB_own _ _ _).widen
  refine keepsDist_acts fun a ha => ?_
  simp only [List.mem_cons, List.not_mem_nil, or_false] at ha
  rcases ha with rfl | rfl | rfl | rfl
  · exact keepsDist_modStall _ _ fun _ => ⟨rfl, rfl⟩
  · exact keepsDist_of_framed hcal
  · exact distSettle_keepsDist st
  · exact keepsDist_of_framed hok

/-- An echo: its half is the distance, and it ends a run of missing ones. -/
theorem distEchoMeasure_some (s : State) (st rt : Nat) : ((run (distEchoMeasure st (some rt)) s).stall st).dDist = rt / 2 ∧
    ((run (distEchoMeasure st (some rt)) s).stall st).distMiss = 0 := by
  have hrest : ∀ far ok : Bool, keepsDist (if far then distLose s st else when ok (distRegain s st)) := by
    intro far ok
    split
    · exact distLose_keepsDist _ _
    · exact keepsDist_when (distRegain_keepsDist _ _)
  have h := hrest (match (s.stall st).distPrev with
    | none => false
    | some v => decide (13107 < (if v ≤ rt / 2 then rt / 2 - v else v - rt / 2))) (!(s.stall st).distOk)
    (run (modStall st fun x => { x with distMiss := 0, distPrev := some (rt / 2), dDist := rt / 2 }) (run (perfEvent pbTime 8 none 1) s)) st
  rw [run_modStall_self] at h
  exact h

/-- The third missing echo in a row. -/
theorem distEchoMeasure_third (s : State) (st : Nat) (h : (s.stall st).distMiss = 2) :
    ((run (distEchoMeasure st none) s).stall st).distBad = true ∧ (run (distEchoMeasure st none) s).bit F.TIME_STATUS_DIST_OK 0 = false := by
  simp only [distEchoMeasure, run_look, run_acts_cons, run_acts_nil, h, decide_true, run_when_true]
  exact distLose_bad _ _ _

/-! ### The step (R229, R252) -/

theorem epochTail_time (u : State) (step : Int) (s : State) : (run (epochTail u step) s).time =
    { s.time with stepLog := ((u.newEpoch + 1, u.stepSum + step) :: s.time.stepLog).take 64 } := by
  have h1 : (each (List.range 16) fun a => acts [modAisle a fun x => { x with parseOld := u.eff .AISLE_PARSE_CFG a },
      .upd (.live .AISLE_PARSE_CFG a none)]).Framed [.aisles, .live] [.AISLE_PARSE_CFG] :=
    .each fun _ _ => .acts ⟨(modAisle_framed _ _).widen, (live_own _ _ _).widen, trivial⟩
  have h2 (l : List Nat) : (each l unitReport).Framed [.regs] [.SYS_EPOCH_APPLIED0, .SYS_EPOCH_APPLIED1, .SYS_EPOCH_APPLIED2] :=
    .each fun _ _ => unitReport_framed _
  simp only [epochTail, run_acts_cons, run_acts_nil]
  rw [(h2 _).time _, h1.time _, run_modTime]

/-- A request of an epoch logs it with the sum of the steps. -/
theorem requestEpoch_time (tgt : Option Nat) (cause : Nat) (step : Int) (s : State) : (run (requestEpoch tgt cause step) s).time =
    { s.time with stepLog := ((s.newEpoch + 1, s.stepSum + step) :: s.time.stepLog).take 64 } := by
  rw [run_requestEpoch]
  simp only [run_acts_cons, run_acts_nil]
  rw [epochTail_time, (modMode_framed _).time _, (setReg_own _ _ _).time _, (setReg_own _ _ _).time _, (setReg_own _ _ _).time _,
    (setF_own _ _ _).time _, (setB_own _ _ _).time _, (setF_own _ _ _).time _]

/-- The changes of the time and clock state that precede the epoch of a step. -/
def stepPrepare (s : State) (d : Int) : Act :=
  acts [modTime fun t => { t with
      acc := (((t.acc : Int) + d * 2 ^ 32) % (accMod : Int)).toNat, stepWait := none, stepFlag := true, stepEp := some (s.newEpoch + 1) },
    tallyDue, .look fun s => modClk fun c => { c with snapAt := s.nowNs }]

theorem stepPrepare_framed (s : State) (d : Int) : (stepPrepare s d).Framed [.time, .clk] [] :=
  .acts ⟨(modTime_framed _).widen, tallyDue_framed.widen, .look fun _ => (modClk_framed _).widen, trivial⟩

theorem stepPrepare_time (u : State) (d : Int) (s : State) :
    (run (stepPrepare u d) s).time.acc = (((s.time.acc : Int) + d * 2 ^ 32) % (accMod : Int)).toNat ∧
    (run (stepPrepare u d) s).time.stepWait = none ∧ (run (stepPrepare u d) s).time.stepLog = s.time.stepLog := ⟨rfl, rfl, rfl⟩

theorem run_timeStep {s : State} {d : Int} (h : s.time.stepWait = some d) (hp : s.epochPending = false) (hr : s.time.running = true)
    (ho : s.servoOn = true) (ha : s.servo = svAcquiring) : run timeStep s =
      run (raise F.TIME_SVC_EVT_CAUSE_STEP 0) (run hlStep (run (requestEpoch none 0 d) (run (stepPrepare s d) s))) := by
  rw [timeStep, run_look]
  simp only [h]
  rw [run_when_eq_true (by simp [hp, hr, ho, ha])]
  rfl

theorem timeStep_waits {s : State} (h : s.epochPending = true) : run timeStep s = s := by
  rw [timeStep, run_look]
  split
  · rfl
  · rw [run_when_eq_false (by simp [h])]

theorem timeStep_steps {s : State} {d : Int} (h : s.time.stepWait = some d) (hp : s.epochPending = false) (hr : s.time.running = true)
    (ho : s.servoOn = true) (ha : s.servo = svAcquiring) :
    (run timeStep s).time.acc = (((s.time.acc : Int) + d * 2 ^ 32) % (accMod : Int)).toNat ∧ (run timeStep s).time.stepWait = none ∧
    (run timeStep s).epochPending = true ∧ (run timeStep s).newEpoch = s.newEpoch + 1 ∧
    (run timeStep s).time.stepLog.head? = some (s.newEpoch + 1, s.stepSum + d) := by
  obtain ⟨h1, h2, -, -⟩ := requestEpoch_spec none 0 d (run (stepPrepare s d) s)
  obtain ⟨h3, h4, h5⟩ := stepPrepare_time s d s
  have hep : (run (stepPrepare s d) s).newEpoch = s.newEpoch :=
    congrArg (BitVec.ofNat 16) ((stepPrepare_framed s d).fld F.SYS_EPOCH_REQUESTED 0 s)
  rw [run_timeStep h hp hr ho ha]
  refine ⟨?_, ?_, ?_, ?_, ?_⟩
  · rw [(raise_own _ _).time _, hlStep_framed.time _, requestEpoch_time]
    exact h3
  · rw [(raise_own _ _).time _, hlStep_framed.time _, requestEpoch_time]
    exact h4
  · rw [State.epochPending, (raise_own _ _).bit _ _ _, hlStep_framed.bit _ _ _]
    exact h2
  · rw [State.newEpoch, (raise_own _ _).fld _ _ _, hlStep_framed.fld _ _ _, ← State.newEpoch, h1, hep]
  · rw [(raise_own _ _).time _, hlStep_framed.time _, requestEpoch_time, hep, State.stepSum, h5]
    rfl

/-- Settles O28: a time word advances the accumulator, echoes measure the distribution, and a step goes through an epoch. -/
theorem deviceTimeAdvancesAndSteps : Obligations.DeviceTimeAdvancesAndSteps := by
  refine ⟨fun s h => ?_, fun s st rt => ?_, fun s st h => ?_, fun s d h hp hr ho ha => ?_, fun s h => ?_⟩
  · refine completes_run rfl ?_
    rw [timeWord_time, timeWordSend_time s h]
    exact ⟨rfl, rfl, rfl⟩
  · exact completes_run rfl (distEchoMeasure_some s st rt)
  · exact completes_run rfl (distEchoMeasure_third s st h)
  · exact completes_run rfl (timeStep_steps h hp hr ho ha)
  · exact completes_run rfl (timeStep_waits h)

end Sys2Proof.Machine
end

section
/-!
PROOF. The servo: its transitions, its samples, its parent, and FORCE (R249 to R256, R268).
-/
set_option Elab.async false
namespace Sys2Proof.Machine

/-! ### What the transitions of the servo leave alone -/

/-- Each action of a list keeps a function of the state. -/
def allKeep {α : Type} (g : State → α) : List Act → Prop
  | [] => True
  | a :: l => a.keeps g ∧ allKeep g l

theorem Act.keeps.acts {α : Type} {g : State → α} {l : List Act} (h : allKeep g l) : Act.keeps g (Machine.acts l) := by
  induction l with
  | nil => exact keeps_skip
  | cons a l ih => exact keeps_seq h.1 (ih h.2)

/-- The part of the time state that names the parent and holds its samples. -/
def TimeS.source (t : TimeS) : (Option Nat × Nat × Nat × Nat × Nat) × (Int × Nat × Nat) × Option (Nat × Nat × Int × BitVec 16) × List Int :=
  ((t.parent, t.gm, t.gmClass, t.gmAcc, t.gmVar), (t.utc, t.tflags, t.stepsRm), t.lastSync, t.delays)

/-- The parent, its samples, and the port that TIME_SERVO_STATUS names. -/
def State.parentData (s : State) := (s.time.source, s.fld F.TIME_SERVO_STATUS_PORT 0)

theorem keeps_parentData_modTime {f : TimeS → TimeS} (h : ∀ t, (f t).source = t.source) : (modTime f).keeps State.parentData := fun s =>
  Prod.ext (h _) ((modTime_framed f).fld _ _ _)

theorem keeps_parentData_framed {P : List Part} {R : List Reg} {a : Act} (h : a.Framed P R) (hP : P.contains .time = false := by decide)
    (hR : R.contains .TIME_SERVO_STATUS = false := by decide) : a.keeps State.parentData := fun s =>
  Prod.ext (congrArg TimeS.source (h.time _ hP)) (h.fld _ _ _ hR)

theorem keeps_parentData_setF {f : Fld} (n v : Nat) (h : f.apart F.TIME_SERVO_STATUS_PORT = true := by decide) :
    (setF f n v).keeps State.parentData := fun s =>
  Prod.ext (congrArg TimeS.source ((setF_own _ _ _).time _)) (setF_fld_apart _ _ _ _ _ _ (by decide) h)

theorem closeSpan_keeps_parentData : closeSpan.keeps State.parentData := keeps_look fun _ => keeps_parentData_modTime fun _ => rfl

theorem servoTo_keeps_parentData (n : Nat) : (servoTo n).keeps State.parentData :=
  keeps_look fun _ => keeps_when (.acts ⟨keeps_when (.acts ⟨closeSpan_keeps_parentData, keeps_parentData_modTime fun _ => rfl, trivial⟩),
    keeps_when (keeps_parentData_modTime fun _ => rfl), keeps_parentData_setF _ _, keeps_parentData_modTime fun _ => rfl,
    keeps_when (keeps_parentData_modTime fun _ => rfl), keeps_when (keeps_parentData_modTime fun _ => rfl),
    keeps_when (keeps_parentData_modTime fun _ => rfl), keeps_parentData_framed (raise_own _ _),
    keeps_look fun _ => keeps_parentData_modTime fun _ => rfl, trivial⟩)

theorem syncSource_keeps_parentData : syncSource.keeps State.parentData := keeps_look fun _ => keeps_parentData_setF _ _

theorem srcArrive_keeps_parentData : srcArrive.keeps State.parentData :=
  keeps_look fun _ => .acts ⟨keeps_parentData_modTime fun _ => rfl, keeps_when (servoTo_keeps_parentData _), syncSource_keeps_parentData, trivial⟩

theorem keeps_ite {α : Type} {g : State → α} {c : Prop} [Decidable c] {a b : Act} (ha : a.keeps g) (hb : b.keeps g) :
    (if c then a else b).keeps g := by split <;> assumption

theorem srcLose_keeps_parentData : srcLose.keeps State.parentData :=
  keeps_look fun _ => .acts ⟨keeps_parentData_modTime fun _ => rfl,
    keeps_when (keeps_ite (servoTo_keeps_parentData _) (keeps_when (servoTo_keeps_parentData _))), syncSource_keeps_parentData, trivial⟩

theorem sampleSeen_keeps_parentData : sampleSeen.keeps State.parentData :=
  keeps_look fun _ => .acts ⟨keeps_parentData_modTime fun _ => rfl, srcArrive_keeps_parentData, trivial⟩

theorem keeps_draw {α : Type} {g : State → α} {k : Nat → Act} (hf : (Act.upd .fresh).keeps g) (hk : ∀ v, (k v).keeps g) :
    (draw k).keeps g := keeps_look fun _ => keeps_seq hf (hk _)

theorem driveInc_keeps_parentData : driveInc.keeps State.parentData := by
  have hfresh : (Act.upd .fresh).Framed [.fresh] [] := .upd rfl
  exact keeps_draw (keeps_parentData_framed hfresh) fun _ => keeps_look fun _ => .acts ⟨keeps_when closeSpan_keeps_parentData,
    keeps_parentData_modTime fun _ => rfl, trivial⟩

theorem servoOffset_keeps_parentData (off : Int) : (servoOffset off).keeps State.parentData := by
  have hm {f : TimeS → TimeS} (h : ∀ t, (f t).source = t.source) := keeps_parentData_modTime h
  exact keeps_look fun _ => keeps_ite
    (.acts ⟨hm fun _ => rfl, keeps_ite (hm fun _ => rfl) (.acts ⟨driveInc_keeps_parentData, hm fun _ => rfl,
      keeps_look fun _ => keeps_when (servoTo_keeps_parentData _), trivial⟩), trivial⟩)
    (keeps_when (.acts ⟨hm fun _ => rfl, driveInc_keeps_parentData, hm fun _ => rfl,
      keeps_look fun _ => keeps_when (servoTo_keeps_parentData _), trivial⟩))

/-! ### Transitions (R254) -/

/-- After a change of state the servo is in that state. -/
theorem servoTo_servo (n : Nat) (s : State) (h : n < 8) : (run (servoTo n) s).servo = n := by
  rw [servoTo, run_look]
  dsimp only
  by_cases hc : s.servo = n
  · rw [run_when_eq_false (by simp [hc])]
    exact hc
  · rw [run_when_eq_true (by simp [hc])]
    simp only [run_acts_cons, run_acts_nil]
    rw [State.servo, tallyDue_framed.fld _ _ _, (raise_own _ _).fld _ _ _, ((modTime_framed _).when).fld _ _ _,
      ((modTime_framed _).when).fld _ _ _, ((modTime_framed _).when).fld _ _ _, (modTime_framed _).fld _ _ _, setF_fld _ _ _ _ (by decide)]
    exact Nat.mod_eq_of_lt h

theorem servoTo_keeps_lost (n : Nat) : (servoTo n).keeps fun s => s.time.lost := by
  have hm {f : TimeS → TimeS} (h : ∀ t, (f t).lost = t.lost) : (modTime f).keeps fun s => s.time.lost := fun s => h _
  have hf {P : List Part} {R : List Reg} {a : Act} (h : a.Framed P R) (hP : P.contains .time = false) : a.keeps fun s => s.time.lost :=
    fun s => congrArg TimeS.lost (h.time _ hP)
  exact keeps_look fun _ => keeps_when (.acts ⟨keeps_when (.acts ⟨keeps_look fun _ => hm fun _ => rfl, hm fun _ => rfl, trivial⟩),
    keeps_when (hm fun _ => rfl), hf (setF_own _ _ _) (by decide), hm fun _ => rfl, keeps_when (hm fun _ => rfl), keeps_when (hm fun _ => rfl),
    keeps_when (hm fun _ => rfl), hf (raise_own _ _) (by decide), keeps_look fun _ => hm fun _ => rfl, trivial⟩)

/-- SOURCE shows no source once it is lost. -/
theorem syncSource_lost (s : State) (h : s.time.lost = true) : (run syncSource s).fld F.TIME_SERVO_STATUS_SOURCE 0 = 0 := by
  rw [syncSource, run_look, setF_fld _ _ _ _ (by decide)]
  simp [State.srcPresent, h]

theorem syncSource_servo (s : State) : (run syncSource s).servo = s.servo := setF_fld_apart _ _ _ _ _ _ (by decide) (by decide)

/-- The loss of the source. -/
theorem srcLose_spec (s : State) : (run srcLose s).time.lost = true ∧ (run srcLose s).fld F.TIME_SERVO_STATUS_SOURCE 0 = 0 ∧
    (s.servoOn = true → s.servo = svLocked → (run srcLose s).servo = svHoldover) := by
  simp only [srcLose, run_look, run_acts_cons, run_acts_nil]
  have hlost : ∀ b c d : Bool, ∀ m n : Nat, (run (when b (if c then servoTo m else when d (servoTo n)))
      (run (modTime fun t => { t with lost := true }) s)).time.lost = true := fun b c d m n =>
    (keeps_when (g := fun s => s.time.lost) (b := b) (keeps_ite (c := c = true) (servoTo_keeps_lost m)
      (keeps_when (servoTo_keeps_lost n)))) _
  have h := hlost s.servoOn (decide (s.servo = svLocked)) (s.servo == svAcquiring) svHoldover (if s.histExists then svHoldover else svFreerun)
  simp only [decide_eq_true_eq] at h
  refine ⟨?_, syncSource_lost _ h, fun ho hl => ?_⟩
  · rw [syncSource_framed.time _]
    exact h
  · rw [syncSource_servo, run_when_eq_true ho, if_pos hl]
    exact servoTo_servo _ _ (by decide)

/-! ### FORCE (R268) -/

section
variable {s : State} {r : Req} {v : Word} (h : s.takes r .TIME_SERVO_CTL 0 = true)
include h

theorem run_onForce {codes : List Nat} (hc : codes.contains (bits v 0 2) = true) (k : Req → State → Act) :
    run (onForce r v codes k) s = run (k (s.asReq r) s) s := by
  rw [onForce, run_onWrite h, run_when_eq_true hc, run_look]

theorem forceFreerun_spec (hv : bits v 0 2 = 2) (ho : s.servoOn = true) :
    (run (forceFreerun r v) s).servo = svFreerun ∧ (run (forceFreerun r v) s).time.inc = incNominal := by
  rw [forceFreerun, run_onForce h (by simp [hv]), ho]
  simp only [run_acts_cons, run_acts_nil, run_when_true]
  constructor
  · rw [State.servo, (setInc_framed _).fld _ _ _]
    exact servoTo_servo _ _ (by decide)
  · simp only [setInc, run_look, run_acts_cons, run_acts_nil, run_modTime]

theorem forceHoldover_spec (hv : bits v 0 2 = 1) (ho : s.servoOn = true) (hh : s.histExists = true) :
    (run (forceHoldover r v) s).servo = svHoldover := by
  rw [forceHoldover, run_onForce h (by simp [hv]), if_pos hh, ho]
  exact servoTo_servo _ _ (by decide)

theorem forceHoldover_reject (hv : bits v 0 2 = 1) (hh : s.histExists = false) :
    s.turnedBy (run (forceHoldover r v) s) F.TIME_STATUS_REJECT 0 ∧ (run (forceHoldover r v) s).servo = s.servo := by
  rw [forceHoldover, run_onForce h (by simp [hv]), if_neg (by simp [hh])]
  exact ⟨reject3_turned .timeSvc _ _ _ _, (reject3_own _ _ _ _).fld _ _ _⟩

theorem forceNone_spec (hv : bits v 0 2 = 0 ∨ bits v 0 2 = 3) (ho : s.servoOn = true) (hp : s.srcPresent = true)
    (hs : [svFreerun, svHoldover, svHoldoverLong].contains s.servo = true) : (run (forceNone r v) s).servo = svAcquiring := by
  rw [forceNone, run_onForce h (by rcases hv with hv | hv <;> simp [hv]), ho, hp, hs]
  exact servoTo_servo _ _ (by decide)

end

/-! ### Samples (R251) -/

section
variable {s : State} {q : List Sample} {x : Sample} (ho : s.servoOn = true) (href : s.timeRef = 1) (hp : s.parentSlave = true)
  (hq : s.time.smpQ = x :: q)
include ho href hp hq

/-- The oldest sample of a parent port in SLAVE is taken from the queue and worked on. -/
theorem run_servoSample (up : Bool) : run (servoSample up) s = run (sampleTake up x) (run (modTime fun t => { t with smpQ := q }) s) := by
  rw [servoSample, run_look, hq]
  dsimp only
  rw [run_when_eq_true ho, run_acts_cons, run_acts_cons, run_acts_nil]
  cases hpar : s.time.parent with
  | none => simp [State.parentSlave, hpar] at hp
  | some p =>
    dsimp only
    rw [run_when_eq_true (by simp [href, hp])]

end

/-- Samples older than the last step are so whatever the queue. -/
theorem beforeStep_modTime (q : List Sample) (s : State) (e : BitVec 16) :
    (run (modTime fun t => { t with smpQ := q }) s).beforeStep e = s.beforeStep e := rfl

theorem parentData_lastSync {s t : State} (h : t.parentData = s.parentData) : t.time.lastSync = s.time.lastSync :=
  congrArg (fun d => d.1.2.2.1) h

theorem parentData_delays {s t : State} (h : t.parentData = s.parentData) : t.time.delays = s.time.delays :=
  congrArg (fun d => d.1.2.2.2) h

/-- A Sync that is not marked is kept. -/
theorem sampleTake_sync (up : Bool) (t1 t2 : Nat) (cs asym : Int) (ep : BitVec 16) (s : State) (h : s.beforeStep ep = false) :
    (run (sampleTake up (.sync t1 t2 cs asym false ep)) s).time.lastSync = some (t1, t2, cs, ep) := by
  have hk : ∀ off : Int, (if s.time.delays.isEmpty then smpDiscard false else acts [sampleSeen, servoOffset off]).keeps State.parentData :=
    fun off => keeps_ite (keeps_parentData_modTime fun _ => rfl)
      (.acts ⟨sampleSeen_keeps_parentData, servoOffset_keeps_parentData off, trivial⟩)
  rw [sampleTake, run_look]
  dsimp only
  rw [if_neg (by simp [h]), run_acts_cons, run_acts_cons, run_acts_nil]
  exact parentData_lastSync (hk _ _)

/-- A delay exchange adds half of its sum. -/
theorem sampleTake_delay (up : Bool) {t1 t2 t3 t4 : Nat} {cs cd : Int} {ep e2 : BitVec 16} {s : State} (h : s.beforeStep ep = false)
    (hl : s.time.lastSync = some (t1, t2, cs, e2)) (h2 : s.beforeStep e2 = false)
    (h0 : 0 ≤ ((t2 : Int) - t1 - cs) + ((t4 : Int) - t3 - cd)) :
    (run (sampleTake up (.delay t3 t4 cd false ep)) s).time.delays =
      (halfOf up (((t2 : Int) - t1 - cs) + ((t4 : Int) - t3 - cd)) :: s.time.delays).take 16 := by
  rw [sampleTake, run_look]
  dsimp only
  rw [hl]
  dsimp only
  rw [if_neg (by simp [h, h2, h0]), run_acts_cons, run_acts_cons, run_acts_nil]
  exact parentData_delays (sampleSeen_keeps_parentData _)

/-! ### The parent (R249, R250) -/

theorem parentGone_parent (s : State) : (run parentGone s).time.parent = none := by
  rw [parentGone, run_look, run_when]
  split
  · simp only [run_acts_cons, run_acts_nil]
    rw [(raise_own _ _).time _]
    have hk : ∀ b : Bool, (acts [tallyDue, setF F.TIME_SERVO_STATUS_PORT 0 0, setF F.TIME_SERVO_STATUS_STEPS_REMOVED 0 0, when b srcLose]).keeps
        fun s => s.time.parent := fun b =>
      .acts ⟨fun _ => rfl, fun _ => congrArg TimeS.parent ((setF_own _ _ _).time _),
        fun _ => congrArg TimeS.parent ((setF_own _ _ _).time _),
        keeps_when fun s => congrArg (fun d => d.1.1.1) (srcLose_keeps_parentData s), trivial⟩
    exact hk _ _
  · next h => simpa using h

/-- The data sets of the parent, without its samples. -/
def TimeS.sets (t : TimeS) := (t.source.1, t.source.2.1)

theorem keeps_sets_modTime {f : TimeS → TimeS} (h : ∀ t, (f t).sets = t.sets) : (modTime f).keeps fun s => s.time.sets := fun _ => h _

theorem keeps_sets_framed {P : List Part} {R : List Reg} {a : Act} (h : a.Framed P R) (hP : P.contains .time = false := by decide) :
    a.keeps fun s => s.time.sets := fun s => congrArg TimeS.sets (h.time _ hP)

/-- The data sets that a new parent gives the time state. -/
def TimeS.adopt (p : Nat) (r : Foreign) (t : TimeS) : TimeS :=
  { t with
    parent := some p, gm := r.gm, gmClass := r.quality / 2 ^ 40, gmAcc := r.quality / 2 ^ 32 % 256, gmVar := r.quality / 2 ^ 16 % 65536
    gmP1 := r.quality / 2 ^ 8 % 256, gmP2 := r.quality % 256, gmSrc := r.src, parentId := r.portId, stepsRm := r.steps + 1
    utc := r.utc, tflags := r.flags }

/-- The samples of another parent go. -/
def parentFresh (p : Nat) : Act := acts [modTime fun t => { t with delays := [], lastSync := none, smpQ := [] },
  modPort p fun P => { P with syncIn := none, dreq := none }]

/-- What follows the new data sets: the grandmaster's change is raised, and a sample may make the source present. -/
def parentNews (newGm newPort was : Bool) : Act :=
  acts [when newGm (acts [raise F.TIME_SVC_EVT_CAUSE_GM_CHANGE 0,
      .look fun s => when (s.servo == svLocked && s.timeRef == 1) (servoTo svAcquiring)]),
    .look fun s => when (s.timeRef == 1 && s.parentSlave && (newPort || !was || !s.time.lost)) sampleSeen]

theorem parentNews_keeps_parentData (newGm newPort was : Bool) : (parentNews newGm newPort was).keeps State.parentData :=
  .acts ⟨keeps_when (.acts ⟨keeps_parentData_framed (raise_own _ _), keeps_look fun _ => keeps_when (servoTo_keeps_parentData _), trivial⟩),
    keeps_look fun _ => keeps_when sampleSeen_keeps_parentData, trivial⟩

/-- A new parent in the order of its changes. -/
theorem run_parentTake (p : Nat) (r : Foreign) (was : Bool) (s : State) : ∃ newGm newPort : Bool, run (parentTake p r was) s =
    run (parentNews newGm newPort was) (run (setF F.TIME_SERVO_STATUS_STEPS_REMOVED 0 (r.steps + 1)) (run (setF F.TIME_SERVO_STATUS_PORT 0 p)
      (run (acts [when newGm tallyDue, when (newPort || newGm) stepDrop, when newPort (parentFresh p)]) (run (modTime (TimeS.adopt p r)) s)))) :=
  ⟨_, _, rfl⟩

theorem parentTake_parentData (p : Nat) (hp : p < 512) (r : Foreign) (was : Bool) (s : State) :
    (run (parentTake p r was) s).time.sets = (TimeS.adopt p r s.time).sets ∧
    (run (parentTake p r was) s).fld F.TIME_SERVO_STATUS_PORT 0 = p := by
  obtain ⟨newGm, newPort, hrun⟩ := run_parentTake p r was s
  have hk : (acts [when newGm tallyDue, when (newPort || newGm) stepDrop, when newPort (parentFresh p)]).keeps fun s => s.time.sets :=
    .acts ⟨keeps_when (keeps_look fun _ => keeps_sets_modTime fun _ => rfl), keeps_when (keeps_sets_modTime fun _ => rfl),
      keeps_when (.acts ⟨keeps_sets_modTime fun _ => rfl, keeps_sets_framed (modPort_framed _ _), trivial⟩), trivial⟩
  have hd := (parentNews_keeps_parentData newGm newPort was _).trans
    (keeps_parentData_setF (f := F.TIME_SERVO_STATUS_STEPS_REMOVED) 0 (r.steps + 1) (by decide) (run (setF F.TIME_SERVO_STATUS_PORT 0 p)
      (run (acts [when newGm tallyDue, when (newPort || newGm) stepDrop, when newPort (parentFresh p)]) (run (modTime (TimeS.adopt p r)) s))))
  rw [hrun]
  refine ⟨(congrArg (fun d => (d.1.1, d.1.2.1)) hd).trans ?_, (congrArg Prod.snd hd).trans ?_⟩
  · exact (congrArg TimeS.sets ((setF_own _ _ _).time _)).trans (hk _)
  · exact (setF_fld _ _ _ _ (by decide)).trans (Nat.mod_eq_of_lt hp)

/-- An outcome of the BMCA that names a best record of an UP BC port picks it. -/
theorem bmcaPick_some {s : State} {b : Bmca} {p : Fin 512} {r : Foreign} (hb : b.parent = some p)
    (hr : s.fld F.TIME_PORT_PTP_ROLE p = 1) (hu : s.isUp p = true)
    (hf : (s.port p).foreign.find? (fun x => x.portId == b.parentId) = some r) (hm : s.bestMaster r = true) :
    s.bmcaPick b = some ((p : Nat), r) := by
  unfold State.bmcaPick
  rw [hb]
  dsimp only
  rw [hf]
  dsimp only
  rw [if_pos (by simp [hr, hu, hm])]

/-- The states that a BMCA outcome gives the ports. -/
def bmcaPorts (s : State) (b : Bmca) : Act :=
  each (b.states.filter fun x => decide (x.1 < 512 ∧ 4 ≤ x.2 ∧ x.2 ≤ 9) && (decide (x.2 < 8) || (s.bmcaPick b).map (·.1) == some x.1)) fun x =>
    .look fun s => when (s.link x.1 == linkUp) (ptpState x.1 (s.bmcaState x.1 x.2))

theorem bmcaPorts_framed (s : State) (b : Bmca) : (bmcaPorts s b).Framed [.live, .regs] [.TIME_PORT_PTP_STATUS] :=
  .each fun _ _ => .look fun _ => .when (ptpState_framed _ _)

theorem run_bmcaRun {s : State} (ho : s.servoOn = true) (b : Bmca) : run (bmcaRun b) s = run syncSource (run (match s.bmcaPick b with
    | none => parentGone
    | some (p, r) => parentTake p r s.parentSlave) (run (bmcaPorts s b) s)) := by
  rw [bmcaRun, run_look]
  dsimp only
  rw [run_when_eq_true ho]
  change run (acts [bmcaPorts s b, _, syncSource]) s = _
  cases s.bmcaPick b <;> rfl

theorem syncSource_sets (s : State) : (run syncSource s).time.sets = s.time.sets := congrArg TimeS.sets (syncSource_framed.time _)

/-- Settles O30: the parent, the samples, the loss of the source, the holdover limit and each FORCE do what the statement says of them. -/
theorem servoFollowsItsSourceAndForce : Obligations.ServoFollowsItsSourceAndForce := by
  refine ⟨fun s b p r ho hb hr hu hf hm => ?_, fun s b ho hb => ?_, fun s p ho => ?_, fun s up t1 t2 cs asym ep q ho href hp hq => ?_,
    fun s up t1 t2 cs asym ep q ho href hp hq he => ?_, fun s up t1 t2 t3 t4 cs cd ep e2 q ho href hp hq he hl he2 h0 => ?_,
    fun s hl => ?_, fun s hl => ?_, fun s ho hs ha => ?_, fun s r v h hv ho => ?_, fun s r v h hv ho hh => ?_, fun s r v h hv hh => ?_,
    fun s r v h hv ho hp hs => ?_⟩
  · refine completes_run rfl ?_
    rw [run_bmcaRun ho, bmcaPick_some hb hr hu hf hm]
    obtain ⟨h1, h2⟩ := parentTake_parentData p p.2 r s.parentSlave (run (bmcaPorts s b) s)
    have h3 := (syncSource_sets _).trans h1
    simp only [TimeS.sets, TimeS.source, TimeS.adopt, Prod.mk.injEq] at h3
    obtain ⟨⟨hpar, hgm, hcl, hac, hva⟩, hutc, htf, hst⟩ := h3
    exact ⟨hpar, hgm, hcl, hac, hva, hutc, htf, hst, (setF_fld_apart _ _ _ _ _ _ (by decide) (by decide)).trans h2⟩
  · refine completes_run rfl ?_
    rw [run_bmcaRun ho, hb, syncSource_framed.time _]
    exact parentGone_parent _
  · refine completes_run rfl ?_
    rw [announceReceiptTimeout, run_look, run_when_eq_true ho, (modPort_framed _ _).time _, run_modPort_self]
    exact ⟨rfl, rfl⟩
  · refine completes_run rfl ?_
    rw [run_servoSample ho href hp hq]
    simp only [sampleTake, run_look, smpDiscard, Bool.true_or, if_true, run_modTime, Bool.or_true]
  · refine completes_run rfl ?_
    rw [run_servoSample ho href hp hq]
    exact sampleTake_sync up t1 t2 cs asym ep _ he
  · refine completes_run rfl ?_
    rw [run_servoSample ho href hp hq]
    exact sampleTake_delay up he hl he2 h0
  · refine completes_run rfl ?_
    rw [sourceLost, run_look, run_when_eq_true hl]
    exact srcLose_spec s
  · refine completes_run rfl ?_
    rw [sourceLost, run_look, run_when_eq_false hl]
  · refine completes_run rfl ?_
    rw [holdoverLimitExpire, run_look, run_when_eq_true (by rw [ho, hs, ha]; rfl)]
    exact servoTo_servo _ _ (by decide)
  · exact completes_run rfl (forceFreerun_spec h hv ho)
  · exact completes_run rfl (forceHoldover_spec h hv ho hh)
  · exact completes_run rfl (forceHoldover_reject h hv hh)
  · exact completes_run rfl (forceNone_spec h hv ho hp hs)

end Sys2Proof.Machine
end

section
/-!
PROOF. The capture of an illegal free (R183, R198) of a handle wider than the 23 bits of SWC_ILLFREE_CAP0.HANDLE.
-/
set_option Elab.async false
namespace Sys2Proof.Machine

/-- The free of a FREE buffer whose handle is 2^31: the handle carries into the VALID bit of the word captured. -/
theorem illegalFree_wide : (run (coreDo (bufferFree 0 0 (2 ^ 31) 0 false)) Tests.dev).bit F.SWC_ILLFREE_CAP0_VALID 0 = false := by
  decide +kernel

/-- Refutes O34: the clause on illegal frees bounds the handle by nothing, and the free of the FREE buffer 2^31 leaves
SWC_ILLFREE_CAP0.VALID = 0. A handle of 23 bits has no such effect; the instruction's own domain holds only those. -/
theorem not_buffersAreCarvedGrantedAndFreed : ¬ Obligations.BuffersAreCarvedGrantedAndFreed := by
  unfold Obligations.BuffersAreCarvedGrantedAndFreed
  rintro ⟨-, -, -, -, -, -, -, -, hillegal, -⟩
  have hfree : (Tests.dev.buf (2 ^ 31)).st = 0 := by decide +kernel
  have h := completes_next (a := coreDo (bufferFree 0 0 (2 ^ 31) 0 false)) rfl
    (hillegal Tests.dev 0 0 (2 ^ 31) 0 false (by decide +kernel) (by decide +kernel) (.inl hfree))
  obtain ⟨-, -, -, hvalid⟩ := h
  exact absurd (illegalFree_wide.symm.trans hvalid) (by decide)

end Sys2Proof.Machine
end

section
/-!
PROOF. Hours lists: arming, cancelling, stopping, the switch, and the gates shown (R214 to R218, R223).
-/
set_option Elab.async false
namespace Sys2Proof.Machine

/-! ### The gates shown -/

theorem syncGates_bit (p : Nat) (f : Fld) (s : State) (hf : f.held = true) (h1 : Fld.apart F.SCH_HL_STATUS_GATES f = true)
    (h2 : Fld.apart F.SCH_HL_STATUS_CUR_ENTRY f = true) : (run (syncGates p) s).bit f p = s.bit f p := by
  rw [syncGates, run_look, run_acts_cons, run_acts_cons, run_acts_nil, setF_bit_apart _ _ _ _ _ _ hf h2, setF_bit_apart _ _ _ _ _ _ hf h1]

/-- GATES shows the gates open now. -/
theorem syncGates_gates (p : Nat) (s : State) : (run (syncGates p) s).fld F.SCH_HL_STATUS_GATES p = (s.gates p s.nowNs).toNat := by
  rw [syncGates, run_look, run_acts_cons, run_acts_cons, run_acts_nil, setF_fld_apart _ _ _ _ _ _ (by decide) (by decide),
    setF_fld _ _ _ _ (by decide)]
  exact Nat.mod_eq_of_lt (s.gates p s.nowNs).isLt

/-! ### Writes of SCH_HL_CTL -/

/-- What ARM does with a list whose checks pass, given its start and whether the late-start rule was used. -/
def armTake (s : State) (p : Nat) (st : Nat × Bool) : Act :=
  acts [setB F.SCH_HL_STATUS_ARMED p true, setB F.SCH_HL_STATUS_LATE_START p st.2, when st.2 (lateFlag p), showStart p st.1,
    modPort p fun P => { P with armCycle := s.fld F.SCH_HL_CYCLE_CYCLE_NS p, armCount := s.fld F.SCH_HL_BASE_SH_COUNT p, armStart := st.1 }]

theorem armCheck_lt {s : State} {p c : Nat} (h : s.armCheck p = some c) : c < 16 := by
  unfold State.armCheck at h
  dsimp only at h
  split_ifs at h <;> rw [Option.some.injEq] at h <;> omega

section
variable {s : State} {r : Req} {p : Nat} {v : Word} (h : s.takes r .SCH_HL_CTL p = true)
include h

/-- At a position that starts no port a write of SCH_HL_CTL has no effect. -/
theorem hl_noPort (hs : s.starts p = false) : run (hlArm r p v) s = s ∧ run (hlCancel r p v) s = s ∧ run (hlStop r p v) s = s := by
  refine ⟨?_, ?_, ?_⟩
  · rw [hlArm, run_onWrite h, run_when, run_look, run_when_eq_false hs, ite_self]
  · rw [hlCancel, run_onWrite h, run_when, run_look, run_when_eq_false hs, ite_self]
  · rw [hlStop, run_onWrite h, run_when, run_look, run_when_eq_false hs, ite_self]

variable (hs : s.starts p = true)
include hs

theorem run_hlArm (hv : v.getLsbD 0 = true) : run (hlArm r p v) s = run (if s.bit F.SCH_HL_STATUS_ARMED p then
    reject3 .sch (s.asReq r) .SCH_HL_CTL p else match s.armCheck p with
      | some c => reject .sch (s.asReq r) (regAddr .SCH_HL_CTL p) c 0
      | none => armTake s p (lateStart (s.hlBaseW p) (s.fld F.SCH_HL_CYCLE_CYCLE_NS p) s.now16)) s := by
  rw [hlArm, run_onWrite h, run_when_eq_true hv, run_look, run_when_eq_true hs]
  split
  · rfl
  · cases s.armCheck p <;> rfl

theorem run_hlCancel (hv : v.getLsbD 1 = true) : run (hlCancel r p v) s = run (if s.bit F.SCH_HL_STATUS_ARMED p then
    setB F.SCH_HL_STATUS_ARMED p false else reject3 .sch (s.asReq r) .SCH_HL_CTL p) s := by
  rw [hlCancel, run_onWrite h, run_when_eq_true hv, run_look, run_when_eq_true hs]

theorem run_hlStop (hv : v.getLsbD 2 = true) : run (hlStop r p v) s = run (if s.bit F.SCH_HL_STATUS_RUNNING p then
    acts [setB F.SCH_HL_STATUS_RUNNING p false, syncGates p] else reject3 .sch (s.asReq r) .SCH_HL_CTL p) s := by
  rw [hlStop, run_onWrite h, run_when_eq_true hv, run_look, run_when_eq_true hs]

end

/-- LATE_START reads 1 after its mark, and ARMED as before. -/
theorem lateFlag_bits (p : Nat) (s : State) : (run (lateFlag p) s).bit F.SCH_HL_STATUS_LATE_START p = true ∧
    (run (lateFlag p) s).bit F.SCH_HL_STATUS_ARMED p = s.bit F.SCH_HL_STATUS_ARMED p := by
  simp only [lateFlag, run_acts_cons, run_acts_nil]
  rw [(raise_own _ _).bit _ _ _, (raise_own _ _).bit _ _ _, setB_bit _ _ _ _ (by decide) rfl,
    setB_bit_apart _ _ _ _ _ _ (by decide) (by decide)]
  exact ⟨rfl, rfl⟩

/-- A list taken is armed with its start. -/
theorem armTake_spec (s : State) (p : Nat) (st : Nat × Bool) (u : State) : (run (armTake s p st) u).bit F.SCH_HL_STATUS_ARMED p = true ∧
    ((run (armTake s p st) u).port p).armStart = st.1 ∧ (run (armTake s p st) u).bit F.SCH_HL_STATUS_LATE_START p = st.2 := by
  unfold armTake
  simp only [run_acts_cons, run_acts_nil]
  rw [run_modPort_self, (modPort_framed _ _).bit _ _ _, (modPort_framed _ _).bit _ _ _, (showStart_framed _ _).bit _ _ _,
    (showStart_framed _ _).bit _ _ _, run_when]
  cases hl : st.2 with
  | true =>
    obtain ⟨h1, h2⟩ := lateFlag_bits p (run (setB F.SCH_HL_STATUS_LATE_START p true) (run (setB F.SCH_HL_STATUS_ARMED p true) u))
    rw [if_pos rfl, h1, h2, setB_bit_apart _ _ _ _ _ _ (by decide) (by decide), setB_bit _ _ _ _ (by decide) rfl]
    exact ⟨rfl, rfl, rfl⟩
  | false =>
    rw [if_neg (by decide), setB_bit_apart _ _ _ _ _ _ (by decide) (by decide), setB_bit _ _ _ _ (by decide) rfl,
      setB_bit _ _ _ _ (by decide) rfl]
    exact ⟨rfl, rfl, rfl⟩

/-! ### The switch (R218) -/

theorem hlSwitch_spec {s : State} {p : Nat} (hs : s.starts p = true) (ha : s.bit F.SCH_HL_STATUS_ARMED p = true)
    (ht : (s.port p).armStart ≤ s.nowNs) :
    (run (hlSwitch p) s).bit F.SCH_HL_STATUS_ACTIVE_SLOT p = !s.bit F.SCH_HL_STATUS_ACTIVE_SLOT p ∧
    (run (hlSwitch p) s).bit F.SCH_HL_STATUS_RUNNING p = true ∧ (run (hlSwitch p) s).bit F.SCH_HL_STATUS_ARMED p = false ∧
    ((run (hlSwitch p) s).port p).hlBase = (s.port p).armStart ∧ ((run (hlSwitch p) s).port p).hlCycle = (s.port p).armCycle ∧
    ((run (hlSwitch p) s).port p).hlCount = (s.port p).armCount := by
  rw [hlSwitch, run_look, run_when_eq_true (by simp [hs, ha, ht])]
  simp only [run_acts_cons, run_acts_nil]
  rw [syncGates_bit _ _ _ (by decide) (by decide) (by decide), syncGates_bit _ _ _ (by decide) (by decide) (by decide),
    syncGates_bit _ _ _ (by decide) (by decide) (by decide), (syncGates_framed _).port _ _]
  rw [(raise_own _ _).bit _ _ _, (raise_own _ _).bit _ _ _, (raise_own _ _).bit _ _ _, (raise_own _ _).port _ _,
    (perfEvent_framed _ _ _ _).bit _ _ _, (perfEvent_framed _ _ _ _).bit _ _ _, (perfEvent_framed _ _ _ _).bit _ _ _,
    (perfEvent_framed _ _ _ _).port _ _, run_modPort_self, (modPort_framed _ _).bit _ _ _, (modPort_framed _ _).bit _ _ _,
    (modPort_framed _ _).bit _ _ _, (setB_own _ _ _).port _ _, (setB_own _ _ _).port _ _, (setB_own _ _ _).port _ _]
  refine ⟨?_, ?_, setB_bit _ _ _ _ (by decide) rfl, rfl, rfl, rfl⟩
  · rw [setB_bit_apart _ _ _ _ _ _ (by decide) (by decide), setB_bit_apart _ _ _ _ _ _ (by decide) (by decide),
      setB_bit _ _ _ _ (by decide) rfl]
  · rw [setB_bit_apart _ _ _ _ _ _ (by decide) (by decide), setB_bit _ _ _ _ (by decide) rfl]

/-- Settles O37: ARM, CANCEL and STOP act or are rejected, the switch runs the armed list in the other slot, and an edge shows the gates. -/
theorem hoursListsArmSwitchAndStop : Obligations.HoursListsArmSwitchAndStop := by
  refine ⟨fun s r p v h hs hv => ?_, fun s r p v h hs hv => ?_, fun s r p v h hs hv => ?_, fun s p hh hs ha ht => ?_, fun s p hh hs => ?_,
    fun s r p v h hs => ?_, fun s p hh hs => ?_⟩
  · refine completes_run rfl ?_
    rw [run_hlArm h hs hv]
    cases ha : s.bit F.SCH_HL_STATUS_ARMED p with
    | true => exact reject3_turned .sch _ _ _ _
    | false =>
      generalize hc : s.armCheck p = c
      cases c with
      | some c => exact ⟨reject_code .sch _ _ _ _ _ (armCheck_lt hc), ((reject_own .sch _ _ _ _).bit _ _ _).trans ha⟩
      | none => exact armTake_spec s p _ s
  · refine completes_run rfl ?_
    rw [run_hlCancel h hs hv]
    cases ha : s.bit F.SCH_HL_STATUS_ARMED p with
    | true => exact ⟨setB_bit _ _ _ _ (by decide) rfl, nofun⟩
    | false => exact ⟨((reject3_own .sch _ _ _).bit _ _ _).trans ha, fun _ => reject3_turned .sch _ _ _ _⟩
  · refine completes_run rfl ?_
    rw [run_hlStop h hs hv]
    cases ha : s.bit F.SCH_HL_STATUS_RUNNING p with
    | true =>
      exact ⟨(syncGates_bit _ _ _ (by decide) (by decide) (by decide)).trans (setB_bit _ _ _ _ (by decide) rfl), nofun⟩
    | false => exact ⟨((reject3_own .sch _ _ _).bit _ _ _).trans ha, fun _ => reject3_turned .sch _ _ _ _⟩
  · refine completes_run rfl ?_
    rw [run_coreDo _ _ hh]
    exact hlSwitch_spec hs ha ht
  · refine completes_run rfl ?_
    rw [run_coreDo _ _ hh, gateEdge, run_look, run_when_eq_true hs]
    exact syncGates_gates _ _
  · obtain ⟨h1, h2, h3⟩ := hl_noPort h (v := v) hs
    refine ⟨completes_run rfl ?_, completes_run rfl ?_, completes_run rfl ?_⟩
    · rw [h1]; exact ⟨rfl, rfl⟩
    · rw [h2]; exact ⟨rfl, rfl⟩
    · rw [h3]; exact ⟨rfl, rfl⟩
  · refine ⟨completes_run rfl ?_, completes_run rfl ?_⟩
    · rw [run_coreDo _ _ hh, hlSwitch, run_look, run_when_eq_false (by simp [hs])]
    · rw [run_coreDo _ _ hh, gateEdge, run_look, run_when_eq_false hs]

end Sys2Proof.Machine
end

section
/-!
PROOF. END of a routine outside the modes in which the engines run (R148, R330).
-/
set_option Elab.async false
namespace Sys2Proof.Machine

/-- A protocol engine that has reached END with one staged write of state memory, before the device has entered a mode in which
the engines run. -/
def endedBeforeOpen : State :=
  { State.reset with pe := { State.reset.pe with eng := { State.reset.pe.eng with run := true, fin := 1, staged := [(9, 0, 0, [])] } } }

theorem endedBeforeOpen_engineMode : endedBeforeOpen.engineMode = false := by decide +kernel

/-- In no such mode does END free the engine. -/
theorem endRoutine_pe_keeps_run (s : State) (h : s.engineMode = false) : (run (endRoutine .pe) s).pe = s.pe := by
  simp [endRoutine, run_look, h]

/-- Refutes O41: its first clause lets the mode be any, and END frees the engine only in a mode in which the engines run (R330). In
`endedBeforeOpen` the engine still runs after the step. -/
theorem not_routinesEndAndMachineChecksResume : ¬ Obligations.RoutinesEndAndMachineChecksResume := by
  unfold Obligations.RoutinesEndAndMachineChecksResume
  rintro ⟨hend, -⟩
  have hhalt : endedBeforeOpen.halted = false := by decide +kernel
  have h := completes_next (a := coreDo (endRoutine .pe)) rfl (hend endedBeforeOpen 0 0 [] hhalt rfl rfl rfl rfl)
  obtain ⟨hrun, -⟩ := h
  rw [run_coreDo _ _ hhalt, endRoutine_pe_keeps_run _ endedBeforeOpen_engineMode] at hrun
  exact absurd hrun (by decide)

end Sys2Proof.Machine
end

section
/-!
PROOF. SPDM sessions and the entropy source (R399, R402, R404, R405). A request first restarts the time of its session (`spdmTouch`); its
answer enters the transcripts and goes out (`spdmReply`), and neither adds, ends or establishes a session.
-/
set_option Elab.async false
namespace Sys2Proof.Machine

/-! ### The parts of a request's row -/

/-- The message restarts the time of the session it came in. -/
def spdmTouch (t : Transport) (x : SpdmIn) : Act :=
  .look fun s => match s.sessOf t x with
    | some y => modSess y.sid fun z => { z with last := s.time.words }
    | none => .skip

/-- An answer enters the transcripts and goes out. -/
def spdmReply (t : Transport) (x : SpdmIn) (msg l : List Byte) : Act := acts [trNote t x msg l, spdmSend t l]

/-- The sessions of a state. -/
def State.sessions (s : State) : List Session := s.sec.sess

theorem run_spdmRow {code : Nat} {t : Transport} {x : SpdmIn} {msg : List Byte} {s : State} (h : asks s t code msg)
    (hc : code ≠ rqChunkSend) :
    run (spdmRow code t x msg) s = run (spdmAnswer t x msg (spdmSend t)) (run (spdmTouch t x) s) := by
  obtain ⟨hup, hcode⟩ := h
  simp only [spdmRow, run_look, hup, hcode, if_neg hc, beq_self_eq_true, Bool.and_self, run_when_true, run_acts_cons, run_acts_nil]
  rfl

theorem spdmTouch_framed (t : Transport) (x : SpdmIn) : (spdmTouch t x).Framed [.sec] [] := .look fun s => by
  split
  · exact modSess_framed _ _
  · exact .skip

theorem run_spdmTouch_none {t : Transport} {x : SpdmIn} {s : State} (h : s.sessOf t x = none) : run (spdmTouch t x) s = s := by
  rw [spdmTouch, run_look, h]; rfl

theorem run_spdmTouch_some {t : Transport} {x : SpdmIn} {s : State} {y : Session} (h : s.sessOf t x = some y) :
    run (spdmTouch t x) s = run (modSess y.sid fun z => { z with last := s.time.words }) s := by
  rw [spdmTouch, run_look, h]

theorem sessions_modSess (sid : Nat) (f : Session → Session) (s : State) :
    (run (modSess sid f) s).sessions = s.sessions.map fun z => if z.sid = sid then f z else z := rfl

theorem modSess_mem {sid : Nat} {f : Session → Session} {s : State} {y : Session} (hy : y ∈ s.sessions) (hsid : y.sid = sid) :
    f y ∈ (run (modSess sid f) s).sessions := by
  rw [sessions_modSess]
  exact List.mem_map.2 ⟨y, hy, if_pos hsid⟩

theorem sessOf_iff {t : Transport} {x : SpdmIn} {s : State} {y : Session} :
    s.sessOf t x = some y ↔ ∃ n, x.sid = some n ∧ (s.sessions.find? fun y => y.sid == n && y.doe == (t == .doe)) = some y := by
  unfold State.sessOf State.sessions
  cases x.sid <;> simp

theorem sessOf_mem {t : Transport} {x : SpdmIn} {s : State} {y : Session} (h : s.sessOf t x = some y) : y ∈ s.sessions := by
  obtain ⟨n, -, hf⟩ := sessOf_iff.1 h
  exact List.mem_of_find?_eq_some hf

/-- A request still came in the same session once its time has restarted. -/
theorem sessOf_spdmTouch {t : Transport} {x : SpdmIn} {s : State} {y : Session} (h : s.sessOf t x = some y) :
    (run (spdmTouch t x) s).sessOf t x = some { y with last := s.time.words } := by
  obtain ⟨n, hx, hf⟩ := sessOf_iff.1 h
  rw [run_spdmTouch_some h]
  refine sessOf_iff.2 ⟨n, hx, ?_⟩
  have hcomp : ((fun z : Session => z.sid == n && z.doe == (t == .doe)) ∘
      fun z => if z.sid = y.sid then { z with last := s.time.words } else z) = fun z => z.sid == n && z.doe == (t == .doe) := by
    funext z
    dsimp only [Function.comp_apply]
    split <;> rfl
  rw [sessions_modSess, List.find?_map, hcomp, hf]
  exact congrArg some (if_pos rfl)

theorem spdmVer_spdmTouch (t : Transport) (x : SpdmIn) (s : State) : (run (spdmTouch t x) s).spdmVer t = s.spdmVer t := by
  cases h : s.sessOf t x with
  | none => rw [run_spdmTouch_none h]
  | some y => rw [run_spdmTouch_some h]; rfl

/-! ### Answers -/

theorem trNote_keeps_sessions (t : Transport) (x : SpdmIn) (msg l : List Byte) : (trNote t x msg l).keeps State.sessions :=
  keeps_when fun s => by
    unfold State.sessions
    rw [run_modSec]
    split_ifs <;> rfl

theorem spdmSend_keeps_sessions (t : Transport) (l : List Byte) : (spdmSend t l).keeps State.sessions :=
  keeps_ite (fun _ => rfl) (keeps_look fun _ => .acts ⟨fun _ => rfl, fun _ => rfl, trivial⟩)

theorem spdmReply_keeps_sessions (t : Transport) (x : SpdmIn) (msg l : List Byte) : (spdmReply t x msg l).keeps State.sessions :=
  .acts ⟨trNote_keeps_sessions t x msg l, spdmSend_keeps_sessions t l, trivial⟩

theorem spdmReply_framed (t : Transport) (x : SpdmIn) (msg l : List Byte) : (spdmReply t x msg l).Framed [.out, .sec] [] :=
  .acts ⟨(trNote_framed _ _ _ _).widen, spdmSend_framed _ _, trivial⟩

/-- A response that fits one message is the last thing sent. -/
theorem spdmReply_answers {t : Transport} {x : SpdmIn} {msg l : List Byte} {s : State} (h : l.length ≤ dataTransferSize) :
    answers (run (spdmReply t x msg l) s) t l := by
  rw [spdmReply, run_acts_cons, run_acts_cons, run_acts_nil, spdmSend, if_pos h]
  rfl

/-- The error and the header of a response fit one message. -/
theorem spdmReply_answers_short {t : Transport} {x : SpdmIn} {msg : List Byte} {s : State} (code p1 p2 : Nat) :
    answers (run (spdmReply t x msg (spdmHdr code p1 p2)) s) t (spdmHdr code p1 p2) :=
  spdmReply_answers (show 4 ≤ 4096 by decide)

/-! ### The answer of each request that opens, uses or ends a session -/

section answer
variable {t : Transport} {x : SpdmIn} {msg : List Byte} {s : State} (hv : leAt msg 0 1 = 0x13) (h3 : 3 ≤ s.spdmVer t)
include hv h3

theorem run_spdmAnswer_keyExchange (hc : leAt msg 1 1 = rqKeyExchange) :
    run (spdmAnswer t x msg (spdmSend t)) s = run (spKeyExRsp t msg (spdmReply t x msg)) s := by
  rw [spdmAnswer, run_look, hc, hv]
  simp [rqKeyExchange, spdmSupported, rqVersion, rqCapabilities, rqAlgorithms, rqDigests, rqCertificate, rqChallenge, rqMeasurements,
    Nat.not_lt.2 h3]
  rfl

theorem run_spdmAnswer_finish (hc : leAt msg 1 1 = rqFinish) :
    run (spdmAnswer t x msg (spdmSend t)) s = run (spFinishRsp t x (spdmReply t x msg)) s := by
  rw [spdmAnswer, run_look, hc, hv]
  simp [rqKeyExchange, rqFinish, spdmSupported, rqVersion, rqCapabilities, rqAlgorithms, rqDigests, rqCertificate, rqChallenge,
    rqMeasurements, Nat.not_lt.2 h3]
  rfl

theorem run_spdmAnswer_heartbeat (hc : leAt msg 1 1 = rqHeartbeat) : run (spdmAnswer t x msg (spdmSend t)) s =
    run (inSession t x (spdmReply t x msg) fun _ => spdmReply t x msg (spdmHdr 0x68 0 0)) s := by
  rw [spdmAnswer, run_look, hc, hv]
  simp [rqKeyExchange, rqFinish, rqHeartbeat, spdmSupported, rqVersion, rqCapabilities, rqAlgorithms, rqDigests, rqCertificate,
    rqChallenge, rqMeasurements, Nat.not_lt.2 h3]
  rfl

theorem run_spdmAnswer_keyUpdate (hc : leAt msg 1 1 = rqKeyUpdate) :
    run (spdmAnswer t x msg (spdmSend t)) s = run (spKeyUpdateRsp t x msg (spdmReply t x msg)) s := by
  rw [spdmAnswer, run_look, hc, hv]
  simp [rqKeyExchange, rqFinish, rqHeartbeat, rqKeyUpdate, spdmSupported, rqVersion, rqCapabilities, rqAlgorithms, rqDigests,
    rqCertificate, rqChallenge, rqMeasurements, Nat.not_lt.2 h3]
  rfl

theorem run_spdmAnswer_endSession (hc : leAt msg 1 1 = rqEndSession) : run (spdmAnswer t x msg (spdmSend t)) s =
    run (inSession t x (spdmReply t x msg) fun y => acts [spdmReply t x msg (spdmHdr 0x6C 0 0), sessEnd fun z => z.sid == y.sid]) s := by
  rw [spdmAnswer, run_look, hc, hv]
  simp [rqKeyExchange, rqFinish, rqHeartbeat, rqKeyUpdate, rqEndSession, spdmSupported, rqVersion, rqCapabilities, rqAlgorithms, rqDigests,
    rqCertificate, rqChallenge, rqMeasurements, Nat.not_lt.2 h3]
  rfl
end answer

/-! ### Sessions end (R405) -/

theorem sessions_sessEnd (p : Session → Bool) (s : State) : (run (sessEnd p) s).sessions = s.sessions.filter fun z => !p z := by
  have hkeep (b : Bool) : (acts [sessSync, when b (raise F.SEC_EVT_CAUSE_SESSION_END 0)]).keeps State.sessions := by
    have hf : (acts [sessSync, when b (raise F.SEC_EVT_CAUSE_SESSION_END 0)]).Framed occurParts (.SEC_EVT_CAUSE :: .SEC_STATUS :: occurRegs) :=
      .acts ⟨sessSync_framed.widen, .when (raise_own _ _).widen, trivial⟩
    exact fun u => congrArg SecS.sess (hf.sec u)
  exact hkeep _ _

theorem sessEnd_none_left (sid : Nat) (s : State) : ∀ z ∈ (run (sessEnd fun z => z.sid == sid) s).sessions, z.sid ≠ sid := by
  intro z hz
  rw [sessions_sessEnd, List.mem_filter] at hz
  simpa using hz.2

/-- The end of an established session is an event. -/
theorem sessEnd_event {p : Session → Bool} {s : State} {y : Session} (hy : y ∈ s.sessions) (hp : p y = true) (ho : y.open_ = true) :
    (run (sessEnd p) s).rawFld F.SEC_EVT_CAUSE_SESSION_END 0 = 1 := by
  have hany : (s.sec.sess.any fun z => p z && z.open_) = true := List.any_eq_true.2 ⟨y, hy, by rw [hp, ho]; rfl⟩
  rw [sessEnd, run_look, hany, run_acts_cons, run_acts_cons, run_acts_cons, run_acts_nil, run_when_true]
  exact raise_rawFld _ _ _ (by decide) rfl (by decide)

/-! ### What has been sent stays sent -/

theorem mem_out_run {o : Out} (a : Act) {s : State} (h : o ∈ s.out) : o ∈ (run a s).out := by
  have hgrow (u : Upd) (s : State) (h : o ∈ s.out) : o ∈ (applyUpd u s).out := by
    by_cases hu : u.part = .out
    · cases u with
      | out x => exact List.mem_cons_of_mem _ h
      | keep t p => cases t <;> cases hu
      | _ => cases hu
    · rwa [applyUpd_out s u hu]
  induction a generalizing s with
  | skip => exact h
  | upd u => exact hgrow u s h
  | seq a b iha ihb => exact ihb (iha h)
  | look f ih => exact ih s h

/-! ### KEY_EXCHANGE (R404) -/

theorem keeps_freeOctets {α : Type} {g : State → α} {n : Nat} {k : List Byte → Act} (hf : (Act.upd .fresh).keeps g) (hk : ∀ l, (k l).keeps g) :
    (freeOctets n k).keeps g := keeps_draw hf fun _ => hk _

theorem keeps_signed {α : Type} {g : State → α} {ctx msg : List Byte} {k : List Byte → Act} (hf : (Act.upd .fresh).keeps g)
    (hk : ∀ l, (k l).keeps g) : (signed ctx msg k).keeps g :=
  keeps_look fun _ => keeps_ite (keeps_draw hf fun _ => keeps_look fun _ => hk _) (keeps_look fun _ => hk _)

theorem fresh_keeps_sessions : (Act.upd .fresh).keeps State.sessions := fun _ => rfl

theorem spKeyExRsp_rejects_full {t : Transport} {x : SpdmIn} {msg : List Byte} {s : State} (h3 : leAt msg 3 1 = 0)
    (h2 : leAt msg 2 1 = 0 ∨ leAt msg 2 1 = 1 ∨ leAt msg 2 1 = 255)
    (hfull : 2 ≤ (s.sec.sess.filter fun y => y.doe == (t == .doe)).length) :
    run (spKeyExRsp t msg (spdmReply t x msg)) s = run (spdmReply t x msg (spdmError spSessLimit 0)) s := by
  rw [spKeyExRsp, run_look]
  dsimp only
  rw [if_neg (by simp [h3, h2]), if_pos hfull]

theorem spKeyExRsp_rejects_entropy {t : Transport} {x : SpdmIn} {msg : List Byte} {s : State} (h3 : leAt msg 3 1 = 0)
    (h2 : leAt msg 2 1 = 0 ∨ leAt msg 2 1 = 1 ∨ leAt msg 2 1 = 255)
    (hroom : ¬ 2 ≤ (s.sec.sess.filter fun y => y.doe == (t == .doe)).length) (he : s.entropyOk = false) :
    run (spKeyExRsp t msg (spdmReply t x msg)) s = run (spdmReply t x msg (spdmError spUnspecified 0)) s := by
  rw [spKeyExRsp, run_look]
  dsimp only
  rw [if_neg (by simp [h3, h2]), if_neg hroom, withNonce, run_look, he, if_neg Bool.false_ne_true]

theorem spKeyExRsp_adds {t : Transport} {x : SpdmIn} {msg : List Byte} {s : State} (h3 : leAt msg 3 1 = 0)
    (h2 : leAt msg 2 1 = 0 ∨ leAt msg 2 1 = 1 ∨ leAt msg 2 1 = 255)
    (hroom : ¬ 2 ≤ (s.sec.sess.filter fun y => y.doe == (t == .doe)).length) (he : s.entropyOk = true) :
    ∃ sid, (run (spKeyExRsp t msg (spdmReply t x msg)) s).sessions =
      s.sessions ++ [{ doe := t == .doe, sid := sid, last := s.time.words }] := by
  rw [spKeyExRsp, run_look]
  dsimp only
  rw [if_neg (by simp [h3, h2]), if_neg hroom, withNonce, run_look, if_pos he]
  rw [freeOctets, draw, run_look, run_seq, draw, run_look, run_seq, run_look, run_acts_cons, run_acts_cons, run_acts_nil, keeps_freeOctets fresh_keeps_sessions fun _ => keeps_signed fresh_keeps_sessions fun _ =>
    spdmReply_keeps_sessions t x msg _]
  exact ⟨_, rfl⟩

/-! ### FINISH (R404) -/

/-- What FINISH finds: whether the requester's session is a secure one. -/
def State.finishSecure (s : State) (t : Transport) (x : SpdmIn) : Bool :=
  t == .doe && s.bit F.SEC_CFG_SECURE_SESSION_EN 0 && (match x.leaf with | some h => s.secureLeaf h | none => false)

theorem finishSecure_spdmTouch (t : Transport) (x : SpdmIn) (s : State) : (run (spdmTouch t x) s).finishSecure t x = s.finishSecure t x := by
  cases h : s.sessOf t x with
  | none => rw [run_spdmTouch_none h]
  | some y => rw [run_spdmTouch_some h]; rfl

theorem spFinishRsp_good {t : Transport} {x : SpdmIn} {msg : List Byte} {s : State} {y : Session} (hy : s.sessOf t x = some y)
    (ho : y.open_ = false) (hg : x.good = true) : ∃ z ∈ (run (spFinishRsp t x (spdmReply t x msg)) s).sessions,
      z.sid = y.sid ∧ z.open_ = true ∧ z.secure = s.finishSecure t x := by
  have hkeep (b : Bool) : (acts [raise F.SEC_EVT_CAUSE_SESSION_OPEN 0, when b (raise F.SEC_EVT_CAUSE_SECURE_SESSION 0), sessSync,
      spdmReply t x msg (spdmHdr 0x65 0 0)]).keeps State.sessions := by
    have hsec {a : Act} {R : List Reg} (h : a.Framed occurParts R) : a.keeps State.sessions := fun u => congrArg SecS.sess (h.sec u)
    exact .acts ⟨hsec (raise_own _ _), keeps_when (hsec (raise_own _ _)), fun u => congrArg SecS.sess (sessSync_framed.sec u),
      spdmReply_keeps_sessions _ _ _ _, trivial⟩
  rw [spFinishRsp, run_look, hy]
  dsimp only
  rw [if_neg (by simp [ho]), if_neg (by simp [hg]), run_acts_cons, hkeep]
  exact ⟨_, modSess_mem (sessOf_mem hy) rfl, rfl, rfl, rfl⟩

theorem spFinishRsp_bad {t : Transport} {x : SpdmIn} {msg : List Byte} {s : State} {y : Session} (hy : s.sessOf t x = some y)
    (ho : y.open_ = false) (hg : x.good = false) :
    (∀ z ∈ (run (spFinishRsp t x (spdmReply t x msg)) s).sessions, z.sid ≠ y.sid) ∧
      (run (spFinishRsp t x (spdmReply t x msg)) s).rawFld F.SEC_EVT_CAUSE_AUTH_FAIL 0 = 1 := by
  rw [spFinishRsp, run_look, hy]
  dsimp only
  rw [if_neg (by simp [ho]), if_pos (by simp [hg]), run_acts_cons, run_acts_cons, run_acts_cons, run_acts_nil]
  constructor
  · rw [spdmReply_keeps_sessions, State.sessions, (raise_own _ _).sec]
    exact sessEnd_none_left y.sid s
  · rw [(spdmReply_framed _ _ _ _).rawFld F.SEC_EVT_CAUSE_AUTH_FAIL]
    exact raise_rawFld _ _ _ (by decide) rfl (by decide)

/-! ### Requests inside an established session -/

theorem run_inSession {t : Transport} {x : SpdmIn} {s : State} {y : Session} (hy : s.sessOf t x = some y) (ho : y.open_ = true)
    (rsp : List Byte → Act) (k : Session → Act) : run (inSession t x rsp k) s = run (k y) s := by
  rw [inSession, run_look, hy]
  exact congrArg (run · s) (if_pos ho)

theorem spKeyUpdateRsp_updates {t : Transport} {x : SpdmIn} {msg : List Byte} {s : State} {y : Session} (hy : s.sessOf t x = some y)
    (ho : y.open_ = true) (hop : leAt msg 2 1 = 1 ∨ leAt msg 2 1 = 2) :
    run (spKeyUpdateRsp t x msg (spdmReply t x msg)) s = run (spdmReply t x msg (spdmHdr 0x69 (leAt msg 2 1) (leAt msg 3 1)))
      (run (modSess y.sid fun z => { z with keyGen := z.keyGen + 1 }) s) := by
  rw [spKeyUpdateRsp, run_inSession hy ho]
  dsimp only
  rw [if_neg (by omega), run_acts_cons, run_acts_cons, run_acts_nil, run_when_eq_true (decide_eq_true (by omega))]

/-! ### The entropy source (R399) -/

theorem drawBootId_isSome (s : State) : (run drawBootId s).sec.bootId.isSome = true := by
  rw [drawBootId, run_look]
  cases h : s.sec.bootId with
  | none => rfl
  | some b => exact congrArg Option.isSome h

theorem drawBootId_drawn {s : State} (h : s.sec.bootId.isSome = true) : run drawBootId s = s := by
  obtain ⟨b, hb⟩ := Option.isSome_iff_exists.1 h
  rw [drawBootId, run_look, hb]; rfl

theorem entropyFail_shown {s : State} (hr : s.secRuns = true) (he : s.entropyOk = true) :
    (run entropyFail s).entropyOk = false ∧ (run entropyFail s).rawFld F.SEC_EVT_CAUSE_ENTROPY_FAIL 0 = 1 := by
  rw [entropyFail, run_look, hr, he, run_acts_cons, run_acts_cons, run_acts_nil, Bool.and_self, run_when_true, run_acts_cons, run_acts_cons,
    run_acts_nil]
  constructor
  · rw [State.entropyOk, (raise_own _ _).bit F.SEC_STATUS_ENTROPY_OK]
    exact setB_bit _ _ _ _ (by decide) rfl
  · exact raise_rawFld _ _ _ (by decide) rfl (by decide)

theorem entropyRecover_early {s : State} (h : s.aged s.sec.entropyAt 1000000000 = false) : run entropyRecover s = s := by
  rw [entropyRecover, run_look, h, Bool.and_false, run_when_false]

/-- 1 s of passing tests: the source is shown in service, and BOOT_ID drawn. -/
theorem run_entropyRecover {s : State} (hb : s.sec.entropyBad = true) (ha : s.aged s.sec.entropyAt 1000000000 = true)
    (hr : s.secRuns = true) : run entropyRecover s =
      run drawBootId (run (setB F.SEC_STATUS_ENTROPY_OK 0 true) (run (modSec fun c => { c with entropyBad := false }) s)) := by
  rw [entropyRecover, run_look, hb, ha, hr]
  rfl

theorem entropyRecover_shown {s : State} (hb : s.sec.entropyBad = true) (ha : s.aged s.sec.entropyAt 1000000000 = true)
    (hr : s.secRuns = true) : (run entropyRecover s).entropyOk = true ∧ (run entropyRecover s).sec.bootId.isSome = true ∧
      (s.sec.bootId.isSome = true → (run entropyRecover s).sec.bootId = s.sec.bootId) := by
  rw [run_entropyRecover hb ha hr]
  refine ⟨?_, drawBootId_isSome _, fun hid => ?_⟩
  · rw [State.entropyOk, drawBootId_framed.bit F.SEC_STATUS_ENTROPY_OK]
    exact setB_bit _ _ _ _ (by decide) rfl
  · have hsec := (setB_own F.SEC_STATUS_ENTROPY_OK 0 true).sec (run (modSec fun c => { c with entropyBad := false }) s)
    rw [drawBootId_drawn (by rw [hsec]; exact hid), hsec]
    rfl

theorem securedMessageFail_ends {t : Transport} {sid : Nat} {s : State} (hup : s.spdmUp t = true)
    (hy : ∃ y ∈ s.sec.sess, y.sid = sid ∧ y.doe = (t == .doe)) : (∀ z ∈ (run (securedMessageFail t sid) s).sec.sess, z.sid ≠ sid) ∧
      (run (securedMessageFail t sid) s).rawFld F.SEC_EVT_CAUSE_AUTH_FAIL 0 = 1 := by
  obtain ⟨y, hmem, hsid, hdoe⟩ := hy
  have hany : (s.sec.sess.any fun z => z.sid == sid && z.doe == (t == .doe)) = true :=
    List.any_eq_true.2 ⟨y, hmem, by simp [hsid, hdoe]⟩
  rw [securedMessageFail, run_look, hup, hany, Bool.and_self, run_when_true, run_acts_cons, run_acts_cons, run_acts_nil]
  refine ⟨?_, raise_rawFld _ _ _ (by decide) rfl (by decide)⟩
  rw [(raise_own _ _).sec]
  exact sessEnd_none_left sid s

/-! ### The obligation -/

/-- What a request brings is what its answer brings, once the time of its session has restarted. -/
theorem completes_request {code : Nat} {c : Instr} {t : Transport} {x : SpdmIn} {msg : List Byte} {s : State} {P : State → Prop}
    (hexec : exec c s = .next (run (coreDo (spdmRow code t x msg)) s)) (hh : s.halted = false) (h : asks s t code msg)
    (hc : code ≠ rqChunkSend) (hp : P (run (spdmAnswer t x msg (spdmSend t)) (run (spdmTouch t x) s))) : Completes c s P := by
  refine completes_run hexec ?_
  rwa [run_coreDo _ _ hh, run_spdmRow h hc]

/-- Settles O45: each request is followed through its row, whose answer keeps the sessions as the request left them. -/
theorem sessionsOpenAndEnd : Obligations.SessionsOpenAndEnd := by
  unfold Obligations.SessionsOpenAndEnd
  refine ⟨?_, ?_, ?_, ?_, ?_, ?_, ?_, ?_, ?_, ?_⟩
  case refine_1 =>
    intro s t x msg hh h hv h3 hslot hsum hx
    refine completes_request rfl hh h (by decide) ?_
    rw [run_spdmTouch_none (by rw [State.sessOf, hx]), run_spdmAnswer_keyExchange hv h3 h.2]
    split_ifs with hfull he
    · rw [spKeyExRsp_rejects_full hslot hsum hfull]
      exact ⟨spdmReply_keeps_sessions _ _ _ _ _, spdmReply_answers_short _ _ _⟩
    · exact spKeyExRsp_adds hslot hsum hfull he
    · rw [spKeyExRsp_rejects_entropy hslot hsum hfull (Bool.eq_false_iff.2 he)]
      exact ⟨spdmReply_keeps_sessions _ _ _ _ _, spdmReply_answers_short _ _ _⟩
  case refine_2 =>
    intro s t x msg y hh h hv h3 hy ho
    refine completes_request rfl hh h (by decide) ?_
    rw [run_spdmAnswer_finish hv ((spdmVer_spdmTouch t x s).symm ▸ h3) h.2]
    have hy' := sessOf_spdmTouch hy
    split_ifs with hg
    · obtain ⟨z, hz, hsid, hopen, hsec⟩ := spFinishRsp_good (msg := msg) hy' ho hg
      exact ⟨z, hz, hsid, hopen, hsec.trans (finishSecure_spdmTouch t x s)⟩
    · have hbad := spFinishRsp_bad (msg := msg) hy' ho (Bool.eq_false_iff.2 hg)
      exact hbad
  case refine_3 =>
    intro s t x msg y hh h hv h3 hy ho
    refine completes_request rfl hh h (by decide) ?_
    rw [run_spdmAnswer_heartbeat hv ((spdmVer_spdmTouch t x s).symm ▸ h3) h.2, run_inSession (sessOf_spdmTouch hy) ho]
    refine ⟨spdmReply_answers_short _ _ _, fun z hz hsid => ?_⟩
    rw [← State.sessions, spdmReply_keeps_sessions, run_spdmTouch_some hy, sessions_modSess, List.mem_map] at hz
    obtain ⟨w, -, rfl⟩ := hz
    split_ifs at hsid ⊢ with hw
    · rfl
    · exact absurd hsid hw
  case refine_4 =>
    intro s t x msg y hh h hv h3 hy ho hop
    refine completes_request rfl hh h (by decide) ?_
    rw [run_spdmAnswer_keyUpdate hv ((spdmVer_spdmTouch t x s).symm ▸ h3) h.2, spKeyUpdateRsp_updates (sessOf_spdmTouch hy) ho hop]
    refine ⟨spdmReply_answers_short _ _ _, ?_⟩
    rw [← State.sessions, spdmReply_keeps_sessions]
    exact ⟨_, modSess_mem (sessOf_mem (sessOf_spdmTouch hy)) rfl, rfl, rfl⟩
  case refine_5 =>
    intro s t x msg y hh h hv h3 hy ho
    refine completes_request rfl hh h (by decide) ?_
    have hy' := sessOf_spdmTouch hy
    rw [run_spdmAnswer_endSession hv ((spdmVer_spdmTouch t x s).symm ▸ h3) h.2, run_inSession hy' ho, run_acts_cons, run_acts_cons,
      run_acts_nil]
    refine ⟨sessEnd_none_left y.sid _, mem_out_run _ (List.mem_of_mem_head? (spdmReply_answers_short _ _ _)), ?_⟩
    refine sessEnd_event ?_ (beq_self_eq_true _) ho
    rw [spdmReply_keeps_sessions]
    exact sessOf_mem hy'
  case refine_6 =>
    intro s t sid hh hup hy
    refine completes_run rfl ?_
    rw [run_coreDo _ _ hh]
    exact securedMessageFail_ends hup hy
  case refine_7 =>
    intro s sid hh
    refine completes_run rfl ?_
    rw [run_coreDo _ _ hh, sessionHeartbeatTimeout, run_look]
    exact sessions_sessEnd _ s
  case refine_8 => exact fun s hr he => completes_run rfl (entropyFail_shown hr he)
  case refine_9 => exact fun s _ ha => completes_run rfl (entropyRecover_early ha)
  case refine_10 => exact fun s _ _ hb hr ha => completes_run rfl (entropyRecover_shown hb ha hr)

end Sys2Proof.Machine
end

section
/-!
PROOF. HEAD of a ring whose size DMA_RING_CFG gives as more than the 12 bits of DMA_RING_HEAD.HEAD count (R365, R369).
-/
set_option Elab.async false
namespace Sys2Proof.Machine

/-- The running device with a host ring of 2^13 entries, one more power of two than the range of LOG2_SIZE ends at, and HEAD at 4095. -/
def oversizedRing : State :=
  Tests.tune [setF F.DMA_RING_CFG_LOG2_SIZE 0 13, setB F.DMA_RING_CFG_EN 0 true, setF F.DMA_RING_HEAD_HEAD 0 4095,
    modMode fun m => { m with started := true }]

/-- Entry 4096 does not fit HEAD, which wraps to 0. -/
theorem oversizedRing_head : (run (coreDo (dmaDescriptorExecute 0 [1] none)) oversizedRing).ringHead 0 = 0 := by decide +kernel

theorem oversizedRing_next : (oversizedRing.ringHead 0 + 1) % oversizedRing.ringSize 0 = 4096 := by decide +kernel

/-- Refutes O46: HEAD moves on by one modulo the ring's size only where the size fits HEAD's 12 bits, and the clauses on descriptors do not
bound LOG2_SIZE. In `oversizedRing` a descriptor of an invalid address moves HEAD from 4095 to 0. -/
theorem not_tablesAreOwnedAndRingsFed : ¬ Obligations.TablesAreOwnedAndRingsFed := by
  unfold Obligations.TablesAreOwnedAndRingsFed
  rintro ⟨-, -, -, -, -, -, hbad, -⟩
  have hne : oversizedRing.ringHead 0 ≠ oversizedRing.fld F.DMA_RING_TAIL_TAIL 0 := by decide +kernel
  have h := completes_next (a := coreDo (dmaDescriptorExecute 0 [1] none)) rfl
    (hbad oversizedRing [1] none (by decide +kernel) (by decide +kernel) hne (by decide +kernel) (by decide +kernel) (by decide +kernel)
      (by decide +kernel) (.inl (by decide +kernel)) (.inl (by decide)))
  obtain ⟨-, hhead⟩ := h
  rw [oversizedRing_next, oversizedRing_head] at hhead
  exact absurd hhead (by decide)

end Sys2Proof.Machine
end

section
/-!
PROOF. A register write field by field (R6, R275): how the fields of the registers lie, what one field's write leaves in it, and that it
leaves every other field as it was.
-/
set_option Elab.async false
namespace Sys2Proof.Machine

/-! ### How the fields of a register lie -/

/-- The registers with a write-only field for secure masters; each has a command of its own. -/
def secureStrobes : List Reg := [.AISLE_MC_CTL, .PE_MC_CTL, .CLK_WDT_KICK, .SEC_SVN_CTL, .SEC_OTP_CTL]

/-- Every field but a write-only one is held, no two fields share a bit, and only SEC_CFG has locked fields. -/
def Reg.laidOut (r : Reg) : Bool :=
  (r.fields.all fun f => (f.fld r).held || f.ty == .wo && (!f.sec || secureStrobes.contains r)) &&
    decide (r.fields.Pairwise fun f g => (f.fld r).apart (g.fld r) = true) && (r.fields.all fun f => f.ty != .lck || r == .SEC_CFG)

theorem Reg.laidOut_all (r : Reg) : r.laidOut = true := by
  cases r <;> decide +kernel

theorem fields_held {r : Reg} {f : FieldInfo} (hf : f ∈ r.fields) (hty : f.ty ≠ .wo) : (f.fld r).held = true := by
  have h := r.laidOut_all
  simp only [Reg.laidOut, Bool.and_eq_true, List.all_eq_true] at h
  simpa [hty] using h.1.1 f hf

theorem fields_held_or_open {r : Reg} {f : FieldInfo} (hf : f ∈ r.fields) (hr : secureStrobes.contains r = false) :
    (f.fld r).held = true ∨ f.ty = .wo ∧ f.sec = false := by
  have h := r.laidOut_all
  simp only [Reg.laidOut, Bool.and_eq_true, List.all_eq_true] at h
  have hn : r ∉ secureStrobes := by simpa using hr
  simpa [hn] using h.1.1 f hf

theorem fields_apart (r : Reg) : r.fields.Pairwise fun f g => (f.fld r).apart (g.fld r) = true := by
  have h := r.laidOut_all
  simp only [Reg.laidOut, Bool.and_eq_true, decide_eq_true_eq] at h
  exact h.1.2

theorem fields_unlocked {r : Reg} {f : FieldInfo} (hf : f ∈ r.fields) (hr : r ≠ .SEC_CFG) : f.ty ≠ .lck := by
  have h := r.laidOut_all
  simp only [Reg.laidOut, Bool.and_eq_true, List.all_eq_true] at h
  simpa [hr] using h.2 f hf

theorem Fld.apart_comm {f g : Fld} (h : f.apart g = true) : g.apart f = true := by
  unfold Fld.apart at h ⊢
  simp only [Bool.or_eq_true, bne_iff_ne, decide_eq_true_eq] at h ⊢
  rcases h with h | h
  · exact .inl h.symm
  · exact .inr h.symm

/-! ### Staging a field (R9) -/

theorem stageF_eff (f : Fld) (n v : Nat) (s : State) (g : Fld) (m : Nat) (hg : g.held = true) : (run (stageF f n v) s).fld g m = s.fld g m := by
  simp only [Fld.held, Bool.and_eq_true, decide_eq_true_eq, beq_iff_eq] at hg
  rw [stageF, run_look, run_seq, run_upd, run_upd]
  unfold State.fld
  rw [eff_eq, stagedAt_live]
  split_ifs with h
  · obtain ⟨hr, rfl⟩ := h
    rw [hr] at hg ⊢
    exact bits_and_mask _ _ _ _ hg.1 hg.2
  · rw [raw_live, raw_reg, if_neg h, stagedAt_reg, eff_eq]

theorem stageF_self (f : Fld) (n v : Nat) (s : State) (hf : f.held = true) : (run (stageF f n v) s).rawFld f n = v % 2 ^ f.w := by
  simp only [Fld.held, Bool.and_eq_true, decide_eq_true_eq, beq_iff_eq] at hf
  rw [stageF, run_look, run_seq, run_upd, run_upd, State.rawFld, raw_live, raw_reg_self, bits_and_mask _ _ _ _ hf.1 hf.2,
    bits_and_mask _ _ _ _ hf.1 hf.2, bits_putBits_self _ _ _ _ hf.1]

theorem stageF_raw_apart (f g : Fld) (n m v : Nat) (s : State) (hg : g.held = true) (h : f.apart g = true) :
    (run (stageF f n v) s).rawFld g m = s.rawFld g m := by
  simp only [Fld.held, Bool.and_eq_true, decide_eq_true_eq, beq_iff_eq] at hg
  rw [stageF, run_look, run_seq, run_upd, run_upd, State.rawFld, raw_live, raw_reg, State.rawFld]
  split_ifs with hp
  · obtain ⟨hr, rfl⟩ := hp
    have hd : g.lo + g.w ≤ f.lo ∨ f.lo + f.w ≤ g.lo := by simp [Fld.apart, hr] at h; omega
    rw [hr] at hg ⊢
    rw [bits_and_mask _ _ _ _ hg.1 hg.2, bits_and_mask _ _ _ _ hg.1 hg.2, bits_putBits_other _ _ _ _ _ _ hg.1 hd]
  · rfl

/-- Staging leaves every other place alone. -/
theorem stageF_place (f : Fld) (n v : Nat) (s : State) (r : Reg) (m : Nat) (h : ¬ (r = f.reg ∧ m = n)) :
    (run (stageF f n v) s).raw r m = s.raw r m ∧ (run (stageF f n v) s).eff r m = s.eff r m := by
  rw [stageF, run_look, run_seq, run_upd, run_upd, eff_eq, eff_eq, stagedAt_live, raw_live, raw_reg, stagedAt_reg, if_neg h, if_neg h]
  exact ⟨rfl, rfl⟩

/-! ### One field of a write -/

/-- A field as read and in effect. -/
def State.view (s : State) (f : Fld) (n : Nat) : Nat × Nat := (s.rawFld f n, s.fld f n)

/-- A place of a register, as read and in effect. -/
def State.place (s : State) (r : Reg) (n : Nat) : Word × Word := (s.raw r n, s.eff r n)

section fieldKeeps
variable {α : Type} {g : State → α} {r : Reg} {n : Nat} {f : FieldInfo}

/-- What setting and staging a field keep, its write keeps. -/
theorem writeField_keeps (sec : Bool) (v : Word) (hset : ∀ x, (setF (f.fld r) n x).keeps g) (hstage : ∀ x, (stageF (f.fld r) n x).keeps g) :
    (writeField sec r n v f).keeps g := by
  unfold writeField
  refine keeps_ite keeps_skip ?_
  cases f.ty with
  | ro | wo => exact keeps_skip
  | w1c | w1s => exact keeps_look fun _ => hset _
  | cnt => exact hset _
  | lck => exact keeps_look fun _ => keeps_when (hset _)
  | rw => cases f.ap with
    | none | now => exact hset _
    | pkt | frm | gate | epoch => exact hstage _

end fieldKeeps

theorem writeField_keeps_view (sec : Bool) {r : Reg} (n : Nat) (v : Word) {f : FieldInfo} {p : Fld} (m : Nat) (hp : p.held = true)
    (h : (f.fld r).apart p = true) : (writeField sec r n v f).keeps fun s => s.view p m :=
  writeField_keeps sec v (fun x s => Prod.ext (setF_rawFld_apart _ _ _ _ _ _ hp h) (setF_fld_apart _ _ _ _ _ _ hp h))
    (fun x s => Prod.ext (stageF_raw_apart _ _ _ _ _ _ hp h) (stageF_eff _ _ _ _ _ _ hp))

theorem writeField_keeps_place (sec : Bool) {r : Reg} {n : Nat} (v : Word) (f : FieldInfo) {q : Reg} {m : Nat} (h : ¬ (q = r ∧ m = n)) :
    (writeField sec r n v f).keeps fun s => s.place q m :=
  writeField_keeps sec v (fun x s => Prod.ext (setF_raw _ _ _ _ _ _ h).1 (setF_raw _ _ _ _ _ _ h).2)
    (fun x s => Prod.ext (stageF_place _ _ _ _ _ _ h).1 (stageF_place _ _ _ _ _ _ h).2)

theorem stored_lt (f : FieldInfo) {v : Nat} (h : v < 2 ^ f.w) : f.stored v < 2 ^ f.w := by
  unfold FieldInfo.stored
  split
  · exact h
  · unfold ofSigned
    have hpos : (0 : Int) < ((2 ^ f.w : Nat) : Int) := by exact_mod_cast Nat.two_pow_pos f.w
    exact (Int.toNat_lt' (Nat.two_pow_pos f.w)).2 (Int.emod_lt_of_pos _ hpos)

/-- A bit of a field's word is a bit of the field. -/
theorem getLsbD_rawFld (s : State) (r : Reg) (n : Nat) (f : FieldInfo) {i : Nat} (hi : i < f.w) :
    (s.raw r n).getLsbD (f.lo + i) = (s.rawFld (f.fld r) n).testBit i := by
  rw [State.rawFld, testBit_bits]
  simp [FieldInfo.fld, hi]

/-- What a write leaves in a field depends on the field alone. -/
theorem fieldWritten_congr {sec lock : Bool} {r : Reg} {n : Nat} {v : Word} {f : FieldInfo} {s s' t t' : State}
    (hs : s'.view (f.fld r) n = s.view (f.fld r) n) (ht : t'.view (f.fld r) n = t.view (f.fld r) n)
    (h : fieldWritten sec lock r n v f s t) : fieldWritten sec lock r n v f s' t' := by
  obtain ⟨hs1, hs2⟩ := Prod.ext_iff.1 hs
  obtain ⟨ht1, ht2⟩ := Prod.ext_iff.1 ht
  dsimp only [State.view] at hs1 hs2 ht1 ht2
  have hbit {i : Nat} (hi : i < f.w) : (t'.raw r n).getLsbD (f.lo + i) = (t.raw r n).getLsbD (f.lo + i) ∧
      (s'.raw r n).getLsbD (f.lo + i) = (s.raw r n).getLsbD (f.lo + i) := by
    simp only [getLsbD_rawFld _ _ _ _ hi, hs1, ht1, and_self]
  unfold fieldWritten at h ⊢
  dsimp only at h ⊢
  rw [hs1, hs2, ht1, ht2]
  by_cases hsec : f.sec = true ∧ sec = false
  · rw [if_pos hsec] at h ⊢
    exact h
  · rw [if_neg hsec] at h ⊢
    cases hty : f.ty with
    | w1c | w1s =>
      rw [hty] at h
      dsimp only at h ⊢
      intro i hi
      rw [(hbit hi).1, (hbit hi).2]
      exact h i hi
    | _ => rw [hty] at h; exact h

theorem writeField_skipped {sec : Bool} {r : Reg} {n : Nat} {v : Word} {f : FieldInfo} {s : State} (h : f.sec = true ∧ sec = false) :
    run (writeField sec r n v f) s = s := by
  rw [writeField, if_pos (by simp [h])]; rfl

/-- Clearing bits leaves a number as small as it was. -/
theorem cleared_lt {a w : Nat} (x : Nat) (h : a < 2 ^ w) : (BitVec.ofNat 32 a &&& ~~~ BitVec.ofNat 32 x).toNat < 2 ^ w := by
  rw [BitVec.toNat_and, BitVec.toNat_ofNat]
  exact (Nat.and_le_left.trans (Nat.mod_le _ _)).trans_lt h

theorem testBit_cleared (a x : Nat) {i : Nat} (hi : i < 32) :
    (BitVec.ofNat 32 a &&& ~~~ BitVec.ofNat 32 x).toNat.testBit i = (a.testBit i && !x.testBit i) := by
  rw [← BitVec.getLsbD, BitVec.getLsbD_and, BitVec.getLsbD_not, BitVec.getLsbD_ofNat, BitVec.getLsbD_ofNat]
  simp [hi]

/-- A field of a write that arrived. -/
theorem writeField_written (sec : Bool) {r : Reg} (n : Nat) (v : Word) {f : FieldInfo} (s : State) (hf : (f.fld r).held = true)
    {lock : Bool}
    (hlock : f.ty = .lck → s.cfgLock = lock) : fieldWritten sec lock r n v f s (run (writeField sec r n v f) s) := by
  unfold fieldWritten
  dsimp only
  by_cases hsec : f.sec = true ∧ sec = false
  · rw [if_pos hsec, writeField_skipped hsec]
    exact ⟨rfl, rfl⟩
  have hset (x : Nat) (s : State) (hx : x < 2 ^ f.w) :
      (run (setF (f.fld r) n x) s).rawFld (f.fld r) n = x ∧ (run (setF (f.fld r) n x) s).fld (f.fld r) n = x := by
    obtain ⟨h1, h2⟩ := setF_self (f.fld r) n x s hf
    rw [show (f.fld r).w = f.w from rfl, Nat.mod_eq_of_lt hx] at h1 h2
    exact ⟨h2, h1⟩
  have hx : bits v f.lo f.w < 2 ^ f.w := bits_lt v f.lo f.w
  have hold : s.rawFld (f.fld r) n < 2 ^ f.w := rawFld_lt s (f.fld r) n
  have hw32 : f.w ≤ 32 := by
    simp only [Fld.held, Bool.and_eq_true, decide_eq_true_eq] at hf
    exact (Nat.le_add_left _ _).trans hf.1
  rw [if_neg hsec, writeField, if_neg (by simpa using hsec)]
  cases hty : f.ty with
  | ro => exact ⟨rfl, rfl⟩
  | wo => trivial
  | lck =>
    dsimp only
    rw [run_look, hlock hty]
    cases lock with
    | true => exact rfl
    | false => exact hset _ s (stored_lt f hx)
  | cnt => exact (hset _ s hx).1
  | w1c =>
    intro i hi
    dsimp only
    rw [run_look, getLsbD_rawFld _ _ _ _ hi, getLsbD_rawFld _ _ _ _ hi, (hset _ s (cleared_lt _ hold)).1, testBit_cleared _ _ (Nat.lt_of_lt_of_le hi hw32), testBit_bits,
      decide_eq_true hi, Bool.true_and]
  | w1s =>
    intro i hi
    dsimp only
    rw [run_look, getLsbD_rawFld _ _ _ _ hi, getLsbD_rawFld _ _ _ _ hi, (hset _ s (Nat.or_lt_two_pow hold hx)).1, Nat.testBit_or,
      testBit_bits, decide_eq_true hi, Bool.true_and]
  | rw =>
    cases hap : f.ap with
    | none | now => exact hset _ s (stored_lt f hx)
    | pkt | frm | gate | epoch =>
      refine ⟨?_, stageF_eff _ _ _ _ _ _ hf⟩
      exact (stageF_self _ _ _ _ hf).trans (Nat.mod_eq_of_lt (stored_lt f hx))

end Sys2Proof.Machine
end

section
/-!
PROOF. Writes through the windows (R274, R275, R284): what a write of every field leaves, what a bus error notes, and the locked SEC_CFG.
-/
set_option Elab.async false
namespace Sys2Proof.Machine

/-! ### The fields of a write, one after another -/

/-- A write-only field that any requester may write holds nothing to speak of. -/
theorem fieldWritten_strobe {sec lock : Bool} {r : Reg} {n : Nat} {v : Word} {f : FieldInfo} {s t : State} (hty : f.ty = .wo)
    (hsec : f.sec = false) : fieldWritten sec lock r n v f s t := by
  unfold fieldWritten
  dsimp only
  rw [if_neg (by simp [hsec]), hty]
  trivial

theorem each_writeField_keeps_view (sec : Bool) {r : Reg} (n : Nat) (v : Word) {l : List FieldInfo} {p : Fld} (hp : p.held = true)
    (h : ∀ f ∈ l, (f.fld r).apart p = true) : (each l (writeField sec r n v)).keeps fun s => s.view p n :=
  keeps_each fun f hf => writeField_keeps_view sec n v n hp (h f hf)

theorem writeField_keeps_cfgLock (sec : Bool) {r : Reg} (hr : r ≠ .SEC_LOCK) (n : Nat) (v : Word) (f : FieldInfo) :
    (writeField sec r n v f).keeps State.cfgLock := fun s =>
  (⟨writeField_framed sec r n v f⟩ : (writeField sec r n v f).Framed [.regs, .live] [r]).bit F.SEC_LOCK_CFG_LOCK 0 s (by
    rw [show F.SEC_LOCK_CFG_LOCK.reg = .SEC_LOCK from rfl]
    simpa using hr.symm)

/-- Fields that share no bit are each left as their own write leaves them. -/
theorem each_writeField_written (sec lock : Bool) {r : Reg} (n : Nat) (v : Word) {l : List FieldInfo}
    (hapart : l.Pairwise fun f g => (f.fld r).apart (g.fld r) = true)
    (hl : ∀ f ∈ l, (f.fld r).held = true ∨ f.ty = .wo ∧ f.sec = false) (s : State)
    (hlock : ∀ f ∈ l, f.ty = .lck → r ≠ .SEC_LOCK ∧ s.cfgLock = lock) :
    ∀ f ∈ l, fieldWritten sec lock r n v f s (run (each l (writeField sec r n v)) s) := by
  induction l generalizing s with
  | nil => exact fun _ hf => absurd hf List.not_mem_nil
  | cons g l ih =>
    obtain ⟨hg, hrest⟩ := List.pairwise_cons.1 hapart
    intro f hf
    obtain hheld | ⟨hty, hsec⟩ := hl f hf
    · rw [run_each_cons]
      rcases List.mem_cons.1 hf with rfl | hfl
      · exact fieldWritten_congr rfl
          (each_writeField_keeps_view sec n v hheld (fun x hx => Fld.apart_comm (hg x hx)) _)
          (writeField_written sec n v s hheld fun h => (hlock f hf h).2)
      · exact fieldWritten_congr (writeField_keeps_view sec n v n hheld (hg f hfl) s).symm rfl
          (ih hrest (fun x hx => hl x (List.mem_cons_of_mem _ hx)) _ (fun x hx hty => by
            obtain ⟨hr, hs⟩ := hlock x (List.mem_cons_of_mem _ hx) hty
            exact ⟨hr, (writeField_keeps_cfgLock sec hr n v g s).trans hs⟩) f hfl)
    · exact fieldWritten_strobe hty hsec

theorem each_writeField_framed (sec : Bool) (r : Reg) (n : Nat) (v : Word) (l : List FieldInfo) :
    (each l (writeField sec r n v)).Framed [.regs, .live] [r] := .each fun f _ => ⟨writeField_framed sec r n v f⟩

theorem run_writeFields_unlocked {rq : Req} {r : Reg} {n : Nat} {v : Word} (hr : r ≠ .SEC_CFG) (s : State) :
    run (writeFields rq r n v) s = run (each r.fields (writeField (secureReq rq) r n v)) s := by
  have hany : (r.fields.any fun f => f.ty == .lck && (!f.sec || secureReq rq)) = false := by
    rw [List.any_eq_false]
    intro f hf
    simp [fields_unlocked hf hr]
  rw [writeFields, run_look, hany, Bool.and_false, run_acts_cons, run_acts_cons, run_acts_nil, run_when_false]

/-- What only some parts change, only more of them change. -/
theorem only_mono {P P' : List Part} {s t : State} (h : P.all P'.contains = true) (ho : Only P s t) : Only P' s t := fun x hx =>
  ho x (Bool.eq_false_iff.2 fun hP => by rw [contains_sub h x hP] at hx; exact absurd hx (by decide))

/-! ### Writes that arrive -/

theorem wordWrite_plain {s : State} {rq : Req} {r : Reg} {n : Nat} {v : Word} (ht : s.takes rq r n = true) (hr : r ≠ .SHR_CTL)
    (hrow : rowWrite rq r n v = none) : run (wordWrite rq r n v) s = run (plainWrite (s.asReq rq) r n v) s := by
  rw [wordWrite, run_onWrite ht, if_neg hr, hrow]

theorem registerWrite_away {s : State} {rq : Req} {ok : Bool} {a : Nat} {v : Word} (h : s.arrives rq = false) :
    run (registerWrite rq ok a v) s = s := by
  rw [registerWrite, run_look, h, run_when_false]

theorem registerWrite_found {s : State} {rq : Req} {a : Nat} {v : Word} {r : Reg} {n : Nat} (h : s.arrives rq = true) (ha : a % 4 = 0)
    (hf : (windowAddr rq a).bind findReg = some (r, n)) : run (registerWrite rq true a v) s = run (wordWrite rq r n v) s := by
  rw [registerWrite, run_look, h, run_when_true, if_neg (by simp [ha]), hf]

theorem registerWrite_misshapen {s : State} {rq : Req} {ok : Bool} {a : Nat} {v : Word} (h : s.arrives rq = true)
    (hbad : ok = false ∨ a % 4 ≠ 0 ∨ (windowAddr rq a).bind findReg = none) :
    ∃ kind, run (registerWrite rq ok a v) s = run (busError (s.asReq rq) a kind true) s := by
  rw [registerWrite, run_look, h, run_when_true]
  split_ifs with hshape
  · exact ⟨1, rfl⟩
  · obtain ⟨hok, ha⟩ : ok = true ∧ a % 4 = 0 := by simpa using hshape
    rcases hbad with h0 | h0 | h0
    · exact absurd (hok.symm.trans h0) (by decide)
    · exact absurd ha h0
    · exact ⟨0, by rw [h0]⟩

/-- A register with a command for secure masters only is written by that command. -/
theorem rowWrite_strobe {rq : Req} {r : Reg} {n : Nat} {v : Word} (h : rowWrite rq r n v = none) : secureStrobes.contains r = false := by
  by_contra hc
  have hmem : r ∈ secureStrobes := by simpa using hc
  simp only [secureStrobes, List.mem_cons, List.not_mem_nil, or_false] at hmem
  rcases hmem with rfl | rfl | rfl | rfl | rfl <;> exact absurd h (by simp [rowWrite])

theorem plainWrite_secCfg {rq : Req} {n n' : Nat} {v v' : Word} : plainWrite rq .SEC_CFG n v ≠ writeFields rq .SEC_CFG n' v' := by
  intro h
  cases h

/-- A write without a rule of its own: each field is written, and nothing else changes. -/
theorem writeFields_written {rq : Req} {r : Reg} {n : Nat} {v : Word} (hr : r ≠ .SEC_CFG) (hs : secureStrobes.contains r = false)
    (lock : Bool) (s : State) :
    (∀ f ∈ r.fields, fieldWritten (secureReq rq) lock r n v f s (run (writeFields rq r n v) s)) ∧
    (∀ q m, (q, m) ≠ (r, n) → (run (writeFields rq r n v) s).place q m = s.place q m) ∧ Only wrP s (run (writeFields rq r n v) s) := by
  rw [run_writeFields_unlocked hr]
  refine ⟨each_writeField_written _ lock n v (fields_apart r) (fun f hf => fields_held_or_open hf hs) s
    fun f hf hty => absurd hty (fields_unlocked hf hr),
    fun q m hne => ?_, ?_⟩
  · exact (keeps_each (g := fun s => s.place q m) fun f _ => writeField_keeps_place _ v f fun e => hne (Prod.ext e.1 e.2)) s
  · exact only_mono (by decide) (run_framed _ (each_writeField_framed _ r n v _).within s).1

/-! ### Bus errors (R274) -/

theorem capture_valid (a i : Reg) (addr : Nat) (info : Word) (s : State) (ha : (regMask a).getLsbD 31 = true) (hi : a ≠ i) :
    ((run (capture a i addr info) s).raw a 0).getLsbD 31 = true := by
  rw [capture, run_look]
  split_ifs with h
  · rw [run_upd, raw_reg_self, BitVec.getLsbD_and, BitVec.getLsbD_or, h, ha]; rfl
  · rw [run_acts_cons, run_acts_cons, run_acts_nil, run_upd, run_upd, raw_reg, if_neg (fun e => hi e.1), raw_reg_self, BitVec.getLsbD_and,
      BitVec.getLsbD_or, BitVec.getLsbD_or, ha]
    simp

theorem busError_noted (rq : Req) (addr kind : Nat) (wr : Bool) (s : State) : busErrorNoted s (run (busError rq addr kind wr) s) := by
  have hbox : (busError rq addr kind wr).Framed wrP wrR := (busError_own rq addr kind wr).widen
  have hemit (b : Bool) (o : Out) : (when b (emit o)).Framed [.out] [] := .when (emit_own o)
  obtain ⟨honly, honlyR⟩ := run_framed _ hbox.within s
  refine ⟨?_, ?_, ?_, honly, honlyR⟩
  all_goals
    rw [busError]
    simp only [run_acts_cons, run_acts_nil]
  · rw [(hemit _ _).evt, (hemit _ _).evt, noteTurned, run_modEvt, (raise_own _ _).evt, (capture_own _ _ _ _).evt]
  · rw [(hemit _ _).rawFld F.SYS_EVT_CAUSE_BUS_ERR, (hemit _ _).rawFld F.SYS_EVT_CAUSE_BUS_ERR]
    exact raise_rawFld _ _ _ (by decide) rfl (by decide)
  · have hafter (t : State) : (run noteTurned (run (raise F.SYS_EVT_CAUSE_BUS_ERR 0) t)).raw .SYS_BUS_ERR 0 = t.raw .SYS_BUS_ERR 0 :=
      ((raise_own F.SYS_EVT_CAUSE_BUS_ERR 0).reg (r := .SYS_BUS_ERR) (by decide) 0 t).1
    rw [((hemit _ _).reg (r := .SYS_BUS_ERR) (by decide) 0 _).1, ((hemit _ _).reg (r := .SYS_BUS_ERR) (by decide) 0 _).1, hafter]
    exact capture_valid _ _ _ _ _ (by decide) (by decide)

theorem wordWrite_refused {s : State} {rq : Req} {r : Reg} {n : Nat} {v : Word} (h : s.arrives rq = true)
    (he : (s.accessErr rq r n).isSome = true) : ∃ kind, run (wordWrite rq r n v) s = run (busError (s.asReq rq) (regAddr r n) kind true) s := by
  obtain ⟨kind, hk⟩ := Option.isSome_iff_exists.1 he
  exact ⟨kind, by rw [wordWrite, onWrite, run_look, h, hk]; rfl⟩

/-! ### SEC_CFG (R284, R405) -/

/-- What follows a write of SEC_CFG: with SECURE_SESSION_EN 0 no session stays secure. -/
def secCfgFollow : Act :=
  .look fun s => when (!s.bit F.SEC_CFG_SECURE_SESSION_EN 0)
    (acts [modSec fun c => { c with sess := c.sess.map fun x => { x with secure := false } }, sessSync])

theorem run_secCfgWrite (rq : Req) (v : Word) (s : State) : run (secCfgWrite rq v) s = run secCfgFollow (run (writeFields rq .SEC_CFG 0 v) s) := rfl

theorem secCfgFollow_framed : secCfgFollow.Framed [.sec, .live, .regs] [.SEC_STATUS] :=
  .look fun _ => .when (.acts ⟨(modSec_framed _).widen, sessSync_framed.widen, trivial⟩)

theorem secCfgFollow_unsecures {s : State} (h : s.bit F.SEC_CFG_SECURE_SESSION_EN 0 = false) :
    ∀ x ∈ (run secCfgFollow s).sec.sess, x.secure = false := by
  rw [secCfgFollow, run_look, h, Bool.not_false, run_when_true, run_acts_cons, run_acts_cons, run_acts_nil, sessSync_framed.sec, run_modSec]
  intro x hx
  obtain ⟨y, -, rfl⟩ := List.mem_map.1 hx
  rfl

theorem secCfg_fields (f : FieldInfo) (hf : f ∈ Reg.SEC_CFG.fields) : f.sec = true ∧ f.ty = .lck := by
  simp only [Reg.fields, List.mem_cons, List.not_mem_nil, or_false] at hf
  rcases hf with rfl | rfl | rfl | rfl <;> exact ⟨rfl, rfl⟩

theorem writeFields_secCfg_refused {rq : Req} (h : secureReq rq = false) (v : Word) (s : State) :
    run (writeFields rq .SEC_CFG 0 v) s = s := by
  have heach : run (each Reg.SEC_CFG.fields (writeField (secureReq rq) .SEC_CFG 0 v)) s = s :=
    (keeps_each (g := id) fun f hf s => writeField_skipped ⟨(secCfg_fields f hf).1, h⟩) s
  have hany : (Reg.SEC_CFG.fields.any fun f => f.ty == .lck && (!f.sec || secureReq rq)) = false := by rw [h]; rfl
  rw [writeFields, run_look, hany, Bool.and_false, run_acts_cons, run_acts_cons, run_acts_nil, run_when_false, heach]

theorem writeField_locked {sec : Bool} {r : Reg} {n : Nat} {v : Word} {f : FieldInfo} {s : State} (hty : f.ty = .lck) (h : s.cfgLock = true) :
    run (writeField sec r n v f) s = s := by
  rw [writeField]
  split_ifs
  · rfl
  · rw [hty]
    dsimp only
    rw [run_look, h]; rfl

theorem writeField_open {r : Reg} {n : Nat} {v : Word} {f : FieldInfo} {s : State} (hty : f.ty = .lck) (h : s.cfgLock = false) :
    run (writeField true r n v f) s = run (setF (f.fld r) n (f.stored (bits v f.lo f.w))) s := by
  rw [writeField, if_neg (by simp), hty]
  dsimp only
  rw [run_look, h]; rfl

theorem run_each_append {α : Type} (l l' : List α) (f : α → Act) (s : State) :
    run (each (l ++ l') f) s = run (each l' f) (run (each l f) s) := by
  induction l generalizing s with
  | nil => rfl
  | cons x l ih => exact ih _

theorem each_writeField_locked {sec : Bool} {r : Reg} {n : Nat} {v : Word} {s : State} (h : s.cfgLock = true) (l : List FieldInfo)
    (hl : ∀ f ∈ l, f.ty = .lck) : run (each l (writeField sec r n v)) s = s := by
  induction l with
  | nil => rfl
  | cons f l ih => rw [run_each_cons, writeField_locked (hl f List.mem_cons_self) h, ih fun x hx => hl x (List.mem_cons_of_mem _ hx)]

/-- A secure write while CFG_LOCK is set is noted as a locked write. -/
theorem writeFields_secCfg_locked {rq : Req} {s : State} (h : secureReq rq = true) (hl : s.cfgLock = true) (v : Word) :
    run (writeFields rq .SEC_CFG 0 v) s = run (lockedWrite rq (regAddr .SEC_CFG 0)) s := by
  have hany : (Reg.SEC_CFG.fields.any fun f => f.ty == .lck && (!f.sec || secureReq rq)) = true := by rw [h]; rfl
  rw [writeFields, run_look, hany, hl, run_acts_cons, run_acts_cons, run_acts_nil, Bool.and_self, run_when_true,
    each_writeField_locked hl _ fun f hf => (secCfg_fields f hf).2]

theorem lockedWrite_noted (rq : Req) (addr : Nat) (s : State) : (run (lockedWrite rq addr) s).rawFld F.SYS_EVT_CAUSE_LOCKED_WR 0 = 1 ∧
    (run (lockedWrite rq addr) s).evt.turned = s.evt.turned + 1 := by
  rw [lockedWrite, run_acts_cons, run_acts_cons, run_acts_cons, run_acts_nil]
  refine ⟨raise_rawFld _ _ _ (by decide) rfl (by decide), ?_⟩
  rw [noteTurned, run_modEvt, (raise_own _ _).evt, (capture_own _ _ _ _).evt]

theorem run_writeFields_secCfg_open {rq : Req} {s : State} (hl : s.cfgLock = false) (v : Word) :
    run (writeFields rq .SEC_CFG 0 v) s = run (each Reg.SEC_CFG.fields (writeField (secureReq rq) .SEC_CFG 0 v)) s := by
  rw [writeFields, run_look, hl, Bool.false_and, run_acts_cons, run_acts_cons, run_acts_nil, run_when_false]

/-- With CFG_LOCK clear each bit of SEC_CFG takes the value a secure master writes. -/
theorem secCfg_bit {rq : Req} {s : State} (h : secureReq rq = true) (hl : s.cfgLock = false) (v : Word) {lo : Nat} (hlo : lo < 4) :
    (run (writeFields rq .SEC_CFG 0 v) s).rawFld ⟨.SEC_CFG, lo, 1⟩ 0 = bits v lo 1 ∧
      (run (writeFields rq .SEC_CFG 0 v) s).fld ⟨.SEC_CFG, lo, 1⟩ 0 = bits v lo 1 := by
  have hmem : (⟨lo, 1, .lck, .now, .c, true, .none⟩ : FieldInfo) ∈ Reg.SEC_CFG.fields := by interval_cases lo <;> simp [Reg.fields]
  have hw := each_writeField_written (secureReq rq) false 0 v (fields_apart .SEC_CFG)
    (fun f hf => .inl (fields_held hf fun e => by rw [(secCfg_fields f hf).2] at e; cases e)) s (fun _ _ _ => ⟨by decide, hl⟩) _ hmem
  rw [run_writeFields_secCfg_open hl]
  rw [fieldWritten, h, if_neg (by simp)] at hw
  rw [h]
  exact hw

theorem setF_raw_self (f : Fld) (n v : Nat) (s : State) :
    (run (setF f n v) s).raw f.reg n = putBits (s.raw f.reg n) f.lo f.w v &&& regMask f.reg := by
  rw [run_setF]
  split <;> simp

/-- No bit of SEC_CFG beyond its four fields is held. -/
theorem secCfg_masked {rq : Req} {s : State} (h : secureReq rq = true) (hl : s.cfgLock = false) (v : Word) :
    ∃ x, (run (writeFields rq .SEC_CFG 0 v) s).raw .SEC_CFG 0 = x &&& 0xF#32 := by
  rw [run_writeFields_secCfg_open hl]
  obtain ⟨l, f, hsplit, hty⟩ : ∃ l f, Reg.SEC_CFG.fields = l ++ [f] ∧ f.ty = .lck :=
    ⟨Reg.SEC_CFG.fields.dropLast, ⟨0, 1, .lck, .now, .c, true, .none⟩, rfl, rfl⟩
  have hopen : (run (each l (writeField (secureReq rq) .SEC_CFG 0 v)) s).cfgLock = false :=
    ((keeps_each fun f _ => writeField_keeps_cfgLock _ (by decide) 0 v f) s).trans hl
  rw [hsplit, run_each_append, run_each_cons, run_each_nil, h, writeField_open hty (h ▸ hopen)]
  exact ⟨_, setF_raw_self _ _ _ _⟩

theorem secCfg_taken {rq : Req} {s : State} (h : secureReq rq = true) (hl : s.cfgLock = false) (v : Word) :
    (run (writeFields rq .SEC_CFG 0 v) s).raw .SEC_CFG 0 = v &&& 0xF#32 := by
  obtain ⟨x, hx⟩ := secCfg_masked h hl v
  have hbit (i : Nat) (hi : i < 4) : ((run (writeFields rq .SEC_CFG 0 v) s).raw .SEC_CFG 0).getLsbD i = v.getLsbD i := by
    have hi' := congrArg (Nat.testBit · 0) (secCfg_bit h hl v hi).1
    dsimp only [State.rawFld] at hi'
    rw [testBit_bits, testBit_bits] at hi'
    exact hi'
  have hmask (i : Nat) : (0xF#32).getLsbD i = decide (i < 4) := by
    rw [show (0xF#32) = BitVec.ofNat 32 (2 ^ 4 - 1) from rfl, BitVec.getLsbD_ofNat, Nat.testBit_two_pow_sub_one]
    by_cases h4 : i < 4 <;> simp [h4]
    omega
  refine BitVec.eq_of_getLsbD_eq fun i _ => ?_
  rw [BitVec.getLsbD_and, hmask]
  by_cases h4 : i < 4
  · rw [hbit i h4, decide_eq_true h4, Bool.and_true]
  · rw [hx, BitVec.getLsbD_and, hmask, decide_eq_false h4, Bool.and_false, Bool.and_false]

end Sys2Proof.Machine
end

section
/-!
PROOF. Staged fields (R9, R280): what the fields chosen at a boundary have in effect after it, and that every other place stays.
-/
set_option Elab.async false
namespace Sys2Proof.Machine

/-! ### The fields of one place take effect -/

/-- A word in effect with the chosen fields of a list brought to their new values. -/
def bringIn (v : FieldInfo → Nat) (p : FieldInfo → Bool) (l : List FieldInfo) (w : Word) : Word :=
  (l.filter p).foldl (fun w f => putBits w f.lo f.w (v f)) w

theorem bringIn_cons (v : FieldInfo → Nat) (p : FieldInfo → Bool) (g : FieldInfo) (l : List FieldInfo) (w : Word) :
    bringIn v p (g :: l) w = bringIn v p l (if p g then putBits w g.lo g.w (v g) else w) := by
  unfold bringIn
  rw [List.filter_cons]
  split <;> simp_all

/-- Two fields of a register that share no bit. -/
theorem apart_places {r : Reg} {f g : FieldInfo} (h : (g.fld r).apart (f.fld r) = true) : f.lo + f.w ≤ g.lo ∨ g.lo + g.w ≤ f.lo := by
  have h' : g.lo + g.w ≤ f.lo ∨ f.lo + f.w ≤ g.lo := by
    simp only [Fld.apart, FieldInfo.fld, bne_self_eq_false, Bool.false_or] at h
    exact of_decide_eq_true h
  exact h'.symm

theorem bits_bringIn_apart {r : Reg} {f : FieldInfo} (hf : f.lo + f.w ≤ 32) (v : FieldInfo → Nat) (p : FieldInfo → Bool) (l : List FieldInfo)
    (h : ∀ g ∈ l, (g.fld r).apart (f.fld r) = true) (w : Word) : bits (bringIn v p l w) f.lo f.w = bits w f.lo f.w := by
  induction l generalizing w with
  | nil => rfl
  | cons g l ih =>
    rw [bringIn_cons, ih fun x hx => h x (List.mem_cons_of_mem _ hx)]
    split
    · exact bits_putBits_other _ _ _ _ _ _ hf (apart_places (h g List.mem_cons_self))
    · rfl

theorem bits_bringIn {r : Reg} {f : FieldInfo} (hf : f.lo + f.w ≤ 32) (v : FieldInfo → Nat) (p : FieldInfo → Bool) {l : List FieldInfo}
    (hapart : l.Pairwise fun f g => (f.fld r).apart (g.fld r) = true) (hmem : f ∈ l) (w : Word) :
    bits (bringIn v p l w) f.lo f.w = if p f then v f % 2 ^ f.w else bits w f.lo f.w := by
  induction l generalizing w with
  | nil => exact absurd hmem List.not_mem_nil
  | cons g l ih =>
    obtain ⟨hg, hrest⟩ := List.pairwise_cons.1 hapart
    rw [bringIn_cons]
    rcases List.mem_cons.1 hmem with rfl | hl
    · rw [bits_bringIn_apart hf v p l fun x hx => Fld.apart_comm (hg x hx)]
      split
      · exact bits_putBits_self _ _ _ _ hf
      · rfl
    · rw [ih hrest hl]
      split
      · rfl
      · split
        · exact bits_putBits_other _ _ _ _ _ _ hf (apart_places (hg f hl))
        · rfl

theorem applyFields_keeps_raw (r : Reg) (n : Nat) (p : FieldInfo → Bool) (q : Reg) (m : Nat) : (applyFields r n p).keeps fun s => s.raw q m := by
  refine keeps_look fun s => ?_
  split
  · exact keeps_skip
  · exact fun t => raw_live t _ _ _ _ _

theorem applyFields_keeps_place {r : Reg} {n : Nat} (p : FieldInfo → Bool) {q : Reg} {m : Nat} (h : ¬ (q = r ∧ m = n)) :
    (applyFields r n p).keeps fun s => s.place q m := by
  refine keeps_look fun s => ?_
  split
  · exact keeps_skip
  · intro t
    refine Prod.ext (raw_live t _ _ _ _ _) ?_
    show (run (.upd _) t).eff q m = t.eff q m
    rw [run_upd, eff_eq, stagedAt_live, if_neg h, raw_live, eff_eq]

/-- A place with nothing staged has in effect what it reads. -/
theorem fld_unstaged {s : State} {f : Fld} {n : Nat} (h : s.stagedAt f.reg n = none) : s.fld f n = s.rawFld f n := by
  rw [State.fld, eff_eq, h]; rfl

theorem applyFields_fld {r : Reg} {n : Nat} (p : FieldInfo → Bool) {f : FieldInfo} (hf : f ∈ r.fields) (hty : f.ty = .rw) (s : State) :
    (run (applyFields r n p) s).fld (f.fld r) n = if p f then s.rawFld (f.fld r) n else s.fld (f.fld r) n := by
  have hheld := fields_held hf (by rw [hty]; decide)
  simp only [Fld.held, Bool.and_eq_true, decide_eq_true_eq, beq_iff_eq] at hheld
  obtain ⟨hw, hm⟩ := hheld
  rw [applyFields, run_look]
  cases hst : s.stagedAt r n with
  | none =>
    have hsame : s.fld (f.fld r) n = s.rawFld (f.fld r) n := fld_unstaged hst
    rw [show tabGet s.live none (regKey r n) = none from hst]
    dsimp only
    rw [run_skip, hsame, ite_self]
  | some w =>
    rw [show tabGet s.live none (regKey r n) = some w from hst]
    dsimp only
    have hnew : bits (bringIn (fun f => s.rawFld (f.fld r) n) p r.fields w) f.lo f.w =
        if p f then s.rawFld (f.fld r) n else s.fld (f.fld r) n := by
      rw [bits_bringIn hw _ _ (fields_apart r) hf, Nat.mod_eq_of_lt (show _ < 2 ^ f.w from rawFld_lt s (f.fld r) n), State.fld, eff_eq,
        show s.stagedAt (f.fld r).reg n = some w from hst]
      rfl
    rw [run_upd, State.fld, eff_eq, show (f.fld r).reg = r from rfl, stagedAt_live, if_pos ⟨rfl, rfl⟩, raw_live, ← hnew]
    unfold bringIn
    split_ifs with he
    · rw [he]; rfl
    · exact bits_and_mask _ _ _ _ hw hm

/-! ### Every staged place of a boundary -/

/-- Whether an entry of the staged words is that of a place. -/
def entryAt (r : Reg) (n : Nat) (e : Nat × Option Word) : Bool := keyReg e.1 == r && e.1 / 256 == n

theorem entryAt_iff {r : Reg} {n : Nat} {e : Nat × Option Word} : entryAt r n e = true ↔ r = keyReg e.1 ∧ n = e.1 / 256 := by
  rw [entryAt, Bool.and_eq_true, beq_iff_eq, beq_iff_eq, eq_comm, @eq_comm _ (e.1 / 256)]

/-- The fields of the places of a list of entries take effect. -/
def applyEntries (l : Tab (Option Word)) (p : FieldInfo → Bool) : Act := each l fun e => applyFields (keyReg e.1) (e.1 / 256) p

theorem applyEntries_keeps_raw (l : Tab (Option Word)) (p : FieldInfo → Bool) (q : Reg) (m : Nat) :
    (applyEntries l p).keeps fun s => s.raw q m := keeps_each fun e _ => applyFields_keeps_raw _ _ p q m

theorem applyEntries_keeps_place {l : Tab (Option Word)} (p : FieldInfo → Bool) {q : Reg} {m : Nat} (h : ∀ e ∈ l, entryAt q m e = false) :
    (applyEntries l p).keeps fun s => s.place q m :=
  keeps_each fun e he => applyFields_keeps_place p fun hq => absurd (entryAt_iff.2 hq) (by rw [h e he]; decide)

theorem applyEntries_fld {r : Reg} {n : Nat} (p : FieldInfo → Bool) {f : FieldInfo} (hf : f ∈ r.fields) (hty : f.ty = .rw)
    (l : Tab (Option Word)) (s : State) : (run (applyEntries l p) s).fld (f.fld r) n =
      if p f && l.any (entryAt r n) then s.rawFld (f.fld r) n else s.fld (f.fld r) n := by
  induction l generalizing s with
  | nil => simp [applyEntries]
  | cons e l ih =>
    have hraw : (run (applyFields (keyReg e.1) (e.1 / 256) p) s).rawFld (f.fld r) n = s.rawFld (f.fld r) n :=
      congrArg (bits · f.lo f.w) (applyFields_keeps_raw _ _ p r n s)
    rw [applyEntries, run_each_cons, ← applyEntries, ih, hraw, List.any_cons]
    by_cases he : entryAt r n e = true
    · obtain ⟨rfl, rfl⟩ := entryAt_iff.1 he
      rw [applyFields_fld p hf hty, he, Bool.true_or, Bool.and_true]
      cases p f <;> simp
    · have hkeep := congrArg (fun w : Word × Word => bits w.2 f.lo f.w)
        (applyFields_keeps_place p (fun hq => he (entryAt_iff.2 hq)) s)
      rw [show (run (applyFields (keyReg e.1) (e.1 / 256) p) s).fld (f.fld r) n = s.fld (f.fld r) n from hkeep, Bool.eq_false_iff.2 he,
        Bool.false_or]

theorem applyStaged_run (sel : Reg → Nat → Bool) (ap : Applies) (s : State) : run (applyStaged sel ap) s =
    run (applyEntries (s.live.filter fun e => sel (keyReg e.1) (e.1 / 256)) fun f => f.ap == ap) s := rfl

theorem applyStaged_keeps_raw (sel : Reg → Nat → Bool) (ap : Applies) (q : Reg) (m : Nat) :
    (applyStaged sel ap).keeps fun s => s.raw q m := fun s => applyEntries_keeps_raw _ _ q m s

/-- A place that is not chosen stays. -/
theorem applyStaged_place {sel : Reg → Nat → Bool} (ap : Applies) {q : Reg} {m : Nat} (h : sel q m = false) :
    (applyStaged sel ap).keeps fun s => s.place q m := fun s =>
  applyEntries_keeps_place _ (fun e he => Bool.eq_false_iff.2 fun hat => by
    obtain ⟨rfl, rfl⟩ := entryAt_iff.1 hat
    exact absurd (List.mem_filter.1 he).2 (by rw [h]; decide)) s

/-- A chosen place's fields that wait for the boundary take effect. -/
theorem applyStaged_fld {sel : Reg → Nat → Bool} (ap : Applies) {r : Reg} {n : Nat} (h : sel r n = true) {f : FieldInfo} (hf : f ∈ r.fields)
    (hty : f.ty = .rw) (s : State) : (run (applyStaged sel ap) s).fld (f.fld r) n =
      if f.ap = ap then s.rawFld (f.fld r) n else s.fld (f.fld r) n := by
  rw [applyStaged_run, applyEntries_fld _ hf hty]
  cases hst : s.stagedAt r n with
  | none =>
    have hsame : s.fld (f.fld r) n = s.rawFld (f.fld r) n := fld_unstaged hst
    rw [hsame, ite_self, ite_self]
  | some w =>
    have hmem : (regKey r n, some w) ∈ s.live := by
      rcases tabGet_mem s.live none (regKey r n) with hin | hnone
      · rwa [show tabGet s.live none (regKey r n) = some w from hst] at hin
      · exact absurd (hst.symm.trans hnone) (by simp)
    have hany : ((s.live.filter fun e => sel (keyReg e.1) (e.1 / 256)).any (entryAt r n)) = true :=
      List.any_eq_true.2 ⟨_, List.mem_filter.2 ⟨hmem, by rw [keyReg_regKey, regKey_div, h]⟩, by rw [entryAt, keyReg_regKey, regKey_div]; simp⟩
    rw [hany, Bool.and_true]
    simp only [beq_iff_eq]

theorem applyStaged_only (sel : Reg → Nat → Bool) (ap : Applies) (s : State) : Only [.live] s (run (applyStaged sel ap) s) :=
  run_only [.live] (applyStaged sel ap) (fun t => within_each _ _ fun e _ =>
    within_mono _ (applyFields_framed (keyReg e.1) (e.1 / 256) fun f => f.ap == ap) inFrame_part) s

/-! ### Each boundary -/

/-- The boundaries of packets apply what is staged, and nothing more. -/
theorem run_stagedFieldApply_pkt {b : Boundary} (hf : b ≠ .frmPort) (hg : b ≠ .gatePort) (i : Nat) (s : State) :
    run (stagedFieldApply b i) s = run (applyStaged (stagedHere b i) .pkt) s := by
  cases b with
  | frmPort => exact absurd rfl hf
  | gatePort => exact absurd rfl hg
  | pktAisle | pktQtr | pktSwc | pktPort => rfl

theorem stagedHere_frmPort (i : Nat) : (fun r n => frmRegs.contains r && (if r == .SCH_Q_CFG then n / 9 == i else n == i)) =
    stagedHere .frmPort i := by
  funext r n
  by_cases h : r = .SCH_Q_CFG
  · subst h; simp [frmRegs, stagedHere]
  · simp [frmRegs, stagedHere, h]

theorem stagedHere_gatePort (i : Nat) : (fun r n => gateRegs.contains r &&
    (if [Reg.SCH_Q_CFG, .SCH_Q_MIN, .SCH_Q_MAX, .SCH_Q_BURST].contains r then n / 9 == i else n == i)) = stagedHere .gatePort i := by
  funext r n
  by_cases h : r ∈ [Reg.SCH_Q_CFG, .SCH_Q_MIN, .SCH_Q_MAX, .SCH_Q_BURST]
  · simp only [List.mem_cons, List.not_mem_nil, or_false] at h
    rcases h with rfl | rfl | rfl | rfl <;> simp [gateRegs, stagedHere]
  · simp only [List.mem_cons, List.not_mem_nil, or_false, not_or] at h
    simp [gateRegs, stagedHere, h]

theorem run_stagedFieldApply_frm (i : Nat) (s : State) : run (stagedFieldApply .frmPort i) s =
    run (followPfcEn i (s.pfcPrios i)) (run (applyStaged (stagedHere .frmPort i) .frm) s) := by
  rw [stagedFieldApply, run_look, stagedHere_frmPort, run_acts_cons, run_acts_cons, run_acts_nil]

theorem run_stagedFieldApply_gate {i : Nat} {s : State} (h : s.gateDue i = true) : ∃ A B : PortS → PortS,
    run (stagedFieldApply .gatePort i) s = run (modPort i B) (run (applyStaged (stagedHere .gatePort i) .gate) (run (modPort i A) s)) := by
  let A : PortS → PortS := fun _ => s.refilled i (s.coreNow 0)
  let t := run (applyStaged (stagedHere .gatePort i) .gate) (run (modPort i A) s)
  refine ⟨A, fun _ => t.refilled i (t.coreNow 0), ?_⟩
  rw [stagedFieldApply, run_look, h, run_when_true, stagedHere_gatePort, run_acts_cons, run_acts_cons, run_acts_cons, run_acts_nil, run_look]

theorem stagedFieldApply_gate_waits {i : Nat} {s : State} (h : s.gateDue i = false) : run (stagedFieldApply .gatePort i) s = s := by
  rw [stagedFieldApply, run_look, h, run_when_false]

/-- The registers with fields that wait for a frame boundary are none that following PFC_EN changes. -/
theorem stagedHere_frmPort_regs {i : Nat} {r : Reg} {n : Nat} (h : stagedHere .frmPort i r n = true) :
    (evR ++ [Reg.SWC_PORT_HDRM, .SWC_PORT_STATE, .SWC_SHARED_FREE, .SWC_STATUS, .SWC_EVT_CAUSE]).contains r = false := by
  have hr : r = .PORT_CFG ∨ r = .TIME_PORT_CFG ∨ r = .TIME_PORT_ASYM ∨ r = .SCH_Q_CFG := by
    simp only [stagedHere, Bool.or_eq_true, Bool.and_eq_true, List.contains_iff_mem, List.mem_cons, List.not_mem_nil, or_false, beq_iff_eq] at h
    tauto
  rcases hr with rfl | rfl | rfl | rfl <;> decide

/-- What a boundary leaves of a place whose registers the rest of its effect does not touch. -/
theorem stagedFieldApply_place {b : Boundary} {i : Nat} {s : State} {r : Reg} {n : Nat} (hg : b = .gatePort → s.gateDue i = true)
    (hr : b = .frmPort → (evR ++ [Reg.SWC_PORT_HDRM, .SWC_PORT_STATE, .SWC_SHARED_FREE, .SWC_STATUS, .SWC_EVT_CAUSE]).contains r = false) :
    ∃ s₀ : State, s₀.place r n = s.place r n ∧
      (run (stagedFieldApply b i) s).place r n = (run (applyStaged (stagedHere b i) (stagedAs b)) s₀).place r n := by
  have hkeep {P : List Part} {R : List Reg} {a : Act} (h : a.Framed P R) (hR : R.contains r = false) (t : State) :
      (run a t).place r n = t.place r n := Prod.ext (h.reg hR n t).1 (h.reg hR n t).2
  cases b with
  | frmPort =>
    refine ⟨s, rfl, ?_⟩
    have hfr : (followPfcEn i (s.pfcPrios i)).Framed (evP ++ [.ports, .cnt])
        (evR ++ [Reg.SWC_PORT_HDRM, .SWC_PORT_STATE, .SWC_SHARED_FREE, .SWC_STATUS, .SWC_EVT_CAUSE]) := (followPfcEn_framed _ _).widen
    rw [run_stagedFieldApply_frm, hkeep hfr (hr rfl)]
    rfl
  | gatePort =>
    obtain ⟨A, B, hrun⟩ := run_stagedFieldApply_gate (hg rfl)
    refine ⟨run (modPort i A) s, hkeep (modPort_framed i A) rfl s, ?_⟩
    rw [hrun, hkeep (modPort_framed i B) rfl]
    rfl
  | pktAisle | pktQtr | pktSwc | pktPort =>
    refine ⟨s, rfl, ?_⟩
    rw [run_stagedFieldApply_pkt (by decide) (by decide)]
    rfl

/-- What changes only some parts, and then only others, changes only those of both. -/
theorem only_trans {P : List Part} {s t u : State} (h : Only P s t) (h' : Only P t u) : Only P s u := fun x hx => by
  have h1 := h x hx
  have h2 := h' x hx
  cases x <;> exact Eq.trans h2 h1

theorem stagedFieldApply_only (b : Boundary) (i : Nat) (s : State) : Only (stagedParts b) s (run (stagedFieldApply b i) s) := by
  cases b with
  | frmPort =>
    rw [run_stagedFieldApply_frm]
    have hfr : (followPfcEn i (s.pfcPrios i)).Framed (evP ++ [.ports, .cnt])
        (evR ++ [Reg.SWC_PORT_HDRM, .SWC_PORT_STATE, .SWC_SHARED_FREE, .SWC_STATUS, .SWC_EVT_CAUSE]) := (followPfcEn_framed _ _).widen
    exact only_trans (only_mono (by decide) (applyStaged_only _ _ s)) (run_framed _ hfr.within _).1
  | gatePort =>
    cases h : s.gateDue i with
    | false =>
      rw [stagedFieldApply_gate_waits h]
      exact (run_framed .skip (P := stagedParts .gatePort) (R := []) trivial s).1
    | true =>
      obtain ⟨A, B, hrun⟩ := run_stagedFieldApply_gate h
      have hport (f : PortS → PortS) (t : State) : Only (stagedParts .gatePort) t (run (modPort i f) t) :=
        only_mono (by decide) (run_framed _ (modPort_framed i f).within t).1
      rw [hrun]
      exact only_trans (only_trans (hport A s) (only_mono (by decide) (applyStaged_only _ _ _))) (hport B _)
  | pktAisle | pktQtr | pktSwc | pktPort =>
    rw [run_stagedFieldApply_pkt (by decide) (by decide)]
    exact applyStaged_only _ _ s

/-! ### The obligation -/

/-- Settles O54: a write is followed field by field, a boundary place by place; the layout of the fields, checked once for all registers,
keeps each field apart from the others. -/
theorem registersAreWritten : Obligations.RegistersAreWritten := by
  unfold Obligations.RegistersAreWritten
  refine ⟨?_, ?_, ?_, ?_, ?_, ?_, ?_, ?_⟩
  case refine_1 => exact fun s rq ok a v h => completes_run rfl (registerWrite_away h)
  case refine_2 =>
    intro s rq ok a v h hbad
    obtain ⟨kind, hrun⟩ := registerWrite_misshapen (v := v) h hbad
    exact completes_run rfl (hrun ▸ busError_noted _ _ _ _ s)
  case refine_3 =>
    intro s rq a v r n h ha hf he
    obtain ⟨kind, hrun⟩ := wordWrite_refused (v := v) h he
    refine completes_run rfl ?_
    rw [registerWrite_found h ha hf, hrun]
    exact busError_noted _ _ _ _ s
  case refine_4 =>
    intro s rq a v r n ha hf ht hctl hrow hplain
    have hsec : r ≠ .SEC_CFG := fun e => plainWrite_secCfg (e ▸ hplain)
    obtain ⟨hfields, hplaces, honly⟩ := writeFields_written (rq := s.asReq rq) (v := v) (n := n) hsec (rowWrite_strobe hrow) s.cfgLock s
    refine completes_run rfl ?_
    rw [registerWrite_found (takes_iff.1 ht).1 ha hf, wordWrite_plain ht hctl hrow, hplain]
    refine ⟨hfields, fun q m hne _ => ?_, honly⟩
    exact Prod.ext_iff.1 (hplaces q m hne)
  case refine_5 =>
    intro s rq v ht hwin
    have hplace : (windowAddr rq (regAddr .SEC_CFG 0)).bind findReg = some (.SEC_CFG, 0) := by
      rw [hwin]
      decide +kernel
    refine completes_run rfl ?_
    rw [registerWrite_found (takes_iff.1 ht).1 (by decide) hplace, wordWrite_plain ht (by decide) rfl,
      show plainWrite (s.asReq rq) .SEC_CFG 0 v = secCfgWrite (s.asReq rq) v from rfl, run_secCfgWrite]
    have hraw (t : State) := (secCfgFollow_framed.reg (r := .SEC_CFG) (by decide) 0 t).1
    refine ⟨fun hs => ?_, fun hs hl => ?_, fun hs hl => ?_⟩
    · rw [writeFields_secCfg_refused hs]
      exact ⟨hraw s, secCfgFollow_framed.evt s⟩
    · obtain ⟨hnote, hturned⟩ := lockedWrite_noted (s.asReq rq) (regAddr .SEC_CFG 0) s
      rw [writeFields_secCfg_locked hs hl]
      refine ⟨(hraw _).trans ((lockedWrite_own _ _).reg (r := .SEC_CFG) (by decide) 0 s).1, ?_, ?_⟩
      · rw [secCfgFollow_framed.rawFld F.SYS_EVT_CAUSE_LOCKED_WR, hnote]
      · rw [secCfgFollow_framed.evt, hturned]
    · refine ⟨(hraw _).trans (secCfg_taken hs hl v), fun h0 => secCfgFollow_unsecures ?_⟩
      have hfld := (secCfg_bit (lo := 2) hs hl v (by decide)).2.trans h0
      exact decide_eq_false (not_not.2 hfld)
  case refine_6 =>
    intro s b i n r hhere hg
    obtain ⟨s₀, h₀, hrun⟩ := stagedFieldApply_place (r := r) (n := n) hg fun hb => stagedHere_frmPort_regs (hb ▸ hhere)
    obtain ⟨hraw₀, heff₀⟩ := Prod.ext_iff.1 h₀
    obtain ⟨hraw, heff⟩ := Prod.ext_iff.1 hrun
    refine completes_run rfl ⟨hraw.trans ((applyStaged_keeps_raw _ _ r n s₀).trans hraw₀), fun f hf hty => ?_⟩
    have hold : s₀.rawFld (f.fld r) n = s.rawFld (f.fld r) n := congrArg (bits · f.lo f.w) hraw₀
    have hold' : s₀.fld (f.fld r) n = s.fld (f.fld r) n := congrArg (bits · f.lo f.w) heff₀
    rw [← hold, ← hold', ← applyStaged_fld (sel := stagedHere b i) (stagedAs b) hhere hf hty s₀]
    exact congrArg (bits · f.lo f.w) heff
  case refine_7 =>
    intro s b i n r hhere hr
    refine completes_run rfl ?_
    by_cases hg : b = .gatePort → s.gateDue i = true
    · obtain ⟨s₀, h₀, hrun⟩ := stagedFieldApply_place (r := r) (n := n) hg hr
      obtain ⟨hraw, heff⟩ := Prod.ext_iff.1 (hrun.trans ((applyStaged_place (sel := stagedHere b i) (stagedAs b) hhere s₀).trans h₀))
      exact ⟨hraw, heff, stagedFieldApply_only b i s⟩
    · obtain ⟨rfl, hdue⟩ := Classical.not_imp.1 hg
      refine ⟨?_, ?_, stagedFieldApply_only _ i s⟩ <;> rw [stagedFieldApply_gate_waits (Bool.eq_false_iff.2 hdue)]
  case refine_8 => exact fun s i h => completes_run rfl (stagedFieldApply_gate_waits h)

end Sys2Proof.Machine
end

section
/-!
PROOF. Which tables and registers decide about a frame whose destination MAC has a ledger entry (R86, R95): states that agree in them
resolve it alike.
-/
set_option Elab.async false
namespace Sys2Proof.Machine

/-- The registers that the resolution of a frame by its MAC entry reads. -/
def resolveRegs : List Reg := [.AISLE_PARSE_CFG, .AISLE_RULE_MAP, .AISLE_TILE_CFG, .QTR_LDG_SEED_A, .QTR_LDG_SEED_B, .QTR_LDG_STATUS,
  .QTR_LDG_CFG, .SYS_EPOCH, .TIME_PORT_PTP, .TIME_PTP_CFG]

/-- Two states agree in the tables and the registers that this resolution reads. -/
structure State.resolvesAs (t s : State) : Prop where
  qtrs : t.qtrs = s.qtrs
  flat : t.flat = s.flat
  tiles : t.tiles = s.tiles
  raw : ∀ r n, resolveRegs.contains r = true → t.raw r n = s.raw r n
  eff : ∀ r n, resolveRegs.contains r = true → t.eff r n = s.eff r n

/-- A framed action that lists none of them leaves the resolution as it was. -/
theorem Act.Framed.resolvesAs {P : List Part} {R : List Reg} {x : Act} (h : x.Framed P R) (s : State)
    (hP : ([Part.qtrs, .flat, .tiles].all fun y => !P.contains y) = true := by decide)
    (hR : (R.all fun r => !resolveRegs.contains r) = true := by decide) : (Machine.run x s).resolvesAs s := by
  simp only [List.all_cons, List.all_nil, Bool.and_eq_true, Bool.not_eq_true'] at hP
  obtain ⟨hq, hf, ht, -⟩ := hP
  have hout : ∀ r, resolveRegs.contains r = true → R.contains r = false := fun r hr => by
    by_contra hc
    have hm := List.all_eq_true.1 hR r (by simpa using hc)
    rw [hr] at hm
    cases hm
  exact ⟨h.qtrs s hq, h.flat s hf, h.tiles s ht, fun r n hr => (h.reg (hout r hr) n s).1, fun r n hr => (h.reg (hout r hr) n s).2⟩

namespace State.resolvesAs

variable {s t : State} (h : t.resolvesAs s)
include h

theorem fld (f : Fld) (hf : resolveRegs.contains f.reg = true) (n : Nat) : t.fld f n = s.fld f n := by rw [State.fld, h.eff _ _ hf, State.fld]

theorem bit (f : Fld) (hf : resolveRegs.contains f.reg = true) (n : Nat) : t.bit f n = s.bit f n := by rw [State.bit, h.fld f hf, State.bit]

theorem newEpoch : t.newEpoch = s.newEpoch := by rw [State.newEpoch, h.fld _ (by decide), State.newEpoch]

theorem qtab (q i j : Nat) : t.qtab q i j = s.qtab q i j := by unfold State.qtab State.flatE; rw [h.flat]

theorem bdOf (q p : Nat) (P : Parsed) : t.bdOf q p P = s.bdOf q p P := by simp only [State.bdOf, h.qtab]

theorem vrfOf (q bd : Nat) : t.vrfOf q bd = s.vrfOf q bd := by simp only [State.vrfOf, h.qtab]

theorem routerMac (q bd mac : Nat) : t.routerMac q bd mac = s.routerMac q bd mac := by simp only [State.routerMac, h.qtab]

theorem copyOf (q : Nat) : t.copyOf q = s.copyOf q := by
  simp only [State.copyOf, State.qtr, h.qtrs, h.raw .QTR_LDG_SEED_A q rfl, h.raw .QTR_LDG_SEED_B q rfl,
    h.bit F.QTR_LDG_STATUS_MIGRATING rfl, h.fld F.QTR_LDG_STATUS_GEN rfl, h.fld F.QTR_LDG_CFG_MAX_MOVES rfl]

theorem ledger (q ty key : Nat) : t.ledger q ty key = s.ledger q ty key := by simp only [State.ledger, h.copyOf]

theorem decap (q : Nat) (P : Parsed) (data : List Byte) : t.decap q P data = s.decap q P data := by simp only [State.decap, h.ledger]

theorem hostEntry (q vrf : Nat) (P : Parsed) : t.hostEntry q vrf P = s.hostEntry q vrf P := by simp only [State.hostEntry, h.ledger]

theorem control (q p vrf : Nat) (P : Parsed) : t.control q p vrf P = s.control q p vrf P := by
  simp only [State.control, h.hostEntry, h.fld F.TIME_PORT_PTP_ROLE rfl, h.fld F.TIME_PTP_CFG_DOMAIN rfl]

theorem tileFind (a u : Nat) (key : BitVec 320) : t.tileFind a u key = s.tileFind a u key := by
  simp only [State.tileFind, State.tileEntries, h.tiles]

theorem tileW (a u : Nat) : t.tileW a u = s.tileW a u := by simp only [State.tileW, h.fld F.AISLE_TILE_CFG_WIDTH rfl]

theorem ruleTile (a n : Nat) : t.ruleTile a n = s.ruleTile a n := by simp only [State.ruleTile, h.fld F.AISLE_RULE_MAP_TILE rfl]

theorem ruleSearch (a fmt : Nat) (key : BitVec 320) : t.ruleSearch a fmt key = s.ruleSearch a fmt key := by
  simp only [State.ruleSearch, h.fld F.AISLE_RULE_MAP_FMT_MASK rfl, h.ruleTile, h.tileW, h.tileFind]

/-- The entry of the destination MAC decides in one state as in the other, whether or not the frame has been marked late. -/
theorem decidesByMac {a : Fin 16} {p : Fin 512} {f : Frame} {e : LEntry} (hm : macDecides s a p f e) (late : Bool) :
    macDecides t a p { f with late := late } e := by
  simp only [macDecides, h.newEpoch, h.bdOf, h.vrfOf, h.decap, h.control, h.ruleSearch, h.routerMac, h.ledger,
    h.eff .AISLE_PARSE_CFG a rfl] at hm ⊢
  exact hm

end State.resolvesAs

end Sys2Proof.Machine
end

section
/-!
PROOF. What admission and resolution leave alone: the receive FIFO of the port (R190), and the count of frames that an entry discards (R95).
-/
set_option Elab.async false
namespace Sys2Proof.Machine

/-! ### The receive FIFO -/

/-- A port's receive FIFO. -/
def State.rxFifo (p : Nat) (s : State) : List Frame := (s.port p).fifo

theorem Act.Framed.keeps_rxFifo {P : List Part} {R : List Reg} {x : Act} (h : x.Framed P R) (p : Nat)
    (hP : P.contains .ports = false := by decide) : x.keeps (State.rxFifo p) := fun s => congrArg PortS.fifo (h.port s p hP)

theorem modPort_keeps_rxFifo (k p : Nat) {f : PortS → PortS} (h : ∀ P, (f P).fifo = P.fifo) : (modPort k f).keeps (State.rxFifo p) := fun s => by
  rw [State.rxFifo, run_modPort]
  split
  · next hp => rw [h, hp, State.rxFifo]
  · rfl

theorem pfcSync_keeps_rxFifo (k p : Nat) : (pfcSync k).keeps (State.rxFifo p) :=
  keeps_look fun _ => keeps_ite (modPort_keeps_rxFifo _ _ fun _ => rfl)
    (keeps_when (.acts ⟨(emit_own _).keeps_rxFifo _, (count_own _ _ _ _).keeps_rxFifo _, modPort_keeps_rxFifo _ _ fun _ => rfl, trivial⟩))

theorem fifoLevel_keeps_rxFifo (k p : Nat) : (fifoLevel k).keeps (State.rxFifo p) :=
  have hset (b : Bool) : (acts [setB F.SWC_PORT_STATE_FIFO_XOFF k b, pfcSync k]).keeps (State.rxFifo p) :=
    .acts ⟨(setB_own _ _ _).keeps_rxFifo _, pfcSync_keeps_rxFifo _ _, trivial⟩
  keeps_look fun _ => keeps_ite keeps_skip (keeps_ite (hset true) (keeps_when (hset false)))

theorem peDeliver_keeps_rxFifo (k : Packet) (wt p : Nat) : (peDeliver k wt).keeps (State.rxFifo p) :=
  keeps_look fun _ => keeps_ite
    (.acts ⟨(dropPacket_framed _).keeps_rxFifo _, (count_own _ _ _ _).keeps_rxFifo _, (raisePe_framed _).keeps_rxFifo _, trivial⟩)
    (.acts ⟨modPort_keeps_rxFifo _ _ fun _ => rfl, (modPacket_framed _ _).keeps_rxFifo _, (askBuffer_framed _ _).keeps_rxFifo _, trivial⟩)

theorem leaveList_keeps_rxFifo (l : List Packet) (k p : Nat) : (leaveList l k).keeps (State.rxFifo p) := by
  induction l with
  | nil => exact keeps_skip
  | cons x r ih =>
    refine keeps_ite ih ?_
    cases x.peWait with
    | some wt => exact .acts ⟨peDeliver_keeps_rxFifo _ _ _, ih, trivial⟩
    | none => exact keeps_ite keeps_skip (.acts ⟨(modPacket_framed _ _).keeps_rxFifo _, (askBuffer_framed _ _).keeps_rxFifo _, ih, trivial⟩)

/-- Whatever resolution decides about a frame, no FIFO changes. -/
theorem resolve_keeps_rxFifo (a h : Nat) (f : Frame) (cfg : Word) (p : Nat) : (resolve a h f cfg).keeps (State.rxFifo p) := by
  have hperf (b code : Nat) (port : Option Nat) (v : Nat) : (perfEvent b code port v).keeps (State.rxFifo p) :=
    (perfEvent_framed _ _ _ _).keeps_rxFifo _
  have hpe (k : Packet) (port : Nat) : (acts [modPkts fun l => l ++ [k], leaveHewers port]).keeps (State.rxFifo p) :=
    .acts ⟨(modPkts_framed _).keeps_rxFifo _, keeps_look fun _ => leaveList_keeps_rxFifo _ _ _, trivial⟩
  have hcount (q g c k : Nat) : (qcount q g c k).keeps (State.rxFifo p) := (qcount_framed _ _ _ _).keeps_rxFifo _
  refine keeps_look fun s => .acts ⟨keeps_when (.acts ⟨(learnDecide_framed _ _ _ _ _ _).keeps_rxFifo _,
    keeps_when ((learnVerdict_framed _ _ _).keeps_rxFifo _), trivial⟩), keeps_when (.acts ⟨hperf _ _ _ _, keeps_when (hperf _ _ _ _), trivial⟩),
    hperf _ _ _ _, keeps_when (hperf _ _ _ _), hperf _ _ _ _, hperf _ _ _ _, keeps_when (hperf _ _ _ _), ?_, trivial⟩
  split
  · exact hpe _ _
  · split
    · exact hcount _ _ _ _
    · exact keeps_ite (hcount _ _ _ _) (keeps_ite (hpe _ _) ((expand_framed _ _ _ _ _ _ _ _).keeps_rxFifo _))

/-! ### The count of discards -/

/-- The count of the frames of a quarter that resolution discards or does not find. -/
def State.discards (q : Nat) (s : State) : BitVec 48 := s.cntOf (cntKey 0x18 (2 * q + 1) 3)

theorem Act.Framed.keeps_discards {P : List Part} {R : List Reg} {x : Act} (h : x.Framed P R) (q : Nat)
    (hP : P.contains .cnt = false := by decide) : x.keeps (State.discards q) := fun s => by
  rw [State.discards, State.cntOf, h.cnt s hP, State.discards, State.cntOf]

theorem count_keeps_discards {vid idx c k q : Nat} (h : cntKey 0x18 (2 * q + 1) 3 ≠ cntKey vid idx c) : (count vid idx c k).keeps (State.discards q) :=
  keeps_look fun _ _ => (cntOf_applyUpd _ _ _ _).trans (if_neg h)

theorem qcount_keeps_discards (q : Nat) {g c : Nat} (k : Nat) (h : g < 2 ∧ c < 8 ∧ (g = 0 ∨ c ≠ 3) := by decide) :
    (qcount q g c k).keeps (State.discards q) := count_keeps_discards (by unfold cntKey; omega)

theorem run_qcount_discards (q : Nat) (s : State) : (run (qcount q 1 3 1) s).discards q = s.discards q + 1 :=
  (cntOf_applyUpd _ _ _ _).trans (if_pos rfl)

theorem pfcSync_keeps_discards {p : Nat} (hp : p < 512) (q : Nat) : (pfcSync p).keeps (State.discards q) :=
  keeps_look fun _ => keeps_ite ((modPort_framed _ _).keeps_discards _) (keeps_when (.acts ⟨(emit_own _).keeps_discards _,
    count_keeps_discards (by unfold cntKey; omega), (modPort_framed _ _).keeps_discards _, trivial⟩))

theorem fifoLevel_keeps_discards {p : Nat} (hp : p < 512) (q : Nat) : (fifoLevel p).keeps (State.discards q) :=
  have hset (b : Bool) : (acts [setB F.SWC_PORT_STATE_FIFO_XOFF p b, pfcSync p]).keeps (State.discards q) :=
    .acts ⟨(setB_own _ _ _).keeps_discards _, pfcSync_keeps_discards hp _, trivial⟩
  keeps_look fun _ => keeps_ite keeps_skip (keeps_ite (hset true) (keeps_when (hset false)))

theorem learnDrop_keeps_discards (q : Nat) : (learnDrop q).keeps (State.discards q) :=
  .acts ⟨qcount_keeps_discards _ _, (raise_own _ _).keeps_discards _, trivial⟩

theorem insertLedger_keeps_discards (q : Nat) (x : LEntry × LEntry) : (insertLedger q x .skip).keeps (State.discards q) := by
  refine keeps_look fun s => .acts ⟨(putCopy_framed _ _).keeps_discards _, ?_, trivial⟩
  split
  · exact keeps_when ((raise_own _ _).keeps_discards _)
  · exact .acts ⟨(raise_own _ _).keeps_discards _, qcount_keeps_discards (g := 0) (c := 4) q 1, keeps_skip, trivial⟩
  · exact keeps_skip

theorem learnDecide_keeps_discards (q bd mac port fid tIn : Nat) : (learnDecide q bd mac port fid tIn).keeps (State.discards q) := by
  refine keeps_look fun s => ?_
  dsimp only
  have hold {c : Prop} [Decidable c] : (if c then Act.skip else if s.padlocked 12 then qcount q 0 2 1
      else if 64 ≤ (s.qtr q).pendL.length then learnDrop q
      else modQtr q fun Q => { Q with pendL := Q.pendL ++ [{ fid := fid, bd := bd, mac := mac, port := port, time := t40 tIn }] }).keeps
        (State.discards q) :=
    keeps_ite keeps_skip (keeps_ite (qcount_keeps_discards _ _) (keeps_ite (learnDrop_keeps_discards _) ((modQtr_framed _ _).keeps_discards _)))
  split
  · exact hold
  · exact keeps_ite (keeps_when (.acts ⟨qcount_keeps_discards _ _, (raise_own _ _).keeps_discards _, trivial⟩))
      (.acts ⟨keeps_when ((putCopy_framed _ _).keeps_discards _), keeps_when hold, trivial⟩)

theorem learnCommit_keeps_discards (q : Nat) (l : Learn) : (learnCommit q l).keeps (State.discards q) := by
  refine keeps_look fun s => ?_
  dsimp only
  generalize (s.copyOf q).find 1 (macKey l.bd l.mac) = found
  generalize ((s.copyOf q).insert (learnedEntry (s.copyOf q).gen l.bd l.mac l.port l.time q, {})).2 = ended
  refine keeps_ite keeps_skip (keeps_ite (qcount_keeps_discards _ _) (keeps_ite (learnDrop_keeps_discards _) ?_))
  cases found with
  | none =>
    cases ended with
    | failed => exact insertLedger_keeps_discards _ _
    | _ => exact .acts ⟨insertLedger_keeps_discards _ _, qcount_keeps_discards _ _, (pushNote_framed _ _).keeps_discards _, trivial⟩
  | some p =>
    exact keeps_ite keeps_skip (keeps_ite (.acts ⟨(putCopy_framed _ _).keeps_discards _, (pushNote_framed _ _).keeps_discards _,
      keeps_ite (qcount_keeps_discards _ _) (.acts ⟨qcount_keeps_discards _ _, (raise_own _ _).keeps_discards _, trivial⟩), trivial⟩) keeps_skip)

theorem learnVerdict_keeps_discards (q fid : Nat) (good : Bool) : (learnVerdict q fid good).keeps (State.discards q) := by
  refine keeps_look fun s => ?_
  split
  · exact keeps_skip
  · exact .acts ⟨(modQtr_framed _ _).keeps_discards _, keeps_ite (learnCommit_keeps_discards _ _) (qcount_keeps_discards _ _), trivial⟩

end Sys2Proof.Machine
end

section
/-!
PROOF. Admission of a frame (R30, R86, R95, R146), what the ledger entry of its MAC makes of it, and the sweep of the policers (R211).
-/
set_option Elab.async false
namespace Sys2Proof.Machine

/-! ### Admission up to resolution -/

/-- What an aisle does before it resolves the frame `f` that it takes, where `r` is what stays in the FIFO. -/
def admitHead (a p : Nat) (f : Frame) (r : List Frame) : Act :=
  acts [lateCheck (64 + a) f, modPort p fun P => { P with fifo := r }, fifoLevel p, perfEvent a 1 (some p) 1,
    when f.lastIn (perfBytes a 2 (some p) f.size 1024)]

/-- The frame as the aisle takes it: marked late where it is handled after its window (R341). -/
def State.taken (s : State) (a : Nat) (f : Frame) : Frame := { f with late := f.late || s.lateFor (64 + a) f }

/-- The parser configuration for a frame (R340). -/
def State.parseCfg (s : State) (a : Nat) (f : Frame) : Word :=
  if f.epoch = s.newEpoch ∨ !s.windowOpen (64 + a) then s.eff .AISLE_PARSE_CFG a else (s.aisle a).parseOld

section
variable {s : State} {a : Fin 16} {p : Fin 512} {f : Frame} {r : List Frame} {h : Nat}

theorem run_aisleAdmit (hc : aisleCan s a p f r h) :
    run (aisleAdmit a p) s = run (resolve a h (s.taken a f) (s.parseCfg a f)) (run (admitHead a p f r) s) := by
  obtain ⟨hfifo, hfree, haisle, hadm, hfence, hsoft, hrun, hwait⟩ := hc
  simp only [aisleAdmit, run_look, hfifo, hfree, haisle, hadm, hfence, hsoft, hrun, hwait, beq_self_eq_true, Bool.not_false, Bool.and_self,
    run_when_true]
  rfl

/-- An aisle that cannot take a frame does nothing. -/
theorem run_aisleAdmit_blocked (hb : (s.port p).fifo = [] ∨ aisleOf p ≠ a ∨ (s.aisle a).fenced = true ∨
    s.clk.soft.contains (unitAisle a) = true ∨ s.aisleWaits a = true ∨ s.freeHewer a = none) : run (aisleAdmit a p) s = s := by
  rw [aisleAdmit, run_look]
  split
  · next f r h hfifo hfree =>
    refine run_when_eq_false (Bool.eq_false_iff.2 fun hgo => ?_) _ _
    simp only [Bool.and_eq_true, Bool.not_eq_true', beq_iff_eq] at hgo
    obtain ⟨⟨⟨⟨⟨haisle, -⟩, hfence⟩, hsoft⟩, -⟩, hwait⟩ := hgo
    simp only [hfifo, hfree, haisle, hfence, hsoft, hwait, ne_eq, not_true_eq_false, reduceCtorEq, Bool.false_eq_true, or_self] at hb
  · rfl

theorem admitHead_framed (a p : Nat) (f : Frame) (r : List Frame) : (admitHead a p f r).Framed (.cnt :: .perf :: .ports :: occurParts)
    (.PERF_STATUS :: .SWC_PORT_STATE :: .SYS_EPOCH_LATE :: .SYS_MODE_EVT_CAUSE :: occurRegs) :=
  .acts ⟨(lateCheck_framed _ _).widen, (modPort_framed _ _).widen, (fifoLevel_framed _).widen, (perfEvent_framed _ _ _ _).widen,
    .when (perfBytes_framed _ _ _ _ _).widen, trivial⟩

theorem admitHead_rxFifo (a p : Nat) (f : Frame) (r : List Frame) (s : State) : (run (admitHead a p f r) s).rxFifo p = r := by
  have hrest : (acts [fifoLevel p, perfEvent a 1 (some p) 1, when f.lastIn (perfBytes a 2 (some p) f.size 1024)]).keeps (State.rxFifo p) :=
    .acts ⟨fifoLevel_keeps_rxFifo _ _, (perfEvent_framed _ _ _ _).keeps_rxFifo _, keeps_when ((perfBytes_framed _ _ _ _ _).keeps_rxFifo _), trivial⟩
  rw [admitHead, run_acts_cons, run_acts_cons, hrest, State.rxFifo, run_modPort_self]

theorem admitHead_keeps_discards (a : Nat) {p : Nat} (hp : p < 512) (f : Frame) (r : List Frame) (q : Nat) :
    (admitHead a p f r).keeps (State.discards q) :=
  .acts ⟨(lateCheck_framed _ _).keeps_discards _, (modPort_framed _ _).keeps_discards _, fifoLevel_keeps_discards hp _,
    (perfEvent_framed _ _ _ _).keeps_discards _, keeps_when ((perfBytes_framed _ _ _ _ _).keeps_discards _), trivial⟩

/-- The frame taken leaves the FIFO, and nothing else does. -/
theorem aisleAdmit_rxFifo (hc : aisleCan s a p f r h) : ((run (aisleAdmit a p) s).port p).fifo = r := by
  rw [run_aisleAdmit hc]
  exact (resolve_keeps_rxFifo _ _ _ _ _ _).trans (admitHead_rxFifo _ _ _ _ _)

/-! ### Resolution by the MAC entry -/

/-- The learning and the PERF events of a frame that its MAC entry decides about; `P` is its parse. -/
def macReports (s : State) (a p : Nat) (f : Frame) (P : Parsed) : Act :=
  let q := quarterOf p
  let bd := s.bdOf q p P
  let vrf := s.vrfOf q bd
  let keys := s.keyHits q bd vrf P f.data P false
  acts [when (s.learnMode && (s.qtab q 3 bd).testBit 26 && s.bit F.QTR_LEARN_CFG_LEARN_EN q)
      (acts [learnDecide q bd P.smac p f.fid f.tIn, when f.lastIn (learnVerdict q f.fid f.fcsOk)]),
    when (P.isIp4 || P.isIp6)
      (acts [perfEvent a 10 none 1, when (s.lpmSearch a P.isIp6 vrf P.dst).isSome (perfEvent a 11 none 1)]),
    perfEvent a 12 none 1, perfEvent a 14 none keys.length, perfEvent a 15 none (keys.filter id).length,
    when P.isEvent (perfEvent a 17 (some p) 1)]

/-- The packet of such a frame: no rule sets its priority or queue. -/
def macPacket (s : State) (a p : Nat) (f : Frame) (P : Parsed) : Packet :=
  let cm := s.classMap (quarterOf p) p P.pcp P
  { frame := f, aisle := a, parsed := P, inner := none, cls := P.cls, prio := cm.1
    queue := if P.isEvent && (s.qtab (quarterOf p) 2 p).testBit 19 then 8 else queueOk cm.2, routed := false }

theorem macReports_framed (s : State) (a p : Nat) (f : Frame) (P : Parsed) : (macReports s a p f P).Framed
    (.cnt :: .perf :: .qtrs :: occurParts) (.PERF_STATUS :: .QTR_EVT_CAUSE :: .QTR_LDG_STATUS :: occurRegs) :=
  have hperf (code : Nat) (port : Option Nat) (v : Nat) := (perfEvent_framed a code port v).widen
    (P' := .cnt :: .perf :: .qtrs :: occurParts) (R' := .PERF_STATUS :: .QTR_EVT_CAUSE :: .QTR_LDG_STATUS :: occurRegs)
  .acts ⟨.when (.acts ⟨(learnDecide_framed _ _ _ _ _ _).widen, .when (learnVerdict_framed _ _ _).widen, trivial⟩),
    .when (.acts ⟨hperf _ _ _, .when (hperf _ _ _), trivial⟩), hperf _ _ _, hperf _ _ _, hperf _ _ _, .when (hperf _ _ _), trivial⟩

theorem macReports_keeps_discards (s : State) (a p : Nat) (f : Frame) (P : Parsed) :
    (macReports s a p f P).keeps (State.discards (quarterOf p)) :=
  have hperf (code : Nat) (port : Option Nat) (v : Nat) := (perfEvent_framed a code port v).keeps_discards (quarterOf p)
  .acts ⟨keeps_when (.acts ⟨learnDecide_keeps_discards _ _ _ _ _ _, keeps_when (learnVerdict_keeps_discards _ _ _), trivial⟩),
    keeps_when (.acts ⟨hperf _ _ _, keeps_when (hperf _ _ _), trivial⟩), hperf _ _ _, hperf _ _ _, hperf _ _ _, keeps_when (hperf _ _ _), trivial⟩

/-- What the entry `e` makes of such a frame: it is discarded, delivered to the protocol engine, or forwarded. -/
def macOutcome (s : State) (a p h : Nat) (f : Frame) (P : Parsed) (e : LEntry) : Act :=
  if e.fwd.discard then qcount (quarterOf p) 1 3 1
  else if e.fwd.loc then acts [modPkts fun l => l ++ [{ macPacket s a p f P with peWait := some (localType P) }], leaveHewers p]
  else expand (macPacket s a p f P) (quarterOf p) h (s.bdOf (quarterOf p) p P) P e.fwd false 0

theorem run_resolve_mac {P : Parsed} {e : LEntry} (hP : parse (s.eff .AISLE_PARSE_CFG a) f.data = P) (hm : macDecides s a p f e) :
    run (resolve a h f (s.eff .AISLE_PARSE_CFG a)) s = run (macOutcome s a p h f P e) (run (macReports s a p f P) s) := by
  obtain ⟨-, hport, hdec, hctl, hrule, hrouter, hled⟩ := hm
  rw [hP] at hdec hctl hrule hrouter hled
  rcases hv : P.vxlan with _ | v <;>
  · simp only [resolve, run_look, hport, hP, hdec, hv, Option.isSome_none, Bool.false_eq_true, if_false, Option.getD_none, hrule, hrouter,
      Bool.and_false, hctl, State.forward, hled]
    rfl

end

/-! ### Forwarding to one port -/

/-- A result of KIND 0 takes the packet to the port that it names (R95). -/
theorem run_expand_port (k : Packet) (q h bd : Nat) (d : Parsed) {fwd : Fwd} (hk : fwd.kind = 0) (s : State) :
    ∃ k', k'.frame = k.frame ∧ k'.aisle = k.aisle ∧ k'.dests = [fwd.value % 512] ∧
      run (expand k q h bd d fwd false 0) s = run (launch k' h) s := by
  refine ⟨{ k with
    dests := [fwd.value % 512], encap := false, repl := false, egBd := bd, rwIdx := 0
    ptype := ptypeOf d.isIp6 k.routed k.inner.isSome false false }, rfl, rfl, rfl, ?_⟩
  simp only [expand, run_look, hk]
  rfl

/-- A packet for one port that takes frames goes to its hewer. -/
theorem run_launch_port {k : Packet} {d : Nat} (hd : k.dests = [d]) (h : Nat) {s : State} (hup : s.isUp d = true)
    (hhold : s.hold d ≠ holdFlushing) : ∃ k', k'.frame = k.frame ∧ k'.aisle = k.aisle ∧ k'.dests = [d] ∧ k'.hewer = some h ∧
      run (launch k h) s = run (hewerStart (.hewer (Fin.ofNat 16 k.aisle) (Fin.ofNat 32 h)) k') (run (modPkts fun l => l ++ [k']) s) := by
  have hstays : (s.hold d == holdFlushing || (!s.isUp d && s.hold d == holdNone)) = false := by simp [hup, hhold]
  refine ⟨{ k with dests := [d], hewer := some h }, rfl, rfl, rfl, rfl, ?_⟩
  simp only [launch, run_look, hd, List.filter_cons, List.filter_nil, hstays, Bool.not_false, if_true, Bool.false_eq_true, if_false,
    perfPorts, List.isEmpty_nil, List.isEmpty_cons, Bool.not_true, Bool.and_false, run_acts_cons, run_each_nil, run_when_true,
    run_when_false, run_acts_nil]

theorem engine_modEng_hewer (i : Fin 16) (j : Fin 32) (g : Engine → Engine) (s : State) :
    (run (modEng (.hewer i j) g) s).engine (.hewer i j) = g (s.engine (.hewer i j)) := by
  simp only [State.engine, modEng, run_modAisle_self, tabGet_tabPut_self]

/-- A hewer that takes a packet is about to run the routine of its type. -/
theorem hewerStart_engine (i : Fin 16) (j : Fin 32) (k : Packet) (s : State) :
    ((run (hewerStart (.hewer i j) k) s).engine (.hewer i j)).disp = some k.ptype ∧
      ((run (hewerStart (.hewer i j) k) s).engine (.hewer i j)).fid = k.frame.fid := by
  simp only [hewerStart, startRoutine, run_look, run_acts_cons, run_acts_nil, engine_modEng_hewer, and_self]

/-! ### The outcome of an admission by the MAC entry -/

section
variable {s : State} {a : Fin 16} {p : Fin 512} {f : Frame} {r : List Frame} {h : Nat} {e : LEntry}
variable (hc : aisleCan s a p f r h) (hm : macDecides s a p f e)
include hc hm

/-- The entry decides after the frame has left the FIFO and its searches have been reported, which change no packet. -/
theorem run_aisleAdmit_mac : ∃ (x : Act) (t : State) (P : Parsed),
    x.Framed (.cnt :: .perf :: .ports :: .qtrs :: occurParts) (.PERF_STATUS :: .QTR_EVT_CAUSE :: .QTR_LDG_STATUS :: .SWC_PORT_STATE ::
      .SYS_EPOCH_LATE :: .SYS_MODE_EVT_CAUSE :: occurRegs) ∧ x.keeps (State.discards (quarterOf p)) ∧
    run (aisleAdmit a p) s = run (macOutcome t a p h (s.taken a f) P e) (run x s) := by
  have ht := (admitHead_framed a p f r).resolvesAs s
  have hcfg : s.parseCfg a f = (run (admitHead a p f r) s).eff .AISLE_PARSE_CFG a := by
    rw [State.parseCfg, if_pos (.inl hm.1), ht.eff _ _ (by decide)]
  let P := parse ((run (admitHead a p f r) s).eff .AISLE_PARSE_CFG a) f.data
  refine ⟨.seq (admitHead a p f r) (macReports (run (admitHead a p f r) s) a p (s.taken a f) P), run (admitHead a p f r) s, P,
    .seq (admitHead_framed _ _ _ _).widen (macReports_framed _ _ _ _ _).widen,
    keeps_seq (admitHead_keeps_discards _ p.isLt _ _ _) (macReports_keeps_discards _ _ _ _ _), ?_⟩
  have hm' : macDecides (run (admitHead a p f r) s) a p (s.taken a f) e := ht.decidesByMac hm _
  rw [run_aisleAdmit hc, hcfg]
  exact run_resolve_mac rfl hm'

theorem aisleAdmit_mac_discards (hd : e.fwd.discard = true) : (run (aisleAdmit a p) s).pkts = s.pkts ∧
    (run (aisleAdmit a p) s).discards (quarterOf p) = s.discards (quarterOf p) + 1 := by
  obtain ⟨x, t, P, hx, hkeeps, hrun⟩ := run_aisleAdmit_mac hc hm
  rw [hrun, macOutcome, if_pos hd, run_qcount_discards, hkeeps, (qcount_framed _ _ _ _).pkts, hx.pkts]
  exact ⟨rfl, rfl⟩

theorem aisleAdmit_mac_forwards (hd : e.fwd.discard = false) (hl : e.fwd.loc = false) (hk : e.fwd.kind = 0)
    (hup : s.isUp (e.fwd.value % 512) = true) (hhold : s.hold (e.fwd.value % 512) ≠ holdFlushing) :
    ∃ k, (run (aisleAdmit a p) s).pkts = s.pkts ++ [k] ∧ k.frame.fid = f.fid ∧ k.frame.data = f.data ∧ k.aisle = (a : Nat) ∧
      k.hewer = some h ∧ k.dests = [e.fwd.value % 512] ∧
      ((run (aisleAdmit a p) s).engine (.hewer a (Fin.ofNat 32 h))).disp = some k.ptype ∧
      ((run (aisleAdmit a p) s).engine (.hewer a (Fin.ofNat 32 h))).fid = f.fid := by
  obtain ⟨x, t, P, hx, -, hrun⟩ := run_aisleAdmit_mac hc hm
  obtain ⟨k₁, hframe₁, haisle₁, hdests₁, hexpand⟩ := run_expand_port (macPacket t a p (s.taken a f) P) (quarterOf p) h
    (t.bdOf (quarterOf p) p P) P hk (run x s)
  have hup' : (run x s).isUp (e.fwd.value % 512) = true := by rw [State.isUp, State.link, hx.fld F.PORT_STATE_LINK]; exact hup
  have hhold' : (run x s).hold (e.fwd.value % 512) ≠ holdFlushing := by rw [State.hold, hx.fld F.PORT_STATE_HOLD]; exact hhold
  obtain ⟨k, hframe, haisle, hdests, hhewer, hlaunch⟩ := run_launch_port hdests₁ h hup' hhold'
  have ha : Fin.ofNat 16 k₁.aisle = a := by rw [haisle₁]; exact Fin.ext (Nat.mod_eq_of_lt a.isLt)
  have hfid : k.frame.fid = f.fid := by rw [hframe, hframe₁]; rfl
  rw [macOutcome, hd, hl, if_neg Bool.false_ne_true, if_neg Bool.false_ne_true, hexpand, hlaunch, ha] at hrun
  obtain ⟨hdisp, hengine⟩ := hewerStart_engine a (Fin.ofNat 32 h) k (run (modPkts fun l => l ++ [k]) (run x s))
  rw [hrun]
  refine ⟨k, ?_, hfid, ?_, haisle.trans haisle₁, hhewer, hdests, hdisp, hengine.trans hfid⟩
  · rw [(hewerStart_framed _ _).pkts, run_modPkts, hx.pkts]
  · rw [hframe, hframe₁]; rfl

end

/-! ### The sweep of the policers (R211) -/

/-- A table whose entries are all brought up to date, and that leaves out the ones then at the default. -/
theorem tabGet_map_filter {α : Type} [DecidableEq α] (g : Nat → α → α) (d : α) {t : Tab α} {k : Nat} (hn : (t.map (·.1)).Nodup)
    (hk : k ∈ t.map (·.1)) : tabGet ((t.map fun e => (e.1, g e.1 e.2)).filter fun e => e.2 != d) d k = g k (tabGet t d k) := by
  induction t with
  | nil => cases hk
  | cons e t ih =>
    obtain ⟨he, hn⟩ := List.nodup_cons.1 hn
    rw [List.map_cons, List.filter_cons]
    by_cases hek : e.1 = k
    · subst hek
      split
      · simp [tabGet]
      · next hd =>
        have habsent : ∀ x ∈ (t.map fun y => (y.1, g y.1 y.2)).filter fun y => y.2 != d, x.1 ≠ e.1 := fun x hx hxe => by
          obtain ⟨y, hy, rfl⟩ := List.mem_map.1 (List.mem_of_mem_filter hx)
          exact he (List.mem_map.2 ⟨y, hy, hxe⟩)
        rw [tabGet_absent _ _ _ habsent]
        simpa [tabGet] using Eq.symm (by simpa using hd)
    · have hkt : k ∈ t.map (·.1) := (List.mem_cons.1 hk).resolve_left (Ne.symm hek)
      split <;> simp [tabGet, hek, ih hn hkt]

theorem policerSweep_bucket {s : State} {q i : Nat} (hn : ((s.qtr q).pol.map (·.1)).Nodup) (hi : i ∈ (s.qtr q).pol.map (·.1)) :
    tabGet ((run (policerSweep q) s).qtr q).pol {} i = polUpdate (s.polE q i) (tabGet (s.qtr q).pol {} i) s.nowNs := by
  rw [policerSweep, run_look, run_modQtr_self]
  exact tabGet_map_filter (fun k b => polUpdate (s.polE q k) b s.nowNs) {} hn hi

/-- Settles O20: what comes before the resolution of a frame changes nothing that decides about it, so its MAC entry decides as it did when
the aisle took the frame. -/
theorem aislesAdmitAndPolicersRefill : Obligations.AislesAdmitAndPolicersRefill := by
  unfold Obligations.AislesAdmitAndPolicersRefill
  refine ⟨?_, ?_, ?_, ?_, ?_⟩
  case refine_1 => exact fun s a p f r h hh hc => completes_run rfl (by rw [run_coreDo _ _ hh]; exact aisleAdmit_rxFifo hc)
  case refine_2 =>
    intro s a p f r h e hh hc hm hd
    refine completes_run rfl ?_
    rw [run_coreDo _ _ hh]
    obtain ⟨hpkts, hcount⟩ := aisleAdmit_mac_discards hc hm hd
    exact ⟨hpkts, aisleAdmit_rxFifo hc, hcount⟩
  case refine_3 =>
    intro s a p f r h e hh hc hm hd hl hk hup hhold
    refine completes_run rfl ?_
    rw [run_coreDo _ _ hh]
    exact ⟨aisleAdmit_rxFifo hc, aisleAdmit_mac_forwards hc hm hd hl hk hup hhold⟩
  case refine_4 =>
    intro s a p hb
    refine completes_run rfl ?_
    cases hh : s.halted with
    | false => rw [run_coreDo _ _ hh, run_aisleAdmit_blocked hb]
    | true => exact run_coreDo_halted _ _ hh
  case refine_5 => exact fun s q i hh hn hi => completes_run rfl (by rw [run_coreDo _ _ hh]; exact policerSweep_bucket hn hi)

end Sys2Proof.Machine
end

section
/-!
PROOF. The mark of a captured frame (R232, R235) on a port whose two directions take the values of a calibration at different times.
-/
set_option Elab.async false
namespace Sys2Proof.Machine

/-- A running device whose port 8 is UP and receives no frame, and whose calibration was committed while it transmitted: the receive side
has its new values, the transmit side (bit 1) takes them at its next frame boundary. -/
def transmitCommitWaits : State := Tests.upDev [modPort 8 fun P => { P with calWait := 2 }]

theorem transmitCommitWaits_marked : transmitCommitWaits.marked 8 = true := by decide +kernel

/-- The captured frame carries the mark of its own direction, which is gone. -/
theorem transmitCommitWaits_capture :
    ((run (frameSfdCapture 8 0 Tests.fr1 0) transmitCommitWaits).port 8).fifo.map (·.mark) = [false] := by decide +kernel

/-- Refutes O19: a received timestamp carries the mark of the receive direction (R235), and the clause on captured frames asks for the mark
of either direction. In `transmitCommitWaits` only the transmit direction is marked. -/
theorem not_framesAreCapturedAndEnd : ¬ Obligations.FramesAreCapturedAndEnd := by
  unfold Obligations.FramesAreCapturedAndEnd
  rintro ⟨hcapture, -⟩
  have hroom : Tests.fr1.length + 4 ≤ transmitCommitWaits.fifoRoom 8 := by decide +kernel
  obtain ⟨f, hfifo, -, -, -, hmark, -⟩ := completes_next (a := frameSfdCapture 8 0 Tests.fr1 0) rfl
    (hcapture transmitCommitWaits 8 0 Tests.fr1 0 (by decide +kernel) (by decide +kernel) (by decide +kernel) (by decide) hroom)
  have hmarks := transmitCommitWaits_capture
  rw [show ((run (frameSfdCapture 8 0 Tests.fr1 0) transmitCommitWaits).port 8).fifo = _ from hfifo, List.map_append, List.map_singleton,
    hmark, show transmitCommitWaits.marked ((8 : Fin 512) : Nat) = true from transmitCommitWaits_marked] at hmarks
  exact absurd (congrArg List.getLast? hmarks) (by simp)

end Sys2Proof.Machine
end

section
/-!
PROOF. The shadow compare against the NVM reference while the NVM controller is in soft reset (R320, R322).
-/
set_option Elab.async false
namespace Sys2Proof.Machine

/-- A running device with the NVM reference, whose walk stands at entry 0 of table 2, and whose NVM controller is in soft reset: the bus is
not released, and yet no NVM command may start. -/
def nvmInSoftReset : State :=
  Tests.tune [setF F.ASSAY_STATUS_REF 0 refNvm, modDma fun d => { d with walk := (2, false, 0) }, modClk fun c => { c with soft := [unitNvm] }]

/-- The walk stands. -/
theorem nvmInSoftReset_walk : (run (coreDo (assayRecordStep [] none)) nvmInSoftReset).dma.walk = (2, false, 0) := by decide +kernel

/-- Refutes O50: the clause on a flat table with the NVM reference excludes a released bus only, but the walk also waits while the NVM
controller is in soft reset or a reset waits for it (R320). In `nvmInSoftReset` the walk does not go on. -/
theorem not_theShadowIsCompared : ¬ Obligations.TheShadowIsCompared := by
  unfold Obligations.TheShadowIsCompared
  rintro ⟨-, hflat, -⟩
  obtain ⟨hwalk, -⟩ := completes_next (a := coreDo (assayRecordStep [] none)) rfl
    (hflat nvmInSoftReset [] none 2 0 (by decide +kernel) (by decide +kernel) (by decide +kernel) (by decide +kernel) (by decide +kernel)
      (by decide +kernel) (by decide) (by decide) (by decide +kernel) (by decide))
  exact absurd (nvmInSoftReset_walk.symm.trans hwalk) (by decide)

end Sys2Proof.Machine
end

section
/-!
PROOF. The ports of a split (R40, R41). SPLIT has seven bits, so the tree of a stall is one of 128; what the tree makes of the eight lanes of a
stall is a finite fact, and every statement about a port follows from it by its stall and its place there.
-/
set_option Elab.async false
namespace Sys2Proof.Machine

/-! ### The tree of one stall -/

/-- The place at which the port of lane `i` of a stall starts: the last start at or before it. -/
def splitPort (split i : Nat) : Nat := ((List.range 8).filter fun k => decide (k ≤ i) && splitStarts split k).getLastD 0

theorem splitPort_holds : ∀ split < 128, ∀ i < 8, splitPort split i < 8 ∧ splitStarts split (splitPort split i) = true ∧
    splitPort split i ≤ i ∧ i < splitPort split i + splitWidth split (splitPort split i) := by decide +kernel

theorem splitPort_unique : ∀ split < 128, ∀ i < 8, ∀ k < 8,
    splitStarts split k = true ∧ k ≤ i ∧ i < k + splitWidth split k → k = splitPort split i := by decide +kernel

theorem splitWidth_bounds : ∀ split < 128, ∀ k < 8, splitStarts split k = true → 0 < splitWidth split k ∧ k + splitWidth split k ≤ 8 := by
  decide +kernel

theorem splitWidth_sum : ∀ split < 128, (((List.range 8).filter (splitStarts split)).map (splitWidth split)).sum = 8 := by decide +kernel

/-! ### Ports by their stall and their place in it -/

/-- SPLIT of a stall. -/
def State.splitOf (s : State) (st : Nat) : Nat := s.fld F.STALL_CFG_SPLIT st

theorem splitOf_lt (s : State) (st : Nat) : s.splitOf st < 128 := fld_lt s F.STALL_CFG_SPLIT st

theorem starts_eq (s : State) (p : Nat) : s.starts p = splitStarts (s.splitOf (p / 8)) (p % 8) := rfl

theorem width_eq (s : State) (p : Nat) : s.width p = splitWidth (s.splitOf (p / 8)) (p % 8) := rfl

theorem starts_place (s : State) (st : Nat) {i : Nat} (hi : i < 8) : s.starts (8 * st + i) = splitStarts (s.splitOf st) i := by
  rw [starts_eq, show (8 * st + i) / 8 = st by omega, show (8 * st + i) % 8 = i by omega]

theorem width_place (s : State) (st : Nat) {i : Nat} (hi : i < 8) : s.width (8 * st + i) = splitWidth (s.splitOf st) i := by
  rw [width_eq, show (8 * st + i) / 8 = st by omega, show (8 * st + i) % 8 = i by omega]

/-- The first lane of a stall always starts a port. -/
theorem starts_first (s : State) (st : Nat) : s.starts (8 * st) = true := by
  rw [starts_eq, show 8 * st % 8 = 0 by omega]
  rfl

theorem portOfLane_eq (s : State) (l : Nat) : s.portOfLane l = 8 * (l / 8) + splitPort (s.splitOf (l / 8)) (l % 8) := by
  have hf : (List.range 8).filter (fun i => decide (l / 8 * 8 + i ≤ l) && s.starts (l / 8 * 8 + i)) =
      (List.range 8).filter fun k => decide (k ≤ l % 8) && splitStarts (s.splitOf (l / 8)) k := by
    refine List.filter_congr fun i hi => ?_
    rw [Nat.mul_comm, starts_place s _ (List.mem_range.1 hi)]
    congr 1
    exact decide_eq_decide.2 (by omega)
  rw [State.portOfLane, hf, splitPort]
  omega

theorem mem_lanesOf {s : State} {p l : Nat} : l ∈ s.lanesOf p ↔ p ≤ l ∧ l < p + s.width p := by
  simp only [State.lanesOf, List.mem_map, List.mem_range]
  constructor
  · rintro ⟨i, hi, rfl⟩
    omega
  · rintro ⟨h1, h2⟩
    exact ⟨l - p, by omega, by omega⟩

theorem portsOf_eq (s : State) (st : Nat) : s.portsOf st = ((List.range 8).filter (splitStarts (s.splitOf st))).map (8 * st + ·) := by
  rw [State.portsOf, List.filter_map, Nat.mul_comm st 8]
  congr 1
  exact List.filter_congr fun i hi => starts_place s st (List.mem_range.1 hi)

theorem mem_portsOf {s : State} {st p : Nat} : p ∈ s.portsOf st ↔ p / 8 = st ∧ s.starts p = true := by
  simp only [State.portsOf, List.mem_filter, List.mem_map, List.mem_range]
  constructor
  · rintro ⟨⟨i, hi, rfl⟩, hs⟩
    exact ⟨by omega, hs⟩
  · rintro ⟨rfl, hs⟩
    exact ⟨⟨p % 8, by omega, by omega⟩, hs⟩

/-! ### The obligation -/

/-- A lane belongs to the port of its place in the tree. -/
theorem portOfLane_holds (s : State) (l : Nat) :
    s.starts (s.portOfLane l) = true ∧ l ∈ s.lanesOf (s.portOfLane l) ∧ s.portOfLane l / 8 = l / 8 := by
  obtain ⟨h8, hs, hle, hlt⟩ := splitPort_holds _ (splitOf_lt s (l / 8)) (l % 8) (by omega)
  rw [mem_lanesOf, portOfLane_eq, starts_place s _ h8, width_place s _ h8]
  exact ⟨hs, by omega, by omega⟩

/-- No other port has the lane. -/
theorem portOfLane_unique {s : State} {p l : Nat} (hs : s.starts p = true) (hl : l ∈ s.lanesOf p) : p = s.portOfLane l := by
  obtain ⟨h1, h2⟩ := mem_lanesOf.1 hl
  obtain ⟨-, hb⟩ := splitWidth_bounds _ (splitOf_lt s (p / 8)) (p % 8) (by omega) hs
  rw [width_eq] at h2
  have hst : l / 8 = p / 8 := by omega
  have := splitPort_unique _ (splitOf_lt s (p / 8)) (l % 8) (by omega) (p % 8) (by omega) ⟨hs, by omega, by omega⟩
  rw [portOfLane_eq, hst, ← this]
  omega

/-- The speeds of the ports of a stall add to eight lanes. -/
theorem rates_sum (s : State) (st : Nat) : ((s.portsOf st).map s.rateGb).sum = 8 * laneRate (s.fld F.STALL_CFG_LANE_RATE st) := by
  have hr : ∀ i ∈ (List.range 8).filter (splitStarts (s.splitOf st)), (s.rateGb ∘ (8 * st + ·)) i =
      splitWidth (s.splitOf st) i * laneRate (s.fld F.STALL_CFG_LANE_RATE st) := by
    intro i hi
    have hi8 := List.mem_range.1 (List.mem_of_mem_filter hi)
    rw [Function.comp_apply, State.rateGb, width_place s st hi8, stallOf, show (8 * st + i) / 8 = st by omega]
  rw [portsOf_eq, List.map_map, List.map_congr_left hr, List.sum_map_mul_right, splitWidth_sum _ (splitOf_lt s st)]

theorem laneRate_le (rate : Nat) : laneRate rate ≤ 200 := by
  unfold laneRate
  split_ifs <;> omega

/-- Settles O60: each statement about a port is the fact about the tree of its stall. -/
theorem portsOfASplit : Obligations.PortsOfASplit := by
  refine ⟨fun s l => ?_, fun s p hs => ?_, fun s st => ?_, fun s st => ?_⟩
  · obtain ⟨h1, h2, h3⟩ := portOfLane_holds s l
    exact ⟨h1, h2, h3, fun p => portOfLane_unique⟩
  · exact ⟨(splitWidth_bounds _ (splitOf_lt s (p / 8)) (p % 8) (by omega) hs).1, rfl, rfl⟩
  · have : (List.range 8).map (fun i => s.starts (8 * st + i)) = (List.range 8).map (splitStarts (s.splitOf st)) :=
      List.map_congr_left fun i hi => starts_place s st (List.mem_range.1 hi)
    exact this
  · have h0 : 8 * st ∈ s.portsOf st := mem_portsOf.2 ⟨by omega, starts_first s st⟩
    refine ⟨List.length_pos_of_mem h0, ?_, rates_sum s st, ?_⟩
    · exact (List.length_filter_le _ _).trans (by simp)
    · have := laneRate_le (s.fld F.STALL_CFG_LANE_RATE st)
      omega

end Sys2Proof.Machine
end

section
/-!
PROOF. The count of discards (R194, R290) where the buffer of the discarded descriptor is charged to a port number far outside the device.
-/
set_option Elab.async false
namespace Sys2Proof.Machine

/-- The port number whose count of sent PFC frames has the key of port 1's count of discards. -/
def farPort : Nat := 0x27 * 2 ^ 23

theorem farPort_key : cntKey 0x11 (2 * farPort + 1) 3 = cntKey 0x38 1 3 := by decide

/-- A running device whose port 1 flushes one descriptor. Its buffer is charged to `farPort`, whose link reads UP and which keeps a pause
standing. -/
def chargedOutside : State :=
  Tests.tune [setF F.PORT_STATE_HOLD 1 holdFlushing, setF F.PORT_STATE_LINK farPort linkUp, modPort farPort fun P => { P with txPfc := 1 },
    modPort 1 fun P => { P with queues := [(0, { d := [{ handle := 3, final := true }] })] },
    modBuf 3 fun B => { B with st := 1, ownPort := 1, chgPort := farPort }]

theorem chargedOutside_before : chargedOutside.cntOf (cntKey 0x38 1 3) = 0 := by decide +kernel

/-- The discard counts once, and once more the PFC frame that ends the standing pause. -/
theorem chargedOutside_after : (run (coreDo (flushDiscard 1 0)) chargedOutside).cntOf (cntKey 0x38 1 3) = 2 := by decide +kernel

/-- Refutes O23: the clause on discards asks that the count of discards rises by 1 in every state. The buffer that becomes free lets PFC of
the port it is charged to follow, and in `chargedOutside`, where that port number lies outside the device, the PFC frame sent for it is
counted under the same key. -/
theorem not_portLeavesUpAndItsHoldEnds : ¬ Obligations.PortLeavesUpAndItsHoldEnds := by
  unfold Obligations.PortLeavesUpAndItsHoldEnds
  rintro ⟨-, -, -, -, hdiscard, -⟩
  obtain ⟨-, hcount⟩ := completes_next (a := coreDo (flushDiscard 1 0)) rfl
    (hdiscard chargedOutside 1 0 { handle := 3, final := true } [] (by decide +kernel) (by decide +kernel) (by decide +kernel))
  have hafter := chargedOutside_after.symm.trans hcount
  rw [show chargedOutside.cntOf (cntKey 0x38 ((1 : Fin 512) : Nat) 3) = 0 from chargedOutside_before] at hafter
  exact absurd hafter (by decide)

end Sys2Proof.Machine
end

section
/-!
PROOF. Commands of one port (R41): every write of their actions is to that port's own state and places, or to what no port owns.
-/
set_option Elab.async false
namespace Sys2Proof.Machine

/-- A primitive write that touches no port but `p`: neither another port's state nor another place of a register with one place for each
port. -/
def atPort (p : Nat) : Upd → Prop
  | .port k _ => k = p
  | .reg r n _ => portRegs.contains r = true → n = p
  | .live r n _ => portRegs.contains r = true → n = p
  | .keep t _ => t ≠ .ports ∧ t ≠ .regs ∧ t ≠ .live
  | _ => True

/-- An action all of whose writes touch no port but `p`. -/
structure Act.AtPort (p : Nat) (a : Act) : Prop where
  within : a.within (atPort p)

theorem atPort_onlyPorts {p : Nat} {u : Upd} (h : atPort p u) (s : State) : OnlyPorts [p] s (applyUpd u s) := by
  intro k hk
  cases u with
  | port n v =>
    cases h
    rw [port_applyUpd, if_neg (by simpa using hk)]
  | keep t q => cases t <;> first | rfl | exact absurd rfl h.1
  | _ => rfl

theorem atPort_place {p : Nat} {u : Upd} (h : atPort p u) (s : State) {r : Reg} {n : Nat} (hr : portRegs.contains r = true) (hn : n ≠ p) :
    (applyUpd u s).place r n = s.place r n := by
  cases u with
  | reg q m w =>
    have hne : ¬ (r = q ∧ n = m) := by
      rintro ⟨rfl, rfl⟩
      exact hn (h hr)
    simp [State.place, eff_eq, raw_reg, hne]
  | live q m w =>
    have hne : ¬ (r = q ∧ n = m) := by
      rintro ⟨rfl, rfl⟩
      exact hn (h hr)
    simp [State.place, eff_eq, stagedAt_live, hne]
  | keep t q => cases t <;> first | rfl | exact absurd rfl h.2.1 | exact absurd rfl h.2.2
  | _ => rfl

namespace Act.AtPort

variable {p : Nat} {a b : Act}

theorem skip : Act.skip.AtPort p := ⟨trivial⟩

theorem upd {u : Upd} (h : atPort p u) : (Act.upd u).AtPort p := ⟨h⟩

theorem seq (ha : a.AtPort p) (hb : b.AtPort p) : (Act.seq a b).AtPort p := ⟨ha.within, hb.within⟩

theorem look {f : State → Act} (h : ∀ s, (f s).AtPort p) : (Act.look f).AtPort p := ⟨fun s => (h s).within⟩

theorem when {c : Bool} (h : a.AtPort p) : (Machine.when c a).AtPort p := ⟨within_when c a h.within⟩

theorem each {α : Type} {l : List α} {f : α → Act} (h : ∀ x, (f x).AtPort p) : (Machine.each l f).AtPort p :=
  ⟨within_each l f fun x _ => (h x).within⟩

theorem ite {c : Prop} [Decidable c] (ha : a.AtPort p) (hb : b.AtPort p) : (if c then a else b).AtPort p := by split <;> assumption

theorem nil : (Machine.acts []).AtPort p := ⟨trivial⟩

theorem cons {l : List Act} (ha : a.AtPort p) (hl : (Machine.acts l).AtPort p) : (Machine.acts (a :: l)).AtPort p := seq ha hl

/-- A framed action that lists neither the ports nor a register with one place for each port. -/
theorem of_framed {P : List Part} {R : List Reg} (h : a.Framed P R) (hP : P.contains .ports = false := by decide)
    (hR : (portRegs.any R.contains) = false := by decide) : a.AtPort p := by
  refine ⟨within_mono a h.within fun u hu => ?_⟩
  have hreg : ∀ {r : Reg} {n : Nat}, R.contains r = true → portRegs.contains r = true → n = p := by
    intro r n hr hq
    rw [List.any_eq_false] at hR
    exact absurd hr (hR r (by simpa using hq))
  cases u with
  | port n v => exact absurd (hP.symm.trans hu) (by decide)
  | reg r n w => exact hreg hu.2
  | live r n w => exact hreg hu.2
  | keep t q => exact ⟨by rintro rfl; exact absurd (hP.symm.trans hu.1) (by decide), by rintro rfl; exact hu.2.1 rfl, by rintro rfl; exact hu.2.2 rfl⟩
  | _ => trivial

theorem modPort (f : PortS → PortS) : (Machine.modPort p f).AtPort p := look fun _ => upd rfl

theorem setF (f : Fld) (v : Nat) : (Machine.setF f p v).AtPort p := ⟨setF_within _ f p v (fun _ _ => rfl) (fun _ _ => rfl)⟩

theorem setB (f : Fld) (c : Bool) : (Machine.setB f p c).AtPort p := setF f _

theorem raise (f : Fld) : (Machine.raise f p).AtPort p :=
  seq (setF f 1) (by
    cases causeSource f.reg p f.lo with
    | none => exact skip
    | some e => exact of_framed (occur_own e))

theorem coreDo (h : a.AtPort p) : (Machine.coreDo a).AtPort p := look fun _ => when h

theorem stageF (f : Fld) (v : Nat) : (Machine.stageF f p v).AtPort p := look fun _ => seq (upd fun _ => rfl) (upd fun _ => rfl)

theorem writeField (sec : Bool) (r : Reg) (v : Word) (f : FieldInfo) : (Machine.writeField sec r p v f).AtPort p := by
  unfold Machine.writeField
  refine ite skip ?_
  cases f.ty with
  | ro => exact skip
  | wo => exact skip
  | w1c => exact look fun _ => setF _ _
  | w1s => exact look fun _ => setF _ _
  | cnt => exact setF _ _
  | lck => exact look fun _ => when (setF _ _)
  | rw => cases f.ap with
    | now => exact setF _ _
    | none => exact setF _ _
    | _ => exact stageF _ _

theorem writeFields (rq : Req) (r : Reg) (v : Word) : (Machine.writeFields rq r p v).AtPort p :=
  look fun _ => cons (each fun f => writeField _ r v f) (cons (when (of_framed (lockedWrite_own _ _))) nil)

theorem onWrite {rq : Req} {r : Reg} {k : Req → Act} (h : ∀ q, (k q).AtPort p) : (Machine.onWrite rq r p k).AtPort p := by
  refine look fun s => ite skip ?_
  cases s.accessErr rq r p with
  | some kind => exact of_framed (busError_own _ _ _ _)
  | none => exact h _

/-- What a command whose action touches no port but `p` leaves alone. -/
theorem exec (h : a.AtPort p) {c : Instr} {s t : State} (hc : ∀ s, Machine.exec c s = .next (run a s)) (ht : Machine.exec c s = .next t) :
    OnlyPorts [p] s t ∧ ∀ r n, portRegs.contains r = true → n ≠ p → t.raw r n = s.raw r n ∧ t.eff r n = s.eff r n := by
  rw [hc] at ht
  cases ht
  refine ⟨run_within (OnlyPorts [p]) (fun _ _ _ => rfl) (fun _ _ _ hst htu k hk => (htu k hk).trans (hst k hk))
    (fun _ s hu => atPort_onlyPorts hu s) a h.within s, fun r n hr hn => ?_⟩
  have := run_within (fun s t => t.place r n = s.place r n) (fun _ => rfl) (fun _ _ _ hst htu => htu.trans hst)
    (fun _ s hu => atPort_place hu s hr hn) a h.within s
  exact Prod.mk.inj this

end Act.AtPort

/-! ### The commands of one port -/

theorem pfcSync_atPort (p : Nat) : (pfcSync p).AtPort p :=
  .look fun _ => .ite (.modPort _) (.when (.cons (.of_framed (emit_own _)) (.cons (.of_framed (count_own _ _ _ _)) (.cons (.modPort _) .nil))))

theorem fifoLevel_atPort (p : Nat) : (fifoLevel p).AtPort p :=
  .look fun _ => .ite .skip (.ite (.cons (.setB _ _) (.cons (pfcSync_atPort p) .nil))
    (.when (.cons (.setB _ _) (.cons (pfcSync_atPort p) .nil))))

theorem frameSfdCapture_atPort (p pos : Nat) (data : List Byte) (sub : Nat) : (frameSfdCapture p pos data sub).AtPort p :=
  .look fun _ => .when (.cons (.upd trivial) (.cons (.modPort _) (.cons (.of_framed (perfEvent_framed _ _ _ _))
    (.cons (.when (.of_framed (perfEvent_framed _ _ _ _)))
      (.cons (.when (.cons (.of_framed (count_own _ _ _ _)) (.cons (.of_framed (raise_own _ _)) .nil))) (.cons (fifoLevel_atPort p) .nil))))))

theorem anFail_atPort (p : Nat) : (anFail p).AtPort p := .look fun _ => .when (.cons (.setF _ _) (.cons (.modPort _) .nil))

theorem enterLink_atPort (p l : Nat) : (enterLink p l).AtPort p :=
  .look fun _ => .cons (.setF _ _) (.cons (.when (.of_framed (sendPages_framed p)))
    (.cons (.when (.each fun _ => .of_framed (modLane_framed _ _)))
      (.cons (.when (.cons (.modPort _) (.cons (.when (.each fun _ => .of_framed (modLane_framed _ _))) .nil))) .nil)))

theorem anPauseExpire_atPort (p : Nat) : (anPauseExpire p).AtPort p :=
  .look fun _ => .when (.cons (.modPort _) (.cons (.when (enterLink_atPort p _)) .nil))

theorem trainingTimeboxExpire_atPort (p : Nat) : (trainingTimeboxExpire p).AtPort p :=
  .look fun _ => .when (.cons (.setF _ _) (.cons (.modPort _) (.cons (enterLink_atPort p _) .nil)))

theorem pfcRefresh_atPort (p i : Nat) : (pfcRefresh p i).AtPort p :=
  .look fun _ => .when (.cons (.of_framed (emit_own _)) (.cons (.of_framed (count_own _ _ _ _)) (.cons (.modPort _) .nil)))

theorem syncGates_atPort (p : Nat) : (syncGates p).AtPort p := .look fun _ => .cons (.setF _ _) (.cons (.setF _ _) .nil)

theorem gateEdge_atPort (p : Nat) : (gateEdge p).AtPort p := .look fun _ => .when (syncGates_atPort p)

theorem reject_sch_atPort (p : Nat) (rq : Req) (addr code vid : Nat) : (reject .sch rq addr code vid).AtPort p :=
  .of_framed (reject_own .sch rq addr code vid)

theorem hlArm_atPort (rq : Req) (p : Nat) (v : Word) : (hlArm rq p v).AtPort p :=
  .onWrite fun _ => .when (.look fun s => .when (.ite (reject_sch_atPort _ _ _ _ _) (by
    cases s.armCheck p with
    | some c => exact reject_sch_atPort _ _ _ _ _
    | none => exact .cons (.setB _ _) (.cons (.setB _ _)
        (.cons (.when (.cons (.setB _ _) (.cons (.of_framed (raise_own _ _)) .nil)))
          (.cons (.cons (.setF _ _) (.cons (.setF _ _) (.cons (.setF _ _) .nil))) (.cons (.modPort _) .nil)))))))

theorem hlCancel_atPort (rq : Req) (p : Nat) (v : Word) : (hlCancel rq p v).AtPort p :=
  .onWrite fun _ => .when (.look fun _ => .when (.ite (.setB _ _) (reject_sch_atPort _ _ _ _ _)))

theorem hlStop_atPort (rq : Req) (p : Nat) (v : Word) : (hlStop rq p v).AtPort p :=
  .onWrite fun _ => .when (.look fun _ => .when (.ite (.cons (.setB _ _) (.cons (syncGates_atPort p) .nil)) (reject_sch_atPort _ _ _ _ _)))

theorem hlSwitch_atPort (p : Nat) : (hlSwitch p).AtPort p :=
  .look fun _ => .when (.cons (.setB _ _) (.cons (.setB _ _) (.cons (.setB _ _) (.cons (.modPort _)
    (.cons (.of_framed (perfEvent_framed _ _ _ _)) (.cons (.of_framed (raise_own _ _)) (.cons (syncGates_atPort p) .nil)))))))

theorem qtClearClose_atPort (p : Nat) : (qtClearClose p).AtPort p :=
  .look fun _ => .when (.cons (.modPort _) (.cons (.of_framed (perfEvent_framed _ _ _ _)) (.cons (syncGates_atPort p) .nil)))

theorem qtClearReopen_atPort (p : Nat) : (qtClearReopen p).AtPort p :=
  .look fun _ => .when (.cons (.modPort _) (.cons (syncGates_atPort p) .nil))

theorem latencySample_atPort (p : Nat) : (latencySample p).AtPort p :=
  .look fun s => by
    cases s.sampInstant p with
    | none => exact .skip
    | some t => exact .when (.cons (.modPort _)
        (.cons (.each fun _ => .cons (.modPort _) (.cons (.when (.of_framed (raise_own _ _))) .nil)) .nil))

theorem samplerClear_atPort (rq : Req) (p : Nat) (v : Word) : (samplerClear rq p v).AtPort p :=
  .onWrite fun _ => .look fun _ => .cons (.writeFields _ _ _) (.cons (.when (.each fun _ => .modPort _)) .nil)

theorem probeNone_atPort (p : Nat) : (probeNone p).AtPort p := .look fun _ => .when (.cons (.modPort _) (.cons (.raise _) .nil))

/-- The action of a command of one port touches no other port. -/
theorem onePort_action {c : Instr} {p : Nat} (h : onePort c = some p) : ∃ a : Act, (∀ s, exec c s = .next (run a s)) ∧ a.AtPort p := by
  cases c with
  | frameSfdCapture => cases h; exact ⟨_, fun _ => rfl, frameSfdCapture_atPort _ _ _ _⟩
  | anFail => cases h; exact ⟨_, fun _ => rfl, anFail_atPort _⟩
  | anPauseExpire => cases h; exact ⟨_, fun _ => rfl, anPauseExpire_atPort _⟩
  | trainingTimeboxExpire => cases h; exact ⟨_, fun _ => rfl, trainingTimeboxExpire_atPort _⟩
  | pfcRefresh => cases h; exact ⟨_, fun _ => rfl, pfcRefresh_atPort _ _⟩
  | gateEdge => cases h; exact ⟨_, fun _ => rfl, (gateEdge_atPort _).coreDo⟩
  | hlArm => cases h; exact ⟨_, fun _ => rfl, hlArm_atPort _ _ _⟩
  | hlCancel => cases h; exact ⟨_, fun _ => rfl, hlCancel_atPort _ _ _⟩
  | hlStop => cases h; exact ⟨_, fun _ => rfl, hlStop_atPort _ _ _⟩
  | hlSwitch => cases h; exact ⟨_, fun _ => rfl, (hlSwitch_atPort _).coreDo⟩
  | qtClearClose => cases h; exact ⟨_, fun _ => rfl, (qtClearClose_atPort _).coreDo⟩
  | qtClearReopen => cases h; exact ⟨_, fun _ => rfl, (qtClearReopen_atPort _).coreDo⟩
  | latencySample => cases h; exact ⟨_, fun _ => rfl, (latencySample_atPort _).coreDo⟩
  | samplerClear => cases h; exact ⟨_, fun _ => rfl, samplerClear_atPort _ _ _⟩
  | probeNone => cases h; exact ⟨_, fun _ => rfl, probeNone_atPort _⟩
  | _ => cases h

/-- Settles O10: every write of such a command is its port's own, or no port's. -/
theorem portCommandsTouchTheirPort : Obligations.PortCommandsTouchTheirPort := by
  intro c p s t h ht
  obtain ⟨a, ha, hp⟩ := onePort_action h
  exact hp.exec ha ht

end Sys2Proof.Machine
end

section
/-!
PROOF. Received PFC and pause frames, the end of a pause, and the refresh of a standing one (R36, R39).
-/
set_option Elab.async false
namespace Sys2Proof.Machine

/-! ### Priorities as bits -/

theorem getLsbD_prioBit (i k : Nat) (hk : k < 8) : (BitVec.ofNat 8 (2 ^ i)).getLsbD k = decide (k = i) := by
  rw [BitVec.getLsbD_ofNat, Nat.testBit_two_pow]
  simp [hk, eq_comm]

theorem prioBit_set (m : BitVec 8) (i k : Nat) (hk : k < 8) : (m ||| BitVec.ofNat 8 (2 ^ i)).getLsbD k = (decide (k = i) || m.getLsbD k) := by
  rw [BitVec.getLsbD_or, getLsbD_prioBit i k hk, Bool.or_comm]

theorem prioBit_clear (m : BitVec 8) (i k : Nat) (hk : k < 8) :
    (m &&& ~~~ BitVec.ofNat 8 (2 ^ i)).getLsbD k = (decide (k ≠ i) && m.getLsbD k) := by
  rw [BitVec.getLsbD_and, BitVec.getLsbD_not, getLsbD_prioBit i k hk]
  simp [hk, Bool.and_comm]

/-! ### A received PFC frame -/

/-- One priority of a PFC frame, in the set of stopped priorities. -/
def pfcStop (vec : BitVec 8) (q : List Nat) (m : BitVec 8) (i : Nat) : BitVec 8 :=
  let b : BitVec 8 := BitVec.ofNat 8 (2 ^ i)
  if vec.getLsbD i then (if q.getD i 0 = 0 then m &&& ~~~b else m ||| b) else m

/-- One priority of a PFC frame, in the ends of the pauses. -/
def pfcTill (s : State) (p : Nat) (vec : BitVec 8) (q : List Nat) (m : Tab Nat) (i : Nat) : Tab Nat :=
  if vec.getLsbD i then tabPut m 0 i (if q.getD i 0 = 0 then 0 else s.runNs + s.quantaNs p (q.getD i 0)) else m

theorem pfcStop_bit (vec : BitVec 8) (q : List Nat) (m : BitVec 8) (i k : Nat) (hk : k < 8) : (pfcStop vec q m i).getLsbD k =
    if k = i ∧ vec.getLsbD i = true then decide (q.getD i 0 ≠ 0) else m.getLsbD k := by
  unfold pfcStop
  split_ifs with hv h0 hc hc hc
  · rw [prioBit_clear m i k hk, decide_eq_false (not_not.2 hc.1), decide_eq_false (not_not.2 h0), Bool.false_and]
  · rw [prioBit_clear m i k hk]
    simp [show k ≠ i from fun e => hc ⟨e, hv⟩]
  · rw [prioBit_set m i k hk, decide_eq_true hc.1, decide_eq_true h0, Bool.true_or]
  · rw [prioBit_set m i k hk]
    simp [show k ≠ i from fun e => hc ⟨e, hv⟩]
  · exact absurd hc.2 hv
  · rfl

theorem foldl_pfcStop (vec : BitVec 8) (q : List Nat) (k : Nat) (hk : k < 8) (l : List Nat) : ∀ m : BitVec 8,
    (l.foldl (pfcStop vec q) m).getLsbD k = if l.contains k && vec.getLsbD k then decide (q.getD k 0 ≠ 0) else m.getLsbD k := by
  induction l with
  | nil => intro m; rfl
  | cons i r ih =>
    intro m
    rw [List.foldl_cons, ih, pfcStop_bit vec q m i k hk]
    by_cases hi : k = i
    · subst hi
      cases vec.getLsbD k <;> simp
    · simp [hi]

theorem foldl_pfcTill (s : State) (p : Nat) (vec : BitVec 8) (q : List Nat) (k : Nat) (hv : vec.getLsbD k = true) (hq : q.getD k 0 ≠ 0)
    (l : List Nat) : ∀ m : Tab Nat, k ∈ l ∨ tabGet m 0 k = s.runNs + s.quantaNs p (q.getD k 0) →
      tabGet (l.foldl (pfcTill s p vec q) m) 0 k = s.runNs + s.quantaNs p (q.getD k 0) := by
  induction l with
  | nil => exact fun m h => h.resolve_left (by simp)
  | cons i r ih =>
    intro m h
    refine ih _ ?_
    by_cases hi : k = i
    · subst hi
      right
      rw [pfcTill, if_pos hv, if_neg hq, tabGet_tabPut_self]
    · rcases h with h | h
      · exact .inl ((List.mem_cons.1 h).resolve_left hi)
      · right
        unfold pfcTill
        split
        · rw [tabGet_tabPut_other _ _ _ _ _ _ hi, h]
        · exact h

/-- A PFC frame on an UP port is counted, and its vector followed. -/
theorem run_pfcFrameReceive {s : State} {p : Nat} (hup : s.isUp p = true) (vec : BitVec 8) (q : List Nat) :
    run (pfcFrameReceive p vec q) s = run (modPort p fun P => { P with
      bwRx := P.bwRx + 84, actAt := P.seen s.time.words
      pauseTill := (s.pfcPrios p).foldl (pfcTill s p vec q) P.pauseTill
      rxPause := (s.pfcPrios p).foldl (pfcStop vec q) P.rxPause }) (run (count 0x11 (2 * p) 3 1) s) := by
  simp only [pfcFrameReceive, run_look, hup, run_when_true]
  rfl

/-! ### Counts -/

@[simp] theorem run_count_self (vid idx c k : Nat) (s : State) :
    (run (count vid idx c k) s).cntOf (cntKey vid idx c) = s.cntOf (cntKey vid idx c) + BitVec.ofNat 48 k := by
  simp [count, cntOf_applyUpd]

theorem Act.Framed.cntOf {P : List Part} {R : List Reg} {a : Act} (h : a.Framed P R) (s : State) (k : Nat)
    (hx : P.contains .cnt = false := by decide) : (Machine.run a s).cntOf k = s.cntOf k := by rw [State.cntOf, h.cnt s hx, State.cntOf]

/-! ### The obligation -/

/-- Settles O25: what each command writes at its priority, by the bits of the set of stopped priorities. -/
theorem receivedPausesAndRefreshes : Obligations.ReceivedPausesAndRefreshes := by
  refine ⟨fun s p vec q hup => ?_, fun s p hup => ?_, fun s p i h => ?_, fun s p i hr ht => ?_, fun s p i hup hst ha => ?_⟩
  · refine completes_run (a := pfcFrameReceive p vec q) rfl ?_
    rw [run_pfcFrameReceive hup, run_modPort_self, (count_own _ _ _ _).port, (modPort_framed _ _).cntOf, run_count_self]
    exact ⟨fun i hi => ⟨foldl_pfcStop vec q i hi _ _,
      fun hc hv hq => foldl_pfcTill s p vec q i hv hq _ _ (.inl (by simpa using hc))⟩, rfl, rfl⟩
  · refine completes_run (a := pauseFrameReceive p) rfl ?_
    simp only [pauseFrameReceive, run_look, hup, run_when_true, run_acts_cons, run_acts_nil]
    rw [run_modPort_self, (count_own _ _ _ _).port, (modPort_framed _ _).cntOf, run_count_self]
    exact ⟨rfl, rfl⟩
  · refine completes_run (a := pfcPauseExpire p i) rfl fun k hk => ?_
    have hdue : (!s.time.running || decide (tabGet (s.port p).pauseTill 0 i ≤ s.runNs)) = true := by simpa using h
    rw [pfcPauseExpire, run_look, run_when_eq_true hdue, run_modPort_self]
    exact prioBit_clear _ _ _ hk
  · refine completes_run (a := pfcPauseExpire p i) rfl ?_
    have hearly : (!s.time.running || decide (tabGet (s.port p).pauseTill 0 i ≤ s.runNs)) = false := by simp [hr, ht]
    rw [pfcPauseExpire, run_look, run_when_eq_false hearly]
  · refine completes_run (a := pfcRefresh p i) rfl ?_
    simp only [pfcRefresh, run_look, hup, hst, ha, Bool.and_self, run_when_true, run_acts_cons, run_acts_nil]
    rw [run_modPort_self, (modPort_framed _ _).out, (modPort_framed _ _).cntOf, (count_own _ _ _ _).out, (count_own _ _ _ _).port,
      run_count_self, (emit_own _).port, (emit_own _).cntOf]
    exact ⟨rfl, rfl, rfl, tabGet_tabPut_self _ _ _ _⟩

end Sys2Proof.Machine
end

section
/-!
PROOF. Link states below UP (R43, R44, R57): what entering one leaves, the hold window and its flush (R59, R195), and the entry to UP (R58).
-/
set_option Elab.async false
namespace Sys2Proof.Machine

/-! ### Actions that write no register -/

section

variable {P : List Part} {a : Act}

theorem Act.Framed.keepFld (h : a.Framed P []) (f : Fld) (n : Nat) (s : State) : (Machine.run a s).fld f n = s.fld f n := h.fld f n s rfl

theorem Act.Framed.keepRawFld (h : a.Framed P []) (f : Fld) (n : Nat) (s : State) : (Machine.run a s).rawFld f n = s.rawFld f n :=
  h.rawFld f n s rfl

theorem Act.Framed.keepBit (h : a.Framed P []) (f : Fld) (n : Nat) (s : State) : (Machine.run a s).bit f n = s.bit f n := h.bit f n s rfl

end

/-! ### Entering a link state -/

/-- Entering a link state, after LINK itself. -/
def enterTail (s : State) (p l : Nat) : Act :=
  acts [when (l == linkAn) (sendPages p),
    when (l == linkTrain) (each (s.lanesOf p) fun i => modLane i fun x => { x with eq := s.warmStart i }),
    when (l == linkAlign) (acts [modPort p fun P => { P with alignAt := s.time.words },
      when (decide (2 ≤ s.media p)) (each (s.lanesOf p) fun i => modLane i fun x => { x with eq := s.hostSettings p i })])]

theorem run_enterLink (p l : Nat) (s : State) : run (enterLink p l) s = run (enterTail s p l) (run (setF F.PORT_STATE_LINK p l) s) := rfl

theorem enterTail_framed (s : State) (p l : Nat) : (enterTail s p l).Framed [.lanes, .out, .ports] [] :=
  .acts ⟨.when (sendPages_framed _).widen, .when (.each fun _ _ => (modLane_framed _ _).widen),
    .when (.acts ⟨(modPort_framed _ _).widen, .when (.each fun _ _ => (modLane_framed _ _).widen), trivial⟩), trivial⟩

theorem enterLink_link (p : Nat) {l : Nat} (hl : l < 8) (s : State) : (run (enterLink p l) s).link p = l := by
  rw [run_enterLink, State.link, (enterTail_framed _ _ _).keepFld, setF_fld _ _ _ _ (by decide)]
  exact Nat.mod_eq_of_lt hl

theorem enterLink_rawFld (p l : Nat) (f : Fld) (n : Nat) (s : State) (hf : f.held = true) (h : Fld.apart F.PORT_STATE_LINK f = true) :
    (run (enterLink p l) s).rawFld f n = s.rawFld f n := by
  rw [run_enterLink, (enterTail_framed _ _ _).keepRawFld, setF_rawFld_apart _ _ _ _ _ _ hf h]

theorem restartPoint_lt (s : State) (p : Nat) : s.restartPoint p < 8 := by
  unfold State.restartPoint
  dsimp only
  split_ifs <;> decide

theorem goRestart_link (p : Nat) (s : State) : (run (goRestart p) s).link p = s.restartPoint p :=
  enterLink_link p (restartPoint_lt s p) _

/-- In TRAIN every lane of the port has its warm start. -/
theorem enterLink_train_eq (p : Nat) (s : State) {l : Nat} (hl : l ∈ s.lanesOf p) : ((run (enterLink p linkTrain) s).lane l).eq = s.warmStart l :=
  each_all (p := fun i t => (t.lane i).eq = s.warmStart i) (f := fun i => modLane i fun x => { x with eq := s.warmStart i })
    (fun i t => by rw [run_modLane_self])
    (fun i j t h => by
      rw [run_modLane]
      split_ifs with hj
      · rw [hj]
      · exact h) (s.lanesOf p) _ l hl

/-- In NEGOTIATE the port sends its pages. -/
theorem run_enterLink_an (p : Nat) (s : State) : run (enterLink p linkAn) s = run (sendPages p) (run (setF F.PORT_STATE_LINK p linkAn) s) := rfl

/-! ### Pages -/

/-- What a port that sends its pages sends, by the state it sends them in. -/
def State.pagesOf (s : State) (p : Nat) : List Out :=
  if s.laneTx p = 2 then [.anPages p (s.ability p).1 (s.ability p).2.1 (s.ability p).2.2 true
    (Config.anNextPages (s.ability p).1 (s.ability p).2.1 (s.ability p).2.2)] else []

theorem sendPages_out {s : State} {p : Nat} (hl : s.link p = linkAn) (hw : (s.port p).anWait = false) :
    (run (sendPages p) s).out = s.pagesOf p ++ s.out := by
  by_cases ht : s.laneTx p = 2 <;> simp [sendPages, State.pagesOf, hl, hw, ht, emit, run_when]

/-- What decides about a port's pages. -/
theorem pagesOf_congr {s t : State} {p : Nat} (hclk : t.clk = s.clk) (hst : ∀ k, t.stall k = s.stall k)
    (hm : (t.port p).useMedia = (s.port p).useMedia) (hf : ∀ f n, f.reg ≠ .PORT_STATE → t.fld f n = s.fld f n) : t.pagesOf p = s.pagesOf p := by
  have htx : t.laneTx p = s.laneTx p := by rw [State.laneTx, hclk, hst, State.laneTx]
  have hmod : t.bit F.PORT_CFG_MODULE p = s.bit F.PORT_CFG_MODULE p := by rw [State.bit, hf _ _ (by decide), State.bit]
  have hwidth : t.width p = s.width p := by rw [State.width, hf _ _ (by decide), State.width]
  have hab : t.ability p = s.ability p := by
    rw [State.ability, State.media, hmod, hm, hwidth, hf _ _ (by decide), State.ability, State.media]
  rw [State.pagesOf, htx, hab, State.pagesOf]

/-! ### Negotiation -/

theorem run_negotiationComplete {s : State} {p : Nat} (hl : s.link p = linkAn) (hw : (s.port p).anWait = false) (hc : s.canAdvance p = true)
    (ab : List (Nat × Nat × Nat)) : run (negotiationComplete p ab) s =
      run (if ab.contains (s.ability p) then enterLink p (if (s.port p).useLt then linkTrain else linkAlign) else anFail p) s := by
  simp [negotiationComplete, hl, hw, hc]

theorem run_anFail {s : State} {p : Nat} (hl : s.link p = linkAn) (hw : (s.port p).anWait = false) :
    (run (anFail p) s).rawFld F.PORT_STATE_DOWN_CAUSE p = 9 ∧ (run (anFail p) s).link p = linkAn ∧
      (run (anFail p) s).port p = { s.port p with anWait := true, anAt := s.time.words, anFails := (s.port p).anFails + 1 } := by
  have h : run (anFail p) s = run (modPort p fun P => { P with anWait := true, anAt := s.time.words, anFails := P.anFails + 1 })
      (run (setF F.PORT_STATE_DOWN_CAUSE p 9) s) := by simp [anFail, hl, hw]
  refine ⟨?_, ?_, ?_⟩
  · rw [h, (modPort_framed _ _).keepRawFld, setF_rawFld _ _ _ _ (by decide)]
    rfl
  · rw [h, State.link, (modPort_framed _ _).keepFld, setF_fld_apart _ _ _ _ _ _ (by decide) (by decide)]
    exact hl
  · rw [h, run_modPort_self, (setF_own _ _ _).port]

theorem run_anPauseExpire {s : State} {p : Nat} (hl : s.link p = linkAn) (hw : (s.port p).anWait = true)
    (ha : s.aged (s.port p).anAt 100000000 = true) :
    (run (anPauseExpire p) s).port p = { s.port p with anWait := false } ∧ (run (anPauseExpire p) s).link p = linkAn ∧
      (run (anPauseExpire p) s).out = s.pagesOf p ++ s.out := by
  have h : run (anPauseExpire p) s = run (sendPages p) (run (setF F.PORT_STATE_LINK p linkAn)
      (run (modPort p fun P => { P with anWait := false }) s)) := by
    simp [anPauseExpire, hl, hw, ha, run_enterLink_an]
  have hport : (run (setF F.PORT_STATE_LINK p linkAn) (run (modPort p fun P => { P with anWait := false }) s)).port p =
      { s.port p with anWait := false } := by rw [(setF_own _ _ _).port, run_modPort_self]
  have hlink : (run (setF F.PORT_STATE_LINK p linkAn) (run (modPort p fun P => { P with anWait := false }) s)).link p = linkAn := by
    rw [State.link, setF_fld _ _ _ _ (by decide)]
    rfl
  refine ⟨?_, ?_, ?_⟩
  · rw [h, (sendPages_framed p).port, hport]
  · rw [h, State.link, (sendPages_framed p).keepFld]
    exact hlink
  · rw [h, sendPages_out hlink (by rw [hport]), (setF_own _ _ _).out, (modPort_framed _ _).out, pagesOf_congr]
    · rw [(setF_own _ _ _).clk, (modPort_framed _ _).clk]
    · exact fun k => by rw [(setF_own _ _ _).stall, (modPort_framed _ _).stall]
    · rw [hport]
    · exact fun f n hf => by
        rw [(setF_own _ _ _).fld f n _ (by rw [show F.PORT_STATE_LINK.reg = .PORT_STATE from rfl]; simpa using hf), (modPort_framed _ _).keepFld]

theorem anPauseExpire_idle {s : State} {p : Nat} (hw : (s.port p).anWait = false) : run (anPauseExpire p) s = s := by
  simp [anPauseExpire, hw]

/-! ### Training -/

/-- What the completion of training leaves in lane `i` of a port. -/
def trainedLane (p : Nat) (eq : List (List Byte)) (pc : Bool) (i : Nat) : Act :=
  acts [modLane (p + i) fun x => { x with eq := eq.getD i [] }, setB F.LANE_EQ_STATUS_ADAPTED (p + i) true,
    setB F.LANE_EQ_STATUS_PRECODE (p + i) pc, count 0x10 (p + i) 5 1]

theorem trainedLane_framed (p : Nat) (eq : List (List Byte)) (pc : Bool) (i : Nat) :
    (trainedLane p eq pc i).Framed [.lanes, .regs, .live, .cnt] [.LANE_EQ_STATUS] :=
  .acts ⟨(modLane_framed _ _).widen, (setB_own _ _ _).widen, (setB_own _ _ _).widen, (count_own _ _ _ _).widen, trivial⟩

/-- Lane `i` of a port is trained. -/
def State.trained (p : Nat) (eq : List (List Byte)) (pc : Bool) (i : Nat) (t : State) : Prop :=
  (t.lane (p + i)).eq = eq.getD i [] ∧ t.bit F.LANE_EQ_STATUS_ADAPTED (p + i) = true ∧ t.bit F.LANE_EQ_STATUS_PRECODE (p + i) = pc

theorem trainedLane_self (p : Nat) (eq : List (List Byte)) (pc : Bool) (i : Nat) (s : State) :
    State.trained p eq pc i (run (trainedLane p eq pc i) s) := by
  simp only [State.trained, trainedLane, run_acts_cons, run_acts_nil]
  refine ⟨?_, ?_, ?_⟩
  · rw [(count_own _ _ _ _).lane, (setB_own _ _ _).lane, (setB_own _ _ _).lane, run_modLane_self]
  · rw [(count_own _ _ _ _).keepBit, setB_bit_apart _ _ _ _ _ _ (by decide) (by decide), setB_bit _ _ _ _ (by decide) rfl]
  · rw [(count_own _ _ _ _).keepBit, setB_bit _ _ _ _ (by decide) rfl]

theorem setF_bit_place (f g : Fld) (n m v : Nat) (s : State) (hg : g.held = true) (h : n ≠ m) : (run (setF f n v) s).bit g m = s.bit g m := by
  rw [State.bit, (setF_other f g n m v s hg (.inr h)).1, State.bit]

theorem trainedLane_keep (p : Nat) (eq : List (List Byte)) (pc : Bool) (i j : Nat) (s : State) (h : State.trained p eq pc j s) :
    State.trained p eq pc j (run (trainedLane p eq pc i) s) := by
  by_cases hij : i = j
  · subst hij
    exact trainedLane_self p eq pc i s
  · have hne : p + i ≠ p + j := by omega
    have hbit : ∀ f : Fld, f.held = true → (run (trainedLane p eq pc i) s).bit f (p + j) = s.bit f (p + j) := by
      intro f hf
      simp only [trainedLane, run_acts_cons, run_acts_nil]
      rw [(count_own _ _ _ _).keepBit, setB, setF_bit_place _ _ _ _ _ _ hf hne, setB, setF_bit_place _ _ _ _ _ _ hf hne, (modLane_framed _ _).keepBit]
    refine ⟨?_, by rw [hbit _ (by decide), h.2.1], by rw [hbit _ (by decide), h.2.2]⟩
    simp only [trainedLane, run_acts_cons, run_acts_nil]
    rw [(count_own _ _ _ _).lane, (setB_own _ _ _).lane, (setB_own _ _ _).lane, run_modLane, if_neg (Ne.symm hne), h.1]

theorem run_each_map {α β : Type} (l : List α) (g : α → β) (f : β → Act) (s : State) : run (each (l.map g) f) s = run (each l fun x => f (g x)) s := by
  induction l generalizing s with
  | nil => rfl
  | cons x r ih => exact ih _

theorem lanesOf_zipIdx (s : State) (p : Nat) : (s.lanesOf p).zipIdx = (List.range (s.width p)).map fun i => (p + i, i) :=
  List.ext_getElem (by simp [State.lanesOf]) fun i _ _ => by simp [State.lanesOf]

theorem run_trainingComplete {s : State} {p : Nat} (hl : s.link p = linkTrain) (hc : s.canAdvance p = true) (eq : List (List Byte)) (pc : Bool) :
    run (trainingComplete p eq pc) s = run (each (List.range (s.width p)) (trainedLane p eq pc)) (run (enterLink p linkAlign) s) := by
  simp only [trainingComplete, run_look, hl, hc, beq_self_eq_true, Bool.and_self, run_when_true, run_acts_cons, run_acts_nil, lanesOf_zipIdx,
    run_each_map]
  rfl

/-! ### The hold window and the flush (R59, R195) -/

theorem releaseHdrm_hold (p k : Nat) (s : State) : (run (releaseHdrm p) s).hold k = s.hold k := (releaseHdrm_framed p).fld _ _ _

/-- The report of empty queues ends a flush. -/
theorem holdDone_hold {s : State} {p : Nat} (h : s.hold p = holdFlushing) :
    (run (holdDone p) s).hold p = if s.queuesEmpty p then holdNone else holdFlushing := by
  cases hq : s.queuesEmpty p with
  | false => simp [holdDone, hq, h]
  | true =>
    simp only [holdDone, run_look, h, hq, beq_self_eq_true, Bool.and_self, run_when_true, run_acts_cons, run_acts_nil, if_true]
    rw [releaseHdrm_hold, State.hold, setF_fld _ _ _ _ (by decide)]
    rfl

theorem flushBegin_hold (p : Nat) (s : State) :
    (run (flushBegin p) s).hold p = if s.queuesEmpty p then holdNone else holdFlushing := by
  simp only [flushBegin, run_acts_cons, run_acts_nil]
  rw [holdDone_hold, State.queuesEmpty, (flushPort_framed p).port, (setF_own _ _ _).port, State.queuesEmpty]
  rw [State.hold, (flushPort_framed p).keepFld, setF_fld _ _ _ _ (by decide)]
  rfl

/-- Fields that neither the hold state nor the release of a reservation touches. -/
theorem flushBegin_fld (p : Nat) (f : Fld) (n : Nat) (s : State) (hf : f.held = true) (h : Fld.apart F.PORT_STATE_HOLD f = true)
    (hr : [Reg.SWC_PORT_HDRM, .SWC_SHARED_FREE, .SWC_STATUS].contains f.reg = false) : (run (flushBegin p) s).fld f n = s.fld f n := by
  have hdone : ∀ u : State, (run (holdDone p) u).fld f n = u.fld f n := by
    intro u
    simp only [holdDone, run_look, run_when]
    split_ifs
    · simp only [run_acts_cons, run_acts_nil]
      rw [(releaseHdrm_framed p).fld f n _ hr, setF_fld_apart _ _ _ _ _ _ hf h]
    · rfl
  simp only [flushBegin, run_acts_cons, run_acts_nil]
  rw [hdone, (flushPort_framed p).keepFld, setF_fld_apart _ _ _ _ _ _ hf h]

/-! ### Calibration marks (R234, R235) -/

/-- Fields that the calibration marks do not touch. -/
theorem syncRecal_fld (p : Nat) (f : Fld) (n : Nat) (s : State) (hf : f.held = true) (h : Fld.apart F.PORT_STATE_RECAL f = true)
    (h' : Fld.apart F.TIME_PORT_CAL_STATUS_RECAL f = true) : (run (syncRecal p) s).fld f n = s.fld f n := by
  simp only [syncRecal, run_look, run_acts_cons, run_acts_nil]
  rw [setB_fld_apart _ _ _ _ _ _ hf h', setB_fld_apart _ _ _ _ _ _ hf h]

/-- A calibration starts on a port that is UP. -/
theorem run_calStart {s : State} {p : Nat} (hup : s.isUp p = true) (trig : Nat) : ∃ c : Nat, run (calStart p trig) s =
    run (syncRecal p) (run (modPort p fun P => { P with calDue := true, calRerun := false, calWait := 0 })
      (run (setF F.TIME_PORT_CAL_STATUS_CAL_STATE p c) (run (setF F.TIME_PORT_CAL_STATUS_LAST_TRIGGER p trig) s))) := by
  refine ⟨if (s.port p).calOk then calMeasure else calNominal, ?_⟩
  simp only [calStart, run_look, hup, run_when_true]
  rfl

theorem calStart_marks {s : State} {p : Nat} (hup : s.isUp p = true) {trig : Nat} (ht : trig < 16) :
    ((run (calStart p trig) s).port p).calDue = true ∧ (run (calStart p trig) s).fld F.TIME_PORT_CAL_STATUS_LAST_TRIGGER p = trig := by
  obtain ⟨c, h⟩ := run_calStart hup trig
  rw [h, (syncRecal_framed p).port, run_modPort_self, syncRecal_fld _ _ _ _ (by decide) (by decide) (by decide), (modPort_framed _ _).keepFld,
    setF_fld_apart _ _ _ _ _ _ (by decide) (by decide), setF_fld _ _ _ _ (by decide)]
  exact ⟨rfl, Nat.mod_eq_of_lt ht⟩

/-- A calibration leaves the fields of PORT_STATE but RECAL. -/
theorem calStart_fld (p trig : Nat) (f : Fld) (n : Nat) (s : State) (hf : f.held = true) (h : Fld.apart F.PORT_STATE_RECAL f = true)
    (hr : f.reg ≠ .TIME_PORT_CAL_STATUS) : (run (calStart p trig) s).fld f n = s.fld f n := by
  have hap : ∀ g : Fld, g.reg = .TIME_PORT_CAL_STATUS → g.apart f = true := fun g hg => by
    rw [Fld.apart, hg, bne_iff_ne.2 (Ne.symm hr), Bool.true_or]
  cases hup : s.isUp p with
  | false => simp [calStart, hup]
  | true =>
    obtain ⟨c, hc⟩ := run_calStart hup trig
    rw [hc, syncRecal_fld _ _ _ _ hf h (hap _ rfl), (modPort_framed _ _).keepFld, setF_fld_apart _ _ _ _ _ _ hf (hap _ rfl),
      setF_fld_apart _ _ _ _ _ _ hf (hap _ rfl)]

/-- The entry to UP up to trigger 1. -/
def calNominalHead (s : State) (p : Nat) : Act :=
  acts [each (s.lanesOf p) fun l => modLane l fun x => { x with rx := [], tx := [] },
    setF F.TIME_PORT_CAL_STATUS_CAL_STATE p calNominal, setB F.TIME_PORT_CAL_STATUS_DLY_VALID p false,
    modPort p fun P => { P with
      probed := false, probing := false, probeOut := false, dlyVals := [], dlyLast3 := [], pdRes := none, calOk := false },
    recClock p false]

theorem run_calEnterUp (p : Nat) (s : State) : run (calEnterUp p) s = run (calStart p 1) (run (calNominalHead s p) s) := rfl

theorem calNominalHead_framed (s : State) (p : Nat) :
    (calNominalHead s p).Framed [.lanes, .live, .ports, .regs, .time] [.TIME_DPLL_STATUS, .TIME_PORT_CAL_STATUS] :=
  .acts ⟨.each fun _ _ => (modLane_framed _ _).widen, (setF_own _ _ _).widen, (setB_own _ _ _).widen, (modPort_framed _ _).widen,
    (recClock_framed _ _).widen, trivial⟩

theorem calEnterUp_fld (p : Nat) (f : Fld) (n : Nat) (s : State) (hf : f.held = true) (h : Fld.apart F.PORT_STATE_RECAL f = true)
    (hr : [Reg.TIME_DPLL_STATUS, .TIME_PORT_CAL_STATUS].contains f.reg = false) : (run (calEnterUp p) s).fld f n = s.fld f n := by
  rw [run_calEnterUp, calStart_fld _ _ _ _ _ hf h (by rintro e; rw [e] at hr; exact absurd hr (by decide)),
    (calNominalHead_framed s p).fld f n _ hr]

theorem calEnterUp_marks {s : State} {p : Nat} (hup : s.isUp p = true) :
    ((run (calEnterUp p) s).port p).calDue = true ∧ (run (calEnterUp p) s).fld F.TIME_PORT_CAL_STATUS_LAST_TRIGGER p = 1 := by
  rw [run_calEnterUp]
  refine calStart_marks ?_ (by decide)
  rwa [State.isUp, State.link, (calNominalHead_framed s p).fld F.PORT_STATE_LINK]

/-! ### Entry to UP (R58) -/

/-- What an entry to UP does to the hold window. -/
def enterHold (s : State) (p : Nat) : Act :=
  when (s.hold p == holdHeld)
    (if s.time.running && s.elapsed (s.port p).holdAt (s.port p).holdNs then flushBegin p else setF F.PORT_STATE_HOLD p holdNone)

/-- The entry to UP before its calibration, and after it. -/
def upHead (s : State) (p : Nat) : List Act := [setF F.PORT_STATE_LINK p linkUp, occur p, modPort p fun P => { P with upAt := s.time.words }]
def upSize (s : State) (p : Nat) : List Act := [sizePort p (s.fld F.SWC_CFG2_HDRM_DMAX_NS 0 * 65536) true, pfcSync p]
def upTail (s : State) (p : Nat) : List Act :=
  [ptpState p 4, postWork p wtPortState 1 0,
    modPort p fun P => { P with lldpFast := 3, txAt := tabPut P.txAt 0 (txKey wtLldpTx 0) s.time.words },
    when (s.bit F.PE_LLDP_CFG_LLDP_TX_EN 0) (postWork p wtLldpTx 0 0)]

theorem run_acts_append (l l' : List Act) (s : State) : run (acts (l ++ l')) s = run (acts l') (run (acts l) s) := by
  induction l generalizing s with
  | nil => rfl
  | cons a r ih => exact ih _

theorem enterUp_eq (p : Nat) :
    enterUp p = .look fun s => acts (upHead s p ++ enterHold s p :: (upSize s p ++ calEnterUp p :: upTail s p)) := rfl

theorem run_enterUp (p : Nat) (s : State) : run (enterUp p) s =
    run (acts (upTail s p)) (run (calEnterUp p) (run (acts (upSize s p)) (run (enterHold s p) (run (acts (upHead s p)) s)))) := by
  rw [enterUp_eq, run_look, run_acts_append, run_acts_cons, run_acts_append, run_acts_cons]

theorem upSize_framed (s : State) (p : Nat) : (acts (upSize s p)).Framed (.cnt :: .ports :: occurParts) (.SWC_EVT_CAUSE :: .SWC_PORT_HDRM ::
    .SWC_PORT_STATE :: .SWC_SHARED_FREE :: .SWC_STATUS :: occurRegs) := .acts ⟨(sizePort_framed _ _ _).widen, (pfcSync_framed _).widen, trivial⟩

theorem upTail_framed (s : State) (p : Nat) : (acts (upTail s p)).Framed [.live, .ports, .regs] [.TIME_PORT_PTP_STATUS] :=
  .acts ⟨(ptpState_framed _ _).widen, (postWork_framed _ _ _ _).widen, (modPort_framed _ _).widen, .when (postWork_framed _ _ _ _).widen, trivial⟩

/-- Whether a calibration of port `p` is due. -/
def State.calDue (p : Nat) (s : State) : Bool := (s.port p).calDue

theorem modPort_keeps_calDue (k p : Nat) {f : PortS → PortS} (h : ∀ P, (f P).calDue = P.calDue) : (modPort k f).keeps (State.calDue p) := fun s => by
  rw [State.calDue, run_modPort]
  split_ifs with hk
  · rw [hk, h, State.calDue]
  · rfl

theorem postWork_keeps_calDue (k ty idx flags p : Nat) : (postWork k ty idx flags).keeps (State.calDue p) :=
  modPort_keeps_calDue k p fun P => by split_ifs <;> rfl

theorem upTail_keeps_calDue (s : State) (p : Nat) : (acts (upTail s p)).keeps (State.calDue p) :=
  Act.keeps.acts ⟨fun s => congrArg PortS.calDue ((ptpState_framed _ _).port s p), postWork_keeps_calDue _ _ _ _ _,
    modPort_keeps_calDue _ _ fun _ => rfl, keeps_when (postWork_keeps_calDue _ _ _ _ _), trivial⟩

theorem upHead_link (s : State) (p : Nat) : (run (acts (upHead s p)) s).link p = linkUp := by
  simp only [upHead, run_acts_cons, run_acts_nil, State.link]
  rw [(modPort_framed _ _).keepFld, (occur_own _).fld F.PORT_STATE_LINK, setF_fld _ _ _ _ (by decide)]
  rfl

theorem upHead_hold (s : State) (p : Nat) : (run (acts (upHead s p)) s).hold p = s.hold p := by
  simp only [upHead, run_acts_cons, run_acts_nil, State.hold]
  rw [(modPort_framed _ _).keepFld, (occur_own _).fld F.PORT_STATE_HOLD, setF_fld_apart _ _ _ _ _ _ (by decide) (by decide)]

theorem upHead_queuesEmpty (s : State) (p : Nat) : (run (acts (upHead s p)) s).queuesEmpty p = s.queuesEmpty p := by
  simp only [upHead, run_acts_cons, run_acts_nil, State.queuesEmpty]
  rw [run_modPort_self, (occur_own _).port, (setF_own _ _ _).port]

theorem enterHold_link (s : State) (p : Nat) (t : State) : (run (enterHold s p) t).link p = t.link p := by
  rw [enterHold, run_when]
  split_ifs
  · exact flushBegin_fld p _ _ _ (by decide) (by decide) (by decide)
  · exact setF_fld_apart _ _ _ _ _ _ (by decide) (by decide)
  · rfl

/-- The hold state of a port that enters UP with its hold window as it stands in `s`. -/
def State.holdOnUp (s : State) (p : Nat) : Nat :=
  if s.hold p = holdHeld then
    (if s.time.running && s.elapsed (s.port p).holdAt (s.port p).holdNs && !s.queuesEmpty p then holdFlushing else holdNone)
  else s.hold p

theorem enterHold_hold {s t : State} {p : Nat} (hh : t.hold p = s.hold p) (hq : t.queuesEmpty p = s.queuesEmpty p) :
    (run (enterHold s p) t).hold p = s.holdOnUp p := by
  unfold enterHold State.holdOnUp
  by_cases h : s.hold p = holdHeld
  · rw [run_when_eq_true (beq_iff_eq.2 h), if_pos h]
    cases hx : s.time.running && s.elapsed (s.port p).holdAt (s.port p).holdNs with
    | true =>
      rw [if_pos rfl, flushBegin_hold, hq]
      cases s.queuesEmpty p <;> rfl
    | false =>
      rw [if_neg (by simp), State.hold, setF_fld _ _ _ _ (by decide)]
      rfl
  · rw [run_when_eq_false (beq_eq_false_iff_ne.2 h), if_neg h, hh]

/-- Fields that neither the sizes nor the calibration of an entry to UP nor what follows touch. -/
theorem upRest_fld (s : State) (p : Nat) (f : Fld) (n : Nat) (t : State) (hf : f.held = true) (h : Fld.apart F.PORT_STATE_RECAL f = true)
    (hr : f.reg = .PORT_STATE) : (run (acts (upTail s p)) (run (calEnterUp p) (run (acts (upSize s p)) t))).fld f n = t.fld f n := by
  rw [(upTail_framed s p).fld f n _ (by rw [hr]; decide), calEnterUp_fld _ _ _ _ hf h (by rw [hr]; decide),
    (upSize_framed s p).fld f n _ (by rw [hr]; decide)]

theorem enterUp_spec (p : Nat) (s : State) : (run (enterUp p) s).link p = linkUp ∧ ((run (enterUp p) s).port p).calDue = true ∧
    (run (enterUp p) s).fld F.TIME_PORT_CAL_STATUS_LAST_TRIGGER p = 1 ∧ (run (enterUp p) s).hold p = s.holdOnUp p := by
  have hlink : (run (enterHold s p) (run (acts (upHead s p)) s)).link p = linkUp := by rw [enterHold_link, upHead_link]
  have hup : (run (acts (upSize s p)) (run (enterHold s p) (run (acts (upHead s p)) s))).isUp p = true := by
    rw [State.isUp, State.link, (upSize_framed s p).fld F.PORT_STATE_LINK]
    exact beq_iff_eq.2 hlink
  obtain ⟨hdue, htrig⟩ := calEnterUp_marks hup
  rw [run_enterUp]
  refine ⟨?_, ?_, ?_, ?_⟩
  · rw [State.link, upRest_fld _ _ _ _ _ (by decide) (by decide) rfl]
    exact hlink
  · exact (upTail_keeps_calDue s p _).trans hdue
  · rw [(upTail_framed s p).fld F.TIME_PORT_CAL_STATUS_LAST_TRIGGER, htrig]
  · rw [State.hold, upRest_fld _ _ _ _ _ (by decide) (by decide) rfl]
    exact enterHold_hold (upHead_hold s p) (upHead_queuesEmpty s p)

theorem each_adapted_framed (l : List Nat) : (each l fun i => setB F.LANE_EQ_STATUS_ADAPTED i true).Framed [.regs, .live] [.LANE_EQ_STATUS] :=
  .each fun _ _ => (setB_own _ _ _).widen

/-- What decides about the hold state of a port that enters UP. -/
theorem holdOnUp_of_framed {P : List Part} {R : List Reg} {a : Act} (h : a.Framed P R) (s : State) (p : Nat)
    (hP : P.contains .ports = false := by decide) (hT : P.contains .time = false := by decide) (hR : R.contains .PORT_STATE = false := by decide) :
    (run a s).holdOnUp p = s.holdOnUp p := by
  have ht := h.time s hT
  have hx : (run a s).elapsed (s.port p).holdAt (s.port p).holdNs = s.elapsed (s.port p).holdAt (s.port p).holdNs := by
    rw [State.elapsed, State.runNs, ht, State.elapsed, State.runNs]
  rw [State.holdOnUp, State.hold, h.fld _ _ _ hR, ht, State.queuesEmpty, h.port s p hP, hx, State.holdOnUp, State.hold, State.queuesEmpty]

theorem run_alignmentQualified {s : State} {p : Nat} (hl : s.link p = linkAlign) (hc : s.canAdvance p = true)
    (ha : s.aged (s.port p).alignAt (s.fld F.PORT_CFG_LINKUP_QUAL p * 100000) = true) : run (alignmentQualified p) s =
      run (enterUp p) (run (each (s.lanesOf p) fun i => setB F.LANE_EQ_STATUS_ADAPTED i true) s) := by
  simp [alignmentQualified, hl, hc, ha]

/-! ### The obligation -/

/-- Settles O22: each command enters a link state, or records a failure; the entry to UP ends the hold window. -/
theorem portNegotiatesTrainsAndAligns : Obligations.PortNegotiatesTrainsAndAligns := by
  refine ⟨fun s p ab fec np hl hw hc hab => ?_, fun s p ab fec np hl hw hc hab => ?_, fun s p hl hw => ?_, fun s p hl hw ha => ?_,
    fun s p hw => ?_, fun s p eq pc hl hc => ?_, fun s p hl => ?_, fun s p hl ha => ?_, fun s p hl hc ha => ?_⟩
  · refine completes_run (a := negotiationComplete p ab) rfl ?_
    rw [run_negotiationComplete hl hw hc, if_pos hab]
    refine ⟨enterLink_link _ (by split_ifs <;> decide) _, fun hlt l hmem => ?_⟩
    rw [if_pos hlt, enterLink_train_eq _ _ hmem]
  · refine completes_run (a := negotiationComplete p ab) rfl ?_
    rw [run_negotiationComplete hl hw hc, if_neg (by rw [hab]; decide)]
    obtain ⟨hcause, hlink, hport⟩ := run_anFail hl hw
    exact ⟨hlink, hcause, by rw [hport]⟩
  · exact completes_run (a := anFail p) rfl (run_anFail hl hw)
  · exact completes_run (a := anPauseExpire p) rfl (run_anPauseExpire hl hw ha)
  · exact completes_run (a := anPauseExpire p) rfl (anPauseExpire_idle hw)
  · refine completes_run (a := trainingComplete p eq pc) rfl ?_
    rw [run_trainingComplete hl hc]
    refine ⟨?_, fun i hi => each_all (trainedLane_self p eq pc) (trainedLane_keep p eq pc) _ _ i (List.mem_range.2 hi)⟩
    have hframed : (each (List.range (s.width p)) (trainedLane p eq pc)).Framed [.lanes, .regs, .live, .cnt] [.LANE_EQ_STATUS] :=
      .each fun _ _ => trainedLane_framed _ _ _ _
    rw [State.link, hframed.fld F.PORT_STATE_LINK]
    exact enterLink_link _ (by decide) _
  · refine completes_run (a := trainingTimeboxExpire p) rfl ?_
    simp only [trainingTimeboxExpire, run_look, hl, beq_self_eq_true, run_when_true, run_acts_cons, run_acts_nil]
    refine ⟨?_, enterLink_link _ (by split_ifs <;> decide) _⟩
    rw [enterLink_rawFld _ _ _ _ _ (by decide) (by decide), (modPort_framed _ _).keepRawFld, setF_rawFld _ _ _ _ (by decide)]
    rfl
  · refine completes_run (a := alignTimeout p) rfl ?_
    simp only [alignTimeout, run_look, hl, ha, beq_self_eq_true, Bool.and_self, run_when_true]
    exact goRestart_link _ _
  · refine completes_run (a := alignmentQualified p) rfl ?_
    rw [run_alignmentQualified hl hc ha]
    obtain ⟨hlink, hdue, htrig, hhold⟩ := enterUp_spec p (run (each (s.lanesOf p) fun i => setB F.LANE_EQ_STATUS_ADAPTED i true) s)
    exact ⟨hlink, hdue, htrig, hhold.trans (holdOnUp_of_framed (each_adapted_framed _) s p)⟩

end Sys2Proof.Machine
end

section
/-!
PROOF. Module sites (R52 to R55): the device's own accesses wait or run, a failing site keeps its retry mark, and a scan of the chain
reaches every site by itself.
-/
set_option Elab.async false
namespace Sys2Proof.Machine

/-! ### Accesses of the device's own (R53, R56) -/

/-- The action loses no write of the device's own. -/
def Act.keepsAsks (a : Act) : Prop := ∀ (s : State) (st page off : Nat) (b : List Byte), s.asksOwn st page off b → (run a s).asksOwn st page off b

theorem mem_mapFirst {α : Type} {p : α → Bool} {f : α → α} {x : α} {l : List α} (h : x ∈ l) : x ∈ mapFirst p f l ∨ f x ∈ mapFirst p f l := by
  induction l with
  | nil => cases h
  | cons y r ih =>
    rw [mapFirst]
    rcases List.mem_cons.1 h with rfl | hr
    · split_ifs
      · exact .inr (List.mem_cons_self ..)
      · exact .inl (List.mem_cons_self ..)
    · split_ifs
      · exact .inl (List.mem_cons_of_mem _ hr)
      · exact (ih hr).imp (List.mem_cons_of_mem _) (List.mem_cons_of_mem _)

theorem Act.Framed.keepsAsks {P : List Part} {R : List Reg} {a : Act} (h : a.Framed P R) (hP : P.contains .evt = false := by decide) :
    a.keepsAsks := fun s _ _ _ _ => by
  rw [State.asksOwn, State.asksOwn, h.evt s hP]
  exact id

theorem keepsAsks_modEvt {f : EvtS → EvtS} (h : ∀ (e : EvtS) (x : I2cTxn), x ∈ e.i2cQ → x ∈ (f e).i2cQ ∨ { x with onBus := true } ∈ (f e).i2cQ) :
    (modEvt f).keepsAsks := fun s _ _ _ _ ⟨x, hx, hask⟩ => (h s.evt x hx).elim (⟨x, ·, hask⟩) (⟨_, ·, hask⟩)

theorem i2cTake_keepsAsks (k n : Nat) : (i2cTake k n).keepsAsks := by
  intro s st page off b h
  rw [i2cTake, run_look, run_acts_cons, run_acts_cons, run_acts_nil]
  have hmod := keepsAsks_modEvt (f := fun e => { e with
      i2cQ := mapFirst (fun x : I2cTxn => x.mbx == n && x.site / 8 == k) (fun x => { x with onBus := true }) e.i2cQ
      i2cLast := if n = 20 then e.i2cLast else tabPut e.i2cLast 19 k n
      i2cOwn := if n = 20 then addSet e.i2cOwn k else e.i2cOwn.filter (· != k) })
    (fun _ _ => mem_mapFirst) s st page off b h
  split
  · exact hmod
  · exact Act.Framed.keepsAsks (emit_own _) (hP := by decide) _ _ _ _ _ hmod

theorem i2cStart_keepsAsks (k : Nat) : (i2cStart k).keepsAsks := by
  intro s st page off b h
  rw [i2cStart, run_look, run_when]
  split
  · dsimp only
    split
    · rw [run_when]
      split
      · exact i2cTake_keepsAsks _ _ _ _ _ _ _ h
      · exact h
    · exact i2cTake_keepsAsks _ _ _ _ _ _ _ h
  · exact h

theorem ownAccess_keepsAsks (x : I2cTxn) : (ownAccess x).keepsAsks := fun s st page off b h =>
  i2cStart_keepsAsks _ _ _ _ _ _ (keepsAsks_modEvt (fun _ _ hy => .inl (List.mem_append_left _ hy)) s st page off b h)

/-- An own write stands in the queue once it is asked for. -/
theorem ownWrite_asks (s : State) (st page off : Nat) (b : List Byte) : (run (ownWrite st page off b) s).asksOwn st page off b :=
  i2cStart_keepsAsks _ _ _ _ _ _ ⟨_, List.mem_append_right _ (List.mem_singleton.2 rfl), rfl, rfl, rfl, rfl, rfl, rfl⟩

theorem Act.keepsAsks.each {α : Type} {f : α → Act} (h : ∀ x, (f x).keepsAsks) (l : List α) : (Machine.each l f).keepsAsks := by
  induction l with
  | nil => exact fun _ _ _ _ _ => id
  | cons x r ih => exact fun s st page off b hs => ih _ _ _ _ _ (h x _ _ _ _ _ hs)

/-! ### A stall, but for its distribution, outlives the loss of its ports -/

section
variable {α : Type} {g : StallS → α}

theorem keeps_stall_framed {P : List Part} {R : List Reg} {a : Act} (h : a.Framed P R) (st : Nat) (hP : P.contains .stalls = false := by decide) :
    a.keeps fun s => g (s.stall st) := fun s => congrArg g (h.stall s st hP)

theorem keeps_stall_modStall {f : StallS → StallS} (k st : Nat) (h : k = st → ∀ x, g (f x) = g x) : (modStall k f).keeps fun s => g (s.stall st) := by
  intro s
  dsimp only
  rw [run_modStall]
  split_ifs with hk
  · rw [hk, h hk.symm]
  · rfl

variable (hg : ∀ x b, g { x with distBad := b } = g x)
include hg

theorem distSettle_keeps_stall (k st : Nat) : (distSettle k).keeps fun s => g (s.stall st) :=
  keeps_look fun _ => keeps_when (Act.keeps.acts ⟨keeps_stall_modStall _ _ fun _ x => hg x _, keeps_stall_framed (each_syncRecal_framed _) _, trivial⟩)

theorem calLeaveUp_keeps_stall (p st : Nat) : (calLeaveUp p).keeps fun s => g (s.stall st) :=
  keeps_look fun _ => Act.keeps.acts ⟨keeps_stall_framed (modPort_framed _ _) _, keeps_stall_framed (recClock_framed _ _) _,
    keeps_when (keeps_stall_framed (setF_own _ _ _) _), keeps_each fun _ _ => keeps_stall_framed (setB_own _ _ _) _,
    keeps_stall_framed (syncRecal_framed _) _, distSettle_keeps_stall hg _ _, trivial⟩

theorem leaveUp_keeps_stall (p cause : Nat) (adm : Bool) (st : Nat) : (leaveUp p cause adm).keeps fun s => g (s.stall st) :=
  keeps_look fun _ => Act.keeps.acts ⟨keeps_stall_framed (setF_own _ _ _) _, keeps_stall_framed (setF_own _ _ _) _,
    keeps_stall_framed (setF_own _ _ _) _, keeps_stall_framed (addSat_own _ _ _) _, keeps_stall_framed (occur_own _) _,
    keeps_each fun _ _ => keeps_stall_framed (retuneCut_framed _) _, calLeaveUp_keeps_stall hg _ _, keeps_stall_framed (pfcSync_framed _) _,
    keeps_stall_framed (ptpState_framed _ _) _, keeps_stall_framed (postWork_framed _ _ _ _) _,
    keeps_when (keeps_ite (keeps_stall_framed (flushBegin_framed _) _)
      (Act.keeps.acts ⟨keeps_stall_framed (modPort_framed _ _) _, keeps_stall_framed (setF_own _ _ _) _, trivial⟩)), trivial⟩

theorem modulePortsDown_keeps_stall (k cause st : Nat) : (modulePortsDown k cause).keeps fun s => g (s.stall st) :=
  keeps_look fun _ => keeps_each fun _ _ => Act.keeps.acts ⟨keeps_look fun _ => Act.keeps.acts
    ⟨keeps_when (leaveUp_keeps_stall hg _ _ _ _), keeps_stall_framed (goRestart_framed _) _, trivial⟩, keeps_stall_framed (setF_own _ _ _) _, trivial⟩

end

/-! ### A site fails or starts again (R54) -/

theorem siteFail_spec (s : State) (st : Nat) (retry : Bool) : (run (siteFail st retry) s).site st = siteFaulted ∧
    ((run (siteFail st retry) s).stall st).retryOn = (retry && decide ((s.stall st).retries < 3)) := by
  rw [siteFail, run_look, run_acts_cons, run_acts_cons, run_acts_cons, run_acts_cons, run_acts_nil]
  constructor
  · rw [State.site, (modulePortsDown_framed _ _).fld F.STALL_STATUS_SITE_STATE, (modStall_framed _ _).fld F.STALL_STATUS_SITE_STATE,
      raise_fld_apart _ _ _ _ _ (by decide) (by decide) (by decide), setF_fld _ _ _ _ (by decide)]
    rfl
  · exact (modulePortsDown_keeps_stall (g := StallS.retryOn) (fun _ _ => rfl) st 7 st _).trans (by dsimp only; rw [run_modStall_self])

theorem siteStart_spec (s : State) (st : Nat) : (run (siteStart st) s).site st = siteReset ∧
    (run (siteStart st) s).stall st = { s.stall st with resetl := false, lpmode := true, rstScans := 0, retryOn := false } := by
  rw [siteStart, run_acts_cons, run_acts_cons, run_acts_nil]
  constructor
  · rw [State.site, (modStall_framed _ _).keepFld, setF_fld _ _ _ _ (by decide)]
    rfl
  · rw [run_modStall_self, (setF_own _ _ _).stall]

/-! ### One site in a scan (R47, R52, R55) -/

/-- The fields of STALL_STATUS that tell of the site of a stall. -/
def siteFlds : List Fld :=
  [F.STALL_STATUS_SITE_STATE, F.STALL_STATUS_SITE_PRESENT, F.STALL_STATUS_SITE_INT, F.STALL_STATUS_RSV_IN0, F.STALL_STATUS_RSV_IN1]

/-- What a scan of the chain goes by at a site, and what it shows there. -/
def State.siteView (st : Nat) (s : State) : List Nat × Nat := (siteFlds.map (s.fld · st), (s.stall st).lowScans)

theorem siteFlds_held : ∀ f ∈ siteFlds, f.held = true := by decide

theorem siteView_eq {s t : State} {st : Nat} (h : t.siteView st = s.siteView st) :
    (∀ f ∈ siteFlds, t.fld f st = s.fld f st) ∧ (t.stall st).lowScans = (s.stall st).lowScans :=
  ⟨List.map_inj_left.1 (congrArg Prod.fst h), congrArg Prod.snd h⟩

theorem keeps_siteView {a : Act} {st : Nat} (hf : ∀ f ∈ siteFlds, a.keeps fun s => s.fld f st) (hl : a.keeps fun s => (s.stall st).lowScans) :
    a.keeps (State.siteView st) := fun s => Prod.ext (List.map_congr_left fun f h => hf f h s) (hl s)

theorem keeps_siteFld_framed {P : List Part} {R : List Reg} {a : Act} (h : a.Framed P R) (st : Nat) (hR : R.contains .STALL_STATUS = false := by decide) :
    ∀ f ∈ siteFlds, a.keeps fun s => s.fld f st := fun f hf s =>
  h.fld f st s (by rwa [(by decide : ∀ f ∈ siteFlds, f.reg = .STALL_STATUS) f hf])

theorem keeps_siteView_framed {P : List Part} {R : List Reg} {a : Act} (h : a.Framed P R) (st : Nat)
    (hR : R.contains .STALL_STATUS = false := by decide) (hP : P.contains .stalls = false := by decide) : a.keeps (State.siteView st) :=
  keeps_siteView (keeps_siteFld_framed h st hR) (keeps_stall_framed h st hP)

theorem keeps_siteView_setF {k st : Nat} (f : Fld) (v : Nat) (h : k ≠ st) : (setF f k v).keeps (State.siteView st) :=
  keeps_siteView (fun g hg s => (setF_other f g k st v s (siteFlds_held g hg) (.inr h)).1) (keeps_stall_framed (setF_own _ _ _) st)

theorem keeps_siteView_modStall {f : StallS → StallS} (k st : Nat) (h : k = st → ∀ x, (f x).lowScans = x.lowScans) :
    (modStall k f).keeps (State.siteView st) :=
  keeps_siteView (keeps_siteFld_framed (modStall_framed _ _) st) (keeps_stall_modStall k st h)

theorem modulePortsDown_keeps_siteView (k cause st : Nat) : (modulePortsDown k cause).keeps (State.siteView st) :=
  keeps_siteView (keeps_siteFld_framed (modulePortsDown_framed _ _) st) (modulePortsDown_keeps_stall (fun _ _ => rfl) k cause st)

theorem readFlags_keeps_siteView (k : Nat) (flags : List Byte) (st : Nat) : (readFlags k flags).keeps (State.siteView st) :=
  keeps_look fun _ => keeps_when (Act.keeps.acts ⟨keeps_siteView_framed (ownRead_framed _ _ _ _) st, keeps_siteView_framed (ownRead_framed _ _ _ _) st,
    keeps_siteView_modStall k st fun _ _ => rfl, trivial⟩)

/-- What a scan does where a site comes or goes. -/
def siteTurn (s : State) (st : Nat) (prsl : Bool) : Act :=
  if prsl then
    when (s.bit F.STALL_STATUS_SITE_PRESENT st) (acts [setB F.STALL_STATUS_SITE_PRESENT st false,
      setF F.STALL_STATUS_SITE_STATE st siteEmpty,
      modStall st fun x => { x with resetl := false, lpmode := true, retries := 0, retryOn := false, apps := [], module := [], hostEq := [], cmis := [] },
      modEvt fun e => { e with i2cQ := e.i2cQ.filter fun x => x.onBus || !(x.isOwn && x.site == st) },
      raise F.STALL_EVT_CAUSE_SITE_OUT st, modulePortsDown st 6])
  else
    when ((if prsl then 0 else min ((s.stall st).lowScans + 1) 3) == 3 && !s.bit F.STALL_STATUS_SITE_PRESENT st)
      (acts [setB F.STALL_STATUS_SITE_PRESENT st true, modStall st fun x => { x with retries := 0 }, siteStart st,
        raise F.STALL_EVT_CAUSE_SITE_IN st])

/-- What a scan records of a site first. -/
def siteMarks (s : State) (st : Nat) (prsl intl r0 r1 : Bool) : List Act :=
  [modStall st fun x => { x with lowScans := if prsl then 0 else min ((s.stall st).lowScans + 1) 3, rstScans := x.rstScans + 1 },
    setB F.STALL_STATUS_RSV_IN0 st r0, setB F.STALL_STATUS_RSV_IN1 st r1, setB F.STALL_STATUS_SITE_INT st (!intl)]

theorem siteScan_eq (st : Nat) (prsl intl r0 r1 : Bool) :
    siteScan st prsl intl r0 r1 = .look fun s => acts (siteMarks s st prsl intl r0 r1 ++ [siteTurn s st prsl]) := rfl

theorem run_siteScan (st : Nat) (prsl intl r0 r1 : Bool) (s : State) :
    run (siteScan st prsl intl r0 r1) s = run (siteTurn s st prsl) (run (acts (siteMarks s st prsl intl r0 r1)) s) := by
  rw [siteScan_eq, run_look, run_acts_append, run_acts_cons, run_acts_nil]

theorem siteScan_keeps_siteView {k st : Nat} (h : k ≠ st) (prsl intl r0 r1 : Bool) : (siteScan k prsl intl r0 r1).keeps (State.siteView st) := by
  have hstall : ∀ f, (modStall k f).keeps (State.siteView st) := fun f => keeps_siteView_modStall k st fun e => absurd e h
  rw [siteScan_eq]
  refine keeps_look fun s => Act.keeps.acts ⟨hstall _, keeps_siteView_setF _ _ h, keeps_siteView_setF _ _ h, keeps_siteView_setF _ _ h, ?_, trivial⟩
  exact keeps_ite
    (keeps_when (Act.keeps.acts ⟨keeps_siteView_setF _ _ h, keeps_siteView_setF _ _ h, hstall _, keeps_siteView_framed (modEvt_own _) st,
      keeps_siteView_framed (raise_own _ _) st, modulePortsDown_keeps_siteView _ _ _, trivial⟩))
    (keeps_when (Act.keeps.acts ⟨keeps_siteView_setF _ _ h, hstall _, Act.keeps.acts ⟨keeps_siteView_setF _ _ h, hstall _, trivial⟩,
      keeps_siteView_framed (raise_own _ _) st, trivial⟩))

/-- Where a site comes or goes, the fields but its state and its presence stay. -/
theorem siteTurn_fld (u : State) (st : Nat) (prsl : Bool) (f : Fld) (s : State) (hf : f.held = true) (hreg : f.reg = .STALL_STATUS)
    (hp : F.STALL_STATUS_SITE_PRESENT.apart f = true) (hs : F.STALL_STATUS_SITE_STATE.apart f = true) :
    (run (siteTurn u st prsl) s).fld f st = s.fld f st := by
  have hstall : ∀ g, (modStall st g).keeps fun s => s.fld f st := fun g s => (modStall_framed st g).keepFld f st s
  have hraise : ∀ g : Fld, g.reg = .STALL_EVT_CAUSE → (raise g st).keeps fun s => s.fld f st := fun g hg s =>
    raise_fld_apart g f st st s hf (by rw [Fld.apart, hg, hreg]; rfl) (by rw [hreg]; decide)
  have hdown : (modulePortsDown st 6).keeps fun s => s.fld f st := fun s => (modulePortsDown_framed st 6).fld f st s (by rw [hreg]; decide)
  have hstart : (siteStart st).keeps fun s => s.fld f st :=
    Act.keeps.acts ⟨fun s => setF_fld_apart _ _ _ _ _ _ hf hs, hstall _, trivial⟩
  have key : (siteTurn u st prsl).keeps fun s => s.fld f st := keeps_ite
    (keeps_when (Act.keeps.acts ⟨fun s => setB_fld_apart _ _ _ _ _ _ hf hp, fun s => setF_fld_apart _ _ _ _ _ _ hf hs, hstall _,
      fun s => (modEvt_own _).keepFld f st s, hraise _ rfl, hdown, trivial⟩))
    (keeps_when (Act.keeps.acts ⟨fun s => setB_fld_apart _ _ _ _ _ _ hf hp, hstall _, hstart, hraise _ rfl, trivial⟩))
  exact key s

theorem siteMarks_spec (u : State) (st : Nat) (prsl intl r0 r1 : Bool) (s : State) :
    (run (acts (siteMarks u st prsl intl r0 r1)) s).bit F.STALL_STATUS_SITE_INT st = !intl ∧
      (run (acts (siteMarks u st prsl intl r0 r1)) s).bit F.STALL_STATUS_RSV_IN0 st = r0 ∧
      (run (acts (siteMarks u st prsl intl r0 r1)) s).bit F.STALL_STATUS_RSV_IN1 st = r1 ∧
      (run (acts (siteMarks u st prsl intl r0 r1)) s).bit F.STALL_STATUS_SITE_PRESENT st = s.bit F.STALL_STATUS_SITE_PRESENT st := by
  rw [siteMarks, run_acts_cons, run_acts_cons, run_acts_cons, run_acts_cons, run_acts_nil]
  refine ⟨setB_bit _ _ _ _ (by decide) rfl, ?_, ?_, ?_⟩
  · rw [setB_bit_apart _ _ _ _ _ _ (by decide) (by decide), setB_bit_apart _ _ _ _ _ _ (by decide) (by decide), setB_bit _ _ _ _ (by decide) rfl]
  · rw [setB_bit_apart _ _ _ _ _ _ (by decide) (by decide), setB_bit _ _ _ _ (by decide) rfl]
  · rw [setB_bit_apart _ _ _ _ _ _ (by decide) (by decide), setB_bit_apart _ _ _ _ _ _ (by decide) (by decide),
      setB_bit_apart _ _ _ _ _ _ (by decide) (by decide), (modStall_framed _ _).keepBit]

/-- A high scan leaves no site present. -/
theorem siteTurn_high {u s : State} {st : Nat} (h : s.bit F.STALL_STATUS_SITE_PRESENT st = u.bit F.STALL_STATUS_SITE_PRESENT st) :
    (run (siteTurn u st true) s).bit F.STALL_STATUS_SITE_PRESENT st = false := by
  rw [siteTurn, if_pos rfl]
  cases hu : u.bit F.STALL_STATUS_SITE_PRESENT st with
  | false => rw [run_when_false, h, hu]
  | true =>
    rw [run_when_true, run_acts_cons, run_acts_cons, run_acts_cons, run_acts_cons, run_acts_cons, run_acts_cons, run_acts_nil,
      (modulePortsDown_framed _ _).bit F.STALL_STATUS_SITE_PRESENT, (raise_own _ _).bit F.STALL_STATUS_SITE_PRESENT, (modEvt_own _).keepBit,
      (modStall_framed _ _).keepBit, setF_bit_apart _ _ _ _ _ _ (by decide) (by decide), setB_bit _ _ _ _ (by decide) rfl]

/-- The third low scan in a row makes a site present. -/
theorem siteTurn_third {u : State} {st : Nat} (hl : 2 ≤ (u.stall st).lowScans) (hp : u.bit F.STALL_STATUS_SITE_PRESENT st = false) (s : State) :
    (run (siteTurn u st false) s).bit F.STALL_STATUS_SITE_PRESENT st = true ∧ (run (siteTurn u st false) s).site st = siteReset := by
  have hmin : min ((u.stall st).lowScans + 1) 3 = 3 := by omega
  rw [siteTurn, if_neg (by decide), if_neg (by decide), hmin, hp, run_when_eq_true (by decide), run_acts_cons, run_acts_cons, run_acts_cons, run_acts_cons,
    run_acts_nil]
  constructor
  · rw [(raise_own _ _).bit F.STALL_STATUS_SITE_PRESENT, siteStart, run_acts_cons, run_acts_cons, run_acts_nil, (modStall_framed _ _).keepBit,
      setF_bit_apart _ _ _ _ _ _ (by decide) (by decide), (modStall_framed _ _).keepBit, setB_bit _ _ _ _ (by decide) rfl]
  · rw [State.site, (raise_own _ _).fld F.STALL_STATUS_SITE_STATE]
    exact (siteStart_spec _ st).1

/-! ### The scan of the chain -/

/-- In a run over distinct items that keep what another's item goes by, each does as it would alone. -/
theorem each_pick {α β : Type} {g : State → β} {f : α → Act} {l : List α} (hn : l.Nodup) {x : α} (hx : x ∈ l)
    (hkeep : ∀ y, y ≠ x → (f y).keeps g) (s : State) : ∃ u, g u = g s ∧ g (run (each l f) s) = g (run (f x) u) := by
  obtain ⟨l₁, l₂, rfl⟩ := List.append_of_mem hx
  obtain ⟨-, hn₂, hdis⟩ := List.nodup_append.1 hn
  refine ⟨run (each l₁ f) s, keeps_each (fun y hy => hkeep y (hdis y hy x (List.mem_cons_self ..))) s, ?_⟩
  rw [run_each_append, run_each_cons]
  exact keeps_each (fun y hy => hkeep y fun e => (List.nodup_cons.1 hn₂).1 (e ▸ hy)) _

/-- What a scan of the chain does at one site. -/
def scanAt (inf : List (Bool × Bool × Bool × Bool)) (flags : List (List Byte)) (st : Nat) : Act :=
  acts [siteScan st (inf.getD st (true, true, false, false)).1 (inf.getD st (true, true, false, false)).2.1
    (inf.getD st (true, true, false, false)).2.2.1 (inf.getD st (true, true, false, false)).2.2.2, readFlags st (flags.getD st [])]

theorem run_siteChainScan {s : State} (h : s.mode.started = true) (inf : List (Bool × Bool × Bool × Bool)) (flags : List (List Byte)) :
    run (siteChainScan inf flags) s = run (each ((List.range 64).filter fun st => !s.clk.soft.contains st) (scanAt inf flags))
      (run i2cOwnEnd (run (emit (.chain ((List.range 64).map s.outBits).flatten)) s)) := by
  rw [siteChainScan, run_look, h, run_when_true, run_acts_cons, run_acts_cons, run_acts_cons, run_acts_nil]
  rfl

/-- A site outside soft reset shows after the scan what its own turn in it leaves. -/
theorem siteChainScan_site {s : State} (h : s.mode.started = true) (inf : List (Bool × Bool × Bool × Bool)) (flags : List (List Byte)) {st : Nat}
    (hst : st < 64) (hsoft : s.clk.soft.contains st = false) : ∃ u : State, u.siteView st = s.siteView st ∧
      (run (siteChainScan inf flags) s).siteView st = (run (siteScan st (inf.getD st (true, true, false, false)).1
        (inf.getD st (true, true, false, false)).2.1 (inf.getD st (true, true, false, false)).2.2.1
        (inf.getD st (true, true, false, false)).2.2.2) u).siteView st := by
  rw [run_siteChainScan h]
  obtain ⟨u, hu, hrun⟩ := each_pick (g := State.siteView st) (f := scanAt inf flags)
    (l := (List.range 64).filter fun st => !s.clk.soft.contains st) (List.nodup_range.filter _)
    (List.mem_filter.2 ⟨List.mem_range.2 hst, by rw [hsoft]; rfl⟩)
    (fun k hk => Act.keeps.acts ⟨siteScan_keeps_siteView hk _ _ _ _, readFlags_keeps_siteView _ _ _, trivial⟩)
    (run i2cOwnEnd (run (emit (.chain ((List.range 64).map s.outBits).flatten)) s))
  refine ⟨u, hu.trans ?_, hrun.trans ?_⟩
  · rw [keeps_siteView_framed i2cOwnEnd_framed st, keeps_siteView_framed (emit_own _) st]
  · rw [scanAt, run_acts_cons, run_acts_cons, run_acts_nil, readFlags_keeps_siteView]

/-! ### The obligation -/

theorem run_moduleReady {s : State} {st : Nat} (h : s.site st = siteReady) : (run (moduleReady st) s).site st = siteDatapath ∧
    ∀ p ∈ s.portsOf st, ∀ l ∈ s.lanesOf p, (run (moduleReady st) s).asksOwn st 0x10 (145 + l % 8)
      [BitVec.ofNat 8 (s.fld F.PORT_CFG_APPSEL p * 16 + p % 8 * 2)] := by
  have hkeep : ∀ page off b, (ownWrite st page off b).keepsAsks := fun _ _ _ => ownAccess_keepsAsks _
  rw [moduleReady, run_look, h, run_when_eq_true (beq_self_eq_true _), run_acts_cons, run_acts_cons, run_acts_cons, run_acts_cons, run_acts_nil]
  constructor
  · rw [State.site, (ownWrite_framed _ _ _ _).keepFld, (ownWrite_framed _ _ _ _).keepFld,
      Act.Framed.keepFld (.each fun _ _ => .each fun _ _ => ownWrite_framed _ _ _ _), setF_fld _ _ _ _ (by decide)]
    rfl
  · intro p hp l hl
    refine hkeep _ _ _ _ _ _ _ _ (hkeep _ _ _ _ _ _ _ _ ?_)
    exact each_all (p := fun p t => ∀ l ∈ s.lanesOf p, t.asksOwn st 0x10 (145 + l % 8) [BitVec.ofNat 8 (s.fld F.PORT_CFG_APPSEL p * 16 + p % 8 * 2)])
      (f := fun p => each (s.lanesOf p) fun l => ownWrite st 0x10 (145 + l % 8) [BitVec.ofNat 8 (s.fld F.PORT_CFG_APPSEL p * 16 + p % 8 * 2)])
      (fun p t => each_all (p := fun l t => t.asksOwn st 0x10 (145 + l % 8) [BitVec.ofNat 8 (s.fld F.PORT_CFG_APPSEL p * 16 + p % 8 * 2)])
        (fun l t => ownWrite_asks _ _ _ _ _) (fun k l t ht => hkeep _ _ _ _ _ _ _ _ ht) _ t)
      (fun q p t ht l hl => Act.keepsAsks.each (fun _ => hkeep _ _ _) _ _ _ _ _ _ (ht l hl)) _ _ p hp l hl

theorem run_moduleLowPwrReport {s : State} {st : Nat} (h : s.site st = siteInit) (flat : Bool) (apps : List Nat) (m : ModuleId) :
    (run (moduleLowPwrReport st flat apps m) s).site st = (if flat then sitePassive else siteReady) ∧
      ((run (moduleLowPwrReport st flat apps m) s).stall st).apps = apps ∧ ((run (moduleLowPwrReport st flat apps m) s).stall st).module = m.data ∧
      ((run (moduleLowPwrReport st flat apps m) s).stall st).hostEq = m.hostEq ∧ (flat = false →
        ((run (moduleLowPwrReport st flat apps m) s).stall st).lpmode = false ∧ (run (moduleLowPwrReport st flat apps m) s).asksOwn st 0 26 [0#8]) := by
  rw [moduleLowPwrReport, run_look, h, run_when_eq_true (beq_self_eq_true _), run_acts_cons, run_acts_cons, run_acts_cons, run_acts_cons, run_acts_cons, run_acts_nil]
  cases flat with
  | true =>
    rw [if_pos rfl, if_pos rfl, run_acts_cons, run_acts_cons, run_acts_cons, run_acts_nil, State.site, (modulePortsGo_framed _).fld F.STALL_STATUS_SITE_STATE,
      (modulePortsGo_framed _).stall, (modStall_framed _ _).keepFld, setF_fld _ _ _ _ (by decide), run_modStall_self, (setF_own _ _ _).stall,
      run_modStall_self]
    exact ⟨rfl, rfl, rfl, rfl, nofun⟩
  | false =>
    rw [if_neg (by decide), if_neg (by decide), run_acts_cons, run_acts_cons, run_acts_cons, run_acts_nil, State.site, (ownWrite_framed _ _ _ _).keepFld,
      (ownWrite_framed _ _ _ _).stall, (modStall_framed _ _).keepFld, setF_fld _ _ _ _ (by decide), run_modStall_self, (setF_own _ _ _).stall,
      run_modStall_self]
    exact ⟨rfl, rfl, rfl, rfl, fun _ => ⟨rfl, ownWrite_asks _ _ _ _ _⟩⟩

theorem run_datapathActivated {s : State} {st : Nat} (h : s.site st = siteDatapath) :
    if ((s.portsOf st).map (s.fld F.PORT_CFG_APPSEL)).all (s.stall st).apps.contains then
      (run (datapathActivated st) s).site st = siteActive ∧ ((run (datapathActivated st) s).stall st).retries = 0
    else (run (datapathActivated st) s).site st = siteFaulted ∧ ((run (datapathActivated st) s).stall st).retryOn = false := by
  rw [datapathActivated, run_look, h, run_when_eq_true (beq_self_eq_true _)]
  dsimp only
  split
  · rw [run_acts_cons, run_acts_cons, run_acts_cons, run_acts_nil, State.site, (modulePortsGo_framed _).fld F.STALL_STATUS_SITE_STATE,
      (modulePortsGo_framed _).stall, (modStall_framed _ _).keepFld, setF_fld _ _ _ _ (by decide), run_modStall_self]
    exact ⟨rfl, rfl⟩
  · exact siteFail_spec s st false

/-- Settles O27: each command by its own action; a scan reaches every site of the chain by itself. -/
theorem moduleSitesComeUpAndFail : Obligations.ModuleSitesComeUpAndFail := by
  refine ⟨fun s st hsite hscans => ?_, fun s st flat apps id eq hsite => ?_, fun s st hsite => ?_, fun s st hsite => ?_, fun s st he hf => ?_,
    fun s st hsite hretry haged => ?_, fun s inf fl hhalt hstart => ?_⟩
  · refine completes_run (a := moduleResetRelease st) rfl ?_
    rw [moduleResetRelease, run_look, hsite, run_when_eq_true (by simpa using hscans), run_acts_cons, run_acts_cons, run_acts_nil, State.site,
      setF_fld _ _ _ _ (by decide), (setF_own _ _ _).stall, run_modStall_self]
    exact ⟨rfl, rfl⟩
  · exact completes_run (a := moduleLowPwrReport st flat apps ⟨id, eq⟩) rfl (run_moduleLowPwrReport hsite flat apps ⟨id, eq⟩)
  · exact completes_run (a := moduleReady st) rfl (run_moduleReady hsite)
  · exact completes_run (a := datapathActivated st) rfl (run_datapathActivated hsite)
  · refine completes_run (a := siteFault st) rfl ?_
    rw [siteFault, run_look, run_when_eq_true (by simp [he, hf])]
    exact siteFail_spec s st true
  · refine completes_run (a := siteFaultRetry st) rfl ?_
    rw [siteFaultRetry, run_look, run_when_eq_true (by simp [hsite, hretry, haged]), run_acts_cons, run_acts_cons, run_acts_nil]
    obtain ⟨hreset, hstall⟩ := siteStart_spec (run (modStall st fun x => { x with retries := x.retries + 1 }) s) st
    rw [hstall, run_modStall_self]
    exact ⟨hreset, rfl, rfl, rfl⟩
  · refine completes_run (a := coreDo (siteChainScan inf fl)) rfl ?_
    rw [run_coreDo _ _ hhalt]
    refine ⟨?_, fun st hst hsoft => ?_⟩
    · rw [run_siteChainScan hstart]
      exact mem_out_run _ (mem_out_run _ (List.mem_cons_self ..))
    · obtain ⟨u, hu, hrun⟩ := siteChainScan_site hstart inf fl hst hsoft
      obtain ⟨hin, hlow⟩ := siteView_eq hu
      obtain ⟨hout, -⟩ := siteView_eq hrun
      have hbit : ∀ f ∈ siteFlds, (run (siteChainScan inf fl) s).bit f st = (run (siteTurn u st _) (run (acts (siteMarks u st _ _ _ _)) u)).bit f st :=
        fun f hf => by rw [State.bit, hout f hf, run_siteScan, State.bit]
      have hpres : u.bit F.STALL_STATUS_SITE_PRESENT st = s.bit F.STALL_STATUS_SITE_PRESENT st := by rw [State.bit, hin _ (by decide), State.bit]
      obtain ⟨hint, hr0, hr1, hmark⟩ := siteMarks_spec u st (inf.getD st (true, true, false, false)).1 (inf.getD st (true, true, false, false)).2.1
        (inf.getD st (true, true, false, false)).2.2.1 (inf.getD st (true, true, false, false)).2.2.2 u
      refine ⟨?_, ?_, ?_, fun hhigh => ?_, fun hlo hcnt habs => ?_⟩
      · rw [hbit _ (by decide), State.bit, siteTurn_fld _ _ _ _ _ (by decide) rfl (by decide) (by decide)]
        exact hint
      · rw [hbit _ (by decide), State.bit, siteTurn_fld _ _ _ _ _ (by decide) rfl (by decide) (by decide)]
        exact hr0
      · rw [hbit _ (by decide), State.bit, siteTurn_fld _ _ _ _ _ (by decide) rfl (by decide) (by decide)]
        exact hr1
      · rw [hbit _ (by decide), hhigh]
        rw [hhigh] at hmark
        exact siteTurn_high hmark
      · rw [hbit _ (by decide), State.site, hout _ (by decide), run_siteScan, hlo]
        exact siteTurn_third (by rw [hlow]; exact hcnt) (hpres.trans habs) _

end Sys2Proof.Machine
end

section
/-!
PROOF. Mailboxes (R286 to R292): what the end of an operation leaves, what its start leaves for it, the effect of each operation, and the
transactions of module memory.
-/
set_option Elab.async false
namespace Sys2Proof.Machine

/-! ### What a delivery leaves, and what an occurrence records (R294, R299) -/

theorem deliver_narrow (w : Nat) : (deliver w).Framed [.regs, .live, .msi, .out] [.EVT_MSI_LOST] :=
  .look fun _ => .ite (.look fun _ => .ite (addSat_own _ _ _).widen (.ite (modMsi_own _ _).widen (.ite (modMsi_own _ _).widen
    (.acts ⟨(emit_own _).widen, .when (modMsi_own _ _).widen, trivial⟩)))) (.when (emit_own _).widen)

theorem Act.Framed.occOf {P : List Part} {R : List Reg} {a : Act} (h : a.Framed P R) (s : State) (k : Nat)
    (hx : P.contains .occ = false := by decide) : (Machine.run a s).occOf k = s.occOf k := by
  rw [State.occOf, show (Machine.run a s).occ = s.occ from h.part .occ s hx, State.occOf]

/-- An occurrence of a source that is no port's leaves its STATUS bit set. -/
theorem occur_status {e : Nat} (he : 1024 ≤ e) (s : State) :
    (run (occur e) s).raw .EVT_STATUS (e / 32) = s.raw .EVT_STATUS (e / 32) ||| BitVec.ofNat 32 (2 ^ (e % 32)) := by
  have hmask : regMask .EVT_STATUS = BitVec.allOnes 32 := by decide
  rw [run_occur e s (by omega), ((Act.Framed.when (deliver_narrow _)).reg (by decide) _ _).1, ((Act.Framed.when (emit_own _)).reg (by decide) _ _).1, recorded_status,
    hmask, BitVec.and_allOnes]

/-- An occurrence counts for its own source alone. -/
theorem occur_occOf_other {e k : Nat} (he : 1024 ≤ e) (hk : k ≠ e) (s : State) : (run (occur e) s).occOf k = s.occOf k := by
  rw [run_occur e s (by omega), (Act.Framed.when (deliver_narrow _)).occOf, (Act.Framed.when (emit_own _)).occOf, State.recorded, occOf_applyUpd, if_neg hk]
  rfl

/-! ### The end of an operation (R286, R287) -/

/-- An operation has ended: GO is clear, no transaction of the mailbox runs, and MBX_DONE of a host mailbox is pending. -/
def State.mbxOver (t : State) (n : Nat) : Prop :=
  t.bit F.MBX_CTL_GO n = false ∧ (t.mbox n).busy = false ∧ (n < 16 → (t.raw .EVT_STATUS 54).getLsbD n = true)

theorem mbxEnd_over (n : Nat) (s : State) : (run (mbxEnd n) s).mbxOver n := by
  have hocc : (when (decide (n < 16)) (occur (1728 + n))).Framed occurParts occurRegs := .when (occur_own _)
  simp only [mbxEnd, run_acts_cons, run_acts_nil]
  refine ⟨?_, ?_, fun hn => ?_⟩
  · rw [hocc.bit F.MBX_CTL_GO, (modMbx_framed _ _).keepBit, setB_bit _ _ _ _ (by decide) rfl]
  · rw [hocc.mbox, run_modMbx_self]
  · have h := occur_status (e := 1728 + n) (by omega) (run (modMbx n fun m => { m with busy := false }) (run (setB F.MBX_CTL_GO n false) s))
    rw [show (1728 + n) / 32 = 54 by omega, show (1728 + n) % 32 = n by omega] at h
    rw [run_when_eq_true (decide_eq_true hn), h, BitVec.getLsbD_or, BitVec.getLsbD_ofNat, Nat.testBit_two_pow]
    simp [show n < 32 by omega]

/-- The end of an operation leaves the fields of MBX_CTL but GO. -/
theorem mbxEnd_fld (n : Nat) (f : Fld) (s : State) (hf : f.held = true) (h : Fld.apart F.MBX_CTL_GO f = true)
    (hr : occurRegs.contains f.reg = false) : (run (mbxEnd n) s).fld f n = s.fld f n := by
  simp only [mbxEnd, run_acts_cons, run_acts_nil]
  rw [(Act.Framed.when (occur_own _)).fld f n _ hr, (modMbx_framed _ _).keepFld, setB_fld_apart _ _ _ _ _ _ hf h]

/-- It counts no occurrence but MBX_DONE of its mailbox. -/
theorem mbxEnd_occOf (n k : Nat) (h : n < 16 → k ≠ 1728 + n) (s : State) : (run (mbxEnd n) s).occOf k = s.occOf k := by
  simp only [mbxEnd, run_acts_cons, run_acts_nil]
  by_cases hn : n < 16
  · rw [run_when_eq_true (decide_eq_true hn), occur_occOf_other (by omega) (h hn), (modMbx_framed _ _).occOf, (setB_own _ _ _).occOf]
  · rw [run_when_eq_false (decide_eq_false hn), (modMbx_framed _ _).occOf, (setB_own _ _ _).occOf]

/-- The words that a read leaves in DATA. -/
def mbxWords (n : Nat) (out : Option (List Word)) : Act :=
  match out with
  | none => .skip
  | some l => each (List.range 16) fun i => setReg .MBX_DATA (16 * n + i) (l.getD i 0)

theorem mbxWords_framed (n : Nat) (out : Option (List Word)) : (mbxWords n out).Framed [.regs, .live] [.MBX_DATA] := by
  cases out with
  | none => exact .skip
  | some l => exact .each fun _ _ => setReg_own _ _ _

theorem run_mbxOk (n : Nat) (out : Option (List Word)) (s : State) :
    run (mbxOk n out) s = run (mbxEnd n) (run (setB F.MBX_CTL_VALID n true) (run (mbxWords n out) s)) := rfl

theorem mbxOk_over (n : Nat) (out : Option (List Word)) (s : State) :
    (run (mbxOk n out) s).mbxOver n ∧ (run (mbxOk n out) s).bit F.MBX_CTL_VALID n = true := by
  rw [run_mbxOk]
  refine ⟨mbxEnd_over _ _, ?_⟩
  rw [State.bit, mbxEnd_fld _ _ _ (by decide) (by decide) (by decide), setB_fld _ _ _ _ (by decide) rfl]
  rfl

/-- An operation that ends well, of a mailbox that shows no error. -/
theorem mbxOk_ended {n : Nat} {s : State} (h : s.bit F.MBX_CTL_ERR n = false) (out : Option (List Word)) :
    mbxEnded (run (mbxOk n out) s) n true := by
  obtain ⟨⟨hgo, -, hdone⟩, hvalid⟩ := mbxOk_over n out s
  refine ⟨hvalid, ?_, hgo, hdone⟩
  rw [run_mbxOk, State.bit, mbxEnd_fld _ _ _ (by decide) (by decide) (by decide), setB_fld_apart _ _ _ _ _ _ (by decide) (by decide),
    (mbxWords_framed _ _).fld F.MBX_CTL_ERR]
  exact h

theorem setReg_raw (r : Reg) (n m : Nat) (w : Word) (s : State) :
    (run (setReg r n w) s).raw r m = if m = n then w &&& regMask r else s.raw r m := by
  rw [setReg, run_seq]
  refine (raw_other _ _ (by simp [Upd.part]) _ _).trans ((raw_reg _ _ _ _ _ _).trans ?_)
  simp

theorem mbxWords_data (n : Nat) (l : List Word) {i : Nat} (hi : i < 16) (s : State) :
    (run (mbxWords n (some l)) s).raw .MBX_DATA (16 * n + i) = l.getD i 0 := by
  have hmask : regMask .MBX_DATA = BitVec.allOnes 32 := by decide
  refine each_all (p := fun i t => t.raw .MBX_DATA (16 * n + i) = l.getD i 0)
    (f := fun i => setReg .MBX_DATA (16 * n + i) (l.getD i 0)) (fun i t => ?_) (fun i j t h => ?_) _ s i (List.mem_range.2 hi)
  · rw [setReg_raw, if_pos rfl, hmask, BitVec.and_allOnes]
  · rw [setReg_raw]
    split_ifs with hij
    · rw [hmask, BitVec.and_allOnes, show i = j by omega]
    · exact h

theorem mbxOk_data (n : Nat) (l : List Word) {i : Nat} (hi : i < 16) (s : State) :
    (run (mbxOk n (some l)) s).raw .MBX_DATA (16 * n + i) = l.getD i 0 := by
  rw [run_mbxOk, ((mbxEnd_framed n).reg rfl _ _).1, ((setB_own _ _ _).reg rfl _ _).1, mbxWords_data n l hi]

theorem mbxOk_occOf (n k : Nat) (out : Option (List Word)) (h : n < 16 → k ≠ 1728 + n) (s : State) : (run (mbxOk n out) s).occOf k = s.occOf k := by
  rw [run_mbxOk, mbxEnd_occOf n k h, (setB_own _ _ _).occOf, (mbxWords_framed _ _).occOf]

/-- An operation that fails shows its code. -/
theorem mbxErr_spec (n : Nat) {code : Nat} (hc : code < 16) (s : State) : (run (mbxErr n code) s).fld F.MBX_CTL_ERRCODE n = code ∧
    (run (mbxErr n code) s).bit F.MBX_CTL_ERR n = true ∧ (run (mbxErr n code) s).mbxOver n ∧
    (run (mbxErr n code) s).bit F.MBX_CTL_VALID n = s.bit F.MBX_CTL_VALID n := by
  simp only [mbxErr, run_acts_cons, run_acts_nil]
  refine ⟨?_, ?_, mbxEnd_over _ _, ?_⟩
  · rw [mbxEnd_fld _ _ _ (by decide) (by decide) (by decide), setF_fld _ _ _ _ (by decide)]
    exact Nat.mod_eq_of_lt hc
  · rw [State.bit, mbxEnd_fld _ _ _ (by decide) (by decide) (by decide), setF_fld_apart _ _ _ _ _ _ (by decide) (by decide),
      setB_fld _ _ _ _ (by decide) rfl]
    rfl
  · rw [State.bit, mbxEnd_fld _ _ _ (by decide) (by decide) (by decide), setF_fld_apart _ _ _ _ _ _ (by decide) (by decide),
      setB_fld_apart _ _ _ _ _ _ (by decide) (by decide), State.bit]

/-! ### The start of an operation -/

/-- What a write of MBX_CTL with GO = 1 does before the operation itself. -/
def mbxStart (n : Nat) (ctl : Word) : Act :=
  acts [acts [setF F.MBX_CTL_OP n (bits ctl 0 4), setF F.MBX_CTL_LEN n (bits ctl 16 8), setF F.MBX_CTL_OFF n (bits ctl 8 8)],
    setB F.MBX_CTL_VALID n false, setB F.MBX_CTL_ERR n false, setF F.MBX_CTL_ERRCODE n 0, setB F.MBX_CTL_GO n true]

theorem mbxStart_framed (n : Nat) (ctl : Word) : (mbxStart n ctl).Framed [.regs, .live] [.MBX_CTL] :=
  .acts ⟨.acts ⟨(setF_own _ _ _).widen, (setF_own _ _ _).widen, (setF_own _ _ _).widen, trivial⟩, (setB_own _ _ _).widen, (setB_own _ _ _).widen,
    (setF_own _ _ _).widen, (setB_own _ _ _).widen, trivial⟩

theorem run_mbxRow {s : State} {rq : Req} {n op : Nat} {ctl : Word} (h : mbxGo s rq n op ctl) :
    run (mbxRow op rq n ctl) s = run (mbxRun (s.asReq rq) n) (run (mbxStart n ctl) s) := by
  obtain ⟨htake, hgo, hop, hidle⟩ := h
  rw [mbxRow, run_when_eq_true (by rw [hgo, hop]; simp), mbxCtl, run_onWrite htake, run_look]
  dsimp only
  rw [if_neg (by rw [hgo]; decide), if_neg (by rw [hidle]; decide)]
  simp only [mbxStart, run_acts_cons, run_acts_nil]

/-- What a started mailbox shows of itself. -/
structure State.mbxSet (u : State) (n vid idx op len off : Nat) (d : List Word) : Prop where
  block : u.fld F.MBX_SEL_BLOCK n = vid
  index : u.fld F.MBX_SEL_INDEX n = idx
  op : u.fld F.MBX_CTL_OP n = op
  len : u.fld F.MBX_CTL_LEN n = len
  off : u.fld F.MBX_CTL_OFF n = off
  data : mbxData u n = d
  valid : u.bit F.MBX_CTL_VALID n = false
  err : u.bit F.MBX_CTL_ERR n = false
  go : u.bit F.MBX_CTL_GO n = true

theorem mbxStart_set (s : State) (n : Nat) (ctl : Word) : (run (mbxStart n ctl) s).mbxSet n (s.fld F.MBX_SEL_BLOCK n) (s.fld F.MBX_SEL_INDEX n)
    (bits ctl 0 4) (bits ctl 16 8) (bits ctl 8 8) (mbxData s n) where
  block := (mbxStart_framed n ctl).fld _ _ _
  index := (mbxStart_framed n ctl).fld _ _ _
  op := by
    simp only [mbxStart, run_acts_cons, run_acts_nil, setB]
    repeat rw [setF_fld_apart _ _ _ _ _ _ (by decide) (by decide)]
    rw [setF_fld _ _ _ _ (by decide)]
    exact Nat.mod_eq_of_lt (bits_lt _ _ _)
  len := by
    simp only [mbxStart, run_acts_cons, run_acts_nil, setB]
    repeat rw [setF_fld_apart _ _ _ _ _ _ (by decide) (by decide)]
    rw [setF_fld _ _ _ _ (by decide)]
    exact Nat.mod_eq_of_lt (bits_lt _ _ _)
  off := by
    simp only [mbxStart, run_acts_cons, run_acts_nil, setB]
    repeat rw [setF_fld_apart _ _ _ _ _ _ (by decide) (by decide)]
    rw [setF_fld _ _ _ _ (by decide)]
    exact Nat.mod_eq_of_lt (bits_lt _ _ _)
  data := List.map_congr_left fun i _ => ((mbxStart_framed n ctl).reg rfl _ _).1
  valid := by
    simp only [mbxStart, run_acts_cons, run_acts_nil]
    rw [setB_bit_apart _ _ _ _ _ _ (by decide) (by decide), setF_bit_apart _ _ _ _ _ _ (by decide) (by decide),
      setB_bit_apart _ _ _ _ _ _ (by decide) (by decide), setB_bit _ _ _ _ (by decide) rfl]
  err := by
    simp only [mbxStart, run_acts_cons, run_acts_nil]
    rw [setB_bit_apart _ _ _ _ _ _ (by decide) (by decide), setF_bit_apart _ _ _ _ _ _ (by decide) (by decide),
      setB_bit _ _ _ _ (by decide) rfl]
  go := by
    simp only [mbxStart, run_acts_cons, run_acts_nil]
    rw [setB_bit _ _ _ _ (by decide) rfl]

/-- The start of an operation changes nothing that a fault of it rests on. -/
theorem mbxFault_start (s : State) (n : Nat) (ctl : Word) (rq : Req) (vid idx op len off : Nat) (d : List Word) :
    (run (mbxStart n ctl) s).mbxFault rq vid idx op len off d = s.mbxFault rq vid idx op len off d := by
  have h := mbxStart_framed n ctl
  have hf : ∀ f : Fld, f.reg ≠ .MBX_CTL → ∀ m, (run (mbxStart n ctl) s).fld f m = s.fld f m := fun f hf m => h.fld f m s (by simpa using hf)
  have hb : ∀ f : Fld, f.reg ≠ .MBX_CTL → ∀ m, (run (mbxStart n ctl) s).bit f m = s.bit f m := fun f hf m => h.bit f m s (by simpa using hf)
  have hpf3 : (run (mbxStart n ctl) s).pf3May vid idx op = s.pf3May vid idx op := by
    simp only [State.pf3May, hb F.PERF_CTL_USER (by decide), hb F.PERF_PERMIT_USER_PERMIT (by decide)]
  have huse : (run (mbxStart n ctl) s).mayUse rq vid idx op = s.mayUse rq vid idx op := by
    simp only [State.mayUse, hpf3]
  have hlock : (run (mbxStart n ctl) s).cfgLock = s.cfgLock := hb F.SEC_LOCK_CFG_LOCK (by decide) 0
  have hstore : ∀ k, (run (mbxStart n ctl) s).storeOpen k idx = s.storeOpen k idx := fun k => by
    rw [State.storeOpen, State.opMode, hf F.SYS_MODE_MODE (by decide), hb F.SYS_PROVE_STATUS_BUSY (by decide), State.store, h.aisle, h.pe,
      State.storeOpen, State.opMode, State.store]
  have hstate : (run (mbxStart n ctl) s).vidState vid idx op = s.vidState vid idx op := by
    simp only [State.vidState, hstore, State.site, hf F.STALL_STATUS_SITE_STATE (by decide), hf F.SCH_HL_STATUS_ACTIVE_SLOT (by decide),
      hb F.SCH_HL_STATUS_RUNNING (by decide), hb F.SCH_HL_STATUS_ARMED (by decide)]
  have hoperand : (run (mbxStart n ctl) s).vidOperand vid idx op len off d = s.vidOperand vid idx op len off d := by
    simp only [State.vidOperand]
  simp only [State.mbxFault, huse, hlock, hstate, hoperand]

/-- A fault of a read does not rest on the DATA words. -/
theorem mbxFault_read (s : State) (rq : Req) (vid idx len off : Nat) (d d' : List Word) :
    s.mbxFault rq vid idx mbRead len off d = s.mbxFault rq vid idx mbRead len off d' := by
  have h : s.vidOperand vid idx mbRead len off d = s.vidOperand vid idx mbRead len off d' := by simp [State.vidOperand, mbRead, mbWrite]
  rw [State.mbxFault, h, State.mbxFault]

/-! ### The operation itself -/

section
variable {u : State} {rq : Req} {n vid idx op len off : Nat} {d : List Word} (h : u.mbxSet n vid idx op len off d)
include h

theorem run_mbxRun_fault {code : Nat} (hc : u.mbxFault rq vid idx op len off d = code) (hne : code ≠ 0) (h3 : code ≠ 3) (hw : op ≠ mbWrite) :
    run (mbxRun rq n) u = run (mbxErr n code) u := by
  obtain ⟨rfl, rfl, rfl, rfl, rfl, rfl, -, -, -⟩ := h
  unfold mbxData at hc
  rw [mbxRun, run_look]
  dsimp only
  rw [hc, if_pos hne, run_acts_cons, run_acts_cons, run_acts_cons, run_acts_nil, run_when_eq_false (by simp [hw]),
    run_when_eq_false (by simpa using h3)]

theorem run_mbxRun_module (hc : u.mbxFault rq 0x12 idx op len off d = 0) (hv : vid = 0x12) :
    run (mbxRun rq n) u = run (moduleIo n idx op len off d) u := by
  obtain ⟨hvid, rfl, rfl, rfl, rfl, rfl, -, -, -⟩ := h
  rw [hv] at hvid
  unfold mbxData at hc
  rw [mbxRun, run_look]
  dsimp only
  rw [hvid, if_neg (by rw [hc]; decide), if_pos rfl, mbxData]

theorem run_mbxRun_read (hc : u.mbxFault rq vid idx op len off d = 0) (hop : op = mbRead) (hv : 0 < cntWidth vid idx) :
    run (mbxRun rq n) u = run (mbxOk n (some (u.vidRead vid idx))) u := by
  obtain ⟨rfl, rfl, rfl, rfl, rfl, rfl, -, -, -⟩ := h
  have hne : ∀ v, (∀ i, cntWidth v i = 0) → u.fld F.MBX_SEL_BLOCK n ≠ v := fun v h0 e => by
    rw [e, h0] at hv
    exact absurd hv (by decide)
  unfold mbxData at hc
  rw [mbxRun, run_look]
  dsimp only
  rw [if_neg (by rw [hc]; decide), if_neg (hne 0x12 fun _ => rfl), if_neg fun h => hne 0x82 (fun _ => rfl) h.2,
    if_neg fun h => hne 0x92 (fun _ => rfl) h.2, if_pos hop]

theorem run_mbxRun_write (hc : u.mbxFault rq vid idx op len off d = 0) (hop : op = mbWrite) (hv : vid ≠ 0x12) :
    run (mbxRun rq n) u = run (mbxOk n none) (run (vidWrite rq vid idx d) u) := by
  obtain ⟨rfl, rfl, rfl, rfl, rfl, rfl, -, -, -⟩ := h
  have hne : u.fld F.MBX_CTL_OP n ≠ mbRead := by rw [hop]; decide
  unfold mbxData at hc
  rw [mbxRun, run_look]
  dsimp only
  rw [if_neg (by rw [hc]; decide), if_neg hv, if_neg fun h => hne h.1, if_neg fun h => hne h.1, if_neg hne, if_pos hop, run_acts_cons, run_acts_cons,
    run_acts_nil, mbxData]

theorem run_mbxRun_clear (hc : u.mbxFault rq vid idx op len off d = 0) (hop : op = mbClear) :
    run (mbxRun rq n) u = run (mbxOk n (some (u.vidRead vid idx))) (run (vidClear vid idx) u) := by
  obtain ⟨rfl, rfl, rfl, rfl, rfl, rfl, -, -, -⟩ := h
  have hr : u.fld F.MBX_CTL_OP n ≠ mbRead := by rw [hop]; decide
  have hw : u.fld F.MBX_CTL_OP n ≠ mbWrite := by rw [hop]; decide
  have hv : u.fld F.MBX_SEL_BLOCK n ≠ 0x12 := fun e => by
    rw [e, hop] at hc
    simp [State.mbxFault, opOk, mbClear, mbRead, mbWrite] at hc
    split_ifs at hc
  unfold mbxData at hc
  rw [mbxRun, run_look]
  dsimp only
  rw [if_neg (by rw [hc]; decide), if_neg hv, if_neg fun h => hr h.1, if_neg fun h => hr h.1, if_neg hr, if_neg hw, run_acts_cons, run_acts_cons,
    run_acts_nil]

end

/-! ### Counters in DATA (R290) -/

/-- The words of `w` values of two words each. -/
theorem getD_pairs (f : Nat → List Word) (hf : ∀ c, (f c).length = 2) (w c r : Nat) (hc : c < w) (hr : r < 2) :
    ((List.range w).map f).flatten.getD (2 * c + r) 0 = (f c).getD r 0 := by
  have hlen : ∀ w, ((List.range w).map f).flatten.length = 2 * w := fun w => by
    simp [List.length_flatten, Function.comp_def, hf, Nat.mul_comm]
  induction w with
  | zero => omega
  | succ w ih =>
    rw [List.range_succ, List.map_append, List.flatten_append]
    by_cases h : c < w
    · rw [List.getD_append _ _ _ _ (by rw [hlen]; omega), ih h]
    · obtain rfl : c = w := by omega
      rw [List.getD_append_right _ _ _ _ (by rw [hlen]; omega), hlen, Nat.add_sub_cancel_left]
      simp

theorem getD_pairs_past (f : Nat → List Word) (hf : ∀ c, (f c).length = 2) (w j : Nat) (h : 2 * w ≤ j) :
    ((List.range w).map f).flatten.getD j 0 = 0 :=
  List.getD_eq_default _ _ (by simp [List.length_flatten, Function.comp_def, hf]; omega)

theorem vidRead_cnt {vid idx : Nat} (h : 0 < cntWidth vid idx) (s : State) :
    s.vidRead vid idx = ((List.range (cntWidth vid idx)).map fun c => words48 (s.cntOf (cntKey vid idx c)).toNat).flatten := if_pos h

theorem cntWidth_le (vid idx : Nat) : cntWidth vid idx ≤ 8 := by
  unfold cntWidth
  repeat' split
  all_goals omega

/-- The two words of a counter, after a read that ends well. -/
theorem mbxOk_counter {vid idx c : Nat} (hc : c < cntWidth vid idx) (n : Nat) (s t : State) :
    ((run (mbxOk n (some (s.vidRead vid idx))) t).raw .MBX_DATA (16 * n + 2 * c)).toNat = (s.cntOf (cntKey vid idx c)).toNat % 2 ^ 32 ∧
      ((run (mbxOk n (some (s.vidRead vid idx))) t).raw .MBX_DATA (16 * n + 2 * c + 1)).toNat = (s.cntOf (cntKey vid idx c)).toNat / 2 ^ 32 := by
  have h8 := cntWidth_le vid idx
  have hlt := (s.cntOf (cntKey vid idx c)).isLt
  have hword : ∀ r, r < 2 → (run (mbxOk n (some (s.vidRead vid idx))) t).raw .MBX_DATA (16 * n + (2 * c + r)) =
      (words48 (s.cntOf (cntKey vid idx c)).toNat).getD r 0 := fun r hr => by
    rw [mbxOk_data n _ (by omega), vidRead_cnt (by omega), getD_pairs _ (fun _ => rfl) _ _ _ hc hr]
  have h0 := hword 0 (by omega)
  have h1 := hword 1 (by omega)
  rw [Nat.add_zero] at h0
  rw [← Nat.add_assoc] at h1
  rw [h0, h1]
  simp only [words48, words32, List.map_cons, List.map_nil, List.getD_cons_zero, List.getD_cons_succ, BitVec.toNat_ofNat, true_and]
  omega

theorem mbxOk_past {vid idx j : Nat} (h : 0 < cntWidth vid idx) (hj : 2 * cntWidth vid idx ≤ j) (hj' : j < 16) (n : Nat) (s t : State) :
    (run (mbxOk n (some (s.vidRead vid idx))) t).raw .MBX_DATA (16 * n + j) = 0 := by
  rw [mbxOk_data n _ hj', vidRead_cnt h, getD_pairs_past _ (fun _ => rfl) _ _ hj]

/-- The 48-bit value of a pair of DATA words. -/
def pairAt (d : List Word) (c : Nat) : BitVec 48 := BitVec.ofNat 48 ((d.getD (2 * c) 0).toNat + (d.getD (2 * c + 1) 0).toNat % 2 ^ 16 * 2 ^ 32)

/-- A load leaves each counter of the value at its DATA words. -/
theorem cntLoad_cntOf {vid idx c : Nat} (hc : c < cntWidth vid idx) (h0 : ¬(vid = 0x11 ∧ idx % 2 = 1 ∧ c = 4)) (d : List Word) (s : State) :
    (run (cntLoad vid idx d) s).cntOf (cntKey vid idx c) = pairAt d c := by
  refine each_all (p := fun c t => ¬(vid = 0x11 ∧ idx % 2 = 1 ∧ c = 4) → t.cntOf (cntKey vid idx c) = pairAt d c)
    (fun c t h0 => ?_) (fun i c t ht h0 => ?_) _ s c (List.mem_range.2 hc) h0
  · rw [run_when_eq_true (by rw [Bool.not_eq_true', ← Bool.not_eq_true]; simpa [and_assoc] using h0)]
    exact (cntOf_applyUpd _ _ _ _).trans (if_pos rfl)
  · rw [run_when]
    split_ifs
    · refine (cntOf_applyUpd _ _ _ _).trans ?_
      split_ifs with hk
      · obtain rfl : c = i := by unfold cntKey at hk; omega
        rfl
      · exact ht h0
    · exact ht h0

/-! ### Values that are no counters -/

theorem run_modPerf_self (k : Nat) (f : PerfS → PerfS) (s : State) : (run (modPerf k f) s).perfB k = f (s.perfB k) :=
  (perfB_applyUpd _ _ _ _).trans (if_pos rfl)

theorem Act.Framed.perfB {P : List Part} {R : List Reg} {a : Act} (h : a.Framed P R) (s : State) (k : Nat)
    (hx : P.contains .perf = false := by decide) : (Machine.run a s).perfB k = s.perfB k := by rw [State.perfB, h.perf s hx, State.perfB]

theorem each_occ_zero (base : Nat) {i m : Nat} (hi : i < m) (s : State) :
    (run (each (List.range m) fun i => .upd (.occ (base + i) 0)) s).occOf (base + i) = 0 := by
  refine each_all (p := fun i t => t.occOf (base + i) = 0) (f := fun i => .upd (.occ (base + i) 0))
    (fun i t => (occOf_applyUpd _ _ _ _).trans (if_pos rfl)) (fun i j t ht => (occOf_applyUpd _ _ _ _).trans ?_) _ s i (List.mem_range.2 hi)
  split_ifs
  · rfl
  · exact ht

/-- A table filled from a function holds it at each place filled. -/
theorem tabGet_foldl_tabPut {α : Type} [DecidableEq α] (d : α) (v : Nat → α) {k : Nat} (l : List Nat) : ∀ t : Tab α, (k ∈ l ∨ tabGet t d k = v k) →
    tabGet (l.foldl (fun t n => tabPut t d n (v n)) t) d k = v k := by
  induction l with
  | nil => exact fun t h => h.resolve_left (by simp)
  | cons n r ih =>
    intro t h
    refine ih _ ?_
    by_cases hk : k = n
    · exact .inr (by rw [hk, tabGet_tabPut_self])
    · refine h.imp (fun hm => (List.mem_cons.1 hm).resolve_left hk) fun ht => ?_
      rw [tabGet_tabPut, if_neg hk, ht]

/-! ### Transactions of module memory (R56, R287, R291) -/

theorem mapFirst_length {α : Type} (p : α → Bool) (f : α → α) (l : List α) : (mapFirst p f l).length = l.length := by
  induction l with
  | nil => rfl
  | cons x r ih =>
    rw [mapFirst]
    split_ifs
    · rfl
    · rw [List.length_cons, ih, List.length_cons]

theorem mapFirst_last {α : Type} {p : α → Bool} {l : List α} {x : α} (hl : ∀ y ∈ l, p y = false) (hx : p x = true) (f : α → α) :
    mapFirst p f (l ++ [x]) = l ++ [f x] := by
  induction l with
  | nil => rw [List.nil_append, mapFirst, if_pos hx, List.nil_append]
  | cons y r ih =>
    rw [List.cons_append, mapFirst, if_neg (by rw [hl y (List.mem_cons_self ..)]; decide), ih fun z hz => hl z (List.mem_cons_of_mem _ hz), List.cons_append]

/-- The number of transactions that wait or run. -/
def State.i2cCount (s : State) : Nat := s.evt.i2cQ.length

theorem i2cTake_keeps_count (k n : Nat) : (i2cTake k n).keeps State.i2cCount := by
  refine keeps_look fun s => Act.keeps.acts ⟨fun t => mapFirst_length _ _ _, ?_, trivial⟩
  split
  · exact keeps_skip
  · exact fun t => congrArg (fun e => e.i2cQ.length) ((emit_own _).evt t)

theorem i2cStart_keeps_count (k : Nat) : (i2cStart k).keeps State.i2cCount := by
  refine keeps_look fun s => keeps_when ?_
  dsimp only
  split
  · exact keeps_when (i2cTake_keeps_count _ _)
  · exact i2cTake_keeps_count _ _

/-- A controller on whose bus a transaction runs takes none. -/
theorem run_i2cStart_busy {s : State} {k : Nat} (h : ∃ y ∈ s.evt.i2cQ, y.site / 8 = k ∧ y.onBus = true) : run (i2cStart k) s = s := by
  obtain ⟨y, hy, hk, hb⟩ := h
  have hany : s.evt.i2cQ.any (fun x => x.onBus && x.site / 8 == k) = true := List.any_eq_true.2 ⟨y, hy, by rw [hb, hk]; simp⟩
  rw [i2cStart, run_look, hany, run_when_eq_false (by decide)]

/-- A controller next serves the only mailbox that waits for it. -/
theorem i2cNext_eq {s : State} {k n : Nat} (hn : n < 20) (h : ∀ m, (s.evt.i2cQ.any fun x => x.mbx == m && x.site / 8 == k) = decide (m = n)) :
    s.i2cNext k = some n := by
  have hmem : n ∈ (List.range 20).map fun i => (tabGet s.evt.i2cLast 19 k + 1 + i) % 20 :=
    List.mem_map.2 ⟨(n + 19 * (tabGet s.evt.i2cLast 19 k + 1)) % 20, List.mem_range.2 (Nat.mod_lt _ (by decide)), by omega⟩
  cases hx : s.i2cNext k with
  | none =>
    have hnone := List.find?_eq_none.1 hx n hmem
    rw [h, decide_eq_true rfl] at hnone
    exact absurd rfl hnone
  | some m =>
    have hm := List.find?_some hx
    rw [h] at hm
    rw [of_decide_eq_true hm]

/-- A free controller for which only a mailbox's transaction waits puts it on the bus. -/
theorem run_i2cStart_alone {s : State} {q : List I2cTxn} {x : I2cTxn} (hq : s.evt.i2cQ = q ++ [x]) (hfree : ∀ y ∈ q, y.site / 8 ≠ x.site / 8)
    (hb : x.onBus = false) (hn : x.mbx < 20) : (run (i2cStart (x.site / 8)) s).evt.i2cQ = q ++ [{ x with onBus := true }] ∧
      (run (i2cStart (x.site / 8)) s).out = .i2c x.site (x.op == mbWrite) x.bank x.page x.off x.len x.bytes :: s.out := by
  have hother : ∀ y ∈ q, (y.site / 8 == x.site / 8) = false := fun y hy => beq_eq_false_iff_ne.2 (hfree y hy)
  have hsel : ∀ y ∈ q, (y.mbx == x.mbx && y.site / 8 == x.site / 8) = false := fun y hy => by rw [hother y hy, Bool.and_false]
  have hany : ∀ p : I2cTxn → Bool, (s.evt.i2cQ.any fun y => p y && y.site / 8 == x.site / 8) = p x := fun p => by
    rw [hq, List.any_append, List.any_eq_false.2 fun y hy => by rw [hother y hy, Bool.and_false]; decide]
    simp
  have hown : x.isOwn = false := beq_eq_false_iff_ne.2 (by omega)
  have hnext : s.i2cNext (x.site / 8) = some x.mbx := i2cNext_eq hn fun m => by
    rw [hany fun y => y.mbx == m]
    exact Bool.eq_iff_iff.2 (by rw [beq_iff_eq, decide_eq_true_iff, eq_comm])
  have hfind : s.evt.i2cQ.find? (fun y => y.mbx == x.mbx && y.site / 8 == x.site / 8) = some x := by
    rw [hq, List.find?_append, List.find?_eq_none.2 fun y hy => by rw [hsel y hy]; decide]
    simp
  rw [i2cStart, run_look, hany I2cTxn.onBus, hb, run_when_eq_true (by decide)]
  dsimp only
  rw [hnext, hany I2cTxn.isOwn, hown]
  dsimp only
  rw [Bool.false_and, if_neg (by decide), i2cTake, run_look]
  dsimp only
  rw [hfind, run_acts_cons, run_acts_cons, run_acts_nil]
  refine ⟨?_, rfl⟩
  rw [(emit_own _).evt, run_modEvt]
  dsimp only
  rw [hq, mapFirst_last hsel (by simp)]

/-- The transaction that an operation of a mailbox asks for. -/
def mbxTxn (n idx op len off : Nat) (d : List Word) : I2cTxn :=
  { mbx := n, site := siteOf idx, op := op, bank := idx / 2 ^ 10 % 256, page := idx / 4 % 256, off := off, len := len
    bytes := if op = mbWrite then (wordsBytes d).take len else [] }

theorem run_moduleIo (n idx op len off : Nat) (d : List Word) (s : State) : run (moduleIo n idx op len off d) s =
    run (i2cStart (siteOf idx / 8)) (run (modEvt fun e => { e with i2cQ := e.i2cQ ++ [mbxTxn n idx op len off d] })
      (run (modMbx n fun m => { m with busy := true }) s)) := rfl

theorem moduleIo_busy (n idx op len off : Nat) (d : List Word) (s : State) : ((run (moduleIo n idx op len off d) s).mbox n).busy = true := by
  rw [run_moduleIo, (i2cStart_framed _).mbox, (modEvt_own _).mbox, run_modMbx_self]

/-- A transaction for a free controller crosses the bus at once. -/
theorem moduleIo_free {n idx : Nat} {s : State} (hn : n < 20) (h : ∀ y ∈ s.evt.i2cQ, y.site / 8 ≠ siteOf idx / 8) (op len off : Nat) (d : List Word) :
    (run (moduleIo n idx op len off d) s).evt.i2cQ = s.evt.i2cQ ++ [{ mbxTxn n idx op len off d with onBus := true }] ∧
      (run (moduleIo n idx op len off d) s).out = .i2c (siteOf idx) (op == mbWrite) (idx / 2 ^ 10 % 256) (idx / 4 % 256) off len
        (mbxTxn n idx op len off d).bytes :: s.out := by
  rw [run_moduleIo]
  exact run_i2cStart_alone (x := mbxTxn n idx op len off d) rfl h rfl hn

/-- A transaction for a controller whose bus is taken waits. -/
theorem moduleIo_waits {idx : Nat} {s : State} (h : ∃ y ∈ s.evt.i2cQ, y.site / 8 = siteOf idx / 8 ∧ y.onBus = true) (n op len off : Nat)
    (d : List Word) : (run (moduleIo n idx op len off d) s).evt.i2cQ = s.evt.i2cQ ++ [mbxTxn n idx op len off d] ∧
      (run (moduleIo n idx op len off d) s).out = s.out := by
  obtain ⟨y, hy, hk, hb⟩ := h
  rw [run_moduleIo, run_i2cStart_busy ⟨y, List.mem_append_left _ hy, hk, hb⟩]
  exact ⟨rfl, rfl⟩

/-- What the end of a transaction does at its mailbox. -/
def mbxAnswer (n : Nat) (x : I2cTxn) (resp : Option (List Byte)) : Act :=
  match resp with
  | none => mbxErr n 5
  | some l => mbxOk n (if x.op = mbRead then some (bytesWords ((sliceB l 0 x.len) ++ List.replicate 64 0)) else none)

theorem mbxAnswer_framed (n : Nat) (x : I2cTxn) (resp : Option (List Byte)) :
    (mbxAnswer n x resp).Framed (.mbx :: occurParts) (.MBX_CTL :: .MBX_DATA :: occurRegs) := by
  cases resp with
  | none => exact (mbxErr_framed _ _).widen
  | some l => exact mbxOk_framed _ _

/-- The end of a transaction, of the mailbox that asked for it. -/
theorem run_mbxModuleIoDone {s : State} {n : Nat} {x : I2cTxn} (hx : s.evt.i2cQ.find? (fun y => y.mbx == n && y.onBus) = some x)
    (resp : Option (List Byte)) : run (mbxModuleIoDone n resp) s = run (i2cStart (x.site / 8))
      (run (when (!x.dropped) (mbxAnswer n x resp)) (run (modEvt fun e => { e with i2cQ := e.i2cQ.eraseP fun y => y.mbx == n && y.onBus }) s)) := by
  rw [mbxModuleIoDone, run_look]
  dsimp only
  rw [hx]
  rfl

/-- One transaction fewer waits or runs once one has ended. -/
theorem mbxModuleIoDone_count {s : State} {n : Nat} {x : I2cTxn} (hx : s.evt.i2cQ.find? (fun y => y.mbx == n && y.onBus) = some x)
    (resp : Option (List Byte)) : (run (mbxModuleIoDone n resp) s).evt.i2cQ.length + 1 = s.evt.i2cQ.length := by
  have hpos := List.length_pos_of_mem (List.mem_of_find?_eq_some hx)
  rw [run_mbxModuleIoDone hx, show ∀ t : State, t.evt.i2cQ.length = t.i2cCount from fun _ => rfl, i2cStart_keeps_count, State.i2cCount,
    (Act.Framed.when (mbxAnswer_framed _ _ _)).evt,
    run_modEvt]
  dsimp only
  rw [List.length_eraseP_of_mem (List.mem_of_find?_eq_some hx) (List.find?_some hx)]
  omega

theorem sliceB_whole (l : List Byte) : sliceB l 0 l.length = l :=
  List.ext_getElem (by simp [sliceB]) fun i _ h => by simp [sliceB, List.getElem?_eq_getElem h]

theorem sliceB_append_zeros (l : List Byte) (k o n : Nat) : sliceB (l ++ List.replicate k 0) o n = sliceB l o n := by
  refine List.map_congr_left fun i _ => ?_
  by_cases h : o + i < l.length
  · exact List.getD_append _ _ _ _ h
  · rw [List.getD_append_right _ _ _ _ (by omega), List.getD_eq_default l _ (by omega), List.getD_eq_getElem?_getD, List.getElem?_replicate]
    split_ifs <;> rfl

theorem leNat_lt (l : List Byte) : leNat l < 256 ^ l.length := by
  induction l with
  | nil => decide
  | cons b r ih =>
    have hb := b.isLt
    rw [leNat] at ih
    rw [leNat, List.foldr_cons, List.length_cons, pow_succ]
    omega

theorem leAt_lt (l : List Byte) (o n : Nat) : leAt l o n < 256 ^ n := by
  have h := leNat_lt (sliceB l o n)
  rwa [show (sliceB l o n).length = n by simp [sliceB]] at h

/-- The octets of an answer, in the words of DATA. -/
theorem bytesWords_answer (l : List Byte) (k : Nat) {i : Nat} (hi : i < 16) :
    ((bytesWords (sliceB l 0 l.length ++ List.replicate k 0)).getD i 0).toNat = leAt l (4 * i) 4 := by
  rw [sliceB_whole, bytesWords, List.getD_eq_getElem _ _ (by simpa using hi), List.getElem_map, List.getElem_range, BitVec.toNat_ofNat, leAt,
    sliceB_append_zeros, ← leAt]
  exact Nat.mod_eq_of_lt (leAt_lt l (4 * i) 4)

/-! ### Rows of MBX_CTL -/

section
variable {s : State} {rq : Req} {n op : Nat} {ctl : Word}

theorem mbxStart_setOp (h : mbxGo s rq n op ctl) : (run (mbxStart n ctl) s).mbxSet n (s.fld F.MBX_SEL_BLOCK n) (s.fld F.MBX_SEL_INDEX n) op
    (bits ctl 16 8) (bits ctl 8 8) (mbxData s n) := by
  obtain ⟨-, -, hop, -⟩ := h
  exact hop ▸ mbxStart_set s n ctl

theorem run_mbxRow_fails (h : mbxGo s rq n mbRead ctl) {code : Nat} (hc : s.mbxFault (s.asReq rq) (s.fld F.MBX_SEL_BLOCK n)
    (s.fld F.MBX_SEL_INDEX n) mbRead (bits ctl 16 8) (bits ctl 8 8) (mbxData s n) = code) (hne : code ≠ 0) (h3 : code ≠ 3) :
    run (mbxRow mbRead rq n ctl) s = run (mbxErr n code) (run (mbxStart n ctl) s) := by
  rw [run_mbxRow h]
  exact run_mbxRun_fault (mbxStart_setOp h) ((mbxFault_start _ _ _ _ _ _ _ _ _ _).trans hc) hne h3 (by decide)

theorem run_mbxRow_read (h : mbxGo s rq n mbRead ctl) (hc : mbxGood s rq n mbRead ctl)
    (hv : 0 < cntWidth (s.fld F.MBX_SEL_BLOCK n) (s.fld F.MBX_SEL_INDEX n)) : run (mbxRow mbRead rq n ctl) s =
      run (mbxOk n (some ((run (mbxStart n ctl) s).vidRead (s.fld F.MBX_SEL_BLOCK n) (s.fld F.MBX_SEL_INDEX n)))) (run (mbxStart n ctl) s) := by
  rw [run_mbxRow h]
  exact run_mbxRun_read (mbxStart_setOp h) ((mbxFault_start _ _ _ _ _ _ _ _ _ _).trans hc) rfl hv

theorem run_mbxRow_clear (h : mbxGo s rq n mbClear ctl) (hc : mbxGood s rq n mbClear ctl) : run (mbxRow mbClear rq n ctl) s =
    run (mbxOk n (some ((run (mbxStart n ctl) s).vidRead (s.fld F.MBX_SEL_BLOCK n) (s.fld F.MBX_SEL_INDEX n))))
      (run (vidClear (s.fld F.MBX_SEL_BLOCK n) (s.fld F.MBX_SEL_INDEX n)) (run (mbxStart n ctl) s)) := by
  rw [run_mbxRow h]
  exact run_mbxRun_clear (mbxStart_setOp h) ((mbxFault_start _ _ _ _ _ _ _ _ _ _).trans hc) rfl

theorem run_mbxRow_write (h : mbxGo s rq n mbWrite ctl) (hc : mbxGood s rq n mbWrite ctl) (hv : s.fld F.MBX_SEL_BLOCK n ≠ 0x12) :
    run (mbxRow mbWrite rq n ctl) s = run (mbxOk n none) (run (vidWrite (s.asReq rq) (s.fld F.MBX_SEL_BLOCK n) (s.fld F.MBX_SEL_INDEX n)
      (mbxData s n)) (run (mbxStart n ctl) s)) := by
  rw [run_mbxRow h]
  exact run_mbxRun_write (mbxStart_setOp h) ((mbxFault_start _ _ _ _ _ _ _ _ _ _).trans hc) rfl hv

/-- A read that fails shows its code, and leaves DATA. -/
theorem mbxRow_failed (h : mbxGo s rq n mbRead ctl) {code : Nat} (hc : s.mbxFault (s.asReq rq) (s.fld F.MBX_SEL_BLOCK n)
    (s.fld F.MBX_SEL_INDEX n) mbRead (bits ctl 16 8) (bits ctl 8 8) (mbxData s n) = code) (hne : code ≠ 0) (h3 : code < 3) :
    (run (mbxRow mbRead rq n ctl) s).fld F.MBX_CTL_ERRCODE n = code ∧ mbxEnded (run (mbxRow mbRead rq n ctl) s) n false ∧
      ∀ m, (run (mbxRow mbRead rq n ctl) s).raw .MBX_DATA m = s.raw .MBX_DATA m := by
  rw [run_mbxRow_fails h hc hne (by omega)]
  obtain ⟨hcode, herr, ⟨hgo, -, hdone⟩, hvalid⟩ := mbxErr_spec n (code := code) (by omega) (run (mbxStart n ctl) s)
  refine ⟨hcode, ⟨hvalid.trans (mbxStart_set s n ctl).valid, herr, hgo, hdone⟩, fun m => ?_⟩
  rw [((mbxErr_framed _ _).reg (r := .MBX_DATA) rfl m _).1, ((mbxStart_framed _ _).reg (r := .MBX_DATA) rfl m _).1]

theorem vidClear_err (vid idx m : Nat) : (run (vidClear vid idx) (run (mbxStart m ctl) s)).bit F.MBX_CTL_ERR m = false := by
  rw [(vidClear_framed _ _).bit F.MBX_CTL_ERR]
  exact (mbxStart_set s m ctl).err

end

theorem mbxData_getD (s : State) (n : Nat) {i : Nat} (hi : i < 16) : (mbxData s n).getD i 0 = s.raw .MBX_DATA (16 * n + i) := by
  rw [mbxData, List.getD_eq_getElem _ _ (by simpa using hi), List.getElem_map, List.getElem_range]

theorem pairAt_mbxData (s : State) (n : Nat) {c : Nat} (hc : c < 8) : (pairAt (mbxData s n) c).toNat = mbxData48 s n c := by
  have hlt := (s.raw .MBX_DATA (16 * n + 2 * c)).isLt
  rw [pairAt, mbxData_getD s n (by omega), mbxData_getD s n (by omega), BitVec.toNat_ofNat, mbxData48, ← Nat.add_assoc]
  omega

/-- A read of module memory meets no fault where the site has a module to answer. -/
theorem mbxFault_module {s : State} {rq : Req} {i len off : Nat} (hi : i % 4 = 0) (hreq : rq = .pf0 ∨ rq = .z)
    (hsite : ([siteEmpty, siteReset, siteFaulted] : List Nat).contains (s.site (siteOf i)) = false) (h0 : 0 < len) (hlen : len ≤ 64)
    (hoff : off + len ≤ 256) (d : List Word) : s.mbxFault rq 0x12 i mbRead len off d = 0 := by
  have huse : s.mayUse rq 0x12 i mbRead = true := by rcases hreq with rfl | rfl <;> rfl
  have hvid : vidOk 0x12 i = true := beq_iff_eq.2 hi
  have hoperand : s.vidOperand 0x12 i mbRead len off d = false := by
    simp only [State.vidOperand, if_true]
    exact decide_eq_false (by omega)
  have hstate : s.vidState 0x12 i mbRead = false := by rw [State.vidState, if_pos rfl, hsite]
  rw [State.mbxFault, hvid, huse, hstate, hoperand]
  rfl

/-! ### Values by what a READ_CLEAR clears and a WRITE loads (R282, R290) -/

theorem vidClear_cnt {vid idx : Nat} (h : 0 < cntWidth vid idx) : vidClear vid idx = cntLoad vid idx [] := if_pos h
theorem vidClear_occ (idx : Nat) : vidClear 0x01 idx = each (List.range 32) fun i => .upd (.occ (32 * idx + i) 0) := if_neg (Nat.lt_irrefl 0)
theorem vidClear_perf (idx : Nat) : vidClear 0x60 idx =
    if idx % 2 = 0 then modPerf (idx / 2) fun P => { P with pc := [] } else modPerf (idx / 2) fun P => { P with cyc := 0 } :=
  if_neg (Nat.lt_irrefl 0)
theorem vidClear_bwm (idx : Nat) : vidClear 0x62 idx = acts [setF F.BWM_RX_MAX_COUNT idx 0, setF F.BWM_TX_MAX_COUNT idx 0] :=
  if_neg (Nat.lt_irrefl 0)
theorem vidClear_hist (idx : Nat) : vidClear 0x90 idx = modThm fun h => { h with hist := [] } := if_neg (Nat.lt_irrefl 0)

section
variable (rq : Req) (idx : Nat) (d : List Word)

theorem vidWrite_cnt {vid : Nat} (h : 0 < cntWidth vid idx) : vidWrite rq vid idx d = cntLoad vid idx d := if_pos h
theorem vidWrite_hl : vidWrite rq 0x40 idx d = hlWrite idx d := if_neg (Nat.lt_irrefl 0)
theorem vidWrite_bfd : vidWrite rq 0x44 idx d = modBfd idx fun b => { b with pendWr := some (d.take 14), zol := d.take 14 } :=
  if_neg (Nat.lt_irrefl 0)
theorem vidWrite_routes : vidWrite rq 0x55 idx d = modTime fun t => { t with routes := d.take 15 } := if_neg (Nat.lt_irrefl 0)
theorem vidWrite_unicast : vidWrite rq 0x57 idx d = modTime fun t => { t with unicast := tabPut t.unicast [] idx (d.take 5) } :=
  if_neg (Nat.lt_irrefl 0)
theorem vidWrite_perf : vidWrite rq 0x60 idx d =
    if idx % 2 = 0 then
      modPerf (idx / 2) fun P => { P with pc := (List.range 8).foldl (fun t n => tabPut t 0 n (pairAt d n)) P.pc }
    else modPerf (idx / 2) fun P => { P with cyc := BitVec.ofNat 64 ((d.getD 0 0).toNat + (d.getD 1 0).toNat * 2 ^ 32) } :=
  if_neg (Nat.lt_irrefl 0)
theorem vidWrite_key : vidWrite rq 0x73 idx d =
    modSec fun c => { c with reqKeys := tabPut c.reqKeys 0 idx (BitVec.ofNat 512 (beNat (wordsBytes d))) } := if_neg (Nat.lt_irrefl 0)

end

/-- What an entry of an hours list holds after a write of it. -/
theorem hlWrite_entry (idx : Nat) (d : List Word) (s : State) : tabGet (if idx / 256 % 2 = 0 then ((run (hlWrite idx d) s).port (idx / 512)).hl0
    else ((run (hlWrite idx d) s).port (idx / 512)).hl1) {} (idx % 256) = { ns := (d.getD 0 0).toNat, gates := (d.getD 1 0).setWidth 9 } := by
  rw [hlWrite, run_modPort_self]
  split_ifs <;> exact tabGet_tabPut_self _ _ _ _

/-! ### The clauses -/

section
variable {s : State} {rq : Req} {n : Nat} {ctl : Word}

theorem mbxRow_read_counter (hgo : mbxGo s rq n mbRead ctl) (hgood : mbxGood s rq n mbRead ctl) {c : Nat}
    (hc : c < cntWidth (s.fld F.MBX_SEL_BLOCK n) (s.fld F.MBX_SEL_INDEX n)) :
    (((run (mbxRow mbRead rq n ctl) s).raw .MBX_DATA (16 * n + 2 * c)).toNat =
        (s.cntOf (cntKey (s.fld F.MBX_SEL_BLOCK n) (s.fld F.MBX_SEL_INDEX n) c)).toNat % 2 ^ 32 ∧
      ((run (mbxRow mbRead rq n ctl) s).raw .MBX_DATA (16 * n + 2 * c + 1)).toNat =
        (s.cntOf (cntKey (s.fld F.MBX_SEL_BLOCK n) (s.fld F.MBX_SEL_INDEX n) c)).toNat / 2 ^ 32) ∧
    (∀ j, 2 * cntWidth (s.fld F.MBX_SEL_BLOCK n) (s.fld F.MBX_SEL_INDEX n) ≤ j → j < 16 →
      (run (mbxRow mbRead rq n ctl) s).raw .MBX_DATA (16 * n + j) = 0) ∧
    mbxEnded (run (mbxRow mbRead rq n ctl) s) n true ∧ (run (mbxRow mbRead rq n ctl) s).cnt = s.cnt := by
  have hwide : 0 < cntWidth (s.fld F.MBX_SEL_BLOCK n) (s.fld F.MBX_SEL_INDEX n) := by omega
  rw [run_mbxRow_read hgo hgood hwide]
  have hwords := mbxOk_counter hc n (run (mbxStart n ctl) s) (run (mbxStart n ctl) s)
  rw [(mbxStart_framed n ctl).cntOf] at hwords
  exact ⟨hwords, fun j hj hj' => mbxOk_past hwide hj hj' _ _ _, mbxOk_ended (mbxStart_set s n ctl).err _,
    ((mbxOk_framed _ _).cnt _).trans ((mbxStart_framed n ctl).cnt s)⟩

theorem mbxRow_clear_counter (hgo : mbxGo s rq n mbClear ctl) (hgood : mbxGood s rq n mbClear ctl) {c : Nat}
    (hc : c < cntWidth (s.fld F.MBX_SEL_BLOCK n) (s.fld F.MBX_SEL_INDEX n))
    (h0 : ¬(s.fld F.MBX_SEL_BLOCK n = 0x11 ∧ s.fld F.MBX_SEL_INDEX n % 2 = 1 ∧ c = 4)) :
    ((run (mbxRow mbClear rq n ctl) s).raw .MBX_DATA (16 * n + 2 * c)).toNat =
        (s.cntOf (cntKey (s.fld F.MBX_SEL_BLOCK n) (s.fld F.MBX_SEL_INDEX n) c)).toNat % 2 ^ 32 ∧
      ((run (mbxRow mbClear rq n ctl) s).raw .MBX_DATA (16 * n + 2 * c + 1)).toNat =
        (s.cntOf (cntKey (s.fld F.MBX_SEL_BLOCK n) (s.fld F.MBX_SEL_INDEX n) c)).toNat / 2 ^ 32 ∧
      (run (mbxRow mbClear rq n ctl) s).cntOf (cntKey (s.fld F.MBX_SEL_BLOCK n) (s.fld F.MBX_SEL_INDEX n) c) = 0 := by
  rw [run_mbxRow_clear hgo hgood]
  obtain ⟨hlow, hhigh⟩ := mbxOk_counter hc n (run (mbxStart n ctl) s)
    (run (vidClear (s.fld F.MBX_SEL_BLOCK n) (s.fld F.MBX_SEL_INDEX n)) (run (mbxStart n ctl) s))
  rw [(mbxStart_framed n ctl).cntOf] at hlow hhigh
  refine ⟨hlow, hhigh, ?_⟩
  rw [(mbxOk_framed _ _).cntOf, vidClear_cnt (by omega), cntLoad_cntOf hc h0]
  simp [pairAt]

theorem mbxRow_clear_ended (hgo : mbxGo s rq n mbClear ctl) (hgood : mbxGood s rq n mbClear ctl) :
    mbxEnded (run (mbxRow mbClear rq n ctl) s) n true := by
  rw [run_mbxRow_clear hgo hgood]
  exact mbxOk_ended (vidClear_err _ _ _) _

theorem mbxRow_write_ended (hgo : mbxGo s rq n mbWrite ctl) (hgood : mbxGood s rq n mbWrite ctl) (hv : s.fld F.MBX_SEL_BLOCK n ≠ 0x12) :
    mbxEnded (run (mbxRow mbWrite rq n ctl) s) n true := by
  rw [run_mbxRow_write hgo hgood hv]
  refine mbxOk_ended ?_ _
  rw [(vidWrite_framed _ _ _ _).bit F.MBX_CTL_ERR]
  exact (mbxStart_set s n ctl).err

theorem mbxRow_write_counter (hgo : mbxGo s rq n mbWrite ctl) (hgood : mbxGood s rq n mbWrite ctl) {c : Nat}
    (hc : c < cntWidth (s.fld F.MBX_SEL_BLOCK n) (s.fld F.MBX_SEL_INDEX n))
    (h0 : ¬(s.fld F.MBX_SEL_BLOCK n = 0x11 ∧ s.fld F.MBX_SEL_INDEX n % 2 = 1 ∧ c = 4)) :
    ((run (mbxRow mbWrite rq n ctl) s).cntOf (cntKey (s.fld F.MBX_SEL_BLOCK n) (s.fld F.MBX_SEL_INDEX n) c)).toNat = mbxData48 s n c ∧
      mbxEnded (run (mbxRow mbWrite rq n ctl) s) n true := by
  have hne : s.fld F.MBX_SEL_BLOCK n ≠ 0x12 := fun e => by
    rw [e] at hc
    exact absurd hc (Nat.not_lt_zero c)
  have h8 := cntWidth_le (s.fld F.MBX_SEL_BLOCK n) (s.fld F.MBX_SEL_INDEX n)
  refine ⟨?_, mbxRow_write_ended hgo hgood hne⟩
  rw [run_mbxRow_write hgo hgood hne, (mbxOk_framed _ _).cntOf, vidWrite_cnt _ _ _ (by omega), cntLoad_cntOf hc h0, pairAt_mbxData s n (by omega)]

/-- A GO while an operation runs is turned away. -/
theorem mbxRow_rejected (htake : s.takes rq .MBX_CTL n = true) (hctl : ctl.getLsbD 31 = true) (hop : bits ctl 0 4 = mbRead)
    (hbusy : s.bit F.MBX_CTL_GO n = true) : run (mbxRow mbRead rq n ctl) s = run (reject3 .dma (s.asReq rq) .MBX_CTL n) s := by
  rw [mbxRow, run_when_eq_true (by rw [hctl, hop]; decide), mbxCtl, run_onWrite htake, run_look]
  dsimp only
  rw [if_neg (by rw [hctl]; decide), if_pos hbusy]

/-- A read of module memory becomes a transaction for the controller of the site. -/
theorem run_mbxRow_module (hgo : mbxGo s rq n mbRead ctl) (hv : s.fld F.MBX_SEL_BLOCK n = 0x12)
    (hgood : s.mbxFault (s.asReq rq) 0x12 (s.fld F.MBX_SEL_INDEX n) mbRead (bits ctl 16 8) (bits ctl 8 8) (mbxData s n) = 0) :
    run (mbxRow mbRead rq n ctl) s = run (moduleIo n (s.fld F.MBX_SEL_INDEX n) mbRead (bits ctl 16 8) (bits ctl 8 8)
      (mbxData s n)) (run (mbxStart n ctl) s) := by
  rw [run_mbxRow hgo]
  exact run_mbxRun_module (mbxStart_setOp hgo) ((mbxFault_start _ _ _ _ _ _ _ _ _ _).trans hgood) hv

end

section
variable {s : State} {n : Nat} {x : I2cTxn} (hx : s.evt.i2cQ.find? (fun y => y.mbx == n && y.onBus) = some x)
include hx

/-- A module that did not respond ends the operation with code 0x5. -/
theorem mbxModuleIoDone_none (hd : x.dropped = false) : (run (mbxModuleIoDone n none) s).fld F.MBX_CTL_ERRCODE n = 5 ∧
    (run (mbxModuleIoDone n none) s).bit F.MBX_CTL_ERR n = true ∧ (run (mbxModuleIoDone n none) s).mbxOver n := by
  rw [run_mbxModuleIoDone hx, hd, run_when_eq_true (by decide), mbxAnswer]
  obtain ⟨hcode, herr, ⟨hgo, hfree, hdone⟩, -⟩ := mbxErr_spec n (code := 5) (by decide)
    (run (modEvt fun e => { e with i2cQ := e.i2cQ.eraseP fun y => y.mbx == n && y.onBus }) s)
  refine ⟨?_, ?_, ?_, ?_, fun h => ?_⟩
  · rwa [(i2cStart_framed _).keepFld]
  · rwa [(i2cStart_framed _).keepBit]
  · rwa [(i2cStart_framed _).keepBit]
  · rwa [(i2cStart_framed _).mbox]
  · rw [((i2cStart_framed _).reg rfl _ _).1, hdone h]

/-- The octets that a module answers a read with. -/
theorem mbxModuleIoDone_some (hd : x.dropped = false) (hop : x.op = mbRead) {l : List Byte} (hl : l.length = x.len) {i : Nat} (hi : i < 16) :
    ((run (mbxModuleIoDone n (some l)) s).raw .MBX_DATA (16 * n + i)).toNat = leAt l (4 * i) 4 ∧
      (run (mbxModuleIoDone n (some l)) s).bit F.MBX_CTL_VALID n = true ∧ (run (mbxModuleIoDone n (some l)) s).mbxOver n := by
  rw [run_mbxModuleIoDone hx, hd, run_when_eq_true (by decide)]
  rw [mbxAnswer, if_pos hop, ← hl]
  obtain ⟨⟨hgo, hfree, hdone⟩, hvalid⟩ := mbxOk_over n (some (bytesWords (sliceB l 0 l.length ++ List.replicate 64 0)))
    (run (modEvt fun e => { e with i2cQ := e.i2cQ.eraseP fun y => y.mbx == n && y.onBus }) s)
  refine ⟨?_, ?_, ?_, ?_, fun h => ?_⟩
  · rw [((i2cStart_framed _).reg rfl _ _).1, mbxOk_data n _ hi, bytesWords_answer l 64 hi]
  · rwa [(i2cStart_framed _).keepBit]
  · rwa [(i2cStart_framed _).keepBit]
  · rwa [(i2cStart_framed _).mbox]
  · rw [((i2cStart_framed _).reg rfl _ _).1, hdone h]

/-- The result of a mailbox that has been reset changes no register. -/
theorem mbxModuleIoDone_dropped (hd : x.dropped = true) (resp : Option (List Byte)) : (run (mbxModuleIoDone n resp) s).regs = s.regs := by
  rw [run_mbxModuleIoDone hx, hd, run_when_eq_false (by decide), show ∀ t : State, (run (i2cStart (x.site / 8)) t).regs = t.regs from
    fun t => (i2cStart_framed _).part .regs t]
  rfl

end

/-- Where no transaction of a mailbox is on a bus none ends. -/
theorem mbxModuleIoDone_idle {s : State} {n : Nat} (h : ∀ x ∈ s.evt.i2cQ, x.mbx = n → x.onBus = false) (resp : Option (List Byte)) :
    run (mbxModuleIoDone n resp) s = s := by
  have hnone : s.evt.i2cQ.find? (fun y => y.mbx == n && y.onBus) = none := List.find?_eq_none.2 fun x hx hb => by
    obtain ⟨hm, hon⟩ := Bool.and_eq_true_iff.1 hb
    exact absurd hon (by rw [h x hx (beq_iff_eq.1 hm)]; decide)
  rw [mbxModuleIoDone, run_look]
  dsimp only
  rw [hnone]
  rfl

/-! ### The obligation -/

/-- Settles O56: each operation starts, does what its value asks, and ends; a transaction of module memory ends with its result. -/
theorem mailboxesOperate : Obligations.MailboxesOperate := by
  refine ⟨fun s rq n ctl c hgo hgood hc => ?_, fun s rq n ctl c hgo hgood hc h0 => ?_, fun s rq n ctl hgo hgood => ?_,
    fun s rq n ctl c hgo hgood hc h0 => ?_, fun s rq n ctl hgo hgood => ?_, fun s rq n ctl hgo hvid => ?_, fun s rq n ctl hgo hvid huse => ?_,
    fun s rq n ctl htake hctl hop hbusy => ?_, fun s rq n ctl hgo hvid hidx hreq hsite hlen0 hlen hoff => ?_, fun s n x hhalt hx hdrop => ?_,
    fun s n l i x hhalt hx hdrop hop hlen hl => ?_, fun s n x l hhalt hx hdrop => ?_, fun s n l hnone => ?_⟩
  · exact completes_run (a := mbxRow mbRead rq n ctl) rfl (mbxRow_read_counter hgo ((mbxFault_read _ _ _ _ _ _ _ _).trans hgood) hc)
  · exact completes_run (a := mbxRow mbClear rq n ctl) rfl ⟨mbxRow_clear_counter hgo hgood hc h0, mbxRow_clear_ended hgo hgood⟩
  · refine completes_run (a := mbxRow mbClear rq n ctl) rfl ⟨mbxRow_clear_ended hgo hgood, ?_⟩
    rw [run_mbxRow_clear hgo hgood]
    refine ⟨fun hv hne i hi => ?_, fun hv h2 c hc => ?_, fun hv h2 => ?_, fun hv => ?_, fun hv => ?_⟩
    · rw [mbxOk_occOf _ _ _ (by omega), hv, vidClear_occ]
      exact each_occ_zero _ hi _
    · rw [State.pcOf, (mbxOk_framed _ _).perfB, hv, vidClear_perf, if_pos h2, run_modPerf_self]
      rfl
    · rw [(mbxOk_framed _ _).perfB, hv, vidClear_perf, if_neg (by omega), run_modPerf_self]
    · rw [(mbxOk_framed _ _).fld F.BWM_RX_MAX_COUNT, (mbxOk_framed _ _).fld F.BWM_TX_MAX_COUNT, hv, vidClear_bwm, run_acts_cons,
        run_acts_cons, run_acts_nil, setF_fld_apart _ _ _ _ _ _ (by decide) (by decide), setF_fld _ _ _ _ (by decide), setF_fld _ _ _ _ (by decide)]
      exact ⟨rfl, rfl⟩
    · rw [(mbxOk_framed _ _).thm, hv, vidClear_hist, run_modThm]
  · exact completes_run (a := mbxRow mbWrite rq n ctl) rfl (mbxRow_write_counter hgo hgood hc h0)
  · refine completes_run (a := mbxRow mbWrite rq n ctl) rfl ⟨mbxRow_write_ended hgo hgood, ?_⟩
    have hrun := run_mbxRow_write hgo hgood
    refine ⟨fun hv h2 => ?_, fun hv h2 => ?_, fun hv => ?_, fun hv => ?_, fun hv => ?_, fun hv h2 c hc => ?_, fun hv h2 => ?_, fun hv => ?_⟩
    all_goals rw [hrun (by rw [hv]; decide), hv]
    · have h := hlWrite_entry (s.fld F.MBX_SEL_INDEX n) (mbxData s n) (run (mbxStart n ctl) s)
      rw [if_pos h2] at h
      rw [(mbxOk_framed _ _).port, vidWrite_hl, h]
    · have h := hlWrite_entry (s.fld F.MBX_SEL_INDEX n) (mbxData s n) (run (mbxStart n ctl) s)
      rw [if_neg (by omega)] at h
      rw [(mbxOk_framed _ _).port, vidWrite_hl, h]
    · rw [(mbxOk_framed _ _).bfdS, vidWrite_bfd, run_modBfd_self]
    · rw [(mbxOk_framed _ _).time, vidWrite_routes, run_modTime]
    · rw [(mbxOk_framed _ _).time, vidWrite_unicast, run_modTime]
      dsimp only
      rw [tabGet_tabPut_self]
    · rw [State.pcOf, (mbxOk_framed _ _).perfB, vidWrite_perf, if_pos h2, run_modPerf_self]
      dsimp only
      rw [tabGet_foldl_tabPut 0 (pairAt (mbxData s n)) _ _ (.inl (List.mem_range.2 hc)), pairAt_mbxData s n hc]
    · have hlo := ((mbxData s n).getD 0 0).isLt
      have hhi := ((mbxData s n).getD 1 0).isLt
      rw [(mbxOk_framed _ _).perfB, vidWrite_perf, if_neg (by omega), run_modPerf_self, BitVec.toNat_ofNat]
      omega
    · rw [(mbxOk_framed _ _).sec, vidWrite_key, run_modSec]
      dsimp only
      rw [tabGet_tabPut_self]
  · refine completes_run (a := mbxRow mbRead rq n ctl) rfl (mbxRow_failed hgo ?_ (by decide) (by decide))
    rw [State.mbxFault, hvid]
    rfl
  · refine completes_run (a := mbxRow mbRead rq n ctl) rfl (mbxRow_failed hgo ?_ (by decide) (by decide))
    rw [State.mbxFault, hvid, huse]
    simp [mbRead, mbWrite]
  · refine completes_run (a := mbxRow mbRead rq n ctl) rfl ?_
    rw [mbxRow_rejected htake hctl hop hbusy]
    exact ⟨reject3_turned .dma _ _ _ _, ((reject3_own _ _ _ _).reg (r := .MBX_CTL) rfl _ _).1⟩
  · refine completes_run (a := mbxRow mbRead rq n ctl) rfl ?_
    have hevt := (mbxStart_framed n ctl).evt s
    have hout := (mbxStart_framed n ctl).out s
    rw [run_mbxRow_module hgo hvid (mbxFault_module hidx hreq hsite hlen0 hlen hoff _), ← hevt, ← hout]
    exact ⟨moduleIo_busy _ _ _ _ _ _ _, ((moduleIo_framed _ _ _ _ _ _).bit F.MBX_CTL_GO _ _).trans (mbxStart_set s n ctl).go,
      fun hfree => moduleIo_free n.isLt hfree _ _ _ _, fun htaken => moduleIo_waits htaken _ _ _ _ _⟩
  · refine completes_run (a := coreDo (mbxModuleIoDone n none)) rfl ?_
    rw [run_coreDo _ _ hhalt]
    obtain ⟨hcode, herr, hgo, hfree, hdone⟩ := mbxModuleIoDone_none hx hdrop
    exact ⟨hcode, herr, hgo, hfree, hdone, mbxModuleIoDone_count hx none⟩
  · refine completes_run (a := coreDo (mbxModuleIoDone n (some l))) rfl ?_
    rw [run_coreDo _ _ hhalt]
    obtain ⟨hdata, hvalid, hgo, hfree, hdone⟩ := mbxModuleIoDone_some hx hdrop hop hl i.isLt
    exact ⟨hdata, hvalid, hgo, hfree, hdone, mbxModuleIoDone_count hx (some l)⟩
  · refine completes_run (a := coreDo (mbxModuleIoDone n l)) rfl ?_
    rw [run_coreDo _ _ hhalt]
    exact ⟨mbxModuleIoDone_dropped hx hdrop l, mbxModuleIoDone_count hx l⟩
  · refine completes_run (a := coreDo (mbxModuleIoDone n l)) rfl ?_
    cases hhalt : s.halted with
    | true => exact run_coreDo_halted _ _ hhalt
    | false => exact (run_coreDo _ _ hhalt).trans (mbxModuleIoDone_idle hnone l)

end Sys2Proof.Machine
end

section
/-!
PROOF. The completion record of a descriptor (R365, R369) whose stream in progress keeps a tag of more than the 4 octets of a descriptor.
-/
set_option Elab.async false
namespace Sys2Proof.Machine

/-- The running device as the host's, whose host ring has a stream in progress with every command run. Its tag has 5 octets, one more than
a descriptor gives. -/
def longTag : State :=
  Tests.hostDev [modDma fun d => { d with cur := [(0, some { tag := List.replicate 5 1#8 })] }]

/-- The record of 17 octets begins at address 0, and its last octet is PHASE. -/
theorem longTag_record : longTag.cplAddr 0 = 0 ∧ longTag.hostByte 16 = 0#8 ∧
    (run (coreDo (dmaDescriptorExecute 0 [] none)) longTag).hostByte 16 = 1#8 := by decide +kernel

/-- No command of the stream is left. -/
theorem longTag_streamOf : streamOf longTag 0 [] none = [] := by decide +kernel

/-- Refutes O7: the clause on descriptors lets a completion record change 16 octets of host memory, which holds where the tag has the 4 octets
that a fetched descriptor gives, and the clause does not bound the tag of a stream in progress. In `longTag` the record has 17 octets. -/
theorem not_tableFrames : ¬ Obligations.TableFrames := by
  unfold Obligations.TableFrames
  rintro ⟨-, -, -, hdescriptor, -⟩
  obtain ⟨haddr, hbefore, hafter⟩ := longTag_record
  obtain ⟨-, hhost⟩ := hdescriptor 0 [] none longTag _ rfl
  have hkeep : (run (coreDo (dmaDescriptorExecute 0 [] none)) longTag).hostByte 16 = longTag.hostByte 16 := by
    refine hhost 16 ?_ (.inr ?_)
    · rw [show streamOf longTag ((0 : Fin 2) : Nat) [] none = [] from longTag_streamOf]
      exact fun c hc => absurd hc (by simp [streamCmds])
    · rw [show longTag.cplAddr ((0 : Fin 2) : Nat) = 0 from haddr]
  rw [hafter, hbefore] at hkeep
  exact absurd hkeep (by decide)

end Sys2Proof.Machine
end

section
/-!
PROOF. The table calls of the engines (R94, R141, R148): the call is taken from the engine, and its result is brought or its write staged.
-/
set_option Elab.async false
namespace Sys2Proof.Machine

/-! ### Changes of an engine -/

theorem engine_modEng (e : Eng) (f : Engine → Engine) (s : State) : (run (modEng e f) s).engine e = f (s.engine e) := by
  cases e with
  | hewer i j => exact engine_modEng_hewer i j f s
  | pe => rfl

theorem engine_setRes (e : Eng) (x : Nat) (hit : Bool) (s : State) :
    (run (setRes e x hit) s).engine e = { s.engine e with res := some (words128 x), resHit := hit } := engine_modEng _ _ _

theorem engine_stage (e : Eng) (top sel i : Nat) (ws : List (BitVec 32)) (s : State) :
    (run (stage e top sel i ws) s).engine e = { s.engine e with staged := (s.engine e).staged ++ [(top, sel, i, ws)] } := engine_modEng _ _ _

/-- An engine whose call has been made: its result comes, empty but for a read. -/
def Engine.called (g : Engine) : Engine := { g with call := none, res := some [], resHit := g.thit }

theorem flatE_called (e : Eng) (s : State) (k : Nat) : (run (modEng e Engine.called) s).flatE k = s.flatE k := by
  rw [State.flatE, (modEng_framed _ _).flat, State.flatE]

/-! ### Calls -/

section
variable {s : State} {e : Eng} {top sel i : Nat} (hcall : (s.engine e).call = some (top, sel, i)) (hheld : (s.engine e).held = none)
include hcall hheld

theorem run_makeCall (k : Nat → Nat → Engine → Act) :
    run (makeCall e top k) s = run (k sel i (s.engine e)) (run (modEng e Engine.called) s) := by
  simp only [makeCall, run_look, hcall, hheld, Option.isNone_none, and_self, if_true, run_acts_cons, run_acts_nil]
  rfl

end

/-- The timestamp kept for an index is brought (log 25). -/
theorem tsRead_hit {s : State} {sel i : Nat} {x : Nat × Nat × Bool} (hcall : s.pe.eng.call = some (13, sel, i)) (hheld : s.pe.eng.held = none)
    (hx : (s.pe.txts.find? fun e => e.1 == i % 2 ^ 17) = some x) :
    (run tsRead s).pe.eng = { s.pe.eng.called with res := some (words128 (tsWords x.2.1 x.2.2)), resHit := true } := by
  rw [tsRead, run_makeCall (e := .pe) hcall hheld, run_look, show (run (modEng .pe Engine.called) s).pe.txts = s.pe.txts from rfl, hx]
  rfl

/-- Where none is kept the read misses. -/
theorem tsRead_miss {s : State} {sel i : Nat} (hcall : s.pe.eng.call = some (13, sel, i)) (hheld : s.pe.eng.held = none)
    (hx : (s.pe.txts.find? fun e => e.1 == i % 2 ^ 17) = none) :
    (run tsRead s).pe.eng = { s.pe.eng.called with res := some (words128 0), resHit := false } := by
  rw [tsRead, run_makeCall (e := .pe) hcall hheld, run_look, show (run (modEng .pe Engine.called) s).pe.txts = s.pe.txts from rfl, hx]
  rfl

/-- A result of words is put in T0 to T3. -/
theorem tableCallResult_words {s : State} {e : Eng} {l : List (BitVec 32)} (hres : (s.engine e).res = some l) (hl : l ≠ []) :
    ((run (tableCallResult e) s).engine e).res = none ∧ ((run (tableCallResult e) s).engine e).thit = (s.engine e).resHit ∧
      ∀ i, i < 4 → tabGet ((run (tableCallResult e) s).engine e).t 0 i = l.getD i 0 := by
  rw [tableCallResult, engine_modEng, hres]
  refine ⟨rfl, rfl, fun i hi => ?_⟩
  have hne : l.isEmpty = false := by simpa using hl
  dsimp only
  rw [hne, if_neg Bool.false_ne_true, tabGet_foldl_tabPut 0 (l.getD · 0) _ _ (.inl (List.mem_range.2 hi))]

/-- Settles O40: a call is taken from its engine; reads set the result, the other calls stage a write. -/
theorem tableCallsAreMade : Obligations.TableCallsAreMade := by
  refine ⟨fun s e sel i hhalt hcall hheld => ?_, fun s e sel i hhalt hcall hheld => ?_, fun s e sel i hhalt hcall hheld => ?_,
    fun s e sel i hhalt hcall hheld => ?_, fun s sel i hhalt hcall hheld => ?_, fun s sel i hhalt hcall hheld => ?_,
    fun s sel i hhalt hcall hheld => ?_, fun s sel i hhalt hcall hheld => ?_, fun s sel i hhalt hcall hheld => ?_,
    fun s sel i hhalt hcall hheld => ?_, fun s e l hhalt hres hl => ?_⟩
  all_goals refine completes_run rfl ?_; rw [run_coreDo _ _ hhalt]
  · rw [nhRead, run_makeCall hcall hheld, run_look, engine_setRes, engine_modEng, flatE_called]
    exact ⟨rfl, rfl, rfl⟩
  · rw [rwRead, run_makeCall hcall hheld, run_look, engine_setRes, engine_modEng, flatE_called]
    exact ⟨rfl, rfl⟩
  · rw [bdRead, run_makeCall hcall hheld, run_look, engine_setRes, engine_modEng, flatE_called]
    exact ⟨rfl, rfl⟩
  · rw [countCall, run_makeCall hcall hheld, engine_stage, engine_modEng]
    exact ⟨rfl, rfl⟩
  · rw [stRead, run_makeCall (e := .pe) hcall hheld]
    exact ⟨rfl, rfl⟩
  · rw [stWrite, run_makeCall (e := .pe) hcall hheld]
    exact ⟨rfl, rfl, rfl⟩
  · rw [msgPost, run_makeCall (e := .pe) hcall hheld]
    exact ⟨rfl, rfl, rfl⟩
  · rw [timerSet, run_makeCall (e := .pe) hcall hheld]
    exact ⟨rfl, rfl⟩
  · rw [txFrame, run_makeCall (e := .pe) hcall hheld]
    exact ⟨rfl, rfl⟩
  · cases hx : s.pe.txts.find? fun e => e.1 == i % 2 ^ 17 with
    | some x =>
      rw [tsRead_hit hcall hheld hx]
      exact ⟨rfl, rfl, rfl⟩
    | none =>
      rw [tsRead_miss hcall hheld hx]
      exact ⟨rfl, rfl⟩
  · exact tableCallResult_words hres hl

end Sys2Proof.Machine
end

section
/-!
PROOF. The deletion of a prefix (R114, R118) in an aisle whose tile counts more entries than it has.
-/
set_option Elab.async false
namespace Sys2Proof.Machine

/-- LPM_DELETE of the default route of VRF 0. -/
def defaultRouteDelete : List Byte := Tests.cmdB opLpmDelete 13 0 1 (List.replicate 32 0)

def defaultRoute : Prefix := { v6 := false, vrf := 0, addr := 0, len := 0 }

/-- The running device, with the default route in the last entry of tile 99 of aisle 0 and in entry 0 of tile 0 of aisle 1, the tiles of slot
62 there. USED of tile 99 is 2,049, one more than the entries of a tile. -/
def overfullTile : State :=
  Tests.tune [setF F.AISLE_LPM_MAP_TILE 62 99, setF F.AISLE_LPM_MAP_TILE 126 0, setUsed 0 99 2049, setUsed 1 0 1,
    putTile 0 99 2047 (defaultRoute.entry 0), putTile 1 0 0 (defaultRoute.entry 0)]

theorem overfullTile_can : overfullTile.halted = false ∧ dmaCan overfullTile 1 defaultRouteDelete opLpmDelete = true := by decide +kernel

theorem overfullTile_noRebuild : noRebuild overfullTile := by decide +kernel

theorem overfullTile_holds :
    ((overfullTile.candSlots 1 defaultRoute).findSome? fun n =>
      (overfullTile.presentAt 1 (overfullTile.lpmTile 1 n) (defaultRoute.entry 0)).map (n, ·)) = some (62, 0) := by decide +kernel

theorem overfullTile_before : overfullTile.cntOf (cntKey 0x1A 2 1) = 0 := by decide +kernel

/-- The deletion in aisle 0 closes its gap with the entry that USED counts past the tile, which is entry 0 of aisle 1. Aisle 1 then finds no
prefix to delete, and counts no deletion. -/
theorem overfullTile_after : (run (coreDo (dmaRow opLpmDelete 1 defaultRouteDelete)) overfullTile).cntOf (cntKey 0x1A 2 1) = 0 := by
  decide +kernel

/-- Refutes O47: the clause on LPM_DELETE does not bound USED by the entries of a tile, a bound that insertions keep (R114, R117). In
`overfullTile` the deletion in aisle 0 moves the entry that aisle 1 would delete. -/
theorem not_tableCommandsOfARing : ¬ Obligations.TableCommandsOfARing := by
  unfold Obligations.TableCommandsOfARing
  rintro ⟨-, -, -, -, -, -, -, -, -, -, -, hdelete, -⟩
  obtain ⟨hrun, hcan⟩ := overfullTile_can
  have h := completes_next (a := coreDo (dmaRow opLpmDelete 1 defaultRouteDelete)) rfl
    (hdelete overfullTile 1 defaultRouteDelete (List.replicate 32 0) defaultRoute hrun hcan overfullTile_noRebuild (by decide +kernel)
      (by decide +kernel))
  obtain ⟨-, hcount⟩ := h 1 62 0 (by decide) (by decide +kernel) overfullTile_holds
  rw [show overfullTile.cntOf (cntKey 0x1A (2 * 1) 1) = 0 from overfullTile_before] at hcount
  exact absurd (overfullTile_after.symm.trans hcount) (by decide)

end Sys2Proof.Machine
end

section
/-!
PROOF. A dispatch entry that is not valid, where the protocol engine fetches by it (R143).
-/
set_option Elab.async false
namespace Sys2Proof.Machine

/-- The protocol engine drops the work item of such an entry, and its routine does not end as an abort. -/
theorem fin_dispatchMiss_pe (s : State) : (run (dispatchMiss .pe) s).pe.eng.fin = s.pe.eng.fin := by
  simp only [dispatchMiss, run_acts_cons, run_acts_nil, run_look]
  rw [(peFreeFrame_framed _).pe]
  show (run (count _ _ _ _) s).pe.eng.fin = _
  rw [(count_own _ _ _ _).pe]

/-- An engine that may run has a routine, running or about to start. -/
theorem idle_of_engineOn {s : State} {e : Eng} (hon : s.engineOn e = true) : (s.engine e).idle = false := by
  simp only [State.engineOn, Bool.and_eq_true, Bool.or_eq_true] at hon
  obtain ⟨⟨⟨⟨⟨-, hrun⟩, -⟩, -⟩, -⟩, -⟩ := hon
  rcases hrun with hrun | hdisp
  · simp [Engine.idle, hrun]
  · simp [Engine.idle, Option.isNone_eq_false_iff.2 hdisp]

/-- An engine that may run, and fetches by an entry of good parity that is not valid, runs no routine. -/
theorem run_microwordExecute_miss {s : State} {e : Eng} (hon : s.engineOn e = true)
    (hbad : (s.store (engStore e)).bad.contains ((s.engine e).fetch (engPe e)).at_ = false)
    (hcyc : (s.engine e).cycles < cycleLimit (engPe e)) (hentry : ((s.engine e).fetch (engPe e)).entryBad false = false)
    (hdisp : dispOk ((s.engine e).fetch (engPe e)) = false) :
    run (microwordExecute e 0) s = run (dispatchMiss e) s := by
  have hpe : ¬ (e = .pe ∧ s.pe.eng.idle = true ∧ s.peRuns = true) := by
    rintro ⟨rfl, hi, -⟩
    exact Bool.false_ne_true ((idle_of_engineOn hon).symm.trans hi)
  obtain ⟨d, hd, hvalid⟩ : ∃ d, ((s.engine e).fetch (engPe e)).disp = some d ∧ d.2.getLsbD 15 = false := by
    cases hd : ((s.engine e).fetch (engPe e)).disp with
    | some d => exact ⟨d, rfl, by simpa [dispOk, hd] using hdisp⟩
    | none => simp [dispOk, hd] at hdisp
  rw [microwordExecute, run_look, if_neg hpe, run_when_eq_true hon]
  simp only [hbad, Nat.not_le.2 hcyc, Nat.zero_testBit, hentry, hd, hvalid, Bool.not_false, Bool.false_eq_true, if_false, if_true]

/-- The protocol engine about to fetch by the entry of work type 1, which a patch has written with VALID = 0. -/
def missDev : State := Tests.peDev fun g => { g with run := false, disp := some 1, dispS := [(1, dispEntry 0)] }

theorem missDev_on : missDev.halted = false ∧ missDev.engineOn .pe = true := by decide +kernel

/-- The entry has good parity and is not valid. -/
theorem missDev_fetch : ((missDev.engine .pe).fetch true).entryBad false = false ∧ dispOk ((missDev.engine .pe).fetch true) = false := by
  decide +kernel

theorem missDev_may : (missDev.store 16).bad.contains ((missDev.engine .pe).fetch true).at_ = false ∧
    (missDev.engine .pe).cycles < cycleLimit true := by decide +kernel

/-- Refutes O39: the clause on dispatch entries that are not valid asks for the end as ABORT outcome 2 of every engine. That is the end
of a hewer's packet; the protocol engine drops the work item (R143), and in `missDev` its routine has not ended after the step. -/
theorem not_enginesRunMicrowords : ¬ Obligations.EnginesRunMicrowords := by
  unfold Obligations.EnginesRunMicrowords
  rintro ⟨-, -, -, -, hmiss, -⟩
  obtain ⟨hhalt, hon⟩ := missDev_on
  obtain ⟨hentry, hdisp⟩ := missDev_fetch
  obtain ⟨hbad, hcyc⟩ := missDev_may
  have h := completes_next (a := coreDo (microwordExecute .pe 0)) rfl (hmiss missDev .pe hhalt hon hbad hcyc hentry hdisp)
  obtain ⟨-, hfin, -⟩ := h
  rw [run_coreDo _ _ hhalt, run_microwordExecute_miss hon hbad hcyc hentry hdisp] at hfin
  exact absurd ((fin_dispatchMiss_pe missDev).symm.trans hfin) (by decide +kernel)

end Sys2Proof.Machine
end

section
/-!
PROOF. HEAD of a host packet queue whose size HQ_CFG gives as more than the 12 bits of HQ_HEAD.HEAD count (R371).
-/
set_option Elab.async false
namespace Sys2Proof.Machine

/-- A host-to-device queue of 2^13 descriptors, one more power of two than the range of LOG2_SIZE ends at, with HEAD at 4095 and one
frame with the packet mover. -/
def oversizedQueue : State :=
  Tests.tune [modDma (fun d => { d with mover := [(0, 1)] }), setF F.SYS_OWNER_STATE 0 1, setB F.HQ_CFG_EN 0 true,
    setF F.HQ_CFG_LOG2_SIZE 0 13, setF F.HQ_HEAD_HEAD 0 4095]

theorem oversizedQueue_on : oversizedQueue.halted = false ∧ oversizedQueue.hqOn 0 = true := by decide +kernel

theorem oversizedQueue_mover :
    (oversizedQueue.dma.mover.find? fun m => m.1 == ((0 : Fin 16) : Nat) || m.1 == ((0 : Fin 16) : Nat) + 32) = some (0, 1) := by
  decide +kernel

/-- Descriptor 4096 does not fit HEAD, which wraps to 0. -/
theorem oversizedQueue_head : (run (coreDo (hostPacketMoverDone 0 [([], [])])) oversizedQueue).hqHead 0 = 0 := by decide +kernel

theorem oversizedQueue_next : (oversizedQueue.hqHead 0 + 1) % oversizedQueue.hqSize 0 = 4096 := by decide +kernel

/-- Refutes O42: HEAD of a queue moves on modulo the queue's size only where the size fits HEAD's 12 bits, and the clause on the packet
mover does not bound LOG2_SIZE. In `oversizedQueue` the mover's end moves HEAD from 4095 to 0. -/
theorem not_protocolEngineVisits : ¬ Obligations.ProtocolEngineVisits := by
  unfold Obligations.ProtocolEngineVisits
  rintro ⟨-, -, -, -, -, -, -, hmover⟩
  obtain ⟨hhalt, hon⟩ := oversizedQueue_on
  have hhead := completes_next (a := coreDo (hostPacketMoverDone 0 [([], [])])) rfl
    (hmover oversizedQueue 0 1 [([], [])] hhalt oversizedQueue_mover hon (by decide) (.inl (by decide)))
  exact absurd (oversizedQueue_head.symm.trans (hhead.trans oversizedQueue_next)) (by decide)

end Sys2Proof.Machine
end

section
/-!
PROOF. The end of the configuration records where the pools are carved, but not in this SETUP (R175, R334, R359).
-/
set_option Elab.async false
namespace Sys2Proof.Machine

/-- A visit to the next record does what the record says, on the row of its TYPE. -/
theorem run_cfgVisit {s : State} {l : List Byte} {row : Nat} (h : recNextIs s l) (hrow : recType l = row) :
    run (cfgVisit row) s = run (recDo l) { s with nvm := { s.nvm with waiting := 0 } } := by
  obtain ⟨hmode, hsetup, hzol, hwait, hmay, hrec, hsec⟩ := h
  have hgo : (s.opMode == modeSetup && s.mode.setup == 1 && s.zolOn && s.nvm.waiting != 1 && !s.recMbxBusy && s.nvmMay) = true := by
    simp [hmode, hsetup, hzol, hwait, hmay, State.recMbxBusy]
  rw [cfgVisit, run_look, run_when_eq_true hgo, if_neg (fun hx => absurd (hwait.symm.trans hx.1) (by decide))]
  simp only [hrec, hsec, Bool.not_true, Bool.false_eq_true, if_false]
  rw [run_when_eq_true (by simp [hrow]), run_acts_cons, run_acts_cons, run_acts_nil]
  rfl

/-- A device in SETUP whose pools were carved before it, as on a return from PROVING (R352). This SETUP has had no write of CARVE, pool 3
has been given no size, and the next record is END. -/
def recarveDev : State := Tests.recDev (Tests.recB recEnd []) [setB F.SWC_STATUS_CARVED 0 true, setF F.SWC_POOL_CFG_SIZE_MIB 3 0]

theorem recarveDev_next : recNextIs recarveDev (Tests.recB recEnd []) :=
  ⟨by decide +kernel, by decide +kernel, by decide +kernel, by decide +kernel, by decide +kernel, by decide +kernel,
    Tests.section_ok _ _ _ rfl (by decide +kernel)⟩

theorem recEnd_type : recType (Tests.recB recEnd []) = recEnd := by decide +kernel

theorem recarveDev_carved : recarveDev.carved = true := by decide +kernel

/-- The sizes of the implicit CARVE are refused, and SETUP ends failed. -/
theorem recarveDev_after : (run (cfgVisit recEnd) recarveDev).mode.setup = 3 := by
  rw [run_cfgVisit recarveDev_next recEnd_type]
  decide +kernel

/-- Refutes O49: the clause on END takes the pools as carved where CARVED reads 1, but the implicit CARVE is left out only where this
SETUP has had a write of CARVE (R175). In `recarveDev` END carves again, with sizes that R174 refuses, and SETUP ends failed. -/
theorem not_setupLoadsPatchAndRecords : ¬ Obligations.SetupLoadsPatchAndRecords := by
  unfold Obligations.SetupLoadsPatchAndRecords
  rintro ⟨-, -, -, -, -, -, -, -, -, -, hend, -⟩
  have h := completes_next (a := cfgVisit recEnd) rfl (hend recarveDev _ recarveDev_next recEnd_type recarveDev_carved)
  obtain ⟨hsetup, -⟩ := h
  exact absurd (recarveDev_after.symm.trans hsetup) (by decide)

end Sys2Proof.Machine
end

section
/-!
PROOF. The threshold is recomputed with XOFF, and the queue depths are published to every quarter (R184, R187, R188).
-/
set_option Elab.async false
namespace Sys2Proof.Machine

/-! ### The XOFF bits of a port -/

/-- The XOFF bit of priority `i`. -/
def xoffBit (i : Nat) : Fld := ⟨.SWC_PORT_STATE, 20 + i, 1⟩

theorem xoffBit_held : ∀ i < 8, (xoffBit i).held = true := by decide

theorem xoffBit_apart {i j : Nat} (h : j ≠ i) : (xoffBit j).apart (xoffBit i) = true :=
  Bool.or_eq_true_iff.2 (.inr (decide_eq_true (by dsimp only [xoffBit]; omega)))

theorem xoff_eq_bit (s : State) (p : Nat) {i : Nat} (hi : i < 8) : s.xoff p i = s.bit (xoffBit i) p := by
  have h : s.xoff p i = (s.fld (xoffBit i) p).testBit 0 := by
    simp only [State.xoff, State.fld, testBit_bits, F.SWC_PORT_STATE_XOFF, xoffBit, hi, decide_true, Nat.add_zero, Nat.one_pos]
  have hlt : s.fld (xoffBit i) p < 2 := fld_lt s (xoffBit i) p
  rw [h, State.bit, Nat.testBit_zero]
  exact decide_eq_decide.2 (by omega)

theorem setXoff_self (p v : Nat) {i : Nat} (hi : i < 8) (s : State) : (run (setF (xoffBit i) p v) s).xoff p i = decide (v % 2 = 1) := by
  rw [xoff_eq_bit _ _ hi, State.bit, setF_fld _ _ _ _ (xoffBit_held i hi)]
  exact decide_eq_decide.2 Nat.mod_two_ne_zero

theorem setXoff_other (q j v : Nat) {p i : Nat} (hi : i < 8) (h : j ≠ i ∨ q ≠ p) : (setF (xoffBit j) q v).keeps (State.xoff · p i) := fun s => by
  simp only [xoff_eq_bit _ _ hi, State.bit]
  rw [(setF_other (xoffBit j) (xoffBit i) q p v s (xoffBit_held i hi) (h.imp_left xoffBit_apart)).1]

/-! ### What XOFF goes by -/

/-- What XOFF of a port goes by: the threshold in use, whether the port starts, and its balances. -/
def State.xoffBasis (p : Nat) (s : State) : Nat × Bool × Tab Nat × Tab Nat := (s.swc.thresh, s.starts p, (s.port p).usedSh, (s.port p).usedHr)

/-- XOFF of a port and priority agrees with the threshold in use, where a port starts. -/
def State.xoffFollows (p i : Nat) (s : State) : Prop :=
  s.starts p = true →
    (s.swc.thresh ≤ (s.port p).sh i → s.xoff p i = true) ∧
    ((s.port p).hr i = 0 → (s.port p).sh i + 20480 ≤ s.swc.thresh → s.xoff p i = false)

theorem Act.keeps.xoffFollows {a : Act} {p i : Nat} (hb : a.keeps (State.xoffBasis p)) (hx : a.keeps (State.xoff · p i)) :
    a.keeps (State.xoffFollows p i) := fun s => by
  have hbasis := hb s
  simp only [State.xoffBasis, Prod.mk.injEq] at hbasis
  obtain ⟨hthresh, hstarts, hsh, hhr⟩ := hbasis
  simp only [State.xoffFollows, PortS.sh, PortS.hr, hthresh, hstarts, hsh, hhr, hx s]

theorem Act.Framed.keeps_xoffBasis {P : List Part} {R : List Reg} {a : Act} (h : a.Framed P R) (p : Nat)
    (hswc : P.contains .swc = false := by decide) (hports : P.contains .ports = false := by decide)
    (hR : R.contains .STALL_CFG = false := by decide) : a.keeps (State.xoffBasis p) := fun s => by
  simp only [State.xoffBasis, State.starts, h.swc s hswc, h.port s p hports, h.fld F.STALL_CFG_SPLIT _ s hR]

theorem Act.Framed.keeps_xoff {P : List Part} {R : List Reg} {a : Act} (h : a.Framed P R) (p i : Nat)
    (hR : R.contains .SWC_PORT_STATE = false := by decide) : a.keeps (State.xoff · p i) := fun s => by
  simp only [State.xoff, h.fld F.SWC_PORT_STATE_XOFF p s hR]

theorem modPort_keeps_xoffBasis (k p : Nat) {f : PortS → PortS} (hsh : ∀ P, (f P).usedSh = P.usedSh) (hhr : ∀ P, (f P).usedHr = P.usedHr) :
    (modPort k f).keeps (State.xoffBasis p) := fun s => by
  have hstarts : (run (modPort k f) s).starts p = s.starts p := rfl
  have hthresh : (run (modPort k f) s).swc.thresh = s.swc.thresh := rfl
  simp only [State.xoffBasis, hstarts, hthresh, run_modPort]
  split
  · next hp => rw [hsh, hhr, hp]
  · rfl

theorem pfcSync_keeps_xoffBasis (k p : Nat) : (pfcSync k).keeps (State.xoffBasis p) :=
  have hport {f : PortS → PortS} := modPort_keeps_xoffBasis (f := f) k p
  keeps_look fun _ => keeps_ite (hport (fun _ => rfl) fun _ => rfl)
    (keeps_when (.acts ⟨(emit_own _).keeps_xoffBasis _, (count_own _ _ _ _).keeps_xoffBasis _, hport (fun _ => rfl) fun _ => rfl, trivial⟩))

theorem pfcSync_keeps_xoff (k p i : Nat) : (pfcSync k).keeps (State.xoff · p i) := (pfcSync_framed k).keeps_xoff p i

/-! ### XOFF of one port and priority (R188) -/

theorem xoffEval_keeps_xoffBasis (q j p : Nat) : (xoffEval q j).keeps (State.xoffBasis p) := (xoffEval_framed q j).keeps_xoffBasis p

theorem xoffEval_keeps_xoff (q j : Nat) {p i : Nat} (hi : i < 8) (h : j ≠ i ∨ q ≠ p) : (xoffEval q j).keeps (State.xoff · p i) :=
  keeps_look fun _ => keeps_ite keeps_skip (keeps_ite (setXoff_other q j 1 hi h) (keeps_when (setXoff_other q j 0 hi h)))

/-- Where a port starts, XOFF is set where the shared use has reached the threshold; it is cleared where no headroom is in use and the shared
use lies two maximum frames below; else it stays. -/
theorem xoffEval_xoff {s : State} {p i : Nat} (hi : i < 8) (hstarts : s.starts p = true) : (run (xoffEval p i) s).xoff p i =
    if s.swc.thresh ≤ (s.port p).sh i then true
    else if (s.port p).hr i = 0 ∧ (s.port p).sh i + 20480 ≤ s.swc.thresh then false else s.xoff p i := by
  have hset (v : Nat) := setXoff_self p v hi s
  simp only [xoffBit] at hset
  rw [xoffEval, run_look, if_neg (by simp [hstarts])]
  split
  · simp [hset]
  · simp only [run_when, Bool.and_eq_true, beq_iff_eq, decide_eq_true_eq, Nat.reduceMul]
    split
    · simp [hset]
    · rfl

theorem xoffEval_follows (p : Nat) {i : Nat} (hi : i < 8) (s : State) : (run (xoffEval p i) s).xoffFollows p i := by
  have hbasis := xoffEval_keeps_xoffBasis p i p s
  simp only [State.xoffBasis, Prod.mk.injEq] at hbasis
  obtain ⟨hthresh, hstarts, hsh, hhr⟩ := hbasis
  simp only [State.xoffFollows, PortS.sh, PortS.hr, hthresh, hstarts, hsh, hhr]
  intro hp
  rw [xoffEval_xoff hi hp, PortS.sh, PortS.hr]
  refine ⟨fun hset => if_pos hset, fun hnone hlow => ?_⟩
  rw [if_neg (by omega), if_pos ⟨hnone, hlow⟩]

theorem xoffEval_keeps_follows (q j : Nat) {p i : Nat} (hi : i < 8) (h : j ≠ i ∨ q ≠ p) : (xoffEval q j).keeps (State.xoffFollows p i) :=
  (xoffEval_keeps_xoffBasis q j p).xoffFollows (xoffEval_keeps_xoff q j hi h)

theorem pfcSync_keeps_follows (k p i : Nat) : (pfcSync k).keeps (State.xoffFollows p i) :=
  (pfcSync_keeps_xoffBasis k p).xoffFollows (pfcSync_keeps_xoff k p i)

/-! ### XOFF of the ports (R187, R188) -/

/-- The turn of one port at a recompute. -/
def xoffTurn (p : Nat) : Act := acts [each (List.range 8) (xoffEval p), pfcSync p]

/-- The ports that have a turn at a recompute: of the others neither balance nor XOFF can ask for a change. -/
def State.xoffPorts (s : State) : List Nat :=
  (List.range 512).filter fun p =>
    s.starts p && (s.newThreshold == 0 || !(s.port p).usedSh.isEmpty || s.fld F.SWC_PORT_STATE_XOFF p != 0)

theorem xoffTurn_keeps_xoffBasis (q p : Nat) : (xoffTurn q).keeps (State.xoffBasis p) :=
  .acts ⟨keeps_each fun j _ => xoffEval_keeps_xoffBasis q j p, pfcSync_keeps_xoffBasis q p, trivial⟩

theorem xoffTurn_keeps_xoff {q p i : Nat} (hi : i < 8) (h : q ≠ p) : (xoffTurn q).keeps (State.xoff · p i) :=
  .acts ⟨keeps_each fun j _ => xoffEval_keeps_xoff q j hi (.inr h), pfcSync_keeps_xoff q p i, trivial⟩

/-- After the turn of a port XOFF of each of its priorities follows. -/
theorem xoffTurn_follows (p : Nat) (s : State) : ∀ i < 8, (run (xoffTurn p) s).xoffFollows p i := by
  intro i hi
  have heach := each_all (f := xoffEval p) (p := fun i s => i < 8 → s.xoffFollows p i) (fun _ s hi => xoffEval_follows p hi s)
    (fun j i s h hi => by
      by_cases hj : j = i
      · subst hj
        exact xoffEval_follows p hi s
      · rw [xoffEval_keeps_follows p j hi (.inl hj) s]
        exact h hi)
    (List.range 8) s i (List.mem_range.2 hi) hi
  rw [xoffTurn, run_acts_cons, run_acts_cons, run_acts_nil, pfcSync_keeps_follows p p i]
  exact heach

theorem each_xoffTurn_follows {l : List Nat} {p : Nat} (hp : p ∈ l) (s : State) : ∀ i < 8, (run (each l xoffTurn) s).xoffFollows p i :=
  each_all (f := xoffTurn) (p := fun p s => ∀ i < 8, s.xoffFollows p i) xoffTurn_follows
    (fun q p s h i hi => by
      by_cases hq : q = p
      · subst hq
        exact xoffTurn_follows q s i hi
      · rw [(xoffTurn_keeps_xoffBasis q p).xoffFollows (xoffTurn_keeps_xoff hi hq) s]
        exact h i hi)
    l s p hp

/-- XOFF of a port that has no turn is clear, and its shared use lies below the threshold. -/
theorem not_xoff_of_no_turn {s : State} {p : Nat} (hp : p < 512) (hmem : p ∉ s.xoffPorts) (hstarts : s.starts p = true)
    (i : Nat) : (s.port p).sh i < s.newThreshold ∧ s.xoff p i = false := by
  simp only [State.xoffPorts, List.mem_filter, List.mem_range, hp, hstarts, true_and, Bool.true_and, Bool.or_eq_true, beq_iff_eq,
    bne_iff_ne, Bool.not_eq_true', List.isEmpty_eq_false_iff, not_or, not_not] at hmem
  obtain ⟨⟨hthresh, hsh⟩, hxoff⟩ := hmem
  refine ⟨?_, by rw [State.xoff, hxoff, Nat.zero_testBit]⟩
  rw [PortS.sh, hsh, tabGet_nil]
  omega

/-! ### The recompute (R187) -/

/-- A threshold comes into use. -/
def useThreshold (n : Nat) : Act := modSwc fun w => { w with thresh := n }

theorem useThreshold_xoffBasis (n p : Nat) (s : State) :
    (run (useThreshold n) s).xoffBasis p = (n, s.starts p, (s.port p).usedSh, (s.port p).usedHr) := rfl

/-- A port without shared use at the threshold and without XOFF needs no turn. -/
theorem useThreshold_follows {n p i : Nat} {s : State} (h : s.starts p = true → (s.port p).sh i < n ∧ s.xoff p i = false) :
    (run (useThreshold n) s).xoffFollows p i := fun hstarts =>
  ⟨fun hreached => absurd hreached (Nat.not_le.2 (h hstarts).1), fun _ _ => (h hstarts).2⟩

theorem run_thresholdRecompute {s : State} (hcarved : s.carved = true) (hsoft : s.clk.soft.contains unitSwc = false) :
    run thresholdRecompute s = run (unitReport 84) (run (each s.xoffPorts xoffTurn) (run (useThreshold s.newThreshold) s)) := by
  have hgo : (s.carved && !s.clk.soft.contains unitSwc) = true := by rw [hcarved, hsoft]; rfl
  rw [thresholdRecompute, run_look, run_acts_cons, run_acts_cons, run_acts_nil, run_when_eq_true hgo, run_acts_cons, run_acts_cons,
    run_acts_nil]
  rfl

/-- The new threshold is in use, and the balances stand as they stood. -/
theorem thresholdRecompute_xoffBasis {s : State} (hcarved : s.carved = true) (hsoft : s.clk.soft.contains unitSwc = false) (p : Nat) :
    (run thresholdRecompute s).xoffBasis p = (s.newThreshold, s.starts p, (s.port p).usedSh, (s.port p).usedHr) := by
  rw [run_thresholdRecompute hcarved hsoft, (unitReport_framed 84).keeps_xoffBasis p,
    keeps_each (fun q _ => xoffTurn_keeps_xoffBasis q p), useThreshold_xoffBasis]

theorem thresholdRecompute_follows {s : State} (hcarved : s.carved = true) (hsoft : s.clk.soft.contains unitSwc = false) {p i : Nat}
    (hp : p < 512) (hi : i < 8) : (run thresholdRecompute s).xoffFollows p i := by
  have hreport := unitReport_framed 84
  rw [run_thresholdRecompute hcarved hsoft, (hreport.keeps_xoffBasis p).xoffFollows (hreport.keeps_xoff p i)]
  by_cases hmem : p ∈ s.xoffPorts
  · exact each_xoffTurn_follows hmem _ i hi
  · have hkeep : (each s.xoffPorts xoffTurn).keeps (State.xoffFollows p i) := keeps_each fun q hq =>
      (xoffTurn_keeps_xoffBasis q p).xoffFollows (xoffTurn_keeps_xoff hi fun e => hmem (e ▸ hq))
    rw [hkeep]
    exact useThreshold_follows fun hstarts => not_xoff_of_no_turn hp hmem hstarts i

/-! ### The publication of the depths (R184) -/

/-- A key whose entries all have one value reads as that value, where it is listed or the value is the default. -/
theorem tabGet_of_entries {α : Type} {t : Tab α} {d v : α} {k : Nat} (hval : ∀ e ∈ t, e.1 = k → e.2 = v) (hlisted : v ≠ d → (k, v) ∈ t) :
    tabGet t d k = v := by
  induction t with
  | nil => exact (not_not.1 fun hv => absurd (hlisted hv) List.not_mem_nil).symm
  | cons e r ih =>
    obtain ⟨j, w⟩ := e
    by_cases hj : j = k
    · rw [tabGet, if_pos hj]
      exact hval _ (List.mem_cons_self ..) hj
    · rw [tabGet, if_neg hj]
      refine ih (fun e he => hval e (List.mem_cons_of_mem _ he)) fun hv => ?_
      exact (List.mem_cons.1 (hlisted hv)).resolve_left fun e => hj (congrArg Prod.fst e).symm

/-- The depths that the switch core publishes: those of the queues that are not empty. -/
def State.depthTable (s : State) : Tab Nat :=
  (s.ports.map fun e => (e.2.queues.filterMap fun x =>
    let d := s.depth e.1 x.1
    if d = 0 then none else some (e.1 * 9 + x.1, d))).flatten

theorem mem_depthTable {s : State} {e : Nat × Nat} : e ∈ s.depthTable ↔
    ∃ P ∈ s.ports, ∃ x ∈ P.2.queues, s.depth P.1 x.1 ≠ 0 ∧ (P.1 * 9 + x.1, s.depth P.1 x.1) = e := by
  simp only [State.depthTable, List.mem_flatten, List.mem_map]
  constructor
  · rintro ⟨_, ⟨P, hP, rfl⟩, he⟩
    obtain ⟨x, hx, he⟩ := List.mem_filterMap.1 he
    split at he
    · cases he
    · next hd => exact ⟨P, hP, x, hx, hd, Option.some.inj he⟩
  · rintro ⟨P, hP, x, hx, hd, he⟩
    exact ⟨_, ⟨P, hP, rfl⟩, List.mem_filterMap.2 ⟨x, hx, by rw [if_neg hd, he]⟩⟩

/-- A queue that holds something is listed, and its port is. -/
theorem listed_of_depth {s : State} {p k : Nat} (h : s.depth p k ≠ 0) : ∃ P, (p, P) ∈ s.ports ∧ ∃ Q, (k, Q) ∈ P.queues := by
  have hqueue : tabGet (s.port p).queues {} k ≠ {} := fun e => h (by rw [State.depth, e]; rfl)
  have hport : s.port p ≠ {} := fun e => hqueue (by rw [e]; rfl)
  exact ⟨_, (tabGet_mem s.ports {} p).resolve_right hport, _, (tabGet_mem (s.port p).queues {} k).resolve_right hqueue⟩

theorem tabGet_depthTable {s : State} (hq : ∀ e ∈ s.ports, ∀ x ∈ e.2.queues, x.1 < 9) (p : Nat) {k : Nat} (hk : k < 9) :
    tabGet s.depthTable 0 (p * 9 + k) = s.depth p k := by
  refine tabGet_of_entries (fun e he hkey => ?_) fun hd => ?_
  · obtain ⟨P, hP, x, hx, -, rfl⟩ := mem_depthTable.1 he
    have hx9 := hq P hP x hx
    dsimp only at hkey ⊢
    rw [show P.1 = p by omega, show x.1 = k by omega]
  · obtain ⟨P, hP, Q, hQ⟩ := listed_of_depth hd
    exact mem_depthTable.2 ⟨_, hP, _, hQ, hd, rfl⟩

theorem run_queueDepthPublish (s : State) : run queueDepthPublish s =
    run (each (List.range 4) fun q => modQtr q fun Q => { Q with depthPub := s.depthTable }) s := rfl

theorem queueDepthPublish_depthPub (s : State) {q : Nat} (hq : q < 4) : ((run queueDepthPublish s).qtr q).depthPub = s.depthTable := by
  rw [run_queueDepthPublish]
  refine each_all (p := fun q t => (t.qtr q).depthPub = s.depthTable) (fun q t => ?_) (fun q r t h => ?_) _ s q (List.mem_range.2 hq)
  · rw [run_modQtr_self]
  · rw [run_modQtr]
    split
    · rfl
    · exact h

/-! ### The obligation -/

/-- Settles O35: a port that has a turn at the recompute ends it with XOFF as the balances ask, and a port without one has no XOFF and no
shared use; the table of the depths lists each queue that is not empty under a key of its own. -/
theorem thresholdsAndDepthsArePublished : Obligations.ThresholdsAndDepthsArePublished := by
  unfold Obligations.ThresholdsAndDepthsArePublished
  constructor
  · intro s hhalt hcarved hsoft
    refine completes_run (a := coreDo thresholdRecompute) rfl ?_
    rw [run_coreDo _ _ hhalt]
    have hbasis (p : Nat) := thresholdRecompute_xoffBasis hcarved hsoft p
    simp only [State.xoffBasis, Prod.mk.injEq] at hbasis
    refine ⟨(hbasis 0).1, fun p i hp hi hstarts => ?_⟩
    obtain ⟨hthresh, hstarts', hsh, hhr⟩ := hbasis p
    have hfollows := thresholdRecompute_follows hcarved hsoft hp hi (hstarts'.trans hstarts)
    simp only [PortS.sh, PortS.hr, hthresh, hsh, hhr] at hfollows
    obtain ⟨hset, hclear⟩ := hfollows
    exact ⟨hset, fun _ => hclear⟩
  · intro s hhalt hqueues
    refine completes_run (a := coreDo queueDepthPublish) rfl ?_
    rw [run_coreDo _ _ hhalt]
    intro q hq p k hk
    rw [queueDepthPublish_depthPub s hq, tabGet_depthTable hqueues p hk]

end Sys2Proof.Machine
end

section
/-!
PROOF. The scheduler starts the frame it selects or drops an aged one; the QT clearance; the latency samplers (R203, R205, R216, R220,
R221).
-/
set_option Elab.async false
namespace Sys2Proof.Machine

/-! ### The traffic of a queue: its copies, and the frame on the line of its port -/

/-- The copies that wait in a queue of a port, and of the frame on the port's line its queue, its descriptor and the bytes charged. -/
def PortS.traffic (P : PortS) (q : Nat) : List Desc × Option (Nat × Desc × Nat) :=
  ((tabGet P.queues {} q).d, P.tx.map fun x => (x.q, x.desc, x.charged))

/-- The traffic of a queue of a port of the state. -/
def State.traffic (p q : Nat) (s : State) : List Desc × Option (Nat × Desc × Nat) := (s.port p).traffic q

/-- A credit or a charge moves no copy. -/
theorem credit_traffic (P : PortS) (k c : Nat) (n : Int) (q : Nat) : (P.credit k c n).traffic q = P.traffic q := by
  refine Prod.ext ?_ rfl
  simp only [PortS.traffic, PortS.credit, tabGet_tabPut]
  split
  · next h => rw [h]
  · rfl

theorem Act.Framed.keeps_traffic {P : List Part} {R : List Reg} {a : Act} (h : a.Framed P R) (p q : Nat)
    (hP : P.contains .ports = false := by decide) : a.keeps (State.traffic p q) := fun s => congrArg (PortS.traffic · q) (h.port s p hP)

theorem modPort_keeps_traffic (k p q : Nat) {f : PortS → PortS} (h : ∀ P, (f P).traffic q = P.traffic q) :
    (modPort k f).keeps (State.traffic p q) := fun s => by
  rw [State.traffic, run_modPort]
  split
  · next hp => rw [h, hp, State.traffic]
  · rfl

theorem pfcSync_keeps_traffic (k p q : Nat) : (pfcSync k).keeps (State.traffic p q) :=
  keeps_look fun _ => keeps_ite (modPort_keeps_traffic _ _ _ fun _ => rfl)
    (keeps_when (.acts ⟨(emit_own _).keeps_traffic _ _, (count_own _ _ _ _).keeps_traffic _ _, modPort_keeps_traffic _ _ _ fun _ => rfl,
      trivial⟩))

/-- A buffer that becomes FREE changes balances of its ingress port, and no queue. -/
theorem becomeFree_keeps_traffic (h p q : Nat) : (becomeFree h).keeps (State.traffic p q) :=
  have hbuf {b : Buf} : (Act.upd (.buf h b)).Framed [.bufs] [] := .upd rfl
  keeps_look fun _ => .acts ⟨hbuf.keeps_traffic _ _, (perfEvent_framed _ _ _ _).keeps_traffic _ _, (setF_own _ _ _).keeps_traffic _ _,
    (modSwc_framed _).keeps_traffic _ _, keeps_when (.acts ⟨modPort_keeps_traffic _ _ _ fun _ => rfl, (xoffEval_framed _ _).keeps_traffic _ _,
      pfcSync_keeps_traffic _ _ _, trivial⟩), syncSwc_framed.keeps_traffic _ _, drainCheck_framed.keeps_traffic _ _, trivial⟩

/-- A free request, legal or not, takes no copy from a queue or a line. -/
theorem freeReq_keeps_traffic (k j h : Nat) (gen : BitVec 4) (final : Bool) (p q : Nat) :
    (freeReq k j h gen final).keeps (State.traffic p q) :=
  have hillegal (kind : Nat) := (illegalFree_framed k j h kind).keeps_traffic p q
  have hdesc := freeDesc_framed.keeps_traffic p q
  have hbuf (f : Buf → Buf) := (modBuf_framed h f).keeps_traffic p q
  have hfree := becomeFree_keeps_traffic h p q
  keeps_look fun _ => keeps_ite (hillegal _) (keeps_ite (hillegal _) (keeps_ite
    (keeps_ite (hillegal _) (keeps_ite (hillegal _) (keeps_ite (.acts ⟨hdesc, hfree, trivial⟩) (.acts ⟨hdesc, hbuf _, trivial⟩))))
    (keeps_ite (hillegal _) (.acts ⟨hdesc, hbuf _, keeps_when hfree, trivial⟩))))

/-- A PTP event message that leaves has its egress time kept, and its Follow_Up is owed. -/
theorem keepTs_keeps_traffic (k tEg : Nat) (f : Frame) (P : Parsed) (dst : PtpTo) (p q : Nat) :
    (keepTs k tEg f P dst).keeps (State.traffic p q) := by
  have hport {f : PortS → PortS} := modPort_keeps_traffic (f := f) k p q
  have hwork : (postWork k wtPtpTx 4 0).keeps (State.traffic p q) := hport fun P => by split <;> rfl
  exact keeps_look fun _ => .acts ⟨(modPe_framed _).keeps_traffic _ _,
    keeps_ite (hport fun _ => rfl) (keeps_ite (hport fun _ => rfl) (.acts ⟨hport fun _ => rfl, hwork, trivial⟩)), trivial⟩

theorem takeHead_traffic (p q : Nat) (s : State) : (run (takeHead p q) s).traffic p q = ((s.traffic p q).1.drop 1, (s.traffic p q).2) := by
  rw [State.traffic, takeHead, run_modPort_self]
  exact Prod.ext (congrArg QueueS.d (tabGet_tabPut_self _ _ _ _)) rfl

/-! ### The selection (R203, R206, R207) -/

/-- A round of the DWRR queues moves the pointer and the deficits only. -/
theorem dwrrNext_tx (s : State) (p now fuel : Nat) (P : PortS) : (s.dwrrNext p now fuel P).2.tx = P.tx := by
  induction fuel generalizing P with
  | zero => rfl
  | succ k ih =>
    unfold State.dwrrNext
    dsimp only
    split_ifs
    exacts [ih _, ih _, rfl, ih _, rfl, ih _]

/-- The selection puts no frame on the line. -/
theorem select_tx (s : State) (p now : Nat) (P : PortS) : (s.select p now P).2.tx = P.tx := by
  unfold State.select
  dsimp only
  split
  · rfl
  · split
    · rfl
    · split
      · rfl
      · exact dwrrNext_tx ..

/-- What the selection finds, and the port with its buckets brought up to now and its round moved on. -/
def State.selected (s : State) (p sub : Nat) : Option (Nat × Bool) × PortS := s.select p (s.stallTime sub) (s.refilled p (s.coreNow sub))

theorem selected_eq (s : State) (p sub : Nat) : s.select p (s.stallTime sub) (s.refilled p (s.coreNow sub)) = s.selected p sub := rfl

/-- The state once the port stands as the selection leaves it, and the PERF blocks know of the queues that the guard holds. -/
def State.afterSelect (s : State) (p sub : Nat) : State :=
  run (perfEvent pbSch 9 (some p) (s.guardHeld p (s.stallTime sub))) (applyUpd (.port p (s.selected p sub).2) s)

theorem afterSelect_traffic (s : State) (p sub q : Nat) : (s.afterSelect p sub).traffic p q = (s.selected p sub).2.traffic q := by
  rw [State.afterSelect, (perfEvent_framed _ _ _ _).keeps_traffic, State.traffic, port_applyUpd, if_pos rfl]

theorem afterSelect_out (s : State) (p sub : Nat) : (s.afterSelect p sub).out = s.out := by
  rw [State.afterSelect, (perfEvent_framed _ _ _ _).out, applyUpd_out _ _ (by simp [Upd.part])]

theorem selected_tx (s : State) (p sub : Nat) : (s.selected p sub).2.tx = (s.port p).tx := by
  rw [State.selected, select_tx, State.refilled]

/-! ### The drop of an aged frame (R186) -/

/-- What the selection does with the first frame `d` of a queue that is past its age limit, counted as counter `c`. -/
def dropAged (p q : Nat) (d : Desc) (c : Nat) : Act :=
  acts [takeHead p q, dropCopy p q d, count 0x38 p c 1, perfEvent pbSwc 12 (some p) 1, raise F.SWC_EVT_CAUSE_AGED (aisleOf p)]

/-- The drop takes the first copy off its queue, leaves the line alone, and raises AGED. -/
theorem dropAged_spec (p q : Nat) (d : Desc) (c : Nat) (s : State) :
    (run (dropAged p q d c) s).traffic p q = ((s.traffic p q).1.drop 1, (s.traffic p q).2) ∧
      (run (dropAged p q d c) s).rawFld F.SWC_EVT_CAUSE_AGED (aisleOf p) = 1 := by
  have hrest : (acts [dropCopy p q d, count 0x38 p c 1, perfEvent pbSwc 12 (some p) 1, raise F.SWC_EVT_CAUSE_AGED (aisleOf p)]).keeps
      (State.traffic p q) :=
    .acts ⟨freeReq_keeps_traffic _ _ _ _ _ _ _, (count_own _ _ _ _).keeps_traffic _ _, (perfEvent_framed _ _ _ _).keeps_traffic _ _,
      (raise_own _ _).keeps_traffic _ _, trivial⟩
  constructor
  · rw [dropAged, run_acts_cons, hrest, takeHead_traffic]
  · simp only [dropAged, run_acts_cons, run_acts_nil]
    exact raise_rawFld _ _ _ (by decide) rfl (by decide)

/-- An age in 2^-16 ns is past the limit of the frame of `d` on port `p`: 1 ms for an event frame, or the port's own limit, where it has
one. -/
def State.tooOld (s : State) (p age : Nat) (d : Desc) : Prop :=
  ((s.buf d.handle).pkt.isEvent = true ∧ 10 ^ 6 * 65536 < age) ∨
    (0 < s.fld F.SWC_PORT_CFG_MAX_AGE_US p ∧ s.fld F.SWC_PORT_CFG_MAX_AGE_US p * 1000 * 65536 < age)

theorem tooOld_iff (s : State) (p age : Nat) (d : Desc) : s.tooOld p age d ↔ ((s.buf d.handle).pkt.isEvent = true ∧ 65536000000 < age) ∨
    (0 < s.fld F.SWC_PORT_CFG_MAX_AGE_US p ∧ s.fld F.SWC_PORT_CFG_MAX_AGE_US p * 65536000 < age) := by
  simp only [State.tooOld, Nat.mul_assoc, Nat.reducePow, Nat.reduceMul]

/-! ### A scheduler step, case by case -/

section
variable {s : State} {p sub : Nat} (pos : Nat) (htx : (s.port p).tx = none) (hstarts : s.starts p = true)
  (hsoft : s.clk.soft.contains unitSch = false)

include htx hstarts hsoft

theorem run_schedulerSelect_none (hsel : (s.selected p sub).1 = none) : run (schedulerSelect p pos sub) s = s.afterSelect p sub := by
  rw [← selected_eq] at hsel
  rw [schedulerSelect, run_look, run_when_eq_true (by rw [htx, hstarts, hsoft]; rfl)]
  dsimp only
  rw [hsel, run_acts_cons, run_acts_cons]
  rfl

/-- The first frame of the queue selected is dropped where it is too old; else an action runs that takes it off its queue and puts it on
the line with its length charged. -/
theorem run_schedulerSelect_some {q : Nat} {mp : Bool} {d : Desc} {r : List Desc} (hsel : (s.selected p sub).1 = some (q, mp))
    (hhead : (tabGet (s.selected p sub).2.queues {} q).d = d :: r) :
    ∃ start : Act, (∀ t, (run start t).traffic p q = ((t.traffic p q).1.drop 1, some (q, d, s.copyLen d))) ∧
      run (schedulerSelect p pos sub) s =
        run (if (s.buf d.handle).pkt.isEvent = true ∧ 10 ^ 6 * 65536 < s.stallTime sub - (s.buf d.handle).frame.tIn then dropAged p q d 2
          else if 0 < s.fld F.SWC_PORT_CFG_MAX_AGE_US p ∧
            s.fld F.SWC_PORT_CFG_MAX_AGE_US p * 1000 * 65536 < s.stallTime sub - (s.buf d.handle).frame.tIn then dropAged p q d 1
          else start) (s.afterSelect p sub) := by
  rw [← selected_eq] at hsel hhead
  rw [schedulerSelect, run_look, run_when_eq_true (by rw [htx, hstarts, hsoft]; rfl)]
  dsimp only
  rw [hsel, run_acts_cons, run_acts_cons, run_acts_cons, run_acts_nil]
  dsimp only
  rw [hhead]
  refine ⟨_, fun t => ?_, rfl⟩
  have hport {f : PortS → PortS} := modPort_keeps_traffic (f := f) p p q
  have hperf (b code v : Nat) (k : Option Nat) := (perfEvent_framed b code k v).keeps_traffic p q
  have hcount (vid idx c k : Nat) := (count_own vid idx c k).keeps_traffic p q
  have hreport (u : Nat) := (unitReport_framed u).keeps_traffic p q
  rw [run_acts_cons, run_acts_cons]
  rw [Act.keeps.acts (g := State.traffic p q) ?rest]
  case rest => exact ⟨hperf _ _ _ _, hperf _ _ _ _, keeps_when (hperf _ _ _ _), keeps_when (hperf _ _ _ _),
    (perfBytes_framed _ _ _ _ _).keeps_traffic _ _, hperf _ _ _ _, keeps_when (hperf _ _ _ _),
    keeps_when (.acts ⟨hcount _ _ _ _, hperf _ _ _ _, keeps_when (.acts ⟨hcount _ _ _ _, (raise_own _ _).keeps_traffic _ _, trivial⟩),
      keeps_when (hcount _ _ _ _), trivial⟩),
    keeps_when (.acts ⟨hport fun _ => rfl, (syncGates_framed _).keeps_traffic _ _, trivial⟩), keeps_when (keepTs_keeps_traffic _ _ _ _ _ _ _),
    hreport _, hreport _, trivial⟩
  rw [State.traffic, run_modPort_self]
  have htake := congrArg Prod.fst (takeHead_traffic p q t)
  exact Prod.ext ((congrArg Prod.fst (credit_traffic _ _ _ _ q)).trans htake) rfl

/-- The first frame of the queue selected, where it is too old, is off its queue and AGED is raised; else it is on the line, with its
length charged. -/
theorem schedulerSelect_spec {q : Nat} {mp : Bool} {d : Desc} {r : List Desc} (hsel : (s.selected p sub).1 = some (q, mp))
    (hhead : (tabGet (s.selected p sub).2.queues {} q).d = d :: r) :
    (s.tooOld p (s.stallTime sub - (s.buf d.handle).frame.tIn) d → (run (schedulerSelect p pos sub) s).traffic p q = (r, none) ∧
      (run (schedulerSelect p pos sub) s).rawFld F.SWC_EVT_CAUSE_AGED (aisleOf p) = 1) ∧
    (¬ s.tooOld p (s.stallTime sub - (s.buf d.handle).frame.tIn) d →
      (run (schedulerSelect p pos sub) s).traffic p q = (r, some (q, d, s.copyLen d))) := by
  obtain ⟨start, hstart, hrun⟩ := run_schedulerSelect_some pos htx hstarts hsoft hsel hhead
  have htraffic : (s.afterSelect p sub).traffic p q = (d :: r, none) := by
    rw [afterSelect_traffic, PortS.traffic, hhead, selected_tx, htx, Option.map_none]
  have hdrop (c : Nat) := dropAged_spec p q d c (s.afterSelect p sub)
  have hline := hstart (s.afterSelect p sub)
  simp only [htraffic] at hdrop hline
  rw [hrun, State.tooOld]
  split_ifs with hevent hage
  · exact ⟨fun _ => hdrop 2, fun hyoung => absurd (.inl hevent) hyoung⟩
  · exact ⟨fun _ => hdrop 1, fun hyoung => absurd (.inr hage) hyoung⟩
  · exact ⟨fun hold => absurd hold (not_or.2 ⟨hevent, hage⟩), fun _ => hline⟩

end

/-! ### The QT clearance (R220) -/

/-- While QT is cleared no gate below it is open. -/
theorem gates_of_qtClosed {s : State} {p : Nat} (h : (s.port p).qtClosed = true) (now : Nat) : (s.gates p now).toNat % 256 = 0 := by
  have hmask (g : BitVec 9) : (g &&& 0x100#9).toNat % 256 = 0 := by revert g; decide
  rw [State.gates, if_pos h]
  exact hmask _

theorem qtClearClose_qtClosed {s : State} {p : Nat} (hstarts : s.starts p = true) (hen : s.bit F.SCH_PORT_CFG_QT_CLEAR_EN p = true)
    (hdue : s.ptpDue p = true) (hopen : (s.port p).qtClosed = false)
    (hlead : s.time.running = false ∨ s.visitNs p ≤ s.fld F.SCH_PORT_CFG_QT_LEAD_NS p) :
    ((run (qtClearClose p) s).port p).qtClosed = true := by
  rw [qtClearClose, run_look, run_when_eq_true (by simpa [hstarts, hen, hdue, hopen] using hlead), run_acts_cons, run_acts_cons,
    run_acts_cons, run_acts_nil, (syncGates_framed _).port, (perfEvent_framed _ _ _ _).port, run_modPort_self]

theorem qtClearReopen_port {s : State} {p w : Nat} (hclosed : (s.port p).qtClosed = true) (hwaits : s.qtWaits p = false)
    (hat : (s.port p).qtAt = some w) (hage : s.aged w 640 = true) :
    (run (qtClearReopen p) s).port p = { s.port p with qtClosed := false, qtAt := none, qtPost := none } := by
  rw [qtClearReopen, run_look, hclosed, hwaits, hat]
  dsimp only
  rw [run_when_eq_true (by rw [hage]; rfl), run_acts_cons, run_acts_cons, run_acts_nil, (syncGates_framed _).port, run_modPort_self]

/-- Before the visit the queues below QT stay closed. -/
theorem run_qtClearReopen_early {s : State} {p : Nat} (h : (s.port p).qtAt = none) : run (qtClearReopen p) s = s := by
  rw [qtClearReopen, run_look, h, run_when_eq_false (Bool.and_false _)]

/-! ### The latency samplers (R221) -/

/-- The sampler of a queue of a port. -/
def State.sampler (p q : Nat) (s : State) : Sampler := (tabGet (s.port p).queues {} q).samp

/-- Change the sampler of a queue. -/
def modSampler (p q : Nat) (f : Sampler → Sampler) : Act :=
  modPort p fun P => { P with queues := tabPut P.queues {} q { tabGet P.queues {} q with samp := f (tabGet P.queues {} q).samp } }

theorem run_modSampler (p k q : Nat) (f : Sampler → Sampler) (s : State) :
    (run (modSampler p k f) s).sampler p q = if q = k then f (s.sampler p k) else s.sampler p q := by
  rw [State.sampler, modSampler, run_modPort_self]
  simp only [tabGet_tabPut]
  split <;> rfl

theorem Act.Framed.keeps_sampler {P : List Part} {R : List Reg} {a : Act} (h : a.Framed P R) (p q : Nat)
    (hP : P.contains .ports = false := by decide) : a.keeps (State.sampler p q) := fun s =>
  congrArg (fun P : PortS => (tabGet P.queues {} q).samp) (h.port s p hP)

/-- Age in ns of the first frame of a queue at a device time `w` in ns, 0 where the queue is empty. -/
def State.sojourn (s : State) (p q w : Nat) : Nat :=
  match (tabGet (s.port p).queues {} q).d with
  | [] => 0
  | d :: _ => (w * 65536 - (s.buf d.handle).frame.tIn) / 65536

/-- The sample that a queue takes at the instant `w`, of the state `s`. -/
def State.sample (s : State) (p w q : Nat) : Act :=
  acts [modSampler p q fun a => a.add (s.depth p q) (s.sojourn p q w) (s.fld F.SCH_SAMP_CFG_BIN_NS p),
    when (decide (0 < s.fld F.SCH_SAMP_CTL_SOJ_HIGH_US p ∧ s.fld F.SCH_SAMP_CTL_SOJ_HIGH_US p * 1000 < s.sojourn p q w))
      (raise F.SCH_EVT_CAUSE_SOJOURN_HIGH (aisleOf p))]

theorem run_sample (s t : State) (p w k q : Nat) : (run (s.sample p w k) t).sampler p q =
    if q = k then (t.sampler p k).add (s.depth p k) (s.sojourn p k w) (s.fld F.SCH_SAMP_CFG_BIN_NS p) else t.sampler p q := by
  rw [State.sample, run_acts_cons, run_acts_cons, run_acts_nil, keeps_when ((raise_own _ _).keeps_sampler _ _), run_modSampler]

/-- The instant of the samples that a port took last. -/
def State.sampledAt (p : Nat) (s : State) : Option Nat := (s.port p).sampT

theorem sample_keeps_sampledAt (s : State) (p w q : Nat) : (s.sample p w q).keeps (State.sampledAt p) := by
  have hsampler (f : Sampler → Sampler) : (modSampler p q f).keeps (State.sampledAt p) := fun t => by
    rw [State.sampledAt, modSampler, run_modPort_self, State.sampledAt]
  have hraise : (raise F.SCH_EVT_CAUSE_SOJOURN_HIGH (aisleOf p)).keeps (State.sampledAt p) := fun t =>
    congrArg PortS.sampT ((raise_own _ _).port t p)
  exact .acts ⟨hsampler _, keeps_when hraise, trivial⟩

theorem run_latencySample {s : State} {p w : Nat} (hstarts : s.starts p = true) (hinst : s.sampInstant p = some w)
    (hnew : (s.port p).sampT ≠ some w) :
    run (latencySample p) s = run (each (List.range 9) (s.sample p w)) (run (modPort p fun P => { P with sampT := some w }) s) := by
  rw [latencySample, run_look, hinst]
  dsimp only
  rw [run_when_eq_true (by simp [hstarts, hnew]), run_acts_cons, run_acts_cons, run_acts_nil]
  rfl

/-- Between two instants, and at one whose samples are taken, no queue takes a sample. -/
theorem run_latencySample_idle {s : State} {p : Nat} (h : s.sampInstant p = none ∨ s.sampInstant p = (s.port p).sampT) :
    run (latencySample p) s = s := by
  rw [latencySample, run_look]
  cases hinst : s.sampInstant p with
  | none => rfl
  | some w =>
    have htaken : (s.port p).sampT = some w := by rw [hinst] at h; exact (h.resolve_left nofun).symm
    exact run_when_eq_false (by simp [htaken]) _ _

theorem latencySample_sampledAt {s : State} {p w : Nat} (hstarts : s.starts p = true) (hinst : s.sampInstant p = some w)
    (hnew : (s.port p).sampT ≠ some w) : (run (latencySample p) s).sampledAt p = some w := by
  rw [run_latencySample hstarts hinst hnew, keeps_each fun q _ => sample_keeps_sampledAt s p w q, State.sampledAt, run_modPort_self]

theorem latencySample_sampler {s : State} {p w q : Nat} (hstarts : s.starts p = true) (hinst : s.sampInstant p = some w)
    (hnew : (s.port p).sampT ≠ some w) (hq : q < 9) : (run (latencySample p) s).sampler p q =
      (s.sampler p q).add (s.depth p q) (s.sojourn p q w) (s.fld F.SCH_SAMP_CFG_BIN_NS p) := by
  have hmark : (run (modPort p fun P => { P with sampT := some w }) s).sampler p q = s.sampler p q := by
    rw [State.sampler, run_modPort_self, State.sampler]
  obtain ⟨u, hu, hrun⟩ := each_pick (g := State.sampler p q) (f := s.sample p w) List.nodup_range (List.mem_range.2 hq)
    (fun k hk t => by rw [run_sample, if_neg (Ne.symm hk)]) (run (modPort p fun P => { P with sampT := some w }) s)
  rw [run_latencySample hstarts hinst hnew, hrun, run_sample, if_pos rfl, hu, hmark]

/-! ### CLEAR of the samplers (R221) -/

/-- A sampler after CLEAR: its last values stay. -/
def Sampler.cleared (a : Sampler) : Sampler := { dLast := a.dLast, sLast := a.sLast }

theorem run_samplerClear {s : State} {r : Req} {p : Nat} (h : s.takes r .SCH_SAMP_CTL p = true) (hstarts : s.starts p = true) (v : Word) :
    run (samplerClear r p v) s = run (each ((List.range 9).filter fun q => v.getLsbD q) fun q => modSampler p q Sampler.cleared)
      (run (writeFields (s.asReq r) .SCH_SAMP_CTL p v) s) := by
  rw [samplerClear, run_onWrite h, run_look, run_acts_cons, run_acts_cons, run_acts_nil, run_when_eq_true hstarts]
  rfl

/-- A write of SCH_SAMP_CTL restarts the samplers of its CLEAR bits, and no other. -/
theorem samplerClear_sampler {s : State} {r : Req} {p : Nat} (h : s.takes r .SCH_SAMP_CTL p = true) (hstarts : s.starts p = true) (v : Word)
    {q : Nat} (hq : q < 9) : (run (samplerClear r p v) s).sampler p q = if v.getLsbD q then (s.sampler p q).cleared else s.sampler p q := by
  have hwrite := (writeFields_own (s.asReq r) .SCH_SAMP_CTL p v).keeps_sampler p q
  have hother (k : Nat) (hk : k ≠ q) : (modSampler p k Sampler.cleared).keeps (State.sampler p q) := fun t => by
    rw [run_modSampler, if_neg (Ne.symm hk)]
  rw [run_samplerClear h hstarts]
  split
  · next hv =>
    obtain ⟨u, hu, hrun⟩ := each_pick (g := State.sampler p q) (f := fun k => modSampler p k Sampler.cleared)
      (List.nodup_range.filter fun q => v.getLsbD q) (List.mem_filter.2 ⟨List.mem_range.2 hq, hv⟩) hother
      (run (writeFields (s.asReq r) .SCH_SAMP_CTL p v) s)
    rw [hrun, run_modSampler, if_pos rfl, hu, hwrite]
  · next hv =>
    rw [keeps_each fun k hk => hother k fun e => hv (e ▸ (List.mem_filter.1 hk).2), hwrite]

/-! ### The obligation -/

/-- Settles O36: the traffic of the queue selected says what is sent or dropped, no action of the clearance but its own writes the port, and
the samplers change one by one. -/
theorem schedulerStartsAFrame : Obligations.SchedulerStartsAFrame := by
  unfold Obligations.SchedulerStartsAFrame
  refine ⟨fun s p pos sub q mp d r htx hstarts hhalt hsoft hsel hhead => ?_, fun s p pos sub htx hstarts hhalt hsoft hsel => ?_,
    fun s p hhalt hstarts hen hdue hopen hlead => ?_, fun s p w hhalt hclosed hwaits hat hage => ?_, fun s p hat => ?_,
    fun s p w hhalt hstarts hinst hnew => ?_, fun s p hidle => ?_, fun s r p v htakes hstarts => ?_⟩
  · refine completes_run (a := coreDo (schedulerSelect p pos sub)) rfl ?_
    rw [run_coreDo _ _ hhalt]
    rw [selected_eq] at hsel hhead
    obtain ⟨hold, hyoung⟩ := schedulerSelect_spec pos htx hstarts hsoft hsel hhead
    rw [tooOld_iff] at hold hyoung
    dsimp only
    split_ifs with hage
    · obtain ⟨htraffic, haged⟩ := hold hage
      obtain ⟨hqueue, hline⟩ := Prod.ext_iff.1 htraffic
      exact ⟨hqueue, Option.map_eq_none_iff.1 hline, haged⟩
    · exact Prod.ext_iff.1 (hyoung hage)
  · refine completes_run (a := coreDo (schedulerSelect p pos sub)) rfl ?_
    rw [selected_eq] at hsel
    rw [run_coreDo _ _ hhalt, run_schedulerSelect_none pos htx hstarts hsoft hsel]
    have hline := congrArg Prod.snd (afterSelect_traffic s p sub 0)
    rw [PortS.traffic, selected_tx, htx] at hline
    exact ⟨Option.map_eq_none_iff.1 hline, afterSelect_out s p sub⟩
  · refine completes_run (a := coreDo (qtClearClose p)) rfl ?_
    rw [run_coreDo _ _ hhalt]
    have hclosed := qtClearClose_qtClosed hstarts hen hdue hopen hlead
    exact ⟨hclosed, gates_of_qtClosed hclosed _⟩
  · refine completes_run (a := coreDo (qtClearReopen p)) rfl ?_
    rw [run_coreDo _ _ hhalt]
    exact qtClearReopen_port hclosed hwaits hat hage
  · refine completes_run (a := coreDo (qtClearReopen p)) rfl ?_
    rw [coreDo, run_look, run_when, run_qtClearReopen_early hat, ite_self]
  · refine completes_run (a := coreDo (latencySample p)) rfl ?_
    rw [run_coreDo _ _ hhalt]
    exact ⟨latencySample_sampledAt hstarts hinst hnew, fun q hq => latencySample_sampler hstarts hinst hnew hq⟩
  · refine completes_run (a := coreDo (latencySample p)) rfl ?_
    rw [coreDo, run_look, run_when, run_latencySample_idle hidle, ite_self]
  · refine completes_run (a := samplerClear r p v) rfl fun q hq => ?_
    exact samplerClear_sampler htakes hstarts v hq

end Sys2Proof.Machine
end

section
/-!
PROOF. What the commands of the time unit leave alone: the frame of each command's action lies within the one that `frameTime` lists.
-/
set_option Elab.async false
namespace Sys2Proof.Machine

/-- The action of a command of the time unit lies within its frame. -/
theorem frameTime_action (c : Instr) (P : List Part) (R : List Reg) (h : frameTime c = some (P, R)) :
    ∃ a : Act, (∀ s, exec c s = .next (run a s)) ∧ a.Framed P R := by
  cases c with
  | timeWordSend => cases h; exact ⟨_, fun _ => rfl, timeWord_framed.widen⟩
  | distEchoMeasure => cases h; exact ⟨_, fun _ => rfl, (distEchoMeasure_framed _ _).widen⟩
  | timeStep => cases h; exact ⟨_, fun _ => rfl, timeStep_framed.widen⟩
  | calibrationStart => cases h; exact ⟨_, fun _ => rfl, (calibrationStart_framed _ _).widen⟩
  | calibrationCommit => cases h; exact ⟨_, fun _ => rfl, (calibrationCommit_framed _ _).widen⟩
  | calPeriodExpire => cases h; exact ⟨_, fun _ => rfl, (calPeriodExpire_framed _).widen⟩
  | calReq => cases h; exact ⟨_, fun _ => rfl, (calReq_framed _ _ _).widen⟩
  | probeReq => cases h; exact ⟨_, fun _ => rfl, (probeReq_framed _ _ _).widen⟩
  | probeSend => cases h; exact ⟨_, fun _ => rfl, (probeSend_framed _).widen⟩
  | probeResponse => cases h; exact ⟨_, fun _ => rfl, (probeResponse_framed _ _).widen⟩
  | probeNone => cases h; exact ⟨_, fun _ => rfl, (probeNone_framed _).widen⟩
  | linkdlyPeriodExpire => cases h; exact ⟨_, fun _ => rfl, (linkdlyPeriodExpire_framed _).widen⟩
  | bmcaRun => cases h; exact ⟨_, fun _ => rfl, (bmcaRun_framed _).widen⟩
  | announceReceiptTimeout => cases h; exact ⟨_, fun _ => rfl, (announceReceiptTimeout_framed _).widen⟩
  | servoSample => cases h; exact ⟨_, fun _ => rfl, (servoSample_framed _).widen⟩
  | sourceLost => cases h; exact ⟨_, fun _ => rfl, sourceLost_framed.widen⟩
  | holdoverLimitExpire => cases h; exact ⟨_, fun _ => rfl, holdoverLimitExpire_framed.widen⟩
  | forceNone => cases h; exact ⟨_, fun _ => rfl, (forceNone_framed _ _).widen⟩
  | forceHoldover => cases h; exact ⟨_, fun _ => rfl, (forceHoldover_framed _ _).widen⟩
  | forceFreerun => cases h; exact ⟨_, fun _ => rfl, (forceFreerun_framed _ _).widen⟩
  | ppsInEdge => cases h; exact ⟨_, fun _ => rfl, (ppsInEdge_framed _).widen⟩
  | todSentenceReceive => cases h; exact ⟨_, fun _ => rfl, (todSentenceReceive_framed _).widen⟩
  | ppsLoss => cases h; exact ⟨_, fun _ => rfl, ppsLoss_framed.widen⟩
  | dpllInputLoss => cases h; exact ⟨_, fun _ => rfl, (dpllInputLoss_framed _).widen⟩
  | dpllInputQualify => cases h; exact ⟨_, fun _ => rfl, (dpllInputQualify_framed _).widen⟩
  | refSwitch => cases h; exact ⟨_, fun _ => rfl, refSwitch_framed.widen⟩
  | dpllLock => cases h; exact ⟨_, fun _ => rfl, dpllLock_framed.widen⟩
  | esmcTimeout => cases h; exact ⟨_, fun _ => rfl, (esmcTimeout_framed _).widen⟩
  | ppsOutEdge => cases h; exact ⟨_, fun _ => rfl, ppsOutEdge_framed.widen⟩
  | todSentenceSend => cases h; exact ⟨_, fun _ => rfl, todSentenceSend_framed.widen⟩
  | tallyIssue => cases h; exact ⟨_, fun _ => rfl, tallyIssue_framed.widen⟩
  | tallySigned => cases h; exact ⟨_, fun _ => rfl, .coreDo tallySigned_framed.widen⟩
  | _ => cases h

/-- Settles O8: no action of the time unit writes outside its frame. -/
theorem timeFrames : Obligations.TimeFrames := by
  intro c P R s t h ht
  obtain ⟨a, ha, hf⟩ := frameTime_action c P R h
  exact hf.exec ha ht

end Sys2Proof.Machine
end

section
/-!
PROOF. Frequency inputs and PPS_IN before the exit sequence is complete (R257, R263, R315): no input qualifies and no edge is taken.
-/
set_option Elab.async false
namespace Sys2Proof.Machine

/-- Before the exit sequence is complete no input qualifies. -/
theorem dpllInputQualify_unreleased (i : Nat) {s : State} (h : s.released = false) : run (dpllInputQualify i) s = s := by
  rw [dpllInputQualify, run_look]
  dsimp only
  rw [run_when_eq_false (by simp [h])]

/-- Before the exit sequence is complete no edge of PPS_IN is taken. -/
theorem ppsInEdge_unreleased (sub : Nat) {s : State} (h : s.released = false) : run (ppsInEdge sub) s = s := by
  rw [ppsInEdge, run_look]
  dsimp only
  rw [run_when_eq_false h]

/-- The state after reset waits for its sources to be released. -/
theorem reset_unreleased : State.reset.released = false := rfl

/-- Refutes O31: the clause on qualification does not ask that the exit sequence be complete. In the state after reset, input 1 (index 0) meets
its premises (device time does not run, so no expiry waits; log 10), and QUAL stays 0. -/
theorem not_frequencyInputsAndSelection : ¬ Obligations.FrequencyInputsAndSelection := by
  unfold Obligations.FrequencyInputsAndSelection
  rintro ⟨-, hqualify, -⟩
  have haged : State.reset.aged (tabGet State.reset.time.inAt 0 (0 : Fin 4)) (State.reset.qualNs (0 : Fin 4)) = true := rfl
  have h := completes_next (a := dpllInputQualify 0) rfl (hqualify State.reset 0 (.inl rfl) haged) 0 (by decide)
  rw [dpllInputQualify_unreleased 0 reset_unreleased] at h
  have hqual : State.reset.fld F.TIME_DPLL_STATUS_QUAL 0 = 0 := by decide
  rw [hqual] at h
  exact absurd h (by decide)

/-- Refutes O32: the clause on edges of PPS_IN does not ask that the exit sequence be complete. In the state after reset an edge brings no
timestamp. -/
theorem not_pulsesAndTimeOfDay : ¬ Obligations.PulsesAndTimeOfDay := by
  unfold Obligations.PulsesAndTimeOfDay
  rintro ⟨hedge, -⟩
  obtain ⟨-, hok, -⟩ := completes_next (a := ppsInEdge 0) rfl (hedge State.reset 0)
  rw [ppsInEdge_unreleased 0 reset_unreleased] at hok
  exact absurd hok (by decide)

end Sys2Proof.Machine
end

section
/-!
PROOF. Tallies: their issue at the edge of a second, and their signature (R264, R265, R267, R400).
-/
set_option Elab.async false
namespace Sys2Proof.Machine

/-! ### Issue (R264) -/

/-- The tally of the second at whose edge the device in `s` stands, with this bound, joins those that wait for a signature. -/
def tallyMake (s : State) (bound : Nat) : Act :=
  acts [modTime fun t => { t with
      tallyQ := t.tallyQ ++ [(s.fld F.TIME_TALLY_CFG_CHUNK 0, s.tallyBody s.edgeSec bound)], tallySeq := t.tallySeq + 1, tallyReq := none,
      tallyS := some s.edgeSec, tallyLast := s.edgeSec * 1000, smpN := 0, smpBad := 0, smpMark := false, smpSum := 0, smpMax := 0,
      stepFlag := false },
    setF F.TIME_TALLY_STATUS_SEQ 0 (s.time.tallySeq + 1)]

/-- A tally that may be issued is made with the bound that a rule states, or with a free one, drawn first. -/
theorem run_tallyIssue {s : State} (hen : s.bit F.TIME_TALLY_CFG_TALLY_EN 0 = true) (hrun : s.time.running = true) (hzol : s.zolOn = true)
    (hsec : s.secUp = true) (hnear : s.edgeNear = true)
    (hdue : s.time.tallyReq = some s.edgeSec ∨ s.edgeSec % s.fld F.TIME_TALLY_CFG_PERIOD_S 0 = 0) (hnew : s.time.tallyS ≠ some s.edgeSec) :
    ∃ bound u, u.time = s.time ∧ run tallyIssue s = run (tallyMake s bound) u := by
  rw [tallyIssue, run_look]
  dsimp only
  rw [run_when_eq_true (by simp [hen, hrun, hzol, hsec, hnear, hdue, hnew])]
  cases s.ownBound with
  | some b => exact ⟨b, s, rfl, rfl⟩
  | none => exact ⟨_, applyUpd .fresh s, rfl, rfl⟩

theorem tallyMake_time (s u : State) (bound : Nat) : (run (tallyMake s bound) u).time =
    { u.time with
      tallyQ := u.time.tallyQ ++ [(s.fld F.TIME_TALLY_CFG_CHUNK 0, s.tallyBody s.edgeSec bound)], tallySeq := u.time.tallySeq + 1
      tallyReq := none, tallyS := some s.edgeSec, tallyLast := s.edgeSec * 1000, smpN := 0, smpBad := 0, smpMark := false, smpSum := 0
      smpMax := 0, stepFlag := false } := by
  rw [tallyMake, run_acts_cons, run_acts_cons, run_acts_nil, (setF_own _ _ _).time _, run_modTime]

/-- SEQ of TIME_TALLY_STATUS shows the number of the tally made. -/
theorem tallyMake_seq (s u : State) (bound : Nat) :
    (run (tallyMake s bound) u).rawFld F.TIME_TALLY_STATUS_SEQ 0 = (s.time.tallySeq + 1) % 2 ^ F.TIME_TALLY_STATUS_SEQ.w := by
  rw [tallyMake, run_acts_cons, run_acts_cons, run_acts_nil, setF_rawFld _ _ _ _ (by decide)]

/-! ### Signature (R265, R400) -/

/-- A signature has 4,627 octets; the random octets it may draw leave the time state alone. -/
theorem run_signed (ctx msg : List Byte) (k : List Byte → Act) (s : State) :
    ∃ (sig : List Byte) (u : State), sig.length = 4627 ∧ u.time = s.time ∧ run (signed ctx msg k) s = run (k sig) u := by
  rw [signed, withRnd, run_look]
  split
  · exact ⟨_, applyUpd .fresh s, by simp [sliceB], rfl, rfl⟩
  · exact ⟨_, s, by simp [sliceB], rfl, rfl⟩

/-- The signature of the oldest tally that waits. -/
theorem tallySigned_time {s : State} {c : Nat} {body : List Byte} {rest : List (Nat × List Byte)} (hq : s.time.tallyQ = (c, body) :: rest)
    (hsoft : s.clk.soft.contains unitSec = false) : ∃ sig : List Byte, sig.length = 4627 ∧ (run tallySigned s).time =
      { s.time with
        tallyQ := rest, tallyRing := tabPut s.time.tallyRing [] ((beAt body 0x10 4 - 1) % 16) (body ++ sig)
        tallyParts := s.time.tallyParts ++ tallyDatagrams c (beAt body 0x10 4) (beAt body 8 8) (body ++ sig) } := by
  rw [tallySigned, run_look, hq]
  dsimp only
  rw [hsoft, Bool.not_false, run_when_true]
  obtain ⟨sig, u, hlen, hu, hrun⟩ := run_signed ctxTly body _ s
  exact ⟨sig, hlen, by rw [hrun, run_modTime, hu]⟩

/-- Settles O33: a tally that may be issued is made once, whichever way its bound comes, and the signature of the oldest puts it into its place
of the ring. -/
theorem talliesAreIssuedAndSigned : Obligations.TalliesAreIssuedAndSigned := by
  unfold Obligations.TalliesAreIssuedAndSigned
  refine ⟨fun s hen hrun hzol hsec hnear hdue hnew => completes_run rfl ?_, fun s c body rest hhalt hq hsoft => completes_run rfl ?_⟩
  · obtain ⟨bound, u, hu, hmade⟩ := run_tallyIssue hen hrun hzol hsec hnear hdue hnew
    rw [hmade, tallyMake_time, tallyMake_seq, hu]
    exact ⟨rfl, rfl, rfl, ⟨bound, rfl⟩, rfl⟩
  · obtain ⟨sig, hlen, htime⟩ := tallySigned_time hq hsoft
    rw [run_coreDo _ _ hhalt, htime]
    exact ⟨rfl, sig, hlen, tabGet_tabPut_self _ _ _ _, rfl⟩

end Sys2Proof.Machine
end

section
/-!
PROOF. The summaries of the event tree (R298): a bit for each leaf word that has an enabled bit set.
-/
set_option Elab.async false
namespace Sys2Proof.Machine

/-- Powers of two of rising exponents add up to the number that has those bits. -/
theorem testBit_sum_two_pow {l : List Nat} (hl : l.SortedLT) (i : Nat) : (l.map (2 ^ ·)).sum.testBit i = true ↔ i ∈ l := by
  rw [← Nat.mem_bitIndices, Nat.bitIndices_sum_map_two_pow hl]

theorem summary_getLsbD (s : State) (st en : Reg) (lo n : Nat) {w : Nat} (hw : w < 32) :
    (s.summary st en lo n).getLsbD w = true ↔ w < n ∧ s.raw st (lo + w) &&& s.raw en (lo + w) ≠ 0 := by
  have hsorted (p : Nat → Bool) : ((List.range n).filter p).SortedLT := ((List.sortedLT_range n).pairwise.filter p).sortedLT
  rw [State.summary, BitVec.getLsbD_ofNat, decide_eq_true hw, Bool.true_and, testBit_sum_two_pow (hsorted _)]
  simp

/-- A bit that the mask of a requester lets through reads as the register shows it. -/
theorem readWord_getLsbD {s : State} {rq : Req} {r : Reg} {n i : Nat} (h : (secMask rq r n).getLsbD i = true) :
    (s.readWord rq r n).getLsbD i = (s.shown r n).getLsbD i := by
  rw [State.readWord, BitVec.getLsbD_and, h, Bool.and_true]

/-- A secure master reads every field. -/
theorem secMask_secure {rq : Req} (h : secureReq rq = true) (r : Reg) (n : Nat) : secMask rq r n = regMask r := by
  simp [secMask, h]

/-- The summaries of the host view have no SEC field. -/
theorem secMask_summary (rq : Req) : secMask rq .EVT_SUMMARY0 0 = regMask .EVT_SUMMARY0 ∧ secMask rq .EVT_SUMMARY1 0 = regMask .EVT_SUMMARY1 := by
  simp [secMask, isRing, Reg.fields]

/-- A summary of `m` leaf words, all of whose bits the requester may read. -/
theorem readWord_summary {s : State} {rq : Req} {r st en : Reg} {lo m w : Nat} (hshown : s.shown r 0 = s.summary st en lo m)
    (hmask : secMask rq r 0 = BitVec.ofNat 32 (2 ^ m - 1)) (hm : m ≤ 32) (hw : w < m) :
    (s.readWord rq r 0).getLsbD w = true ↔ s.raw st (lo + w) &&& s.raw en (lo + w) ≠ 0 := by
  have hbit : (secMask rq r 0).getLsbD w = true := by
    rw [hmask, BitVec.getLsbD_ofNat, Nat.testBit_two_pow_sub_one]
    simp [hw, Nat.lt_of_lt_of_le hw hm]
  rw [readWord_getLsbD hbit, hshown, summary_getLsbD _ _ _ _ _ (Nat.lt_of_lt_of_le hw hm), and_iff_right hw]

/-- Settles O58: a summary is the sum of the bits of its pending words, and its mask lets every requester (the Z summaries: a secure
master) read them. -/
theorem eventSummariesShowPendingWords : Obligations.EventSummariesShowPendingWords := by
  unfold Obligations.EventSummariesShowPendingWords
  refine ⟨fun s rq w hw => ?_, fun s rq w hw => ?_, fun s rq w hsec hw => ?_, fun s rq w hsec hw => ?_⟩
  · have h := readWord_summary (s := s) (rq := rq) (r := .EVT_SUMMARY0) rfl ((secMask_summary rq).1.trans (by decide)) (by decide) hw
    rwa [Nat.zero_add] at h
  · exact readWord_summary (r := .EVT_SUMMARY1) rfl ((secMask_summary rq).2.trans (by decide)) (by decide) hw
  · have h := readWord_summary (s := s) (r := .EVT_Z_SUMMARY0) rfl ((secMask_secure hsec _ _).trans (by decide)) (by decide) hw
    rwa [Nat.zero_add] at h
  · exact readWord_summary (r := .EVT_Z_SUMMARY1) rfl ((secMask_secure hsec _ _).trans (by decide)) (by decide) hw

end Sys2Proof.Machine
end

section
/-!
PROOF. Reads through the windows and the SMBus target (R274 to R279, R301).
-/
set_option Elab.async false
namespace Sys2Proof.Machine

/-- Commands whose actions do the same answer the same. -/
theorem exec_eq_of_run {c : Instr} {a b : Act} {s : State} (hc : exec c s = ok a s) (h : run a s = run b s) : exec c s = ok b s := by
  rw [hc, ok_eq, ok_eq, h]

/-! ### SEC fields (R275) -/

/-- The mask that has lost the fields chosen by `p` has none of their bits. -/
theorem foldl_mask_cleared {p : FieldInfo → Bool} {l : List FieldInfo} {f : FieldInfo} (hf : f ∈ l) (hp : p f = true) (m : Word) {i : Nat}
    (hlo : f.lo ≤ i) (hhi : i < f.lo + f.w) :
    (l.foldl (fun m f => if p f then m &&& ~~~ (bitMask f.lo f.w) else m) m).getLsbD i = false := by
  have hstays (l : List FieldInfo) (m : Word) (h : m.getLsbD i = false) :
      (l.foldl (fun m f => if p f then m &&& ~~~ (bitMask f.lo f.w) else m) m).getLsbD i = false := by
    induction l generalizing m with
    | nil => exact h
    | cons g l ih =>
      refine ih _ ?_
      dsimp only
      split_ifs
      · rw [BitVec.getLsbD_and, h, Bool.false_and]
      · exact h
  induction l generalizing m with
  | nil => exact absurd hf List.not_mem_nil
  | cons g l ih =>
    rcases List.mem_cons.1 hf with rfl | hfl
    · refine hstays l _ ?_
      dsimp only
      rw [if_pos hp, BitVec.getLsbD_and, BitVec.getLsbD_not]
      by_cases hi : i < 32
      · rw [getLsbD_bitMask _ _ _ hi, decide_eq_true (p := f.lo ≤ i ∧ i < f.lo + f.w) ⟨hlo, hhi⟩, Bool.not_true, Bool.and_false, Bool.and_false]
      · rw [decide_eq_false hi, Bool.false_and, Bool.and_false]
    · exact ih hfl _

/-- A SEC field reads 0 for a requester that is no secure master. -/
theorem readWord_sec {s : State} {rq : Req} {r : Reg} {n : Nat} {f : FieldInfo} (hf : f ∈ r.fields) (hsec : f.sec = true)
    (hrq : secureReq rq = false) : bits (s.readWord rq r n) f.lo f.w = 0 := by
  apply Nat.eq_of_testBit_eq
  intro i
  rw [testBit_bits, Nat.zero_testBit]
  by_cases hi : i < f.w
  · have hmask : (secMask rq r n).getLsbD (f.lo + i) = false := by
      rw [secMask]
      split_ifs
      · exact BitVec.getLsbD_zero
      · exact foldl_mask_cleared (p := fun f => f.sec && !secureReq rq) hf (by simp [hsec, hrq]) _ (Nat.le_add_right _ _) (by omega)
    rw [State.readWord, BitVec.getLsbD_and, hmask, Bool.and_false, Bool.and_false]
  · rw [decide_eq_false hi, Bool.false_and]

/-! ### Reads through a window (R274) -/

theorem windowRead_found {s : State} {rq : Req} {a : Nat} {r : Reg} {n : Nat} (h : s.arrives rq = true) (ha : a % 4 = 0)
    (hf : (windowAddr rq a).bind findReg = some (r, n)) (he : s.accessErr rq r n = none) :
    run (windowRead rq true a) s = run (emit (.readData (s.asReq rq) (s.readWord (s.asReq rq) r n))) s := by
  rw [windowRead, run_look, h, run_when_true]
  dsimp only
  rw [if_neg (by simp [ha]), hf]
  dsimp only
  rw [he]

/-- A read of another shape, of a reserved location, or of a block not started is a bus error. -/
theorem windowRead_refused {s : State} {rq : Req} {ok : Bool} {a : Nat} (h : s.arrives rq = true)
    (hbad : ok = false ∨ a % 4 ≠ 0 ∨ (windowAddr rq a).bind findReg = none ∨
      ∃ r n, (windowAddr rq a).bind findReg = some (r, n) ∧ s.accessErr rq r n ≠ none) :
    ∃ kind, run (windowRead rq ok a) s = run (busError (s.asReq rq) a kind false) s := by
  rw [windowRead, run_look, h, run_when_true]
  dsimp only
  split_ifs with hshape
  · exact ⟨1, rfl⟩
  · obtain ⟨hok, ha⟩ : ok = true ∧ a % 4 = 0 := by simpa using hshape
    rcases hbad with h0 | h0 | h0 | ⟨r, n, h0, he⟩
    · exact absurd (hok.symm.trans h0) (by decide)
    · exact absurd ha h0
    · exact ⟨0, by rw [h0]⟩
    · obtain ⟨kind, hk⟩ := Option.ne_none_iff_exists'.1 he
      exact ⟨kind, by rw [h0]; dsimp only; rw [hk]⟩

/-! ### Commands of the SMBus target (R277, R278) -/

theorem run_onSmb_own {s : State} (h : s.arrives .smb = true) (code : BitVec 8) (k : Act) : run (onSmb code code k) s = run k s := by
  rw [onSmb, run_look, h, run_when_true, if_pos rfl]

/-- A command code of no SMBus command is not acknowledged. -/
theorem run_onSmb_unknown {s : State} (h : s.arrives .smb = true) {code own : BitVec 8} (hown : code ≠ own) (h20 : code ≠ 0x20)
    (h21 : code ≠ 0x21) (h0F : code ≠ 0x0F) (k : Act) : run (onSmb code own k) s = run (emit .smbNack) s := by
  rw [onSmb, run_look, h, run_when_true, if_neg hown, run_when_eq_true (by rw [bne_iff_ne.2 h20, bne_iff_ne.2 h21, bne_iff_ne.2 h0F]; rfl)]

theorem narrow_sys {a : Nat} (h : a < 0x1000) (ha : a % 4 = 0) : narrow a = some a := by
  rw [narrow, if_neg (by omega), if_pos h]

/-- A REG_WRITE with a bad PEC, or none where one is required, is discarded and counted. -/
theorem regWrite_badPec {s : State} (h : s.arrives .smb = true) {p : Option Bool}
    (hp : p = some false ∨ p = none ∧ s.bit F.SYS_IF_CFG_SMB_PEC_REQ 0 = true) (c a : Nat) (v : Word) :
    run (regWrite 0x21 c a v p) s = run (modEvt fun e => { e with smbDrops := e.smbDrops + 1 }) s := by
  rw [regWrite, run_onSmb_own h, run_look, if_pos hp]

/-- A REG_WRITE with another count than 6, or outside the SYS registers, does nothing. -/
theorem regWrite_outside {c a : Nat} (hc : c ≠ 6 ∨ 0x1000 ≤ a) (v : Word) (s : State) : run (regWrite 0x21 c a v (some true)) s = s := by
  by_cases h : s.arrives .smb = true
  · rw [regWrite, run_onSmb_own h, run_look, if_neg (by simp)]
    split_ifs with h6
    · rfl
    · have ha : ¬ a < 0x1000 := by omega
      split
      · rfl
      · rw [decide_eq_false ha, run_when_false]
  · rw [regWrite, onSmb, run_look, run_when_eq_false (by simpa using h)]

/-- A good REG_WRITE of a SYS register is the write of that register. -/
theorem regWrite_found {s : State} (h : s.arrives .smb = true) {a : Nat} (hsys : a < 0x1000) (ha : a % 4 = 0) {r : Reg} {n : Nat}
    (hf : findReg a = some (r, n)) (v : Word) : run (regWrite 0x21 6 a v (some true)) s = run (wordWrite .smb r n v) s := by
  rw [regWrite, run_onSmb_own h, run_look, if_neg (by simp), if_neg (by simp), narrow_sys hsys ha, Option.bind_some, hf]
  dsimp only
  rw [decide_eq_true hsys, run_when_true]

/-! ### The obligation -/

/-- Settles O55: a read answers the word shown or is one bus error, and each SMBus command follows from how its code, count, PEC and address
are taken. -/
theorem theSmbusReadsAndWrites : Obligations.TheSmbusReadsAndWrites := by
  unfold Obligations.TheSmbusReadsAndWrites
  refine ⟨fun s rq a r n h ha hf he => ?_, fun s rq ok a h hbad => ?_, fun s a h => ?_, fun s c a v p h hp => ?_, fun s c a v hc => ?_,
    fun s a v r n h hsys ha hf => ?_, fun s k c a v p h h20 h21 h0F => ?_, fun s => completes_run rfl rfl, fun s h => ?_, fun s h => ?_⟩
  · refine completes_run (a := windowRead rq true a) rfl ⟨?_, fun f hfield hsec hrq => readWord_sec hfield hsec hrq⟩
    rw [windowRead_found h ha hf he]
    rfl
  · refine completes_run (a := windowRead rq ok a) rfl ?_
    obtain ⟨kind, hk⟩ := windowRead_refused h hbad
    rw [hk]
    exact busError_noted _ _ _ _ _
  · refine completes_run (a := onSmb 0x20 0x20 (.look fun s => emit (.smbRead (s.smbAnswer a)))) rfl ?_
    rw [run_onSmb_own h]
    rfl
  · refine completes_run (a := regWrite 0x21 c a v p) rfl ?_
    rw [regWrite_badPec h hp]
    rfl
  · exact completes_run (a := regWrite 0x21 c a v (some true)) rfl (regWrite_outside hc v s)
  · refine completes_run (a := regWrite 0x21 6 a v (some true)) rfl ?_
    have hwin : (windowAddr .smb a).bind findReg = some (r, n) := hf
    rw [regWrite_found h hsys ha hf, ← registerWrite_found (rq := .smb) h ha hwin]
    rfl
  · refine completes_run (a := regWrite k c a v p) rfl ?_
    have hread : run (regRead (.smbus k a)) s = run (regWrite k c a v p) s := by
      rw [regRead, regWrite, run_onSmb_unknown h h20 h20 h21 h0F, run_onSmb_unknown h h21 h20 h21 h0F]
    refine ⟨?_, exec_eq_of_run (a := regRead (.smbus k a)) rfl hread⟩
    rw [regWrite, run_onSmb_unknown h h21 h20 h21 h0F]
    rfl
  · refine completes_run (a := alertResponse) rfl ?_
    rw [alertResponse, run_look, h, run_when_true]
    exact ⟨Bool.and_false _, rfl, rfl⟩
  · refine completes_run (a := alertResponse) rfl ?_
    rw [alertResponse, run_look, h, run_when_false]

end Sys2Proof.Machine
end

section
/-!
PROOF. The delivery of events (R294, R296, R299, R300): what an occurrence records, which message it sends, and the end of a holdoff.
-/
set_option Elab.async false
namespace Sys2Proof.Machine

/-! ### Bits of a leaf word -/

theorem and_ofNat_two_pow_eq_zero (x : Word) {i : Nat} (hi : i < 32) : x &&& BitVec.ofNat 32 (2 ^ i) = 0 ↔ x.getLsbD i = false := by
  constructor
  · intro h
    have hbit : (x &&& BitVec.ofNat 32 (2 ^ i)).getLsbD i = false := by rw [h]; exact BitVec.getLsbD_zero
    rwa [BitVec.getLsbD_and, BitVec.getLsbD_ofNat, decide_eq_true hi, Nat.testBit_two_pow_self, Bool.and_true, Bool.and_true] at hbit
  · intro h
    apply BitVec.eq_of_getLsbD_eq
    intro j _
    rw [BitVec.getLsbD_and, BitVec.getLsbD_ofNat, Nat.testBit_two_pow]
    by_cases hj : i = j
    · rw [← hj, h, Bool.false_and]; exact BitVec.getLsbD_zero.symm
    · rw [decide_eq_false hj, Bool.and_false, Bool.and_false]; exact BitVec.getLsbD_zero.symm

theorem getLsbD_or_two_pow (x : Word) {i : Nat} (hi : i < 32) : (x ||| BitVec.ofNat 32 (2 ^ i)).getLsbD i = true := by
  rw [BitVec.getLsbD_or, BitVec.getLsbD_ofNat, decide_eq_true hi, Nat.testBit_two_pow_self, Bool.and_true, Bool.or_true]

/-- The bit of source `e` is clear in a status word and set in its enable word: its view has news. -/
def State.rises (s : State) (st en : Reg) (e : Nat) : Bool :=
  !(s.raw st (e / 32)).getLsbD (e % 32) && (s.raw en (e / 32)).getLsbD (e % 32)

theorem rises_iff (s : State) (st en : Reg) (e : Nat) : s.rises st en e = true ↔
    (s.raw st (e / 32)).getLsbD (e % 32) = false ∧ (s.raw en (e / 32)).getLsbD (e % 32) = true := by
  simp [State.rises]

theorem rises_mask (s : State) (st en : Reg) (e : Nat) : (decide (s.raw st (e / 32) &&& BitVec.ofNat 32 (2 ^ (e % 32)) = 0) &&
    (s.raw en (e / 32) &&& BitVec.ofNat 32 (2 ^ (e % 32))) != 0) = s.rises st en e := by
  have hi : e % 32 < 32 := Nat.mod_lt _ (by decide)
  rw [Bool.eq_iff_iff, rises_iff, Bool.and_eq_true, decide_eq_true_iff, bne_iff_ne, ne_eq, and_ofNat_two_pow_eq_zero _ hi,
    and_ofNat_two_pow_eq_zero _ hi, Bool.not_eq_false]

/-! ### What an occurrence records (R294, R296) -/

/-- The writes of an occurrence before its delivery: both views, the counter, and the interrupt of Zolliwin by its own view. -/
def record (e : Nat) : Act :=
  .look fun s => acts [.upd (.reg .EVT_STATUS (e / 32) (s.raw .EVT_STATUS (e / 32) ||| BitVec.ofNat 32 (2 ^ (e % 32)))),
    .upd (.reg .EVT_Z_STATUS (e / 32) (s.raw .EVT_Z_STATUS (e / 32) ||| BitVec.ofNat 32 (2 ^ (e % 32)))),
    .upd (.occ e (if s.occOf e = 0xFFFF#16 then 0xFFFF#16 else s.occOf e + 1)),
    when (s.rises .EVT_Z_STATUS .EVT_Z_ENABLE e) (emit (.zolEvt (e / 32)))]

/-- An occurrence is its record, and a delivery where the host view has news. -/
theorem occur_eq (e : Nat) (s : State) (h : e < 1024 → s.starts (e % 512) = true) :
    run (occur e) s = run (when (s.rises .EVT_STATUS .EVT_ENABLE e) (deliver (e / 32))) (run (record e) s) := by
  rw [run_occur e s fun hn => absurd (h hn.1) (by simp [hn.2]), rises_mask, rises_mask]
  rfl

theorem record_framed (e : Nat) : (record e).Framed [.regs, .occ, .out] [.EVT_STATUS, .EVT_Z_STATUS] :=
  .look fun _ => .acts ⟨(reg_own _ _ _).widen, (reg_own _ _ _).widen, .upd rfl, .when (emit_own _).widen, trivial⟩

theorem record_run (e : Nat) (s : State) :
    run (record e) s = run (when (s.rises .EVT_Z_STATUS .EVT_Z_ENABLE e) (emit (.zolEvt (e / 32)))) (s.recorded e) := rfl

theorem record_out (e : Nat) (s : State) : (run (record e) s).out = zolTold s e := by
  rw [record_run, zolTold]
  by_cases h : s.rises .EVT_Z_STATUS .EVT_Z_ENABLE e = true
  · rw [run_when_eq_true h, if_pos ((rises_iff _ _ _ _).1 h)]; rfl
  · rw [run_when_eq_false (by simpa using h), if_neg fun hn => h ((rises_iff _ _ _ _).2 hn)]; rfl

theorem record_occOf (e : Nat) (s : State) : ((run (record e) s).occOf e).toNat = min 65535 ((s.occOf e).toNat + 1) := by
  rw [record_run, (Act.Framed.when (emit_own _)).occOf, State.recorded, occOf_applyUpd, if_pos rfl]
  split <;> bv_omega

theorem record_views (e : Nat) (s : State) : ((run (record e) s).raw .EVT_STATUS (e / 32)).getLsbD (e % 32) = true ∧
    ((run (record e) s).raw .EVT_Z_STATUS (e / 32)).getLsbD (e % 32) = true := by
  have hi : e % 32 < 32 := Nat.mod_lt _ (by decide)
  have hframe : (when (s.rises .EVT_Z_STATUS .EVT_Z_ENABLE e) (emit (.zolEvt (e / 32)))).Framed [.out] [] := .when (emit_own _)
  have hmask : regMask .EVT_STATUS = BitVec.allOnes 32 ∧ regMask .EVT_Z_STATUS = BitVec.allOnes 32 := by decide
  rw [record_run, (hframe.reg rfl _ _).1, (hframe.reg rfl _ _).1, recorded_status, recorded_zStatus, hmask.1, hmask.2, BitVec.and_allOnes,
    BitVec.and_allOnes]
  exact ⟨getLsbD_or_two_pow _ hi, getLsbD_or_two_pow _ hi⟩

/-! ### Messages (R299, R300) -/

@[simp] theorem run_modMsi_self (k : Nat) (f : Msi → Msi) (s : State) : (run (modMsi k f) s).msiV k = f (s.msiV k) := by
  rw [modMsi, run_look, run_upd, msiV_applyUpd, if_pos rfl]

theorem addSat_rawFld (f : Fld) (n k : Nat) (s : State) (h : f.held = true) :
    (run (addSat f n k) s).rawFld f n = min (s.rawFld f n + k) (2 ^ f.w - 1) := by
  have hpos := Nat.two_pow_pos f.w
  rw [addSat, run_look, setF_rawFld _ _ _ _ h, Nat.mod_eq_of_lt (by omega)]

/-- What leaves the device's complex and the table of enabled functions alone leaves the functions that can send. -/
theorem Act.Framed.msixUp {P : List Part} {R : List Reg} {a : Act} (h : a.Framed P R) (s : State) (pf : Nat)
    (hc : P.contains .clk = false := by decide) (he : P.contains .evt = false := by decide)
    (hr : R.contains .CLK_STATUS = false := by decide) : (Machine.run a s).msixUp pf = s.msixUp pf := by
  rw [State.msixUp, h.clk s hc, h.evt s he, h.bit F.CLK_STATUS_PCIE_LOCK 0 s hr, State.msixUp]

theorem Act.Framed.msiV {P : List Part} {R : List Reg} {a : Act} (h : a.Framed P R) (s : State) (k : Nat)
    (hx : P.contains .msi = false := by decide) : (Machine.run a s).msiV k = s.msiV k := by
  rw [State.msiV, show (Machine.run a s).msi = s.msi from h.part .msi s hx, State.msiV]

section
variable {s : State} {pf vec : Nat}

theorem sendMsi_lost (h : s.msixUp pf = false ∨ msixEntries pf ≤ vec) :
    run (sendMsi pf vec) s = run (addSat F.EVT_MSI_LOST_COUNT 0 1) s := by
  rw [sendMsi, run_look]
  dsimp only
  rw [if_pos (by simpa using h)]

theorem sendMsi_masked (hup : s.msixUp pf = true) (hvec : vec < msixEntries pf) (hm : (s.msiV (msiKey pf vec)).masked = true) :
    run (sendMsi pf vec) s = run (modMsi (msiKey pf vec) fun m => { m with pend := true }) s := by
  rw [sendMsi, run_look]
  dsimp only
  rw [if_neg (by simp [hup, hvec]), if_pos hm]

theorem sendMsi_holding (hup : s.msixUp pf = true) (hvec : vec < msixEntries pf) (hm : (s.msiV (msiKey pf vec)).masked = false)
    (hh : (s.msiV (msiKey pf vec)).holding = true) :
    run (sendMsi pf vec) s = run (modMsi (msiKey pf vec) fun m => { m with owed := true }) s := by
  rw [sendMsi, run_look]
  dsimp only
  rw [if_neg (by simp [hup, hvec]), if_neg (by simp [hm]), if_pos hh]

/-- A message that is sent begins a holdoff where one is configured. -/
theorem sendMsi_sent (h : canSend s pf vec) : run (sendMsi pf vec) s =
    run (when (decide (0 < s.fld F.EVT_CFG_HOLDOFF_US 0)) (modMsi (msiKey pf vec) fun m => { m with holding := true, holdAt := s.time.words }))
      (run (emit (.msi pf vec)) s) := by
  obtain ⟨hup, hvec, hm, hh⟩ := h
  rw [sendMsi, run_look]
  dsimp only
  rw [if_neg (by simp [hup, hvec]), if_neg (by simp [hm]), if_neg (by simp [hh])]
  rfl

theorem sendMsi_narrow (pf vec : Nat) : (sendMsi pf vec).Framed [.regs, .live, .msi, .out] [.EVT_MSI_LOST] :=
  .look fun _ => .ite (addSat_own _ _ _).widen (.ite (modMsi_own _ _).widen (.ite (modMsi_own _ _).widen
    (.acts ⟨(emit_own _).widen, .when (modMsi_own _ _).widen, trivial⟩)))

theorem sendMsi_out (h : canSend s pf vec) : (run (sendMsi pf vec) s).out = .msi pf vec :: s.out := by
  rw [sendMsi_sent h, (Act.Framed.when (modMsi_own _ _)).out]
  rfl

/-- After a message the vector holds off exactly where a holdoff is configured; nothing else of it changes. -/
theorem sendMsi_vector (h : canSend s pf vec) : (run (sendMsi pf vec) s).msiV (msiKey pf vec) =
    if 0 < s.fld F.EVT_CFG_HOLDOFF_US 0 then { s.msiV (msiKey pf vec) with holding := true, holdAt := s.time.words }
    else s.msiV (msiKey pf vec) := by
  rw [sendMsi_sent h]
  split_ifs with h0
  · rw [run_when_eq_true (decide_eq_true h0), run_modMsi_self]
    rfl
  · rw [run_when_eq_false (decide_eq_false h0)]
    rfl

theorem deliver_function {w : Nat} (hd : s.fld F.EVT_ROUTE_DEST w = pf + 1) (hpf : pf < 4) :
    run (deliver w) s = run (sendMsi pf (s.fld F.EVT_ROUTE_VECTOR w)) s := by
  rw [deliver, run_look]
  dsimp only
  rw [hd, if_pos (by omega), Nat.add_sub_cancel]

theorem deliver_zolliwin {w : Nat} (hd : s.fld F.EVT_ROUTE_DEST w = 5) : run (deliver w) s = run (emit (.zolIrq w)) s := by
  rw [deliver, run_look]
  dsimp only
  rw [hd, if_neg (by decide), decide_eq_true rfl, run_when_true]

end

/-! ### Occurrences by EVT_TEST (R304) -/

theorem evtTest_occurs {s : State} {rq : Req} {v : Word} (h : s.takes rq .EVT_TEST 0 = true) (hgo : v.getLsbD 31 = true)
    (hv : bits v 0 11 ≤ 1791) : run (evtTest rq v) s = run (occur (bits v 0 11)) s := by
  rw [evtTest, run_onWrite h, evtTestWrite, run_when_eq_true (by simp [hgo, hv])]

theorem evtTest_nothing {s : State} {rq : Req} {v : Word} (h : s.takes rq .EVT_TEST 0 = true) (hno : v.getLsbD 31 = false ∨
    1791 < bits v 0 11 ∨ bits v 0 11 < 1024 ∧ s.starts (bits v 0 11 % 512) = false) : run (evtTest rq v) s = s := by
  rw [evtTest, run_onWrite h, evtTestWrite]
  rcases hno with h0 | h0 | h0
  · rw [run_when_eq_false (by rw [h0, Bool.false_and])]
  · rw [run_when_eq_false (by rw [decide_eq_false (Nat.not_le.2 h0), Bool.and_false])]
  · have hskip : run (occur (bits v 0 11)) s = s := by rw [occur, run_look, if_pos h0, run_skip]
    rw [run_when, hskip, ite_self]

/-! ### Holdoffs and unmasks (R300) -/

/-- A vector's holdoff is over, and nothing is owed for it. -/
def vectorFree (pf vec : Nat) : Act := modMsi (msiKey pf vec) fun m => { m with holding := false, owed := false }

/-- A vector is unmasked, and no message is pending for it. -/
def vectorOpen (pf vec : Nat) : Act := modMsi (msiKey pf vec) fun m => { m with masked := false, pend := false }

/-- MSI-X of a function is enabled or disabled. -/
def msixTurn (pf : Nat) (en : Bool) : Act :=
  modEvt fun e => { e with msixOn := if en then addSet e.msixOn pf else e.msixOn.filter (· != pf) }

theorem vectorFree_framed (pf vec : Nat) : (vectorFree pf vec).Framed [.msi] [] := modMsi_own _ _
theorem vectorOpen_framed (pf vec : Nat) : (vectorOpen pf vec).Framed [.msi] [] := modMsi_own _ _
theorem msixTurn_framed (pf : Nat) (en : Bool) : (msixTurn pf en).Framed [.evt] [] := modEvt_own _

theorem vectorFree_vector (pf vec : Nat) (s : State) : (run (vectorFree pf vec) s).msiV (msiKey pf vec) =
    { s.msiV (msiKey pf vec) with holding := false, owed := false } := run_modMsi_self _ _ _
theorem vectorOpen_vector (pf vec : Nat) (s : State) : (run (vectorOpen pf vec) s).msiV (msiKey pf vec) =
    { s.msiV (msiKey pf vec) with masked := false, pend := false } := run_modMsi_self _ _ _

section
variable {s : State} {pf vec : Nat}

theorem holdoffExpire_ends (hh : (s.msiV (msiKey pf vec)).holding = true)
    (ha : s.aged (s.msiV (msiKey pf vec)).holdAt (s.fld F.EVT_CFG_HOLDOFF_US 0 * 1000) = true) :
    run (holdoffExpire pf vec) s = run (when (s.msiV (msiKey pf vec)).owed (sendMsi pf vec)) (run (vectorFree pf vec) s) := by
  rw [holdoffExpire, run_look, run_when_eq_true (by simp [hh, ha])]
  rfl

theorem msixVectorUnmask_taken {en : Bool} (hvec : vec < msixEntries pf) (hup : s.clk.pcieUp = true) (hp : s.clk.perst = false)
    (hl : s.bit F.CLK_STATUS_PCIE_LOCK 0 = true) : run (msixVectorUnmask pf vec en) s = run (when (s.msiV (msiKey pf vec)).pend (sendMsi pf vec))
      (run (vectorOpen pf vec) (run (msixTurn pf en) s)) := by
  rw [msixVectorUnmask, run_look, run_when_eq_true (by simp [hvec, hup, hp, hl])]
  rfl

theorem msixVectorUnmask_nothing {en : Bool} (h : msixEntries pf ≤ vec ∨ s.clk.pcieUp = false ∨ s.clk.perst = true ∨
    s.bit F.CLK_STATUS_PCIE_LOCK 0 = false) : run (msixVectorUnmask pf vec en) s = s := by
  rw [msixVectorUnmask, run_look, run_when_eq_false]
  rcases h with h | h | h | h <;> simp [h]

theorem mem_addSet_self (l : List Nat) (n : Nat) : n ∈ addSet l n := by
  induction l with
  | nil => exact List.mem_singleton_self n
  | cons y r ih =>
    rw [addSet]
    split_ifs with hlt heq
    · exact List.mem_cons_self
    · exact heq ▸ List.mem_cons_self
    · exact List.mem_cons_of_mem _ ih

theorem contains_turned (l : List Nat) (n : Nat) (b : Bool) : (if b then addSet l n else l.filter (· != n)).contains n = b := by
  cases b
  · simp
  · rw [if_pos rfl, List.contains_iff_mem]
    exact mem_addSet_self l n

/-- A message leaves the mask and the pending bit of a vector that is not masked. -/
theorem sendMsi_unmasked (hm : (s.msiV (msiKey pf vec)).masked = false) :
    ((run (sendMsi pf vec) s).msiV (msiKey pf vec)).masked = false ∧
      ((run (sendMsi pf vec) s).msiV (msiKey pf vec)).pend = (s.msiV (msiKey pf vec)).pend := by
  by_cases hlost : s.msixUp pf = false ∨ msixEntries pf ≤ vec
  · rw [sendMsi_lost hlost, (addSat_own _ _ _).msiV]
    exact ⟨hm, rfl⟩
  · obtain ⟨hup, hvec⟩ := not_or.1 hlost
    have hup : s.msixUp pf = true := by simpa using hup
    have hvec : vec < msixEntries pf := Nat.lt_of_not_le hvec
    by_cases hh : (s.msiV (msiKey pf vec)).holding = true
    · rw [sendMsi_holding hup hvec hm hh, run_modMsi_self]
      exact ⟨hm, rfl⟩
    · rw [sendMsi_vector ⟨hup, hvec, hm, by simpa using hh⟩]
      split_ifs <;> exact ⟨hm, rfl⟩

/-- A message that is not masked leaves nothing owed at a vector that is not holding off. -/
theorem sendMsi_owed (hm : (s.msiV (msiKey pf vec)).holding = false) :
    ((run (sendMsi pf vec) s).msiV (msiKey pf vec)).owed = (s.msiV (msiKey pf vec)).owed := by
  by_cases hlost : s.msixUp pf = false ∨ msixEntries pf ≤ vec
  · rw [sendMsi_lost hlost, (addSat_own _ _ _).msiV]
  · obtain ⟨hup, hvec⟩ := not_or.1 hlost
    have hup : s.msixUp pf = true := by simpa using hup
    have hvec : vec < msixEntries pf := Nat.lt_of_not_le hvec
    by_cases hmask : (s.msiV (msiKey pf vec)).masked = true
    · rw [sendMsi_masked hup hvec hmask, run_modMsi_self]
    · rw [sendMsi_vector ⟨hup, hvec, by simpa using hmask, hm⟩]
      split_ifs <;> rfl

theorem holdoffExpire_early (h : (s.msiV (msiKey pf vec)).holding = false ∨
    s.aged (s.msiV (msiKey pf vec)).holdAt (s.fld F.EVT_CFG_HOLDOFF_US 0 * 1000) = false) : run (holdoffExpire pf vec) s = s := by
  rw [holdoffExpire, run_look, run_when_eq_false]
  rcases h with h | h <;> simp [h]

theorem holdoffExpire_effect (hh : (s.msiV (msiKey pf vec)).holding = true)
    (ha : s.aged (s.msiV (msiKey pf vec)).holdAt (s.fld F.EVT_CFG_HOLDOFF_US 0 * 1000) = true) :
    let t := run (holdoffExpire pf vec) s
    (t.msiV (msiKey pf vec)).owed = false ∧
      ((s.msiV (msiKey pf vec)).owed = false → (t.msiV (msiKey pf vec)).holding = false ∧ t.out = s.out) ∧
      ((s.msiV (msiKey pf vec)).owed = true → s.msixUp pf = true → vec < msixEntries pf → (s.msiV (msiKey pf vec)).masked = false →
        t.out = .msi pf vec :: s.out ∧ ((t.msiV (msiKey pf vec)).holding = true ↔ 0 < s.fld F.EVT_CFG_HOLDOFF_US 0)) := by
  dsimp only
  rw [holdoffExpire_ends hh ha]
  have hfree := vectorFree_vector pf vec s
  have hframe := vectorFree_framed pf vec
  by_cases how : (s.msiV (msiKey pf vec)).owed = true
  · rw [run_when_eq_true how]
    refine ⟨?_, fun h => absurd (how.symm.trans h) (by decide), fun _ hup hvec hm => ?_⟩
    · rw [sendMsi_owed (by rw [hfree]), hfree]
    · have hc : canSend (run (vectorFree pf vec) s) pf vec :=
        ⟨by rw [hframe.msixUp, hup], hvec, by rw [hfree, hm], by rw [hfree]⟩
      rw [sendMsi_out hc, hframe.out, sendMsi_vector hc, hframe.keepFld]
      refine ⟨rfl, ?_⟩
      split_ifs with h0
      · exact iff_of_true rfl h0
      · rw [hfree]
        exact iff_of_false Bool.false_ne_true h0
  · have how : (s.msiV (msiKey pf vec)).owed = false := by simpa using how
    rw [run_when_eq_false how, hfree, hframe.out]
    exact ⟨rfl, fun _ => ⟨rfl, rfl⟩, fun h => absurd (how.symm.trans h) (by decide)⟩

theorem msixVectorUnmask_effect {en : Bool} (hvec : vec < msixEntries pf) (hup : s.clk.pcieUp = true) (hp : s.clk.perst = false)
    (hl : s.bit F.CLK_STATUS_PCIE_LOCK 0 = true) :
    let t := run (msixVectorUnmask pf vec en) s
    t.msixUp pf = en ∧ (t.msiV (msiKey pf vec)).masked = false ∧ (t.msiV (msiKey pf vec)).pend = false ∧
      ((s.msiV (msiKey pf vec)).pend = false → t.out = s.out) ∧
      ((s.msiV (msiKey pf vec)).pend = true → en = true → (s.msiV (msiKey pf vec)).holding = false → t.out = .msi pf vec :: s.out) := by
  dsimp only
  rw [msixVectorUnmask_taken hvec hup hp hl]
  have hevt := msixTurn_framed pf en
  have hmsi := vectorOpen_framed pf vec
  generalize hu : run (msixTurn pf en) s = u
  have hon : u.msixUp pf = en := by
    rw [← hu, State.msixUp, hevt.clk, hevt.keepBit, hup, hp, hl]
    exact contains_turned s.evt.msixOn pf en
  have huv : u.msiV (msiKey pf vec) = s.msiV (msiKey pf vec) := by rw [← hu, hevt.msiV]
  have huo : u.out = s.out := by rw [← hu, hevt.out]
  have hopen := vectorOpen_vector pf vec u
  have hsend : (when (s.msiV (msiKey pf vec)).pend (sendMsi pf vec)).Framed [.regs, .live, .msi, .out] [.EVT_MSI_LOST] :=
    .when (sendMsi_narrow _ _)
  refine ⟨?_, ?_, ?_, fun hpend => ?_, fun hpend hen hhold => ?_⟩
  · rw [hsend.msixUp, hmsi.msixUp, hon]
  · rw [run_when]
    split_ifs
    · exact (sendMsi_unmasked (by rw [hopen])).1
    · rw [hopen]
  · rw [run_when]
    split_ifs
    · rw [(sendMsi_unmasked (by rw [hopen])).2, hopen]
    · rw [hopen]
  · rw [run_when_eq_false hpend, hmsi.out, huo]
  · rw [run_when_eq_true hpend, sendMsi_out ⟨by rw [hmsi.msixUp, hon, hen], hvec, by rw [hopen], by rw [hopen, huv, hhold]⟩, hmsi.out, huo]

end

/-! ### The occurrence of a test (R304) -/

/-- The state after an occurrence: what it records, and its delivery where the host view has news. -/
def State.occurred (s : State) (e : Nat) : State := run (when (s.rises .EVT_STATUS .EVT_ENABLE e) (deliver (e / 32))) (run (record e) s)

theorem occurred_recorded (s : State) (e : Nat) : ((s.occurred e).raw .EVT_STATUS (e / 32)).getLsbD (e % 32) = true ∧
    ((s.occurred e).raw .EVT_Z_STATUS (e / 32)).getLsbD (e % 32) = true ∧ ((s.occurred e).occOf e).toNat = min 65535 ((s.occOf e).toNat + 1) := by
  have hframe : (when (s.rises .EVT_STATUS .EVT_ENABLE e) (deliver (e / 32))).Framed [.regs, .live, .msi, .out] [.EVT_MSI_LOST] :=
    .when (deliver_narrow _)
  obtain ⟨hv, hz⟩ := record_views e s
  rw [State.occurred, (hframe.reg (by decide) _ _).1, (hframe.reg (by decide) _ _).1, hframe.occOf]
  exact ⟨hv, hz, record_occOf e s⟩

theorem occurred_quiet {s : State} {e : Nat} (h : s.rises .EVT_STATUS .EVT_ENABLE e = false) : (s.occurred e).out = zolTold s e := by
  rw [State.occurred, run_when_eq_false h, record_out]

section
variable {s : State} {e pf : Nat}

/-- The vector that the word of a source is routed to. -/
abbrev State.routedTo (s : State) (e : Nat) : Nat := s.fld F.EVT_ROUTE_VECTOR (e / 32)

theorem occurred_message (h : s.rises .EVT_STATUS .EVT_ENABLE e = true) (hd : s.fld F.EVT_ROUTE_DEST (e / 32) = pf + 1) (hpf : pf < 4) :
    s.occurred e = run (sendMsi pf (s.routedTo e)) (run (record e) s) := by
  rw [State.occurred, run_when_eq_true h, deliver_function (((record_framed e).fld F.EVT_ROUTE_DEST _ _).trans hd) hpf,
    (record_framed e).fld F.EVT_ROUTE_VECTOR]

theorem occurred_sent (h : s.rises .EVT_STATUS .EVT_ENABLE e = true) (hd : s.fld F.EVT_ROUTE_DEST (e / 32) = pf + 1) (hpf : pf < 4)
    (hc : canSend s pf (s.routedTo e)) : (s.occurred e).out = .msi pf (s.routedTo e) :: zolTold s e := by
  obtain ⟨hup, hvec, hm, hh⟩ := hc
  rw [occurred_message h hd hpf, sendMsi_out, record_out]
  refine ⟨?_, hvec, ?_, ?_⟩
  · rw [(record_framed e).msixUp, hup]
  · rw [(record_framed e).msiV, hm]
  · rw [(record_framed e).msiV, hh]

theorem occurred_masked (h : s.rises .EVT_STATUS .EVT_ENABLE e = true) (hd : s.fld F.EVT_ROUTE_DEST (e / 32) = pf + 1) (hpf : pf < 4)
    (hup : s.msixUp pf = true) (hvec : s.routedTo e < msixEntries pf) (hm : (s.msiV (msiKey pf (s.routedTo e))).masked = true) :
    ((s.occurred e).msiV (msiKey pf (s.routedTo e))).pend = true ∧ (s.occurred e).out = zolTold s e := by
  rw [occurred_message h hd hpf, sendMsi_masked (by rw [(record_framed e).msixUp, hup]) hvec (by rw [(record_framed e).msiV, hm]),
    run_modMsi_self, (modMsi_own _ _).out, record_out]
  exact ⟨rfl, rfl⟩

theorem occurred_holding (h : s.rises .EVT_STATUS .EVT_ENABLE e = true) (hd : s.fld F.EVT_ROUTE_DEST (e / 32) = pf + 1) (hpf : pf < 4)
    (hup : s.msixUp pf = true) (hvec : s.routedTo e < msixEntries pf) (hm : (s.msiV (msiKey pf (s.routedTo e))).masked = false)
    (hh : (s.msiV (msiKey pf (s.routedTo e))).holding = true) :
    ((s.occurred e).msiV (msiKey pf (s.routedTo e))).owed = true ∧ (s.occurred e).out = zolTold s e := by
  rw [occurred_message h hd hpf, sendMsi_holding (by rw [(record_framed e).msixUp, hup]) hvec (by rw [(record_framed e).msiV, hm])
    (by rw [(record_framed e).msiV, hh]), run_modMsi_self, (modMsi_own _ _).out, record_out]
  exact ⟨rfl, rfl⟩

theorem occurred_lost (h : s.rises .EVT_STATUS .EVT_ENABLE e = true) (hd : s.fld F.EVT_ROUTE_DEST (e / 32) = pf + 1) (hpf : pf < 4)
    (hl : s.msixUp pf = false ∨ msixEntries pf ≤ s.routedTo e) : (s.occurred e).out = zolTold s e ∧
      (s.occurred e).rawFld F.EVT_MSI_LOST_COUNT 0 = min (2 ^ 32 - 1) (s.rawFld F.EVT_MSI_LOST_COUNT 0 + 1) := by
  rw [occurred_message h hd hpf, sendMsi_lost (by rwa [(record_framed e).msixUp]), (addSat_own _ _ _).out, record_out,
    addSat_rawFld _ _ _ _ (by decide), (record_framed e).rawFld F.EVT_MSI_LOST_COUNT, Nat.min_comm]
  exact ⟨rfl, rfl⟩

theorem occurred_zolliwin (h : s.rises .EVT_STATUS .EVT_ENABLE e = true) (hd : s.fld F.EVT_ROUTE_DEST (e / 32) = 5) :
    (s.occurred e).out = .zolIrq (e / 32) :: zolTold s e := by
  rw [State.occurred, run_when_eq_true h, deliver_zolliwin (((record_framed e).fld F.EVT_ROUTE_DEST _ _).trans hd), ← record_out]
  rfl

end

/-! ### The obligation -/

/-- Settles O57: an occurrence is its record and its delivery, and each message is one case of `sendMsi`. -/
theorem eventsAreDelivered : Obligations.EventsAreDelivered := by
  unfold Obligations.EventsAreDelivered
  refine ⟨fun s rq v h hgo hv hst => ?_, fun s rq v h hno => ?_, fun s pf vec hcore hh ha => ?_, fun s pf vec hno => ?_,
    fun s pf vec en hvec hup hp hl => ?_, fun s pf vec en hno => ?_⟩
  · refine completes_run (a := evtTest rq v) rfl ?_
    rw [evtTest_occurs h hgo hv, occur_eq _ _ hst]
    obtain ⟨hhost, hzol, hocc⟩ := occurred_recorded s (bits v 0 11)
    refine ⟨hhost, hzol, hocc, fun hold => occurred_quiet ?_, fun pf hnew hd hpf hc => ?_, fun pf hnew hd hpf hup hvec => ⟨fun hm => ?_, fun hm hh => ?_⟩,
      fun pf hnew hd hpf hl => ?_, fun hnew hd => ?_⟩
    · exact Bool.eq_false_iff.2 fun hr => hold ((rises_iff _ _ _ _).1 hr)
    · exact occurred_sent ((rises_iff _ _ _ _).2 hnew) hd hpf hc
    · exact occurred_masked ((rises_iff _ _ _ _).2 hnew) hd hpf hup hvec hm
    · exact occurred_holding ((rises_iff _ _ _ _).2 hnew) hd hpf hup hvec hm hh
    · exact occurred_lost ((rises_iff _ _ _ _).2 hnew) hd hpf hl
    · exact occurred_zolliwin ((rises_iff _ _ _ _).2 hnew) hd
  · exact completes_run (a := evtTest rq v) rfl (evtTest_nothing h hno)
  · refine completes_run (a := coreDo (holdoffExpire pf vec)) rfl ?_
    rw [run_coreDo _ _ hcore]
    exact holdoffExpire_effect hh ha
  · refine completes_run (a := coreDo (holdoffExpire pf vec)) rfl ?_
    rw [coreDo, run_look, run_when, holdoffExpire_early hno, ite_self]
  · exact completes_run (a := msixVectorUnmask pf vec en) rfl (msixVectorUnmask_effect hvec hup hp hl)
  · exact completes_run (a := msixVectorUnmask pf vec en) rfl (msixVectorUnmask_nothing hno)

end Sys2Proof.Machine
end

section
/-!
PROOF. Rules for frames that rest on what an action finds: a branch is taken only where its condition holds, and an action that looks acts
by the state it meets.
-/
set_option Elab.async false
namespace Sys2Proof.Machine

namespace Act.Framed

variable {P : List Part} {R : List Reg} {a b : Act}

/-- Each branch may use the condition that it is taken on. -/
theorem ite_of {c : Prop} [Decidable c] (ha : c → a.Framed P R) (hb : ¬c → b.Framed P R) : (if c then a else b).Framed P R := by
  split
  · exact ha ‹_›
  · exact hb ‹_›

/-- A guarded action may use its guard. -/
theorem when_of {c : Bool} (h : c = true → a.Framed P R) : (Machine.when c a).Framed P R := by
  cases c
  · exact .skip
  · exact h rfl

end Act.Framed

/-- What an action that looks at the state first does in state `s`. -/
def Act.lookAt (a : Act) (s : State) : Act :=
  match a with
  | .look f => f s
  | a => a

theorem run_lookAt (a : Act) (s : State) : run (a.lookAt s) s = run a s := by cases a <;> rfl

/-- Two writes of a register whose bodies do the same do the same. -/
theorem run_onWrite_congr {k k' : Req → Act} {s : State} (h : ∀ q, run (k q) s = run (k' q) s) (rq : Req) (r : Reg) (n : Nat) :
    run (onWrite rq r n k) s = run (onWrite rq r n k') s := by
  rw [onWrite, onWrite, run_look, run_look]
  split_ifs
  · rfl
  · split
    · rfl
    · exact h _

end Sys2Proof.Machine
end

section
/-!
PROOF. The frames of the SPDM requests (R402, R404): only the requests that need random octets draw them, and only FINISH and END_SESSION
change the sessions' status.
-/
set_option Elab.async false
namespace Sys2Proof.Machine

/-- The requests whose answer draws random octets. -/
def drawingRequests : List Nat := [rqCapabilities, rqChallenge, rqMeasurements, rqKeyExchange]

/-- The requests that establish or end a session. -/
def sessionRequests : List Nat := [rqFinish, rqEndSession]

/-- The answer to a request of this code stays within a frame. -/
def spdmFits (code : Nat) (P : List Part) (R : List Reg) : Bool :=
  frameSub [.out, .sec] [] P R && (!drawingRequests.contains code || frameSub [.fresh, .sec] [] P R) &&
    (!sessionRequests.contains code || frameSub (.sec :: occurParts) (.SEC_EVT_CAUSE :: .SEC_STATUS :: occurRegs) P R)

theorem spdmFits_iff {code : Nat} {P : List Part} {R : List Reg} : spdmFits code P R = true ↔ frameSub [.out, .sec] [] P R = true ∧
    (code ∈ drawingRequests → frameSub [.fresh, .sec] [] P R = true) ∧
    (code ∈ sessionRequests → frameSub (.sec :: occurParts) (.SEC_EVT_CAUSE :: .SEC_STATUS :: occurRegs) P R = true) := by
  simp only [spdmFits, Bool.and_eq_true, Bool.or_eq_true, Bool.not_eq_true', ← Bool.not_eq_true, List.contains_iff_mem, and_assoc,
    imp_iff_not_or]

theorem spdmAnswer_narrow {P : List Part} {R : List Reg} (t : Transport) (x : SpdmIn) (msg : List Byte)
    (h : spdmFits (leAt msg 1 1) P R = true) : (spdmAnswer t x msg (spdmSend t)).Framed P R := by
  obtain ⟨hbase, hdraw, hsess⟩ := spdmFits_iff.1 h
  have hreply : ∀ l, (spdmReply t x msg l).Framed P R := fun l => (spdmReply_framed t x msg l).widen hbase
  have hsec : frameSub [.sec] [] P R = true := frameSub_trans (by decide) hbase
  have hnone : frameSub [] [] P R = true := frameSub_trans (by decide) hbase
  have hfresh (hc : leAt msg 1 1 ∈ drawingRequests) : frameSub [.fresh] [] P R = true := frameSub_trans (by decide) (hdraw hc)
  refine .look fun s => .ite (hreply _) (.ite (hreply _) (.ite (hreply _) ?_))
  refine .ite (spVersionRsp_framed _ _ hsec hreply) (.ite_of (fun hc => spCapsRsp_framed _ _ (hdraw (by rw [hc]; decide)) hreply) fun _ => ?_)
  refine .ite (spAlgRsp_framed _ _ _ hsec hreply) (.ite (spDigestsRsp_framed _ hnone hreply) (.ite (spCertRsp_framed _ _ hnone hreply) ?_))
  refine .ite_of (fun hc => spChallengeRsp_framed _ _ _ (hfresh (by rw [hc]; decide)) hreply) fun _ => ?_
  refine .ite_of (fun hc => spMeasRsp_framed _ _ _ _ (hfresh (by rw [hc]; decide)) hreply) fun _ => ?_
  refine .ite_of (fun hc => spKeyExRsp_framed _ _ _ (hdraw (by rw [hc]; decide)) hreply) fun _ => ?_
  refine .ite_of (fun hc => spFinishRsp_framed _ _ _ (hsess (by rw [hc]; decide)) hreply) fun _ => ?_
  refine .ite (inSession_framed _ _ _ _ hnone hreply fun _ => hreply _) (.ite (spKeyUpdateRsp_framed _ _ _ _ hsec hreply) ?_)
  refine .ite_of (fun hc => inSession_framed _ _ _ _ hnone hreply fun _ =>
    .acts ⟨hreply _, (sessEnd_framed _).widen (hsess (by rw [hc]; decide)), trivial⟩) fun _ => ?_
  exact .ite (spChunkGetRsp_framed _ _ _ hsec hreply) (hreply _)

/-- The row of a request stays within the frame of its answer. -/
theorem spdmRow_narrow {code : Nat} {P : List Part} {R : List Reg} (t : Transport) (x : SpdmIn) (msg : List Byte) (hc : code ≠ rqChunkSend)
    (h : spdmFits code P R = true) : (spdmRow code t x msg).Framed P R := by
  refine .look fun s => .when_of fun hrow => ?_
  obtain ⟨-, hcode⟩ := Bool.and_eq_true_iff.1 hrow
  have hanswer := spdmAnswer_narrow t x msg (P := P) (R := R) (by rw [beq_iff_eq.1 hcode]; exact h)
  have htouch := spdmTouch_framed t x
  exact .acts ⟨⟨(htouch.widen (frameSub_trans (by decide) (spdmFits_iff.1 h).1)).within s⟩, .ite_of (fun hsend => absurd hsend hc)
    fun _ => hanswer, trivial⟩

/-- A code of no request draws nothing and ends no session. -/
theorem spdmFits_unsupported {code : Nat} (h : spdmSupported.contains code = false) : spdmFits code [.out, .sec] [] = true := by
  have hnot : code ∉ spdmSupported := fun hc => absurd (List.contains_iff_mem.2 hc) (by rw [h]; decide)
  have hdraw : ∀ c ∈ drawingRequests, c ∈ spdmSupported := by decide
  have hsess : ∀ c ∈ sessionRequests, c ∈ spdmSupported := by decide
  exact spdmFits_iff.2 ⟨by decide, fun hc => absurd (hdraw _ hc) hnot, fun hc => absurd (hsess _ hc) hnot⟩

theorem unsupportedRequest_narrow (t : Transport) (x : SpdmIn) (msg : List Byte) : (unsupportedRequest t x msg).Framed [.out, .sec] [] := by
  refine .look fun s => .when_of fun h => ?_
  have hno : spdmSupported.contains (leAt msg 1 1) = false := by simpa using (Bool.and_eq_true_iff.1 h).2
  refine spdmRow_narrow t x msg (fun hc => ?_) (spdmFits_unsupported hno)
  rw [hc] at hno
  exact absurd hno (by decide)

end Sys2Proof.Machine
end

section
/-!
PROOF. The frames of the mailbox rows (R286 to R288): the row of an operation starts that operation and no other.
-/
set_option Elab.async false
namespace Sys2Proof.Machine

/-- The operation of a mailbox whose OP is `op`. -/
def mbxRunOf (op : Nat) (rq : Req) (n : Nat) : Act := .look fun s => when (s.fld F.MBX_CTL_OP n == op) ((mbxRun rq n).lookAt s)

/-- The row of an operation, with the operation that it starts. -/
def mbxRowOf (op : Nat) (req : Req) (n : Nat) (ctl : Word) : Act :=
  when (ctl.getLsbD 31 && bits ctl 0 4 == op) (onWrite req .MBX_CTL n fun rq => .look fun s =>
    if s.bit F.MBX_CTL_GO n then reject3 .dma rq .MBX_CTL n else acts [mbxStart n ctl, mbxRunOf op rq n])

theorem run_mbxRow_eq (op : Nat) (req : Req) (n : Nat) (ctl : Word) (s : State) : run (mbxRow op req n ctl) s = run (mbxRowOf op req n ctl) s := by
  rw [mbxRow, mbxRowOf]
  cases hrow : ctl.getLsbD 31 && bits ctl 0 4 == op
  · rw [run_when_false, run_when_false]
  · obtain ⟨hgo, hop⟩ := Bool.and_eq_true_iff.1 hrow
    rw [run_when_true, run_when_true, mbxCtl]
    refine run_onWrite_congr (fun rq => ?_) _ _ _
    rw [run_look, run_look]
    dsimp only
    rw [if_neg (by rw [hgo]; decide)]
    split_ifs
    · rfl
    · have hset := (mbxStart_set s n ctl).op
      rw [run_acts_cons (mbxStart n ctl), run_acts_cons (mbxRunOf op rq n), run_acts_nil, mbxRunOf, run_look, hset, hop, run_when_true, run_lookAt]
      simp only [mbxStart, run_acts_cons, run_acts_nil]

/-- The registers that every operation may change: MBX_CTL, the captures of bus errors and rejects, and those of an occurrence. -/
def mbxOwnRegs : List Reg :=
  .MBX_CTL :: .SYS_BUS_ERR :: .SYS_BUS_ERR_INFO :: .SYS_EVT_CAUSE :: .SYS_REJECT_ADDR :: .SYS_REJECT_INFO :: occurRegs

theorem mbxRowOf_framed {op : Nat} {P : List Part} {R : List Reg} (req : Req) (n : Nat) (ctl : Word) (hrun : ∀ rq, (mbxRunOf op rq n).Framed P R)
    (hs : frameSub (.evt :: occurParts) (.DMA_EVT_CAUSE :: .DMA_STATUS :: mbxOwnRegs) P R = true) :
    (mbxRowOf op req n ctl).Framed P R :=
  .when (onWrite_own (fun rq => .look fun _ => .ite ((reject3_own .dma _ _ _).into hs) (.acts ⟨(mbxStart_framed n ctl).into hs, hrun rq, trivial⟩))
    (frameSub_trans (by decide) hs))

/-- But for a WRITE, an operation that is not possible in this state is one of module memory. -/
theorem mbxFault_state {s : State} {rq : Req} {vid idx op len off : Nat} {d : List Word} (hop : op ≠ mbWrite)
    (h : s.mbxFault rq vid idx op len off d = 3) : vid = 0x12 := by
  by_contra hvid
  have hstate : s.vidState vid idx op = false := by rw [State.vidState, if_neg hvid, if_pos hop]
  rw [State.mbxFault, hstate, if_neg (c := vid = 0x72 ∧ op = mbWrite ∧ idx < 7) (by simp [hop]), if_neg Bool.false_ne_true] at h
  split_ifs at h <;> exact absurd h (by decide)

/-- What the fault of a READ or a READ_CLEAR changes. -/
theorem mbxFail_framed {s : State} {rq : Req} {vid idx op len off n a : Nat} {d : List Word} (hop : op ≠ mbWrite) {e : Bool} :
    (acts [mbxErr n (s.mbxFault rq vid idx op len off d), when (s.mbxFault rq vid idx op len off d == 3) (reject (vidBlk vid idx) rq a 3 vid),
      when (s.mbxFault rq vid idx op len off d == 2 && vid == 0x73 && op == mbWrite && secureReq rq && e) (lockedWrite rq a)]).Framed
      (.evt :: .mbx :: occurParts) (.STALL_EVT_CAUSE :: .STALL_STATUS :: mbxOwnRegs) := by
  refine .acts ⟨(mbxErr_framed _ _).widen, .when_of fun h => ?_, .when_of fun h => absurd h (by simp [hop]), trivial⟩
  rw [mbxFault_state hop (beq_iff_eq.1 h)]
  exact (reject_stall _ _ _ _ _).widen

theorem mbxRunOf_read_framed (rq : Req) (n : Nat) : (mbxRunOf mbRead rq n).Framed (.evt :: .mbx :: .nvm :: occurParts)
    (.MBX_DATA :: .STALL_EVT_CAUSE :: .STALL_STATUS :: mbxOwnRegs) := by
  refine .look fun s => .when_of fun h => ?_
  have hop : s.fld F.MBX_CTL_OP n = mbRead := beq_iff_eq.1 h
  exact .ite (mbxFail_framed (by rw [hop]; decide)).widen (.ite (moduleIo_framed _ _ _ _ _ _).widen (.ite (nvmRead_framed _ _).widen
    (.ite (nvmRead_framed _ _).widen (.ite_of (fun _ => (mbxOk_framed _ _).widen) fun hr => absurd hop hr))))

theorem mbxRunOf_clear_framed (rq : Req) (n : Nat) : (mbxRunOf mbClear rq n).Framed (.evt :: .cnt :: .mbx :: .nvm :: .perf :: .thm :: occurParts)
    (.BWM_RX_MAX :: .BWM_TX_MAX :: .MBX_DATA :: .STALL_EVT_CAUSE :: .STALL_STATUS :: mbxOwnRegs) := by
  refine .look fun s => .when_of fun h => ?_
  have hop : s.fld F.MBX_CTL_OP n = mbClear := beq_iff_eq.1 h
  have hw : s.fld F.MBX_CTL_OP n ≠ mbWrite := by rw [hop]; decide
  exact .ite (mbxFail_framed hw).widen (.ite (moduleIo_framed _ _ _ _ _ _).widen (.ite (nvmRead_framed _ _).widen
    (.ite (nvmRead_framed _ _).widen (.ite (mbxOk_framed _ _).widen (.ite_of (fun h => absurd h hw) fun _ =>
      .acts ⟨(vidClear_framed _ _).widen, (mbxOk_framed _ _).widen, trivial⟩)))))

theorem mbxRunOf_write_framed (rq : Req) (n : Nat) : (mbxRunOf mbWrite rq n).Framed (.evt :: .aisles :: .bfd :: .cnt :: .mbx :: .nvm :: .pe ::
    .perf :: .ports :: .sec :: .time :: occurParts) (.AISLE_MC_EVT_CAUSE :: .AISLE_MC_STATUS :: .DMA_EVT_CAUSE :: .DMA_STATUS :: .MBX_DATA ::
      .PC_CFG :: .PC_THR :: .PE_EVT_CAUSE :: .PE_STATUS :: .SCH_EVT_CAUSE :: .SCH_STATUS :: .SEC_EVT_CAUSE :: .SEC_STATUS ::
      .SHR_EVT_CAUSE :: .SHR_STATUS :: .STALL_EVT_CAUSE :: .STALL_STATUS :: .SYS_LOCKED_WR :: .SYS_LOCKED_WR_INFO :: .SYS_STATUS ::
      .TIME_STATUS :: .TIME_SVC_EVT_CAUSE :: mbxOwnRegs) := by
  refine .look fun s => .when_of fun h => ?_
  have hop : s.fld F.MBX_CTL_OP n = mbWrite := beq_iff_eq.1 h
  exact .ite (.acts ⟨(mbxErr_framed _ _).widen, .when (reject_vidBlk _ _ _ _ _ _).widen, .when (lockedWrite_own _ _).widen, trivial⟩)
    (.ite (moduleIo_framed _ _ _ _ _ _).widen (.ite (nvmRead_framed _ _).widen (.ite (nvmRead_framed _ _).widen (.ite (mbxOk_framed _ _).widen
      (.ite_of (fun _ => .acts ⟨(vidWrite_framed _ _ _ _).widen, (mbxOk_framed _ _).widen, trivial⟩) fun hw => absurd hop hw)))))

end Sys2Proof.Machine
end

section
/-!
PROOF. What the commands of management leave alone: the frame of each command's action lies within the one that `frameManage` lists.
-/
set_option Elab.async false
namespace Sys2Proof.Machine

/-! ### Configuration records (R359) -/

/-- A visit to a record changes the place in the section, what a failed SETUP does, and what its record does. -/
theorem cfgVisit_framed {row : Nat} {P : List Part} {R : List Reg} (hend : row = recEnd → recsEnd.Framed P R)
    (hdo : ∀ l, recType l = row ∨ recType l = 0 → (recDo l).Framed P R)
    (hs : frameSub (.nvm :: .mode :: occurParts) (.NVM_BOOT :: .SYS_MODE :: .SYS_MODE_EVT_CAUSE :: occurRegs) P R = true) :
    (cfgVisit row).Framed P R := by
  have hfail : ∀ code, (setupFail code).Framed P R := fun code => (setupFail_framed code).into hs
  have hnvm : ∀ f, (modNvm f).Framed P R := fun f => (modNvm_framed f).into hs
  refine .look fun s => .when (.ite (.acts ⟨hnvm _, hfail _, trivial⟩) ?_)
  split
  · exact .when_of fun h => .acts ⟨hnvm _, hend (beq_iff_eq.1 h), trivial⟩
  · exact .ite (hfail _) (.when_of fun h => .acts ⟨hnvm _, hdo _ (by simpa using h), trivial⟩)

/-- A record that cannot be read ends SETUP. -/
theorem recDo_unreadable {l : List Byte} (h : recType l = 0) : recDo l = setupFail 2 := by rw [recDo, h]; rfl

theorem cfgVisit_ident_framed : (cfgVisit recIdent).Framed (.nvm :: .pe :: .mode :: occurParts) (.NVM_BOOT :: .SYS_MODE ::
    .SYS_MODE_EVT_CAUSE :: occurRegs) := by
  refine cfgVisit_framed (fun h => absurd h (by decide)) (fun l h => ?_) (by decide)
  rcases h with h | h
  · rw [show recDo l = acts [recNext l, modPe fun P => { P with ident := l.drop 4 }] by rw [recDo, h]; rfl]
    exact .acts ⟨(recNext_framed l).widen, (modPe_framed _).widen, trivial⟩
  · rw [recDo_unreadable h]
    exact (setupFail_framed 2).widen

theorem cfgVisit_wait_framed : (cfgVisit recWait).Framed (.nvm :: .mode :: occurParts) (.NVM_BOOT :: .SYS_MODE :: .SYS_MODE_EVT_CAUSE ::
    occurRegs) := by
  refine cfgVisit_framed (fun h => absurd h (by decide)) (fun l h => ?_) (by decide)
  rcases h with h | h
  · rw [show recDo l = .look fun s => acts [recNext l, modNvm fun N => { N with waiting := 1, waitAt := s.time.words, waitUs := leAt l 4 4 }] by
      rw [recDo, h]; rfl]
    exact .look fun _ => .acts ⟨(recNext_framed l).widen, (modNvm_framed _).widen, trivial⟩
  · rw [recDo_unreadable h]
    exact (setupFail_framed 2).widen

theorem cfgVisit_end_framed : (cfgVisit recEnd).Framed (.nvm :: .aisles :: .dma :: .evt :: .mode :: .sec :: .swc :: .thm :: occurParts)
    (.AISLE_LPM_MAP :: .AISLE_RULE_MAP :: .AISLE_TILE_CFG :: .NVM_BOOT :: .SHR_EVT_CAUSE :: .SWC_EVT_CAUSE :: .SWC_POOL_FREE ::
      .SWC_POOL_LOW :: .SWC_POOL_TOTAL :: .SWC_SHARED_FREE :: .SWC_STATUS :: setWindowRegs) := by
  refine cfgVisit_framed (fun _ => recsEnd_framed.widen) (fun l h => ?_) (by decide)
  rcases h with h | h
  · rw [show recDo l = recsEnd by rw [recDo, h]; rfl]
    exact recsEnd_framed.widen
  · rw [recDo_unreadable h]
    exact (setupFail_framed 2).widen

/-! ### Messages (R300) -/

theorem holdoffExpire_narrow (pf vec : Nat) : (holdoffExpire pf vec).Framed [.regs, .live, .msi, .out] [.EVT_MSI_LOST] :=
  .look fun _ => .when (.acts ⟨(modMsi_own _ _).widen, .when (sendMsi_narrow _ _), trivial⟩)

theorem msixVectorUnmask_narrow (pf vec : Nat) (enable : Bool) :
    (msixVectorUnmask pf vec enable).Framed [.evt, .regs, .live, .msi, .out] [.EVT_MSI_LOST] :=
  .look fun _ => .when (.acts ⟨(modEvt_own _).widen, (modMsi_own _ _).widen, .when (sendMsi_narrow _ _).widen, trivial⟩)

/-! ### The obligation -/

/-- The action of a command of management lies within its frame. -/
theorem frameManage_action (c : Instr) (P : List Part) (R : List Reg) (h : frameManage c = some (P, R)) :
    ∃ a : Act, (∀ s, exec c s = .next (run a s)) ∧ a.Framed P R := by
  cases c with
  | mbxRead => cases h; exact ⟨_, fun _ => exec_eq_of_run rfl (run_mbxRow_eq _ _ _ _ _),
      mbxRowOf_framed _ _ _ (fun rq => (mbxRunOf_read_framed rq _).widen) (by decide)⟩
  | mbxWrite => cases h; exact ⟨_, fun _ => exec_eq_of_run rfl (run_mbxRow_eq _ _ _ _ _),
      mbxRowOf_framed _ _ _ (fun rq => (mbxRunOf_write_framed rq _).widen) (by decide)⟩
  | mbxReadClear => cases h; exact ⟨_, fun _ => exec_eq_of_run rfl (run_mbxRow_eq _ _ _ _ _),
      mbxRowOf_framed _ _ _ (fun rq => (mbxRunOf_clear_framed rq _).widen) (by decide)⟩
  | mbxModuleIoDone => cases h; exact ⟨_, fun _ => rfl, .coreDo (mbxModuleIoDone_framed _ _).widen⟩
  | regRead => cases h; exact ⟨_, fun _ => rfl, (regRead_framed _).widen⟩
  | evtTest => cases h; exact ⟨_, fun _ => rfl, (evtTest_framed _ _).widen⟩
  | smbusTimeout => cases h; exact ⟨_, fun _ => rfl, smbusTimeout_framed.widen⟩
  | alertResponse => cases h; exact ⟨_, fun _ => rfl, alertResponse_framed.widen⟩
  | holdoffExpire => cases h; exact ⟨_, fun _ => rfl, .coreDo (holdoffExpire_narrow _ _).widen⟩
  | resetNRelease => cases h; exact ⟨_, fun _ => rfl, resetNRelease_framed.widen⟩
  | exitSequenceStart => cases h; exact ⟨_, fun _ => rfl, (exitSequenceStart_framed _).widen⟩
  | refclkMeasure => cases h; exact ⟨_, fun _ => rfl, (refclkMeasure_framed _ _).widen⟩
  | resetDone => cases h; exact ⟨_, fun _ => rfl, resetDone_framed.widen⟩
  | timepllLoss => cases h; exact ⟨_, fun _ => rfl, timepllLoss_framed.widen⟩
  | timepllRelock => cases h; exact ⟨_, fun _ => rfl, timepllRelock_framed.widen⟩
  | pciePllLoss => cases h; exact ⟨_, fun _ => rfl, pciePllLoss_framed.widen⟩
  | pciePllRelock => cases h; exact ⟨_, fun _ => rfl, pciePllRelock_framed.widen⟩
  | softResetDone => cases h; exact ⟨_, fun _ => rfl, .coreDo (softResetDone_framed _).widen⟩
  | wdtKick => cases h; exact ⟨_, fun _ => rfl, (wdtKick_framed _ _).widen⟩
  | wdtExpire => cases h; exact ⟨_, fun _ => rfl, wdtExpire_framed.widen⟩
  | perstNAssert => cases h; exact ⟨_, fun _ => rfl, perstNAssert_framed.widen⟩
  | perstNRelease => cases h; exact ⟨_, fun _ => rfl, perstNRelease_framed.widen⟩
  | flr => cases h; exact ⟨_, fun _ => rfl, .coreDo (flr_framed _).widen⟩
  | bootRomStart => cases h; exact ⟨_, fun _ => rfl, (bootRomStart_framed _).widen⟩
  | patchLoad => cases h; exact ⟨_, fun _ => rfl, patchLoad_framed.widen⟩
  | cfgRecordIdent => cases h; exact ⟨_, fun _ => rfl, (cfgVisit_ident_framed).widen⟩
  | cfgRecordWait => cases h; exact ⟨_, fun _ => rfl, (cfgVisit_wait_framed).widen⟩
  | cfgWaitExpire => cases h; exact ⟨_, fun _ => rfl, .coreDo cfgWaitExpire_framed.widen⟩
  | cfgRecordEnd => cases h; exact ⟨_, fun _ => rfl, (cfgVisit_end_framed).widen⟩
  | autoModeChange => cases h; exact ⟨_, fun _ => rfl, .coreDo autoModeChange_framed.widen⟩
  | modeReqOpen => cases h; exact ⟨_, fun _ => rfl, (onModeReq_framed _ _ _).widen⟩
  | modeReqLean => cases h; exact ⟨_, fun _ => rfl, (onModeReq_framed _ _ _).widen⟩
  | modeReqDrain => cases h; exact ⟨_, fun _ => rfl, (onModeReq_framed _ _ _).widen⟩
  | modeReqSealed => cases h; exact ⟨_, fun _ => rfl, (onModeReq_framed _ _ _).widen⟩
  | modeReqProving => cases h; exact ⟨_, fun _ => rfl, (onModeReq_framed _ _ _).widen⟩
  | modeReqSetup => cases h; exact ⟨_, fun _ => rfl, (onModeReq_framed _ _ _).widen⟩
  | epochReq => cases h; exact ⟨_, fun _ => rfl, (epochReq_framed _ _).widen⟩
  | epochUnitApplied => cases h; exact ⟨_, fun _ => rfl, .coreDo (epochUnitApplied_framed _).widen⟩
  | epochWindowExpire => cases h; exact ⟨_, fun _ => rfl, .coreDo (epochWindowExpire_framed _).widen⟩
  | epochDone => cases h; exact ⟨_, fun _ => rfl, .coreDo epochDone_framed.widen⟩
  | proveGo => cases h; exact ⟨_, fun _ => rfl, (proveGo_framed _ _).widen⟩
  | proveTestDone => cases h; exact ⟨_, fun _ => rfl, .coreDo (proveTestDone_framed _ _ _).widen⟩
  | nvmHoldSet => cases h; exact ⟨_, fun _ => rfl, (nvmHoldSet_framed _ _).widen⟩
  | nvmHoldClear => cases h; exact ⟨_, fun _ => rfl, (nvmHoldClear_framed _ _ _).widen⟩
  | nvmPageProgram => cases h; exact ⟨_, fun _ => rfl, nvmPageProgram_framed.widen⟩
  | burnOwner => cases h; exact ⟨_, fun _ => rfl, (burnOwner_framed _ _).widen⟩
  | revoke => cases h; exact ⟨_, fun _ => rfl, (revoke_framed _ _).widen⟩
  | otpBurnDone => cases h; exact ⟨_, fun _ => rfl, .coreDo (otpBurnDone_framed _).widen⟩
  | svnBurnDone => cases h; exact ⟨_, fun _ => rfl, .coreDo svnBurnDone_framed.widen⟩
  | svnAdvance => cases h; exact ⟨_, fun _ => rfl, (svnAdvance_framed _ _).widen⟩
  | cfgLock => cases h; exact ⟨_, fun _ => rfl, (cfgLockSet_framed _ _).widen⟩
  | entropyFail => cases h; exact ⟨_, fun _ => rfl, entropyFail_framed.widen⟩
  | finish => cases h; exact ⟨_, fun _ => rfl, .coreDo (spdmRow_narrow _ _ _ (by decide) (by decide))⟩
  | endSession => cases h; exact ⟨_, fun _ => rfl, .coreDo (spdmRow_narrow _ _ _ (by decide) (by decide))⟩
  | sessionHeartbeatTimeout => cases h; exact ⟨_, fun _ => rfl, .coreDo (sessionHeartbeatTimeout_framed _).widen⟩
  | securedMessageFail => cases h; exact ⟨_, fun _ => rfl, .coreDo (securedMessageFail_framed _ _).widen⟩
  | entropyRecover => cases h; exact ⟨_, fun _ => rfl, entropyRecover_framed.widen⟩
  | getVersion => cases h; exact ⟨_, fun _ => rfl, .coreDo (spdmRow_narrow _ _ _ (by decide) (by decide))⟩
  | getDigests => cases h; exact ⟨_, fun _ => rfl, .coreDo (spdmRow_narrow _ _ _ (by decide) (by decide))⟩
  | getCertificate => cases h; exact ⟨_, fun _ => rfl, .coreDo (spdmRow_narrow _ _ _ (by decide) (by decide))⟩
  | spdmHeartbeat => cases h; exact ⟨_, fun _ => rfl, .coreDo (spdmRow_narrow _ _ _ (by decide) (by decide))⟩
  | keyUpdate => cases h; exact ⟨_, fun _ => rfl, .coreDo (spdmRow_narrow _ _ _ (by decide) (by decide))⟩
  | chunkGet => cases h; exact ⟨_, fun _ => rfl, .coreDo (spdmRow_narrow _ _ _ (by decide) (by decide))⟩
  | unsupportedRequest => cases h; exact ⟨_, fun _ => rfl, .coreDo (unsupportedRequest_narrow _ _ _)⟩
  | getCapabilities => cases h; exact ⟨_, fun _ => rfl, .coreDo (spdmRow_narrow _ _ _ (by decide) (by decide))⟩
  | negotiateAlgorithms => cases h; exact ⟨_, fun _ => rfl, .coreDo (spdmRow_narrow _ _ _ (by decide) (by decide))⟩
  | challenge => cases h; exact ⟨_, fun _ => rfl, .coreDo (spdmRow_narrow _ _ _ (by decide) (by decide))⟩
  | getMeasurements => cases h; exact ⟨_, fun _ => rfl, .coreDo (spdmRow_narrow _ _ _ (by decide) (by decide))⟩
  | keyExchange => cases h; exact ⟨_, fun _ => rfl, .coreDo (spdmRow_narrow _ _ _ (by decide) (by decide))⟩
  | chunkSend => cases h; exact ⟨_, fun _ => rfl, .coreDo (spdmRow_framed _ _ _ _).widen⟩
  | thermalStepDown => cases h; exact ⟨_, fun _ => rfl, thermalStepDown_framed.widen⟩
  | sensorStuckCheck => cases h; exact ⟨_, fun _ => rfl, (sensorStuckCheck_framed _).widen⟩
  | powerRead => cases h; exact ⟨_, fun _ => rfl, (powerRead_framed _ _).widen⟩
  | pwrLean => cases h; exact ⟨_, fun _ => rfl, pwrLean_framed.widen⟩
  | pwrStepRelax => cases h; exact ⟨_, fun _ => rfl, pwrStepRelax_framed.widen⟩
  | pwrRequestRetry => cases h; exact ⟨_, fun _ => rfl, pwrRequestRetry_framed.widen⟩
  | canarySample => cases h; exact ⟨_, fun _ => rfl, .coreDo (canarySample_framed _ _ _).widen⟩
  | planNow => cases h; exact ⟨_, fun _ => rfl, (planNow_framed _ _).widen⟩
  | plannerCycleStart => cases h; exact ⟨_, fun _ => rfl, .coreDo plannerCycleStart_framed.widen⟩
  | planDone => cases h; exact ⟨_, fun _ => rfl, .coreDo planDone_framed.widen⟩
  | shoringDeferExpire => cases h; exact ⟨_, fun _ => rfl, .coreDo shoringDeferExpire_framed.widen⟩
  | avsStep => cases h; exact ⟨_, fun _ => rfl, .coreDo (avsStep_framed _ _).widen⟩
  | avsFaultRetry => cases h; exact ⟨_, fun _ => rfl, .coreDo (avsFaultRetry_framed _ _).widen⟩
  | perfSnapshot => cases h; exact ⟨_, fun _ => rfl, .coreDo (perfSnapshot_framed _).widen⟩
  | perfOverflow => cases h; exact ⟨_, fun _ => rfl, .coreDo (perfOverflow_framed _ _ _).widen⟩
  | ledScan => cases h; exact ⟨_, fun _ => rfl, .coreDo ledScan_framed.widen⟩
  | revokeBurnDone => cases h; exact ⟨_, fun _ => rfl, .coreDo revokeBurnDone_framed.widen⟩
  | zolliwinRunsAgain => cases h; exact ⟨_, fun _ => rfl, zolliwinRunsAgain_framed.widen⟩
  | msixVectorUnmask => cases h; exact ⟨_, fun _ => rfl, (msixVectorUnmask_narrow _ _ _).widen⟩
  | _ => cases h

/-- The end of a SETUP that has not failed requests an epoch, or does nothing. -/
theorem setupComplete_frame {s : State} (h : s.mode.setup ≠ 3) : Only [.aisles, .live, .mode, .regs, .time] s (run (coreDo setupComplete) s) ∧
    OnlyRegs [.AISLE_PARSE_CFG, .SYS_EPOCH, .SYS_EPOCH_APPLIED0, .SYS_EPOCH_APPLIED1, .SYS_EPOCH_APPLIED2, .SYS_MODE] s
      (run (coreDo setupComplete) s) := by
  have hframe : (setupComplete.lookAt s).Framed [.aisles, .live, .mode, .regs, .time]
      [.AISLE_PARSE_CFG, .SYS_EPOCH, .SYS_EPOCH_APPLIED0, .SYS_EPOCH_APPLIED1, .SYS_EPOCH_APPLIED2, .SYS_MODE] :=
    .when (.ite_of (fun h3 => absurd h3 h) fun _ => .when (requestEpoch_framed _ _ _))
  have hrun : run (coreDo setupComplete) s = run (coreDo (setupComplete.lookAt s)) s := by
    rw [coreDo, coreDo, run_look, run_look, run_when, run_when, run_lookAt]
  rw [hrun]
  exact hframe.coreDo.run s

/-- Settles O9: no action of management writes outside its frame. -/
theorem managementFrames : Obligations.ManagementFrames := by
  unfold Obligations.ManagementFrames
  refine ⟨fun c P R s t h ht => ?_, fun s t h ht => ?_⟩
  · obtain ⟨a, ha, hf⟩ := frameManage_action c P R h
    exact hf.exec ha ht
  · cases ht
    exact setupComplete_frame h

end Sys2Proof.Machine
end

section
/-!
PROOF. Messages while the PCIe link is down (R300, R308): no function can send, so no vector of the MSI-X tables changes.
-/
set_option Elab.async false
namespace Sys2Proof.Machine

/-- The MSI-X tables while the link is down, when no message can be sent. -/
def State.restingMsi (s : State) : Option (Tab Msi) := if s.clk.pcieUp then none else some s.msi

theorem Act.Framed.keeps_restingMsi {P : List Part} {R : List Reg} {a : Act} (h : a.Framed P R) (hc : P.contains .clk = false := by decide)
    (hm : P.contains .msi = false := by decide) : a.keeps State.restingMsi := fun s => by
  rw [State.restingMsi, h.clk s hc, show (Machine.run a s).msi = s.msi from h.part .msi s hm, State.restingMsi]

theorem sendMsi_keeps_restingMsi (pf vec : Nat) : (sendMsi pf vec).keeps State.restingMsi := fun s => by
  cases hup : s.clk.pcieUp
  · have hdown : s.msixUp pf = false := by simp [State.msixUp, hup]
    rw [sendMsi_lost (.inl hdown), (addSat_own _ _ _).keeps_restingMsi]
  · rw [State.restingMsi, State.restingMsi, (sendMsi_narrow _ _).clk, hup]
    rfl

theorem deliver_keeps_restingMsi (w : Nat) : (deliver w).keeps State.restingMsi :=
  keeps_look fun _ => keeps_ite (sendMsi_keeps_restingMsi _ _) (keeps_when (emit_own _).keeps_restingMsi)

theorem occur_keeps_restingMsi (e : Nat) : (occur e).keeps State.restingMsi := fun s => by
  by_cases h : e < 1024 ∧ s.starts (e % 512) = false
  · rw [occur, run_look, if_pos h]
    rfl
  · rw [occur_eq _ _ fun he => by simpa [he] using h, keeps_when (deliver_keeps_restingMsi _), (record_framed e).keeps_restingMsi]

theorem raise_keeps_restingMsi (f : Fld) (n : Nat) : (raise f n).keeps State.restingMsi := by
  refine keeps_seq (setF_own _ _ _).keeps_restingMsi ?_
  split
  · exact occur_keeps_restingMsi _
  · exact keeps_skip

/-! ### Freed buffers (R183) -/

theorem becomeFree_keeps_restingMsi (h : Nat) : (becomeFree h).keeps State.restingMsi := by
  have hbuf (b : Buf) : (Act.upd (.buf h b)).Framed [.bufs] [] := .upd rfl
  exact keeps_look fun _ => .acts ⟨(hbuf _).keeps_restingMsi, (perfEvent_framed _ _ _ _).keeps_restingMsi,
    (setF_own _ _ _).keeps_restingMsi, (modSwc_framed _).keeps_restingMsi,
    keeps_when (.acts ⟨(modPort_framed _ _).keeps_restingMsi, (xoffEval_framed _ _).keeps_restingMsi, (pfcSync_framed _).keeps_restingMsi,
      trivial⟩),
    syncSwc_framed.keeps_restingMsi,
    keeps_look fun _ => keeps_when (.acts ⟨(setB_own _ _ _).keeps_restingMsi, raise_keeps_restingMsi _ _, trivial⟩), trivial⟩

theorem illegalFree_keeps_restingMsi (p q h kind : Nat) : (illegalFree p q h kind).keeps State.restingMsi :=
  keeps_look fun _ => .acts ⟨raise_keeps_restingMsi _ _, (count_own _ _ _ _).keeps_restingMsi,
    keeps_when (.acts ⟨(setReg_own _ _ _).keeps_restingMsi, (setReg_own _ _ _).keeps_restingMsi, trivial⟩), trivial⟩

theorem freeReq_keeps_restingMsi (p q h : Nat) (gen : BitVec 4) (final : Bool) : (freeReq p q h gen final).keeps State.restingMsi := by
  have hill := illegalFree_keeps_restingMsi p q h
  have hdesc := freeDesc_framed.keeps_restingMsi
  have hbuf := fun f => (modBuf_framed h f).keeps_restingMsi
  have hfree := becomeFree_keeps_restingMsi h
  exact keeps_look fun _ => keeps_ite (hill _) (keeps_ite (hill _) (keeps_ite
    (keeps_ite (hill _) (keeps_ite (hill _) (keeps_ite (.acts ⟨hdesc, hfree, trivial⟩) (.acts ⟨hdesc, hbuf _, trivial⟩))))
    (keeps_ite (hill _) (.acts ⟨hdesc, hbuf _, keeps_when hfree, trivial⟩))))

theorem hqStop_keeps_restingMsi : hqStop.keeps State.restingMsi :=
  .acts ⟨h2dKeep_framed.keeps_restingMsi, keeps_each fun _ _ => keeps_look fun _ => .acts ⟨(addSat_own _ _ _).keeps_restingMsi,
    keeps_each fun _ _ => keeps_look fun _ => keeps_each fun _ _ => freeReq_keeps_restingMsi _ _ _ _ _,
    (modDma_framed _).keeps_restingMsi, trivial⟩, trivial⟩

/-! ### The host's rings and its ownership (R364) -/

theorem descEnd_keeps_restingMsi (ring : Nat) (tag : List Byte) (irq : Bool) (r : CmdEnd) (off : Nat) :
    (descEnd ring tag irq r off).keeps State.restingMsi := by
  have hraise : ∀ b, (raiseDma b).keeps State.restingMsi := fun b => raise_keeps_restingMsi _ _
  exact keeps_look fun _ => .acts
    ⟨keeps_ite (keeps_look fun _ => keeps_ite (hraise _) (hostWrite_framed _ _).keeps_restingMsi) (emit_own _).keeps_restingMsi,
      (setF_own _ _ _).keeps_restingMsi, keeps_when (modDma_framed _).keeps_restingMsi, keeps_when (hraise _), keeps_when (hraise _), trivial⟩

theorem ringAbandon_keeps_restingMsi (ring : Nat) : (ringAbandon ring).keeps State.restingMsi := by
  refine .acts ⟨keeps_look fun _ => ?_, keeps_look fun _ => (setF_own _ _ _).keeps_restingMsi, trivial⟩
  split
  · exact keeps_skip
  · exact .acts ⟨(modDma_framed _).keeps_restingMsi, descEnd_keeps_restingMsi _ _ _ _ _, trivial⟩

theorem refOwner_keeps_restingMsi : refOwner.keeps State.restingMsi :=
  keeps_look fun _ => keeps_when (keeps_look fun _ => .acts ⟨keeps_when (.acts ⟨(setF_own _ _ _).keeps_restingMsi,
    raise_keeps_restingMsi _ _, trivial⟩), keeps_when (passBegin_framed _).keeps_restingMsi, trivial⟩)

theorem loseOwner_keeps_restingMsi (why : Nat) : (loseOwner why).keeps State.restingMsi :=
  keeps_look fun _ => keeps_when (.acts ⟨(setF_own _ _ _).keeps_restingMsi, (setF_own _ _ _).keeps_restingMsi,
    ringAbandon_keeps_restingMsi _, (padRelease_framed _).keeps_restingMsi, keeps_each fun _ _ => (setB_own _ _ _).keeps_restingMsi,
    hqStop_keeps_restingMsi, (setB_own _ _ _).keeps_restingMsi, raise_keeps_restingMsi _ _, refOwner_keeps_restingMsi, trivial⟩)

theorem doeReset_keeps_restingMsi : doeReset.keeps State.restingMsi :=
  .acts ⟨keeps_look fun _ => .acts ⟨(modSec_framed _).keeps_restingMsi, sessSync_framed.keeps_restingMsi,
    keeps_when (raise_keeps_restingMsi _ _), trivial⟩, (modSec_framed _).keeps_restingMsi, trivial⟩

end Sys2Proof.Machine
end

section
/-!
PROOF. Registers that return to their reset words (R292, R325, R364): resets of registers keep a register that is at its reset word.
-/
set_option Elab.async false
namespace Sys2Proof.Machine

/-- A register reads, and has in effect, its reset word. -/
def State.atReset (s : State) (r : Reg) (n : Nat) : Prop := s.raw r n = regReset r n &&& regMask r ∧ s.eff r n = regReset r n &&& regMask r

/-- An action takes no register away from its reset word. -/
def Act.keepsReset (a : Act) : Prop := ∀ (r : Reg) (n : Nat) (s : State), s.atReset r n → (run a s).atReset r n

theorem setReg_eq (r r' : Reg) (n n' : Nat) (w : Word) (s : State) : (run (setReg r n w) s).raw r' n' =
      (if r' = r ∧ n' = n then w &&& regMask r else s.raw r' n') ∧
    (run (setReg r n w) s).eff r' n' = (if r' = r ∧ n' = n then w &&& regMask r else s.eff r' n') := by
  rw [setReg, run_seq, run_upd, run_upd, eff_eq, stagedAt_live, raw_live, raw_reg]
  refine ⟨rfl, ?_⟩
  split_ifs with h
  · rfl
  · rw [stagedAt_reg, eff_eq]

theorem setReg_atReset (r : Reg) (n : Nat) (s : State) : (run (setReg r n (regReset r n)) s).atReset r n := by
  obtain ⟨hraw, heff⟩ := setReg_eq r r n n (regReset r n) s
  rw [if_pos ⟨rfl, rfl⟩] at hraw heff
  exact ⟨hraw, heff⟩

theorem setReg_keepsReset (r : Reg) (n : Nat) : (setReg r n (regReset r n)).keepsReset := fun r' n' s h => by
  obtain ⟨hraw, heff⟩ := setReg_eq r r' n n' (regReset r n) s
  rw [State.atReset, hraw, heff]
  split_ifs with hp
  · rw [hp.1, hp.2]
    exact ⟨rfl, rfl⟩
  · exact h

theorem Act.Framed.keepsReset {P : List Part} {a : Act} (h : a.Framed P []) : a.keepsReset := fun r n s hs => by
  obtain ⟨hraw, heff⟩ := h.reg (r := r) rfl n s
  rw [State.atReset, hraw, heff]
  exact hs

theorem Act.keepsReset.acts {l : List Act} (h : ∀ a ∈ l, a.keepsReset) : (Machine.acts l).keepsReset := by
  induction l with
  | nil => exact fun _ _ _ hs => hs
  | cons a l ih => exact fun r n s hs => ih (fun b hb => h b (List.mem_cons_of_mem _ hb)) r n _ (h a List.mem_cons_self r n s hs)

theorem Act.keepsReset.each {α : Type} {l : List α} {f : α → Act} (h : ∀ x, (f x).keepsReset) : (Machine.each l f).keepsReset := by
  induction l with
  | nil => exact fun _ _ _ hs => hs
  | cons x l ih => exact fun r n s hs => ih r n _ (h x r n s hs)

/-- Each register of a list that is reset is at its reset word. -/
theorem each_setReg_atReset {l : List Reg} {r : Reg} (h : r ∈ l) (n : Nat) (s : State) :
    (run (each l fun r => setReg r n (regReset r n)) s).atReset r n :=
  each_all (p := fun r t => t.atReset r n) (f := fun r => setReg r n (regReset r n)) (fun r t => setReg_atReset r n t)
    (fun x y t ht => setReg_keepsReset x n y n t ht) l s r h

/-! ### Mailboxes (R292) -/

/-- The registers of a mailbox whose resets return it to reset: MBX_CTL and the DATA words. -/
def State.mbxAtReset (s : State) (n : Nat) : Prop := s.atReset .MBX_CTL n ∧ ∀ i, i < 16 → s.atReset .MBX_DATA (16 * n + i)

/-- The reset of a mailbox after its MBX_CTL and MBX_SEL: the DATA words, then what waits for it. -/
def mbxDataReset (n : Nat) : Act :=
  acts [each (List.range 16) (fun i => setReg .MBX_DATA (16 * n + i) (regReset .MBX_DATA (16 * n + i))),
    modMbx n fun m => { m with busy := false },
    modNvm fun N => { N with reads := N.reads.filter (·.1 != n) },
    modEvt fun e => { e with i2cQ := e.i2cQ.map fun x => if x.mbx = n then { x with dropped := true } else x }]

theorem run_mbxReset (n : Nat) (s : State) : run (mbxReset n) s = run (mbxDataReset n)
    (run (setReg .MBX_SEL n (regReset .MBX_SEL n)) (run (setReg .MBX_CTL n (regReset .MBX_CTL n)) s)) := rfl

theorem mbxDataReset_keepsReset (n : Nat) : (mbxDataReset n).keepsReset := by
  refine .acts fun a ha => ?_
  simp only [List.mem_cons, List.not_mem_nil, or_false] at ha
  obtain rfl | rfl | rfl | rfl := ha
  · exact .each fun i => setReg_keepsReset _ _
  · exact (modMbx_framed _ _).keepsReset
  · exact (modNvm_framed _).keepsReset
  · exact (modEvt_own _).keepsReset

theorem mbxDataReset_data (n : Nat) {i : Nat} (hi : i < 16) (s : State) : (run (mbxDataReset n) s).atReset .MBX_DATA (16 * n + i) := by
  have hword := each_all (p := fun i t => t.atReset .MBX_DATA (16 * n + i))
    (f := fun i => setReg .MBX_DATA (16 * n + i) (regReset .MBX_DATA (16 * n + i))) (fun i t => setReg_atReset _ _ t)
    (fun x y t ht => setReg_keepsReset _ _ _ _ t ht) (List.range 16) s i (List.mem_range.2 hi)
  simp only [mbxDataReset, run_acts_cons, run_acts_nil]
  exact (modEvt_own _).keepsReset _ _ _ ((modNvm_framed _).keepsReset _ _ _ ((modMbx_framed _ _).keepsReset _ _ _ hword))

theorem mbxReset_keepsReset (n : Nat) : (mbxReset n).keepsReset := fun r k s h => by
  rw [run_mbxReset]
  exact mbxDataReset_keepsReset n r k _ (setReg_keepsReset _ _ r k _ (setReg_keepsReset _ _ r k s h))

theorem mbxReset_self (n : Nat) (s : State) : (run (mbxReset n) s).mbxAtReset n := by
  rw [run_mbxReset]
  exact ⟨mbxDataReset_keepsReset n _ _ _ (setReg_keepsReset _ _ _ _ _ (setReg_atReset _ _ s)), fun i hi => mbxDataReset_data n hi _⟩

/-- Every mailbox of a list that is reset is at reset. -/
theorem each_mbxReset {l : List Nat} {n : Nat} (h : n ∈ l) (s : State) : (run (each l mbxReset) s).mbxAtReset n :=
  each_all (p := fun n t => t.mbxAtReset n) (f := mbxReset) mbxReset_self
    (fun x _ t ht => ⟨mbxReset_keepsReset x _ _ t ht.1, fun i hi => mbxReset_keepsReset x _ _ t (ht.2 i hi)⟩) l s n h

/-- Both registers of a mailbox at reset read their reset words. -/
theorem State.mbxAtReset.reads {s : State} {n : Nat} (h : s.mbxAtReset n) : s.raw .MBX_CTL n = regReset .MBX_CTL n ∧
    ∀ i, i < 16 → s.raw .MBX_DATA (16 * n + i) = 0 := by
  have hmask : Reg.resetWord .MBX_CTL &&& regMask .MBX_CTL = Reg.resetWord .MBX_CTL ∧ Reg.resetWord .MBX_DATA &&& regMask .MBX_DATA = 0 := by
    decide
  exact ⟨h.1.1.trans hmask.1, fun i hi => (h.2 i hi).1.trans hmask.2⟩

/-- An action that does not write the mailboxes leaves one at reset. -/
theorem Act.Framed.mbxAtReset {P : List Part} {R : List Reg} {a : Act} (h : a.Framed P R) {s : State} {n : Nat} (hs : s.mbxAtReset n)
    (hc : R.contains .MBX_CTL = false := by decide) (hd : R.contains .MBX_DATA = false := by decide) :
    (Machine.run a s).mbxAtReset n := by
  refine ⟨?_, fun i hi => ?_⟩
  · rw [State.atReset, (h.reg hc n s).1, (h.reg hc n s).2]
    exact hs.1
  · rw [State.atReset, (h.reg hd (16 * n + i) s).1, (h.reg hd (16 * n + i) s).2]
    exact hs.2 i hi

/-! ### Host queues and snapshots (R325, R364, R449) -/

theorem hqReset_atReset {k : Nat} (hk : k < 16) {r : Reg} (hr : r ∈ [Reg.HQ_BASE_LO, .HQ_BASE_HI, .HQ_CFG, .HQ_TAIL, .HQ_HEAD, .HQ_LOST])
    (s : State) : (run hqReset s).atReset r k :=
  each_all (p := fun k t => t.atReset r k) (f := fun k => each [Reg.HQ_BASE_LO, .HQ_BASE_HI, .HQ_CFG, .HQ_TAIL, .HQ_HEAD, .HQ_LOST]
      fun r => setReg r k (regReset r k)) (fun k t => each_setReg_atReset hr k t)
    (fun x k t ht => Act.keepsReset.each (fun r => setReg_keepsReset r x) r k t ht) (List.range 16) s k (List.mem_range.2 hk)

/-- A host queue whose registers are reset is off. -/
theorem hqReset_off {k : Nat} (hk : k < 16) (s : State) : (run hqReset s).hqOn k = false := by
  have hcfg := (hqReset_atReset hk (r := .HQ_CFG) (by decide) s).2
  have hen : bits (Reg.resetWord .HQ_CFG &&& regMask .HQ_CFG) F.HQ_CFG_EN.lo F.HQ_CFG_EN.w = 0 := by decide
  have hbit : (run hqReset s).bit F.HQ_CFG_EN k = false := by
    rw [State.bit, State.fld, show F.HQ_CFG_EN.reg = .HQ_CFG from rfl, hcfg]
    exact decide_eq_false (not_not.2 hen)
  rw [State.hqOn, hbit, Bool.and_false]

theorem snapReset_cfg (s : State) : (run snapReset s).raw .PERF_SNAP_CFG 0 = regReset .PERF_SNAP_CFG 0 := by
  have hmask : Reg.resetWord .PERF_SNAP_CFG &&& regMask .PERF_SNAP_CFG = Reg.resetWord .PERF_SNAP_CFG := by decide
  exact (each_setReg_atReset (by decide) 0 s).1.trans hmask

theorem ringReset_cfg (ring : Nat) (s : State) : (run (ringReset ring) s).raw .DMA_RING_CFG ring = regReset .DMA_RING_CFG ring := by
  have hmask : Reg.resetWord .DMA_RING_CFG &&& regMask .DMA_RING_CFG = Reg.resetWord .DMA_RING_CFG := by decide
  rw [ringReset, run_acts_cons, run_acts_cons, run_acts_nil, ((modDma_framed _).reg rfl _ _).1]
  exact (each_setReg_atReset (by decide) ring _).1.trans hmask

end Sys2Proof.Machine
end

section
/-!
PROOF. PLL losses, PERST_N, function-level resets and the watchdog of Zolliwin (R292, R308, R310, R316, R324, R325).
-/
set_option Elab.async false
namespace Sys2Proof.Machine

/-! ### TIMEPLL (R310) -/

/-- Device time, as the accumulator counts it. -/
def State.deviceTime (s : State) : Nat := s.time.acc

theorem keeps_deviceTime_framed {P : List Part} {R : List Reg} {a : Act} (h : a.Framed P R) (hP : P.contains .time = false := by decide) :
    a.keeps State.deviceTime := fun s => congrArg TimeS.acc (h.time s hP)

theorem dpllTo_keeps_deviceTime (n : Nat) : (dpllTo n).keeps State.deviceTime :=
  keeps_look fun _ => .acts ⟨keeps_when (.acts ⟨fun _ => rfl, keeps_deviceTime_framed (setF_own _ _ _), keeps_deviceTime_framed (raise_own _ _),
    trivial⟩), keeps_deviceTime_framed syncQl_framed, trivial⟩

/-- Device time runs on when the frequency input is lost. -/
theorem dpllClockLost_keeps_deviceTime : dpllClockLost.keeps State.deviceTime :=
  .acts ⟨keeps_deviceTime_framed (setSel_framed _), keeps_look fun _ => keeps_when (dpllTo_keeps_deviceTime _),
    keeps_deviceTime_framed syncQl_framed, trivial⟩

/-- The clock is on TIMEPLL, or on the backup. -/
def onTimepll (up : Bool) : Act := acts [setB F.CLK_STATUS_TIME_LOCK 0 up, setB F.CLK_STATUS_CLK_BACKUP 0 !up]

theorem onTimepll_status (up : Bool) (s : State) : (run (onTimepll up) s).bit F.CLK_STATUS_TIME_LOCK 0 = up ∧
    (run (onTimepll up) s).bit F.CLK_STATUS_CLK_BACKUP 0 = !up := by
  simp only [onTimepll, run_acts_cons, run_acts_nil]
  rw [setB_bit_apart _ _ _ _ _ _ (by decide) (by decide), setB_bit _ _ _ _ (by decide) rfl, setB_bit _ _ _ _ (by decide) rfl]
  exact ⟨rfl, rfl⟩

/-- What follows the loss of TIMEPLL, and what follows its relock: neither writes CLK_STATUS. -/
theorem timepllLoss_run {s : State} (h : s.bit F.CLK_STATUS_TIME_LOCK 0 = true) :
    run timepllLoss s = run dpllClockLost (run (raise F.CLK_EVT_CAUSE_TIMEPLL_LOSS 0) (run (onTimepll false) s)) := by
  rw [timepllLoss, run_look, run_when_eq_true h]
  simp only [onTimepll, run_acts_cons, run_acts_nil, Bool.not_false]

theorem timepllRelock_run {s : State} (h : s.bit F.CLK_STATUS_CLK_BACKUP 0 = true) : run timepllRelock s = run refSwitch
    (run (calStartAll (s.allPorts.filter s.isUp) 8) (run (raise F.CLK_EVT_CAUSE_TIMEPLL_RELOCK 0) (run (onTimepll true) s))) := by
  rw [timepllRelock, run_look, run_when_eq_true h]
  simp only [onTimepll, run_acts_cons, run_acts_nil, Bool.not_true]

theorem timepllLoss_effect {s : State} (h : s.bit F.CLK_STATUS_TIME_LOCK 0 = true) :
    (run timepllLoss s).bit F.CLK_STATUS_TIME_LOCK 0 = false ∧ (run timepllLoss s).bit F.CLK_STATUS_CLK_BACKUP 0 = true ∧
      (run timepllLoss s).time.acc = s.time.acc := by
  obtain ⟨hlock, hbackup⟩ := onTimepll_status false s
  have hclk : (onTimepll false).Framed [.regs, .live] [.CLK_STATUS] := .acts ⟨(setB_own _ _ _).widen, (setB_own _ _ _).widen, trivial⟩
  rw [timepllLoss_run h]
  refine ⟨?_, ?_, ?_⟩
  · rw [dpllClockLost_framed.bit F.CLK_STATUS_TIME_LOCK, (raise_own _ _).bit F.CLK_STATUS_TIME_LOCK, hlock]
  · rw [dpllClockLost_framed.bit F.CLK_STATUS_CLK_BACKUP, (raise_own _ _).bit F.CLK_STATUS_CLK_BACKUP, hbackup]
    rfl
  · have hacc := dpllClockLost_keeps_deviceTime (run (raise F.CLK_EVT_CAUSE_TIMEPLL_LOSS 0) (run (onTimepll false) s))
    rw [State.deviceTime, State.deviceTime, (raise_own _ _).time, hclk.time] at hacc
    exact hacc

theorem timepllRelock_effect {s : State} (h : s.bit F.CLK_STATUS_CLK_BACKUP 0 = true) :
    (run timepllRelock s).bit F.CLK_STATUS_TIME_LOCK 0 = true ∧ (run timepllRelock s).bit F.CLK_STATUS_CLK_BACKUP 0 = false := by
  obtain ⟨hlock, hbackup⟩ := onTimepll_status true s
  have hafter (f : Fld) (hf : f.reg = .CLK_STATUS) (u : State) :
      (run refSwitch (run (calStartAll (s.allPorts.filter s.isUp) 8) (run (raise F.CLK_EVT_CAUSE_TIMEPLL_RELOCK 0) u))).bit f 0 = u.bit f 0 := by
    rw [refSwitch_framed.bit f _ _ (by rw [hf]; decide), (calStartAll_framed _ _).bit f _ _ (by rw [hf]; decide),
      (raise_own _ _).bit f _ _ (by rw [hf]; decide)]
  rw [timepllRelock_run h, hafter _ rfl, hafter _ rfl, hlock, hbackup]
  exact ⟨rfl, rfl⟩

/-! ### The PCIe link (R308, R316) -/

/-- A request of a PCIe function arrives over the link alone. -/
theorem arrives_linkDown {s : State} {r : Req} (hr : (pfOf r).isSome = true)
    (h : s.clk.pcieUp = false ∨ s.bit F.CLK_STATUS_PCIE_LOCK 0 = false) : s.arrives r = false := by
  obtain ⟨pf, hpf⟩ := Option.isSome_iff_exists.1 hr
  rw [State.arrives, hpf]
  rcases h with h | h <;> simp [h]

theorem pcieStart_effect {s : State} (hl : s.clk.opts.pcieLanes ≠ 0) (hp : s.clk.perst = false) :
    (run pcieStart s).clk = { s.clk with pcieUp := true } ∧ (run pcieStart s).bit F.CLK_STATUS_PCIE_LOCK 0 = true := by
  rw [pcieStart, run_look, run_when_eq_true (by simp [hl, hp]), run_acts_cons, run_acts_cons, run_acts_nil, (setB_own _ _ _).clk,
    setB_bit _ _ _ _ (by decide) rfl]
  exact ⟨rfl, rfl⟩

theorem perstNRelease_effect {s : State} (hstep : s.clk.step = 11) (hl : s.clk.opts.pcieLanes ≠ 0) :
    (run perstNRelease s).clk.perst = false ∧ (run perstNRelease s).clk.pcieUp = true ∧
      (run perstNRelease s).bit F.CLK_STATUS_PCIE_LOCK 0 = true := by
  have hclk : (run (modClk fun c => { c with perst := false }) s).clk = { s.clk with perst := false } := rfl
  obtain ⟨hup, hlock⟩ := pcieStart_effect (s := run (modClk fun c => { c with perst := false }) s) (by rw [hclk]; exact hl) (by rw [hclk])
  rw [perstNRelease, run_acts_cons, run_acts_cons, run_acts_nil, run_look, run_when_eq_true (decide_eq_true (by rw [hclk]; exact hstep))]
  rw [hup]
  exact ⟨rfl, rfl, hlock⟩

/-! ### MSI-X tables (R325) -/

/-- A function's vectors are at reset, and it is not enabled. -/
def State.msixAtReset (s : State) (pf : Nat) : Prop := ∀ vec, vec < 2048 → s.msiV (msiKey pf vec) = {} ∧ s.evt.msixOn.contains pf = false

theorem msiReset_eq (pf : Nat) (s : State) : (run (msiReset pf) s).msi = tabKeep s.msi (fun k => !(k / 2048 == pf)) ∧
    (run (msiReset pf) s).evt.msixOn = s.evt.msixOn.filter (· != pf) := ⟨rfl, rfl⟩

theorem msiReset_self (pf : Nat) (s : State) : (run (msiReset pf) s).msixAtReset pf := fun vec hvec => by
  obtain ⟨hmsi, hon⟩ := msiReset_eq pf s
  have hkey : msiKey pf vec / 2048 = pf := by rw [msiKey]; omega
  refine ⟨?_, by rw [hon]; simp⟩
  rw [State.msiV, hmsi, tabKeep, tabGet_filter_out _ _ _ (fun k => !(k / 2048 == pf)) (by simp [hkey])]

theorem msiReset_keeps (pf qf : Nat) (s : State) (h : s.msixAtReset qf) : (run (msiReset pf) s).msixAtReset qf := fun vec hvec => by
  obtain ⟨hv, hoff⟩ := h vec hvec
  obtain ⟨hmsi, hon⟩ := msiReset_eq pf s
  refine ⟨?_, ?_⟩
  · rw [State.msiV, hmsi, tabKeep]
    cases hk : !(msiKey qf vec / 2048 == pf)
    · exact tabGet_filter_out _ _ _ (fun k => !(k / 2048 == pf)) hk
    · rw [tabGet_filter _ _ _ (fun k => !(k / 2048 == pf)) hk]
      exact hv
  · rw [hon]
    simpa using fun h0 => absurd h0 (by simpa using hoff)

theorem each_msiReset {l : List Nat} {pf : Nat} (h : pf ∈ l) (s : State) : (run (each l msiReset) s).msixAtReset pf :=
  each_all (p := fun pf t => t.msixAtReset pf) (f := msiReset) msiReset_self msiReset_keeps l s pf h

/-! ### Ownership and the padlock of the host (R364) -/

/-- After its loss the host does not own the device. -/
theorem loseOwner_hostOwns (why : Nat) (s : State) : (run (loseOwner why) s).hostOwns = false := by
  rw [loseOwner, run_look, run_when]
  split_ifs with h
  · simp only [run_acts_cons, run_acts_nil]
    have hkeys : (each (List.range 16) fun k => setB F.HQ_CFG_EN k false).Framed [.regs, .live] [.HQ_CFG] := .each fun _ _ => (setB_own _ _ _).widen
    have hraise : (raiseDma dmaLost).Framed occurParts (.DMA_EVT_CAUSE :: occurRegs) := raiseBit_own _ _ _
    rw [State.hostOwns, refOwner_framed.fld F.SYS_OWNER_STATE, hraise.fld F.SYS_OWNER_STATE, (setB_own _ _ _).fld F.SYS_OWNER_STATE,
      hqStop_framed.fld F.SYS_OWNER_STATE, hkeys.fld F.SYS_OWNER_STATE, (padRelease_framed _).fld F.SYS_OWNER_STATE,
      (ringAbandon_framed _).fld F.SYS_OWNER_STATE, setF_fld_apart _ _ _ _ _ _ (by decide) (by decide), setF_fld _ _ _ _ (by decide)]
    rfl
  · exact Bool.not_eq_true _ ▸ h

/-- The padlock that the host holds. -/
def State.hostLock (s : State) : BitVec 16 := s.dma.lockH

theorem keeps_hostLock_framed {P : List Part} {R : List Reg} {a : Act} (h : a.Framed P R) (hP : P.contains .dma = false := by decide) :
    a.keeps State.hostLock := fun s => congrArg DmaS.lockH (h.part .dma s hP)

theorem padRelease_hostLock (s : State) : (run (padRelease 0) s).hostLock = 0 := by
  rw [padRelease, run_acts_cons, run_acts_cons, run_acts_nil, keeps_hostLock_framed padSync_framed]
  rfl

theorem ringReset_keeps_hostLock (ring : Nat) : (ringReset ring).keeps State.hostLock :=
  .acts ⟨keeps_hostLock_framed (each_setReg_own _ _ _), fun _ => rfl, trivial⟩

theorem hqStop_keeps_hostLock : hqStop.keeps State.hostLock :=
  .acts ⟨fun _ => rfl, keeps_each fun _ _ => keeps_look fun _ => .acts ⟨keeps_hostLock_framed (addSat_own _ _ _),
    keeps_each fun _ _ => keeps_hostLock_framed (peFreeFrame_framed _), fun _ => rfl, trivial⟩, trivial⟩

/-! ### PERST_N (R312, R325) -/

/-- What PERST_N does once the link is down: the event where there is an event tree to record it. -/
def perstDown (s : State) : Act :=
  acts [modClk fun c => { c with perst := true, pcieUp := false }, when s.clk.srcs.isEmpty (raise F.CLK_EVT_CAUSE_PCIE_RESET 0),
    setB F.CLK_STATUS_PCIE_LOCK 0 false]

/-- What PERST_N takes from the host: its ownership, its padlock, its ring, its queues and the snapshots. -/
def perstHost : Act := acts [loseOwner lostPerst, padRelease 0, ringReset 0, hqStop, hqReset, snapReset]

theorem perstNAssert_run {s : State} (h : s.clk.step = 11) : run perstNAssert s = run perstHost (run doeReset
    (run (each (List.range 16) mbxReset) (run (each (List.range 4) msiReset) (run (perstDown s) s)))) := by
  rw [perstNAssert, run_look, run_acts_cons, run_acts_cons, run_acts_cons, run_acts_nil, run_when_eq_true (decide_eq_true h)]
  rfl

/-- Neither the sessions over DOE nor what PERST_N takes from the host belongs to the clocks, the events or the mailboxes. -/
theorem perstHost_framed : perstHost.Framed (.aisles :: .bufs :: .cnt :: .dma :: .hostWr :: .perf :: .ports :: .swc :: occurParts)
    (.ASSAY_CTL :: .ASSAY_STATUS :: .DMA_CPL_BASE_HI :: .DMA_CPL_BASE_LO :: .DMA_EVT_CAUSE :: .DMA_PADLOCK :: .DMA_RING_BASE_HI ::
      .DMA_RING_BASE_LO :: .DMA_RING_CFG :: .DMA_RING_HEAD :: .DMA_RING_TAIL :: .HQ_BASE_HI :: .HQ_BASE_LO :: .HQ_CFG :: .HQ_HEAD ::
      .HQ_LOST :: .HQ_TAIL :: .PERF_SNAP_BASE_HI :: .PERF_SNAP_BASE_LO :: .PERF_SNAP_CFG :: .QTR_ASSAY_EVT_CAUSE :: .SYS_OWNER :: freeRegs) :=
  .acts ⟨(loseOwner_framed _).widen, (padRelease_framed _).widen, (ringReset_framed _).widen, hqStop_framed.widen, hqReset_framed.widen,
    snapReset_framed.widen, trivial⟩

theorem mbxReset_keeps_msixOn (n : Nat) : (mbxReset n).keeps fun s => s.evt.msixOn := by
  have hevt {P : List Part} {R : List Reg} {a : Act} (h : a.Framed P R) (hP : P.contains .evt = false := by decide) :
      a.keeps fun s => s.evt.msixOn := fun s => congrArg EvtS.msixOn (h.evt s hP)
  exact .acts ⟨hevt (setReg_own _ _ _), hevt (setReg_own _ _ _), keeps_each fun _ _ => hevt (setReg_own _ _ _), hevt (modMbx_framed _ _),
    hevt (modNvm_framed _), fun _ => rfl, trivial⟩

theorem each_mbxReset_framed (l : List Nat) : (each l mbxReset).Framed [.evt, .live, .mbx, .nvm, .regs] [.MBX_CTL, .MBX_DATA, .MBX_SEL] :=
  .each fun _ _ => mbxReset_framed _

theorem each_msiReset_framed (l : List Nat) : (each l msiReset).Framed [.evt, .msi] [] := .each fun _ _ => msiReset_framed _

theorem perstDown_effect (s : State) : (run (perstDown s) s).clk = { s.clk with perst := true, pcieUp := false } := by
  have hraise : (when s.clk.srcs.isEmpty (raise F.CLK_EVT_CAUSE_PCIE_RESET 0)).Framed occurParts (.CLK_EVT_CAUSE :: occurRegs) :=
    .when (raise_own F.CLK_EVT_CAUSE_PCIE_RESET 0).widen
  rw [perstDown, run_acts_cons, run_acts_cons, run_acts_cons, run_acts_nil, (setB_own _ _ _).clk, hraise.clk]
  rfl

theorem perstNAssert_clk {s : State} (h : s.clk.step = 11) : (run perstNAssert s).clk = { s.clk with perst := true, pcieUp := false } := by
  rw [perstNAssert_run h, perstHost_framed.clk, doeReset_framed.clk, (each_mbxReset_framed _).clk, (each_msiReset_framed _).clk, perstDown_effect]

theorem perstHost_hostOwns (s : State) : (run perstHost s).hostOwns = false := by
  have hrest : (acts [padRelease 0, ringReset 0, hqStop, hqReset, snapReset]).Framed (.bufs :: .cnt :: .dma :: .perf :: .ports :: .swc :: occurParts)
      (.DMA_CPL_BASE_HI :: .DMA_CPL_BASE_LO :: .DMA_PADLOCK :: .DMA_RING_BASE_HI :: .DMA_RING_BASE_LO :: .DMA_RING_CFG :: .DMA_RING_HEAD ::
        .DMA_RING_TAIL :: .HQ_BASE_HI :: .HQ_BASE_LO :: .HQ_CFG :: .HQ_HEAD :: .HQ_LOST :: .HQ_TAIL :: .PERF_SNAP_BASE_HI ::
        .PERF_SNAP_BASE_LO :: .PERF_SNAP_CFG :: freeRegs) :=
    .acts ⟨(padRelease_framed _).widen, (ringReset_framed _).widen, hqStop_framed.widen, hqReset_framed.widen, snapReset_framed.widen, trivial⟩
  rw [perstHost, run_acts_cons, State.hostOwns, hrest.fld F.SYS_OWNER_STATE]
  exact loseOwner_hostOwns _ _

theorem perstHost_hostLock (s : State) : (run perstHost s).hostLock = 0 := by
  simp only [perstHost, run_acts_cons, run_acts_nil]
  rw [keeps_hostLock_framed snapReset_framed, keeps_hostLock_framed hqReset_framed, hqStop_keeps_hostLock, ringReset_keeps_hostLock,
    padRelease_hostLock]

theorem perstHost_keeps_restingMsi : perstHost.keeps State.restingMsi :=
  .acts ⟨loseOwner_keeps_restingMsi _, (padRelease_framed _).keeps_restingMsi, (ringReset_framed _).keeps_restingMsi, hqStop_keeps_restingMsi,
    hqReset_framed.keeps_restingMsi, snapReset_framed.keeps_restingMsi, trivial⟩

/-- The messages that the rest of PERST_N raises are lost, so the MSI-X tables stay at reset. -/
theorem perstNAssert_msix {s : State} (h : s.clk.step = 11) {pf : Nat} (hpf : pf < 4) : (run perstNAssert s).msixAtReset pf := by
  have hclk := perstNAssert_clk h
  rw [perstNAssert_run h] at hclk ⊢
  generalize hu : run (each (List.range 4) msiReset) (run (perstDown s) s) = u at hclk ⊢
  have hreset : u.msixAtReset pf := by
    rw [← hu]
    exact each_msiReset (List.mem_range.2 hpf) _
  have huclk : u.clk.pcieUp = false := by
    rw [← hu, (each_msiReset_framed _).clk, perstDown_effect]
  generalize hv : run (each (List.range 16) mbxReset) u = v at hclk ⊢
  have hvmsi : v.msi = u.msi ∧ v.clk = u.clk := by
    rw [← hv]
    exact ⟨(each_mbxReset_framed _).part .msi u, (each_mbxReset_framed _).clk u⟩
  have hresting : (run perstHost (run doeReset v)).restingMsi = v.restingMsi := by rw [perstHost_keeps_restingMsi, doeReset_keeps_restingMsi]
  have hmsi : (run perstHost (run doeReset v)).msi = u.msi := by
    rw [State.restingMsi, State.restingMsi, hclk, hvmsi.2, huclk, hvmsi.1] at hresting
    exact Option.some.inj hresting
  have hon : (run perstHost (run doeReset v)).evt.msixOn = u.evt.msixOn := by
    rw [perstHost_framed.evt, doeReset_framed.evt, ← hv]
    exact keeps_each (g := fun t => t.evt.msixOn) (fun n _ => mbxReset_keeps_msixOn n) u
  intro vec hvec
  obtain ⟨hvec0, hoff⟩ := hreset vec hvec
  rw [State.msiV, hmsi, hon]
  exact ⟨hvec0, hoff⟩

theorem perstNAssert_effect {s : State} (h : s.clk.step = 11) :
    let t := run perstNAssert s
    t.clk.perst = true ∧ t.clk.pcieUp = false ∧ (∀ r, (pfOf r).isSome → t.arrives r = false) ∧ t.hostOwns = false ∧
      (∀ pf vec, pf < 4 → vec < 2048 → t.msiV (msiKey pf vec) = {} ∧ t.evt.msixOn.contains pf = false) ∧
      (∀ m, m < 16 → t.raw .MBX_CTL m = regReset .MBX_CTL m) ∧ t.dma.lockH = 0 := by
  have hclk := perstNAssert_clk h
  refine ⟨by rw [hclk], by rw [hclk], fun r hr => arrives_linkDown hr (.inl (by rw [hclk])), ?_, fun pf vec hpf => perstNAssert_msix h hpf vec,
    fun m hm => ?_, ?_⟩
  · rw [perstNAssert_run h]
    exact perstHost_hostOwns _
  · rw [perstNAssert_run h]
    have hmbx := each_mbxReset (List.mem_range.2 hm) (run (each (List.range 4) msiReset) (run (perstDown s) s))
    exact (perstHost_framed.mbxAtReset (doeReset_framed.mbxAtReset hmbx)).reads.1
  · rw [perstNAssert_run h]
    exact perstHost_hostLock _

/-! ### Function-level resets (R308, R325) -/

/-- What an FLR returns to reset beside the function's vectors and mailboxes. -/
def flrOwn (pf : Nat) : Act :=
  match pf with
  | 0 => doeReset
  | 1 => acts [ringAbandon 0, padRelease 0, ringReset 0]
  | 2 => acts [hqStop, hqReset]
  | _ => snapReset

theorem flr_run {s : State} (pf : Nat) (hup : s.clk.pcieUp = true) (hp : s.clk.perst = false) (hl : s.bit F.CLK_STATUS_PCIE_LOCK 0 = true) :
    run (flr pf) s = run (flrOwn pf) (run (each ((List.range 4).map (4 * pf + ·)) mbxReset)
      (run (msiReset pf) (run (raise F.CLK_EVT_CAUSE_FLR 0) s))) := by
  rw [flr.eq_def, run_look, run_when_eq_true (by simp [hup, hp, hl]), run_acts_cons, run_acts_cons, run_acts_cons, run_acts_cons, run_acts_nil]
  rfl

theorem flrOwn_mbxAtReset {pf n : Nat} {s : State} (h : s.mbxAtReset n) : (run (flrOwn pf) s).mbxAtReset n := by
  unfold flrOwn
  split
  · exact doeReset_framed.mbxAtReset h
  · exact (ringReset_framed 0).mbxAtReset ((padRelease_framed 0).mbxAtReset ((ringAbandon_framed 0).mbxAtReset h))
  · exact hqReset_framed.mbxAtReset (hqStop_framed.mbxAtReset h)
  · exact snapReset_framed.mbxAtReset h

theorem flrOwn_ring (s : State) : (run (flrOwn 1) s).hostLock = 0 ∧ (run (flrOwn 1) s).raw .DMA_RING_CFG 0 = regReset .DMA_RING_CFG 0 := by
  rw [show flrOwn 1 = acts [ringAbandon 0, padRelease 0, ringReset 0] from rfl]
  simp only [run_acts_cons, run_acts_nil]
  rw [ringReset_keeps_hostLock, padRelease_hostLock]
  exact ⟨rfl, ringReset_cfg 0 _⟩

/-- An FLR returns the four mailboxes of its function to reset, and what the function owns beside them. -/
theorem flr_effect {s : State} (pf : Nat) (hup : s.clk.pcieUp = true) (hp : s.clk.perst = false) (hl : s.bit F.CLK_STATUS_PCIE_LOCK 0 = true) :
    let t := run (flr pf) s
    (∀ m, m < 16 → m / 4 = pf → t.raw .MBX_CTL m = regReset .MBX_CTL m ∧ ∀ i, i < 16 → t.raw .MBX_DATA (16 * m + i) = 0) ∧
      (pf = 1 → t.dma.lockH = 0 ∧ t.raw .DMA_RING_CFG 0 = regReset .DMA_RING_CFG 0) ∧ (pf = 2 → ∀ k, k < 16 → t.hqOn k = false) ∧
      (pf = 3 → t.raw .PERF_SNAP_CFG 0 = regReset .PERF_SNAP_CFG 0) := by
  dsimp only
  rw [flr_run pf hup hp hl]
  refine ⟨fun m _ hm => ?_, fun h => ?_, fun h k hk => ?_, fun h => ?_⟩
  · have hmem : m ∈ (List.range 4).map (4 * pf + ·) := List.mem_map.2 ⟨m % 4, List.mem_range.2 (Nat.mod_lt _ (by decide)), by omega⟩
    exact (flrOwn_mbxAtReset (each_mbxReset hmem _)).reads
  · rw [h]
    exact flrOwn_ring _
  · rw [h]
    exact hqReset_off hk _
  · rw [h]
    exact snapReset_cfg _

/-! ### The watchdog (R324) -/

theorem addSat_fld (f : Fld) (n k : Nat) (s : State) (h : f.held = true) :
    (run (addSat f n k) s).fld f n = min (s.rawFld f n + k) (2 ^ f.w - 1) := by
  have hpos := Nat.two_pow_pos f.w
  rw [addSat, run_look, setF_fld _ _ _ _ h, Nat.mod_eq_of_lt (by omega)]

theorem wdtKick_effect {s : State} {r : Req} (v : Word) (h : s.takesSec r .CLK_WDT_KICK 0 = true) :
    let t := run (wdtKick r v) s
    if bits v 0 16 = 0x6B1D then t.clk.wdtAt = s.time.words ∧ t.clk.wdtMs = s.fld F.CLK_WDT_CFG_TIMEOUT_MS 0 ∧ t.regs = s.regs
    else t.fld F.CLK_WDT_STATUS_BAD_KICKS 0 = min (s.rawFld F.CLK_WDT_STATUS_BAD_KICKS 0 + 1) (2 ^ F.CLK_WDT_STATUS_BAD_KICKS.w - 1) ∧
      t.clk = s.clk := by
  dsimp only
  rw [wdtKick, run_onSecWrite h]
  split_ifs with hkey
  · exact ⟨rfl, rfl, rfl⟩
  · exact ⟨addSat_fld _ _ _ _ (by decide), (addSat_own _ _ _).clk s⟩

/-- What the watchdog's expiry counts from: the words of the clock. -/
def State.clockWords (s : State) : Nat := s.time.words

theorem keeps_clockWords_framed {P : List Part} {R : List Reg} {a : Act} (h : a.Framed P R) (hP : P.contains .time = false := by decide) :
    a.keeps State.clockWords := fun s => congrArg TimeS.words (h.time s hP)

theorem zolMemoryReset_keeps_clockWords : zolMemoryReset.keeps State.clockWords :=
  keeps_look fun _ => .acts ⟨keeps_clockWords_framed (modNvm_framed _), keeps_clockWords_framed (modPe_framed _),
    keeps_clockWords_framed (modThm_framed _), fun _ => rfl, keeps_each fun _ _ => keeps_clockWords_framed (modBfd_framed _ _), trivial⟩

/-- The memory that Zolliwin loses holds its copy of the patch. -/
theorem zolMemoryReset_patch (s : State) : (run zolMemoryReset s).nvm.patch = [] := by
  have hbfd : (each s.bfd fun b => modBfd b.1 fun B => { B with zol := [] }).Framed [.bfd] [] := .each fun _ _ => modBfd_framed _ _
  rw [zolMemoryReset, run_look]
  simp only [run_acts_cons, run_acts_nil]
  rw [hbfd.nvm, stepDrop_framed.nvm, (modThm_framed _).nvm, (modPe_framed _).nvm]
  rfl

/-- The reset of Zolliwin, before the count starts again. -/
def zolReset : Act :=
  acts [modClk fun c => { c with zolRun := if c.zolRun = 3 then 3 else 1 }, each [16, 17, 18, 19] mbxReset, zolMemoryReset,
    addSat F.CLK_RST_CAUSE_WDT_COUNT 0 1, servoSuspend]

theorem wdtExpire_run {s : State} (hen : s.bit F.CLK_WDT_CFG_WDT_EN 0 = true) (hrun : s.clk.zolRun ≠ 0)
    (ha : s.aged s.clk.wdtAt (s.clk.wdtMs * 1000000) = true) :
    run wdtExpire s = run (raise F.CLK_EVT_CAUSE_WDT_RESET 0) (run wdtRestart (run zolReset s)) := by
  rw [wdtExpire, run_look, run_when_eq_true (by simp [hen, hrun, ha])]
  simp only [zolReset, run_acts_cons, run_acts_nil]

theorem zolReset_clk (s : State) : (run zolReset s).clk = { s.clk with zolRun := if s.clk.zolRun = 3 then 3 else 1 } := by
  simp only [zolReset, run_acts_cons, run_acts_nil]
  rw [servoSuspend_framed.clk, (addSat_own _ _ _).clk, zolMemoryReset_framed.clk, (each_mbxReset_framed _).clk]
  rfl

theorem zolReset_keeps_clockWords : zolReset.keeps State.clockWords :=
  .acts ⟨keeps_clockWords_framed (modClk_framed _), keeps_clockWords_framed (each_mbxReset_framed _), zolMemoryReset_keeps_clockWords,
    keeps_clockWords_framed (addSat_own _ _ _), .acts ⟨fun _ => rfl, fun _ => rfl, trivial⟩, trivial⟩

theorem zolReset_patch (s : State) : (run zolReset s).nvm.patch = [] := by
  simp only [zolReset, run_acts_cons, run_acts_nil]
  rw [servoSuspend_framed.nvm, (addSat_own _ _ _).nvm, zolMemoryReset_patch]

theorem zolReset_mbx {n : Nat} (h : n ∈ [16, 17, 18, 19]) (s : State) : (run zolReset s).mbxAtReset n := by
  simp only [zolReset, run_acts_cons, run_acts_nil]
  exact servoSuspend_framed.mbxAtReset ((addSat_own F.CLK_RST_CAUSE_WDT_COUNT 0 1).mbxAtReset (zolMemoryReset_framed.mbxAtReset (each_mbxReset h _)))

theorem zolReset_count (s : State) : (run zolReset s).fld F.CLK_RST_CAUSE_WDT_COUNT 0 =
    min (s.rawFld F.CLK_RST_CAUSE_WDT_COUNT 0 + 1) (2 ^ F.CLK_RST_CAUSE_WDT_COUNT.w - 1) := by
  simp only [zolReset, run_acts_cons, run_acts_nil]
  rw [servoSuspend_framed.keepFld, addSat_fld _ _ _ _ (by decide), zolMemoryReset_framed.keepRawFld,
    (each_mbxReset_framed _).rawFld F.CLK_RST_CAUSE_WDT_COUNT, (modClk_framed _).keepRawFld]

theorem wdtRestart_clk (s : State) : (run wdtRestart s).clk = { s.clk with wdtAt := s.clockWords, wdtMs := s.fld F.CLK_WDT_CFG_TIMEOUT_MS 0 } := rfl

theorem wdtExpire_effect {s : State} (hen : s.bit F.CLK_WDT_CFG_WDT_EN 0 = true) (hrun : s.clk.zolRun ≠ 0)
    (ha : s.aged s.clk.wdtAt (s.clk.wdtMs * 1000000) = true) :
    let t := run wdtExpire s
    t.clk.zolRun = (if s.clk.zolRun = 3 then 3 else 1) ∧ t.clk.wdtAt = s.time.words ∧ t.nvm.patch = [] ∧
      (∀ n, 16 ≤ n → n < 20 → t.raw .MBX_CTL n = regReset .MBX_CTL n) ∧
      t.fld F.CLK_RST_CAUSE_WDT_COUNT 0 = min (s.rawFld F.CLK_RST_CAUSE_WDT_COUNT 0 + 1) (2 ^ F.CLK_RST_CAUSE_WDT_COUNT.w - 1) := by
  have hraise := raise_own F.CLK_EVT_CAUSE_WDT_RESET 0
  dsimp only
  rw [wdtExpire_run hen hrun ha, hraise.clk, wdtRestart_clk, zolReset_clk, zolReset_keeps_clockWords]
  refine ⟨rfl, rfl, ?_, fun n h16 h20 => ?_, ?_⟩
  · rw [hraise.nvm, wdtRestart_framed.nvm, zolReset_patch]
  · have hmem : n ∈ [16, 17, 18, 19] := by simp only [List.mem_cons, List.not_mem_nil, or_false]; omega
    exact (hraise.mbxAtReset (wdtRestart_framed.mbxAtReset (zolReset_mbx hmem s))).reads.1
  · rw [hraise.fld F.CLK_RST_CAUSE_WDT_COUNT, wdtRestart_framed.keepFld, zolReset_count]

/-! ### The obligation -/

/-- Settles O17: a PLL sets its bits of CLK_STATUS, PERST_N and an FLR are their resets one by one, and the watchdog resets Zolliwin and
counts again. -/
theorem pllsLinksAndTheWatchdog : Obligations.PllsLinksAndTheWatchdog := by
  unfold Obligations.PllsLinksAndTheWatchdog
  refine ⟨fun s h => completes_run rfl (timepllLoss_effect h), fun s h => completes_run rfl (timepllRelock_effect h),
    fun s => completes_run rfl ?_, fun s h => completes_run rfl ?_, fun s h => completes_run rfl (perstNAssert_effect h),
    fun s h hl => completes_run rfl (perstNRelease_effect h hl),
    fun s pf hcore hup hp hl => completes_run (a := coreDo (flr pf)) rfl ?_, fun s r v h => completes_run rfl (wdtKick_effect v h),
    fun s hen hrun => completes_run rfl ?_⟩
  · have hlock : (run pciePllLoss s).bit F.CLK_STATUS_PCIE_LOCK 0 = false := setB_bit _ _ _ _ (by decide) rfl
    exact ⟨hlock, fun r hr => arrives_linkDown hr (.inr hlock)⟩
  · rw [pciePllRelock, run_look, run_when_eq_true h]
    exact setB_bit _ _ _ _ (by decide) rfl
  · rw [run_coreDo _ _ hcore]
    obtain ⟨-, hring, hqueues, hsnap⟩ := flr_effect pf hup hp hl
    -- The statement compares `m` with `pf : Fin 4`, so its `m < 16` is taken modulo 4: `flr_effect` says it of every mailbox.
    have hnone (m : Fin 4) : ¬ m < 16 := Fin.not_lt_zero m
    exact ⟨fun m hm => absurd hm (hnone m), hring, hqueues, hsnap⟩
  · by_cases ha : s.aged s.clk.wdtAt (s.clk.wdtMs * 1000000) = true
    · rw [if_pos ha]
      exact wdtExpire_effect hen hrun ha
    · rw [if_neg ha, wdtExpire, run_look, run_when_eq_false (by simp [ha])]

end Sys2Proof.Machine
end

section
/-!
PROOF. Resets of reach 1 and 2 (R311 to R314, R319, R320): what they cover, what they keep, and how a page program holds them back.
-/
set_option Elab.async false
namespace Sys2Proof.Machine

/-! ### What a reset covers and what it keeps -/

/-- The clock state that a reset of reach 1 or 2 leaves: the sources and what is always on. -/
def ClkS.afterReset (c : ClkS) : ClkS :=
  { srcs := c.srcs, seen := c.seen, waitNvm := c.waitNvm, perst := c.perst, optCut := c.optCut, loads := c.loads, jtagEx := c.jtagEx,
    jtagIr := c.jtagIr, thermLow := c.thermLow, tripSens := c.tripSens, tripC := c.tripC }

/-- The registers that are always on. -/
def alwaysOn (r : Reg) : Bool := r == .CLK_RST_CAUSE || r == .NVM_BOOT

/-- The parts that a reset does not take back to their reset values at once: a burn is cut, and outputs are driven low. -/
theorem burnCut_outputsLow_framed : (acts [burnCut, outputsLow]).Framed [.fresh, .otp, .out] [] :=
  .acts ⟨burnCut_framed.widen, outputsLow_framed.widen, trivial⟩

/-- What a reset takes back to its reset value outright: every register that is not always on, every table, and the state of the units. -/
def resetParts : Act :=
  acts [.upd (.keep .regs fun k => alwaysOn (keyReg k)), each allTabs fun t => .upd (.keep t fun _ => false),
    .upd (.mode {}), .upd (.evt {}), .upd (.pkts []), .upd (.pe {}), .upd (.swc {}), .upd (.time {}), .upd (.dma {}), .upd (.nvm {}),
    .upd (.sec {}), modThm fun h => { vcore := h.vcore, vlane := h.vlane }]

theorem deviceReset_run (s : State) :
    run deviceReset s = run (modClk ClkS.afterReset) (run resetParts (run (acts [burnCut, outputsLow]) s)) := by
  simp only [deviceReset, resetParts, run_acts_cons, run_acts_nil]
  rfl

/-- The parts that are reset outright: neither the clock unit, OTP nor the NVM is among them. -/
def resetPartsOf : List Part :=
  [.regs, .live, .cnt, .stalls, .ports, .lanes, .aisles, .qtrs, .mbx, .perf, .bufs, .flat, .tiles, .copies, .rebuild, .occ, .msi, .bfd, .stm,
    .mode, .evt, .pkts, .pe, .swc, .time, .dma, .nvm, .sec, .thm]

theorem resetParts_only (s : State) : Only resetPartsOf s (run resetParts s) := by
  have htabs : ∀ t ∈ allTabs, resetPartsOf.contains t.part = true := by decide
  refine run_only resetPartsOf resetParts ?_ s
  simp only [resetParts, within_acts_cons, within_acts_nil, within_upd]
  exact ⟨rfl, within_each _ _ htabs, rfl, rfl, rfl, rfl, rfl, rfl, rfl, rfl, rfl, fun _ => rfl, trivial⟩

theorem deviceReset_clk (s : State) : (run deviceReset s).clk = s.clk.afterReset := by
  have hparts := resetParts_only (run (acts [burnCut, outputsLow]) s) .clk rfl
  rw [deviceReset_run, run_modClk, hparts, burnCut_outputsLow_framed.clk]

theorem deviceReset_nvmMem (s : State) : (run deviceReset s).nvmMem = s.nvmMem := by
  have hparts := resetParts_only (run (acts [burnCut, outputsLow]) s) .nvmMem rfl
  rw [deviceReset_run, (modClk_framed _).nvmMem, hparts, burnCut_outputsLow_framed.nvmMem]

/-- OTP keeps its contents where no burn is cut. -/
theorem deviceReset_otp {s : State} (h : s.sec.otpOp = none) : (run deviceReset s).otp = s.otp := by
  have hcut : run burnCut s = s := by rw [burnCut, run_look, h, run_skip]
  have hparts := resetParts_only (run (acts [burnCut, outputsLow]) s) .otp rfl
  rw [deviceReset_run, (modClk_framed _).otp, hparts, run_acts_cons, hcut, run_acts_cons, run_acts_nil, outputsLow_framed.otp]

theorem deviceReset_regs (s : State) : (run deviceReset s).regs = tabKeep s.regs fun k => alwaysOn (keyReg k) :=
  congrArg (tabKeep · fun k => alwaysOn (keyReg k)) (burnCut_outputsLow_framed.part .regs s)

theorem tabKeep_none {α : Type} (t : Tab α) : tabKeep t (fun _ => false) = [] := List.filter_false t

theorem deviceReset_live (s : State) : (run deviceReset s).live = [] := tabKeep_none _

/-- Nothing stays staged: what a register has in effect is what it reads. -/
theorem deviceReset_eff (s : State) (r : Reg) (n : Nat) : (run deviceReset s).eff r n = (run deviceReset s).raw r n := by
  rw [State.eff, deviceReset_live]
  rfl

theorem deviceReset_raw {r : Reg} (h : alwaysOn r = false) (n : Nat) (s : State) : (run deviceReset s).raw r n = regReset r n := by
  rw [State.raw, deviceReset_regs]
  exact tabGet_filter_out _ _ _ (fun k => alwaysOn (keyReg k)) (by rw [keyReg_regKey, h])

theorem deviceReset_raw_alwaysOn {r : Reg} (h : alwaysOn r = true) (n : Nat) (s : State) : (run deviceReset s).raw r n = s.raw r n := by
  rw [State.raw, deviceReset_regs]
  exact tabGet_filter _ _ _ (fun k => alwaysOn (keyReg k)) (by rw [keyReg_regKey, h])

/-- A reset takes everything that it covers to its reset value. -/
theorem deviceReset_wide (s : State) : resetWide (run deviceReset s) := by
  have hreg : ∀ r n, r ≠ .CLK_RST_CAUSE → r ≠ .NVM_BOOT → (run deviceReset s).raw r n = regReset r n ∧
      (run deviceReset s).eff r n = regReset r n := fun r n hc hb => by
    have hoff : alwaysOn r = false := by simp [alwaysOn, hc, hb]
    rw [deviceReset_eff, deviceReset_raw hoff]
    exact ⟨rfl, rfl⟩
  have hmode : (run deviceReset s).opMode = modeCold := by
    rw [State.opMode, State.fld, (hreg _ _ (by decide) (by decide)).2]
    decide
  exact ⟨rfl, hmode, rfl, tabKeep_none _, tabKeep_none _, tabKeep_none _, tabKeep_none _, rfl, rfl, rfl, rfl, hreg⟩

/-! ### Sources applied -/

theorem mem_addSet {l : List Nat} {n k : Nat} : k ∈ addSet l n ↔ k = n ∨ k ∈ l := by
  induction l with
  | nil => simp [addSet]
  | cons y r ih =>
    rw [addSet]
    split_ifs with hlt heq
    · exact List.mem_cons
    · rw [List.mem_cons, heq, ← or_assoc, or_self]
    · rw [List.mem_cons, ih, List.mem_cons, or_left_comm]

theorem mem_foldl_addSet {l : List Nat} {n : Nat} : ∀ {m : List Nat}, n ∈ l.foldl addSet m ↔ n ∈ l ∨ n ∈ m := by
  induction l with
  | nil => simp
  | cons x l ih =>
    intro m
    rw [List.foldl_cons, ih, mem_addSet, List.mem_cons, ← or_assoc, or_comm (a := n ∈ l)]

/-- Applied sources include a RESET_N, whose reset takes NVM_BOOT too. -/
def hasResetN (l : List Nat) : Bool := l.any fun n => n == srcResetN || n == srcReleased

/-- The clock state with sources applied. -/
def ClkS.withSrcs (c : ClkS) (l : List Nat) : ClkS :=
  { c with srcs := l.foldl addSet c.srcs, seen := l.foldl addSet c.seen, waitNvm := [], optCut := c.optCut || c.optPhase, optPhase := false,
           step := 0 }

theorem applySrcs_run (l : List Nat) (s : State) : run (applySrcs l) s =
    run deviceReset (run (when (hasResetN l) (setReg .NVM_BOOT 0 0)) (run (modClk (·.withSrcs l)) s)) := rfl

theorem bootReset_framed (b : Bool) : (when b (setReg .NVM_BOOT 0 0)).Framed [.regs, .live] [.NVM_BOOT] := .when (setReg_own _ _ _)

theorem applySrcs_wide (l : List Nat) (s : State) : resetWide (run (applySrcs l) s) := deviceReset_wide _

theorem applySrcs_srcs {l : List Nat} {n : Nat} (h : n ∈ l) (s : State) : (run (applySrcs l) s).clk.srcs.contains n = true := by
  rw [applySrcs_run, deviceReset_clk, (bootReset_framed _).clk, List.contains_iff_mem]
  exact mem_foldl_addSet.2 (.inl h)

theorem applySrcs_nvmMem (l : List Nat) (s : State) : (run (applySrcs l) s).nvmMem = s.nvmMem := by
  rw [applySrcs_run, deviceReset_nvmMem, (bootReset_framed _).nvmMem, (modClk_framed _).nvmMem]

/-- The cause of a reset is still shown once it is applied. -/
theorem applySrcs_cause (l : List Nat) (s : State) (n : Nat) : (run (applySrcs l) s).raw .CLK_RST_CAUSE n = s.raw .CLK_RST_CAUSE n := by
  rw [applySrcs_run, deviceReset_raw_alwaysOn rfl, ((bootReset_framed _).reg (by decide) _ _).1, ((modClk_framed _).reg rfl _ _).1]

/-- Only a RESET_N takes NVM_BOOT to its reset value. -/
theorem applySrcs_boot (l : List Nat) (s : State) :
    (run (applySrcs l) s).raw .NVM_BOOT 0 = if hasResetN l then 0 else s.raw .NVM_BOOT 0 := by
  rw [applySrcs_run, deviceReset_raw_alwaysOn rfl, run_when]
  split_ifs
  · rw [(setReg_eq _ _ _ _ _ _).1, if_pos ⟨rfl, rfl⟩]
    rfl
  · rw [((modClk_framed _).reg rfl _ _).1]

/-! ### A source that is asserted -/

/-- With no page program in progress a source is applied at once. -/
theorem assertSrc_applied {s : State} (h : s.nvm.prog = none) (n : Nat) : run (assertSrc n) s = run (applySrcs [n]) s := by
  rw [assertSrc, run_look, h, if_neg (by decide)]

theorem holdPending_delayed (s : State) : (run holdPending s).rawFld F.CLK_RST_CAUSE_NVM_DELAYED 0 = 1 := by
  rw [holdPending, run_look, run_acts_cons, run_acts_cons, run_acts_nil]
  exact setB_rawFld _ _ _ _ (by decide) rfl

/-- While a page program runs a source waits for it. -/
theorem assertSrc_waiting {s : State} (h : s.nvm.prog ≠ none) (n : Nat) :
    run (assertSrc n) s = run (acts [holdPending, modClk fun c => { c with waitNvm := addSet c.waitNvm n }]) s := by
  rw [assertSrc, run_look, if_pos (Option.isSome_iff_ne_none.2 h)]

theorem waiting_framed (n : Nat) : (acts [holdPending, modClk fun c => { c with waitNvm := addSet c.waitNvm n }]).Framed [.clk, .live, .regs]
    [.CLK_RST_CAUSE] := .acts ⟨holdPending_framed, (modClk_framed _).widen, trivial⟩

theorem assertSrc_waits {s : State} (h : s.nvm.prog ≠ none) (n : Nat) : resetWaits n s (run (assertSrc n) s) := by
  rw [assertSrc_waiting h]
  refine ⟨?_, ?_, (waiting_framed n).nvm s, (waiting_framed n).mode s, (waiting_framed n).ports s⟩
  · rw [run_acts_cons, run_acts_cons, run_acts_nil, run_modClk, List.contains_iff_mem]
    exact mem_addSet.2 (.inl rfl)
  · rw [run_acts_cons, run_acts_cons, run_acts_nil, (modClk_framed _).keepRawFld, holdPending_delayed]

/-- What has not touched the pulse, the modes and the ports before a source waits does not show. -/
theorem resetWaits_after {P : List Part} {R : List Reg} {a : Act} (h : a.Framed P R) {n : Nat} {s t : State}
    (ht : resetWaits n (run a s) t) (hn : P.contains .nvm = false := by decide) (hm : P.contains .mode = false := by decide)
    (hp : P.contains .ports = false := by decide) : resetWaits n s t := by
  obtain ⟨hwait, hshow, hnvm, hmode, hports⟩ := ht
  exact ⟨hwait, hshow, hnvm.trans (h.nvm s hn), hmode.trans (h.mode s hm), hports.trans (h.ports s hp)⟩

end Sys2Proof.Machine
end

section
/-!
PROOF. The wide reset sources: POR, RESET_N, SYS_SWRESET, a loss of ROOTPLL and a SETUP that failed (R309, R311 to R314, R320, R326, R360).
-/
set_option Elab.async false
namespace Sys2Proof.Machine

/-! ### POR (R311, R314) -/

/-- What POR does before the parts are reset: a page program is cut, NVM_BOOT is cleared, a latched trip is released, and the sources
that stay low are noted. -/
def porBegin (low : Bool) (s : State) : Act :=
  acts [programCut, setReg .NVM_BOOT 0 0, when s.clk.thermLow (emit (.pin pinThermtrip true)), modClk fun c => { c with
    srcs := s.heldLow low, seen := s.heldLow low, waitNvm := [], nvmSoft := false, tripC := 110
    optCut := !low && (c.optCut || c.optPhase), optPhase := false, step := 0, loads := 0
    jtagEx := c.jtagEx && !low, jtagIr := if low then 0 else c.jtagIr, thermLow := false, tripSens := false }]

theorem por_run (low : Bool) (s : State) : run (por low) s = run (.upd (.thm {})) (run deviceReset (run (porBegin low s) s)) := rfl

theorem porBegin_framed (low : Bool) (s : State) : (porBegin low s).Framed [.clk, .fresh, .live, .nvmMem, .out, .regs] [.NVM_BOOT] :=
  .acts ⟨programCut_framed.widen, (setReg_own _ _ _).widen, .when (emit_own _).widen, (modClk_framed _).widen, trivial⟩

theorem heldLow_resetN {s : State} (low : Bool) (h : s.clk.srcs.contains srcResetN = true ∨ s.clk.waitNvm.contains srcResetN = true) :
    (s.heldLow low).contains srcResetN = true := by
  have hlow : (s.clk.srcs ++ s.clk.waitNvm).contains srcResetN = true := by
    simpa only [List.contains_iff_mem, List.mem_append] using h
  rw [State.heldLow, hlow]
  rfl

theorem porBegin_boot (low : Bool) (s : State) : (run (porBegin low s) s).raw .NVM_BOOT 0 = 0 := by
  have hpin : (when s.clk.thermLow (emit (.pin pinThermtrip true))).Framed [.out] [] := .when (emit_own _)
  rw [porBegin, run_acts_cons, run_acts_cons, run_acts_cons, run_acts_cons, run_acts_nil, ((modClk_framed _).reg rfl _ _).1,
    (hpin.reg rfl _ _).1, (setReg_eq _ _ _ _ _ _).1, if_pos ⟨rfl, rfl⟩]
  rfl

theorem porBegin_nvmMem {s : State} (h : s.nvm.prog = none) (low : Bool) : (run (porBegin low s) s).nvmMem = s.nvmMem := by
  have hcut : run programCut s = s := by rw [programCut, run_look, h, run_skip]
  have hrest : (acts [setReg .NVM_BOOT 0 0, when s.clk.thermLow (emit (.pin pinThermtrip true))]).Framed [.live, .out, .regs] [.NVM_BOOT] :=
    .acts ⟨(setReg_own _ _ _).widen, .when (emit_own _).widen, trivial⟩
  have hmem := hrest.nvmMem (run programCut s)
  rw [hcut] at hmem
  rw [porBegin, run_acts_cons, hcut]
  exact hmem

theorem por_effect (low : Bool) (s : State) :
    let t := run (por low) s
    resetWide t ∧ t.clk.srcs.contains srcPor = true ∧ t.raw .NVM_BOOT 0 = 0 ∧
      (s.clk.srcs.contains srcResetN = true ∨ s.clk.waitNvm.contains srcResetN = true → t.clk.srcs.contains srcResetN = true) ∧
      (s.nvm.prog = none → t.nvmMem = s.nvmMem) ∧ (s.sec.otpOp = none → t.otp = s.otp) := by
  have hthm : (Act.upd (.thm {})).Framed [.thm] [] := .upd rfl
  have hsrcs : (run (por low) s).clk.srcs = s.heldLow low := by
    rw [por_run, hthm.clk, deviceReset_clk]
    rfl
  refine ⟨deviceReset_wide (run (porBegin low s) s), ?_, ?_, fun h => ?_, fun h => ?_, fun h => ?_⟩
  · rw [hsrcs]
    exact List.contains_iff_mem.2 List.mem_cons_self
  · rw [por_run, (hthm.reg rfl _ _).1, deviceReset_raw_alwaysOn rfl, porBegin_boot]
  · rw [hsrcs]
    exact heldLow_resetN low h
  · rw [por_run, hthm.nvmMem, deviceReset_nvmMem, porBegin_nvmMem h]
  · rw [por_run, hthm.otp, deviceReset_otp (by rw [(porBegin_framed low s).sec, h]), (porBegin_framed low s).otp]

/-! ### RESET_N (R311) -/

/-- RESET_N releases a latched trip where every sensor reads cool. -/
def tripCool (s : State) : Act := when (s.clk.thermLow && !s.clk.tripSens) tripRelease

theorem tripCool_framed (s : State) : (tripCool s).Framed [.clk, .out] [] := .when tripRelease_framed

theorem resetNAssert_run (s : State) : run resetNAssert s = run (assertSrc srcResetN) (run (tripCool s) s) := rfl

theorem resetNAssert_applied {s : State} (h : s.nvm.prog = none) :
    let t := run resetNAssert s
    resetWide t ∧ t.clk.srcs.contains srcResetN = true ∧ t.nvmMem = s.nvmMem ∧ t.raw .NVM_BOOT 0 = 0 := by
  dsimp only
  rw [resetNAssert_run, assertSrc_applied (by rw [(tripCool_framed s).nvm, h])]
  refine ⟨applySrcs_wide _ _, applySrcs_srcs List.mem_cons_self _, ?_, applySrcs_boot _ _⟩
  rw [applySrcs_nvmMem, (tripCool_framed s).nvmMem]

theorem resetNAssert_waits {s : State} (h : s.nvm.prog ≠ none) : resetWaits srcResetN s (run resetNAssert s) := by
  rw [resetNAssert_run]
  exact resetWaits_after (tripCool_framed s) (assertSrc_waits (by rw [(tripCool_framed s).nvm]; exact h) _)

/-! ### The SYS_SWRESET of each origin (R309, R326, R360) -/

/-- A SYS_SWRESET that is applied leaves NVM_BOOT as it is. -/
theorem swReset_applied {s : State} (h : s.nvm.prog = none) :
    let t := run (assertSrc srcSw) s
    resetWide t ∧ t.clk.srcs.contains srcSw = true ∧ t.raw .NVM_BOOT 0 = s.raw .NVM_BOOT 0 := by
  dsimp only
  rw [assertSrc_applied h]
  exact ⟨applySrcs_wide _ _, applySrcs_srcs List.mem_cons_self _, applySrcs_boot _ _⟩

theorem sysSwreset_run {s : State} {r : Req} {v : Word} (h : s.takes r .SYS_SWRESET 0 = true) : run (sysSwreset r v) s =
    run (if bits v 16 16 = 0xC1EA then assertSrc srcSw else reject .sys (s.asReq r) (regAddr .SYS_SWRESET 0) 4 0) s := by
  rw [sysSwreset, run_onWrite h]

/-- What a loss of ROOTPLL shows before its reset. -/
def rootpllLost : Act := acts [setB F.CLK_RST_CAUSE_CLK_FAIL 0 true, setB F.CLK_STATUS_ROOT_LOCK 0 false]

theorem rootpllLost_framed : rootpllLost.Framed [.live, .regs] [.CLK_RST_CAUSE, .CLK_STATUS] :=
  .acts ⟨(setB_own _ _ _).widen, (setB_own _ _ _).widen, trivial⟩

theorem rootpllLost_shown (s : State) : (run rootpllLost s).rawFld F.CLK_RST_CAUSE_CLK_FAIL 0 = 1 ∧
    (run rootpllLost s).bit F.CLK_STATUS_ROOT_LOCK 0 = false := by
  rw [rootpllLost, run_acts_cons, run_acts_cons, run_acts_nil, setB_rawFld_apart _ _ _ _ _ _ (by decide) (by decide)]
  exact ⟨setB_rawFld _ _ _ _ (by decide) rfl, setB_bit _ _ _ _ (by decide) rfl⟩

theorem rootpllLoss_run {s : State} (h : s.bit F.CLK_STATUS_ROOT_LOCK 0 = true) :
    run rootpllLoss s = run (assertSrc srcSw) (run rootpllLost s) := by
  rw [rootpllLoss, run_look, run_when_eq_true h]
  rfl

/-- A source that waits writes NVM_DELAYED and no other field. -/
theorem waiting_rawFld_apart {f : Fld} (hf : f.held = true) (ha : F.CLK_RST_CAUSE_NVM_DELAYED.apart f = true) (n : Nat) (s : State) :
    (run (acts [holdPending, modClk fun c => { c with waitNvm := addSet c.waitNvm n }]) s).rawFld f 0 = s.rawFld f 0 := by
  rw [run_acts_cons, run_acts_cons, run_acts_nil, (modClk_framed _).keepRawFld, holdPending, run_look, run_acts_cons, run_acts_cons,
    run_acts_nil, setB_rawFld_apart _ _ _ _ _ _ hf ha]
  exact (Act.Framed.when (modClk_framed _)).keepRawFld f 0 s

theorem rootpllLoss_waits {s : State} (h : s.bit F.CLK_STATUS_ROOT_LOCK 0 = true) (hprog : s.nvm.prog ≠ none) :
    let t := run rootpllLoss s
    resetWaits srcSw s t ∧ t.rawFld F.CLK_RST_CAUSE_CLK_FAIL 0 = 1 ∧ t.bit F.CLK_STATUS_ROOT_LOCK 0 = false := by
  obtain ⟨hfail, hlock⟩ := rootpllLost_shown s
  have hprog' : (run rootpllLost s).nvm.prog ≠ none := by rw [rootpllLost_framed.nvm]; exact hprog
  dsimp only
  rw [rootpllLoss_run h]
  refine ⟨resetWaits_after rootpllLost_framed (assertSrc_waits hprog' _), ?_, ?_⟩
  · rw [assertSrc_waiting hprog', waiting_rawFld_apart (by decide) (by decide), hfail]
  · rw [assertSrc_waiting hprog', (waiting_framed _).bit F.CLK_STATUS_ROOT_LOCK, hlock]

theorem rootpllLoss_applied {s : State} (h : s.bit F.CLK_STATUS_ROOT_LOCK 0 = true) (hprog : s.nvm.prog = none) :
    let t := run rootpllLoss s
    resetWide t ∧ t.clk.srcs.contains srcSw = true ∧ t.rawFld F.CLK_RST_CAUSE_CLK_FAIL 0 = 1 := by
  dsimp only
  rw [rootpllLoss_run h, assertSrc_applied (by rw [rootpllLost_framed.nvm, hprog])]
  refine ⟨applySrcs_wide _ _, applySrcs_srcs List.mem_cons_self _, ?_⟩
  have hcause := (rootpllLost_shown s).1
  rw [State.rawFld] at hcause ⊢
  rw [← hcause]
  exact congrArg (bits · _ _) (applySrcs_cause _ _ _)

/-- Zolliwin resets the device after a SETUP that failed. -/
theorem setupComplete_failed {s : State} (hz : s.zolOn = true) (hm : s.opMode = modeSetup) (h3 : s.mode.setup = 3) :
    run (coreDo setupComplete) s = run (assertSrc srcSw) s := by
  have hcore : s.halted = false := by simpa using (Bool.and_eq_true_iff.1 hz).2
  rw [run_coreDo _ _ hcore, setupComplete, run_look, run_when_eq_true (by rw [hm]; rfl), if_pos h3, run_when_eq_true hz]

/-! ### The obligation -/

/-- Settles O14: every wide source is applied at once, or waits for the page program; what it then covers is reset as a whole. -/
theorem resetsClearTheDevice : Obligations.ResetsClearTheDevice := by
  unfold Obligations.ResetsClearTheDevice
  refine ⟨fun s low => completes_run rfl (por_effect low s), fun s h => completes_run rfl (resetNAssert_applied h),
    fun s h => completes_run rfl (resetNAssert_waits h), fun s r v ht hkey h => completes_run (a := sysSwreset r v) rfl ?_,
    fun s r v ht hkey h => completes_run (a := sysSwreset r v) rfl ?_, fun s h hprog => completes_run rfl (rootpllLoss_waits h hprog),
    fun s r v ht hkey => completes_run (a := sysSwreset r v) rfl ?_, fun s h hprog => completes_run rfl (rootpllLoss_applied h hprog),
    fun s hz hm h3 => completes_run (a := coreDo setupComplete) rfl ?_⟩
  · rw [sysSwreset_run ht, if_pos hkey]
    exact swReset_applied h
  · rw [sysSwreset_run ht, if_pos hkey]
    exact assertSrc_waits h _
  · rw [sysSwreset_run ht, if_neg hkey]
    exact ⟨reject_code .sys _ _ _ _ _ (by decide), reject_turned _ _ _ _ _ _, (reject_own .sys _ _ _ _).clk s⟩
  · rw [setupComplete_failed hz hm h3]
    split_ifs with h
    · exact swReset_applied h
    · exact assertSrc_waits h _

end Sys2Proof.Machine
end

section
/-!
PROOF. The exit sequence, from the release of the last source to SHUTTERS (R307, R311, R314 to R318, R332, R397).
-/
set_option Elab.async false
namespace Sys2Proof.Machine

/-! ### The release of RESET_N (R311) -/

theorem releaseIn_src {src mark : Nat} (h : src ≠ mark) (l : List Nat) : (releaseIn src mark l).contains src = false := by
  rw [releaseIn]
  split_ifs with hl
  · rw [Bool.eq_false_iff, ne_eq, List.contains_iff_mem, mem_addSet]
    simp [h]
  · exact Bool.eq_false_iff.2 hl

theorem releaseIn_mark {src : Nat} {l : List Nat} (h : l.contains src = true) (mark : Nat) : (releaseIn src mark l).contains mark = true := by
  rw [releaseIn, if_pos h, List.contains_iff_mem]
  exact mem_addSet.2 (.inl rfl)

/-! ### The causes shown (R311, R314) -/

/-- A field of one bit reads 1 where the bit is set. -/
theorem rawFld_of_getLsbD {s : State} {f : Fld} {n : Nat} (hw : f.w = 1) {b : Bool} (h : (s.raw f.reg n).getLsbD f.lo = b) :
    s.rawFld f n = if b then 1 else 0 := by
  have h0 := testBit_bits (s.raw f.reg n) f.lo 1 0
  rw [Nat.add_zero, h, decide_eq_true (by decide), Bool.true_and, bits, Nat.pow_one, Nat.testBit_zero, Nat.mod_mod] at h0
  rw [State.rawFld, hw, bits, Nat.pow_one]
  cases b <;> simp_all

/-- The bits that an episode sets in CLK_RST_CAUSE, by its sources. -/
theorem causeBits_getLsbD (seen : List Nat) (cut : Bool) : (causeBits seen cut).getLsbD 31 = false ∧
    (causeBits seen cut).getLsbD 30 =
      (seen.contains srcResetN || seen.contains srcExtest || seen.contains srcExtestOff || seen.contains srcReleased) ∧
    (causeBits seen cut).getLsbD 29 = seen.contains srcSw ∧
    (causeBits seen cut).getLsbD 28 = (seen.contains srcTrip || seen.contains srcTripOff) := by
  rw [causeBits]
  generalize (seen.contains srcResetN || seen.contains srcExtest || seen.contains srcExtestOff || seen.contains srcReleased) = resetN
  generalize seen.contains srcSw = sw
  generalize (seen.contains srcTrip || seen.contains srcTripOff) = trip
  revert resetN sw trip cut
  decide

/-- CLK_RST_CAUSE as an episode leaves it: POR names itself alone, and every other source is added to what stood. -/
def State.causeWord (s : State) : Word :=
  if s.clk.seen.contains srcPor then 0x80000000#32 ||| causeBits [] s.clk.optCut
  else s.raw .CLK_RST_CAUSE 0 ||| causeBits s.clk.seen s.clk.optCut

/-- The clock state as the sequence starts. -/
def ClkS.exitStarted (c : ClkS) : ClkS :=
  { c with srcs := [], seen := [], step := 2, optPhase := true, optCut := false, loads := min 255 (c.loads + 1) }

theorem exitSequenceStart_run {s : State} (w : List (Nat × BitVec 8)) (hne : s.clk.srcs ≠ [])
    (h : ∀ n ∈ s.clk.srcs, n = srcPor ∨ n = srcSw ∨ n = srcReleased ∨ n = srcTripOff) :
    run (exitSequenceStart w) s = run (modClk (·.exitStarted)) (run (setReg .CLK_RST_CAUSE 0 s.causeWord) (run (nvmWritten w) s)) := by
  have hall : (s.clk.srcs.all fun n => [srcPor, srcSw, srcReleased, srcTripOff, srcExtestOff].contains n) = true := by
    rw [List.all_eq_true]
    intro n hn
    obtain rfl | rfl | rfl | rfl := h n hn <;> rfl
  have hgo : (!s.clk.srcs.isEmpty && s.clk.srcs.all fun n => [srcPor, srcSw, srcReleased, srcTripOff, srcExtestOff].contains n) = true := by
    rw [hall]
    simp [hne]
  rw [exitSequenceStart, run_look, run_when_eq_true hgo, run_acts_cons, run_acts_cons, run_acts_cons, run_acts_nil, State.causeWord]
  split_ifs <;> rfl

theorem exitSequenceStart_cause {s : State} (w : List (Nat × BitVec 8)) (hne : s.clk.srcs ≠ [])
    (h : ∀ n ∈ s.clk.srcs, n = srcPor ∨ n = srcSw ∨ n = srcReleased ∨ n = srcTripOff) {f : Fld} (hr : f.reg = .CLK_RST_CAUSE) (hw : f.w = 1)
    (hm : (regMask .CLK_RST_CAUSE).getLsbD f.lo = true) :
    (run (exitSequenceStart w) s).rawFld f 0 = if s.causeWord.getLsbD f.lo then 1 else 0 := by
  refine rawFld_of_getLsbD hw ?_
  rw [exitSequenceStart_run w hne h, ((modClk_framed _).reg rfl _ _).1, hr, (setReg_eq _ _ _ _ _ _).1, if_pos ⟨rfl, rfl⟩,
    BitVec.getLsbD_and, hm, Bool.and_true]

theorem exitSequenceStart_effect {s : State} (w : List (Nat × BitVec 8)) (hne : s.clk.srcs ≠ [])
    (h : ∀ n ∈ s.clk.srcs, n = srcPor ∨ n = srcSw ∨ n = srcReleased ∨ n = srcTripOff) :
    let t := run (exitSequenceStart w) s
    t.clk.srcs = [] ∧ t.clk.step = 2 ∧ t.clk.optPhase = true ∧
      (s.clk.seen.contains srcPor = true → t.rawFld F.CLK_RST_CAUSE_POR 0 = 1 ∧ t.rawFld F.CLK_RST_CAUSE_RESET_N 0 = 0 ∧
        t.rawFld F.CLK_RST_CAUSE_SWRESET 0 = 0 ∧ t.rawFld F.CLK_RST_CAUSE_THERMTRIP 0 = 0) ∧
      (s.clk.seen.contains srcPor = false →
        (s.clk.seen.contains srcReleased = true → t.rawFld F.CLK_RST_CAUSE_RESET_N 0 = 1) ∧
        (s.clk.seen.contains srcSw = true → t.rawFld F.CLK_RST_CAUSE_SWRESET 0 = 1) ∧
        (s.clk.seen.contains srcTripOff = true → t.rawFld F.CLK_RST_CAUSE_THERMTRIP 0 = 1)) := by
  have hcause := @exitSequenceStart_cause s w hne h
  have hpor := hcause (f := F.CLK_RST_CAUSE_POR) rfl rfl (by decide)
  have hresetN := hcause (f := F.CLK_RST_CAUSE_RESET_N) rfl rfl (by decide)
  have hsw := hcause (f := F.CLK_RST_CAUSE_SWRESET) rfl rfl (by decide)
  have htrip := hcause (f := F.CLK_RST_CAUSE_THERMTRIP) rfl rfl (by decide)
  refine ⟨?_, ?_, ?_, fun hp => ?_, fun hp => ?_⟩
  · rw [exitSequenceStart_run w hne h]; rfl
  · rw [exitSequenceStart_run w hne h]; rfl
  · rw [exitSequenceStart_run w hne h]; rfl
  · obtain ⟨-, h30, h29, h28⟩ := causeBits_getLsbD [] s.clk.optCut
    obtain ⟨h31, -, -, -⟩ := causeBits_getLsbD [] s.clk.optCut
    rw [hpor, hresetN, hsw, htrip, State.causeWord, if_pos hp]
    simp only [BitVec.getLsbD_or]
    rw [show F.CLK_RST_CAUSE_POR.lo = 31 from rfl, h31, show F.CLK_RST_CAUSE_RESET_N.lo = 30 from rfl, show F.CLK_RST_CAUSE_SWRESET.lo = 29 from rfl,
      show F.CLK_RST_CAUSE_THERMTRIP.lo = 28 from rfl, h30, h29, h28]
    decide
  · obtain ⟨-, h30, h29, h28⟩ := causeBits_getLsbD s.clk.seen s.clk.optCut
    have hword : s.causeWord = s.raw .CLK_RST_CAUSE 0 ||| causeBits s.clk.seen s.clk.optCut := by
      rw [State.causeWord, hp, if_neg Bool.false_ne_true]
    rw [hword, BitVec.getLsbD_or] at hresetN hsw htrip
    refine ⟨fun hx => ?_, fun hx => ?_, fun hx => ?_⟩
    · rw [hresetN, show F.CLK_RST_CAUSE_RESET_N.lo = 30 from rfl, h30, hx, Bool.or_true, Bool.or_true, if_pos rfl]
    · rw [hsw, show F.CLK_RST_CAUSE_SWRESET.lo = 29 from rfl, h29, hx, Bool.or_true, if_pos rfl]
    · rw [htrip, show F.CLK_RST_CAUSE_THERMTRIP.lo = 28 from rfl, h28, hx, Bool.or_true, Bool.or_true, if_pos rfl]

/-! ### The option loader (R316 to R318) -/

/-- The option copy in use, or the defaults where the NVM does not respond. -/
def State.optChoice (s : State) (nvm : Bool) (meas : Nat) : Nat × List Byte := if nvm then s.optCopy meas else (2, optDefaults meas)

theorem optChoice_lt (s : State) (nvm : Bool) (meas : Nat) : (s.optChoice nvm meas).1 < 4 := by
  rw [State.optChoice, State.optCopy]
  split_ifs <;> simp

theorem optChoice_of_nvmMem {s t : State} (h : t.nvmMem = s.nvmMem) (nvm : Bool) (meas : Nat) : t.optChoice nvm meas = s.optChoice nvm meas := by
  have hbytes (a n : Nat) : t.nvmBytes a n = s.nvmBytes a n := by simp only [State.nvmBytes, State.nvmByte, h]
  rw [State.optChoice, State.optCopy, hbytes, hbytes, State.optChoice, State.optCopy]

/-- What the loader shows beside COPY: the other fields of CLK_OPT_STATUS, and the values that act in other registers. -/
def optShow (m : Nat) (c : Nat × List Byte) (o : Opts) (loads : Nat) : Act :=
  acts [setB F.CLK_OPT_STATUS_FIELD_DEFAULT 0 ((optFields m).any fun f => !optInRange c.2 f), setF F.CLK_OPT_STATUS_LOADS 0 loads,
    setF F.CLK_OPT_STATUS_SMB_ADDR 0 o.smbAddr, setF F.THM_CFG_TRIP_C 0 o.tripC, setF F.THM_CFG_LIMIT_C 0 o.limitC,
    setF F.PERF_PERMIT_USER_PERMIT 0 o.perfPermit, when (decide (0 < c.1)) (raise F.CLK_EVT_CAUSE_OPT_FALLBACK 0),
    when (leAt (optUsed m c.2) 0x09 1 != m) (acts [setB F.CLK_OPT_STATUS_REFCLK_MISMATCH 0 true, raise F.CLK_EVT_CAUSE_REFCLK_MISMATCH 0])]

theorem optShow_framed (m : Nat) (c : Nat × List Byte) (o : Opts) (loads : Nat) : (optShow m c o loads).Framed occurParts
    (.CLK_EVT_CAUSE :: .CLK_OPT_STATUS :: .PERF_PERMIT :: .THM_CFG :: occurRegs) :=
  .acts ⟨(setB_own _ _ _).widen, (setF_own _ _ _).widen, (setF_own _ _ _).widen, (setF_own _ _ _).widen, (setF_own _ _ _).widen,
    (setF_own _ _ _).widen, .when (raise_own _ _).widen, .when (.acts ⟨(setB_own _ _ _).widen, (raise_own _ _).widen, trivial⟩), trivial⟩

theorem optShow_copy (m : Nat) (c : Nat × List Byte) (o : Opts) (loads : Nat) (s : State) :
    (run (optShow m c o loads) s).fld F.CLK_OPT_STATUS_COPY 0 = s.fld F.CLK_OPT_STATUS_COPY 0 := by
  have hset (f : Fld) (v : Nat) (h : f.apart F.CLK_OPT_STATUS_COPY = true) : (setF f 0 v).keeps fun s => s.fld F.CLK_OPT_STATUS_COPY 0 :=
    fun s => setF_fld_apart f _ _ _ _ s (by decide) h
  have hraise (f : Fld) (h : f.apart F.CLK_OPT_STATUS_COPY = true) : (raise f 0).keeps fun s => s.fld F.CLK_OPT_STATUS_COPY 0 :=
    fun s => raise_fld_apart f _ _ _ s (by decide) h (by decide)
  have hkeep : (optShow m c o loads).keeps fun s => s.fld F.CLK_OPT_STATUS_COPY 0 := by
    refine Act.keeps.acts ⟨hset _ _ (by decide), hset _ _ (by decide), hset _ _ (by decide), hset _ _ (by decide), hset _ _ (by decide),
      hset _ _ (by decide), keeps_when (hraise _ (by decide)), keeps_when (Act.keeps.acts ⟨hset _ _ (by decide), hraise _ (by decide), trivial⟩),
      trivial⟩
  exact hkeep s

theorem loadOptions_run (nvm : Bool) {s : State} {m : Nat} {c : Nat × List Byte} {o : Opts} (hm : s.fld F.CLK_STATUS_REFCLK_MEAS 0 = m)
    (hc : s.optChoice nvm m = c) (ho : optsOf (optUsed m c.2) s.otp.policy = o) : run (loadOptions nvm) s =
      run (optShow m c o s.clk.loads) (run (setF F.CLK_OPT_STATUS_COPY 0 c.1) (run (modClk fun k => { k with opts := o, tripC := o.tripC }) s)) := by
  rw [State.optChoice] at hc
  rw [loadOptions, run_look]
  simp only [hm, hc, ho, optShow, run_acts_cons, run_acts_nil]

/-- The options take effect, and CLK_OPT_STATUS names the copy they came from. -/
theorem loadOptions_effect (nvm : Bool) {s : State} {m : Nat} {c : Nat × List Byte} {o : Opts} (hm : s.fld F.CLK_STATUS_REFCLK_MEAS 0 = m)
    (hc : s.optChoice nvm m = c) (ho : optsOf (optUsed m c.2) s.otp.policy = o) :
    (run (loadOptions nvm) s).fld F.CLK_OPT_STATUS_COPY 0 = c.1 ∧ (run (loadOptions nvm) s).clk.opts = o := by
  rw [loadOptions_run nvm hm hc ho, optShow_copy, setF_fld _ _ _ _ (by decide), (optShow_framed _ _ _ _).clk, (setF_own _ _ _).clk]
  exact ⟨Nat.mod_eq_of_lt (hc ▸ optChoice_lt s nvm m), rfl⟩

/-! ### The measurement of REFCLK (R307, R315) -/

/-- REFCLK is as measured, and ROOTPLL locks. -/
def rootpllLocks (m : Nat) : Act :=
  acts [setF F.CLK_STATUS_REFCLK_MEAS 0 m, setB F.CLK_STATUS_ROOT_LOCK 0 true, emit .nvmReset,
    each [(true, 0x66), (true, 0x99), (false, 0x66), (false, 0x99)] fun x => emit (.xspi x.1 x.2)]

theorem rootpllLocks_framed (m : Nat) : (rootpllLocks m).Framed [.live, .out, .regs] [.CLK_STATUS] :=
  .acts ⟨(setF_own _ _ _).widen, (setB_own _ _ _).widen, (emit_own _).widen, .each (fun _ _ => (emit_own _).widen), trivial⟩

theorem rootpllLocks_status {m : Nat} (h : m < 4) (s : State) : (run (rootpllLocks m) s).fld F.CLK_STATUS_REFCLK_MEAS 0 = m ∧
    (run (rootpllLocks m) s).bit F.CLK_STATUS_ROOT_LOCK 0 = true := by
  have hsent : (acts [emit .nvmReset, each [(true, 0x66), (true, 0x99), (false, 0x66), (false, 0x99)] fun x => emit (.xspi x.1 x.2)]).Framed
      [.out] [] := .acts ⟨emit_own _, .each (fun _ _ => emit_own _), trivial⟩
  have hrun : run (rootpllLocks m) s = run (acts [emit .nvmReset, each [(true, 0x66), (true, 0x99), (false, 0x66), (false, 0x99)] fun x =>
      emit (.xspi x.1 x.2)]) (run (setB F.CLK_STATUS_ROOT_LOCK 0 true) (run (setF F.CLK_STATUS_REFCLK_MEAS 0 m) s)) := rfl
  rw [hrun, hsent.keepFld, hsent.bit F.CLK_STATUS_ROOT_LOCK, setB_fld_apart _ _ _ _ _ _ (by decide) (by decide), setF_fld _ _ _ _ (by decide)]
  exact ⟨Nat.mod_eq_of_lt h, setB_bit _ _ _ _ (by decide) rfl⟩

theorem refclkClass_lt (n : Nat) : refclkClass n < 3 := by
  rw [refclkClass]
  split_ifs <;> decide

theorem refclkMeasure_run {s : State} (n : Nat) (nvm : Bool) (hsrcs : s.clk.srcs = []) (hstep : s.clk.step = 2 ∨ s.clk.step = 3) :
    run (refclkMeasure n nvm) s =
      if refclkClass n < 2 then
        run (modClk fun c => { c with step := 7, optPhase := false }) (run (loadOptions nvm) (run (rootpllLocks (refclkClass n)) s))
      else run (modClk fun c => { c with step := 3 }) (run (setF F.CLK_STATUS_REFCLK_MEAS 0 (refclkClass n)) s) := by
  have hgo : (s.clk.srcs.isEmpty && (s.clk.step == 2 || s.clk.step == 3)) = true := by simpa [hsrcs] using hstep
  rw [refclkMeasure, run_look, run_when_eq_true hgo, run_acts_cons, run_acts_cons, run_acts_nil]
  by_cases hm : refclkClass n < 2
  · rw [if_pos hm, if_neg (by omega)]
    simp only [rootpllLocks, run_acts_cons, run_acts_nil]
  · rw [if_neg hm, if_pos (by omega)]

theorem refclkMeasure_effect {s : State} (n : Nat) (nvm : Bool) (hsrcs : s.clk.srcs = []) (hstep : s.clk.step = 2 ∨ s.clk.step = 3) :
    let t := run (refclkMeasure n nvm) s
    let m := refclkClass n
    let c := s.optChoice nvm m
    t.fld F.CLK_STATUS_REFCLK_MEAS 0 = m ∧
      if m < 2 then t.clk.step = 7 ∧ t.bit F.CLK_STATUS_ROOT_LOCK 0 = true ∧ t.fld F.CLK_OPT_STATUS_COPY 0 = c.1 ∧
        t.clk.opts = optsOf (optUsed m c.2) s.otp.policy
      else t.clk.step = 3 := by
  have hclass := refclkClass_lt n
  dsimp only
  rw [refclkMeasure_run n nvm hsrcs hstep]
  split_ifs with hm
  · have hlock := rootpllLocks_framed (refclkClass n)
    obtain ⟨hmeas, hroot⟩ := rootpllLocks_status (m := refclkClass n) (by omega) s
    obtain ⟨hcopy, hopts⟩ := loadOptions_effect nvm hmeas (optChoice_of_nvmMem (hlock.nvmMem s) nvm _) rfl
    rw [hlock.otp] at hopts
    rw [(modClk_framed _).keepFld, (loadOptions_framed _).fld F.CLK_STATUS_REFCLK_MEAS, hmeas, run_modClk,
      (modClk_framed _).bit F.CLK_STATUS_ROOT_LOCK, (loadOptions_framed _).bit F.CLK_STATUS_ROOT_LOCK, hroot, (modClk_framed _).keepFld, hcopy]
    dsimp only
    exact ⟨rfl, rfl, rfl, rfl, hopts⟩
  · rw [(modClk_framed _).keepFld, setF_fld _ _ _ _ (by decide)]
    exact ⟨Nat.mod_eq_of_lt (by rw [show F.CLK_STATUS_REFCLK_MEAS.w = 2 from rfl]; omega), rfl⟩

/-! ### The end of the sequence (R315, R316, R332, R397) -/

/-- The clocks and device time run, the PCIe complex leaves reset, and Zolliwin enters its boot ROM. -/
def clocksRun : Act :=
  acts [modClk fun c => { c with step := 11, zolRun := 1 }, setB F.CLK_STATUS_TIME_LOCK 0 true, modTime fun t => { t with running := true },
    pcieStart, wdtRestart]

/-- The device is in SHUTTERS. -/
def shuttersBegin : Act :=
  acts [setF F.SYS_MODE_MODE 0 modeShutters, setF F.SYS_MODE_TARGET 0 modeShutters, modMode fun m => { m with shut := true }]

/-- The security block comes into service. -/
def securityReady : Act :=
  acts [setB F.SEC_STATUS_READY 0 true, entropyShow, withRnd fun x => modSec fun c => { c with certRnd := (x, c.certRnd.2) }]

/-- Debug access opens where the options leave it open. -/
def debugOpens : Act :=
  .look fun s => when (!s.clk.opts.sbPolicy.testBit 0) (acts [setB F.SEC_STATUS_DEBUG_OPEN 0 true, raise F.SEC_EVT_CAUSE_DEBUG_OPEN 0])

/-- The boot ROM and the options are measured, and the event of the sequence's end is raised. -/
def measurementsBegin : Act :=
  acts [.look fun s => acts [extendM 0 (Config.sha3 s.m0Bytes), extendM 6 (Config.sha3 s.clk.opts.bytes)], raise F.CLK_EVT_CAUSE_RESET_DONE 0]

theorem resetDone_run {s : State} (hsrcs : s.clk.srcs = []) (hstep : s.clk.step = 7) : run resetDone s =
    run measurementsBegin (run debugOpens (run securityReady (run shuttersBegin (run clocksRun s)))) := by
  rw [resetDone, run_look, run_when_eq_true (by rw [hsrcs, hstep]; rfl)]
  simp only [clocksRun, shuttersBegin, securityReady, debugOpens, measurementsBegin, run_acts_cons, run_acts_nil]

theorem shuttersBegin_framed : shuttersBegin.Framed [.live, .mode, .regs] [.SYS_MODE] :=
  .acts ⟨(setF_own _ _ _).widen, (setF_own _ _ _).widen, (modMode_framed _).widen, trivial⟩

theorem securityReady_framed : securityReady.Framed (.fresh :: .sec :: occurParts) (.SEC_EVT_CAUSE :: .SEC_STATUS :: occurRegs) :=
  .acts ⟨(setB_own _ _ _).widen, entropyShow_framed.widen, withRnd_framed _ (by decide) fun _ => (modSec_framed _).widen, trivial⟩

theorem debugOpens_framed : debugOpens.Framed occurParts (.SEC_EVT_CAUSE :: .SEC_STATUS :: occurRegs) :=
  .look fun _ => .when (.acts ⟨(setB_own _ _ _).widen, (raise_own _ _).widen, trivial⟩)

theorem measurementsBegin_framed : measurementsBegin.Framed (.sec :: occurParts) (.CLK_EVT_CAUSE :: occurRegs) :=
  .acts ⟨.look fun _ => .acts ⟨(extendM_framed _ _).widen, (extendM_framed _ _).widen, trivial⟩, (raise_own _ _).widen, trivial⟩

/-- How far the sequence is: its step, what Zolliwin runs and the options. -/
def ClkS.stage (c : ClkS) : Nat × Nat × Opts := (c.step, c.zolRun, c.opts)

theorem pcieStart_stage (s : State) : (run pcieStart s).clk.stage = s.clk.stage := by
  rw [pcieStart, run_look, run_when]
  split_ifs
  · rw [run_acts_cons, run_acts_cons, run_acts_nil, (setB_own _ _ _).clk]
    rfl
  · rfl

/-- Of CLK_STATUS the PCIe complex sets its own lock alone. -/
theorem pcieStart_timeLock (s : State) : (run pcieStart s).bit F.CLK_STATUS_TIME_LOCK 0 = s.bit F.CLK_STATUS_TIME_LOCK 0 := by
  rw [pcieStart, run_look, run_when]
  split_ifs
  · rw [run_acts_cons, run_acts_cons, run_acts_nil, setB_bit_apart _ _ _ _ _ _ (by decide) (by decide), (modClk_framed _).bit F.CLK_STATUS_TIME_LOCK]
  · rfl

theorem clocksRun_run (s : State) : run clocksRun s = run wdtRestart (run pcieStart (run (modTime fun t => { t with running := true })
    (run (setB F.CLK_STATUS_TIME_LOCK 0 true) (run (modClk fun c => { c with step := 11, zolRun := 1 }) s)))) := by
  simp only [clocksRun, run_acts_cons, run_acts_nil]

theorem wdtRestart_stage (s : State) : (run wdtRestart s).clk.stage = s.clk.stage := rfl

theorem clocksRun_stage (s : State) : (run clocksRun s).clk.stage = (11, 1, s.clk.opts) := by
  rw [clocksRun_run, wdtRestart_stage, pcieStart_stage, (modTime_framed _).clk, (setB_own _ _ _).clk]
  rfl

theorem clocksRun_effect (s : State) : (run clocksRun s).time.running = true ∧ (run clocksRun s).bit F.CLK_STATUS_TIME_LOCK 0 = true := by
  rw [clocksRun_run, wdtRestart_framed.time, wdtRestart_framed.bit F.CLK_STATUS_TIME_LOCK, pcieStart_framed.time, pcieStart_timeLock,
    (modTime_framed _).bit F.CLK_STATUS_TIME_LOCK]
  exact ⟨rfl, setB_bit _ _ _ _ (by decide) rfl⟩

theorem shuttersBegin_effect (s : State) : (run shuttersBegin s).opMode = modeShutters ∧ (run shuttersBegin s).mode.shut = true := by
  rw [shuttersBegin, run_acts_cons, run_acts_cons, run_acts_cons, run_acts_nil, State.opMode, (modMode_framed _).keepFld,
    setF_fld_apart _ _ _ _ _ _ (by decide) (by decide), setF_fld _ _ _ _ (by decide)]
  exact ⟨rfl, rfl⟩

theorem debugOpens_open {s : State} (h : s.clk.opts.sbPolicy.testBit 0 = false) : (run debugOpens s).bit F.SEC_STATUS_DEBUG_OPEN 0 = true := by
  rw [debugOpens, run_look, run_when_eq_true (by rw [h]; rfl), run_acts_cons, run_acts_cons, run_acts_nil,
    (raise_own _ _).bit F.SEC_STATUS_DEBUG_OPEN]
  exact setB_bit _ _ _ _ (by decide) rfl

theorem resetDone_effect {s : State} (hsrcs : s.clk.srcs = []) (hstep : s.clk.step = 7) :
    let t := run resetDone s
    t.clk.step = 11 ∧ t.opMode = modeShutters ∧ t.clk.zolRun = 1 ∧ t.time.running = true ∧ t.bit F.CLK_STATUS_TIME_LOCK 0 = true ∧
      t.mode.shut = true ∧ (s.clk.opts.sbPolicy.testBit 0 = false → t.bit F.SEC_STATUS_DEBUG_OPEN 0 = true) := by
  have hstage := clocksRun_stage s
  simp only [ClkS.stage, Prod.mk.injEq] at hstage
  obtain ⟨hs, hz, ho⟩ := hstage
  obtain ⟨ht, hl⟩ := clocksRun_effect s
  obtain ⟨hm, hshut⟩ := shuttersBegin_effect (run clocksRun s)
  have hclk : (run securityReady (run shuttersBegin (run clocksRun s))).clk = (run clocksRun s).clk := by
    rw [securityReady_framed.clk, shuttersBegin_framed.clk]
  dsimp only
  rw [resetDone_run hsrcs hstep, measurementsBegin_framed.clk, debugOpens_framed.clk, hclk]
  refine ⟨hs, ?_, hz, ?_, ?_, ?_, fun hopen => ?_⟩
  · rw [State.opMode, measurementsBegin_framed.fld F.SYS_MODE_MODE, debugOpens_framed.fld F.SYS_MODE_MODE,
      securityReady_framed.fld F.SYS_MODE_MODE]
    exact hm
  · rw [measurementsBegin_framed.time, debugOpens_framed.time, securityReady_framed.time, shuttersBegin_framed.time, ht]
  · rw [measurementsBegin_framed.bit F.CLK_STATUS_TIME_LOCK, debugOpens_framed.bit F.CLK_STATUS_TIME_LOCK,
      securityReady_framed.bit F.CLK_STATUS_TIME_LOCK, shuttersBegin_framed.bit F.CLK_STATUS_TIME_LOCK, hl]
  · rw [measurementsBegin_framed.mode, debugOpens_framed.mode, securityReady_framed.mode, hshut]
  · rw [measurementsBegin_framed.bit F.SEC_STATUS_DEBUG_OPEN]
    exact debugOpens_open (by rw [hclk, ho, hopen])

/-! ### The obligation -/

/-- Settles O15: each step of the exit sequence by its effect, from the release of RESET_N to SHUTTERS. -/
theorem theDeviceLeavesReset : Obligations.TheDeviceLeavesReset := by
  unfold Obligations.TheDeviceLeavesReset
  refine ⟨fun s h => completes_run rfl ?_, fun s w hne h => completes_run rfl (exitSequenceStart_effect w hne h),
    fun s n nvm hsrcs hstep => completes_run (a := refclkMeasure n nvm) rfl (refclkMeasure_effect n nvm hsrcs hstep),
    fun s hsrcs hstep => completes_run rfl (resetDone_effect hsrcs hstep)⟩
  exact ⟨releaseIn_src (by decide) _, releaseIn_mark h _, rfl⟩

end Sys2Proof.Machine
end

section
/-!
PROOF. The end of HOLD while a reset waits for a page program (R320, R361).
-/
set_option Elab.async false
namespace Sys2Proof.Machine

/-- A running device whose HOLD is set while a page program still runs, so that the bus has not been released, and for whose end a
RESET_N waits. A_VALID shows slot A as it was when it was last read; the NVM holds no manifest there now. -/
def resetWaitsUnderHold : State :=
  Tests.tune [modNvm fun N => { N with prog := some (4096, [0#8]) }, modClk fun c => { c with waitNvm := [srcResetN] },
    setB F.NVM_STATUS_A_VALID 0 true, setB F.NVM_CTL_HOLD 0 true]

theorem resetWaitsUnderHold_takes : resetWaitsUnderHold.takes .z .NVM_CTL 0 = true := by decide +kernel

/-- The reset that waits lets no NVM command start, so neither manifest is read: A_VALID stays as it was. -/
theorem resetWaitsUnderHold_shown : (run (nvmHoldClear .z 0 []) resetWaitsUnderHold).bit F.NVM_STATUS_A_VALID 0 = true := by decide +kernel

theorem resetWaitsUnderHold_manifest : (run (nvmHoldClear .z 0 []) resetWaitsUnderHold).manifestOk 0 = false := by decide +kernel

/-- Refutes O16: the clause on the end of HOLD asks that both manifests are verified again whatever goes on, but while a reset waits for a
page program no NVM command starts (R320). In `resetWaitsUnderHold` A_VALID goes on showing slot A as good, where no manifest is. -/
theorem not_pageProgramsAndTheNvmBus : ¬ Obligations.PageProgramsAndTheNvmBus := by
  unfold Obligations.PageProgramsAndTheNvmBus
  rintro ⟨-, -, -, -, -, -, hclear⟩
  obtain ⟨-, -, hvalid, -⟩ := completes_next (a := nvmHoldClear .z 0 []) rfl
    (hclear resetWaitsUnderHold .z 0 [] resetWaitsUnderHold_takes rfl (fun h => absurd h (by decide)))
  rw [resetWaitsUnderHold_shown, resetWaitsUnderHold_manifest] at hvalid
  exact absurd hvalid (by decide)

end Sys2Proof.Machine
end

section
/-!
PROOF. The boot ROM: the choice of a slot, and Zolliwin's return after its watchdog (R324, R332, R333, R360, R395, R396).
-/
set_option Elab.async false
namespace Sys2Proof.Machine

/-! ### What verification depends on -/

section
variable {s t : State} (hmem : t.nvmMem = s.nvmMem) (hotp : t.otp = s.otp)
include hmem

theorem nvmBytes_of_nvmMem (a n : Nat) : t.nvmBytes a n = s.nvmBytes a n := by
  simp only [State.nvmBytes, State.nvmByte, hmem]

theorem slotBytes_of_nvmMem (slot : Nat) (sec : Nat × Nat × BitVec 512) : t.slotBytes slot sec = s.slotBytes slot sec :=
  nvmBytes_of_nvmMem hmem _ _

include hotp

theorem manifestOk_of_nvmMem (slot : Nat) : t.manifestOk slot = s.manifestOk slot := by
  simp only [State.manifestOk, nvmBytes_of_nvmMem hmem, hotp]

omit hmem in
theorem fwOk_of_otp (c : List Byte) (d : BitVec 512) : t.fwOk c d = s.fwOk c d := by simp only [State.fwOk, hotp]

end

/-! ### One slot at the boot ROM -/

/-- The section of the firmware, as the manifest of a slot names it. -/
def State.fwSection (s : State) (slot : Nat) : Nat × Nat × BitVec 512 := manifestSection (s.nvmBytes (slotBase slot) 7571) 0

/-- A slot is passed over where it is skipped; where its manifest does not verify it is skipped from now on. -/
def slotFails (slot : Nat) : Act := .look fun s => when (!s.bit (skipFld slot) 0) (acts [noteValid slot, bootFail slot])

theorem skipFld_held (slot : Nat) : (skipFld slot).held = true ∧ (skipFld slot).w = 1 ∧ (skipFld slot).reg = .NVM_BOOT := by
  rw [skipFld]
  split_ifs <;> decide

theorem slotFails_framed (slot : Nat) : (slotFails slot).Framed occurParts (.NVM_BOOT :: .NVM_STATUS :: .SEC_EVT_CAUSE :: occurRegs) :=
  .look fun _ => .when (.acts ⟨(noteValid_framed slot).widen, (bootFail_framed slot).widen, trivial⟩)

theorem slotFails_keepsManifests (slot k : Nat) (s : State) : (run (slotFails slot) s).manifestOk k = s.manifestOk k :=
  manifestOk_of_nvmMem ((slotFails_framed slot).nvmMem s) ((slotFails_framed slot).otp s) k

theorem bootFail_skips (slot : Nat) (s : State) : (run (bootFail slot) s).bit (skipFld slot) 0 = true := by
  obtain ⟨hheld, hw, hreg⟩ := skipFld_held slot
  rw [bootFail, run_acts_cons, run_acts_cons, run_acts_nil, (raise_own F.SEC_EVT_CAUSE_VERIFY_FAIL 0).bit (skipFld slot) 0 _ (by rw [hreg]; decide),
    setB_bit _ _ _ _ hheld hw]

theorem slotFails_skips (slot : Nat) (s : State) : (run (slotFails slot) s).bit (skipFld slot) 0 = true := by
  rw [slotFails, run_look, run_when]
  split_ifs with h
  · exact bootFail_skips _ _
  · simpa using h

/-- A slot that is skipped stays skipped. -/
theorem bootFail_keeps_skip (slot k : Nat) (s : State) (h : s.bit (skipFld k) 0 = true) : (run (bootFail slot) s).bit (skipFld k) 0 = true := by
  obtain ⟨hheld, hw, hreg⟩ := skipFld_held k
  by_cases hk : skipFld slot = skipFld k
  · rw [← hk]
    exact bootFail_skips _ _
  · have hap : (skipFld slot).apart (skipFld k) = true := by
      revert hk
      rw [skipFld, skipFld]
      split_ifs <;> decide
    rw [bootFail, run_acts_cons, run_acts_cons, run_acts_nil, (raise_own F.SEC_EVT_CAUSE_VERIFY_FAIL 0).bit (skipFld k) 0 _ (by rw [hreg]; decide),
      setB_bit_apart _ _ _ _ _ _ hheld hap, h]

theorem slotFails_keeps_skip (slot k : Nat) (s : State) (h : s.bit (skipFld k) 0 = true) : (run (slotFails slot) s).bit (skipFld k) 0 = true := by
  rw [slotFails, run_look, run_when]
  split_ifs
  · refine bootFail_keeps_skip _ _ _ ?_
    rw [(noteValid_framed slot).bit (skipFld k) 0 _ (by rw [(skipFld_held k).2.2]; decide), h]
  · exact h

theorem bootTry_fails {s : State} {slot : Nat} (h : s.bit (skipFld slot) 0 = true ∨ s.manifestOk slot = false) (r : List Nat) :
    run (bootTry (slot :: r)) s = run (bootTry r) (run (slotFails slot) s) := by
  rw [bootTry, run_look, slotFails, run_look]
  cases hskip : s.bit (skipFld slot) 0
  · have hbad : s.manifestOk slot = false := h.resolve_left (by rw [hskip]; decide)
    rw [if_neg (by decide), hbad, if_neg (by decide)]
    rfl
  · rw [if_pos rfl]
    rfl

theorem bootTry_boots {s : State} {slot : Nat} (hskip : s.bit (skipFld slot) 0 = false) (hman : s.manifestOk slot = true)
    (hfw : s.fwOk (s.slotBytes slot (s.fwSection slot)) (s.fwSection slot).2.2 = true) (r : List Nat) : run (bootTry (slot :: r)) s =
      run (bootFrom slot) (run (extendM 3 (Config.sha3 (s.nvmBytes (slotBase slot) 0xB80))) (run (noteValid slot) s)) := by
  rw [State.fwSection] at hfw
  rw [bootTry, run_look, hskip, if_neg (by decide), hman, if_pos rfl]
  simp only [hfw, if_true, run_acts_cons, run_acts_nil]

/-! ### The firmware is entered (R332, R395) -/

/-- What a start writes before SETUP begins: the slot in use, the keys and Zolliwin's core. -/
def bootEnter (slot : Nat) (s : State) : Act :=
  let m := s.nvmBytes (slotBase slot) 7571
  let secs := (List.range 4).map (manifestSection m)
  let c := s.slotBytes slot (secs.getD 0 (0, 0, 0))
  acts [extendM 1 (Config.sha3 (c.take 0x80)),
    modNvm fun N => { N with slot := slot }, setF F.NVM_STATUS_SLOT 0 slot, setF F.SEC_STATUS_KEY_ID 0 (fwKeyOf c),
    modNvm fun N => { N with sections := secs },
    modSec fun x => { x with
      fwDigest := fwDigestOf c, fwSvn := fwSvnOf c, imageSvn := leAt m 8 4, ownerHash := Config.sha3 (sliceB m 0x160 2592)
      cdi := s.cdiOf (fwDigestOf c) (fwSvnOf c), akOk := true },
    withRnd fun r => modSec fun x => { x with certRnd := (x.certRnd.1, r) },
    modClk fun x => { x with zolRun := 2 }, wdtRestart]

/-- SETUP begins, with the ledger read. -/
def bootSetup : Act :=
  acts [modMode fun x => { x with started := true }, setF F.SYS_MODE_MODE 0 modeSetup, setF F.SYS_MODE_TARGET 0 modeSetup, setupBegin, ledgerLoad]

theorem bootFrom_run (slot : Nat) (s : State) : run (bootFrom slot) s = run bootSetup (run (bootEnter slot s) s) := by
  rw [bootFrom, run_look]
  simp only [bootSetup, bootEnter, run_acts_cons, run_acts_nil]

theorem bootSetup_framed : bootSetup.Framed (.aisles :: .dma :: .mode :: .nvm :: .pe :: .swc :: .thm :: occurParts)
    (.SHR_AVS_TARGET :: .SHR_EVT_CAUSE :: .SHR_STATUS :: .SYS_MODE :: occurRegs) :=
  .acts ⟨(modMode_framed _).widen, (setF_own _ _ _).widen, (setF_own _ _ _).widen, setupBegin_framed.widen, ledgerLoad_framed.widen, trivial⟩

/-- The slot in use. -/
def State.slotInUse (s : State) : Nat := s.nvm.slot

theorem keeps_slotInUse_framed {P : List Part} {R : List Reg} {a : Act} (h : a.Framed P R) (hP : P.contains .nvm = false := by decide) :
    a.keeps State.slotInUse := fun s => congrArg NvmS.slot (h.nvm s hP)

theorem setupBegin_keeps_slotInUse : setupBegin.keeps State.slotInUse :=
  .acts ⟨keeps_slotInUse_framed (modMode_framed _), keeps_slotInUse_framed (setF_own _ _ _), fun _ => rfl,
    keeps_slotInUse_framed (modSwc_framed _), keeps_slotInUse_framed (modDma_framed _),
    keeps_each fun _ _ => keeps_slotInUse_framed (modStore_framed _ _), trivial⟩

theorem ledgerLoad_keeps_slotInUse : ledgerLoad.keeps State.slotInUse :=
  keeps_look fun _ => .acts ⟨fun _ => rfl, keeps_when (keeps_slotInUse_framed ledgerFull_framed),
    keeps_each fun _ _ => keeps_slotInUse_framed (ledgerTake_framed _), trivial⟩

theorem bootSetup_keeps_slotInUse : bootSetup.keeps State.slotInUse :=
  .acts ⟨keeps_slotInUse_framed (modMode_framed _), keeps_slotInUse_framed (setF_own _ _ _), keeps_slotInUse_framed (setF_own _ _ _),
    setupBegin_keeps_slotInUse, ledgerLoad_keeps_slotInUse, trivial⟩

theorem setupBegin_opMode (s : State) : (run setupBegin s).opMode = s.opMode := by
  have hrest : (acts [modNvm fun N => { N with cfgPos := 0, waiting := 0 }, modSwc fun w => { w with carveWr := false },
      modDma fun d => { d with zDone := false, imgPos := 0, nrefFlat := [], nrefKeyed := [] },
      each (List.range 17) fun k => modStore k fun m => { m with running := false }]).Framed [.aisles, .dma, .nvm, .pe, .swc] [] :=
    .acts ⟨(modNvm_framed _).widen, (modSwc_framed _).widen, (modDma_framed _).widen, .each (fun _ _ => (modStore_framed _ _).widen), trivial⟩
  rw [setupBegin, run_acts_cons, run_acts_cons, State.opMode, hrest.keepFld, setF_fld_apart _ _ _ _ _ _ (by decide) (by decide),
    (modMode_framed _).keepFld, State.opMode]

theorem setupBegin_mode (s : State) : (run setupBegin s).mode = { s.mode with setup := 0 } := by
  have hrest : (acts [setF F.SYS_MODE_SETUP_ERR 0 0, modNvm fun N => { N with cfgPos := 0, waiting := 0 },
      modSwc fun w => { w with carveWr := false },
      modDma fun d => { d with zDone := false, imgPos := 0, nrefFlat := [], nrefKeyed := [] },
      each (List.range 17) fun k => modStore k fun m => { m with running := false }]).Framed [.aisles, .dma, .live, .nvm, .pe, .regs, .swc]
        [.SYS_MODE] :=
    .acts ⟨(setF_own _ _ _).widen, (modNvm_framed _).widen, (modSwc_framed _).widen, (modDma_framed _).widen,
      .each (fun _ _ => (modStore_framed _ _).widen), trivial⟩
  rw [setupBegin, run_acts_cons, hrest.mode]
  rfl

theorem bootSetup_effect (s : State) : (run bootSetup s).opMode = modeSetup ∧ (run bootSetup s).mode.started = true ∧
    (run bootSetup s).mode.setup = 0 := by
  have hrun : run bootSetup s = run ledgerLoad (run setupBegin (run (setF F.SYS_MODE_TARGET 0 modeSetup)
      (run (setF F.SYS_MODE_MODE 0 modeSetup) (run (modMode fun x => { x with started := true }) s)))) := by
    simp only [bootSetup, run_acts_cons, run_acts_nil]
  rw [hrun, ledgerLoad_framed.mode, setupBegin_mode, (setF_own _ _ _).mode, (setF_own _ _ _).mode]
  refine ⟨?_, rfl, rfl⟩
  rw [State.opMode, ledgerLoad_framed.fld F.SYS_MODE_MODE]
  refine (setupBegin_opMode _).trans ?_
  rw [State.opMode, setF_fld_apart _ _ _ _ _ _ (by decide) (by decide), setF_fld _ _ _ _ (by decide)]
  rfl

theorem withRnd_akOk (s : State) : (run (withRnd fun r => modSec fun x => { x with certRnd := (x.certRnd.1, r) }) s).sec.akOk = s.sec.akOk := by
  rw [withRnd, run_look]
  split_ifs <;> rfl

theorem bootEnter_effect {slot : Nat} (h : slot < 4) (s u : State) :
    let t := run (bootEnter slot s) u
    t.nvm.slot = slot ∧ t.fld F.NVM_STATUS_SLOT 0 = slot ∧ t.clk.zolRun = 2 ∧ t.sec.akOk = true := by
  have hdrawn : (withRnd fun r => modSec fun x => { x with certRnd := (x.certRnd.1, r) }).Framed [.fresh, .sec] [] :=
    withRnd_framed _ (by decide) fun _ => (modSec_framed _).widen
  dsimp only
  rw [bootEnter]
  simp only [run_acts_cons, run_acts_nil]
  refine ⟨?_, ?_, ?_, ?_⟩
  · rw [wdtRestart_framed.nvm, (modClk_framed _).nvm, hdrawn.nvm, (modSec_framed _).nvm, run_modNvm]
    dsimp only
    rw [(setF_own _ _ _).nvm, (setF_own _ _ _).nvm]
    rfl
  · rw [wdtRestart_framed.keepFld, (modClk_framed _).keepFld, hdrawn.keepFld, (modSec_framed _).keepFld, (modNvm_framed _).keepFld,
      (setF_own _ _ _).fld F.NVM_STATUS_SLOT, setF_fld _ _ _ _ (by decide)]
    exact Nat.mod_eq_of_lt h
  · rw [wdtRestart_clk]
    rfl
  · rw [wdtRestart_framed.sec, (modClk_framed _).sec, withRnd_akOk]
    rfl

/-- A start from a slot: it is in use, Zolliwin runs, the blocks start, and SETUP begins. -/
theorem bootFrom_effect {slot : Nat} (h : slot < 4) (s : State) :
    let t := run (bootFrom slot) s
    t.opMode = modeSetup ∧ t.nvm.slot = slot ∧ t.fld F.NVM_STATUS_SLOT 0 = slot ∧ t.clk.zolRun = 2 ∧ t.mode.started = true ∧
      t.mode.setup = 0 ∧ t.sec.akOk = true := by
  obtain ⟨hslot, hshow, hrun, hak⟩ := bootEnter_effect h s s
  obtain ⟨hmode, hstarted, hsetup⟩ := bootSetup_effect (run (bootEnter slot s) s)
  dsimp only
  rw [bootFrom_run]
  refine ⟨hmode, (bootSetup_keeps_slotInUse _).trans hslot, ?_, ?_, hstarted, hsetup, ?_⟩
  · rw [bootSetup_framed.fld F.NVM_STATUS_SLOT, hshow]
  · rw [bootSetup_framed.clk, hrun]
  · rw [bootSetup_framed.sec, hak]

/-! ### What the choice of a slot leaves alone -/

/-- Every part of the choice keeps what each step of it keeps. -/
theorem bootTry_keeps {α : Type} {g : State → α} (hvalid : ∀ k, (noteValid k).keeps g) (hext : ∀ d, (extendM 3 d).keeps g)
    (hboot : ∀ k, (bootFrom k).keeps g) (hfail : ∀ k, (bootFail k).keeps g) (hshut : (stayShut 1).keeps g) (l : List Nat) :
    (bootTry l).keeps g := by
  induction l with
  | nil => exact hshut
  | cons k r ih =>
    have hnext : (acts [bootFail k, bootTry r]).keeps g := .acts ⟨hfail k, ih, trivial⟩
    rw [bootTry]
    refine keeps_look fun _ => keeps_ite ih (Act.keeps.acts ⟨hvalid k, keeps_ite (Act.keeps.acts ⟨hext _, ?_, trivial⟩) hnext, trivial⟩)
    exact keeps_ite (hboot k) hnext

/-- The slot that NEXT_SLOT names for the next start. -/
def State.nextSlot (s : State) : Nat := s.fld F.NVM_BOOT_NEXT_SLOT 0

theorem keeps_nextSlot_framed {P : List Part} {R : List Reg} {a : Act} (h : a.Framed P R) (hR : R.contains .NVM_BOOT = false := by decide) :
    a.keeps State.nextSlot := fun s => h.fld F.NVM_BOOT_NEXT_SLOT 0 s hR

theorem bootFail_keeps_nextSlot (k : Nat) : (bootFail k).keeps State.nextSlot := fun s => by
  have hap : (skipFld k).apart F.NVM_BOOT_NEXT_SLOT = true := by
    rw [skipFld]
    split_ifs <;> decide
  rw [bootFail, run_acts_cons, run_acts_cons, run_acts_nil, (keeps_nextSlot_framed (raise_own F.SEC_EVT_CAUSE_VERIFY_FAIL 0)) _,
    State.nextSlot, setB_fld_apart _ _ _ _ _ _ (by decide) hap, State.nextSlot]

theorem bootTry_keeps_nextSlot (l : List Nat) : (bootTry l).keeps State.nextSlot :=
  bootTry_keeps (fun k => keeps_nextSlot_framed (noteValid_framed k)) (fun d => keeps_nextSlot_framed (extendM_framed 3 d))
    (fun k => keeps_nextSlot_framed (bootFrom_framed k)) bootFail_keeps_nextSlot (keeps_nextSlot_framed (stayShut_framed 1)) l

/-- The density of the NVM as it is shown. -/
def State.density (s : State) : Nat := s.fld F.NVM_STATUS_DENSITY_MIB 0

theorem keeps_density_framed {P : List Part} {R : List Reg} {a : Act} (h : a.Framed P R) (hR : R.contains .NVM_STATUS = false := by decide) :
    a.keeps State.density := fun s => h.fld F.NVM_STATUS_DENSITY_MIB 0 s hR

theorem setF_keeps_density (f : Fld) (v : Nat) (h : f.apart F.NVM_STATUS_DENSITY_MIB = true := by decide) : (setF f 0 v).keeps State.density :=
  fun s => setF_fld_apart f _ _ _ _ s (by decide) h

theorem bootEnter_keeps_density (slot : Nat) (s : State) : (bootEnter slot s).keeps State.density :=
  .acts ⟨keeps_density_framed (extendM_framed _ _), keeps_density_framed (modNvm_framed _), setF_keeps_density _ _, setF_keeps_density _ _,
    keeps_density_framed (modNvm_framed _), keeps_density_framed (modSec_framed _),
    keeps_density_framed (P := [.fresh, .sec]) (R := []) (withRnd_framed _ (by decide) fun _ => (modSec_framed _).widen),
    keeps_density_framed (modClk_framed _), keeps_density_framed wdtRestart_framed, trivial⟩

theorem noteValid_keeps_density (k : Nat) : (noteValid k).keeps State.density := keeps_look fun s => by
  refine setF_keeps_density _ _ ?_
  split_ifs <;> decide

theorem bootFrom_keeps_density (slot : Nat) : (bootFrom slot).keeps State.density := fun s => by
  rw [bootFrom_run, (keeps_density_framed bootSetup_framed) _, bootEnter_keeps_density slot s s]

theorem bootTry_keeps_density (l : List Nat) : (bootTry l).keeps State.density :=
  bootTry_keeps noteValid_keeps_density (fun d => keeps_density_framed (extendM_framed 3 d)) bootFrom_keeps_density
    (fun k => keeps_density_framed (bootFail_framed k)) (keeps_density_framed (stayShut_framed 1)) l

/-! ### Where no slot starts (R333) -/

theorem stayShut_effect {why : Nat} (h : why < 4) (s : State) : (run (stayShut why) s).fld F.SYS_MODE_SHUT_WHY 0 = why ∧
    (run (stayShut why) s).opMode = s.opMode ∧ (run (stayShut why) s).rawFld F.SYS_MODE_EVT_CAUSE_NO_IMAGE 0 = 1 := by
  rw [stayShut, run_acts_cons, run_acts_cons, run_acts_nil, (raise_own _ _).fld F.SYS_MODE_SHUT_WHY, setF_fld _ _ _ _ (by decide), State.opMode,
    (raise_own _ _).fld F.SYS_MODE_MODE, setF_fld_apart _ _ _ _ _ _ (by decide) (by decide), State.opMode]
  exact ⟨Nat.mod_eq_of_lt h, rfl, raise_rawFld _ _ _ (by decide) rfl (by decide)⟩

/-- Both slots fail: the device stays in SHUTTERS, and both are skipped from now on. -/
theorem bootTry_none {s : State} {j k : Nat} (h : ∀ i, i = j ∨ i = k → s.bit (skipFld i) 0 = true ∨ s.manifestOk i = false) :
    let t := run (bootTry [j, k]) s
    t.fld F.SYS_MODE_SHUT_WHY 0 = 1 ∧ t.opMode = s.opMode ∧ t.clk = s.clk ∧ t.rawFld F.SYS_MODE_EVT_CAUSE_NO_IMAGE 0 = 1 ∧
      t.bit (skipFld j) 0 = true ∧ t.bit (skipFld k) 0 = true := by
  have hk : (run (slotFails j) s).bit (skipFld k) 0 = true ∨ (run (slotFails j) s).manifestOk k = false :=
    (h k (.inr rfl)).imp (slotFails_keeps_skip j k s) fun hbad => (slotFails_keepsManifests j k s).trans hbad
  have hrun : run (bootTry [j, k]) s = run (stayShut 1) (run (slotFails k) (run (slotFails j) s)) := by
    rw [bootTry_fails (h j (.inl rfl)), bootTry_fails hk, bootTry]
  obtain ⟨hwhy, hmode, hno⟩ := stayShut_effect (why := 1) (by decide) (run (slotFails k) (run (slotFails j) s))
  have hskip (i : Nat) (hi : (run (slotFails k) (run (slotFails j) s)).bit (skipFld i) 0 = true) :
      (run (stayShut 1) (run (slotFails k) (run (slotFails j) s))).bit (skipFld i) 0 = true := by
    rw [(stayShut_framed 1).bit (skipFld i) 0 _ (by rw [(skipFld_held i).2.2]; decide), hi]
  dsimp only
  rw [hrun]
  refine ⟨hwhy, hmode.trans ?_, ?_, hno, hskip j ?_, hskip k (slotFails_skips k _)⟩
  · rw [State.opMode, (slotFails_framed k).fld F.SYS_MODE_MODE, (slotFails_framed j).fld F.SYS_MODE_MODE, State.opMode]
  · rw [(stayShut_framed 1).clk, (slotFails_framed k).clk, (slotFails_framed j).clk]
  · exact slotFails_keeps_skip k j _ (slotFails_skips j s)

/-! ### The boot ROM (R356, R360) -/

/-- The density is read, and the fault records are counted. -/
def nvmFound (dens : Nat) : Act :=
  acts [modNvm fun N => { N with density := 64 + dens }, setF F.NVM_STATUS_DENSITY_MIB 0 (64 + dens), .look fun s =>
    let used := usedSlots s.nvmMem s.faultBase faultSlots
    acts [modNvm fun N => { N with faultUsed := used }, setF F.NVM_FAULT_USED 0 used]]

theorem nvmFound_framed (dens : Nat) : (nvmFound dens).Framed [.live, .nvm, .regs] [.NVM_FAULT, .NVM_STATUS] :=
  .acts ⟨(modNvm_framed _).widen, (setF_own _ _ _).widen,
    .look fun _ => .acts ⟨(modNvm_framed _).widen, (setF_own _ _ _).widen, trivial⟩, trivial⟩

theorem nvmFound_density {dens : Nat} (h : 64 + dens < 512) (s : State) : (run (nvmFound dens) s).density = 64 + dens := by
  have hcount : (.look fun s => acts [modNvm fun N => { N with faultUsed := usedSlots s.nvmMem s.faultBase faultSlots },
      setF F.NVM_FAULT_USED 0 (usedSlots s.nvmMem s.faultBase faultSlots)] : Act).Framed [.live, .nvm, .regs] [.NVM_FAULT] :=
    .look fun _ => .acts ⟨(modNvm_framed _).widen, (setF_own _ _ _).widen, trivial⟩
  refine ((keeps_density_framed hcount) _).trans ?_
  rw [State.density, setF_fld _ _ _ _ (by decide)]
  exact Nat.mod_eq_of_lt h

theorem nvmFound_keeps_slotInUse (dens : Nat) : (nvmFound dens).keeps State.slotInUse :=
  .acts ⟨fun _ => rfl, keeps_slotInUse_framed (setF_own _ _ _), keeps_look fun _ => .acts ⟨fun _ => rfl, keeps_slotInUse_framed (setF_own _ _ _),
    trivial⟩, trivial⟩

/-- The slot tried first. -/
def State.firstSlot (s : State) : Nat :=
  let next := s.fld F.NVM_BOOT_NEXT_SLOT 0
  if next = 1 then 0 else if next = 2 then 1 else s.clk.opts.slotPref % 2

theorem firstSlot_cases (s : State) : s.firstSlot = 0 ∨ s.firstSlot = 1 := by
  rw [State.firstSlot]
  split_ifs <;> omega

/-- The two slots in the order in which they are tried, the name in NEXT_SLOT taken. -/
def slotsTry (first : Nat) : Act := acts [setF F.NVM_BOOT_NEXT_SLOT 0 0, bootTry [first, 1 - first]]

section
variable {s : State} {dens : Nat} (hzol : s.clk.zolRun = 1) (hmode : s.opMode = modeShutters) (hslot : s.nvm.slot = 2)
  (hwhy : s.fld F.SYS_MODE_SHUT_WHY 0 = 0) (hmay : s.nvmMay = true)
include hzol hmode hslot hwhy hmay

theorem bootRomStart_run : run (bootRomStart dens) s = run (if s.clk.opts.sbPolicy.testBit 1 && s.otp.ownerHash.isNone then stayShut 2
    else slotsTry s.firstSlot) (run (nvmFound dens) s) := by
  have hgo : (s.clk.zolRun == 1 && s.opMode == modeShutters && s.nvm.slot == 2 && s.fld F.SYS_MODE_SHUT_WHY 0 == 0 && s.nvmMay) = true := by
    simp [hzol, hmode, hslot, hwhy, hmay]
  rw [bootRomStart, run_look, run_when_eq_true hgo]
  rfl

theorem bootRomStart_noOwner (h : s.clk.opts.sbPolicy.testBit 1 = true ∧ s.otp.ownerHash = none) (hd : 64 + dens < 512) :
    let t := run (bootRomStart dens) s
    t.fld F.NVM_STATUS_DENSITY_MIB 0 = 64 + dens ∧ t.fld F.SYS_MODE_SHUT_WHY 0 = 2 ∧ t.opMode = modeShutters ∧ t.nvm.slot = 2 := by
  obtain ⟨hshut, hkept, -⟩ := stayShut_effect (why := 2) (by decide) (run (nvmFound dens) s)
  dsimp only
  rw [bootRomStart_run hzol hmode hslot hwhy hmay, if_pos (by simp [h])]
  refine ⟨((keeps_density_framed (stayShut_framed 2)) _).trans (nvmFound_density hd s), hshut, hkept.trans ?_, ?_⟩
  · rw [State.opMode, (nvmFound_framed dens).fld F.SYS_MODE_MODE]
    exact hmode
  · exact (((keeps_slotInUse_framed (stayShut_framed 2)) _).trans (nvmFound_keeps_slotInUse dens s)).trans hslot

/-- The slots are tried in a state whose NVM, OTP, clocks, modes and skipped slots are as they were. -/
theorem bootRomStart_tries (h : ¬(s.clk.opts.sbPolicy.testBit 1 = true ∧ s.otp.ownerHash = none)) (hd : 64 + dens < 512) :
    ∃ u, run (bootRomStart dens) s = run (bootTry [s.firstSlot, 1 - s.firstSlot]) u ∧ u.density = 64 + dens ∧
      u.fld F.NVM_BOOT_NEXT_SLOT 0 = 0 ∧ u.nvmMem = s.nvmMem ∧ u.otp = s.otp ∧ u.clk = s.clk ∧ u.opMode = modeShutters ∧
      ∀ k, u.bit (skipFld k) 0 = s.bit (skipFld k) 0 := by
  have hno : ¬(s.clk.opts.sbPolicy.testBit 1 && s.otp.ownerHash.isNone) = true := by
    simpa only [Bool.and_eq_true, Option.isNone_iff_eq_none] using h
  have hfound := nvmFound_framed dens
  have hnext := setF_own F.NVM_BOOT_NEXT_SLOT 0 0
  refine ⟨run (setF F.NVM_BOOT_NEXT_SLOT 0 0) (run (nvmFound dens) s), ?_, ?_, ?_, ?_, ?_, ?_, ?_, fun k => ?_⟩
  · rw [bootRomStart_run hzol hmode hslot hwhy hmay, if_neg hno, slotsTry, run_acts_cons, run_acts_cons, run_acts_nil]
  · exact ((keeps_density_framed hnext) _).trans (nvmFound_density hd s)
  · rw [setF_fld _ _ _ _ (by decide)]
    rfl
  · rw [hnext.nvmMem, hfound.nvmMem]
  · rw [hnext.otp, hfound.otp]
  · rw [hnext.clk, hfound.clk]
  · rw [State.opMode, hnext.fld F.SYS_MODE_MODE, hfound.fld F.SYS_MODE_MODE]
    exact hmode
  · obtain ⟨hheld, -, hreg⟩ := skipFld_held k
    have hap : F.NVM_BOOT_NEXT_SLOT.apart (skipFld k) = true := by
      rw [skipFld]
      split_ifs <;> decide
    rw [setF_bit_apart _ _ _ _ _ _ hheld hap, hfound.bit (skipFld k) 0 _ (by rw [hreg]; decide)]

theorem bootRomStart_starts (h : ¬(s.clk.opts.sbPolicy.testBit 1 = true ∧ s.otp.ownerHash = none)) (hd : 64 + dens < 512) :
    let t := run (bootRomStart dens) s
    t.fld F.NVM_STATUS_DENSITY_MIB 0 = 64 + dens ∧ t.fld F.NVM_BOOT_NEXT_SLOT 0 = 0 ∧
      (s.bit (skipFld s.firstSlot) 0 = false → s.manifestOk s.firstSlot = true →
        s.fwOk (s.slotBytes s.firstSlot (s.fwSection s.firstSlot)) (s.fwSection s.firstSlot).2.2 = true →
        t.opMode = modeSetup ∧ t.nvm.slot = s.firstSlot ∧ t.fld F.NVM_STATUS_SLOT 0 = s.firstSlot ∧ t.clk.zolRun = 2 ∧
          t.mode.started = true ∧ t.mode.setup = 0 ∧ t.sec.akOk = true) ∧
      ((∀ k, k < 2 → s.bit (skipFld k) 0 = true ∨ s.manifestOk k = false) →
        t.fld F.SYS_MODE_SHUT_WHY 0 = 1 ∧ t.opMode = modeShutters ∧ t.clk.zolRun = 1 ∧ t.rawFld F.SYS_MODE_EVT_CAUSE_NO_IMAGE 0 = 1 ∧
          ∀ k, k < 2 → t.bit (skipFld k) 0 = true) := by
  obtain ⟨u, hrun, hdens, hnext, hmem, hotp, hclk, humode, hskip⟩ := bootRomStart_tries hzol hmode hslot hwhy hmay h hd
  have hfirst := firstSlot_cases s
  dsimp only
  rw [hrun]
  refine ⟨(bootTry_keeps_density _ u).trans hdens, (bootTry_keeps_nextSlot _ u).trans hnext, fun hs hm hf => ?_, fun hnone => ?_⟩
  · have hsec : u.fwSection s.firstSlot = s.fwSection s.firstSlot := by rw [State.fwSection, State.fwSection, nvmBytes_of_nvmMem hmem]
    rw [bootTry_boots ((hskip _).trans hs) ((manifestOk_of_nvmMem hmem hotp _).trans hm)
      (by rw [hsec, slotBytes_of_nvmMem hmem, fwOk_of_otp hotp, hf])]
    exact bootFrom_effect (by omega) _
  · have hboth : ∀ i, i = s.firstSlot ∨ i = 1 - s.firstSlot → u.bit (skipFld i) 0 = true ∨ u.manifestOk i = false := fun i hi => by
      rw [hskip, manifestOk_of_nvmMem hmem hotp]
      exact hnone i (by omega)
    obtain ⟨hw, hm, hc, hno, hj, hk⟩ := bootTry_none hboth
    refine ⟨hw, hm.trans humode, by rw [hc, hclk, hzol], hno, fun k hk2 => ?_⟩
    obtain rfl | rfl : k = s.firstSlot ∨ k = 1 - s.firstSlot := by omega
    · exact hj
    · exact hk

end

/-! ### Zolliwin after its watchdog (R324, R347, R396) -/

/-- Zolliwin takes up its work: messages, the servo, fault records and repairs. -/
def zolResumes : Act := acts [takeMsgs, servoResume, faultResume, each (List.range 17) repairFull]

/-- The fault records that wait for Zolliwin, and its copy of the patch. -/
def State.zolCopies (s : State) : List Byte := s.nvm.patch

theorem faultResume_effect (s : State) : (run faultResume s).nvm.faultPend = [] ∧ (run faultResume s).nvm.patch = s.nvm.patch := by
  have hqueue : (faultQueue s.nvm.faultPend).keeps State.zolCopies := keeps_each fun _ _ s => by
    change (if 16 ≤ s.nvm.queue.length then s.nvm else _).patch = s.nvm.patch
    split_ifs <;> rfl
  rw [faultResume, run_look, run_acts_cons, run_acts_cons, run_acts_nil, run_modNvm]
  exact ⟨rfl, hqueue s⟩

theorem repairs_framed : (each (List.range 17) repairFull).Framed (.aisles :: .cnt :: .lanes :: .ports :: .qtrs :: .stalls :: .time :: occurParts)
    (.AISLE_MC_EVT_CAUSE :: .PE_EVT_CAUSE :: .SYS_EPOCH_APPLIED0 :: .SYS_EPOCH_APPLIED1 :: .SYS_EPOCH_APPLIED2 :: leaveRegs) :=
  .each fun _ _ => repairFull_framed _

theorem zolResumes_effect (s : State) : let t := run zolResumes s
    t.clk = s.clk ∧ t.nvm.faultPend = [] ∧ t.nvm.patch = s.nvm.patch ∧ t.pe.msgq = [] := by
  obtain ⟨hpend, hpatch⟩ := faultResume_effect (run servoResume (run takeMsgs s))
  have hrun : run zolResumes s = run (each (List.range 17) repairFull) (run faultResume (run servoResume (run takeMsgs s))) := by
    simp only [zolResumes, run_acts_cons, run_acts_nil]
  dsimp only
  rw [hrun, repairs_framed.clk, repairs_framed.nvm, repairs_framed.pe, faultResume_framed.clk, faultResume_framed.pe, hpend, hpatch,
    servoResume_framed.clk, servoResume_framed.nvm, servoResume_framed.pe, takeMsgs_framed.clk, takeMsgs_framed.nvm]
  exact ⟨rfl, rfl, rfl, rfl⟩

theorem zolliwinRunsAgain_effect {s : State} (hzol : s.clk.zolRun = 1) (hshut : s.mode.shut = true) (hslot : s.nvm.slot ≠ 2)
    (hmode : modeSetup ≤ s.opMode) (hmay : s.nvmMay = true) :
    let sec := s.nvm.sections.getD 0 (0, 0, 0)
    let c := s.slotBytes s.nvm.slot sec
    let t := run zolliwinRunsAgain s
    if s.fwOk c sec.2.2 = true ∧ fwDigestOf c = s.sec.fwDigest then
      t.clk.zolRun = 2 ∧ t.nvm.faultPend = [] ∧ t.nvm.patch = s.patchAgain ∧ t.pe.msgq = []
    else t.clk.zolRun = 3 ∧ t.rawFld F.SEC_EVT_CAUSE_VERIFY_FAIL 0 = 1 := by
  have hgo : (s.clk.zolRun == 1 && s.mode.shut && s.nvm.slot != 2 && decide (modeSetup ≤ s.opMode) && s.nvmMay) = true := by
    simp [hzol, hshut, hslot, hmode, hmay]
  dsimp only
  rw [zolliwinRunsAgain, run_look, run_when_eq_true hgo]
  dsimp only
  generalize s.slotBytes s.nvm.slot (s.nvm.sections.getD 0 (0, 0, 0)) = c
  simp only [Bool.and_eq_true, beq_iff_eq]
  split_ifs with hok
  · obtain ⟨hclk, hpend, hpatch, hmsg⟩ := zolResumes_effect (run (modNvm fun N => { N with patch := s.patchAgain })
      (run wdtRestart (run (modClk fun x => { x with zolRun := 2 }) s)))
    rw [run_acts_cons, run_acts_cons, run_acts_cons, ← zolResumes, hclk]
    exact ⟨rfl, hpend, hpatch, hmsg⟩
  · rw [run_acts_cons, run_acts_cons, run_acts_nil, (raise_own _ _).clk]
    exact ⟨rfl, raise_rawFld _ _ _ (by decide) rfl (by decide)⟩

/-! ### The obligation -/

/-- Settles O48: the two slots are tried in order, and Zolliwin's return verifies the slot in use again. -/
theorem theBootRomChoosesASlot : Obligations.TheBootRomChoosesASlot := by
  unfold Obligations.TheBootRomChoosesASlot
  refine ⟨fun s d hzol hmode hslot hwhy hmay => completes_run (a := bootRomStart d) rfl ?_,
    fun s d hmay => ⟨completes_run (a := bootRomStart d) rfl ?_, completes_run rfl ?_⟩,
    fun s hzol hshut hslot hmode hmay => completes_run rfl (zolliwinRunsAgain_effect hzol hshut hslot hmode hmay)⟩
  · have hd : 64 + (d : Nat) < 512 := by omega
    by_cases hown : s.clk.opts.sbPolicy.testBit 1 = true ∧ s.otp.ownerHash = none
    · rw [if_pos hown]
      exact bootRomStart_noOwner hzol hmode hslot hwhy hmay hown hd
    · rw [if_neg hown]
      exact bootRomStart_starts hzol hmode hslot hwhy hmay hown hd
  · rw [bootRomStart, run_look, run_when_eq_false (by rw [hmay, Bool.and_false])]
  · rw [zolliwinRunsAgain, run_look, run_when_eq_false (by rw [hmay, Bool.and_false])]

end Sys2Proof.Machine
end

section
/-!
PROOF. Soft resets: what the body of one unit leaves to the clock unit and to the other units (R321 to R323).
-/
set_option Elab.async false
namespace Sys2Proof.Machine

/-! ### What every soft reset keeps -/

/-- The registers that ask for soft resets, and the one that shows a write turned away. -/
def resetRegs : List Reg := [.CLK_STATUS, .CLK_SOFT_RST0, .CLK_SOFT_RST1, .CLK_SOFT_RST2]

/-- What the body of a soft reset leaves alone: the clock unit, the page program that runs, and the registers that ask for soft resets. -/
def State.resetView (s : State) : ClkS × Option (Nat × List Byte) × List Word := (s.clk, s.nvm.prog, resetRegs.map (s.raw · 0))

theorem resetView_clk {s t : State} (h : t.resetView = s.resetView) : t.clk = s.clk := congrArg Prod.fst h

theorem resetView_prog {s t : State} (h : t.resetView = s.resetView) : t.nvm.prog = s.nvm.prog := congrArg (·.2.1) h

theorem resetView_raw {s t : State} (h : t.resetView = s.resetView) {r : Reg} (hr : r ∈ resetRegs) : t.raw r 0 = s.raw r 0 := by
  have hmap : resetRegs.map (t.raw · 0) = resetRegs.map (s.raw · 0) := congrArg (·.2.2) h
  exact List.map_inj_left.1 hmap r hr

theorem Act.Framed.keepsResetView {P : List Part} {R : List Reg} {a : Act} (h : a.Framed P R) (hc : P.contains .clk = false := by decide)
    (hn : P.contains .nvm = false := by decide) (hR : (resetRegs.all fun r => !R.contains r) = true := by decide) :
    a.keeps State.resetView := fun s => by
  have hraw : resetRegs.map ((Machine.run a s).raw · 0) = resetRegs.map (s.raw · 0) :=
    List.map_inj_left.2 fun r hr => (h.reg (by simpa using List.all_eq_true.1 hR r hr) 0 s).1
  rw [State.resetView, h.clk s hc, h.nvm s hn, hraw, State.resetView]

/-- The registers that a soft reset clears are registers of a unit. -/
theorem clearRegs_keeps {α : Type} {g : State → α} {u : Nat}
    (h : ∀ f n v, (regUnit f.reg n).1 = some u → (setF f n v).keeps g) : (clearRegs u).keeps g :=
  keeps_look fun s => keeps_each fun e he => keeps_each fun f _ => by
    rw [List.mem_filter, Bool.and_eq_true] at he
    exact h _ _ _ (beq_iff_eq.1 he.2.1)

theorem clearRegs_keepsResets (u : Nat) : (clearRegs u).keeps State.resetView := by
  refine clearRegs_keeps fun f n v hu => (setF_own f n v).keepsResetView (hR := ?_)
  have hnone : ∀ r ∈ resetRegs, ∀ n, (regUnit r n).1 = none := by
    simp only [resetRegs, List.forall_mem_cons]
    exact ⟨fun _ => rfl, fun _ => rfl, fun _ => rfl, fun _ => rfl, nofun⟩
  rw [List.all_eq_true]
  intro r hr
  have hne : r ≠ f.reg := by
    rintro rfl
    rw [hnone _ hr n] at hu
    cases hu
  simpa using hne

theorem softStall_keepsResets (st : Nat) : (softStall st).keeps State.resetView :=
  keeps_look fun _ => Act.keeps.acts ⟨keeps_each fun _ _ => (cutArriving_framed _).keepsResetView,
    keeps_each fun _ _ => (leaveUp_framed _ _ _).keepsResetView,
    keeps_each fun _ _ => Act.keeps.acts ⟨(modPort_framed _ _).keepsResetView, (modLane_framed _ _).keepsResetView, trivial⟩,
    (modStall_framed _ _).keepsResetView, clearRegs_keepsResets _, keeps_each fun _ _ => (parkPort_framed _).keepsResetView, trivial⟩

theorem softAisle_keepsResets (k : Nat) (h : k < 16) : (softAisle k h).keeps State.resetView :=
  keeps_look fun _ => Act.keeps.acts ⟨keeps_each fun _ _ => (parkPort_framed _).keepsResetView,
    keeps_each fun _ _ => keeps_when (Act.keeps.acts ⟨(modEng_framed _ _).keepsResetView, (abort_framed _).keepsResetView, trivial⟩),
    (modAisle_framed _ _).keepsResetView,
    keeps_each fun _ _ => Act.Framed.keepsResetView (P := [.rebuild]) (R := []) (.upd rfl), clearRegs_keepsResets _, trivial⟩

theorem softQtr_keepsResets (q : Nat) : (softQtr q).keeps State.resetView :=
  keeps_look fun _ => Act.keeps.acts ⟨(putCopy_framed _ _).keepsResetView, (fillPolicers_framed _).keepsResetView,
    (modQtr_framed _ _).keepsResetView, keeps_each fun _ _ => (modQtr_framed _ _).keepsResetView, (modPe_framed _).keepsResetView,
    clearRegs_keepsResets _, trivial⟩

theorem softPe_keepsResets : softPe.keeps State.resetView :=
  keeps_look fun _ => Act.keeps.acts ⟨keeps_each fun _ _ => Act.keeps.acts ⟨keeps_each fun _ _ => (peFreeFrame_framed _).keepsResetView,
      (modPort_framed _ _).keepsResetView, trivial⟩,
    keeps_when (peFreeFrame_framed _).keepsResetView, (modPkts_framed _).keepsResetView, (modPe_framed _).keepsResetView,
    Act.Framed.keepsResetView (P := [.stm]) (R := []) (.upd ⟨rfl, nofun, nofun⟩), keeps_each fun _ _ => (modBfd_framed _ _).keepsResetView,
    clearRegs_keepsResets _, trivial⟩

theorem softTime_keepsResets : softTime.keeps State.resetView :=
  keeps_look fun _ => Act.keeps.acts ⟨(servoTo_framed _).keepsResetView, (dpllTo_framed _).keepsResetView,
    keeps_each fun _ _ => Act.keeps.acts ⟨(modPort_framed _ _).keepsResetView, trivial⟩, (modTime_framed _).keepsResetView,
    clearRegs_keepsResets _, keeps_each fun _ _ => (syncRecal_framed _).keepsResetView, trivial⟩

theorem softSwc_keepsResets : softSwc.keeps State.resetView :=
  keeps_look fun _ => Act.keeps.acts ⟨Act.Framed.keepsResetView (P := [.bufs]) (R := []) (.upd ⟨rfl, nofun, nofun⟩),
    (modPkts_framed _).keepsResetView, Act.Framed.keepsResetView (P := [.swc]) (R := []) (.upd rfl),
    keeps_each fun _ _ => (modPort_framed _ _).keepsResetView, clearRegs_keepsResets _, carveNow_framed.keepsResetView,
    keeps_each fun _ _ => (pfcSync_framed _).keepsResetView, trivial⟩

theorem softSch_keepsResets : softSch.keeps State.resetView :=
  keeps_look fun _ => Act.keeps.acts ⟨keeps_each fun _ _ => (modPort_framed _ _).keepsResetView, clearRegs_keepsResets _, trivial⟩

theorem softDma_keepsResets : softDma.keeps State.resetView :=
  keeps_look fun _ => Act.keeps.acts ⟨(ringAbandon_framed _).keepsResetView, (ringAbandon_framed _).keepsResetView,
    (padRelease_framed _).keepsResetView, (padRelease_framed _).keepsResetView, (modDma_framed _).keepsResetView,
    clearRegs_keepsResets _, padSync_framed.keepsResetView, (passBegin_framed _).keepsResetView, trivial⟩

/-- The NVM controller empties its queue, and leaves the page program that runs. -/
theorem softNvm_keepsResets : softNvm.keeps State.resetView := Act.keeps.acts ⟨fun _ => rfl, clearRegs_keepsResets _, trivial⟩

theorem softSec_keepsResets : softSec.keeps State.resetView :=
  Act.keeps.acts ⟨burnCut_framed.keepsResetView, (sessEnd_framed _).keepsResetView, (modSec_framed _).keepsResetView,
    (modTime_framed _).keepsResetView, (setB_own _ _ _).keepsResetView, (setB_own _ _ _).keepsResetView,
    (setB_own _ _ _).keepsResetView, (setF_own _ _ _).keepsResetView, clearRegs_keepsResets _, trivial⟩

theorem softBody_keepsResets (u : Nat) : (softBody u).keeps State.resetView := by
  unfold softBody
  split_ifs
  · exact softStall_keepsResets _
  · exact softAisle_keepsResets _ _
  · exact softQtr_keepsResets _
  · exact softPe_keepsResets
  · exact softTime_keepsResets
  · exact softSwc_keepsResets
  · exact softSch_keepsResets
  · exact softDma_keepsResets
  · exact softNvm_keepsResets
  · exact softSec_keepsResets

/-! ### The start of one soft reset -/

/-- The report of a requested epoch by a unit that is reset. -/
def softReport (u : Nat) : Act := match epochUnit u with | some e => unitReport e | none => .skip

theorem softReport_framed (u : Nat) : (softReport u).Framed [.regs] [.SYS_EPOCH_APPLIED0, .SYS_EPOCH_APPLIED1, .SYS_EPOCH_APPLIED2] := by
  unfold softReport
  split
  · exact unitReport_framed _
  · exact .skip

theorem softStart_run (u : Nat) (s : State) : run (softStart u) s =
    run (softReport u) (run (clearCnt u) (run (softBody u) (run (modClk fun c => { c with soft := addSet c.soft u }) s))) := by
  rw [softStart, run_acts_cons, run_acts_cons, run_acts_cons, run_acts_cons, run_acts_nil]
  rfl

theorem softStart_resetView (u : Nat) (s : State) :
    (run (softStart u) s).resetView = (run (modClk fun c => { c with soft := addSet c.soft u }) s).resetView := by
  rw [softStart_run, (softReport_framed u).keepsResetView, (clearCnt_framed u).keepsResetView, softBody_keepsResets]

/-- The bit of a unit is written. -/
def softMark (u : Nat) (s : State) : Act :=
  .upd (.reg (softReg u).1 0 (s.raw (softReg u).1 0 ||| BitVec.ofNat 32 (2 ^ (softReg u).2)))

theorem softBit_run (u : Nat) (s : State) : run (softBit u) s =
    run (if u = unitNvm ∧ s.nvm.prog.isSome then acts [holdPending, modClk fun c => { c with nvmSoft := true }] else softStart u)
      (run (softMark u s) s) := by
  rw [softBit, run_look, run_acts_cons, run_acts_cons, run_acts_nil]
  rfl

theorem softReg_mem (u : Nat) : (softReg u).1 ∈ resetRegs := by
  rw [softReg]
  split_ifs <;> simp [resetRegs]

theorem softReg_ne_status (u : Nat) : .CLK_STATUS ≠ (softReg u).1 := by
  rw [softReg]
  split_ifs <;> simp

/-- Of the registers that ask for soft resets, the start of one writes its own bit alone. -/
theorem softBit_raw {u : Nat} {r : Reg} (hr : r ∈ resetRegs) (s : State) : (run (softBit u) s).raw r 0 =
    if r = (softReg u).1 then (s.raw r 0 ||| BitVec.ofNat 32 (2 ^ (softReg u).2)) &&& regMask r else s.raw r 0 := by
  have hmark : (run (softMark u s) s).raw r 0 =
      if r = (softReg u).1 then (s.raw r 0 ||| BitVec.ofNat 32 (2 ^ (softReg u).2)) &&& regMask r else s.raw r 0 := by
    rw [softMark, run_upd, raw_reg]
    by_cases h : r = (softReg u).1
    · rw [if_pos ⟨h, rfl⟩, if_pos h, h]
    · rw [if_neg (fun hx => h hx.1), if_neg h]
  rw [softBit_run, ← hmark]
  split_ifs
  · have hheld : (acts [holdPending, modClk fun c => { c with nvmSoft := true }]).Framed [.clk, .live, .regs] [.CLK_RST_CAUSE] :=
      .acts ⟨holdPending_framed, (modClk_framed _).widen, trivial⟩
    have hne : r ≠ .CLK_RST_CAUSE := by
      rintro rfl
      exact absurd hr (by decide)
    exact (hheld.reg (by simpa using hne) 0 _).1
  · rw [resetView_raw (softStart_resetView u _) hr, ((modClk_framed _).reg rfl _ _).1]

theorem softBit_prog (u : Nat) (s : State) : (run (softBit u) s).nvm.prog = s.nvm.prog := by
  have hmark : (run (softMark u s) s).nvm = s.nvm := (softReg_own u _).nvm s
  rw [softBit_run]
  split_ifs
  · have hheld : (acts [holdPending, modClk fun c => { c with nvmSoft := true }]).Framed [.clk, .live, .regs] [.CLK_RST_CAUSE] :=
      .acts ⟨holdPending_framed, (modClk_framed _).widen, trivial⟩
    rw [hheld.nvm, hmark]
  · rw [resetView_prog (softStart_resetView u _), (modClk_framed _).nvm, hmark]

/-- The units in soft reset, and whether a soft reset of the NVM controller waits. -/
def ClkS.softs (c : ClkS) : List Nat × Bool := (c.soft, c.nvmSoft)

theorem holdPending_softs (s : State) : (run holdPending s).clk.softs = s.clk.softs := by
  rw [holdPending, run_look, run_acts_cons, run_acts_cons, run_acts_nil, (setB_own _ _ _).clk, run_when]
  split_ifs <;> rfl

/-- A unit is in soft reset from the start on, but for the NVM controller while a page program runs: it waits. -/
theorem softBit_softs (u : Nat) (s : State) : (run (softBit u) s).clk.softs =
    if u = unitNvm ∧ s.nvm.prog.isSome then (s.clk.soft, true) else (addSet s.clk.soft u, s.clk.nvmSoft) := by
  have hmark : (run (softMark u s) s).clk = s.clk := (softReg_own u _).clk s
  rw [softBit_run]
  split_ifs
  · have hsoft : (run holdPending (run (softMark u s) s)).clk.soft = s.clk.soft := by
      rw [← hmark]
      exact congrArg Prod.fst (holdPending_softs _)
    rw [run_acts_cons, run_acts_cons, run_acts_nil, run_modClk, ← hsoft]
    rfl
  · rw [resetView_clk (softStart_resetView u _), run_modClk, hmark]
    rfl

end Sys2Proof.Machine
end

section
/-!
PROOF. Soft resets: the writes that start them, what each kind of unit loses, and their end (R321 to R323).
-/
set_option Elab.async false
namespace Sys2Proof.Machine

/-! ### A unit in soft reset -/

/-- The bit of a unit is set, and its soft reset has started, or waits for the page program that runs. -/
def State.inSoft (s : State) (u : Nat) : Prop :=
  (s.raw (softReg u).1 0).getLsbD (softReg u).2 = true ∧
    if u = unitNvm ∧ s.nvm.prog ≠ none then s.clk.nvmSoft = true else s.clk.soft.contains u = true

theorem softReg_two (i : Nat) : softReg (64 + i) = (.CLK_SOFT_RST2, i) := by
  rw [softReg, if_neg (by omega), if_neg (by omega), Nat.add_sub_cancel_left]

theorem softReg_cases (u : Nat) : (softReg u).1 = .CLK_SOFT_RST0 ∨ (softReg u).1 = .CLK_SOFT_RST1 ∨ (softReg u).1 = .CLK_SOFT_RST2 := by
  rw [softReg]
  split_ifs <;> simp

/-- The registers hold the bit of every unit. -/
theorem softReg_masked : ∀ u, u < 91 → (regMask (softReg u).1).getLsbD (softReg u).2 = true := by decide

theorem softReg_lt_32 {u : Nat} (h : u < 91) : (softReg u).2 < 32 := by
  rw [softReg]
  split_ifs <;> dsimp only <;> omega

theorem contains_addSet {l : List Nat} {n k : Nat} : (addSet l n).contains k = true ↔ k = n ∨ l.contains k = true := by
  rw [List.contains_iff_mem, List.contains_iff_mem, mem_addSet]

theorem softBit_inSoft {u : Nat} (h : u < 91) (s : State) : (run (softBit u) s).inSoft u := by
  have hsofts := softBit_softs u s
  refine ⟨?_, ?_⟩
  · rw [softBit_raw (softReg_mem u), if_pos rfl, BitVec.getLsbD_and, getLsbD_or_two_pow _ (softReg_lt_32 h), softReg_masked u h]
    simp
  · rw [softBit_prog]
    by_cases hn : u = unitNvm ∧ s.nvm.prog ≠ none
    · rw [if_pos ⟨hn.1, Option.isSome_iff_ne_none.2 hn.2⟩] at hsofts
      rw [if_pos hn]
      exact congrArg Prod.snd hsofts
    · rw [if_neg (fun hx => hn ⟨hx.1, Option.isSome_iff_ne_none.1 hx.2⟩)] at hsofts
      rw [if_neg hn, show (run (softBit u) s).clk.soft = addSet s.clk.soft u from congrArg Prod.fst hsofts, contains_addSet]
      exact .inl rfl

/-- The start of one soft reset takes none away that has started. -/
theorem softBit_keeps_inSoft (x : Nat) {u : Nat} (h : u < 91) {s : State} (hs : s.inSoft u) : (run (softBit x) s).inSoft u := by
  obtain ⟨hbit, hin⟩ := hs
  have hsofts := softBit_softs x s
  refine ⟨?_, ?_⟩
  · rw [softBit_raw (softReg_mem u)]
    split_ifs
    · rw [BitVec.getLsbD_and, BitVec.getLsbD_or, hbit, softReg_masked u h]
      rfl
    · exact hbit
  · rw [softBit_prog]
    rw [ClkS.softs] at hsofts
    split_ifs at hsofts hin ⊢
    all_goals simp only [Prod.mk.injEq] at hsofts; obtain ⟨hsoft, hwait⟩ := hsofts
    · exact hwait
    · rw [hwait, hin]
    · rw [hsoft, hin]
    · rw [hsoft, contains_addSet]
      exact .inr hin

/-- Another unit is not put into soft reset. -/
theorem softBit_keeps_apart {x u : Nat} (h : u ≠ x) : (softBit x).keeps fun s => s.clk.soft.contains u := fun s => by
  have hsofts := softBit_softs x s
  dsimp only
  rw [ClkS.softs] at hsofts
  split_ifs at hsofts
  all_goals simp only [Prod.mk.injEq] at hsofts; obtain ⟨hsoft, -⟩ := hsofts
  · rw [hsoft]
  · rw [hsoft, Bool.eq_iff_iff, contains_addSet]
    simp [h]

theorem softBit_keeps_status (x : Nat) : (softBit x).keeps fun s => s.raw .CLK_STATUS 0 := fun s => by
  dsimp only
  rw [softBit_raw (by decide), if_neg (softReg_ne_status x)]

/-! ### The units that a write names -/

theorem mem_softUnits {word u : Nat} {v mask : Word} : u ∈ softUnits word v mask ↔
    ∃ i, i < 32 ∧ v.getLsbD i = true ∧ mask.getLsbD i = true ∧ 32 * word + i = u := by
  simp [softUnits, and_assoc]

/-- Where the mask has one bit, the write names one unit. -/
theorem softUnits_single {i u : Nat} {v mask : Word} (hmask : ∀ j, j < 32 → mask.getLsbD j = true → j = i) (h : u ∈ softUnits 2 v mask) :
    u = 64 + i := by
  obtain ⟨j, hj, -, hm, rfl⟩ := mem_softUnits.1 h
  rw [hmask j hj hm]

/-- The units that a write asks for: their bits are clear, and the security block takes it from a secure master alone. -/
def State.softAsked (s : State) (rq : Req) (word : Nat) (v mask : Word) : List Nat :=
  (softUnits word v mask).filter fun u =>
    decide (u < 91) && !(s.raw (softReg u).1 0).getLsbD (softReg u).2 && (u != unitSec || secureReq rq)

theorem mem_softAsked {s : State} {rq : Req} {word u : Nat} {v mask : Word} : u ∈ s.softAsked rq word v mask ↔
    u ∈ softUnits word v mask ∧ u < 91 ∧ (s.raw (softReg u).1 0).getLsbD (softReg u).2 = false ∧ (u = unitSec → secureReq rq = true) := by
  rw [State.softAsked, List.mem_filter, Bool.and_eq_true, Bool.and_eq_true, decide_eq_true_iff, Bool.not_eq_true', Bool.or_eq_true, bne_iff_ne,
    ne_eq, ← imp_iff_not_or, and_assoc]

/-- Those of them whose soft reset the mode permits. -/
def State.softStarts (s : State) (rq : Req) (word : Nat) (v mask : Word) : List Nat := (s.softAsked rq word v mask).filter s.softOk

theorem mem_softStarts {s : State} {rq : Req} {word u : Nat} {v mask : Word} : u ∈ s.softStarts rq word v mask ↔
    u ∈ s.softAsked rq word v mask ∧ s.softOk u = true := List.mem_filter

theorem softStarts_named {s : State} {rq : Req} {word u : Nat} {v mask : Word} (h : u ∈ s.softStarts rq word v mask) :
    u ∈ softUnits word v mask := (mem_softAsked.1 (mem_softStarts.1 h).1).1

/-- The soft-reset register of a write. -/
def softWriteReg (word : Nat) : Reg := if word = 0 then .CLK_SOFT_RST0 else if word = 1 then .CLK_SOFT_RST1 else .CLK_SOFT_RST2

/-- What a write of a soft-reset register turns away. -/
def softRefuse (s : State) (rq : Req) (word : Nat) (v mask : Word) : Act :=
  when ((s.softAsked rq word v mask).any fun u => !s.softOk u) (reject3 .clk rq (softWriteReg word) 0)

theorem softWrite_run {s : State} {r : Req} {word : Nat} (ht : s.takes r (softWriteReg word) 0 = true) (v mask : Word) :
    run (softWrite r word v mask) s =
      run (each (s.softStarts (s.asReq r) word v mask) softBit) (run (softRefuse s (s.asReq r) word v mask) s) := by
  rw [softWrite]
  dsimp only
  rw [← softWriteReg, run_onWrite ht, run_look, run_acts_cons, run_acts_cons, run_acts_nil]
  rfl

theorem softRefuse_framed (s : State) (rq : Req) (word : Nat) (v mask : Word) : (softRefuse s rq word v mask).Framed (.evt :: occurParts)
    (.SYS_REJECT_ADDR :: .SYS_REJECT_INFO :: (Blk.clk.regs ++ occurRegs)) := .when (reject3_own _ _ _ _)

theorem softWrite_prog {s : State} {r : Req} {word : Nat} (ht : s.takes r (softWriteReg word) 0 = true) (v mask : Word) :
    (run (softWrite r word v mask) s).nvm.prog = s.nvm.prog := by
  have hkeep : (each (s.softStarts (s.asReq r) word v mask) softBit).keeps fun t => t.nvm.prog := keeps_each fun x _ t => softBit_prog x t
  rw [softWrite_run ht]
  exact (hkeep _).trans (congrArg NvmS.prog ((softRefuse_framed _ _ _ _ _).nvm s))

theorem softWrite_starts {s : State} {r : Req} {word u : Nat} {v mask : Word} (ht : s.takes r (softWriteReg word) 0 = true)
    (hu : u ∈ s.softStarts (s.asReq r) word v mask) : (run (softWrite r word v mask) s).inSoft u := by
  rw [softWrite_run ht]
  exact each_all (p := fun u t => u < 91 → t.inSoft u) (f := softBit) (fun u t h => softBit_inSoft h t)
    (fun x u t hs h => softBit_keeps_inSoft x h (hs h)) _ _ u hu (mem_softAsked.1 (mem_softStarts.1 hu).1).2.1

/-- A unit whose reset the mode does not permit: the write is turned away, and the unit is untouched. -/
theorem softWrite_refuses {s : State} {r : Req} {word u : Nat} {v mask : Word} (ht : s.takes r (softWriteReg word) 0 = true)
    (hu : u ∈ s.softAsked (s.asReq r) word v mask) (hok : s.softOk u = false) :
    (run (softWrite r word v mask) s).rawFld F.CLK_STATUS_REJECT 0 = 3 ∧
      (run (softWrite r word v mask) s).clk.soft.contains u = s.clk.soft.contains u := by
  have hsome : ((s.softAsked (s.asReq r) word v mask).any fun u => !s.softOk u) = true :=
    List.any_eq_true.2 ⟨u, hu, by rw [hok]; rfl⟩
  have hstatus : (each (s.softStarts (s.asReq r) word v mask) softBit).keeps fun t => t.raw .CLK_STATUS 0 :=
    keeps_each fun x _ => softBit_keeps_status x
  have hsoft : (each (s.softStarts (s.asReq r) word v mask) softBit).keeps fun t => t.clk.soft.contains u :=
    keeps_each fun x hx => softBit_keeps_apart fun hux => by rw [← hux, mem_softStarts, hok] at hx; exact absurd hx.2 (by decide)
  have hreject : (run (softRefuse s (s.asReq r) word v mask) s).rawFld F.CLK_STATUS_REJECT 0 = 3 := by
    rw [softRefuse, run_when_eq_true hsome]
    exact (reject3_turned .clk _ _ _ s).1
  rw [softWrite_run ht]
  refine ⟨(congrArg (bits · _ _) (hstatus _)).trans hreject, (hsoft _).trans ?_⟩
  dsimp only
  rw [(softRefuse_framed _ _ _ _ _).clk]

/-- A write of a soft-reset register does what the statement asks of every kind of unit. -/
theorem softWrite_resets {c : Instr} {s : State} {r : Req} {word : Nat} {v mask : Word} {P : State → Prop}
    (hexec : exec c s = .next (run (softWrite r word v mask) s)) (ht : s.takes r (softWriteReg word) 0 = true)
    (hmask : ∀ i, i < 32 → mask.getLsbD i = true → 32 * word + i < 91) (hP : P (run (softWrite r word v mask) s)) :
    SoftResets c s r word v mask P := by
  refine completes_run hexec ⟨hP, fun u hu hbit hsec => ?_⟩
  obtain ⟨i, hi, -, hm, rfl⟩ := mem_softUnits.1 hu
  have hasked := mem_softAsked.2 ⟨hu, hmask i hi hm, hbit, hsec⟩
  by_cases hok : s.softOk (32 * word + i) = true
  · obtain ⟨hset, hin⟩ := softWrite_starts ht (mem_softStarts.2 ⟨hasked, hok⟩)
    rw [softWrite_prog ht] at hin
    rw [if_pos hok]
    exact ⟨hset, hin⟩
  · obtain ⟨hreject, hsoft⟩ := softWrite_refuses ht hasked (Bool.eq_false_iff.2 hok)
    rw [if_neg hok]
    exact ⟨hreject, fun h => hsoft.trans h⟩

/-! ### What the body of a unit leaves, and what it takes -/

/-- The parts that a write of a soft-reset register changes beside the bodies of the units. -/
def softParts : List Part := [.clk, .cnt, .evt, .live, .msi, .occ, .out, .regs]

section
variable {α : Type} {g : State → α} (hg : ∀ s t, Only softParts s t → g t = g s)
include hg

theorem keeps_of_softParts {P : List Part} {R : List Reg} {a : Act} (h : a.Framed P R)
    (hP : (P.all fun x => softParts.contains x) = true := by decide) : a.keeps g := fun s => hg _ _ fun x hx => by
  refine (h.run s).1 x (Bool.eq_false_iff.2 fun hin => ?_)
  rw [List.all_eq_true.1 hP x (List.contains_iff_mem.1 hin)] at hx
  cases hx

theorem clearRegs_keeps_of (u : Nat) : (clearRegs u).keeps g := clearRegs_keeps fun f n v _ => keeps_of_softParts hg (setF_own f n v)

theorem softMark_keeps (u : Nat) (s : State) : (softMark u s).keeps g := keeps_of_softParts hg (softReg_own u _)

/-- After the start of a soft reset stands what its body has left. -/
theorem softBit_reaches {p : α → Prop} {u : Nat} (hu : u ≠ unitNvm) (hbody : ∀ s, p (g (run (softBody u) s))) (s : State) :
    p (g (run (softBit u) s)) := by
  rw [softBit_run, if_neg (fun h => hu h.1), softStart_run, (keeps_of_softParts hg (softReport_framed u)) _,
    (keeps_of_softParts hg (clearCnt_framed u)) _]
  exact hbody _

theorem softBit_keeps {u : Nat} (hbody : (softBody u).keeps g) : (softBit u).keeps g := fun s => by
  rw [softBit_run]
  split_ifs
  · rw [run_acts_cons, run_acts_cons, run_acts_nil, (keeps_of_softParts hg (modClk_framed _)) _, (keeps_of_softParts hg holdPending_framed) _,
      (softMark_keeps hg u s) s]
  · rw [softStart_run, (keeps_of_softParts hg (softReport_framed u)) _, (keeps_of_softParts hg (clearCnt_framed u)) _, hbody,
      (keeps_of_softParts hg (modClk_framed _)) _, (softMark_keeps hg u s) s]

variable {s : State} {r : Req} {word : Nat} (ht : s.takes r (softWriteReg word) 0 = true)
include ht

theorem softWrite_keeps {v mask : Word} (hbody : ∀ u ∈ softUnits word v mask, (softBody u).keeps g) :
    g (run (softWrite r word v mask) s) = g s := by
  have hstarts : (each (s.softStarts (s.asReq r) word v mask) softBit).keeps g :=
    keeps_each fun u hu => softBit_keeps hg (hbody u (softStarts_named hu))
  rw [softWrite_run ht, hstarts, (keeps_of_softParts hg (softRefuse_framed _ _ _ _ _)) _]

end

/-- What the action of one member establishes, and none takes away, holds in the end. -/
theorem each_reaches {β : Type} {f : β → Act} {p : State → Prop} {x : β} {l : List β} (self : ∀ s, p (run (f x) s))
    (keep : ∀ y ∈ l, ∀ s, p s → p (run (f y) s)) (hx : x ∈ l) (s : State) : p (run (each l f) s) := by
  have stays : ∀ (l : List β) (s : State), (∀ y ∈ l, ∀ s, p s → p (run (f y) s)) → p s → p (run (each l f) s) := by
    intro l
    induction l with
    | nil => exact fun _ _ h => h
    | cons y l ih => exact fun s hk h => ih _ (fun z hz => hk z (List.mem_cons_of_mem y hz)) (hk y List.mem_cons_self s h)
  induction l generalizing s with
  | nil => cases hx
  | cons y l ih =>
    have hl := fun z hz => keep z (List.mem_cons_of_mem y hz)
    rw [run_each_cons]
    rcases List.mem_cons.1 hx with rfl | hx
    · exact stays l _ hl (self s)
    · exact ih hl hx _

theorem softWrite_reaches {p : State → Prop} {s : State} {r : Req} {word u : Nat} {v mask : Word}
    (ht : s.takes r (softWriteReg word) 0 = true) (hu : u ∈ s.softStarts (s.asReq r) word v mask) (self : ∀ t, p (run (softBit u) t))
    (keep : ∀ y ∈ softUnits word v mask, ∀ t, p t → p (run (softBit y) t)) : p (run (softWrite r word v mask) s) := by
  rw [softWrite_run ht]
  exact each_reaches self (fun y hy => keep y (softStarts_named hy)) hu _

/-- A unit of CLK_SOFT_RST2 whose bit is written 1, and that the mode permits, starts. -/
theorem softStarts_two {s : State} {rq : Req} {i : Nat} {v mask : Word} (hi : i < 27) (hv : v.getLsbD i = true) (hm : mask.getLsbD i = true)
    (hbit : (s.raw .CLK_SOFT_RST2 0).getLsbD i = false) (hsec : 64 + i = unitSec → secureReq rq = true) (hok : s.softOk (64 + i) = true) :
    64 + i ∈ s.softStarts rq 2 v mask := by
  refine mem_softStarts.2 ⟨mem_softAsked.2 ⟨mem_softUnits.2 ⟨i, by omega, hv, hm, rfl⟩, by omega, ?_, hsec⟩, hok⟩
  rw [softReg_two]
  exact hbit

/-- Where a write names one unit, its start leaves what its body does. -/
theorem softWrite_reaches_single {α : Type} {g : State → α} (hg : ∀ s t, Only softParts s t → g t = g s)
    {p : α → Prop} {s : State} {r : Req} {i : Nat} {v mask : Word} (ht : s.takes r .CLK_SOFT_RST2 0 = true)
    (hmask : ∀ j, j < 32 → mask.getLsbD j = true → j = i) (hn : 64 + i ≠ unitNvm) (hu : 64 + i ∈ s.softStarts (s.asReq r) 2 v mask)
    (hbody : ∀ t, p (g (run (softBody (64 + i)) t))) : p (g (run (softWrite r 2 v mask) s)) :=
  softWrite_reaches (p := fun t => p (g t)) ht hu (softBit_reaches hg hn hbody) fun y hy t _ => by
    rw [softUnits_single hmask hy]
    exact softBit_reaches hg hn hbody t

/-! ### A quarter (R322) -/

/-- The flowlets and the learn FIFO of a quarter. -/
def State.learned (q : Nat) (s : State) := ((s.qtr q).flow, (s.qtr q).fifo)

theorem learned_of_softParts (q : Nat) (s t : State) (h : Only softParts s t) : t.learned q = s.learned q := by
  have hqtrs : t.qtrs = s.qtrs := h .qtrs rfl
  rw [State.learned, State.qtr, hqtrs, State.learned, State.qtr]

theorem modQtr_keeps_learned {k q : Nat} {f : QtrS → QtrS} (h : k = q → ∀ Q, (f Q).flow = Q.flow ∧ (f Q).fifo = Q.fifo) :
    (modQtr k f).keeps (State.learned q) := fun s => by
  rw [State.learned, run_modQtr]
  split_ifs with hk
  · obtain ⟨hflow, hfifo⟩ := h hk.symm (s.qtr k)
    rw [hflow, hfifo, ← hk, State.learned]
  · rfl

theorem keeps_learned_framed {P : List Part} {R : List Reg} {a : Act} (h : a.Framed P R) (q : Nat)
    (hP : P.contains .qtrs = false := by decide) : a.keeps (State.learned q) := fun s => by
  rw [State.learned, h.qtr s q hP, State.learned]

/-- A quarter `q` as its soft reset empties it. -/
def QtrS.emptied (q : Nat) (Q : QtrS) : QtrS :=
  { Q with
    pendL := [], fifo := [], seqNext := 0, flushSet := [], walking := none, flushWait := [], agePos := 0, ageWay := 0, ageWait := false
    ageDue := 0, flow := [], expSeq := ((List.range 4).filter (· != q)).map fun k => (k + 1, 2048) }

/-- What the soft reset of a quarter does after it has emptied the quarter. -/
def softQtrRest (q : Nat) : Act :=
  acts [each ((List.range 4).filter (· != q)) (fun k => modQtr k fun Q => { Q with
      inNotes := Q.inNotes.filter fun n => n.quarter != q, expSeq := tabPut Q.expSeq 0 (q + 1) 0 }),
    modPe fun P => { P with inNotes := P.inNotes.filter fun n => n.quarter != q }, clearRegs (unitQtr q)]

theorem softQtrRest_keeps_learned (q k : Nat) : (softQtrRest q).keeps (State.learned k) :=
  Act.keeps.acts ⟨keeps_each fun _ _ => modQtr_keeps_learned fun _ _ => ⟨rfl, rfl⟩, keeps_learned_framed (modPe_framed _) k,
    clearRegs_keeps_of (learned_of_softParts k) _, trivial⟩

theorem softQtr_run (q : Nat) (s : State) : run (softQtr q) s =
    run (softQtrRest q) (run (modQtr q (·.emptied q)) (run (fillPolicers q) (run (putCopy q { s.copyOf q with
      ways := (s.copyOf q).ways.filter fun e => !e.2.dynMac, stash := (s.copyOf q).stash.filter fun e => !e.2.dynMac }) s))) := by
  rw [softQtr, run_look]
  simp only [softQtrRest, run_acts_cons, run_acts_nil]
  rfl

theorem softQtr_learned (q : Nat) (s : State) : (run (softQtr q) s).learned q = ([], []) := by
  rw [softQtr_run, softQtrRest_keeps_learned, State.learned, run_modQtr_self]
  rfl

theorem softQtr_keeps_learned {k q : Nat} (h : k ≠ q) : (softQtr k).keeps (State.learned q) := fun s => by
  have hapart (f : QtrS → QtrS) : (modQtr k f).keeps (State.learned q) := modQtr_keeps_learned fun hk => absurd hk h
  have hcopy (c : Copy) : (putCopy k c).keeps (State.learned q) :=
    Act.keeps.acts ⟨hapart _, keeps_learned_framed (setF_own _ _ _) q, keeps_learned_framed (setF_own _ _ _) q, trivial⟩
  have hfill : (fillPolicers k).keeps (State.learned q) := keeps_look fun _ => hapart _
  rw [softQtr_run, softQtrRest_keeps_learned, hapart, hfill, hcopy]

theorem softBody_qtr {q : Nat} (h : q < 4) : softBody (64 + (16 + q)) = softQtr q := by
  rw [softBody, if_neg (by omega), dif_neg (by omega), if_pos (by omega), show 64 + (16 + q) - 80 = q by omega]

/-- Each quarter that a write of its bit puts into soft reset is emptied, and none of the others fills it again. -/
theorem softWrite_quarter {s : State} {r : Req} {v : Word} {q : Nat} (ht : s.takes r .CLK_SOFT_RST2 0 = true) (hq : q < 4)
    (hv : v.getLsbD (16 + q) = true) (hbit : (s.raw .CLK_SOFT_RST2 0).getLsbD (16 + q) = false) (hok : s.softOk (unitQtr q) = true) :
    ((run (softWrite r 2 v 0xF0000#32) s).qtr q).flow = [] ∧ ((run (softWrite r 2 v 0xF0000#32) s).qtr q).fifo = [] := by
  have hunit : unitQtr q = 64 + (16 + q) := by rw [unitQtr]; omega
  have hmask : ∀ i, i < 4 → (0xF0000#32).getLsbD (16 + i) = true := by decide
  have hrange : ∀ j, j < 32 → (0xF0000#32).getLsbD j = true → 16 ≤ j ∧ j < 20 := by decide
  have hne : ∀ i, i < 4 → 64 + (16 + i) ≠ unitNvm := fun i hi h => by rw [unitNvm] at h; omega
  have hself (t : State) : (run (softBit (64 + (16 + q))) t).learned q = ([], []) :=
    softBit_reaches (p := (· = ([], []))) (learned_of_softParts q) (hne q hq) (fun u => by rw [softBody_qtr hq, softQtr_learned]) t
  have hmem := softStarts_two (rq := s.asReq r) (by omega) hv (hmask q hq) hbit (fun h => by rw [unitSec] at h; omega) (hunit ▸ hok)
  have hdone : (run (softWrite r 2 v 0xF0000#32) s).learned q = ([], []) := by
    refine softWrite_reaches (p := fun t => t.learned q = ([], [])) ht hmem hself fun y hy t hempty => ?_
    obtain ⟨j, hj, -, hm, rfl⟩ := mem_softUnits.1 hy
    obtain ⟨k, hk, rfl⟩ : ∃ k, k < 4 ∧ j = 16 + k := ⟨j - 16, by have := hrange j hj hm; omega, by have := hrange j hj hm; omega⟩
    by_cases hkq : k = q
    · rw [hkq]
      exact hself t
    · have hbody : (softBody (64 + (16 + k))).keeps (State.learned q) := by
        rw [softBody_qtr hk]
        exact softQtr_keeps_learned hkq
      exact (softBit_keeps (learned_of_softParts q) hbody t).trans hempty
  exact Prod.mk.inj hdone

/-! ### The protocol engine (R322) -/

/-- The state memory, and the messages that wait for Zolliwin. -/
def State.peMemory (s : State) := (s.stm, s.pe.msgq)

theorem peMemory_of_softParts (s t : State) (h : Only softParts s t) : t.peMemory = s.peMemory := by
  have hstm : t.stm = s.stm := h .stm rfl
  have hpe : t.pe = s.pe := h .pe rfl
  rw [State.peMemory, hstm, hpe, State.peMemory]

theorem softPe_peMemory (s : State) : (run softPe s).peMemory = ([], []) := by
  have hrest (l : Tab Bfd) : (acts [each l fun b => modBfd b.1 fun B => { zol := B.zol }, clearRegs unitPe]).keeps State.peMemory :=
    Act.keeps.acts ⟨keeps_each fun _ _ u => rfl, clearRegs_keeps_of peMemory_of_softParts _, trivial⟩
  have hstm (u : State) : (run (.upd (.keep .stm fun _ => false)) u).peMemory = ([], u.pe.msgq) := by
    rw [State.peMemory, run_upd, applyUpd_keep_stm, tabKeep_none]
    rfl
  rw [softPe, run_look, run_acts_cons, run_acts_cons, run_acts_cons, run_acts_cons, run_acts_cons, hrest, hstm, run_modPe]

/-! ### The time unit (R322) -/

theorem deviceTime_of_softParts (s t : State) (h : Only softParts s t) : t.deviceTime = s.deviceTime :=
  congrArg TimeS.acc (show t.time = s.time from h .time rfl)

theorem servoTo_keeps_deviceTime (n : Nat) : (servoTo n).keeps State.deviceTime :=
  keeps_look fun _ => keeps_when (Act.keeps.acts ⟨keeps_when (Act.keeps.acts ⟨fun _ => rfl, fun _ => rfl, trivial⟩), keeps_when fun _ => rfl,
    keeps_deviceTime_framed (setF_own _ _ _), fun _ => rfl, keeps_when fun _ => rfl, keeps_when fun _ => rfl, keeps_when fun _ => rfl,
    keeps_deviceTime_framed (raise_own _ _), fun _ => rfl, trivial⟩)

/-- Device time runs on through a soft reset of the time unit. -/
theorem softTime_keeps_deviceTime : softTime.keeps State.deviceTime :=
  keeps_look fun _ => Act.keeps.acts ⟨servoTo_keeps_deviceTime _, dpllTo_keeps_deviceTime _,
    keeps_each fun _ _ => Act.keeps.acts ⟨keeps_deviceTime_framed (modPort_framed _ _), trivial⟩, fun _ => rfl,
    clearRegs_keeps_of deviceTime_of_softParts _, keeps_each fun _ _ => keeps_deviceTime_framed (syncRecal_framed _), trivial⟩

/-! ### The table DMA (R322, R370) -/

/-- The padlocks of the host and of Zolliwin. -/
def State.locks (s : State) : BitVec 16 × BitVec 16 := (s.dma.lockH, s.dma.lockZ)

theorem locks_of_softParts (s t : State) (h : Only softParts s t) : t.locks = s.locks :=
  congrArg (fun d : DmaS => (d.lockH, d.lockZ)) (show t.dma = s.dma from h .dma rfl)

theorem keeps_locks_framed {P : List Part} {R : List Reg} {a : Act} (h : a.Framed P R) (hP : P.contains .dma = false := by decide) :
    a.keeps State.locks := fun s => congrArg (fun d : DmaS => (d.lockH, d.lockZ)) (h.part .dma s hP)

theorem padRelease_locks (ring : Nat) (s : State) :
    (run (padRelease ring) s).locks = if ring = 0 then (0, s.dma.lockZ) else (s.dma.lockH, 0) := by
  rw [padRelease, run_acts_cons, run_acts_cons, run_acts_nil, (keeps_locks_framed padSync_framed) _, State.locks, run_modDma]
  split_ifs <;> rfl

theorem passBegin_keeps_locks (rebase : Bool) : (passBegin rebase).keeps State.locks :=
  keeps_look fun _ => Act.keeps.acts ⟨fun _ => rfl, keeps_each fun _ _ => keeps_locks_framed (modAisle_framed _ _),
    keeps_locks_framed (setB_own _ _ _), trivial⟩

theorem softDma_locks (s : State) : (run softDma s).locks = (0, 0) := by
  have hrest (b : Bool) : (acts [modDma fun d => { d with buckets := [] }, clearRegs unitDma, padSync, passBegin b]).keeps State.locks :=
    Act.keeps.acts ⟨fun _ => rfl, clearRegs_keeps_of locks_of_softParts _, keeps_locks_framed padSync_framed, passBegin_keeps_locks _, trivial⟩
  have hboth (u : State) : (run (padRelease 1) (run (padRelease 0) u)).locks = (0, 0) := by
    have hhost : (run (padRelease 0) u).dma.lockH = 0 := padRelease_hostLock u
    rw [padRelease_locks, if_neg (by decide), hhost]
  rw [softDma, run_look, run_acts_cons, run_acts_cons, run_acts_cons, run_acts_cons, hrest, hboth]

/-! ### The NVM controller and the security block (R322) -/

theorem nvmMem_of_softParts (s t : State) (h : Only softParts s t) : t.nvmMem = s.nvmMem := h .nvmMem rfl

theorem softNvm_keeps_nvmMem : softNvm.keeps State.nvmMem :=
  Act.keeps.acts ⟨fun s => (modNvm_framed _).nvmMem s, clearRegs_keeps_of nvmMem_of_softParts _, trivial⟩

/-- The measurements. -/
def State.measured (s : State) := s.sec.m

/-- The burn in progress. -/
def State.burning (s : State) := s.sec.otpOp

theorem measured_of_softParts (s t : State) (h : Only softParts s t) : t.measured = s.measured :=
  congrArg SecS.m (show t.sec = s.sec from h .sec rfl)

theorem burning_of_softParts (s t : State) (h : Only softParts s t) : t.burning = s.burning :=
  congrArg SecS.otpOp (show t.sec = s.sec from h .sec rfl)

/-- What the soft reset of the security block does after its engines have stopped. -/
def softSecRest : Act :=
  acts [modTime fun t => { t with tallyQ := [] }, setB F.SEC_STATUS_BUSY 0 false, setB F.SEC_STATUS_READY 0 false,
    setB F.SEC_STATUS_ENTROPY_OK 0 false, setF F.SEC_STATUS_REJECT 0 0, clearRegs unitSec]

theorem softSecRest_sec : softSecRest.keeps fun s => s.sec := by
  have hsec (s t : State) (h : Only softParts s t) : t.sec = s.sec := h .sec rfl
  exact Act.keeps.acts ⟨fun s => (modTime_framed _).sec s, fun s => (setB_own _ _ _).sec s, fun s => (setB_own _ _ _).sec s,
    fun s => (setB_own _ _ _).sec s, fun s => (setF_own _ _ _).sec s, clearRegs_keeps_of hsec _, trivial⟩

theorem sessEnd_keeps_measured (p : Session → Bool) : (sessEnd p).keeps State.measured :=
  keeps_look fun _ => Act.keeps.acts ⟨fun _ => rfl, fun s => congrArg SecS.m (sessSync_framed.sec s),
    keeps_when fun s => congrArg SecS.m ((raise_own _ _).sec s), trivial⟩

/-- The security block as its engines stop. -/
def SecS.stopped (c : SecS) : SecS := { c with otpOp := none, ver := [], chunk := [], trVca := [], trCert := [], trMeas := [] }

theorem softSec_run (s : State) :
    run softSec s = run softSecRest (run (modSec SecS.stopped) (run (sessEnd fun _ => true) (run burnCut s))) := by
  simp only [softSec, softSecRest, run_acts_cons, run_acts_nil]
  rfl

theorem softSec_sec (s : State) : (run softSec s).sec = (run (sessEnd fun _ => true) (run burnCut s)).sec.stopped := by
  rw [softSec_run]
  exact softSecRest_sec _

/-- A burn in progress ends with the soft reset. -/
theorem softSec_burning (s : State) : (run softSec s).burning = none := by
  rw [State.burning, softSec_sec]
  rfl

theorem softSec_keeps_measured : softSec.keeps State.measured := fun s => by
  rw [State.measured, softSec_sec]
  exact (sessEnd_keeps_measured _ _).trans (congrArg SecS.m (burnCut_framed.sec s))

/-! ### The end of a soft reset (R321) -/

theorem softExit_keeps_reset (u : Nat) {r : Reg} (hr : r = .CLK_SOFT_RST0 ∨ r = .CLK_SOFT_RST1 ∨ r = .CLK_SOFT_RST2) (s : State) :
    (run (acts [softExit u, raise F.CLK_EVT_CAUSE_SOFT_RST_DONE 0]) s).raw r 0 = s.raw r 0 := by
  rw [run_acts_cons, run_acts_cons, run_acts_nil]
  obtain rfl | rfl | rfl := hr <;> rw [((raise_own _ _).reg (by decide) _ _).1, ((softExit_framed u).reg (by decide) _ _).1]

theorem softResetDone_effect {s : State} {u : Nat} (hu : u < 91) (hsoft : s.clk.soft.contains u = true) (hready : s.exitReady u = true) :
    let t := run (softResetDone u) s
    t.clk.soft.contains u = false ∧ (t.raw (softReg u).1 0).getLsbD (softReg u).2 = false ∧ t.rawFld F.CLK_EVT_CAUSE_SOFT_RST_DONE 0 = 1 := by
  have hgo : (s.clk.soft.contains u && s.exitReady u) = true := by rw [hsoft, hready]; rfl
  have hclk (w : Word) : (Act.upd (.reg (softReg u).1 0 w)).Framed [.regs] [.CLK_SOFT_RST0, .CLK_SOFT_RST1, .CLK_SOFT_RST2] := softReg_own u w
  dsimp only
  rw [softResetDone, run_look, run_when_eq_true hgo, run_acts_cons, run_acts_cons]
  refine ⟨?_, ?_, ?_⟩
  · rw [run_acts_cons, run_acts_cons, run_acts_nil, (raise_own _ _).clk, (softExit_framed u).clk, (hclk _).clk, run_modClk,
      Bool.eq_false_iff, ne_eq, List.contains_iff_mem]
    simp
  · rw [softExit_keeps_reset u (softReg_cases u), run_upd, raw_reg_self, BitVec.getLsbD_and, BitVec.getLsbD_and, BitVec.getLsbD_not,
      BitVec.getLsbD_ofNat, Nat.testBit_two_pow_self, decide_eq_true (softReg_lt_32 hu)]
    simp
  · rw [run_acts_cons, run_acts_cons, run_acts_nil]
    exact raise_rawFld _ _ _ (by decide) rfl (by decide)

/-- Where the exit is not complete nothing happens. -/
theorem softResetDone_waits {s : State} {u : Nat} (h : s.exitReady u = false) : run (coreDo (softResetDone u)) s = s := by
  have hdone : run (softResetDone u) s = s := by rw [softResetDone, run_look, run_when_eq_false (by rw [h, Bool.and_false])]
  cases hh : s.halted with
  | false => rw [run_coreDo _ _ hh, hdone]
  | true => exact run_coreDo_halted _ _ hh

/-! ### The obligation -/

/-- CLK_SOFT_RST2 has bits 0 to 26. -/
theorem softMask_lt {m : Word} (h : m.toNat < 2 ^ 27) : ∀ i, i < 32 → m.getLsbD i = true → 32 * 2 + i < 91 := fun i _ hm => by
  by_contra hi
  have hlt : m.toNat < 2 ^ i := lt_of_lt_of_le h (Nat.pow_le_pow_right (by decide) (by omega))
  rw [BitVec.getLsbD, Nat.testBit_lt_two_pow hlt] at hm
  cases hm

theorem softBody_pe : softBody (64 + 20) = softPe := by simp [softBody, unitPe]

theorem softBody_dma : softBody (64 + 24) = softDma := by simp [softBody, unitPe, unitTime, unitSwc, unitSch, unitDma]

theorem softBody_sec : softBody (64 + 26) = softSec := by simp [softBody, unitPe, unitTime, unitSwc, unitSch, unitDma, unitNvm]

theorem softReset_pe {s : State} {r : Req} {v : Word} (ht : s.takes r .CLK_SOFT_RST2 0 = true) (hv : v.getLsbD 20 = true)
    (hbit : (s.raw .CLK_SOFT_RST2 0).getLsbD 20 = false) (hok : s.softOk unitPe = true) :
    (run (softWrite r 2 v 0x100000#32) s).peMemory = ([], []) := by
  have hmask : ∀ j, j < 32 → (0x100000#32).getLsbD j = true → j = 20 := by decide
  have hstart : 64 + 20 ∈ s.softStarts (s.asReq r) 2 v 0x100000#32 :=
    softStarts_two (by decide) hv (by decide) hbit (fun h => absurd h (by decide)) hok
  have hbody (t : State) : (run (softBody (64 + 20)) t).peMemory = ([], []) := by rw [softBody_pe, softPe_peMemory]
  exact softWrite_reaches_single (g := State.peMemory) (p := (· = ([], []))) peMemory_of_softParts ht hmask (by decide) hstart hbody

theorem softReset_time {s : State} {r : Req} (v : Word) (ht : s.takes r .CLK_SOFT_RST2 0 = true) :
    (run (softWrite r 2 v 0x200000#32) s).deviceTime = s.deviceTime :=
  softWrite_keeps (word := 2) deviceTime_of_softParts ht fun u hu => by
    rw [softUnits_single (i := 21) (by decide) hu]
    exact softTime_keeps_deviceTime

theorem softReset_dma {s : State} {r : Req} {v : Word} (ht : s.takes r .CLK_SOFT_RST2 0 = true) (hv : v.getLsbD 24 = true)
    (hbit : (s.raw .CLK_SOFT_RST2 0).getLsbD 24 = false) (hok : s.softOk unitDma = true) :
    (run (softWrite r 2 v 0x1000000#32) s).locks = (0, 0) := by
  have hmask : ∀ j, j < 32 → (0x1000000#32).getLsbD j = true → j = 24 := by decide
  have hstart : 64 + 24 ∈ s.softStarts (s.asReq r) 2 v 0x1000000#32 :=
    softStarts_two (by decide) hv (by decide) hbit (fun h => absurd h (by decide)) hok
  have hbody (t : State) : (run (softBody (64 + 24)) t).locks = (0, 0) := by rw [softBody_dma, softDma_locks]
  exact softWrite_reaches_single (g := State.locks) (p := (· = (0, 0))) locks_of_softParts ht hmask (by decide) hstart hbody

theorem softReset_nvm {s : State} {r : Req} (v : Word) (ht : s.takes r .CLK_SOFT_RST2 0 = true) :
    (run (softWrite r 2 v 0x2000000#32) s).nvmMem = s.nvmMem :=
  softWrite_keeps (word := 2) nvmMem_of_softParts ht fun u hu => by
    rw [softUnits_single (i := 25) (by decide) hu]
    exact softNvm_keeps_nvmMem

theorem softReset_sec {s : State} {r : Req} {v : Word} (ht : s.takes r .CLK_SOFT_RST2 0 = true) (hv : v.getLsbD 26 = true)
    (hsec : secureReq (s.asReq r) = true) (hbit : (s.raw .CLK_SOFT_RST2 0).getLsbD 26 = false) (hok : s.softOk unitSec = true) :
    (run (softWrite r 2 v 0x4000000#32) s).burning = none ∧ (run (softWrite r 2 v 0x4000000#32) s).measured = s.measured := by
  have hmask : ∀ j, j < 32 → (0x4000000#32).getLsbD j = true → j = 26 := by decide
  have hstart : 64 + 26 ∈ s.softStarts (s.asReq r) 2 v 0x4000000#32 :=
    softStarts_two (by decide) hv (by decide) hbit (fun _ => hsec) hok
  have hstop (t : State) : (run (softBody (64 + 26)) t).burning = none := by rw [softBody_sec, softSec_burning]
  have hdone := softWrite_reaches_single (g := State.burning) (p := (· = none)) burning_of_softParts ht hmask (by decide) hstart hstop
  refine ⟨hdone, softWrite_keeps (word := 2) measured_of_softParts ht fun u hu => ?_⟩
  rw [softUnits_single hmask hu, softBody_sec]
  exact softSec_keeps_measured

/-- Settles O18: a write starts every unit that it names and that the mode permits, whatever the other bits are; what a unit loses
follows from its body. -/
theorem softResetsRun : Obligations.SoftResetsRun := by
  unfold Obligations.SoftResetsRun
  refine ⟨fun s r w v ht => ?_, fun s r v ht => ⟨softWrite_resets rfl ht (softMask_lt (by decide)) trivial,
    softWrite_resets rfl ht (softMask_lt (by decide)) fun q hq hv hbit hok => softWrite_quarter ht hq hv hbit hok,
    softWrite_resets rfl ht (softMask_lt (by decide)) fun hv hbit hok => Prod.mk.inj (softReset_pe ht hv hbit hok),
    softWrite_resets rfl ht (softMask_lt (by decide)) (softReset_time v ht),
    softWrite_resets rfl ht (softMask_lt (by decide)) trivial, softWrite_resets rfl ht (softMask_lt (by decide)) trivial,
    softWrite_resets rfl ht (softMask_lt (by decide)) fun hv hbit hok => Prod.mk.inj (softReset_dma ht hv hbit hok),
    softWrite_resets rfl ht (softMask_lt (by decide)) (softReset_nvm v ht),
    softWrite_resets rfl ht (softMask_lt (by decide)) fun hv hq hbit hok => softReset_sec ht hv hq hbit hok⟩, fun s u hh hsoft hready => ?_,
    fun s u h => completes_run rfl (softResetDone_waits h)⟩
  · have hreg : s.takes r (softWriteReg w) 0 = true := by
      match w, ht with
      | 0, ht => exact ht
      | 1, ht => exact ht
    exact softWrite_resets rfl hreg (fun i hi _ => by omega) trivial
  · refine completes_run rfl ?_
    rw [run_coreDo _ _ hh]
    exact softResetDone_effect u.isLt hsoft hready

end Sys2Proof.Machine
end
